-- ==== Sys2Proof/Word.lean ====
section
/-! DEFINITION. The word types of the model and their plainest arithmetic. -/

namespace Sys2Proof

/-- One octet of a frame, packet, image or window (R6: most significant byte first). -/
abbrev Byte := BitVec 8

/-- A byte string in transmission order. -/
abbrev Bytes := List Byte

/-- A 32-bit register word. -/
abbrev Word32 := BitVec 32

/-- A skim value in the 16-byte layout of a posted write (R228): 16-byte types whole,
every other type right-aligned. -/
abbrev Val := BitVec 128

/-- The modulus of cycle and skim numbers (R12). -/
abbrev cycleMod : Nat := 4294967296

/-- Addition of cycle numbers, modulo 2^32 (R12). -/
def cycAdd (n k : Nat) : Nat := (n + k) % cycleMod

/-- The distance from cycle `a` to cycle `b`, modulo 2^32 (R12). -/
def cycDiff (b a : Nat) : Nat := (b + cycleMod - a % cycleMod) % cycleMod

/-- Cycle `a` precedes cycle `b` (R12). -/
def cycBefore (a b : Nat) : Bool :=
  1 ≤ cycDiff b a && cycDiff b a ≤ 2147483647

/-- Addition that saturates at an all-ones value (R11). -/
def satAdd (top a k : Nat) : Nat := min top (a + k)

end Sys2Proof
end

