-- ==== Sys2Proof/Syntax.lean ====
section
/-! DEFINITION. The commands of the block: one constructor of `Instr` for each row of
spec/opcode_table.json, in the table's order, with the data the outside world supplies as operands
(the table gives the rows no operand fields; log entry 2). -/

namespace Sys2Proof

/-- The four train-line ports (R16). -/
inductive LinePort where
  | a1 | a2 | b1 | b2
deriving DecidableEq, Repr

/-- The two train-line channels (R15). -/
inductive Line where
  | a | b
deriving DecidableEq, Repr

/-- A train-line or peer-link frame: the header of R46, less its check, and the payload. -/
structure Frame where
  version : Nat
  ftype : Nat
  flags : BitVec 8
  topo : Nat
  cycle : Nat
  srcPos : Nat
  srcUnit : Nat
  line : Nat
  channel : Nat
  seq : Nat
  fragment : Nat
  payload : Bytes
deriving DecidableEq, Repr

/-- A source as a slot gate and a fence name it: position, unit and line (R86). -/
structure Source where
  pos : Nat
  unit : Nat
  line : Nat
deriving DecidableEq, Repr

/-- Which ends the other unit of a vehicle last reported open (R103). -/
structure OpenEnds where
  end1 : Bool
  end2 : Bool
deriving DecidableEq, Repr

/-- One compared lane of the safety complex in a clock (R330): the values of cores A, B and C as one number each, valid bit
first, zero for a lane without an event; what a fault of the comparator inverts on the rails of its agreement signals AB,
BC and CA (R334), two bits each; and the cores whose delay register has a parity error on the lane (R331), A in bit 0. -/
structure LaneCmp where
  a : Nat
  b : Nat
  c : Nat
  ab : BitVec 2
  bc : BitVec 2
  ca : BitVec 2
  parity : BitVec 3 := 0
deriving DecidableEq, Repr

/-- A request parameter item (R448). -/
structure Tlv where
  tag : Nat
  val : Bytes
deriving DecidableEq, Repr

/-- The source of command packets (R446). A train-line session is named by its source channel. -/
inductive Session where
  | host
  | service
  | vehicle (ip port : Nat)
  | line (chan : Nat)
deriving DecidableEq, Repr

/-- A command packet accepted from a session: header fields of R447 and the items of R448.
`flags` holds byte 5; `tag` is the message tag of a train-line packet. -/
structure Packet where
  sess : Session
  cls : Nat
  opcode : Nat
  seq : Nat
  flags : BitVec 8
  items : List Tlv
  check : Nat
  tag : Nat
deriving DecidableEq, Repr

/-- What one tachometer shows over a cycle (R154, R155): its signed count of pulses, the
shortest edge interval in ns (none without two edges), the edge rate in Hz, whether both phases changed
within one clock, and whether an edge was counted. -/
structure TachIn where
  counts : Int
  minInterval : Option Nat
  rate : Nat
  phaseError : Bool
  edge : Bool
deriving DecidableEq, Repr

/-- What the discrete I/O block samples at Ts(n) (R153, R363, R366, R520). Bit k - 1 of a vector is
input or output k. `volt` is "voltage present", `lowCurrent` is load current below 20 mA, `limited` is
the driver in current limit. -/
structure SampleIn where
  hv : BitVec 16
  tach1 : TachIn
  tach2 : TachIn
  volt : BitVec 8
  noVolt : BitVec 8
  lowCurrent : BitVec 8
  limited : BitVec 8
  supply : Nat
  temp : Int
deriving DecidableEq, Repr

/-- How a far device answers one access unit (R235, R245). -/
inductive FarAnswer where
  | ok (data : Bytes)
  | error (detail : Nat)
  | timeout
deriving DecidableEq, Repr

/-- A far object of the carrying ports, by its far key (R213): domain, carrying unit and the address
bytes that name the object. -/
structure FarKey where
  domain : Nat
  unit : Nat
  addr : Bytes
deriving DecidableEq, Repr

/-- A received IPv4 datagram (R271): `frag` a fragment, `sumOk` its header checksum, `echo` an ICMP echo
request; `proto` 17 is UDP, 1 is ICMP. -/
structure IpIn where
  src : Nat
  dst : Nat
  proto : Nat
  frag : Bool
  sumOk : Bool
  echo : Bool
  sport : Nat
  dport : Nat
  payload : Bytes
deriving DecidableEq, Repr

/-- A received TRDP telegram (R272, R273, R276): `kind` is the two-letter message type as a number
(0x5064 Pd, 0x5070 Pp, 0x5072 Pr, 0x4D72 Mr, 0x4D6E Mn, 0x4D70 Mp, 0x4D71 Mq, 0x4D65 Me). -/
structure TrdpIn where
  kind : Nat
  headerOk : Bool
  version : Nat
  etbTopo : Nat
  comId : Nat
  seq : Nat
  src : Nat
  sport : Nat
  replyIp : Nat
  replyComId : Nat
  session : Nat
  resultCode : Nat
  interface : Nat
  dataset : Bytes
deriving DecidableEq, Repr

/-- A response on a device channel as it arrives (R278): source address and ports, and its bytes. -/
structure ChanResp where
  src : Nat
  sport : Nat
  dport : Nat
  data : Bytes
deriving DecidableEq, Repr

/-- A received CAN frame (R302): identifier (bit 31 set for 29 bits), FD flag, length named by the data
length code, the data, and a CRC, stuff or form error. -/
structure CanIn where
  ident : Nat
  fd : Bool
  dlc : Nat
  data : Bytes
  error : Bool
deriving DecidableEq, Repr

/-- A slave frame on an MVB bus as received (R290, R296): address and F-code of the master frame it
answers, its bytes, and what the receiver found. -/
structure MvbIn where
  fcode : Nat
  addr : Nat
  data : Bytes
  checkBad : Bool
  short : Bool
  long : Bool
  inWindow : Bool
  missing : Bool
  lineB : Bool
deriving DecidableEq, Repr

/-- An event as a subsystem reports it to the recorder (R426, R429). -/
structure EventIn where
  code : Nat
  subsystem : Nat
  measure : Int
  payload : Bytes
deriving DecidableEq, Repr

/-- The commands. -/
inductive Instr where
  -- start, reset and supply
  | powerOnReset (upos : BitVec 3) (alarmLost : Bool)
  | bankCheckComplete
  | islandReady
  | lineBRelayOpen (peerLineAUp : Bool)
  | ready
  | scratchTestComplete (failBits : BitVec 8)
  | resetNAsserted
  | resetNReleased
  | managementWatchdogExpiry
  | internalSupplyFail
  | powerFailWarning (supply : Nat)
  | powerRestored
  | holdBusLow
  | safeOffReclose
  | converterOvervoltageStop
  | converterOvertempStop
  | converterRestart (upos : BitVec 3) (alarmLost : Bool)
  | supplyWarnSet
  | supplyWarnClear
  | tempWarnChange (temp : Int)
  | outputFeedLow (feed : Nat)
  | outputFeedRecovered (feed : Nat)
  | currentLimitExpiry (output : Nat)
  | trainLineLinkUp (p : LinePort) (linked rate25 xr master : Bool)
  | trainLineLinkDown (p : LinePort)
  | portUnassignedLink (p : LinePort)
  -- frames at a train-line port
  | frameHeaderReceived (p : LinePort) (hdr : Bytes) (arrival : Int)
  | frameReceived (p : LinePort) (bytes : Bytes) (arrival : Int)
  | slotClose (p : LinePort)
  | duplicateKeyExpiry
  | relayedCopyReceived (f : Frame)
  -- the cycle
  | sampleInstant (inp : SampleIn)
  | outputInstant (n : Nat)
  | cycleStartSend
  | cycleStartDelivered (p : LinePort) (f : Frame) (arrival : Int)
  | cycleStartMissing
  | holdoverEntry
  | coastingEntry
  | scheduleFetchComplete (image : Bytes)
  | scheduleTableActivation
  | joinComplete
  | segmentPhaseOpen (p : LinePort)
  | publicationSlotStart
  | messageWindowStart
  | pollDelivered (p : LinePort) (f : Frame) (arrival : Int)
  | pollReplySend
  | supervisionSlotStart
  | supervisionDelivered (p : LinePort) (f : Frame)
  | leadCycleWorkDone (instant : Int)
  | sourceFenced (p : LinePort) (src : Source)
  | fenceLifted (p : LinePort) (src : Source)
  -- delivered frames
  | publicationDelivered (p : LinePort) (f : Frame)
  | nullDelivered (p : LinePort) (f : Frame)
  | probeDelivered (p : LinePort) (f : Frame)
  | claimDelivered (p : LinePort) (f : Frame)
  | censusRequestDelivered (p : LinePort) (f : Frame)
  | censusReplyDelivered (p : LinePort) (f : Frame) (arrival : Int)
  | numberingDelivered (p : LinePort) (f : Frame)
  | commitDelivered (p : LinePort) (f : Frame)
  | commitAckDelivered (p : LinePort) (f : Frame)
  | joinReportDelivered (p : LinePort) (f : Frame)
  | mergeClaimDelivered (p : LinePort) (f : Frame)
  | delayRequestDelivered (p : LinePort) (f : Frame) (t2 t3 : Int)
  | delayResponseDelivered (p : LinePort) (f : Frame) (t4 : Int)
  | delayResponseTimeout (p : LinePort)
  | messageFrameDelivered (p : LinePort) (f : Frame)
  | postedWriteMessage (f : Frame)
  | readRequestMessage (f : Frame)
  | readResponseMessage (f : Frame)
  | farErrorMessage (f : Frame)
  | announcementMessage (f : Frame)
  | semaphoreMessage (f : Frame)
  | remoteCommandMessage (f : Frame)
  | commandReplyMessage (f : Frame)
  | mirrorFallbackMessage (f : Frame)
  | remotePacketIncomplete (chan tag : Nat)
  -- set-out
  | settleEnd (peer : OpenEnds)
  | probeTimer
  | claimRepeat
  | claimWindowEnd
  | censusReplySend
  | censusRunClose
  | censusRunStart
  | waitingTimeout
  | commitAckSend
  | commitAckTimeout
  | commitCycleAdoption
  | lineBRetrain
  | setoutNoAck
  | leaseLapse (peer : OpenEnds)
  | absorbingTimeout (peer : OpenEnds)
  | vehicleAbsent (pos : Nat)
  | cabActiveChange (active : Bool)
  | boundaryLinkUp (p : LinePort) (claim numbering : Bytes)
  | boundaryOpen
  -- train time and position
  | eventTrainTimeFire (index : Nat)
  | positionInvalid
  | ptpSyncSend (vport : Nat)
  | ptpAnnounceSend (vport : Nat)
  | ptpDelayReqReceived (vport : Nat) (seq : Nat) (requester : Bytes) (arrival : Int)
  | ptpAnnounceReceived (vport : Nat)
  | rtcSet
  -- the skim
  | skimCommit
  | fedCommitTimeout
  | skimReadHeldAnswer
  | skimReadTimeout
  | pinLeaseExpiry (handle : Nat)
  | snapshotCopyComplete
  | routeTableActivation
  -- bridged transactions
  | resultHoldExpiry (tag : Nat)
  | bridgeTimeoutExpiry (tag : Nat)
  | bridgeMarkSend (slot : Nat)
  | senderRecordExpiry (slot seq : Nat)
  | readAheadExpiry (route : Nat)
  | announcementRelease
  | semaphoreLeaseExpiry (sem : Nat)
  | semaphoreWaitExpiry (tag : Nat)
  | farBusLockTaken (port : Nat)
  | farBusLockExpiry (port : Nat)
  | lockWaitExpiry (tag : Nat)
  | farTransactionComplete (key : FarKey) (answer : FarAnswer)
  -- the vehicle network
  | vportLinkUp (v : Nat) (speed : Nat) (fullDuplex mdix master : Bool)
  | vportLinkDown (v : Nat)
  | vehicleFrameReceived (v : Nat) (bytes : Bytes) (bad : Bool)
  | macEntryAgeing (vlan mac : Nat)
  | gateEntryBoundary (v : Nat)
  | gateListActivation (v : Nat)
  | arpRequestReceived (iface senderIp senderMac targetIp : Nat)
  | arpReplyReceived (iface senderIp senderMac : Nat)
  | arpRetryTimer (iface ip : Nat)
  | arpEntryAgeing (iface ip : Nat)
  | gratuitousArpRepeat (iface : Nat)
  | ipDatagramReceived (iface : Nat) (d : IpIn)
  | trdpPublish (index : Nat)
  | trdpPrReceived (t : TrdpIn)
  | trdpPdReceived (t : TrdpIn)
  | trdpMrReceived (t : TrdpIn)
  | trdpMnReceived (t : TrdpIn)
  | trdpReplyReceived (t : TrdpIn)
  | trdpReplyTimeout (session : Nat)
  | channelCyclicRequest (ch : Nat)
  | channelResponseReceived (ch : Nat) (r : ChanResp)
  | channelReplyTimeout (ch : Nat)
  | channelOnDemandSend (ch : Nat)
  | channelFaultedPoll (ch : Nat)
  | channelResolved (ch : Nat)
  | ringDescriptorReturn (chan count : Nat)
  | stagingTimeout
  -- field buses
  | mvbBasicPeriod (port : Nat)
  | mvbMasterFrameReceived (port fcode addr : Nat) (checkOk : Bool)
  | mvbSlaveFrameReceived (port : Nat) (m : MvbIn)
  | serialBusCycleStart (port : Nat)
  | serialTransactionHanded (port : Nat)
  | canPortStart (c : Nat)
  | canFrameReceived (c : Nat) (m : CanIn)
  | pdoReceived (c cobId : Nat) (data : Bytes)
  | heartbeatReceived (c node state : Nat)
  | heartbeatTimeout (c node : Nat)
  | bootWaitExpiry (c node : Nat)
  | sdoResponseReceived (c node : Nat) (data : Bytes)
  | sdoTimeout (c node : Nat)
  | emcyReceived (c node : Nat) (data : Bytes)
  | syncProduce (c : Nat)
  | heartbeatProduce (c : Nat)
  | canBusOff (c : Nat)
  | busOffRecovery (c : Nat)
  -- floats: `k` is the float that executes the instruction at its program counter
  | fNop (k : Nat)
  | fLdi (k : Nat)
  | fLdh (k : Nat)
  | fMov (k : Nat)
  | fAdd (k : Nat)
  | fAddi (k : Nat)
  | fSub (k : Nat)
  | fAnd (k : Nat)
  | fOr (k : Nat)
  | fXor (k : Nat)
  | fShl (k : Nat)
  | fShr (k : Nat)
  | fLd (k : Nat)
  | fSt (k : Nat)
  | fLdb (k : Nat)
  | fStb (k : Nat)
  | fCmp (k : Nat)
  | fCmpi (k : Nat)
  | fTmr (k : Nat)
  | fTta (k : Nat)
  | fPta (k : Nat)
  | fWait (k : Nat)
  | fIn (k : Nat)
  | fOut (k : Nat)
  | fTget (k : Nat)
  | fTput (k : Nat)
  | fTend (k : Nat)
  | fCrc (k : Nat)
  | fFault (k : Nat)
  | fTime (k : Nat)
  | fBr (k : Nat)
  | fLoop (k : Nat)
  | floatRestart (k : Nat)
  | floatTimerExpiry (k : Nat)
  | lineSilence (port : Nat)
  | serialByteReceived (port : Nat) (byte : Byte) (parityErr framingErr : Bool)
  | transmitDrained (port : Nat)
  | trainTimeTargetReached (k : Nat)
  | programTakeForce (target : Nat)
  -- the safety complex and the discrete I/O
  -- the lanes in the order of their codes; parity errors in the delay registers of cores A, B, C by lane, A in bit 0
  | minorityDetected (core : Nat) (lane : List LaneCmp) (clock : Nat) (parity : List (BitVec 3))
  | noMajority (lane : List LaneCmp) (clock : Nat) (parity : List (BitVec 3))
  | comparatorFault (lane : List LaneCmp) (clock : Nat)
  | checkpointWriteComplete
  | resyncComplete (selfCheckOk : Bool)
  | restartComplete
  | tcmScrub (core : Nat) (addr : Nat) (outcome : Nat)
  | replayComplete (mismatch : Bool) (count lane : Nat)
  | inputComparatorDisagree (input : Nat)
  | inputFaultClear (input : Nat)
  | outputPulseTest (output : Nat) (readsOff : Bool)
  -- pairs and stacks
  | controlRecordReceived (unit : Nat) (unitId : Nat) (cycle : Nat) (content : Bytes)
  | commitMarkReceived (content : Bytes)
  | safetyStateRecord (skim part parts : Nat) (content : Bytes)
  | outputImageRecord (skim part parts : Nat) (content : Bytes)
  | writesAndForcesRecord (skim part parts : Nat) (content : Bytes)
  | portTrafficRecord (fromUnit skim part parts : Nat) (content : Bytes)
  | peerSegmentDown (seg : Nat)
  | interlockReadingChange (ilkIn ownLoop : Nat)
  | interlockSettle
  | ilkFaultSet
  | ilkFaultClear
  | roleWatchdogExpiry
  | roleTakeover
  | handoverSwitch
  | switchback
  | grantExpiry
  | hawkFence
  | hawkClaim
  | hawkTake
  | hawkRelease
  | coldTakeoverEnd
  | gapRepeatEnd
  -- sleep and wake
  | wakePulseQualified (p : LinePort)
  | wakePulseEnd
  | refractoryEnd
  | wakeWireStuck (p : LinePort)
  | wakeWireReleased (p : LinePort)
  | tc10WakeReceived (link : Nat)
  | tc10SleepTimeout (link : Nat)
  | wakeInputActive (input : Nat)
  | alarmFire (index : Nat)
  | alarmHoldEnd (index : Nat)
  | commandHoldEnd
  | pointOfNoReturn
  | sleepEntry
  | sleepEntryComplete
  | falseWake
  | wakeSourceUnmasked (source : Nat)
  | wakeInputStuck (input : Nat)
  | wakeInputUnstuck (input : Nat)
  | lineKeepingEntry
  | lineKeepingExit (source : Nat)
  | maxAwakeExpiry
  -- recorder and sessions
  | eventReported (e : EventIn)
  | tokenRefill (code : Nat)
  | recorderFlush (writeOk : Bool)
  | recorderDegraded
  | summaryPeriodEnd
  | sessionIdle (sess : Session)
  | transferIdle (kind target : Nat)
  | replyKeepExpiry (sess : Session) (seq : Nat)
  -- opcodes
  | opIdentity (p : Packet)
  | opStatus (p : Packet)
  | opTime (p : Packet)
  | opSkimRead (p : Packet)
  | opSkimWrite (p : Packet)
  | opSkimDescriptor (p : Packet)
  | opPinTake (p : Packet)
  | opPinRenew (p : Packet)
  | opPinRelease (p : Packet)
  | opForce (p : Packet)
  | opForceRelease (p : Packet)
  | opSnapshotTake (p : Packet)
  | opSnapshotRead (p : Packet)
  | opSnapshotLock (p : Packet)
  | opSnapshotUnlock (p : Packet)
  | opRouteRead (p : Packet)
  | opRouteEdit (p : Packet)
  | opRouteStatus (p : Packet)
  | opRouteTransferBegin (p : Packet)
  | opRouteTransferChunk (p : Packet)
  | opRouteTransferFinish (p : Packet)
  | opRouteDiscardStaged (p : Packet)
  | opCycleStatus (p : Packet)
  | opScheduleRead (p : Packet)
  | opStep (p : Packet)
  | opEventRead (p : Packet)
  | opScheduleEventTransferBegin (p : Packet)
  | opScheduleEventTransferChunk (p : Packet)
  | opScheduleEventTransferFinish (p : Packet)
  | opSetoutTable (p : Packet)
  | opSetoutStatus (p : Packet)
  | opRenumber (p : Packet)
  | opFarNumbering (p : Packet)
  | opPowerStatus (p : Packet)
  | opStayAwake (p : Packet)
  | opWakeAll (p : Packet)
  | opAlarmRead (p : Packet)
  | opAlarmWrite (p : Packet)
  | opHoldersRead (p : Packet)
  | opHoldersClear (p : Packet)
  | opPairStatus (p : Packet)
  | opHandover (p : Packet)
  | opRoleGrant (p : Packet)
  | opSafeStatusRead (p : Packet)
  | opMismatchLog (p : Packet)
  | opComplexReset (p : Packet)
  | opOutputFaultClear (p : Packet)
  | opEquationStatus (p : Packet)
  | opEquationTransferBegin (p : Packet)
  | opEquationTransferChunk (p : Packet)
  | opEquationTransferFinish (p : Packet)
  | opRecorderRead (p : Packet)
  | opRecorderStats (p : Packet)
  | opRecorderStatus (p : Packet)
  | opImageStatus (p : Packet)
  | opImageTransferBegin (p : Packet)
  | opImageTransferChunk (p : Packet)
  | opImageTransferFinish (p : Packet)
  | opImageActivate (p : Packet)
  | opImageRollback (p : Packet)
  | opKeyEnrol (p : Packet)
  | opVportStatus (p : Packet)
  | opChannelRead (p : Packet)
  | opChannelWrite (p : Packet)
  | opProfileGateTransferBegin (p : Packet)
  | opProfileGateTransferChunk (p : Packet)
  | opProfileGateTransferFinish (p : Packet)
  | opFieldStatus (p : Packet)
  | opCanopenNodes (p : Packet)
  | opSerialProgramTransferBegin (p : Packet)
  | opSerialProgramTransferChunk (p : Packet)
  | opSerialProgramTransferFinish (p : Packet)
  | opPostedWrite (p : Packet)
  | opRead (p : Packet)
  | opRetry (p : Packet)
  | opLockedSequence (p : Packet)
  | opSemaphore (p : Packet)
  | opEndpointOpen (p : Packet)
  | opEndpointClose (p : Packet)
  | opErrorLog (p : Packet)
  | opRemoteCommand (p : Packet)
  | opRegisterRead (p : Packet)
  | opRegisterWrite (p : Packet)
  | opCx320Counters (p : Packet)
  | opSplitEnter (p : Packet)
  | opSplitLeave (p : Packet)
  | opCoreHalt (p : Packet)
  | opCoreStep (p : Packet)
  | opCoreRun (p : Packet)
  | opCoreRead (p : Packet)
  | opCoreWrite (p : Packet)
  | opReplay (p : Packet)
  -- host port
  | cmdCtrlWrite (w : Word32)
  | replyCtrlWrite (w : Word32)
  | intStatusWrite (w : Word32)
  | intMaskWrite (w : Word32)
  | trainTimeHiRead
  | rcFieldRead (address : Nat)
  | w1cBitWrite (address : Nat) (w : Word32)
  | hostRingReadIndexWrite (w : Word32)
  | hostRegisterWrite (command : Word32) (words : List Word32) (partialWord : Bool)
  -- presence and images
  | maintButtonPress
  | maintButtonRelease (heldMs : Nat)
  | maintWindowClose
  | maintJumperFitted
  | maintJumperRemoved
  | presenceRawChange (sealOpen debugFitted : Bool)
  | sealOpened
  | sealClosed
  | debugJumperFitted
  | debugJumperRemoved
  | presenceInputFault (input : Nat)
  | presenceFaultLift (input : Nat)
  | trialConfirmed
  | trialTimeout
  -- the service port
  | monitorLine
  | monHelp
  | monBaud (rate : Nat)
  | monPacket
  | packetModeFrame (bytes : Bytes)
  | packetByteTimeout
  | packetModeEnd
  | peerSegmentLinkUp (seg : Nat) (master : Bool)
  | resetCommand
  | noFirmwareLine
  | monitorCharacterReceived (b : Byte)
deriving DecidableEq, Repr

end Sys2Proof
end

