-- ==== Sys2Proof/Decode.lean ====
section
/-! DEFINITION. The command that a word spells. Every row of spec/opcode_table.json has an empty list of
fields: the table gives no row bits, so no word spells a command (log entry 5). -/

namespace Sys2Proof

/-- No row of the table has bits. -/
def decodeTableWord (nbits w : Nat) : Option Instr :=
  let _ := nbits
  let _ := w
  none

end Sys2Proof
end

