-- ==== Sys2Proof/Config.lean ====
section
/-! DEFINITION. What an implementation or an outside standard fixes and the spec leaves without a
value the model could compute: free values and named external functions. None has a body that a proof
could see. -/

namespace Sys2Proof.Config

/-- The k-th free value: an unstated or undefined value after which the node goes on.
The state counts the free values taken (`State.freeCount`). Log entry 6. -/
opaque freeValue : Nat → BitVec 32

/-- The k-th free truth value. Log entry 6. -/
opaque freeBit : Nat → Bool

/-- SHA-256 (FIPS 180-4) of an image body, which R484 and R487 name without restating. Log entry 7. -/
opaque sha256 : Bytes → Bytes

/-- Ed25519 verification (RFC 8032): key, signed bytes, signature. R484, R487 and R491 name it
without restating it. Log entry 7. -/
opaque ed25519 : Bytes → Bytes → Bytes → Bool

/-- The signature of the factory's firmware image (log entry 9). -/
opaque factorySignature : Bytes

/-- The public key of Spaviale with a fixed index 0 to 3 (R483, R484). Log entry 7. -/
opaque spavialeKey : Nat → Bytes

/-- The k-th free byte string. Log entry 199. -/
opaque freeBytes : Nat → Bytes

/-- The golden image of the safety complex's cores by offset: firmware and equation table (R344). Log entry 199. -/
opaque goldenByte : Nat → Byte

/-- What an address of the safety complex's cores names, and at which offset: 0 TCM, 1 the shared safety store, 2 an output
register, 3 and more the other windows of the shared read port. The spec gives no map of them. Log entry 199. -/
opaque safeTarget : Nat → Nat × Nat

/-- The ns that a poll of an MVB port takes, by its F-code: the frame and reply times of IEC 61375-3-1, which R294 names without
restating them. Log entry 194. -/
opaque mvbPollNs : Nat → Nat

end Sys2Proof.Config
end

