-- ==== Sys2Proof/Machine/Base.lean ====
section
/-! DEFINITION. Byte order, check values, bit fields and the plain containers that the parts of the state use. -/

namespace Sys2Proof.Machine

/-! ### Bytes, most significant first (R6) -/

/-- The number that a byte string spells, most significant byte first (R6). -/
def beNat (b : Bytes) : Nat := b.foldl (fun a x => a * 256 + x.toNat) 0

/-- The low `k` bytes of `v`, most significant first (R6). -/
def be : Nat → Nat → Bytes
  | 0, _ => []
  | k + 1, v => BitVec.ofNat 8 (v / 256 ^ k) :: be k v

/-- `k` bytes of a signed number, two's complement (R5). -/
def beInt (k : Nat) (v : Int) : Bytes := be k (v % (256 ^ k : Nat)).toNat

/-- The signed number that a byte string spells (R5). -/
def beSigned (b : Bytes) : Int :=
  let v := beNat b
  if 2 * v < 256 ^ b.length then v else (v : Int) - (256 ^ b.length : Nat)

/-- `k` bytes from offset `o`. -/
def bslice (b : Bytes) (o k : Nat) : Bytes := (b.drop o).take k

/-- The number in the `k` bytes at offset `o`. -/
def field (b : Bytes) (o k : Nat) : Nat := beNat (bslice b o k)

/-- `k` zero bytes. -/
def zeros (k : Nat) : Bytes := List.replicate k 0

/-- `b` cut or padded with zeros to `k` bytes. -/
def fit (b : Bytes) (k : Nat) : Bytes := b.take k ++ zeros (k - b.length)

/-- `b` with `v` written over the bytes from offset `o` (bytes past the end are dropped). -/
def splice (b : Bytes) (o : Nat) (v : Bytes) : Bytes :=
  b.take o ++ (v.take (b.length - o)) ++ b.drop (o + v.length)

/-- A text as bytes. -/
def text (s : String) : Bytes := s.toList.map (fun c => BitVec.ofNat 8 c.toNat)

/-- Bits `hi` to `lo` of a number. -/
def bits (v hi lo : Nat) : Nat := v / 2 ^ lo % 2 ^ (hi + 1 - lo)

/-- Bit `k` of a number. -/
def bitOf (v k : Nat) : Bool := v / 2 ^ k % 2 == 1

/-- A truth value as a bit. -/
def b2n (b : Bool) : Nat := if b then 1 else 0

/-- A word with bit `k` set or cleared. -/
def setBit {w : Nat} (v : BitVec w) (k : Nat) (x : Bool) : BitVec w :=
  if x then v ||| BitVec.ofNat w (2 ^ k) else v &&& ~~~(BitVec.ofNat w (2 ^ k))

/-- A word with bits `hi` to `lo` replaced. -/
def setField {w : Nat} (v : BitVec w) (hi lo x : Nat) : BitVec w :=
  (v &&& ~~~(BitVec.ofNat w ((2 ^ (hi + 1 - lo) - 1) * 2 ^ lo))) |||
    BitVec.ofNat w ((x % 2 ^ (hi + 1 - lo)) * 2 ^ lo)

/-- A word with the write-1-to-clear bits of `mask` that `w` writes as 1 cleared (R9). -/
def w1c {k : Nat} (v mask w : BitVec k) : BitVec k := v &&& ~~~(mask &&& w)

/-! ### Check values -/

/-- One byte of a CRC that shifts left in `w` bits. -/
def crcLeftByte (w poly : Nat) (c : Nat) (x : Byte) : Nat :=
  let step := fun c (_ : Nat) =>
    let d := (c * 2) % 2 ^ w
    if c / 2 ^ (w - 1) % 2 = 1 then d ^^^ poly else d
  (List.range 8).foldl step (c ^^^ (x.toNat * 2 ^ (w - 8)))

/-- One byte of a CRC that shifts right, with the reversed polynomial `poly`. -/
def crcRightByte (poly : Nat) (c : Nat) (x : Byte) : Nat :=
  let step := fun c (_ : Nat) => if c % 2 = 1 then (c / 2) ^^^ poly else c / 2
  (List.range 8).foldl step (c ^^^ x.toNat)

/-- The header check of a frame: CRC-16, polynomial 0x1021, initial value 0xFFFF (R46). -/
def crc16 (b : Bytes) : Nat := b.foldl (crcLeftByte 16 0x1021) 0xFFFF

/-- The CRC-32 of IEEE 802.3 (R46, R447). -/
def crc32 (b : Bytes) : Nat := (b.foldl (crcRightByte 0xEDB88320) 0xFFFFFFFF) ^^^ 0xFFFFFFFF

/-- CRC-32C, of the safety trailer (R362). -/
def crc32c (b : Bytes) : Nat := (b.foldl (crcRightByte 0x82F63B78) 0xFFFFFFFF) ^^^ 0xFFFFFFFF

/-! ### Containers -/

/-- A sparse table by number, rising keys. -/
abbrev Tab (α : Type) := List (Nat × α)

namespace Tab

def get? {α : Type} (t : Tab α) (k : Nat) : Option α := (t.find? (fun p => p.1 == k)).map (·.2)

def getD {α : Type} (t : Tab α) (k : Nat) (d : α) : α := (Tab.get? t k).getD d

def set {α : Type} : Tab α → Nat → α → Tab α
  | [], k, v => [(k, v)]
  | (a, x) :: t, k, v =>
    if k < a then (k, v) :: (a, x) :: t
    else if k = a then (k, v) :: t
    else (a, x) :: Tab.set t k v

def erase {α : Type} (t : Tab α) (k : Nat) : Tab α := t.filter (fun p => p.1 != k)

def adj {α : Type} (t : Tab α) (k : Nat) (d : α) (f : α → α) : Tab α := Tab.set t k (f (Tab.getD t k d))

def has {α : Type} (t : Tab α) (k : Nat) : Bool := t.any (fun p => p.1 == k)

end Tab

/-- One value for each train-line port. -/
structure Ports (α : Type) where
  a1 : α
  a2 : α
  b1 : α
  b2 : α
deriving DecidableEq, Repr

namespace Ports

def get {α : Type} (t : Ports α) : LinePort → α
  | .a1 => t.a1 | .a2 => t.a2 | .b1 => t.b1 | .b2 => t.b2

def set {α : Type} (t : Ports α) (p : LinePort) (v : α) : Ports α :=
  match p with
  | .a1 => { t with a1 := v } | .a2 => { t with a2 := v }
  | .b1 => { t with b1 := v } | .b2 => { t with b2 := v }

def adj {α : Type} (t : Ports α) (p : LinePort) (f : α → α) : Ports α := Ports.set t p (f (Ports.get t p))

def all {α : Type} (v : α) : Ports α := ⟨v, v, v, v⟩

def map {α β : Type} (t : Ports α) (f : LinePort → α → β) : Ports β :=
  ⟨f .a1 t.a1, f .a2 t.a2, f .b1 t.b1, f .b2 t.b2⟩

end Ports

/-- The four ports in the order of their register blocks (R62). -/
def allPorts : List LinePort := [.a1, .a2, .b1, .b2]

/-- The line a port belongs to (R16). -/
def portLine : LinePort → Line
  | .a1 => .a | .a2 => .a | .b1 => .b | .b2 => .b

/-- The end of the vehicle a port faces, 1 or 2 (R16). -/
def portEnd : LinePort → Nat
  | .a1 => 1 | .a2 => 2 | .b1 => 1 | .b2 => 2

/-- The port at the other end of the same line (R40). -/
def otherEnd : LinePort → LinePort
  | .a1 => .a2 | .a2 => .a1 | .b1 => .b2 | .b2 => .b1

/-- The number of a port: A1 0, A2 1, B1 2, B2 3. -/
def portNo : LinePort → Nat
  | .a1 => 0 | .a2 => 1 | .b1 => 2 | .b2 => 3

/-- The number of a line in a frame header: A 0, B 1 (R46). -/
def lineNo : Line → Nat
  | .a => 0 | .b => 1

/-! ### Memories: cells in one canonical form -/

/-- A byte memory: addresses strictly rising, no cell equal to what an unlisted address reads as (0). -/
abbrev Mem := List Host.Cell

namespace Mem

/-- Reads one byte; an unlisted address reads 0. -/
def read (m : Mem) (a : Nat) : Byte := ((m.find? (fun c => c.1 == a)).map (·.2)).getD 0

/-- Writes one byte and keeps the canonical form. -/
def write : Mem → Nat → Byte → Mem
  | [], a, v => if v = 0 then [] else [(a, v)]
  | (b, x) :: m, a, v =>
    if a < b then (if v = 0 then (b, x) :: m else (a, v) :: (b, x) :: m)
    else if a = b then (if v = 0 then m else (a, v) :: m)
    else (b, x) :: Mem.write m a v

/-- `k` bytes from `a`. -/
def readN (m : Mem) (a k : Nat) : Bytes := (List.range k).map (fun i => Mem.read m (a + i))

/-- A byte string written from `a` upwards. -/
def writeN (m : Mem) (a : Nat) (b : Bytes) : Mem :=
  match b with
  | [] => m
  | x :: t => Mem.writeN (Mem.write m a x) (a + 1) t

/-- The canonical form: addresses strictly rising and no cell holding 0. -/
def wf : Mem → Bool
  | [] => true
  | [(_, x)] => x != 0
  | (a, x) :: (b, y) :: m => x != 0 && a < b && Mem.wf ((b, y) :: m)

end Mem

/-- The first element equal to `x` removed, if there is one. -/
def dropOne {α : Type} [DecidableEq α] (x : α) : List α → List α
  | [] => []
  | y :: t => if x = y then t else y :: dropOne x t

/-- The last `k` elements. -/
def lastN {α : Type} (k : Nat) (l : List α) : List α := l.drop (l.length - k)

end Sys2Proof.Machine
end

