-- ==== Sys2Proof/Machine/StSkim.lean ====
section
/-! DEFINITION. The state of the skim engine and the store controller (spec file 06). -/

namespace Sys2Proof.Machine

/-- The quality codes, 0 to 7 (R176). -/
inductive Quality where
  | good | stale | notReady | invalid | writeFailed | substituted | forced | holdover
deriving DecidableEq, Repr

/-- A signal's entry in a skim: value, quality, refresh skim (none if never refreshed), the skim of the last
recorded change of value or quality, and the width code of the last element received. -/
structure SigCell where
  val : Val
  quality : Quality
  refresh : Option Nat
  changed : Option Nat
  width : Option Nat
deriving DecidableEq, Repr

/-- The classes of a dictionary definition (R172). -/
inductive SigClass where
  | input | application | safety
deriving DecidableEq, Repr

/-- A dictionary definition (R172): `typ` is a code of R171. -/
structure SigDef where
  first : Nat
  count : Nat
  typ : Nat
  cls : SigClass
  hot : Bool
  subst : Val
deriving DecidableEq, Repr

/-- An entry of the publication list (R174). -/
structure PubEntry where
  first : Nat
  count : Nat
  modulus : Nat
  phase : Nat
deriving DecidableEq, Repr

/-- A skim's descriptor (R182). -/
structure SkimDesc where
  skim : Nat
  topo : Nat
  sampleTime : Int
  commitTime : Int
  flags : Nat
  missing : Nat
deriving DecidableEq, Repr

/-- The image of one skim: the entries that are not `NOT_READY` since the node started, by signal id. -/
abbrev Image := Tab SigCell

/-- A retained skim (R185): its descriptor, its image, the slots bound at it and bound before it (R184), and those bound
slots whose missing run has reached 64 since they were bound: what never came of them is `INVALID` (R180). -/
structure SkimRec where
  desc : SkimDesc
  image : Image
  bound : List Nat
  ever : List Nat
  gone : List Nat
deriving DecidableEq, Repr

/-- A pin (R187). `kept` is the skim it names; none once the pin is broken. -/
structure Pin where
  handle : Nat
  skim : Nat
  kept : Option SkimRec
  lease : Nat
deriving DecidableEq, Repr

/-- A force (R191): the presence inputs whose windows were open at its acceptance and grant maintain or
higher (0 button, 1 MAINT jumper, 2 SEAL loop, 3 DEBUG jumper; R482). -/
structure Force where
  id : Nat
  val : Val
  windows : List Nat
  /-- the first cycle whose sample set it may enter (R192) -/
  cycle : Option Nat
deriving DecidableEq, Repr

/-- An accepted write that waits for its sample instant (R192): from an event table entry, with its index,
or from a skim or bridged write, with the first cycle whose sample set it may enter, and for a bridged write the
initiator and tag that its failure is told (R237). -/
structure StagedWrite where
  id : Nat
  val : Val
  event : Option Nat
  cycle : Option Nat
  writer : Option (Nat × Nat)
deriving DecidableEq, Repr

/-- A value with its quality, as sampled or staged. -/
structure QVal where
  id : Nat
  val : Val
  quality : Quality
deriving DecidableEq, Repr

/-- The sample set of one Ts (R95). `direct` are its writes, forces and safety results, which enter the own
skim whether or not they are published (R192, R193). -/
structure SampleSet where
  n : Nat
  vals : List QVal
  direct : List QVal
deriving DecidableEq, Repr

/-- An OUT route's value of one skim, staged for To (R194): route index, the entry it is driven under, and the
raw value. -/
structure StagedOut where
  route : Nat
  entry : Bytes
  raw : Nat
deriving DecidableEq, Repr

/-- A publication frame's records delivered for a slot in the cycle being built (R179). -/
structure SlotBuild where
  slot : Nat
  frames : List Nat
  last : Option Nat
  null : Bool
  elems : List (Nat × Nat × Val × Quality)
  /-- signals whose element had another width (R173) -/
  bad : List Nat
deriving DecidableEq, Repr

/-- A held read of the next skim (R184). -/
structure HeldRead where
  packet : Packet
  skim : Nat
  until_ : Nat
deriving DecidableEq, Repr

/-- The history snapshot (R189): none, copying, complete, with its lock and its bytes. -/
structure Snapshot where
  state : Nat
  locked : Bool
  skim : Nat
  desc : Option SkimDesc
  image : Image
  recs : List SkimRec
deriving DecidableEq, Repr

/-- The skim engine. -/
structure SkimSt where
  /-- retained skims, newest first (R185) -/
  retained : List SkimRec
  /-- the image from which the next skim starts after the window was discarded (R197, R198) -/
  base : Image
  /-- slots that have ever been bound, with the UUID bound to each in the latest commit -/
  bound : Tab Nat
  everBound : List Nat
  missing : Tab Nat
  /-- bound slots whose missing run has reached 64 since they were bound (R180) -/
  gone : List Nat
  building : List SlotBuild
  pins : List Pin
  /-- handles that may not be issued again before an instant (R187) -/
  freed : List (Nat × Nat)
  nextHandle : Nat
  snapshot : Snapshot
  copyPin : Option Nat
  forces : List Force
  writes : List StagedWrite
  /-- standing values of written `APPLICATION` signals -/
  standing : Tab Val
  /-- signals of the own slot marked `WRITE_FAILED` (R237) -/
  failed : List Nat
  /-- initiator and tag of the posted write whose value is in force, until its failure is reported (R237) -/
  writers : Tab (Nat × Nat)
  /-- the skim in which the latest written value first appears, and the writer of the value before it, whose far write may
  still be under way (R237) -/
  writerFrom : Tab Nat
  writersBefore : Tab (Nat × Nat)
  samples : List SampleSet
  /-- safety results waiting for the first skim m with Ts(m) ≥ To(n) (R193): m, n and the values -/
  results : List (Nat × Nat × List QVal)
  /-- staged outputs by skim (R194) -/
  staging : List (Nat × List StagedOut)
  /-- the skim whose outputs were applied last, with its outputs (R194) -/
  applied : Option (Nat × List StagedOut)
  held : List HeldRead
  /-- signals logged with `TYPE_MISMATCH`, each with its topology counter (R173) -/
  mismatched : List (Nat × Nat)
  restarted : Bool
  /-- version records by skim, newest first, of the window and of what pins need (R188) -/
  history : List (Nat × Nat)
  /-- the latest cycles at whose Ts the timebase was `HOLDOVER` (R182) -/
  holdoverAt : List Nat
deriving DecidableEq, Repr

def SkimSt.init : SkimSt :=
  { retained := [], base := [], bound := [], everBound := [], missing := [], gone := [], building := [], pins := [], freed := [],
    nextHandle := 1, snapshot := ⟨0, false, 0, none, [], []⟩, copyPin := none, forces := [], writes := [],
    standing := [], failed := [], writers := [], writerFrom := [], writersBefore := [], samples := [], results := [], staging := [], applied := none, held := [], mismatched := [],
    restarted := false, history := [], holdoverAt := [] }

end Sys2Proof.Machine
end

