-- ==== Sys2Proof/Machine/StBridge.lean ====
section
/-! DEFINITION. The state of routes, message queues and bridged transactions (spec files 07 and 08). -/

namespace Sys2Proof.Machine

/-- A route table in force or staged (R217): entries are the 32-byte entries by index (R199). -/
structure RouteTable where
  tableId : Nat
  count : Nat
  check : Nat
  activation : Nat
  entries : Tab Bytes
deriving DecidableEq, Repr

/-- What the node keeps for a route (R212, R210, R211, R208): the last raw value driven, the last raw value
written, whether its last write failed, the topology counters of its latest clip and deferral logs. -/
structure RouteSt where
  driven : Option Nat
  rawWritten : Option Nat
  failed : Bool
  clipped : Option Nat
  deferred : Option Nat
  lastIn : Option Val
deriving DecidableEq, Repr

/-- A far object's latest complete image (R153, R211): its bytes, and whether its source is fresh. `stamp` is the train time at
which it was complete, `earlier` the image before that instant with its own; `marked` and `freshBefore` tell the same of the
freshness that a bus cycle's end sets (R275, R289, R299). -/
structure FarImage where
  key : FarKey
  data : Bytes
  fresh : Bool
  at_ : Nat
  stamp : Int
  earlier : Option (Bytes × Int)
  marked : Int
  freshBefore : Bool
deriving DecidableEq, Repr

/-- A byte of a far object as last received, read or written there (R238). -/
structure Shadow where
  key : FarKey
  offset : Nat
  byte : Byte
deriving DecidableEq, Repr

/-- Routes (spec file 07). -/
structure Routing where
  table : Option RouteTable
  staged : Option RouteTable
  /-- an edited table that takes force at the next Ts (R221) -/
  edited : Option RouteTable
  /-- the table replaced at the latest activation, kept until To(m − 1), with m (R219) -/
  old : Option (RouteTable × Nat)
  states : Tab RouteSt
  images : List FarImage
  /-- the applied image of each far object under OUT routes, by far key (R153, R194) -/
  outputs : List FarImage
  shadows : List Shadow
  /-- the routes that the lookup cache holds (R214) -/
  cache : List Nat
deriving DecidableEq, Repr

def Routing.init : Routing := ⟨none, none, none, none, [], [], [], [], []⟩

/-- A queued message (R231): destination slot (0xFF for all) and unit, kind, tag, flags and its frames'
bodies; for an announcement the first cycle in which it may be sent (R252). `isBridge` messages take a
bridge sequence when they are sent. -/
structure QMsg where
  source : Nat
  destSlot : Nat
  destUnit : Nat
  kind : Nat
  tag : Nat
  bodies : List Bytes
  notBefore : Option Nat
  deadline : Option Nat
deriving DecidableEq, Repr

/-- What a tag stands for. -/
inductive TagKind where
  | postedWrite | read | locked | semaphore | remote | fetch | transfer | complexReset | replay
deriving DecidableEq, Repr

/-- The state of a transaction as its initiator's node sees it. -/
inductive TagState where
  | queued | sent | waiting | held
deriving DecidableEq, Repr

/-- A tag in use (R239, R240): the initiator's channel, kind, target (local route index or signal id) and
its kind as in the error log, the far slot, the end of `BRIDGE_TIMEOUT`, and the result once held: status,
reply data, the end of the hold, and whether a retry has collected it. `sideEffect`, `farRoute` and `owner` come with a read response; `typ` is the type of
the local route that a read was accepted under (R220). -/
structure TagSt where
  tag : Nat
  initiator : Nat
  kind : TagKind
  state : TagState
  target : Nat
  targetKind : Nat
  slot : Option Nat
  deadline : Nat
  status : Nat
  data : Bytes
  value : Val
  holdEnd : Nat
  collected : Bool
  sideEffect : Bool
  farRoute : Nat
  owner : Nat
  typ : Nat
deriving DecidableEq, Repr

/-- A transaction at the far side (R234): on a far key, in arrival order. `replyTo` is the channel to
answer (a local tag when `localTag`), `write` the value to write with its type, `conv` its raw value once it is converted; `got` the bytes read so far. -/
structure FarTxn where
  key : FarKey
  route : Nat
  entry : Bytes
  replyTo : Nat
  tag : Nat
  localTag : Bool
  srcSlot : Nat
  write : Option (Val × Nat)
  conv : Option Nat
  deadline : Nat
  unitsDone : Nat
  got : Bytes
  started : Bool
  shadowRead : Bool
  locked : Bool
  semHeld : Bool
  authority : Nat
  /-- its far key had side effects when it was accepted (R220, R242) -/
  side : Bool
deriving DecidableEq, Repr

/-- A sender record (R230); `ownKind` and `ownTarget` are the target of the transaction as its initiator named it. -/
structure SentRec where
  slot : Nat
  seq : Nat
  kind : Nat
  tag : Nat
  source : Nat
  target : Nat
  /-- the channel it went to -/
  dest : Nat
  sideValue : Option Val
  ownKind : Nat
  ownTarget : Nat
  at_ : Nat
deriving DecidableEq, Repr

/-- What a sender keeps of a destination slot (R229, R230). -/
structure SlotTx where
  next : Nat
  restart : Bool
  idle : Nat
  markDue : Bool
deriving DecidableEq, Repr

/-- The lock of a level 3 port (R246): the holder's channel and tag in one number, 0 for a cyclic access of the port, and
when it was taken. -/
structure PortLock where
  port : Nat
  holder : Nat
  taken : Nat
deriving DecidableEq, Repr

/-- A wait for a port lock or a semaphore; channel and tag 0 for a cyclic access. -/
structure LockWait where
  port : Nat
  tag : Nat
  channel : Nat
  until_ : Nat
  srcSlot : Nat
deriving DecidableEq, Repr

/-- A locked sequence (R247): its tag, the routes still to run with the entries that it was accepted under (R220) and the
values to write, and the results read. -/
structure LockedSeq where
  tag : Nat
  port : Nat
  routes : List (Nat × Bytes × Option Val)
  results : Bytes
deriving DecidableEq, Repr

/-- A semaphore held (R248). -/
structure SemSt where
  sem : Nat
  holder : Nat
  leaseEnd : Nat
deriving DecidableEq, Repr

/-- An announcement held until its data skim has committed (R252). -/
structure HeldAnn where
  dest : Nat
  body : Bytes
  skim : Nat
  source : Nat
deriving DecidableEq, Repr

/-- An entry of the posted-write error log (R236). -/
structure ErrEntry where
  initiator : Nat
  tag : Nat
  targetKind : Nat
  failedUnit : Nat
  status : Nat
  target : Nat
  detail : Nat
  time : Int
  seq : Nat
deriving DecidableEq, Repr

/-- A read-ahead value (R242). -/
structure ReadAhead where
  route : Nat
  value : Val
  until_ : Nat
deriving DecidableEq, Repr

/-- The bridge engine (spec file 08). -/
structure BridgeSt where
  endpoints : List Nat
  /-- delivered messages that wait for the row of their kind -/
  inbox : List Frame
  queue : List QMsg
  tags : List TagSt
  released : List (Nat × Nat)
  nextTag : Nat
  sentRecs : List SentRec
  slotTx : Tab SlotTx
  expected : Tab Nat
  farQueue : List FarTxn
  locks : List PortLock
  lockWaits : List LockWait
  locked : List LockedSeq
  sems : List SemSt
  semWaits : List LockWait
  heldAnns : List HeldAnn
  /-- announcements raised in this cycle by route and kind, with the cycle and the data skim (R253) -/
  raised : List (Nat × Nat × Nat × Nat)
  errors : List ErrEntry
  errSeq : Nat
  readAheads : List ReadAhead
  oldSeq : Nat
  droppedResults : Nat
  annDiscarded : Nat
deriving DecidableEq, Repr

def BridgeSt.init : BridgeSt :=
  { endpoints := [], inbox := [], queue := [], tags := [], released := [], nextTag := 1, sentRecs := [], slotTx := [],
    expected := [], farQueue := [], locks := [], lockWaits := [], locked := [], sems := [], semWaits := [],
    heldAnns := [], raised := [], errors := [], errSeq := 0, readAheads := [], oldSeq := 0,
    droppedResults := 0, annDiscarded := 0 }

end Sys2Proof.Machine
end

