-- ==== Sys2Proof/Machine/StField.lean ====
section
/-! DEFINITION. The state and the settings of the field buses and of the floats (spec files 10 and 11). -/

namespace Sys2Proof.Machine

/-! ### Settings -/

/-- A port address of an MVB bus (R293, R294): F-code, exponent and phase of its individual period, direction at
this node, freshness limit in ms where one is set (R296). -/
structure MvbPort where
  addr : Nat
  fcode : Nat
  exponent : Nat
  phase : Nat
  source : Bool
  sink : Bool
  fresh : Option Nat
deriving DecidableEq, Repr

/-- A device whose status an administrator polls, with its announce port (R297). -/
structure MvbDevice where
  addr : Nat
  announce : Nat
deriving DecidableEq, Repr

/-- A serial port's settings (R287, R294, R298, R299): mode as in R291; basic period and offset in µs; timeout in
ns; bit rate in b/s; data bits, parity (0 none, 1 even, 2 odd) and stop bits of a character. `pairB` marks the even port of a redundant MVB pair; `terminate`
and `bias` switch the line termination and the fail-safe bias (R288). -/
structure SPortCfg where
  mode : Nat
  pairB : Bool
  tbp : Nat
  offset : Nat
  ports : List MvbPort
  devices : List MvbDevice
  deviceAddr : Nat
  deviceStatus : Nat
  period : Nat
  phase : Nat
  timeout : Nat
  retries : Nat
  bitRate : Nat
  dataBits : Nat
  parity : Nat
  stopBits : Nat
  terminate : Bool
  bias : Bool
deriving DecidableEq, Repr

def SPortCfg.off : SPortCfg := ⟨0, false, 1000, 0, [], [], 0, 0, 1, 0, 50000000, 1, 9600, 8, 1, 1, false, false⟩

/-- The ns of one bit, in whole ns. -/
def SPortCfg.bitNs (c : SPortCfg) : Nat := 1000000000 / c.bitRate

/-- The bits of a character with its start bit. -/
def SPortCfg.charBits (c : SPortCfg) : Nat := 1 + c.dataBits + (if c.parity = 0 then 0 else 1) + c.stopBits

/-- The freshness limit of a sink port, ms: 3 individual periods by default, 3 ms in device mode (R296). -/
def SPortCfg.freshLimit (c : SPortCfg) (x : MvbPort) : Nat :=
  x.fresh.getD (if c.mode = 2 then 3 else 3 * (c.tbp * 2 ^ x.exponent / 1000))

/-- A CANopen node (R305): consumer time in ms, and its configuration list of SDO downloads. -/
structure CanNode where
  node : Nat
  consumer : Nat
  downloads : List (Nat × Nat × Bytes)
deriving DecidableEq, Repr

/-- An output PDO (R304), of 1 to 8 bytes. -/
structure OutPdo where
  cobId : Nat
  period : Nat
  phase : Nat
  fd : Bool
  length : Nat
deriving DecidableEq, Repr

/-- A received PDO (R304): its node, and its timeout in ms where one is set. -/
structure InPdo where
  cobId : Nat
  node : Nat
  timeout : Option Nat
deriving DecidableEq, Repr

/-- The timeout of a received PDO, ms: 100 by default (R304). -/
def InPdo.limit (x : InPdo) : Nat := x.timeout.getD 100

/-- A CAN port's settings (R303 to R306). Times in ms; `sync` makes the port a SYNC producer, on COB-ID 0x080 by default; `ownNode` 0 for no
heartbeat producer. Bit rates in kb/s, 500 and 2,000 by default; `terminate` switches the line termination (R288). -/
structure CanCfg where
  enabled : Bool
  nodes : List CanNode
  bootWait : Nat
  sdoTimeout : Nat
  sync : Bool
  syncCob : Nat
  syncPeriod : Nat
  syncOffset : Nat
  syncOverflow : Nat
  ownNode : Nat
  heartbeat : Nat
  outs : List OutPdo
  ins : List InPdo
  nominal : Nat
  dataRate : Nat
  terminate : Bool
deriving DecidableEq, Repr

def CanCfg.off : CanCfg := ⟨false, [], 5000, 500, false, 0x080, 1, 0, 0, 0, 0, [], [], 500, 2000, false⟩

/-- The field buses' part of the configuration image; `programs` are float programs by target: 1 to 6 for S1 to
S6, 16 + k for profile k. -/
structure FieldCfg where
  serial : Tab SPortCfg
  can : Tab CanCfg
  programs : Tab Bytes
deriving DecidableEq, Repr

def FieldCfg.none : FieldCfg := ⟨[], [], []⟩

/-! ### Ports -/

/-- The status and counters of a field port (R290 to R292). -/
structure FPort where
  status : Word32
  good : Nat
  fcs : Nat
  runts : Nat
  oversize : Nat
  drops : Nat
deriving DecidableEq, Repr

def FPort.init : FPort := ⟨0, 0, 0, 0, 0, 0⟩

/-- A transaction of an S port (R299, R318), of one access unit (R209): `kind` 0 an OUT write, 1 an IN read, 2 an
on-demand access. `entry` names the far field; `raws` are the routes with the raw values that a write carries,
`value` the field's number, `got` the bytes read so far; `tag` tells an on-demand access from others of its key. -/
structure SerialTxn where
  kind : Nat
  write : Bool
  key : FarKey
  entry : Bytes
  raws : List (Nat × Bytes × Nat)
  value : Nat
  unit : Nat
  got : Bytes
  attempt : Nat
  tag : Nat
  /-- the skim whose outputs an OUT write carries (R237) -/
  skim : Option Nat
deriving DecidableEq, Repr

/-- An S port (R293 to R301). `statuses` are the device status words last received, and whether the device still
answers; `buffers` the data of MVB source ports; `cycleOf` the skim of the bus cycle that runs, with its
transactions still to run in `work`, `lastCycle` that of the latest one; `overrun` the topology counter of the latest
`FIELD_OVERRUN` log; `freshNow` the far keys read in it; `late` that the last transaction ended
without a response. -/
structure SPort where
  port : FPort
  frameAt : Option Nat
  lineB : Bool
  basic : Nat
  nextDevice : Nat
  polled : Option Nat
  statuses : Tab (Nat × Bool)
  sinkAt : Tab Int
  buffers : Tab Bytes
  cycleOf : Option Nat
  work : List SerialTxn
  held : Option SerialTxn
  lastDemand : Bool
  overrun : Option Nat
  late : Bool
  frameBytes : Nat
  freshNow : List FarKey
  lastCycle : Option Nat
  /-- bytes of the frame that is being sent (R298) -/
  sentBytes : Nat
deriving DecidableEq, Repr

def SPort.init : SPort :=
  ⟨FPort.init, none, false, 0, 0, none, [], [], [], none, [], none, false, none, false, 0, [], none, 0⟩

/-- The states of a CANopen node (R305): waiting for boot-up, carrying out its configuration list, started, and
the two others. -/
inductive NodePhase where
  | boot | config | started | operational | missing
deriving DecidableEq, Repr

structure CanNodeSt where
  phase : NodePhase
  since : Nat
  step : Nat
  heartbeat : Nat
  heard : Nat
deriving DecidableEq, Repr

/-- An SDO exchange with a node (R306). `access` says that an ACCESS transaction asked for it, otherwise it is a
step of the configuration list. `rest` are bytes still to send, `got` bytes received. -/
structure Sdo where
  node : Nat
  access : Bool
  key : FarKey
  index : Nat
  sub : Nat
  write : Bool
  rest : Bytes
  got : Bytes
  size : Nat
  toggle : Bool
  segmented : Bool
  until_ : Nat
deriving DecidableEq, Repr

/-- A CAN frame to send: identifier, FD flag, data, for a PDO that its place is taken by a newer one, whether a lock of the
port lets it pass (R308), and whether it takes the lock itself (R246). -/
structure CanOut where
  ident : Nat
  fd : Bool
  data : Bytes
  pdo : Bool
  exempt : Bool
  grouped : Bool
deriving DecidableEq, Repr

/-- The commands of the NMT master (R303). -/
inductive NmtCommand where
  | start | stop | enterPreOperational | resetNode | resetCommunication
deriving DecidableEq, Repr

/-- The command specifiers of EN 50325-4 (log entry 195). -/
def NmtCommand.code : NmtCommand → Nat
  | .start => 0x01 | .stop => 0x02 | .enterPreOperational => 0x80 | .resetNode => 0x81 | .resetCommunication => 0x82

/-- A CAN port (R302 to R308): `state` 0 error-active, 1 error-passive, 2 bus-off; `tec` and `rec_` the error counters as last
read, whose counting the spec leaves to the CAN standard (log entry 32); `inbox` holds received frames
that wait for the row of their kind. -/
structure CanPort where
  port : FPort
  started : Bool
  state : Nat
  tec : Nat
  rec_ : Nat
  busOff : Nat
  recoveredAt : Option Nat
  nodes : Tab CanNodeSt
  sdos : List Sdo
  queue : List CanOut
  inbox : List CanIn
  syncCount : Nat
  syncAt : Option Nat
  beatAt : Nat
  pdoAt : Tab Int
deriving DecidableEq, Repr

def CanPort.init : CanPort := ⟨FPort.init, false, 0, 0, 0, 0, none, [], [], [], [], 0, none, 0, []⟩

/-! ### Floats (R311 to R319) -/

/-- A program (R323): words, entries, initial data, identifiers. -/
structure Program where
  id : Nat
  version : Nat
  entry : Nat
  parse : Nat
  code : List Word32
  init : Bytes
deriving DecidableEq, Repr

/-- The transaction as its float sees it (R318). -/
structure FloatTxn where
  kind : Nat
  device : Nat
  func : Nat
  reg : Nat
  width : Nat
  attempt : Nat
deriving DecidableEq, Repr

/-- A float: work registers, flags, program counter, data memory (for F13 with its windows, R319), latched
events with the `STEPPED` mark of bits 5 and 6, the wait it is in (mask and register), timer, targets, loop pass
counts by instruction index, steps of the segment, its faults' instants, FIFOs, and the held transaction with its
data. `ended` is the result of `TEND`; `reqLength` and `alarm` are what a profile wrote. -/
structure FloatSt where
  prog : Option Program
  staged : Option Program
  running : Bool
  regs : List Word32
  z : Bool
  n : Bool
  c : Bool
  pc : Nat
  data : Mem
  events : Nat
  steppedT : Bool
  steppedP : Bool
  waiting : Option (Nat × Nat)
  timer : Option Nat
  tta : Option Int
  pta : Option (Int × Nat)
  passes : Tab Nat
  steps : Nat
  faults : List Nat
  stoppedAt : Option Nat
  rx : List Nat
  overrun : Bool
  byteAt : Option Nat
  tx : List Byte
  txAt : Nat
  lineCtrl : Nat
  silence : Nat
  txn : Option FloatTxn
  txnData : Bytes
  ended : Option (Nat × Nat)
  reqLength : Nat
  alarm : Option Nat
deriving DecidableEq, Repr

def FloatSt.init : FloatSt :=
  { prog := none, staged := none, running := false, regs := List.replicate 8 0, z := false, n := false, c := false,
    pc := 0, data := [], events := 0, steppedT := false, steppedP := false, waiting := none, timer := none,
    tta := none, pta := none, passes := [], steps := 0, faults := [], stoppedAt := none, rx := [], overrun := false,
    byteAt := none, tx := [], txAt := 0, lineCtrl := 1, silence := 35, txn := none, txnData := zeros 16,
    ended := none, reqLength := 0, alarm := none }

/-- Field buses and floats. Profiles of F13 are kept by number. -/
structure FieldSt where
  serial : Tab SPort
  can : Tab CanPort
  floats : Tab FloatSt
  profiles : Tab Program
  stagedProfiles : Tab Program
deriving DecidableEq, Repr

def FieldSt.init : FieldSt := ⟨[], [], [], [], []⟩

end Sys2Proof.Machine
end

