-- ==== Sys2Proof/Machine/StRecorder.lean ====
section
/-! DEFINITION. The state of the event recorder (spec file 16). -/

namespace Sys2Proof.Machine

/-- A trigger entry (R438). -/
structure TriggerCfg where
  code : Nat
  actions : Nat
  threshold : Nat
deriving DecidableEq, Repr

/-- The recorder's part of the configuration image (R430, R431, R432, R438). -/
structure RecCfg where
  /-- B and P (ns) by code, where the image sets them -/
  buckets : Tab (Nat × Nat)
  /-- lo and w by code, where the image sets them -/
  bins : Tab (Int × Nat)
  /-- summary period, ns -/
  period : Nat
  triggers : List TriggerCfg
deriving DecidableEq, Repr

/-- The defaults of R445. -/
def RecCfg.default : RecCfg := ⟨[], [], 3600000000000, []⟩

/-- A record (R426), less its valid mark, which is computed from the rest. -/
structure Record where
  seq : Nat
  time : Int
  skim : Nat
  topo : Nat
  code : Nat
  origin : Nat
  flags : Nat
  suppressed : Nat
  payload : Bytes
deriving DecidableEq, Repr

/-- A report with the data the recorder stamps it with (R426). -/
structure Report where
  ev : EventIn
  time : Int
  skim : Nat
  topo : Nat
  localTime : Bool
deriving DecidableEq, Repr

/-- What the recorder keeps of one code (R430, R431). `below` is the instant from which the bucket's next
token is timed; extremes are meaningful while their count is not zero. -/
structure CodeStat where
  tokens : Nat
  below : Nat
  suppressed : Nat
  pCount : Nat
  lCount : Nat
  pSuppressed : Nat
  pMin : Int
  pMax : Int
  lMin : Int
  lMax : Int
  pMaxTime : Int
  bins : List Nat
deriving DecidableEq, Repr

/-- A record in staging, with the instant at which it entered (R437). -/
structure Staged where
  record : Record
  at_ : Nat
deriving DecidableEq, Repr

/-- The event recorder. -/
structure RecorderSt where
  /-- reports that the recorder has not taken yet -/
  reports : List Report
  nextSeq : Nat
  staging : List Staged
  topcoat : List Record
  primer : List Record
  codes : Tab CodeStat
  primerFullLogged : Bool
  degraded : Bool
  failedWrites : Nat
  /-- instant of the first failed write of the present run -/
  failingSince : Option Nat
  dropCount : Nat
  /-- drops not yet logged as `RECORDER_DROPPED` -/
  dropsUnlogged : Nat
  avgTokens : Nat
  avgAt : Nat
  /-- start of the summary period on the always-on count -/
  periodStart : Nat
  lastPrimerSummary : Nat
  /-- `POWER_FAIL` is written and no `POWER_RESTORED` yet; the instant of the warning -/
  powerFail : Option Nat
  started : Bool
deriving DecidableEq, Repr

/-- The recorder of an as-manufactured unit: no record in either area (R427). -/
def RecorderSt.init : RecorderSt :=
  ⟨[], 1, [], [], [], [], false, false, 0, none, 0, 0, 16384, 0, 0, 0, none, false⟩

end Sys2Proof.Machine
end

