-- ==== Sys2Proof/Machine/StSleep.lean ====
section
/-! DEFINITION. The state and the settings of sleep and wake (spec file 15). -/

namespace Sys2Proof.Machine

/-- The power states of R405. -/
inductive Power where
  | off | sleep | lineKeeping | awake
deriving DecidableEq, Repr

/-- Sleep and wake in the configuration image: wake inputs 1 to 4 with active-high sense and train-wide scope,
stay-awake signals (R412), line-keeping (R423), `MAX_AWAKE` in minutes (R424). -/
structure PowerCfg where
  wakeInputs : Tab (Bool × Bool)
  appHold : List Nat
  lkAllowed : Bool
  lkDelay : Nat
  maxAwake : Nat
deriving DecidableEq, Repr

def PowerCfg.none : PowerCfg := ⟨[], [], false, 60, 240⟩

/-- A wake wire (R408): asserted beyond 200 ms and ignored; the instant from which this unit drives a pulse on it. -/
structure WakeWire where
  stuck : Bool
  driven : Option Nat
  heard : Option Nat
deriving DecidableEq, Repr

/-- An alarm entry (R411): wake time on the real-time alarm's count in ns, train-wide scope, hold in ms, repeat. -/
structure AlarmEntry where
  time : Nat
  trainWide : Bool
  hold : Nat
  repeats : Bool
deriving DecidableEq, Repr

/-- What the lead keeps of a unit's votes (R414): its last two supervision frames were ready, and since when. -/
structure VoteSt where
  vote : Nat
  bitmap : Nat
  readies : Nat
  since : Nat
deriving DecidableEq, Repr

/-- Sleep and wake. Instants are on the always-on count. `announced` is s of the latest delivered cycle-start, 0 for
none; `seen` the cycle-starts of cycles s − 3 to s − 1 that carried s; `latch` the wake latch with its scope and
source; votes are kept by position × 16 + unit. -/
structure SleepSt where
  power : Power
  announced : Nat
  seen : Nat
  pastNoReturn : Bool
  entering : Option Nat
  source : Nat
  latchedWake : Bool
  latch : Option (Bool × Nat)
  falseWakes : Nat
  falseAt : Tab (List Nat)
  masked : Tab Nat
  awakeFrom : Nat
  reasonSeen : Bool
  commandHold : Option Nat
  wires : Ports WakeWire
  refractory : Nat
  /-- TC10 sleep requests by link: 1 to 4 the train-line ports, 5 and 6 the peer pairs -/
  tc10 : Tab Nat
  phySleep : List Nat
  inputSince : Tab Nat
  inputOffSince : Tab Nat
  inputStuck : List Nat
  alarms : Tab AlarmEntry
  alarmHold : Tab Nat
  alarmSetAt : Nat
  /-- at the lead -/
  votes : Tab VoteSt
  sleepAt : Option Nat
  partialFrom : Option Nat
  override : Bool
  holders : Tab Nat
  lkSince : Option Nat
  lineKeepers : List Nat
deriving DecidableEq, Repr

def SleepSt.init : SleepSt :=
  { power := .off, announced := 0, seen := 0, pastNoReturn := false, entering := none, source := 0, latchedWake := false,
    latch := none, falseWakes := 0, falseAt := [], masked := [], awakeFrom := 0, reasonSeen := false, commandHold := none,
    wires := Ports.all ⟨false, none, none⟩, refractory := 0, tc10 := [], phySleep := [], inputSince := [],
    inputOffSince := [], inputStuck := [], alarms := [], alarmHold := [], alarmSetAt := 0, votes := [], sleepAt := none,
    partialFrom := none, override := false, holders := [], lkSince := none, lineKeepers := [] }

end Sys2Proof.Machine
end

