-- ==== Sys2Proof/Machine/StVehicle.lean ====
section
/-! DEFINITION. The state of the vehicle network and the poll engine (spec file 09), and its settings. -/

namespace Sys2Proof.Machine

/-! ### Settings -/

/-- A vehicle port's settings (R258, R263, R265, R165). Bit k of `speeds` is set where the port advertises the speed that R261
codes k. `untagged` lists VLANs that leave untagged; `queueLimit`
is in bytes by queue; `ptp` 0 off, 1 UDP, 2 IEEE 802.3. -/
structure VportCfg where
  enabled : Bool
  speeds : Nat
  pvid : Nat
  defaultPcp : Nat
  members : List Nat
  untagged : List Nat
  pcpMap : List Nat
  queueLimit : List Nat
  ptp : Nat
deriving DecidableEq, Repr

/-- A VLAN (R259, R263). -/
structure VlanCfg where
  vid : Nat
  maxFrame : Nat
  floodUnicast : Bool
  floodMulticast : Bool
deriving DecidableEq, Repr

/-- A static MAC entry (R264). -/
structure StaticMac where
  vid : Nat
  mac : Nat
  ports : List Nat
deriving DecidableEq, Repr

/-- An IPv4 interface (R269, R271, R276): `replyTimeout` in ms. -/
structure IfaceCfg where
  vlan : Nat
  ip : Nat
  prefixLen : Nat
  ttl : Nat
  replyTimeout : Nat
deriving DecidableEq, Repr

/-- A published telegram (R274). -/
structure PubTelegram where
  comId : Nat
  dest : Nat
  iface : Nat
  queue : Nat
  period : Nat
  phase : Nat
  length : Nat
deriving DecidableEq, Repr

/-- A subscription (R275): timeout in ms. -/
structure SubTelegram where
  comId : Nat
  source : Nat
  iface : Nat
  length : Nat
  timeout : Nat
deriving DecidableEq, Repr

/-- The vehicle network's part of the configuration image. `gates` are gate lists by port, `channels` the
32-byte entries by channel, `groups` the multicast groups subscribed. -/
structure NetCfg where
  ports : Tab VportCfg
  vlans : List VlanCfg
  statics : List StaticMac
  ageing : Nat
  ifaces : Tab IfaceCfg
  arpStatic : List (Nat × Nat × Nat)
  groups : List Nat
  pubs : List PubTelegram
  subs : List SubTelegram
  channels : Tab Bytes
  gates : Tab Bytes
  hostRing : Nat
  /-- queues of device-channel requests, TRDP message data, ARP and ICMP (R265) -/
  chanQueue : Nat
  mdQueue : Nat
  arpQueue : Nat
  /-- PTP: domain number, the two priorities, and the sync, announce and delay request intervals (R165) -/
  ptpDomain : Nat
  ptpPriority1 : Nat
  ptpPriority2 : Nat
  logSync : Int
  logAnnounce : Nat
  logMinDelayReq : Nat
deriving DecidableEq, Repr

def NetCfg.none : NetCfg :=
  { ports := [], vlans := [], statics := [], ageing := 300, ifaces := [], arpStatic := [], groups := [], pubs := [],
    subs := [], channels := [], gates := [], hostRing := 256, chanQueue := 5, mdQueue := 4, arpQueue := 0, ptpDomain := 0, ptpPriority1 := 128,
    ptpPriority2 := 128, logSync := 0, logAnnounce := 1, logMinDelayReq := 0 }

/-! ### Frames on the vehicle network -/

/-- A TRDP telegram that the node sends (R272, R273): `port` is its UDP port, `version` and `opTrnTopo` the header fields
`protocolVersion` and `opTrnTopoCnt`. -/
structure TrdpOut where
  kind : Nat
  comId : Nat
  seq : Nat
  etbTopo : Nat
  dst : Nat
  session : Nat
  result : Nat
  dataset : Bytes
  port : Nat
  version : Nat
  opTrnTopo : Nat
deriving DecidableEq, Repr

/-- What a frame on the vehicle network carries: bytes received, or a message the node composes. -/
inductive VBody where
  /-- a forwarded frame's bytes from the EtherType on -/
  | raw (b : Bytes)
  /-- ARP: operation 1 or 2, sender IP and MAC, target IP and MAC (R270) -/
  | arp (op sip smac tip tmac : Nat)
  /-- UDP from and to: addresses, ports, payload (R271) -/
  | udp (src dst sport dport : Nat) (b : Bytes)
  /-- ICMP echo reply (R271) -/
  | echo (src dst : Nat) (b : Bytes)
  /-- TRDP (R272) -/
  | trdp (t : TrdpOut)
  /-- PTP message type, sequence, and its fields as bytes (R165) -/
  | ptp (kind seq : Nat) (b : Bytes)
deriving DecidableEq, Repr

/-- A frame at an egress port: addresses, VLAN, whether it leaves tagged, priority, body; `ttl` is that of a datagram the node
sends, with `DF` set and no options (R271), 0 in other frames. -/
structure VFrame where
  dst : Nat
  src : Nat
  vlan : Nat
  tagged : Bool
  pcp : Nat
  ttl : Nat
  body : VBody
deriving DecidableEq, Repr

/-- A frame in an egress queue; `gate` is the cycle whose To it was originated for (R268). -/
structure QFrame where
  queue : Nat
  gate : Option Nat
  frame : VFrame
deriving DecidableEq, Repr

/-! ### State -/

/-- A vehicle port: `PORT_STATUS` (R260), `VPORT_LINK` (R261), counters (R262), queues, and the gate list in force
and staged with its activation cycle; `open_` is the gate states last applied. -/
structure Vport where
  status : Word32
  link : Word32
  good : Nat
  fcs : Nat
  runts : Nat
  oversize : Nat
  drops : Nat
  queue : List QFrame
  gates : Option Bytes
  staged : Option (Bytes × Nat)
  open_ : Nat
deriving DecidableEq, Repr

def Vport.init : Vport := ⟨0, 0, 0, 0, 0, 0, 0, [], none, none, 255⟩

/-- A learned MAC entry (R264). -/
structure MacEntry where
  vid : Nat
  mac : Nat
  port : Nat
  at_ : Nat
deriving DecidableEq, Repr

/-- A frame that waits for its destination to resolve. -/
structure HeldOut where
  queue : Nat
  gate : Option Nat
  body : VBody
deriving DecidableEq, Repr

/-- An ARP entry (R270): resolved with a MAC, or resolving with requests sent. -/
structure ArpEntry where
  iface : Nat
  ip : Nat
  mac : Option Nat
  tries : Nat
  at_ : Nat
  held : List HeldOut
deriving DecidableEq, Repr

/-- A claim of an own address by another station (R270): whether it was heard since the last repeat. -/
structure IpClaim where
  iface : Nat
  heard : Bool
  sentAt : Nat
deriving DecidableEq, Repr

/-- A published telegram's counter and the last cycle it was sent for (R274). -/
structure PubSt where
  seq : Nat
  last : Option Nat
deriving DecidableEq, Repr

/-- A subscription's latest acceptance (R275): sequence by source, source, instant. -/
structure SubSt where
  seqs : List (Nat × Nat)
  source : Nat
  at_ : Int
  /-- topology counter of the latest `TRDP_MULTI_SOURCE` log -/
  multi : Option Nat
deriving DecidableEq, Repr

/-- An outstanding message data session (R276). -/
structure TrdpSession where
  no : Nat
  key : FarKey
  ip : Nat
  until_ : Nat
deriving DecidableEq, Repr

/-- The states of a device channel in the order of R280. -/
inductive ChanState where
  | disabled | resolving | starting | active | missing | faulted
deriving DecidableEq, Repr

/-- A device channel (R277 to R280). `out` is what is outstanding: 0 none, 1 cyclic, 2 on demand; `state16` the
profile's 16 bytes of channel state (R319); `received` that a response was accepted before; `refused` the code of
a response that the profile did not accept. -/
structure ChanSt where
  entry : Bytes
  state : ChanState
  misses : Nat
  oks : Nat
  exceptions : Nat
  out : Nat
  sentAt : Nat
  lastCyclic : Option Nat
  lastFaultPoll : Nat
  state16 : Bytes
  received : Bool
  refused : Option Nat
  unmatched : Nat
deriving DecidableEq, Repr

def ChanSt.init (e : Bytes) : ChanSt :=
  ⟨e, .disabled, 0, 0, 0, 0, 0, none, 0, zeros 16, false, none, 0⟩

/-- A frame for a ring: its bytes, source code (R283), low train time of arrival, delivering port. -/
structure RingFrame where
  data : Bytes
  source : Nat
  arrival : Nat
  port : Option LinePort
deriving DecidableEq, Repr

/-- A message ring (R283): size, indices, counters, descriptors as 16-byte images and their 256-byte buffers.
`base` is the ring's byte offset in the ring area. -/
structure Ring where
  size : Nat
  base : Nat
  writeIx : Nat
  readIx : Nat
  written : Nat
  dropped : Nat
  starved : Bool
  descs : Tab Bytes
  bufs : Tab Bytes
deriving DecidableEq, Repr

/-- A staged frame (R285). -/
structure StagedFrame where
  ring : Nat
  frame : RingFrame
  at_ : Nat
deriving DecidableEq, Repr

/-- The vehicle network and the poll engine. Rings are kept by endpoint; the service ring's key is 256. -/
structure VehSt where
  macBase : Nat
  ports : Tab Vport
  macs : List MacEntry
  arp : List ArpEntry
  claims : List IpClaim
  pubs : Tab PubSt
  subs : Tab SubSt
  sessions : List TrdpSession
  sessionCount : Nat
  chans : Tab ChanSt
  rings : Tab Ring
  staging : List StagedFrame
  echoFrom : Nat
  echoes : Nat
  /-- discarded and counted: incoming Mn without a command (R276), far data without a route (R213) -/
  mnDiscarded : Nat
  unrouted : Nat
  badChecksum : Nat
deriving DecidableEq, Repr

def VehSt.init : VehSt :=
  { macBase := 0, ports := [], macs := [], arp := [], claims := [], pubs := [], subs := [], sessions := [],
    sessionCount := 0, chans := [], rings := [], staging := [], echoFrom := 0, echoes := 0, mnDiscarded := 0,
    unrouted := 0, badChecksum := 0 }

end Sys2Proof.Machine
end

