-- ==== Sys2Proof/Machine/Cfg.lean ====
section
/-! DEFINITION. The contents of a configuration image (R483) as the other rules name them. The image's body
layout is not stated; `Config.parseConfig` reads it (log entry 8). -/

namespace Sys2Proof.Machine

/-- One tachometer's settings (R154): pulses per revolution, wheel diameter in 0.1 mm, counting sense. -/
structure TachCfg where
  pulses : Nat
  diameter : Nat
  forward : Bool
deriving DecidableEq, Repr

/-- The settings of one vehicle (spec files 01, 04, 05, 06, 08). -/
structure NodeCfg where
  uuid : Nat
  arrangement : Nat
  units : Nat
  preference : Nat
  odometry : Bool
  tach1 : TachCfg
  tach2 : TachCfg
  tach2Primary : Bool
  cabInput : Nat
  cabInverted : Bool
  bridgeTimeout : Nat
  baud : Nat
  commandComId : Nat
deriving DecidableEq, Repr

/-- The configuration that runs. -/
structure Cfg where
  node : NodeCfg
  dictionary : List SigDef
  /-- the publication list, 12 bytes an entry (R174) -/
  pubList : Bytes
  schedule : Bytes
  route : Bytes
  equation : Bytes
  events : Bytes
  recorder : RecCfg
  net : NetCfg
  field : FieldCfg
  power : PowerCfg
deriving DecidableEq, Repr

end Sys2Proof.Machine

namespace Sys2Proof.Config

/-- The settings that the body of a configuration image holds (R483); none for a body that has not its layout. The layout is not stated (log entry 8). -/
opaque parseConfig : Bytes → Option Machine.Cfg

end Sys2Proof.Config
end

