-- ==== Sys2Proof/Machine/StLine.lean ====
section
/-! DEFINITION. The state of the train-line ports and of the Flatatra cycle (spec files 02 and 03). -/

namespace Sys2Proof.Machine

/-- A frame whose header has arrived at a port and whose end has not (R40, R84). `close` is the instant its
slot closes; `fault` the header was refused for `HDR_ERR` or type C; `refused` the slot gate refused it. -/
structure InFlight where
  hdr : Frame
  plen : Nat
  arrival : Int
  fault : Bool
  refused : Bool
  forwarding : Bool
  close : Option Int
  cut : Bool
deriving DecidableEq, Repr

/-- A train-line port: `PORT_STATUS` (R61), the CX-320 counters (R62), and the frame arriving. -/
structure LPort where
  status : Word32
  good : Nat
  fcs : Nat
  runts : Nat
  oversize : Nat
  drops : Nat
  inFlight : Option InFlight
  /-- own frames that wait until the frame being forwarded on this port has finished (R43) -/
  waiting : List Frame
  /-- the rate of a link that is up at another rate than the line's, on a port without a neighbour (2.5 Gb/s when set) -/
  offRate : Option Bool
  /-- its float has faulted, and it originates nothing until the node has rejoined (R322) -/
  muted : Bool
deriving DecidableEq, Repr

/-- A duplicate key (R58), the cycle it was first seen in, and the instant of that for a unit outside a
running cycle (R59, R100). -/
structure DupKey where
  ftype : Nat
  topo : Nat
  cycle : Nat
  pos : Nat
  unit : Nat
  channel : Nat
  seq : Nat
  seen : Nat
  at_ : Nat
  inCycle : Bool
deriving DecidableEq, Repr

/-- A frame that passed its checks and waits for its delivery row. -/
structure RxFrame where
  port : LinePort
  frame : Frame
  arrival : Int
deriving DecidableEq, Repr

/-- The train-line ports of the unit (spec file 02). -/
structure LineSt where
  ports : Ports LPort
  relayAOpen : Bool
  relayBOpen : Bool
  /-- instant at which the island became ready and line A's relay set opened (R38) -/
  islandAt : Option Nat
  /-- the rate each line runs at: 2.5 Gb/s when set -/
  rateA25 : Bool
  rateB25 : Bool
  /-- sequence numbers by source position, unit, type and channel (R46) -/
  txSeq : Tab Nat
  dups : List DupKey
  rx : List RxFrame
deriving DecidableEq, Repr

/-- The reset column of R61: only `BYPASS` is set. -/
def LPort.init : LPort := ⟨0x00100000, 0, 0, 0, 0, 0, none, [], none, false⟩

def LineSt.init : LineSt := ⟨Ports.all LPort.init, false, false, none, true, true, [], [], []⟩

/-- What a port keeps of a source for fencing (R86). -/
structure Fence where
  port : LinePort
  src : Source
  run : Nat
  fenced : Bool
  /-- in the present cycle: the source sent frames in the gated windows; one of them was refused or cut -/
  sent : Bool
  bad : Bool
  /-- the source sent frames in the cycle before, and every one of them passed -/
  good : Bool
deriving DecidableEq, Repr

/-- A slot that has opened at a port in the present cycle (R83): its window (0 publication, 1 message,
2 supervision), the source's position, and the instant it closes. -/
structure OpenSlot where
  port : LinePort
  window : Nat
  pos : Nat
  close : Int
deriving DecidableEq, Repr

/-- A poll seen in the present message window (R83, R88). -/
structure PollSeen where
  pos : Nat
  unit : Nat
  grant : Nat
  timeout : Nat
deriving DecidableEq, Repr

/-- The schedule engine and the slot gates (spec file 03). Schedule tables are byte images (R70). -/
structure CycleSt where
  /-- the unit is in a running cycle -/
  running : Bool
  /-- the grid began with this cycle, whose Ts has not been sampled (R114) -/
  fresh : Bool
  n : Nat
  ts : Int
  /-- the sample instants that have come after Ts(n): the grid is ahead of a shifted timeline (R95) -/
  ahead : Nat
  shift : Nat
  guard : Nat
  guardNext : Nat
  table : Option Bytes
  staged : Option Bytes
  /-- a fetched table that takes force at the next cycle start (R74) -/
  tableNext : Option Bytes
  /-- consecutive cycles without a delivered cycle-start (R81) -/
  missed : Nat
  csSeen : Bool
  /-- the present cycle has been laid out on the own time, its cycle-start missing (R81) -/
  missDone : Bool
  /-- the ports whose segment phase has been used in this cycle (R69) -/
  phased : List LinePort
  stopped : Bool
  mismatch : Bool
  fetched : Bytes
  /-- schedule check of the latest delivered cycle-start (R74) -/
  leadCheck : Nat
  /-- where the next piece of the lead's table begins that a unit asks its composing unit for (R74) -/
  askedFrom : Nat
  silenced : Bool
  joined : Bool
  /-- the cycle m of R82 that is valid so far -/
  joinFrom : Option Nat
  fences : List Fence
  opened : List OpenSlot
  polls : List PollSeen
  /-- start of the message window as the first poll of the burst shows it (R74) -/
  windowStart : Option Int
  /-- the lead's plan for the next window (R88, R90): positions with grant and reply instant, own grant -/
  plan : List PollSeen
  ownGrant : Nat
  /-- what of the lead's turn the plan counts: set-out frames and repeats in wire bytes, and own messages -/
  planTurn : Nat × Bool
  /-- the position at which polling goes on, and the one from which fallback grants do; as the plan leaves them -/
  pollNext : Nat
  pdNext : Nat
  pollFrom : Nat
  pdFrom : Nat
  backlog : List Nat
  ownBacklog : Bool
  replied : List Nat
  /-- at the lead, of this window: positions whose reply has shown a frame with `LAST`, with its `MORE`; frames that were
  refused, cut or damaged and have come on no line, by position, channel and sequence (R91) -/
  replyEnds : Tab Bool
  lostReplies : List (Nat × Nat × Nat)
  /-- mirror fallback messages that the lead sends again on both lines in its next turn (R394) -/
  repeats : List Frame
  /-- the shift, or the anchor of a time step, that the lead has computed for the next cycle (R94, R96) -/
  nextShift : Option Nat
  nextAnchor : Option Int
  /-- the cycle whose frames carry `DISCONTINUOUS` (R96) -/
  discontinuous : Option Nat
deriving DecidableEq, Repr

def CycleSt.init : CycleSt :=
  { running := false, fresh := false, n := 0, ts := 0, ahead := 0, shift := 0, guard := 2, guardNext := 2, table := none, staged := none, tableNext := none,
    missed := 0, csSeen := false, missDone := false, phased := [], stopped := false, mismatch := false, fetched := [],
    leadCheck := 0, askedFrom := 0, silenced := false, joined := false, joinFrom := none, fences := [], opened := [], polls := [],
    windowStart := none, plan := [], ownGrant := 256, planTurn := (0, false), pollNext := 0, pdNext := 0, pollFrom := 0, pdFrom := 0, backlog := [],
    ownBacklog := false, replied := [], replyEnds := [], lostReplies := [], repeats := [], nextShift := none, nextAnchor := none, discontinuous := none }

end Sys2Proof.Machine
end

