-- ==== Sys2Proof/Machine/StPair.lean ====
section
/-! DEFINITION. The state of pairs and stacks (spec file 14). -/

namespace Sys2Proof.Machine

/-- The role codes of R374. -/
inductive Role where
  | single | active | standby | master | member
deriving DecidableEq, Repr

/-- A peer segment (R377, R378): its status register and counters, and the instant it lost link. -/
structure PeerSeg where
  status : Word32
  good : Nat
  fcs : Nat
  runts : Nat
  oversize : Nat
  drops : Nat
  up : Bool
deriving DecidableEq, Repr

def PeerSeg.init : PeerSeg := ⟨0, 0, 0, 0, 0, 0, false⟩

/-- A peer's latest control record (R383): the current cycle it carries, when it came, its 32 bytes, unit id. -/
structure PeerRec where
  unit : Nat
  unitId : Nat
  cycle : Nat
  at_ : Nat
  content : Bytes
deriving DecidableEq, Repr

/-- The mirror (R382, R393): far fields and shadows by route, when a full image completed, the latest skim of the
output-image and of the writes-and-forces records, mirrored writes and forces, the safety state, whether it came by
fallback, and parts of the record being received. -/
structure Mirror where
  fields : Tab Bytes
  full : Bool
  imageSkim : Option Nat
  writesSkim : Option Nat
  writes : List StagedWrite
  forces : List Force
  safety : Bytes
  fallback : Bool
  parts : List (Nat × Nat × Bytes)
deriving DecidableEq, Repr

def Mirror.init : Mirror := ⟨[], false, none, none, [], [], [], false, []⟩

/-- The pair and stack controller. Readings and loop codes as in R385. -/
structure PairSt where
  role : Role
  segs : List PeerSeg
  records : List PeerRec
  /-- the unit is the one with the odd UUID and stays out of the ring (R24) -/
  uuidMismatch : Bool
  /-- the units whose latest control record carried another UUID (R24) -/
  badUuid : List Nat
  /-- the interlock: own output, readings and when they were taken, changes within 1 ms -/
  ilkOut : Bool
  ilkIn : Nat
  ownLoop : Nat
  ilkSince : Nat
  ilkChanges : List Nat
  ilkFault : Bool
  condSince : Option Nat
  clearSince : Option Nat
  /-- the role watchdog's deadline while it runs (R387) -/
  watchdog : Option Nat
  /-- the grant that names a unit, and its expiry (R389); at the lead, grants by vehicle slot -/
  grant : Option (Nat × Nat)
  grants : Tab (Nat × Nat)
  /-- the unit becomes composing at the first cycle whose Ts is not before this train time (R391); it hands over at a
  cycle (R392) -/
  takeAt : Option Int
  handAt : Option Nat
  releasing : Bool
  /-- consecutive cycles for which unit 1 has been fit (R392, R399) -/
  unit1Fit : Nat
  /-- consecutive cycles for which the conditions of R82 have held (R376) -/
  joinedFor : Nat
  marksFor : Nat
  mirror : Mirror
  /-- the vehicle's gap: its first cycle, whether the mirror was current at its Ts, and its length -/
  gapFrom : Option Nat
  gapWarm : Bool
  gapCycles : Nat
  /-- repeated last values have stopped (R401) -/
  repeatOff : Bool
  /-- a cold takeover's last cycle of substitutes (R395) -/
  coldTo : Option Nat
  /-- output-image records still to send after a unit joined -/
  sendFull : Bool
  /-- far fields and shadows by route as last sent to the mirror -/
  sent : Tab Bytes
  /-- the mirror was current at the latest Ts -/
  currentAtTs : Bool
  /-- the first cycle at whose start a contender was fit with no lease ever delivered (R398) -/
  hawkFitAt : Option Nat
  /-- the hawk: the latest expiry delivered, held here, the latest cycle with a majority, the lease this unit has
  acknowledged, acknowledgements of the running claim or renewal, operation for the next control record -/
  hawkExpiry : Option Nat
  hawkHeld : Bool
  hawkMajority : Nat
  hawkAcked : Option (Nat × Nat)
  hawkVotes : List Nat
  hawkVoteExpiry : Nat
  hawkOp : Nat × Nat × Nat
  hawkClaimAt : Option Nat
  /-- fed units: the commit mark held (cycle, bitmap, frames), frames fed in the cycle, late relayed copies -/
  mark : Option (Nat × Nat × Nat)
  /-- the cycle of the latest commit mark received (R376) -/
  markCycle : Option Nat
  fedCount : Nat
  relayLate : Nat
  fedOut : Nat
deriving DecidableEq, Repr

def PairSt.init : PairSt :=
  { role := .single, segs := [PeerSeg.init, PeerSeg.init], records := [], uuidMismatch := false, badUuid := [],
    ilkOut := false, ilkIn := 0, ownLoop := 0, ilkSince := 0, ilkChanges := [], ilkFault := false, condSince := none,
    clearSince := none, watchdog := none, grant := none, grants := [], takeAt := none, handAt := none,
    releasing := false, unit1Fit := 0, joinedFor := 0, marksFor := 0, mirror := Mirror.init, gapFrom := none,
    gapWarm := false, gapCycles := 0, repeatOff := false, coldTo := none, sendFull := false, sent := [], currentAtTs := false, hawkFitAt := none, hawkExpiry := none, hawkHeld := false,
    hawkMajority := 0, hawkAcked := none, hawkVotes := [], hawkVoteExpiry := 0, hawkOp := (0, 0, 0), hawkClaimAt := none,
    mark := none, markCycle := none, fedCount := 0, relayLate := 0, fedOut := 0 }

end Sys2Proof.Machine
end

