-- ==== Sys2Proof/Machine/StSafe.lean ====
section
/-! DEFINITION. The state of the safety complex, of the safety equations and of the discrete I/O (spec files 12
and 13). -/

namespace Sys2Proof.Machine

/-- The states of the safety complex in the order of R346. -/
inductive SafeState where
  | scratch | voted | resync | dual | restart | halted | split
deriving DecidableEq, Repr

/-- The outcome of the comparator in a clock (R334). -/
inductive Vote where
  | agree
  | minority (core : Nat)
  | noMajority
  | fault
deriving DecidableEq, Repr

/-- What a stateful term keeps (R355): a count of Ts, a truth value, and whether it has been evaluated. -/
structure TermSt where
  count : Nat
  on : Bool
  seen : Bool
deriving DecidableEq, Repr

/-- A checkpoint (R345): its skim, the train time of the write, its CRC, the state of the stateful terms, and the contents that
the cores' program made: the persistent region, which holds those terms in its own way, and the registers. -/
structure Checkpoint where
  skim : Nat
  time : Int
  crc : Nat
  terms : Tab TermSt
  persistent : Bytes
  regs : List Word32
  ctrl : Bytes
deriving DecidableEq, Repr

/-- A resynchronisation (R338): its core, and when it was by the local count and, once that exists, by train time. -/
structure Resync where
  core : Nat
  clk : Nat
  train : Option Int
deriving DecidableEq, Repr

/-- A record of the mismatch log (R348). -/
structure Mismatch where
  time : Int
  skim : Nat
  lane : Nat
  outcome : Nat
  clock : Nat
deriving DecidableEq, Repr

/-- The value of an equation or of a stack entry: Boolean or number, with its valid bit (R355). -/
structure EqVal where
  isBool : Bool
  v : Int
  ok : Bool
deriving DecidableEq, Repr

/-- The safety cycle that runs (R329): its skim, whether it has met no mismatch of any kind, the equations' values
and the state of the terms after it. -/
structure SafeCycle where
  n : Nat
  clean : Bool
  vals : List EqVal
  terms : Tab TermSt
deriving DecidableEq, Repr

/-- A core (R325, R350): registers, control registers and TCM cells that were written, whether it is held in reset, and the
corrected TCM errors counted (R333). Of the cells not listed, the image region holds the golden image once it is `loaded`, the
persistent region `persistent`, none of it known once the program has run, and a control register is 0 while `cleared` (R332). -/
structure CoreSt where
  regs : List Word32
  ctrl : Tab Word32
  tcm : Tab Byte
  held : Bool
  corrected : Nat
  loaded : Bool
  persistent : Option Bytes
  cleared : Bool
deriving DecidableEq, Repr

/-- Every register and every word of the TCM is zero (R332). -/
def CoreSt.init : CoreSt := ⟨List.replicate 32 0, [], [], false, 0, false, some [], true⟩

/-- The delay lines of R328 and R330: those of the lanes of A and B, and those of the read data of B and C. -/
inductive DelayLine where
  | laneA | laneB | readB | readC
deriving DecidableEq, Repr

/-- The core that owns a delay line (R331): A 1, B 2, C 3. -/
def DelayLine.owner : DelayLine → Nat
  | .laneA => 1 | .laneB => 2 | .readB => 2 | .readC => 3

/-- A delay register (R331): its line and lane, its content, and its parity bits, one per 8 bits. -/
structure DelayReg where
  line : DelayLine
  lane : Nat
  content : Nat
  parity : Nat
deriving DecidableEq, Repr

/-- A read through the shared read port (R328): the voted address and size, and the data of the one read. -/
structure SharedRead where
  addr : Nat
  size : Nat
  data : Bytes
deriving DecidableEq, Repr

/-- Split mode (R350, R351): whether core A is halted, its instruction count, the replay buffer's entries, the
running CRC of A's lanes, and the last replay's result: instruction count and lane, 0 for none. -/
structure SplitSt where
  halted : Bool
  count : Nat
  buffer : List Bytes
  full : Bool
  laneCrc : Nat
  replay : Option (Nat × Nat)
deriving DecidableEq, Repr

/-- Results staged for To(n) (R360): the output commands, and which outputs the table drives. -/
structure StagedSafe where
  n : Nat
  cmd : BitVec 8
deriving DecidableEq, Repr

/-- The inputs and readback latched at Ts(n) (R153, R355). -/
structure IoLatch where
  n : Nat
  hv : BitVec 16
  hvFault : BitVec 16
  readback : BitVec 8
  outFault : BitVec 8
deriving DecidableEq, Repr

/-- The safety complex and the discrete I/O. Cores are A 1, B 2, C 3. -/
structure SafeSt where
  state : SafeState
  failed : Nat
  minority : Nat
  resyncing : Bool
  resyncs : List Resync
  restarts : List Nat
  compFaults : List Nat
  scratchFail : Bool
  scratchResult : Nat
  compFaultBit : Bool
  replayMismatch : Bool
  log : List Mismatch
  slot0 : Option Checkpoint
  slot1 : Option Checkpoint
  cores : List CoreSt
  cycle : Option SafeCycle
  cycleAt : Nat
  /-- the local count at the start of the safety cycle (R348) -/
  cycleStart : Nat
  /-- what voted stores wrote in the shared safety store and in output registers (R335, R344) -/
  store : Mem
  outRegs : Tab Word32
  /-- the shared read port's latest read, and the delay registers as the comparator last met a difference (R328, R331) -/
  readPort : Option SharedRead
  delays : List DelayReg
  /-- equation tables as images, in force and waiting for the next full scratch test (R354) -/
  table : Option Bytes
  pendingTable : Option Bytes
  terms : Tab TermSt
  /-- outputs wait for a fully voted cycle, and the skim whose To ends that (R340, R368) -/
  hold : Bool
  release : Option Nat
  overruns : List Nat
  staged : List StagedSafe
  /-- safety frames' payloads by the skim they belong to (R361) -/
  frames : List (Nat × List Bytes)
  /-- inputs: raw reading, comparator fault -/
  hv : BitVec 16
  hvFault : BitVec 16
  latches : List IoLatch
  /-- the state applied at the latest To, and when each output last switched -/
  applied : BitVec 8
  switched : List Nat
  readback : BitVec 8
  chFault : BitVec 8
  safeOffFault : BitVec 8
  /-- faults cleared by command that wait for a clean readback: channels, and `SAFE_OFF` -/
  clearing : BitVec 8
  clearingOff : Bool
  /-- the supply monitor holds `SAFE_OFF` open (R518) -/
  supplyOpen : Bool
  pulseAt : List Nat
  split : Option SplitSt
deriving DecidableEq, Repr

def SafeSt.init : SafeSt :=
  { state := .scratch, failed := 0, minority := 0, resyncing := false, resyncs := [], restarts := [], compFaults := [],
    scratchFail := false, scratchResult := 0, compFaultBit := false, replayMismatch := false, log := [],
    slot0 := none, slot1 := none, cores := List.replicate 3 CoreSt.init, cycle := none, cycleAt := 0, cycleStart := 0,
    store := [], outRegs := [], readPort := none, delays := [], table := none,
    pendingTable := none, terms := [], hold := true, release := none, overruns := [], staged := [], frames := [],
    hv := 0, hvFault := 0, latches := [], applied := 0, switched := List.replicate 8 0, readback := 0, chFault := 0,
    safeOffFault := 0, clearing := 0, clearingOff := false, supplyOpen := false, pulseAt := List.replicate 8 0,
    split := none }

end Sys2Proof.Machine
end

