-- ==== Sys2Proof/Machine/StSession.lean ====
section
/-! DEFINITION. The state of command sessions, transfers and the host port (spec files 17 and 18). -/

namespace Sys2Proof.Machine

/-- A kept reply (R456): the request's sequence and check, the reply, and the instant it was sent. -/
structure Kept where
  seq : Nat
  check : Nat
  reply : Bytes
  at_ : Nat
deriving DecidableEq, Repr

/-- A command session (R446): instant of its last packet, accepted requests not yet executed (R454), kept replies (R456),
and of each waiting read the skim that was current when it was accepted (R181). -/
structure SessSt where
  sess : Session
  last : Nat
  queue : List Packet
  kept : List Kept
  reads : List (Packet × Nat)
deriving DecidableEq, Repr

/-- An image transfer (R457). `target` is 0 for a kind without one. `cls` is the authority class claimed
at its begin. -/
structure Transfer where
  kind : Nat
  target : Nat
  owner : Session
  total : Nat
  data : Bytes
  last : Nat
  cls : Nat
deriving DecidableEq, Repr

/-- A message of kind 0x07 or 0x08 under reassembly (R460): source channel, tag, the channel it is for, the
number of its last fragment, the fragments by number, and the cycle of its message window. -/
structure Reasm where
  kind : Nat
  chan : Nat
  tag : Nat
  dest : Nat
  last : Nat
  parts : Tab Bytes
  cycle : Nat
deriving DecidableEq, Repr

/-- Sessions and transfers (spec file 17). -/
structure CmdSt where
  sessions : List SessSt
  /-- the session that firmware served last (R454) -/
  turn : Option Session
  /-- of the packet being served, a read of the current skim: the skim that was current at its acceptance (R181) -/
  servedSkim : Option Nat
  transfers : List Transfer
  /-- transfers discarded under R453, whose next chunk or finish is answered `PRESENCE_REQUIRED` -/
  lapsed : List (Nat × Nat × Session)
  reasm : List Reasm
  /-- replies that arrived as requests, and Mn without a packet: discarded and counted (R451) -/
  discarded : Nat
deriving DecidableEq, Repr

def CmdSt.init : CmdSt := ⟨[], none, none, [], [], [], 0⟩

/-- The host port (spec file 18). -/
structure HostSt where
  intStatus : Word32
  intMask : Word32
  cmdLength : Nat
  /-- `CMD_LENGTH` as the write of `GO` gave it to the packet that waits (R470) -/
  goLength : Nat
  cmdFull : Bool
  replyHeld : Bool
  replyLength : Nat
  replyQueue : List Bytes
  cmdWin : Mem
  replyWin : Mem
  trainTimeLo : Nat
  resetCause : Nat
  ready : Bool
  booting : Bool
  /-- `RESET_N` is held (R473) -/
  resetHeld : Bool
deriving DecidableEq, Repr

/-- The reset column of R468, R469 and R472. -/
def HostSt.init : HostSt :=
  ⟨0, 0, 0, 0, false, false, 0, [], [], [], 0, 0, false, true, false⟩

end Sys2Proof.Machine
end

