-- ==== Sys2Proof/Machine/StSetout.lean ====
section
/-! DEFINITION. The state of the set-out engine and of train time and position (spec files 04 and 05). -/

namespace Sys2Proof.Machine

/-- The states of the set-out engine, in the order of the table in R98. -/
inductive SetoutState where
  | settling | claiming | waiting | census | committing | committed | absorbing
deriving DecidableEq, Repr

/-- An entry of a numbering (R55, type 0x8). -/
structure Entry where
  uuid : Nat
  pos : Nat
  slot : Nat
  orient : Bool
  absent : Bool
  cab : Bool
  units : Nat
  arr : Nat
deriving DecidableEq, Repr

/-- A numbering: counter, flags, line rate, commit cycle and entries in order of position. -/
structure Numbering where
  topo : Nat
  rate25 : Bool
  split : Bool
  headless : Bool
  merge : Bool
  commit : Nat
  entries : List Entry
deriving DecidableEq, Repr

/-- A census reply as delivered (R109). -/
structure CensusReply where
  uuid : Nat
  arrival : Int
  port : LinePort
  orient : Bool
  units : Nat
  key : Nat
  counter : Nat
deriving DecidableEq, Repr

/-- What a merge claim and the exchanged table say of the other train (R128). -/
structure FarTrain where
  key : Nat
  uuid : Nat
  counter : Nat
  table : Option Numbering
deriving DecidableEq, Repr

/-- Triggers of an in-service renumbering that the lead has not served yet (R99, R118). -/
inductive Trigger where
  | absent (pos : Nat)
  | join (pos : Nat) (uuid : Nat) (key : Nat) (orient : Bool) (units : Nat)
  | cab (pos : Nat) (key : Nat)
  | rateLow
  | command
  | merge
deriving DecidableEq, Repr

/-- The set-out engine (spec file 04). Instants are on the local count. -/
structure SetoutSt where
  state : SetoutState
  /-- latest probe payload received per port (R102) -/
  probes : Ports (Option Bytes)
  /-- the topology counter in the header of that probe (R143) -/
  probeTopo : Ports Nat
  firstLink : Option Nat
  claimFrom : Nat
  lastClaim : Nat
  keys : List Nat
  waitFrom : Nat
  lastLeadStart : Option Nat
  runNo : Nat
  runFrom : Nat
  runOpen : Bool
  replies : List CensusReply
  prevRun : Option (List (Nat × Bool × Nat))
  quietUntil : Nat
  /-- a census reply due 4.0 µs after the request that arrived on this port (R108) -/
  replyDue : Option LinePort
  numbering : Option Numbering
  /-- the last committed table, kept in flash (R111) -/
  retained : Option Numbering
  /-- the counter in force before the present numbering, and the cycle from which the present one counts (R120) -/
  before : Option (Nat × Nat)
  /-- the topology counter of the latest delivered cycle-start (R146) -/
  startTopo : Option Nat
  /-- instant of the latest probes by PROBE_TIMER (R102) -/
  probedAt : Option Nat
  /-- a delivered numbering whose commit frame has not arrived, and the reverse -/
  offered : Option Bytes
  pending : Option Numbering
  /-- the cycle in which the pending numbering was delivered (R119) -/
  pendingAt : Option Nat
  /-- the pending numbering was delivered by repeats while its counter was already in force (R119) -/
  late : Bool
  ackDue : Bool
  acks : List (Nat × Nat)
  /-- earlier numberings that the lead still repeats, with their acknowledgements (R118, R119) -/
  olds : List (Numbering × List (Nat × Nat))
  attempts : Nat
  ackFrom : Nat
  lease : Bool
  expiry : Nat
  lastStart : Nat
  leadKey : Nat
  /-- the key of the latest delivered census request, until a numbering comes into force (R106, R108) -/
  censusKey : Option Nat
  /-- the lead repeats its latest numbering up to this cycle (R118) -/
  repeatTo : Option Nat
  issued : Option Numbering
  silent : Tab Nat
  heard : List Nat
  absentOrder : List Nat
  /-- latest supervision payload of each unit, by position × 16 + unit, with the cycle it was delivered in -/
  sups : Tab (Nat × Bytes)
  /-- this unit's supervision payload as it last sent it; empty before (R126) -/
  ownSup : Bytes
  triggers : List Trigger
  reporting : Ports Bool
  cabActive : Bool
  claimDue : Bool
  /-- earliest instant of the line B retraining after a lowered rate (R126) -/
  retrainB : Option Int
  boundary : Ports Bool
  /-- ports opened in a merge whose partner has not adopted its numbering yet (R122, R129) -/
  merging : Ports Bool
  far : Option FarTrain
  /-- this train survives the merge with `far` -/
  survivor : Bool
  mergeClaimDue : Bool
  farTableDue : Bool
  /-- the merge with `far` is refused: more than 64 present vehicles (R128) -/
  refused : Bool
  /-- the absorbed train's table and lead key, at the survivor's lead (R129) -/
  absorbed : Option (Numbering × Nat)
  absorbFrom : Nat
  /-- the lease passes to another unit at this cycle (R124) -/
  handoverAt : Option Nat
  /-- the set-out under way is a lapse set-out, with the counter in force at the lapse (R112) -/
  lapse : Option Nat
  takeLease : Bool
  /-- Ts of the commit cycle of a numbering that this unit committed outside a running cycle (R114) -/
  commitTs : Option Int
  /-- the lead yields with its next cycle-start (R117) -/
  yielding : Bool
deriving DecidableEq, Repr

def SetoutSt.init : SetoutSt :=
  { state := .settling, probes := Ports.all none, probeTopo := Ports.all 0, firstLink := none, claimFrom := 0, lastClaim := 0,
    keys := [], waitFrom := 0, lastLeadStart := none, runNo := 0, runFrom := 0, runOpen := false, replies := [],
    prevRun := none, quietUntil := 0, replyDue := none, numbering := none, retained := none, before := none, startTopo := none, probedAt := none,
    offered := none, pending := none, pendingAt := none, late := false, ackDue := false, acks := [], olds := [], attempts := 0,
    ackFrom := 0, lease := false, expiry := 0, lastStart := 0, leadKey := 0, censusKey := none, repeatTo := none,
    issued := none, silent := [], heard := [], absentOrder := [], sups := [], ownSup := [], triggers := [],
    reporting := Ports.all false, cabActive := false, claimDue := false, retrainB := none,
    boundary := Ports.all false, merging := Ports.all false, far := none, survivor := false, mergeClaimDue := false,
    farTableDue := false, refused := false, absorbed := none, absorbFrom := 0, handoverAt := none, lapse := none,
    takeLease := false, commitTs := none, yielding := false }

/-- The states of the timebase, with the codes of node signal 0x01 (R136). -/
inductive Timebase where
  | unset | tracking | coasting | holdover
deriving DecidableEq, Repr

/-- A delay exchange on a port (R142): the request's transmit time while a response is awaited, and the
result of a kept exchange in this cycle. -/
structure Exchange where
  t1 : Option Int
  sentAt : Nat
  delta : Option Int
  delay : Option Int
deriving DecidableEq, Repr

/-- The last values of arrival − fragment for a source at a port (R147). -/
structure PathDelay where
  port : LinePort
  src : Source
  vals : List Int
deriving DecidableEq, Repr

/-- An entry of the event table (R161). -/
structure EventEntry where
  kind : Nat
  action : Nat
  enable : Bool
  repeats : Bool
  fired : Bool
  skipped : Bool
  target : Int
  interval : Nat
  object : Nat
  value : Nat
deriving DecidableEq, Repr

/-- What a tachometer's judgement keeps (R155): the end of its over-range time, its last edge, and the
flags of the latest cycle. -/
structure TachSt where
  overUntil : Nat
  lastEdge : Nat
  stuck : Bool
deriving DecidableEq, Repr

/-- A vehicle port as PTP grandmaster (R165): sequence ids and Announce messages of foreign clocks. -/
structure PtpSt where
  syncSeq : Nat
  annSeq : Nat
  foreign : Nat
  syncAt : Option Nat
  annAt : Option Nat
deriving DecidableEq, Repr

/-- Train time and train position (spec file 05). `f` and `phase` are in units of 1/(512 × 10^6);
`now` is train time in ns and `frac` the part of the next ns, in the same unit. -/
structure TimeSt where
  base : Timebase
  now : Int
  frac : Nat
  f : Int
  phase : Int
  offset : Nat
  /-- local instant of the latest correction (R146) -/
  offsetAt : Nat
  corrected : Bool
  /-- the cycle before passed with no correction, and none has come since (R136) -/
  uncorrected : Bool
  exchanges : Ports Exchange
  delays : List PathDelay
  csArrival : Ports (Option Int)
  /-- the path-delay values of this cycle's cycle-start, not yet in the mean (R147) -/
  startDelays : List (LinePort × Source × Int)
  /-- the lead's measured position, µm, and speed, mm/s (R157) -/
  posUm : Int
  speed : Int
  posValid : Bool
  odoPos : Option Nat
  odoInvalid : Nat
  odoMissing : Nat
  /-- values carried by the latest delivered cycle-start, and the position of the one before (R158) -/
  carried : Int
  carriedPrev : Option Int
  carriedSpeed : Int
  carriedCycle : Nat
  carriedValid : Bool
  /-- a commanded step that the next cycle-start carries (R160) -/
  timeStep : Int
  posStep : Int
  /-- the cycle whose cycle-start carries it -/
  stepAt : Nat
  tach1 : TachSt
  tach2 : TachSt
  /-- distance, µm, speed and status of the latest cycle's odometry (R154) -/
  distance : Int
  tachSpeed : Int
  tachStatus : Nat
  events : List EventEntry
  ptp : Tab PtpSt
deriving DecidableEq, Repr

def TimeSt.init : TimeSt :=
  { base := .unset, now := 0, frac := 0, f := 0, phase := 0, offset := 0, offsetAt := 0, corrected := false,
    uncorrected := false, exchanges := Ports.all ⟨none, 0, none, none⟩, delays := [], csArrival := Ports.all none, startDelays := [], posUm := 0,
    speed := 0, posValid := false, odoPos := none, odoInvalid := 0, odoMissing := 0, carried := 0,
    carriedPrev := none, carriedSpeed := 0, carriedCycle := 0, carriedValid := false, timeStep := 0,
    posStep := 0, stepAt := 0, tach1 := ⟨0, 0, false⟩, tach2 := ⟨0, 0, false⟩, distance := 0, tachSpeed := 0,
    tachStatus := 0, events := [], ptp := [] }

end Sys2Proof.Machine
end

