-- ==== Sys2Proof/Machine/StStart.lean ====
section
/-! DEFINITION. The state of presence, images, the monitor, start-up and supply (spec files 19 to 22). -/

namespace Sys2Proof.Machine

/-- A presence input (R479, R480). `active` is its qualified state: pressed, fitted or loop open. -/
structure PInput where
  raw : Bool
  active : Bool
  fault : Bool
deriving DecidableEq, Repr

/-- The presence inputs of one unit (R476, R478). `pressed` is the instant of the present qualified press;
`windowEnd` the close of the button's window while it is open; the windows of the other inputs are open
while their flag is set. -/
structure PresenceSt where
  button : PInput
  jumper : PInput
  sealLoop : PInput
  debugJumper : PInput
  pressed : Option Nat
  windowEnd : Option Nat
  jumperOpen : Bool
  sealOpen : Bool
  debugOpen : Bool
deriving DecidableEq, Repr

def PresenceSt.init : PresenceSt :=
  ⟨⟨false, false, false⟩, ⟨false, false, false⟩, ⟨false, false, false⟩, ⟨false, false, false⟩,
    none, none, false, false, false⟩

/-- The states of an image bank (R485). -/
inductive BankState where
  | empty | writing | loaded | active | trial | rejected
deriving DecidableEq, Repr

/-- One bank: its state and the image it holds, header first (R484). -/
structure Bank where
  state : BankState
  image : Bytes
deriving DecidableEq, Repr

/-- The two banks of one kind (R483, R488, R489): the running and the selected bank (0 or 1), the stored
floor, and the resets of cause 0 or 3 that the running trial has seen. -/
structure Banks where
  b0 : Bank
  b1 : Bank
  running : Nat
  selected : Nat
  floor : Nat
  trialStarts : Nat
  /-- a bank of this kind was found usable at the last start (R508) -/
  usable : Bool
deriving DecidableEq, Repr

/-- A transfer is writing one of the banks. -/
def Banks.writing (b : Banks) : Bool := b.b0.state == .writing || b.b1.state == .writing

/-- Images and keys (spec file 19). -/
structure ImageSt where
  fw : Banks
  cf : Banks
  /-- the integrator key and its id -/
  key : Option (Bytes × Nat)
  /-- release from reset of the present trial -/
  releasedAt : Nat
  /-- consecutive cycles joined since that release (R489) -/
  joinedRun : Nat
  readyAt : Option Nat
  /-- a fully voted cycle has applied since the release (R489) -/
  votedApplied : Bool
  /-- instant of a reset command to come (R488) -/
  resetAt : Option Nat
  /-- versions to log as `IMAGE_ACTIVATED` once the recorder runs: version and rollback flag -/
  toLog : List (Nat × Bool)
deriving DecidableEq, Repr

/-- The monitor on port M (spec file 20). -/
structure MonitorSt where
  baud : Nat
  packetMode : Bool
  /-- the line being received -/
  line : Bytes
  /-- complete lines not yet read, oldest first -/
  lines : List Bytes
  /-- a command whose status line has not been sent -/
  busy : Bool
  /-- bytes held while busy (R496) -/
  held : Bytes
  /-- the places in `held` of the lines that overflow discarded, and whether the present one is being discarded -/
  overflows : List Nat
  dropping : Bool
  /-- the tag of a replay whose result the last command waits for -/
  wait : Option Nat
  /-- the last character was CR, so that an LF does not end another line -/
  lastCr : Bool
  /-- bytes of the packet-mode frame being received -/
  rx : Bytes
  lastByte : Nat
  /-- sequence of the next packet that a command sends -/
  seq : Nat
deriving DecidableEq, Repr

/-- R493: 115,200 baud when the image sets none. -/
def MonitorSt.init : MonitorSt := ⟨115200, false, [], [], false, [], [], false, none, false, [], 0, 0⟩

/-- How far a start has come (R504): without supply, step 1, step 2, step 3, step 5. -/
inductive Boot where
  | unpowered | powered | checked | island | running
deriving DecidableEq, Repr

/-- Start-up, resets and supply (spec files 21 and 22). -/
structure StartSt where
  boot : Boot
  parked : Bool
  /-- the unit was parked before this start (R443, R510) -/
  wasParked : Bool
  /-- instants of watchdog resets within 600 s (R510) -/
  watchdogs : List Nat
  /-- the health word last written by the management side (R27) -/
  health : Nat
  /-- the real-time alarm's count at `clk` 0, and the count saved in flash (R512) -/
  rtcBase : Int
  rtcSaved : Nat
  alarmRestarted : Bool
  /-- source of the last wake, 0 for a power-on, 0xFF after a reset of cause 1 to 3 (R443) -/
  startSource : Nat
  /-- supply at X1, 0.1 V; cabinet temperature, 0.1 °C (R520) -/
  supply : Nat
  temp : Int
  supplyOutSince : Option Nat
  supplyInSince : Option Nat
  supplyWarn : Bool
  /-- when temperature and supply were tallied last (R430's table: once per second) -/
  tallyAt : Nat
  tempWarn : Bool
  /-- the converter is stopped by overvoltage or by its own temperature (R515, R520) -/
  overvoltStop : Bool
  overtempStop : Bool
  /-- the hold-up bus has fallen to 20 V (R518), and the instant the supply returned -/
  holdLow : Bool
  /-- output feeds below 14.0 V, or not yet 2 ms above 15.0 V (R525) -/
  feed1Low : Bool
  feed2Low : Bool
  /-- when port M last sent the line `no firmware` (R508) -/
  noFirmwareAt : Option Nat
deriving DecidableEq, Repr

def StartSt.init : StartSt :=
  ⟨.unpowered, false, false, [], 0, 0, 0, false, 0, 0, 0, none, none, false, 0, false, false, false, false,
    false, false, none⟩

end Sys2Proof.Machine
end

