-- ==== Sys2Proof/Machine/State.lean ====
section
/-! DEFINITION. The state of the node, its value at reset, and the reasons a command can stop. -/

namespace Sys2Proof.Machine

/-- What leaves the node, in the order in which it leaves. -/
inductive Out where
  /-- an originated frame, on the ports listed; the port's frames carry its line (R43) -/
  | line (ports : List LinePort) (f : Frame)
  /-- a forwarded copy: port, bytes, and whether it ends with the stomp code (R40, R52) -/
  | forward (p : LinePort) (b : Bytes) (stomped : Bool)
  /-- the copy being forwarded on a port ends with the stomp code (R84) -/
  | cut (p : LinePort)
  /-- the node drives a 20 ms wake pulse on a wake wire (R408, R409) -/
  | wakePulse (p : LinePort)
  /-- TC10 wake and sleep requests on a link: 1 to 4 the train-line ports, 5 and 6 the peer pairs (R408) -/
  | tc10Wake (link : Nat)
  | tc10Sleep (link : Nat)
  /-- a record or frame on the peer ring: channel and content (R378, R382) -/
  | peer (channel : Nat) (b : Bytes)
  /-- a request of this unit that the composing unit serves leaves on the peer ring; no format is stated (R190, R223) -/
  | passed (p : Packet)
  /-- a reply that leaves the node on port M, as a text line or in packet mode (R495, R499) -/
  | monitor (b : Bytes)
  /-- the data lines of a monitor command's reply: opcode and reply data (R498) -/
  | monitorData (opcode : Nat) (data : Bytes)
  /-- a frame leaves a vehicle port V1 to V16 (R259, R265) -/
  | vehicle (port : Nat) (f : VFrame)
  /-- a CAN frame leaves C1 to C4 (R302) -/
  | can (port : Nat) (f : CanOut)
  /-- an MVB master frame, F-code and address, or a slave frame's data, leaves a bus (R293 to R295) -/
  | mvbMaster (port fcode addr : Nat)
  | mvbSlave (port addr : Nat) (data : Bytes)
  /-- a byte queued by a serial float leaves its port (R317) -/
  | serial (port : Nat) (b : Byte)
  /-- the words that a host read returns on `HOST_MISO` (R464) -/
  | host (words : List Word32)
deriving DecidableEq, Repr

/-- The state of the node. -/
structure State where
  /-- commands that wait, first in first out -/
  pending : List Instr
  /-- the always-on count of ns since the machine's start -/
  clk : Nat
  /-- free values taken so far (the model's own field; log entry 6) -/
  freeCount : Nat
  out : List Out
  /-- unit id (48 bits), hardware issue, unit number (0 while invalid), `UPOS` code, placement (R1, R372) -/
  unitId : Nat
  hwIssue : Nat
  unitNo : Nat
  upos : Nat
  unplaced : Bool
  /-- the running configuration; none while the unit is unconfigured (R508) -/
  cfg : Option Cfg
  line : LineSt
  cyc : CycleSt
  set : SetoutSt
  time : TimeSt
  skim : SkimSt
  route : Routing
  bridge : BridgeSt
  veh : VehSt
  fld : FieldSt
  recorder : RecorderSt
  cmd : CmdSt
  host : HostSt
  pres : PresenceSt
  img : ImageSt
  mon : MonitorSt
  start : StartSt
  pair : PairSt
  sleep : SleepSt
  safe : SafeSt
deriving DecidableEq, Repr

/-- The reasons a command could stop the machine. The spec gives none: every frame, packet and table fault
is a status bit, a refused command or a logged event, after which the node goes on. No meaning answers it. -/
inductive Fault where
  /-- never raised (safe) -/
  | none
deriving DecidableEq, Repr

/-- Why a command has no meaning. -/
inductive Refusal where
  /-- raised only by the arms of `exec` for rows that have no meaning yet; names the row (safe) -/
  | notModelled (mnemonic : String)
deriving DecidableEq, Repr

/-- A bank that holds nothing (R485). -/
def Bank.blank : Bank := ⟨.empty, []⟩

/-- The factory firmware image's header (R484): version 1, floor 0, every hardware issue. Its digest and
signature are the factory's (log entry 9). -/
def factoryFirmware : Bytes :=
  be 4 0x4358494D ++ [0x08, 0x01] ++ zeros 2 ++ be 4 1 ++ be 4 0 ++ be 4 1 ++ [0x01, 0xFF] ++ zeros 2 ++
    zeros 4 ++ zeros 4 ++ fit (Config.sha256 (zeros 1)) 32 ++ fit Config.factorySignature 64 ++ zeros 128 ++ zeros 1

/-- The banks of an as-manufactured unit: one firmware bank active, no configuration (log entry 9). -/
def ImageSt.init : ImageSt :=
  { fw := ⟨⟨.active, factoryFirmware⟩, Bank.blank, 0, 0, 0, 0, true⟩,
    cf := ⟨Bank.blank, Bank.blank, 0, 0, 0, 0, false⟩,
    key := none, releasedAt := 0, joinedRun := 0, readyAt := none, votedApplied := false, resetAt := none,
    toLog := [] }

/-- The node before its supply enters range: an as-manufactured unit (log entries 3, 4, 9). -/
def State.reset : State :=
  { pending := [], clk := 0, freeCount := 0, out := [], unitId := 0, hwIssue := 1, unitNo := 1, upos := 0,
    unplaced := false, cfg := none, line := LineSt.init, cyc := CycleSt.init, set := SetoutSt.init,
    time := TimeSt.init, skim := SkimSt.init, route := Routing.init, bridge := BridgeSt.init, veh := VehSt.init, fld := FieldSt.init,
    recorder := RecorderSt.init, cmd := CmdSt.init, host := HostSt.init, pres := PresenceSt.init,
    img := ImageSt.init, mon := MonitorSt.init, start := StartSt.init, pair := PairSt.init,
    sleep := SleepSt.init, safe := SafeSt.init }

end Sys2Proof.Machine
end

