-- ==== Sys2Proof/Machine/Operands.lean ====
section
/-! DEFINITION. The formats of frames and packets: headers, payload layouts and their tests, numberings,
message bodies, parameter items. -/

namespace Sys2Proof.Machine

/-! ### The common header (R46) and the FCS (R50, R51) -/

/-- Bytes 0 to 21 of a frame's header. -/
def headerCore (f : Frame) : Bytes :=
  be 1 (f.version * 16 + f.ftype) ++ [f.flags] ++ be 4 f.topo ++ be 4 f.cycle ++ be 1 f.srcPos ++
    be 1 (f.srcUnit * 16 + f.line) ++ be 2 f.channel ++ be 2 f.seq ++ be 2 f.payload.length ++ be 4 f.fragment

/-- The 24-byte header with its check (R46, R47). -/
def headerBytes (f : Frame) : Bytes := headerCore f ++ be 2 (crc16 (headerCore f))

/-- The FCS field over the bytes before it, transmitted as IEEE 802.3 specifies: least significant byte of
the CRC-32 first (R50). -/
def fcsBytes (b : Bytes) : Bytes := (be 4 (crc32 b)).reverse

/-- The stomp code over the bytes before it (R51). -/
def stompBytes (b : Bytes) : Bytes := (fcsBytes b).map (fun x => ~~~x)

/-- A whole frame: header, payload, padding to 64 bytes (R48), FCS. -/
def frameBytes (f : Frame) : Bytes :=
  let b := headerBytes f ++ f.payload
  let b := b ++ zeros (60 - b.length)
  b ++ fcsBytes b

/-- The header in the first 24 bytes, with its payload length; none when its check fails (R40, R47). -/
def parseHeader (b : Bytes) : Option (Frame × Nat) :=
  if b.length < 24 then none
  else if crc16 (b.take 22) ≠ field b 22 2 then none
  else some
    ({ version := field b 0 1 / 16, ftype := field b 0 1 % 16, flags := (b.getD 1 0), topo := field b 2 4,
       cycle := field b 6 4, srcPos := field b 10 1, srcUnit := field b 11 1 / 16, line := field b 11 1 % 16,
       channel := field b 12 2, seq := field b 14 2, fragment := field b 18 4, payload := [] },
     field b 16 2)

/-- The length that a payload length gives a frame (R48). -/
def frameLength (plen : Nat) : Nat := max 64 (28 + plen)

def fromLead (f : Frame) : Bool := f.flags.getLsbD 7
def isSafety (f : Frame) : Bool := f.flags.getLsbD 6
def isLast (f : Frame) : Bool := f.flags.getLsbD 3
def hasMore (f : Frame) : Bool := f.flags.getLsbD 1

/-! ### Publication records (R55, R57, R169, R177) -/

/-- Bytes of one element by width code; code 0 is counted in bits. -/
def widthBytes : Nat → Nat
  | 1 => 1 | 2 => 2 | 3 => 4 | 4 => 8 | 5 => 16 | _ => 0

/-- Bytes of a record's values, padded to a multiple of 4. -/
def recordValueBytes (width count : Nat) : Nat :=
  let n := if width = 0 then (count + 7) / 8 else count * widthBytes width
  (n + 3) / 4 * 4

/-- One record: first local id, width code, quality code, count and value bytes. -/
structure PubRecord where
  first : Nat
  width : Nat
  quality : Nat
  count : Nat
  values : Bytes
deriving DecidableEq, Repr

/-- Whether a record keeps its layout (R57, R169, R177). -/
def PubRecord.ok (r : PubRecord) : Bool :=
  r.width ≤ 5 && r.quality ≤ 7 && 1 ≤ r.count &&
    (r.width != 5 || r.first % 2 == 0) &&
    r.first + r.count * (if r.width = 5 then 2 else 1) ≤ 131072

/-- The records of a publication payload from its byte 4 on, and the bytes left after them. -/
def parseRecords : Nat → Bytes → Option (List PubRecord × Bytes)
  | 0, b => some ([], b)
  | k + 1, b =>
    if b.length < 8 then none
    else
      let head := field b 0 4
      let r : PubRecord :=
        { first := bits head 31 15, width := bits head 14 12, quality := bits head 11 8, count := field b 4 2,
          values := [] }
      let n := recordValueBytes r.width r.count
      if !r.ok || b.length < 8 + n then none
      else match parseRecords k (b.drop (8 + n)) with
        | none => none
        | some (rs, rest) => some ({ r with values := bslice b 8 n } :: rs, rest)

/-- The value of element `k` of a record, right-aligned. Bits are packed most significant first. -/
def PubRecord.value (r : PubRecord) (k : Nat) : Val :=
  if r.width = 0 then
    BitVec.ofNat 128 (b2n (bitOf ((r.values.getD (k / 8) 0).toNat) (7 - k % 8)))
  else BitVec.ofNat 128 (field r.values (k * widthBytes r.width) (widthBytes r.width))

/-- The publication's records; none when its payload breaks its layout (R547). -/
def pubRecords (f : Frame) : Option (List PubRecord) :=
  if f.payload.length < 4 then none
  else match parseRecords (field f.payload 0 2) (f.payload.drop 4) with
    | none => none
    | some (rs, rest) =>
      if rs.isEmpty || rest.length != (if isSafety f then 16 else 0) then none else some rs

/-- A record as bytes. -/
def PubRecord.bytes (r : PubRecord) : Bytes :=
  be 4 (r.first * 32768 + r.width * 4096 + r.quality * 256) ++ be 2 r.count ++ zeros 2 ++
    fit r.values (recordValueBytes r.width r.count)

/-! ### Numberings (R55, type 0x8) -/

def Entry.bytes (e : Entry) : Bytes :=
  be 16 e.uuid ++ be 1 e.pos ++ be 1 e.slot ++
    be 1 (b2n e.orient * 128 + b2n e.absent * 64 + b2n e.cab * 32) ++ be 1 (e.units * 16 + e.arr)

def Numbering.flags (t : Numbering) : Nat := b2n t.split + 2 * b2n t.headless + 4 * b2n t.merge

/-- The numbering payload. -/
def Numbering.bytes (t : Numbering) : Bytes :=
  be 4 t.topo ++ be 1 t.entries.length ++ be 1 (b2n t.rate25) ++ be 1 t.flags ++ zeros 1 ++ be 4 t.commit ++
    t.entries.flatMap Entry.bytes

def parseEntry (b : Bytes) : Entry :=
  let fl := field b 18 1
  { uuid := field b 0 16, pos := field b 16 1, slot := field b 17 1, orient := bitOf fl 7,
    absent := bitOf fl 6, cab := bitOf fl 5, units := field b 19 1 / 16, arr := field b 19 1 % 16 }

def Entry.ok (e : Entry) : Bool :=
  1 ≤ e.pos && e.pos ≤ 64 && e.slot ≤ 63 && 1 ≤ e.units && e.units ≤ 4 && e.arr ≤ 4

/-- The numbering of a payload, without its layout tests. -/
def parseNumbering (b : Bytes) : Numbering :=
  let n := field b 4 1
  { topo := field b 0 4, rate25 := field b 5 1 == 1, split := bitOf (field b 6 1) 0,
    headless := bitOf (field b 6 1) 1, merge := bitOf (field b 6 1) 2, commit := field b 8 4,
    entries := (List.range n).map (fun i => parseEntry (b.drop (12 + 20 * i))) }

def numberingOk (b : Bytes) : Bool :=
  12 ≤ b.length && 1 ≤ field b 4 1 && field b 4 1 ≤ 64 && b.length == 12 + 20 * field b 4 1 &&
    field b 5 1 ≤ 1 && (parseNumbering b).entries.all Entry.ok

/-! ### Messages (R55 type 0x5, R228) -/

def msgDest (f : Frame) : Nat := field f.payload 0 1
def msgUnit (f : Frame) : Nat := field f.payload 1 1 / 16
def msgKind (f : Frame) : Nat := field f.payload 2 1
def msgIndex (f : Frame) : Nat := field f.payload 3 1 / 16
def msgLastIndex (f : Frame) : Nat := field f.payload 3 1 % 16
def msgTag (f : Frame) : Nat := field f.payload 4 2
def msgBody (f : Frame) : Bytes := f.payload.drop 8
/-- The destination channel of a bridge message or a remote packet. -/
def msgChannel (f : Frame) : Nat := field f.payload 8 2

/-- The status codes of R450. -/
def statusCodes : List Nat :=
  [0x0000, 0x0001, 0x0002, 0x0101, 0x0102, 0x0103, 0x0104, 0x0105, 0x0106, 0x0201, 0x0202, 0x0203,
   0x0301, 0x0302, 0x0303, 0x0304, 0x0401, 0x0402, 0x0403, 0x0404]

/-- Whether the body of a bridge message of kinds 0x01 to 0x06 keeps the layout of R228. -/
def bridgeBodyOk (kind : Nat) (b : Bytes) : Bool :=
  match kind with
  | 1 => b.length == 28 && field b 1 1 != 0xFF && (field b 4 1 != 0xFF || field b 8 4 == 0) && [0x0, 0x2, 0xFF].contains (field b 4 1) && field b 5 1 ≤ 15 && field b 5 1 != 14 &&
      1 ≤ field b 6 2 && field b 6 2 ≤ 5000
  | 2 => b.length == 16 && field b 1 1 != 0xFF && field b 4 1 == 0 && field b 5 1 ≤ 15 && field b 5 1 != 14 &&
      1 ≤ field b 6 2 && field b 6 2 ≤ 5000 && field b 12 1 ≤ 1
  | 3 => b.length == 36 && field b 1 1 != 0xFF && [0x0000, 0x0401, 0x0402, 0x0403, 0x0103, 0x0404, 0x0203].contains (field b 4 2) &&
      field b 7 1 ≤ 15 && field b 7 1 != 14
  | 4 => b.length == 20 && field b 1 1 != 0xFF && [0x0, 0x2, 0xFE, 0xFF].contains (field b 4 1) && statusCodes.contains (field b 6 2)
  | 5 => b.length == 36 && field b 1 1 != 0xFF && [1, 2, 3, 4, 0x10, 0x11, 0x12, 0x13].contains (field b 4 1) && 1 ≤ field b 5 1
  | 6 => b.length == 12 && field b 1 1 != 0xFF && [1, 2, 3, 0x81, 0x82, 0x83, 0x84].contains (field b 4 1) &&
      1 ≤ field b 6 2 && field b 6 2 ≤ 256 && field b 8 2 ≤ 100
  | _ => false

/-- The layout of a message frame (R547). A remote packet's fragment 0 opens with its channel (R459); a mirror fallback is
one frame that holds a record of type 0x03 or 0x04 (R394). -/
def messageOk (f : Frame) : Bool :=
  let p := f.payload
  8 ≤ p.length && ((1 ≤ msgDest f && msgDest f ≤ 64) || msgDest f == 0xFF) && msgUnit f ≤ 4 &&
    msgKind f ≤ 9 && msgIndex f ≤ msgLastIndex f && field p 6 2 + 8 == p.length &&
    (msgKind f != 0 || p.length == 8) &&
    (!(1 ≤ msgKind f && msgKind f ≤ 6) ||
      (msgDest f != 0xFF && field p 3 1 == 0 && bridgeBodyOk (msgKind f) (msgBody f))) &&
    (!(msgKind f == 7 || msgKind f == 8) || msgIndex f != 0 || 4 ≤ (msgBody f).length) &&
    (msgKind f != 9 || (field p 3 1 == 0 && 12 ≤ (msgBody f).length && field p 10 2 < field p 16 2 &&
      ((field p 8 1 == 3 && (msgBody f).length == 20 && field p 16 2 == 1) || field p 8 1 == 4)))

/-! ### The layout test of every frame (R547) -/

def unitNibbleOk (lo x : Nat) : Bool := lo ≤ x && x ≤ 4

/-- Whether a frame's payload keeps the layout of its type. -/
def layoutOk (f : Frame) : Bool :=
  let p := f.payload
  match f.ftype with
  | 1 => p.length == 56 && field p 40 1 ≤ 5 && 1 ≤ field p 38 2 && field p 38 2 ≤ 1024 && field p 52 1 ≤ 1 &&
      1 ≤ field p 53 1 && field p 53 1 ≤ 8
  | 2 => (pubRecords f).isSome
  | 3 => p.length == 4
  | 4 => p.length == 8 && 1 ≤ field p 0 1 && field p 0 1 ≤ 64 && unitNibbleOk 0 (field p 1 1 / 16)
  | 5 => messageOk f
  | 6 => p.length == 28 && unitNibbleOk 1 (field p 22 1 / 16) && field p 22 1 % 16 ≤ 4 && field p 23 1 ≤ 3 &&
      (field p 24 1 ≤ 63 || field p 24 1 == 0xFF)
  | 7 => p.length == 32 && bits (field p 28 1) 6 4 ≤ 6
  | 8 => numberingOk p
  | 9 => p.length == 12
  | 10 => p.length == 24 && field p 4 1 ≤ 2 && field p 13 1 / 16 ≤ 4
  | 11 => p.length == 28 && field p 0 1 ≤ 1 && field p 1 1 ≤ 3
  | _ => false

/-- The types consumed by the port that receives them (R55). -/
def segmentOnly (t : Nat) : Bool := t == 6 || t == 11

/-- The frame types that are not assigned (R55). -/
def reservedType (t : Nat) : Bool := t == 0 || 13 ≤ t

/-! ### Parameter items (R448) -/

/-- The items of a parameter area; none when they do not fill it exactly. The fuel bounds the item count. -/
def parseItems : Nat → Bytes → Option (List Tlv)
  | 0, b => if b.isEmpty then some [] else none
  | k + 1, b =>
    if b.isEmpty then some []
    else if b.length < 4 then none
    else
      let n := field b 2 2
      let pad := (n + 3) / 4 * 4
      if b.length < 4 + pad then none
      else match parseItems k (b.drop (4 + pad)) with
        | none => none
        | some ts => some (⟨field b 0 2, bslice b 4 n⟩ :: ts)

/-- The value of the first item with a tag. -/
def pkItem (p : Packet) (tag : Nat) : Option Bytes := (p.items.find? (fun t => t.tag == tag)).map (·.val)

/-- The number in an item, or a default. -/
def pkNum (p : Packet) (tag : Nat) (d : Nat) : Nat := ((pkItem p tag).map beNat).getD d

/-- All values of a repeated item. -/
def pkNums (p : Packet) (tag : Nat) : List Bytes := (p.items.filter (fun t => t.tag == tag)).map (·.val)

def pkQuiet (p : Packet) : Bool := p.flags.getLsbD 6

def tlvBytes (t : Tlv) : Bytes := be 2 t.tag ++ be 2 t.val.length ++ fit t.val ((t.val.length + 3) / 4 * 4)

/-- A packet as bytes, with its check (R447). -/
def packetBytes (cls opcode seq flags : Nat) (params : Bytes) : Bytes :=
  let h := be 1 (16 + cls) ++ be 2 opcode ++ be 2 seq ++ be 1 flags ++ zeros 1 ++ be 2 params.length ++ zeros 3
  h ++ be 4 (crc32 (h ++ params)) ++ params

end Sys2Proof.Machine
end

