-- ==== Sys2Proof/Machine/Ops.lean ====
section
/-! DEFINITION. The named operations that the meanings share: time, identity, ports, originating a frame,
reporting an event, raising an interrupt, queueing a message. -/

namespace Sys2Proof.Machine

/-! ### Identity and arrangement -/

/-- The arrangement, 0 to 4 in the order of R19's table; a single while unconfigured. -/
def arrangement (s : State) : Nat := match s.cfg with | none => 0 | some c => c.node.arrangement

/-- The vehicle UUID (R1). -/
def vehicleUuid (s : State) : Nat := match s.cfg with | none => 0 | some c => c.node.uuid

def dictionary (s : State) : List SigDef := match s.cfg with | none => [] | some c => c.dictionary

/-- Whether the arrangement assigns a port to this unit (R19, R20). An unconfigured unit has none (R508). -/
def assigned (s : State) (p : LinePort) : Bool :=
  s.cfg.isSome && !s.unplaced &&
    (if arrangement s = 2 ∨ arrangement s = 4 then
       (s.unitNo == 1 && portLine p == .a) || (s.unitNo == 2 && portLine p == .b)
     else s.unitNo == 1)

/-- Whether this is a split-lines arrangement (R19). -/
def splitLines (s : State) : Bool := arrangement s == 2 || arrangement s == 4

/-- A unit attached to the train line. -/
def attached (s : State) : Bool := allPorts.any (assigned s)

def relayOpen (s : State) (p : LinePort) : Bool :=
  match portLine p with | .a => s.line.relayAOpen | .b => s.line.relayBOpen

/-- `LINK_UP` of a port (R61). -/
def linkUp (s : State) (p : LinePort) : Bool := (s.line.ports.get p).status.getLsbD 16

/-- The segment of a port is linked: at the line rate, or at another rate at a port without a neighbour, where it carries the
segment-only frames and the exchange of R128 alone (R34, R131; log entry 159). -/
def segUp (s : State) (p : LinePort) : Bool := linkUp s p || (s.line.ports.get p).offRate.isSome

/-- The rate of a linked segment (R61, R131). -/
def segRate25 (s : State) (p : LinePort) : Bool :=
  ((s.line.ports.get p).offRate).getD ((s.line.ports.get p).status.getLsbD 17)

/-- The ports on which the unit can transmit. -/
def upPorts (s : State) : List LinePort := allPorts.filter (fun p => assigned s p && linkUp s p)

/-- A boundary port: noted while the unit was `COMMITTED`, and closed until the absorbed unit has delivered a cycle-start
through it (R127, R129). -/
def isBoundary (s : State) (p : LinePort) : Bool :=
  s.set.boundary.get p && (decide (s.set.state = .committed) || decide (s.set.state = .absorbing))

/-- A boundary port transmits only probes, delay measures and the exchange frames (R127). -/
def openPorts (s : State) : List LinePort := (upPorts s).filter (fun p => !isBoundary s p)

/-- The entry of the own vehicle in a numbering. -/
def entryOf (t : Numbering) (uuid : Nat) : Option Entry := t.entries.find? (fun e => e.uuid == uuid)

def ownEntry (s : State) : Option Entry := s.set.numbering.bind (fun t => entryOf t (vehicleUuid s))

/-- The committed position, 0 while the unit has none (R46). -/
def ownPos (s : State) : Nat := match ownEntry s with | none => 0 | some e => e.pos

/-- The vehicle slot in force; none before a numbering is in force. -/
def ownSlot (s : State) : Option Nat := (ownEntry s).map (·.slot)

/-- The counter in force, or 0. -/
def topoInForce (s : State) : Nat := match s.set.numbering with | none => 0 | some t => t.topo

/-- The last committed counter, or 0 (R46). -/
def topoCommitted (s : State) : Nat := match s.set.retained with | none => 0 | some t => t.topo

/-- The unit composes its vehicle's publications: a single, the active unit or the stack master (R22). -/
def composing (s : State) : Bool :=
  match s.pair.role with | .single => true | .active => true | .master => true | _ => false

/-- The unit takes part in a running cycle (R100, R101). `running` alone means that it holds a grid. -/
def inCycle (s : State) : Bool := s.cyc.running && decide (s.set.state = .committed)

/-- Firmware and the management side run (R468). -/
def managing (s : State) : Bool := s.host.ready

/-! ### Time -/

/-- A 16-bit or 32-bit field of the schedule table in force; `d` while there is none. -/
def sched (s : State) (o k d : Nat) : Nat := match s.cyc.table with | none => d | some b => field b o k

/-- The cycle length C in ns (R64). -/
def cycleLen (s : State) : Nat := 1000000 * 2 ^ (sched s 4 1 2)

/-- A segment boundary in ns after Ts(n) + s(n) (R65). -/
def boundaryAt (s : State) (permille : Nat) : Nat := permille * cycleLen s / 1000

def pubStart (s : State) : Nat := boundaryAt s (sched s 12 2 25)
def msgStart (s : State) : Nat := boundaryAt s (sched s 14 2 625)
def supStart (s : State) : Nat := boundaryAt s (sched s 16 2 825)
def resStart (s : State) : Nat := boundaryAt s (sched s 18 2 865)

/-- The reserve length R (R81, R94). -/
def reserveLen (s : State) : Nat := cycleLen s - resStart s

def rowsOf (s : State) : Nat := max 1 (sched s 8 2 1)

/-- The row of cycle n (R73). -/
def rowIndex (s : State) (n : Nat) : Nat := n % rowsOf s

/-- The output delay D (R152). -/
def outDelay (s : State) : Nat := sched s 5 1 2

def outOffset (s : State) : Nat := sched s 6 2 0 * 1000

/-- Ts(k) on the grid of the present anchor (R152). -/
def tsOf (s : State) (k : Nat) : Int :=
  let d := cycDiff k s.cyc.n
  s.cyc.ts + (if d < 2147483648 then (d : Int) else (d : Int) - 4294967296) * (cycleLen s : Int)

/-- To(k) (R13). -/
def toOf (s : State) (k : Nat) : Int := tsOf s k + (outDelay s * cycleLen s + outOffset s : Nat)

/-- The latest cycle whose Ts has come: the grid runs ahead of a shifted timeline (R95). -/
def gridN (s : State) : Nat := cycAdd s.cyc.n s.cyc.ahead

def gridTs (s : State) : Int := s.cyc.ts + (s.cyc.ahead * cycleLen s : Nat)

/-- The next Ts on the own grid: the first of a new one, the anchor of a time step, or a cycle after the latest (R64, R96). -/
def nextTs (s : State) : Int :=
  if s.cyc.fresh then s.cyc.ts
  else match s.cyc.nextAnchor with | some a => a | none => gridTs s + (cycleLen s : Nat)

/-- The cycle whose Ts comes next. -/
def nextGrid (s : State) : Nat := if s.cyc.fresh then s.cyc.n else cycAdd (gridN s) 1

/-- The start of cycle n's communication timeline. -/
def lineStart (s : State) : Int := s.cyc.ts + s.cyc.shift

/-- Train time as 64 bits. -/
def time64 (t : Int) : Nat := (t % 18446744073709551616).toNat

/-- A train position as 64 signed bits, mm (R14). -/
def signed64 (v : Int) : Int :=
  let m := v % 18446744073709551616
  if m < 9223372036854775808 then m else m - 18446744073709551616

/-- A quotient whose rounding is open: the integer below or the one above (log entry 45). -/
def openDiv (s : State) (a b : Int) : Int :=
  if a % b = 0 then a / b else a / b + (if Config.freeBit s.freeCount then 1 else 0)

/-- A low 32-bit field extended to the value nearest the receiver's train time (R141). -/
def extend32 (now : Int) (low : Nat) : Int :=
  let base := now - now % 4294967296 + low
  if base - now > 2147483648 then base - 4294967296
  else if now - base > 2147483648 then base + 4294967296 else base

/-- The always-on domain's count of ns (R137). -/
def rtc (s : State) : Nat := (s.start.rtcBase + s.clk).toNat

/-! ### Free values, outputs, events and interrupts -/

/-- Notes `k` free values taken (log entry 6). -/
def tookFree (s : State) (k : Nat) : State := { s with freeCount := s.freeCount + k }

def emit (s : State) (o : List Out) : State := { s with out := s.out ++ o }

/-- The latest committed skim, or 0 before the first commit (R426, R467). -/
def skimNow (s : State) : Nat := match s.skim.retained with | [] => 0 | r :: _ => r.desc.skim

/-- A subsystem's report, stamped at its instant (R426). The recorder takes it with EVENT_REPORTED. -/
def stamp (s : State) (e : EventIn) : Report :=
  { ev := e, time := s.time.now, skim := skimNow s, topo := topoInForce s,
    localTime := s.time.base != .tracking }

def reportAll (s : State) (es : List EventIn) : State :=
  { s with recorder := { s.recorder with reports := s.recorder.reports ++ es.map (stamp s) } }

def report (s : State) (code subsystem : Nat) (measure : Int) (payload : Bytes) : State :=
  reportAll s [⟨code, subsystem, measure, payload⟩]

def reportIf (c : Bool) (s : State) (code subsystem : Nat) (measure : Int) (payload : Bytes) : State :=
  reportAll s (if c then [⟨code, subsystem, measure, payload⟩] else [])

/-- Sets a bit of `INT_STATUS` (R472). -/
def raiseInt (s : State) (k : Nat) : State :=
  { s with host := { s.host with intStatus := setBit s.host.intStatus k true } }

def raiseIntIf (c : Bool) (s : State) (k : Nat) : State :=
  let v := if c then setBit s.host.intStatus k true else s.host.intStatus
  { s with host := { s.host with intStatus := v } }

/-- Enters a timebase state, with the interrupt source of R472 when it changes. -/
def setTimebase (s : State) (b : Timebase) : State :=
  raiseIntIf (decide (s.time.base ≠ b)) { s with time := { s.time with base := b } } 10

/-! ### Port status -/

/-- The port's status with bit `k` set and a counter of `sel` counted; nothing on an unassigned port (R20). -/
def markPort (s : State) (p : LinePort) (k : Nat) (f : LPort → LPort) : State :=
  if assigned s p then
    { s with line := { s.line with ports := s.line.ports.adj p (fun q => f { q with status := setBit q.status k true }) } }
  else s

/-- A saturating 32-bit counter's next value (R11). -/
def count32 (v : Nat) : Nat := satAdd 4294967295 v 1

/-! ### Originating frames (R43, R46) -/

def txKey (pos unit ftype channel : Nat) : Nat := ((pos * 16 + unit) * 16 + ftype) * 65536 + channel

/-- The flags every originated frame carries, with `extra` (R46). -/
def frameFlags (s : State) (extra : Nat) : BitVec 8 :=
  BitVec.ofNat 8 (b2n s.set.lease * 128 +
    b2n (match s.set.numbering with | none => false | some t => t.split) * 32 +
    b2n (s.cyc.discontinuous == some s.cyc.n) * 16) ||| BitVec.ofNat 8 extra

/-- The frame the unit originates now, before its line is filled in. In a set-out frame outside a running cycle the cycle
number carries bits 31–0 of the unit id and the position is 0 (R100); a delay measure carries the local cycle count (R46). -/
def newFrame (s : State) (ftype channel extra : Nat) (payload : Bytes) : Frame :=
  let counts := inCycle s || ftype == 11
  let pos := if counts then ownPos s else 0
  { version := 1, ftype := ftype, flags := frameFlags s extra, topo := topoCommitted s,
    cycle := if counts then s.cyc.n else s.unitId % 4294967296, srcPos := pos, srcUnit := s.unitNo,
    line := 0, channel := channel, seq := Tab.getD s.line.txSeq (txKey pos s.unitNo ftype channel) 0,
    fragment := time64 s.time.now % 4294967296, payload := payload }

/-- The copies of a frame on the lines of the ports given, one for each line. -/
def lineCopies (ports : List LinePort) (f : Frame) : List Out :=
  let a := ports.filter (fun p => portLine p == .a)
  let b := ports.filter (fun p => portLine p == .b)
  (if a.isEmpty then [] else [Out.line a { f with line := 0 }]) ++
    (if b.isEmpty then [] else [Out.line b { f with line := 1 }])

/-- A frame received on the other port of the line is being forwarded on this one (R40). -/
def busyTx (s : State) (p : LinePort) : Bool :=
  match (s.line.ports.get (otherEnd p)).inFlight with
  | none => false
  | some x => x.forwarding && !x.cut

/-- A port on which an own frame starts at once. -/
def idleTx (s : State) (ports : List LinePort) : List LinePort := ports.filter (fun p => !busyTx s p)

/-- The ports of a list whose float has not faulted: the others originate nothing (R322). -/
def unmuted (s : State) (ports : List LinePort) : List LinePort := ports.filter (fun p => !(s.line.ports.get p).muted)

/-- A frame leaves on the ports given, or waits on a port behind the frame being forwarded there (R43); a port whose float has
faulted originates nothing (R322). -/
def transmit (s : State) (ports : List LinePort) (f : Frame) : State :=
  let ports := unmuted s ports
  let wait := fun (p : LinePort) (q : LPort) =>
    if ports.contains p && busyTx s p then { q with waiting := q.waiting ++ [{ f with line := lineNo (portLine p) }] } else q
  { s with
    out := s.out ++ lineCopies (idleTx s ports) f
    line := { s.line with ports := s.line.ports.map wait } }

/-- The own frames that waited on a port leave, each with the train time of its SFD (R43, R46). -/
def releaseWaiting (s : State) (p : LinePort) : State :=
  let stampNow := fun (f : Frame) => { f with fragment := time64 s.time.now % 4294967296 }
  { s with
    out := s.out ++ (s.line.ports.get p).waiting.map (fun f => Out.line [p] (stampNow f))
    line := { s.line with ports := s.line.ports.adj p (fun q => { q with waiting := [] }) } }

/-- Originates a frame on the ports given; both line copies carry one sequence (R46). -/
def originateOn (s : State) (ports : List LinePort) (ftype channel extra : Nat) (payload : Bytes) : State :=
  let f := newFrame s ftype channel extra payload
  let t := transmit s ports f
  { t with line := { t.line with
      txSeq := Tab.set s.line.txSeq (txKey f.srcPos f.srcUnit ftype channel) ((f.seq + 1) % 65536) } }

/-- Originates a frame on both ports of each line the unit carries (R43). -/
def originate (s : State) (ftype channel extra : Nat) (payload : Bytes) : State :=
  originateOn s (openPorts s) ftype channel extra payload

/-! ### Messages (R231) -/

/-- The channel of an endpoint of this unit (R225). -/
def channelOf (s : State) (endpoint : Nat) : Nat :=
  (ownSlot s).getD 0 * 1024 + (s.unitNo - 1) % 4 * 256 + endpoint

def channelSlot (c : Nat) : Nat := c / 1024
def channelUnit (c : Nat) : Nat := c / 256 % 4
def channelEnd (c : Nat) : Nat := c % 256

/-- The channel names an endpoint of this unit (R225). -/
def channelHere (s : State) (c : Nat) : Bool := channelUnit c + 1 == s.unitNo

/-- A message to an endpoint of another unit of the vehicle leaves over the peer ring; no record of R382 carries it (log
entry 168). -/
def passMessage (s : State) (c : Nat) (b : Bytes) : State := { s with out := s.out ++ [.peer c b] }

/-- Queues a message behind those of its source channel. -/
def queueMsg (s : State) (m : QMsg) : State :=
  { s with bridge := { s.bridge with queue := s.bridge.queue ++ [m] } }

/-- The position to which a slot is bound in the numbering in force; none while it is unbound. -/
def slotEntry (s : State) (slot : Nat) : Option Entry :=
  s.set.numbering.bind (fun t => t.entries.find? (fun e => e.slot == slot))

/-- The slot is bound to a present vehicle. -/
def slotPresent (s : State) (slot : Nat) : Bool :=
  match slotEntry s slot with | none => false | some e => !e.absent

/-- A valid frame was heard from a position (R121). -/
def hearFrom (s : State) (pos : Nat) : State :=
  { s with set := { s.set with
      heard := if pos = 0 ∨ s.set.heard.contains pos then s.set.heard else s.set.heard ++ [pos] } }

/-- The entries of the numbering in force that are present, in order of position. -/
def presentEntries (s : State) : List Entry :=
  match s.set.numbering with | none => [] | some t => t.entries.filter (fun e => !e.absent)

/-! ### Announcements (R251 to R253) -/

/-- The body of an announcement; the bridge sequence is filled in when it is sent (R228, R229). -/
def annBody (dest kind count source skim code : Nat) (payload : Bytes) : Bytes :=
  be 2 dest ++ zeros 2 ++ be 1 kind ++ be 1 count ++ zeros 2 ++ be 4 source ++ be 4 skim ++ be 4 code ++
    fit payload 16

/-- An endpoint that can receive an announcement (R225, R253): never a bridge engine. -/
def endpointOpen (s : State) (e : Nat) : Bool :=
  e == 1 || e == 2 || e == 3 || (0x40 ≤ e && s.bridge.endpoints.contains e)

/-- A channel of this vehicle at which no announcement is received: a bridge engine's, or one of this unit that is not open
(R225, R253). -/
def closedHere (s : State) (c : Nat) : Bool := channelEnd c == 0 || (channelHere s c && !endpointOpen s (channelEnd c))

/-- Announcements queued or held by the unit (R253). -/
def annCount (s : State) : Nat :=
  (s.bridge.queue.filter (fun m => m.kind == 5)).length + s.bridge.heldAnns.length

/-- Sends an announcement to a channel, no earlier than the message window of cycle `skim`. One to the own
slot is held here until that skim commits (R252); one to an unbound slot, or a closed endpoint here, is
discarded and counted; beyond 1,024 it is dropped and logged (R253). -/
def announce (s : State) (dest kind source skim code : Nat) (payload : Bytes) : State :=
  let own := ownSlot s == some (channelSlot dest)
  if (slotEntry s (channelSlot dest)).isNone || (own && closedHere s dest) then
    { s with bridge := { s.bridge with annDiscarded := count32 s.bridge.annDiscarded } }
  else if 1024 ≤ annCount s then report s 0x0507 10 0 []
  else if own then
    { s with bridge := { s.bridge with heldAnns := s.bridge.heldAnns ++
      [⟨dest, annBody dest kind 1 source skim code payload, skim, channelOf s 0⟩] } }
  else queueMsg s
    { source := channelOf s 0, destSlot := channelSlot dest, destUnit := 0, kind := 5, tag := 0,
      bodies := [annBody dest kind 1 source skim code payload], notBefore := some skim, deadline := none }

/-- The eighth cycle without a cycle-start is over: by Ts(n + 8) after the last delivered cycle-start n (R81, R116). -/
def holdoverDue (s : State) : Bool :=
  s.cyc.running && !s.set.lease && !s.cyc.csSeen && decide (8 ≤ cycDiff (gridN s) s.set.lastStart)

/-- The timebase is `HOLDOVER`, or its entry is due at this Ts (R136). -/
def holdsOver (s : State) : Bool := decide (s.time.base = .holdover) || holdoverDue s

/-- Whether an offset is above a fraction a/b of the guard g (R82, R85, R144). -/
def aboveGuard (s : State) (theta : Int) (a b : Nat) : Bool := decide (s.cyc.guard * 1000 * a < theta.natAbs * b)

/-- The estimated offset from the lead: the last one, plus 0.2 ppm of the time since (R146). -/
def estimatedOffset (s : State) : Nat := s.time.offset + (s.clk - s.time.offsetAt) / 5000000

/-- A follower's estimated offset exceeds 3/4 of g: it silences itself (R85). -/
def offLimit (s : State) : Bool :=
  !s.set.lease && decide (s.time.base ≠ .unset) && aboveGuard s (estimatedOffset s) 3 4

/-- The unit may originate frames in the publication, message and supervision windows (R74, R81, R82, R85). -/
def mayOriginate (s : State) : Bool :=
  inCycle s && s.cyc.joined && !s.cyc.stopped && !s.cyc.silenced && !s.cyc.mismatch && !offLimit s

/-- The outcome of a meaning that goes on. -/
abbrev Res := Host.Outcome State Fault Refusal

end Sys2Proof.Machine
end

