-- ==== Sys2Proof/Machine/Layout.lean ====
section
/-! DEFINITION. The layout of a cycle that every node computes: publication slots, supervision groups and
slots, the reply plan, and the expected arrivals at a port (R76, R88, R92, R93, R83, R148). -/

namespace Sys2Proof.Machine

/-- A slot: owner's position and vehicle slot, wire bytes, start and transmit time in ns. -/
structure Slot where
  pos : Nat
  slot : Nat
  bytes : Nat
  start : Int
  t : Nat
deriving DecidableEq, Repr

/-- The byte time b in tenths of a ns (R76). -/
def byteTenths (rate25 : Bool) : Nat := if rate25 then 32 else 80

/-- The committed line rate; 2.5 Gb/s before a numbering is in force (R125). -/
def rate25 (s : State) : Bool := match s.set.numbering with | none => true | some t => t.rate25

/-- The weight of a vehicle slot in a row of a schedule table image (R70). -/
def weightOf (tab : Bytes) (row v : Nat) : Nat := field tab (32 + 128 * row + 2 * v) 2

/-- Ceiling division. -/
def cdiv (a b : Nat) : Nat := (a + b - 1) / b

/-- The extra guard of the absent positions between consecutive entries (R76). -/
def extraGuards : List Nat → Nat
  | a :: b :: t => (b - a - 1) + extraGuards (b :: t)
  | _ => 0

/-- Slots laid out one after another from `start`, with the extra guard g for each position passed over. -/
def layOut (g b10 : Nat) : Option Nat → Int → List (Nat × Nat × Nat) → List Slot
  | _, _, [] => []
  | prev, start, (pos, slot, bytes) :: rest =>
    let start := match prev with | none => start | some q => start + ((pos - q - 1) * g : Nat)
    let t := cdiv (bytes * b10) 10
    { pos := pos, slot := slot, bytes := bytes, start := start, t := t } ::
      layOut g b10 (some pos) (start + (t + g : Nat)) rest

/-- The publication slots under a table, numbering entries, row, guard (ns) and rate (R76). `window` is the
publication window in ns, `start` its first instant. -/
def pubLayout (tab : Bytes) (entries : List Entry) (row g : Nat) (r25 : Bool) (window : Nat) (start : Int) :
    List Slot :=
  let list := entries.filter (fun e => !e.absent && 0 < weightOf tab row e.slot)
  let k := list.length
  let extra := extraGuards (list.map (·.pos)) * g
  let b10 := byteTenths r25
  let a := (window - k * g - extra) * 10 / b10
  let w := (list.map (fun e => weightOf tab row e.slot)).sum
  layOut g b10 none start (list.map (fun e => (e.pos, e.slot, a * weightOf tab row e.slot / w)))

/-- The publication slots of the present cycle. -/
def pubSlots (s : State) : List Slot :=
  match s.cyc.table, s.set.numbering with
  | some tab, some t =>
    pubLayout tab t.entries (rowIndex s s.cyc.n) (s.cyc.guard * 1000) t.rate25 (msgStart s - pubStart s)
      (lineStart s + (pubStart s : Nat))
  | _, _ => []

/-- The entries of a run of consecutive positions (R93). -/
def groupOf (entries : List Entry) (count g : Nat) : List Entry :=
  let run := cdiv entries.length count
  (entries.drop (g * run)).take run

/-- Wire time of a supervision slot: five 64-byte frames (R92). -/
def supBytes : Nat := 420

/-- The supervision slots of a group, from `start` (R92, R93). -/
def supLayout (entries : List Entry) (count grp g : Nat) (r25 : Bool) (start : Int) : List Slot :=
  layOut g (byteTenths r25) none start
    (((groupOf entries count grp).filter (fun e => !e.absent)).map (fun e => (e.pos, e.slot, supBytes)))

/-- Whether every group fits a window of `len` ns (R93). -/
def groupsFit (entries : List Entry) (count g : Nat) (r25 : Bool) (len : Nat) : Bool :=
  (List.range count).all (fun k =>
    match (supLayout entries count k g r25 0).getLast? with
    | none => true
    | some l => l.start + (l.t + g : Nat) ≤ (len : Int))

/-- G (R93). -/
def groupCount (entries : List Entry) (g : Nat) (r25 : Bool) (len : Nat) : Nat :=
  if groupsFit entries 1 g r25 len then 1
  else if groupsFit entries 2 g r25 len then 2
  else if groupsFit entries 4 g r25 len then 4
  else if groupsFit entries 8 g r25 len then 8 else 16

/-- The supervision slots of the present cycle. -/
def supSlots (s : State) : List Slot :=
  match s.set.numbering with
  | none => []
  | some t =>
    let g := s.cyc.guard * 1000
    let c := groupCount t.entries g t.rate25 (resStart s - supStart s)
    supLayout t.entries c (s.cyc.n % c) g t.rate25 (lineStart s + (supStart s : Nat))

/-- Whether a position's vehicle is due in the present cycle: a slot, a poll or a supervision slot (R121). -/
def dueNow (s : State) (pos : Nat) : Bool :=
  (pubSlots s).any (fun x => x.pos == pos) || (supSlots s).any (fun x => x.pos == pos) ||
    s.cyc.polls.any (fun x => x.pos == pos)

/-- The start of the message window: as the first poll of the burst shows it while the schedule mismatches
(R74), on the unit's own layout otherwise. -/
def windowAt (s : State) : Int :=
  match s.cyc.mismatch, s.cyc.windowStart with
  | true, some w => w
  | _, _ => lineStart s + (msgStart s : Nat)

/-! ### Path delays (R147) and expected arrivals -/

/-- The mean of the values held for a source at a port; none while none is held. -/
def pathDelay (s : State) (p : LinePort) (src : Source) : Option Int :=
  match s.time.delays.find? (fun d => d.port == p && d.src == src) with
  | none => none
  | some d => if d.vals.isEmpty then none else some (d.vals.sum / (d.vals.length : Int))

/-- Adds a value of arrival − fragment to the mean of the last 16 (R147). -/
def addPathDelay (ds : List PathDelay) (p : LinePort) (src : Source) (v : Int) : List PathDelay :=
  if ds.any (fun d => d.port == p && d.src == src) then
    ds.map (fun d => if d.port == p && d.src == src then { d with vals := lastN 16 (d.vals ++ [v]) } else d)
  else ds ++ [⟨p, src, [v]⟩]

/-- The values of the past cycle's cycle-start enter their means, but for a port's at which it served as the source of
R145 (R147). -/
def settleDelays (s : State) : State :=
  { s with time := { s.time with
      delays := s.time.startDelays.foldl (fun ds x => addPathDelay ds x.1 x.2.1 x.2.2) s.time.delays
      startDelays := [] } }

/-- Residence time of a forwarding node (R41). -/
def residence (s : State) : Nat := if rate25 s then 640 else 1120

/-- The path delay from the lead held at a port, by any unit of position 1 (R147). -/
def leadDelay (s : State) (p : LinePort) : Option Int :=
  ((List.range 4).map (fun u => pathDelay s p ⟨1, u + 1, lineNo (portLine p)⟩)).findSome? id

/-- What the gate expects of a source's first frame: the instants between which its SFD may arrive and the
instant at which the slot closes (R83, R148). -/
structure Expect where
  lo : Int
  hi : Int
  close : Int
deriving DecidableEq, Repr

/-- Positions between the source and this node. -/
def hops (s : State) (pos : Nat) : Nat := if ownPos s < pos then pos - ownPos s else ownPos s - pos

/-- The window of a slot of R76 at a port: E ± g with a path delay, the wider window without (R83, R148). -/
def expectSlot (s : State) (p : LinePort) (src : Source) (x : Slot) : Expect :=
  let g : Int := s.cyc.guard * 1000
  match pathDelay s p src with
  | some d => ⟨x.start + d - g, x.start + d + g, x.start + d + x.t + g⟩
  | none =>
    let far : Int := hops s src.pos * 1600
    ⟨x.start - g, x.start + far + g, x.start + far + g + x.t⟩

/-- The last publication slot of the cycle has closed at every receiving port, and here; in a cycle without one, the
publication window is over (R83, R180, R181). -/
def slotsClosed (s : State) : Bool :=
  match (pubSlots s).getLast? with
  | none => decide (lineStart s + (msgStart s : Nat) ≤ s.time.now)
  | some x =>
    let src := fun (p : LinePort) =>
      (((List.range 4).map (fun u => (⟨x.pos, u + 1, lineNo (portLine p)⟩ : Source))).find?
        (fun c => (pathDelay s p c).isSome)).getD ⟨x.pos, 1, lineNo (portLine p)⟩
    decide (x.start + (x.t + s.cyc.guard * 1000 : Nat) ≤ s.time.now) &&
      (upPorts s).all (fun p => decide ((expectSlot s p (src p) x).close ≤ s.time.now))

/-- Wire time planned for a grant (R88), ns. -/
def grantTime (r25 : Bool) (grant : Nat) : Nat :=
  cdiv ((grant + 20 * cdiv grant 2048) * byteTenths r25) 10

/-- The window of a reply slot at a port (R83, R89, R148). -/
def expectReply (s : State) (p : LinePort) (src : Source) (q : PollSeen) : Expect :=
  let g : Int := s.cyc.guard * 1000
  let due : Int := windowAt s + (q.timeout * 1000 : Nat)
  let t : Int := grantTime (rate25 s) q.grant
  if ownPos s = 1 then ⟨due - g, due + g, due + t + g⟩
  else
    let e : Option Int :=
      if ownPos s < src.pos then (leadDelay s (otherEnd p)).map (fun d => due - d - (residence s : Nat))
      else match leadDelay s p, pathDelay s p src with
        | some dl, some dp => some (due - dl + (residence s : Nat) + 2 * dp)
        | _, _ => none
    match e with
    | some e => ⟨e - g, e + g, e + t + g⟩
    | none =>
      let far : Int := hops s src.pos * 1600
      ⟨due - ((src.pos - 1) * 1600 : Nat) - g, due + far + g, due + far + g + t⟩

/-- The lead's burst and turn in the message window (R87), at a port: its first frame is due at the window's start. A
follower does not know U, and its gate closes the slot with the window (log entry 145). Until the first poll has shown a
mismatched unit where the window starts, that unit admits the lead at any time of the cycle (R74). -/
def expectLead (s : State) (p : LinePort) (src : Source) : Expect :=
  let g : Int := s.cyc.guard * 1000
  let stop : Int := lineStart s + (supStart s : Nat)
  if s.cyc.mismatch && s.cyc.windowStart.isNone then
    ⟨lineStart s - g, lineStart s + (cycleLen s : Nat), lineStart s + (cycleLen s : Nat)⟩
  else match pathDelay s p src with
  | some d => ⟨windowAt s + d - g, windowAt s + d + g, stop + d + g⟩
  | none => let far : Int := hops s src.pos * 1600
            ⟨windowAt s - g, windowAt s + far + g, stop + far + g⟩

/-! ### Neighbours -/

/-- A port faces the previous position when its end faces the lead side (R110). -/
def facesPrev (s : State) (p : LinePort) : Bool :=
  match ownEntry s with
  | none => false
  | some e => (portEnd p == 1) == e.orient

/-- The position of the adjacent present vehicle on a port. -/
def adjacentPos (s : State) (p : LinePort) : Option Nat :=
  let ps := (presentEntries s).map (·.pos)
  if facesPrev s p then (ps.filter (fun q => q < ownPos s)).getLast?
  else (ps.filter (fun q => ownPos s < q)).head?

/-- The partner on a port is the neighbour that the numbering in force names there (R127). -/
def neighbourOk (s : State) (p : LinePort) : Bool :=
  match s.set.probes.get p, adjacentPos s p with
  | some b, some q =>
    (match s.set.numbering with
     | none => false
     | some t => t.entries.any (fun e => e.pos == q && e.uuid == field b 0 16))
  | _, _ => false

/-! ### The segment phase (R68, R69) -/

/-- The instant at which the first publication of the cycle is due at a port; none in a cycle without publications. -/
def firstPublication (s : State) (p : LinePort) : Option Int :=
  (pubSlots s).head?.map (fun x =>
    if x.pos = ownPos s then x.start
    else x.start + (((List.range 4).map (fun u => pathDelay s p ⟨x.pos, u + 1, lineNo (portLine p)⟩)).findSome? id).getD 0)

/-- The segment phase is open at a port: from the cycle-start's passing to 4 µs before the first publication, or the
end of the start segment where none is due. -/
def phaseOpen (s : State) (p : LinePort) : Bool :=
  s.cyc.csSeen &&
    decide (s.time.now + 4000 ≤ (firstPublication s p).getD (lineStart s + (pubStart s : Nat)))

/-- Frames of one segment may leave on a port now: in the segment phase, or at any time where the segment is no part of
the committed line or the unit is outside a running cycle (R68, R100, R102). -/
def segmentFree (s : State) (p : LinePort) : Bool := !inCycle s || !neighbourOk s p || phaseOpen s p

end Sys2Proof.Machine
end

