-- ==== Sys2Proof/Machine/Peers.lean ====
section
/-! DEFINITION. What a unit knows of the other units of its vehicle: their control records, who is fed, and who feeds
(R377, R379, R383). -/

namespace Sys2Proof.Machine

/-- The units of the own vehicle, from the configuration. -/
def ownUnits (s : State) : Nat := match s.cfg with | none => 1 | some c => c.node.units

/-- The other units of the vehicle (R19). -/
def otherUnits (s : State) : List Nat := ((List.range (ownUnits s)).map (· + 1)).filter (fun u => u != s.unitNo)

/-- A unit's latest control record. -/
def peerRec (s : State) (u : Nat) : Option PeerRec := s.pair.records.find? (fun r => r.unit == u)

/-- A control record has come from a unit within the last 2 cycles (R377). -/
def peerFresh (s : State) (u : Nat) : Bool :=
  match peerRec s u with | none => false | some r => s.clk ≤ r.at_ + 2 * cycleLen s

/-- The fresh control record of a unit. -/
def freshRec (s : State) (u : Nat) : Option PeerRec := if peerFresh s u then peerRec s u else none

/-- Fields of a control record (R383). -/
def PeerRec.role (r : PeerRec) : Nat := field r.content 0 1 % 16
def PeerRec.fit (r : PeerRec) : Bool := bitOf (field r.content 1 1) 0
def PeerRec.releasing (r : PeerRec) : Bool := bitOf (field r.content 1 1) 1
def PeerRec.mirrorCurrent (r : PeerRec) : Bool := bitOf (field r.content 1 1) 4

/-- The record shows its unit composing. -/
def PeerRec.composes (r : PeerRec) : Bool := r.role == 1 || r.role == 3

/-- `PEER_DOWN` (R377). -/
def peerDown (s : State) : Bool :=
  !(otherUnits s).isEmpty && (s.pair.segs.any (fun x => !x.up) || (otherUnits s).any (fun u => !peerFresh s u))

/-- Both peer segments have lost link. -/
def ringDown (s : State) : Bool := s.pair.segs.all (fun x => !x.up)

def isPair (s : State) : Bool := arrangement s == 1 || arrangement s == 2
def isStack (s : State) : Bool := arrangement s == 3 || arrangement s == 4

/-- The units without train-line ports (R19, R379). -/
def fedUnits (s : State) : List Nat :=
  ((List.range (ownUnits s)).map (· + 1)).filter (fun u =>
    match arrangement s with | 1 => u == 2 | 3 => 2 ≤ u | 4 => 3 ≤ u | _ => false)

/-- This unit is fed (R379). -/
def isFed (s : State) : Bool := (fedUnits s).contains s.unitNo

/-- This unit feeds the others: the composing unit if it carries a line, else the lowest-numbered train-line unit
present (R379). -/
def feeding (s : State) : Bool :=
  let lines := (otherUnits s).filter (fun u => !(fedUnits s).contains u)
  !(fedUnits s).isEmpty && attached s &&
    (composing s || (!(lines.any (fun u => ((freshRec s u).map PeerRec.composes).getD false)) &&
      !(lines.any (fun u => u < s.unitNo && peerFresh s u))))

/-- The channel code under which a whole train-line frame passes on the peer ring: relayed or fed (R60, R379). -/
def ringFrameChannel : Nat := 0x10

/-- The unit is the odd one of its vehicle: at least as many units have shown another vehicle UUID as are known to carry
this one, itself included (R24; log entry 144). -/
def oddUnit (s : State) : Bool :=
  !s.pair.badUuid.isEmpty && decide (1 + (s.pair.records.filter (fun r => peerFresh s r.unit)).length ≤ s.pair.badUuid.length)

/-- Whatever the units not heard carry, this unit's UUID is not the one of most units of the vehicle (log entry 144). -/
def surelyOdd (s : State) : Bool := !s.pair.badUuid.isEmpty && decide (ownUnits s ≤ 2 * s.pair.badUuid.length)

/-- The unit takes part in the peer ring: it is not the unit with the odd vehicle UUID (R24; log entry 144). -/
def onRing (s : State) : Bool := !s.pair.uuidMismatch

/-- Applies a change to peer segment `k`, 1 or 2. -/
def setSeg (s : State) (k : Nat) (f : PeerSeg → PeerSeg) : State :=
  { s with pair := { s.pair with
      segs := ((List.range s.pair.segs.length).zip s.pair.segs).map (fun p => if p.1 + 1 = k then f p.2 else p.2) } }

/-- The segment that a frame of the peer ring came by. The rows do not name it: with both linked, or none, it is free (log
entry 160). -/
def ringSegment (s : State) : Nat :=
  let up := fun k => (s.pair.segs.getD (k - 1) PeerSeg.init).up
  if up 1 && !up 2 then 1 else if up 2 && !up 1 then 2 else if Config.freeBit s.freeCount then 1 else 2

/-- A frame of the peer ring leaves its mark on the segment that it came by. -/
def ringMark (s : State) (f : PeerSeg → PeerSeg) : State := setSeg (tookFree s 1) (ringSegment s) f

/-- A mirror frame that breaks its layout sets `DROPPED`, and counts as a drop (R56, R378, R382, R547). -/
def recordDropped (s : State) : State :=
  ringMark s (fun x => { x with status := setBit x.status 5 true, drops := count32 x.drops })

/-- A good frame of the peer ring (R62, R378). -/
def ringGood (s : State) : State := ringMark s (fun x => { x with good := count32 x.good })

/-- A message frame from the peer ring found no room in its message ring (R285, R378). -/
def ringStarved (s : State) : State :=
  ringMark s (fun x => { x with status := setBit x.status 7 true, drops := count32 x.drops })

/-- A frame that this unit delivers or originates goes to the fed units and counts for the commit mark. -/
def feed (s : State) (f : Frame) : State :=
  if feeding s && onRing s && !segmentOnly f.ftype then
    { s with
      out := s.out ++ [Out.peer ringFrameChannel (frameBytes f)]
      pair := { s.pair with fedOut := s.pair.fedOut + 1 } }
  else s

end Sys2Proof.Machine
end

