-- ==== Sys2Proof/Machine/Line.lean ====
section
/-! DEFINITION. Train-line ports and slot gates: the rows FRAME_HEADER_RECEIVED, FRAME_RECEIVED, SLOT_CLOSE,
DUPLICATE_KEY_EXPIRY, RELAYED_COPY_RECEIVED, SOURCE_FENCED, FENCE_LIFTED and the link rows (spec file 02, and
R83 to R86 of file 03). -/

namespace Sys2Proof.Machine

/-! ### Slot gates -/

/-- The source a frame names (R86). -/
def sourceOf (f : Frame) : Source := ⟨f.srcPos, f.srcUnit, f.line⟩

/-- The window in which a frame's type is gated: 0 publication, 1 message, 2 supervision (R68, R83). A
set-out frame from a unit outside a running cycle has position 0 and is not gated (R100). -/
def gateWindow (f : Frame) : Option Nat :=
  match f.ftype with
  | 2 => some 0
  | 3 => some 0
  | 4 => some 1
  | 5 => some 1
  | 7 => if f.srcPos = 0 then none else some 2
  | 8 => if f.srcPos = 0 then none else some 1
  | 9 => if f.srcPos = 0 then none else if fromLead f then some 1 else some 2
  | 10 => some 2
  | _ => none

/-- The source unit is one of the units of the vehicle at the source position (R83). -/
def ownsSlot (s : State) (f : Frame) : Bool :=
  (presentEntries s).any (fun e => e.pos == f.srcPos && 1 ≤ f.srcUnit && f.srcUnit ≤ e.units)

/-- The vehicle slot that a message's channel names is that of the vehicle at the source position (R83, R225). -/
def ownsChannel (s : State) (f : Frame) : Bool :=
  (presentEntries s).any (fun e => e.pos == f.srcPos && e.slot == channelSlot f.channel)

/-- What the gate of a port expects of a frame: none where no slot of the cycle matches its source and
channel (R83). -/
def gateExpect (s : State) (p : LinePort) (f : Frame) : Option Expect :=
  let src := sourceOf f
  if !ownsSlot s f then none
  else match gateWindow f with
  | some 0 =>
    ((pubSlots s).find? (fun x => x.pos == f.srcPos && x.slot == bits f.channel 13 8)).map (expectSlot s p src)
  | some 1 =>
    if f.ftype = 5 ∧ !ownsChannel s f then none
    else if f.ftype ≠ 5 ∨ f.srcPos = 1 then (if f.srcPos = 1 then some (expectLead s p src) else none)
    else (s.cyc.polls.find? (fun q => q.pos == f.srcPos)).map (expectReply s p src)
  | some _ => ((supSlots s).find? (fun x => x.pos == f.srcPos)).map (expectSlot s p src)
  | none => none

/-- The gates are active: the unit is in a running cycle (R101). -/
def gated (s : State) (f : Frame) : Bool := inCycle s && (gateWindow f).isSome

def fenceOf (s : State) (p : LinePort) (src : Source) : Option Fence :=
  s.cyc.fences.find? (fun x => x.port == p && x.src == src)

/-- A set-out frame is never fenced (R86). -/
def isFenced (s : State) (p : LinePort) (f : Frame) : Bool :=
  !(f.ftype == 7 || f.ftype == 8 || f.ftype == 9) &&
    (match fenceOf s p (sourceOf f) with | none => false | some x => x.fenced)

/-- The gate's verdict on a frame arriving: admitted, with the slot's closing instant. -/
def gateAdmit (s : State) (p : LinePort) (f : Frame) (arrival : Int) : Option Int :=
  let w := (gateWindow f).getD 0
  match s.cyc.opened.find? (fun o => o.port == p && o.window == w && o.pos == f.srcPos) with
  | some o => if arrival ≤ o.close ∧ (gateExpect s p f).isSome then some o.close else none
  | none =>
    match gateExpect s p f with
    | none => none
    | some e => if e.lo ≤ arrival ∧ arrival ≤ e.hi then some e.close else none

/-- The fence record of a source after a frame of it passed or failed the gate; only the adjacent node on the
port is counted (R86). -/
def noteFence (s : State) (p : LinePort) (f : Frame) (ok : Bool) : List Fence :=
  let src := sourceOf f
  if adjacentPos s p ≠ some f.srcPos then s.cyc.fences
  else if (fenceOf s p src).isSome then
    s.cyc.fences.map (fun x =>
      if x.port == p && x.src == src then { x with sent := true, bad := x.bad || !ok } else x)
  else s.cyc.fences ++ [⟨p, src, 0, false, true, !ok, false⟩]

/-- A cycle-start outside its gate makes the cycle faulty for the adjacent node that sent it (R84, R86). -/
def noteLate (s : State) (p : LinePort) (f : Frame) : List Fence :=
  let src := sourceOf f
  if adjacentPos s p ≠ some f.srcPos then s.cyc.fences
  else if (fenceOf s p src).isSome then
    s.cyc.fences.map (fun x => if x.port == p && x.src == src then { x with bad := true } else x)
  else s.cyc.fences ++ [⟨p, src, 0, false, false, true, false⟩]

/-- A cycle's end for a fence record: a faulty cycle adds to the run, a valid one ends it, a cycle without
frames is neutral (R86). -/
def fenceCycle (x : Fence) : Fence :=
  if !x.sent then { x with bad := false, good := false }
  else if x.bad then { x with run := x.run + 1, sent := false, bad := false, good := false }
  else { x with run := 0, sent := false, bad := false, good := true }

/-! ### A header arrives -/

/-- The two ports of a line came up at different rates at an uncommitted unit (R125). -/
def ratesDiffer (s : State) (p : LinePort) : Bool :=
  s.set.numbering.isNone &&
    ((s.line.ports.get p).status.getLsbD 17 != (s.line.ports.get (otherEnd p)).status.getLsbD 17)

/-- Whether a frame may leave on the other port of the line (R40, R125, R127). -/
def canForward (s : State) (p : LinePort) : Bool :=
  assigned s (otherEnd p) && linkUp s (otherEnd p) && !ratesDiffer s p &&
    !isBoundary s p && !isBoundary s (otherEnd p)

def setPort (s : State) (p : LinePort) (f : LPort → LPort) : State :=
  { s with line := { s.line with ports := s.line.ports.adj p f } }

/-- The header is refused for good: `HDR_ERR`, or `DROPPED` for a mirror frame, whose length and FCS then set no bit of
their own (log entry 146). -/
def headerFault (s : State) (p : LinePort) (bit : Nat) (fr : Frame) (plen : Nat) (arrival : Int) : State :=
  setPort s p (fun q => { q with
    status := setBit q.status bit true
    drops := count32 q.drops
    inFlight := some ⟨fr, plen, arrival, true, false, false, none, false⟩ })

def blankFrame : Frame := ⟨0, 0, 0, 0, 0, 0, 0, 0, 0, 0, 0, []⟩

/-- A frame's 24-byte header has arrived (R40, R44, R47, R49, R55, R56, R83, R84, R86). -/
def headerArrives (s : State) (p : LinePort) (hdr : Bytes) (arrival : Int) : State :=
  if !assigned s p || !segUp s p then s
  else match parseHeader hdr with
  | none => headerFault s p 3 blankFrame 0 arrival
  | some (f, plen) =>
    if !linkUp s p && !segmentOnly f.ftype then s
    else if 2020 < plen then headerFault s p 3 f plen arrival
    else if f.ftype = 12 then headerFault s p 5 f plen arrival
    else if segmentOnly f.ftype then
      setPort s p (fun q => { q with
        inFlight := some ⟨f, plen, arrival, false, false, false, none, false⟩ })
    else if !gated s f then
      setPort s p (fun q => { q with
        inFlight := some ⟨f, plen, arrival, false, false, canForward s p, none, false⟩ })
    else
      let verdict := gateAdmit s p f arrival
      let fenced := isFenced s p f
      let ok := verdict.isSome && !fenced
      let opened :=
        match verdict with
        | none => s.cyc.opened
        | some c =>
          if s.cyc.opened.any (fun o => o.port == p && o.window == (gateWindow f).getD 0 && o.pos == f.srcPos)
          then s.cyc.opened else s.cyc.opened ++ [⟨p, (gateWindow f).getD 0, f.srcPos, c⟩]
      let slotFault := verdict.isNone && !fenced
      let fences := noteFence s p f verdict.isSome
      let s1 := setPort s p (fun q => { q with
        status := if slotFault then setBit q.status 6 true else q.status
        drops := if slotFault then count32 q.drops else q.drops
        inFlight := some ⟨f, plen, arrival, false, !ok, ok && canForward s p, verdict, false⟩ })
      { s1 with cyc := { s1.cyc with opened := opened, fences := fences } }

/-- FRAME_HEADER_RECEIVED (R40). -/
def execFrameHeaderReceived (p : LinePort) (hdr : Bytes) (arrival : Int) (s : State) : Res :=
  .next (headerArrives s p (hdr.take 24) arrival)

/-! ### A frame completes -/

/-- What a completed frame was found to be (R50 to R54). -/
inductive Verdict where
  | valid | stomped | headerFault | slotFault | oversize | runt | fcs
deriving DecidableEq, Repr

/-- The verdict, in the order of R52, a stomped frame before any other check of its body (R51). -/
def frameVerdict (b : Bytes) (fl : Option InFlight) : Verdict :=
  let k := b.length
  let body := b.take (k - 4)
  let tail := b.drop (k - 4)
  if 5 ≤ k ∧ tail = stompBytes body then .stomped
  else match fl with
  | some x =>
    if x.fault then .headerFault
    else if x.refused || x.cut then .slotFault
    else if 2049 ≤ k then .oversize
    else if k < 64 then .runt
    else if tail ≠ fcsBytes body ∨ k ≠ frameLength x.plen then .fcs
    else .valid
  | none => .runt

/-- The copy that leaves the other port (R52, R53): unchanged, or cut with the stomp code. -/
def forwardedCopy (b : Bytes) (v : Verdict) : Bytes × Bool :=
  let cutAt := fun n => ((b.take n) ++ stompBytes (b.take n), true)
  match v with
  | .valid => (b, false)
  | .stomped => if 2048 < b.length then cutAt 2044 else (b, true)
  | .oversize => cutAt 2044
  | .runt => if b.length ≤ 27 then cutAt 24 else cutAt (b.length - 4)
  | _ => cutAt (b.length - 4)

/-- The status bit a verdict sets on the receiving port (R61); header and slot faults were set as they
were found. -/
def verdictBit : Verdict → Option Nat
  | .stomped => some 4 | .oversize => some 1 | .runt => some 0 | .fcs => some 2 | _ => none

/-- The port's status and counters after a completed frame (R61, R62). -/
def countFrame (b : Bytes) (v : Verdict) (dropped : Bool) (q : LPort) : LPort :=
  let fcsOk := 5 ≤ b.length && b.drop (b.length - 4) == fcsBytes (b.take (b.length - 4))
  let st := match verdictBit v with | none => q.status | some k => setBit q.status k true
  { q with
    status := if dropped then setBit st 5 true else st
    good := if fcsOk then count32 q.good else q.good
    fcs := if v = .fcs ∨ v = .stomped then count32 q.fcs else q.fcs
    runts := if v = .runt then count32 q.runts else q.runts
    oversize := if v = .oversize then count32 q.oversize else q.oversize
    drops := if dropped then count32 q.drops else q.drops
    inFlight := none }

/-- The duplicate key of a frame (R58) as first seen now. -/
def dupKey (s : State) (f : Frame) : DupKey :=
  { ftype := f.ftype, topo := f.topo, cycle := f.cycle, pos := f.srcPos, unit := f.srcUnit,
    channel := f.channel, seq := f.seq, seen := s.cyc.n, at_ := s.clk, inCycle := inCycle s }

def sameKey (a b : DupKey) : Bool :=
  a.ftype == b.ftype && a.topo == b.topo && a.cycle == b.cycle && a.pos == b.pos && a.unit == b.unit &&
    a.channel == b.channel && a.seq == b.seq

/-- A key is still held: the cycle it was first seen in and the next (R59), or 2 ms (R100). Of copies of one clock the queue
has the line A copy in front (log entry 171). -/
def keyHeld (s : State) (k : DupKey) : Bool :=
  if k.inCycle then cycDiff s.cyc.n k.seen ≤ 1 else s.clk < k.at_ + 2000000

def isDuplicate (s : State) (f : Frame) : Bool :=
  !segmentOnly f.ftype && s.line.dups.any (fun k => sameKey k (dupKey s f) && keyHeld s k)

/-- The counter in force for a cycle before any pending numbering: that of the numbering in force, or of the one before
it for a cycle before the commit cycle (R119, R120). -/
def topoHeld (s : State) (cycle : Nat) : Nat :=
  match s.set.before with
  | some (old, c) => if cycBefore cycle c then old else topoInForce s
  | none => topoInForce s

/-- The counter in force for a cycle number: a pending numbering counts from its commit cycle (R119, R120). -/
def topoFor (s : State) (cycle : Nat) : Nat :=
  match s.set.pending with
  | some t => if t.commit = cycle ∨ cycBefore t.commit cycle then t.topo else topoHeld s cycle
  | none => topoHeld s cycle

/-- Whether a valid frame is delivered by its counter (R120) and by the boundary rule (R127). An absorbed boundary unit
also delivers cycle-starts, the first of which opens its port (R129). -/
def acceptsTopo (s : State) (p : LinePort) (f : Frame) : Bool :=
  let boundaryOk := !isBoundary s p || segmentOnly f.ftype || f.ftype == 8 ||
    (f.ftype == 7 && field f.payload 28 1 % 2 == 1) || (f.ftype == 1 && decide (s.set.state = .absorbing))
  boundaryOk &&
    (!([2, 3, 4, 5, 10].contains f.ftype) || (s.set.numbering.isSome && f.topo == topoFor s f.cycle))

/-- A valid frame sets `DROPPED` and is not delivered: version, reserved type or broken layout (R56, R547). -/
def mustDrop (f : Frame) : Bool := f.version != 1 || reservedType f.ftype || !layoutOk f

/-- Once the node has joined, the cycle-start is gated to Ts(n) + s(n) + d ± g; s(n) is the shift the frame
carries, and Ts(n) the time it carries when it follows a time step, before a commanded step that the frame itself brings
(R84, R160). -/
def lateCycleStart (s : State) (p : LinePort) (f : Frame) (arrival : Int) : Bool :=
  let base : Int := if f.flags.getLsbD 4 then extend32 s.time.now (field f.payload 4 4) - beSigned (bslice f.payload 12 4)
    else tsOf s f.cycle
  f.ftype == 1 && layoutOk f && s.cyc.joined && !s.set.lease &&
    (match pathDelay s p (sourceOf f) with
     | none => false
     | some d =>
       let e := base + field f.payload 8 4 + d
       let g : Int := s.cyc.guard * 1000
       arrival < e - g || e + g < arrival)

/-- The lead notes a frame of a polled reply that was refused, cut or damaged, until a copy of it comes (R91). -/
def noteReply (s : State) (f : Frame) (good : Bool) : State :=
  if s.set.lease && f.ftype == 5 && f.srcPos != 0 then
    let k := (f.srcPos, f.channel, f.seq)
    let rest := s.cyc.lostReplies.filter (· != k)
    { s with cyc := { s.cyc with
        lostReplies := if good then rest else if isDuplicate s f then s.cyc.lostReplies else rest ++ [k] } }
  else s

/-- A frame that passed every check: kept for its delivery row, measured for its path delay (R147), its key
held (R58; whether it is delivered or not, log entry 147), and relayed to the other train-line unit of a split-lines pair (R60). -/
def acceptFrame (s : State) (p : LinePort) (f : Frame) (arrival : Int) (fromPeer : Bool) : State :=
  let deliver := acceptsTopo s p f
  let delays :=
    if deliver && !fromPeer && f.ftype != 1 && 1 ≤ f.srcPos then
      addPathDelay s.time.delays p (sourceOf f) (arrival - extend32 s.time.now f.fragment)
    else s.time.delays
  let dups := if segmentOnly f.ftype then s.line.dups else s.line.dups ++ [dupKey s f]
  let rx := if deliver then s.line.rx ++ [⟨p, f, arrival⟩] else s.line.rx
  let relayed := splitLines s && onRing s && !fromPeer && !segmentOnly f.ftype && deliver
  let s := if !deliver then s
    else if feeding s then feed s f
    else if relayed then { s with out := s.out ++ [Out.peer ringFrameChannel (frameBytes f)] } else s
  let s := noteReply s f true
  { s with
    line := { s.line with dups := dups, rx := rx }
    time := { s.time with delays := delays } }

/-- A cycle-start found outside its gate sets `SLOT_FAULT` and counts a drop. -/
def lateFault (late : Bool) (q : LPort) : LPort :=
  if late then { q with status := setBit q.status 6 true, drops := count32 q.drops } else q

/-- Of two valid copies that complete in one clock the line A copy is delivered: it takes the place of the line B copy that
waits for its delivery row (R59; log entry 171). -/
def preferA (s : State) (p : LinePort) (f : Frame) (arrival : Int) : State :=
  if portLine p = .a then
    { s with line := { s.line with rx := s.line.rx.map (fun x =>
        if portLine x.port = .b ∧ x.arrival = arrival ∧ sameKey (dupKey s x.frame) (dupKey s f) then ⟨p, f, arrival⟩ else x) } }
  else s

/-- A frame completes at a port (R45, R48, R50 to R54, R56 to R60, R120, R147). -/
def frameCompletes (s : State) (p : LinePort) (b : Bytes) (arrival : Int) : State :=
  if !assigned s p || !segUp s p then s
  else
    let s := if 24 ≤ b.length && (s.line.ports.get p).inFlight.isNone
      then headerArrives s p (b.take 24) arrival else s
    let fl := (s.line.ports.get p).inFlight
    let v0 := frameVerdict b fl
    let f : Frame := match fl with
      | none => blankFrame
      | some x => { x.hdr with payload := bslice b 24 x.plen }
    let late := v0 = .valid && lateCycleStart s p f arrival
    let v := if late then Verdict.slotFault else v0
    let refused := match fl with | none => true | some x => x.refused || x.cut || x.fault
    let valid := v = .valid && !refused
    let dropped := valid && mustDrop f
    let copy := forwardedCopy b v
    let going := match fl with | some x => x.forwarding && !x.cut | none => false
    let fwd := if going && !late then [Out.forward (otherEnd p) copy.1 copy.2] else []
    let s0 := emit (setPort s p (fun q => lateFault late (countFrame b v dropped q))) fwd
    let s0 := if going then releaseWaiting s0 (otherEnd p) else s0
    let s1 := { s0 with cyc := { s0.cyc with fences := if late then noteLate s p f else s0.cyc.fences } }
    if valid && !dropped && !isDuplicate s f then acceptFrame s1 p f arrival false
    else if valid then preferA s1 p f arrival else noteReply s1 f false

/-- FRAME_RECEIVED (R45). -/
def execFrameReceived (p : LinePort) (b : Bytes) (arrival : Int) (s : State) : Res :=
  .next (frameCompletes s p b arrival)

/-- A frame still arriving when its slot closes is cut: the copy ends with the stomp code, `SLOT_FAULT` is
set, and the source's cycle is faulty (R84, R52, R86). Own frames that waited for the copy follow it (R43). -/
def cutAtClose (s : State) (p : LinePort) : State :=
  match (s.line.ports.get p).inFlight with
  | none => s
  | some x =>
    let closed := match x.close with | none => false | some c => decide (c ≤ s.time.now)
    if !closed || x.refused || x.cut || x.fault then s
    else
      let s1 := setPort s p (fun q => { q with
        status := setBit q.status 6 true
        drops := count32 q.drops
        inFlight := some { x with cut := true } })
      let fences := noteFence s p x.hdr false
      let s2 := { s1 with
        cyc := { s1.cyc with fences := fences }
        out := s1.out ++ (if x.forwarding then [Out.cut (otherEnd p)] else []) }
      if x.forwarding then releaseWaiting s2 (otherEnd p) else s2

/-! ### Duplicate keys, relayed copies and fences -/

/-- DUPLICATE_KEY_EXPIRY: keys past their holding time are forgotten (R59, R100). -/
def execDuplicateKeyExpiry (s : State) : Res :=
  .next { s with line := { s.line with dups := s.line.dups.filter (keyHeld s) } }

/-- The end at which a frame that came over the ring counts as arrived (R60, R108, R109): the one with a link partner when
only one has; at a fed unit end 1; with both or none linked it is free (log entry 152). -/
def relayEnd (s : State) : Nat :=
  let up := fun e => (upPorts s).any (fun p => portEnd p == e)
  if isFed s then 1 else if up 1 && !up 2 then 1 else if up 2 && !up 1 then 2
  else if Config.freeBit s.freeCount then 1 else 2

/-- The port on which this unit treats a frame relayed by the other train-line unit: the frame's line at that end. -/
def relayPort (s : State) (f : Frame) : LinePort :=
  if relayEnd s = 1 then (if f.line = 0 then .a1 else .b1) else if f.line = 0 then .a2 else .b2

/-- The place of an own vehicle's frame in the present cycle is open: its publication slot, its supervision slot, or for a
cycle-start the start segment (R22, R68, R77, R79, R92). -/
def ownPlace (s : State) (f : Frame) : Bool :=
  let within := fun (l : List Slot) =>
    l.any (fun x => x.pos == ownPos s && decide (x.start ≤ s.time.now ∧ s.time.now < x.start + x.t))
  match f.ftype with
  | 1 => f.cycle == s.cyc.n || f.cycle == cycAdd s.cyc.n 1
  | 2 => f.cycle == s.cyc.n && within (pubSlots s)
  | 3 => f.cycle == s.cyc.n && within (pubSlots s)
  | 10 => f.cycle == s.cyc.n && within (supSlots s)
  | _ => false

/-- RELAYED_COPY_RECEIVED: the duplicate rule runs over the union of both units' copies (R60); a fed unit takes every
frame so (R379). The vehicle's own cycle-start, publication, null or supervision frame leaves, as `PEER_COPY`, on the line
that its composing, leading or fed unit does not carry, in the same slot only (R22, R46, R79, R92). A publication or null
of a cycle whose skim has committed is discarded and counted (R380). A unit out of the ring takes nothing (R24). -/
def execRelayedCopyReceived (f : Frame) (s : State) : Res :=
  let late := s.cyc.running && (f.ftype == 2 || f.ftype == 3) &&
    (match s.skim.retained with | [] => false | r :: _ => r.desc.skim == f.cycle || cycBefore f.cycle r.desc.skim)
  let ports := (openPorts s).filter (fun p => lineNo (portLine p) == f.line)
  let own := attached s && f.srcPos == ownPos s && f.srcPos != 0 && f.srcUnit != s.unitNo && mayOriginate s &&
    ownPlace s f && managing s && onRing s
  let s := if own then transmit s ports { f with flags := f.flags ||| 4 } else s
  .next (
    if !managing s || !onRing s || !(splitLines s || isFed s || !(fedUnits s).isEmpty) || mustDrop f || isDuplicate s f then s
    else if late then { s with pair := { s.pair with relayLate := count32 s.pair.relayLate } }
    else
      let s := { s with pair := { s.pair with fedCount := s.pair.fedCount + (if isFed s then 1 else 0) } }
      acceptFrame (tookFree s 1) (relayPort s f) f s.time.now true)

/-- SOURCE_FENCED: after 3 consecutive faulty cycles the port fences the source, and the fence is logged
(R86). -/
def execSourceFenced (p : LinePort) (src : Source) (s : State) : Res :=
  let hit := match fenceOf s p src with | none => false | some x => !x.fenced && 3 ≤ x.run
  let fences := s.cyc.fences.map (fun x =>
    if hit && x.port == p && x.src == src then { x with fenced := true } else x)
  .next (reportIf hit { s with cyc := { s.cyc with fences := fences } } 0x0101 4 0
    (be 1 (portNo p) ++ be 1 src.pos ++ be 1 src.unit ++ be 1 src.line))

/-- FENCE_LIFTED: after one full valid cycle in which the source sends, the fence is lifted and logged
(R86). -/
def execFenceLifted (p : LinePort) (src : Source) (s : State) : Res :=
  let hit := match fenceOf s p src with | none => false | some x => x.fenced && x.good
  let fences := s.cyc.fences.map (fun x =>
    if hit && x.port == p && x.src == src then { x with fenced := false, run := 0 } else x)
  .next (reportIf hit { s with cyc := { s.cyc with fences := fences } } 0x0101 4 1
    (be 1 (portNo p) ++ be 1 src.pos ++ be 1 src.unit ++ be 1 src.line))

end Sys2Proof.Machine
end

