-- ==== Sys2Proof/Machine/FloatOps.lean ====
section
/-! DEFINITION. Floats (spec file 11): events and waits, the actions of the instructions, program images and
their load checks. -/

namespace Sys2Proof.Machine

/-! ### Events and waits (R314 to R316) -/

def floatOf (s : State) (k : Nat) : FloatSt := Tab.getD s.fld.floats k FloatSt.init

def setFloat (s : State) (k : Nat) (f : FloatSt) : State :=
  { s with fld := { s.fld with floats := Tab.set s.fld.floats k f } }

/-- The events present: the latched ones and the two levels (R314). -/
def floatPresent (f : FloatSt) : Nat :=
  f.events % 8 + 8 * b2n (!f.rx.isEmpty) + 16 * b2n f.tx.isEmpty + (f.events / 32) * 32

/-- A `WAIT` returns once an event of its mask is present (R315). -/
def floatReturn (f : FloatSt) : FloatSt :=
  match f.waiting with
  | none => f
  | some (mask, r) =>
    let p := Nat.land (floatPresent f) (mask % 256)
    if p = 0 then f
    else
      let stepped := (bitOf p 5 && f.steppedT) || (bitOf p 6 && f.steppedP)
      { f with
        regs := f.regs.set r (BitVec.ofNat 32 (p + 256 * b2n stepped))
        events := f.events - Nat.land f.events p
        steppedT := f.steppedT && !bitOf p 5
        steppedP := f.steppedP && !bitOf p 6
        waiting := none
        steps := 0 }

/-- An event is latched. -/
def latchBit (f : FloatSt) (b : Nat) : FloatSt :=
  floatReturn { f with events := if bitOf f.events b then f.events else f.events + 2 ^ b }

/-- An event is latched at a running float. -/
def latchEvent (s : State) (k b : Nat) : State :=
  let f := floatOf s k
  if f.running then setFloat s k (latchBit f b) else s

/-- A step of train time past the targets between `lo` and `hi` latches them with `STEPPED` (R316). -/
def floatTimeStep (s : State) (lo hi : Int) : State :=
  let mark := fun (f : FloatSt) => match f.tta with
    | some t => if f.running ∧ lo < t ∧ t ≤ hi then latchBit { f with tta := none, steppedT := true } 5 else f
    | none => f
  { s with fld := { s.fld with floats := s.fld.floats.map (fun p => (p.1, mark p.2)) } }

/-- The crossing rule of R163, by direction 0 increasing, 1 decreasing, 2 either way. -/
def crosses (a b target : Int) (dir : Nat) : Bool :=
  (dir != 1 && a < target && target ≤ b) || (dir != 0 && b ≤ target && target < a)

/-- Position crossings of the floats' targets on the way from `a` to `b` (R316). -/
def floatPositions (s : State) (a b : Int) (step : Bool) : State :=
  let go := fun (f : FloatSt) => match f.pta with
    | some (t, d) =>
      if f.running && crosses a b t d then
        latchBit { f with pta := none, steppedP := f.steppedP || step } 6
      else f
    | none => f
  { s with fld := { s.fld with floats := s.fld.floats.map (fun p => (p.1, go p.2)) } }

/-! ### Programs -/

/-- Registers, flags and events are zero and data memory is loaded when a program starts (R311). -/
def startProgram (f : FloatSt) (p : Program) (entry : Nat) : FloatSt :=
  { f with
    prog := some p, running := true, regs := List.replicate 8 0, z := false, n := false, c := false, pc := entry
    data := Mem.writeN [] 0 p.init, events := 0, steppedT := false, steppedP := false, waiting := none
    timer := none, tta := none, pta := none, passes := [], steps := 0, stoppedAt := none
    txn := none, ended := none, reqLength := 0, alarm := none }

/-- The fields of an instruction word (R312). -/
def wOp (w : Word32) : Nat := bits w.toNat 31 26
def wA (w : Word32) : Nat := bits w.toNat 25 23
def wB (w : Word32) : Nat := bits w.toNat 22 20
def wSub (w : Word32) : Nat := bits w.toNat 19 16
def wImm (w : Word32) : Nat := bits w.toNat 15 0
def wTarget (w : Word32) : Nat := bits w.toNat 11 0
def wLimit (w : Word32) : Nat := bits w.toNat 19 12

/-- What an instruction sees beside its float: train time, the always-on count, `SERIAL_TIMEOUT`, the ns of one
character, whether it is a profile with its port registers (R319), and the first free bit it may use. -/
structure FEnv where
  now : Int
  clk : Nat
  timeout : Nat
  charNs : Nat
  profile : Bool
  reqKind : Nat
  channel : Nat
  arg : Nat
  respLength : Nat
  free : Nat
deriving DecidableEq, Repr

/-- The outcome of an instruction: the float after it, or a fault's code and detail (R322). -/
abbrev FRes := Except (Nat × Nat) FloatSt

def fReg (f : FloatSt) (i : Nat) : Word32 := f.regs.getD i 0
def fSet (f : FloatSt) (i : Nat) (v : Word32) : FloatSt := { f with regs := f.regs.set i v }

/-- The program counter moves; the pass count of a loop is dropped when it leaves the loop. -/
def fGo (f : FloatSt) (pc : Nat) : FloatSt :=
  let inLoop := fun (i : Nat) => match f.prog.bind (fun p => p.code[i]?) with
    | none => false
    | some w => wTarget w ≤ pc && pc ≤ i
  { f with pc := pc, passes := f.passes.filter (fun p => inLoop p.1) }

def fNext (f : FloatSt) : FloatSt := fGo f (f.pc + 1)

/-- A result written with its flags (R313). -/
def fResult (f : FloatSt) (i : Nat) (v : Word32) (c : Bool) : FloatSt :=
  fNext { fSet f i v with z := v == 0, n := v.msb, c := c }

/-- The address of a load or store. -/
def fAddr (w : Word32) (f : FloatSt) : Nat := (fReg f (wB w) + BitVec.ofNat 32 (wImm w)).toNat

/-- A data address of `k` bytes lies in the float's memory or windows (R311, R319). -/
def fMemOk (profile : Bool) (a k : Nat) : Bool :=
  if profile then
    a + k ≤ 0x2000 || (0x8000 ≤ a && a + k ≤ 0x8000 + 1472) || (0x9000 ≤ a && a + k ≤ 0x9000 + 1472) ||
      (0xA000 ≤ a && a + k ≤ 0xA000 + 1432) || (0xB000 ≤ a && a + k ≤ 0xB000 + 1432) ||
      (0xC000 ≤ a && a + k ≤ 0xC000 + 16)
  else a + k ≤ 0x4000

/-! ### The instructions (R313) -/

def fNop (_ : Word32) (_ : FEnv) (f : FloatSt) : FRes := .ok (fNext f)
def fLdi (w : Word32) (_ : FEnv) (f : FloatSt) : FRes := .ok (fNext (fSet f (wA w) (BitVec.ofNat 32 (wImm w))))
def fLdh (w : Word32) (_ : FEnv) (f : FloatSt) : FRes :=
  .ok (fNext (fSet f (wA w) (BitVec.ofNat 32 (wImm w * 65536 + (fReg f (wA w)).toNat % 65536))))
def fMov (w : Word32) (_ : FEnv) (f : FloatSt) : FRes := .ok (fNext (fSet f (wA w) (fReg f (wB w))))

/-- A sum with its carry. -/
def fSum (f : FloatSt) (i : Nat) (x y : Word32) : FloatSt :=
  fResult f i (x + y) (decide (2 ^ 32 ≤ x.toNat + y.toNat))

def fAdd (w : Word32) (_ : FEnv) (f : FloatSt) : FRes := .ok (fSum f (wA w) (fReg f (wA w)) (fReg f (wB w)))
def fAddi (w : Word32) (_ : FEnv) (f : FloatSt) : FRes :=
  .ok (fSum f (wA w) (fReg f (wA w)) (BitVec.signExtend 32 (BitVec.ofNat 16 (wImm w))))
def fSub (w : Word32) (_ : FEnv) (f : FloatSt) : FRes :=
  let x := fReg f (wA w)
  let y := fReg f (wB w)
  .ok (fResult f (wA w) (x - y) (decide (x.toNat < y.toNat)))

/-- The bitwise and shift results: the table states no C for them, so C is a free bit, a new one at every step. -/
def fBits (e : FEnv) (f : FloatSt) (i : Nat) (v : Word32) : FRes :=
  .ok (fResult f i v (Config.freeBit (e.free + (if e.profile then f.steps else 0))))

def fAnd (w : Word32) (e : FEnv) (f : FloatSt) : FRes := fBits e f (wA w) (fReg f (wA w) &&& fReg f (wB w))
def fOr (w : Word32) (e : FEnv) (f : FloatSt) : FRes := fBits e f (wA w) (fReg f (wA w) ||| fReg f (wB w))
def fXor (w : Word32) (e : FEnv) (f : FloatSt) : FRes := fBits e f (wA w) (fReg f (wA w) ^^^ fReg f (wB w))
def fShl (w : Word32) (e : FEnv) (f : FloatSt) : FRes := fBits e f (wA w) (fReg f (wA w) <<< (wImm w % 32))
def fShr (w : Word32) (e : FEnv) (f : FloatSt) : FRes := fBits e f (wA w) (fReg f (wA w) >>> (wImm w % 32))

def fLd (w : Word32) (e : FEnv) (f : FloatSt) : FRes :=
  let a := fAddr w f
  if a % 4 ≠ 0 ∨ !fMemOk e.profile a 4 then .error (2, 0)
  else .ok (fNext (fSet f (wA w) (BitVec.ofNat 32 (beNat (Mem.readN f.data a 4)))))
def fSt (w : Word32) (e : FEnv) (f : FloatSt) : FRes :=
  let a := fAddr w f
  if a % 4 ≠ 0 ∨ !fMemOk e.profile a 4 then .error (2, 0)
  else .ok (fNext { f with data := Mem.writeN f.data a (be 4 (fReg f (wA w)).toNat) })
def fLdb (w : Word32) (e : FEnv) (f : FloatSt) : FRes :=
  let a := fAddr w f
  if !fMemOk e.profile a 1 then .error (2, 0)
  else .ok (fNext (fSet f (wA w) ((Mem.read f.data a).setWidth 32)))
def fStb (w : Word32) (e : FEnv) (f : FloatSt) : FRes :=
  let a := fAddr w f
  if !fMemOk e.profile a 1 then .error (2, 0)
  else .ok (fNext { f with data := Mem.write f.data a ((fReg f (wA w)).setWidth 8) })

/-- Flags of a comparison, which writes no register. -/
def fCompare (f : FloatSt) (x y : Word32) : FRes :=
  let v := x - y
  .ok (fNext { f with z := v == 0, n := v.msb, c := decide (x.toNat < y.toNat) })

def fCmp (w : Word32) (_ : FEnv) (f : FloatSt) : FRes := fCompare f (fReg f (wA w)) (fReg f (wB w))
def fCmpi (w : Word32) (_ : FEnv) (f : FloatSt) : FRes := fCompare f (fReg f (wA w)) (BitVec.ofNat 32 (wImm w))

/-- A ns rounded up to a clock of 12.5 ns (1.25 ns in F13), as whole ns not before it. -/
def roundClock (profile : Bool) (a : Nat) : Nat :=
  if profile then cdiv (cdiv (a * 4) 5 * 5) 4 else cdiv (cdiv (a * 2) 25 * 25) 2

def fTmr (w : Word32) (e : FEnv) (f : FloatSt) : FRes :=
  let a := (fReg f (wA w)).toNat
  .ok (fNext { f with timer := some (e.clk + roundClock e.profile a), events := f.events - f.events % 2 })

/-- The pair A:A+1, high and low. -/
def fPair (w : Word32) (f : FloatSt) : Nat := (fReg f (wA w)).toNat * 2 ^ 32 + (fReg f (wA w + 1)).toNat

def fTta (w : Word32) (_ : FEnv) (f : FloatSt) : FRes :=
  .ok (fNext { f with tta := some (fPair w f : Nat) })
def fPta (w : Word32) (_ : FEnv) (f : FloatSt) : FRes :=
  .ok (fNext { f with pta := some (signed64 (fPair w f), wImm w) })

def fWait (w : Word32) (_ : FEnv) (f : FloatSt) : FRes :=
  .ok (floatReturn { fNext f with waiting := some (wImm w, wA w) })

/-- Bytes still in the transmit FIFO, by the character time. -/
def txLeft (e : FEnv) (f : FloatSt) : List Byte := f.tx.drop ((e.clk - f.txAt) / e.charNs)

/-- Removes the bytes that have left the transmit FIFO; the last one stays until the line drains. -/
def txSettle (e : FEnv) (f : FloatSt) : FloatSt :=
  let gone := min ((e.clk - f.txAt) / e.charNs) (f.tx.length - 1)
  { f with tx := f.tx.drop gone, txAt := f.txAt + gone * e.charNs }

def fIn (w : Word32) (e : FEnv) (f : FloatSt) : FRes :=
  let put := fun (f : FloatSt) (v : Nat) => Except.ok (fNext (fSet f (wA w) (BitVec.ofNat 32 v)))
  let r := wImm w % 256
  if e.profile then
    put f (match r with | 0 => e.reqKind | 1 => e.channel | 2 => e.arg | 3 => e.respLength | _ => 0)
  else match r with
    | 0 => (match f.rx with | [] => put f 0 | x :: t => put { f with rx := t } x)
    | 1 => put f f.rx.length
    | 3 => put f (64 - (txLeft e f).length)
    | 4 => put f (f.lineCtrl % 2)
    | 5 => put f f.silence
    | 6 => put f e.timeout
    | _ => put f 0

def fOut (w : Word32) (e : FEnv) (f : FloatSt) : FRes :=
  let v := fReg f (wA w)
  let r := wImm w % 256
  if e.profile then
    .ok (fNext (match r with
      | 0x10 => { f with reqLength := min v.toNat 1472 }
      | 0x11 => { f with alarm := some (v.toNat % 256) }
      | _ => f))
  else match r with
    | 2 =>
      if 64 ≤ (txLeft e f).length then .error (3, 0)
      else
        let g := txSettle e f
        let at_ := if g.tx.isEmpty then e.clk else g.txAt
        .ok (fNext { g with tx := g.tx ++ [v.setWidth 8], txAt := at_ })
    | 4 =>
      let g := if v.getLsbD 1 then { f with rx := [], byteAt := none, events := f.events - Nat.land f.events 2 } else f
      .ok (fNext { g with lineCtrl := v.toNat % 2 })
    | 5 => .ok (fNext { f with silence := if v.toNat % 65536 = 0 then f.silence else v.toNat % 65536 })
    | _ => .ok (fNext f)

/-- The bytes of the far field that fields 5 to 8 hold: four each, the last one those that are left (R318; log entry 197). -/
def dataPart (t : FloatTxn) (r : Nat) : Nat := min 4 (t.width - 4 * (r - 5))

def fTget (w : Word32) (_ : FEnv) (f : FloatSt) : FRes :=
  match f.txn with
  | none => .error (6, 0)
  | some t =>
    let r := wImm w % 256
    let v := match r with
      | 0 => t.kind | 1 => t.device | 2 => t.func | 3 => t.reg | 4 => t.width | 9 => t.attempt
      | _ => if 5 ≤ r ∧ r ≤ 8 then field f.txnData (4 * (r - 5)) (dataPart t r) else 0
    .ok (fNext (fSet f (wA w) (BitVec.ofNat 32 v)))
def fTput (w : Word32) (_ : FEnv) (f : FloatSt) : FRes :=
  match f.txn with
  | none => .error (6, 0)
  | some t =>
    let r := wImm w % 256
    if 5 ≤ r ∧ r ≤ 8 then
      .ok (fNext { f with txnData := splice f.txnData (4 * (r - 5)) (be (dataPart t r) (fReg f (wA w)).toNat) })
    else .ok (fNext f)

/-- `TEND`: a profile's activation ends with it whether or not it serves an access (R319). -/
def fTend (w : Word32) (e : FEnv) (f : FloatSt) : FRes :=
  if f.txn.isNone && !e.profile then .error (6, 0)
  else .ok (fNext { f with ended := some (wImm w % 256, (fReg f (wA w)).toNat % 65536), txn := none })

/-- The CRC in the low bits of A; the others stay. -/
def fCrcOf (sel : Nat) (v : Nat) (b : Byte) : Nat :=
  match sel with
  | 0 => v / 65536 * 65536 + crcRightByte 0xA001 (v % 65536) b
  | 1 => v / 65536 * 65536 + crcLeftByte 16 0x1021 (v % 65536) b
  | _ => v / 256 * 256 + crcLeftByte 8 0x07 (v % 256) b

def fCrc (w : Word32) (_ : FEnv) (f : FloatSt) : FRes :=
  .ok (fNext (fSet f (wA w) (BitVec.ofNat 32 (fCrcOf (wImm w) (fReg f (wA w)).toNat ((fReg f (wB w)).setWidth 8)))))

def fFault (w : Word32) (_ : FEnv) (_ : FloatSt) : FRes := .error (5, wImm w)

def fTime (w : Word32) (e : FEnv) (f : FloatSt) : FRes :=
  let t := time64 e.now
  .ok (fNext (fSet (fSet f (wA w) (BitVec.ofNat 32 (t / 2 ^ 32))) (wA w + 1) (BitVec.ofNat 32 t)))

def fHolds (c : Nat) (f : FloatSt) : Bool :=
  match c with
  | 0 => true | 1 => f.z | 2 => !f.z | 3 => f.c | 4 => !f.c | 5 => f.n | _ => !f.n

def fBr (w : Word32) (_ : FEnv) (f : FloatSt) : FRes :=
  .ok (if fHolds (wSub w) f then fGo f (wTarget w) else fNext f)

/-- `LOOP`: the pass is counted, and the loop goes back while A is not zero and the limit is not reached. -/
def fLoop (w : Word32) (_ : FEnv) (f : FloatSt) : FRes :=
  let v := fReg f (wA w) - 1
  let made := Tab.getD f.passes f.pc 0 + 1
  let g := fSet f (wA w) v
  .ok (if v ≠ 0 ∧ made < wLimit w then fGo { g with passes := Tab.set g.passes f.pc made } (wTarget w)
    else fNext { g with passes := Tab.erase g.passes f.pc })

/-- The instructions by opcode. -/
def floatAct (op : Nat) : Option (Word32 → FEnv → FloatSt → FRes) :=
  match op with
  | 0x00 => some fNop | 0x01 => some fLdi | 0x02 => some fLdh | 0x03 => some fMov | 0x04 => some fAdd
  | 0x05 => some fAddi | 0x06 => some fSub | 0x07 => some fAnd | 0x08 => some fOr | 0x09 => some fXor
  | 0x0A => some fShl | 0x0B => some fShr | 0x0C => some fLd | 0x0D => some fSt | 0x0E => some fLdb
  | 0x0F => some fStb | 0x10 => some fCmp | 0x11 => some fCmpi | 0x20 => some fTmr | 0x21 => some fTta
  | 0x22 => some fPta | 0x23 => some fWait | 0x24 => some fIn | 0x25 => some fOut | 0x26 => some fTget
  | 0x27 => some fTput | 0x28 => some fTend | 0x29 => some fCrc | 0x2A => some fFault | 0x2B => some fTime
  | 0x30 => some fBr | 0x31 => some fLoop | _ => none

/-- One step within the budget of 1,024 of a segment or activation (R320, R321). -/
def floatStep (e : FEnv) (f : FloatSt) (w : Word32) (act : Word32 → FEnv → FloatSt → FRes) : FRes :=
  if 1024 ≤ f.steps then .error (1, 0) else act w e { f with steps := f.steps + 1 }

/-- A profile's activation runs to `TEND` or to a fault: the result, or a fault's code and detail with the float at the
instruction that made it. -/
def runProfile (e : FEnv) : Nat → FloatSt → Except (Nat × Nat × FloatSt) FloatSt
  | 0, f => .error (1, 0, f)
  | k + 1, f =>
    match f.prog.bind (fun p => p.code[f.pc]?) with
    | none => .error (1, 0, f)
    | some w =>
      match floatAct (wOp w) with
      | none => .error (1, 0, f)
      | some act =>
        match floatStep e f w act with
        | .error (c, d) => .error (c, d, f)
        | .ok g => if g.ended.isSome then .ok g else runProfile e k g

/-! ### Program images and the load checks (R321, R323) -/

/-- A program of an image's bytes. -/
def parseProgram (b : Bytes) : Program :=
  let n := field b 10 2
  { id := field b 0 4, version := field b 4 4, entry := field b 14 2, parse := field b 16 2
    code := (List.range n).map (fun i => BitVec.ofNat 32 (field b (32 + 4 * i) 4))
    init := b.drop (32 + 4 * n) }

/-- Check 0x01. -/
def progImageOk (b : Bytes) (profile : Bool) : Bool :=
  let n := field b 10 2
  32 ≤ b.length && 1 ≤ n && n ≤ 4096 && b.length == 32 + 4 * n + field b 12 2 &&
    field b 20 4 == crc32 (b.drop 32) && field b 8 1 == (if profile then 2 else 1) &&
    field b 14 2 < n && (if profile then field b 16 2 < n else field b 16 2 == 0)

/-- The unused fields of a word are zero (R312, check 0x02): uses of A, B, bits [19:16], and the greatest imm. -/
def unusedZero (w : Word32) (a b sub : Bool) (imm : Nat) : Bool :=
  (a || wA w == 0) && (b || wB w == 0) && (sub || wSub w == 0) && wImm w ≤ imm

/-- Check 0x02 for one word. -/
def wordOk (profile : Bool) (w : Word32) : Bool :=
  let even := wA w % 2 == 0
  match wOp w with
  | 0x00 => unusedZero w false false false 0
  | 0x01 => unusedZero w true false false 65535
  | 0x02 => unusedZero w true false false 65535
  | 0x03 => unusedZero w true true false 0
  | 0x04 => unusedZero w true true false 0
  | 0x05 => unusedZero w true false false 65535
  | 0x06 => unusedZero w true true false 0
  | 0x07 => unusedZero w true true false 0
  | 0x08 => unusedZero w true true false 0
  | 0x09 => unusedZero w true true false 0
  | 0x0A => unusedZero w true false false 31
  | 0x0B => unusedZero w true false false 31
  | 0x0C => unusedZero w true true false 65535
  | 0x0D => unusedZero w true true false 65535
  | 0x0E => unusedZero w true true false 65535
  | 0x0F => unusedZero w true true false 65535
  | 0x10 => unusedZero w true true false 0
  | 0x11 => unusedZero w true false false 65535
  | 0x20 => unusedZero w true false false 0
  | 0x21 => unusedZero w true false false 0 && even
  | 0x22 => unusedZero w true false false 2 && even
  | 0x23 => unusedZero w true false false 255 && wImm w != 0 && !profile
  | 0x24 => unusedZero w true false false 255 &&
      (if profile then wImm w ≤ 3 || wImm w == 0x10 || wImm w == 0x11 else wImm w ≤ 6)
  | 0x25 => unusedZero w true false false 255 &&
      (if profile then wImm w ≤ 3 || wImm w == 0x10 || wImm w == 0x11 else wImm w ≤ 6)
  | 0x26 => unusedZero w true false false 9
  | 0x27 => unusedZero w true false false 8 && 5 ≤ wImm w
  | 0x28 => unusedZero w true false false 255
  | 0x29 => unusedZero w true true false 2
  | 0x2A => unusedZero w false false false 65535
  | 0x2B => unusedZero w true false false 0 && even
  | 0x30 => unusedZero w false false true 4095 && wSub w ≤ 6
  | 0x31 => wB w == 0
  | _ => false

def isWait (w : Word32) : Bool := wOp w == 0x23
def isLoop (w : Word32) : Bool := wOp w == 0x31
def isBr (w : Word32) : Bool := wOp w == 0x30

/-- Check 0x03 for the word at an index. -/
def targetOk (n i : Nat) (w : Word32) : Bool :=
  if isBr w then wTarget w < n else if isLoop w then wTarget w ≤ i && wLimit w != 0 else true

/-- The indices that can follow an instruction. -/
def succs (profile : Bool) (i : Nat) (w : Word32) : List Nat :=
  if isBr w then (if wSub w = 0 then [wTarget w] else [i + 1, wTarget w])
  else if isLoop w then [i + 1, wTarget w]
  else if wOp w = 0x2A ∨ (profile ∧ wOp w = 0x28) then [] else [i + 1]

/-- The indices reached from a set without passing a `WAIT`, by rounds. -/
def reachNoWait (profile : Bool) (code : List Word32) : Nat → List Nat → List Nat
  | 0, l => l
  | k + 1, l =>
    let more := l.flatMap (fun i => match code[i]? with
      | none => []
      | some w => if isWait w then [] else succs profile i w)
    reachNoWait profile code k ((l ++ more).eraseDups)

/-- An instruction comes back to an index it branches to without a `WAIT`. -/
def cyclesBare (profile : Bool) (code : List Word32) (i target : Nat) : Bool :=
  (reachNoWait profile code code.length [target]).contains i

def enum (code : List Word32) : List (Nat × Word32) := (List.range code.length).zip code

/-- The loops of a program: index, target, limit. -/
def loopsOf (code : List Word32) : List (Nat × Nat × Nat) :=
  (enum code).filterMap (fun (i, w) => if isLoop w then some (i, wTarget w, wLimit w) else none)

/-- Check 0x05: two loops overlap without nesting. -/
def badOverlap (l : List (Nat × Nat × Nat)) : Option Nat :=
  (l.find? (fun (i, t, _) => l.any (fun (j, u, _) => t < u && u ≤ i && i < j))).map (·.1)

/-- The times that an instruction runs in a segment: the limits of the loops around it that pass no `WAIT`. -/
def weight (bare : List (Nat × Nat × Nat)) (i : Nat) : Nat :=
  ((bare.filter (fun (j, t, _) => t ≤ i && i ≤ j)).map (·.2.2)).prod

/-- One round of the longest paths to the next `WAIT`. -/
def longestRound (profile : Bool) (bare : List (Nat × Nat × Nat)) (code : List Word32) (best : List Nat) : List Nat :=
  (enum code).map (fun (i, w) =>
    let nexts := (succs profile i w).filter (fun j => !(isLoop w && j == wTarget w && bare.any (fun x => x.1 == i)))
    weight bare i + (if isWait w then 0 else (nexts.map (fun j => best.getD j 0)).foldl max 0))

/-- The worst-case steps from each instruction to the next `WAIT` or the end. -/
def longest (profile : Bool) (code : List Word32) : List Nat :=
  let bare := (loopsOf code).filter (fun (i, t, _) => cyclesBare profile code i t)
  (List.range code.length).foldl (fun b _ => longestRound profile bare code b) (List.replicate code.length 0)

/-- The worst segment or activation of a program: from its entries and from the return of each `WAIT`. -/
def worstCase (profile : Bool) (p : Program) : Nat :=
  let best := longest profile p.code
  let starts := [p.entry] ++ (if profile then [p.parse] else []) ++
    (enum p.code).filterMap (fun (i, w) => if isWait w then some (i + 1) else none)
  (starts.map (fun i => best.getD i 0)).foldl max 0

/-- Checks 0x02 to 0x07 (R321): the check that fails and its instruction index. -/
def codeChecks (profile : Bool) (p : Program) : Option (Nat × Nat) :=
  let ws := enum p.code
  let first := fun (c : Nat) (bad : Nat × Word32 → Bool) => (ws.find? bad).map (fun x => (c, x.1))
  let checks : List (Unit → Option (Nat × Nat)) :=
    [fun _ => first 2 (fun x => !wordOk profile x.2),
     fun _ => first 3 (fun x => !targetOk p.code.length x.1 x.2),
     fun _ => first 4 (fun x => isBr x.2 && wTarget x.2 ≤ x.1 && cyclesBare profile p.code x.1 (wTarget x.2)),
     fun _ => (badOverlap (loopsOf p.code)).map (fun i => (5, i)),
     fun _ => (match p.code.getLast? with
       | some w => if (isBr w && wSub w == 0) || wOp w == 0x2A then none else some (6, p.code.length - 1)
       | none => some (6, 0)),
     fun _ => if 1024 < worstCase profile p then some (7, 0) else none]
  checks.findSome? (fun c => c ())

end Sys2Proof.Machine
end

