-- ==== Sys2Proof/Machine/Timebase.lean ====
section
/-! DEFINITION. Train time, the delay exchange, event tables and the PTP rows (spec file 05). -/

namespace Sys2Proof.Machine

/-! ### The servo (R144) -/

/-- The unit in which rates are held: 1/(512 × 10^6). -/
def rateUnit : Nat := 512000000

/-- The code of the cycle length, 0 to 5 (R64). -/
def cycleCode (s : State) : Nat := sched s 4 1 2

/-- The rate, 1 − f − phase/(2C), clamped to ±1,000 ppm (R144), in rate units; the lead runs on its own oscillator
(R138). -/
def rateOf (s : State) : Int :=
  if s.set.lease then rateUnit else
  let r : Int := rateUnit - s.time.f - s.time.phase * 256 / (2 ^ cycleCode s : Nat)
  max (rateUnit - 512000 : Int) (min (rateUnit + 512000) r)

/-- Two nanoseconds pass on the always-on count, and train time, 64 bits, runs on at its rate (R14, R142, R144; log
entry 1). -/
def tick (s : State) : State :=
  let acc := s.time.frac + 2 * (rateOf s).toNat
  { s with
    clk := s.clk + 2
    time := { s.time with now := (time64 (s.time.now + (acc / rateUnit : Nat)) : Nat), frac := acc % rateUnit } }

/-- An entry can still fire: once per target, and never on a target that a step crossed (R164), even if that target is
passed later (log entry 181). -/
def canFire (e : EventEntry) : Bool := e.enable && (e.repeats || (!e.fired && !e.skipped))

/-- An event entry whose train-time target a step passes over: not fired, marked, and advanced by whole
intervals if it repeats (R164). -/
def skipTime (lo hi : Int) (e : EventEntry) : EventEntry :=
  if e.kind = 1 ∧ canFire e ∧ lo < e.target ∧ e.target ≤ hi then
    { e with
      skipped := true
      target := if e.repeats ∧ 0 < e.interval then
        e.target + (((hi - e.target) / e.interval + 1) * e.interval) else e.target }
  else e

/-- The same for a position target between two carried positions. After a step down the target is moved down, ahead in the
direction of the step (log entry 180). -/
def skipPos (a b : Int) (e : EventEntry) : EventEntry :=
  let up := a < e.target && e.target ≤ b
  let down := b ≤ e.target && e.target < a
  if canFire e ∧ ((e.kind = 2 ∧ up) ∨ (e.kind = 3 ∧ down) ∨ (e.kind = 4 ∧ (up ∨ down))) then
    { e with
      skipped := true
      target := if e.repeats ∧ 0 < e.interval then
        (if up then e.target + (((b - e.target) / e.interval + 1) * e.interval)
         else e.target - (((e.target - b) / e.interval + 1) * e.interval)) else e.target }
  else e

/-- The entries that a step newly marks, as EVENT_SKIPPED reports (R164). -/
def skippedReports (old new : List EventEntry) : List EventIn :=
  ((List.range old.length).zip (old.zip new)).filterMap (fun (i, a, b) =>
    if a != b then some ⟨0x0301, 6, i, []⟩ else none)

/-- Why train time steps (R151), with the code that its record carries behind the size (log entry 148). -/
inductive StepCause where
  | correction | fromStart | commanded | anchor
deriving DecidableEq, Repr

def StepCause.code : StepCause → Nat
  | .correction => 1 | .fromStart => 2 | .commanded => 3 | .anchor => 4

/-- Train time steps by `d`: logged with its size and cause, the interrupt source raised, crossed targets skipped
(R144, R151, R164, R472). -/
def stepTime (s : State) (d : Int) (why : StepCause) : State :=
  let ev := s.time.events.map (skipTime s.time.now (s.time.now + d))
  let s1 := reportAll (floatTimeStep s s.time.now (s.time.now + d))
    (⟨0x0103, 6, d, be 1 why.code⟩ :: skippedReports s.time.events ev)
  raiseInt { s1 with time := { s1.time with now := (time64 (s.time.now + d) : Nat), events := ev } } 10

/-- Samples latched at grid instants that a step of own time by `d` passes over are discarded; none of them is latched
again (R151). -/
def dropPassed (s : State) (d : Int) : State :=
  { s with skim := { s.skim with samples := s.skim.samples.filter (fun x =>
      !(decide (s.time.now + d < tsOf s x.n ∧ tsOf s x.n ≤ s.time.now))) } }

/-- A cycle-start was delivered within the last 8 cycles (R136). -/
def startRecent (s : State) : Bool := s.cyc.csSeen || (s.cyc.running && s.cyc.missed < 8)

/-- Self-silencing: the node stops originating until it has joined again (R82, R85). -/
def silenceIf (c : Bool) (s : State) : State :=
  { s with cyc := { s.cyc with
      silenced := s.cyc.silenced || c
      joined := s.cyc.joined && !c
      joinFrom := if c then none else s.cyc.joinFrom } }

/-- One correction with offset `theta` (R144, R146), self-silencing included (R85). The lead never
corrects (R138). -/
def correct (s : State) (theta : Int) (why : StepCause) : State :=
  if s.set.lease then s
  else
    let big := decide (s.time.base = .unset) || aboveGuard s theta 3 4
    let silence := decide (s.set.state = .committed) && decide (s.time.base ≠ .unset) && aboveGuard s theta 3 4
    let joinOk := !aboveGuard s theta 1 4 && (decide (s.time.base = .unset) || !aboveGuard s (estimatedOffset s) 1 4)
    let f := if s.time.base = .unset then 0
      else if big then s.time.f else s.time.f + theta * 32 / (2 ^ cycleCode s : Nat)
    let s1 := if big then stepTime (dropPassed s (-theta)) (-theta) why else s
    let s2 := reportAll s1 [⟨0x0181, 6, theta.natAbs, []⟩]
    let s3 := { s2 with
      time := { s2.time with f := f, phase := if big then 0 else theta, offset := theta.natAbs,
                             offsetAt := s.clk, corrected := true, uncorrected := false }
      cyc := { s2.cyc with joinFrom := if joinOk then s2.cyc.joinFrom else none } }
    let s4 := silenceIf silence s3
    if startRecent s then setTimebase s4 .tracking else s4

/-! ### The time reference port (R143) -/

/-- The partner's latest probe shows committed (R102). -/
def probeCommitted (s : State) (p : LinePort) : Bool :=
  match s.set.probes.get p with | none => false | some b => bitOf (field b 25 1) 2

/-- The numbering that names positions for R143: in force, else pending. -/
def timeNumbering (s : State) : Option Numbering :=
  match s.set.numbering with | some t => some t | none => s.set.pending

/-- Whether a port passes as facing the previous position. An absorbed unit, whose numbering does not tell where the
survivor's lead is, takes the port on which the survivor's cycle-starts arrive (log entry 149). -/
def facesLead (s : State) (p : LinePort) : Bool :=
  match (if s.set.state = .absorbing ∨ isFed s then none else timeNumbering s) with
  | some t =>
    (match entryOf t (vehicleUuid s) with | none => false | some e => (portEnd p == 1) == e.orient)
  | none => (s.time.csArrival.get p).isSome

/-- The counter that the partner's probe must show: of the own numbering, or in `ABSORBING` the survivor's (R143, R146). -/
def refTopo (s : State) : Option Nat :=
  if s.set.state = .absorbing then s.set.startTopo else (timeNumbering s).map (·.topo)

/-- The stack master's control record, or while the hawk is vacant the feeding unit's: a unit without train-line ports
takes time from it over the peer ring, which A1 stands for (R143, R379; log entry 150). -/
def ringRef (s : State) : Option Nat :=
  match (otherUnits s).find? (fun u => ((freshRec s u).map PeerRec.composes).getD false) with
  | some u => some u
  | none => (otherUnits s).find? (fun u => !(fedUnits s).contains u && peerFresh s u)

/-- A port passes the test of R143. -/
def refOk (s : State) (p : LinePort) : Bool :=
  if isFed s then decide (p = .a1) && onRing s && (ringRef s).isSome
  else assigned s p && linkUp s p && facesLead s p && probeCommitted s p &&
    (match refTopo s with | none => true | some t => s.set.probeTopo.get p == t)

/-- The time reference port: on line A if it passes, else on line B (R143). -/
def timeRef (s : State) : Option LinePort := [LinePort.a1, .a2, .b1, .b2].find? (refOk s)

/-- The cycle-start's arrival that R145 corrects from: at the reference port, or at the line A port facing
the previous position, or on line B. -/
def startArrival (s : State) : Option (LinePort × Int) :=
  let at_ := fun p => (s.time.csArrival.get p).map (fun t => (p, t))
  match (timeRef s).bind at_ with
  | some x => some x
  | none => ([LinePort.a1, .a2, .b1, .b2].filter (facesLead s)).findSome? at_

/-- The correction from the cycle-start (R145): with d_L held, or 0 while unset or absorbing; else coast. -/
def correctFromStart (s : State) : State :=
  match startArrival s with
  | none => s
  | some (p, t) =>
    if s.time.corrected then s
    else
      let s1 := { s with time := { s.time with startDelays := s.time.startDelays.filter (fun x => x.1 != p) } }
      match leadDelay s p with
      | some d => correct s1 (t - (lineStart s + d)) .fromStart
      | none =>
        if s.time.base = .unset ∨ s.set.state = .absorbing then correct s1 (t - lineStart s) .fromStart else s

/-! ### The delay exchange (R142) -/

/-- The delay-measure payload (R55, type 0xB). -/
def delayPayload (kind port : Nat) (t1 t2 t3 : Int) : Bytes :=
  be 1 kind ++ be 1 port ++ zeros 2 ++ be 8 (time64 t1) ++ be 8 (time64 t2) ++ be 8 (time64 t3)

/-- A stamp at 2 ns resolution (R142). -/
def stamp2 (t : Int) : Int := t - t % 2

/-- A delay measure on a port; between units of one vehicle over the peer ring (R143; log entry 150). -/
def sendDelay (s : State) (p : LinePort) (payload : Bytes) (ring : Bool) : State :=
  if ring then
    let f := newFrame s 11 (portNo p) 0 payload
    if onRing s then emit s [Out.peer ringFrameChannel (frameBytes f)] else s
  else originateOn s [p] 11 (portNo p) 0 payload

/-- Sends one delay-measure request on a port and awaits its response. -/
def sendDelayRequest (s : State) (p : LinePort) : State :=
  let t1 := stamp2 s.time.now
  let s1 := sendDelay s p (delayPayload 0 (portNo p) t1 0 0) (isFed s)
  { s1 with time := { s1.time with
      exchanges := s1.time.exchanges.set p ⟨some t1, s.clk, none, none⟩ } }

/-- A frame waits for its delivery row on a port. -/
def waits (s : State) (p : LinePort) (f : Frame) : Bool :=
  s.line.rx.any (fun r => decide (r.port = p) && decide (r.frame = f))

/-- The first such frame is taken. -/
def takeRx (p : LinePort) (f : Frame) : List RxFrame → List RxFrame
  | [] => []
  | r :: t => if r.port = p ∧ r.frame = f then t else r :: takeRx p f t

/-- A delivery row acts only on a frame that passed its checks and waits; it takes it. -/
def deliver (s : State) (p : LinePort) (f : Frame) (act : State → State) : State :=
  if waits s p f then act { s with line := { s.line with rx := takeRx p f s.line.rx } } else s

/-- The payload that answers a request: t1 copied, t2 and t3 (R142). -/
def delayAnswer (p : LinePort) (f : Frame) (t2 t3 : Int) : Bytes :=
  be 1 1 ++ be 1 (portNo p) ++ zeros 2 ++ bslice f.payload 4 8 ++ be 8 (time64 t2) ++ be 8 (time64 t3)

/-- A delay measure that came from another unit of the own vehicle, over the peer ring. -/
def fromVehicle (s : State) (f : Frame) : Bool :=
  ((fedUnits s).contains f.srcUnit || isFed s) && f.srcUnit != s.unitNo && f.srcPos == ownPos s && f.srcPos != 0

/-- A delay request may be answered now: on a linked port, in the segment phase where the segment is part of the committed
line, and not within the quiet time of a census (R68, R108); over the peer ring at any time, by the unit that is the others'
time reference: the composing one, or the feeding one while none composes (R143; log entry 150). -/
def mayAnswer (s : State) (p : LinePort) (f : Frame) : Bool :=
  (fromVehicle s f && (composing s ||
    (feeding s && !(otherUnits s).any (fun u => ((freshRec s u).map PeerRec.composes).getD false)))) ||
   (!fromVehicle s f && linkUp s p && segmentFree s p && decide (s.set.quietUntil ≤ s.clk))

/-- DELAY_REQUEST_DELIVERED: answered on the same port with t1 copied, t2 and t3 (R142). -/
def execDelayRequestDelivered (p : LinePort) (f : Frame) (t2 t3 : Int) (s : State) : Res :=
  .next (deliver s p f (fun s =>
    if f.ftype = 11 ∧ field f.payload 0 1 = 0 ∧ mayAnswer s p f then sendDelay s p (delayAnswer p f t2 t3) (fromVehicle s f)
    else s))

/-- A 64-bit train time as read from a frame (R14). -/
def timeField (b : Bytes) (o : Nat) : Int := (field b o 8 : Nat)

/-- The exchange of R142 on a port with its four stamps: kept with delta and L, or discarded. -/
def exchangeResult (t1 t2 t3 t4 : Int) : Option (Int × Int) :=
  let delta := ((t2 - t1) - (t4 - t3)) / 2
  let delay := ((t2 - t1) + (t4 - t3)) / 2
  if 20000 < t4 - t1 ∨ delay < 0 ∨ 600 < delay ∨ 10000 < t3 - t2 then none else some (delta, delay)

/-- DELAY_RESPONSE_DELIVERED (R142, R143, R144, R145). A unit without train-line ports takes it from its time reference
alone. -/
def execDelayResponseDelivered (p : LinePort) (f : Frame) (t4 : Int) (s : State) : Res :=
  .next (deliver s p f (fun s =>
    let x := s.time.exchanges.get p
    match x.t1 with
    | none => s
    | some t1 =>
      if f.ftype ≠ 11 ∨ field f.payload 0 1 ≠ 1 ∨ timeField f.payload 4 ≠ t1 ∨ (isFed s ∧ ringRef s ≠ some f.srcUnit) then s
      else
        let r := exchangeResult t1 (timeField f.payload 12) (timeField f.payload 20) t4
        let s1 := { s with time := { s.time with
          exchanges := s.time.exchanges.set p ⟨none, x.sentAt, r.map (·.1), r.map (·.2)⟩ } }
        match r, decide (timeRef s = some p) && !s.time.corrected with
        | some (delta, _), true => correct s1 (-delta) .correction
        | none, true => correctFromStart s1
        | _, _ => s1))

/-- DELAY_RESPONSE_TIMEOUT: no response within 20 µs of t1; the exchange is missing, and R145 applies on the
time reference port (R142, R145). -/
def execDelayResponseTimeout (p : LinePort) (s : State) : Res :=
  let x := s.time.exchanges.get p
  .next (if x.t1.isSome && decide (x.sentAt + 20000 ≤ s.clk) then
    let s1 := { s with time := { s.time with exchanges := s.time.exchanges.set p ⟨none, x.sentAt, none, none⟩ } }
    if timeRef s = some p then correctFromStart s1 else s1
  else s)

/-- COASTING_ENTRY: a follower's cycle passed with no correction (R136, R150). The estimated offset goes on growing, and
the follower silences itself when it exceeds 3/4 of g (R85, R146). -/
def execCoastingEntry (s : State) : Res :=
  .next (if !s.set.lease && s.time.uncorrected && !s.time.corrected && decide (s.time.base = .tracking) then
    silenceIf (inCycle s && offLimit s) (setTimebase { s with time := { s.time with phase := 0 } } .coasting) else s)

/-- HOLDOVER_ENTRY: 8 cycles without a cycle-start; the follower stops originating and its vehicle side goes
on on local time (R81, R136, R150). -/
def execHoldoverEntry (s : State) : Res :=
  .next (if holdoverDue s then
    setTimebase { s with
      time := { s.time with phase := 0 }
      cyc := { s.cyc with stopped := true, joined := false, joinFrom := none } } .holdover
  else s)

/-! ### Train position (R154 to R158) -/

/-- The position at a train time, mm, interpolated from the latest carried values (R158); its rounding is open
(log entry 45). -/
def positionAt (s : State) (t : Int) : Int :=
  s.time.carried + openDiv s (s.time.carriedSpeed * (t - tsOf s s.time.carriedCycle)) 1000000000

/-- POSITION_INVALID: from Ts(n + 9) after the last delivered cycle-start n, position is not valid (R158). -/
def execPositionInvalid (s : State) : Res :=
  .next (if !s.set.lease && decide (9 ≤ cycDiff (gridN s) s.time.carriedCycle) then
    { s with time := { s.time with carriedValid := false } } else s)

/-! ### Event tables (R161 to R164) -/

/-- The first cycle whose Ts is not before a train time (R162). -/
def cycleFor (s : State) (t : Int) : Nat :=
  let d := t - s.cyc.ts
  if d ≤ 0 then s.cyc.n else cycAdd s.cyc.n (((d + cycleLen s - 1) / cycleLen s).toNat)

/-- Latches EVENT_WAKE at a float (R314). -/
def wakeFloat (s : State) (k : Nat) : State := latchEvent s k 7

/-- An entry's action for cycle n (R162): a signal write of that cycle, an announcement for its message
window, a float wake, or a recorder mark. -/
def eventAction (s : State) (i : Nat) (e : EventEntry) (n : Nat) : State :=
  match e.action with
  | 1 => { s with skim := { s.skim with writes := s.skim.writes ++
      [⟨(ownSlot s).getD 0 * 131072 + e.object % 131072, BitVec.ofNat 128 e.value, some i, some n, none⟩] } }
  | 2 => announce s (e.object % 65536) 0x04 0xFFFFFFFF n i (be 8 e.value)
  | 3 => wakeFloat s (e.object % 16)
  | 4 => report s 0x0006 6 i (be 8 e.value)
  | _ => s

/-- An entry after firing: advanced by its interval when it repeats, otherwise marked `FIRED` (R161, R164). -/
def firedEntry (e : EventEntry) : EventEntry :=
  { e with fired := true, target := if e.repeats then e.target + e.interval else e.target }

/-- Replaces an entry of the event table. -/
def setEvent (s : State) (i : Nat) (e : EventEntry) : State :=
  { s with time := { s.time with events := s.time.events.set i e } }

/-- EVENT_TRAIN_TIME_FIRE: an enabled train-time entry whose target has come fires once for that target
(R162, R164). -/
def execEventTrainTimeFire (i : Nat) (s : State) : Res :=
  .next (match s.time.events[i]? with
    | none => s
    | some e =>
      if e.kind = 1 ∧ canFire e ∧ e.target ≤ s.time.now then
        eventAction (setEvent s i (firedEntry e)) i e (cycleFor s e.target)
      else s)

/-- Whether a position entry fires on the carried positions a then b (R163). -/
def posFires (a b : Int) (e : EventEntry) : Bool :=
  let up := a < e.target && e.target ≤ b
  let down := e.target < a && b ≤ e.target
  canFire e && ((e.kind == 2 && up) || (e.kind == 3 && down) || (e.kind == 4 && (up || down)))

/-- The position entries that fire for cycle n, in index order (R161, R163). -/
def firePositions (s : State) (a b : Int) (n : Nat) : State :=
  (List.range s.time.events.length).foldl (fun s i =>
    match s.time.events[i]? with
    | none => s
    | some e => if posFires a b e then eventAction (setEvent s i (firedEntry e)) i e n else s) s

/-! ### PTP (R165) -/

def ptpState (s : State) (v : Nat) : PtpSt := Tab.getD s.time.ptp v ⟨0, 0, 0, none, none⟩

/-- `clockIdentity` of the node (R165). -/
def clockIdentity (s : State) : Bytes :=
  bslice (be 6 s.unitId) 0 3 ++ [0xFF, 0xFE] ++ bslice (be 6 s.unitId) 3 3

/-- What every PTP message of port v carries: the domain, the clock's identity and port number, and the interval that its
kind has (R165). -/
def ptpSource (s : State) (v : Nat) (domain : Nat) (interval : Int) : Bytes :=
  be 1 domain ++ clockIdentity s ++ be 2 v ++ beInt 1 interval

/-- `2^k` seconds in ns, for the logarithm k of a PTP interval, −1 or more. -/
def ptpInterval (k : Int) : Nat := 500000000 * 2 ^ (k + 1).toNat

/-- A periodic PTP message is due: its interval has passed since the last. -/
def ptpDue (s : State) (last : Option Nat) (k : Int) : Bool :=
  match last with | none => true | some t => decide (t + ptpInterval k ≤ s.clk)

/-- `clockClass` by timebase state (R165). -/
def clockClass (s : State) : Nat :=
  match s.time.base with | .tracking => 13 | .unset => 248 | _ => 14

/-- `clockAccuracy` (R165). -/
def clockAccuracy (s : State) : Nat := if s.time.base = .tracking then 0x21 else 0xFE

end Sys2Proof.Machine
end

