-- ==== Sys2Proof/Machine/Cycle.lean ====
section
/-! DEFINITION. The schedule engine: the schedule table's checks, the turn of a cycle, the cycle-start frame
sent and delivered, joining, and the lead's planning (spec file 03). -/

namespace Sys2Proof.Machine

/-! ### Schedule tables (R66, R70 to R73, R152) -/

/-- A slot of non-zero weight below 84 wire bytes in the worst-case layout of a row, at a rate (R72). -/
def rowTooSmall (b : Bytes) (row : Nat) (r25 : Bool) : Bool :=
  let c := 1000000 * 2 ^ field b 4 1
  let g := max (field b 10 1) 2 * 1000
  let window := (field b 14 2 - field b 12 2) * c / 1000
  let a := (window - 64 * g) * 10 / byteTenths r25
  let ws := (List.range 64).map (weightOf b row)
  let w := ws.sum
  ws.any (fun x => 0 < x && a * x / w < 84)

/-- Supervision groups of 4 present vehicles do not fit (R72 check 0x05, R93). -/
def supTooSmall (b : Bytes) (r25 : Bool) : Bool :=
  let c := 1000000 * 2 ^ field b 4 1
  let g := max (field b 10 1) 2 * 1000
  (field b 18 2 - field b 16 2) * c / 1000 < 4 * (cdiv (supBytes * byteTenths r25) 10 + g)

/-- Checks 0x01 to 0x05 of R72 with the index each reports; none when all pass. -/
def schedChecks (b : Bytes) : Option (Nat × Nat) :=
  let rows := field b 8 2
  let code := field b 4 1
  let c := 1000000 * 2 ^ code
  let pub := field b 12 2
  let msg := field b 14 2
  let sup := field b 16 2
  let res := field b 18 2
  if b.length < 32 ∨ rows < 1 ∨ 1024 < rows ∨ b.length ≠ 32 + 128 * rows ∨ 5 < code ∨ field b 10 1 < 1 ∨
      8 < field b 10 1 ∨ field b 20 2 < 64 ∨ 2048 < field b 20 2 ∨ field b 22 2 < 2048 ∨ field b 11 1 ≠ 0 ∨
      field b 28 4 ≠ 0 then some (1, 0)
  else if !(0 < pub && pub < msg && msg < sup && sup < res && res ≤ 920) || pub * c / 1000 < 20000 then some (2, 0)
  else if field b 5 1 < 1 ∨ 4 < field b 5 1 ∨ c ≤ field b 6 2 * 1000 then some (3, 0)
  else match (List.range rows).find? (fun r => rowTooSmall b r true || rowTooSmall b r false) with
    | some r => some (4, r)
    | none => if supTooSmall b true || supTooSmall b false then some (5, 0) else none

/-- The schedule check of a table (R71). -/
def schedCheck (b : Bytes) : Nat := crc32 b

/-- SCHEDULE_TABLE_ACTIVATION: the staged table takes force at its `ACTIVATION` cycle (R73). -/
def execScheduleTableActivation (s : State) : Res :=
  .next (match s.cyc.staged with
    | none => s
    | some b =>
      if s.cyc.running ∧ (field b 24 4 = s.cyc.n ∨ cycBefore (field b 24 4) s.cyc.n) then
        { s with cyc := { s.cyc with table := some b, staged := none } }
      else s)

/-- SCHEDULE_FETCH_COMPLETE: the fetched table, whole and matching the lead's check, takes force at the next
cycle start, and the unit rejoins. A unit that answers no polls has it over the peer ring (R74). -/
def execScheduleFetchComplete (image : Bytes) (s : State) : Res :=
  let ok := s.cyc.mismatch && (image == s.cyc.fetched || !composing s) && schedCheck image == s.cyc.leadCheck && (schedChecks image).isNone
  let staged := match s.cyc.staged with
    | some b => if ok ∧ (field b 24 4 = s.cyc.n ∨ cycBefore (field b 24 4) s.cyc.n) then none else some b
    | none => none
  .next { s with cyc := { s.cyc with
    tableNext := if ok then some image else s.cyc.tableNext
    fetched := if s.cyc.mismatch then [] else s.cyc.fetched
    staged := staged } }

/-! ### The guard (R75) and the supervision group count -/

/-- The largest single-hop delay measured between present vehicles at consecutive positions: the difference
of their path delays to the lead, on either line (R75, R147). -/
def maxHop (s : State) : Int :=
  let d := fun (p : LinePort) (pos : Nat) =>
    if pos = 1 then some 0
    else ((List.range 4).map (fun u => pathDelay s p ⟨pos, u + 1, lineNo (portLine p)⟩)).findSome? id
  let ps := (presentEntries s).map (·.pos)
  let hop := fun (p : LinePort) (q : Nat) =>
    if ps.contains q && ps.contains (q + 1) then
      match d p q, d p (q + 1) with | some a, some b => some (b - a) | _, _ => none
    else none
  let vals := allPorts.flatMap (fun p => ((List.range 64).filterMap (hop p)))
  vals.foldl max 0

/-- The effective guard g in µs (R75): `GUARD`, or the hop term of at most 2 µs. -/
def effectiveGuard (s : State) : Nat :=
  let hop := (maxHop s).toNat
  max (sched s 10 1 2) (if hop = 0 then 0 else min 2 (cdiv (hop + 200) 1000))

/-! ### A new cycle begins -/

/-- Silent due cycles by position at the lead: a due vehicle that was not heard adds one, a heard one restarts
(R121). -/
def silentNext (s : State) : Tab Nat :=
  (presentEntries s).filterMap (fun e =>
    if e.pos = ownPos s then none
    else if s.set.heard.contains e.pos then some (e.pos, 0)
    else if dueNow s e.pos then some (e.pos, Tab.getD s.set.silent e.pos 0 + 1)
    else some (e.pos, Tab.getD s.set.silent e.pos 0))

/-- The timeline turns to cycle n + 1, on the anchor of a time step if the lead set one (R64, R96), and what was kept for
cycle n alone is dropped. A follower whose estimated offset has grown beyond 3/4 of g silences itself (R85, R146), and one beyond
g/4 has had no full valid cycle (R82). -/
def turnCycle (s : State) : State :=
    let s := silenceIf (inCycle s && offLimit s) (settleDelays s)
    let n := cycAdd s.cyc.n 1
    let ts := match s.cyc.nextAnchor with | some a => a | none => s.cyc.ts + cycleLen s
    let disc := if s.cyc.nextAnchor.isSome then some n else s.cyc.discontinuous
    let silent := if s.set.lease then silentNext s else s.set.silent
    { s with
      cyc := { s.cyc with
        n := n, ts := ts, ahead := s.cyc.ahead - 1
        shift := if s.set.lease then s.cyc.nextShift.getD (s.cyc.shift - reserveLen s / 2) else s.cyc.shift
        guard := s.cyc.guardNext
        table := match s.cyc.tableNext with | some b => some b | none => s.cyc.table
        mismatch := s.cyc.mismatch && s.cyc.tableNext.isNone
        tableNext := none, csSeen := false, missDone := false, phased := [], fences := s.cyc.fences.map fenceCycle, opened := [], polls := [],
        windowStart := none, replied := [], nextShift := none, nextAnchor := none
        discontinuous := if disc == some n then disc else none
        joinFrom := if aboveGuard s (estimatedOffset s) 1 4 then none else s.cyc.joinFrom }
      set := { s.set with heard := [], silent := silent }
      pair := { s.pair with fedCount := 0, fedOut := 0 }
      time := { s.time with
        uncorrected := !s.time.corrected, corrected := false, csArrival := Ports.all none
        exchanges := s.time.exchanges.map (fun _ x => { x with delta := none, delay := none }) } }

/-- Nothing of cycle n is left by the latest Ts: its windows are over on the shifted timeline, and the lead's work of it
is done (R67, R94). -/
def cycleOver (s : State) : Bool :=
  decide (1 ≤ s.cyc.ahead) && decide (lineStart s + (resStart s : Nat) ≤ gridTs s) &&
    (!s.set.lease || s.cyc.nextShift.isSome)

/-- The next Ts has come: the grid advances (R64). The timeline turns with it unless its shift or the lead's work still
holds it in the cycle before (R94, R95). The first Ts of a grid advances nothing. -/
def advanceCycle (s : State) : State :=
  if !s.cyc.running then s
  else if s.cyc.fresh then { s with cyc := { s.cyc with fresh := false } }
  else
    let s := { s with cyc := { s.cyc with ahead := s.cyc.ahead + 1 } }
    if s.cyc.nextAnchor.isSome || cycleOver s then turnCycle s else s

/-! ### The cycle-start frame (R79, R157, R160) -/

/-- µm to mm, to the nearest. -/
def toMm (um : Int) : Int := (um + 500) / 1000

/-- The position and speed that the cycle-start carries: the measured position run on by one cycle, or the
code for an invalid position (R157). -/
def carriedPosition (s : State) : Int × Int × Bool :=
  if s.time.posValid then (signed64 (toMm (s.time.posUm + s.time.speed * cycleLen s / 1000000)), s.time.speed, true)
  else (s.time.carried, -2147483648, false)

/-- The cycle-start payload of the present cycle (R79). -/
def cycleStartPayload (s : State) (expiry : Nat) (tstep pstep : Int) : Bytes :=
  let (pos, v, _) := carriedPosition s
  be 8 (time64 s.cyc.ts) ++ be 4 s.cyc.shift ++ beInt 4 tstep ++ beInt 8 pos ++ beInt 4 v ++ beInt 4 pstep ++
    be 4 expiry ++ be 2 (rowIndex s s.cyc.n) ++ be 2 (rowsOf s) ++ be 1 (cycleCode s) ++ be 1 (outDelay s) ++
    be 2 (sched s 6 2 0) ++ be 4 (match s.cyc.table with | none => 0 | some b => schedCheck b) ++
    be 4 (s.sleep.sleepAt.getD 0) ++ be 1 (b2n (rate25 s)) ++ be 1 (effectiveGuard s) ++ zeros 2

/-- Targets between two positions that only a step crosses are skipped, marked and logged (R164). -/
def skipPositions (s : State) (a b : Int) : State :=
  let ev := s.time.events.map (skipPos a b)
  let t := reportAll (floatPositions s a b true) (skippedReports s.time.events ev)
  { t with time := { t.time with events := ev } }

/-- A commanded step of train time, or of position, that the cycle-start of this cycle applies (R160): the grid's
train-time value moves with it. -/
def applySteps (s : State) (tstep pstep : Int) : State :=
  let s1 := if tstep = 0 then s
    else
      let t := stepTime s tstep .commanded
      { t with cyc := { t.cyc with ts := t.cyc.ts + tstep, discontinuous := some t.cyc.n } }
  { s1 with time := { s1.time with posUm := s1.time.posUm + pstep * 1000 } }

/-- The position that the cycle-start carries becomes the node's own carried value, and the entries it crosses
fire for this cycle (R158, R163). `skip` is the part of the way that a step covered. -/
def carryPosition (s : State) (pos v : Int) (valid : Bool) (skip : Int) : State :=
  let was := s.time.carried
  let s1 :=
    if valid && s.time.carriedValid then
      let s := if skip = 0 then s else skipPositions s was (was + skip)
      firePositions (floatPositions s (was + skip) pos false) (was + skip) pos s.cyc.n
    else if valid then skipPositions s was pos
    else s
  { s1 with time := { s1.time with
      carriedPrev := if s.time.carriedValid then some was else none
      carried := pos, carriedSpeed := v, carriedCycle := s.cyc.n, carriedValid := valid } }

/-- The sleep cycle c that the cycle-start of cycle n carries (R415, R417), with its interrupt source when it differs
from the previous one (R472). A unit that is past the point of no return keeps its sleep cycle. -/
def takeSleepCycle (s : State) (n c : Nat) : State :=
  let k := cycDiff c n
  let last3 := decide (c ≠ 0) && 1 ≤ k && k ≤ 3
  let past := s.sleep.pastNoReturn || (last3 && k == 3)
  let keep := s.sleep.pastNoReturn && c != s.sleep.announced
  raiseIntIf (decide (s.sleep.announced ≠ c)) { s with sleep := { s.sleep with
    announced := if keep then s.sleep.announced else c
    seen := if keep then s.sleep.seen else if c ≠ s.sleep.announced then b2n last3 else s.sleep.seen + b2n last3
    pastNoReturn := past } } 9

/-- A cycle whose communication timeline is shifted is tallied (R430's table). -/
def tallyShift (s : State) : State := reportIf (s.cyc.shift != 0) s 0x0182 7 (s.cyc.shift / 1000 : Nat) []

/-- The cycle-start on both lines: a train-line unit that carries one line hands the other line's copy to its peer, which
sends it there (R22, R79; log entry 151). -/
def sendCycleStart (s : State) (payload : Bytes) : State :=
  let f := newFrame s 1 0 0 payload
  let ring := if splitLines s && onRing s then
    [Out.peer ringFrameChannel (frameBytes { f with line := if assigned s .a1 then 1 else 0 })] else []
  emit (originate s 1 0 0 payload) ring

/-- The lead's timeline, still in cycle n at Ts(n + 1) or later, turns to n + 1 once its work of n is done and the windows of
n are over (R94). -/
def leadTurns (s : State) : State :=
  if s.cyc.running && s.set.lease && s.cyc.csSeen && decide (1 ≤ s.cyc.ahead) && s.cyc.nextShift.isSome &&
      decide (lineStart s + (resStart s : Nat) ≤ s.time.now) then turnCycle s else s

/-- CYCLE_START_SEND: the lead opens the cycle, once, on both lines (R79); a unit that a commit named position 1
takes the lease with it (R115); a yielding lead names expiry n + 1 and enters `ABSORBING` (R117). -/
def execCycleStartSend (s : State) : Res :=
  let s := leadTurns s
  .next (if s.cyc.running && !s.cyc.csSeen && managing s && decide (s.sleep.power = .awake) && (s.set.lease || s.set.takeLease) then
    let goes := if s.sleep.announced = 0 then none else some s.sleep.announced
    let s := { s with
      sleep := { s.sleep with sleepAt := if s.set.lease then s.sleep.sleepAt else goes }
      set := { s.set with lease := true, takeLease := false } }
    let due := decide (s.time.stepAt = s.cyc.n)
    let tstep := if due then s.time.timeStep else 0
    let pstep := if due then s.time.posStep else 0
    let s1 := applySteps s tstep pstep
    let expiry := cycAdd s1.cyc.n (if s.set.yielding then 1 else 8)
    let (pos, v, ok) := carriedPosition s1
    let s2 := sendCycleStart s1 (cycleStartPayload s1 expiry tstep pstep)
    let s3 := takeSleepCycle (carryPosition s2 pos v ok pstep) s2.cyc.n (s2.sleep.sleepAt.getD 0)
    let s4 := { s3 with
      cyc := { s3.cyc with csSeen := true, missed := 0, stopped := false, joined := true,
                           guardNext := effectiveGuard s1 }
      set := { s3.set with
        lease := !s.set.yielding, expiry := expiry, lastStart := s3.cyc.n, yielding := false
        state := if s.set.yielding then .absorbing else s3.set.state
        absorbFrom := if s.set.yielding then s3.cyc.n else s3.set.absorbFrom }
      time := { s3.time with
        timeStep := if due then 0 else s3.time.timeStep, posStep := if due then 0 else s3.time.posStep } }
    tallyShift (if s.set.yielding then s4 else setTimebase s4 .tracking)
  else s)

/-- Every older skim and every pin reads `SKIM_EXPIRED`: the node adopted cycle number `n` (R198). What the old count staged for
its To instants is dropped, and outputs of the new count apply from To(n) on (R194). -/
def discardWindow (s : State) (n : Nat) : State :=
  let broken := s.skim.pins.filter (fun p => p.kept.isSome)
  let s1 := reportAll s (broken.map (fun p => ⟨0x0404, 8, p.skim, []⟩))
  { s1 with skim := { s1.skim with
      base := (s.skim.retained.head?).elim s.skim.base (·.image)
      retained := [], restarted := true, samples := [], building := [], copyPin := none, history := [], staging := []
      holdoverAt := [], applied := s1.skim.applied.map (fun x => (cycAdd n 0xFFFFFFFF, x.2))
      writes := s1.skim.writes.map (fun w => { w with cycle := none })
      forces := s1.skim.forces.map (fun f => { f with cycle := none })
      pins := s1.skim.pins.map (fun p => { p with kept := none }) } }

/-- A cycle-start disagrees with the follower's own table for that cycle (R74). -/
def schedMismatch (s : State) (b : Bytes) : Bool :=
  match s.cyc.table with
  | none => true
  | some t =>
    schedCheck t != field b 44 4 || rowIndex s s.cyc.n != field b 36 2 || rowsOf s != field b 38 2 ||
      cycleCode s != field b 40 1 || outDelay s != field b 41 1 || sched s 6 2 0 != field b 42 2

/-- Train position and speed as the delivered cycle-start carries them become the node's own (R157, R158). -/
def takePosition (s : State) (f : Frame) : State :=
  let b := f.payload
  let valid := decide (field b 24 4 ≠ 0x80000000)
  let pos := beSigned (bslice b 16 8)
  let v := beSigned (bslice b 24 4)
  let s := carryPosition s pos v valid (beSigned (bslice b 28 4))
  if valid then { s with time := { s.time with
    posUm := pos * 1000 - v * cycleLen s / 1000000, speed := v, posValid := true, odoMissing := 0 } }
  else { s with time := { s.time with posValid := false } }

/-- The step of train time that a cycle-start carries (R160). -/
def carriedStep (f : Frame) : Int := beSigned (bslice f.payload 12 4)

/-- A follower applies a carried step of train time on delivery (R160). -/
def followStep (s : State) (f : Frame) : State :=
  if carriedStep f = 0 then s else stepTime s (carriedStep f) .commanded

/-- The timeline stands in a cycle whose grid is ahead, and the frame opens the next cycle: it turns (R95). After a time
step of the lead's the samples latched after Ts(n) are discarded and the new Ts(n + 1) is sampled afresh (R96). -/
def turnTo (s : State) (f : Frame) : State :=
  let s1 := if s.cyc.running && decide (1 ≤ s.cyc.ahead) && f.cycle == cycAdd s.cyc.n 1 then turnCycle s else s
  if f.flags.getLsbD 4 && carriedStep f == 0 && f.cycle == s1.cyc.n && decide (1 ≤ s1.cyc.ahead ∨ timeField f.payload 0 ≠ s1.cyc.ts) then
    { s1 with
      cyc := { s1.cyc with ahead := 0, fresh := true }
      skim := { s1.skim with samples := s1.skim.samples.filter (fun x => cycBefore x.n f.cycle) } }
  else s1

/-- The bytes that one read of a schedule table returns, and the most that a table of 1,024 rows has (R70, R74). -/
def schedPiece : Nat := 16376
def schedMost : Nat := 131104

/-- A unit that answers no polls for its vehicle asks its composing unit for the schedule table over the peer ring, a piece
in each cycle of the mismatch, from the first piece on when the mismatch or the lead's table is new (R74). -/
def askPeerSchedule (s : State) (mism anew : Bool) : State :=
  let start := if anew || decide (schedMost ≤ s.cyc.askedFrom) then 0 else s.cyc.askedFrom
  let peer := (otherUnits s).any (fun u => ((freshRec s u).map PeerRec.composes).getD false)
  if mism && !composing s && peer && onRing s then
    emit { s with cyc := { s.cyc with askedFrom := start + schedPiece } }
      [Out.passed ⟨.line (channelOf s 1), 0, 0x0402, s.cyc.n % 65536, 0, [⟨0x0B, be 4 start⟩, ⟨0x0A, be 4 schedPiece⟩], 0, 0⟩]
  else s

/-- The cycle-start of the node's own train, its counter in force (R80, R82, R115, R116, R158, R160). -/
def followStart (s : State) (f : Frame) : State :=
  let b := f.payload
  let s := turnTo s f
  let adopt := !s.cyc.running || f.cycle != s.cyc.n
  let s := if adopt then discardWindow s f.cycle else s
  let s := { s with cyc := { s.cyc with
    n := f.cycle, ts := timeField b 0, running := true
    fresh := s.cyc.fresh && !adopt, ahead := if adopt then 0 else s.cyc.ahead } }
  let mism := schedMismatch s b
  let anew := !s.cyc.mismatch || s.cyc.leadCheck != field b 44 4
  let s := followStep s f
  let s := { s with cyc := { s.cyc with
    shift := field b 8 4, guardNext := field b 53 1, missed := 0, csSeen := true, stopped := false
    mismatch := mism, leadCheck := field b 44 4
    discontinuous := if f.flags.getLsbD 4 then some f.cycle else s.cyc.discontinuous
    joined := s.cyc.joined && !mism && !adopt
    joinFrom := if mism then none else if adopt then some f.cycle
      else match s.cyc.joinFrom with | some m => some m | none => some f.cycle } }
  let s := { s with set := { s.set with expiry := field b 32 4, lastStart := f.cycle } }
  let s := takeSleepCycle s f.cycle (field b 48 4)
  askPeerSchedule (tallyShift (takePosition s f)) mism anew

/-- The follower does not hold the counter: it originates only set-out frames until it adopts a repeat of the
numbering (R119). Lease, steps and position are those of the lead's cycle-start all the same (R116, R158, R160). -/
def unknownCounter (s : State) (f : Frame) : State :=
  let s := takePosition (followStep (turnTo s f) f) f
  { s with
    cyc := { s.cyc with joined := false, joinFrom := none, csSeen := true, missed := 0 }
    set := { s.set with late := true, lastStart := f.cycle, expiry := field f.payload 32 4 } }

/-- A cycle's correction is over: the next one is taken afresh (R136, R144). -/
def clearCorrection (s : State) : State :=
  { s with time := { s.time with
      uncorrected := !s.time.corrected, corrected := false, csArrival := Ports.all none
      exchanges := s.time.exchanges.map (fun _ x => { x with delta := none, delay := none }) } }

/-- A cycle-start at a unit with no numbering in force, or in `ABSORBING`: it times the unit, which joins or
is renumbered later (R98, R104, R143). The window of an absorbed unit is discarded when the cycle number changes (R198);
its 16 cycles of R98 go on in the new numbers. Each such cycle has its own correction (R144 to R146). -/
def outsideStart (s : State) (f : Frame) : State :=
  let s := turnTo s f
  let other := s.cyc.running && f.cycle != s.cyc.n
  let spent := cycDiff (gridN s) s.set.absorbFrom
  let s := if !s.cyc.running || other then clearCorrection s else s
  let s := if other then discardWindow s f.cycle else s
  let s := { s with
    cyc := { s.cyc with n := f.cycle, ts := timeField f.payload 0, shift := field f.payload 8 4
                        ahead := if other || timeField f.payload 0 != s.cyc.ts then 0 else s.cyc.ahead
                        guardNext := field f.payload 53 1, csSeen := true, missed := 0 }
    set := { s.set with absorbFrom := cycAdd f.cycle (4294967296 - spent % 4294967296) } }
  takePosition (followStep s f) f

/-- The arrival of a cycle-start at a port, in the train time that a step it carries leaves: it serves R145 and the path
delay (R147, R160). -/
def noteArrival (s : State) (p : LinePort) (f : Frame) (arrival : Int) (first : Bool) : State :=
  let at_ := arrival + (if first then carriedStep f else 0)
  let x := (p, sourceOf f, at_ - extend32 s.time.now f.fragment)
  { s with time := { s.time with
      csArrival := s.time.csArrival.set p (some at_)
      startDelays := if 1 ≤ f.srcPos then s.time.startDelays ++ [x] else s.time.startDelays } }

/-- What a first cycle-start of its cycle does, by the unit's state and the counter that it carries (R80, R98, R119). -/
def takeStart (s : State) (f : Frame) : State :=
  if s.set.state = .absorbing ∨ s.set.numbering.isNone then outsideStart s f
  else if f.topo = topoFor s f.cycle then followStart s f
  else unknownCounter s f

/-- An absorbed boundary unit opens its boundary with the first cycle-start that comes through it: that port, and the other
line's port of that end once it runs at the same rate (R129, R131). -/
def openAbsorbed (s : State) (p : LinePort) : State :=
  { s with set := { s.set with boundary := s.set.boundary.map (fun q b =>
      b && !(portEnd q == portEnd p && (q == p || (linkUp s q && segRate25 s q == segRate25 s p)))) } }

/-- A delivered cycle-start (R80). The port's arrival serves R145; a boundary port opens (R129). -/
def startDelivered (p : LinePort) (f : Frame) (arrival : Int) (s : State) : State :=
  deliver s p f (fun s =>
    if f.ftype ≠ 1 ∨ !fromLead f ∨ s.set.lease then s
    else
      let s := { s with set := { s.set with waitFrom := s.clk, lastLeadStart := some s.clk, startTopo := some f.topo } }
      let first := !s.cyc.csSeen || f.cycle != s.cyc.n
      let s := if first then takeStart (settleDelays s) f else s
      let s := noteArrival s p f arrival first
      let s := if s.set.state = .absorbing then openAbsorbed s p else s
      if timeRef s = none then correctFromStart s else s)

/-- The cycle whose cycle-start is awaited: the next one where a shifted timeline still stands in the cycle before, its
cycle-start delivered or given up (R81, R95). -/
def awaitedCycle (s : State) : State :=
  if (s.cyc.csSeen || s.cyc.missDone) && decide (1 ≤ s.cyc.ahead) && s.cyc.running && !s.set.lease then turnCycle s else s

/-- CYCLE_START_MISSING: no cycle-start by `PUB_START`; the follower lays the cycle out on its own time, once
(R81). -/
def execCycleStartMissing (s : State) : Res :=
  let s := awaitedCycle s
  .next (if s.cyc.running && !s.set.lease && !s.cyc.csSeen && !s.cyc.missDone then
    tallyShift { s with cyc := { s.cyc with
        shift := s.cyc.shift - reserveLen s / 2
        missed := s.cyc.missed + 1
        missDone := true
        joinFrom := none } }
  else s)

/-- JOIN_COMPLETE: a full valid cycle m lies behind, and the cycle-start of m + 1 is delivered (R82); a port muted by a float
fault originates again (R322). -/
def execJoinComplete (s : State) : Res :=
  let ok := match s.cyc.joinFrom with
    | none => false
    | some m => cycBefore m s.cyc.n && s.cyc.csSeen && !s.cyc.mismatch && s.set.numbering.isSome &&
        !aboveGuard s (estimatedOffset s) 1 4
  .next (if ok then { s with
    cyc := { s.cyc with joined := true, silenced := false }
    line := { s.line with ports := s.line.ports.map (fun _ q => { q with muted := false }) } } else s)

/-! ### Overrun, shift and time step (R94, R96) -/

/-- The lead's cycle work is done at `instant`: the next shift, or the anchor of a time step when the shift
would exceed 4 cycles. -/
def nextTimeline (s : State) (instant : Int) : Option Nat × Option Int :=
  let excess := (instant - (lineStart s + (resStart s : Nat))).toNat
  let r := reserveLen s
  let sh := s.cyc.shift + excess - r / 2
  if 4 * cycleLen s < sh then
    (some 0, some ((instant + (r / 2 : Nat) + 999) / 1000 * 1000))
  else (some sh, none)

end Sys2Proof.Machine
end

