-- ==== Sys2Proof/Machine/Num.lean ====
section
/-! DEFINITION. The numbers of routes: value types, exact binary fractions with the rounding of IEEE 754, and
the steps between a raw field and a value (R171, R206 to R208). -/

namespace Sys2Proof.Machine

/-! ### Value types (R171) -/

/-- Width code of a type code. -/
def typeWidth (t : Nat) : Nat :=
  if t = 0 then 0 else if t ≤ 2 then 1 else if t ≤ 4 then 2 else if t ≤ 7 then 3 else if t ≤ 12 then 4 else 5

/-- Bits of a value of a type. -/
def typeBits (t : Nat) : Nat := match typeWidth t with | 0 => 1 | k => 8 * widthBytes k

/-- The type that a width code alone stands for (R172). -/
def widthType (w : Nat) : Nat := match w with | 0 => 0 | 1 => 1 | 2 => 3 | 3 => 5 | 4 => 8 | _ => 0xD

def typeSigned (t : Nat) : Bool := t == 2 || t == 4 || t == 6 || t == 9 || t == 0xC
def typeFloat (t : Nat) : Bool := t == 7 || t == 0xA

/-- The number of `w` bits as two's complement. -/
def signedOf (w n : Nat) : Int := if n < 2 ^ (w - 1) then n else (n : Int) - (2 ^ w : Nat)

/-- An integer as `w` bits. -/
def wrapInt (w : Nat) (v : Int) : Nat := (v % (2 ^ w : Nat)).toNat

/-- A value in the 64-bit layout of a read element: signed types sign-extended (R183). -/
def extendVal (t : Nat) (v : Nat) : Nat :=
  if typeSigned t then wrapInt 64 (signedOf (typeBits t) (v % 2 ^ typeBits t)) else v % 2 ^ 64

/-! ### Binary fractions -/

/-- A number of IEEE 754: not a number, an infinity, or sign, significand and exponent of two. -/
inductive Num where
  | nan
  | inf (neg : Bool)
  | fin (neg : Bool) (m : Nat) (e : Int)
deriving DecidableEq, Repr

def bitLen (n : Nat) : Nat := if n = 0 then 0 else Nat.log2 n + 1

/-- `n / 2^k`, to nearest with ties to even; `sticky` says that the exact number lies above `n`. -/
def shiftEven (n k : Nat) (sticky : Bool) : Nat :=
  if k = 0 then n
  else
    let q := n / 2 ^ k
    let r := n % 2 ^ k
    let half := 2 ^ (k - 1)
    if half < r ∨ (r = half ∧ (sticky ∨ q % 2 = 1)) then q + 1 else q

/-- Rounds m · 2^e to `p` bits with least exponent `lo`. -/
def roundBits (p : Nat) (lo : Int) (neg : Bool) (m : Nat) (e : Int) (sticky : Bool) : Num :=
  let q := max (e + (bitLen m : Int) - p) lo
  if q ≤ e then .fin neg m e else .fin neg (shiftEven m (q - e).toNat sticky) q

/-- Rounds to binary64 (p = 53) or binary32 (p = 24), overflowing to an infinity. -/
def toFormat (p : Nat) (lo hi : Int) : Num → Num
  | .fin neg m e =>
    match roundBits p lo neg m e false with
    | .fin s m' e' => if m' ≠ 0 ∧ hi < e' + (bitLen m' : Int) then .inf s else .fin s m' e'
    | x => x
  | x => x

def to64 : Num → Num := toFormat 53 (-1074) 1024
def to32 : Num → Num := toFormat 24 (-149) 128

/-- The number in a format of `eb` exponent and `fb` fraction bits. -/
def decodeFloat (eb fb n : Nat) : Num :=
  let neg := bitOf n (eb + fb)
  let ex := bits n (eb + fb - 1) fb
  let fr := n % 2 ^ fb
  let bias : Int := (2 ^ (eb - 1) : Nat) - 1
  if ex = 2 ^ eb - 1 then (if fr = 0 then .inf neg else .nan)
  else if ex = 0 then .fin neg fr (1 - bias - fb)
  else .fin neg (fr + 2 ^ fb) ((ex : Int) - bias - fb)

def decode32 (n : Nat) : Num := decodeFloat 8 23 n
def decode64 (n : Nat) : Num := decodeFloat 11 52 n

/-- The bits of a number already rounded to the format; `nanBits` are the bits of a NaN. -/
def encodeFloat (eb fb nanBits : Nat) : Num → Nat
  | .nan => nanBits
  | .inf neg => b2n neg * 2 ^ (eb + fb) + (2 ^ eb - 1) * 2 ^ fb
  | .fin neg m e =>
    let bias : Int := (2 ^ (eb - 1) : Nat) - 1
    let sgn := b2n neg * 2 ^ (eb + fb)
    if m = 0 then sgn
    else
      let ex : Int := e + (bitLen m : Int) - 1 + bias
      if ex ≤ 0 then sgn + m * 2 ^ (e - (1 - bias - fb)).toNat
      else
        let k := (fb : Int) + 1 - bitLen m
        let sig := if 0 ≤ k then m * 2 ^ k.toNat else m / 2 ^ (-k).toNat
        sgn + ex.toNat * 2 ^ fb + (sig - 2 ^ fb)

def numOfInt (v : Int) : Num := .fin (decide (v < 0)) v.natAbs 0

/-- Product, exact. -/
def mulNum : Num → Num → Num
  | .nan, _ => .nan
  | _, .nan => .nan
  | .inf a, .inf b => .inf (a != b)
  | .inf a, .fin b m _ => if m = 0 then .nan else .inf (a != b)
  | .fin a m _, .inf b => if m = 0 then .nan else .inf (a != b)
  | .fin a m e, .fin b n f => .fin (a != b) (m * n) (e + f)

/-- A finite number as an integer at exponent `q`, which is at most its own. -/
def atExp (neg : Bool) (m : Nat) (e q : Int) : Int :=
  let v : Int := m * 2 ^ (e - q).toNat
  if neg then -v else v

/-- Sum, exact. -/
def addNum : Num → Num → Num
  | .nan, _ => .nan
  | _, .nan => .nan
  | .inf a, .inf b => if a = b then .inf a else .nan
  | .inf a, .fin .. => .inf a
  | .fin .., .inf b => .inf b
  | .fin a m e, .fin b n f =>
    let q := min e f
    let v := atExp a m e q + atExp b n f q
    .fin (if v = 0 then a && b else decide (v < 0)) v.natAbs q

def negNum : Num → Num
  | .nan => .nan | .inf a => .inf (!a) | .fin a m e => .fin (!a) m e

/-- Quotient rounded to binary64, by a divisor that is finite and not zero. -/
def divNum64 : Num → Num → Num
  | .nan, _ => .nan
  | .inf a, .fin b _ _ => .inf (a != b)
  | .fin a m e, .fin b n f =>
    let k := 64 + bitLen n
    let q := m * 2 ^ k / n
    let r := m * 2 ^ k % n
    let x := roundBits 53 (-1074) (a != b) q (e - f - k) (decide (r ≠ 0))
    to64 x
  | _, _ => .nan

/-- To the nearest integer, ties away from zero; none for a NaN or an infinity (R208). -/
def numToInt : Num → Option Int
  | .fin neg m e =>
    let v : Nat := if 0 ≤ e then m * 2 ^ e.toNat
      else (2 * m + 2 ^ (-e).toNat) / 2 ^ ((-e).toNat + 1)
    some (if neg then -(v : Int) else v)
  | _ => none

/-! ### Limits and saturation -/

/-- The least and greatest integer of an integer type. -/
def typeMin (t : Nat) : Int := if typeSigned t then -((2 ^ (typeBits t - 1) : Nat) : Int) else 0
def typeMax (t : Nat) : Int := if typeSigned t then (2 ^ (typeBits t - 1) : Nat) - 1 else (2 ^ typeBits t : Nat) - 1

/-- A value clamped between limits, and whether it was outside them. -/
def clampInt (lo hi v : Int) : Int × Bool := (max lo (min hi v), v < lo || hi < v)

/-- A conversion's result: the bits, whether it was saturated (`ROUTE_CLIPPED`). -/
structure Conv where
  bits : Nat
  clipped : Bool
deriving DecidableEq, Repr

/-- A finite number to a floating type, saturated to the greatest finite magnitude (R208). `nanBits` serve a
NaN. -/
def numToFloat (t nanBits : Nat) (x : Num) : Conv :=
  let y := if t = 7 then to32 x else to64 x
  let enc := if t = 7 then encodeFloat 8 23 nanBits else encodeFloat 11 52 nanBits
  match x, y with
  | .fin .., .inf neg =>
    ⟨(if t = 7 then b2n neg * 2 ^ 31 + 0x7F7FFFFF else b2n neg * 2 ^ 63 + 0x7FEFFFFFFFFFFFFF), true⟩
  | _, _ => ⟨enc y, false⟩

/-- An integer to a type. -/
def intToType (t : Nat) (v : Int) : Conv :=
  if typeFloat t then numToFloat t 0 (numOfInt v)
  else
    let c := clampInt (typeMin t) (typeMax t) v
    ⟨wrapInt (typeBits t) c.1, c.2⟩

/-- A number to a type; none is a conversion failure. -/
def numToType (t : Nat) (x : Num) : Option Conv :=
  match x with
  | .nan => none
  | .inf _ => none
  | _ => if typeFloat t then some (numToFloat t 0 x) else (numToInt x).map (intToType t)

/-- A value of a type as a number. -/
def numOfType (t v : Nat) : Num :=
  if t = 7 then decode32 (v % 2 ^ 32) else if t = 0xA then decode64 (v % 2 ^ 64)
  else if typeSigned t then numOfInt (signedOf (typeBits t) (v % 2 ^ typeBits t))
  else numOfInt ((v % 2 ^ typeBits t : Nat) : Int)

/-! ### Packed BCD -/

/-- The number that `k` nibbles spell; none when one of them is above 9. -/
def bcdValue : Nat → Nat → Option Nat
  | 0, _ => some 0
  | k + 1, n =>
    if 9 < n % 16 then none else (bcdValue k (n / 16)).map (fun v => v * 10 + n % 16)

def bcdBits : Nat → Nat → Nat
  | 0, _ => 0
  | k + 1, v => v % 10 + 16 * bcdBits k (v / 10)

/-- The greatest number that `len` bits of packed BCD hold. -/
def bcdMax (len : Nat) : Nat :=
  let top := 2 ^ (len % 4) - 1
  (if len % 4 = 0 then 1 else min 9 top + 1) * 10 ^ (len / 4) - 1

end Sys2Proof.Machine
end

