-- ==== Sys2Proof/Machine/Route.lean ====
section
/-! DEFINITION. Routes between the levels (spec file 07): the entry's fields, the transforms, the checks of a
table, and the IN and OUT passes. -/

namespace Sys2Proof.Machine

/-! ### The entry (R199) -/

def rSignal (e : Bytes) : Nat := field e 0 4
def rDomain (e : Bytes) : Nat := field e 4 1 / 16
def rUnit (e : Bytes) : Nat := bits (field e 4 1) 3 2
/-- 1 IN, 2 OUT, 3 ACCESS. -/
def rDir (e : Bytes) : Nat := field e 4 1 % 4
def rTransform (e : Bytes) : Nat := field e 5 1
def rWidth (e : Bytes) : Nat := 2 ^ bits (rTransform e) 7 5
def rOrder (e : Bytes) : Nat := bits (rTransform e) 4 3
def rScaling (e : Bytes) : Nat := rTransform e % 8
def rFlags (e : Bytes) : Nat := field e 6 2
def rFlag (e : Bytes) (k : Nat) : Bool := bitOf (rFlags e) k
def rEnabled (e : Bytes) : Bool := rFlag e 0
/-- `FAR_ADDRESS` byte `k`, counted from entry byte 8. -/
def rAddr (e : Bytes) (k n : Nat) : Nat := field e (8 + k) n
def rNotify (e : Bytes) : Nat := field e 18 2
def rBitOff (e : Bytes) : Nat := bits (field e 20 2) 15 10
def rBitLen (e : Bytes) : Nat := bits (field e 20 2) 9 3
def rUnitCode (e : Bytes) : Nat := field e 20 2 % 8
def rGroup (e : Bytes) : Nat := field e 22 2
def rScale (e : Bytes) : Nat := field e 24 4
def rOffset (e : Bytes) : Nat := field e 28 4
def rEmpty (e : Bytes) : Bool := rDomain e == 0

/-- The raw value's bits. -/
def rRawBits (e : Bytes) : Nat := if rBitLen e = 0 then 8 * rWidth e else rBitLen e

/-- Bytes of one access unit (R209). -/
def rUnitBytes (e : Bytes) : Nat := if rUnitCode e = 0 then rWidth e else 2 ^ (rUnitCode e - 1)

/-- The byte offset of the far field in its far object (R203). A device channel's register address is the
byte offset in its image (log entry 20). -/
def rByteOff (e : Bytes) : Nat :=
  match rDomain e with
  | 2 => rAddr e 8 2
  | 3 => rAddr e 8 2
  | 4 => rAddr e 4 2
  | 5 => rAddr e 6 1
  | 7 => if rAddr e 0 1 = 0 then rAddr e 4 4 else 0
  | _ => 0

/-- The far key: the domain, the carrying unit and `FAR_ADDRESS` without its byte offset, PDO length and
F-code (R213). -/
def farKey (e : Bytes) : FarKey :=
  let a := bslice e 8 10
  let addr := match rDomain e with
    | 2 => splice a 8 (zeros 2)
    | 3 => splice a 8 (zeros 2)
    | 4 => splice a 4 (zeros 3)
    | 5 => splice a 6 (zeros 2)
    | _ => a
  ⟨rDomain e, rUnit e, addr⟩

/-- A level 3 far object: a field bus (R210, R246). -/
def rLevel3 (e : Bytes) : Bool :=
  rDomain e == 4 || rDomain e == 5 || rDomain e == 6 || (rDomain e == 7 && rAddr e 0 1 != 0)

/-- The key under which a far object's image is kept: a device channel has one input and one output image. -/
def imageKey (e : Bytes) : FarKey :=
  if rDomain e = 7 ∧ rAddr e 0 1 = 0 then ⟨7, rUnit e, be 1 0 ++ be 2 (rAddr e 1 2)⟩ else farKey e

/-- A register of a serial device. -/
def serialField (e : Bytes) : Bool := rDomain e == 7 && rAddr e 0 1 != 0

/-- The bytes that far fields share: those of the far key, for a serial device those behind one function code, where the
register address is the offset (log entry 23). -/
def spaceKey (e : Bytes) : FarKey :=
  if serialField e then ⟨7, rUnit e, splice (bslice e 8 10) 4 (zeros 4)⟩ else farKey e
def spaceOff (e : Bytes) : Nat := if serialField e then rAddr e 4 4 else rByteOff e

/-! ### Dictionary (R170, R172) -/

/-- The type of a node signal by its offset (R170). -/
def nodeSignalType (o : Nat) : Nat :=
  match o with
  | 0x00 => 5 | 0x01 => 1 | 0x02 => 1 | 0x03 => 5 | 0x04 => 9 | 0x05 => 6 | 0x06 => 1 | 0x07 => 3 | 0x08 => 1
  | 0x09 => 1 | 0x0A => 1 | 0x0B => 0 | 0x0C => 5 | 0x0D => 5 | 0x0E => 4 | 0x0F => 3 | _ => 0xF

def sigSlot (id : Nat) : Nat := id / 131072
def sigLocal (id : Nat) : Nat := id % 131072

/-- A node signal's id (R170). -/
def isNodeSignal (id : Nat) : Bool := decide (0x1FF00 ≤ sigLocal id)

/-- The definition that covers an id. -/
def defOf (s : State) (id : Nat) : Option SigDef :=
  (dictionary s).find? (fun d => d.first ≤ id && id < d.first + d.count)

/-- The second half of a 16-byte signal (R169). -/
def oddHalf (s : State) (id : Nat) : Bool :=
  match defOf s id with | none => false | some d => d.typ == 0xD && id % 2 == 1

/-- The type of a signal at the node, with the width of the last element received (R172). -/
def typeOf (s : State) (id : Nat) (width : Option Nat) : Nat :=
  match defOf s id with
  | some d => d.typ
  | none =>
    if isNodeSignal id ∧ some (sigSlot id) = ownSlot s then nodeSignalType (sigLocal id % 64)
    else match width with | none => 0xF | some w => widthType w

/-- The slot that counts as own: in force, else held from the retained numbering (R111). -/
def heldSlot (s : State) : Option Nat :=
  match ownSlot s with
  | some v => some v
  | none => (s.set.retained.bind (fun t => entryOf t (vehicleUuid s))).map (·.slot)

/-! ### Bytes and raw values (R206, R207) -/

/-- Where byte `k` of the assembled number, counted from its least significant byte, lies in the field. -/
def bytePlace (order w k : Nat) : Nat :=
  match order with
  | 0 => w - 1 - k
  | 1 => k
  | _ => 2 * (k / 2) + (1 - k % 2)

/-- The assembled number of a field (step 1 of R207). -/
def assemble (order : Nat) (b : Bytes) : Nat :=
  ((List.range b.length).map (fun k => (b.getD (bytePlace order b.length k) 0).toNat * 256 ^ k)).sum

/-- The field that a number assembles from. -/
def disassemble (order w n : Nat) : Bytes :=
  (List.range w).map (fun j =>
    match (List.range w).find? (fun k => bytePlace order w k == j) with
    | none => 0
    | some k => BitVec.ofNat 8 (n / 256 ^ k))

/-- The raw value in a field (step 2 of R207). -/
def rawOf (e : Bytes) (n : Nat) : Nat :=
  if rBitLen e = 0 then n else n / 2 ^ rBitOff e % 2 ^ rBitLen e

/-- A raw value placed into a field, the other bits kept (R207, R238). -/
def placeRaw (e : Bytes) (shadow raw : Nat) : Nat :=
  if rBitLen e = 0 then raw % 256 ^ rWidth e
  else shadow - (shadow / 2 ^ rBitOff e % 2 ^ rBitLen e) * 2 ^ rBitOff e +
    (raw % 2 ^ rBitLen e) * 2 ^ rBitOff e

/-! ### Scaling (R206, R208) -/

/-- A raw value as a value of the signal's type; none is a conversion failure. -/
def convertIn (e : Bytes) (t raw : Nat) : Option Conv :=
  let l := rRawBits e
  match rScaling e with
  | 0 => if t = 0xD then some ⟨raw, false⟩ else some (intToType t raw)
  | 1 => some (intToType t (signedOf l raw))
  | 2 => numToType t (to64 (addNum (to64 (mulNum (to64 (numOfInt raw)) (decode32 (rScale e)))) (decode32 (rOffset e))))
  | 3 => numToType t (to64 (addNum (to64 (mulNum (to64 (numOfInt (signedOf l raw))) (decode32 (rScale e))))
      (decode32 (rOffset e))))
  | 4 => (bcdValue ((l + 3) / 4) raw).map (fun v => intToType t v)
  | 5 => some ⟨1 - raw % 2, false⟩
  | _ => numToType t (if l = 32 then decode32 raw else decode64 raw)

/-- A number as a raw integer of `l` bits between limits; a NaN drives 0 and clips. -/
def rawInteger (lo hi : Int) (l : Nat) (x : Num) : Conv :=
  match x with
  | .nan => ⟨0, true⟩
  | .inf neg => ⟨wrapInt l (if neg then lo else hi), true⟩
  | _ =>
    let c := clampInt lo hi ((numToInt x).getD 0)
    ⟨wrapInt l c.1, c.2⟩

/-- A value of a type as a raw value. A NaN whose width changes takes its fraction from a free value. -/
def convertOut (s : State) (e : Bytes) (t v : Nat) : Conv :=
  let l := rRawBits e
  let x := numOfType t v
  let lin := divNum64 (to64 (addNum (to64 x) (negNum (decode32 (rOffset e))))) (decode32 (rScale e))
  let umax : Int := (2 ^ l : Nat) - 1
  let smin : Int := -((2 ^ (l - 1) : Nat) : Int)
  let smax : Int := (2 ^ (l - 1) : Nat) - 1
  match rScaling e with
  | 0 => if t = 0xD then ⟨v, false⟩ else rawInteger 0 umax l x
  | 1 => rawInteger smin smax l x
  | 2 => rawInteger 0 umax l lin
  | 3 => rawInteger smin smax l lin
  | 4 =>
    let c := rawInteger 0 (bcdMax l) 128 x
    ⟨bcdBits ((l + 3) / 4) c.bits, c.clipped⟩
  | 5 => ⟨1 - v % 2, false⟩
  | _ =>
    let same := (l = 32 ∧ t = 7) ∨ (l = 64 ∧ t = 0xA)
    let free := (Config.freeValue s.freeCount).toNat
    let nanBits := if same then v
      else if l = 32 then 0x7FC00000 + free % 0x400000 else 0x7FF8000000000000 + free
    numToFloat (if l = 32 then 7 else 0xA) nanBits x

/-! ### The checks of a table (R216, R218) -/

/-- Carrying units of the arrangement (R200). -/
def unitsOfArrangement (s : State) : Nat := match arrangement s with | 0 => 1 | 1 => 2 | 2 => 2 | _ => 4

/-- Check 0x02: a reserved code or bit, or an empty entry that is not all zero. -/
def badReserved (e : Bytes) : Bool :=
  if rEmpty e then e.any (fun x => x != 0)
  else
    let z := fun k n => rAddr e k n != 0
    rDomain e > 8 || rDir e == 0 || (rDir e != 3 && 2 ^ 23 ≤ rSignal e) ||
    bits (rTransform e) 7 5 > 4 || rOrder e > 2 || rScaling e > 6 || rFlags e / 256 != 0 || rUnitCode e > 4 ||
    rBitLen e > 64 ||
    (match rDomain e with
     | 1 => z 4 6 || 2 ^ 23 ≤ rAddr e 0 4
     | 4 => rAddr e 0 1 < 1 || 6 < rAddr e 0 1 || z 1 1 || 4096 ≤ rAddr e 2 2 || 4 < rAddr e 6 1 || z 7 3
     | 5 => rAddr e 0 1 < 1 || 4 < rAddr e 0 1 || rAddr e 1 1 < 1 || 127 < rAddr e 1 1 ||
        (if bitOf (rAddr e 2 4) 31 then 2 ^ 31 + 2 ^ 29 ≤ rAddr e 2 4 else 2048 ≤ rAddr e 2 4) ||
        7 < rAddr e 6 1 || rAddr e 7 1 < 1 || 8 < rAddr e 7 1 || z 8 2
     | 6 => rAddr e 0 1 < 1 || 4 < rAddr e 0 1 || rAddr e 1 1 < 1 || 127 < rAddr e 1 1 || z 5 5
     | 7 => 6 < rAddr e 0 1 || (rAddr e 0 1 == 0 && 511 < rAddr e 1 2) || z 8 2
     | 8 => 63 < rAddr e 0 1 || z 1 1 || 2 ^ 20 ≤ rAddr e 2 4 || z 6 4
     | _ => false)

/-- The even port of a redundant MVB pair (R287). -/
def pairedEven (s : State) (p : Nat) : Bool :=
  match s.cfg with | none => false | some c => (Tab.getD c.field.serial p SPortCfg.off).pairB

/-- Check 0x03: direction or carrying unit. -/
def badDirection (s : State) (e : Bytes) : Bool :=
  !(match rDomain e with
    | 1 => rDir e == 1
    | 2 => rDir e == 1 || rDir e == 2
    | 3 => rDir e == 3
    | 4 => rDir e == 1 || rDir e == 2
    | 5 => rDir e == 1 || rDir e == 2
    | 6 => rDir e == 3
    | 8 => rDir e == 3
    | _ => true) ||
  unitsOfArrangement s ≤ rUnit e || ((rDomain e == 1 || rDomain e == 8) && rUnit e != 0) ||
  ((rDomain e == 4 || rDomain e == 7) && pairedEven s (rAddr e 0 1))

/-- Check 0x04: the signal of an IN or OUT route. A node signal and class `SAFETY` are refused for IN alone, as R202 permits
any bound signal for OUT (log entry 185). A unit that holds no slot cannot test the own-slot limit of an IN route (log entry
186). -/
def badSignal (s : State) (e : Bytes) : Bool :=
  if rDir e = 3 then false
  else match defOf s (rSignal e) with
    | none => true
    | some d =>
      oddHalf s (rSignal e) ||
        (rDir e == 1 && (isNodeSignal (rSignal e) || d.cls == .safety ||
          (match heldSlot s with | none => false | some v => sigSlot (rSignal e) != v)))

/-- Check 0x05: the type code of an ACCESS route (R201). -/
def badAccessType (e : Bytes) : Bool := rDir e == 3 && 0xD < rSignal e

/-- The type a route converts to or from. -/
def routeType (s : State) (e : Bytes) : Nat :=
  if rDir e = 3 then rSignal e % 16 else (defOf s (rSignal e)).elim 0xF (·.typ)

/-- A skim or remote-vehicle entry whose transform and bit field are zero as R204 and R205 ask: it converts nothing. -/
def noTransform (e : Bytes) : Bool := (rDomain e == 1 || rDomain e == 8) && rTransform e == 0 && field e 20 2 / 8 == 0

/-- Check 0x06: transform and bit field. -/
def badTransform (s : State) (e : Bytes) : Bool :=
  let t := routeType s e
  !noTransform e &&
  ((rOrder e == 2 && rWidth e < 4) ||
   (rScaling e == 6 && !(rBitLen e == 0 && (rWidth e == 4 || rWidth e == 8))) ||
   (rBitLen e != 0 && (8 < rWidth e || 8 * rWidth e < rBitOff e + rBitLen e)) ||
   (t == 0xD && !(rScaling e == 0 && rWidth e == 16 && rOrder e ≤ 1 && rBitLen e == 0)))

/-- Check 0x07: a COPY wider than the type, or a misplaced INVERT. -/
def badLength (s : State) (e : Bytes) : Bool :=
  let t := routeType s e
  !noTransform e &&
  ((rScaling e ≤ 1 && typeBits t < rRawBits e) ||
   (rScaling e == 5 && !(rRawBits e == 1 && t == 0)))

def floatFinite (n : Nat) : Bool := bits n 30 23 != 255

/-- Check 0x08: `SCALE` and `OFFSET`. -/
def badScale (e : Bytes) : Bool :=
  (if rScaling e = 2 ∨ rScaling e = 3 then
     bits (rScale e) 30 23 == 0 || !floatFinite (rScale e) || !floatFinite (rOffset e)
   else rScale e != 0 || rOffset e != 0)

/-- Check 0x09: an access unit wider than the field. -/
def badUnit (e : Bytes) : Bool := rWidth e < rUnitBytes e

/-- Check 0x0A: the group. -/
def badGroup (e : Bytes) : Bool :=
  if rFlag e 4 then rGroup e == 0 || (!rLevel3 e && 256 < rGroup e) else rGroup e != 0

/-- Check 0x0B: a flag of another direction. -/
def badFlag (e : Bytes) : Bool :=
  (rDir e != 3 && (rFlag e 1 || rFlag e 2 || rFlag e 3)) || (rDir e != 2 && rFlag e 6)

/-- Check 0x0C: the field beyond its far object. -/
def badExtent (e : Bytes) : Bool :=
  match rDomain e with
  | 2 => 1432 < rByteOff e + rWidth e
  | 3 => 1432 < rByteOff e + rWidth e
  | 4 => 2 * 2 ^ rAddr e 6 1 < rByteOff e + rWidth e
  | 5 => rAddr e 7 1 < rByteOff e + rWidth e
  | _ => false

/-- The bits of the far object that a field covers, by byte and bit. -/
def fieldBits (e : Bytes) : List Nat :=
  let lo := if rBitLen e = 0 then 0 else rBitOff e
  (List.range (rRawBits e)).map (fun i =>
    (spaceOff e + bytePlace (rOrder e) (rWidth e) ((lo + i) / 8)) * 8 + (lo + i) % 8)

def overlap (a b : Bytes) : Bool :=
  (if serialField a then spaceKey a else imageKey a) == (if serialField b then spaceKey b else imageKey b) && (fieldBits a).any (fun x => (fieldBits b).contains x)

/-- Whether an entry collides with an earlier one (R216). -/
def collides (earlier : List Bytes) (e : Bytes) : Bool :=
  let out := fun x => rDir x == 2 && rEnabled x
  let wr := fun x => rDir x == 3 && rFlag x 2
  let inn := fun x => rDir x == 1 && rEnabled x
  earlier.any (fun a =>
    (((out a && (out e || wr e)) || (wr a && out e)) && overlap a e) ||
    (inn a && inn e && rSignal a == rSignal e)) ||
  (rEnabled e && 16384 ≤ (earlier.filter (fun a => rEnabled a && farKey a == farKey e)).length)

/-- The first entry that collides. -/
def firstCollision : List (Nat × Bytes) → List Bytes → Option Nat
  | [], _ => none
  | (i, e) :: t, seen => if collides seen e then some i else firstCollision t (seen ++ [e])

/-- The enabled cyclic routes that the cycle length allows (R215). -/
def cyclicBudget (c : Nat) : Nat := min (65536 * (c / 1000000)) 1048576

/-- The enabled IN and OUT routes of a table, by index. -/
def cyclicRoutes (t : Tab Bytes) : List Nat :=
  (t.filter (fun p => rEnabled p.2 && (rDir p.2 == 1 || rDir p.2 == 2))).map (·.1)

/-- Check 0x0F: skim and remote entries (R204, R205). -/
def badSkimRemote (s : State) (e : Bytes) : Bool :=
  let zero := rTransform e != 0 || field e 20 2 != 0 || rGroup e != 0 || rScale e != 0 || rOffset e != 0
  match rDomain e with
  | 1 => zero || rNotify e != 0 || 1 < rFlags e ||
      typeOf s (rAddr e 0 4) none != (defOf s (rSignal e)).elim 0xE (·.typ)
  | 8 => zero
  | _ => false

/-- The entry checks 0x02 to 0x0C in their order. -/
def entryChecks (s : State) : List (Nat × (Bytes → Bool)) :=
  [(2, badReserved), (3, badDirection s), (4, badSignal s), (5, badAccessType), (6, badTransform s),
   (7, badLength s), (8, badScale), (9, badUnit), (0xA, badGroup), (0xB, badFlag), (0xC, badExtent)]

/-- Runs a list of checks, each over the whole table (R218). -/
def runChecks (t : Tab Bytes) (l : List (Nat × (Bytes → Bool))) : Option (Nat × Nat) :=
  l.findSome? (fun c => (t.find? (fun p => (c.1 == 2 || !rEmpty p.2) && c.2 p.2)).map (fun p => (c.1, p.1)))

/-- Checks 0x02 to 0x0F over a table: the first that fails, with its index (R218). -/
def tableChecks (s : State) (t : Tab Bytes) : Option (Nat × Nat) :=
  let used := t.filter (fun p => !rEmpty p.2)
  match runChecks t (entryChecks s) with
  | some x => some x
  | none =>
    match firstCollision used [] with
    | some i => some (0xD, i)
    | none =>
      match (cyclicRoutes t)[cyclicBudget (cycleLen s)]? with
      | some i => some (0xE, i)
      | none => runChecks t [(0xF, badSkimRemote s)]

/-- The entries of a table image. -/
def imageEntries (b : Bytes) : Tab Bytes :=
  ((List.range (field b 4 4)).map (fun i => (i, bslice b (32 + 32 * i) 32))).filter (fun p => p.2.any (· != 0))

/-- A route table image checked (R217, R218): the table, or the check that fails and its index. A reserved
byte of the header that is not zero fails check 0x02 with index 0 (log entry 188). -/
def checkRouteImage (s : State) (b : Bytes) : Except (Nat × Nat) RouteTable :=
  let n := field b 4 4
  if b.length < 32 ∨ n < 1 ∨ 1048576 < n ∨ b.length ≠ 32 + 32 * n ∨ field b 12 4 ≠ crc32 (b.drop 32) then
    .error (1, 0)
  else if (bslice b 16 16).any (· != 0) then .error (2, 0)
  else
    let t := imageEntries b
    match tableChecks s t with
    | some x => .error x
    | none => .ok ⟨field b 0 4, n, field b 12 4, field b 8 4, t⟩

/-- The CRC-32 over a table's entries in index order (R217, R221). -/
def tableCheck (n : Nat) (t : Tab Bytes) : Nat :=
  crc32 ((List.range n).flatMap (fun i => Tab.getD t i (zeros 32)))

/-! ### The table in force -/

/-- An entry of the table in force; empty where it has none. -/
def entryAt (s : State) (i : Nat) : Bytes :=
  match s.route.table with | none => zeros 32 | some t => Tab.getD t.entries i (zeros 32)

def enabledRoutes (t : RouteTable) (dir : Nat) : List (Nat × Bytes) :=
  t.entries.filter (fun p => rEnabled p.2 && rDir p.2 == dir)

def routeStateOf (s : State) (i : Nat) : RouteSt := Tab.getD s.route.states i ⟨none, none, false, none, none, none⟩

def adjRoute (s : State) (i : Nat) (f : RouteSt → RouteSt) : State :=
  { s with route := { s.route with states := Tab.set s.route.states i (f (routeStateOf s i)) } }

/-- `ROUTE_CLIPPED`, once per route per topology counter (R208). -/
def noteClip (s : State) (i : Nat) (clipped : Bool) : State :=
  if clipped && decide ((routeStateOf s i).clipped ≠ some (topoInForce s)) then
    adjRoute (report s 0x0501 10 i []) i (fun r => { r with clipped := some (topoInForce s) })
  else s

/-- A device channel's OUT route whose semaphore is held (R249). -/
def semBlocked (s : State) (o : StagedOut) : Bool :=
  rFlag o.entry 4 && rDomain o.entry == 7 && rAddr o.entry 0 1 == 0 && s.bridge.sems.any (fun x => x.sem == rGroup o.entry)

/-- `ROUTE_DEFERRED`, once per route per topology counter (R249). -/
def noteDeferred (s : State) (o : StagedOut) : State :=
  if decide ((routeStateOf s o.route).deferred ≠ some (topoInForce s)) then
    adjRoute (report s 0x0502 10 o.route []) o.route (fun r => { r with deferred := some (topoInForce s) })
  else s

/-- The routes that the lookup cache holds under a table: the enabled IN and OUT routes in index order, then the enabled
ACCESS routes in index order, until it is full (R214). -/
def cacheOf (t : RouteTable) : List Nat :=
  (cyclicRoutes t.entries ++ (enabledRoutes t 3).map (·.1)).take 131072

/-- An entry without its flags, group and owner: what field it names and how its value is converted. -/
def entryField (e : Bytes) : Bytes :=
  bslice e 0 6 ++ bslice e 8 10 ++ be 2 (field e 20 2 / 8) ++ bslice e 24 8

/-- What a route keeps of its state when its entry is replaced: the signal's last value with the signal, the rest with the
far field and its conversion. -/
def keepState (a b : Bytes) (r : RouteSt) : Option RouteSt :=
  if entryField a == entryField b then some r
  else if rDir a == 1 && rDir b == 1 && rSignal a == rSignal b then some ⟨none, none, false, r.clipped, r.deferred, r.lastIn⟩
  else none

/-- A new table takes force at skim m: the one before serves the skims before m (R219). -/
def installTable (s : State) (t : RouteTable) (m : Nat) : State :=
  let keep := s.route.states.filterMap (fun p =>
    (keepState (entryAt s p.1) (Tab.getD t.entries p.1 (zeros 32)) p.2).map (fun r => (p.1, r)))
  { s with route := { s.route with
      table := some t, old := s.route.table.map (fun o => (o, m)), states := keep, cache := cacheOf t } }

/-- At an activation the units compare `TABLE_CHECK` over the peer link (R223). No record of R382 carries it: another unit's
is a free value (log entry 126). -/
def compareTables (s : State) : State :=
  match s.route.table with
  | none => s
  | some t =>
    let fresh := s.pair.records.filter (fun r => r.unit != s.unitNo && decide (s.clk ≤ r.at_ + 2 * cycleLen s))
    fresh.foldl (fun s r =>
      tookFree (reportIf (decide ((Config.freeValue s.freeCount).toNat ≠ t.check)) s 0x0503 10 r.unit []) 1) s

/-- A table's first skim has come; 0 is the first Ts of a unit that keeps no cycle yet. -/
def tableDue (s : State) (t : RouteTable) : Bool :=
  s.cyc.running && (t.activation == 0 || t.activation == gridN s || cycBefore t.activation (gridN s))

/-- The edited and the staged table take force at their skims (R219, R221). The old table serves outputs still staged,
which carry their entries. -/
def activateRoutes (s : State) : State :=
  let s1 := match s.route.edited with
    | none => s
    | some t => if tableDue s t then compareTables (installTable { s with route := { s.route with edited := none } } t (gridN s)) else s
  match s1.route.staged with
  | none => s1
  | some t => if tableDue s1 t then compareTables (installTable { s1 with route := { s1.route with staged := none } } t (gridN s1)) else s1

/-- ROUTE_TABLE_ACTIVATION. -/
def execRouteTableActivation (s : State) : Res := .next (activateRoutes s)

/-! ### Far images and shadows (R211, R213, R238) -/

def imageOf (l : List FarImage) (k : FarKey) : Option FarImage := l.find? (fun x => x.key == k)

/-- Replaces or adds an image. -/
def setImage (l : List FarImage) (x : FarImage) : List FarImage :=
  if l.any (fun y => y.key == x.key) then l.map (fun y => if y.key = x.key then x else y) else l ++ [x]

/-- An output image, which is applied at once. -/
def outputImage (s : State) (k : FarKey) (d : Bytes) : FarImage := ⟨k, d, true, s.clk, s.time.now, none, s.time.now, true⟩

/-- A far object's image is replaced by one that is complete now; the one it replaces is kept for a Ts of this instant (R275,
R289). -/
def replaceImage (s : State) (k : FarKey) (d : Bytes) (fresh : Bool) : FarImage :=
  match imageOf s.route.images k with
  | none => ⟨k, d, fresh, s.clk, s.time.now, none, s.time.now, false⟩
  | some x => { x with
      data := d, fresh := fresh, at_ := s.clk, stamp := s.time.now
      earlier := if x.stamp = s.time.now then x.earlier else some (x.data, x.stamp) }

/-- A far object's image arrives whole. -/
def putImage (s : State) (k : FarKey) (d : Bytes) : State :=
  { s with route := { s.route with images := setImage s.route.images (replaceImage s k d true) } }

/-- An instant lies before a Ts; one that train time has since stepped back over does too. -/
def beforeTs (s : State) (ts t : Int) : Bool := decide (t < ts) || decide (s.time.now < t)

/-- When the latest image completed before a Ts was complete. -/
def latchStamp (s : State) (ts : Int) (x : FarImage) : Option Int :=
  if beforeTs s ts x.stamp then some x.stamp else x.earlier.map (·.2)

/-- The image that a Ts latches: the latest one completed before it (R153, R275, R289). -/
def latchedImage (s : State) (ts : Int) (k : FarKey) : Option FarImage :=
  (imageOf s.route.images k).bind (fun x =>
    let fresh := if beforeTs s ts x.marked then x.fresh else x.freshBefore
    if beforeTs s ts x.stamp then some { x with fresh := fresh }
    else x.earlier.map (fun e => { x with data := e.1, stamp := e.2, fresh := fresh }))

/-- The freshness of a far object's image is judged anew. -/
def markImage (s : State) (k : FarKey) (fresh : FarImage → Bool) : State :=
  { s with route := { s.route with images := s.route.images.map (fun x =>
      if x.key = k then { x with fresh := fresh x } else x) } }

def shadowByte (s : State) (e : Bytes) (off : Nat) : Option Byte :=
  (s.route.shadows.find? (fun x => x.key == spaceKey e && x.offset == off)).map (·.byte)

/-- The bytes of a far field's shadow, zero where nothing is known (R238). -/
def shadowBytes (s : State) (e : Bytes) : Bytes :=
  (List.range (rWidth e)).map (fun j => (shadowByte s e (spaceOff e + j)).getD 0)

/-- The shadow of a far field as its assembled number, once every byte of it is known (R238). -/
def shadowOf (s : State) (e : Bytes) : Option Nat :=
  if (List.range (rWidth e)).all (fun j => (shadowByte s e (spaceOff e + j)).isSome) then
    some (assemble (rOrder e) (shadowBytes s e))
  else none

/-- The last assembled number received, read or written at a far field (R238). -/
def setShadow (s : State) (e : Bytes) (n : Nat) : State :=
  let b := disassemble (rOrder e) (rWidth e) n
  let off := spaceOff e
  let rest := s.route.shadows.filter (fun x =>
    !(x.key == spaceKey e && decide (off ≤ x.offset) && decide (x.offset < off + rWidth e)))
  { s with route := { s.route with
      shadows := rest ++ (List.range (rWidth e)).map (fun j => ⟨spaceKey e, off + j, b.getD j 0⟩) } }

/-- The shadow of some bytes of a far field, from one of them on: those of an access unit that was written (R238, R245). -/
def setShadowAt (s : State) (e : Bytes) (o : Nat) (b : Bytes) : State :=
  let off := spaceOff e + o
  let rest := s.route.shadows.filter (fun x =>
    !(x.key == spaceKey e && decide (off ≤ x.offset) && decide (x.offset < off + b.length)))
  { s with route := { s.route with
      shadows := rest ++ (List.range b.length).map (fun j => ⟨spaceKey e, off + j, b.getD j 0⟩) } }

/-- The same after a write or a reception. A device channel's output image carries it too where an OUT route writes the
same far object (R238). -/
def noteField (s : State) (e : Bytes) (n : Nat) : State :=
  let s1 := setShadow s e n
  let shared : Bool := match s1.route.table with
    | none => false
    | some t => t.entries.any (fun p => rEnabled p.2 && rDir p.2 == 2 && farKey p.2 == farKey e)
  if shared && rDomain e == 7 && rAddr e 0 1 == 0 then
    let k := imageKey e
    let base := (imageOf s1.route.outputs k).elim [] (·.data)
    let data := splice (fit base (max base.length (rByteOff e + rWidth e))) (rByteOff e) (disassemble (rOrder e) (rWidth e) n)
    { s1 with route := { s1.route with outputs := setImage s1.route.outputs (outputImage s1 k data) } }
  else s1

/-! ### The IN pass (R202, R205, R208, R211) -/

/-- A signal's cell in the latest committed skim. -/
def cellNow (s : State) (id : Nat) : Option SigCell :=
  match s.skim.retained with | [] => none | r :: _ => Tab.get? r.image id

/-- The dictionary's substitute value. -/
def substOf (s : State) (id : Nat) : Val := (defOf s id).elim 0 (·.subst)

/-- The last value of an IN route's signal: the one that the route latched last, else the one in the latest skim, as in a
unit that has just become the composing unit (R211). -/
def lastValue (s : State) (e : Bytes) (r : RouteSt) : Val :=
  r.lastIn.getD ((cellNow s (rSignal e)).elim 0 (·.val))

/-- What an IN route latches when its source is not fresh: `stale` tells a source received before. -/
def inFallback (s : State) (e : Bytes) (r : RouteSt) (stale : Bool) : QVal :=
  if rFlag e 5 then ⟨rSignal e, substOf s (rSignal e), .substituted⟩
  else if stale then ⟨rSignal e, lastValue s e r, .stale⟩ else ⟨rSignal e, 0, .notReady⟩

/-- The quality of a fresh value (R176, R211). -/
def freshQuality (s : State) : Quality := if holdsOver s then .holdover else .good

/-- The result of one IN route. `unitHere` says that the carrying unit is in the peer ring. -/
def inRoute (s : State) (e : Bytes) (i : Nat) (unitHere : Bool) : QVal × Option Val × Bool :=
  let r := routeStateOf s i
  if rDomain e = 1 then
    match cellNow s (rAddr e 0 4) with
    | none => (⟨rSignal e, 0, .notReady⟩, r.lastIn, false)
    | some c => (⟨rSignal e, c.val, c.quality⟩, some c.val, false)
  else if !unitHere then (inFallback s e r true, r.lastIn, false)
  else match latchedImage s (gridTs s) (imageKey e) with
    | none => (inFallback s e r false, r.lastIn, false)
    | some x =>
      if !x.fresh then (inFallback s e r true, r.lastIn, false)
      else
        let raw := rawOf e (assemble (rOrder e) (fit (bslice x.data (rByteOff e) (rWidth e)) (rWidth e)))
        match convertIn e (routeType s e) raw with
        | none => (⟨rSignal e, lastValue s e r, .invalid⟩, r.lastIn, false)
        | some c => (⟨rSignal e, BitVec.ofNat 128 c.bits, freshQuality s⟩, some (BitVec.ofNat 128 c.bits), c.clipped)

/-- A device channel's field that a write also names: its shadow is the value received (R238). -/
def noteReceived (s : State) (e : Bytes) (unitHere : Bool) : State :=
  let written : Bool := match s.route.table with
    | none => false
    | some t => t.entries.any (fun p => rEnabled p.2 && rDir p.2 != 1 && farKey p.2 == farKey e)
  match latchedImage s (gridTs s) (imageKey e) with
  | none => s
  | some x =>
    if unitHere && x.fresh && written && rDomain e == 7 && rAddr e 0 1 == 0 then
      setShadow s e (assemble (rOrder e) (fit (bslice x.data (rByteOff e) (rWidth e)) (rWidth e)))
    else s

/-- All IN routes in index order: the values for the sample set, the route states and clips kept. -/
def inPass (s : State) (unitHere : Nat → Bool) : State × List QVal :=
  match s.route.table with
  | none => (s, [])
  | some t =>
    (enabledRoutes t 1).foldl (fun (acc : State × List QVal) p =>
      let (v, last, clip) := inRoute acc.1 p.2 p.1 (unitHere (rUnit p.2))
      (noteClip (adjRoute (noteReceived acc.1 p.2 (unitHere (rUnit p.2))) p.1 (fun r => { r with lastIn := last })) p.1 clip, acc.2 ++ [v])) (s, [])

/-! ### The OUT pass (R202, R208, R212) -/

/-- The value an OUT route drives for a cell; none where it keeps driving the last one that it drove (R212). -/
def drivenValue (s : State) (e : Bytes) (c : Option SigCell) : Option Val :=
  let subst := if rFlag e 5 then some (substOf s (rSignal e)) else none
  match c with
  | some x => if x.quality = .stale ∨ x.quality = .invalid ∨ x.quality = .notReady then subst else some x.val
  | none => subst

/-- The raw value that an OUT route drives: the value converted, or the last raw value, at first that of 0 (R208, R212). -/
def drivenRaw (s : State) (e : Bytes) (r : RouteSt) (c : Option SigCell) : Conv :=
  match drivenValue s e c, r.driven with
  | none, some n => ⟨n, false⟩
  | v, _ => convertOut s e (routeType s e) (v.getD 0).toNat

/-- The table that serves skim n: the replaced one for skims before the latest activation (R219). -/
def tableFor (s : State) (n : Nat) : Option RouteTable :=
  match s.route.old with
  | some (t, m) => if cycBefore n m then some t else s.route.table
  | none => s.route.table

/-- The replaced table is freed after To(m − 1). -/
def freeOld (s : State) (n : Nat) : State :=
  { s with route := { s.route with old := s.route.old.filter (fun o => cycBefore (cycAdd n 1) o.2) } }

/-- All OUT routes in index order place skim n's values into output staging. -/
def outPass (s : State) (n : Nat) : State :=
  match tableFor s n with
  | none => s
  | some t =>
    let step := fun (acc : State × List StagedOut) (p : Nat × Bytes) =>
      let c := drivenRaw acc.1 p.2 (routeStateOf acc.1 p.1) (cellNow acc.1 (rSignal p.2))
      let s1 := noteClip (adjRoute acc.1 p.1 (fun r => { r with driven := some c.bits })) p.1 c.clipped
      (tookFree s1 1, acc.2 ++ [⟨p.1, p.2, c.bits⟩])
    let (s1, l) := (enabledRoutes t 2).foldl step (s, [])
    { s1 with skim := { s1.skim with staging := s1.skim.staging ++ [(n, l)] } }

/-- Staged values placed into the bytes of their far object (R207, R238). -/
def composeInto (base : Bytes) (outs : List StagedOut) : Bytes :=
  outs.foldl (fun b o =>
    let w := rWidth o.entry
    let off := rByteOff o.entry
    let n := placeRaw o.entry (assemble (rOrder o.entry) (fit (bslice b off w) w)) o.raw
    splice b off (disassemble (rOrder o.entry) w n)) base

/-- The applied image of a far object, at a length. -/
def appliedImage (s : State) (k : FarKey) (len : Nat) : Bytes := fit ((imageOf s.route.outputs k).elim [] (·.data)) len

/-- The image of a far object with the staged values of a skim (R194, R274). -/
def stagedImage (s : State) (k : FarKey) (len : Nat) (staged : List StagedOut) : Bytes :=
  composeInto (appliedImage s k len) (staged.filter (fun o => imageKey o.entry == k))

end Sys2Proof.Machine
end

