-- ==== Sys2Proof/Machine/BridgeOps.lean ====
section
/-! DEFINITION. Tags, results, the error log, and the sending of queued messages (R228 to R232, R236,
R239 to R243). -/

namespace Sys2Proof.Machine

/-! ### Status codes (R450) -/

def stDone : Nat := 0x0000
def stPosted : Nat := 0x0001
def stRetry : Nat := 0x0002
def stUnknownOpcode : Nat := 0x0101
def stBadLength : Nat := 0x0102
def stBadParameter : Nat := 0x0103
def stBadCheck : Nat := 0x0104
def stIncomplete : Nat := 0x0105
def stBadVersion : Nat := 0x0106
def stPresenceRequired : Nat := 0x0201
def stSealIntact : Nat := 0x0202
def stAuthorityLow : Nat := 0x0203
def stBusy : Nat := 0x0301
def stNotLead : Nat := 0x0302
def stSkimExpired : Nat := 0x0303
def stNotApplicable : Nat := 0x0304
def stFarError : Nat := 0x0401
def stFarTimeout : Nat := 0x0402
def stRouteMissing : Nat := 0x0403
def stLockHeld : Nat := 0x0404

/-! ### Tags (R239, R241) -/

/-- `BRIDGE_TIMEOUT` in ns (R257). -/
def bridgeTimeout (s : State) : Nat :=
  (match s.cfg with | none => 500 | some c => c.node.bridgeTimeout) * 1000000

/-- A tag can be allocated: not held, and not released within the last 1 s. -/
def tagFree (s : State) (t : Nat) : Bool :=
  1 ≤ t && t ≤ 65535 && !s.bridge.tags.any (fun x => x.tag == t) &&
    !s.bridge.released.any (fun r => r.1 == t && s.clk < r.2 + 1000000000)

/-- The next tag, none while 1,024 are held (R257). -/
def newTag (s : State) : Option Nat :=
  if 1024 ≤ s.bridge.tags.length then none
  else ((List.range 4096).map (fun k => (s.bridge.nextTag + k - 1) % 65535 + 1)).find? (tagFree s)

/-- Holds a tag for a transaction. -/
def holdTag (s : State) (x : TagSt) : State :=
  { s with bridge := { s.bridge with tags := s.bridge.tags ++ [x], nextTag := x.tag % 65535 + 1 } }

def blankTag (tag initiator : Nat) (kind : TagKind) (st : TagState) (deadline : Nat) : TagSt :=
  { tag := tag, initiator := initiator, kind := kind, state := st, target := 0, targetKind := 0, slot := none,
    deadline := deadline, status := 0, data := [], value := 0, holdEnd := 0, collected := false, sideEffect := false, farRoute := 0,
    owner := 0, typ := 0 }

def findTag (s : State) (t : Nat) : Option TagSt := s.bridge.tags.find? (fun x => x.tag == t)

/-- Releases a tag, which is not allocated again for 1 s. -/
def releaseTag (s : State) (t : Nat) : State :=
  { s with bridge := { s.bridge with
      tags := s.bridge.tags.filter (fun x => x.tag != t)
      released := (s.bridge.released.filter (fun r => s.clk < r.2 + 1000000000)) ++ [(t, s.clk)] } }

def updateTag (s : State) (t : Nat) (f : TagSt → TagSt) : State :=
  { s with bridge := { s.bridge with tags := s.bridge.tags.map (fun x => if x.tag = t then f x else x) } }

/-- A result arrives: held for 250 ms, and announced to the initiator of a read with kind 0x10 (R240, R241,
R251). -/
def holdResult (s : State) (t status : Nat) (data : Bytes) (f : TagSt → TagSt) : State :=
  match findTag s t with
  | none => s
  | some x =>
    let s1 := updateTag s t (fun x => f { x with state := .held, status := status, data := data,
                                                 holdEnd := s.clk + 250000000 })
    if x.kind = .read then announce s1 x.initiator 0x10 0xFFFFFFFF (skimNow s) 0 [] else s1

/-! ### Failed posted writes (R236) -/

/-- The entry sequence after `n`, with 0 skipped. -/
def nextEntrySeq (n : Nat) : Nat := if (n + 1) % 4294967296 = 0 then 1 else (n + 1) % 4294967296

/-- A failed posted write of this node's initiator: an error log entry, an announcement of kind 0x12, and the
interrupt source. -/
def noteFailure (s : State) (x : TagSt) (status failedUnit detail : Nat) : State :=
  let q := nextEntrySeq s.bridge.errSeq
  let e : ErrEntry :=
    { initiator := x.initiator, tag := x.tag, targetKind := x.targetKind, failedUnit := failedUnit,
      status := status, target := x.target, detail := detail, time := s.time.now, seq := q }
  let s1 := { s with bridge := { s.bridge with errors := lastN 64 (s.bridge.errors ++ [e]), errSeq := q } }
  raiseInt (announce s1 x.initiator 0x12 0xFFFFFFFF (skimNow s) status (be 4 q)) 5

/-- The same, and its tag is released. -/
def failWrite (s : State) (x : TagSt) (status failedUnit detail : Nat) : State :=
  releaseTag (noteFailure s x status failedUnit detail) x.tag

/-- A posted write whose tag is held no more, as its failure is recorded (R230, R236). -/
def goneWrite (tag initiator kind target : Nat) : TagSt :=
  { blankTag tag initiator .postedWrite .sent 0 with targetKind := kind, target := target }

/-- The route index at the far node of a remote-vehicle route (R203). -/
def farIndex (e : Bytes) : Nat := rAddr e 2 4 % 1048576

/-- The local route of domain 0x8 that names a far route; 0 where the table has none any more. -/
def remoteRoute (s : State) (slot far : Nat) : Nat :=
  match s.route.table with
  | none => 0
  | some t => ((t.entries.find? (fun p => rDomain p.2 == 8 && rAddr p.2 0 1 == slot && farIndex p.2 == far)).map (·.1)).getD 0

/-- Ends a transaction of this node's initiator with a failure status. -/
def failTag (s : State) (x : TagSt) (status failedUnit detail : Nat) : State :=
  if x.kind = .postedWrite then failWrite s x status failedUnit detail
  else holdResult s x.tag status (be 4 detail) id

/-- The value of an orphaned read: recorded, and announced to the far route's owner (R243). -/
def orphan (s : State) (value : Val) (route farRoute tag initiator owner : Nat) : State :=
  let s1 := report s 0x0504 10 0 (be 16 value.toNat ++ be 4 route ++ be 4 farRoute ++ be 2 tag ++ be 2 initiator)
  if owner = 0 then s1 else announce s1 owner 0x11 0xFFFFFFFF (skimNow s) initiator (be 16 value.toNat)

/-! ### Bridge sequences and sender records (R229, R230) -/

def slotTxOf (s : State) (slot : Nat) : SlotTx := Tab.getD s.bridge.slotTx slot ⟨0, true, 0, false⟩

/-- A bridge message's body with its sequence, `RESTART` in the first to a slot (R229). -/
def withSequence (body : Bytes) (seq : Nat) (restart : Bool) : Bytes :=
  splice body 2 (be 2 (b2n restart * 32768 + seq % 32768))

/-- Whether a message takes a bridge sequence: kinds 0x01 to 0x06. -/
def isBridgeKind (k : Nat) : Bool := 1 ≤ k && k ≤ 6

/-- The sender's record of a bridge message (R230). -/
def sentRecord (s : State) (m : QMsg) (body : Bytes) (seq : Nat) : SentRec :=
  let own := (findTag s m.tag).filter (fun x => x.initiator == m.source)
  let side := m.kind == 3 && bitOf (field body 6 1) 0 && field body 4 2 == 0
  { slot := m.destSlot, seq := seq, kind := m.kind, tag := m.tag, source := m.source, target := field body 8 4, dest := field body 0 2,
    sideValue := if side then some (BitVec.ofNat 128 (field body 20 16)) else none
    ownKind := own.elim 0 (·.targetKind), ownTarget := own.elim 0 (·.target), at_ := s.clk }

/-- The remaining time of a posted write or a read request as it leaves, in ms (R228, R233; rounding: log entry 45). -/
def withRemaining (s : State) (m : QMsg) (body : Bytes) : Bytes :=
  match m.deadline with
  | some d => if m.kind = 1 ∨ m.kind = 2 then splice body 6 (be 2 (min 5000 (max 1 ((d - s.clk + 999999) / 1000000)))) else body
  | none => body

/-- A bridge message leaves: its sequence is taken, its record kept (the last 256 to the slot), and its tag
counts as sent. -/
def noteSent (s : State) (m : QMsg) : State × List Bytes :=
  if !isBridgeKind m.kind then (updateTag s m.tag (fun x => { x with
      state := if m.kind = 7 ∧ x.initiator = m.source ∧ (x.kind = .remote ∨ x.kind = .fetch) ∧ x.state = .queued then .sent
        else x.state }), m.bodies)
  else
    let tx := slotTxOf s m.destSlot
    let bodies := m.bodies.map (fun b => withRemaining s m (withSequence b tx.next tx.restart))
    let r := sentRecord s m (bodies.headD []) tx.next
    let mine := s.bridge.sentRecs.filter (fun x => x.slot == m.destSlot)
    let others := s.bridge.sentRecs.filter (fun x => x.slot != m.destSlot)
    let mark := m.kind == 1 && field (bodies.headD []) 4 1 == 0xFF
    let s1 := { s with bridge := { s.bridge with
      slotTx := Tab.set s.bridge.slotTx m.destSlot ⟨(tx.next + 1) % 32768, false, 0, !mark⟩
      sentRecs := others ++ lastN 256 (mine ++ [r]) } }
    let own := m.kind == 1 || m.kind == 2 || (m.kind == 6 && field (bodies.headD []) 4 1 < 0x80)
    (if own then updateTag s1 m.tag (fun x => { x with state := if x.state = .queued then .sent else x.state })
     else s1, bodies)

/-! ### Filling a grant (R89, R90, R231) -/

/-- Length on the wire of a message's frames, and their lengths alone. -/
def msgWire (m : QMsg) : Nat := (m.bodies.map (fun b => frameLength (8 + b.length) + 20)).sum
def msgFrames (m : QMsg) : Nat := (m.bodies.map (fun b => frameLength (8 + b.length))).sum

/-- A message is ready: its destination is present, and an announcement's cycle has come (R252, R254). While
the schedule mismatches, only fetches of the lead's table, at its management core, are carried (R74). -/
def msgReady (s : State) (m : QMsg) : Bool :=
  (m.destSlot == 0xFF || slotPresent s m.destSlot) &&
    (match m.notBefore with | none => true | some c => c == s.cyc.n || cycBefore c s.cyc.n) &&
    (!s.cyc.mismatch || (m.kind == 7 && (slotEntry s m.destSlot).any (fun e => e.pos == 1) &&
      field (m.bodies.headD []) 0 2 % 256 == 1 && field (m.bodies.headD []) 5 2 == 0x0402))

/-- While the schedule mismatches, the messages that are not carried do not stand before those that are (R74). The messages that fit a budget of wire bytes, taken head by head from each channel in turn, the messages
left, and whether a ready one did not fit. -/
def fillGrant (s : State) : Nat → List Nat → List QMsg → Nat → List QMsg × List QMsg × Bool
  | 0, _, q, _ => ([], q, false)
  | _, [], q, _ => ([], q, false)
  | k + 1, c :: cs, q, budget =>
    match q.find? (fun m => m.source == c && (!s.cyc.mismatch || msgReady s m)) with
    | none => fillGrant s k cs q budget
    | some m =>
      if !msgReady s m then fillGrant s k cs q budget
      else if budget < msgWire m then
        let (a, b, _) := fillGrant s k cs q budget
        (a, b, true)
      else
        let (a, b, more) := fillGrant s k (cs ++ [c]) (dropOne m q) (budget - msgWire m)
        (m :: a, b, more)

/-- The wire bytes a reply may use under a grant (R89). -/
def grantBudget (g : Nat) : Nat := g + 20 * cdiv g 2048

/-- The position a destination slot has now; 0xFF for all. -/
def destPos (s : State) (slot : Nat) : Nat :=
  if slot = 0xFF then 0xFF else match slotEntry s slot with | none => 0 | some e => e.pos

/-- A message frame's payload (R55, type 0x5). -/
def msgPayload (pos unit kind idx last tag : Nat) (body : Bytes) : Bytes :=
  be 1 pos ++ be 1 (unit * 16) ++ be 1 kind ++ be 1 (idx * 16 + last) ++ be 2 tag ++ be 2 body.length ++ body

/-- Originates the frames of one message, the last with `LAST`; the last of all with `MORE` when `more`. -/
def sendMsg (s : State) (m : QMsg) (more : Bool) : State :=
  let (s1, bodies) := noteSent s m
  let last := bodies.length - 1
  ((List.range bodies.length).zip bodies).foldl (fun s (i, b) =>
    originate s 5 m.source ((if i = last then 8 else 0) + (if i = last ∧ more then 2 else 0))
      (msgPayload (destPos s m.destSlot) m.destUnit m.kind i last m.tag b)) s1

/-- Originates a list of messages, `MORE` on the very last frame. -/
def sendMsgs (s : State) (more : Bool) : List QMsg → State
  | [] => s
  | [m] => sendMsg s m more
  | m :: ms => sendMsgs (sendMsg s m false) more ms

/-- The channels with queued messages, each once, in order of their oldest message. -/
def queueChannels (s : State) : List Nat := (s.bridge.queue.map (·.source)).eraseDups

/-- Sends what fits a grant; answers the state, whether anything was sent, and whether more was ready. -/
def sendGrant (s : State) (grant : Nat) : State × Bool × Bool :=
  let chans := queueChannels s
  let (msgs, rest, more) :=
    fillGrant s (s.bridge.queue.length + chans.length + 1) chans s.bridge.queue (grantBudget grant)
  let s1 := { s with bridge := { s.bridge with queue := rest } }
  (sendMsgs s1 more msgs, !msgs.isEmpty, more)

/-! ### Slots bound anew (R229, R232) -/

/-- A commit binds a slot anew or unbinds it: every transaction towards it ends, its queued messages go, the
announcements among them counted as discarded (R253), and its sequence restarts. -/
def endSlot (s : State) (slot : Nat) : State :=
  let xs := s.bridge.tags.filter (fun x => x.slot == some slot && x.state != .held)
  let anns := (s.bridge.queue.filter (fun m => m.destSlot == slot && m.kind == 5)).length
  let s1 := { s with bridge := { s.bridge with
    annDiscarded := satAdd 4294967295 s.bridge.annDiscarded anns
    queue := s.bridge.queue.filter (fun m => m.destSlot != slot)
    slotTx := Tab.erase s.bridge.slotTx slot
    expected := Tab.erase s.bridge.expected slot } }
  xs.foldl (fun s x => failTag s x (if x.state = .queued then stRouteMissing else stFarTimeout) 0 0) s1

/-- The slots whose binding differs between two numberings. -/
def reboundSlots (old new : Option Numbering) : List Nat :=
  let b := fun (t : Option Numbering) (k : Nat) =>
    (t.bind (fun t => t.entries.find? (fun e => e.slot == k))).map (·.uuid)
  (List.range 64).filter (fun k => b old k != b new k)

/-- R229 and R232 at a commit; when the own slot is newly bound every sequence restarts. -/
def rebindBridge (s : State) (old new : Option Numbering) : State :=
  let slots := reboundSlots old new
  let s1 := slots.foldl endSlot s
  let own : Option Numbering → Option Nat := fun t => (t.bind (fun t => entryOf t (vehicleUuid s))).map (·.slot)
  if own old = own new then s1
  else { s1 with bridge := { s1.bridge with slotTx := [], expected := [] } }

end Sys2Proof.Machine
end

