-- ==== Sys2Proof/Machine/Skim.lean ====
section
/-! DEFINITION. The skim engine (spec file 06): sample sets, composing publications, the commit procedure,
the history store, pins and reads. -/

namespace Sys2Proof.Machine

/-! ### Qualities (R176, R177) -/

def qualityCode : Quality → Nat
  | .good => 0 | .stale => 1 | .notReady => 2 | .invalid => 3 | .writeFailed => 4 | .substituted => 5
  | .forced => 6 | .holdover => 7

def codeQuality : Nat → Quality
  | 0 => .good | 1 => .stale | 2 => .notReady | 3 => .invalid | 4 => .writeFailed | 5 => .substituted
  | 6 => .forced | _ => .holdover

/-- A quality whose element is a refresh (R177). -/
def refreshes : Quality → Bool
  | .good => true | .writeFailed => true | .substituted => true | .forced => true | .notReady => true
  | _ => false

/-- A quality that a missing publication turns to `STALE` (R180). -/
def goesStale : Quality → Bool
  | .good => true | .writeFailed => true | .substituted => true | .forced => true | _ => false

def blankCell : SigCell := ⟨0, .notReady, none, none, none⟩

/-- A cell with a value and quality of skim n. -/
def setCell (n : Nat) (c : SigCell) (v : Val) (q : Quality) : SigCell :=
  { c with
    val := v, quality := q
    refresh := if refreshes q then some n else c.refresh
    changed := if v = c.val ∧ q = c.quality then c.changed else some n }

def setQuality (n : Nat) (q : Quality) (c : SigCell) : SigCell :=
  { c with quality := q, changed := if q = c.quality then c.changed else some n }

/-! ### Classes of write (R190) -/

/-- The signal lies in the own slot. -/
def ownSignal (s : State) (id : Nat) : Bool := heldSlot s == some (sigSlot id)

/-- A skim or bridged write is accepted for a signal of the own slot: class `APPLICATION`, not a node signal,
not the second half of a 16-byte signal. -/
def writeAllowed (s : State) (id : Nat) : Bool :=
  !isNodeSignal id && !oddHalf s id &&
    (match defOf s id with | none => false | some d => d.cls == .application)

/-- A force is accepted for a signal of the own slot: `INPUT` or `APPLICATION`. -/
def forceAllowed (s : State) (id : Nat) : Bool :=
  !isNodeSignal id && !oddHalf s id &&
    (match defOf s id with | none => false | some d => d.cls != .safety)

/-- The skim in which a write accepted now first appears: of the first Ts after it. In the very clock of a Ts it is the one
after that (R192). While no cycle runs it is 0, as the number is not known yet (log entry 182). -/
def nextSkim (s : State) : Nat :=
  if !s.cyc.running then 0
  else if nextTs s ≤ s.time.now then cycAdd (nextGrid s) 1 else nextGrid s

/-- A write accepted at the skim engine waits for its sample set; `w` is the initiator and tag of a bridged write (R192,
R237). -/
def stageFrom (s : State) (id : Nat) (v : Val) (w : Option (Nat × Nat)) : State :=
  { s with skim := { s.skim with
      writes := s.skim.writes ++ [⟨id, v, none, if s.cyc.running then some (nextSkim s) else none, w⟩] } }

/-- A skim write of this vehicle is accepted (R192). -/
def stageWrite (s : State) (id : Nat) (v : Val) : State := stageFrom s id v none

/-! ### Sample sets (R95, R192, R193) -/

def lookupQ (l : List QVal) (id : Nat) : Option QVal := l.find? (fun x => x.id == id)

/-- `l` with the entries of `new` in place of those with the same id. -/
def overlay (l new : List QVal) : List QVal := l.filter (fun x => (lookupQ new x.id).isNone) ++ new

/-- Only the last of each id is kept. -/
def lastOf (l : List QVal) : List QVal := l.foldl (fun acc x => acc.filter (fun y => y.id != x.id) ++ [x]) []

/-- The event write of the highest index for each signal (R192 point 2). -/
def eventWrites (l : List StagedWrite) : List QVal :=
  let best := l.foldl (fun (acc : List StagedWrite) x =>
    match acc.find? (fun y => y.id == x.id) with
    | none => acc ++ [x]
    | some y => if y.event.getD 0 ≤ x.event.getD 0 then acc.filter (fun z => z.id != x.id) ++ [x] else acc) []
  best.map (fun x => ⟨x.id, x.val, .good⟩)

/-- The last accepted skim or bridged write of each signal (R192 point 3). -/
def lastWrites (l : List StagedWrite) : List QVal :=
  lastOf ((l.filter (fun x => x.event.isNone)).map (fun x => ⟨x.id, x.val, .good⟩))

/-- A write is due at Ts(n). -/
def writeDue (n : Nat) (w : StagedWrite) : Bool :=
  match w.cycle with | none => true | some c => c == n || cycBefore c n

/-- Safety results that enter skim n, the higher cycle last (R193). -/
def resultsFor (s : State) (n : Nat) : List QVal :=
  let due := s.skim.results.filter (fun r => r.1 == n)
  lastOf ((due.mergeSort (fun a b => a.2.1 == b.2.1 || cycBefore a.2.1 b.2.1)).flatMap (fun r => r.2.2))

/-- A locally produced quality under the timebase and after failed far writes (R176, R237). -/
def localQuality (s : State) (q : QVal) : QVal :=
  if q.quality = .good then
    (if s.skim.failed.contains q.id then { q with quality := .writeFailed }
     else { q with quality := freshQuality s })
  else q

/-- Whose posted write gave each signal the value in force, once the due writes are latched: an event write or a later one
without an initiator leaves none (R192, R237). -/
def valueWriters (due : List StagedWrite) (t : Tab (Nat × Nat)) : Tab (Nat × Nat) :=
  let plain := due.filter (fun w => w.event.isNone)
  let t1 := plain.foldl (fun t w => match w.writer with | none => Tab.erase t w.id | some x => Tab.set t w.id x) t
  (due.filter (fun w => w.event.isSome)).foldl (fun t w => Tab.erase t w.id) t1

/-- A force takes part in the sample set of Ts(n) (R192). -/
def forceDue (n : Nat) (f : Force) : Bool :=
  match f.cycle with | none => true | some c => c == n || cycBefore c n

/-- A force that one of the same signal, accepted later and due as well, has replaced. -/
def superseded (n : Nat) (l : List Force) (f : Force) : Bool :=
  match (l.filter (fun g => g.id == f.id && forceDue n g)).getLast? with
  | none => false
  | some g => forceDue n f && decide (g ≠ f)

/-- The forces in effect at Ts(n): of each signal the latest that is due. -/
def forcesDue (n : Nat) (l : List Force) : List Force := l.filter (fun f => forceDue n f && !superseded n l f)

/-- Latches the sample set of Ts(n) from the sampled inputs and the node signals. A signal with no source at
this Ts any more, as one whose route was removed, keeps its last value as `STALE` and is not refreshed (R221; log entry 21). `HOLDOVER` replaces `GOOD` on a skim-domain route too (R176, R211;
log entry 187). -/
def latchSamples (s : State) (n : Nat) (inputs node : List QVal) : State :=
  let due := s.skim.writes.filter (writeDue n)
  let ev := eventWrites (due.filter (fun w => w.event.isSome))
  let wr := overlay (lastWrites due) ev
  let stand := wr.filter (fun q => match defOf s q.id with | none => false | some d => d.cls == .application)
  let standing := stand.foldl (fun t q => Tab.set t q.id q.val) s.skim.standing
  let forces := (forcesDue n s.skim.forces).map (fun f => (⟨f.id, f.val, .forced⟩ : QVal))
  let results := resultsFor s n
  let direct := overlay (overlay (overlay wr results) []) forces
  let stood := standing.map (fun p => (⟨p.1, p.2, .good⟩ : QVal))
  let prev := ((s.skim.samples.getLast?).elim [] (·.vals)).map (fun q =>
    (if q.quality = .invalid then q else { q with quality := .stale } : QVal))
  let vals := (overlay (overlay (overlay prev stood) inputs) direct).map (localQuality s)
  { s with skim := { s.skim with
      samples := lastN 5 (s.skim.samples ++ [⟨n, overlay vals node, direct.map (localQuality s)⟩])
      writes := s.skim.writes.filter (fun w => !writeDue n w)
      standing := standing
      writers := valueWriters due s.skim.writers
      writerFrom := due.foldl (fun t w => Tab.set t w.id n) s.skim.writerFrom
      writersBefore := due.foldl (fun t w =>
        match Tab.get? s.skim.writers w.id with | none => Tab.erase t w.id | some x => Tab.set t w.id x) s.skim.writersBefore
      results := s.skim.results.filter (fun r => cycBefore n r.1)
      forces := s.skim.forces.filter (fun f => !superseded n s.skim.forces f)
      holdoverAt := lastN 8 (s.skim.holdoverAt ++ (if holdsOver s then [n] else [])) } }

/-- The sample set of Ts(n). -/
def sampleSet (s : State) (n : Nat) : SampleSet :=
  (s.skim.samples.find? (fun x => x.n == n)).getD ⟨n, [], []⟩

/-- An own signal's value in a sample set. -/
def sampled (set : SampleSet) (id : Nat) : QVal := (lookupQ set.vals id).getD ⟨id, 0, .notReady⟩

/-! ### Composing a publication (R170, R174, R175) -/

/-- A frame under composition: its record count and record bytes. -/
structure PubFrame where
  recs : Nat
  body : Bytes
deriving DecidableEq, Repr

/-- Record bytes left in a frame that holds `cap`. -/
def pubRoom (cap : Nat) (f : PubFrame) : Nat := cap - f.body.length

/-- Values packed by width code (R55). -/
def packValues (width : Nat) (l : List Nat) : Bytes :=
  if width = 0 then
    (List.range ((l.length + 7) / 8)).map (fun k =>
      BitVec.ofNat 8 ((List.range 8).map (fun j => (l.getD (8 * k + j) 0 % 2) * 2 ^ (7 - j))).sum)
  else l.flatMap (be (widthBytes width))

/-- Elements of width `w` that fit into `room` bytes with an 8-byte head. -/
def elemsFit (w room : Nat) : Nat :=
  if room < 12 then 0 else if w = 0 then (room - 8) / 4 * 32 else ((room - 8) / 4 * 4) / widthBytes w

/-- Adds elements, split into records by quality and into frames by room. -/
def addElems (cap : Nat) : Nat → Nat → List PubFrame → List QVal → List PubFrame
  | 0, _, fs, _ => fs
  | _, _, fs, [] => fs
  | k + 1, w, fs, x :: xs =>
    let cur := fs.getLast?.getD ⟨0, []⟩
    let run := (x :: xs).takeWhile (fun y => y.quality == x.quality)
    let n := min run.length (elemsFit w (pubRoom cap cur))
    if n = 0 then
      (if cur.recs = 0 then fs else addElems cap k w (fs ++ [⟨0, []⟩]) (x :: xs))
    else
      let r : PubRecord :=
        { first := sigLocal x.id, width := w, quality := qualityCode x.quality, count := n,
          values := packValues w ((run.take n).map (fun y => y.val.toNat)) }
      addElems cap k w (fs.dropLast ++ [⟨cur.recs + 1, cur.body ++ r.bytes⟩]) ((x :: xs).drop n)

/-- A run of elements added to frames of 2,016 record bytes, which leaves the payload's 4-byte head. -/
def addRun (w : Nat) (fs : List PubFrame) (l : List QVal) : List PubFrame := addElems 2016 (2 * l.length + 2) w fs l

/-- Wire bytes of frames with payloads of `recs`. -/
def pubWire (fs : List PubFrame) : Nat := (fs.map (fun f => frameLength (4 + f.body.length) + 20)).sum

/-- The runs of node signals of one unit, in offset order (R170). -/
def nodeRuns : List (Nat × Nat) :=
  [(0, 1), (1, 2), (3, 1), (4, 1), (5, 1), (6, 1), (7, 1), (8, 3), (0xB, 1), (0xC, 2), (0xE, 1), (0xF, 1)]

/-- Id of a node signal of a unit in the own slot. -/
def nodeId (s : State) (unit o : Nat) : Nat :=
  (heldSlot s).getD 0 * 131072 + 0x1FF00 + 0x40 * (unit - 1) + o

/-- The node signals of a unit: 12 records (R170, R545). -/
def addNode (s : State) (set : SampleSet) (unit : Nat) (fs : List PubFrame) : List PubFrame :=
  nodeRuns.foldl (fun fs (r : Nat × Nat) =>
    addRun (typeWidth (nodeSignalType r.1)) fs
      ((List.range r.2).map (fun k => sampled set (nodeId s unit (r.1 + k))))) fs

/-- The elements of a publication list entry (R169, R174). -/
def entryElems (s : State) (set : SampleSet) (e : PubEntry) : Nat × List QVal :=
  let base := (heldSlot s).getD 0 * 131072 + e.first
  let w := (defOf s base).elim 0 (fun d => typeWidth d.typ)
  let step := if w = 5 then 2 else 1
  (w, (List.range (e.count / step)).map (fun k => sampled set (base + step * k)))

/-- Adds due entries in list order until one does not fit; answers how many were dropped. `extra` is the wire
bytes of frames sent besides (R175, R77). -/
def addEntries (s : State) (set : SampleSet) (budget extra more : Nat) :
    List PubFrame → List PubEntry → List PubFrame × Nat
  | fs, [] => (fs, 0)
  | fs, e :: es =>
    let (w, l) := entryElems s set e
    let fs' := addRun w fs l
    if pubWire fs' + extra ≤ budget ∧ fs'.length + more ≤ 256 then addEntries s set budget extra more fs' es
    else (fs, (e :: es).length)

/-- The entry of a publication list at byte `o`: `FIRST` in bits [16:0] of its word, `COUNT`, `MODULUS`, `PHASE` (R174). -/
def pubEntryAt (b : Bytes) (o : Nat) : PubEntry :=
  ⟨field b o 4 % 131072, field b (o + 4) 4, field b (o + 8) 2, field b (o + 10) 2⟩

/-- The entries of a publication list, 12 bytes each (R174). -/
def pubEntries (b : Bytes) : List PubEntry := (List.range (b.length / 12)).map (fun i => pubEntryAt b (12 * i))

/-- The publication list's entries due in row r (R174). -/
def dueEntries (s : State) (r : Nat) : List PubEntry :=
  match s.cfg with
  | none => []
  | some c => (pubEntries c.pubList).filter (fun e => r % e.modulus == e.phase)

/-- A unit's node signals, if they fit the slot's bytes (R77; log entry 177). -/
def fitNode (s : State) (set : SampleSet) (budget unit : Nat) (fs : List PubFrame) : List PubFrame :=
  let fs' := addNode s set unit fs
  if pubWire fs' ≤ budget then fs' else fs

/-- The wire bytes that the node signals take of a slot. -/
def nodeWire (s : State) (n budget : Nat) (units : List Nat) : Nat :=
  pubWire (units.foldl (fun fs u => fitNode s (sampleSet s n) budget u fs) [⟨0, []⟩])

/-- The frames of cycle n's publication and the entries dropped. `units` are the units whose node signals open
it; `safety` the wire bytes and number of the safety frames. -/
def composePublication (s : State) (n budget : Nat) (units : List Nat) (safetyWire safetyFrames : Nat) :
    List PubFrame × Nat :=
  let set := sampleSet s n
  let fs := units.foldl (fun fs u => fitNode s set budget u fs) [⟨0, []⟩]
  addEntries s set budget safetyWire safetyFrames fs (dueEntries s (rowIndex s n))

def pubPayload (f : PubFrame) : Bytes := be 2 f.recs ++ zeros 2 ++ f.body

/-! ### Building a slot (R173, R177, R179) -/

def slotBuild (s : State) (slot : Nat) : SlotBuild :=
  (s.skim.building.find? (fun b => b.slot == slot)).getD ⟨slot, [], none, false, [], []⟩

def putBuild (s : State) (b : SlotBuild) : State :=
  { s with skim := { s.skim with building := s.skim.building.filter (fun x => x.slot != b.slot) ++ [b] } }

/-- The elements of a record in a slot: id, width code, value, quality. -/
def recordElems (slot : Nat) (r : PubRecord) : List (Nat × Nat × Val × Quality) :=
  (List.range r.count).map (fun k =>
    (slot * 131072 + r.first + k * (if r.width = 5 then 2 else 1), r.width, r.value k, codeQuality r.quality))

/-- The signal that an id belongs to: the second half of a 16-byte signal is named by its even id (R169). -/
def signalOf (s : State) (id : Nat) : Nat := if oddHalf s id then id - 1 else id

/-- An element's width agrees with the receiver's definition (R173). -/
def widthAgrees (s : State) (id w : Nat) : Bool :=
  match defOf s id with | none => true | some d => typeWidth d.typ == w

/-- A frame's records enter its slot. A safety frame that fails its envelope check is not delivered (R362). -/
def addToBuild (s : State) (slot index : Nat) (last : Bool) (elems : List (Nat × Nat × Val × Quality)) : State :=
  let b := slotBuild s slot
  let good := elems.filter (fun e => widthAgrees s e.1 e.2.1)
  let bad := ((elems.filter (fun e => !widthAgrees s e.1 e.2.1)).map (fun e => signalOf s e.1)).eraseDups
  let seen := s.skim.mismatched.filter (fun x => x.2 == topoInForce s)
  let fresh := bad.filter (fun i => !seen.contains (i, topoInForce s))
  let s1 := reportAll s (fresh.map (fun (i : Nat) => ⟨0x0401, 8, (i : Int), []⟩))
  let s2 := { s1 with skim := { s1.skim with mismatched := seen ++ fresh.map (fun i => (i, topoInForce s)) } }
  putBuild s2 { b with
    frames := b.frames ++ [index], last := if last then some index else b.last
    elems := b.elems ++ good, bad := b.bad ++ bad }

/-- A slot is complete (R179). -/
def slotComplete (b : SlotBuild) : Bool :=
  !b.null &&
    (match b.last with
     | none => false
     | some k => (List.range (k + 1)).all (fun i => b.frames.contains i))

/-! ### The commit procedure (R180, R197) -/

/-- The cells of a slot. -/
def inSlot (v : Nat) (p : Nat × SigCell) : Bool := sigSlot p.1 == v

def mapSlot (img : Image) (v : Nat) (f : SigCell → SigCell) : Image :=
  img.map (fun p => if inSlot v p then (p.1, f p.2) else p)

/-- Applies elements to the image of skim n (R177). -/
def applyElems (n : Nat) (img : Image) (l : List (Nat × Nat × Val × Quality)) : Image :=
  l.foldl (fun img (e : Nat × Nat × Val × Quality) =>
    Tab.adj img e.1 blankCell (fun c => { setCell n c e.2.2.1 e.2.2.2 with width := some e.2.1 })) img

/-- Signals whose element had another width keep their value and become `INVALID` (R173). -/
def applyBad (n : Nat) (img : Image) (l : List Nat) : Image :=
  l.foldl (fun img i => Tab.adj img i blankCell (setQuality n .invalid)) img

/-- Not refreshed in skim n. -/
def notRefreshed (n : Nat) (c : SigCell) : Bool := c.refresh != some n

/-- What one bound slot's part of the commit works on: image, missing runs, incomplete slots. -/
structure CommitAcc where
  image : Image
  missing : Tab Nat
  incomplete : Nat
deriving DecidableEq, Repr

/-- One bound slot (R180). `slotted` are the slots with a publication slot in row r. -/
def commitSlot (s : State) (n : Nat) (slotted : List Nat) (acc : CommitAcc) (v : Nat) : CommitAcc :=
  let b := slotBuild s v
  let run := Tab.getD acc.missing v 0
  let gone := match slotEntry s v with | none => true | some e => e.absent
  let (img, run', inc) :=
    if slotted.contains v then
      let img := applyBad n (applyElems n acc.image b.elems) b.bad
      if slotComplete b then (img, 0, 0)
      else (mapSlot img v (fun c => if notRefreshed n c && goesStale c.quality then setQuality n .stale c else c),
            run + 1, 1)
    else if gone then
      (mapSlot acc.image v (fun c => if goesStale c.quality then setQuality n .stale c else c), run + 1, 0)
    else (acc.image, run, 0)
  let img := if 64 ≤ run' then
      mapSlot img v (fun c => if notRefreshed n c then setQuality n .invalid c else c) else img
  ⟨img, Tab.set acc.missing v run', acc.incomplete + inc⟩

/-- The bindings of the numbering in force, slot to UUID. While none is in force they are those of the latest one: a
numbering's commit alone binds slots anew or drops them (R197), and their vehicles are not in the numbering in force
(R180). -/
def bindings (s : State) : Tab Nat :=
  match s.set.numbering with
  | none => s.skim.bound
  | some t => t.entries.foldl (fun b e => Tab.set b e.slot e.uuid) []

/-- The slots newly bound, or bound to another vehicle, since the latest commit (R197). -/
def freshSlots (s : State) : List Nat :=
  ((bindings s).filter (fun p => Tab.get? s.skim.bound p.1 != some p.2)).map (·.1)

/-- The slots whose entry was dropped since the latest commit (R197). -/
def droppedSlots (s : State) : List Nat := (s.skim.bound.filter (fun p => !(Tab.has (bindings s) p.1))).map (·.1)

/-- An entry of a newly bound slot: `NOT_READY` with value 0 in skim n, a change where it read otherwise (R186, R188, R197). -/
def renewCell (n : Nat) (c : SigCell) : SigCell :=
  { blankCell with changed := if c.quality = .notReady ∧ c.val = 0 then c.changed else some n }

/-- The image that skim n starts from: the latest skim's, where the entries of newly bound slots begin afresh and those of
dropped ones go `INVALID`. The latest skim itself keeps what it showed (R197). -/
def reboundImage (s : State) (n : Nat) : Image :=
  let img := match s.skim.retained with | [] => s.skim.base | r :: _ => r.image
  (droppedSlots s).foldl (fun img v => mapSlot img v (setQuality n .invalid))
    ((freshSlots s).foldl (fun img v => mapSlot img v (renewCell n)) img)

/-- The bindings in force at a commit, with the missing run of a newly bound slot at 0 (R197). -/
def rebindSlots (s : State) : State :=
  { s with skim := { s.skim with
      bound := bindings s
      gone := s.skim.gone.filter (fun v => !(freshSlots s).contains v && !(droppedSlots s).contains v)
      missing := (freshSlots s).foldl (fun t v => Tab.set t v 0)
        (s.skim.missing.filter (fun p => !(droppedSlots s).contains p.1))
      everBound := (s.skim.everBound ++ (bindings s).map (·.1)).eraseDups } }

/-- The descriptor's flags of skim n (R182). -/
def skimFlags (s : State) (n : Nat) : Nat :=
  b2n (s.cyc.discontinuous == some n) +
    2 * b2n (match s.set.numbering with | none => false | some t => t.commit == n) +
    4 * b2n (match s.set.numbering with | none => false | some t => t.split) +
    8 * b2n (match s.set.numbering with | none => false | some t => t.headless) +
    16 * b2n (s.skim.holdoverAt.contains n) + 32 * b2n (!s.cyc.csSeen) + 64 * b2n s.skim.restarted

/-- Version records of a commit: signals whose value or quality changed (R188). -/
def changedCount (n : Nat) (img : Image) : Nat := (img.filter (fun p => p.2.changed == some n)).length

/-! ### The history store (R185, R187, R188) -/

def historyCap : Nat := 134217728

/-- The oldest skim that a pin keeps, the pin of a snapshot copy among them (R187, R189). -/
def oldestPinned (s : State) : Option Nat :=
  (s.skim.copyPin.toList ++ s.skim.pins.filterMap (fun p => p.kept.map (fun _ => p.skim))).foldl (fun (m : Option Nat) k =>
    match m with | none => some k | some j => if cycBefore k j then some k else some j) none

def windowOldest (s : State) : Option Nat := (s.skim.retained.getLast?).map (·.desc.skim)

/-- The history entries that the window needs. -/
def trimHistory (s : State) : List (Nat × Nat) :=
  s.skim.history.filter (fun h => match windowOldest s with | none => false | some w => w == h.1 || cycBefore w h.1)

/-- The skims that pins keep, the one of a snapshot copy among them, with their images. -/
def pinnedImages (s : State) : List (Nat × Image) :=
  s.skim.copyPin.toList.filterMap (fun k =>
      ((s.skim.retained ++ s.skim.snapshot.recs).find? (fun r => r.desc.skim == k)).map (fun r => (k, r.image))) ++
    s.skim.pins.filterMap (fun p => p.kept.map (fun r => (p.skim, r.image)))

/-- A pinned skim put in its place, oldest first, once for each skim. -/
def insertPinned (x : Nat × Image) : List (Nat × Image) → List (Nat × Image)
  | [] => [x]
  | y :: t => if y.1 = x.1 then y :: t else if cycBefore x.1 y.1 then x :: y :: t else y :: insertPinned x t

/-- The version records that the pinned skims of a list need, its last the oldest skim of the window: of each signal the first
change after the skim, which is a change up to the next one of the list (R186, R188). -/
def pinRecords : List (Nat × Image) → Nat
  | (p, _) :: (q, img) :: t =>
    (img.filter (fun c => c.2.changed.any (fun k => cycBefore p k && !cycBefore q k))).length + pinRecords ((q, img) :: t)
  | _ => 0

/-- The version records beyond the window's that pins need (R188). -/
def pinnedUse (s : State) : Nat :=
  match s.skim.retained.getLast? with
  | none => 0
  | some w =>
    let old := (pinnedImages s).filter (fun x => cycBefore x.1 w.desc.skim)
    pinRecords (old.foldl (fun l x => insertPinned x l) [] ++ [(w.desc.skim, w.image)])

/-- Breaks the pins on a skim: a handle stays until its lease ends. -/
def breakPin (s : State) (k : Nat) : State :=
  let s1 := report s 0x0404 8 k []
  { s1 with skim := { s1.skim with
      copyPin := if s1.skim.copyPin = some k then none else s1.skim.copyPin
      pins := s1.skim.pins.map (fun p => if p.skim = k then { p with kept := none } else p) } }

/-- While the records of the window and of the pins are more than the store holds, its oldest go: the window shrinks first, down to the current
skim, and the records that a pin needs go last (R188). -/
def overwriteOldest : Nat → State → State
  | 0, s => s
  | k + 1, s =>
    let hist := trimHistory s
    let s := { s with skim := { s.skim with history := hist } }
    if (hist.map (·.2)).sum + pinnedUse s ≤ historyCap then s
    else if 1 < s.skim.retained.length then
      let r := s.skim.retained.dropLast
      overwriteOldest k (report { s with skim := { s.skim with retained := r } } 0x0403 9 r.length [])
    else match oldestPinned s with
      | some p => overwriteOldest k (breakPin s p)
      | none => s

/-- Skim n is committed: image, descriptor, history, in one step (R180, R182, R185). -/
def commitSkim (s : State) : State :=
  let n := s.cyc.n
  let img0 := reboundImage s n
  let s := rebindSlots s
  let slotted := (pubSlots s).map (·.slot)
  let acc := (s.skim.bound.map (·.1)).foldl (commitSlot s n slotted) ⟨img0, s.skim.missing, 0⟩
  let direct := (sampleSet s n).direct.map (fun q =>
    (q.id, ((defOf s q.id).elim 0 (fun d => typeWidth d.typ)), q.val, q.quality))
  let img := applyElems n acc.image direct
  let d : SkimDesc :=
    { skim := n, topo := topoInForce s, sampleTime := s.cyc.ts, commitTime := s.time.now, flags := skimFlags s n,
      missing := acc.incomplete }
  let gone := (s.skim.bound.map (·.1)).filter (fun v => s.skim.gone.contains v || decide (64 ≤ Tab.getD acc.missing v 0))
  let r : SkimRec := ⟨d, img, s.skim.bound.map (·.1), s.skim.everBound, gone⟩
  overwriteOldest 512 { s with skim := { s.skim with
    retained := (r :: s.skim.retained).take 256, base := [], missing := acc.missing, gone := gone, building := [], restarted := false
    history := (n, changedCount n img) :: s.skim.history } }

/-! ### Reads (R178, R183, R184, R186) -/

def descBytes (d : SkimDesc) : Bytes :=
  be 4 d.skim ++ be 4 d.topo ++ be 8 (time64 d.sampleTime) ++ be 8 (time64 d.commitTime) ++ be 2 d.flags ++
    be 1 d.missing ++ zeros 5

/-- A signal's cell at a skim: an unbound slot reads `INVALID` if it had been bound, else `NOT_READY` 0. A signal that never
came reads `NOT_READY`, and `INVALID` once its slot has been missing for 64 cycles (R176, R180). -/
def cellAt (r : SkimRec) (id : Nat) : SigCell :=
  let blank := if r.gone.contains (sigSlot id) then { blankCell with quality := .invalid } else blankCell
  let c := (Tab.get? r.image id).getD blank
  if r.bound.contains (sigSlot id) then c
  else if r.ever.contains (sigSlot id) then { c with quality := .invalid } else blankCell

/-- The age in a skim (R178). -/
def ageOf (n : Nat) (c : SigCell) : Nat := match c.refresh with | none => 255 | some k => min 255 (cycDiff n k)

/-- One 16-byte element; `half` is the second half of a 16-byte signal; `current` that the skim is current
(R183, R186). -/
def elemBytes (s : State) (r : SkimRec) (current : Bool) (id : Nat) (half : Bool) : Bytes :=
  let c := cellAt r id
  let t := typeOf s id c.width
  let v := if t = 0xD then (if half then c.val.toNat % 2 ^ 64 else c.val.toNat / 2 ^ 64) else extendVal t c.val.toNat
  let upper := !current && c.changed != some r.desc.skim
  let age := if upper then c.changed.elim 255 (fun k => min 255 (cycDiff r.desc.skim k)) else ageOf r.desc.skim c
  let hot := match defOf s id with | none => false | some d => d.hot
  be 8 v ++ be 1 (qualityCode c.quality * 16 + t) ++ be 1 age ++ be 1 (b2n upper + 2 * b2n hot) ++ zeros 1 ++
    be 4 (c.refresh.getD 0)

/-- The type a signal has in a skim. -/
def readType (s : State) (r : SkimRec) (id : Nat) : Nat := typeOf s id (cellAt r id).width

/-- The elements of an id list: a 16-byte signal returns two. -/
def idElems (s : State) (r : SkimRec) (current : Bool) (ids : List Nat) : Bytes :=
  ids.flatMap (fun id =>
    if readType s r id = 0xD then elemBytes s r current id false ++ elemBytes s r current id true
    else elemBytes s r current id false)

/-- The elements of a range: one for each id. -/
def rangeElems (s : State) (r : SkimRec) (current : Bool) (first count : Nat) : Bytes :=
  (List.range count).flatMap (fun k =>
    let id := first + k
    if id % 2 = 1 ∧ readType s r (id - 1) = 0xD then elemBytes s r current (id - 1) true
    else elemBytes s r current id false)

/-! ### Pins (R187) -/

/-- Pins whose lease has ended go; their handles rest for 10 s. -/
def lapsePins (s : State) : State :=
  let dead := s.skim.pins.filter (fun p => p.lease ≤ s.clk)
  { s with skim := { s.skim with
      pins := s.skim.pins.filter (fun p => s.clk < p.lease)
      freed := (s.skim.freed.filter (fun f => s.clk < f.2)) ++ dead.map (fun p => (p.handle, s.clk + 10000000000)) } }

/-- PIN_LEASE_EXPIRY (R187). -/
def execPinLeaseExpiry (handle : Nat) (s : State) : Res :=
  let dead := s.skim.pins.filter (fun p => p.handle == handle && p.lease ≤ s.clk)
  .next { s with skim := { s.skim with
      pins := s.skim.pins.filter (fun p => !(p.handle == handle && p.lease ≤ s.clk))
      freed := s.skim.freed ++ dead.map (fun p => (p.handle, s.clk + 10000000000)) } }

/-- A handle that may be issued: not in use, not resting, not 0. -/
def newHandle (s : State) : Option Nat :=
  ((List.range 4096).map (fun k => (s.skim.nextHandle + k - 1) % 65535 + 1)).find? (fun h =>
    !s.skim.pins.any (fun p => p.handle == h) && !s.skim.freed.any (fun f => f.1 == h && s.clk < f.2))

/-- A retained skim by number. -/
def retainedSkim (s : State) (n : Nat) : Option SkimRec := s.skim.retained.find? (fun r => r.desc.skim == n)

/-- The history snapshot starts (R189): the oldest retained skim is pinned for the copy. -/
def startSnapshot (s : State) : State :=
  if s.skim.snapshot.state = 1 ∨ s.skim.snapshot.locked then report s 0x0405 9 0 []
  else match s.skim.retained with
    | [] => s
    | r :: _ =>
      { s with skim := { s.skim with
          snapshot := { s.skim.snapshot with state := 1, skim := r.desc.skim, desc := some r.desc, image := r.image,
                                             recs := s.skim.retained }
          copyPin := windowOldest s } }

/-- SNAPSHOT_COPY_COMPLETE (R189): the copy is whole and its pin is released. -/
def execSnapshotCopyComplete (s : State) : Res :=
  .next (if s.skim.snapshot.state = 1 then
    { s with skim := { s.skim with snapshot := { s.skim.snapshot with state := 2 }, copyPin := none } }
  else s)

end Sys2Proof.Machine
end

