-- ==== Sys2Proof/Machine/VehicleOps.lean ====
section
/-! DEFINITION. What the vehicle network's rows share: egress and gates, sending through ARP, and the message
rings (spec file 09). -/

namespace Sys2Proof.Machine

/-! ### Settings -/

/-- The vehicle network's settings while the management side runs (R473, R513). -/
def net (s : State) : NetCfg :=
  match s.cfg with | none => NetCfg.none | some c => if managing s then c.net else NetCfg.none

def vportCfg (s : State) (v : Nat) : VportCfg :=
  Tab.getD (net s).ports v ⟨false, 0, 1, 0, [1], [1], [0, 1, 2, 3, 4, 5, 6, 7], [], 0⟩

def vport (s : State) (v : Nat) : Vport := Tab.getD s.veh.ports v Vport.init

def setVport (s : State) (v : Nat) (f : Vport → Vport) : State :=
  { s with veh := { s.veh with ports := Tab.adj s.veh.ports v Vport.init f } }

def vlink (s : State) (v : Nat) : Bool := (vport s v).link.getLsbD 0

/-- Speed in Mb/s (R261). -/
def vspeed (s : State) (v : Nat) : Nat :=
  match bits (vport s v).link.toNat 2 1 with | 0 => 10 | 1 => 100 | _ => 1000

def vlanCfg (s : State) (vid : Nat) : VlanCfg :=
  ((net s).vlans.find? (fun x => x.vid == vid)).getD ⟨vid, 1522, true, true⟩

/-- Vehicle ports V1 to V16. -/
def vports : List Nat := (List.range 16).map (· + 1)

def isMember (s : State) (v vid : Nat) : Bool := (vportCfg s v).members.contains vid

/-! ### Gates (R266 to R268) -/

def gateM (b : Bytes) : Nat := field b 0 2
def gateCount (b : Bytes) : Nat := field b 2 2
def gateMask (b : Bytes) (i : Nat) : Nat := field b (4 + 8 * i) 1
def gateDur (b : Bytes) (i : Nat) : Nat := field b (8 + 8 * i) 4

/-- A gate list image keeps R266 under the cycle length. Its header is the period and the count, 16 bits each
(log entry 22); the reserved bytes of an entry are ignored (R8). -/
def gateListOk (s : State) (b : Bytes) : Bool :=
  let n := gateCount b
  1 ≤ gateM b && gateM b ≤ 1024 && 1 ≤ n && n ≤ 256 && b.length == 4 + 8 * n &&
    (List.range n).all (fun i => 1000 ≤ gateDur b i) &&
    ((List.range n).map (gateDur b)).sum == gateM b * cycleLen s

/-- How far into its period a list is at train time now (R267). -/
def gatePhase (s : State) (b : Bytes) : Nat :=
  let m := max 1 (gateM b)
  let k := gridN s - gridN s % m
  let t := s.time.now - (tsOf s k + (outOffset s : Nat))
  (t % ((m * cycleLen s : Nat) : Int)).toNat

/-- The entry in force at a phase, and what is left of it. -/
def gateEntryAt (b : Bytes) : Nat → Nat → Nat → Nat × Nat
  | 0, i, _ => (i, 0)
  | k + 1, i, t => if t < gateDur b i then (i, gateDur b i - t) else gateEntryAt b k (i + 1) (t - gateDur b i)

def gateNow (s : State) (b : Bytes) : Nat × Nat := gateEntryAt b (gateCount b) 0 (gatePhase s b)

/-- The gate states in force on a port; all open without a list. -/
def gateStates (s : State) (v : Nat) : Nat :=
  match (vport s v).gates with
  | none => 255
  | some b => gateMask b ((gateNow s b).1 % max 1 (gateCount b))

/-- Time for which a queue's gate stays open; none while it never closes. -/
def openFor (s : State) (v q : Nat) : Option Nat :=
  match (vport s v).gates with
  | none => none
  | some b =>
    let (i, left) := gateNow s b
    let n := gateCount b
    let rest := ((List.range n).map (fun k => (i + 1 + k) % max 1 n)).takeWhile (fun k => bitOf (gateMask b k) q)
    if rest.length = n then none else some (left + (rest.map (gateDur b)).sum)

/-! ### Frame lengths and egress -/

/-- Bytes of a body from the EtherType on, without FCS. TRDP headers are 40 and 116 bytes (R272). -/
def bodyLength : VBody → Nat
  | .raw b => b.length
  | .arp .. => 2 + 28
  | .udp _ _ _ _ b => 2 + 28 + b.length
  | .echo _ _ b => 2 + 28 + b.length
  | .trdp t => 2 + 28 + (if t.kind / 256 = 0x50 then 40 else 116) + t.dataset.length
  | .ptp _ _ b => 2 + 28 + b.length

/-- Frame length with addresses, tag, padding and FCS. -/
def vframeLength (f : VFrame) : Nat := max 64 (12 + (if f.tagged then 4 else 0) + bodyLength f.body + 4)

/-- Wire time of a frame and its inter-frame gap, ns. -/
def txTime (s : State) (v : Nat) (f : VFrame) : Nat := (vframeLength f + 20) * 8 * 1000 / vspeed s v

/-- A frame originated for the gate of To(n) starts from To(n) on (R268, R274, R278). -/
def gateCome (s : State) (x : QFrame) : Bool := x.gate.elim true (fun n => decide (toOf s n ≤ s.time.now))

/-- How long ago a queue's closed gate closed; none where its list never opens it. -/
def closedFor (s : State) (v q : Nat) : Option Nat :=
  match (vport s v).gates with
  | none => none
  | some b =>
    let (i, left) := gateNow s b
    let n := max 1 (gateCount b)
    let before := ((List.range n).map (fun k => (i + n - 1 - k) % n)).takeWhile (fun k => !bitOf (gateMask b k) q)
    if before.length = n then none else some (gateDur b i - left + (before.map (gateDur b)).sum)

/-- The gate that a frame was originated for has closed before the frame came to its queue (R268). -/
def gateGone (s : State) (v q : Nat) (gate : Option Nat) : Bool :=
  match gate with
  | none => false
  | some n => !bitOf (gateStates s v) q &&
      (match closedFor s v q with | none => false | some t => decide (toOf s n + (t : Nat) < s.time.now))

/-- Starts the queued frames that their gates let go, highest queue first, in order; `used` is the time already
taken (R265, R268). -/
def drainPort (v : Nat) : Nat → Nat → State → State
  | 0, _, s => s
  | k + 1, used, s =>
    let p := vport s v
    let mask := gateStates s v
    let fits := fun (x : QFrame) => bitOf mask x.queue &&
      (match openFor s v x.queue with | none => true | some t => used + txTime s v x.frame ≤ t)
    let cands := (List.range 8).reverse.findSome? (fun q =>
      (p.queue.find? (fun x => x.queue == q && gateCome s x)).bind (fun x => if fits x then some x else none))
    match cands with
    | none => s
    | some x =>
      if !vlink s v then s
      else drainPort v k (used + txTime s v x.frame)
        (emit (setVport s v (fun p => { p with queue := dropOne x p.queue })) [.vehicle v x.frame])

/-- The frames of every port whose gates let them start. -/
def drainPorts (s : State) : State := vports.foldl (fun s v => drainPort v (vport s v).queue.length 0 s) s

/-- A drop at a vehicle port (R260, R262). -/
def vdrop (s : State) (v bit : Nat) : State :=
  setVport s v (fun p => { p with status := setBit p.status bit true, drops := count32 p.drops })

/-- Queued bytes. -/
def queuedBytes (l : List QFrame) : Nat := (l.map (fun x => vframeLength x.frame)).sum

/-- A frame comes to an egress port: tagged or not, checked for size and room, queued and started if its gate
is open (R259, R265). -/
def egress (s : State) (v queue : Nat) (gate : Option Nat) (f : VFrame) : State :=
  let f := { f with tagged := !(vportCfg s v).untagged.contains f.vlan }
  let p := vport s v
  let all := ((vports.map (fun w => queuedBytes (vport s w).queue))).sum
  let limit := (vportCfg s v).queueLimit.getD queue 262144
  let len := vframeLength f
  if (vlanCfg s f.vlan).maxFrame < len ∨ limit < queuedBytes (p.queue.filter (fun x => x.queue == queue)) + len ∨
      1048576 < queuedBytes p.queue + len ∨ 8388608 < all + len then vdrop s v 5
  else if gateGone s v queue gate then vdrop s v 6
  else
    let s1 := setVport s v (fun p => { p with queue := p.queue ++ [⟨queue, gate, f⟩] })
    drainPort v ((vport s1 v).queue.length) 0 s1

/-- The ports a frame leaves on (R263, R264). -/
def egressPorts (s : State) (vid mac ingress : Nat) : List Nat :=
  let ok := fun v => isMember s v vid && vlink s v && v != ingress
  let flood := vports.filter ok
  match (net s).statics.find? (fun x => x.vid == vid && x.mac == mac) with
  | some x => x.ports.filter ok
  | none =>
    if mac = 0xFFFFFFFFFFFF then flood
    else if bitOf mac 40 then (if (vlanCfg s vid).floodMulticast then flood else [])
    else match s.veh.macs.find? (fun x => x.vid == vid && x.mac == mac) with
      | some x => [x.port].filter ok
      | none => if (vlanCfg s vid).floodUnicast then flood else []

/-! ### The node's own traffic (R269 to R271) -/

def iface (s : State) (i : Nat) : Option IfaceCfg := Tab.get? (net s).ifaces i
def ifaceMac (s : State) (i : Nat) : Nat := s.veh.macBase + i
def ifaceIp (s : State) (i : Nat) : Nat := (iface s i).elim 0 (·.ip)

/-- The TTL of the interface, for a datagram (R271). -/
def datagramTtl (c : IfaceCfg) : VBody → Nat
  | .udp .. | .echo .. | .trdp .. => c.ttl
  | _ => 0

/-- The node originates a frame on an interface. -/
def sendEther (s : State) (i dst queue : Nat) (gate : Option Nat) (body : VBody) : State :=
  match iface s i with
  | none => s
  | some c =>
    let f : VFrame := ⟨dst, ifaceMac s i, c.vlan, false, queue, datagramTtl c body, body⟩
    (egressPorts s c.vlan dst 0).foldl (fun s v => egress s v queue gate f) s

def broadcastMac : Nat := 0xFFFFFFFFFFFF

def sendArp (s : State) (i op tip tmac dst : Nat) : State :=
  sendEther s i dst (net s).arpQueue none (.arp op (ifaceIp s i) (ifaceMac s i) tip tmac)

/-- A gratuitous ARP (R270). -/
def gratuitous (s : State) (i : Nat) : State := sendArp s i 1 (ifaceIp s i) 0 broadcastMac

def arpFind (s : State) (i ip : Nat) : Option ArpEntry := s.veh.arp.find? (fun a => a.iface == i && a.ip == ip)

def arpMac (s : State) (i ip : Nat) : Option Nat :=
  match (net s).arpStatic.find? (fun x => x.1 == i && x.2.1 == ip) with
  | some x => some x.2.2
  | none => (arpFind s i ip).bind (·.mac)

def setArp (s : State) (a : ArpEntry) : State :=
  let rest := s.veh.arp.filter (fun x => !(x.iface == a.iface && x.ip == a.ip))
  { s with veh := { s.veh with arp := rest ++ [a] } }

/-- Starts to resolve a destination: the first of three requests (R270). A cache full of its 1,024 entries, static ones
among them, resolves nothing new. -/
def startArp (s : State) (i ip : Nat) (held : List HeldOut) : State :=
  if 1024 ≤ s.veh.arp.length + (net s).arpStatic.length then s
  else sendArp (setArp s ⟨i, ip, none, 1, s.clk, held⟩) i 1 ip 0 broadcastMac

/-- The subnet broadcast address of an interface. -/
def isBroadcast (s : State) (i ip : Nat) : Bool :=
  ip == 0xFFFFFFFF ||
    (match iface s i with
     | none => false
     | some c => let h := 2 ^ (32 - c.prefixLen); ip / h == c.ip / h && ip % h == h - 1)

def isMulticast (ip : Nat) : Bool := ip / 2 ^ 28 == 14

/-- Sends an IPv4 message to a destination: resolved, or held while ARP asks (R270). -/
def sendIp (s : State) (i ip queue : Nat) (gate : Option Nat) (body : VBody) : State :=
  if isMulticast ip then sendEther s i (0x01005E000000 + ip % 2 ^ 23) queue gate body
  else if isBroadcast s i ip then sendEther s i broadcastMac queue gate body
  else match arpMac s i ip with
    | some m => sendEther s i m queue gate body
    | none =>
      match arpFind s i ip with
      | none => startArp s i ip [⟨queue, gate, body⟩]
      | some a => if a.held.length < 4 then setArp s { a with held := a.held ++ [⟨queue, gate, body⟩] } else s

/-- The interface whose subnet holds an address; the number of no interface when none does, as there is no gateway (R269). -/
def ifaceFor (s : State) (ip : Nat) : Nat :=
  (((net s).ifaces.find? (fun p => ip / 2 ^ (32 - p.2.prefixLen) == p.2.ip / 2 ^ (32 - p.2.prefixLen))).map (·.1)).getD 16

/-- A TRDP telegram of the node, with the header fields and the UDP port of every one it sends (R272, R273). -/
def trdpOut (s : State) (kind comId seq dst session result : Nat) (dataset : Bytes) : TrdpOut :=
  ⟨kind, comId, seq, topoCommitted s, dst, session, result, dataset, if kind / 256 = 0x50 then 17224 else 17225, 0x0100, 0⟩

/-- The longest dataset of message data on an interface's VLAN (R272). -/
def mdLimit (s : State) (i : Nat) : Nat :=
  match iface s i with
  | none => 1356
  | some c => if 1598 ≤ (vlanCfg s c.vlan).maxFrame then 1432 else 1356

/-- Sends message data to a station, from the interface of its subnet; a dataset beyond the limit of R272 is not sent (log
entry 189). -/
def sendMd (s : State) (kind comId ip session result : Nat) (dataset : Bytes) : State :=
  let i := ifaceFor s ip
  if mdLimit s i < dataset.length then s
  else sendIp s i ip (net s).mdQueue none (.trdp (trdpOut s kind comId 0 ip session result dataset))

/-! ### Message rings (R283 to R285) -/

def serviceRing : Nat := 256

/-- Descriptors a frame of B bytes needs. -/
def descsFor (b : Bytes) : Nat := max 1 (cdiv b.length 256)

def descAt (r : Ring) (i : Nat) : Bytes := Tab.getD r.descs (i % r.size) (zeros 16)

/-- Descriptor i is free for the poll engine. -/
def ownBit (r : Ring) (i : Nat) : Bool := bitOf (field (descAt r i) 6 1) 7

/-- Every descriptor the frame needs is free. -/
def ringFits (r : Ring) (b : Bytes) : Bool :=
  descsFor b ≤ r.size && (List.range (descsFor b)).all (fun k => ownBit r (r.writeIx + k))

/-- A descriptor (R283). -/
def descBytesOf (buf len flags source total seq arrival : Nat) : Bytes :=
  be 4 buf ++ be 2 len ++ be 1 flags ++ be 1 source ++ be 2 total ++ be 2 seq ++ be 4 arrival

/-- A frame is written whole (R284). -/
def ringWrite (r : Ring) (f : RingFrame) : Ring :=
  let n := descsFor f.data
  let at_ := fun k => (r.writeIx + k) % r.size
  let part := fun k => bslice f.data (256 * k) 256
  let descs := (List.range n).foldl (fun t k =>
    Tab.set t (at_ k) (descBytesOf (r.base + 256 * at_ k) (part k).length
      ((if k = 0 then 64 else 0) + (if k + 1 = n then 32 else 0)) f.source f.data.length (r.written % 65536) f.arrival))
    r.descs
  let bufs := (List.range n).foldl (fun t k => Tab.set t (at_ k) (fit (part k) 256)) r.bufs
  { r with descs := descs, bufs := bufs, writeIx := (r.writeIx + n) % r.size, written := count32 r.written }

/-- An empty ring of k descriptors at an offset of the ring area. -/
def newRing (k base : Nat) : Ring :=
  { size := k, base := base, writeIx := 0, readIx := 0, written := 0, dropped := 0, starved := false,
    descs := (List.range k).foldl (fun t i => Tab.set t i (descBytesOf (base + 256 * i) 0 128 0 0 0 0)) []
    bufs := [] }

/-- A ring's descriptor count is a power of two from 16 to 4,096. -/
def ringCountOk (k : Nat) : Bool := [16, 32, 64, 128, 256, 512, 1024, 2048, 4096].contains k

def ringSize (k : Nat) : Nat := 272 * k + 32

/-- The first offset that follows a ring, a multiple of 256. -/
def ringEnd (r : Ring) : Nat := (r.base + ringSize r.size + 255) / 256 * 256

/-- A ring of k descriptors at an offset overlaps no other. -/
def ringFree (s : State) (k at_ : Nat) : Bool :=
  s.veh.rings.all (fun p => decide (ringEnd p.2 ≤ at_) || decide (at_ + ringSize k ≤ p.2.base))

/-- The lowest free offset for a ring of k descriptors, a multiple of 256 (log entry 74). -/
def ringBase (s : State) (k : Nat) : Nat :=
  let ends := s.veh.rings.map (fun p => ringEnd p.2)
  ((0 :: ends).filter (ringFree s k)).foldl min (ends.foldl max 0)

def setRing (s : State) (e : Nat) (r : Ring) : State :=
  { s with veh := { s.veh with rings := Tab.set s.veh.rings e r } }

/-- Writes a frame to an open ring; the host ring's interrupt source is `RING_FRAME` (R472). -/
def writeRing (s : State) (e : Nat) (r : Ring) (f : RingFrame) : State :=
  raiseIntIf (e == 2) (setRing s e (ringWrite r f)) 3

/-- A frame that is not written is dropped whole (R285). -/
def starveRing (s : State) (e : Nat) (f : RingFrame) : State :=
  let s1 := match Tab.get? s.veh.rings e with
    | none => s
    | some r => raiseIntIf (e == 2) (setRing s e { r with dropped := count32 r.dropped, starved := true }) 4
  match f.port with
  | some p => markPort s1 p 7 (fun q => { q with drops := count32 q.drops })
  | none => if f.source = 3 then report s1 0x0604 12 f.data.length [] else if f.source = 2 then ringStarved s1 else s1

def stagedBytes (s : State) : Nat := (s.veh.staging.map (fun x => x.frame.data.length)).sum

/-- A frame for an endpoint's ring: written, staged behind earlier ones, or dropped; answers whether it was
dropped. Nothing happens where the ring is not open. -/
def toRing (s : State) (e : Nat) (f : RingFrame) : State × Bool :=
  match Tab.get? s.veh.rings e with
  | none => (s, false)
  | some r =>
    if !s.veh.staging.any (fun x => x.ring == e) && ringFits r f.data then (writeRing s e r f, false)
    else if 128 ≤ s.veh.staging.length ∨ 524288 < stagedBytes s + f.data.length then (starveRing s e f, true)
    else ({ s with veh := { s.veh with staging := s.veh.staging ++ [⟨e, f, s.clk⟩] } }, false)

/-- The first staged frame of a ring. -/
def stagedHead (s : State) (e : Nat) : Option StagedFrame := s.veh.staging.find? (fun x => x.ring == e)

/-- Staged frames of a ring are written in order while their descriptors fit (R284). -/
def unstage (e : Nat) : Nat → State → State
  | 0, s => s
  | k + 1, s =>
    match Tab.get? s.veh.rings e, stagedHead s e with
    | some r, some x =>
      if ringFits r x.frame.data then
        unstage e k (writeRing { s with veh := { s.veh with staging := dropOne x s.veh.staging } } e r x.frame)
      else s
    | _, _ => s

/-- Sets `OWN` in `count` descriptors in ring order, and writes what fits (R284). -/
def returnDescs (s : State) (e count : Nat) : State :=
  match Tab.get? s.veh.rings e with
  | none => s
  | some r =>
    let k := min count r.size
    let descs := (List.range k).foldl (fun t i =>
      let j := (r.readIx + i) % r.size
      Tab.set t j (splice (descAt r j) 6 [setBit ((descAt r j).getD 6 0) 7 true])) r.descs
    unstage e (s.veh.staging.length)
      (setRing s e { r with descs := descs, readIx := (r.readIx + k) % r.size })

end Sys2Proof.Machine
end

