-- ==== Sys2Proof/Machine/FieldOps.lean ====
section
/-! DEFINITION. Field ports and device channels as the far side uses them: settings, status, CAN frames sent and
deferred, SDO requests (R280, R281, R290, R300, R302 to R308). -/

namespace Sys2Proof.Machine

/-! ### Device channels (R277, R280) -/

def chanSt (s : State) (k : Nat) : ChanSt :=
  Tab.getD s.veh.chans k (ChanSt.init (Tab.getD (net s).channels k (zeros 32)))

def setChan (s : State) (k : Nat) (c : ChanSt) : State :=
  { s with veh := { s.veh with chans := Tab.set s.veh.chans k c } }

def chEnabled (c : ChanSt) : Bool := bitOf (field c.entry 0 1) 0
def chIface (c : ChanSt) : Nat := field c.entry 1 1
def chProfile (c : ChanSt) : Nat := field c.entry 2 1
def chMissLimit (c : ChanSt) : Nat := field c.entry 3 1
def chAddr (c : ChanSt) : Nat := field c.entry 4 4
def chDevPort (c : ChanSt) : Nat := field c.entry 8 2
def chLocal (c : ChanSt) (k : Nat) : Nat := if field c.entry 10 2 = 0 then 49152 + k else field c.entry 10 2
def chPeriod (c : ChanSt) : Nat := field c.entry 12 2
def chPhase (c : ChanSt) : Nat := field c.entry 14 2
/-- `REPLY_TIMEOUT` in ns. -/
def chTimeout (c : ChanSt) : Nat := field c.entry 16 2 * 100000
def chInLen (c : ChanSt) : Nat := field c.entry 18 2
def chOutLen (c : ChanSt) : Nat := field c.entry 20 2
def chRecover (c : ChanSt) : Nat := field c.entry 22 1
def chFaultLimit (c : ChanSt) : Nat := field c.entry 23 1
def chArg (c : ChanSt) : Nat := field c.entry 24 4

/-- The state's number in the order of R280's table. -/
def chCode : ChanState → Nat
  | .disabled => 0 | .resolving => 1 | .starting => 2 | .active => 3 | .missing => 4 | .faulted => 5

/-! ### Field ports -/

/-- The field buses' settings while the management side runs (R473, R513). -/
def fieldCfg (s : State) : FieldCfg :=
  match s.cfg with | none => FieldCfg.none | some c => if managing s then c.field else FieldCfg.none

def sportCfg (s : State) (p : Nat) : SPortCfg := Tab.getD (fieldCfg s).serial p SPortCfg.off
def sport (s : State) (p : Nat) : SPort := Tab.getD s.fld.serial p SPort.init
def setSport (s : State) (p : Nat) (f : SPort → SPort) : State :=
  { s with fld := { s.fld with serial := Tab.set s.fld.serial p (f (sport s p)) } }

def canCfg (s : State) (c : Nat) : CanCfg := Tab.getD (fieldCfg s).can c CanCfg.off
def canPort (s : State) (c : Nat) : CanPort := Tab.getD s.fld.can c CanPort.init
def setCan (s : State) (c : Nat) (f : CanPort → CanPort) : State :=
  { s with fld := { s.fld with can := Tab.set s.fld.can c (f (canPort s c)) } }

/-- A status bit of R290 with the counter it counts in (R292). -/
def FPort.mark (p : FPort) (bit : Nat) : FPort :=
  let q := { p with status := setBit p.status bit true }
  match bit with
  | 0 => { q with runts := count32 q.runts }
  | 1 => { q with oversize := count32 q.oversize }
  | 2 => { q with fcs := count32 q.fcs }
  | _ => { q with drops := count32 q.drops }

def FPort.countGood (p : FPort) : FPort := { p with good := count32 p.good }

def FPort.setUp (p : FPort) (up : Bool) : FPort := { p with status := setBit p.status 16 up }

/-- The termination and the bias of an S port are connected: as the configuration image switches them, open while the port
is disabled or the node is unpowered (R288). The bias is generic serial only. -/
def serialTerminated (s : State) (p : Nat) : Bool := (sportCfg s p).mode != 0 && (sportCfg s p).terminate
def serialBiased (s : State) (p : Nat) : Bool := (sportCfg s p).mode == 3 && (sportCfg s p).bias

/-- The termination of a CAN port is connected (R288). -/
def canTerminated (s : State) (c : Nat) : Bool := (canCfg s c).enabled && (canCfg s c).terminate

/-- The float of S1 to S6 (R310). -/
def portFloat (p : Nat) : Nat := p + 5

/-- A serial port runs its float (R300). -/
def serialReady (s : State) (p : Nat) : Bool := (sportCfg s p).mode == 3 && (floatOf s (portFloat p)).running

/-- Detail of the class 0x02 failures that end an access before it is sent (R281, R300). -/
def fieldRefusal (s : State) (e : Bytes) : Option Nat :=
  if rDomain e ≠ 7 ∨ rUnit e + 1 ≠ s.unitNo then none
  else
    let sel := rAddr e 0 1
    if sel = 0 then
      let c := chanSt s (rAddr e 1 2)
      if c.state = .active then none else some (2 * 2 ^ 24 + chCode c.state)
    else if serialReady s sel then none else some (2 * 2 ^ 24 + (sportCfg s sel).mode)

/-- The number that `lockPort` gives a level 3 port of this unit. -/
def ownPort (s : State) (k : Nat) : Nat := (s.unitNo - 1) * 16 + k

/-- The far-bus lock of a level 3 port of this unit is held (R246). -/
def portLocked (s : State) (k : Nat) : Bool := s.bridge.locks.any (fun l => l.port == ownPort s k)

/-- A lock request waits on a port of this unit. -/
def portWaited (s : State) (k : Nat) : Bool := s.bridge.lockWaits.any (fun w => w.port == ownPort s k)

/-- A cyclic access holds a port's lock. -/
def cyclicHolds (s : State) (k : Nat) : Bool := s.bridge.locks.any (fun l => l.port == ownPort s k && l.holder == 0)

/-- A cyclic access asks for its port's lock, behind the requests that wait (R246). It waits without a limit of its own. -/
def askCyclic (s : State) (k : Nat) : State :=
  { s with bridge := { s.bridge with lockWaits := s.bridge.lockWaits ++ [⟨ownPort s k, 0, 0, 2 ^ 64, 0⟩] } }

/-! ### CAN frames (R302, R304, R308) -/

/-- A frame is sent, or waits behind a lock or while the controller is bus-off; one that takes the lock itself waits behind
the requests before it and for the port's transfers (R246). A waiting PDO is replaced by the newer one. -/
def canSend (s : State) (c : Nat) (m : CanOut) : State :=
  let p := canPort s c
  if !(canCfg s c).enabled || !p.started then s
  else if p.state = 2 ∨ (portLocked s (8 + c) && !m.exempt) ∨ (m.grouped && (portWaited s (8 + c) || !p.sdos.isEmpty)) then
    if m.pdo && p.queue.any (fun x => x.pdo && x.ident == m.ident) then
      setCan s c (fun p => { p with
        port := p.port.mark 6
        queue := p.queue.map (fun x => if x.pdo ∧ x.ident = m.ident then m else x) })
    else setCan (if m.grouped then askCyclic s (8 + c) else s) c (fun p => { p with queue := p.queue ++ [m] })
  else emit s [.can c m]

/-- The frames that waited are sent, but those that wait for the lock. -/
def flushCan (s : State) (c : Nat) : State :=
  let p := canPort s c
  if p.state = 2 ∨ portLocked s (8 + c) then s
  else emit (setCan s c (fun p => { p with queue := p.queue.filter (·.grouped) }))
    ((p.queue.filter (fun m => !m.grouped)).map (Out.can c))

/-- The first frame that waited for the lock is sent under it. -/
def sendGrouped (s : State) (c : Nat) : State :=
  match (canPort s c).queue.find? (·.grouped) with
  | none => s
  | some m => emit (setCan s c (fun p => { p with queue := dropOne m p.queue })) [.can c m]

/-- The frames of all CAN ports without a lock. -/
def flushCans (s : State) : State := [1, 2, 3, 4].foldl flushCan s

/-! ### SDO (R306; the transfer protocol of EN 50325-4, log entry 31) -/

def sdoFrame (s : State) (c : Nat) (x : Sdo) (exempt : Bool) (data : Bytes) : State :=
  canSend s c ⟨0x600 + x.node, false, fit data 8, false, exempt, false⟩

/-- The object's index, least significant byte first, and its subindex. -/
def sdoMux (x : Sdo) : Bytes := (be 2 x.index).reverse ++ be 1 x.sub

/-- The opening request of a transfer. -/
def sdoOpen (x : Sdo) : Bytes :=
  if x.write then
    if x.size ≤ 4 then be 1 (0x23 + 4 * (4 - x.size)) ++ sdoMux x ++ x.rest
    else be 1 0x21 ++ sdoMux x ++ (be 4 x.size).reverse
  else be 1 0x40 ++ sdoMux x

/-- An SDO is outstanding at the node's server. -/
def sdoBusy (s : State) (c node : Nat) : Bool := (canPort s c).sdos.any (fun x => x.node == node)

/-- Opens a transfer. -/
def startSdo (s : State) (c : Nat) (x : Sdo) (exempt : Bool) : State :=
  let y := { x with until_ := s.clk + (canCfg s c).sdoTimeout * 1000000, segmented := x.write && 4 < x.size }
  let s1 := setCan s c (fun p => { p with sdos := p.sdos ++ [y] })
  sdoFrame s1 c y exempt (sdoOpen y)

end Sys2Proof.Machine
end

