-- ==== Sys2Proof/Machine/FarSide.lean ====
section
/-! DEFINITION. The far side of bridged transactions: far keys and their queues, access units, locks,
semaphores, and the answers (R234 to R238, R242, R245 to R252). -/

namespace Sys2Proof.Machine

/-! ### Answers -/

/-- Queues a message from this unit's bridge engine to a channel. -/
def bridgeMsg (s : State) (dest kind tag : Nat) (body : Bytes) : State :=
  queueMsg s
    { source := channelOf s 0, destSlot := channelSlot dest, destUnit := 0, kind := kind, tag := tag,
      bodies := [be 2 dest ++ zeros 2 ++ body], notBefore := none, deadline := none }

/-- A far error (R228, R235). -/
def sendFarError (s : State) (dest tag targetKind failedUnit status target detail first count : Nat) : State :=
  bridgeMsg s dest 4 tag (be 1 targetKind ++ be 1 failedUnit ++ be 2 status ++ be 4 target ++ be 4 detail ++
    be 2 first ++ be 2 count)

/-- A read response (R228). -/
def sendResponse (s : State) (dest tag status : Nat) (side : Bool) (typ target owner failedUnit detail : Nat)
    (value : Val) : State :=
  bridgeMsg s dest 3 tag (be 2 status ++ be 1 (b2n side) ++ be 1 typ ++ be 4 target ++ be 2 owner ++
    be 1 failedUnit ++ zeros 1 ++ be 4 detail ++ be 16 (if status = stDone then value.toNat else 0))

/-- A value in the 16-byte layout of R228: 16-byte types whole, others right-aligned and extended as in R183. -/
def wireValue (t : Nat) (v : Val) : Val :=
  if t = 0xD then v else BitVec.ofNat 128 (extendVal t v.toNat)

/-- The channel names an endpoint of this vehicle. -/
def localChannel (s : State) (c : Nat) : Bool := ownSlot s == some (channelSlot c)

/-! ### Announcements of routes (R251 to R253) -/

/-- A route's event becomes an announcement to its owner: one per kind and cycle, further ones raise its count. -/
def raiseRoute (s : State) (route : Nat) (e : Bytes) (kind code : Nat) (payload : Bytes) : State :=
  if !(rEnabled e && rFlag e 7) || rNotify e == 0 then s
  else match s.bridge.raised.find? (fun r => r.1 == route && r.2.1 == kind && r.2.2.1 == s.cyc.n) with
  | some r =>
    let bump := fun (b : Bytes) =>
      if field b 4 1 = kind ∧ field b 8 4 = route ∧ field b 12 4 = r.2.2.2 then splice b 5 (be 1 (min 255 (field b 5 1 + 1)))
      else b
    { s with bridge := { s.bridge with
        queue := s.bridge.queue.map (fun m => if m.kind = 5 then { m with bodies := m.bodies.map bump } else m)
        heldAnns := s.bridge.heldAnns.map (fun a => if a.source = channelOf s 0 then { a with body := bump a.body } else a) } }
  | none =>
    let s1 := announce s (rNotify e) kind route (nextSkim s) code payload
    { s1 with bridge := { s1.bridge with
        raised := s1.bridge.raised.filter (fun r => r.2.2.1 == s.cyc.n) ++ [(route, kind, s.cyc.n, nextSkim s)] } }

/-- Every enabled route with `ANNOUNCE` on a far key or image raises the event. -/
def raiseKey (s : State) (sel : Bytes → Bool) (kind code : Nat) (payload : Bytes) : State :=
  match s.route.table with
  | none => s
  | some t => (t.entries.filter (fun p => sel p.2)).foldl (fun s p => raiseRoute s p.1 p.2 kind code payload) s

/-! ### Far keys -/

/-- A far key has side effects (R242). -/
def sideEffects (s : State) (k : FarKey) : Bool :=
  match s.route.table with
  | none => false
  | some t => t.entries.any (fun p => rEnabled p.2 && rDir p.2 == 3 && rFlag p.2 3 && farKey p.2 == k)

/-- The number of a level 3 port: carrying unit, then 1 to 6 for S1 to S6 and 9 to 12 for C1 to C4. -/
def lockPort (e : Bytes) : Nat :=
  rUnit e * 16 + (if rDomain e = 7 ∨ rDomain e = 4 then rAddr e 0 1 else 8 + rAddr e 0 1)

/-- The access takes its port's lock (R246). -/
def needsLock (e : Bytes) : Bool :=
  rFlag e 4 && (rDomain e == 5 || rDomain e == 6 || (rDomain e == 7 && rAddr e 0 1 != 0))

/-- The access uses semaphore `GROUP` (R249). -/
def needsSem (e : Bytes) : Bool := rFlag e 4 && (rDomain e == 3 || (rDomain e == 7 && rAddr e 0 1 == 0))

/-- One name for a transaction's initiator and tag. -/
def txnId (channel tag : Nat) : Nat := channel * 65536 + tag

/-- Access units of an entry. -/
def unitCount (e : Bytes) : Nat := rWidth e / rUnitBytes e

/-! ### Semaphores (R248 to R250) -/

def semOf (s : State) (k : Nat) : Option SemSt := s.bridge.sems.find? (fun x => x.sem == k)

def setSem (s : State) (x : SemSt) : State :=
  { s with bridge := { s.bridge with sems := s.bridge.sems.filter (fun y => y.sem != x.sem) ++ [x] } }

def freeSem (s : State) (k : Nat) : State :=
  { s with bridge := { s.bridge with sems := s.bridge.sems.filter (fun y => y.sem != k) } }

def semLease : Nat := 100000000

/-- The operation was asked for here: its tag is held by this unit. -/
def semHere (s : State) (channel tag : Nat) : Bool :=
  (findTag s tag).any (fun x => x.kind == .semaphore && x.initiator == channel && x.state == .waiting)

/-- The reply to a semaphore operation: the tag's result here, or a message (R248). -/
def semReply (s : State) (channel tag op sem lease : Nat) : State :=
  if semHere s channel tag then
    let st := if op = 0x84 then stLockHeld else stDone
    holdResult s tag st (if op = 0x84 then [] else be 1 op ++ be 2 lease) id
  else bridgeMsg s channel 6 tag (be 1 op ++ zeros 1 ++ be 2 sem ++ be 2 0 ++ be 2 lease)

/-- An operation refused: `BAD_PARAMETER` for a release. -/
def semRefuse (s : State) (channel tag op sem : Nat) : State :=
  if semHere s channel tag then holdResult s tag (if op = 3 then stBadParameter else stLockHeld) [] id
  else semReply s channel tag 0x84 sem 0

/-- The next waiter of a free semaphore is granted. -/
def grantWaiter (s : State) (k : Nat) : State :=
  if (semOf s k).isSome then s
  else match s.bridge.semWaits.find? (fun w => w.port == k) with
    | none => s
    | some w =>
      let s1 := { s with bridge := { s.bridge with semWaits := dropOne w s.bridge.semWaits } }
      semReply (setSem s1 ⟨k, w.channel, s.clk + semLease⟩) w.channel w.tag 0x81 k 100

/-- An operation at the node that holds the semaphore. -/
def semOperate (s : State) (op sem wait channel tag : Nat) : State :=
  let held := semOf s sem
  let mine := match held with | none => false | some x => x.holder == channel
  match op with
  | 1 =>
    if held.isNone || mine then semReply (setSem s ⟨sem, channel, s.clk + semLease⟩) channel tag 0x81 sem 100
    else if wait = 0 then semRefuse s channel tag op sem
    else { s with bridge := { s.bridge with semWaits :=
      s.bridge.semWaits ++ [⟨sem, tag, channel, s.clk + wait * 1000000, channelSlot channel⟩] } }
  | 2 =>
    if mine then semReply (setSem s ⟨sem, channel, s.clk + semLease⟩) channel tag 0x82 sem 100
    else semRefuse s channel tag op sem
  | _ =>
    if mine then grantWaiter (semReply (freeSem s sem) channel tag 0x83 sem 0) sem
    else semRefuse s channel tag op sem

/-! ### Starting an access unit -/

def setTxn (s : State) (x y : FarTxn) : State :=
  { s with bridge := { s.bridge with farQueue := s.bridge.farQueue.map (fun z => if z = x then y else z) } }

def headTxn (s : State) (k : FarKey) : Option FarTxn := s.bridge.farQueue.find? (fun x => x.key == k)

/-- A write's value is converted once, as its first access unit starts (R208). -/
def convertWrite (s : State) (x : FarTxn) : State × FarTxn :=
  match x.write, x.conv with
  | some (v, t), none =>
    let c := convertOut s x.entry t v.toNat
    let y := { x with conv := some c.bits }
    (tookFree (noteClip (setTxn s x y) x.route c.clipped) 1, y)
  | _, _ => (s, x)

/-- The far field that a write puts there, its other bits from the shadow (R207, R238). -/
def writeField (s : State) (x : FarTxn) : Nat :=
  placeRaw x.entry (assemble (rOrder x.entry) (shadowBytes s x.entry)) (x.conv.getD 0)

/-- The bytes of the far field that a write puts there. -/
def writeBytes (s : State) (x : FarTxn) : Bytes := disassemble (rOrder x.entry) (rWidth x.entry) (writeField s x)

/-- The bytes of the access unit whose turn it is. -/
def unitBytes (s : State) (x : FarTxn) : Bytes :=
  bslice (writeBytes s x) (x.unitsDone * rUnitBytes x.entry) (rUnitBytes x.entry)

/-- A write phase rather than a read phase. -/
def writing (x : FarTxn) : Bool := x.write.isSome && !x.shadowRead

/-- Sends Mr for a domain 0x3 access, under a session id of bytes 0 to 5 of the unit id, 0x0000 and the count of sessions; a write with offset + width bytes composed from the shadow; more than 64 sessions wait
(R276). -/
def sendMr (s : State) (x : FarTxn) : State × Bool :=
  if 64 ≤ s.veh.sessions.length then (s, false)
  else
    let ip := rAddr x.entry 4 4
    let i := ifaceFor s ip
    let count := (s.veh.sessionCount + 1) % 2 ^ 64
    let no := s.unitId % 2 ^ 48 * 2 ^ 80 + count
    let before := (List.range (rByteOff x.entry + x.unitsDone * rUnitBytes x.entry)).map (fun k => (shadowByte s x.entry k).getD 0)
    let data := if writing x then before ++ unitBytes s x else []
    let limit := s.clk + ((iface s i).elim 500 (·.replyTimeout)) * 1000000
    let s1 := { s with veh := { s.veh with
      sessionCount := count, sessions := s.veh.sessions ++ [⟨no, x.key, ip, min limit x.deadline⟩] } }
    (sendMd s1 0x4D72 (rAddr x.entry 0 4) ip no 0 data, true)

/-- An earlier access to the same CANopen node has still to start (R306). -/
def nodeWaits (s : State) (x : FarTxn) : Bool :=
  (s.bridge.farQueue.takeWhile (fun y => y != x)).any (fun y => !y.started && rDomain y.entry == 6 &&
    rUnit y.entry == rUnit x.entry && rAddr y.entry 0 2 == rAddr x.entry 0 2)

/-- The next access unit of a transaction goes to its far object. Device channels, CANopen objects and serial
ports take it when their own rows come round, and so does the unit that carries the port (R200). No new transfer starts on a
CAN port whose lock is held or asked for (R246, R308), and the accesses to one node start in their order (R306). -/
def startUnit (s : State) (x : FarTxn) : State :=
  if rDomain x.entry = 3 ∧ rUnit x.entry + 1 = s.unitNo then
    let (s1, ok) := sendMr s x
    if ok then setTxn s1 x { x with started := true } else s1
  else if rDomain x.entry = 6 ∧ rUnit x.entry + 1 = s.unitNo then
    let c := rAddr x.entry 0 1
    let node := rAddr x.entry 1 1
    if sdoBusy s c node || (!x.started && nodeWaits s x) || ((portLocked s (8 + c) || portWaited s (8 + c)) && !(needsLock x.entry || x.locked)) then
      setTxn s x { x with started := false }
    else
      let data := if writing x then unitBytes s x else []
      startSdo (setTxn s x { x with started := true }) c
        { node := node, access := true, key := x.key, index := rAddr x.entry 2 2
          sub := rAddr x.entry 4 1 + x.unitsDone, write := writing x, rest := data, got := []
          size := rUnitBytes x.entry, toggle := false, segmented := false, until_ := 0 }
        (needsLock x.entry || x.locked)
  else setTxn s x { x with started := true }

/-! ### Ends of a transaction -/

def dropTxn (s : State) (x : FarTxn) : State :=
  { s with bridge := { s.bridge with farQueue := dropOne x s.bridge.farQueue } }

/-- Lock and semaphore held for the transaction are released (R246, R249, R250). -/
def releaseFor (s : State) (x : FarTxn) : State :=
  let s1 := if x.locked then s else flushCans
    { s with bridge := { s.bridge with
        locks := s.bridge.locks.filter (fun l => !(l.port == lockPort x.entry && l.holder == txnId x.replyTo x.tag))
        lockWaits := s.bridge.lockWaits.filter (fun w => !(w.channel == x.replyTo && w.tag == x.tag)) } }
  if x.semHeld then
    match semOf s1 (rGroup x.entry) with
    | some m => if m.leaseEnd = 0 ∧ m.holder = x.replyTo then grantWaiter (freeSem s1 m.sem) m.sem else s1
    | none => s1
  else s1

/-- The result goes to the initiator: a held result or a message; a locked sequence takes it itself. A read's result that
comes after its tag's end is discarded or orphaned (R244), by the far key as it was at the acceptance (R220). -/
def answerTxn (s : State) (x : FarTxn) (status failedUnit detail : Nat) (value : Val) : State :=
  let side := x.side
  if x.write.isSome then
    if x.localTag then
      (if status = stDone then releaseTag s x.tag
       else match findTag s x.tag with
         | none => s
         | some t => if t.kind = .postedWrite ∧ t.initiator = x.replyTo then failWrite s t status failedUnit detail else s)
    else if status = stDone then s
    else sendFarError s x.replyTo x.tag 0 failedUnit status x.route detail 0 0
  else if x.localTag then
    if (findTag s x.tag).any (fun t => t.kind == .read && t.initiator == x.replyTo && t.state == .waiting) then
      holdResult s x.tag status (be 4 detail) (fun t => { t with
        value := wireValue (rSignal x.entry % 16) value, sideEffect := side && decide (status = stDone), farRoute := x.route, owner := rNotify x.entry })
    else if side ∧ status = stDone then
      orphan s (wireValue (rSignal x.entry % 16) value) x.route x.route x.tag x.replyTo (rNotify x.entry)
    else { s with bridge := { s.bridge with droppedResults := count32 s.bridge.droppedResults } }
  else sendResponse s x.replyTo x.tag status side (rSignal x.entry % 16) x.route (rNotify x.entry) failedUnit detail
    (wireValue (rSignal x.entry % 16) value)

/-- Replaces a locked sequence's record. -/
def setLocked (s : State) (tag : Nat) (f : LockedSeq → Option LockedSeq) : State :=
  { s with bridge := { s.bridge with locked := s.bridge.locked.filterMap (fun q => if q.tag = tag then f q else some q) } }

/-- A locked sequence ends: its lock goes and its result is held. -/
def endLocked (s : State) (q : LockedSeq) (status detail : Nat) : State :=
  let s1 := { s with bridge := { s.bridge with
    locks := s.bridge.locks.filter (fun l => l.port != q.port)
    locked := s.bridge.locked.filter (fun y => y.tag != q.tag) } }
  holdResult (flushCans s1) q.tag status (if status = stDone then q.results else be 4 detail) id

/-- The transaction of a locked sequence's next route; a bit-field write without a shadow reads the field first (R238). -/
def lockedTxn (s : State) (q : LockedSeq) (i : Nat) (e : Bytes) (v : Option Val) (owner : Nat) : FarTxn :=
  { key := farKey e, route := i, entry := e, replyTo := owner, tag := q.tag, localTag := true, srcSlot := 0,
    write := v.map (fun v => (v, rSignal e % 16)), conv := none, deadline := s.clk + 5000000, unitsDone := 0, got := [],
    started := false, shadowRead := v.isSome && rBitLen e != 0 && (shadowOf s e).isNone, locked := true
    semHeld := false, authority := 1, side := sideEffects s (farKey e) }

/-- The lock of a port, for a transaction that needs it: held by it, or waited for. -/
def lockReady (s : State) (x : FarTxn) : Bool :=
  !needsLock x.entry || x.locked ||
    s.bridge.locks.any (fun l => l.port == lockPort x.entry && l.holder == txnId x.replyTo x.tag)

def waitLock (s : State) (x : FarTxn) : State :=
  if s.bridge.lockWaits.any (fun w => w.channel == x.replyTo && w.tag == x.tag) then s
  else { s with bridge := { s.bridge with
    lockWaits := s.bridge.lockWaits ++ [⟨lockPort x.entry, x.tag, x.replyTo, x.deadline, x.srcSlot⟩] } }

/-- The semaphore's state for an access: 0 proceed under the own lease, 1 free, 2 held by another (R249). -/
def semState (s : State) (x : FarTxn) : Nat :=
  match semOf s (rGroup x.entry) with
  | none => 1
  | some m => if m.holder = x.replyTo then 0 else 2

/-- The head of a key's queue starts if it can (R234, R246, R249); `fin` ends it when it cannot start. -/
def pumpWith (fin : State → FarTxn → Nat → Nat → Nat → Val → State) (s : State) (key : FarKey) : State :=
  match headTxn s key with
  | none => s
  | some y =>
    if y.started then s
    else if y.deadline ≤ s.clk then
      (if needsSem y.entry && semState s y == 2 then fin s y stLockHeld 0 0 0 else fin s y stFarTimeout 0 6 0)
    else if y.shadowRead && y.side then fin s y stBadParameter 0 4 0
    else if (fieldRefusal s y.entry).isSome then fin s y stFarError 0 ((fieldRefusal s y.entry).getD 0) 0
    else if !lockReady s y then waitLock s y
    else if needsSem y.entry && semState s y == 2 then s
    else
      let take := needsSem y.entry && semState s y == 1
      let y' := { y with semHeld := take }
      let s1 := if take then setSem s ⟨rGroup y.entry, y.replyTo, 0⟩ else s
      let (s2, z) := convertWrite (setTxn s1 y y') y'
      startUnit s2 z

/-- Read-ahead values of a far key go when a write of it ends (R234, R242). -/
def dropAhead (s : State) (k : FarKey) : State :=
  { s with bridge := { s.bridge with readAheads := s.bridge.readAheads.filter (fun r => farKey (entryAt s r.route) != k) } }

/-- The bytes that a far transaction returned, from an offset of its far object on, are kept for the other enabled routes
with `READABLE` whose fields they hold, for 250 ms, unless the far key has side effects; they are the shadows of those fields
too (R238, R242). A value that saturates is logged as its route's (R208). -/
def keepAhead (s : State) (k : FarKey) (route off : Nat) (data : Bytes) : State :=
  match s.route.table with
  | none => s
  | some t =>
    if sideEffects s k then s
    else ((enabledRoutes t 3).filter (fun p => p.1 != route && rFlag p.2 1 && farKey p.2 == k &&
        decide (off ≤ rByteOff p.2) && decide (rByteOff p.2 + rWidth p.2 ≤ off + data.length))).foldl (fun s p =>
      let n := assemble (rOrder p.2) (bslice data (rByteOff p.2 - off) (rWidth p.2))
      let s1 := setShadow s p.2 n
      match convertIn p.2 (rSignal p.2 % 16) (rawOf p.2 n) with
      | none => s1
      | some c =>
        let a : ReadAhead := ⟨p.1, wireValue (rSignal p.2 % 16) (BitVec.ofNat 128 c.bits), s.clk + 250000000⟩
        let s2 := noteClip s1 p.1 c.clipped
        { s2 with bridge := { s2.bridge with readAheads := s2.bridge.readAheads.filter (fun r => r.route != p.1) ++ [a] } }) s

/-- Ends the head transaction, answers it, and starts the next of its key. -/
def finish : Nat → State → FarTxn → Nat → Nat → Nat → Val → State
  | 0, s, _, _, _, _, _ => s
  | k + 1, s, x, status, failedUnit, detail, value =>
    let pump := pumpWith (finish k)
    let s1 := releaseFor (dropTxn (if x.write.isSome then dropAhead s x.key else s) x) x
    if x.locked then
      match s1.bridge.locked.find? (fun q => q.tag == x.tag) with
      | none => pump s1 x.key
      | some q =>
        if status ≠ stDone then pump (endLocked s1 q status detail) x.key
        else
          let res := q.results ++ (if x.write.isSome then [] else be 16 (wireValue (rSignal x.entry % 16) value).toNat)
          match q.routes with
          | [] => pump (endLocked s1 { q with results := res } stDone 0) x.key
          | (i, e, v) :: rest =>
            let y := lockedTxn s1 q i e v x.replyTo
            let s2 := setLocked s1 q.tag (fun q => some { q with routes := rest, results := res })
            let s3 := { s2 with bridge := { s2.bridge with farQueue := y :: s2.bridge.farQueue } }
            pump (pump s3 x.key) y.key
    else pump (answerTxn s1 x status failedUnit detail value) x.key

def finishTxn (s : State) (x : FarTxn) (status failedUnit detail : Nat) (value : Val) : State :=
  finish (s.bridge.farQueue.length + 20) s x status failedUnit detail value

/-- The head of a key's queue starts if it can. -/
def pumpKey (s : State) (key : FarKey) : State := pumpWith finishTxn s key

/-- Every key with a waiting transaction gets its chance. -/
def pumpAll (s : State) : State := ((s.bridge.farQueue.map (·.key)).eraseDups).foldl pumpKey s

/-- Adds a transaction behind those of its key. -/
def enqueueFar (s : State) (x : FarTxn) : State :=
  pumpKey { s with bridge := { s.bridge with farQueue := s.bridge.farQueue ++ [x] } } x.key

/-- The access of a locked sequence goes before those of its key that the lock holds back (R246, R247). -/
def enqueueFirst (s : State) (x : FarTxn) : State :=
  pumpKey { s with bridge := { s.bridge with farQueue := x :: s.bridge.farQueue } } x.key

/-- The value of a completed read, or the failure of its conversion (R208, R235). -/
def readResult (x : FarTxn) (got : Bytes) : Nat × Option Conv :=
  let n := assemble (rOrder x.entry) (fit got (rWidth x.entry))
  (n, convertIn x.entry (rSignal x.entry % 16) (rawOf x.entry n))

/-- One access unit is answered (R235, R238, R245). The units of a write that are written are in the shadow at once. No unit is
started once the remaining time has elapsed (R234). -/
def completeUnit (s : State) (key : FarKey) (a : FarAnswer) : State :=
  match headTxn s key with
  | none => s
  | some x =>
    if !x.started then s
    else match a with
    | .error d => finishTxn s x stFarError x.unitsDone d 0
    | .timeout => finishTxn s x stFarTimeout x.unitsDone 0 0
    | .ok data =>
      let got := if writing x then x.got else x.got ++ fit data (rUnitBytes x.entry)
      let x' := { x with unitsDone := x.unitsDone + 1, got := got }
      if x'.unitsDone < unitCount x.entry then
        let s := if writing x then setShadowAt s x.entry (x.unitsDone * rUnitBytes x.entry) (unitBytes s x) else s
        (if x.deadline ≤ s.clk then finishTxn s x stFarTimeout x'.unitsDone 6 0
         else startUnit (setTxn s x x') x')
      else if writing x then finishTxn (noteField s x.entry (writeField s x)) x stDone 0 0 0
      else
        let (n, v) := readResult x got
        let s1 := keepAhead (setShadow s x.entry n) x.key x.route (rByteOff x.entry) got
        if x.shadowRead then
          let y := { x with shadowRead := false, unitsDone := 0, got := [] }
          if x.deadline ≤ s.clk then finishTxn s1 x stFarTimeout 0 6 0 else startUnit (setTxn s1 x y) y
        else match v with
          | none => finishTxn s1 x stBadParameter 0 6 0
          | some v => finishTxn (noteClip s1 x.route v.clipped) x stDone 0 0 (BitVec.ofNat 128 v.bits)

/-- The accesses that `sel` picks end with `FAR_ERROR` and a detail, in order. -/
def failAccesses (sel : FarTxn → Bool) (detail : Nat) : Nat → State → State
  | 0, s => s
  | k + 1, s =>
    match s.bridge.farQueue.find? sel with
    | none => s
    | some x => failAccesses sel detail k (finishTxn s x stFarError x.unitsDone detail 0)

/-- The accesses that `sel` picks and whose remaining time has elapsed end unsent with `FAR_TIMEOUT`, in order (R234). -/
def lateAccesses (sel : FarTxn → Bool) : Nat → State → State
  | 0, s => s
  | k + 1, s =>
    match s.bridge.farQueue.find? (fun x => sel x && decide (x.deadline ≤ s.clk)) with
    | none => s
    | some x => lateAccesses sel k (finishTxn s x stFarTimeout x.unitsDone 6 0)

/-- An access to a device channel of this unit. -/
def onChannel (s : State) (ch : Nat) (e : Bytes) : Bool :=
  rDomain e == 7 && rAddr e 0 1 == 0 && rAddr e 1 2 == ch && rUnit e + 1 == s.unitNo

/-- The on-demand accesses of a channel end with `FAR_ERROR` (R280, R281). -/
def failChannel (s : State) (ch detail : Nat) : State :=
  pumpAll (failAccesses (fun x => onChannel s ch x.entry) detail s.bridge.farQueue.length s)

/-! ### Accepting an access at the far side (R227, R235, R238) -/

/-- Why an access to a route of this node is refused: status and detail; none when it is accepted. -/
def accessRefusal (s : State) (i typ : Nat) (isWrite : Bool) (authority : Nat) : Option (Nat × Nat) :=
  let e := entryAt s i
  if rEmpty e || !rEnabled e then some (stRouteMissing, 0)
  else if rDir e ≠ 3 then some (stBadParameter, 2)
  else if rDomain e = 8 then some (stBadParameter, 5)
  else if rSignal e % 16 ≠ typ then some (stBadParameter, 1)
  else if !(if isWrite then rFlag e 2 else rFlag e 1) then some (stBadParameter, 2)
  else if !isWrite && authority == 0 && sideEffects s (farKey e) then some (stAuthorityLow, 0)
  else if isWrite && rBitLen e != 0 && (shadowOf s e).isNone && sideEffects s (farKey e) then some (stBadParameter, 4)
  else none

/-- A transaction on a route of this node. A bit-field write without a shadow reads the field first (R238). -/
def accessTxn (s : State) (i replyTo tag : Nat) (local_ : Bool) (write : Option (Val × Nat)) (deadline authority : Nat) :
    FarTxn :=
  let e := entryAt s i
  { key := farKey e, route := i, entry := e, replyTo := replyTo, tag := tag, localTag := local_,
    srcSlot := channelSlot replyTo, write := write, conv := none, deadline := deadline, unitsDone := 0, got := [],
    started := false, shadowRead := write.isSome && rBitLen e != 0 && (shadowOf s e).isNone
    locked := false, semHeld := false, authority := authority, side := sideEffects s (farKey e) }

/-- A read-ahead value serves a read of its route, but none accepted behind a write of its far key (R234, R242). -/
def readAhead (s : State) (i : Nat) : Option ReadAhead :=
  if s.bridge.farQueue.any (fun x => x.write.isSome && x.key == farKey (entryAt s i)) then none
  else s.bridge.readAheads.find? (fun r => r.route == i && s.clk < r.until_)

/-! ### Far writes of OUT routes (R237) -/

/-- The far write carried the value before the one in force: its skim is earlier than the one in which the latest written
value first appears. -/
def carriedBefore (s : State) (id : Nat) (skim : Option Nat) : Bool :=
  match skim, Tab.get? s.skim.writerFrom id with
  | some n, some m => cycBefore n m
  | _, _ => false

/-- The signal of an OUT route is marked `WRITE_FAILED`, and the initiator of the posted write whose value the far write of
skim `skim` carried is told once. -/
def markFailed (s : State) (i : Nat) (e : Bytes) (skim : Option Nat) (status failedUnit detail : Nat) : State :=
  let id := rSignal e
  let s1 := adjRoute s i (fun r => { r with failed := true })
  let forced := s1.skim.forces.any (fun f => f.id == id)
  let old := carriedBefore s1 id skim
  if !ownSignal s id then s1
  else
    let s2 := { s1 with skim := { s1.skim with
      failed := if s1.skim.failed.contains id then s1.skim.failed else s1.skim.failed ++ [id]
      writersBefore := if forced || !old then s1.skim.writersBefore else Tab.erase s1.skim.writersBefore id
      writers := if forced || old then s1.skim.writers else Tab.erase s1.skim.writers id } }
    match (if forced then none else Tab.get? (if old then s1.skim.writersBefore else s1.skim.writers) id) with
    | some (ch, tag) => if localChannel s ch then s2 else sendFarError s2 ch tag 2 failedUnit status id detail 0 0
    | none => s2

/-- A far write of an OUT route succeeded; the signal is good again once all its OUT routes have (R237). -/
def markWritten (s : State) (i : Nat) (e : Bytes) (raw : Nat) : State :=
  let id := rSignal e
  let s1 := adjRoute s i (fun r => { r with failed := false, rawWritten := some raw })
  let others : List (Nat × Bytes) := match s1.route.table with
    | none => []
    | some t => (enabledRoutes t 2).filter (fun p => rSignal p.2 == id && (rDomain p.2 == 5 || rDomain p.2 == 7))
  if others.any (fun p => (routeStateOf s1 p.1).failed) then s1
  else { s1 with skim := { s1.skim with failed := s1.skim.failed.filter (· != id) } }

end Sys2Proof.Machine
end

