-- ==== Sys2Proof/Machine/Float.lean ====
section
/-! DEFINITION. Floats and generic serial ports: the rows of the float instructions, faults and restarts, bus
cycles and transactions (R298 to R301, R313 to R324). -/

namespace Sys2Proof.Machine

/-! ### Transactions of a serial port (R299, R318) -/

/-- A far object of this unit's port S1 to S6. -/
def onSerial (s : State) (p : Nat) (e : Bytes) : Bool :=
  rDomain e == 7 && rAddr e 0 1 == p && rUnit e + 1 == s.unitNo

/-- An image's data is replaced; its freshness stays. -/
def storeImage (s : State) (k : FarKey) (d : Bytes) : State :=
  let fresh := match imageOf s.route.images k with | none => false | some x => x.fresh
  { s with route := { s.route with images := setImage s.route.images (replaceImage s k d fresh) } }

/-- The bytes a transaction writes. -/
def serialData (s : State) (t : SerialTxn) : Bytes :=
  let w := rUnitBytes t.entry
  if t.kind = 2 then
    (match headTxn s t.key with | some x => if t.write then unitBytes s x else [] | none => [])
  else if t.write then bslice (disassemble (rOrder t.entry) (rWidth t.entry) t.value) (t.unit * w) w else []

/-- A cyclic transaction that takes its port's lock: a route with `ATOMIC_GROUP` on its far key (R209, R210, R246). -/
def lockedCyclic (s : State) (t : SerialTxn) : Bool :=
  t.kind != 2 && (rFlag t.entry 4 || t.raws.any (fun r => rFlag r.2.1 4) ||
    (t.kind == 1 && (match s.route.table with
      | none => false
      | some r => (enabledRoutes r 1).any (fun p => rFlag p.2 4 && farKey p.2 == t.key))))

/-- The lock of a cyclic access of the port ends. -/
def releaseCyclic (s : State) (p : Nat) : State :=
  { s with bridge := { s.bridge with locks := s.bridge.locks.filter (fun l => !(l.port == ownPort s p && l.holder == 0)) } }

/-- Hands a transaction to the port's float, with `TRANSACTION` (R314, R318). -/
def handTxn (s : State) (p : Nat) (t : SerialTxn) : State :=
  let w := rUnitBytes t.entry
  let view : FloatTxn := ⟨b2n t.write, rAddr t.entry 1 2, rAddr t.entry 3 1, rAddr t.entry 4 4 + t.unit * w, w, t.attempt⟩
  let f := floatOf s (portFloat p)
  let s1 := setFloat s (portFloat p) (latchBit { f with txn := some view, txnData := fit (serialData s t) 16 } 2)
  setSport s1 p (fun q => { q with held := some t, late := false })

/-- The bus cycle ends once it has no transaction left: its read keys are fresh if their reads succeeded (R299). -/
def closeCycle (s : State) (p : Nat) : State :=
  let q := sport s p
  let busy := q.work.any (fun t => t.kind != 2) || (match q.held with | none => false | some t => t.kind != 2)
  if q.cycleOf.isNone || busy then s
  else
    let mine := fun (x : FarImage) => x.key.domain == 7 && x.key.unit + 1 == s.unitNo && field x.key.addr 0 1 == p
    let s1 := { s with route := { s.route with images := s.route.images.map (fun x =>
      if mine x then { x with
        fresh := q.freshNow.contains x.key, marked := s.time.now
        freshBefore := if x.marked = s.time.now then x.freshBefore else x.fresh } else x) } }
    setSport s1 p (fun q => { q with cycleOf := none, freshNow := [] })

/-- The on-demand access that a transaction serves. -/
def demandOf (s : State) (t : SerialTxn) : Option FarTxn :=
  (headTxn s t.key).bind (fun x => if x.started && x.tag == t.tag then some x else none)

/-- A transaction fails for good. -/
def failSerial (s : State) (t : SerialTxn) (status detail : Nat) : State :=
  match t.kind with
  | 0 => t.raws.foldl (fun s (r : Nat × Bytes × Nat) => markFailed s r.1 r.2.1 t.skim status t.unit detail) s
  | 1 => s
  | _ => if (demandOf s t).isNone then s
    else completeUnit s t.key (if status = stFarTimeout then .timeout else .error detail)

/-- A transaction's unit succeeded: the next unit goes to the front, or the access is complete. -/
def finishSerial (s : State) (p : Nat) (t : SerialTxn) (data : Bytes) : State :=
  let got := t.got ++ data.take (rUnitBytes t.entry)
  let more := t.unit + 1 < unitCount t.entry
  let next : SerialTxn := { t with unit := t.unit + 1, got := got, attempt := 0 }
  match t.kind with
  | 0 =>
    if more then
      let k := rUnitBytes t.entry
      setSport (setShadowAt s t.entry (t.unit * k) (bslice (disassemble (rOrder t.entry) (rWidth t.entry) t.value) (t.unit * k) k)) p
        (fun q => { q with work := next :: q.work })
    else t.raws.foldl (fun s (r : Nat × Bytes × Nat) => markWritten s r.1 r.2.1 r.2.2) (setShadow s t.entry t.value)
  | 1 =>
    if more then setSport s p (fun q => { q with work := next :: q.work })
    else
      let s1 := setShadow (storeImage s t.key got) t.entry (assemble (rOrder t.entry) got)
      setSport s1 p (fun q => { q with freshNow := q.freshNow ++ [t.key] })
  | _ => if (demandOf s t).isNone then s else completeUnit s t.key (.ok (data.take (rUnitBytes t.entry)))

/-- `TEND` on a serial port (R318, R290). A refused response sets `FCS_ERR` or `RUNT`: class 0x03 does not tell a check error
from a frame below its minimum, and the program's code does so as it likes, so a free truth value decides (log entry 193). -/
def endSerial (s : State) (p cls code : Nat) (data : Bytes) : State :=
  match (sport s p).held with
  | none => s
  | some t =>
    let runt := Config.freeBit s.freeCount
    let s1 := setSport (tookFree s 1) p (fun q => { q with
      held := none
      lastDemand := decide (t.kind = 2)
      late := decide (cls = 6)
      port := if cls = 3 then q.port.mark (if runt then 0 else 2) else if cls = 6 then q.port else q.port.countGood })
    let again : Bool := (cls == 3 || cls == 6) && decide (t.attempt < (sportCfg s p).retries) &&
      (t.kind != 2 || (demandOf s t).isSome)
    let s1 := if t.kind ≠ 2 ∧ !again ∧ !(cls = 0 ∧ t.unit + 1 < unitCount t.entry) then releaseCyclic s1 p else s1
    let s2 :=
      if cls = 0 then finishSerial s1 p t data
      else if again then
        setSport s1 p (fun q => { q with work := { t with attempt := t.attempt + 1 } :: q.work })
      else if cls = 6 then failSerial s1 t stFarTimeout 0
      else failSerial s1 t stFarError (cls * 2 ^ 24 + code)
    closeCycle s2 p

/-- Everything outstanding or queued on a port ends with `FAR_ERROR` (R300, R301). -/
def failPort (s : State) (p detail : Nat) : State :=
  let q := sport s p
  let l := (match q.held with | none => [] | some t => [t]) ++ q.work
  let s1 := setSport (releaseCyclic s p) p (fun q => { q with held := none, work := [], freshNow := [] })
  let s2 := (l.filter (fun t => t.kind != 2)).foldl (fun s t => failSerial s t stFarError detail) s1
  let s3 := failAccesses (fun x => onSerial s p x.entry) detail s2.bridge.farQueue.length s2
  let mine := fun (x : FarImage) => x.key.domain == 7 && x.key.unit + 1 == s.unitNo && field x.key.addr 0 1 == p
  let s4 := { s3 with route := { s3.route with images := s3.route.images.map (fun x =>
    if mine x then { x with fresh := false } else x) } }
  setSport s4 p (fun q => { q with cycleOf := none })

/-- At 5 ms the lock of a cyclic access ends: its units not yet sent are not sent, and it ends as timed out (R246). -/
def endCyclic (s : State) (p : Nat) : State :=
  let q := sport s p
  let fail := fun (s : State) (t : SerialTxn) => closeCycle (failSerial s t stFarTimeout 7) p
  match q.held.filter (fun t => t.kind != 2), q.work.find? (fun t => t.kind != 2) with
  | some t, _ => fail (setSport s p (fun q => { q with held := some { t with kind := 2, tag := 0, raws := [] } })) t
  | none, some t => fail (setSport s p (fun q => { q with work := dropOne t q.work })) t
  | none, none => s

/-! ### Faults and restarts (R322) -/

def hourNs : Nat := 3600000000000

/-- A float fault: logged, the port's accesses end, and the float stops (R301, R322). -/
def floatFault (s : State) (k code detail index : Nat) : State :=
  let s1 := report s 0x0702 13 code (be 1 k ++ be 2 detail ++ be 2 index)
  let s2 := failPort s1 (k - 5) (4 * 2 ^ 24 + code)
  let f := floatOf s2 k
  let s3 := setFloat s2 k { f with
    running := false, txn := none, ended := none, waiting := none, stoppedAt := some s.clk
    faults := f.faults.filter (fun t => s.clk < t + hourNs) ++ [s.clk] }
  setSport s3 (k - 5) (fun q => { q with port := q.port.setUp false })

/-- FLOAT_RESTART: a stopped float restarts after 1 s, but not after its third fault within an hour (R311, R322). -/
def execFloatRestart (k : Nat) (s : State) : Res :=
  let f := floatOf s k
  .next (match f.stoppedAt, f.prog with
    | some t, some p =>
      if t + 1000000000 ≤ s.clk ∧ f.faults.length < 3 then
        setSport (setFloat s k (startProgram f p p.entry)) (k - 5) (fun q => { q with port := q.port.setUp true })
      else s
    | _, _ => s)

/-! ### One instruction of a serial float -/

def floatEnv (s : State) (k : Nat) : FEnv :=
  let c := sportCfg s (k - 5)
  { now := s.time.now, clk := s.clk, timeout := c.timeout, charNs := c.bitNs * c.charBits, profile := false
    reqKind := 0, channel := 0, arg := 0, respLength := 0, free := s.freeCount }

/-- After `TEND` the port takes the result. -/
def settleEnd (s : State) (k : Nat) (f : FloatSt) : State :=
  match f.ended with
  | none => s
  | some (cls, code) => endSerial (setFloat s k { f with ended := none }) (k - 5) cls code f.txnData

/-- The float's instruction at its program counter, when it is the row's: executed, or a fault. A float that
waits or is stopped executes nothing. Each execution takes one free value. The result of an earlier `TEND` was
taken when it ended. -/
def floatRow (s : State) (k op : Nat) (act : Word32 → FEnv → FloatSt → FRes) : State :=
  let f := { floatOf s k with ended := none }
  match (if f.running && f.waiting.isNone && decide (6 ≤ k) && decide (k ≤ 11) then f.prog.bind (fun p => p.code[f.pc]?) else none) with
  | none => s
  | some w =>
    if wOp w ≠ op then s
    else match floatStep (floatEnv s k) f w act with
      | .error (c, d) => floatFault s k c d f.pc
      | .ok g => settleEnd (tookFree (setFloat s k g) 1) k g

/-- NOP (R313). -/
def execFNop (k : Nat) (s : State) : Res := .next (floatRow s k 0x00 fNop)
/-- LDI (R313). -/
def execFLdi (k : Nat) (s : State) : Res := .next (floatRow s k 0x01 fLdi)
/-- LDH (R313). -/
def execFLdh (k : Nat) (s : State) : Res := .next (floatRow s k 0x02 fLdh)
/-- MOV (R313). -/
def execFMov (k : Nat) (s : State) : Res := .next (floatRow s k 0x03 fMov)
/-- ADD (R313). -/
def execFAdd (k : Nat) (s : State) : Res := .next (floatRow s k 0x04 fAdd)
/-- ADDI (R313). -/
def execFAddi (k : Nat) (s : State) : Res := .next (floatRow s k 0x05 fAddi)
/-- SUB (R313). -/
def execFSub (k : Nat) (s : State) : Res := .next (floatRow s k 0x06 fSub)
/-- AND (R313). -/
def execFAnd (k : Nat) (s : State) : Res := .next (floatRow s k 0x07 fAnd)
/-- OR (R313). -/
def execFOr (k : Nat) (s : State) : Res := .next (floatRow s k 0x08 fOr)
/-- XOR (R313). -/
def execFXor (k : Nat) (s : State) : Res := .next (floatRow s k 0x09 fXor)
/-- SHL (R313). -/
def execFShl (k : Nat) (s : State) : Res := .next (floatRow s k 0x0A fShl)
/-- SHR (R313). -/
def execFShr (k : Nat) (s : State) : Res := .next (floatRow s k 0x0B fShr)
/-- LD (R313, R322). -/
def execFLd (k : Nat) (s : State) : Res := .next (floatRow s k 0x0C fLd)
/-- ST (R313, R322). -/
def execFSt (k : Nat) (s : State) : Res := .next (floatRow s k 0x0D fSt)
/-- LDB (R313, R322). -/
def execFLdb (k : Nat) (s : State) : Res := .next (floatRow s k 0x0E fLdb)
/-- STB (R313, R322). -/
def execFStb (k : Nat) (s : State) : Res := .next (floatRow s k 0x0F fStb)
/-- CMP (R313). -/
def execFCmp (k : Nat) (s : State) : Res := .next (floatRow s k 0x10 fCmp)
/-- CMPI (R313). -/
def execFCmpi (k : Nat) (s : State) : Res := .next (floatRow s k 0x11 fCmpi)
/-- TMR (R313). -/
def execFTmr (k : Nat) (s : State) : Res := .next (floatRow s k 0x20 fTmr)
/-- TTA (R313, R316). -/
def execFTta (k : Nat) (s : State) : Res := .next (floatRow s k 0x21 fTta)
/-- PTA (R313, R316). -/
def execFPta (k : Nat) (s : State) : Res := .next (floatRow s k 0x22 fPta)
/-- WAIT (R315). -/
def execFWait (k : Nat) (s : State) : Res := .next (floatRow s k 0x23 fWait)
/-- IN (R313, R317). -/
def execFIn (k : Nat) (s : State) : Res := .next (floatRow s k 0x24 fIn)

/-- The value of a byte on a line of 7 or 8 data bits (R298). -/
def onLine (c : SPortCfg) (b : Byte) : Byte := if c.dataBits = 7 then b &&& 0x7F else b

/-- The bytes that a write of `TX_DATA` queued leave the port in order while the driver is enabled (R317). A frame's bytes after
its 1,024th do not leave, and the frame sets `OVERSIZE` (R290, R298; log entry 198). A `FLUSH` begins a frame anew. -/
def sendSerial (s t : State) (k : Nat) : State :=
  let f := floatOf s k
  let g := floatOf t k
  match f.prog.bind (fun p => p.code[f.pc]?) with
  | none => t
  | some w =>
    let acts : Bool := g.running && f.waiting.isNone && f.running && wOp w == 0x25
    if acts ∧ wImm w = 2 ∧ f.lineCtrl % 2 = 1 then
      let q := sport t (k - 5)
      let t1 := setSport t (k - 5) (fun q => { q with
        sentBytes := q.sentBytes + 1, port := if q.sentBytes = 1024 then q.port.mark 1 else q.port })
      if q.sentBytes < 1024 then emit t1 [.serial (k - 5) (onLine (sportCfg s (k - 5)) ((fReg f (wA w)).setWidth 8))] else t1
    else if acts ∧ wImm w = 4 ∧ (fReg f (wA w)).getLsbD 1 then setSport t (k - 5) (fun q => { q with frameBytes := 0 })
    else t

/-- OUT (R313, R317). -/
def execFOut (k : Nat) (s : State) : Res := .next (sendSerial s (floatRow s k 0x25 fOut) k)
/-- TGET (R318). -/
def execFTget (k : Nat) (s : State) : Res := .next (floatRow s k 0x26 fTget)
/-- TPUT (R318). -/
def execFTput (k : Nat) (s : State) : Res := .next (floatRow s k 0x27 fTput)
/-- TEND (R318). -/
def execFTend (k : Nat) (s : State) : Res := .next (floatRow s k 0x28 fTend)
/-- CRC (R313). -/
def execFCrc (k : Nat) (s : State) : Res := .next (floatRow s k 0x29 fCrc)
/-- FLOAT_TIME: the instruction `TIME` (R313). -/
def execFTime (k : Nat) (s : State) : Res := .next (floatRow s k 0x2B fTime)
/-- BR (R313). -/
def execFBr (k : Nat) (s : State) : Res := .next (floatRow s k 0x30 fBr)
/-- LOOP (R313). -/
def execFLoop (k : Nat) (s : State) : Res := .next (floatRow s k 0x31 fLoop)

/-! ### Events of the floats (R314, R316, R317) -/

/-- FLOAT_TIMER_EXPIRY. -/
def execFloatTimerExpiry (k : Nat) (s : State) : Res :=
  let f := floatOf s k
  .next (match f.timer with
    | some t => if t ≤ s.clk ∧ f.running then setFloat s k (latchBit { f with timer := none } 0) else s
    | none => s)

/-- LINE_SILENCE: the line has been idle for `SILENCE` bit times after a received byte. -/
def execLineSilence (port : Nat) (s : State) : Res :=
  let f := floatOf s (portFloat port)
  .next (match f.byteAt with
    | some t =>
      if t + f.silence * (sportCfg s port).bitNs ≤ s.clk ∧ f.running then
        setSport (setFloat s (portFloat port) (latchBit { f with byteAt := none } 1)) port
          (fun q => { q with frameBytes := 0 })
      else s
    | none => s)

/-- SERIAL_BYTE_RECEIVED: a byte enters the receive FIFO of a port in generic serial mode, or is lost to a full
one; a frame's 1,025th byte and a response after its timeout set the port's bits (R290, R317). -/
def execSerialByteReceived (port : Nat) (byte : Byte) (parityErr framingErr : Bool) (s : State) : Res :=
  .next (if (sportCfg s port).mode ≠ 3 then s
  else
    let f := floatOf s (portFloat port)
    let v := (onLine (sportCfg s port) byte).toNat + 256 + 512 * b2n parityErr + 1024 * b2n framingErr + 2048 * b2n f.overrun
    let g := if 64 ≤ f.rx.length then { f with overrun := true, byteAt := some s.clk }
      else floatReturn { f with rx := f.rx ++ [v], overrun := false, byteAt := some s.clk }
    let q := sport s port
    let p1 := if q.late ∧ q.held.isNone then q.port.mark 6 else q.port
    let p2 := if q.frameBytes = 1024 then p1.mark 1 else p1
    setSport (setFloat s (portFloat port) g) port (fun q => { q with
      port := p2, late := false, frameBytes := q.frameBytes + 1 }))

/-- TRANSMIT_DRAINED: the transmit FIFO is empty and the last stop bit has left. -/
def execTransmitDrained (port : Nat) (s : State) : Res :=
  let f := floatOf s (portFloat port)
  let c := sportCfg s port
  .next (if f.tx ≠ [] ∧ f.txAt + f.tx.length * (c.bitNs * c.charBits) ≤ s.clk then
    setSport (setFloat s (portFloat port) (floatReturn { f with tx := [] })) port (fun q => { q with sentBytes := 0 })
  else s)

/-- TRAIN_TIME_TARGET_REACHED: train time has come to the float's target, by its course or by a step (R316). -/
def execTrainTimeTargetReached (k : Nat) (s : State) : Res :=
  let f := floatOf s k
  .next (match f.tta with
    | some t => if t ≤ s.time.now ∧ f.running then setFloat s k (latchBit { f with tta := none } 5) else s
    | none => s)

/-! ### Programs (R324) -/

/-- A program that takes force is logged by its float's subsystem: 13 on a serial port, 12 for a profile of F13 (R26). -/
def progLog (s : State) (sub : Nat) (p : Program) : State := report s 0x0704 sub p.version (be 4 p.id)

/-- A loaded serial program takes force, unless its port holds a transaction. -/
def takeSerial (s : State) (port : Nat) : State :=
  let f := floatOf s (portFloat port)
  match f.staged with
  | none => s
  | some p =>
    if (sport s port).held.isSome then s
    else
      let g := startProgram { f with staged := none, faults := [] } p p.entry
      progLog (setSport (setFloat s (portFloat port) g) port (fun q => { q with port := q.port.setUp true })) 13 p

/-- A bus cycle of the port starts now: its To has come, the one before is complete, and it has not begun (R299). -/
def busStart (s : State) (port : Nat) : Bool :=
  let c := sportCfg s port
  match s.skim.applied with
  | none => false
  | some (n, _) => c.mode == 3 && !s.pair.repeatOff && n % c.period == c.phase && (sport s port).lastCycle != some n &&
      (sport s port).cycleOf.isNone

/-- PROGRAM_TAKE_FORCE: a loaded serial program starts at the first bus-cycle start at which its port holds no transaction; a
loaded profile serves the next activations (R324). Targets are 1 to 6 for S1 to S6, and 16 + k for profile k. -/
def execProgramTakeForce (target : Nat) (s : State) : Res :=
  .next (if target < 16 then (if busStart s target then takeSerial s target else s)
  else
    match Tab.get? s.fld.stagedProfiles (target - 16) with
    | none => s
    | some p =>
      progLog { s with fld := { s.fld with
        profiles := Tab.set s.fld.profiles (target - 16) p
        stagedProfiles := Tab.erase s.fld.stagedProfiles (target - 16) } } 12 p)

/-! ### Bus cycles (R299) -/

/-- The far keys of a list of routes in order of their lowest index, with their routes. -/
def byKey (l : List (Nat × Bytes)) : List (FarKey × List (Nat × Bytes)) :=
  ((l.map (fun p => farKey p.2)).eraseDups).map (fun k => (k, l.filter (fun p => farKey p.2 == k)))

/-- The route of a key with the widest far field, which sets the transaction's width. -/
def widest (l : List (Nat × Bytes)) : Bytes :=
  l.foldl (fun a p => if a.isEmpty || rWidth a < rWidth p.2 then p.2 else a) []

/-- `ON_CHANGE` leaves a key out while no raw value differs from the last one written, unless a write failed or the signal is
`WRITE_FAILED` (R210, R237). -/
def unchanged (s : State) (outs : List StagedOut) : Bool :=
  outs.all (fun o => rFlag o.entry 6 && !(routeStateOf s o.route).failed && !s.skim.failed.contains (rSignal o.entry) &&
    !(cellNow s (rSignal o.entry)).any (fun c => c.quality == .writeFailed) &&
    (routeStateOf s o.route).rawWritten == some o.raw)

/-- The OUT writes of a bus cycle. -/
def outWork (s : State) (p : Nat) (outs : List StagedOut) : List SerialTxn :=
  let mine := outs.filter (fun o => onSerial s p o.entry)
  (byKey (mine.map (fun o => (o.route, o.entry)))).filterMap (fun (k, l) =>
    let os := mine.filter (fun o => farKey o.entry == k)
    if unchanged s os then none
    else
      let e := widest l
      let v := assemble (rOrder e) (composeInto (shadowBytes s e) os)
      some ⟨0, true, k, e, os.map (fun o => (o.route, o.entry, o.raw)), v, 0, [], 0, 0, s.skim.applied.map (·.1)⟩)

/-- The IN reads of a bus cycle. -/
def inWork (s : State) (p : Nat) : List SerialTxn :=
  match s.route.table with
  | none => []
  | some t =>
    (byKey ((enabledRoutes t 1).filter (fun r => onSerial s p r.2))).map (fun (k, l) =>
      ⟨1, false, k, widest l, [], 0, 0, [], 0, 0, none⟩)

/-- SERIAL_BUS_CYCLE_START: a loaded program takes force first (R324); at a due To(n) the port begins a bus cycle with skim n's outputs, or skips the start
while one still runs (R299). A port whose float is stopped fails its transactions (R300). -/
def execSerialBusCycleStart (port : Nat) (s : State) : Res :=
  let c := sportCfg s port
  .next (match s.skim.applied with
    | none => s
    | some (n, outs) =>
      if c.mode ≠ 3 ∨ s.pair.repeatOff ∨ n % c.period ≠ c.phase then s
      else
        let q := sport s port
        if q.lastCycle = some n then s
        else if q.cycleOf.isSome then
          let topo := some (topoInForce s)
          setSport (reportIf (decide (q.overrun ≠ topo)) s 0x0701 13 port []) port (fun q => { q with
            overrun := topo, lastCycle := some n })
        else
          let s := takeSerial s port
          let work := outWork s port outs ++ inWork s port
          let s1 := setSport s port (fun q => { q with
            cycleOf := some n, lastCycle := some n, freshNow := [], work := q.work.filter (fun t => t.kind == 2) ++ work })
          if serialReady s port then closeCycle s1 port
          else failPort s1 port (2 * 2 ^ 24 + c.mode))

/-- The access that may be carried on demand: the first of the port that has started, under a lock the holder's. -/
def nextDemand (s : State) (p : Nat) : Option FarTxn :=
  let waiting := fun (x : FarTxn) => onSerial s p x.entry && x.started && (headTxn s x.key == some x)
  s.bridge.farQueue.find? (fun x => waiting x &&
    (!portLocked s p || s.bridge.locks.any (fun l => l.port == lockPort x.entry && (x.locked || l.holder == txnId x.replyTo x.tag))))

/-- An on-demand transaction of the access that holds the port's lock. -/
def holdsPort (s : State) (t : SerialTxn) : Bool :=
  t.kind == 2 && (demandOf s t).any (fun x =>
    s.bridge.locks.any (fun l => l.port == lockPort x.entry && (x.locked || l.holder == txnId x.replyTo x.tag)))

/-- The port's accesses that are still to be handed for the first time. -/
def notHanded (s : State) (p : Nat) (x : FarTxn) : Bool :=
  onSerial s p x.entry && x.started && !(sport s p).work.any (fun t => t.kind == 2 && t.key == x.key && t.tag == x.tag)

/-- SERIAL_TRANSACTION_HANDED: the port hands its next transaction (R299, R308, R318). A cyclic one with `ATOMIC_GROUP` takes
the free lock first, and keeps it over its access units and retries; else it waits in the order of the requests (R246). An
access whose remaining time has elapsed ends and is not started (R234). -/
def execSerialTransactionHanded (port : Nat) (s : State) : Res :=
  let q := sport s port
  let mine := cyclicHolds s port
  let locked := portLocked s port && !mine
  let first := q.work.find? (fun t => if mine then t.kind != 2 else !locked || holdsPort s t)
  let asks : Bool := !mine && first.any (lockedCyclic s)
  .next (if !serialReady s port || q.held.isSome then s
  else
    let s := lateAccesses (notHanded s port) s.bridge.farQueue.length s
    let s := if !asks then s
      else if portWaited s port then (if s.bridge.lockWaits.any (fun w => w.port == ownPort s port && w.tag == 0) then s else askCyclic s port)
      else { s with bridge := { s.bridge with locks := s.bridge.locks ++ [⟨ownPort s port, 0, s.clk⟩] } }
    let cyc := if asks && !cyclicHolds s port then none else first
    let demand : Option SerialTxn := if cyclicHolds s port then none else (nextDemand s port).map (fun x =>
      ⟨2, writing x, x.key, x.entry, [], 0, x.unitsDone, [], 0, x.tag, none⟩)
    let again := match cyc with | none => false | some t => t.kind == 2 || t.attempt != 0
    match cyc, demand with
    | some t, none => handTxn (setSport s port (fun q => { q with work := dropOne t q.work })) port t
    | some t, some d =>
      if again || q.lastDemand then handTxn (setSport s port (fun q => { q with work := dropOne t q.work })) port t
      else handTxn s port d
    | none, some d => handTxn s port d
    | none, none => s)

end Sys2Proof.Machine
end

