-- ==== Sys2Proof/Machine/BridgeRows.lean ====
section
/-! DEFINITION. The rows of bridged transactions: messages delivered, expiries, locks, semaphores and
announcements (spec file 08). -/

namespace Sys2Proof.Machine

/-! ### Receiving messages -/

/-- A message addressed to this unit: its position, or all; unit 0 names the composing unit (R228). -/
def addressedHere (s : State) (f : Frame) : Bool :=
  (msgDest f == 0xFF || msgDest f == ownPos s) &&
    (if msgUnit f = 0 then composing s else msgUnit f == s.unitNo)

/-- The endpoint a message is for: its channel's, or the management core's for the other kinds. -/
def messageEndpoint (f : Frame) : Nat :=
  if 1 ≤ msgKind f ∧ msgKind f ≤ 6 then channelEnd (msgChannel f)
  else if msgKind f = 7 ∨ msgKind f = 8 then (if msgIndex f = 0 then channelEnd (msgChannel f) else 1) else 1

/-- A message that goes to its endpoint's ring as it arrives; an announcement waits for its data skim (R252). -/
def ringOnArrival (f : Frame) : Bool := msgKind f != 5

/-- The message names an endpoint of another unit of the vehicle (R225). -/
def forOther (s : State) (f : Frame) : Bool := 1 ≤ msgKind f && msgKind f ≤ 6 && !channelHere s (msgChannel f)

/-- A frame as a ring receives it, from the train-line header to the last payload byte (R283). -/
def ringBytes (f : Frame) : Bytes := headerBytes f ++ f.payload

/-- The lead sends a fallback message again: its destination unit carries only the line on which it was not sent
(R394). -/
def otherLineOnly (s : State) (f : Frame) : Bool :=
  s.set.lease && msgKind f == 9 &&
    (presentEntries s).any (fun e => e.pos == msgDest f && (e.arr == 2 || e.arr == 4) && msgUnit f != f.line + 1)

/-- A `LAST` frame of a polled vehicle ends a message of its reply; `MORE` tells the backlog. A frame without `LAST` opens a
message whose end is still to come, so that the reply is not complete yet (R91; log entry 176). -/
def noteReplyEnd (s : State) (f : Frame) : State :=
  let polled := s.set.lease && s.cyc.polls.any (fun q => q.pos == f.srcPos)
  if polled && !isLast f then { s with cyc := { s.cyc with replyEnds := Tab.erase s.cyc.replyEnds f.srcPos } }
  else if polled then
    { s with cyc := { s.cyc with
        replied := s.cyc.replied ++ [f.srcPos]
        replyEnds := Tab.set s.cyc.replyEnds f.srcPos (hasMore f) } }
  else s

/-- A frame that the other unit of a pair repeats on the other line (R77). -/
def noteRepeat (s : State) (f : Frame) : State :=
  if otherLineOnly s f then { s with cyc := { s.cyc with repeats := s.cyc.repeats ++ [f] } } else s

/-- A frame for an endpoint's ring is placed there on arrival, or passed to the unit that owns the endpoint; with
whether a starved ring lost the frame. -/
def placeArrival (s : State) (p : LinePort) (f : Frame) : State × Bool :=
  let src := if !attached s then 2 else if portLine p = .a then 0 else 1
  if !ringOnArrival f then (s, false)
  else if forOther s f then (passMessage s (msgChannel f) (ringBytes f), false)
  else toRing s (messageEndpoint f) ⟨ringBytes f, src, time64 s.time.now % 4294967296, if attached s then some p else none⟩

/-- A message frame addressed to this unit waits for its kind's row. -/
def takeArrival (s : State) (p : LinePort) (f : Frame) : State :=
  let (s1, lost) := placeArrival s p f
  if lost then s1 else { s1 with bridge := { s1.bridge with inbox := s1.bridge.inbox ++ [f] } }

/-- MESSAGE_FRAME_DELIVERED (R68, R88, R91, R231, R283): what the reply shows of a backlog at the lead, the endpoint's ring, and
the row of its kind. -/
def execMessageFrameDelivered (p : LinePort) (f : Frame) (s : State) : Res :=
  .next (deliver s p f (fun s =>
    let s := noteRepeat (noteReplyEnd (hearFrom s f.srcPos) f) f
    if msgKind f = 0 ∨ !addressedHere s f then s else takeArrival s p f))

/-- A kind's row acts on a message that waits in the inbox. -/
def takeMessage (s : State) (f : Frame) (kind : Nat) (act : State → State) : State :=
  if s.bridge.inbox.contains f && msgKind f == kind then
    act { s with bridge := { s.bridge with inbox := dropOne f s.bridge.inbox } }
  else s

/-- The bridge engine's channel of a source channel's unit. -/
def engineOf (c : Nat) : Nat := c / 256 * 256

/-- The sequence rule of a bridge message (R229): processed in order or after a gap, which is reported; an old
one is discarded and counted. -/
def sequenced (s : State) (f : Frame) (act : State → State) : State :=
  let slot := channelSlot f.channel
  let w := field (msgBody f) 2 2
  let seq := w % 32768
  let next := fun (s : State) =>
    { s with bridge := { s.bridge with expected := Tab.set s.bridge.expected slot ((seq + 1) % 32768) } }
  match (if 32768 ≤ w then none else Tab.get? s.bridge.expected slot) with
  | none => act (next s)
  | some e =>
    let k := (seq + 32768 - e) % 32768
    if k = 0 then act (next s)
    else if k ≤ 16383 then act (sendFarError (next s) (engineOf f.channel) 0 0xFE 0 stFarTimeout 0 5 e k)
    else { s with bridge := { s.bridge with oldSeq := count32 s.bridge.oldSeq } }

/-- The deadline of a received request, by its remaining time in ms. -/
def remaining (s : State) (b : Bytes) : Nat := s.clk + field b 6 2 * 1000000

/-- A value's bits beyond its type are a zero- or sign-extension of it (R233). -/
def extensionOk (t : Nat) (v : Nat) : Bool :=
  t == 0xD || v == v % 2 ^ typeBits t ||
    (v / 2 ^ 64 == 0 && v == wrapInt 64 (signedOf (typeBits t) (v % 2 ^ typeBits t)))

/-- A posted write to a skim signal, checked at its owner (R190, R233). -/
def ownerWrite (s : State) (f : Frame) (b : Bytes) : State :=
  let id := field b 8 4
  let v := field b 12 16
  let fail := fun st d => sendFarError s f.channel (msgTag f) 2 0 st id d 0 0
  if !ownSignal s id then fail stBadParameter 3
  else match defOf s id with
    | none => fail stBadParameter 3
    | some d =>
      if field b 5 1 = 0xF ∧ !extensionOk d.typ v then fail stBadParameter 1
      else if field b 5 1 ≠ 0xF ∧ field b 5 1 ≠ d.typ then fail stBadParameter 1
      else if !writeAllowed s id then fail stBadParameter 3
      else
        stageFrom s id (BitVec.ofNat 128 (if d.typ = 0xD then v else v % 2 ^ typeBits d.typ)) (some (f.channel, msgTag f))

/-- POSTED_WRITE_MESSAGE (R234, R235). A mark is only counted in sequence. -/
def execPostedWriteMessage (f : Frame) (s : State) : Res :=
  .next (takeMessage s f 1 (fun s => sequenced s f (fun s =>
    let b := msgBody f
    let i := field b 8 4 % 1048576
    match field b 4 1 with
    | 0 =>
      (match accessRefusal s i (field b 5 1) true 1 with
       | some (st, d) => sendFarError s f.channel (msgTag f) 0 0 st (field b 8 4) d 0 0
       | none => enqueueFar s (accessTxn s i f.channel (msgTag f) false
           (some (BitVec.ofNat 128 (field b 12 16), field b 5 1)) (remaining s b) 1))
    | 2 => ownerWrite s f b
    | _ => s)))

/-- READ_REQUEST_MESSAGE (R226, R234, R235, R242). -/
def execReadRequestMessage (f : Frame) (s : State) : Res :=
  .next (takeMessage s f 2 (fun s => sequenced s f (fun s =>
    let b := msgBody f
    let i := field b 8 4 % 1048576
    let e := entryAt s i
    match accessRefusal s i (field b 5 1) false (field b 12 1) with
    | some (st, d) =>
      sendResponse s f.channel (msgTag f) st (sideEffects s (farKey e)) (rSignal e % 16) (field b 8 4) (rNotify e) 0 d 0
    | none =>
      match readAhead s i with
      | some r => sendResponse s f.channel (msgTag f) stDone false (rSignal e % 16) i (rNotify e) 0 0 r.value
      | none => enqueueFar s (accessTxn s i f.channel (msgTag f) false none (remaining s b) (field b 12 1)))))

/-- The route by which a read whose tag has ended was asked for: from its sender record while that is kept, else the route of
the table that names the far route (R243, R244). -/
def readRoute (s : State) (f : Frame) : Nat :=
  match s.bridge.sentRecs.find? (fun r => r.kind == 2 && r.tag == msgTag f && r.source == msgChannel f &&
      r.slot == channelSlot f.channel) with
  | some r => r.ownTarget
  | none => remoteRoute s (channelSlot f.channel) (field (msgBody f) 8 4)

/-- READ_RESPONSE_MESSAGE: the result is held and announced; a late one is discarded, or orphaned when it carries
a side effect (R240, R241, R244). -/
def execReadResponseMessage (f : Frame) (s : State) : Res :=
  .next (takeMessage s f 3 (fun s => sequenced s f (fun s =>
    let b := msgBody f
    let st := field b 4 2
    let side := bitOf (field b 6 1) 0 && st == stDone
    let value : Val := BitVec.ofNat 128 (field b 20 16)
    match findTag s (msgTag f) with
    | some x =>
      if x.kind = .read ∧ x.state ≠ .held ∧ x.initiator = msgChannel f then
        holdResult s x.tag st (be 4 (field b 16 4)) (fun t => { t with
          value := value, sideEffect := side, farRoute := field b 8 4, owner := field b 12 2 })
      else if side then
        orphan s value (if x.kind = .read ∧ x.initiator = msgChannel f then x.target else readRoute s f) (field b 8 4) (msgTag f)
          (msgChannel f) (field b 12 2)
      else { s with bridge := { s.bridge with droppedResults := count32 s.bridge.droppedResults } }
    | none =>
      if side then orphan s value (readRoute s f) (field b 8 4) (msgTag f) (msgChannel f) (field b 12 2)
      else { s with bridge := { s.bridge with droppedResults := count32 s.bridge.droppedResults } })))

/-- A lost message of a gap report (R230). -/
def resolveLost (s : State) (r : SentRec) : State :=
  let s1 := { s with bridge := { s.bridge with sentRecs := dropOne r s.bridge.sentRecs } }
  match r.kind, findTag s1 r.tag with
  | 1, some x =>
    if x.initiator = r.source ∧ x.kind = .postedWrite then failWrite s1 x stFarTimeout 0 5
    else if r.tag = 0 then report s1 0x0505 10 1 []
    else noteFailure s1 (goneWrite r.tag r.source r.ownKind r.ownTarget) stFarTimeout 0 5
  | 1, none =>
    if r.tag = 0 then report s1 0x0505 10 1 []
    else noteFailure s1 (goneWrite r.tag r.source r.ownKind r.ownTarget) stFarTimeout 0 5
  | 2, some x =>
    if x.initiator = r.source ∧ x.state ≠ .held then holdResult s1 x.tag stFarTimeout (be 4 5) id
    else report s1 0x0505 10 1 []
  | 3, _ =>
    (match r.sideValue with
     | some v => orphan s1 v r.target r.target r.tag r.dest (rNotify (entryAt s1 r.target))
     | none => report s1 0x0505 10 1 [])
  | _, _ => report s1 0x0505 10 1 []

/-- A failed posted write whose tag is held no more: its target as the far error gives it, a far route by the local route
that names it (R236, R237). -/
def lateFailure (s : State) (f : Frame) : TagSt :=
  let b := msgBody f
  if field b 4 1 = 2 then goneWrite (msgTag f) (msgChannel f) 2 (field b 8 4)
  else match s.bridge.sentRecs.find? (fun r => r.kind == 1 && r.tag == msgTag f && r.source == msgChannel f &&
      r.slot == channelSlot f.channel) with
    | some r => goneWrite (msgTag f) (msgChannel f) r.ownKind r.ownTarget
    | none => goneWrite (msgTag f) (msgChannel f) 1 (remoteRoute s (channelSlot f.channel) (field b 8 4))

/-- FAR_ERROR_MESSAGE: a failed posted write of this node's initiator, or a gap report (R230, R236). -/
def execFarErrorMessage (f : Frame) (s : State) : Res :=
  .next (takeMessage s f 4 (fun s => sequenced s f (fun s =>
    let b := msgBody f
    if field b 4 1 = 0xFE then
      let first := field b 16 2
      let count := field b 18 2
      let lost := s.bridge.sentRecs.filter (fun r =>
        r.slot == channelSlot f.channel && (r.seq + 32768 - first) % 32768 < count)
      lost.foldl resolveLost s
    else match (findTag s (msgTag f)).filter (fun x => x.kind == .postedWrite && x.initiator == msgChannel f) with
      | some x => failWrite s x (field b 6 2) (field b 5 1) (field b 12 4)
      | none =>
        if localChannel s (msgChannel f) then noteFailure s (lateFailure s f) (field b 6 2) (field b 5 1) (field b 12 4) else s)))

/-- An announcement reaches its endpoint: held until its data skim has committed (R252, R253). -/
def receiveAnn (s : State) (source : Nat) (b : Bytes) : State :=
  if closedHere s (field b 0 2) then
    { s with bridge := { s.bridge with annDiscarded := count32 s.bridge.annDiscarded } }
  else if 1024 ≤ annCount s then report s 0x0507 10 0 []
  else { s with bridge := { s.bridge with heldAnns := s.bridge.heldAnns ++ [⟨field b 0 2, b, field b 12 4, source⟩] } }

/-- ANNOUNCEMENT_MESSAGE (R252). -/
def execAnnouncementMessage (f : Frame) (s : State) : Res :=
  .next (takeMessage s f 5 (fun s => sequenced s f (fun s => receiveAnn s f.channel (msgBody f))))

/-- A held announcement's skim has committed. -/
def annDue (s : State) (a : HeldAnn) : Bool :=
  match s.skim.retained with
  | [] => false
  | r :: _ => a.skim == r.desc.skim || cycBefore a.skim r.desc.skim

/-- The frame by which an announcement of this node reaches an endpoint here. -/
def annFrame (s : State) (a : HeldAnn) : Frame :=
  newFrame s 5 a.source 8 (msgPayload (ownPos s) 0 5 0 0 0 a.body)

/-- ANNOUNCEMENT_RELEASE: announcements whose data skim has committed are delivered to their endpoints (R252), to those of
another unit over the peer ring (log entry 168); one to an endpoint that has been closed meanwhile is discarded and counted
(R253). -/
def execAnnouncementRelease (s : State) : Res :=
  let due := s.bridge.heldAnns.filter (annDue s)
  let s1 := { s with bridge := { s.bridge with heldAnns := s.bridge.heldAnns.filter (fun a => !annDue s a) } }
  .next (due.foldl (fun s a =>
    if channelHere s a.dest && closedHere s a.dest then
      { s with bridge := { s.bridge with annDiscarded := count32 s.bridge.annDiscarded } }
    else if channelHere s a.dest then (toRing s (channelEnd a.dest) ⟨ringBytes (annFrame s a), 4, time64 s.time.now % 4294967296, none⟩).1
    else passMessage s a.dest (ringBytes (annFrame s a))) s1)

/-- SEMAPHORE_MESSAGE: an operation for this vehicle's semaphores, or the reply to one of this node's initiators
(R248). -/
def execSemaphoreMessage (f : Frame) (s : State) : Res :=
  .next (takeMessage s f 6 (fun s => sequenced s f (fun s =>
    let b := msgBody f
    let op := field b 4 1
    if op < 0x80 then pumpAll (semOperate s op (field b 6 2) (field b 8 2) f.channel (msgTag f))
    else match findTag s (msgTag f) with
      | some x =>
        if x.kind = .semaphore ∧ x.state ≠ .held ∧ x.initiator = msgChannel f then
          (if op = 0x84 then holdResult s x.tag (if x.target = 3 then stBadParameter else stLockHeld) [] id
           else holdResult s x.tag stDone (be 1 op ++ be 2 (field b 10 2)) id)
        else s
      | none => s)))

/-! ### Expiries -/

/-- RESULT_HOLD_EXPIRY: the tag is released; an uncollected side effect is orphaned (R241, R243). -/
def execResultHoldExpiry (tag : Nat) (s : State) : Res :=
  .next (match findTag s tag with
    | none => s
    | some x =>
      if x.state = .held ∧ x.holdEnd ≤ s.clk then
        let s1 := releaseTag s tag
        if x.collected then s1
        else if x.sideEffect then orphan s1 x.value x.target x.farRoute tag x.initiator x.owner
        else { s1 with bridge := { s1.bridge with droppedResults := count32 s1.bridge.droppedResults } }
      else s)

/-- The sender record of a posted write (R230). -/
def sentWrite (r : SentRec) (x : TagSt) : Bool := r.kind == 1 && r.tag == x.tag && r.source == x.initiator

/-- BRIDGE_TIMEOUT_EXPIRY (R234, R244, R254): a read ends with `FAR_TIMEOUT`; a queued posted write fails; one that its
far object has begun goes on; one already sent is known as long as its sender record is. An access that still waits for a
semaphore of another channel ends with `LOCK_HELD` (R249). -/
def execBridgeTimeoutExpiry (tag : Nat) (s : State) : Res :=
  .next (match findTag s tag with
    | none => s
    | some x =>
      if x.deadline ≤ s.clk ∧ x.state ≠ .held then
        let s1 := { s with bridge := { s.bridge with queue := s.bridge.queue.filter (fun m =>
          !(m.tag == tag && m.source == x.initiator && (m.kind == 1 || m.kind == 2 || m.kind == 6 || m.kind == 7))) } }
        if x.kind = .postedWrite ∧ s.bridge.farQueue.any (fun y => y.localTag && y.tag == tag && y.started) then s
        else if x.kind = .postedWrite ∧ x.state = .sent then
          (if s.bridge.sentRecs.any (fun r => sentWrite r x) then s else releaseTag s1 tag)
        else if s.bridge.farQueue.any (fun y => y.localTag && y.tag == tag && !y.started && needsSem y.entry && semState s y == 2)
        then failTag s1 x stLockHeld 0 0
        else failTag s1 x stFarTimeout 0 6
      else s)

/-- BRIDGE_MARK_SEND: 8 idle cycles after a burst, one mark to the slot (R230). -/
def execBridgeMarkSend (slot : Nat) (s : State) : Res :=
  let tx := slotTxOf s slot
  .next (if tx.markDue && decide (8 ≤ tx.idle) && slotPresent s slot then
    let s1 := { s with bridge := { s.bridge with slotTx := Tab.set s.bridge.slotTx slot { tx with markDue := false } } }
    bridgeMsg s1 (slot * 1024) 1 0 (be 1 0xFF ++ be 1 0 ++ be 2 (min 5000 (max 1 (bridgeTimeout s / 1000000))) ++
      be 4 0 ++ zeros 16)
  else s)

/-- A cycle without bridge messages to a slot adds to its idle count (R230). -/
def countIdle (s : State) : State :=
  { s with bridge := { s.bridge with slotTx := s.bridge.slotTx.map (fun p => (p.1, { p.2 with idle := p.2.idle + 1 })) } }

/-- SENDER_RECORD_EXPIRY: a record is forgotten after 1 s, and with it a posted write whose `BRIDGE_TIMEOUT` has passed
(R230). -/
def execSenderRecordExpiry (slot seq : Nat) (s : State) : Res :=
  let old := fun (r : SentRec) => r.slot == slot && r.seq == seq && decide (r.at_ + 1000000000 ≤ s.clk)
  let s1 := { s with bridge := { s.bridge with sentRecs := s.bridge.sentRecs.filter (fun r => !old r) } }
  .next (((s.bridge.tags.filter (fun x => x.kind == .postedWrite && x.state == .sent && decide (x.deadline ≤ s.clk) &&
    s.bridge.sentRecs.any (fun r => old r && sentWrite r x))).map (·.tag)).foldl releaseTag s1)

/-- READ_AHEAD_EXPIRY: an unused value is dropped without record (R242). -/
def execReadAheadExpiry (route : Nat) (s : State) : Res :=
  .next { s with bridge := { s.bridge with readAheads := s.bridge.readAheads.filter (fun r =>
    !(r.route == route && r.until_ ≤ s.clk)) } }

/-- SEMAPHORE_LEASE_EXPIRY (R250). -/
def execSemaphoreLeaseExpiry (sem : Nat) (s : State) : Res :=
  .next (match semOf s sem with
    | none => s
    | some x =>
      if x.leaseEnd ≠ 0 ∧ x.leaseEnd ≤ s.clk then
        let s1 := announce (freeSem s sem) x.holder 0x13 0xFFFFFFFF (skimNow s) sem []
        pumpAll (grantWaiter (report s1 0x0506 10 sem []) sem)
      else s)

/-- SEMAPHORE_WAIT_EXPIRY: an acquire's wait ends with `LOCK_HELD` (R248); an access whose remaining time elapses
while it waits ends the same way (R249). -/
def execSemaphoreWaitExpiry (tag : Nat) (s : State) : Res :=
  .next (match s.bridge.semWaits.find? (fun w => w.tag == tag && w.until_ ≤ s.clk) with
    | some w =>
      semRefuse { s with bridge := { s.bridge with semWaits := dropOne w s.bridge.semWaits } } w.channel w.tag 1 w.port
    | none =>
      match s.bridge.farQueue.find? (fun x => x.tag == tag && !x.started && needsSem x.entry && x.deadline ≤ s.clk &&
          semState s x == 2) with
      | some x => finishTxn s x stLockHeld 0 0 0
      | none => s)

/-- What a port of this unit carries still runs: a transaction of its float, or an SDO transfer (R246; log entry 169). -/
def portBusy (s : State) (port : Nat) : Bool :=
  port / 16 + 1 == s.unitNo && ((sport s (port % 16)).held.isSome || !(canPort s (port % 16 - 8)).sdos.isEmpty)

/-- A cyclic access takes the lock that it waited for: an output PDO leaves, one frame with which its lock ends; a serial
transaction is handed next (log entries 169, 173). -/
def cyclicLock (s : State) (port : Nat) : State :=
  let k := port % 16
  if k < 9 then s
  else sendGrouped { s with bridge := { s.bridge with locks := s.bridge.locks.filter (fun l => l.port != port) } } (k - 8)

/-- FAR_BUS_LOCK_TAKEN: the port's current frame or transaction has ended, and the first that waits takes the lock
(R246, R247). -/
def execFarBusLockTaken (port : Nat) (s : State) : Res :=
  .next (if s.bridge.locks.any (fun l => l.port == port) || portBusy s port then s
  else match s.bridge.lockWaits.find? (fun w => w.port == port) with
    | none => s
    | some w =>
      let l : PortLock := ⟨port, txnId w.channel w.tag, s.clk⟩
      let s1 : State := { s with bridge := { s.bridge with
        lockWaits := dropOne w s.bridge.lockWaits, locks := s.bridge.locks ++ [l] } }
      if l.holder = 0 then cyclicLock s1 port
      else match s1.bridge.locked.find? (fun q => q.tag == w.tag && q.port == port) with
      | none => pumpAll s1
      | some q =>
        match q.routes with
        | [] => endLocked s1 q stDone 0
        | (i, e, v) :: rest =>
          enqueueFirst (setLocked s1 q.tag (fun q => some { q with routes := rest })) (lockedTxn s1 q i e v w.channel))

/-- FAR_BUS_LOCK_EXPIRY: 5 ms after it was taken the lock ends; units not yet sent are not sent (R246). -/
def execFarBusLockExpiry (port : Nat) (s : State) : Res :=
  .next (match s.bridge.locks.find? (fun l => l.port == port) with
    | none => s
    | some l =>
      if l.taken + 5000000 ≤ s.clk then
        let s1 := flushCans
          { s with bridge := { s.bridge with locks := s.bridge.locks.filter (fun m => m.port != port) } }
        if l.holder = 0 then endCyclic s1 (port % 16)
        else match s1.bridge.farQueue.find? (fun x => txnId x.replyTo x.tag == l.holder) with
        | some x => finishTxn s1 x stFarTimeout x.unitsDone 7 0
        | none =>
          match s1.bridge.locked.find? (fun q => q.port == port) with
          | some q => endLocked s1 q stFarTimeout 7
          | none => s1
      else s)

/-- LOCK_WAIT_EXPIRY: a locked sequence whose lock was not taken within its wait ends with `LOCK_HELD`; an access
that waits ends when its remaining time has elapsed (R247). -/
def execLockWaitExpiry (tag : Nat) (s : State) : Res :=
  .next (match s.bridge.lockWaits.find? (fun w => w.tag == tag && w.until_ ≤ s.clk) with
    | none => s
    | some w =>
      let s1 := { s with bridge := { s.bridge with lockWaits := dropOne w s.bridge.lockWaits } }
      match s1.bridge.locked.find? (fun q => q.tag == tag && q.port == w.port) with
      | some q =>
        holdResult { s1 with bridge := { s1.bridge with locked := s1.bridge.locked.filter (fun y => y.tag != q.tag) } }
          tag stLockHeld [] id
      | none =>
        match s1.bridge.farQueue.find? (fun x => x.tag == tag && x.replyTo == w.channel) with
        | some x => finishTxn s1 x stFarTimeout 0 6 0
        | none => s1)

/-- What carried the access unit ends with it: its SDO, or its TRDP session. -/
def dropCarrier (s : State) (key : FarKey) : State :=
  let s1 := { s with veh := { s.veh with sessions := s.veh.sessions.filter (fun x => x.key != key) } }
  if key.domain = 6 then
    setCan s1 ((key.addr.head?).elim 0 (·.toNat)) (fun p => { p with sdos := p.sdos.filter (fun x => !(x.access && x.key == key)) })
  else s1

/-- FAR_TRANSACTION_COMPLETE (R235, R245): whatever the far side's bus, the access unit is answered, and what waited for
the same carrier gets its chance. -/
def execFarTransactionComplete (key : FarKey) (answer : FarAnswer) (s : State) : Res :=
  .next (if (headTxn s key).any (·.started) then pumpAll (completeUnit (dropCarrier s key) key answer) else s)

end Sys2Proof.Machine
end

