-- ==== Sys2Proof/Machine/FieldBus.lean ====
section
/-! DEFINITION. MVB and CAN ports: the rows of spec file 10 but for generic serial. -/

namespace Sys2Proof.Machine

/-! ### MVB (R293 to R297) -/

def mvbMode (s : State) (p : Nat) : Bool :=
  let c := sportCfg s p
  (c.mode == 1 || c.mode == 2) && !c.pairB

/-- The far key of a port address (R203, R213). -/
def mvbKey (s : State) (p addr : Nat) : FarKey := ⟨4, s.unitNo - 1, be 1 p ++ zeros 1 ++ be 2 addr ++ zeros 6⟩

/-- A source port's data: its buffer at its F-code's length. -/
def mvbData (s : State) (p : Nat) (x : MvbPort) : Bytes := fit (Tab.getD (sport s p).buffers x.addr []) (2 * 2 ^ x.fcode)

/-- The configured sink or source port at an address. -/
def mvbPort (s : State) (p addr : Nat) : Option MvbPort := (sportCfg s p).ports.find? (fun x => x.addr == addr)

/-- Announcement of kind 0x02 for a device (R297). -/
def mvbAnnounce (s : State) (p : Nat) (d : MvbDevice) (new old : Nat) : State :=
  raiseKey s (fun e => rDomain e == 4 && rUnit e + 1 == s.unitNo && rAddr e 0 1 == p && rAddr e 2 2 == d.announce)
    2 (p * 2 ^ 24 + d.addr) (be 2 new ++ be 2 old)

/-- A device's status word, or none when it does not answer, against the last one received (R297). -/
def mvbStatus (s : State) (p addr : Nat) (w : Option Nat) : State :=
  match (sportCfg s p).devices.find? (fun d => d.addr == addr) with
  | none => s
  | some d =>
    let last := Tab.get? (sport s p).statuses addr
    let put := fun (s : State) (x : Nat × Bool) => setSport s p (fun q => { q with statuses := Tab.set q.statuses addr x })
    match w, last with
    | some v, none => put s (v, true)
    | some v, some (o, _) => if v = o then put s (v, true) else mvbAnnounce (put s (v, true)) p d v o
    | none, some (o, true) => mvbAnnounce (put s (o, false)) p d 0xFFFF o
    | none, _ => s

/-- The number of the present basic period, counted from the grid's origin so that every individual period divides
it as R294 says. -/
def basicIndex (s : State) (c : SPortCfg) : Int :=
  let perCycle : Int := cycleLen s / (c.tbp * 1000) 
  (s.cyc.n : Int) * perCycle + (s.time.now - s.cyc.ts - c.offset * 1000) / ((c.tbp * 1000 : Nat) : Int)

/-- Master frames of a basic period, in poll-list order; the node's own source ports answer at once (R294). -/
def mvbPoll (s : State) (p : Nat) (idx : Int) : List Out :=
  ((sportCfg s p).ports.filter (fun x => idx % ((2 ^ x.exponent : Nat) : Int) == x.phase)).flatMap (fun x =>
    Out.mvbMaster p x.fcode x.addr :: (if x.source then [Out.mvbSlave p x.addr (mvbData s p x)] else []))

/-- MVB_BASIC_PERIOD: the periodic phase, and one status poll in the sporadic phase (R294, R297). A device polled
in the period before that has not answered counts as no longer answering. -/
def execMvbBasicPeriod (port : Nat) (s : State) : Res :=
  let c := sportCfg s port
  .next (if c.mode ≠ 1 ∨ c.pairB then s
  else
    let idx := basicIndex s c
    if idx < 0 ∨ (sport s port).basic = idx.toNat + 1 then s
    else
      let s1 := match (sport s port).polled with | none => s | some a => mvbStatus s port a none
      let s2 := emit s1 (mvbPoll s1 port idx)
      let s3 := setSport s2 port (fun q => { q with basic := idx.toNat + 1, polled := none })
      match c.devices[(sport s3 port).nextDevice % c.devices.length]? with
      | none => s3
      | some d =>
        emit (setSport s3 port (fun q => { q with nextDevice := (q.nextDevice + 1) % c.devices.length, polled := some d.addr }))
          [.mvbMaster port 15 d.addr])

/-- A valid MVB frame was seen (R290). -/
def mvbSeen (s : State) (p : Nat) (lineB : Bool) : State :=
  setSport s p (fun q => { q with port := (q.port.countGood).setUp true, frameAt := some s.clk, lineB := lineB })

/-- MVB_MASTER_FRAME_RECEIVED (R293, R295). -/
def execMvbMasterFrameReceived (port fcode addr : Nat) (checkOk : Bool) (s : State) : Res :=
  let c := sportCfg s port
  .next (if c.mode ≠ 2 ∨ c.pairB then s
  else if !checkOk || !(fcode ≤ 4 || fcode == 15) then setSport s port (fun q => { q with port := q.port.mark 3 })
  else
    let s1 := mvbSeen s port (sport s port).lineB
    if fcode = 15 then
      (if addr = c.deviceAddr then emit s1 [.mvbSlave port addr (be 2 c.deviceStatus)] else s1)
    else match mvbPort s port addr with
      | some x => if x.source ∧ x.fcode = fcode then emit s1 [.mvbSlave port addr (mvbData s port x)] else s1
      | none => s1)

/-- An enabled route of this unit that `sel` picks. -/
def routed (s : State) (sel : Bytes → Bool) : Bool :=
  match s.route.table with
  | none => false
  | some t => t.entries.any (fun p => rEnabled p.2 && rUnit p.2 + 1 == s.unitNo && sel p.2)

/-- An enabled route names a port address under its F-code. -/
def mvbRouted (s : State) (p addr fcode : Nat) : Bool :=
  routed s (fun e => rDomain e == 4 && rAddr e 0 1 == p && rAddr e 2 2 == addr && rAddr e 6 1 == fcode)

/-- A valid slave frame that answers a process data request: a sink port takes its data; one for no port and no route of this
port is dropped (R290, R295). -/
def takeMvbData (s : State) (port : Nat) (m : MvbIn) : State :=
  let known := mvbPort s port m.addr
  if known.any (fun x => x.sink && x.fcode == m.fcode) then
    putImage (setSport s port (fun q => { q with sinkAt := Tab.set q.sinkAt m.addr s.time.now }))
      (mvbKey s port m.addr) (fit m.data (2 * 2 ^ m.fcode))
  else if known.any (·.source) || mvbRouted s port m.addr m.fcode then s
  else setSport s port (fun q => { q with port := q.port.mark 5 })

/-- MVB_SLAVE_FRAME_RECEIVED (R289, R290, R295 to R297). -/
def execMvbSlaveFrameReceived (port : Nat) (m : MvbIn) (s : State) : Res :=
  let bad := fun (s : State) (b : Nat) => setSport s port (fun q => { q with port := q.port.mark b })
  .next (if !mvbMode s port then s
  else if m.missing then
    let s1 := bad s 6
    if m.fcode = 15 ∧ (sport s port).polled = some m.addr then
      mvbStatus (setSport s1 port (fun q => { q with polled := none })) port m.addr none
    else s1
  else if !m.inWindow then bad s 6
  else if m.short then bad s 0
  else if m.long then bad s 1
  else if m.checkBad then bad s 2
  else
    let s1 := mvbSeen s port m.lineB
    if m.fcode = 15 then
      (if (sport s port).polled = some m.addr then
        mvbStatus (setSport s1 port (fun q => { q with polled := none })) port m.addr (some (field m.data 0 2))
      else s1)
    else takeMvbData s1 port m)

/-- At To(n) the source ports' buffers take skim n's values (R289, R296). -/
def mvbOutputs (s : State) (outs : List StagedOut) : State :=
  [1, 2, 3, 4, 5, 6].foldl (fun s p =>
    if mvbMode s p then
      ((sportCfg s p).ports.filter (·.source)).foldl (fun s x =>
        let mine := outs.filter (fun o => farKey o.entry == mvbKey s p x.addr)
        if mine.isEmpty then s
        else setSport s p (fun q => { q with buffers := Tab.set q.buffers x.addr (composeInto (mvbData s p x) mine) })) s
    else s) s

/-! ### CAN ports and NMT (R302, R303, R305) -/

/-- An NMT command, to a node or with 0 to all. -/
def nmt (s : State) (c : Nat) (cmd : NmtCommand) (node : Nat) : State :=
  canSend s c ⟨0, false, be 1 cmd.code ++ be 1 node, false, false, false⟩

def nodeSt (s : State) (c node : Nat) : CanNodeSt := Tab.getD (canPort s c).nodes node ⟨.boot, 0, 0, 0, 0⟩

def setNode (s : State) (c node : Nat) (f : CanNodeSt → CanNodeSt) : State :=
  setCan s c (fun p => { p with nodes := Tab.set p.nodes node (f (Tab.getD p.nodes node ⟨.boot, 0, 0, 0, 0⟩)) })

def canNode (s : State) (c node : Nat) : Option CanNode := (canCfg s c).nodes.find? (fun x => x.node == node)

/-- A node's boot begins again with reset communication (R305). -/
def rebootNode (s : State) (c node : Nat) : State :=
  setNode (nmt s c .resetCommunication node) c node (fun n => { n with phase := .boot, since := s.clk, step := 0 })

/-- The next step of a booting node: the next download of its list, or NMT start (R305). -/
def bootStep (s : State) (c node : Nat) : State :=
  match canNode s c node with
  | none => s
  | some cfg =>
    match cfg.downloads[(nodeSt s c node).step]? with
    | none => setNode (nmt s c .start node) c node (fun n => { n with phase := .started, heard := s.clk })
    | some (ix, sub, d) =>
      if sdoBusy s c node then s
      else startSdo s c
        { node := node, access := false, key := ⟨6, 0, []⟩, index := ix, sub := sub, write := true, rest := d, got := []
          size := d.length, toggle := false, segmented := false, until_ := 0 } false

/-- Every node of a port is sent reset communication, and every boot begins (R303, R305). -/
def bootAll (s : State) (c : Nat) : State :=
  nmt (setCan s c (fun p => { p with
    nodes := (canCfg s c).nodes.map (fun n => (n.node, ⟨.boot, s.clk, 0, 0, s.clk⟩)) })) c .resetCommunication 0

/-- CAN_PORT_START: the port starts and boots its nodes. -/
def execCanPortStart (c : Nat) (s : State) : Res :=
  .next (if !(canCfg s c).enabled || (canPort s c).started then s
  else bootAll (setCan s c (fun p => { p with started := true, state := 0, beatAt := s.clk, port := p.port.setUp true })) c)

/-- The error counters are read while the controller is on the bus: free values, and the fault confinement state that they
give (R291; log entry 32). -/
def readCounters (s : State) (c : Nat) : State :=
  if !(canPort s c).started || (canPort s c).state == 2 then s
  else
    let tec := (Config.freeValue s.freeCount).toNat % 256
    let rec_ := (Config.freeValue (s.freeCount + 1)).toNat % 256
    setCan (tookFree s 2) c (fun p => { p with tec := tec, rec_ := rec_, state := if 127 < tec ∨ 127 < rec_ then 1 else 0 })

/-- The configured PDO of an identifier. -/
def inPdo (s : State) (c cob : Nat) : Option InPdo := (canCfg s c).ins.find? (fun x => x.cobId == cob)

/-- A received frame is one that a row of its kind acts on: a configured PDO, a configured node's own frame, the response to an
outstanding SDO (R306), or an EMCY that a route announces (R307). -/
def canKept (s : State) (c ident : Nat) : Bool :=
  let base := ident / 128 * 128
  let node := ident % 128
  (inPdo s c ident).isSome ||
    ((base == 0x700 || base == 0x580 || base == 0x080) && (canNode s c node).isSome) ||
    (base == 0x580 && sdoBusy s c node) ||
    (base == 0x080 && routed s (fun e => rDomain e == 5 && rAddr e 0 1 == c && rAddr e 1 1 == node && rFlag e 7))

/-- CAN_FRAME_RECEIVED: checked and counted, then kept for the row of its kind (R290, R292, R302). A valid frame that matches
nothing counts as a good frame and as a drop. -/
def execCanFrameReceived (c : Nat) (m : CanIn) (s : State) : Res :=
  .next (if !(canCfg s c).enabled || !(canPort s c).started || (canPort s c).state == 2 then s
  else if m.error then setCan s c (fun p => { p with port := p.port.mark 2 })
  else if 8 < m.dlc then setCan s c (fun p => { p with port := p.port.mark 1 })
  else
    let kept := canKept s c m.ident
    let known := kept || routed s (fun e => rDomain e == 5 && rAddr e 0 1 == c && rAddr e 2 4 == m.ident)
    setCan s c (fun p => { p with
      port := if known then p.port.countGood else p.port.countGood.mark 5
      inbox := if kept then p.inbox ++ [m] else p.inbox }))

/-- A row of a frame's kind acts on a received frame that waits, and takes it. -/
def takeCan (s : State) (c : Nat) (sel : CanIn → Bool) (act : State → State) : State :=
  match (canPort s c).inbox.find? sel with
  | none => s
  | some m => act (setCan s c (fun p => { p with inbox := dropOne m p.inbox }))

/-- The far key of a PDO (R203, R213). -/
def pdoKey (s : State) (c node cob : Nat) : FarKey := ⟨5, s.unitNo - 1, be 1 c ++ be 1 node ++ be 4 cob ++ zeros 4⟩

/-- PDO_RECEIVED: the far image is replaced (R289, R304). -/
def execPdoReceived (c cobId : Nat) (data : Bytes) (s : State) : Res :=
  .next (takeCan s c (fun m => m.ident == cobId && m.data == data && (inPdo s c cobId).isSome) (fun s =>
    match inPdo s c cobId with
    | none => s
    | some x =>
      putImage (setCan s c (fun p => { p with pdoAt := Tab.set p.pdoAt cobId s.time.now })) (pdoKey s c x.node cobId) data))

/-- HEARTBEAT_RECEIVED: boot-up or heartbeat with the state it shows; a boot-up ends the node's download of before (R305). -/
def execHeartbeatReceived (c node state : Nat) (s : State) : Res :=
  .next (takeCan s c (fun m => m.ident == 0x700 + node && field m.data 0 1 % 128 == state) (fun s =>
    let s1 := setNode s c node (fun n => { n with heartbeat := state, heard := s.clk })
    let anew := setCan s1 c (fun p => { p with sdos := p.sdos.filter (fun x => x.access || x.node != node) })
    let config := bootStep (setNode anew c node (fun n => { n with phase := .config, since := s.clk, step := 0 })) c node
    let reboot := setNode s1 c node (fun n => { n with phase := .boot, since := s.clk, step := 0 })
    let enter := fun (ph : NodePhase) => setNode s1 c node (fun n => { n with phase := ph })
    if state = 0 then config
    else match (nodeSt s c node).phase with
      | .boot => s1
      | .config => s1
      | _ => if state = 5 then enter .operational else if state = 0x7F then reboot else enter .missing))

/-- HEARTBEAT_TIMEOUT (R305). -/
def execHeartbeatTimeout (c node : Nat) (s : State) : Res :=
  let n := nodeSt s c node
  .next (match canNode s c node with
    | none => s
    | some cfg =>
      if (n.phase = .operational ∨ n.phase = .started) ∧ n.heard + cfg.consumer * 1000000 ≤ s.clk then
        setNode s c node (fun n => { n with phase := .missing })
      else s)

/-- BOOT_WAIT_EXPIRY (R305). -/
def execBootWaitExpiry (c node : Nat) (s : State) : Res :=
  let n := nodeSt s c node
  .next (if (canNode s c node).isSome ∧ (canPort s c).started ∧ n.phase = .boot ∧
      n.since + (canCfg s c).bootWait * 1000000 ≤ s.clk then rebootNode s c node else s)

/-! ### SDO transfers (R305, R306) -/

/-- A transfer ends: the access takes its answer, or the node's boot goes on. -/
def endSdo (s : State) (c : Nat) (x : Sdo) (a : FarAnswer) : State :=
  let s1 := setCan s c (fun p => { p with sdos := p.sdos.filter (fun y => y.node != x.node) })
  let s2 :=
    if x.access then completeUnit s1 x.key a
    else match a with
      | .ok _ => bootStep (setNode s1 c x.node (fun n => { n with step := n.step + 1 })) c x.node
      | _ => rebootNode s1 c x.node
  let s3 := pumpAll s2
  if (nodeSt s3 c x.node).phase = .config then bootStep s3 c x.node else s3

/-- The transfer goes on with a request. -/
def nextSdo (s : State) (c : Nat) (x : Sdo) (data : Bytes) : State :=
  let y := { x with until_ := s.clk + (canCfg s c).sdoTimeout * 1000000 }
  let s1 := setCan s c (fun p => { p with sdos := p.sdos.map (fun z => if z.node = x.node then y else z) })
  sdoFrame s1 c y (portLocked s (8 + c)) data

/-- The next segment of a download. -/
def sdoSegment (s : State) (c : Nat) (x : Sdo) : State :=
  let part := x.rest.take 7
  let rest := x.rest.drop 7
  nextSdo s c { x with rest := rest, toggle := !x.toggle }
    (be 1 (16 * b2n x.toggle + 2 * (7 - part.length) + b2n rest.isEmpty) ++ fit part 7)

/-- A server's response to a transfer; one that does not fit it is ignored. -/
def sdoAnswer (s : State) (c : Nat) (x : Sdo) (d : Bytes) : State :=
  let cs := field d 0 1
  let mux := bslice d 1 3 == sdoMux x
  let n := bits cs 3 2
  if cs = 0x80 then
    (if mux then endSdo s c x (.error (beNat (bslice d 4 4).reverse)) else s)
  else if x.write then
    if cs = 0x60 ∧ mux then (if x.segmented then sdoSegment s c x else endSdo s c x (.ok []))
    else if cs / 32 = 1 ∧ x.segmented ∧ bitOf cs 4 ≠ x.toggle then
      (if x.rest.isEmpty then endSdo s c x (.ok []) else sdoSegment s c x)
    else s
  else if cs / 32 = 2 ∧ mux ∧ !x.segmented then
    if bitOf cs 1 then
      endSdo s c x (.ok ((bslice d 4 4).take (if bitOf cs 0 then 4 - n else 4)))
    else nextSdo s c { x with segmented := true } (be 1 0x60)
  else if cs / 32 = 0 ∧ x.segmented ∧ bitOf cs 4 = x.toggle then
    let got := x.got ++ (d.drop 1).take (7 - bits cs 3 1)
    if bitOf cs 0 then endSdo s c { x with got := got } (.ok got)
    else nextSdo s c { x with got := got, toggle := !x.toggle } (be 1 (0x60 + 16 * b2n (!x.toggle)))
  else s

/-- SDO_RESPONSE_RECEIVED (R306). -/
def execSdoResponseReceived (c node : Nat) (data : Bytes) (s : State) : Res :=
  .next (takeCan s c (fun m => m.ident == 0x580 + node && m.data == data) (fun s =>
    match (canPort s c).sdos.find? (fun x => x.node == node) with
    | none => s
    | some x => sdoAnswer s c x data))

/-- SDO_TIMEOUT (R306). -/
def execSdoTimeout (c node : Nat) (s : State) : Res :=
  .next (match (canPort s c).sdos.find? (fun x => x.node == node) with
    | none => s
    | some x => if x.until_ ≤ s.clk then endSdo s c x .timeout else s)

/-- EMCY_RECEIVED: announcement kind 0x01 on the routes of the node's PDOs (R307). The error code is sent least
significant byte first (log entry 31). -/
def execEmcyReceived (c node : Nat) (data : Bytes) (s : State) : Res :=
  .next (takeCan s c (fun m => m.ident == 0x080 + node && m.data == data) (fun s =>
    raiseKey s (fun e => rDomain e == 5 && rUnit e + 1 == s.unitNo && rAddr e 0 1 == c && rAddr e 1 1 == node) 1
      (c * 2 ^ 24 + node * 65536 + beNat (bslice data 0 2).reverse) (fit data 8)))

/-! ### SYNC, heartbeat, bus-off (R302, R303) -/

/-- SYNC_PRODUCE: at Ts(n) + `SYNC_OFFSET` of every `SYNC_PERIOD`-th cycle, once. -/
def execSyncProduce (c : Nat) (s : State) : Res :=
  let cfg := canCfg s c
  .next (if !cfg.sync ∨ !s.cyc.running ∨ gridN s % cfg.syncPeriod ≠ 0 ∨ (canPort s c).syncAt = some (gridN s) ∨
      s.time.now < gridTs s + cfg.syncOffset * 1000 then s
  else
    let k := (canPort s c).syncCount % max 1 cfg.syncOverflow + 1
    canSend (setCan s c (fun p => { p with syncAt := some (gridN s), syncCount := k })) c
      ⟨cfg.syncCob, false, if cfg.syncOverflow = 0 then [] else be 1 k, false, true, false⟩)

/-- HEARTBEAT_PRODUCE: the node's own heartbeat, operational. -/
def execHeartbeatProduce (c : Nat) (s : State) : Res :=
  let cfg := canCfg s c
  .next (if cfg.ownNode = 0 ∨ s.clk < (canPort s c).beatAt + cfg.heartbeat * 1000000 then s
  else canSend (setCan s c (fun p => { p with beatAt := s.clk })) c ⟨0x700 + cfg.ownNode, false, be 1 5, false, true, false⟩)

/-- CAN_BUS_OFF: counted and logged; the transmit error counter's field holds a free value (R291, R302). -/
def execCanBusOff (c : Nat) (s : State) : Res :=
  .next (if !(canPort s c).started || (canPort s c).state == 2 then s
  else
    let s1 := report s 0x0703 13 c []
    setCan (tookFree s1 1) c (fun p => { p with
      state := 2, busOff := min 255 (p.busOff + 1), tec := (Config.freeValue s.freeCount).toNat % 256
      port := p.port.setUp false }))

/-- BUS_OFF_RECOVERY: started at most once per 100 ms; the controller is error-active again with its counters at
zero, and what waited is sent (R302). -/
def execBusOffRecovery (c : Nat) (s : State) : Res :=
  let ok : Bool := match (canPort s c).recoveredAt with | none => true | some t => decide (t + 100000000 ≤ s.clk)
  .next (if (canPort s c).state = 2 ∧ ok then
    flushCan (setCan s c (fun p => { p with
      state := 0, tec := 0, rec_ := 0, recoveredAt := some s.clk, port := p.port.setUp true })) c
  else s)

/-! ### FAULT (R313, R322) -/

/-- The reaction of a float of the firmware to its fault. F0 to F3 mute their port, and those and F4 and F5 make the node rejoin;
F12 boots every node; F14 loses the events not yet recorded, and logs their number (log entry 196); F15's wake latch keeps its
state. Such a float has restarted within the time that the table gives it. -/
def firmwareReaction (s : State) (k : Nat) : State :=
  let rejoin := fun (s : State) => { s with cyc := { s.cyc with joined := false, joinFrom := none } }
  match k with
  | 0 | 1 | 2 | 3 =>
    let p := allPorts.getD k .a1
    rejoin { s with line := { s.line with ports := s.line.ports.adj p (fun q => { q with muted := true }) } }
  | 4 | 5 => rejoin s
  | 12 => [1, 2, 3, 4].foldl (fun s c => if (canCfg s c).enabled && (canPort s c).started then bootAll s c else s) s
  | 14 =>
    let n := s.recorder.reports.length
    report { s with recorder := { s.recorder with
      reports := [], dropCount := min (2 ^ 32 - 1) (s.recorder.dropCount + n) } } 0x0005 17 n []
  | _ => s

/-- The subsystem of a float of the firmware (R26). -/
def floatSubsystem (k : Nat) : Nat :=
  match k with | 0 | 1 | 2 | 3 => 4 | 4 => 7 | 5 => 5 | 12 => 13 | 13 => 12 | 14 => 17 | 15 => 2 | _ => 13

/-- `FAULT` in a float of the firmware, whose program is not part of the interface (R310): its detail and its index are free
values. -/
def firmwareFault (s : State) (k : Nat) : State :=
  let detail := (Config.freeValue s.freeCount).toNat % 65536
  let index := (Config.freeValue (s.freeCount + 1)).toNat % 4096
  report (firmwareReaction (tookFree s 2) k) 0x0702 (floatSubsystem k) 5 (be 1 k ++ be 2 detail ++ be 2 index)

/-- FAULT: of a serial float its program's instruction, of the others a fault of the firmware's program. A profile's `FAULT`
ends its activation (F13), which no row runs by steps. -/
def execFFault (k : Nat) (s : State) : Res :=
  .next (if decide (6 ≤ k) && decide (k ≤ 11) then floatRow s k 0x2A fFault
  else if k = 13 ∨ 15 < k ∨ !managing s then s else firmwareFault s k)

/-! ### At To(n) and Ts(n) (R289, R304) -/

/-- A PDO cannot leave: its port does not run, or one of it still waits (R304). -/
def pdoStuck (s : State) (c cobId : Nat) : Bool :=
  !(canCfg s c).enabled || !(canPort s c).started || (canPort s c).queue.any (fun x => x.pdo && x.ident == cobId)

/-- The entries of the enabled OUT routes. -/
def outEntries (s : State) : List Bytes :=
  match s.route.table with | none => [] | some t => (enabledRoutes t 2).map (·.2)

/-- The output PDOs due with skim n, in order of COB-ID, whether or not a route fills them (OUTPUT_PDO_QUEUE, R304); one of a route with `ATOMIC_GROUP` takes the
port's lock for its frame (R246). One that could not leave is a failed far
write (R237; log entry 142). -/
def canOutputs (s : State) (n : Nat) (outs : List StagedOut) : State :=
  [1, 2, 3, 4].foldl (fun s c =>
    let due := ((canCfg s c).outs.filter (fun x => n % max 1 x.period == x.phase)).mergeSort (fun a b => a.cobId ≤ b.cobId)
    due.foldl (fun s x =>
      let names := fun (e : Bytes) => rDomain e == 5 && rUnit e + 1 == s.unitNo && rAddr e 0 1 == c && rAddr e 2 4 == x.cobId
      let mine := outs.filter (fun o => names o.entry)
      if !mine.isEmpty && unchanged s mine then s
      else
        let base := match (outEntries s).find? names with | none => zeros x.length | some e => appliedImage s (imageKey e) x.length
        let s1 := canSend s c ⟨x.cobId, x.fd, composeInto base mine, true, false, mine.any (fun o => rFlag o.entry 4)⟩
        if pdoStuck s c x.cobId then mine.foldl (fun s o => markFailed s o.route o.entry (some n) stFarTimeout 0 0) s1
        else mine.foldl (fun s o => markWritten s o.route o.entry o.raw) s1) s) s

/-- Whether an image's source is fresh at Ts, for MVB sink ports and received PDOs (R296, R304). -/
def fieldFresh (s : State) (ts : Int) (x : FarImage) : Bool :=
  let p := field x.key.addr 0 1
  let within := fun (ms : Nat) => match latchStamp s ts x with
    | none => false
    | some t => decide (ts ≤ t + ms * 1000000)
  if x.key.domain = 4 then
    match mvbPort s p (field x.key.addr 2 2) with
    | none => false
    | some q => within ((sportCfg s p).freshLimit q)
  else
    match inPdo s p (field x.key.addr 2 4) with
    | none => false
    | some q => within q.limit && (nodeSt s p q.node).phase == .operational

/-- An MVB port saw a valid frame within the last 4 basic periods (R290). -/
def mvbUp (s : State) (p : Nat) : Bool :=
  match (sport s p).frameAt with
  | none => false
  | some t => decide (s.clk ≤ t + 4 * (sportCfg s p).tbp * 1000)

/-- Freshness of the field buses' images at Ts, and the link of MVB ports (R290, R296, R304). -/
def ageField (s : State) (ts : Int) : State :=
  let s1 := { s with route := { s.route with images := s.route.images.map (fun x =>
    if (x.key.domain = 4 ∨ x.key.domain = 5) ∧ x.key.unit + 1 = s.unitNo then { x with fresh := fieldFresh s ts x } else x) } }
  [1, 2, 3, 4, 5, 6].foldl (fun s p =>
    if mvbMode s p then setSport s p (fun q => { q with port := q.port.setUp (mvbUp s p) }) else s) s1

end Sys2Proof.Machine
end

