-- ==== Sys2Proof/Machine/Vehicle.lean ====
section
/-! DEFINITION. The rows of the vehicle network: ports, switch, gates, ARP, IPv4, TRDP, PTP and rings
(spec file 09, R165). -/

namespace Sys2Proof.Machine

/-! ### Device channels that follow the network (R280) -/

/-- A port of the interface's VLAN is linked. -/
def ifaceUp (s : State) (i : Nat) : Bool :=
  match iface s i with | none => false | some c => vports.any (fun v => isMember s v c.vlan && vlink s v)

/-- A channel is `RESOLVING`: what was outstanding is gone, accesses to it end, and ARP asks for its address
(R280). -/
def toResolving (s : State) (k : Nat) : State :=
  let c := chanSt s k
  let s1 := setChan s k { c with state := .resolving, misses := 0, oks := 0, exceptions := 0, out := 0, refused := none }
  let s2 := failChannel s1 k (2 * 2 ^ 24 + chCode .resolving)
  if (arpMac s2 (chIface c) (chAddr c)).isSome || (arpFind s2 (chIface c) (chAddr c)).isSome then s2
  else startArp s2 (chIface c) (chAddr c) []

/-- Enabled channels picked by `sel` return to `RESOLVING`. -/
def unresolve (s : State) (sel : ChanSt → Bool) : State :=
  (s.veh.chans.filter (fun p => chEnabled p.2 && sel p.2)).foldl (fun s p => toResolving s p.1) s

/-! ### Ports (R258, R261) -/

/-- VPORT_LINK_UP. A port links at a speed that it advertises. -/
def execVportLinkUp (v speed : Nat) (fullDuplex mdix master : Bool) (s : State) : Res :=
  .next (if !(vportCfg s v).enabled || 2 < speed || !bitOf (vportCfg s v).speeds speed then s
  else if !fullDuplex then
    report (setVport s v (fun p => { p with link := setBit p.link 7 true })) 0x0601 11 v []
  else
    let ptp := (vportCfg s v).ptp != 0 && 1 ≤ speed
    let s1 := setVport s v (fun p =>
      let l := setField p.link 2 1 speed
      let l := setBit (setBit (setBit l 0 true) 3 true) 4 mdix
      { p with link := setBit (setBit l 5 (master && speed == 2)) 6 ptp, open_ := gateStates s v })
    let here := (net s).ifaces.filter (fun i => isMember s v i.2.vlan)
    let s2 := here.foldl (fun s i => gratuitous s i.1) s1
    let asking := s2.veh.chans.filter (fun p => p.2.state == .resolving)
    asking.foldl (fun s p =>
      if (arpFind s (chIface p.2) (chAddr p.2)).isSome then s else startArp s (chIface p.2) (chAddr p.2) []) s2)

/-- VPORT_LINK_DOWN. -/
def execVportLinkDown (v : Nat) (s : State) : Res :=
  .next (if !vlink s v then s
  else
    let s1 := setVport s v (fun p =>
      let n := min 255 (bits p.link.toNat 23 16 + 1)
      { p with link := setField (setField p.link 6 0 0) 23 16 n })
    let dead := fun (c : ChanSt) => !ifaceUp s1 (chIface c)
    unresolve { s1 with veh := { s1.veh with macs := s1.veh.macs.filter (fun m => m.port != v) } } dead)

/-! ### The switch (R259, R263, R264, R265) -/

/-- A frame received: addresses, VLAN, priority, the bytes from the EtherType on. -/
def classify (s : State) (v : Nat) (b : Bytes) : VFrame :=
  let c := vportCfg s v
  let tagged := field b 12 2 == 0x8100
  let tci := field b 14 2
  let vid := tci % 4096
  let body := b.take (b.length - 4)
  { dst := field b 0 6, src := field b 6 6
    vlan := if tagged then (if vid = 0 then c.pvid else vid) else c.pvid
    ttl := 0, tagged := tagged, pcp := if tagged then tci / 8192 else c.defaultPcp
    body := .raw (body.drop (if tagged then 16 else 12)) }

/-- Learns a source address (R264). -/
def learn (s : State) (v : Nat) (f : VFrame) : State :=
  let rest := s.veh.macs.filter (fun m => !(m.vid == f.vlan && m.mac == f.src))
  if bitOf f.src 40 ∨ 16384 ≤ rest.length then s
  else { s with veh := { s.veh with macs := rest ++ [⟨f.vlan, f.src, v, s.clk⟩] } }

def bodyBytes : VBody → Bytes
  | .raw b => b
  | _ => []

/-- A PTP message: EtherType 0x88F7, or UDP to ports 319 and 320 (R165, R265). -/
def isPtp (b : Bytes) : Bool :=
  field b 0 2 == 0x88F7 ||
    (field b 0 2 == 0x0800 && field b 11 1 == 17 &&
      (let h := 2 + 4 * (field b 2 1 % 16); field b (h + 2) 2 == 319 || field b (h + 2) 2 == 320))

/-- The UDP ports bound by the node's device channels. -/
def boundPorts (s : State) : List Nat :=
  ((net s).channels.map (fun p =>
    let e := (chanSt s p.1).entry
    if field e 10 2 = 0 then 49152 + p.1 else field e 10 2))

/-- The header checksum of a datagram holds: the ones' complement sum of the header's 16-bit words is 0xFFFF (R271). -/
def ipSumOk (b : Bytes) : Bool :=
  let n := 2 * (field b 2 1 % 16)
  let t := ((List.range n).map (fun i => field b (2 + 2 * i) 2)).sum
  t != 0 && t % 65535 == 0

/-- A datagram is for the node: to an interface of the VLAN, to a multicast group it subscribes, or to broadcast (R271). -/
def datagramMine (s : State) (vlan ip : Nat) : Bool :=
  (net s).ifaces.any (fun i => i.2.vlan == vlan && (i.2.ip == ip || isBroadcast s i.1 ip || (net s).groups.contains ip))

/-- A UDP datagram for the node that its hardware does not consume: message data that is not a reply it waits
for, or a port that nothing binds (R283). -/
def forService (s : State) (vlan : Nat) (b : Bytes) : Bool :=
  let h := 2 + 4 * (field b 2 1 % 16)
  let dport := field b (h + 2) 2
  let src := field b 14 4
  field b 0 2 == 0x0800 && field b 11 1 == 17 && field b 8 2 % 16384 == 0 && ipSumOk b && datagramMine s vlan (field b 18 4) &&
    ((dport == 17225 && !s.veh.sessions.any (fun x => x.ip == src)) ||
     (!(dport == 17224 || dport == 17225 || dport == 319 || dport == 320) && !(boundPorts s).contains dport))

/-- A frame accepted for its VLAN goes to its egress ports, and to the node when it is addressed there: the service ring takes
a datagram's frame up to the end of the datagram, without padding and FCS (R283). -/
def switchFrame (s : State) (v : Nat) (f : VFrame) (b : Bytes) : State :=
  let body := bodyBytes f.body
  let mine := (net s).ifaces.any (fun i => i.2.vlan == f.vlan && ifaceMac s i.1 == f.dst)
  let group := bitOf f.dst 40
  let s1 :=
    if (mine || group) && forService s f.vlan body then
      (toRing s serviceRing ⟨b.take (b.length - 4 - body.length + 2 + field body 4 2), 3, time64 s.time.now % 4294967296, none⟩).1
    else s
  if mine || isPtp body then s1
  else (egressPorts s1 f.vlan f.dst v).foldl (fun s w =>
    egress s w ((vportCfg s w).pcpMap.getD f.pcp f.pcp) none f) s1

/-- VEHICLE_FRAME_RECEIVED. A frame with several causes to be dropped sets the first of R259's table (log entry 174). -/
def execVehicleFrameReceived (v : Nat) (b : Bytes) (bad : Bool) (s : State) : Res :=
  let f := classify s v b
  let mark := fun (k : Nat) (g : Vport → Vport) => setVport s v (fun p => g { p with status := setBit p.status k true })
  .next (if !vlink s v then s
  else if bad then mark 2 (fun p => { p with fcs := count32 p.fcs })
  else if b.length ≤ 63 then mark 0 (fun p => { p with runts := count32 p.runts })
  else if (vlanCfg s f.vlan).maxFrame < b.length then mark 1 (fun p => { p with oversize := count32 p.oversize })
  else
    let s1 := setVport s v (fun p => { p with good := count32 p.good })
    if 0x0180C2000000 ≤ f.dst ∧ f.dst ≤ 0x0180C200000F then s1
    else if f.vlan = 4095 ∨ !isMember s v f.vlan then vdrop s1 v 5
    else switchFrame (learn s1 v f) v f b)

/-- MAC_ENTRY_AGEING (R264). -/
def execMacEntryAgeing (vlan mac : Nat) (s : State) : Res :=
  .next { s with veh := { s.veh with macs := s.veh.macs.filter (fun m =>
    !(m.vid == vlan && m.mac == mac && m.at_ + (net s).ageing * 1000000000 ≤ s.clk)) } }

/-! ### Gate lists (R267, R268) -/

/-- The gates of a port move to the entry in force: frames originated for a gate that closes unstarted, once their To has
come, are discarded, and open queues send. -/
def moveGates (s : State) (v : Nat) : State :=
  let p := vport s v
  let mask := gateStates s v
  let closing := fun q => bitOf p.open_ q && !bitOf mask q
  let late := fun (x : QFrame) => x.gate.isSome && gateCome s x && closing x.queue
  let lost := p.queue.filter late
  let s1 := lost.foldl (fun s _ => vdrop s v 6) s
  let s2 := setVport s1 v (fun p => { p with
    open_ := mask, queue := p.queue.filter (fun x => !late x) })
  drainPort v (vport s2 v).queue.length 0 s2

/-- GATE_ENTRY_BOUNDARY. -/
def execGateEntryBoundary (v : Nat) (s : State) : Res :=
  .next (if (vport s v).gates.isSome then moveGates s v else s)

/-- GATE_LIST_ACTIVATION: a staged list takes force at the first start of its period from its activation cycle
on. -/
def execGateListActivation (v : Nat) (s : State) : Res :=
  .next (match (vport s v).staged with
    | none => s
    | some (b, act) =>
      let due := (gridN s == act || cycBefore act (gridN s)) && gridN s % max 1 (gateM b) == 0 &&
        gridTs s + (outOffset s : Nat) ≤ s.time.now
      if due then
        moveGates (setVport s v (fun p => { p with gates := some b, staged := none })) v
      else s)

/-! ### ARP and IPv4 (R270, R271) -/

/-- ARP_REQUEST_RECEIVED. -/
def execArpRequestReceived (i sip smac tip : Nat) (s : State) : Res :=
  let own := ifaceIp s i
  .next (if (iface s i).isNone then s
  else if sip = own ∧ smac ≠ ifaceMac s i then
    let rest := s.veh.claims.filter (fun c => c.iface != i)
    let old := s.veh.claims.find? (fun c => c.iface == i)
    let at_ := match old with | none => s.clk | some c => c.sentAt
    let s1 := { s with veh := { s.veh with claims := rest ++ [⟨i, true, at_⟩] } }
    report (if old.isNone then gratuitous s1 i else s1) 0x0602 11 i []
  else if tip = own then sendArp s i 2 sip smac smac
  else s)

/-- ARP_REPLY_RECEIVED: a destination resolves and its held frames leave. A reply that names an own address is a
conflicting claim. -/
def execArpReplyReceived (i sip smac : Nat) (s : State) : Res :=
  .next (if sip = ifaceIp s i ∧ smac ≠ ifaceMac s i ∧ (iface s i).isSome then
    let rest := s.veh.claims.filter (fun c => c.iface != i)
    let old := s.veh.claims.find? (fun c => c.iface == i)
    let at_ := match old with | none => s.clk | some c => c.sentAt
    let s1 := { s with veh := { s.veh with claims := rest ++ [⟨i, true, at_⟩] } }
    report (if old.isNone then gratuitous s1 i else s1) 0x0602 11 i []
  else match arpFind s i sip with
    | none => s
    | some a =>
      a.held.foldl (fun s h => sendEther s i smac h.queue h.gate h.body) (setArp s ⟨i, sip, some smac, 0, s.clk, []⟩))

def dropArp (s : State) (i ip : Nat) : State :=
  { s with veh := { s.veh with arp := s.veh.arp.filter (fun a => !(a.iface == i && a.ip == ip)) } }

/-- An enabled channel waits for an address to resolve. -/
def resolvingAt (s : State) (i ip : Nat) : Bool :=
  s.veh.chans.any (fun p => chEnabled p.2 && p.2.state == .resolving && chIface p.2 == i && chAddr p.2 == ip)

/-- ARP_RETRY_TIMER: 100 ms after a request, the next; after the third the held frames are dropped. While a channel waits in
`RESOLVING` for the address, the requests begin again (R280; log entry 190). -/
def execArpRetryTimer (i ip : Nat) (s : State) : Res :=
  .next (match arpFind s i ip with
    | none => s
    | some a =>
      if a.mac.isSome ∨ s.clk < a.at_ + 100000000 then s
      else if a.tries < 3 then sendArp (setArp s { a with tries := a.tries + 1, at_ := s.clk }) i 1 ip 0 broadcastMac
      else if resolvingAt s i ip then startArp (dropArp s i ip) i ip []
      else dropArp s i ip)

/-- ARP_ENTRY_AGEING: a dynamic entry goes after 300 s, and channels that used it resolve again (R270, R280). -/
def execArpEntryAgeing (i ip : Nat) (s : State) : Res :=
  .next (match arpFind s i ip with
    | none => s
    | some a =>
      if a.mac.isSome ∧ a.at_ + 300000000000 ≤ s.clk then
        unresolve (dropArp s i ip) (fun c => chIface c == i && chAddr c == ip)
      else s)

/-- GRATUITOUS_ARP_REPEAT: every 10 s while the claim persists. -/
def execGratuitousArpRepeat (i : Nat) (s : State) : Res :=
  .next (match s.veh.claims.find? (fun c => c.iface == i) with
    | none => s
    | some c =>
      let rest := s.veh.claims.filter (fun c => c.iface != i)
      if s.clk < c.sentAt + 10000000000 then s
      else if c.heard then
        gratuitous { s with veh := { s.veh with claims := rest ++ [⟨i, false, s.clk⟩] } } i
      else { s with veh := { s.veh with claims := rest } })

/-- IP_DATAGRAM_RECEIVED: an accepted echo request is answered from the interface's address (R271). -/
def execIpDatagramReceived (i : Nat) (d : IpIn) (s : State) : Res :=
  let c := iface s i
  .next (if c.isNone then s
  else if d.frag then report s 0x0681 11 1 []
  else if !d.sumOk then { s with veh := { s.veh with badChecksum := count32 s.veh.badChecksum } }
  else if !(d.dst == ifaceIp s i || (net s).groups.contains d.dst || isBroadcast s i d.dst) then s
  else if d.proto = 1 ∧ d.echo then
    let fresh := s.veh.echoFrom + 1000000000 ≤ s.clk
    let count := if fresh then 0 else s.veh.echoes
    if 64 ≤ count then s
    else sendIp { s with veh := { s.veh with
        echoFrom := if fresh then s.clk else s.veh.echoFrom, echoes := count + 1 } }
      i d.src (net s).arpQueue none (.echo (ifaceIp s i) d.src d.payload)
  else s)

/-! ### TRDP (R272 to R276) -/

/-- The far key of a ComId under a source filter or destination. -/
def trdpKey (s : State) (comId ip : Nat) : FarKey := ⟨2, s.unitNo - 1, be 4 comId ++ be 4 ip ++ zeros 2⟩

/-- The earliest staged skim for which a telegram is due and not yet sent. -/
def dueSkim (s : State) (period phase : Nat) (last : Option Nat) : Option (Nat × List StagedOut) :=
  s.skim.staging.find? (fun x => x.1 % max 1 period == phase &&
    (match last with | none => true | some l => cycBefore l x.1))

/-- The cycle whose To comes next. -/
def nextOut (s : State) : Nat :=
  let n := cycAdd (gridN s) (cycleMod - outDelay s)
  if toOf s n < s.time.now then cycAdd n 1 else n

/-- The latest cycle whose To has come. -/
def latestOut (s : State) : Nat :=
  let n := nextOut s
  if toOf s n ≤ s.time.now then n else cycAdd n (cycleMod - 1)

/-- The next cycle from the next To on that a period and phase name. -/
def dueFrom (n period phase : Nat) : Nat := cycAdd n ((phase + period - n % period) % period)

/-- TRDP_PUBLISH (R274). A skim that is not staged by its To is sent with the last applied values. -/
def execTrdpPublish (i : Nat) (s : State) : Res :=
  .next (match (net s).pubs[i]? with
    | none => s
    | some t =>
      let st := Tab.getD s.veh.pubs i ⟨0, none⟩
      let k := trdpKey s t.comId t.dest
      let send := fun (n : Nat) (l : List StagedOut) =>
        let d := stagedImage s k t.length l
        let seq := (st.seq + 1) % 4294967296
        let s1 := { s with veh := { s.veh with pubs := Tab.set s.veh.pubs i ⟨seq, some n⟩ } }
        sendIp s1 t.iface t.dest t.queue (some n)
          (.trdp (trdpOut s 0x5064 t.comId seq t.dest 0 0 d))
      if !managing s ∨ s.pair.repeatOff then s
      else match dueSkim s t.period t.phase st.last with
        | some x => send x.1 x.2
        | none =>
          let n := latestOut s
          let fresh : Bool := match st.last with | none => true | some l => cycBefore l n
          if s.cyc.running ∧ s.skim.applied.isSome ∧ n % max 1 t.period = t.phase ∧ fresh then send n [] else s)

/-- The header rules of R273: `TRDP_HEADER` or `TRDP_TOPO` counted, else the telegram is acted on. -/
def trdpHeader (s : State) (t : TrdpIn) (act : State → State) : State :=
  if !t.headerOk || t.version / 256 != 1 then report s 0x0682 11 1 []
  else if t.etbTopo != 0 && t.etbTopo != topoInForce s then report s 0x0683 11 1 []
  else act s

/-- TRDP_PR_RECEIVED: answered with Pp from the last applied dataset at the next opening of its gate, which is that of the next
To for which the telegram is due (R274; log entry 191); at once where no cycle runs. -/
def execTrdpPrReceived (t : TrdpIn) (s : State) : Res :=
  .next (trdpHeader s t (fun s =>
    match (net s).pubs.find? (fun x => x.comId == t.comId) with
    | none => s
    | some x =>
      let ip := if t.replyIp = 0 then t.src else t.replyIp
      let com := if t.replyComId = 0 then t.comId else t.replyComId
      let d := stagedImage s (trdpKey s x.comId x.dest) x.length []
      let gate := if s.cyc.running then some (dueFrom (nextOut s) (max 1 x.period) x.phase) else none
      sendIp s x.iface ip x.queue gate (.trdp (trdpOut s 0x5070 com 0 ip 0 0 d))))

/-- TRDP_PD_RECEIVED (R275). -/
def execTrdpPdReceived (t : TrdpIn) (s : State) : Res :=
  .next (trdpHeader s t (fun s =>
    let subs := (List.range (net s).subs.length).zip (net s).subs
    match subs.find? (fun x => x.2.comId == t.comId && x.2.iface == t.interface && (x.2.source == 0 || x.2.source == t.src)) with
    | none => { s with veh := { s.veh with unrouted := count32 s.veh.unrouted } }
    | some (i, c) =>
      if t.kind ≠ 0x5064 ∧ t.kind ≠ 0x5070 then s
      else if t.dataset.length ≠ c.length then report s 0x0605 11 t.dataset.length []
      else
        let st := Tab.getD s.veh.subs i ⟨[], t.src, 0, none⟩
        if st.seqs.contains (t.src, t.seq) then s
        else
          let multi := c.source == 0 && st.source != t.src
          let topo := some (topoInForce s)
          let s1 := reportIf (multi && decide (st.multi ≠ topo)) s 0x0606 11 t.comId []
          let seqs := (st.seqs.filter (fun x => x.1 != t.src)) ++ [(t.src, t.seq)]
          let s2 := { s1 with veh := { s1.veh with subs := Tab.set s1.veh.subs i ⟨seqs, t.src, s.time.now, if multi then topo else st.multi⟩ } }
          putImage s2 (trdpKey s2 c.comId c.source) t.dataset))

/-- TRDP_REPLY_RECEIVED: the reply to the node's Mr ends the access; Mq is answered with Mc (R276). -/
def execTrdpReplyReceived (t : TrdpIn) (s : State) : Res :=
  .next (trdpHeader s t (fun s =>
    match s.veh.sessions.find? (fun x => x.no == t.session && x.ip == t.src) with
    | none => s
    | some x =>
      if t.kind ≠ 0x4D70 ∧ t.kind ≠ 0x4D71 ∧ t.kind ≠ 0x4D65 then s
      else
        let s1 := { s with veh := { s.veh with sessions := dropOne x s.veh.sessions } }
        let s2 := if t.kind = 0x4D71 then
            sendMd s1 0x4D63 t.comId t.src t.session 0 []
          else s1
        let want := match headTxn s2 x.key with
          | none => (0, 0, true, 0)
          | some y => (rByteOff y.entry + y.unitsDone * rUnitBytes y.entry, rUnitBytes y.entry, writing y, y.route)
        let done := if t.kind = 0x4D65 ∨ t.resultCode ≠ 0 then completeUnit s2 x.key (.error t.resultCode)
          else if want.2.2.1 then completeUnit s2 x.key (.ok [])
          else if t.dataset.length < want.1 + want.2.1 then completeUnit s2 x.key (.error 0x7FFFFFFF)
          else completeUnit (keepAhead s2 x.key want.2.2.2 0 t.dataset) x.key (.ok (bslice t.dataset want.1 want.2.1))
        pumpAll done))

/-- TRDP_REPLY_TIMEOUT (R276). -/
def execTrdpReplyTimeout (session : Nat) (s : State) : Res :=
  .next (match s.veh.sessions.find? (fun x => x.no == session) with
    | none => s
    | some x =>
      if s.clk < x.until_ then s
      else pumpAll (completeUnit { s with veh := { s.veh with sessions := dropOne x s.veh.sessions } } x.key .timeout))

/-- A subscription is fresh when the image latched at Ts(n) was accepted within the timeout before it (R275). -/
def ageSubscriptions (s : State) (ts : Int) : State :=
  ((List.range (net s).subs.length).zip (net s).subs).foldl (fun s x =>
    markImage s (trdpKey s x.2.comId x.2.source) (fun y => match latchStamp s ts y with
      | none => false
      | some t => decide (ts ≤ t + (x.2.timeout * 1000000 : Nat)))) s

/-! ### PTP (R165) -/

/-- A PTP message leaves a port outside its queues and gates, to the group of the port's transport. -/
def sendPtp (s : State) (v kind seq : Nat) (b : Bytes) : State :=
  let dst := if (vportCfg s v).ptp = 1 then 0x01005E000181 else 0x011B19000000
  emit s [.vehicle v ⟨dst, s.veh.macBase, 0, false, 0, 0, .ptp kind seq b⟩]

def ptpOn (s : State) (v : Nat) : Bool := managing s && vlink s v && (vport s v).link.getLsbD 6

/-- PTP_SYNC_SEND: one-step, with train time as its origin time stamp. -/
def execPtpSyncSend (v : Nat) (s : State) : Res :=
  .next (if ptpOn s v && ptpDue s (ptpState s v).syncAt (net s).logSync then
    let st := ptpState s v
    sendPtp { s with time := { s.time with
        ptp := Tab.set s.time.ptp v { st with syncSeq := (st.syncSeq + 1) % 65536, syncAt := some s.clk } } }
      v 0 st.syncSeq (ptpSource s v (net s).ptpDomain (net s).logSync ++ be 8 (time64 s.time.now))
  else s)

/-- PTP_ANNOUNCE_SEND: the source, no flag (`ptpTimescale` and `currentUtcOffsetValid` are 0), class, accuracy and
priorities. -/
def execPtpAnnounceSend (v : Nat) (s : State) : Res :=
  .next (if ptpOn s v && ptpDue s (ptpState s v).annAt (net s).logAnnounce then
    let st := ptpState s v
    sendPtp { s with time := { s.time with
        ptp := Tab.set s.time.ptp v { st with annSeq := (st.annSeq + 1) % 65536, annAt := some s.clk } } }
      v 0xB st.annSeq (ptpSource s v (net s).ptpDomain (net s).logAnnounce ++ zeros 1 ++ be 1 (clockClass s) ++
        be 1 (clockAccuracy s) ++ be 1 (net s).ptpPriority1 ++ be 1 (net s).ptpPriority2)
  else s)

/-- PTP_DELAY_REQ_RECEIVED: answered with the receive time stamp. -/
def execPtpDelayReqReceived (v seq : Nat) (requester : Bytes) (arrival : Int) (s : State) : Res :=
  .next (if ptpOn s v then sendPtp s v 9 seq (ptpSource s v (net s).ptpDomain (net s).logMinDelayReq ++
    be 8 (time64 arrival) ++ requester) else s)

/-- PTP_ANNOUNCE_RECEIVED: counted and logged, never followed. -/
def execPtpAnnounceReceived (v : Nat) (s : State) : Res :=
  .next (if ptpOn s v then
    let st := ptpState s v
    report { s with time := { s.time with ptp := Tab.set s.time.ptp v { st with foreign := count32 st.foreign } } } 0x0603 11 v []
  else s)

/-! ### Rings (R284, R285) -/

/-- RING_DESCRIPTOR_RETURN: a reader returns descriptors of the ring of a channel's endpoint, or of the service
ring (256). -/
def execRingDescriptorReturn (chan count : Nat) (s : State) : Res :=
  .next (returnDescs s (if chan = serviceRing then serviceRing else channelEnd chan) count)

/-- STAGING_TIMEOUT: a frame staged for 100 µs is dropped whole. A bridge message dropped so is lost before its
row (R231). -/
def execStagingTimeout (s : State) : Res :=
  .next (match s.veh.staging.find? (fun x => x.at_ + 100000 ≤ s.clk) with
    | none => s
    | some x =>
      let s1 := starveRing { s with veh := { s.veh with staging := dropOne x s.veh.staging } } x.ring x.frame
      let s2 := { s1 with bridge := { s1.bridge with
        inbox := s1.bridge.inbox.filter (fun f => !(x.frame.port.isSome && ringBytes f == x.frame.data)) } }
      unstage x.ring s2.veh.staging.length s2)

end Sys2Proof.Machine
end

