-- ==== Sys2Proof/Machine/Channel.lean ====
section
/-! DEFINITION. Device channels and the profiles of F13 (R277 to R282, R319). -/

namespace Sys2Proof.Machine

/-- The key of a channel's images. -/
def chanKey (s : State) (ch : Nat) : FarKey := ⟨7, s.unitNo - 1, be 1 0 ++ be 2 ch⟩

/-! ### Activations (R319) -/

/-- The float as an activation finds it: program started at an entry, windows filled. -/
def profileStart (s : State) (ch : Nat) (p : Program) (entry : Nat) (out resp : Bytes) (txn : Option FloatTxn)
    (data : Bytes) : FloatSt :=
  let c := chanSt s ch
  let f := startProgram FloatSt.init p entry
  let input := fit ((imageOf s.route.images (chanKey s ch)).elim [] (·.data)) (chInLen c)
  let m := Mem.writeN f.data 0x9000 (resp.take 1472)
  let m := Mem.writeN (Mem.writeN m 0xA000 input) 0xB000 out
  { f with data := Mem.writeN m 0xC000 c.state16, txn := txn, txnData := fit data 16 }

/-- Runs a profile for a channel: request kind, output image, response, and the access it serves. None while the
profile has no program. -/
def activate (s : State) (ch kind : Nat) (out resp : Bytes) (txn : Option FloatTxn) (data : Bytes) :
    Option (Except (Nat × Nat × FloatSt) FloatSt) :=
  let c := chanSt s ch
  (Tab.get? s.fld.profiles (chProfile c)).map (fun p =>
    let f := profileStart s ch p (if kind = 3 then p.parse else p.entry) out resp txn data
    runProfile { now := s.time.now, clk := s.clk, timeout := 0, charNs := 0, profile := true, reqKind := kind
                 channel := ch, arg := chArg c, respLength := resp.length, free := s.freeCount } 1025 f)

/-! ### Alarms and states (R280, R282) -/

/-- Announcement kind 0x03 on the routes that name the channel. -/
def chanAlarm (s : State) (ch reason code : Nat) (payload : Bytes) : State :=
  raiseKey s (fun e => onChannel s ch e) 3 (ch * 65536 + reason * 256 + code) payload

/-- The holder of a semaphore that a channel's cyclic request holds: no message channel has such a number. -/
def cyclicHolder (ch : Nat) : Nat := 65536 + ch

/-- A channel's cyclic request holds the free semaphores of its routes with `ATOMIC_GROUP`, the OUT routes that it carries and
the IN routes (R209, R210, R249). -/
def takeSems (s : State) (ch : Nat) (l : List StagedOut) : State :=
  let ins := match s.route.table with | none => [] | some t => (enabledRoutes t 1).map (·.2)
  let es := (l.map (·.entry) ++ ins).filter (fun e => onChannel s ch e && needsSem e)
  es.foldl (fun s e => if (semOf s (rGroup e)).isSome then s else setSem s ⟨rGroup e, cyclicHolder ch, 0⟩) s

/-- The semaphores that a channel's cyclic request held are free again, and the first that waits for each has it (R248,
R249). -/
def dropSems (s : State) (ch : Nat) : State :=
  let mine := s.bridge.sems.filter (fun x => x.holder == cyclicHolder ch)
  if mine.isEmpty then s else pumpAll (mine.foldl (fun s x => grantWaiter (freeSem s x.sem) x.sem) s)

/-- The channel enters a state, with its alarm; accesses to a channel that is not `ACTIVE` end. -/
def enterChan (s : State) (ch : Nat) (st : ChanState) (detail : Nat) : State :=
  let c := chanSt s ch
  let s1 := setChan s ch { c with state := st, misses := 0, oks := 0, exceptions := if st = .active then c.exceptions else 0 }
  let s1 := if st = .active then s1 else dropSems s1 ch
  let s2 := if st = .active then s1 else failChannel (setChan s1 ch { chanSt s1 ch with out := 0 }) ch detail
  match st with
  | .missing => chanAlarm s2 ch 1 0 []
  | .faulted => if c.state = .faulted then s2 else chanAlarm s2 ch 2 0 []
  | .active => if c.received then chanAlarm s2 ch 3 0 [] else s2
  | _ => s2

/-- The OUT routes that a channel's cyclic request carries. -/
def chanOuts (s : State) (ch : Nat) : List (Nat × Bytes) :=
  match s.route.table with
  | none => []
  | some t => (enabledRoutes t 2).filter (fun p => onChannel s ch p.2)

/-- The cyclic request of a channel failed as a far write (R237; log entry 142). -/
def failOuts (s : State) (ch status detail : Nat) : State :=
  if (chanSt s ch).out = 1 then (chanOuts s ch).foldl (fun s p => markFailed s p.1 p.2 (chanSt s ch).lastCyclic status 0 detail) s else s

/-- The cyclic request of a channel succeeded. -/
def passOuts (s : State) (ch : Nat) : State :=
  if (chanSt s ch).out = 1 then
    (chanOuts s ch).foldl (fun s p => markWritten s p.1 p.2 ((routeStateOf s p.1).rawWritten.getD 0)) s
  else s

/-- A profile float fault: the channel goes to `FAULTED` with class 0x04 (R281, R322). -/
def profileFault (s : State) (ch code detail index : Nat) : State :=
  let s1 := failOuts (report s 0x0702 12 code (be 1 13 ++ be 2 detail ++ be 2 index)) ch stFarError (4 * 2 ^ 24 + code)
  let c := chanSt s1 ch
  enterChan (setChan s1 ch { c with out := 0, lastFaultPoll := s.clk }) ch .faulted (4 * 2 ^ 24 + code)

/-! ### Requests -/

/-- The access that the channel carries on demand. -/
def chanDemand (s : State) (ch : Nat) : Option FarTxn :=
  s.bridge.farQueue.find? (fun x => onChannel s ch x.entry && x.started && headTxn s x.key == some x)

/-- The transaction fields of an access (R318). -/
def chanTxn (x : FarTxn) : FloatTxn :=
  let w := rUnitBytes x.entry
  ⟨b2n (writing x), rAddr x.entry 1 2, rAddr x.entry 3 1, rAddr x.entry 4 4 + x.unitsDone * w, w, 0⟩

/-- The 16 bytes of channel state that an activation leaves, however it ends (R319). -/
def keepChannel (s : State) (ch : Nat) (f : FloatSt) : State :=
  setChan s ch { chanSt s ch with state16 := Mem.readN f.data 0xC000 16 }

/-- Sends the request that a build activation left; `until_` is when it leaves. An activation that does not end
with class 0x00 sends nothing. -/
def sendRequest (s : State) (ch mode : Nat) (gate : Option Nat) (leaves : Nat) (r : Option (Except (Nat × Nat × FloatSt) FloatSt)) :
    State :=
  let s := tookFree s 1025
  let c := chanSt s ch
  let mark := fun (s : State) (c : ChanSt) => setChan s ch { c with out := mode, sentAt := leaves, refused := none }
  match r with
  | none => mark s c
  | some (.error (code, detail, f)) => profileFault (keepChannel (setChan s ch { c with out := mode }) ch f) ch code detail f.pc
  | some (.ok f) =>
    let s1 := mark s { c with state16 := Mem.readN f.data 0xC000 16 }
    if f.ended.elim false (fun x => x.1 == 0) then
      sendIp s1 (chIface c) (chAddr c) (net s).chanQueue gate
        (.udp (ifaceIp s (chIface c)) (chAddr c) (chLocal c ch) (chDevPort c) (Mem.readN f.data 0x8000 f.reqLength))
    else s1

/-- The answer to the access on demand that was outstanding. -/
def answerDemand (s : State) (ch : Nat) (a : FarAnswer) : State :=
  match chanDemand s ch with | none => s | some x => pumpAll (completeUnit s x.key a)

/-- A response was missed (R278, R280). -/
def missChan (s : State) (ch : Nat) : State :=
  let c := chanSt s ch
  let s := dropSems s ch
  let s := match c.refused with
    | some code => failOuts s ch stFarError (3 * 2 ^ 24 + code)
    | none => failOuts s ch stFarTimeout 0
  let s1 := setChan s ch { c with out := 0, misses := c.misses + 1, oks := 0, refused := none }
  let s2 := if c.out = 2 then
    answerDemand s1 ch (match c.refused with | some code => .error (3 * 2 ^ 24 + code) | none => .timeout) else s1
  if (c.state = .starting ∨ c.state = .active) ∧ chMissLimit c ≤ c.misses + 1 then
    enterChan s2 ch .missing (2 * 2 ^ 24 + chCode .missing)
  else s2

/-- CHANNEL_CYCLIC_REQUEST: the request of a due skim n, for the gate opening at To(n) (R278). A write that finds its
semaphore held skips the skim (R249); one that finds it free
holds it until the request is answered or missed. -/
def execChannelCyclicRequest (ch : Nat) (s : State) : Res :=
  let c := chanSt s ch
  let send := fun (n : Nat) (l0 : List StagedOut) =>
    let s0 := if c.out = 0 then s else missChan s ch
    let blocked := l0.filter (fun o => onChannel s ch o.entry && semBlocked s0 o)
    let l := l0.filter (fun o => !semBlocked s0 o)
    let s1 := takeSems (blocked.foldl noteDeferred s0) ch l
    let c1 := chanSt s1 ch
    if c1.state = .starting ∨ c1.state = .active ∨ c1.state = .missing then
      let s2 := setChan s1 ch { c1 with lastCyclic := some n }
      sendRequest s2 ch 1 (some n) (s.clk + (toOf s n - s.time.now).toNat)
        (activate s2 ch 0 (stagedImage s2 (chanKey s2 ch) (chOutLen c) l) [] none [])
    else s1
  .next (if !chEnabled c ∨ s.pair.repeatOff ∨ !(c.state = .starting ∨ c.state = .active ∨ c.state = .missing) then s
  else match dueSkim s (chPeriod c) (chPhase c) c.lastCyclic with
    | some x => send x.1 x.2
    | none =>
      let n := latestOut s
      let fresh : Bool := match c.lastCyclic with | none => true | some l => cycBefore l n
      if s.cyc.running ∧ n % max 1 (chPeriod c) = chPhase c ∧ fresh then send n [] else s)

/-- The next cycle for which a cyclic request is due, from the next To on. -/
def nextCyclic (s : State) (c : ChanSt) : Nat :=
  let n := nextOut s
  let p := max 1 (chPeriod c)
  let due := dueFrom n p (chPhase c)
  if c.lastCyclic = some due then cycAdd due p else due

/-- CHANNEL_ON_DEMAND_SEND (R279); an access whose remaining time has elapsed ends unsent (R234). -/
def execChannelOnDemandSend (ch : Nat) (s : State) : Res :=
  let c := chanSt s ch
  .next (match chanDemand s ch with
    | none => s
    | some x =>
      if x.deadline ≤ s.clk then pumpAll (finishTxn s x stFarTimeout x.unitsDone 6 0)
      else if c.state ≠ .active then failChannel s ch (2 * 2 ^ 24 + chCode c.state)
      else if c.out ≠ 0 ∨ (s.cyc.running ∧ toOf s (nextCyclic s c) < s.time.now + chTimeout c) then s
      else
        let r := activate s ch (if writing x then 2 else 1) (appliedImage s (chanKey s ch) (chOutLen c)) []
          (some (chanTxn x)) (if writing x then unitBytes s x else [])
        match r with
        | some (.ok f) =>
          (match f.ended with
           | some (0, _) => sendRequest s ch 2 none s.clk r
           | some (6, _) => answerDemand (keepChannel (tookFree s 1025) ch f) ch .timeout
           | some (cls, code) => answerDemand (keepChannel (tookFree s 1025) ch f) ch (.error (cls * 2 ^ 24 + code))
           | none => s)
        | _ => sendRequest s ch 2 none s.clk r)

/-- CHANNEL_FAULTED_POLL: one request per second (R280). -/
def execChannelFaultedPoll (ch : Nat) (s : State) : Res :=
  let c := chanSt s ch
  .next (if c.state = .faulted ∧ c.lastFaultPoll + 1000000000 ≤ s.clk then
    let s1 := setChan s ch { c with lastFaultPoll := s.clk }
    sendRequest s1 ch 1 none s.clk (activate s1 ch 0 (appliedImage s (chanKey s ch) (chOutLen c)) [] none [])
  else s)

/-! ### Responses (R278, R280) -/

/-- The state that an accepted response leads to. -/
def acceptChan (s : State) (ch : Nat) (isException : Bool) : State :=
  let c := chanSt s ch
  let ex := if isException then c.exceptions + 1 else 0
  let s1 := setChan s ch { c with misses := 0, oks := c.oks + 1, exceptions := ex, out := 0, refused := none, received := true }
  let toFault := fun (s : State) =>
    if isException ∧ chFaultLimit c ≤ ex then
      enterChan (setChan s ch { chanSt s ch with lastFaultPoll := s.clk }) ch .faulted (2 * 2 ^ 24 + chCode .faulted)
    else s
  match c.state with
  | .starting =>
    let s2 := setChan s1 ch { chanSt s1 ch with received := c.received }
    let s3 := enterChan s2 ch .active 0
    toFault (setChan s3 ch { chanSt s3 ch with received := true })
  | .missing => if chRecover c ≤ c.oks + 1 then enterChan s1 ch .active 0 else s1
  | .active => toFault s1
  | .faulted => if isException then s1 else enterChan s1 ch .starting (2 * 2 ^ 24 + chCode .starting)
  | _ => s1

/-- The alarm that a profile reported. Its payload is the profile's choice, which the spec gives it no way to name:
free values. -/
def profileAlarm (s : State) (ch : Nat) (f : FloatSt) : State :=
  match f.alarm with
  | none => s
  | some a =>
    let bytes := (List.range 4).flatMap (fun i => be 4 (Config.freeValue (s.freeCount + i)).toNat)
    chanAlarm (tookFree s 4) ch 4 a bytes

/-- CHANNEL_RESPONSE_RECEIVED: matched by addresses, ports and the profile (R278). -/
def execChannelResponseReceived (ch : Nat) (r : ChanResp) (s : State) : Res :=
  let c := chanSt s ch
  let miss := fun (s : State) => setChan s ch { chanSt s ch with unmatched := count32 (chanSt s ch).unmatched }
  .next (if c.out = 0 ∨ r.src ≠ chAddr c ∨ r.sport ≠ chDevPort c ∨ r.dport ≠ chLocal c ch then miss s
  else
    let demand := if c.out = 2 then chanDemand s ch else none
    match activate s ch 3 (appliedImage s (chanKey s ch) (chOutLen c)) r.data (demand.map chanTxn) [] with
    | none => miss s
    | some (.error (code, detail, f)) => profileFault (keepChannel (tookFree s 1025) ch f) ch code detail f.pc
    | some (.ok f) =>
      let (cls, code) := f.ended.getD (3, 0)
      let s1 := setChan (tookFree s 1025) ch { c with state16 := Mem.readN f.data 0xC000 16 }
      let s2 := profileAlarm s1 ch f
      if cls = 0 ∨ cls = 1 then
        let s3 := putImage s2 (chanKey s2 ch) (Mem.readN f.data 0xA000 (chInLen c))
        let s4 := match demand with
          | none => s3
          | some x => pumpAll (completeUnit s3 x.key (if cls = 0 then .ok (f.txnData.take (rUnitBytes x.entry)) else .error (2 ^ 24 + code)))
        acceptChan (dropSems (if cls = 0 then passOuts s4 ch else failOuts s4 ch stFarError (2 ^ 24 + code)) ch) ch (decide (cls = 1))
      else miss (setChan s2 ch { chanSt s2 ch with refused := if cls = 3 then some code else none }))

/-- CHANNEL_REPLY_TIMEOUT (R278). -/
def execChannelReplyTimeout (ch : Nat) (s : State) : Res :=
  let c := chanSt s ch
  .next (if c.out ≠ 0 ∧ c.sentAt + chTimeout c ≤ s.clk then missChan s ch else s)

/-- CHANNEL_RESOLVED: address known and link up (R280). -/
def execChannelResolved (ch : Nat) (s : State) : Res :=
  let c := chanSt s ch
  .next (if c.state = .resolving ∧ ifaceUp s (chIface c) ∧ (arpMac s (chIface c) (chAddr c)).isSome then
    enterChan s ch .starting (2 * 2 ^ 24 + chCode .starting)
  else s)

/-- Freshness of the channels' images at Ts: only in `ACTIVE`; a channel that starts anew counts as never received
(R280). -/
def ageChannels (s : State) : State :=
  let state := fun (x : FarImage) => (chanSt s (field x.key.addr 1 2)).state
  let mine := fun (x : FarImage) => x.key.domain == 7 && x.key.addr.length == 3 && x.key.unit + 1 == s.unitNo
  { s with route := { s.route with images := (s.route.images.filter (fun x =>
      !(mine x && (state x == .resolving || state x == .starting)))).map (fun x =>
      if mine x then { x with fresh := state x == .active } else x) } }

end Sys2Proof.Machine
end

