-- ==== Sys2Proof/Machine/Equation.lean ====
section
/-! DEFINITION. Safety equations (spec file 13): the table's fields, its load checks, evaluation, and the safety
frames (R354 to R362). -/

namespace Sys2Proof.Machine

/-! ### The table (R354) -/

def eqCount (b : Bytes) : Nat := field b 8 2
def eqTerms (b : Bytes) : Nat := field b 10 2
def eqDomain (b : Bytes) : Nat := field b 12 2
def eqRow (b : Bytes) (i : Nat) : Bytes := bslice b (32 + 16 * i) 16
def eqTerm (b : Bytes) (j : Nat) : Bytes := bslice b (32 + 16 * eqCount b + 8 * j) 8

def rowFirst (r : Bytes) : Nat := field r 0 2
def rowTerms (r : Bytes) : Nat := field r 2 1
def rowKind (r : Bytes) : Nat := field r 3 1
def rowTarget (r : Bytes) : Nat := field r 4 4
def rowFail (r : Bytes) : Int := beSigned (bslice r 8 4)
def rowPermissive (r : Bytes) : Bool := bitOf (field r 12 1) 0

def tType (t : Bytes) : Nat := field t 0 1
def tArg8 (t : Bytes) : Nat := field t 1 1
def tArg16 (t : Bytes) : Nat := field t 2 2
def tArg32 (t : Bytes) : Nat := field t 4 4

/-- The terms of an equation with their indices. -/
def rowTermList (b : Bytes) (i : Nat) : List (Nat × Bytes) :=
  (List.range (rowTerms (eqRow b i))).map (fun k => (rowFirst (eqRow b i) + k, eqTerm b (rowFirst (eqRow b i) + k)))

/-- Worst-case cost of a term, ns (R355, R359). -/
def termCost (t : Bytes) : Nat :=
  match tType t with
  | 0x02 => 200 | 0x03 => 12800 | 0x04 => 12800 | 0x05 => 100 | 0x06 => 100 | 0x07 => 100 | 0x08 => 100
  | 0x09 => 40 | 0x18 => 60 | 0x19 => 60 | 0x1A => 60 | 0x1B => 60 | _ => 20

def stateful (t : Bytes) : Bool := 0x18 ≤ tType t && tType t ≤ 0x1B

/-! ### Evaluation (R355, R356) -/

def boolVal (x : Bool) : EqVal := ⟨true, b2n x, true⟩

/-- A relation of R355. -/
def relation (code : Nat) (a b : Int) : Bool :=
  match code with
  | 0 => a < b | 1 => a ≤ b | 2 => a == b | 3 => a != b | 4 => b ≤ a | _ => b < a

def bothBool (f : Bool → Bool → Bool) (a b : EqVal) : EqVal := ⟨true, b2n (f (a.v != 0) (b.v != 0)), a.ok && b.ok⟩

/-- AND: a valid false decides. -/
def andVal (a b : EqVal) : EqVal :=
  if (a.ok && a.v == 0) || (b.ok && b.v == 0) then boolVal false else ⟨true, 1, a.ok && b.ok⟩

/-- OR: a valid true decides. -/
def orVal (a b : EqVal) : EqVal :=
  if (a.ok && a.v != 0) || (b.ok && b.v != 0) then boolVal true else ⟨true, 0, a.ok && b.ok⟩

/-- A signal's value in a skim as `SIGNAL` reads it. -/
def signalVal (s : State) (r : SkimRec) (id maxAge : Nat) : EqVal :=
  let c := cellAt r id
  let t := (defOf s id).elim 0 (·.typ)
  let v : Int := if typeSigned t then signedOf (typeBits t) (c.val.toNat % 2 ^ typeBits t) else (c.val.toNat % 2 ^ typeBits t : Nat)
  ⟨t == 0, v, decide (c.quality = .good) && ageOf r.desc.skim c ≤ maxAge⟩

/-- A local id in the slot of every present vehicle. -/
def presentVals (s : State) (r : SkimRec) (loc maxAge : Nat) : List EqVal :=
  (presentEntries s).map (fun e => signalVal s r (e.slot * 131072 + loc) maxAge)

/-- A `STATE` selector (R355). -/
def stateVal (s : State) (r : SkimRec) (sel : Nat) : Bool :=
  let num := s.set.numbering
  match sel with
  | 0 => num.elim false (·.headless)
  | 1 => num.elim false (·.split)
  | 2 => decide (s.set.state = .committed) && s.cyc.joined
  | 3 => (ownEntry s).elim false (·.cab)
  | 4 => (ownEntry s).elim false (·.orient)
  | 5 => ownPos s == 1
  | 6 => num.elim false (fun t => t.entries.any (·.absent))
  | 7 => bitOf r.desc.flags 0
  | _ => decide (s.time.base = .tracking)

/-- Whole cycles of a delay: ceil(`ARG32` / C). -/
def delayCycles (s : State) (t : Bytes) : Nat := (tArg32 t * 1000000 + cycleLen s - 1) / cycleLen s

/-- A stateful term: its new state and its value, from its inputs read as R356 says. -/
def stepTerm (s : State) (t : Bytes) (x : TermSt) (a b : EqVal) : TermSt × Bool :=
  let inp := a.ok && a.v != 0
  let k := delayCycles s t
  match tType t with
  | 0x18 => let n := if inp then min (x.count + 1) (k + 1) else 0; (⟨n, false, true⟩, k + 1 ≤ n)
  | 0x19 =>
    if inp then (⟨k, false, true⟩, true)
    else if !a.ok then (⟨0, false, true⟩, false)
    else (⟨x.count - 1, false, true⟩, 0 < x.count)
  | 0x1A =>
    let reset := !b.ok || b.v != 0
    let on := if tArg8 t = 0 then (!reset && (inp || x.on)) else (inp || (!reset && x.on))
    (⟨0, on, true⟩, on)
  | _ =>
    let edge := x.seen && (if tArg8 t = 0 then !x.on && inp else x.on && !inp)
    (⟨0, inp, true⟩, edge)

/-- What the evaluation of a term reads beside the stack. -/
structure EqCtx where
  r : SkimRec
  io : IoLatch
  vals : List EqVal

/-- A term that pushes a value of its own. -/
def leafVal (s : State) (c : EqCtx) (t : Bytes) : EqVal :=
  match tType t with
  | 0x01 => ⟨tArg8 t == 0, if tArg8 t = 0 then (tArg32 t % 2 : Nat) else beSigned (bslice t 4 4), true⟩
  | 0x02 => signalVal s c.r (tArg32 t) (tArg8 t)
  | 0x03 =>
    let v := (presentVals s c.r (tArg32 t) (tArg8 t)).foldl andVal (boolVal true)
    if s.set.numbering.isNone then ⟨true, 0, false⟩ else v
  | 0x04 =>
    let v := (presentVals s c.r (tArg32 t) (tArg8 t)).foldl orVal (boolVal false)
    if s.set.numbering.isNone then ⟨true, 0, false⟩ else v
  | 0x05 => ⟨true, b2n (c.io.hv.getLsbD (tArg8 t - 1)), !c.io.hvFault.getLsbD (tArg8 t - 1)⟩
  | 0x06 => ⟨true, b2n (c.io.readback.getLsbD (tArg8 t - 1)), !c.io.outFault.getLsbD (tArg8 t - 1)⟩
  | 0x07 => boolVal (stateVal s c.r (tArg8 t))
  | 0x08 => ⟨false, s.time.carriedSpeed.natAbs, s.time.carriedValid && s.time.carriedCycle == c.r.desc.skim⟩
  | _ => c.vals.getD (tArg16 t) ⟨true, 0, false⟩

/-- Pops one or two operands, top first. -/
def pop (st : List EqVal) : EqVal × List EqVal := (st.head?.getD ⟨true, 0, false⟩, st.tail)

/-- One term on the stack, top first, with the states of the stateful terms. -/
def evalTerm (s : State) (c : EqCtx) (acc : List EqVal × Tab TermSt) (p : Nat × Bytes) : List EqVal × Tab TermSt :=
  let (st, ts) := acc
  let t := p.2
  let (x, st1) := pop st
  let (y, st2) := pop st1
  let put1 := fun v => (v :: st1, ts)
  let put2 := fun v => (v :: st2, ts)
  match tType t with
  | 0x10 => put1 ⟨true, b2n (x.v == 0), x.ok⟩
  | 0x11 => put2 (andVal y x)
  | 0x12 => put2 (orVal y x)
  | 0x13 => put2 (bothBool xor y x)
  | 0x14 => put2 ⟨true, b2n (relation (tArg8 t) y.v x.v), y.ok && x.ok⟩
  | 0x15 => put1 ⟨true, b2n (relation (tArg8 t) x.v (beSigned (bslice t 4 4))), x.ok⟩
  | 0x1A =>
    let (n, v) := stepTerm s t (Tab.getD ts p.1 ⟨0, false, false⟩) y x
    (boolVal v :: st2, Tab.set ts p.1 n)
  | k =>
    if k = 0x18 ∨ k = 0x19 ∨ k = 0x1B then
      let (n, v) := stepTerm s t (Tab.getD ts p.1 ⟨0, false, false⟩) x x
      (boolVal v :: st1, Tab.set ts p.1 n)
    else (leafVal s c t :: st, ts)

/-- Every equation once, in index order (R359). -/
def evalTable (s : State) (b : Bytes) (r : SkimRec) (io : IoLatch) (terms : Tab TermSt) : List EqVal × Tab TermSt :=
  (List.range (eqCount b)).foldl (fun (acc : List EqVal × Tab TermSt) i =>
    let (st, ts) := (rowTermList b i).foldl (evalTerm s ⟨r, io, acc.1⟩) ([], acc.2)
    (acc.1 ++ [(pop st).1], ts)) ([], terms)

/-! ### Results (R360, R193) -/

/-- The rows with their values. -/
def rowVals (b : Bytes) (vals : List EqVal) : List (Bytes × EqVal) :=
  (List.range (eqCount b)).map (fun i => (eqRow b i, vals.getD i ⟨true, 0, false⟩))

/-- The number that a row's result is: its value, or `FAIL_VALUE` when that is invalid. -/
def resultOf (p : Bytes × EqVal) : Int := if p.2.ok then p.2.v else rowFail p.1

/-- Output commands, bit k − 1 for output k. -/
def outputCmd (b : Bytes) (vals : List EqVal) : BitVec 8 :=
  (rowVals b vals).foldl (fun c p =>
    if rowKind p.1 = 1 then setBit c (rowTarget p.1 - 1) (resultOf p != 0) else c) 0

/-- Signal results. -/
def signalResults (s : State) (b : Bytes) (vals : List EqVal) : List QVal :=
  (rowVals b vals).filterMap (fun p =>
    if rowKind p.1 ≠ 2 then none
    else
      let t := (defOf s (rowTarget p.1)).elim 0 (·.typ)
      some ⟨rowTarget p.1, BitVec.ofNat 128 (intToType t (resultOf p)).bits, .good⟩)

/-- Outputs that the table marks `PERMISSIVE`. -/
def permissive (b : Bytes) : BitVec 8 :=
  (rowVals b []).foldl (fun c p =>
    if rowKind p.1 = 1 ∧ rowPermissive p.1 then setBit c (rowTarget p.1 - 1) true else c) 0

/-- The skim that results of skim n enter (R193). -/
def resultSkim (s : State) (n : Nat) : Nat := cycAdd n (outDelay s + (if outOffset s = 0 then 0 else 1))

/-! ### Safety frames (R361, R362) -/

/-- Runs of consecutive ids of one type, in id order. -/
def idRuns (s : State) : List QVal → List (Nat × List QVal)
  | [] => []
  | x :: xs =>
    let w := (defOf s x.id).elim 0 (fun d => typeWidth d.typ)
    let typ := (defOf s x.id).map (·.typ)
    match idRuns s xs with
    | (w', y :: ys) :: rest =>
      if y.id = x.id + 1 ∧ (defOf s y.id).map (·.typ) = typ then (w', x :: y :: ys) :: rest
      else (w, [x]) :: (w', y :: ys) :: rest
    | rest => (w, [x]) :: rest

/-- The records of `SAFETY` results packed into frames with room for the trailer. -/
def packSafety (s : State) (vals : List QVal) : List PubFrame :=
  if vals.isEmpty then []
  else (idRuns s (vals.mergeSort (fun a b => a.id ≤ b.id))).foldl (fun fs p =>
    addElems 2000 (2 * p.2.length + 2) p.1 fs p.2) [⟨0, []⟩]

/-- The safety code (R362): CRC-32C over payload, trailer and the source vehicle's UUID. -/
def safetyCode (payload trailer : Bytes) (uuid : Nat) : Nat := crc32c (payload ++ trailer ++ be 16 uuid)

/-- A safety frame's payload for skim m as frame index i. -/
def safetyPayload (s : State) (domain m i : Nat) (f : PubFrame) : Bytes :=
  let p := be 2 f.recs ++ zeros 2 ++ f.body
  let t := be 1 ((heldSlot s).getD 0 * 4 + (s.unitNo - 1) % 4) ++ be 1 i ++ be 2 domain ++ be 4 m ++ be 4 (topoFor s m)
  p ++ t ++ be 4 (safetyCode p t (vehicleUuid s))

/-- SAFETY_FRAME_BUILD: the frames of skim m, as indices 1 and 2. -/
def buildSafety (s : State) (b : Bytes) (m : Nat) (vals : List QVal) : List Bytes :=
  let fs := (packSafety s (vals.map (localQuality s))).take 2
  ((List.range fs.length).zip fs).map (fun p => safetyPayload s (eqDomain b) m (p.1 + 1) p.2)

/-! ### The load checks (R357 to R359) -/

/-- The budget of R359 in ns, for a cycle length and a `MSG_START`. -/
def eqBudget (c msg : Nat) : Nat := (1000 - msg) * c / 1000 - 300000

def rowCost (b : Bytes) (i : Nat) : Nat := ((rowTermList b i).map (fun p => termCost p.2)).sum + 150

/-- The equation table's worst case keeps the budget of a schedule (R72, R359). -/
def eqWithin (b : Bytes) (c msg : Nat) : Bool :=
  ((List.range (eqCount b)).map (rowCost b)).sum + 300000 ≤ (1000 - msg) * c / 1000

/-- Check 0x02 for a term. -/
def termOk (t : Bytes) : Bool :=
  match tType t with
  | 0x01 => tArg8 t ≤ 1
  | 0x02 => tArg32 t < 2 ^ 23
  | 0x03 => tArg32 t < 131072
  | 0x04 => tArg32 t < 131072
  | 0x05 => 1 ≤ tArg8 t && tArg8 t ≤ 16
  | 0x06 => 1 ≤ tArg8 t && tArg8 t ≤ 8
  | 0x07 => tArg8 t ≤ 8
  | 0x14 => tArg8 t ≤ 5
  | 0x15 => tArg8 t ≤ 5
  | 0x18 => 1 ≤ tArg32 t && tArg32 t ≤ 600000
  | 0x19 => 1 ≤ tArg32 t && tArg32 t ≤ 600000
  | 0x1A => tArg8 t ≤ 1
  | 0x1B => tArg8 t ≤ 1
  | k => [0x08, 0x09, 0x10, 0x11, 0x12, 0x13].contains k

/-- Check 0x02 for a row. -/
def rowOk (b : Bytes) (i : Nat) : Bool :=
  let r := eqRow b i
  rowKind r ≤ 2 && field r 13 3 == 0 && field r 12 1 ≤ (if rowKind r = 1 then 1 else 0) && 1 ≤ rowTerms r &&
    (rowKind r != 1 || (1 ≤ rowTarget r && rowTarget r ≤ 8)) && (rowKind r != 2 || rowTarget r < 2 ^ 23) &&
    (rowTermList b i).all (fun p => termOk p.2)

def allSlots : List Nat := List.range 64

/-- The signals that a term names (R357). -/
def termIds (t : Bytes) : List Nat :=
  match tType t with
  | 0x02 => [tArg32 t]
  | 0x03 => allSlots.map (fun v => v * 131072 + tArg32 t)
  | 0x04 => allSlots.map (fun v => v * 131072 + tArg32 t)
  | _ => []

/-- A type that R357 does not permit to a term. -/
def badTermType (s : State) (t : Bytes) : Bool :=
  (termIds t).any (fun id => match defOf s id with
    | none => false
    | some d => if tType t = 0x02 then !([0, 1, 2, 3, 4, 6].contains d.typ) else d.typ != 0)

/-- Abstract stacks: Boolean, number, or unknown. `under` notes a fault of depth, `mixed` one of kind. -/
structure AbsSt where
  st : List (Option Bool)
  under : Bool
  mixed : Bool

def absPop (a : AbsSt) (want : Option Bool) : AbsSt :=
  match a.st with
  | [] => { a with under := true }
  | x :: r => { a with st := r, mixed := a.mixed || (match x, want with | some p, some q => p != q | _, _ => false) }

def absPush (a : AbsSt) (x : Option Bool) : AbsSt := { a with st := x :: a.st, under := a.under || 16 ≤ a.st.length }

/-- A term on kinds alone. -/
def absTerm (s : State) (kinds : List (Option Bool)) (a : AbsSt) (t : Bytes) : AbsSt :=
  let b := some true
  let n := some false
  match tType t with
  | 0x01 => absPush a (some (tArg8 t == 0))
  | 0x02 => absPush a ((defOf s (tArg32 t)).map (fun d => d.typ == 0))
  | 0x08 => absPush a n
  | 0x09 => absPush a (kinds.getD (tArg16 t) none)
  | 0x10 => absPush (absPop a b) b
  | 0x11 => absPush (absPop (absPop a b) b) b
  | 0x12 => absPush (absPop (absPop a b) b) b
  | 0x13 => absPush (absPop (absPop a b) b) b
  | 0x14 => absPush (absPop (absPop a n) n) b
  | 0x15 => absPush (absPop a n) b
  | 0x18 => absPush (absPop a b) b
  | 0x19 => absPush (absPop a b) b
  | 0x1A => absPush (absPop (absPop a b) b) b
  | 0x1B => absPush (absPop a b) b
  | _ => absPush a b

/-- The kinds of all equations' values, with faults of depth and of kind. -/
def absTable (s : State) (b : Bytes) : List (Option Bool × Bool × Bool) :=
  (List.range (eqCount b)).foldl (fun acc i =>
    let r := (rowTermList b i).foldl (fun a p => absTerm s (acc.map (·.1)) a p.2) ⟨[], false, false⟩
    acc ++ [(r.st.head?.getD none, r.under || r.st.length != 1, r.mixed)]) []

/-- Check 0x03: terms outside the array, or shared with an earlier row. -/
def termsOverlap (b : Bytes) (i : Nat) : Bool :=
  let r := eqRow b i
  let hi := rowFirst r + rowTerms r
  eqTerms b < hi || (List.range i).any (fun j =>
    let q := eqRow b j
    rowFirst q < hi && rowFirst r < rowFirst q + rowTerms q)

/-- Check 0x08. -/
def badTarget (s : State) (b : Bytes) (kinds : List (Option Bool)) (i : Nat) : Bool :=
  let r := eqRow b i
  (rowKind r != 0 && (List.range i).any (fun j => rowKind (eqRow b j) == rowKind r && rowTarget (eqRow b j) == rowTarget r)) ||
  (rowKind r == 2 && (match defOf s (rowTarget r) with
    | none => true
    | some d => d.cls != .safety || (match heldSlot s with | none => false | some v => sigSlot (rowTarget r) != v))) ||
  (rowKind r == 1 && kinds.getD i none == some false)

/-- The stateful terms and the cost up to and including an equation. -/
def statefulTo (b : Bytes) (i : Nat) : Nat :=
  ((List.range (i + 1)).map (fun j => ((rowTermList b j).filter (fun p => stateful p.2)).length)).sum
def costTo (b : Bytes) (i : Nat) : Nat := ((List.range (i + 1)).map (rowCost b)).sum

/-- Placeholder results of every signal target, for the packing of check 0x0C. -/
def targetVals (b : Bytes) : List QVal :=
  (rowVals b []).filterMap (fun p => if rowKind p.1 = 2 then some ⟨rowTarget p.1, 0, .good⟩ else none)

/-- The checks of R358 in order: the first that fails, with the equation's index. -/
def equationChecks (s : State) (b : Bytes) : Option (Nat × Nat) :=
  let n := eqCount b
  let rows := List.range n
  if b.length < 32 ∨ n < 1 ∨ 2048 < n ∨ eqTerms b < 1 ∨ 24576 < eqTerms b ∨ b.length ≠ 32 + 16 * n + 8 * eqTerms b ∨
      field b 16 4 ≠ crc32 (b.drop 32) then some (1, 0)
  else if eqDomain b = 0 ∨ field b 14 2 ≠ 0 ∨ (bslice b 20 12).any (· != 0) then some (2, 0)
  else
    let abs := absTable s b
    let kinds := abs.map (·.1)
    let at_ := fun (c : Nat) (bad : Nat → Bool) => (rows.find? bad).map (fun i => (c, i))
    let checks : List (Unit → Option (Nat × Nat)) :=
      [fun _ => at_ 2 (fun i => !rowOk b i),
       fun _ => at_ 3 (termsOverlap b),
       fun _ => at_ 4 (fun i => (abs.getD i (none, false, false)).2.1),
       fun _ => at_ 5 (fun i => (abs.getD i (none, false, false)).2.2 || (rowTermList b i).any (fun p => badTermType s p.2)),
       fun _ => at_ 6 (fun i => (rowTermList b i).any (fun p => (termIds p.2).any (fun id =>
          match defOf s id with | none => true | some d => !d.hot))),
       fun _ => at_ 7 (fun i => (rowTermList b i).any (fun p => tType p.2 == 0x09 && i ≤ tArg16 p.2)),
       fun _ => at_ 8 (badTarget s b kinds),
       fun _ => at_ 9 (fun i => rowKind (eqRow b i) == 1 && rowFail (eqRow b i) != 0),
       fun _ => at_ 0xA (fun i => 4096 < statefulTo b i),
       fun _ => at_ 0xB (fun i => eqBudget (cycleLen s) (sched s 14 2 625) < costTo b i),
       fun _ => if 2 < (packSafety s (targetVals b)).length then some (0xC, 0) else none]
    checks.findSome? (fun c => c ())

end Sys2Proof.Machine
end

