-- ==== Sys2Proof/Machine/Setout.lean ====
section
/-! DEFINITION. The set-out engine: probes, claims, census, numbering, commit, lease, absence, joining, merge
and line rate (spec file 04), and the link rows of file 02. -/

namespace Sys2Proof.Machine

/-! ### Frames of the set-out engine -/

/-- The unit's claim key (R105). -/
def ownKey (s : State) : Nat :=
  b2n (!s.set.cabActive) * 2 ^ 63 + (match s.cfg with | none => 0x40 | some c => c.node.preference) % 128 * 2 ^ 56 +
    s.unitId % 2 ^ 48 * 256

/-- The `UNITS` code of the own vehicle (R107). -/
def unitsCode (arr units : Nat) : Nat :=
  match arr with
  | 0 => 0 | 1 => 1 | 2 => 2
  | 3 => if units = 4 then 4 else 3
  | _ => if units = 4 then 6 else 5

/-- Units and arrangement of a `UNITS` code (R113). The reserved code 7 breaks the layout of a claim frame (R55); where a
claim comes as bytes without that test it reads as a stack of 4 on split lines (log entry 153). -/
def decodeUnits : Nat → Nat × Nat
  | 0 => (1, 0) | 1 => (2, 1) | 2 => (2, 2) | 3 => (3, 3) | 4 => (4, 3) | 5 => (3, 4) | _ => (4, 4)

/-- A claim payload (R55, type 0x7). -/
def claimPayload (key uuid counter flags : Nat) : Bytes :=
  be 8 key ++ be 16 uuid ++ be 4 counter ++ be 1 flags ++ zeros 3

def ownClaim (s : State) (flags : Nat) : Bytes := claimPayload (ownKey s) (vehicleUuid s) (topoCommitted s) flags

def sendClaim (s : State) (flags : Nat) : State := originate s 7 0 0 (ownClaim s flags)

/-- The slot the unit holds: of the numbering in force, else of its retained table. -/
def probeSlot (s : State) : Nat :=
  match ownSlot s with
  | some k => k
  | none => match s.set.retained.bind (fun t => entryOf t (vehicleUuid s)) with | some e => e.slot | none => 0xFF

/-- The probe payload for a port (R55, type 0x6; R102). -/
def probePayload (s : State) (p : LinePort) : Bytes :=
  be 16 (vehicleUuid s) ++ be 6 s.unitId ++ be 1 (s.unitNo * 16 + arrangement s) ++ be 1 (portNo p) ++
    be 1 (probeSlot s) ++
    be 1 (b2n s.set.cabActive + 2 * b2n s.set.lease + 4 * b2n (decide (s.set.state = .committed)) +
      8 * b2n (match s.set.numbering with | none => false | some t => t.split)) ++
    be 1 (3 + 4 * b2n ((s.line.ports.get p).status.getLsbD 18)) ++ zeros 1

/-- One probe and one delay-measure request on a port (R69, R102, R142). -/
def probePort (s : State) (p : LinePort) : State :=
  sendDelayRequest (originateOn s [p] 6 (portNo p) 0 (probePayload s p)) p

/-- SEGMENT_PHASE_OPEN: the cycle-start has passed the port; one probe and one request a cycle, while the phase is open
(R69, R102, R142). A unit without train-line ports sends its request over the peer ring (R143; log entry 150). -/
def execSegmentPhaseOpen (p : LinePort) (s : State) : Res :=
  .next (if !inCycle s || !phaseOpen s p || s.cyc.phased.contains p then s
  else
    let s1 := { s with cyc := { s.cyc with phased := s.cyc.phased ++ [p] } }
    if (upPorts s).contains p then probePort s1 p
    else if isFed s ∧ p = .a1 then sendDelayRequest s1 p else s)

/-- PROBE_TIMER: outside a running cycle, every 1 ms on every linked port, at whatever rate it is linked; in `COMMITTED`, on the ports
whose segment joins no neighbour (R100, R102); nothing within 300 µs of a census request (R108). -/
def execProbeTimer (s : State) : Res :=
  let early := match s.set.probedAt with | none => false | some t => decide (s.clk < t + 1000000)
  .next (if s.clk < s.set.quietUntil || early then s
  else
    let ports := allPorts.filter (fun p => assigned s p && segUp s p && (!inCycle s || !neighbourOk s p))
    ports.foldl probePort { s with set := { s.set with probedAt := some s.clk } })

/-! ### States -/

/-- Enters `WAITING` (R98). -/
def enterWaiting (s : State) : State :=
  { s with set := { s.set with state := .waiting, waitFrom := s.clk, runOpen := false } }

/-- Enters `SETTLING`; its 150 ms run from the instant at which its first port linked (R98, R103). A lapse set-out whose
census is abandoned stays one (R112; log entry 154). -/
def enterSettling (s : State) : State :=
  { s with set := { s.set with
      state := .settling, runOpen := false, keys := [], replies := [], prevRun := none
      firstLink := if (upPorts s).isEmpty then none else s.set.firstLink } }

/-- Enters `CLAIMING` and sends its claim (R106). -/
def enterClaiming (s : State) : State :=
  let s1 := sendClaim { s with set := { s.set with state := .claiming } } 0
  { s1 with set := { s1.set with claimFrom := s.clk, lastClaim := s.clk, keys := [] } }

/-- Whether the other unit of the vehicle reported end `e` open. -/
def reportedOpen (peer : OpenEnds) (e : Nat) : Bool := if e = 1 then peer.end1 else peer.end2

/-- On each line it carries, the ports facing one and the same end have no link partner; a split-lines unit
needs its peer's word for that end too (R103). -/
def endUnit (s : State) (peer : OpenEnds) : Bool :=
  [1, 2].any (fun e => (allPorts.filter (fun p => assigned s p && portEnd p == e)).all (fun p => !linkUp s p) &&
    (!splitLines s || reportedOpen peer e)) && attached s

/-- A unit claims only while its management side runs (R27), and never within 32 ms of a delivered
cycle-start with `FROM_LEAD` (R104). -/
def mayClaim (s : State) : Bool :=
  managing s && (match s.set.lastLeadStart with | none => true | some t => decide (t + 32000000 < s.clk))

/-- SETTLE_END (R98, R103, R104, R106). -/
def execSettleEnd (peer : OpenEnds) (s : State) : Res :=
  let all : Bool := (allPorts.filter (assigned s)).all (linkUp s)
  let timed : Bool := match s.set.firstLink with | none => false | some t => decide (t + 150000000 ≤ s.clk)
  .next (if s.set.state = .settling ∧ attached s ∧ (all ∨ timed) then
    if endUnit s peer && mayClaim s then enterClaiming s else enterWaiting s
  else s)

/-- CLAIM_REPEAT: every 250 µs (R100, R106), but for the 300 µs after a census request (R108). -/
def execClaimRepeat (s : State) : Res :=
  .next (if s.set.state = .claiming ∧ s.set.lastClaim + 250000 ≤ s.clk ∧ s.set.quietUntil ≤ s.clk then
    let s1 := sendClaim s 0
    { s1 with set := { s1.set with lastClaim := s.clk } }
  else s)

/-- Sends a census request and opens a run (R108). -/
def openRun (s : State) (no : Nat) : State :=
  let s1 := sendClaim s 2
  { s1 with set := { s1.set with state := .census, runNo := no, runFrom := s.clk, runOpen := true, replies := [] } }

/-- CLAIM_WINDOW_END: 1 ms passed with no lower key; the unit is lead-elect (R98, R106, R108). At a cold start
train time is its local time (R137). Within the quiet time of another unit's request it sends none (R108). -/
def execClaimWindowEnd (s : State) : Res :=
  .next (if s.set.state = .claiming ∧ s.set.claimFrom + 1000000 ≤ s.clk ∧ s.set.quietUntil ≤ s.clk ∧
      s.set.keys.all (fun k => decide (ownKey s < k)) then
    openRun { s with set := { s.set with prevRun := none, leadKey := ownKey s } } 1
  else s)

/-- CENSUS_RUN_START: 500 µs after the run before (R109). -/
def execCensusRunStart (s : State) : Res :=
  .next (if s.set.state = .census ∧ !s.set.runOpen ∧ s.set.runFrom + 500000 ≤ s.clk then
    openRun s (s.set.runNo + 1) else s)

/-- CENSUS_REPLY_SEND: the unit's own claim with `CENSUS`, `ORIENT` when the request came on an end-1 port,
and `UNITS` (R108). -/
def execCensusReplySend (s : State) : Res :=
  .next (match s.set.replyDue with
    | none => s
    | some p =>
      let flags := 2 + (if portEnd p = 1 then 8 else 0) + 16 * unitsCode (arrangement s) (ownUnits s)
      let s1 := sendClaim s flags
      { s1 with set := { s1.set with replyDue := none } })

/-! ### Census runs (R109) and the numbering (R110 to R113) -/

/-- The replies of a run, one for each vehicle, by earliest arrival. -/
def rankReplies (rs : List CensusReply) : List CensusReply :=
  let firsts := rs.filter (fun r => rs.all (fun q => q.uuid != r.uuid || decide (r.arrival ≤ q.arrival)))
  let ins := fun (l : List CensusReply) (r : CensusReply) =>
    if l.any (fun q => q.uuid == r.uuid) then l
    else (l.filter (fun q => decide (q.arrival ≤ r.arrival))) ++ [r] ++ l.filter (fun q => decide (r.arrival < q.arrival))
  firsts.foldl ins []

/-- Two groups less than 0.64 µs apart (R109). -/
def tooClose : List CensusReply → Bool
  | a :: b :: t => decide (b.arrival - a.arrival < 640) || tooClose (b :: t)
  | _ => false

/-- What two runs must agree in (R109). -/
def runKey (rs : List CensusReply) : List (Nat × Bool × Nat) := rs.map (fun r => (r.uuid, r.orient, r.units))

/-- The lowest slot that no entry of a list takes. -/
def lowestFree (used : List Nat) : Nat := ((List.range 64).find? (fun k => !used.contains k)).getD 64

/-- Slots for vehicles in order of position: kept where `keep` gives one, else the lowest free (R111). -/
def assignSlots (keep : List (Option Nat)) : List Nat :=
  let kept := keep.filterMap id
  (keep.foldl (fun (acc : List Nat × List Nat) k =>
    match k with
    | some v => (acc.1 ++ [v], acc.2)
    | none => let v := lowestFree acc.2; (acc.1 ++ [v], acc.2 ++ [v])) ([], kept)).1

/-- The counter after `n`, with 0 skipped (R112). -/
def nextTopo (n : Nat) : Nat := if (n + 1) % 4294967296 = 0 then 1 else (n + 1) % 4294967296

def lapseTopo (n : Nat) : Nat := if (n + 2147483648) % 4294967296 = 0 then 1 else (n + 2147483648) % 4294967296

/-- The lead never names cycle 0 (R113). -/
def nonZeroCycle (c : Nat) : Nat := if c = 0 then 1 else c

/-- The own vehicle's orientation at position 1: its end 1 faces away from the train (R110). -/
def leadOrient (s : State) : Bool := (allPorts.filter (fun p => assigned s p && portEnd p == 1)).all (fun p => !linkUp s p)

/-- The numbering of an accepted census (R110 to R114). -/
def censusNumbering (s : State) (ranked all : List CensusReply) : Numbering :=
  let others := ranked.filter (fun r => r.uuid != vehicleUuid s)
  let keepOf := fun (uuid : Nat) (test : Bool) =>
    if test then (s.set.retained.bind (fun t => entryOf t uuid)).map (·.slot) else none
  let topo := match s.set.retained with | none => 0 | some t => t.topo
  let slots := assignSlots (keepOf (vehicleUuid s) true ::
    others.map (fun r => keepOf r.uuid (s.set.retained.isSome && r.counter == topo)))
  let cabOf := fun uuid => all.any (fun r => r.uuid == uuid && !bitOf r.key 63)
  let own : Entry :=
    { uuid := vehicleUuid s, pos := 1, slot := slots.headD 0, orient := leadOrient s, absent := false,
      cab := s.set.cabActive || cabOf (vehicleUuid s), units := ownUnits s, arr := arrangement s }
  let rest := ((List.range others.length).zip others).map (fun (k, r) =>
    ({ uuid := r.uuid, pos := k + 2, slot := slots.getD (k + 1) 0, orient := r.orient, absent := false,
       cab := cabOf r.uuid, units := (decodeUnits r.units).1, arr := (decodeUnits r.units).2 } : Entry))
  let es := own :: rest
  { topo := match s.set.lapse with | some t => lapseTopo t | none => nextTopo topo
    rate25 := if (upPorts s).any (fun p => portLine p == .a) then s.line.rateA25 else s.line.rateB25
    split := s.set.lapse.isSome, headless := !es.any (·.cab), merge := false
    commit := match s.set.lapse with | some _ => nonZeroCycle (cycAdd s.cyc.n 1) | none => 1
    entries := es }

/-- The commit payload of a numbering (R55, type 0x9). -/
def commitPayload (t : Numbering) : Bytes := be 4 t.topo ++ be 4 t.commit ++ be 4 (crc32 t.bytes)

/-- Sends a numbering and its commit frame. The commit carries `FROM_LEAD`, which a lead-elect sets too. -/
def sendNumbering (s : State) (t : Numbering) : State :=
  originate (originate s 8 0 128 t.bytes) 9 0 128 (commitPayload t)

/-- CENSUS_RUN_CLOSE (R98, R109 to R113). -/
def execCensusRunClose (s : State) : Res :=
  .next (if s.set.state = .census ∧ s.set.runOpen ∧ s.set.runFrom + 250000 ≤ s.clk then
    let s := { s with set := { s.set with runOpen := false } }
    let ranked := rankReplies s.set.replies
    let bothEnds := s.set.replies.any (fun r => portEnd r.port == 1) &&
      s.set.replies.any (fun r => portEnd r.port == 2)
    if bothEnds then enterSettling s
    else
      let failed := tooClose ranked
      if !failed ∧ s.set.prevRun = some (runKey ranked) then
        let t := censusNumbering s ranked s.set.replies
        let s1 := sendNumbering s t
        { s1 with set := { s1.set with
            state := .committing, issued := some t, attempts := 1, acks := [], ackFrom := s.clk } }
      else if 4 ≤ s.set.runNo then enterSettling s
      else { s with set := { s.set with prevRun := if failed then none else some (runKey ranked) } }
  else s)

/-! ### Acknowledgements and the commit outside a running cycle (R114) -/

/-- The low unit-id bits of the units that replied in the accepted census. -/
def expectedAcks (s : State) : List Nat := (s.set.replies.map (fun r => r.key / 256 % 4294967296)).eraseDups

def allAcked (s : State) : Bool := (expectedAcks s).all (fun k => s.set.acks.contains (0, k))

/-- Ts(c) of a cold start: the first whole millisecond at least 1 ms after the last acknowledgement (R114). -/
def coldTs (now : Int) : Int := (now + 1000000 + 999999) / 1000000 * 1000000

/-- All acknowledgements are in: the lead-elect holds its numbering as pending for its commit cycle. -/
def electCommit (s : State) : State :=
  if decide (s.set.state = .committing) && allAcked s && s.set.issued.isSome && s.set.commitTs.isNone then
    { s with set := { s.set with
        pending := s.set.issued
        commitTs := some (match s.set.lapse, s.set.issued with
          | some _, some t => tsOf s t.commit
          | _, _ => coldTs s.time.now) } }
  else s

/-- COMMIT_ACK_DELIVERED: of a numbering issued, outside a running cycle (R114) or in service (R118, R119); its unit is
heard (R121). -/
def execCommitAckDelivered (p : LinePort) (f : Frame) (s : State) : Res :=
  .next (deliver s p f (fun s =>
    let s := hearFrom s f.srcPos
    let slot := ((presentEntries s).find? (fun e => e.pos == f.srcPos)).elim 0 (fun e => e.slot + 1)
    let who := if f.srcPos = 0 then (0, f.cycle) else (slot, f.srcUnit)
    let mine := match (match s.set.issued with | some t => some t | none => s.set.pending) with
      | none => false | some t => f.payload == commitPayload t
    if f.ftype ≠ 9 ∨ fromLead f then s
    else if mine then electCommit { s with set := { s.set with acks := s.set.acks ++ [who] } }
    else { s with set := { s.set with
      olds := s.set.olds.map (fun x => if f.payload = commitPayload x.1 then (x.1, x.2 ++ [who]) else x) } }))

/-- COMMIT_ACK_TIMEOUT: both frames again, up to three times in all, then back to `CENSUS` (R98, R114). A
lead-elect with nobody to await goes on. -/
def execCommitAckTimeout (s : State) : Res :=
  .next (if s.set.state = .committing ∧ s.set.commitTs.isNone ∧ s.set.ackFrom + 250000 ≤ s.clk then
    if allAcked s then electCommit s
    else match s.set.issued with
      | none => s
      | some t =>
        if s.set.attempts < 3 then
          let s1 := sendNumbering s t
          { s1 with set := { s1.set with attempts := s.set.attempts + 1, ackFrom := s.clk } }
        else openRun { s with set := { s.set with prevRun := none, issued := none } } 1
  else s)

/-- COMMIT_ACK_SEND: 4.0 µs after the commit's SFD (R114); in service it goes in the supervision slot, and an absorbed
unit waits with it for its first slot (R98). -/
def execCommitAckSend (s : State) : Res :=
  .next (match s.set.pending with
    | some t =>
      if s.set.ackDue ∧ !inCycle s ∧ s.set.state ≠ .absorbing then
        let s1 := originate s 9 0 0 (commitPayload t)
        { s1 with set := { s1.set with ackDue := false } }
      else s
    | none => s)

/-! ### A numbering comes into force (R115, R119, R124, R126) -/

/-- The rate at which a line runs. -/
def lineRate (s : State) (p : LinePort) : Bool :=
  match portLine p with | .a => s.line.rateA25 | .b => s.line.rateB25

/-- The ports of a line retrain to 1.0 Gb/s: their links go down until they come up at the new rate. A link that ran at it
already is at the line rate now. -/
def retrainLine (s : State) (l : Line) : State :=
  let dn := fun (p : LinePort) (q : LPort) =>
    if portLine p ≠ l then q
    else if q.offRate = some false then { q with status := setBit (setBit q.status 16 true) 19 false, offRate := none }
    else { q with status := setBit (setBit (setBit q.status 16 false) 17 false) 18 false, offRate := none }
  { s with line := { s.line with
      ports := s.line.ports.map dn
      rateA25 := if l = .a then false else s.line.rateA25
      rateB25 := if l = .b then false else s.line.rateB25 } }

/-- The claim key of another unit of the vehicle: its cab-active input by its latest supervision frame, the vehicle's
preference, its unit id by its control record (R105; log entry 155). -/
def unitKey (s : State) (r : PeerRec) : Nat :=
  let cab := (Tab.get? s.set.sups (ownPos s * 16 + r.unit)).elim false (fun x => bitOf (field x.2 8 4) 0)
  b2n (!cab) * 2 ^ 63 + ownKey s / 2 ^ 56 % 128 * 2 ^ 56 + r.unitId % 2 ^ 48 * 256

/-- This unit is the lowest-keyed train-line unit of its vehicle that is present; without a peer's control record the
composing unit stands for it (R124; log entry 155). -/
def lowestKeyed (s : State) : Bool :=
  let peers := ((otherUnits s).filter (fun u => !(fedUnits s).contains u)).filterMap (freshRec s)
  if peers.isEmpty then composing s else peers.all (fun r => ownKey s < unitKey s r)

/-- A commit that names this unit position 1 gives it the lease from the commit cycle on (R115): the lead-elect,
or at a handover the lowest-keyed train-line unit of that vehicle (R124), while its management side runs (R27). -/
def takesLease (s : State) (t : Numbering) : Bool :=
  (match entryOf t (vehicleUuid s) with | none => false | some e => e.pos == 1) && attached s && managing s &&
    (s.set.commitTs.isSome ||
      (!s.set.lease && lowestKeyed s &&
        !(match s.set.numbering with
          | none => true
          | some o => (entryOf o (vehicleUuid s)).any (fun e => e.pos == 1))))

/-- What is kept by position, in units of `k` keys for each position, follows its vehicle into a new numbering. -/
def remap {α : Type} (old new : Numbering) (k : Nat) (t : Tab α) : Tab α :=
  t.filterMap (fun p =>
    match old.entries.find? (fun e => e.pos == p.1 / k) with
    | none => none
    | some e => (entryOf new e.uuid).map (fun x => (x.pos * k + p.1 % k, p.2)))

/-- A trigger that waits for the next numbering names its vehicle, or its reporter, by the new position. -/
def remapTrigger (old new : Numbering) : Trigger → Option Trigger
  | .absent pos => ((remap old new 1 [(pos, ())]).head?).map (fun p => .absent p.1)
  | .join pos u key orient units => ((remap old new 1 [(pos, ())]).head?).map (fun p => .join p.1 u key orient units)
  | .cab pos key => ((remap old new 1 [(pos, ())]).head?).map (fun p => .cab p.1 key)
  | x => some x

/-- The tables that are kept by position, after a numbering came into force: supervision frames, votes, line-keeping
units, path delays and the silent cycles of the vehicles present in both (R121). The lead plans anew. -/
def remapAll (s : State) (old new : Numbering) : State :=
  { s with
    set := { s.set with
      sups := remap old new 16 s.set.sups
      triggers := s.set.triggers.filterMap (remapTrigger old new)
      silent := (remap old new 1 s.set.silent).filter (fun p =>
        new.entries.any (fun e => e.pos == p.1 && !e.absent && old.entries.any (fun o => o.uuid == e.uuid && !o.absent))) }
    sleep := { s.sleep with
      votes := remap old new 16 s.sleep.votes
      lineKeepers := (remap old new 1 (s.sleep.lineKeepers.map (fun p => (p, ())))).map (·.1) }
    cyc := { s.cyc with
      plan := [], backlog := (remap old new 1 (s.cyc.backlog.map (fun p => (p, ())))).map (·.1) }
    time := { s.time with
      odoPos := s.time.odoPos.bind (fun p => ((remap old new 1 [(p, ())]).head?).map (·.1))
      delays := s.time.delays.filterMap (fun d =>
        ((remap old new 1 [(d.src.pos, ())]).head?).map (fun p => { d with src := { d.src with pos := p.1 } }))
      startDelays := s.time.startDelays.filterMap (fun x =>
        ((remap old new 1 [(x.2.1.pos, ())]).head?).map (fun p => (x.1, { x.2.1 with pos := p.1 }, x.2.2))) } }

/-- The key of the lead of a numbering that comes into force: the own one where this unit leads, the survivor's lead's for
an absorbed unit, the census's outside a running cycle; a unit that joined a running train delivered no claim of its lead,
and the key is a free value (R124, R128; log entry 156). -/
def keyOfLead (s : State) (t : Numbering) (takes : Bool) : Nat :=
  if takes then ownKey s
  else if inCycle s then s.set.leadKey
  else match s.set.state, s.set.far, s.set.censusKey with
    | .absorbing, some x, _ => if t.merge then x.key else s.set.leadKey
    | _, _, some k => k
    | _, _, none => (Config.freeValue s.freeCount).toNat * 4294967296 + (Config.freeValue (s.freeCount + 1)).toNat

/-- The boundary ports under the numbering in force: those whose partner it does not name as the neighbour (R127), and
those whose line does not yet run at its rate (R131). -/
def keepBoundaries (s : State) : State :=
  { s with set := { s.set with
      boundary := s.set.boundary.map (fun p b => b && !(neighbourOk s p && lineRate s p == rate25 s))
      merging := s.set.merging.map (fun p b => b && !neighbourOk s p) } }

/-- A grid that a unit with committed skims leaves for another cycle number discards them (R198). -/
def leaveGrid (s : State) (n : Nat) : State :=
  if s.set.commitTs.isSome && s.set.lapse.isNone && !s.skim.retained.isEmpty then discardWindow s n else s

/-- The pending numbering comes into force at Ts(c): counter, positions and slots; the lease; the rate; the
transactions of slots bound anew (R111, R119, R124, R126, R232). -/
def adoptNumbering (s : State) (t : Numbering) : State :=
  let s := leaveGrid s t.commit
  let key := keyOfLead s t (takesLease s t)
  let old := s.set.numbering.map (fun o => (o.topo, t.commit))
  let anew := s.set.commitTs.isSome && (!s.cyc.running || s.set.lapse.isNone || gridN s != t.commit)
  let keeps := s.set.lease && (match entryOf t (vehicleUuid s) with | none => false | some e => e.pos == 1)
  let takes := takesLease s t
  let lower := !t.rate25 && s.set.numbering.isSome
  let n := if s.set.commitTs.isSome || !s.cyc.running then t.commit else s.cyc.n
  let ts := match s.set.commitTs with | some x => x | none => s.cyc.ts
  let tsC := match s.set.commitTs with | some x => x | none => tsOf s t.commit
  let s := match s.set.numbering with | none => s | some o => remapAll s o t
  let s1 := rebindBridge s s.set.numbering (some t)
  let s2 := { s1 with
    cyc := { s1.cyc with running := true, fresh := anew || s1.cyc.fresh, n := n, ts := ts
                         ahead := if s.set.commitTs.isSome || !s.cyc.running then 0 else s1.cyc.ahead
                         stopped := false, joinFrom := if inCycle s then s1.cyc.joinFrom else none
                         joined := s1.cyc.joined && inCycle s && !s.set.late }
    set := { s1.set with
      state := .committed, numbering := some t, retained := some t, pending := none, pendingAt := none, offered := none
      late := false, lapse := none, commitTs := none, before := if inCycle s then old else none
      censusKey := none, refused := false
      lease := keeps, takeLease := takes
      expiry := if s.set.commitTs.isSome || !inCycle s then cycAdd n 8 else s1.set.expiry
      lastStart := if s.set.commitTs.isSome || !inCycle s then n else s1.set.lastStart
      leadKey := key
      claimDue := s1.set.claimDue || (takes && inCycle s)
      issued := if s.set.commitTs.isSome then none else if takes && inCycle s then some t else s1.set.issued
      repeatTo := if takes && inCycle s then some (cycAdd t.commit 8) else s1.set.repeatTo
      silent := if s.set.numbering.isNone then [] else s1.set.silent
      retrainB := if lower && s.line.rateB25 then some (tsC + 400000000) else s1.set.retrainB
      far := if t.merge then none else s1.set.far
      mergeClaimDue := s1.set.mergeClaimDue && !t.merge
      absentOrder := (s1.set.absentOrder.filter (fun u => t.entries.any (fun e => e.uuid == u && e.absent))) ++
        ((t.entries.filter (fun e => e.absent && !s1.set.absentOrder.contains e.uuid)).map (·.uuid)) } }
  let s3 := keepBoundaries (if lower && s.line.rateA25 then retrainLine s2 .a else s2)
  report (tookFree s3 2) 0x0201 5 t.entries.length (be 1 t.flags ++ zeros 3 ++ be 4 t.topo)

/-- COMMIT_CYCLE_ADOPTION: at Ts(c) on the own train time, or at the following cycle start when the table arrived later
(R98, R114, R115, R119). -/
def execCommitCycleAdoption (s : State) : Res :=
  .next (match s.set.pending with
    | none => s
    | some t =>
      let due : Bool := match s.set.commitTs with
        | some x => decide (x ≤ s.time.now)
        | none => s.cyc.running && s.set.pendingAt != some s.cyc.n && (inCycle s || s.set.lapse.isSome || decide (s.set.state = .absorbing)) && (t.commit == s.cyc.n || cycBefore t.commit s.cyc.n)
      if due then adoptNumbering s t else s)

/-- CYCLE_START_DELIVERED (R80). A unit outside a running cycle whose pending numbering the frame carries is
`COMMITTED` with it (R98, R114). -/
def execCycleStartDelivered (p : LinePort) (f : Frame) (arrival : Int) (s : State) : Res :=
  .next (match s.set.pending with
    | some t =>
      if waits s p f && f.ftype == 1 && fromLead f && !inCycle s && !s.set.lease && f.topo == t.topo then
        startDelivered p f (arrival + carriedStep f) (adoptNumbering (outsideStart s f) t)
      else startDelivered p f arrival s
    | none => startDelivered p f arrival s)

/-! ### Deliveries -/

/-- A port that became a boundary stays one whatever its partner's probes show while a merge goes on: from the decision to
merge to the numbering, and on until the line runs at the merged rate (R128 to R131). -/
def boundaryHeld (s : State) (p : LinePort) : Bool :=
  decide (s.set.state = .absorbing) || (s.set.far.isSome && !s.set.refused) || lineRate s p != rate25 s

/-- PROBE_DELIVERED: the neighbour table, the boundary test and the join report's test (R99, R101, R102, R122,
R127). A partner behind a port that this unit opened in a merge is `ABSORBING`, and is not reported. -/
def execProbeDelivered (p : LinePort) (f : Frame) (s : State) : Res :=
  .next (deliver s p f (fun s =>
    if f.ftype ≠ 6 then s
    else
      let s := { s with set := { s.set with
        probes := s.set.probes.set p (some f.payload), probeTopo := s.set.probeTopo.set p f.topo } }
      let theirs := bitOf (field f.payload 25 1) 2
      let uuid := field f.payload 0 16
      let mine := decide (s.set.state = .committed)
      let boundary := (mine && theirs && !neighbourOk s p && !(s.set.merging.get p && s.set.pending.any (·.merge))) ||
        (s.set.boundary.get p && boundaryHeld s p)
      let listed := fun (t : Option Numbering) =>
        match t with | none => false | some t => t.entries.any (fun e => e.uuid == uuid && !e.absent)
      let rep := mine && !theirs && !boundary && !s.set.merging.get p && !listed s.set.numbering && !listed s.set.pending
      { s with set := { s.set with
          boundary := s.set.boundary.set p boundary, reporting := s.set.reporting.set p rep } }))

/-- A lower key ends a claim, and an election before its numbering is in force (R98, R106). -/
def yieldTo (s : State) (key : Nat) : State :=
  if key < ownKey s ∧ (s.set.state = .claiming ∨ s.set.state = .census) then enterWaiting s
  else if key < ownKey s ∧ s.set.state = .committing then
    let s1 := enterWaiting s
    { s1 with set := { s1.set with pending := none, issued := none, commitTs := none } }
  else s

/-- The bits of a claim's byte 28 that say what it is: `MERGE`, `CENSUS`, `REPORT` (R107). -/
def claimBits (f : Frame) : Nat := field f.payload 28 1 % 8

/-- CLAIM_DELIVERED: an election outside a running cycle (R106); in service a changed cab key at the lead, and
the key of a new lead, from its own unit (R124). -/
def execClaimDelivered (p : LinePort) (f : Frame) (s : State) : Res :=
  .next (deliver s p f (fun s =>
    let key := field f.payload 0 8
    if f.ftype ≠ 7 ∨ claimBits f ≠ 0 then s
    else if s.set.state = .committed then
      let s := hearFrom s f.srcPos
      let trig := if s.set.lease && f.srcPos != 0 then [Trigger.cab f.srcPos key] else []
      { s with set := { s.set with
          triggers := s.set.triggers ++ trig
          leadKey := if f.srcPos = 1 ∧ fromLead f then key else s.set.leadKey } }
    else if key = ownKey s then s
    else yieldTo { s with set := { s.set with keys := s.set.keys ++ [key] } } key))

/-- CENSUS_REQUEST_DELIVERED: a reply is due, and the unit is quiet for 300 µs (R98, R108). A claim with `CENSUS` that
comes within these 300 µs is another unit's reply, and the unit sends nothing for it (log entry 79). -/
def execCensusRequestDelivered (p : LinePort) (f : Frame) (s : State) : Res :=
  .next (deliver s p f (fun s =>
    let key := field f.payload 0 8
    if f.ftype ≠ 7 ∨ claimBits f ≠ 2 then s
    else if (s.set.state = .waiting ∨ s.set.state = .claiming) ∧ s.set.quietUntil ≤ s.clk then
      yieldTo { s with set := { s.set with
        replyDue := some p, quietUntil := s.clk + 300000, waitFrom := s.clk, leadKey := key, censusKey := some key
        keys := s.set.keys ++ [key] } } key
    else yieldTo s key))

/-- CENSUS_REPLY_DELIVERED: time-stamped at its SFD and port (R109). -/
def execCensusReplyDelivered (p : LinePort) (f : Frame) (arrival : Int) (s : State) : Res :=
  .next (deliver s p f (fun s =>
    let b := f.payload
    if f.ftype = 7 ∧ claimBits f = 2 ∧ s.set.state = .census ∧ s.set.runOpen then
      { s with set := { s.set with replies := s.set.replies ++
        [⟨field b 8 16, arrival, p, bitOf (field b 28 1) 3, bits (field b 28 1) 6 4, field b 0 8, field b 24 4⟩] } }
    else s))

/-- NUMBERING_DELIVERED: held until its commit frame (R114, R119); on a boundary port it is the other train's
table (R128). A delivered merge numbering ends the merge claims (R129). -/
def execNumberingDelivered (p : LinePort) (f : Frame) (s : State) : Res :=
  .next (deliver s p f (fun s =>
    if f.ftype ≠ 8 then s
    else if s.set.boundary.get p then
      let t := parseNumbering f.payload
      { s with set := { s.set with far := (s.set.far.map (fun x => { x with table := some t })) } }
    else
      let merge := (parseNumbering f.payload).merge
      { s with set := { s.set with offered := some f.payload, mergeClaimDue := s.set.mergeClaimDue && !merge } }))

/-- COMMIT_DELIVERED: with a matching CRC and the own vehicle listed, the table is pending and an
acknowledgement is due (R114, R119). A repeat of a numbering older than the one held changes nothing (R118). -/
def execCommitDelivered (p : LinePort) (f : Frame) (s : State) : Res :=
  .next (deliver s p f (fun s =>
    match s.set.offered with
    | none => s
    | some raw =>
      let t := parseNumbering raw
      let ok := f.ftype == 9 && fromLead f && field f.payload 8 4 == crc32 raw && field f.payload 0 4 == t.topo &&
        field f.payload 4 4 == t.commit && (entryOf t (vehicleUuid s)).isSome && !s.set.lease
      let older := fun (o : Option Numbering) => match o with | none => false | some o => cycBefore t.commit o.commit
      let held := decide (s.set.state = .committed) && (older s.set.numbering || older s.set.pending ||
        (match s.set.numbering with | none => false | some o => o.topo == t.topo))
      if ok && !held then
        { s with set := { s.set with
            pending := some t
            pendingAt := if s.set.pending = some t ∨ !s.cyc.running then s.set.pendingAt else some s.cyc.n
            acks := if s.set.pending = some t then s.set.acks else []
            ackDue := s.set.ackDue || decide (s.set.pending ≠ some t) || !inCycle s
            reporting := s.set.reporting.map (fun q r =>
              r && !(match s.set.probes.get q with
                | none => false | some b => t.entries.any (fun e => e.uuid == field b 0 16))) } }
      else s))

/-- JOIN_REPORT_DELIVERED: a trigger at the lead, unless the vehicle is in force or pending (R123). -/
def execJoinReportDelivered (p : LinePort) (f : Frame) (s : State) : Res :=
  .next (deliver s p f (fun s =>
    let b := f.payload
    let uuid := field b 8 16
    let named := fun (t : Option Numbering) =>
      match t with | none => false | some t => t.entries.any (fun e => e.uuid == uuid && !e.absent)
    let queued := s.set.triggers.any (fun x => match x with | .join _ u _ _ _ => u == uuid | _ => false)
    let s := if f.ftype = 7 then hearFrom s f.srcPos else s
    if f.ftype = 7 ∧ claimBits f = 4 ∧ s.set.lease ∧ 1 ≤ f.srcPos ∧ !named s.set.numbering ∧ !named s.set.pending ∧ !queued then
      { s with set := { s.set with triggers := s.set.triggers ++
        [.join f.srcPos uuid (field b 0 8) (bitOf (field b 28 1) 3) (bits (field b 28 1) 6 4)] } }
    else s))

/-- The other train as a merge claim describes it (R107, R128). -/
def farOf (b : Bytes) (table : Option Numbering) : FarTrain := ⟨field b 0 8, field b 8 16, field b 24 4, table⟩

/-- MERGE_CLAIM_DELIVERED: the other train's lead, on a boundary port or on the line (R128); on the line, an absorbed lead
yields, and a survivor's lead awaits the absorbed table (R117, R129). A claim of the own lead on a boundary port is of a
loop or of the same train, and names no train to merge with. -/
def execMergeClaimDelivered (p : LinePort) (f : Frame) (s : State) : Res :=
  .next (deliver s p f (fun s =>
    if f.ftype ≠ 7 ∨ !bitOf (claimBits f) 0 then s
    else
      let here := isBoundary s p
      let s := if here then s else hearFrom s f.srcPos
      let lower := decide (field f.payload 0 8 < s.set.leadKey)
      let lead := s.set.lease && !here
      { s with set := { s.set with
          yielding := s.set.yielding || (lead && lower), survivor := if lead then !lower else s.set.survivor
          far := if here ∧ field f.payload 0 8 = s.set.leadKey then s.set.far
            else some (farOf f.payload (s.set.far.bind (·.table))) } }))

/-! ### Lease, absence and timeouts -/

/-- A lapse set-out begins without settling (R98, R116): holdover of the grid, no originating. An end unit claims at once;
the 32 ms of R104 do not bar it (log entry 157). -/
def lapseSetout (s : State) (peer : OpenEnds) : State :=
  let s1 := { s with
    set := { s.set with
      lapse := some (topoCommitted s), prevRun := none, replies := [], pending := none, lease := false
      takeLease := false, commitTs := none, issued := none, triggers := [], ackDue := false
      boundary := Ports.all false, merging := Ports.all false, reporting := Ports.all false, far := none, refused := false
      censusKey := none, olds := [] }
    cyc := { s.cyc with stopped := true, joined := false, joinFrom := none } }
  let s2 := setTimebase { s1 with time := { s1.time with phase := 0 } } .holdover
  if endUnit s2 peer && managing s2 then enterClaiming s2 else enterWaiting s2

/-- The merged rate as this unit can know it: the lowest of its own train's, the other train's, and that of its own boundary
segments (R131). -/
def mergedRate25 (s : State) : Bool :=
  rate25 s && (match s.set.far.bind (·.table) with | none => true | some t => t.rate25) &&
    allPorts.all (fun p => !(s.set.boundary.get p || s.set.merging.get p) || !segUp s p || segRate25 s p)

/-- An absorbed unit retrains each line that runs faster to a lower merged rate while it is quiet (R131). -/
def retrainQuiet (s : State) : State :=
  if rate25 s && !mergedRate25 s then
    let s1 := if s.line.rateA25 then retrainLine s .a else s
    if s.line.rateB25 then retrainLine s1 .b else s1
  else s

/-- LEASE_LAPSE: no later expiry by Ts(e): by timeout a lapse set-out, by yield `ABSORBING` (R98, R116). The lead that
yielded is in `ABSORBING` since its last cycle-start and is quiet from then on (R117, R131). -/
def execLeaseLapse (peer : OpenEnds) (s : State) : Res :=
  .next (if s.set.state = .committed ∧ !s.set.lease ∧ s.cyc.running ∧
      (s.set.expiry = gridN s ∨ cycBefore s.set.expiry (gridN s)) then
    if s.set.expiry = cycAdd s.set.lastStart 8 then lapseSetout s peer
    else retrainQuiet { s with
      set := { s.set with state := .absorbing, absorbFrom := gridN s }
      cyc := { s.cyc with joined := false, joinFrom := none } }
  else if s.set.state = .absorbing ∧ !s.set.lease ∧ s.cyc.running ∧
      (s.set.expiry = gridN s ∨ cycBefore s.set.expiry (gridN s)) then retrainQuiet s
  else s)

/-- ABSORBING_TIMEOUT: 16 cycles without a numbering (R98). -/
def execAbsorbingTimeout (peer : OpenEnds) (s : State) : Res :=
  .next (if s.set.state = .absorbing ∧ 16 ≤ cycDiff (gridN s) s.set.absorbFrom then lapseSetout s peer else s)

/-- WAITING_TIMEOUT: 50 ms with neither a census request nor a cycle-start (R98, R104). -/
def execWaitingTimeout (s : State) : Res :=
  .next (if s.set.state = .waiting ∧ s.set.waitFrom + 50000000 ≤ s.clk then enterSettling s else s)

/-- VEHICLE_ABSENT: 4 silent due cycles at the lead (R99, R121). -/
def execVehicleAbsent (pos : Nat) (s : State) : Res :=
  .next (if s.set.lease ∧ 4 ≤ Tab.getD s.set.silent pos 0 ∧ !s.set.triggers.contains (.absent pos) then
    { s with set := { s.set with triggers := s.set.triggers ++ [.absent pos] } } else s)

/-- Cycle c + 8 of a numbering has passed: its repeats have ended (R118). -/
def repeatsOver (s : State) (t : Numbering) : Bool := cycBefore (cycAdd t.commit 8) s.cyc.n

/-- The records of the present vehicles of a numbering that have not acknowledged it (R119). -/
def noAckReports (s : State) (t : Numbering) (acks : List (Nat × Nat)) : List EventIn :=
  (t.entries.filter (fun e => !e.absent && e.uuid != vehicleUuid s && !acks.any (fun a => a.1 == e.slot + 1))).map
    (fun e => ⟨0x0205, 5, e.slot, []⟩)

/-- SETOUT_NO_ACK: after cycle c + 8 the lead logs every present vehicle that has not acknowledged (R119). -/
def execSetoutNoAck (s : State) : Res :=
  .next (if !s.set.lease then s
  else
    let old := s.set.olds.filter (fun x => repeatsOver s x.1)
    let s1 := reportAll s (old.flatMap (fun x => noAckReports s x.1 x.2))
    let s2 := { s1 with set := { s1.set with olds := s.set.olds.filter (fun x => !repeatsOver s x.1) } }
    match s.set.issued with
    | none => s2
    | some t =>
      if repeatsOver s t then
        let s3 := reportAll s2 (noAckReports s t s.set.acks)
        { s3 with set := { s3.set with issued := none, repeatTo := none } }
      else s2)

/-- CAB_ACTIVE_CHANGE: the unit's new key goes in its next supervision slot (R99, R124); at the lead it is a
trigger at once. -/
def execCabActiveChange (active : Bool) (s : State) : Res :=
  .next (if s.set.cabActive = active then s
  else
    let s1 := { s with set := { s.set with cabActive := active } }
    let c := decide (s.set.state = .committed)
    { s1 with set := { s1.set with
        claimDue := s.set.claimDue || c
        leadKey := if s.set.lease then ownKey s1 else s.set.leadKey
        triggers := s.set.triggers ++ (if c && s.set.lease then [.cab (ownPos s) (ownKey s1)] else []) } })

/-- LINE_B_RETRAIN: at the first cycle start from Ts(c) + 400 ms at which the latest supervision frames of all
present vehicles but the outermost, this unit's as it last sent it, show `LINE_A_FAULT` clear (R126). A boundary on line B
may open with it (R131). -/
def execLineBRetrain (s : State) : Res :=
  let inner := (presentEntries s).filter (fun e =>
    e.pos != 1 && e.pos != (match s.set.numbering with | none => 0 | some t => t.entries.length))
  let of := fun (e : Entry) => s.set.sups.filter (fun p => p.1 / 16 == e.pos)
  let shows := fun (b : Bytes) => !bitOf (field b 0 4) 7
  let clear := inner.all (fun e =>
    (if e.pos = ownPos s then !s.set.ownSup.isEmpty && shows s.set.ownSup else !(of e).isEmpty) &&
    (of e).all (fun p => shows p.2.2))
  .next (match s.set.retrainB with
    | none => s
    | some t =>
      if t ≤ s.cyc.ts ∧ clear then
        let s1 := retrainLine s .b
        keepBoundaries { s1 with set := { s1.set with retrainB := none } }
      else s)

/-! ### Coupling (R127 to R131) -/

/-- The exchange frames of a boundary unit (R128). Without its management side it sends no claim (R27). -/
def exchangeFrames (s : State) (p : LinePort) : State :=
  match (if managing s then s.set.numbering else none) with
  | none => s
  | some t =>
    let lead := (t.entries.find? (fun e => e.pos == 1)).map (·.uuid)
    let s1 := originateOn s [p] 7 0 0 (claimPayload s.set.leadKey (lead.getD 0) t.topo 1)
    originateOn s1 [p] 8 0 0 (Numbering.bytes { t with commit := 0 })

def presentCount (t : Numbering) : Nat := (t.entries.filter (fun e => !e.absent)).length

/-- BOUNDARY_LINK_UP: the exchange, with the other train's claim and table, and the decision (R99, R128, R129,
R131). An absorbed boundary unit that leads yields on its own decision (R117). Of a refused merge the boundary unit hands
the other table to its lead, which logs it too (log entry 158). -/
def execBoundaryLinkUp (p : LinePort) (claim numbering : Bytes) (s : State) : Res :=
  .next (match s.set.numbering with
    | none => s
    | some t =>
      if s.set.state ≠ .committed ∨ !managing s ∨ !(assigned s p && segUp s p) ∨ claim.length ≠ 32 ∨ !numberingOk numbering then s
      else
        let far := farOf claim (some (parseNumbering numbering))
        let s1 := exchangeFrames { s with set := { s.set with
          boundary := s.set.boundary.set p true, far := some far } } p
        let total := presentCount t + presentCount (parseNumbering numbering)
        if far.key = s.set.leadKey ∧ far.counter = t.topo then
          { s1 with set := { s1.set with boundary := s1.set.boundary.set p false, far := none } }
        else if far.key = s.set.leadKey then report { s1 with set := { s1.set with far := none } } 0x0203 5 0 []
        else if 64 < total then
          report { s1 with set := { s1.set with refused := true, farTableDue := true } } 0x0204 5 total []
        else
          let wins := decide (s.set.leadKey < far.key)
          { s1 with set := { s1.set with
              survivor := wins, mergeClaimDue := true, farTableDue := wins
              yielding := s1.set.yielding || (!wins && s.set.lease) } })

/-- BOUNDARY_OPEN: the survivor's boundary unit opens both lines at its own cycle start, once the partner's
probes show committed clear, each line when both of its sides run at the merged rate (R129, R131). -/
def execBoundaryOpen (s : State) : Res :=
  let merged := mergedRate25 s
  let at_ := fun p => segRate25 s p == merged && lineRate s p == merged
  let ready := decide (s.set.state = .committed) && s.set.survivor && s.set.far.isSome && !s.set.refused &&
    allPorts.any (fun p => s.set.boundary.get p && linkUp s p && !probeCommitted s p)
  .next (if ready then { s with set := { s.set with
      boundary := s.set.boundary.map (fun p b => b && !at_ p)
      merging := s.set.merging.map (fun p b => b || (s.set.boundary.get p && at_ p)) } } else s)

/-! ### Links and relays (R20, R31 to R38, R99, R125) -/

/-- A port's link goes down: nothing more arrives or leaves on it, and an own frame that waited on the other port of the
line leaves there (R43, R61). -/
def dropLink (s : State) (p : LinePort) : State :=
  let st := (s.line.ports.get p).status
  let st := setBit (setBit (setBit (setBit st 16 false) 17 false) 18 false) 22 false
  releaseWaiting (setPort s p (fun q => { q with status := st, offRate := none, inFlight := none, waiting := [] })) (otherEnd p)

/-- TRAIN_LINE_LINK_UP: the link is up at the line rate, or the segment cannot link at it (`RATE_LOW`) (R31 to
R34, R37, R61, R99). With no numbering in force the port's rate becomes the line's (R125). In `ABSORBING` a lower rate is the
merged one, and the other port of the line retrains to it (R131). A port without a neighbour in the numbering in force may
be linked at another rate, as a boundary segment may be (R128, R131); `LINK_UP` stays 0 there, and the segment carries only
what a merge needs (log entry 159). -/
def execTrainLineLinkUp (p : LinePort) (linked r25 xr master : Bool) (s : State) : Res :=
  .next (if !assigned s p || !relayOpen s p then s
  else
    let slower := lineRate s p && !r25
    let quiet := linked && decide (s.set.state = .absorbing) && slower
    let fits := linked && (s.set.numbering.isNone || r25 == lineRate s p || quiet)
    let off := linked && !fits && (adjacentPos s p).isNone
    let low := !linked || (!fits && slower)
    let st := (s.line.ports.get p).status
    let st := setBit (setBit (setBit (setBit (setBit st 16 fits) 17 (fits && r25)) 18 ((fits || off) && xr)) 19 low) 22 master
    let free := (s.set.numbering.isNone || quiet) && fits
    let s0 := if quiet then dropLink s (otherEnd p) else s
    let s1 := setPort s0 p (fun q => { q with
      status := st, offRate := if off then some r25 else none, inFlight := none, waiting := [] })
    { s1 with
      line := { s1.line with
        rateA25 := if free && portLine p == .a then r25 else s1.line.rateA25
        rateB25 := if free && portLine p == .b then r25 else s1.line.rateB25 }
      set := { s1.set with
        firstLink := if fits && s1.set.firstLink.isNone then some s.clk else s1.set.firstLink
        triggers := s1.set.triggers ++ (if low && s.set.lease && rate25 s then [.rateLow] else []) } })

/-- TRAIN_LINE_LINK_DOWN: the port's link state, its neighbour and its boundary are gone (R61, R122). -/
def execTrainLineLinkDown (p : LinePort) (s : State) : Res :=
  .next (if !assigned s p then s
  else
    let s1 := dropLink s p
    { s1 with set := { s1.set with
        firstLink := if (upPorts s1).isEmpty then none else s1.set.firstLink
        probes := s1.set.probes.set p none, boundary := s1.set.boundary.set p false
        merging := s1.set.merging.set p false, reporting := s1.set.reporting.set p false } })

/-- PORT_UNASSIGNED_LINK: logged with the port, which stays down (R20). -/
def execPortUnassignedLink (p : LinePort) (s : State) : Res :=
  .next (reportIf (s.cfg.isSome && !assigned s p) s 0x0104 3 (portNo p) [])

/-- Opens a line's relay set: `BYPASS` clears on its ports (R37, R38). -/
def openRelay (s : State) (l : Line) : State :=
  { s with line := { s.line with
      ports := s.line.ports.map (fun p q =>
        if portLine p = l then { q with status := setBit q.status 20 false } else q)
      relayAOpen := s.line.relayAOpen || decide (l = .a)
      relayBOpen := s.line.relayBOpen || decide (l = .b) } }

/-- Closes both relay sets: no link, `BYPASS` on every port (R36, R37). -/
def closeRelays (s : State) : State :=
  { s with line := { s.line with
      ports := s.line.ports.map (fun _ q => { q with
        status := setBit (setBit (setBit (setBit (setBit q.status 16 false) 17 false) 18 false) 22 false) 20 true
        offRate := none, inFlight := none, waiting := [] })
      relayAOpen := false, relayBOpen := false } }

/-- LINE_B_RELAY_OPEN: line A's ports are up, or 500 ms passed; in a split-lines pair's unit 2, unit 1's word,
or 1 s (R37, R38). -/
def execLineBRelayOpen (peerLineAUp : Bool) (s : State) : Res :=
  let mine := assigned s .b1 || assigned s .b2
  let hasA := assigned s .a1 || assigned s .a2
  let waited := fun ns => match s.line.islandAt with | none => false | some t => decide (t + ns ≤ s.clk)
  let go := if hasA then (linkUp s .a1 && linkUp s .a2) || waited 500000000 else peerLineAUp || waited 1000000000
  .next (if mine && !s.line.relayBOpen && s.line.islandAt.isSome && go then openRelay s .b else s)

end Sys2Proof.Machine
end

