-- ==== Sys2Proof/Machine/SafeOps.lean ====
section
/-! DEFINITION. The safety complex's operations (spec file 12): status, the mismatch log, de-energising, restarts,
the scratch test, the safety cycle, and mirror frames to the peer ring (R381, R382). -/

namespace Sys2Proof.Machine

/-! ### The peer ring (R381, R382) -/

/-- Content cut into parts of at most `k` bytes, at least one. -/
def partsOf (k : Nat) (b : Bytes) : List Bytes :=
  (List.range (max 1 ((b.length + k - 1) / k))).map (fun i => bslice b (i * k) k)

/-- The mirror frames of one record for a destination mask. -/
def mirrorFrames (type mask skim : Nat) (content : Bytes) : List Out :=
  let ps := partsOf 2012 content
  ((List.range ps.length).zip ps).map (fun p =>
    Out.peer (type * 256 + mask) (be 4 skim ++ be 2 p.1 ++ be 2 ps.length ++ p.2))

/-- The units of the vehicle other than this one, as a mask. -/
def peerMask (s : State) (units : List Nat) : Nat :=
  ((units.filter (fun u => u != s.unitNo && u ≤ ownUnits s)).map (fun u => 2 ^ (u - 1))).sum

/-- Sends a record on the peer ring, where there is a unit to send it to. A unit that stays out of the ring sends nothing; while
units not yet heard could still make its UUID that of most units, its control records go on (R24; log entry 144). -/
def sendMirror (s : State) (type skim : Nat) (units : List Nat) (content : Bytes) : State :=
  let m := peerMask s units
  if m = 0 ∨ !(onRing s || (type == 1 && !surelyOdd s)) then s else emit s (mirrorFrames type m skim content)

/-- A pair of two train-line units, which can fall back to the train line (R394). -/
def fallbackPair (s : State) : Bool := arrangement s == 2

/-- A mirror fallback message to the standby (R394). -/
def fallbackMsg (s : State) (type skim parts : Nat) (p : Nat × Bytes) : QMsg :=
  { source := channelOf s 0, destSlot := (ownSlot s).getD 0, destUnit := if s.unitNo = 1 then 2 else 1, kind := 9,
    tag := 0, bodies := [be 1 type ++ zeros 1 ++ be 2 p.1 ++ be 4 skim ++ be 2 parts ++ zeros 2 ++ p.2],
    notBefore := none, deadline := none }

/-- A record of types 0x03 and 0x04: on the ring, or over the train line while the ring is down. -/
def mirrorRecord (s : State) (type skim : Nat) (content : Bytes) : State :=
  if ringDown s && fallbackPair s then
    let ps := partsOf 2000 content
    let ms := ((List.range ps.length).zip ps).map (fallbackMsg s type skim ps.length)
    { s with bridge := { s.bridge with queue := s.bridge.queue ++ ms } }
  else sendMirror s type skim [1, 2] content

/-! ### Status (R346, R347) -/

def safeCode : SafeState → Nat
  | .scratch => 0 | .voted => 1 | .resync => 2 | .dual => 3 | .restart => 4 | .halted => 5 | .split => 6

/-- The states in which outputs follow what is staged. -/
def safeRuns (s : State) : Bool :=
  match s.safe.state with | .voted => true | .resync => true | .dual => true | _ => false

/-- The time over which the complex counts, 3,600 s, on the local count (log entry 40). -/
def safeHour : Nat := 3600000000000

/-- The instants of the last 3,600 s. -/
def recentOf (s : State) (l : List Nat) : List Nat := l.filter (fun t => s.clk < t + safeHour)

/-- Train time, once it exists. -/
def trainNow (s : State) : Option Int := if s.time.base = .unset then none else some s.time.now

/-- A resynchronisation of the last 3,600 s: on train time or, before train time exists, on the local count (R338). -/
def recentResync (s : State) (x : Resync) : Bool :=
  match trainNow s, x.train with
  | some t, some u => decide (t < u + (safeHour : Nat))
  | _, _ => decide (s.clk < x.clk + safeHour)

/-- Resynchronisations of a core within the last 3,600 s. -/
def resyncsOf (s : State) (core : Nat) : Nat :=
  (s.safe.resyncs.filter (fun x => x.core == core && recentResync s x)).length

/-! ### Checkpoints (R345) -/

/-- What the CRC of a checkpoint covers, in order: the persistent region, the register file, the control registers, and the
trailer's skim number and train time. -/
def Checkpoint.body (k : Checkpoint) : Bytes :=
  k.persistent ++ k.regs.flatMap (fun w => be 4 w.toNat) ++ k.ctrl ++ be 4 k.skim ++ be 8 (time64 k.time)

/-- A checkpoint is valid when its CRC matches. -/
def Checkpoint.valid (k : Checkpoint) : Bool := k.crc == crc32 k.body

/-- The slots' valid checkpoints. -/
def validSlots (s : State) : List Checkpoint :=
  ((match s.safe.slot0 with | none => [] | some k => [k]) ++ (match s.safe.slot1 with | none => [] | some k => [k])).filter (·.valid)

/-- The complex holds the outputs de-energised. -/
def outputsSafe (s : State) : Bool := !safeRuns s || s.safe.hold

/-- `SAFE_STATUS` (R347). -/
def safeStatus (s : State) : Nat :=
  let x := s.safe
  safeCode x.state + x.failed * 16 + x.minority * 64 + min 7 (resyncsOf s 1) * 2 ^ 8 + min 7 (resyncsOf s 2) * 2 ^ 11 +
    min 7 (resyncsOf s 3) * 2 ^ 14 + min 3 (recentOf s x.restarts).length * 2 ^ 17 + b2n x.scratchFail * 2 ^ 19 +
    b2n x.compFaultBit * 2 ^ 20 + b2n (outputsSafe s) * 2 ^ 21 + b2n x.replayMismatch * 2 ^ 22 +
    b2n (!(validSlots s).isEmpty) * 2 ^ 23

/-- A change of `STATE` sets the interrupt source `SAFE_CHANGE` (R472). -/
def noteSafe (before s : State) : State := raiseIntIf (decide (before.safe.state ≠ s.safe.state)) s 7

/-! ### The mismatch log (R348) -/

def Mismatch.bytes (m : Mismatch) : Bytes :=
  be 8 (time64 m.time) ++ be 4 m.skim ++ be 1 m.lane ++ be 1 m.outcome ++ be 2 m.clock

/-- Logs a mismatch found `clock` CLK_SAFE clocks after the start of the safety cycle. -/
def logMismatch (s : State) (lane outcome clock : Nat) : State :=
  let m : Mismatch := ⟨s.time.now, s.safe.cycleAt, lane, outcome, min 65535 (clock / 64)⟩
  report { s with safe := { s.safe with log := lastN 16 (s.safe.log ++ [m]) } } 0x0802 15 (outcome : Int) m.bytes

/-! ### Outputs go safe (R339, R342, R365) -/

/-- Every output opens at once. -/
def dropOutputs (s : State) : State :=
  { s with safe := { s.safe with
      applied := 0
      switched := ((List.range 8).zip s.safe.switched).map (fun p => if s.safe.applied.getLsbD p.1 then s.clk else p.2) } }

/-- Every staged result not yet applied goes, for all skims. -/
def discardStaged (s : State) : State :=
  { s with
    safe := { s.safe with staged := [], frames := [] }
    skim := { s.skim with results := [] } }

/-- Outputs wait for a fully voted cycle (R340, R368). A cycle that runs now is not one, if it began before. -/
def holdOutputs (s : State) : State := { s with safe := { s.safe with hold := true, release := none } }

/-- A hold's condition has ended: the safety cycle that ends the hold is that of a skim committed from now on. -/
def endCondition (s : State) : State :=
  holdOutputs { s with safe := { s.safe with cycle := s.safe.cycle.map (fun c => { c with clean := false }) } }

def goSafe (s : State) : State := holdOutputs (discardStaged (dropOutputs s))

/-! ### The cores (R325, R332, R335, R337) -/

/-- A reset of a core clears it and holds it. -/
def resetCore (c : CoreSt) : CoreSt := { CoreSt.init with corrected := c.corrected, held := true }

def setCore (s : State) (core : Nat) (f : CoreSt → CoreSt) : State :=
  { s with safe := { s.safe with cores := s.safe.cores.set (core - 1) (f (s.safe.cores.getD (core - 1) CoreSt.init)) } }

def resetCores (s : State) : State := { s with safe := { s.safe with cores := s.safe.cores.map resetCore } }

/-- A core is loaded from the golden image and a checkpoint, or with cold equation state, and released. -/
def loadCore (ck : Option Checkpoint) (c : CoreSt) : CoreSt :=
  { resetCore c with
    held := false, loaded := true, cleared := ck.isNone
    regs := ck.elim (List.replicate 32 0) (·.regs), persistent := some (ck.elim [] (·.persistent)) }

/-- Every core but a failed one is loaded and released; the failed one stays held (R338). -/
def loadCores (s : State) (ck : Option Checkpoint) : State :=
  { s with safe := { s.safe with cores := ((List.range s.safe.cores.length).zip s.safe.cores).map (fun p =>
      if p.1 + 1 = s.safe.failed then resetCore p.2 else loadCore ck p.2) } }

/-- The cores that are not held run their program: what it leaves in them is not known (log entry 41). -/
def runCores (s : State) : State :=
  { s with safe := { s.safe with cores := s.safe.cores.map (fun c =>
      if c.held then c else { c with tcm := [], ctrl := [], persistent := none, cleared := false }) } }

/-- A byte of a core's TCM, where its content is known. -/
def CoreSt.tcmByte (c : CoreSt) (a : Nat) : Option Byte :=
  match Tab.get? c.tcm a with
  | some b => some b
  | none =>
    if a < 0x70000 then some (if c.loaded then Config.goldenByte a else 0)
    else c.persistent.map (fun b => b.getD (a - 0x70000) 0)

/-! ### Restart, halt, scratch test -/

def enterHalted (s : State) : State :=
  let s := resetCores (goSafe s)
  { s with safe := { s.safe with state := .halted, cycle := none, minority := 0, resyncing := false, split := none } }

/-- R339, R343: outputs go safe and every core reloads; the third restart within 3,600 s halts. -/
def noMajority (s : State) : State :=
  let s := resetCores (goSafe s)
  let rs := recentOf s s.safe.restarts ++ [s.clk]
  let s := { s with safe := { s.safe with restarts := rs, minority := 0, resyncing := false, split := none } }
  if 3 ≤ rs.length then enterHalted s else { s with safe := { s.safe with state := .restart } }

/-- The scratch test begins (R349): checkpoints are invalid throughout. -/
def startScratch (s : State) : State :=
  let s := goSafe s
  { s with safe := { s.safe with
      state := .scratch, cycle := none, minority := 0, resyncing := false, slot0 := none, slot1 := none, split := none
      cores := List.replicate 3 CoreSt.init, delays := [], readPort := none } }

/-- A power-on reset or COMPLEX_RESET clears the failed core and every count (R506). -/
def clearCounts (s : State) : State :=
  { s with safe := { s.safe with failed := 0, resyncs := [], restarts := [], compFaults := [] } }

/-! ### Faults (R337, R338, R342) -/

/-- A core is declared failed (R338). -/
def failCore (s : State) (core : Nat) : State :=
  let s := setCore s core resetCore
  report { s with safe := { s.safe with state := .dual, failed := core, minority := 0, resyncing := false } }
    0x0803 15 (core : Int) []

/-- The running cycle has met a mismatch. -/
def unclean (s : State) : State :=
  { s with safe := { s.safe with cycle := s.safe.cycle.map (fun c => { c with clean := false }) } }

/-- A core named as minority in voted mode: it is held, or declared failed at its third time. -/
def namedMinority (s : State) (core : Nat) : State :=
  let s := unclean s
  if 2 ≤ resyncsOf s core then failCore s core
  else
    let s := setCore s core resetCore
    { s with safe := { s.safe with
      state := .resync, minority := core, resyncs := s.safe.resyncs ++ [⟨core, s.clk, trainNow s⟩] } }

/-- A difference that names a core: a minority in voted mode, no majority between two cores (R336). -/
def coreDiffers (s : State) (core lane clock : Nat) (parity : Bool) : State :=
  let flag := if parity then 128 else 0
  if s.safe.state = .voted then namedMinority (logMismatch s lane (core + flag) clock) core
  else if safeRuns s ∧ core ≠ s.safe.minority ∧ core ≠ s.safe.failed then
    noMajority (logMismatch s lane (4 + flag) clock)
  else s

/-! ### The comparator and the voter (R330, R331, R334, R336) -/

/-- An agreement signal, dual-rail: 0b01 for equal and 0b10 for unequal, as a fault of the comparator leaves it. -/
def rail (eq : Bool) (flip : BitVec 2) : BitVec 2 := (if eq then 1 else 2) ^^^ flip

/-- The agreement signals AB, BC and CA of a lane; a core whose delay register has a parity error is unequal (R331). -/
def laneRails (x : LaneCmp) (p : BitVec 3) : BitVec 2 × BitVec 2 × BitVec 2 :=
  let ok := fun i => !p.getLsbD i
  (rail (x.a == x.b && ok 0 && ok 1) x.ab, rail (x.b == x.c && ok 1 && ok 2) x.bc, rail (x.c == x.a && ok 2 && ok 0) x.ca)

/-- The outcome of one lane in one clock. -/
def laneVerdict (r : BitVec 2 × BitVec 2 × BitVec 2) : Vote :=
  if r = (1, 1, 1) then .agree
  else if r = (1, 2, 2) then .minority 3
  else if r = (2, 1, 2) then .minority 1
  else if r = (2, 2, 1) then .minority 2
  else if r = (2, 2, 2) then .noMajority
  else .fault

/-- The voted value of a lane: that of the cores which agree, none without a majority (R334, R335). -/
def votedValue (x : LaneCmp) (p : BitVec 3) : Option Nat :=
  match laneVerdict (laneRails x p) with
  | .agree => some x.a
  | .minority k => some (if k = 1 then x.b else if k = 2 then x.c else x.a)
  | _ => none

/-- A rail pair that is no code. -/
def badRail (r : BitVec 2) : Bool := r == 0 || r == 3

/-- The lanes with their codes 1 to 5; one that the list leaves out has no event. -/
def lanesOf (l : List LaneCmp) (par : List (BitVec 3)) : List (Nat × LaneCmp × BitVec 3) :=
  (List.range 5).map (fun i => (i + 1, l.getD i ⟨0, 0, 0, 0, 0, 0, 0⟩, par.getD i 0))

/-- The parity errors of a clock by lane: those told with the lanes and those told beside them. -/
def laneParity (l : List LaneCmp) (par : List (BitVec 3)) : List (BitVec 3) :=
  (List.range (max l.length par.length)).map (fun i => par.getD i 0 ||| ((l[i]?).elim 0 (·.parity)))

/-- The outcome of a clock in voted mode, with the lane code and the `PARITY` mark of its record (R334, R348): a comparator
fault, else no majority, else a minority; two minority cores give no majority. -/
def voteLanes (l : List LaneCmp) (par : List (BitVec 3)) : Vote × Nat × Bool :=
  let vs := (lanesOf l par).map (fun x => (x.1, laneRails x.2.1 x.2.2, x.2.2 != 0))
  let at_ := fun (v : Vote) => vs.find? (fun x => laneVerdict x.2.1 == v)
  match at_ .fault, at_ .noMajority with
  | some x, _ => (.fault, if badRail x.2.1.1 || badRail x.2.1.2.1 || badRail x.2.1.2.2 then 0 else x.1, x.2.2)
  | none, some x => (.noMajority, x.1, x.2.2)
  | none, none =>
    match vs.find? (fun x => laneVerdict x.2.1 != .agree) with
    | none => (.agree, 0, false)
    | some x =>
      match vs.find? (fun y => laneVerdict y.2.1 != .agree && laneVerdict y.2.1 != laneVerdict x.2.1) with
      | some y => (.noMajority, y.1, y.2.2)
      | none => (laneVerdict x.2.1, x.1, x.2.2)

/-- The agreement signal of the pair that is left without a core (R336). -/
def pairRail (out : Nat) (r : BitVec 2 × BitVec 2 × BitVec 2) : BitVec 2 :=
  if out = 3 then r.1 else if out = 1 then r.2.1 else r.2.2

/-- A parity error at a core other than `out`. -/
def otherParity (out : Nat) (p : BitVec 3) : Bool :=
  (out != 1 && p.getLsbD 0) || (out != 2 && p.getLsbD 1) || (out != 3 && p.getLsbD 2)

/-- The outcome of a clock between the two cores other than `out`: a disagreement or a bad rail code gives no majority. -/
def pairLanes (out : Nat) (l : List LaneCmp) (par : List (BitVec 3)) : Vote × Nat × Bool :=
  let vs := (lanesOf l par).map (fun x => (x.1, pairRail out (laneRails x.2.1 x.2.2), otherParity out x.2.2))
  match vs.find? (fun x => x.2.1 != 1) with
  | none => (.agree, 0, false)
  | some x => (.noMajority, if badRail x.2.1 then 0 else x.1, x.2.2)

/-- The comparator's outcome in the state of the complex. -/
def compareLanes (s : State) (l : List LaneCmp) (par : List (BitVec 3)) : Vote × Nat × Bool :=
  if s.safe.state = .voted then voteLanes l par
  else pairLanes (if s.safe.minority = 0 then s.safe.failed else s.safe.minority) l par

/-! ### What the lanes of a clock carry out (R328, R330, R331, R335) -/

/-- A lane's content as one core has it. -/
def coreValue (x : LaneCmp) (core : Nat) : Nat := match core with | 1 => x.a | 2 => x.b | _ => x.c

/-- The lane at a place of the list; one that the list leaves out has no event. -/
def laneAt (l : List LaneCmp) (i : Nat) : LaneCmp := l.getD i ⟨0, 0, 0, 0, 0, 0, 0⟩

/-- The bytes that a store writes: address, and the data's bytes that are enabled, the first by enable bit 3 (log entry 199). -/
def storeCells (v : Nat) : List (Nat × Byte) :=
  ((List.range 4).filter (fun i => bitOf v (3 - i))).map (fun i => (bits v 67 36 + i, (be 4 (bits v 35 4)).getD i 0))

/-- A core's own writes of the clock: its register file, its control registers and its TCM. -/
def coreWrites (l : List LaneCmp) (core : Nat) (c : CoreSt) : CoreSt :=
  let r := coreValue (laneAt l 0) core
  let w := coreValue (laneAt l 1) core
  let k := coreValue (laneAt l 2) core
  let c := if bitOf r 37 then { c with regs := c.regs.set (bits r 36 32) (BitVec.ofNat 32 r) } else c
  let c := if bitOf k 44 then { c with ctrl := Tab.set c.ctrl (bits k 43 32) (BitVec.ofNat 32 k) } else c
  if bitOf w 68 && (Config.safeTarget (bits w 67 36)).1 == 0 then
    { c with tcm := (storeCells w).foldl (fun t x => Tab.set t (Config.safeTarget x.1).2 x.2) c.tcm }
  else c

/-- Even parity of each 8 bits of a content, one bit for each. -/
def parityOf (n : Nat) : Nat :=
  ((List.range 9).map (fun i => ((List.range 8).map (fun j => b2n (bitOf n (8 * i + j)))).sum % 2 * 2 ^ i)).sum

/-- A delay register whose parity does not fit its content. -/
def DelayReg.bad (r : DelayReg) : Bool := r.parity != parityOf r.content

/-- The delay registers of a clock: those of the lanes of A and B, and of the read data; a parity error shows in a register
of the core that has it. -/
def delayRegs (l : List LaneCmp) (par : List (BitVec 3)) (data : Bytes) : List DelayReg :=
  let reg := fun (line : DelayLine) (lane content : Nat) (err : Bool) =>
    (⟨line, lane, content, parityOf content ^^^ b2n err⟩ : DelayReg)
  (List.range 5).flatMap (fun i =>
    let p := par.getD i 0
    [reg .laneA (i + 1) (laneAt l i).a (p.getLsbD 0), reg .laneB (i + 1) (laneAt l i).b (p.getLsbD 1)]) ++
  (List.range 5).flatMap (fun i => [reg .readC (i + 1) (beNat data) ((par.getD i 0).getLsbD 2)]) ++
  [reg .readB 4 (beNat data) false]

/-- A checkpoint as its slot holds it: its body and its CRC. -/
def slotBytes (k : Option Checkpoint) : Bytes := k.elim [] (fun k => k.body ++ be 4 k.crc)

/-- A byte of the shared safety store by the layout of R344. -/
def storeByte (s : State) (off : Nat) : Byte :=
  match s.safe.store.find? (fun c => c.1 == off) with
  | some c => c.2
  | none =>
    if off < 0x70000 then Config.goldenByte off
    else if off < 0x80000 then 0
    else if off < 0xC0000 then (slotBytes s.safe.slot0).getD (off - 0x80000) 0
    else if off < 0x100000 then (slotBytes s.safe.slot1).getD (off - 0xC0000) 0
    else if off < 0x140000 then 0
    else if off < 0x180000 then (s.safe.split.elim [] (fun x => x.buffer.flatten)).getD (off - 0x140000) 0
    else 0

/-- The store of the clock with its voted value: once, in the shared safety store or in an output register (R335). -/
def votedStore (s : State) (l : List LaneCmp) (par : List (BitVec 3)) : State :=
  match votedValue (laneAt l 1) (par.getD 1 0) with
  | none => s
  | some v =>
    if !bitOf v 68 then s
    else match Config.safeTarget (bits v 67 36) with
      | (1, _) => { s with safe := { s.safe with
          store := (storeCells v).foldl (fun m x => Mem.write m (Config.safeTarget x.1).2 x.2) s.safe.store } }
      | (2, off) => { s with safe := { s.safe with outRegs := Tab.set s.safe.outRegs off (BitVec.ofNat 32 (bits v 35 4)) } }
      | _ => s

/-- The shared read of the clock: one read with the voted address and size (R328). What the windows other than the shared store
give is a free value here, as the spec gives no map of them (log entry 199). -/
def votedRead (s : State) (l : List LaneCmp) (par : List (BitVec 3)) : State :=
  match votedValue (laneAt l 3) (par.getD 3 0) with
  | none => s
  | some v =>
    if !bitOf v 34 then s
    else
      let a := bits v 33 2
      let t := Config.safeTarget a
      let data := if t.1 = 1 then (List.range (2 ^ (v % 4))).map (fun i => storeByte s (t.2 + i))
        else fit (Config.freeBytes s.freeCount) (2 ^ (v % 4))
      tookFree { s with safe := { s.safe with readPort := some ⟨a, v % 4, data⟩ } } 1

/-- The lane self-check of a restart (R339 step 4, R337): a core that differs from the other two is declared failed, and the
restart goes on as a pair; between two cores no pair is left, and the complex restarts once more (log entry 200). -/
def restartSelfCheck (s : State) (core : Nat) (l : List LaneCmp) (par : List (BitVec 3)) : State :=
  if s.safe.failed = 0 ∧ 1 ≤ core ∧ core ≤ 3 ∧ (voteLanes l par).1 = .minority core then
    let t := failCore s core
    { t with safe := { t.safe with state := .restart } }
  else if s.safe.failed ≠ 0 ∧ (pairLanes s.safe.failed l par).1 = .noMajority then noteSafe s (noMajority s)
  else s

/-- A clock in which the vote goes on: each core's own writes, the voted store and the voted read, and the delay registers as
they stand. -/
def carryOut (s : State) (l : List LaneCmp) (par : List (BitVec 3)) : State :=
  let s := { s with safe := { s.safe with cores := ((List.range s.safe.cores.length).zip s.safe.cores).map (fun p =>
    if p.2.held then p.2 else coreWrites l (p.1 + 1) p.2) } }
  let s := votedRead (votedStore s l par) l par
  { s with safe := { s.safe with delays := delayRegs l par (s.safe.readPort.elim [] (·.data)) } }

/-- The CLK_SAFE clocks since the safety cycle began: 600 MHz. -/
def cycleClocks (s : State) : Nat := (s.clk - s.safe.cycleStart) * 3 / 5

/-- The trap that one core takes alone (R330, R333). -/
def trapLanes (core : Nat) : List LaneCmp :=
  let v := fun k => if core = k then 256 else 0
  List.replicate 4 ⟨0, 0, 0, 0, 0, 0, 0⟩ ++ [⟨v 1, v 2, v 3, 0, 0, 0, 0⟩]

/-! ### The safety cycle (R329, R345, R360) -/

/-- The discrete I/O latched at Ts(n). -/
def latchFor (s : State) (n : Nat) : IoLatch :=
  match s.safe.latches.find? (fun x => x.n == n) with
  | some x => x
  | none => (s.safe.latches.getLast?).getD ⟨n, 0, 0, 0, 0⟩

/-- The newest valid checkpoint. -/
def latestCheckpoint (s : State) : Option Checkpoint :=
  match validSlots s with
  | [a, b] => if cycBefore a.skim b.skim then some b else some a
  | l => l.head?

/-- The complex begins to evaluate a skim. A cycle is fully voted only if it begins in voted mode, or in dual mode
with a core declared failed (R340). -/
def beginCycle (s : State) (r : SkimRec) : State :=
  let n := r.desc.skim
  let res := match s.safe.table with
    | none => ([], s.safe.terms)
    | some b => evalTable s b r (latchFor s n) s.safe.terms
  let clean := decide (s.safe.state = .voted) || (decide (s.safe.state = .dual) && s.safe.failed != 0)
  runCores { s with safe := { s.safe with cycle := some ⟨n, clean, res.1, res.2⟩, cycleAt := n, cycleStart := s.clk } }

/-- A safety overrun (R329, R341): the results of the cycle that has not ended are not staged, the outputs of its
To are de-energised, and the complex restarts against the new skim n. -/
def overrunAt (s : State) (old n : Nat) : State :=
  let s := report s 0x0801 15 (old : Int) []
  let s := noMajority s
  let cyc : Option SafeCycle := if s.safe.state = .restart then some ⟨n, false, [], []⟩ else none
  { s with safe := { s.safe with overruns := lastN 8 (s.safe.overruns ++ [old]), cycle := cyc, cycleAt := n } }

/-- Core A runs on in split mode: how far is the program's (log entry 41). -/
def coreRuns (s : State) : State :=
  let k := s.freeCount
  let free := fun i => Config.freeValue (k + i)
  let a : CoreSt := { (s.safe.cores.getD 0 CoreSt.init) with regs := (List.range 32).map free, tcm := [], ctrl := [], persistent := none, cleared := false }
  let s := { s with safe := { s.safe with
    cores := s.safe.cores.set 0 a
    split := s.safe.split.map (fun x => { x with
      count := x.count + (free 32).toNat, laneCrc := (free 33).toNat, full := x.full || Config.freeBit (k + 34) }) } }
  tookFree s 35

/-- Split mode begins: the outputs go safe, and core A runs against the live skims (R350). -/
def enterSplit (s : State) (x : SplitSt) : State :=
  let s := goSafe s
  coreRuns { s with safe := { s.safe with
    state := .split, split := some x, minority := 0, resyncing := false, cycle := none } }

/-- A skim has committed (R329): its safety cycle begins, or the cycle before it has overrun. -/
def commitSafety (s : State) : State :=
  match s.skim.retained with
  | [] => s
  | r :: _ =>
    let n := r.desc.skim
    match s.safe.state with
    | .scratch => s
    | .halted => s
    | .split => if (s.safe.split.map (·.halted)).getD true then s else coreRuns { s with safe := { s.safe with cycleAt := n } }
    | .restart =>
      (match s.safe.cycle with
       | some c => overrunAt s c.n n
       | none => { s with safe := { s.safe with cycle := some ⟨n, false, [], []⟩, cycleAt := n } })
    | _ =>
      (match s.safe.cycle with
       | some c => overrunAt s c.n n
       | none => beginCycle s r)

/-- The SEAL loop holds every output: open, raw or qualified, or faulted (R365, R368, R479, R480). -/
def sealHold (s : State) : Bool := s.pres.sealLoop.raw || s.pres.sealLoop.active || s.pres.sealLoop.fault

/-- The DEBUG jumper holds every output while it is fitted or faulted (R365, R368, R479, R480). -/
def debugHold (s : State) : Bool := s.pres.debugJumper.raw || s.pres.debugJumper.active || s.pres.debugJumper.fault

/-- The conditions of R368 after which a fully voted cycle must apply, besides the complex's own state. -/
def holdCause (s : State) : Bool := sealHold s || s.safe.supplyOpen || !managing s

/-- What the composing unit mirrors of its complex (R382 type 0x03). -/
def safetyRecord (s : State) : Bytes :=
  be 1 s.safe.applied.toNat ++ be 1 s.safe.chFault.toNat ++ be 1 (safeCode s.safe.state) ++ zeros 1 ++
    be 4 ((latestCheckpoint s).elim 0 (·.crc))

/-- The results of a cycle are staged (R193, R360, R361). -/
def stageResults (s : State) (c : SafeCycle) : State :=
  match s.safe.table with
  | none => s
  | some b =>
    let vals := signalResults s b c.vals
    let m := resultSkim s c.n
    { s with
      safe := { s.safe with
        staged := lastN 8 (s.safe.staged.filter (fun x => x.n != c.n) ++ [⟨c.n, outputCmd b c.vals⟩])
        frames := lastN 8 (s.safe.frames.filter (fun x => x.1 != m) ++ [(m, buildSafety s b m vals)]) }
      skim := { s.skim with results := s.skim.results ++ [(m, c.n, vals)] } }

/-- The checkpoint of a cycle (R345), with its CRC. The persistent region and the registers are what the cores' program made:
free values (log entry 199). -/
def writeCheckpoint (s : State) (c : SafeCycle) : State :=
  let k := s.freeCount
  let ck : Checkpoint := ⟨c.n, s.time.now, 0, c.terms, Config.freeBytes k, (List.range 32).map (fun i => Config.freeValue (k + i)),
    Config.freeBytes (k + 1)⟩
  let ck := { ck with crc := crc32 ck.body }
  let even := c.n % 2 = 0
  tookFree { s with safe := { s.safe with
    slot0 := if even then some ck else s.safe.slot0
    slot1 := if even then s.safe.slot1 else some ck
    terms := c.terms, cycle := none } } 32

end Sys2Proof.Machine
end

