-- ==== Sys2Proof/Machine/Health.lean ====
section
/-! DEFINITION. What a unit says of itself: role, health word, presence byte, reason bitmap, sleep vote, versions and
node signals (R55, R170, R374, R412, R413, R476). -/

namespace Sys2Proof.Machine

def roleCode : Role → Nat
  | .single => 0 | .active => 1 | .standby => 2 | .master => 3 | .member => 4

def timebaseCode : Timebase → Nat
  | .unset => 0 | .tracking => 1 | .coasting => 2 | .holdover => 3

/-- A line fault: an assigned port of the line is down or bypassed. -/
def lineFault (s : State) (l : Line) : Bool :=
  allPorts.any (fun p => assigned s p && decide (portLine p = l) && (!linkUp s p || !relayOpen s p))

/-- The health word (R55); `SAFE_STATE` is set by every trigger of R368 that holds all outputs, the role's among them (R346). -/
def healthWord (s : State) : Nat :=
  let c := safeCode s.safe.state
  let held := !safeRuns s || s.safe.hold || sealHold s || debugHold s || s.safe.supplyOpen || s.safe.safeOffFault != 0 ||
    !composing s || s.unplaced
  b2n (c == 1) + 2 * b2n (c == 2 || c == 3) + 4 * b2n held + 8 * b2n (peerDown s) + 16 * b2n s.pair.ilkFault +
    32 * b2n (!s.pair.badUuid.isEmpty) + 64 * b2n (allPorts.any (fun p => (s.line.ports.get p).status.getLsbD 19)) +
    128 * b2n (lineFault s .a) + 256 * b2n (lineFault s .b) + 512 * b2n s.recorder.degraded +
    1024 * b2n s.start.tempWarn + 2048 * b2n s.start.supplyWarn

/-- The presence byte (R476). -/
def presenceByte (s : State) : Nat :=
  b2n s.pres.sealOpen + 2 * b2n s.pres.jumperOpen + 4 * b2n s.pres.debugOpen + 8 * b2n s.pres.windowEnd.isSome

/-- The version in the header of a bank's image (R484). -/
def bankVersion (b : Banks) : Nat := field (if b.running = 0 then b.b0.image else b.b1.image) 8 4

/-- A stay-awake signal is 1 and `GOOD` in the current skim. -/
def appHolds (s : State) : Bool :=
  match s.skim.retained, s.cfg with
  | r :: _, some c => c.power.appHold.any (fun id => decide ((cellAt r id).quality = .good) && (cellAt r id).val.getLsbD 0)
  | _, _ => false

/-- Wake inputs that are active and not masked (R412, R419, R421). -/
def wakeInputsActive (s : State) : List Nat :=
  [1, 2, 3, 4].filter (fun i => Tab.has s.sleep.inputSince i && !s.sleep.inputStuck.contains i &&
    !(Tab.has s.sleep.masked (10 + i)))

/-- The reason bitmap (R412). -/
def reasonBitmap (s : State) : Nat :=
  if s.sleep.power = .lineKeeping then 0
  else
    b2n s.set.cabActive + 2 * b2n (!(wakeInputsActive s).isEmpty) + 4 * b2n (!s.sleep.alarmHold.isEmpty) +
      8 * b2n (s.pres.sealOpen || s.pres.jumperOpen || s.pres.debugOpen || s.pres.windowEnd.isSome) +
      16 * b2n (match s.sleep.commandHold with | none => false | some t => s.clk < t) +
      32 * b2n (s.sleep.awakeFrom != 0 && s.clk < s.sleep.awakeFrom + 5000000000) + 64 * b2n (s.safe.applied != 0) +
      128 * b2n (appHolds s) + 256 * b2n (s.img.fw.writing || s.img.cf.writing)

/-- The sleep vote (R413). -/
def sleepVote (s : State) : Nat :=
  if reasonBitmap s = 0 then 1 else if s.sleep.announced ≠ 0 then 2 else 0

/-- The supervision payload (R55, type 0xA). -/
def supervisionPayload (s : State) : Bytes :=
  be 4 (healthWord s) ++ be 1 (sleepVote s) ++ zeros 3 ++ be 4 (reasonBitmap s) ++ be 1 (presenceByte s) ++
    be 1 (roleCode s.pair.role * 16) ++ zeros 2 ++ be 4 (bankVersion s.img.fw) ++ be 4 (bankVersion s.img.cf)

/-- The node signals of this unit at Ts(n), offsets 0 to 15 (R170). -/
def ownNodeSignals (s : State) (io : IoLatch) : List Val :=
  let v := fun (w : Nat) (x : Int) => BitVec.ofNat 128 (wrapInt w x)
  [v 32 (healthWord s : Nat), v 8 (timebaseCode s.time.base : Nat), v 8 (roleCode s.pair.role : Nat), v 32 (topoInForce s : Nat),
   v 64 s.time.distance, v 32 s.time.tachSpeed, v 8 (s.time.tachStatus : Nat), v 16 (io.hv.toNat : Nat),
   v 8 (s.safe.applied.toNat : Nat), v 8 (io.readback.toNat : Nat), v 8 (presenceByte s : Nat), v 1 (b2n s.set.cabActive : Nat),
   v 32 (bankVersion s.img.fw : Nat), v 32 (bankVersion s.img.cf : Nat), v 16 s.start.temp, v 16 (s.start.supply : Nat)]

end Sys2Proof.Machine
end

