-- ==== Sys2Proof/Machine/SafeIo.lean ====
section
/-! DEFINITION. Safety inputs, outputs and readback (R363 to R368, R524, R525). -/

namespace Sys2Proof.Machine

/-! ### Inputs (R363, R364) -/

/-- The configured cab-active input (R364). -/
def cabInput (s : State) : Nat := match s.cfg with | none => 1 | some c => c.node.cabInput

/-- INPUT_COMPARATOR_DISAGREE (R363). A faulted cab-active input reads as inactive (R364). -/
def execInputComparatorDisagree (input : Nat) (s : State) : Res :=
  if input < 1 ∨ 16 < input ∨ s.safe.hvFault.getLsbD (input - 1) then .next s
  else
    let s1 := report { s with safe := { s.safe with hvFault := setBit s.safe.hvFault (input - 1) true } } 0x0805 14 input []
    if input = cabInput s then execCabActiveChange false s1 else .next s1

/-- INPUT_FAULT_CLEAR: after 1 s of agreement (R363). -/
def execInputFaultClear (input : Nat) (s : State) : Res :=
  .next (if input < 1 ∨ 16 < input then s
  else { s with safe := { s.safe with hvFault := setBit s.safe.hvFault (input - 1) false } })

/-! ### Output faults (R366) -/

/-- Output k, 1 to 8, is faulted: its channel switch is held open. -/
def faultChannel (s : State) (k : Nat) : State :=
  let s1 := reportIf (!s.safe.chFault.getLsbD (k - 1)) s 0x0806 14 k []
  { s1 with safe := { s1.safe with
      chFault := setBit s1.safe.chFault (k - 1) true, applied := setBit s1.safe.applied (k - 1) false
      clearing := setBit s1.safe.clearing (k - 1) false } }

/-- `SAFE_OFF` is held open, with the outputs that showed voltage; logged once. -/
def faultSafeOff (s : State) (shown : BitVec 8) : State :=
  let s1 := reportIf (s.safe.safeOffFault == 0) s 0x0806 14 0 (be 1 shown.toNat)
  { s1 with safe := { s1.safe with
      safeOffFault := s1.safe.safeOffFault ||| shown, applied := 0, clearingOff := false } }

/-- The feed of an output is low, or was within the last 2 ms (R525). -/
def feedLow (s : State) (k : Nat) : Bool := if k ≤ 4 then s.start.feed1Low else s.start.feed2Low

/-- The outputs of the feeds that are low. -/
def lowOutputs (s : State) : BitVec 8 :=
  BitVec.ofNat 8 (b2n s.start.feed1Low * 0x0F + b2n s.start.feed2Low * 0xF0)

/-- The comparison of an output is skipped at this Ts (R366, R525). -/
def readbackSkipped (s : State) (k : Nat) : Bool :=
  feedLow s k || decide (s.safe.switched.getD (k - 1) 0 ≠ 0 ∧ s.clk < s.safe.switched.getD (k - 1) 0 + 2000000)

/-- The outputs compared at this Ts. -/
def judgedOutputs (s : State) : List Nat := ((List.range 8).map (· + 1)).filter (fun k => !readbackSkipped s k)

/-- Output k is commanded on. -/
def outputOn (s : State) (k : Nat) : Bool := s.safe.applied.getLsbD (k - 1)

/-- Commanded on, without voltage or load, or limited. -/
def badOutputs (s : State) (inp : SampleIn) : List Nat :=
  (judgedOutputs s).filter (fun k => outputOn s k &&
    (inp.noVolt.getLsbD (k - 1) || inp.lowCurrent.getLsbD (k - 1) || inp.limited.getLsbD (k - 1)))

/-- Commanded off, with voltage present. -/
def shownOutputs (s : State) (inp : SampleIn) : List Nat :=
  (judgedOutputs s).filter (fun k => !outputOn s k && inp.volt.getLsbD (k - 1))

/-- Commanded off, without voltage: a clean readback. -/
def cleanOutputs (s : State) (inp : SampleIn) : List Nat :=
  (judgedOutputs s).filter (fun k => !outputOn s k && !inp.volt.getLsbD (k - 1))

/-- The faults that the readback shows. -/
def findOutputFaults (s : State) (inp : SampleIn) : State :=
  let s1 := (badOutputs s inp).foldl faultChannel s
  if (shownOutputs s inp).isEmpty then s1
  else faultSafeOff s1 ((shownOutputs s inp).foldl (fun v k => setBit v (k - 1) true) 0)

/-- The faults cleared by command whose outputs read back clean lift; that of `SAFE_OFF` when `all` outputs do. -/
def liftOutputFaults (s : State) (clean : List Nat) (all : Bool) : State :=
  let lifted := clean.filter (fun k => s.safe.clearing.getLsbD (k - 1))
  let off := s.safe.clearingOff && all
  { s with safe := { s.safe with
      chFault := lifted.foldl (fun v k => setBit v (k - 1) false) s.safe.chFault
      clearing := lifted.foldl (fun v k => setBit v (k - 1) false) s.safe.clearing
      safeOffFault := if off then 0 else s.safe.safeOffFault
      clearingOff := s.safe.clearingOff && !off } }

/-- OUTPUT_READBACK: the readback of Ts compared with the state applied. -/
def compareReadback (s : State) (inp : SampleIn) : State :=
  liftOutputFaults (findOutputFaults s inp) (cleanOutputs s inp)
    ((shownOutputs s inp).isEmpty && decide ((judgedOutputs s).length = 8))

/-- A clear command for one output, or with 0 for all outputs and `SAFE_OFF`: the faults lift at the next clean
readback. -/
def clearOutputFault (s : State) (k : Nat) : State :=
  if k = 0 then { s with safe := { s.safe with
    clearing := s.safe.chFault, clearingOff := decide (s.safe.safeOffFault ≠ 0) } }
  else { s with safe := { s.safe with
    clearing := if s.safe.chFault.getLsbD (k - 1) then setBit s.safe.clearing (k - 1) true else s.safe.clearing } }

/-- Latches the discrete I/O at Ts(n) (R153, R363, R366). A faulted input reads 0. -/
def latchIo (s : State) (n : Nat) (inp : SampleIn) : State :=
  let all : BitVec 8 := if s.safe.safeOffFault = 0 then 0 else 0xFF
  let io : IoLatch :=
    { n := n, hv := inp.hv &&& ~~~s.safe.hvFault, hvFault := s.safe.hvFault
      readback := inp.volt &&& ~~~lowOutputs s, outFault := s.safe.chFault ||| all }
  { s with safe := { s.safe with hv := inp.hv, readback := io.readback, latches := lastN 6 (s.safe.latches ++ [io]) } }

/-- OUTPUT_PULSE_TEST: once every 10 s while an output is energised (R367). -/
def execOutputPulseTest (output : Nat) (readsOff : Bool) (s : State) : Res :=
  let i := output - 1
  .next (if output < 1 ∨ 8 < output ∨ !s.safe.applied.getLsbD i ∨ s.clk < s.safe.pulseAt.getD i 0 + 10000000000 then s
  else
    let s1 := { s with safe := { s.safe with pulseAt := s.safe.pulseAt.set i s.clk } }
    if readsOff || feedLow s output then s1 else faultSafeOff s1 (BitVec.ofNat 8 (2 ^ i)))

/-- CURRENT_LIMIT_EXPIRY: an energised output in current limit for 1 ms is an overcurrent finding (R366, R524). -/
def execCurrentLimitExpiry (output : Nat) (s : State) : Res :=
  .next (if 1 ≤ output ∧ output ≤ 8 ∧ s.safe.applied.getLsbD (output - 1) then faultChannel s output else s)

/-- OUTPUT_FEED_LOW (R525). -/
def execOutputFeedLow (feed : Nat) (s : State) : Res :=
  .next { s with start := { s.start with
    feed1Low := s.start.feed1Low || feed == 1, feed2Low := s.start.feed2Low || feed == 2 } }

/-- OUTPUT_FEED_RECOVERED: 2 ms after the feed rose above 15.0 V (R525). -/
def execOutputFeedRecovered (feed : Nat) (s : State) : Res :=
  .next { s with start := { s.start with
    feed1Low := s.start.feed1Low && feed != 1, feed2Low := s.start.feed2Low && feed != 2 } }

/-! ### At To(n) (R153, R360, R368) -/

/-- A `PERMISSIVE` output is held at To(n). -/
def permissiveHeld (s : State) (n : Nat) : Bool :=
  (match s.set.numbering with | none => false | some t => t.headless) ||
    !(decide (s.set.state = .committed) && s.cyc.joined) || decide (s.time.base ≠ .tracking) ||
    (match retainedSkim s n with | none => false | some r => bitOf r.desc.flags 0)

/-- Every output is held at To(n). -/
def allHeld (s : State) (n : Nat) : Bool :=
  !safeRuns s || s.safe.hold || s.safe.overruns.contains n || holdCause s || debugHold s ||
    s.safe.safeOffFault != 0 || !composing s || s.unplaced || decide (s.sleep.power ≠ .awake)

/-- The hold ends at the To of the fully voted cycle (R340). -/
def endHold (s : State) (n : Nat) : State :=
  match s.safe.release with
  | none => s
  | some m =>
    if m = n ∨ cycBefore m n then
      { s with
        safe := { s.safe with hold := false, release := none }
        img := { s.img with votedApplied := true } }
    else s

/-- The commands staged for To(n), or the last applied state when none are. -/
def stagedCommand (s : State) (n : Nat) : BitVec 8 :=
  match s.safe.staged.find? (fun x => x.n == n) with
  | some x => x.cmd
  | none => s.safe.applied

/-- The `PERMISSIVE` outputs held at To(n). -/
def heldPermissives (s : State) (n : Nat) : BitVec 8 :=
  if permissiveHeld s n then (s.safe.table.map permissive).getD 0 else 0

/-- The state of the outputs at To(n): none energised while every output is held, else the staged commands less the
held `PERMISSIVE` outputs and the faulted ones. -/
def outputsAt (s : State) (n : Nat) : BitVec 8 :=
  if allHeld s n then 0 else stagedCommand s n &&& ~~~heldPermissives s n &&& ~~~s.safe.chFault

/-- The safety outputs at To(n). -/
def applySafe (s : State) (n : Nat) : State :=
  let s := endHold s n
  let v := outputsAt s n
  let moved := s.safe.applied ^^^ v
  let rose := v &&& ~~~s.safe.applied
  { s with safe := { s.safe with
      applied := v
      switched := ((List.range 8).zip s.safe.switched).map (fun p => if moved.getLsbD p.1 then s.clk else p.2)
      pulseAt := ((List.range 8).zip s.safe.pulseAt).map (fun p => if rose.getLsbD p.1 then s.clk else p.2)
      staged := s.safe.staged.filter (fun x => cycBefore n x.n)
      overruns := s.safe.overruns.filter (fun m => cycBefore n m) } }

/-- Skim n's safety results are late at To(n) (R95). -/
def safeLate (s : State) (n : Nat) : Bool :=
  safeRuns s && !s.safe.hold && !s.safe.overruns.contains n && !(s.safe.staged.any (fun x => x.n == n)) &&
    s.safe.table.isSome

end Sys2Proof.Machine
end

