-- ==== Sys2Proof/Machine/PairOps.lean ====
section
/-! DEFINITION. Pairs and stacks (spec file 14): fitness, control records, the mirror's contents, taking and leaving the
composing role. -/

namespace Sys2Proof.Machine

/-! ### Fitness (R376) -/

/-- The vehicle's train-line units are all absent. -/
def lineUnitsGone (s : State) : Bool :=
  ((otherUnits s).filter (fun u => !(fedUnits s).contains u)).all (fun u => !peerFresh s u)

/-- The unit is fit to compose. -/
def isFit (s : State) : Bool :=
  managing s && s.cfg.isSome && s.route.table.isSome && safeRuns s && !s.pair.uuidMismatch && !s.unplaced &&
    (if attached s then decide (s.set.state ≠ .committed) || (s.cyc.joined && 2 ≤ s.pair.joinedFor)
     else 2 ≤ s.pair.marksFor || lineUnitsGone s)

/-! ### The mirror (R382, R393) -/

/-- The latest records name skim n − 1 or n at Ts(n), or n − 2 on fallback. -/
def mirrorCurrentAt (s : State) (n : Nat) : Bool :=
  let near := fun (k : Option Nat) (d : Nat) => match k with | none => false | some k => cycDiff n k ≤ d
  let m := s.pair.mirror
  m.full && (if m.fallback then near m.imageSkim 2 else near m.imageSkim 1 && near m.writesSkim 1)

/-- A staged output's whole far field. -/
def stagedField (s : State) (o : StagedOut) : Bytes :=
  let w := rWidth o.entry
  let base := match imageOf s.route.outputs (imageKey o.entry) with
    | none => 0
    | some x => assemble (rOrder o.entry) (fit (bslice x.data (rByteOff o.entry) w) w)
  disassemble (rOrder o.entry) w (placeRaw o.entry base o.raw)

/-- The shadows that write routes hold, by route. -/
def shadowFields (s : State) : Tab Bytes :=
  match s.route.table with
  | none => []
  | some t => (enabledRoutes t 3).filterMap (fun p =>
      (shadowOf s p.2).map (fun n => (p.1, disassemble (rOrder p.2) (rWidth p.2) n)))

/-- Entries of a route index and its bytes, padded to 4 (R382 type 0x04). -/
def fieldEntries (t : Tab Bytes) : Bytes :=
  t.flatMap (fun p => be 4 p.1 ++ fit p.2 ((p.2.length + 3) / 4 * 4))

/-- The field bytes of a route's entry in a record: its width, by the unit's own table. -/
def parseFields (s : State) : Nat → Bytes → Tab Bytes → Tab Bytes
  | 0, _, acc => acc
  | k + 1, b, acc =>
    if b.length < 8 then acc
    else
      let i := field b 0 4
      let w := rWidth (entryAt s i)
      parseFields s k (b.drop (4 + (w + 3) / 4 * 4)) (Tab.set acc i (bslice b 4 w))

/-- The writes-and-forces record (R382 type 0x05; log entry 44). -/
def writesRecord (s : State) : Bytes :=
  be 4 s.skim.writes.length ++ s.skim.writes.flatMap (fun w => be 4 w.id ++ be 16 w.val.toNat) ++
    be 4 s.skim.forces.length ++ s.skim.forces.flatMap (fun f =>
      be 4 f.id ++ be 16 f.val.toNat ++ be 4 (f.windows.map (fun k => 2 ^ k)).sum)

def parseWrites (k : Nat) (b : Bytes) : List StagedWrite :=
  (List.range k).map (fun i => ⟨field b (20 * i) 4, BitVec.ofNat 128 (field b (20 * i + 4) 16), none, none, none⟩)

def parseForces (k : Nat) (b : Bytes) : List Force :=
  (List.range k).map (fun i => ⟨field b (24 * i) 4, BitVec.ofNat 128 (field b (24 * i + 4) 16),
    (List.range 4).filter (fun j => bitOf (field b (24 * i + 20) 4) j), none⟩)

/-- After the OUT pass of skim n: the fields that changed, writes and forces, and the buffers of the ports that other
units carry (R382, R403). -/
def sendImages (s : State) (n : Nat) (outs : List StagedOut) : State :=
  if (otherUnits s).isEmpty then s
  else
    let now := shadowFields s ++ outs.map (fun o => (o.route, stagedField s o))
    let changed := if s.pair.sendFull then now else now.filter (fun p => Tab.get? s.pair.sent p.1 != some p.2)
    let s1 := { s with pair := { s.pair with sent := now.foldl (fun t p => Tab.set t p.1 p.2) s.pair.sent, sendFull := false } }
    let s2 := mirrorRecord s1 4 n (fieldEntries changed)
    let s3 := if ringDown s2 then s2 else sendMirror s2 5 n [1, 2] (writesRecord s2)
    (otherUnits s).foldl (fun s u =>
      let mine := outs.filter (fun o => rUnit o.entry + 1 == u)
      if mine.isEmpty then s
      else sendMirror s 6 n [u] (fieldEntries (mine.map (fun o => (o.route, stagedField s o))))) s3

/-! ### Control records (R383) -/

def controlContent (s : State) : Bytes :=
  let (op, expiry, unit) := s.pair.hawkOp
  be 1 (roleCode s.pair.role) ++
    be 1 (b2n (isFit s) + 2 * b2n s.pair.releasing + 4 * b2n s.pair.ilkOut + 8 * b2n s.pair.ilkFault +
      16 * b2n s.pair.currentAtTs) ++
    be 1 (s.pair.ilkIn * 16 + s.pair.ownLoop) ++ be 1 op ++ be 4 expiry ++ be 1 unit ++ zeros 7 ++ be 16 (vehicleUuid s)

/-- CONTROL_RECORD_SEND: this unit's control record, to all. A unit that is not ready sends none (R473, R505). -/
def sendControl (s : State) : State :=
  if !managing s || (otherUnits s).isEmpty then s
  else
    let s1 := sendMirror s 1 (gridN s) [1, 2, 3, 4] (controlContent s)
    { s1 with pair := { s1.pair with hawkOp := (0, 0, 0) } }

/-! ### Roles (R374) -/

/-- Enters a role, logged, with its interrupt source (R472). -/
def setRole (s : State) (r : Role) : State :=
  if s.pair.role = r then s
  else raiseInt (report { s with pair := { s.pair with role := r } } 0x0906 19 (roleCode r : Nat) []) 8

/-- The role of a unit that does not compose. -/
def restingRole (s : State) : Role := if isStack s then .member else if isPair s then .standby else .single

/-- The unit stops composing: its safety outputs are de-energised at once (R375, R387, R397), and in a split-lines
pair its lease passes (R391). -/
def leaveRole (s : State) : State :=
  let s1 := setRole (dropOutputs s) (restingRole s)
  { s1 with
    pair := { s1.pair with
      ilkOut := s1.pair.ilkOut && isStack s, watchdog := if isStack s then s1.pair.watchdog else none
      releasing := false, handAt := none, takeAt := none, coldTo := none }
    set := { s1.set with lease := s1.set.lease && !(splitLines s && isPair s) } }

/-- The role watchdog runs anew (R387). -/
def renewWatchdog (s : State) : State :=
  { s with pair := { s.pair with watchdog := some (s.clk + 2 * cycleLen s) } }

/-- The unit starts with its bridge state empty; the open transactions are its own, each by its tag, and those that other
vehicles asked for here (R255). -/
def freshBridge (s : State) : State :=
  let k := s.bridge.tags.length + (s.bridge.farQueue.filter (fun x => !x.localTag)).length
  let s1 := reportIf (0 < k) s 0x0505 10 k []
  { s1 with bridge := { BridgeSt.init with endpoints := s.bridge.endpoints } }

/-- A warm takeover (R393): far fields, writes and forces of the mirror stand. On fallback writes are lost and forces
lapse (R394). -/
def takeWarm (s : State) : State :=
  let m := s.pair.mirror
  let put := fun (s : State) (p : Nat × Bytes) =>
    let e := entryAt s p.1
    let s1 := setShadow s e (assemble (rOrder e) p.2)
    let s1 := if rDir e = 2 then adjRoute s1 p.1 (fun r => { r with driven := some (rawOf e (assemble (rOrder e) p.2)) }) else s1
    if rDir e = 2 then
      let k := imageKey e
      let base := (imageOf s1.route.outputs k).elim [] (·.data)
      let data := splice (fit base (max base.length (rByteOff e + rWidth e))) (rByteOff e) p.2
      { s1 with route := { s1.route with outputs := setImage s1.route.outputs (outputImage s1 k data) } }
    else s1
  let s1 := m.fields.foldl put s
  if m.fallback then
    reportIf (!m.forces.isEmpty) (reportIf (!m.writes.isEmpty) s1 0x0904 19 m.writes.length []) 0x0905 19 m.forces.length []
  else { s1 with skim := { s1.skim with writes := s1.skim.writes ++ m.writes, forces := m.forces } }

/-- A cold takeover at cycle j (R395): substitutes to j + 7, writes lost, forces lapse, the own slot's `APPLICATION`
signals seeded from the latest skim. -/
def takeCold (s : State) (j : Nat) : State :=
  let m := s.pair.mirror
  let s1 := reportIf (!m.writes.isEmpty) s 0x0904 19 m.writes.length []
  let s2 := reportIf (!m.forces.isEmpty) s1 0x0905 19 m.forces.length []
  let img := match s.skim.retained with | [] => [] | r :: _ => r.image
  let seeds := img.filter (fun p => ownSignal s p.1 && !isNodeSignal p.1 && decide (p.2.quality ≠ .notReady) &&
    (match defOf s p.1 with | none => false | some d => d.cls == .application))
  { s2 with
    skim := { s2.skim with standing := seeds.foldl (fun t p => Tab.set t p.1 p.2.val) [], forces := [], writes := [] }
    pair := { s2.pair with coldTo := some (cycAdd j 7) } }

/-- The unit becomes composing from the present cycle j (R391, R393 to R395, R398). At position 1 it takes the lease
and sends its claim. -/
def becomeComposing (s : State) (r : Role) (warm : Bool) : State :=
  let j := s.cyc.n
  let s1 := setRole (freshBridge s) r
  let s2 := if warm then takeWarm s1 else takeCold s1 j
  let lead := inCycle s && ownPos s == 1 && attached s && !s.set.lease && (isPair s || s.pair.ilkOut)
  { s2 with
    pair := { s2.pair with
      takeAt := none, handAt := none, releasing := false, gapFrom := none, gapCycles := 0, repeatOff := false
      mirror := Mirror.init, sendFull := true, sent := [] }
    set := { s2.set with
      takeLease := s2.set.takeLease || lead, claimDue := s2.set.claimDue || lead
      leadKey := if lead then ownKey s2 else s2.set.leadKey } }

/-- Whether a takeover now would be warm: by the mirror at the gap's first cycle, or now without a gap. -/
def warmNow (s : State) : Bool :=
  match s.pair.gapFrom with
  | some _ => s.pair.gapWarm
  | none => s.pair.currentAtTs

/-- A standby asserts `ILK_OUT` at once and takes the role at the first cycle that begins 100 µs later (R391). -/
def assertRole (s : State) : State :=
  let s1 := renewWatchdog s
  { s1 with pair := { s1.pair with ilkOut := true, takeAt := some (s.time.now + 100000) } }

end Sys2Proof.Machine
end

