-- ==== Sys2Proof/Machine/Commit.lean ====
section
/-! DEFINITION. The rows that commit a skim: SKIM_COMMIT, COMMIT_MARK_RECEIVED, FED_COMMIT_TIMEOUT, and the lead's
odometry (R156, R157, R180, R181, R379). -/

namespace Sys2Proof.Machine

/-! ### Odometry (R156, R157) -/

/-- A unit of a vehicle with a valid odometry publication in skim n: its distance. -/
def odoOf (r : SkimRec) (e : Entry) : Option Int :=
  let cell := fun (u o : Nat) => cellAt r (e.slot * 131072 + 0x1FF00 + 0x40 * u + o)
  let live := fun (u o : Nat) => decide ((cell u o).quality = .good) && decide ((cell u o).refresh = some r.desc.skim)
  let ok := (List.range 4).find? (fun u => live u 6 && live u 4 && (cell u 6).val.getLsbD 7)
  ok.map (fun u => signedOf 64 ((cell u 4).val.toNat % 2 ^ 64))

/-- Whether a present vehicle shows odometry enabled and valid. -/
def odoValid (r : SkimRec) (e : Entry) : Bool := (odoOf r e).isSome

/-- The measured position after skim n has committed. -/
def stepOdometry (s : State) (r : SkimRec) : State :=
  let here := presentEntries s
  let cur := s.time.odoPos.bind (fun p => here.find? (fun e => e.pos == p))
  let best := here.find? (odoValid r)
  let invalid := match cur with | none => 0 | some e => if odoValid r e then 0 else s.time.odoInvalid + 1
  let use : Option Entry := match cur with
    | none => best
    | some e => if 2 ≤ invalid then (match best with | some b => some b | none => some e) else some e
  let t := s.time
  let base := { t with odoPos := use.map (fun (e : Entry) => e.pos), odoInvalid := if use.map (fun (e : Entry) => e.pos) = t.odoPos then invalid else 0 }
  match use.bind (fun e => (odoOf r e).map (fun d => if e.orient then d else -d)) with
  | some d =>
    let v := openDiv s (d * 1000000) (cycleLen s)
    tookFree { s with time := { base with posUm := t.posUm + d, speed := v, posValid := true, odoMissing := 0 } } 1
  | none =>
    let k := t.odoMissing + 1
    if t.posValid && decide (k ≤ 8) then
      { s with time := { base with posUm := t.posUm + t.speed * cycleLen s / 1000000, odoMissing := k } }
    else { s with time := { base with posValid := false, odoMissing := k } }

/-! ### The failover gap (R393, R400) -/

/-- Notes whether the own slot carried a publication in cycle n. -/
def noteGap (s : State) (n : Nat) (published : Bool) : State :=
  if (otherUnits s).isEmpty ∨ composing s then s
  else if published then { s with pair := { s.pair with gapFrom := none, gapCycles := 0, repeatOff := false } }
  else
    let first := s.pair.gapFrom.isNone
    { s with pair := { s.pair with
        gapFrom := if first then some n else s.pair.gapFrom
        gapWarm := if first then s.pair.currentAtTs else s.pair.gapWarm
        gapCycles := s.pair.gapCycles + 1 } }

/-! ### Skim commit -/

/-- Skim n is not yet committed. -/
def uncommitted (s : State) : Bool :=
  match s.skim.retained with | [] => true | r :: _ => r.desc.skim != s.cyc.n

/-- During a cold takeover every OUT route drives its signal's substitute (R395). -/
def coldOuts (s : State) (n : Nat) (outs : List StagedOut) : List StagedOut :=
  match s.pair.coldTo with
  | none => outs
  | some k =>
    if k = n ∨ cycBefore n k then
      outs.map (fun o => { o with
        raw := (convertOut s o.entry (routeType s o.entry) (substOf s (rSignal o.entry)).toNat).bits })
    else outs

/-- The OUT pass of the composing unit, with what it sends to the other units. The substitutes of a cold takeover are the values
last driven (R212, R395). -/
def outSide (s : State) (n : Nat) : State :=
  if !composing s then s
  else
    let s1 := outPass s n
    let outs := coldOuts s1 n ((s1.skim.staging.find? (fun p => p.1 == n)).elim [] (·.2))
    let s1 := if s.pair.coldTo.isNone then s1 else outs.foldl (fun s o => adjRoute s o.route (fun r => { r with driven := some o.raw })) s1
    let s2 := { s1 with skim := { s1.skim with
      staging := lastN 8 (s1.skim.staging.filter (fun p => p.1 != n) ++ [(n, outs)]) } }
    sendImages s2 n outs

/-- Skim n commits, with the steps that its commit starts: OUT pass, odometry, safety cycle. -/
def commitAll (s : State) : State :=
  if !s.cyc.running || !uncommitted s || !managing s || decide (s.sleep.power ≠ .awake) then s
  else
    let n := s.cyc.n
    let own := (heldSlot s).elim false (fun v => !(slotBuild s v).frames.isEmpty)
    let s1 := raiseInt (commitSkim s) 2
    let s2 := outSide (noteGap s1 n own) n
    let s3 := match s2.skim.retained with | [] => s2 | r :: _ => stepOdometry s2 r
    let s4 := noteSafe s3 (commitSafety s3)
    { s4 with pair := { s4.pair with mark := none } }

/-- A fed unit holds the commit mark of this cycle and every frame that it counts (R379). -/
def markComplete (s : State) : Bool :=
  match s.pair.mark with | none => false | some (c, _, k) => c == s.cyc.n && k ≤ s.pair.fedCount

/-- SKIM_COMMIT: the last publication slot has closed at every receiving port; at a fed unit, the mark's frames have come
(R180, R181, R379). -/
def execSkimCommit (s : State) : Res :=
  .next (if (if isFed s then markComplete s else slotsClosed s) then commitAll s else s)

/-- COMMIT_MARK_RECEIVED (R379, R382 type 0x02): 16 bytes, or its layout is broken (R547). -/
def execCommitMarkReceived (content : Bytes) (s : State) : Res :=
  .next (if !isFed s || !onRing s then s
  else if content.length ≠ 16 then recordDropped s
  else
    let s := ringGood s
    let c := field content 0 4
    let s1 := { s with pair := { s.pair with
      mark := some (c, field content 4 8, field content 12 4), markCycle := some c
      marksFor := if s.pair.markCycle = some c then s.pair.marksFor
        else if s.pair.markCycle.map (fun k => cycAdd k 1) = some c then s.pair.marksFor + 1 else 1 } }
    if markComplete s1 then commitAll s1 else s1)

/-- FED_COMMIT_TIMEOUT: at Ts(n + 1) a fed unit commits what it holds (R379). -/
def execFedCommitTimeout (s : State) : Res :=
  .next (if isFed s ∧ s.cyc.ts + (cycleLen s : Int) ≤ s.time.now then commitAll s else s)

end Sys2Proof.Machine
end

