-- ==== Sys2Proof/Machine/Catalogue.lean ====
section
/-! DEFINITION. The opcode catalogue (R448, R458): class needed, parameter items of each opcode, and the tests of a
request's header, class and items. -/

namespace Sys2Proof.Machine

/-- One opcode: the class it needs, required items, optional items, items that may repeat, and a group of which exactly
one must be present. -/
structure OpSpec where
  op : Nat
  cls : Nat
  req : List Nat
  opt : List Nat
  rep : List Nat
  one : List Nat
deriving DecidableEq, Repr

/-- An opcode with required and optional items only. -/
def opRow (op cls : Nat) (req opt : List Nat) : OpSpec := ⟨op, cls, req, opt, [], []⟩

def tSkim := 0x01
def tPin := 0x02
def tIds := 0x03
def tRange := 0x04
def tValue := 0x05
def tLease := 0x06
def tTag := 0x07
def tRoute := 0x08
def tIndex := 0x09
def tCount := 0x0A
def tOffset := 0x0B
def tData := 0x0C
def tKind := 0x0D
def tPort := 0x0E
def tSlot := 0x0F
def tUnit := 0x10
def tPacket := 0x11
def tStep := 0x12
def tDuration := 0x13
def tWait := 0x14
def tSemaphore := 0x15
def tArea := 0x16
def tSequence := 0x17
def tAddress := 0x18
def tCode := 0x19
def tMode := 0x1A
def tChannel := 0x1B

/-- Families 0x01 to 0x03. -/
def catalogueA : List OpSpec :=
  [opRow 0x0101 0 [] [], opRow 0x0102 0 [] [], opRow 0x0103 0 [] [],
   ⟨0x0201, 0, [], [tSkim, tPin], [], [tIds, tRange]⟩, opRow 0x0202 1 [tIds, tValue] [], opRow 0x0203 0 [] [tSkim],
   opRow 0x0204 0 [] [tSkim, tLease], opRow 0x0205 0 [tPin] [tLease], opRow 0x0206 0 [tPin] [],
   opRow 0x0207 2 [tIds, tValue] [], opRow 0x0208 2 [] [tIds], opRow 0x0209 2 [] [tMode],
   opRow 0x020A 0 [tOffset, tCount] [], opRow 0x020B 2 [] [], opRow 0x020C 2 [] [],
   opRow 0x0301 0 [tIndex, tCount] [], opRow 0x0302 3 [tData] [], opRow 0x0303 0 [] [], opRow 0x0313 3 [] []]

/-- Families 0x04 to 0x07. -/
def catalogueB : List OpSpec :=
  [opRow 0x0401 0 [] [], opRow 0x0402 0 [tOffset, tCount] [], opRow 0x0403 3 [tStep] [], opRow 0x0404 0 [tIndex, tCount] [],
   opRow 0x0501 0 [] [], opRow 0x0502 0 [] [], opRow 0x0503 2 [] [tMode], opRow 0x0504 1 [tData] [],
   opRow 0x0601 0 [] [], opRow 0x0602 1 [tDuration] [], opRow 0x0603 1 [] [], opRow 0x0604 0 [tIndex] [],
   opRow 0x0605 2 [tIndex, tData] [], opRow 0x0606 0 [] [], opRow 0x0607 2 [] [],
   opRow 0x0701 0 [] [], opRow 0x0702 2 [] [], opRow 0x0703 1 [tSlot, tUnit, tCount] []]

/-- Families 0x08 to 0x0C. -/
def catalogueC : List OpSpec :=
  [opRow 0x0801 0 [] [], opRow 0x0802 0 [] [], opRow 0x0803 2 [] [], opRow 0x0804 2 [tIndex] [], opRow 0x0805 0 [] [],
   opRow 0x0901 0 [tArea, tSequence, tCount] [], opRow 0x0902 0 [tCode] [], opRow 0x0903 0 [] [],
   opRow 0x0A01 0 [] [], opRow 0x0A13 3 [tKind, tMode] [], opRow 0x0A14 3 [tKind, tMode] [], opRow 0x0A15 3 [tData, tMode] [],
   opRow 0x0B01 0 [tPort] [], opRow 0x0B02 0 [tIndex] [], opRow 0x0B03 3 [tIndex, tData] [],
   opRow 0x0C01 0 [tPort] [], opRow 0x0C02 0 [tPort] []]

/-- Families 0x0D to 0x0F. -/
def catalogueD : List OpSpec :=
  [⟨0x0D01, 1, [tValue], [], [], [tRoute, tIds]⟩, opRow 0x0D02 0 [tRoute] [], opRow 0x0D03 0 [tTag] [],
   ⟨0x0D04, 1, [], [tWait], [tRoute, tValue], []⟩, opRow 0x0D05 1 [tSemaphore] [tWait, tSlot],
   opRow 0x0D06 1 [tCount] [], opRow 0x0D07 1 [tChannel] [], opRow 0x0D08 0 [] [],
   opRow 0x0D10 1 [tSlot, tPacket] [tUnit], opRow 0x0E01 0 [tAddress, tCount] [], opRow 0x0E02 2 [tAddress, tValue] [],
   opRow 0x0E03 0 [tPort] [], opRow 0x0F01 4 [] [], opRow 0x0F02 4 [] [], opRow 0x0F03 4 [] [], opRow 0x0F04 4 [tCount] [],
   opRow 0x0F05 4 [] [], opRow 0x0F06 4 [tAddress, tCount] [], opRow 0x0F07 4 [tAddress, tData] [], opRow 0x0F08 4 [tCount] []]

/-- The image transfers of each family: begin, chunk and finish (R457). -/
def catalogueT : List OpSpec :=
  [0x03, 0x04, 0x08, 0x0A, 0x0B, 0x0C].flatMap (fun f =>
    [opRow (f * 256 + 0x10) 3 [tKind, tCount] [tIndex, tPort], opRow (f * 256 + 0x11) 3 [tOffset, tData] [],
     opRow (f * 256 + 0x12) 3 [] []])

def catalogue : List OpSpec := catalogueA ++ catalogueB ++ catalogueC ++ catalogueD ++ catalogueT

def opSpec (op : Nat) : Option OpSpec := catalogue.find? (fun r => r.op == op)

/-- Opcodes that hardware serves (R455). -/
def hardwareServed (op : Nat) : Bool := op == 0x0201 || op == 0x0202 || op == 0x0203

/-- The length of an item's value (R448). -/
def itemLength (tag n : Nat) : Bool :=
  match tag with
  | 0x01 => n == 4 | 0x02 => n == 2 | 0x03 => n % 4 == 0 && 4 ≤ n && n ≤ 256 | 0x04 => n == 8 | 0x05 => n == 16
  | 0x06 => n == 4 | 0x07 => n == 2 | 0x08 => n == 4 | 0x09 => n == 4 | 0x0A => n == 4 | 0x0B => n == 4 | 0x0C => true
  | 0x0D => n == 1 | 0x0E => n == 2 | 0x0F => n == 1 | 0x10 => n == 1 | 0x11 => true | 0x12 => n == 9 | 0x13 => n == 4
  | 0x14 => n == 2 | 0x15 => n == 3 | 0x16 => n == 1 | 0x17 => n == 8 | 0x18 => n == 4 | 0x19 => n == 2 | 0x1A => n == 1
  | 0x1B => n == 2 | _ => false

def hasItem (l : List Tlv) (tag : Nat) : Bool := l.any (fun t => t.tag == tag)

/-- A request's items keep R448 and the catalogue's row. -/
def itemsOk (r : OpSpec) (l : List Tlv) : Bool :=
  l.all (fun t => itemLength t.tag t.val.length && (r.req ++ r.opt ++ r.rep ++ r.one).contains t.tag &&
      (r.rep.contains t.tag || decide ((l.filter (fun x => x.tag == t.tag)).length = 1))) &&
    r.req.all (hasItem l) && (r.one.isEmpty || decide ((r.one.filter (hasItem l)).length = 1))

/-- The ids of an `IDS` item. -/
def idList (b : Bytes) : List Nat := (List.range (b.length / 4)).map (fun i => field b (4 * i) 4)

end Sys2Proof.Machine
end

