-- ==== Sys2Proof/Machine/Sample.lean ====
section
/-! DEFINITION. The sample instant and the output instant (R95, R153 to R155, R194, R202, R366, R383, R396). -/

namespace Sys2Proof.Machine

/-! ### Tachometers (R154, R155) -/

/-- π as a fraction of two integers, to 32 digits. -/
def piNum : Int := 31415926535897932384626433832795
def piDen : Int := 10000000000000000000000000000000

/-- A tachometer's distance over the cycle, µm towards end 1: one count for each configured pulse (R154; log entry 178). -/
def tachDistance (s : State) (c : TachCfg) (x : TachIn) : Int :=
  openDiv s ((if c.forward then x.counts else -x.counts) * (c.diameter * 100 : Nat) * piNum) ((c.pulses : Int) * piDen)

/-- µm in a cycle as mm/s. -/
def tachRate (s : State) (d : Int) : Int := d * 1000000 / (cycleLen s : Nat)

/-- An edge interval or rate beyond what the counter follows. -/
def overRange (x : TachIn) : Bool :=
  (match x.minInterval with | none => false | some t => decide (t < 20000)) || decide (20000 < x.rate)

/-- A tachometer's judgement of a cycle; `other` is the speed that the other one indicates, mm/s. -/
def judgeTach (s : State) (t : TachSt) (x : TachIn) (other : Int) : TachSt :=
  let edge := if x.edge then s.clk else t.lastEdge
  { overUntil := if overRange x then s.clk + 1000000000 else t.overUntil
    lastEdge := edge
    stuck := !x.edge && (t.stuck || (decide (edge + 2000000000 ≤ s.clk) && decide (1000 < other.natAbs))) }

/-- A judged tachometer is valid for the cycle. -/
def tachValid (s : State) (t : TachSt) (x : TachIn) : Bool := decide (t.overUntil ≤ s.clk) && !t.stuck && !x.phaseError

/-- TACHOMETER_JUDGEMENT: the cycle's distance, speed and status (R154, R155). The 2 % are of the larger distance (log entry
179). -/
def judgeTachs (s : State) (a b : TachIn) : State :=
  match s.cfg with
  | none => s
  | some c =>
    if !c.node.odometry then { s with time := { s.time with distance := 0, tachSpeed := 0, tachStatus := 0 } }
    else
      let d1 := tachDistance s c.node.tach1 a
      let s1 := tookFree s 1
      let d2 := tachDistance s1 c.node.tach2 b
      let s2 := tookFree s1 1
      let t1 := judgeTach s s.time.tach1 a (tachRate s d2)
      let t2 := judgeTach s s.time.tach2 b (tachRate s d1)
      let v1 := tachValid s t1 a
      let v2 := tachValid s t2 b
      let diff := (d1 - d2).natAbs
      let disagree := v1 && v2 && decide (10000 < diff) && decide (max d1.natAbs d2.natAbs < diff * 50)
      let d := if disagree then (if c.node.tach2Primary then d2 else d1)
        else if v1 && v2 then openDiv s2 (d1 + d2) 2
        else if v1 then d1 else if v2 then d2 else 0
      let s3 := tookFree s2 1
      let v := openDiv s3 (d * 1000000) (cycleLen s)
      let st := b2n (decide (s.clk < t1.overUntil)) + 2 * b2n (decide (s.clk < t2.overUntil)) + 4 * b2n t1.stuck + 8 * b2n t2.stuck +
        16 * b2n a.phaseError + 32 * b2n b.phaseError + 64 * b2n disagree + 128 * b2n (v1 || v2)
      let s4 := tookFree s3 1
      { s4 with time := { s4.time with tach1 := t1, tach2 := t2, distance := d, tachSpeed := v, tachStatus := st } }

/-! ### Node signals and port traffic (R170, R382, R403) -/

/-- The unit whose node signals start at a local id. -/
def nodeVals (s : State) (u : Nat) (l : List Val) (q : Quality) : List QVal :=
  ((List.range l.length).zip l).map (fun p => ⟨nodeId s u p.1, p.2, q⟩)

/-- The node signals of another unit at Ts(n): its role from its control record, the others free values (log entry 46);
`STALE` while its record is not fresh. -/
def peerNode (s : State) (u : Nat) : List QVal :=
  match freshRec s u with
  | none => (List.range 16).map (fun o => ({ (sampled ((s.skim.samples.getLast?).getD ⟨0, [], []⟩) (nodeId s u o)) with quality := .stale } : QVal))
  | some r =>
    nodeVals s u ((List.range 16).map (fun o =>
      if o = 2 then BitVec.ofNat 128 r.role
      else BitVec.ofNat 128 ((Config.freeValue (s.freeCount + 2 * o)).toNat + (Config.freeValue (s.freeCount + 2 * o + 1)).toNat * 2 ^ 32)))
      (freshQuality s)

/-- The node signals of every unit of the vehicle, at the composing unit. -/
def allNode (s : State) (io : IoLatch) : List QVal :=
  nodeVals s s.unitNo (ownNodeSignals s io) (freshQuality s) ++ (otherUnits s).flatMap (peerNode s)

/-- The far fields of this unit's fresh images under IN routes, sent up to the composing unit. -/
def inFields (s : State) : Tab Bytes :=
  match s.route.table with
  | none => []
  | some t => (enabledRoutes t 1).filterMap (fun p =>
      if rDomain p.2 = 1 ∨ rUnit p.2 + 1 ≠ s.unitNo then none
      else match latchedImage s (gridTs s) (imageKey p.2) with
        | none => none
        | some x => if x.fresh then some (p.1, fit (bslice x.data (rByteOff p.2) (rWidth p.2)) (rWidth p.2)) else none)

/-- PORT_TRAFFIC up: what a carrying unit latched at Ts(n). -/
def sendTraffic (s : State) (n : Nat) : State :=
  match (otherUnits s).find? (fun u => ((freshRec s u).map PeerRec.composes).getD false) with
  | none => s
  | some u => sendMirror s 6 n [u] (fieldEntries (inFields s))

/-! ### The hawk at Ts(n) (R396) -/

/-- The holder renews with expiry n + 8. -/
def renewHawk (s : State) : State :=
  if !s.pair.hawkHeld then s
  else
    let e := cycAdd (gridN s) 8
    { s with pair := { s.pair with
        hawkOp := (2, e, s.unitNo), hawkExpiry := some e, hawkVotes := [s.unitNo], hawkVoteExpiry := e } }

/-- A releasing active unit names its last cycle but one with this control record (R392). -/
def nameSwitch (s : State) : State :=
  if s.pair.role = .active ∧ s.pair.releasing ∧ s.pair.handAt.isNone then
    { s with pair := { s.pair with handAt := some (cycAdd (gridN s) 1) } }
  else s

/-- The first cycle at whose start a contender is fit, while no lease has been delivered (R398). -/
def firstFit (s : State) : State :=
  if isStack s ∧ s.unitNo ≤ 2 ∧ s.pair.hawkExpiry.isNone ∧ s.pair.hawkFitAt.isNone ∧ isFit s then
    { s with pair := { s.pair with hawkFitAt := some (gridN s) } }
  else s

/-- An active unit that became unfit starts to release if the peer's records show it fit (R386). -/
def releaseUnfit (s : State) : State :=
  if s.pair.role = .active ∧ !isFit s ∧ (otherUnits s).any (fun u => ((freshRec s u).map PeerRec.fit).getD false) then
    { s with pair := { s.pair with releasing := true } }
  else s

/-! ### Pulses (R408, R409) -/

/-- The TC10 links that a wake-up goes out on: the peer segments, and the assigned train-line ports at 1.0 Gb/s. -/
def wakeLinks (s : State) : List Nat :=
  (allPorts.filter (fun p => assigned s p && !lineRate s p)).map (fun p => portNo p + 1) ++
    (if (otherUnits s).isEmpty then [] else [5, 6])

/-- WAKE_RELAY: pulses on the assigned wake wires and TC10 wake-ups, except where the wake arrived; the refractory time
runs from here. A line whose relay set is still closed has its wires driven and sensed like any other (R39; log entry
165). -/
def drivePulses (s : State) (wire : Option LinePort) (link : Option Nat) : State :=
  let ws := allPorts.filter (fun p => assigned s p && some p != wire)
  let ls := (wakeLinks s).filter (fun k => some k != link)
  let s1 := emit s (ws.map Out.wakePulse ++ ls.map Out.tc10Wake)
  { s1 with sleep := { s1.sleep with
      refractory := s.clk + 500000000
      wires := s.sleep.wires.map (fun p w => if ws.contains p then { w with driven := some s.clk } else w) } }

/-! ### SAMPLE_INSTANT -/

/-- Cycle c is the sleep cycle and this unit enters `SLEEP` at its Ts (R417). -/
def sleepsAt (s : State) (c : Nat) : Bool :=
  decide (s.sleep.announced ≠ 0) && decide (s.sleep.announced = c) && decide (1 ≤ s.sleep.seen)

/-- Counts over the cycles of R376 and R380 at Ts(n). -/
def countCycle (s : State) : State :=
  let s1 := reportIf (0 < s.pair.relayLate) s 0x0902 19 s.pair.relayLate []
  let n := s.cyc.n
  { s1 with
    img := { s1.img with joinedRun := if s.cyc.joined then s.img.joinedRun + 1 else 0 }
    pair := { s1.pair with
      relayLate := 0
      joinedFor := if s.cyc.joined then s.pair.joinedFor + 1 else 0
      marksFor := if s.pair.markCycle.map (fun k => cycAdd k 1) = some n then s.pair.marksFor else 0
      currentAtTs := mirrorCurrentAt s (gridN s) } }

/-- The supply and temperature at X1 and the cover (R520), in 0.1 V and 0.1 °C. -/
def measureSupply (s : State) (inp : SampleIn) : State :=
  let out := inp.supply < 168 || 1375 < inp.supply
  let due := decide (s.start.tallyAt + 1000000000 ≤ s.clk)
  let s := reportAll s (if due then [⟨0x0B81, 1, inp.temp, []⟩, ⟨0x0B82, 1, inp.supply, []⟩] else [])
  { s with start := { s.start with
      supply := inp.supply, temp := inp.temp, tallyAt := if due then s.clk else s.start.tallyAt
      supplyOutSince := if out then some (s.start.supplyOutSince.getD s.clk) else none
      supplyInSince := if out then none else some (s.start.supplyInSince.getD s.clk) } }

/-- The routes that come in at Ts: the composing unit's own carrying ports are read into its skim, another unit's
traffic goes to the composing unit (R382). -/
def takeInputs (s : State) : State × List QVal :=
  if composing s then inPass s (fun u => u + 1 == s.unitNo) else (sendTraffic s (gridN s), [])

/-- The management side's part of a sample instant: images aged, IN routes, tachometers, readback, discrete inputs,
and the sample set. -/
def latchAll (s : State) (inp : SampleIn) : State :=
  let n := gridN s
  let s := activateRoutes s
  let s1 := ageSubscriptions (ageChannels (ageField (countIdle s) (gridTs s))) (gridTs s)
  let s2 := takeInputs s1
  let s3 := measureSupply (judgeTachs s2.1 inp.tach1 inp.tach2) inp
  let s4 := latchIo (compareReadback s3 inp) n inp
  let s5 := latchSamples s4 n s2.2 (allNode s4 (latchFor s4 n))
  tookFree s5 (32 * (otherUnits s).length)

/-- Wake inputs that read inactive at Ts (R412, R421). WAKE_INPUT_ACTIVE tells of the others. -/
def trackInputs (s : State) : State :=
  let off : List Nat := match s.cfg with
    | none => []
    | some c => (c.power.wakeInputs.filter (fun (p : Nat × Bool × Bool) => (s.safe.hv &&& ~~~s.safe.hvFault).getLsbD (p.1 - 1) != p.2.1)).map (·.1)
  { s with sleep := { s.sleep with
      inputSince := s.sleep.inputSince.filter (fun p => !off.contains p.1)
      inputOffSince := off.foldl (fun t i => if Tab.has t i then t else Tab.set t i s.clk)
        (s.sleep.inputOffSince.filter (fun p => off.contains p.1)) } }

/-- A reason of the own bitmap other than `MIN_AWAKE` is seen (R418); one that arises after the point of no return sets
the wake latch (R416), with unit scope. -/
def noteReasons (s : State) : State :=
  let other := decide (reasonBitmap s / 64 * 64 + reasonBitmap s % 32 ≠ 0)
  { s with sleep := { s.sleep with
      reasonSeen := s.sleep.reasonSeen || other
      latch := if other && s.sleep.pastNoReturn && s.sleep.latch.isNone then some (false, 0) else s.sleep.latch } }

/-- A unit that delivered none of the last three cycle-starts of an announced sleep stays awake at Ts(s) (R417); a
latched train-wide request drives its pulses now. -/
def staysAwake (s : State) : State :=
  if s.sleep.announced ≠ 0 ∧ s.sleep.announced = gridN s then
    let s := if s.sleep.latch.elim false (·.1) then drivePulses s none none else s
    { s with sleep := { s.sleep with announced := 0, seen := 0, pastNoReturn := false, sleepAt := none, latch := none } }
  else s

/-- SAMPLE_INSTANT: Ts(n + 1) has come on the own train time (R153), or the first Ts of a new grid;
it is due at once after a step over Ts (log entry 172). The cycle count advances; the node latches its samples and sends its control record. No cycle s of an announced sleep is laid out. -/
def execSampleInstant (inp : SampleIn) (s : State) : Res :=
  .next (if !s.cyc.running || decide (s.time.now < nextTs s) || (!s.cyc.fresh && sleepsAt s (nextGrid s)) then s
  else
    let s1 := staysAwake (countCycle (advanceCycle s))
    if !managing s1 || decide (s1.sleep.power ≠ .awake) then s1
    else sendControl (firstFit (nameSwitch (releaseUnfit (renewHawk (noteReasons (trackInputs (latchAll s1 inp))))))))

/-! ### OUTPUT_INSTANT (R28, R95, R153, R194, R289) -/

/-- The applied image of every far object under the outputs of a skim. -/
def applyImages (s : State) (outs : List StagedOut) : State :=
  outs.foldl (fun s o =>
    if semBlocked s o then s
    else
      let k := imageKey o.entry
      let base := (imageOf s.route.outputs k).elim [] (·.data)
      let data := composeInto (fit base (max base.length (rByteOff o.entry + rWidth o.entry))) [o]
      let n := assemble (rOrder o.entry) (bslice data (rByteOff o.entry) (rWidth o.entry))
      let s1 := if rDomain o.entry = 7 ∧ rAddr o.entry 0 1 = 0 then setShadow s o.entry n else s
      { s1 with route := { s1.route with outputs := setImage s1.route.outputs (outputImage s1 k data) } }) s

/-- The outputs of routes at To(n): staged for skim n, or the last applied values again. -/
def applyRoutes (s : State) (n : Nat) : State :=
  let staged := (s.skim.staging.find? (fun x => x.1 == n)).map (·.2)
  let outs := match staged with | some l => l | none => s.skim.applied.elim [] (·.2)
  if staged.isNone && s.skim.applied.isNone then s
  else
    let s1 := { s with skim := { s.skim with applied := some (n, outs) } }
    let s2 := if s.pair.repeatOff then s1 else canOutputs s1 n outs
    match staged with
    | none => s2
    | some l => applyImages (mvbOutputs s2 l) l

/-- Outputs of cycle n are not staged at To(n) (R95). -/
def lateOutputs (s : State) (n : Nat) : Bool :=
  composing s && (safeLate s n ||
    (s.route.table.isSome && s.skim.applied.isSome && !(s.skim.staging.any (fun x => x.1 == n))))

/-- To(n) is still to come on the outputs. -/
def notApplied (s : State) (n : Nat) : Bool :=
  match s.skim.applied with | none => true | some (k, _) => cycBefore k n

/-- OUTPUT_INSTANT: the frames of the gates at To start, whatever the outputs do (R268); To(n) has come on the own train time, or a step passed over it (R153; log entry 172). Outputs of a To at or after the Ts of a sleep are not applied (R417). -/
def execOutputInstant (n : Nat) (s : State) : Res :=
  .next (drainPorts (if !s.cyc.running || !managing s || decide (s.sleep.power ≠ .awake) || !notApplied s n || decide (s.time.now < toOf s n) ||
      (sleepsAt s s.sleep.announced && decide (tsOf s s.sleep.announced ≤ toOf s n)) then s
  else
    let s1 := reportIf (lateOutputs s n) s 0x0102 4 (s.cyc.shift / 1000 : Nat) []
    freeOld (applyRoutes (applySafe s1 n) n) n))

end Sys2Proof.Machine
end

