-- ==== Sys2Proof/Machine/Pair.lean ====
section
/-! DEFINITION. Pairs and stacks (spec file 14): control records, mirror records, port traffic, the interlock, roles, the
hawk. -/

namespace Sys2Proof.Machine

/-! ### Control records (R24, R373, R383, R392, R396 to R399) -/

/-- A majority of the stack's units (R396). -/
def hawkMajorityOf (s : State) : Nat := ownUnits s / 2 + 1

/-- The unit becomes unplaced (R373): relay sets closed, every port down, outputs de-energised, no role. -/
def becomeUnplaced (s : State) : State :=
  let s1 := closeRelays (dropOutputs (report s 0x0901 19 s.upos []))
  { s1 with
    unplaced := true
    pair := { s1.pair with
      segs := s1.pair.segs.map (fun x => { x with up := false, status := setBit x.status 16 false })
      records := [], ilkOut := false, watchdog := none, hawkHeld := false, takeAt := none, handAt := none
      role := restingRole s1 } }

/-- An acknowledged lease of a unit other than `u` has not expired. -/
def ackedOther (s : State) (u : Nat) : Bool :=
  match s.pair.hawkAcked with
  | none => false
  | some (h, e) => h != u && cycBefore (gridN s) e

/-- A claim or renewal by unit u with expiry e: acknowledged at once in a control record, unless another lease that this
unit has acknowledged has not expired (R396, R398). -/
def ackHawk (s : State) (u e : Nat) : State :=
  let s1 := { s with pair := { s.pair with hawkExpiry := some e } }
  if ackedOther s u || s.pair.hawkHeld then s1
  else sendControl { s1 with pair := { s1.pair with hawkAcked := some (u, e), hawkOp := (4, e, u) } }

/-- An acknowledgement of this unit's claim or renewal. -/
def countVote (s : State) (from_ e : Nat) : State :=
  if e ≠ s.pair.hawkVoteExpiry ∨ s.pair.hawkVotes.contains from_ then s
  else
    let votes := s.pair.hawkVotes ++ [from_]
    let won := s.pair.hawkHeld && decide (hawkMajorityOf s ≤ votes.length)
    { s with pair := { s.pair with
        hawkVotes := votes
        hawkMajority := if won then cycAdd e (cycleMod - 8) else s.pair.hawkMajority } }

/-- The hawk operation of a control record. -/
def hawkRecord (s : State) (u : Nat) (b : Bytes) : State :=
  let e := field b 4 4
  let named := field b 8 1
  match field b 3 1 with
  | 1 => if u ≤ 2 ∧ named = u then ackHawk s u e else s
  | 2 => if u ≤ 2 ∧ named = u then ackHawk s u e else s
  | 3 => if u ≤ 2 then { s with pair := { s.pair with
      hawkExpiry := some (gridN s)
      hawkAcked := if s.pair.hawkAcked.map (·.1) = some u then none else s.pair.hawkAcked } } else s
  | 4 => if named = s.unitNo then countVote s u e else s
  | _ => s

/-- The peer's record is kept; a composing unit sends the full image to a unit that has joined or whose mirror is not
current (R382; log entry 48). -/
def keepRecord (s : State) (u id cycle : Nat) (b : Bytes) : State :=
  let r : PeerRec := ⟨u, id, cycle, s.clk, b⟩
  let joined := !peerFresh s u || (u ≤ 2 && !r.mirrorCurrent)
  { s with pair := { s.pair with
      records := s.pair.records.filter (fun x => x.unit != u) ++ [r]
      unit1Fit := if u = 1 then (if r.fit then s.pair.unit1Fit + 1 else 0) else s.pair.unit1Fit
      sendFull := s.pair.sendFull || (composing s && joined) } }

/-- A standby sees the active unit release: it switches with the next cycle but one of that record (R392). -/
def seeRelease (s : State) (r : PeerRec) : State :=
  if s.pair.role = .standby ∧ r.role = 1 ∧ r.releasing ∧ s.pair.handAt.isNone then
    { s with pair := { s.pair with handAt := some (cycAdd r.cycle 1) } }
  else s

/-- Whether the unit is the one with the odd UUID, by the control records heard so far (R24). -/
def judgeUuid (s : State) : State := { s with pair := { s.pair with uuidMismatch := oddUnit s } }

/-- CONTROL_RECORD_RECEIVED. A duplicate of the own unit number makes the unit of the higher id unplaced (R373); a unit
with another vehicle UUID is as if absent, and the unit whose UUID is the odd one takes no role (R24; log entry 144). A record of another length, or with a role or an operation that is not listed, breaks its layout (R547). -/
def execControlRecordReceived (unit unitId cycle : Nat) (content : Bytes) (s : State) : Res :=
  .next (if !managing s || s.unplaced || decide (unit < 1 ∨ 4 < unit) then s
  else if content.length ≠ 32 ∨ 4 < field content 0 1 % 16 ∨ 4 < field content 3 1 then recordDropped s
  else
  let s := ringGood s
  if unit = s.unitNo then (if unitId < s.unitId then becomeUnplaced s else s)
  else if field content 16 16 ≠ vehicleUuid s then
    judgeUuid { s with pair := { s.pair with
        badUuid := s.pair.badUuid.filter (· != unit) ++ [unit]
        records := s.pair.records.filter (fun x => x.unit != unit) } }
  else
    let bad := s.pair.badUuid.filter (· != unit)
    let s1 := judgeUuid (keepRecord { s with pair := { s.pair with badUuid := bad } } unit unitId cycle content)
    let s2 := if isStack s1 then hawkRecord s1 unit content else s1
    seeRelease s2 ⟨unit, unitId, cycle, s.clk, content⟩)

/-! ### Mirror records (R381, R382, R393, R394) -/

/-- The unit keeps a mirror: units 1 and 2 that do not compose. -/
def keepsMirror (s : State) : Bool :=
  managing s && !composing s && !s.unplaced && decide (s.unitNo ≤ 2) && !(otherUnits s).isEmpty

/-- The key of a record under reassembly: its type and skim. -/
def recordKey (type skim : Nat) : Nat := type * cycleMod + skim

/-- A part breaks the layout of a mirror frame (R381). -/
def partBroken (part parts : Nat) (content : Bytes) : Bool :=
  decide (parts < 1 ∨ 1024 < parts ∨ parts ≤ part ∨ 2012 < content.length)

/-- One part of a record: kept, and the whole content once every part is there. Parts of an older skim of the same type
are dropped. -/
def mirrorPart (s : State) (type skim part parts : Nat) (content : Bytes) : State × Option Bytes :=
  let k := recordKey type skim
  if partBroken part parts content then (s, none)
  else
    let kept := s.pair.mirror.parts.filter (fun p => (p.1 / cycleMod != type || p.1 == k) && !(p.1 == k && p.2.1 == part)) ++
      [(k, part, content)]
    let mine := kept.filter (fun p => p.1 == k)
    let whole := (List.range parts).all (fun i => mine.any (fun p => p.2.1 == i))
    let put := fun l => { s with pair := { s.pair with mirror := { s.pair.mirror with parts := l } } }
    if whole then
      (put (kept.filter (fun p => p.1 != k)),
        some ((List.range parts).flatMap (fun i => ((mine.find? (fun p => p.2.1 == i)).map (·.2.2)).getD [])))
    else (put kept, none)

/-- A record of the next skim continues a mirror. -/
def follows (last : Option Nat) (skim : Nat) : Bool :=
  match last with | none => false | some k => skim == cycAdd k 1 || skim == k

/-- The mirror holds an entry for every enabled OUT route. -/
def imageFull (s : State) (t : Tab Bytes) : Bool :=
  match s.route.table with | none => false | some r => (enabledRoutes r 2).all (fun p => Tab.has t p.1)

/-- An output-image record: its fields enter the mirror; after a gap the mirror begins afresh. -/
def mirrorImage (s : State) (skim : Nat) (b : Bytes) (fallback : Bool) : State :=
  let m := s.pair.mirror
  let old := if follows m.imageSkim skim then m.fields else []
  let new := parseFields s (b.length / 4) b old
  { s with pair := { s.pair with mirror := { m with
      fields := new, imageSkim := some skim, fallback := fallback, full := imageFull s new } } }

/-- A safety-state record is compared with the own complex: its state and its latest checkpoint's CRC (log entry 49). -/
def mirrorSafety (s : State) (b : Bytes) : State :=
  let differs := field b 2 1 != safeCode s.safe.state || field b 4 4 != (latestCheckpoint s).elim 0 (·.crc)
  let s1 := reportIf differs s 0x0903 19 0 []
  { s1 with pair := { s1.pair with mirror := { s1.pair.mirror with safety := b } } }

/-- A mirror record's part at a unit that keeps a mirror. -/
def mirrorRecordPart (s : State) (type skim part parts : Nat) (content : Bytes) (act : State → Bytes → State) : State :=
  if !keepsMirror s then s
  else match mirrorPart s type skim part parts content with
    | (s1, none) => s1
    | (s1, some b) => act s1 b

/-- A mirror record's part from the peer ring, which a unit out of the ring does not take (R24); one that breaks its layout
is dropped (R382, R547). -/
def ringRecordPart (s : State) (type skim part parts : Nat) (content : Bytes) (act : State → Bytes → State) : State :=
  if !managing s || s.unplaced || !onRing s then s
  else if partBroken part parts content then recordDropped s
  else mirrorRecordPart (ringGood s) type skim part parts content act

/-- SAFETY_STATE_RECORD (R382 type 0x03, R393): 8 bytes, or its layout is broken. -/
def execSafetyStateRecord (skim part parts : Nat) (content : Bytes) (s : State) : Res :=
  .next (ringRecordPart s 3 skim part parts content (fun s b => if b.length = 8 then mirrorSafety s b else recordDropped s))

/-- OUTPUT_IMAGE_RECORD (R382 type 0x04, R393). -/
def execOutputImageRecord (skim part parts : Nat) (content : Bytes) (s : State) : Res :=
  .next (ringRecordPart s 4 skim part parts content (fun s b => mirrorImage s skim b false))

/-- WRITES_AND_FORCES_RECORD (R382 type 0x05, R393; layout of log entry 44). -/
def execWritesAndForcesRecord (skim part parts : Nat) (content : Bytes) (s : State) : Res :=
  .next (ringRecordPart s 5 skim part parts content (fun s b =>
    let k := field b 0 4
    let m := s.pair.mirror
    { s with pair := { s.pair with mirror := { m with
        writes := parseWrites k (b.drop 4), forces := parseForces (field b (4 + 20 * k) 4) (b.drop (8 + 20 * k))
        writesSkim := some skim, full := m.full && (follows m.writesSkim skim || m.writesSkim.isNone) } } }))

/-- MIRROR_FALLBACK_MESSAGE: a record over the train line, for the standby of a pair without its ring (R394). -/
def execMirrorFallbackMessage (f : Frame) (s : State) : Res :=
  .next (takeMessage s f 9 (fun s =>
    let b := msgBody f
    let type := field b 0 1
    let skim := field b 4 4
    if b.length < 12 ∨ !fallbackPair s ∨ (type ≠ 3 ∧ type ≠ 4) then s
    else mirrorRecordPart s type skim (field b 2 2) (field b 8 2) (b.drop 12) (fun s c =>
      if type = 4 then mirrorImage s skim c true
      else if c.length = 8 then mirrorSafety s c else s)))

/-! ### Port traffic (R403) -/

/-- Far fields of another unit's ports arrive at the composing unit: its IN routes of cycle n run on them. -/
def trafficUp (s : State) (u n : Nat) (b : Bytes) : State :=
  match s.route.table with
  | none => s
  | some t =>
    let fields := parseFields s (b.length / 4) b []
    let mine := (enabledRoutes t 1).filter (fun p => rDomain p.2 != 1 && rUnit p.2 + 1 == u)
    let step := fun (acc : State × List QVal) (p : Nat × Bytes) =>
      let s := acc.1
      let r := routeStateOf s p.1
      match Tab.get? fields p.1 with
      | none => (s, acc.2 ++ [inFallback s p.2 r (r.lastIn.isSome || (cellNow s (rSignal p.2)).any (fun c => c.quality != .notReady))])
      | some d =>
        match convertIn p.2 (routeType s p.2) (rawOf p.2 (assemble (rOrder p.2) (fit d (rWidth p.2)))) with
        | none => (s, acc.2 ++ [⟨rSignal p.2, lastValue s p.2 r, .invalid⟩])
        | some c =>
          let v := BitVec.ofNat 128 c.bits
          (noteClip (adjRoute s p.1 (fun r => { r with lastIn := some v })) p.1 c.clipped,
            acc.2 ++ [⟨rSignal p.2, v, freshQuality s⟩])
    let (s1, vals) := mine.foldl step (s, [])
    let set := sampleSet s1 n
    let free := vals.filter (fun q => (lookupQ set.direct q.id).isNone)
    { s1 with skim := { s1.skim with samples := s1.skim.samples.map (fun x =>
        if x.n = n then { x with vals := overlay x.vals (free.map (localQuality s1)) } else x) } }

/-- Output buffers for To(n) arrive at a carrying unit. -/
def trafficDown (s : State) (n : Nat) (b : Bytes) : State :=
  let fields := parseFields s (b.length / 4) b []
  let outs := fields.filterMap (fun p =>
    let e := entryAt s p.1
    if rUnit e + 1 = s.unitNo ∧ rDir e = 2 then
      some (⟨p.1, e, rawOf e (assemble (rOrder e) (fit p.2 (rWidth e)))⟩ : StagedOut) else none)
  { s with skim := { s.skim with staging := lastN 8 (s.skim.staging.filter (fun x => x.1 != n) ++ [(n, outs)]) } }

/-- The own slot of this cycle has opened: far images come too late for it. -/
def slotOpened (s : State) : Bool :=
  match (pubSlots s).find? (fun x => some x.slot == ownSlot s) with
  | none => false
  | some x => decide (x.start ≤ s.time.now)

/-- PORT_TRAFFIC_RECORD (R382 type 0x06, R403). -/
def execPortTrafficRecord (fromUnit skim part parts : Nat) (content : Bytes) (s : State) : Res :=
  .next (if !managing s || s.unplaced || !onRing s || !(otherUnits s).contains fromUnit then s
  else if partBroken part parts content then recordDropped s
  else match mirrorPart (ringGood s) (6 + 16 * fromUnit) skim part parts content with
    | (s1, none) => s1
    | (s1, some b) =>
      if composing s1 then (if skim = gridN s1 ∧ (skim ≠ s1.cyc.n ∨ !slotOpened s1) then trafficUp s1 fromUnit skim b else s1)
      else trafficDown s1 skim b)

/-! ### Peer segments (R377, R378) -/

/-- PEER_SEGMENT_DOWN: link lost for 1 ms. -/
def execPeerSegmentDown (seg : Nat) (s : State) : Res :=
  .next (setSeg s seg (fun x => { x with up := false, status := setBit (setBit x.status 16 false) 22 false }))

/-- PEER_SEGMENT_LINK_UP. An unplaced unit that found a duplicate keeps its peer ports down (R373). -/
def execPeerSegmentLinkUp (seg : Nat) (master : Bool) (s : State) : Res :=
  .next (if s.unplaced then s
  else setSeg s seg (fun x => { x with up := true, status := setBit (setBit x.status 16 true) 22 master }))

/-! ### The interlock (R385 to R389) -/

/-- The reading and loop codes at which R388's conditions hold. -/
def ilkBad (s : State) : Bool :=
  decide (s.pair.ownLoop ≠ 0) || decide (3 ≤ s.pair.ilkIn) || (decide (s.pair.ilkIn = 0) && s.pair.segs.any (·.up))

/-- Keeps the instants from which a fault condition has held, or has not. -/
def noteIlk (s : State) : State :=
  let bad := ilkBad s
  { s with pair := { s.pair with
      condSince := if bad then some (s.pair.condSince.getD s.clk) else none
      clearSince := if bad then none else some (s.pair.clearSince.getD s.clk) } }

/-- The interlock decides for this unit: a pair, or units 1 and 2 of a stack (R384, R390). -/
def hasIlk (s : State) : Bool := !s.unplaced && (isPair s || (isStack s && decide (s.unitNo ≤ 2)))

/-- The train has a lead that this unit follows (R389). -/
def leadCommitted (s : State) : Bool := inCycle s && !s.cyc.stopped

/-- A unit loses what its interlock output stands for: the active role, or the line duty of a stack. -/
def loseIlk (s : State) : State :=
  if isStack s then
    { s with
      pair := { s.pair with ilkOut := false, watchdog := none, takeAt := none }
      set := { s.set with lease := false } }
  else leaveRole s

/-- INTERLOCK_READING_CHANGE (R385): a reading stable for 100 µs. Both units active: the higher number releases (R386);
more than two changes within 1 ms are a fault at once (R388). -/
def execInterlockReadingChange (ilkIn ownLoop : Nat) (s : State) : Res :=
  .next (if 4 < ilkIn ∨ 2 < ownLoop ∨ !hasIlk s then s
  else
    let changed := decide (ilkIn ≠ s.pair.ilkIn)
    let recent := s.pair.ilkChanges.filter (fun t => s.clk < t + 1000000) ++ (if changed then [s.clk] else [])
    let s1 := noteIlk { s with pair := { s.pair with
      ilkIn := ilkIn, ownLoop := ownLoop, ilkSince := if changed then s.clk else s.pair.ilkSince
      ilkChanges := recent, ilkFault := s.pair.ilkFault || decide (2 < recent.length) } }
    if !s1.pair.ilkFault ∧ ilkIn = 2 ∧ ownLoop = 0 ∧ s1.pair.ilkOut ∧ s1.unitNo = 2 then loseIlk s1 else s1)

/-- The other of units 1 and 2. -/
def ilkPeer (s : State) : Nat := if s.unitNo = 1 then 2 else 1

/-- A fit standby takes the role on the present reading (R386). -/
def ilkTakes (s : State) : Bool :=
  let lowerFit := match freshRec s (ilkPeer s) with
    | none => false
    | some r => r.fit && !(bitOf (field r.content 1 1) 2) && decide (ilkPeer s < s.unitNo)
  s.pair.ownLoop == 0 && ((s.pair.ilkIn == 1 && !lowerFit) || (s.pair.ilkIn == 0 && ringDown s))

/-- INTERLOCK_SETTLE: the reading has stood for 500 µs (R386). -/
def execInterlockSettle (s : State) : Res :=
  .next (if hasIlk s && !s.pair.ilkFault && !s.pair.ilkOut && s.pair.takeAt.isNone && isFit s && ilkTakes s &&
      decide (s.pair.ilkSince + 500000 ≤ s.clk) then assertRole s else s)

/-- ILK_FAULT_SET: a condition has held for 10 ms (R388). -/
def execIlkFaultSet (s : State) : Res :=
  let s := noteIlk s
  .next (match s.pair.condSince with
    | some t => if hasIlk s ∧ t + 10000000 ≤ s.clk then { s with pair := { s.pair with ilkFault := true } } else s
    | none => s)

/-- ILK_FAULT_CLEAR: 1 s without a condition (R388). -/
def execIlkFaultClear (s : State) : Res :=
  let s := noteIlk s
  .next (match s.pair.clearSince with
    | some t => if t + 1000000000 ≤ s.clk then { s with pair := { s.pair with ilkFault := false, ilkChanges := [] } } else s
    | none => s)

/-- ROLE_WATCHDOG_EXPIRY: `ILK_OUT` drops and the unit has left the active role (R387). -/
def execRoleWatchdogExpiry (s : State) : Res :=
  .next (match s.pair.watchdog with
    | some t => if t ≤ s.clk then
        loseIlk { s with pair := { s.pair with watchdog := none, ilkOut := false } } else s
    | none => s)

/-- A stack's unit takes the line duty: at position 1, the lease with the next cycle-start (R390). -/
def takeLineDuty (s : State) : State :=
  let lead := inCycle s && ownPos s == 1 && attached s && !s.set.lease
  { s with
    pair := { s.pair with takeAt := none }
    set := { s.set with
      takeLease := s.set.takeLease || lead, claimDue := s.set.claimDue || lead
      leadKey := if lead then ownKey s else s.set.leadKey } }

/-- ROLE_TAKEOVER: the first cycle that begins 100 µs after `ILK_OUT` was asserted (R391). -/
def execRoleTakeover (s : State) : Res :=
  .next (match s.pair.takeAt with
    | none => s
    | some t =>
      if !s.pair.ilkOut ∨ !isFit s ∨ (s.cyc.running ∧ s.cyc.ts < t) ∨ s.time.now < t then s
      else if isStack s then takeLineDuty s
      else becomeComposing s .active (warmNow s))

/-- HANDOVER_SWITCH: at Ts(j) the active unit deasserts `ILK_OUT`, and the standby asserts its own and composes cycle j
(R392). -/
def execHandoverSwitch (s : State) : Res :=
  .next (match s.pair.handAt with
    | none => s
    | some j =>
      if j ≠ s.cyc.n ∧ !cycBefore j s.cyc.n then s
      else if s.pair.role = .active then leaveRole s
      else if s.pair.role = .standby ∧ isFit s then
        becomeComposing (renewWatchdog { s with pair := { s.pair with ilkOut := true } }) .active s.pair.currentAtTs
      else { s with pair := { s.pair with handAt := none } })

/-- HAWK_RELEASE: the holder releases at Ts(j) (R399). -/
def releaseHawk (s : State) : State :=
  let s1 := leaveRole { s with pair := { s.pair with hawkHeld := false, hawkAcked := none } }
  sendControl { s1 with pair := { s1.pair with hawkOp := (3, gridN s, s.unitNo) } }

/-- SWITCHBACK: unit 1 of a one-attachment pair or stack has been fit for 16 cycles (R392, R399). -/
def execSwitchback (s : State) : Res :=
  .next (if s.unitNo ≠ 2 ∨ s.pair.unit1Fit < 16 then s
  else if arrangement s = 1 ∧ s.pair.role = .active then { s with pair := { s.pair with releasing := true } }
  else if arrangement s = 3 ∧ s.pair.hawkHeld then releaseHawk s
  else s)

/-- A grant that names this unit and has not expired (R389). -/
def granted (s : State) : Bool :=
  match s.pair.grant with
  | none => false
  | some (u, e) => u == s.unitNo && cycBefore (gridN s) e

/-- GRANT_EXPIRY: with `ILK_FAULT` and a committed lead, the active role lapses with its grant (R389). -/
def execGrantExpiry (s : State) : Res :=
  .next (if isPair s ∧ s.pair.ilkFault ∧ s.pair.role = .active ∧ leadCommitted s ∧ !granted s then leaveRole s else s)

/-- A role grant is received (R389): one that names this unit makes a fit standby take the role, one that names the
other makes an active unit leave it; both only under `ILK_FAULT`. -/
def receiveGrant (s : State) (u e : Nat) : State :=
  let s1 := { s with pair := { s.pair with grant := some (u, e) } }
  if !isPair s ∨ !s.pair.ilkFault then s1
  else if u ≠ s.unitNo then (if s.pair.role = .active then leaveRole s1 else s1)
  else if s.pair.role = .standby ∧ isFit s ∧ s.pair.takeAt.isNone ∧ cycBefore (gridN s) e then assertRole s1
  else s1

/-! ### The hawk (R396 to R399) -/

/-- HAWK_FENCE: no majority for a renewal later than r by Ts(r + 6) (R397). -/
def execHawkFence (s : State) : Res :=
  .next (if s.pair.hawkHeld ∧ 6 ≤ cycDiff (gridN s) s.pair.hawkMajority then
    leaveRole { s with pair := { s.pair with hawkHeld := false } } else s)

/-- The first cycle in which this contender may claim. -/
def claimCycle (s : State) : Option Nat :=
  match s.pair.hawkExpiry with
  | some e => some e
  | none => s.pair.hawkFitAt.map (fun c => if s.unitNo = 1 then c else cycAdd c 1)

/-- HAWK_CLAIM: at Ts(e) and in each cycle after it, a fit contender claims with expiry n + 9 (R398). -/
def execHawkClaim (s : State) : Res :=
  .next (match claimCycle s with
    | none => s
    | some e =>
      let n := gridN s
      let due := e == n || cycBefore e n
      if !due ∨ !isStack s ∨ 2 < s.unitNo ∨ s.unplaced ∨ s.pair.hawkHeld ∨ !isFit s ∨ s.pair.hawkClaimAt = some n then s
      else
        let x := cycAdd n 9
        sendControl { s with pair := { s.pair with
          hawkClaimAt := some n, hawkVotes := [s.unitNo], hawkVoteExpiry := x, hawkOp := (1, x, s.unitNo)
          hawkAcked := some (s.unitNo, x) } })

/-- HAWK_TAKE: a majority for the claim of cycle e, and Ts(e + 1) has come (R398). -/
def execHawkTake (s : State) : Res :=
  .next (match s.pair.hawkClaimAt with
    | none => s
    | some e =>
      if gridN s ≠ cycAdd e 1 ∨ s.pair.hawkHeld ∨ s.pair.hawkVotes.length < hawkMajorityOf s ∨ !isFit s then s
      else
        becomeComposing { s with pair := { s.pair with
          hawkHeld := true, hawkExpiry := some s.pair.hawkVoteExpiry, hawkMajority := e, hawkClaimAt := none } }
          .master (warmNow s))

/-- HAWK_RELEASE (R399). -/
def execHawkRelease (s : State) : Res := .next (if s.pair.hawkHeld then releaseHawk s else s)

/-! ### Cold takeovers and gaps (R395, R401) -/

/-- COLD_TAKEOVER_END: from cycle j + 8 routes follow R212 (R395). -/
def execColdTakeoverEnd (s : State) : Res :=
  .next (match s.pair.coldTo with
    | none => s
    | some k => if cycBefore k s.cyc.n then { s with pair := { s.pair with coldTo := none } } else s)

/-- GAP_REPEAT_END: after 10 cycles of a gap the repeated last values stop (R401). -/
def execGapRepeatEnd (s : State) : Res :=
  .next (if 10 ≤ s.pair.gapCycles then { s with pair := { s.pair with repeatOff := true } } else s)

end Sys2Proof.Machine
end

