-- ==== Sys2Proof/Machine/Recorder.lean ====
section
/-! DEFINITION. The event recorder (spec file 16). -/

namespace Sys2Proof.Machine

/-! ### Codes (R429) -/

/-- The area classes of a code. -/
inductive AreaClass where
  | t | p | tFree | pFree | tally
deriving DecidableEq, Repr

/-- The assigned codes by class. -/
def codesP : List Nat := [0x0008, 0x0704, 0x0B02, 0x0B03]
def codesPFree : List Nat := [0x0001, 0x0002, 0x0003, 0x0201, 0x0803, 0x0807, 0x0B01, 0x0B04, 0x0B05]
def codesTally : List Nat := [0x0181, 0x0182, 0x0681, 0x0682, 0x0683, 0x0B81, 0x0B82]
def codesT : List Nat :=
  [0x0005, 0x0006, 0x0007, 0x0009, 0x0101, 0x0102, 0x0103, 0x0104, 0x0202, 0x0203, 0x0204, 0x0205, 0x0301, 0x0401,
   0x0402, 0x0403, 0x0404, 0x0405, 0x0406, 0x0501, 0x0502, 0x0503, 0x0504, 0x0505, 0x0506, 0x0507, 0x0601, 0x0602] ++
  [0x0603, 0x0604, 0x0605, 0x0606, 0x0701, 0x0702, 0x0703, 0x0801, 0x0802, 0x0804, 0x0805, 0x0806, 0x0901, 0x0902,
   0x0903, 0x0904, 0x0905, 0x0906, 0x0A01, 0x0A02, 0x0A03, 0x0A04, 0x0A05, 0x0A06, 0x0A07]

/-- The class of a code; none for a reserved one. -/
def codeClass (c : Nat) : Option AreaClass :=
  if c = 4 then some .tFree
  else if codesP.contains c then some .p
  else if codesPFree.contains c then some .pFree
  else if codesTally.contains c then some .tally
  else if codesT.contains c then some .t else none

/-- Codes without a measure. -/
def noMeasure (c : Nat) : Bool :=
  [0x0007, 0x0202, 0x0203, 0x0405, 0x0406, 0x0504, 0x0507, 0x0681, 0x0682, 0x0683, 0x0903, 0x0A05].contains c

/-- Codes whose measure is signed. -/
def signedMeasure (c : Nat) : Bool := c == 0x0103 || c == 0x0B81

/-- A measure saturated to 32 bits. -/
def satMeasure (c : Nat) (v : Int) : Int :=
  if signedMeasure c then max (-2147483648) (min 2147483647 v) else max 0 (min 4294967295 v)

/-- A 32-bit field as a code's measure. -/
def measureOf (c n : Nat) : Int := if signedMeasure c ∧ 2147483648 ≤ n then (n : Int) - 4294967296 else n

def primerClass (k : AreaClass) : Bool := k == .p || k == .pFree
def exempt (k : AreaClass) : Bool := k == .tFree || k == .pFree

/-! ### Settings (R430, R431, R445) -/

def recCfg (s : State) : RecCfg := match s.cfg with | none => RecCfg.default | some c => c.recorder

/-- B and P of a code. -/
def bucketOf (s : State) (c : Nat) : Nat × Nat :=
  Tab.getD (recCfg s).buckets c (if (codeClass c).map primerClass = some true then (4, 3600000000000) else (16, 1000000000))

/-- lo and w of a code. -/
def binCfg (s : State) (c : Nat) : Int × Nat :=
  Tab.getD (recCfg s).bins c
    (match c with | 0x0181 => (0, 15) | 0x0182 => (0, 250) | 0x0B81 => (-400, 150) | 0x0B82 => (0, 200) | _ => (0, 1))

/-! ### Statistics (R430, R431) -/

/-- A code with nothing counted and a full bucket. -/
def CodeStat.blank (b : Nat) : CodeStat :=
  { tokens := b, below := 0, suppressed := 0, pCount := 0, lCount := 0, pSuppressed := 0, pMin := 0, pMax := 0, lMin := 0,
    lMax := 0, pMaxTime := 0, bins := List.replicate 8 0 }

def codeStat (s : State) (c : Nat) : CodeStat := Tab.getD s.recorder.codes c (CodeStat.blank (bucketOf s c).1)

def setCode (s : State) (c : Nat) (x : CodeStat) : State :=
  { s with recorder := { s.recorder with codes := Tab.set s.recorder.codes c x } }

/-- The bucket with the tokens that its elapsed intervals have brought. -/
def refill (s : State) (c : Nat) (x : CodeStat) : CodeStat :=
  let b := bucketOf s c
  if b.1 ≤ x.tokens then x
  else
    let k := (s.clk - x.below) / max 1 b.2
    { x with tokens := min b.1 (x.tokens + k), below := x.below + k * max 1 b.2 }

/-- The bin of a measure. -/
def binOf (lo : Int) (w : Nat) (v : Int) : Nat :=
  if v < lo + w then 0 else min 7 ((v - lo) / (max 1 w : Nat)).toNat

/-- An event enters its code's statistics. -/
def countEvent (s : State) (c : Nat) (v : Int) (t : Int) (x : CodeStat) : CodeStat :=
  let n := { x with pCount := satAdd 4294967295 x.pCount 1, lCount := satAdd 18446744073709551615 x.lCount 1 }
  if noMeasure c then n
  else
    let (lo, w) := binCfg s c
    let k := binOf lo w v
    { n with
      pMin := if x.pCount = 0 then v else min x.pMin v
      pMax := if x.pCount = 0 then v else max x.pMax v
      pMaxTime := if x.pCount = 0 ∨ x.pMax < v then t else x.pMaxTime
      lMin := if x.lCount = 0 then v else min x.lMin v
      lMax := if x.lCount = 0 then v else max x.lMax v
      bins := x.bins.set k (satAdd 65535 (x.bins.getD k 0) 1) }

/-! ### Records (R426) -/

/-- The first 60 bytes of a record. -/
def Record.core (r : Record) : Bytes :=
  be 8 r.seq ++ be 8 (time64 r.time) ++ be 4 r.skim ++ be 4 r.topo ++ be 2 r.code ++ be 1 r.origin ++ be 1 r.flags ++
    be 2 r.suppressed ++ zeros 2 ++ fit r.payload 28

/-- A record with its valid mark. -/
def Record.bytes (r : Record) : Bytes := r.core ++ be 4 (crc32 r.core)

def Record.primer (r : Record) : Bool := bitOf r.flags 0

/-- A payload, the measure first where the code has one. -/
def payloadOf (c : Nat) (v : Int) (rest : Bytes) : Bytes :=
  fit (if noMeasure c then rest else beInt 4 v ++ rest) 28

/-- The bucket of topcoat-only records (R437), refilled at 1,024 per second. -/
def avgNow (s : State) : Nat × Nat :=
  let k := (s.clk - s.recorder.avgAt) * 1024 / 1000000000
  if s.recorder.avgTokens + k < 16384 then (s.recorder.avgTokens + k, s.recorder.avgAt + k * 1000000000 / 1024)
  else (16384, s.clk)

/-- A record is dropped: counted, and logged with the count. -/
def dropRecord (s : State) (c : Nat) : State :=
  let k := s.recorder.dropsUnlogged + 1
  let s1 := reportIf (c != 5) s 0x0005 17 k []
  { s1 with recorder := { s1.recorder with dropCount := count32 s.recorder.dropCount, dropsUnlogged := k } }

/-- A staged record for the topcoat ring only: of no primer class, and not of a summary (R437). -/
def Staged.topOnly (x : Staged) : Bool := !x.record.primer && x.record.code != 4 && !bitOf x.record.flags 4

/-- A staged record gives its place to another, and counts as dropped (R437). -/
def yieldPlace (s : State) : Option Staged → State
  | none => s
  | some x => dropRecord { s with recorder := { s.recorder with staging := dropOne x s.recorder.staging } } x.record.code

/-- A record enters staging under the next sequence, or is dropped (R427, R437); in a full staging the oldest topcoat-only
record makes room for one that is not. `free` records bypass the average. -/
def stageRecord (s : State) (r : Record) (free : Bool) : State :=
  let topOnly := !r.primer && !free
  let avg := avgNow s
  let room := if topOnly then 15360 else 16384
  let full := decide (room ≤ s.recorder.staging.length)
  let victim := if full && !topOnly then s.recorder.staging.find? Staged.topOnly else none
  if (full && victim.isNone) || (topOnly && avg.1 == 0) then dropRecord s r.code
  else
  let s := yieldPlace s victim
  { s with recorder := { s.recorder with
    staging := s.recorder.staging ++ [⟨{ r with seq := s.recorder.nextSeq }, s.clk⟩]
    nextSeq := s.recorder.nextSeq + 1
    avgTokens := if topOnly then avg.1 - 1 else s.recorder.avgTokens
    avgAt := if topOnly then avg.2 else s.recorder.avgAt
    dropsUnlogged := if r.code = 5 then 0 else s.recorder.dropsUnlogged } }

/-! ### Triggers (R438) -/

/-- TRIGGER_FIRE. -/
def fireTrigger (s : State) (t : TriggerCfg) : State :=
  let busy := s.skim.snapshot.state = 1 ∨ s.skim.snapshot.locked
  let s1 := if bitOf t.actions 0 then startSnapshot s else s
  let s2 := if bitOf t.actions 0 ∧ bitOf t.actions 1 ∧ !busy then
    { s1 with skim := { s1.skim with snapshot := { s1.skim.snapshot with locked := true } } } else s1
  raiseIntIf (bitOf t.actions 2) s2 6

/-- The triggers that an event fires. -/
def fireTriggers (s : State) (c : Nat) (v : Int) : State :=
  ((recCfg s).triggers.filter (fun t => t.code == c && (noMeasure c || decide (measureOf c t.threshold ≤ v)))).foldl fireTrigger s

/-! ### An event (R430, R431, R438) -/

/-- An event is counted, fires its triggers, and is recorded if it needs no token or finds one. After `POWER_FAIL` it is
counted only (R441). -/
def recordEvent (s : State) (r : Report) : State :=
  let c := r.ev.code
  match codeClass c with
  | none => s
  | some k =>
    let v := satMeasure c r.ev.measure
    let x := refill s c (countEvent s c v r.time (codeStat s c))
    let s1 := fireTriggers s c v
    if k = .tally ∨ s.recorder.powerFail.isSome then setCode s1 c x
    else if !exempt k && x.tokens == 0 then
      setCode s1 c { x with suppressed := satAdd 65535 x.suppressed 1, pSuppressed := satAdd 4294967295 x.pSuppressed 1 }
    else
      let full := x.tokens == (bucketOf s c).1
      let x1 := { x with
        tokens := if exempt k then x.tokens else x.tokens - 1
        below := if !exempt k && full then s.clk else x.below
        suppressed := 0 }
      let rec1 : Record :=
        { seq := 0, time := r.time, skim := r.skim, topo := r.topo, code := c, origin := (s.unitNo - 1) % 4 * 64 + r.ev.subsystem
          flags := b2n (primerClass k) + 2 * b2n r.localTime, suppressed := x.suppressed, payload := payloadOf c v r.ev.payload }
      stageRecord (setCode s1 c x1) rec1 (primerClass k || exempt k)

/-- An event that the recorder writes at once. -/
def recordNow (s : State) (c subsystem : Nat) (v : Int) (rest : Bytes) : State :=
  recordEvent s (stamp s ⟨c, subsystem, v, rest⟩)

/-- EVENT_REPORTED: the recorder takes the report, with the data it was stamped with; one that no subsystem queued is
stamped now (R426, R430). -/
def execEventReported (e : EventIn) (s : State) : Res :=
  .next (if !s.recorder.started then s
  else match s.recorder.reports.find? (fun r => decide (r.ev = e)) with
    | some r => recordEvent { s with recorder := { s.recorder with reports := dropOne r s.recorder.reports } } r
    | none => recordEvent s (stamp s e))

/-- TOKEN_REFILL (R430). -/
def execTokenRefill (code : Nat) (s : State) : Res :=
  .next (if Tab.has s.recorder.codes code then setCode s code (refill s code (codeStat s code)) else s)

/-! ### Summaries (R432) -/

/-- A record of the recorder about itself. -/
def selfRecord (s : State) (c flags suppressed : Nat) (payload : Bytes) : Record :=
  { seq := 0, time := s.time.now, skim := skimNow s, topo := topoInForce s, code := c, origin := (s.unitNo - 1) % 4 * 64 + 17
    flags := flags + 2 * b2n (s.time.base != .tracking), suppressed := suppressed, payload := payload }

/-- The two summary payloads of a code. -/
def summaryParts (c : Nat) (x : CodeStat) : Bytes × Bytes :=
  let m := !noMeasure c
  let f := fun (k : Nat) (v : Int) => if m then beInt k v else zeros k
  (be 4 x.pCount ++ f 4 x.pMin ++ f 4 x.pMax ++ (if m then x.bins.flatMap (be 2) else zeros 16),
   be 8 x.lCount ++ f 4 x.lMin ++ f 4 x.lMax ++ be 4 x.pSuppressed ++ f 8 x.pMaxTime)

/-- A period's end for a code. -/
def CodeStat.newPeriod (x : CodeStat) : CodeStat :=
  { x with pCount := 0, pSuppressed := 0, pMin := 0, pMax := 0, pMaxTime := 0, bins := List.replicate 8 0 }

/-- The summary group of the period so far. -/
def summaryGroup (s : State) (partial_ primer : Bool) : List Record :=
  let codes := s.recorder.codes.filter (fun p => 0 < p.2.pCount)
  let n := 1 + 2 * codes.length
  let base := b2n primer + 4 * b2n partial_
  let head := selfRecord s 4 base 0 (beInt 4 n ++ be 8 s.recorder.periodStart ++
    be 4 ((if partial_ then rtc s - s.recorder.periodStart else (recCfg s).period) / 1000000000) ++ zeros 12)
  let body := codes.flatMap (fun p =>
    let q := summaryParts p.1 p.2
    [selfRecord s p.1 (base + 16) 0 q.1, selfRecord s p.1 (base + 16 + 32) 0 q.2])
  let all := head :: body
  all.dropLast ++ (all.getLast?.map (fun r => { r with flags := r.flags + 8 })).toList

/-- The group enters staging. -/
def writeSummary (s : State) (partial_ primer : Bool) : State :=
  (summaryGroup s partial_ primer).foldl (fun s r => stageRecord s r true) s

/-- 720 h on the always-on count. -/
def primerSpan : Nat := 2592000000000000

/-- SUMMARY_PERIOD_END (R432). -/
def execSummaryPeriodEnd (s : State) : Res :=
  let p := max 1 (recCfg s).period
  .next (if !s.recorder.started ∨ rtc s < s.recorder.periodStart + p then s
  else
    let primer := decide (s.recorder.lastPrimerSummary + primerSpan ≤ rtc s)
    let s1 := writeSummary s false primer
    { s1 with recorder := { s1.recorder with
        codes := s1.recorder.codes.map (fun q => (q.1, q.2.newPeriod))
        periodStart := rtc s / p * p
        lastPrimerSummary := if primer then rtc s else s1.recorder.lastPrimerSummary } })

/-! ### Flash (R434 to R437) -/

def topcoatCap : Nat := 134217728
def primerCap : Nat := 4194304

/-- The topcoat ring with records appended: the oldest sectors of 8 go when it is full. -/
def ringAppend (l new : List Record) : List Record :=
  let all := l ++ new
  if all.length ≤ topcoatCap then all else all.drop ((all.length - topcoatCap + 7) / 8 * 8)

/-- Every staged record goes to flash. -/
def flushStaging (s : State) : State :=
  let rs := s.recorder.staging.map (·.record)
  let room := primerCap - s.recorder.primer.length
  let ps := rs.filter Record.primer
  let filled := decide (room < ps.length) && !s.recorder.primerFullLogged
  let s1 := reportIf filled s 0x0007 17 0 []
  { s1 with recorder := { s1.recorder with
      staging := [], topcoat := ringAppend s1.recorder.topcoat rs, primer := s1.recorder.primer ++ ps.take room
      primerFullLogged := s1.recorder.primerFullLogged || filled } }

/-- RECORDER_FLUSH: staged records are written (R437). The first write after failures ends `RECORDER_DEGRADED` and
carries its record. -/
def execRecorderFlush (writeOk : Bool) (s : State) : Res :=
  .next (if s.recorder.staging.isEmpty then s
  else if !writeOk then { s with recorder := { s.recorder with
    failedWrites := s.recorder.failedWrites + 1, failingSince := some (s.recorder.failingSince.getD s.clk) } }
  else
    let s1 := if s.recorder.degraded then recordNow s 0x0009 17 s.recorder.failedWrites [] else s
    flushStaging { s1 with recorder := { s1.recorder with degraded := false, failedWrites := 0, failingSince := none } })

/-- RECORDER_DEGRADED: writes have failed for 1 s (R437). -/
def execRecorderDegraded (s : State) : Res :=
  .next (match s.recorder.failingSince with
    | some t => if t + 1000000000 ≤ s.clk then { s with recorder := { s.recorder with degraded := true } } else s
    | none => s)

/-! ### Start and end (R427, R433, R441 to R443) -/

/-- The newest complete summary group of an area, if there is one. -/
def newestGroup (l : List Record) : Option (List Record) :=
  (l.filter (fun r => r.code == 4)).reverse.findSome? (fun r =>
    let g := l.filter (fun x => r.seq ≤ x.seq && x.seq < r.seq + field r.payload 0 4)
    if g.length = field r.payload 0 4 then some g else none)

/-- Lifetime statistics from a summary group. -/
def restoreLife (s : State) (g : List Record) : Tab CodeStat :=
  (g.filter (fun r => bitOf r.flags 4 && bitOf r.flags 5)).foldl (fun t r =>
    Tab.set t r.code { (CodeStat.blank (bucketOf s r.code).1) with
      lCount := field r.payload 0 8, lMin := measureOf r.code (field r.payload 8 4)
      lMax := measureOf r.code (field r.payload 12 4) }) []

/-- The highest sequence in flash. -/
def highestSeq (s : State) : Option Nat :=
  ((s.recorder.topcoat ++ s.recorder.primer).map (·.seq)).foldl (fun (m : Option Nat) k => some (max k (m.getD 0))) none

/-- The recorder starts with the management side and writes `RECORDER_START` (RECORDER_START, R427, R433, R443). -/
def startRecorder (s : State) (source : Nat) : State :=
  let hi := highestSeq s
  let skip := if hi.isNone then 0 else 16384
  let life := match newestGroup s.recorder.topcoat with
    | some g => restoreLife s g
    | none => (newestGroup s.recorder.primer).elim [] (restoreLife s)
  let p := max 1 (recCfg s).period
  let s1 := { s with recorder := { s.recorder with
    nextSeq := match hi with | none => 1 | some h => h + 16384
    staging := [], codes := life, degraded := false, failedWrites := 0, failingSince := none, dropCount := 0
    dropsUnlogged := 0, avgTokens := 16384, avgAt := s.clk, periodStart := rtc s / p * p, powerFail := none
    lastPrimerSummary := if s.recorder.lastPrimerSummary = 0 then rtc s else s.recorder.lastPrimerSummary, started := true } }
  let fw := field (if s.img.fw.running = 0 then s.img.fw.b0.image else s.img.fw.b1.image) 8 4
  recordNow s1 0x0001 17 skip
    (be 4 fw ++ be 1 (b2n s.start.wasParked) ++ be 1 (b2n s.start.alarmRestarted) ++ be 1 source)

/-- Staged records not yet in flash are lost, with everything counted since the last group (R473, R511). -/
def stopRecorder (s : State) : State :=
  { s with recorder := { s.recorder with
      started := false, staging := [], codes := [], reports := [], degraded := false, failedWrites := 0
      failingSince := none, powerFail := none } }

/-- The three steps of R441 at the power-fail warning. -/
def recordPowerFail (s : State) (supply : Nat) : State :=
  let s1 := recordNow s 0x0002 17 supply []
  let s2 := flushStaging (writeSummary s1 true false)
  { s2 with recorder := { s2.recorder with powerFail := some s.clk } }

/-- The supply is back in time (R441). -/
def recordPowerRestored (s : State) : State :=
  match s.recorder.powerFail with
  | none => s
  | some t =>
    recordNow { s with recorder := { s.recorder with powerFail := none } } 0x0003 17 ((s.clk - t) / 1000000 : Nat) []

/-- The recorder closes its records at sleep entry (R442). -/
def recordSleep (s : State) (c : Nat) (holders : Bytes) : State :=
  let s1 := recordNow (recordNow s 0x0A05 2 0 holders) 0x0A06 2 c []
  flushStaging (writeSummary s1 true false)

end Sys2Proof.Machine
end

