-- ==== Sys2Proof/Machine/Tables.lean ====
section
/-! DEFINITION. Images of programs, event tables and channel entries: how they are read and the checks that refuse
them (R161, R277, R319 to R323). -/

namespace Sys2Proof.Machine

/-! ### Programs (R320, R321) -/

/-- The instructions that the profiles other than number k take. -/
def otherCode (profiles : Tab Program) (k : Nat) : Nat :=
  ((profiles.filter (fun p => p.1 != k)).map (fun p => p.2.code.length)).sum

/-- The steps of the due channels' activations in cycle n keep 25 % of C at 1.25 ns a step, two activations each (R320). -/
def profileBudgetAt (s : State) (profiles : Tab Program) (n : Nat) : Bool :=
  let due := s.veh.chans.filter (fun c => chEnabled c.2 && n % max 1 (chPeriod c.2) == chPhase c.2)
  let steps := (due.map (fun c => match Tab.get? profiles (chProfile c.2) with
    | none => 0 | some p => 2 * worstCase true p)).sum
  steps * 5 ≤ cycleLen s

def profileBudgetOk (s : State) (profiles : Tab Program) : Bool :=
  (List.range ((s.veh.chans.filter (fun c => chEnabled c.2)).foldl (fun a c => Nat.lcm a (max 1 (chPeriod c.2))) 1)).all
    (profileBudgetAt s profiles)

/-- The profiles as they are once the staged ones have taken force (R324). -/
def profilesAhead (s : State) : Tab Program :=
  s.fld.stagedProfiles.foldl (fun t p => Tab.set t p.1 p.2) s.fld.profiles

/-- The checks of R321 in order: the first that fails, with the instruction index. `profile` is a profile's number. -/
def programChecks (s : State) (profile : Option Nat) (b : Bytes) : Option (Nat × Nat) :=
  let p := parseProgram b
  if !progImageOk b profile.isSome then some (1, 0)
  else match codeChecks profile.isSome p with
    | some x => some x
    | none =>
      match profile with
      | none => if 0x4000 < p.init.length then some (8, 0) else none
      | some k =>
        if 0x2000 < p.init.length ∨ 4096 < p.code.length + otherCode (profilesAhead s) k ∨
            !profileBudgetOk s (Tab.set (profilesAhead s) k p) then some (8, 0) else none

/-! ### Event tables (R161) -/

/-- An entry of the event table from its 32 bytes. -/
def parseEvent (b : Bytes) : EventEntry :=
  let fl := field b 2 2
  { kind := field b 0 1, action := field b 1 1, enable := bitOf fl 0, repeats := bitOf fl 1, fired := bitOf fl 2
    skipped := bitOf fl 3, target := if field b 0 1 = 1 then (field b 4 8 : Nat) else beSigned (bslice b 4 8), interval := field b 12 8, object := field b 20 4
    value := field b 24 8 }

def EventEntry.bytes (e : EventEntry) : Bytes :=
  be 1 e.kind ++ be 1 e.action ++ be 2 (b2n e.enable + 2 * b2n e.repeats + 4 * b2n e.fired + 8 * b2n e.skipped) ++
    beInt 8 e.target ++ be 8 e.interval ++ be 4 e.object ++ be 8 e.value

/-- An entry uses no reserved code, and repeats with an interval; reserved flags are ignored (R8). An empty entry may have
action 0 (log entry 162). -/
def eventOk (b : Bytes) : Bool :=
  let e := parseEvent b
  e.kind ≤ 4 && e.action ≤ 4 && (e.kind == 0 || 1 ≤ e.action) && !(e.repeats && e.interval == 0)

/-- The entries of an event table image. -/
def eventRows (b : Bytes) : List Bytes := (List.range (b.length / 32)).map (fun i => bslice b (32 * i) 32)

def parseEvents (b : Bytes) : List EventEntry := (eventRows b).map parseEvent

/-- The first entry that an event table's load refuses; an image of another length is refused at index 0. -/
def eventChecks (b : Bytes) : Option Nat :=
  if b.length % 32 ≠ 0 ∨ 16384 < b.length then some 0
  else (((List.range (b.length / 32)).zip (eventRows b)).find? (fun p => !eventOk p.2)).map (·.1)

/-! ### Channel entries (R277) -/

/-- A device channel's entry is accepted: no reserved field, lengths and limits in their ranges, and the reply timeout
below period × C. -/
def channelOk (s : State) (e : Bytes) : Bool :=
  let c := ChanSt.init e
  e.length == 32 && field e 0 1 ≤ 1 && chIface c ≤ 15 && chProfile c ≤ 15 && 1 ≤ chMissLimit c && 1 ≤ chPeriod c &&
    chPeriod c ≤ 1024 && chPhase c < chPeriod c && 1 ≤ field e 16 2 && field e 16 2 ≤ 10000 &&
    decide (chTimeout c < chPeriod c * cycleLen s) && chInLen c ≤ 1432 && chOutLen c ≤ 1432 && 1 ≤ chRecover c &&
    chRecover c ≤ 16 && 1 ≤ chFaultLimit c && field e 28 4 == 0

/-- An enabled channel begins in `RESOLVING`, asking for its address; a disabled one rests (R280). -/
def beginChannel (s : State) (ch : Nat) (e : Bytes) : State :=
  let c := ChanSt.init e
  let s1 := setChan s ch { c with state := if chEnabled c then .resolving else .disabled }
  if chEnabled c && (arpFind s1 (chIface c) (chAddr c)).isNone then startArp s1 (chIface c) (chAddr c) [] else s1

end Sys2Proof.Machine
end

