-- ==== Sys2Proof/Machine/Boot.lean ====
section
/-! DEFINITION. Images and banks, and what starts, stops and resets clear or keep (R27, R473, R484 to R491, R504 to
R511). -/

namespace Sys2Proof.Machine

/-! ### Images and banks (R484, R485, R487) -/

def Banks.bank (b : Banks) (i : Nat) : Bank := if i = 0 then b.b0 else b.b1
def Banks.put (b : Banks) (i : Nat) (x : Bank) : Banks := if i = 0 then { b with b0 := x } else { b with b1 := x }

/-- The banks of a kind, 0x08 firmware or 0x09 configuration. -/
def banksOf (s : State) (kind : Nat) : Banks := if kind = 8 then s.img.fw else s.img.cf
def setBanks (s : State) (kind : Nat) (b : Banks) : State :=
  if kind = 8 then { s with img := { s.img with fw := b } } else { s with img := { s.img with cf := b } }

def imgVersion (b : Bytes) : Nat := field b 8 4
def imgFloor (b : Bytes) : Nat := field b 12 4
def imgMinFw (b : Bytes) : Nat := field b 24 4
def imgKeyId (b : Bytes) : Nat := field b 28 4
def imgBody (b : Bytes) : Bytes := b.drop 256

/-- The key that an image of a kind names, if it is fixed or enrolled. -/
def keyFor (s : State) (kind id : Nat) : Option Bytes :=
  if kind = 8 then (if id ≤ 3 then some (Config.spavialeKey id) else none)
  else match s.img.key with | some (k, n) => if n = id then some k else none | none => none

/-- A configuration bank that is not running and whose key is no longer enrolled is rejected (R485, R491). -/
def rejectLost (s : State) : State :=
  let b := s.img.cf
  let x := b.bank (1 - b.running)
  if (x.state = .loaded ∨ x.state = .active) ∧ (keyFor s 9 (imgKeyId x.image)).isNone then
    setBanks s 9 (b.put (1 - b.running) { x with state := .rejected })
  else s

/-- Checks 0x01 to 0x07 of R487 in order; 0 when all pass. -/
def imageChecks (s : State) (kind : Nat) (b : Bytes) : Nat :=
  let n := field b 16 4
  if field b 0 4 ≠ 0x4358494D ∨ field b 4 1 ≠ kind ∨ field b 5 1 ≠ 1 ∨ n < 1 ∨ 268435200 < n ∨ b.length ≠ 256 + n then 1
  else if field b 6 2 ≠ 0 ∨ field b 22 2 ≠ 0 ∨ field b 128 128 ≠ 0 ∨ imgVersion b < imgFloor b then 2
  else if s.hwIssue < field b 20 1 ∨ field b 21 1 < s.hwIssue then 3
  else if bslice b 32 32 ≠ fit (Config.sha256 (imgBody b)) 32 then 4
  else match keyFor s kind (imgKeyId b) with
    | none => 5
    | some k =>
      if !Config.ed25519 k (b.take 64) (bslice b 64 64) then 6
      else if imgVersion b < (banksOf s kind).floor then 7 else 0

/-- A bank whose image passes the boot ROM's checks; a configuration also needs the firmware that runs (R507). -/
def bankOk (s : State) (kind fw : Nat) (x : Bank) : Bool :=
  (x.state == .loaded || x.state == .active || x.state == .trial) && imageChecks s kind x.image == 0 &&
    (kind == 8 || imgMinFw x.image ≤ fw)

/-- This start counts against a trial: a reset of cause 0 or 3 (R489). -/
def countsTrial (s : State) : Bool :=
  decide (s.start.startSource = 0) || (decide (s.start.startSource = 0xFF) && decide (s.host.resetCause = 3))

/-- The boot ROM's choice of a bank of a kind, with what the recorder is to log (R489, R507; log entry 50). -/
def chooseBank (s : State) (kind fw : Nat) : Banks × List (Nat × Bool) :=
  let b := banksOf s kind
  let i := b.selected
  let x := b.bank i
  let y := b.bank (1 - i)
  let starts := if x.state = .trial ∧ countsTrial s then b.trialStarts + 1 else b.trialStarts
  let failed := decide (x.state = .trial) && decide (2 ≤ starts)
  if bankOk s kind fw x && !failed then
    let fresh := decide (x.state = .loaded)
    ({ (b.put i ⟨if fresh then .trial else x.state, x.image⟩) with
        running := i, usable := true, trialStarts := if fresh then 0 else starts },
      if fresh then [(imgVersion x.image, false)] else [])
  else
    let b1 := b.put i (if x.state = .empty ∨ x.state = .writing then Bank.blank else ⟨.rejected, x.image⟩)
    if (y.state = .loaded ∨ y.state = .active) ∧ b.floor ≤ imgVersion y.image ∧ bankOk s kind fw y then
      ({ (b1.put (1 - i) ⟨.active, y.image⟩) with running := 1 - i, selected := 1 - i, usable := true, trialStarts := 0 },
        [(imgVersion y.image, true)])
    else ({ b1 with usable := false, trialStarts := 0 }, [])

/-- A bank that a transfer was writing holds nothing (R486). -/
def dropWriting (b : Banks) : Banks :=
  let f := fun (x : Bank) => if x.state = .writing then Bank.blank else x
  { b with b0 := f b.b0, b1 := f b.b1 }

/-- The configuration of the running bank: none while the unit is unconfigured (R508). -/
def runningConfig (b : Banks) : Option Cfg :=
  if b.usable then Config.parseConfig (imgBody (b.bank b.running).image) else none

/-- A unit's trial runs. -/
def inTrial (s : State) : Bool :=
  (s.img.fw.bank s.img.fw.running).state == .trial || (s.img.cf.bank s.img.cf.running).state == .trial

/-! ### What a stop of the management side leaves (R27, R473, R511) -/

/-- Presence inputs keep their pins; no window is open. -/
def PresenceSt.closed (p : PresenceSt) : PresenceSt :=
  { p with
    button := { p.button with active := false }, jumper := { p.jumper with active := false }
    sealLoop := { p.sealLoop with active := false }, debugJumper := { p.debugJumper with active := false }
    pressed := none, windowEnd := none, jumperOpen := false, sealOpen := false, debugOpen := false }

/-- The complex is held in reset: `HALTED`, the failed core, the counts and the output faults stay (R506, R511). -/
def holdComplex (s : State) : State :=
  let s1 := dropOutputs s
  let x := s1.safe
  { s1 with safe := { SafeSt.init with
      state := if x.state = .halted then .halted else .scratch
      failed := x.failed, resyncs := x.resyncs, restarts := x.restarts, compFaults := x.compFaults
      scratchFail := x.scratchFail, scratchResult := x.scratchResult, compFaultBit := x.compFaultBit, log := x.log
      hv := x.hv, hvFault := x.hvFault, switched := x.switched, chFault := x.chFault, safeOffFault := x.safeOffFault
      supplyOpen := x.supplyOpen } }

/-- The management side stops, with the complex; the island runs on (R27, R473). A lead's lease lapses, and an election
that the unit runs ends. Transfers end, and a bank that one was writing is empty. -/
def mgmtDown (s : State) : State :=
  let h := if managing s then healthWord s else s.start.health
  let s1 := stopRecorder (holdComplex s)
  let s2 := if s.set.state = .claiming ∨ s.set.state = .census ∨ s.set.state = .committing then enterWaiting s1 else s1
  { s2 with
    host := { HostSt.init with resetCause := s.host.resetCause, resetHeld := s.host.resetHeld, booting := false }
    skim := { SkimSt.init with
      restarted := true
      snapshot := if s.skim.snapshot.state = 2 then s.skim.snapshot else SkimSt.init.snapshot }
    route := Routing.init
    bridge := BridgeSt.init
    veh := { VehSt.init with macBase := s.veh.macBase }
    fld := FieldSt.init
    cmd := CmdSt.init
    mon := MonitorSt.init
    pres := s.pres.closed
    time := { s2.time with
      events := [], ptp := [], tach1 := TimeSt.init.tach1, tach2 := TimeSt.init.tach2, distance := 0, tachSpeed := 0
      tachStatus := 0, posValid := false, odoPos := none, timeStep := 0, posStep := 0 }
    set := { s2.set with lease := false, takeLease := false, claimDue := false, triggers := [] }
    pair := { PairSt.init with
      role := restingRole s, segs := s.pair.segs, ilkIn := s.pair.ilkIn, ownLoop := s.pair.ownLoop, ilkSince := s.pair.ilkSince }
    sleep := { s2.sleep with
      commandHold := none, votes := [], sleepAt := none, partialFrom := none, override := false, holders := [] }
    img := { s2.img with
      fw := dropWriting s2.img.fw, cf := dropWriting s2.img.cf, readyAt := none, votedApplied := false, joinedRun := 0
      resetAt := none }
    start := { s2.start with health := h } }

/-- The node restarts its management side: the boot ROM checks the banks again (R473, R509). -/
def beginReset (s : State) (cause : Nat) : State :=
  let s1 := mgmtDown s
  { s1 with
    host := { s1.host with resetCause := cause, booting := !s1.host.resetHeld && !s1.start.parked }
    img := { s1.img with releasedAt := s.clk }
    start := { s1.start with boot := .powered, startSource := 0xFF } }

/-- The line-keeping island stops: no numbering, cycle, link or train time (R511). Relay sets stay as they are. -/
def islandDown (s : State) : State :=
  { s with
    line := { LineSt.init with
      relayAOpen := s.line.relayAOpen, relayBOpen := s.line.relayBOpen, rateA25 := s.line.rateA25, rateB25 := s.line.rateB25
      ports := Ports.map (Ports.all LPort.init) (fun p q => { q with status := setBit q.status 20 (!relayOpen s p) }) }
    cyc := CycleSt.init
    set := { SetoutSt.init with retained := s.set.retained, cabActive := s.set.cabActive }
    time := TimeSt.init
    pair := { s.pair with segs := s.pair.segs.map (fun _ => PeerSeg.init), records := [] } }

/-- The internal supply has failed: everything volatile is gone, the relay sets close (R36, R511). Flash keeps banks,
key, recorder areas and the last committed table; the always-on backup keeps the alarms and the wake latch (R512,
R519). -/
def powerLost (s : State) : State :=
  let s1 := islandDown (closeRelays (mgmtDown s))
  { s1 with
    cfg := none
    line := { s1.line with rateA25 := true, rateB25 := true }
    safe := { SafeSt.init with hv := s1.safe.hv, hvFault := s1.safe.hvFault }
    host := HostSt.init
    pres := { s1.pres with
      button := { s1.pres.button with fault := false }, jumper := { s1.pres.jumper with fault := false }
      sealLoop := { s1.pres.sealLoop with fault := false }, debugJumper := { s1.pres.debugJumper with fault := false } }
    pair := PairSt.init
    sleep := { SleepSt.init with alarms := s.sleep.alarms, latch := s.sleep.latch, alarmSetAt := s.sleep.alarmSetAt }
    start := { StartSt.init with
      parked := s.start.parked, rtcBase := s.start.rtcBase, rtcSaved := s.start.rtcSaved, supply := s.start.supply
      temp := s.start.temp, overvoltStop := s.start.overvoltStop, overtempStop := s.start.overtempStop } }

/-- The unit number of the pins `UPOS2` to `UPOS0`, 0 for an invalid code (R372). -/
def unitOfCode (upos : BitVec 3) : Nat :=
  match upos.toNat with | 0 => 1 | 5 => 2 | 6 => 3 | 3 => 4 | _ => 0

/-- The power-on reset is released: the pins are read, and the timebase enters `UNSET` from the real-time alarm (R136,
R372, R504). A real-time alarm that lost its backup restarts from its saved count (R512). -/
def powerOn (s : State) (upos : BitVec 3) (alarmLost : Bool) : State :=
  let base : Int := if alarmLost then (s.start.rtcSaved : Int) - s.clk else s.start.rtcBase
  let s1 := { s with
    upos := upos.toNat, unitNo := unitOfCode upos, unplaced := false
    start := { s.start with
      boot := .powered, wasParked := s.start.parked, parked := false, rtcBase := base, alarmRestarted := alarmLost
      startSource := 0 }
    host := HostSt.init
    img := { s.img with releasedAt := s.clk }
    sleep := { s.sleep with power := .awake, source := 0 } }
  { s1 with time := { TimeSt.init with now := (rtc s1 : Nat) } }

/-! ### READY (R222, R504) -/

/-- The tables and programs of the configuration image come into force; each program is logged (R324). -/
def loadTables (s : State) (c : Cfg) : State :=
  let progs := c.field.programs.filter (fun p => p.1 < 16)
  let profs := c.field.programs.filter (fun p => 16 ≤ p.1)
  let s1 := { s with
    route := { s.route with
      table := match checkRouteImage s c.route with | .ok t => some t | .error _ => none
      cache := match checkRouteImage s c.route with | .ok t => cacheOf t | .error _ => [] }
    time := { s.time with events := parseEvents c.events }
    safe := { s.safe with table := if c.equation.isEmpty then none else some c.equation }
    mon := { s.mon with baud := c.node.baud }
    fld := { s.fld with profiles := profs.map (fun p => (p.1 - 16, parseProgram p.2)) }
    veh := { s.veh with ports := c.net.gates.map (fun g => (g.1, { Vport.init with gates := some g.2 })) } }
  let s2 := progs.foldl (fun s p =>
    let prog := parseProgram p.2
    progLog (setSport (setFloat s (portFloat p.1) (startProgram FloatSt.init prog prog.entry)) p.1
      (fun q => { q with port := q.port.setUp true })) 13 prog) s1
  let s2 := profs.foldl (fun s p => progLog s 12 (parseProgram p.2)) s2
  let s3 := if c.net.hostRing = 0 then s2 else setRing s2 2 (newRing c.net.hostRing 0)
  let s3 := setRing s3 serviceRing (newRing 256 (ringBase s3 256))
  c.net.channels.foldl (fun s p => beginChannel s p.1 p.2) s3

/-- An unplaced unit: an invalid code, or a number above the units of its arrangement (R373). -/
def misplaced (s : State) : Bool := decide (s.unitNo = 0) || decide (ownUnits s < s.unitNo)

end Sys2Proof.Machine
end

