-- ==== Sys2Proof/Machine/Sleep.lean ====
section
/-! DEFINITION. Sleep and wake (spec file 15): wake sources and pulses, the wake latch, alarms, sleep entry, false wakes,
masks, line-keeping. -/

namespace Sys2Proof.Machine

def powerCfg (s : State) : PowerCfg := match s.cfg with | none => PowerCfg.none | some c => c.power

/-- A source is masked (R419). -/
def maskedSource (s : State) (src : Nat) : Bool := Tab.has s.sleep.masked src

/-- The wake source of a wake wire, and of a TC10 link: 1 to 4 the train-line ports, 5 and 6 the peer pairs (R407). -/
def wireSource (p : LinePort) : Nat := portNo p + 1
def linkSource (link : Nat) : Nat := link + 4

/-! ### Leaving SLEEP and LINE_KEEPING (R406, R418, R423, R509) -/

/-- The unit leaves `SLEEP`: start-up runs from step 2, the relay sets stay open. -/
def leaveSleep (s : State) (src : Nat) : State :=
  let s1 := { s with
    sleep := { s.sleep with
      power := .awake, source := src, awakeFrom := max 1 s.clk, reasonSeen := false, pastNoReturn := false, announced := 0
      seen := 0, entering := none, latch := none, phySleep := [], tc10 := [] }
    host := { HostSt.init with resetCause := s.host.resetCause }
    img := { s.img with releasedAt := s.clk }
    start := { s.start with boot := .powered, startSource := src }
    time := { TimeSt.init with now := (rtc s : Nat) } }
  report s1 0x0A07 2 src []

/-- The unit leaves `LINE_KEEPING`: its management side starts, the island has run throughout. -/
def leaveLineKeeping (s : State) (src : Nat) : State :=
  report { s with
    sleep := { s.sleep with power := .awake, source := if src = 0 then s.sleep.source else src, lkSince := none }
    host := { s.host with booting := true }
    img := { s.img with releasedAt := s.clk }
    start := { s.start with startSource := src } } 0x0A07 2 src []

/-- The unit is past the point of no return, or enters `SLEEP` now (R415, R416). -/
def pastReturn (s : State) : Bool := s.sleep.pastNoReturn || s.sleep.entering.isSome

/-- WAKE_LATCH_SET: the latch keeps the first request's source, and a train-wide scope once one asked for it. -/
def latchWake (s : State) (src : Nat) (wide : Bool) : State :=
  let l := match s.sleep.latch with
    | none => (wide, src)
    | some (w, k) => (w || wide, k)
  { s with sleep := { s.sleep with latch := some l } }

/-- A wake source has fired. After the point of no return it is latched; before, a train-wide one drives pulses, unless
they were relayed already, and a unit that sleeps or keeps the line wakes. Of a pulse and a TC10 wake-up that qualify
together the lower number is recorded. -/
def requestWake (s : State) (src : Nat) (wide relayed : Bool) : State :=
  if maskedSource s src || decide (s.sleep.power = .off) then s
  else if pastReturn s then latchWake s src wide
  else
    let s1 := if wide && !relayed then drivePulses s none none else s
    match s.sleep.power with
    | .sleep => leaveSleep s1 src
    | .lineKeeping => leaveLineKeeping s1 src
    | _ =>
      if s.sleep.awakeFrom = max 1 s.clk ∧ src < s.sleep.source then
        { s1 with
          sleep := { s1.sleep with source := src }
          start := { s1.start with startSource := src } }
      else s1

/-! ### Wake wires (R408) -/

/-- Wires are sensed in `SLEEP`, and from island ready on (R513). -/
def sensesWires (s : State) : Bool :=
  match s.sleep.power with
  | .off => false
  | .sleep => true
  | _ => s.line.islandAt.isSome

/-- WAKE_PULSE_QUALIFIED: 1 ms of assertion; outside the refractory time it is relayed, and a wake. -/
def execWakePulseQualified (p : LinePort) (s : State) : Res :=
  let s := if sensesWires s && assigned s p then
    { s with sleep := { s.sleep with wires := s.sleep.wires.adj p (fun w => { w with heard := some s.clk }) } } else s
  .next (if !sensesWires s || !assigned s p || s.clk < s.sleep.refractory || (s.sleep.wires.get p).stuck ||
      maskedSource s (wireSource p) then s
  else requestWake (drivePulses s (some p) (some (portNo p + 1))) (wireSource p) true true)

/-- WAKE_PULSE_END: driven for 20 ms. -/
def execWakePulseEnd (s : State) : Res :=
  .next { s with sleep := { s.sleep with wires := s.sleep.wires.map (fun _ w =>
    match w.driven with
    | none => w
    | some t => if t + 20000000 ≤ s.clk then { w with driven := none } else w) } }

/-- REFRACTORY_END. -/
def execRefractoryEnd (s : State) : Res :=
  .next (if s.sleep.refractory ≤ s.clk then { s with sleep := { s.sleep with refractory := 0 } } else s)

/-- WAKE_WIRE_STUCK. -/
def execWakeWireStuck (p : LinePort) (s : State) : Res :=
  .next (if !sensesWires s || !assigned s p || (s.sleep.wires.get p).stuck then s
  else
    let s1 := report s 0x0A01 2 (wireSource p) []
    { s1 with sleep := { s1.sleep with wires := s1.sleep.wires.adj p (fun w => { w with stuck := true }) } })

/-- WAKE_WIRE_RELEASED: deasserted for 1 s. -/
def execWakeWireReleased (p : LinePort) (s : State) : Res :=
  .next { s with sleep := { s.sleep with wires := s.sleep.wires.adj p (fun w => { w with stuck := false, heard := none }) } }

/-! ### TC10 (R407, R410) -/

/-- TC10_WAKE_RECEIVED: at a sleeping PHY. -/
def execTc10WakeReceived (link : Nat) (s : State) : Res :=
  .next (if s.sleep.power ≠ .sleep ∨ !s.sleep.phySleep.contains link ∨ maskedSource s (linkSource link) then
    (if s.sleep.power = .awake ∧ s.sleep.awakeFrom = max 1 s.clk ∧ 1 ≤ link ∧ link ≤ 6 then requestWake s (linkSource link) true true
     else s)
  else
    let s1 := if s.clk < s.sleep.refractory then s else drivePulses s none (some link)
    requestWake s1 (linkSource link) true true)

/-- TC10_SLEEP_TIMEOUT: 10 ms after the request. -/
def execTc10SleepTimeout (link : Nat) (s : State) : Res :=
  .next (match Tab.get? s.sleep.tc10 link with
    | none => s
    | some t =>
      if s.clk < t + 10000000 then s
      else { s with sleep := { s.sleep with tc10 := Tab.erase s.sleep.tc10 link, phySleep := s.sleep.phySleep ++ [link] } })

/-! ### Wake inputs and alarms (R407, R411, R421) -/

/-- WAKE_INPUT_ACTIVE: a configured wake input; a masked or stuck one wakes nothing and sets no reason. -/
def execWakeInputActive (input : Nat) (s : State) : Res :=
  .next (match Tab.get? (powerCfg s).wakeInputs input with
    | none => s
    | some (_, wide) =>
      if s.sleep.power = .off ∨ Tab.has s.sleep.inputSince input then s
      else
        let s1 := { s with sleep := { s.sleep with
          inputSince := Tab.set s.sleep.inputSince input s.clk, inputOffSince := Tab.erase s.sleep.inputOffSince input
          reasonSeen := s.sleep.reasonSeen || !maskedSource s (10 + input) } }
        if s.sleep.inputStuck.contains input then s1 else requestWake s1 (10 + input) wide false)

/-- WAKE_INPUT_STUCK: active for longer than the unit's maximum awake time. -/
def execWakeInputStuck (input : Nat) (s : State) : Res :=
  .next (match Tab.get? s.sleep.inputSince input with
    | none => s
    | some t =>
      if s.sleep.inputStuck.contains input ∨ s.clk ≤ t + (powerCfg s).maxAwake * 60000000000 then s
      else report { s with sleep := { s.sleep with inputStuck := s.sleep.inputStuck ++ [input] } } 0x0A04 2 input [])

/-- WAKE_INPUT_UNSTUCK: inactive for 10 s, as sampled or as the always-on comparators show. -/
def execWakeInputUnstuck (input : Nat) (s : State) : Res :=
  let quiet : Bool := match Tab.get? s.sleep.inputOffSince input with
    | none => decide (s.sleep.power ≠ .awake)
    | some t => decide (t + 10000000000 ≤ s.clk)
  .next (if quiet then { s with sleep := { s.sleep with
      inputStuck := s.sleep.inputStuck.filter (· != input), inputSince := Tab.erase s.sleep.inputSince input } }
  else s)

/-- A day on the real-time alarm's count. -/
def dayNs : Nat := 86400000000000

/-- ALARM_FIRE: the entry's hold begins, a repeating entry moves on by 24 h, and the unit wakes with its scope. A masked
alarm does neither. -/
def execAlarmFire (index : Nat) (s : State) : Res :=
  .next (match Tab.get? s.sleep.alarms index with
    | none => s
    | some a =>
      if s.sleep.power = .off ∨ rtc s < a.time then s
      else
        let left := if a.repeats then Tab.set s.sleep.alarms index { a with time := a.time + dayNs }
          else Tab.erase s.sleep.alarms index
        let s1 := { s with sleep := { s.sleep with alarms := left } }
        if maskedSource s 15 then s1
        else requestWake { s1 with sleep := { s1.sleep with
          alarmHold := Tab.set s1.sleep.alarmHold index (s.clk + a.hold * 1000000), reasonSeen := true } } 15 a.trainWide false)

/-- ALARM_HOLD_END. -/
def execAlarmHoldEnd (index : Nat) (s : State) : Res :=
  .next (match Tab.get? s.sleep.alarmHold index with
    | none => s
    | some t => if t ≤ s.clk then { s with sleep := { s.sleep with alarmHold := Tab.erase s.sleep.alarmHold index } } else s)

/-- COMMAND_HOLD_END. -/
def execCommandHoldEnd (s : State) : Res :=
  .next (match s.sleep.commandHold with
    | none => s
    | some t => if t ≤ s.clk then { s with sleep := { s.sleep with commandHold := none } } else s)

/-- The real-time alarm is set from train time (R411). -/
def setRtc (s : State) : State :=
  { s with
    start := { s.start with rtcBase := s.time.now - s.clk }
    sleep := { s.sleep with alarmSetAt := s.clk } }

/-- RTC_SET: once per second while `TRACKING`. -/
def execRtcSet (s : State) : Res :=
  .next (if s.time.base = .tracking ∧ s.sleep.alarmSetAt + 1000000000 ≤ s.clk then setRtc s else s)

/-! ### Sleep entry (R415 to R417, R442) -/

/-- POINT_OF_NO_RETURN: Ts(s − 3) on the unit's own time, with no cycle-start of that cycle delivered. -/
def execPointOfNoReturn (s : State) : Res :=
  let k := cycDiff s.sleep.announced (gridN s)
  .next (if s.sleep.announced ≠ 0 ∧ s.cyc.running ∧ 1 ≤ k ∧ k ≤ 3 then
    { s with sleep := { s.sleep with pastNoReturn := true } } else s)

/-- The three largest counters of R422 as the payload of `AWAKE_HOLDERS`: slot, unit, bit and counter. Keys are
slot × 1,024 + unit × 16 + bit. -/
def holdersPayload (s : State) : Bytes :=
  let pick := fun (l : List (Nat × Nat)) => l.foldl (fun (m : Option (Nat × Nat)) p =>
    match m with | none => some p | some q => if q.2 < p.2 then some p else m) none
  let step := fun (acc : List (Nat × Nat) × Bytes) (_ : Nat) =>
    match pick acc.1 with
    | none => (acc.1, acc.2 ++ zeros 7)
    | some p => (acc.1.filter (fun q => q.1 != p.1),
        acc.2 ++ be 1 (p.1 / 1024) ++ be 1 (p.1 / 16 % 64) ++ be 1 (p.1 % 16) ++ be 4 p.2)
  ((List.range 3).foldl step (s.sleep.holders, [])).2

/-- The TC10 links on which a sleep request goes out. -/
def sleepLinks (s : State) : List Nat :=
  (allPorts.filter (fun p => assigned s p && linkUp s p && !(s.line.ports.get p).status.getLsbD 17)).map
    (fun p => portNo p + 1) ++ (if (otherUnits s).isEmpty then [] else [5, 6])

/-- The recorder closes with the sleep of cycle `c`; a running snapshot is abandoned first. -/
def closeForSleep (s : State) (c : Nat) : State :=
  if managing s then
    recordSleep (if s.skim.snapshot.state = 1 then recordNow s 0x0406 9 0 [] else s) c (holdersPayload s)
  else s

/-- The management side stops for sleep; the real-time clock keeps the train time of a `TRACKING` timebase. -/
def stopForSleep (s : State) (c : Nat) : State :=
  let s1 := mgmtDown (closeForSleep (dropOutputs s) c)
  if s.time.base = .tracking then setRtc s1 else s1

/-- Steps 1 to 4 of R417: outputs and networks stop, the recorder closes, a running snapshot is abandoned, the real-time
alarm is set and saved, TC10 sleep requests go out. `c` is the sleep cycle. -/
def enterSleep (s : State) (c : Nat) : State :=
  let links := sleepLinks s
  let s5 := emit (stopForSleep s c) (links.map Out.tc10Sleep)
  { s5 with
    cyc := { s5.cyc with running := false, joined := false }
    start := { s5.start with rtcSaved := rtc s5 }
    sleep := { s5.sleep with
      entering := some s.clk, pastNoReturn := true, sleepAt := none, tc10 := links.map (fun k => (k, s.clk)), phySleep := [] } }

/-- SLEEP_ENTRY: Ts(s) at a unit that delivered one of the last three cycle-starts, each carrying s. -/
def execSleepEntry (s : State) : Res :=
  let c := nextGrid s
  .next (if s.cyc.running ∧ sleepsAt s c ∧ nextTs s ≤ s.time.now ∧ s.sleep.entering.isNone ∧ s.sleep.power ≠ .off ∧ s.sleep.power ≠ .sleep then
    enterSleep s c else s)

/-- The wake latch acts: a train-wide request drives pulses, and the unit wakes (R416, R519). -/
def actOnLatch (s : State) : State :=
  match s.sleep.latch with
  | none => s
  | some (wide, src) =>
    let s1 := if wide then drivePulses s none none else s
    { (leaveSleep s1 src) with sleep := { (leaveSleep s1 src).sleep with latchedWake := true } }

/-- SLEEP_ENTRY_COMPLETE: everything but the always-on domain powers down, the relay sets held open; a set latch acts. -/
def execSleepEntryComplete (s : State) : Res :=
  .next (if s.sleep.entering.isNone then s
  else
    let s1 := islandDown s
    actOnLatch { s1 with
      start := { s1.start with boot := .powered }
      sleep := { s1.sleep with
        power := .sleep, entering := none, pastNoReturn := false, announced := 0, seen := 0
        phySleep := s1.sleep.phySleep ++ s1.sleep.tc10.map (·.1), tc10 := [] } })

/-! ### False wakes and masks (R418, R419) -/

/-- WAKE_SOURCE_MASKED: the eighth false wake of a source within 3,600 s. Power-on is never masked. -/
def countFalseWake (s : State) : State :=
  let src := s.sleep.source
  let l := (Tab.getD s.sleep.falseAt src []).filter (fun t => s.clk < t + 3600000000000) ++ [s.clk]
  let mask := decide (8 ≤ l.length) && decide (src ≠ 0)
  let s1 := { s with sleep := { s.sleep with
    falseWakes := satAdd 255 s.sleep.falseWakes 1
    falseAt := Tab.set s.sleep.falseAt src (if mask then [] else l)
    masked := if mask then Tab.set s.sleep.masked src (s.clk + 3600000000000) else s.sleep.masked } }
  if !mask then s1 else if managing s1 then recordNow s1 0x0A02 2 src [] else report s1 0x0A02 2 src []

/-- FALSE_WAKE: 5 s after leaving `SLEEP` no reason but `MIN_AWAKE` was seen, here or in a delivered supervision frame.
The unit returns to `SLEEP` without an announcement. -/
def execFalseWake (s : State) : Res :=
  .next (if s.sleep.power ≠ .awake ∨ s.sleep.awakeFrom = 0 ∨ s.clk < s.sleep.awakeFrom + 5000000000 ∨ s.sleep.reasonSeen ∨ reasonBitmap s / 64 * 64 + reasonBitmap s % 32 ≠ 0 ∨
      s.sleep.entering.isSome then s
  else enterSleep (countFalseWake s) (gridN s))

/-- WAKE_SOURCE_UNMASKED. -/
def execWakeSourceUnmasked (source : Nat) (s : State) : Res :=
  .next (match Tab.get? s.sleep.masked source with
    | none => s
    | some t =>
      if s.clk < t then s
      else report { s with sleep := { s.sleep with masked := Tab.erase s.sleep.masked source } } 0x0A03 2 source [])

/-! ### LINE_KEEPING (R423) and MAX_AWAKE (R424) -/

/-- LINE_KEEPING_ENTRY: every unit of the vehicle has voted ready throughout `LK_DELAY`. -/
def execLineKeepingEntry (s : State) : Res :=
  let p := powerCfg s
  let due : Bool := match s.sleep.lkSince with | none => false | some t => decide (t + p.lkDelay * 1000000000 ≤ s.clk)
  .next (if s.sleep.power = .awake ∧ managing s ∧ p.lkAllowed ∧ !s.set.lease ∧ inCycle s ∧ s.sleep.announced = 0 ∧ due then
    let s1 := mgmtDown s
    { s1 with
      start := { s1.start with boot := .island }
      sleep := { s1.sleep with power := .lineKeeping } }
  else s)

/-- LINE_KEEPING_EXIT: a local wake source, a pulse, a lapsed lease, or another unit of the vehicle that has left (which
clears `lkSince`). -/
def execLineKeepingExit (source : Nat) (s : State) : Res :=
  let wakes := (1 ≤ source && source ≤ 4 || 11 ≤ source && source ≤ 16) && !maskedSource s source
  .next (if s.sleep.power ≠ .lineKeeping then s
  else if wakes then requestWake s source (decide (source ≤ 4) || decide (source = 16)) true
  else if s.set.state ≠ .committed ∨ s.sleep.lkSince.isNone then leaveLineKeeping s 0
  else s)

/-- MAX_AWAKE_EXPIRY: the lead's awake timer has run out in partial running. -/
def execMaxAwakeExpiry (s : State) : Res :=
  .next (match s.sleep.partialFrom with
    | none => s
    | some t =>
      if s.set.lease ∧ t + (powerCfg s).maxAwake * 60000000000 ≤ s.clk then
        { s with sleep := { s.sleep with override := true } } else s)

/-! ### `WAKE_STATUS` (R420) -/

def wakeStatus (s : State) : Nat :=
  s.sleep.source + 32 * b2n (s.sleep.power == .lineKeeping) + 128 * b2n s.sleep.latchedWake +
    ((List.range 16).map (fun k => 2 ^ (8 + k) * b2n (maskedSource s (k + 1)))).sum + 2 ^ 24 * s.sleep.falseWakes

end Sys2Proof.Machine
end

