-- ==== Sys2Proof/Machine/Text.lean ====
section
/-! DEFINITION. Presence authority, and the text that port M prints (R4, R477, R494 to R497; log entries 60, 61). -/

namespace Sys2Proof.Machine

/-- The classes of presence authority: 0 observe, 1 operate, 2 maintain, 3 commission, 4 debug. The unit's is the highest
among its open windows, 0 with none (R476, R477). -/
def presenceClass (p : PresenceSt) : Nat :=
  if p.debugOpen then 4 else if p.sealOpen then 3 else if p.jumperOpen || p.windowEnd.isSome then 2 else 0

/-- The presence inputs whose windows are open and grant maintain or higher: 0 button, 1 MAINT jumper, 2 SEAL loop,
3 DEBUG jumper. -/
def openWindows (p : PresenceSt) : List Nat :=
  (if p.windowEnd.isSome then [0] else []) ++ (if p.jumperOpen then [1] else []) ++ (if p.sealOpen then [2] else []) ++
    (if p.debugOpen then [3] else [])

/-! ### Numbers (R4) -/

def hexDigit (n : Nat) : Char := (['0', '1', '2', '3', '4', '5', '6', '7', '8', '9', 'A', 'B', 'C', 'D', 'E', 'F'].getD (n % 16) '0')

/-- `k` hexadecimal digits. -/
def hexDigits : Nat → Nat → List Char
  | 0, _ => []
  | k + 1, v => hexDigit (v / 16 ^ k) :: hexDigits k v

/-- Characters in groups of `g` counted from the right, with a separator. -/
def grouped (g : Nat) (sep : Char) (l : List Char) : List Char :=
  ((List.range l.length).zip l).flatMap (fun p =>
    if p.1 ≠ 0 ∧ (l.length - p.1) % g = 0 then [sep, p.2] else [p.2])

def hexText (k v : Nat) : String := "0x" ++ String.ofList (grouped 4 '_' (hexDigits k v))
def hex32 (v : Nat) : String := hexText 8 v
def hexBytes (b : Bytes) : String := String.ofList (b.flatMap (fun x => hexDigits 2 x.toNat))

def decText (v : Nat) : String := String.ofList (grouped 3 ',' (toString v).toList)
def intText (v : Int) : String := if v < 0 then "-" ++ decText v.natAbs else decText v.natAbs

/-! ### Lines -/

/-- A line as port M sends it. -/
def lineBytes (t : String) : Bytes := text t ++ [0x0D, 0x0A]

def printLine (s : State) (t : String) : State := emit s [.monitor (lineBytes t)]

/-- The prompt with the suffix of the unit's presence authority (R497). -/
def promptText (s : State) : String :=
  let suffix := match presenceClass s.pres with
    | 4 => "/d" | 3 => "/c" | 2 => "/m" | _ => ""
  "cx860:" ++ toString s.unitNo ++ suffix ++ "> "

def sendPrompt (s : State) : State := emit s [.monitor (text (promptText s))]

/-- MONITOR_BANNER (R494): part number, unit number and running firmware version, then the prompt. -/
def sendBanner (s : State) : State :=
  sendPrompt (printLine s ("CX-860 unit " ++ toString s.unitNo ++ " firmware " ++ hex32 (bankVersion s.img.fw)))

end Sys2Proof.Machine
end

