-- ==== Sys2Proof/Machine/Presence.lean ====
section
/-! DEFINITION. The presence inputs and their windows (R476 to R482). -/

namespace Sys2Proof.Machine

/-- The class that an input grants, by its number (R476). -/
def inputClass (input : Nat) : Nat := match input with | 2 => 3 | 3 => 4 | _ => 2

/-- `PRESENCE_WINDOW`: 0 open, 1 close, 2 fault (R481). -/
def logWindow (s : State) (input what : Nat) : State :=
  report s 0x0B02 20 (inputClass input : Nat) (be 1 what ++ be 1 input)

/-- `SEAL_CHANGE`: the qualified seal state changed, 1 for open. -/
def logSeal (s : State) (isOpen : Bool) : State := report s 0x0B01 20 (b2n isOpen : Nat) []

/-- A force lapses once none of its windows is open (R191, R482). -/
def lapseForces (s : State) : State :=
  let w := openWindows s.pres
  let gone := s.skim.forces.filter (fun f => !f.windows.any w.contains)
  let s1 := reportIf (!gone.isEmpty) s 0x0905 8 (gone.length : Nat) []
  { s1 with skim := { s1.skim with forces := s1.skim.forces.filter (fun f => f.windows.any w.contains) } }

/-- A transfer is discarded when its owner's presence no longer grants its class or the SEAL loop is closed, with a bank that it was writing; its
next chunk or finish is refused (R453, R457). -/
def lapseTransfers (s : State) : State :=
  let ends := fun (t : Transfer) => !s.pres.sealOpen || decide (presenceClass s.pres < t.cls)
  let gone := s.cmd.transfers.filter ends
  let img := fun (kind : Nat) (b : Banks) => if gone.any (fun t => t.kind == kind) then dropWriting b else b
  { s with
    cmd := { s.cmd with
      transfers := s.cmd.transfers.filter (fun t => !ends t)
      lapsed := s.cmd.lapsed ++ gone.map (fun t => (t.kind, t.target, t.owner)) }
    img := { s.img with fw := img 8 s.img.fw, cf := img 9 s.img.cf } }

/-- What the closing of a window ends. -/
def afterClose (s : State) : State := lapseTransfers (lapseForces s)

/-- Leaving split mode for a cause other than the leave opcode (R352, R503). -/
def dropSplit (s : State) : State :=
  if s.safe.state = .split ∨ s.safe.split.isSome then
    let was := decide (s.safe.state = .split)
    let s1 := if was then startScratch s else { s with safe := { s.safe with split := none } }
    if was && !s.mon.packetMode then sendPrompt (printLine s1 "split ended") else s1
  else s

/-! ### The MAINT button -/

/-- MAINT_BUTTON_PRESS: held for 20 ms; a wake source (R407, R479). A faulted button is none. -/
def execMaintButtonPress (s : State) : Res :=
  .next (if s.sleep.power = .off ∨ s.pres.button.fault ∨ s.pres.pressed.isSome then s
  else requestWake { s with pres := { s.pres with
    button := { s.pres.button with raw := true, active := true }, pressed := some s.clk } } 16 true false)

/-- MAINT_BUTTON_RELEASE: qualifying after a press of 0.2 s to 10 s; a longer one is logged. -/
def execMaintButtonRelease (heldMs : Nat) (s : State) : Res :=
  let was := s.pres.pressed.isSome
  let s1 := { s with pres := { s.pres with button := { s.pres.button with raw := false, active := false }, pressed := none } }
  .next (if !managing s || s.pres.button.fault || !was then s1
  else if 10000 < heldMs then report s1 0x0B03 20 heldMs []
  else if heldMs < 200 then s1
  else
    let s2 := if s.pres.windowEnd.isSome then s1 else logWindow s1 0 0
    { s2 with pres := { s2.pres with windowEnd := some (s.clk + 120000000000) } })

/-- MAINT_WINDOW_CLOSE: 120 s after the latest qualifying release. -/
def execMaintWindowClose (s : State) : Res :=
  .next (match s.pres.windowEnd with
    | none => s
    | some t =>
      if s.clk < t then s
      else afterClose (logWindow { s with pres := { s.pres with windowEnd := none } } 0 1))

/-! ### Jumpers and seal -/

/-- MAINT_JUMPER_FITTED: stable for 1 s. -/
def execMaintJumperFitted (s : State) : Res :=
  .next (if !managing s || s.pres.jumper.fault || s.pres.jumperOpen then s
  else logWindow { s with pres := { s.pres with
    jumper := ⟨true, true, false⟩, jumperOpen := true } } 1 0)

/-- MAINT_JUMPER_REMOVED: stable for 100 ms. -/
def execMaintJumperRemoved (s : State) : Res :=
  let s1 := { s with pres := { s.pres with jumper := { s.pres.jumper with raw := false, active := false }, jumperOpen := false } }
  .next (if s.pres.jumperOpen then afterClose (logWindow s1 1 1) else s1)

/-- PRESENCE_RAW_CHANGE: the raw SEAL loop or DEBUG jumper changes; opening or fitting opens `SAFE_OFF` at once, and a
loop that closes before it was qualified open ends its hold (R365, R368, R479). -/
def execPresenceRawChange (sealOpen debugFitted : Bool) (s : State) : Res :=
  .next (if s.sleep.power = .off then s
  else
    let opens := (sealOpen && !s.pres.sealLoop.raw) || (debugFitted && !s.pres.debugJumper.raw)
    let ends := (!sealOpen && s.pres.sealLoop.raw && !s.pres.sealLoop.active) ||
      (!debugFitted && s.pres.debugJumper.raw && !s.pres.debugJumper.active)
    let s1 := { s with pres := { s.pres with
      sealLoop := { s.pres.sealLoop with raw := sealOpen }, debugJumper := { s.pres.debugJumper with raw := debugFitted } } }
    let s2 := if opens then dropOutputs s1 else s1
    if ends then endCondition s2 else s2)

/-- SEAL_OPENED: qualified open for 1 s; a faulted loop grants no commission. -/
def execSealOpened (s : State) : Res :=
  .next (if !managing s || s.pres.sealLoop.fault || s.pres.sealOpen then s
  else
    let s1 := dropOutputs { s with pres := { s.pres with sealLoop := ⟨true, true, false⟩, sealOpen := true } }
    logWindow (logSeal s1 true) 2 0)

/-- SEAL_CLOSED: qualified closed for 1 s; the outputs wait for a fully voted cycle (R368). -/
def execSealClosed (s : State) : Res :=
  let s1 := { s with pres := { s.pres with sealLoop := { s.pres.sealLoop with raw := false, active := false }, sealOpen := false } }
  let s2 := if s.pres.sealLoop.active || s.pres.sealLoop.raw then endCondition s1 else s1
  .next (if s.pres.sealOpen then afterClose (logWindow (logSeal s2 false) 2 1) else s2)

/-- DEBUG_JUMPER_FITTED: stable for 1 s. -/
def execDebugJumperFitted (s : State) : Res :=
  .next (if !managing s || s.pres.debugJumper.fault || s.pres.debugOpen then s
  else logWindow (dropOutputs { s with pres := { s.pres with debugJumper := ⟨true, true, false⟩, debugOpen := true } }) 3 0)

/-- DEBUG_JUMPER_REMOVED: stable for 100 ms; ends split mode (R352). -/
def execDebugJumperRemoved (s : State) : Res :=
  let s1 := { s with pres := { s.pres with debugJumper := { s.pres.debugJumper with raw := false, active := false }, debugOpen := false } }
  let s2 := if s.pres.debugJumper.active || s.pres.debugJumper.raw then endCondition s1 else s1
  .next (if s.pres.debugOpen then dropSplit (afterClose (logWindow s2 3 1)) else s2)

/-! ### Faults (R480) -/

/-- PRESENCE_INPUT_FAULT: more than 4 raw changes within 10 s. The input's window closes; a faulted SEAL loop or DEBUG
jumper keeps the outputs held. -/
def execPresenceInputFault (input : Nat) (s : State) : Res :=
  let p := s.pres
  .next (if !managing s || 3 < input then s
  else match input with
    | 0 => if p.button.fault then s else
        let s1 := logWindow { s with pres := { p with button := ⟨p.button.raw, false, true⟩, pressed := none, windowEnd := none } } 0 2
        if p.windowEnd.isSome then afterClose s1 else s1
    | 1 => if p.jumper.fault then s else
        let s1 := logWindow { s with pres := { p with jumper := ⟨p.jumper.raw, false, true⟩, jumperOpen := false } } 1 2
        if p.jumperOpen then afterClose s1 else s1
    | 2 => if p.sealLoop.fault then s else
        let s1 := dropOutputs (logWindow { s with pres := { p with sealLoop := ⟨p.sealLoop.raw, false, true⟩, sealOpen := false } } 2 2)
        if p.sealOpen then afterClose s1 else s1
    | _ => if p.debugJumper.fault then s else
        let s1 := dropOutputs (logWindow { s with pres := { p with debugJumper := ⟨p.debugJumper.raw, false, true⟩, debugOpen := false } } 3 2)
        if p.debugOpen then dropSplit (afterClose s1) else s1)

/-- PRESENCE_FAULT_LIFT: 10 s without a change; the input qualifies afresh from its current state. -/
def execPresenceFaultLift (input : Nat) (s : State) : Res :=
  let p := s.pres
  .next (match input with
    | 0 => { s with pres := { p with button := { p.button with fault := false } } }
    | 1 => { s with pres := { p with jumper := { p.jumper with fault := false } } }
    | 2 => if !p.sealLoop.fault then s else
        let s1 := { s with pres := { p with sealLoop := { p.sealLoop with fault := false } } }
        if p.sealLoop.raw then s1 else endCondition s1
    | 3 => if !p.debugJumper.fault then s else
        let s1 := { s with pres := { p with debugJumper := { p.debugJumper with fault := false } } }
        if p.debugJumper.raw then s1 else endCondition s1
    | _ => s)

end Sys2Proof.Machine
end

