-- ==== Sys2Proof/Machine/Renumber.lean ====
section
/-! DEFINITION. In-service renumbering at the lead: the numbering that its triggers and an absorbed train lead to, its
issue and repeats (R118 to R131). -/

namespace Sys2Proof.Machine

/-! ### Triggers (R121 to R126) -/

/-- The UUID at a position of the numbering in force. -/
def uuidAt (t : Numbering) (pos : Nat) : Option Nat := (t.entries.find? (fun e => e.pos == pos)).map (·.uuid)

/-- The entries with one absent vehicle fewer: the one that has been absent longest (R123). -/
def dropLongest (order : List Nat) (es : List Entry) : Option (List Entry) :=
  match order.find? (fun u => es.any (fun e => e.uuid == u && e.absent)) with
  | some u => some (es.filter (fun e => e.uuid != u))
  | none => (es.find? (·.absent)).map (fun x => es.filter (fun e => e.uuid != x.uuid))

/-- A vehicle joins behind its reporter, or its absent flag clears (R123). Answers the entries, and whether the train
was full. -/
def joinVehicle (order : List Nat) (es : List Entry) (reporter uuid key : Nat) (orient : Bool) (code : Nat) :
    List Entry × Bool :=
  if es.any (fun e => e.uuid == uuid) then
    (es.map (fun e => if e.uuid = uuid then { e with absent := false } else e), false)
  else
    let es' := if es.length < 64 then some es else dropLongest order es
    match es' with
    | none => (es, true)
    | some l =>
      let (units, arr) := decodeUnits code
      let e : Entry :=
        { uuid := uuid, pos := 0, slot := lowestFree (l.map (·.slot)), orient := orient, absent := false,
          cab := !bitOf key 63, units := units, arr := arr }
      let before := l.takeWhile (fun x => x.uuid != reporter)
      let after := l.dropWhile (fun x => x.uuid != reporter)
      (before ++ after.take 1 ++ [e] ++ after.drop 1, false)

/-- What the triggers make of a numbering: entries in order, line rate, and whether a join was refused. -/
structure Renumbering where
  entries : List Entry
  rate25 : Bool
  forced : Bool
  full : Bool
deriving DecidableEq, Repr

/-- One trigger. Positions are those of the numbering `t` in force. -/
def applyTrigger (order : List Nat) (t : Numbering) (r : Renumbering) : Trigger → Renumbering
  | .absent pos =>
    { r with entries := r.entries.map (fun e => if uuidAt t pos = some e.uuid then { e with absent := true } else e) }
  | .join pos uuid key orient units =>
    match uuidAt t pos with
    | none => r
    | some q =>
      let (es, full) := joinVehicle order r.entries q uuid key orient units
      { r with entries := es, full := r.full || full }
  | .cab pos key =>
    { r with entries := r.entries.map (fun e =>
        if uuidAt t pos = some e.uuid then { e with cab := !bitOf key 63 } else e) }
  | .rateLow => { r with rate25 := false }
  | .command => { r with forced := true }
  | .merge => r

/-- Positions 1 to N in list order. -/
def numbered (es : List Entry) : List Entry :=
  ((List.range es.length).zip es).map (fun (p : Nat × Entry) => { p.2 with pos := p.1 + 1 })

/-- The train reversed: position p becomes N + 1 − p, every orientation bit inverts, slots stay (R124). -/
def reversed (es : List Entry) : List Entry := es.reverse.map (fun e => { e with orient := !e.orient })

/-- The last position is cab-active and the first is not (R124). -/
def cabAtRear (es : List Entry) : Bool :=
  match es.head?, es.getLast? with
  | some a, some b => b.cab && !b.absent && !a.cab
  | _, _ => false

/-- A stack's unit count as its supervision frames show it, this unit's own included (R123). -/
def correctUnits (s : State) (es : List Entry) : List Entry :=
  es.map (fun (e : Entry) =>
    let own := ownPos s * 16 + s.unitNo
    let seen := (s.set.sups.filter (fun p => p.1 / 16 == e.pos && p.1 != own)).length + b2n (e.pos == ownPos s)
    if 3 ≤ e.arr ∧ 3 ≤ seen ∧ e.pos ≠ 0 then { e with units := min 4 seen } else e)

/-! ### Merging (R130, R131) -/

/-- Absent entries beyond the outermost present vehicles go (R130). -/
def trimAbsent (es : List Entry) : List Entry :=
  ((es.dropWhile (·.absent)).reverse.dropWhile (·.absent)).reverse

/-- A port at the boundary of a merge, still closed or opened already (R129, R130). -/
def mergePort (s : State) (p : LinePort) : Bool := isBoundary s p || s.set.merging.get p

/-- The own vehicle is at the boundary. -/
def ownBoundary (s : State) : Bool := allPorts.any (mergePort s)

/-- The partner's vehicle at the own boundary, by its probe. -/
def boundaryPartner (s : State) : Option Nat :=
  (allPorts.find? (mergePort s)).bind (fun p => (s.set.probes.get p).map (fun b => field b 0 16))

/-- An absorbed table with its entries from the boundary outward, as the survivor's boundary unit hands it to its lead; each
entry keeps the position that it has in its own train (R129, R130; log entry 62). -/
def outward (s : State) (t : Numbering) : Numbering :=
  let last := (trimAbsent t.entries).getLast?.map (·.uuid)
  let first := (trimAbsent t.entries).head?.map (·.uuid)
  if (boundaryPartner s).isSome ∧ boundaryPartner s = last ∧ first ≠ last then { t with entries := t.entries.reverse } else t

/-- The absorbed train's position 1 is at the boundary: its entries, which begin there, have rising positions. -/
def firstAtBoundary (es : List Entry) : Bool :=
  match es.head?, es.getLast? with | some a, some b => decide (a.pos ≤ b.pos) | _, _ => true

/-- Absorbed vehicles with their slots: kept where free, else the lowest free in order of merged position (R130). -/
def absorbedSlots (own absorbed : List Entry) : List Entry :=
  let used := own.map (·.slot)
  let keep := own.map (fun e => some e.slot) ++
    absorbed.map (fun e => if used.contains e.slot then none else some e.slot)
  let slots := (assignSlots keep).drop own.length
  ((List.range absorbed.length).zip absorbed).map (fun (p : Nat × Entry) => { p.2 with slot := slots.getD p.1 0 })

/-- Absent entries go until at most 64 are left, those of this train that have been absent longest first. -/
def fit64 (order : List Nat) : Nat → List Entry → List Entry
  | 0, es => es.take 64
  | k + 1, es =>
    if es.length ≤ 64 then es
    else match dropLongest order es with | none => es.take 64 | some l => fit64 order k l

/-- This train's entries as the merge finds them: reversed when the lead's own vehicle is at the boundary, a single
vehicle turned so that its end 1 faces away from the train (R110, R130). -/
def survivorEntries (s : State) (es : List Entry) : List Entry :=
  if !ownBoundary s then es
  else if 1 < es.length then reversed es
  else es.map (fun e => { e with orient := !(mergePort s .a1 || mergePort s .b1) })

/-- The merged order: this train, then the absorbed one in line order, its orientation kept if its position 1 is at the
boundary and inverted otherwise (R130). An absent entry of this train whose vehicle came with the other train stays
(log entry 161). -/
def mergeEntries (s : State) (es : List Entry) (far : Numbering) : List Entry :=
  let l := trimAbsent far.entries
  let l := if firstAtBoundary l then l else l.map (fun e => { e with orient := !e.orient })
  let own := survivorEntries s es
  fit64 s.set.absentOrder 128 (own ++ absorbedSlots own l)

/-- A port at the boundary cannot link at 2.5 Gb/s: an own one, or a unit's health word shows it. -/
def rateLowSeen (s : State) : Bool :=
  allPorts.any (fun p => (s.line.ports.get p).status.getLsbD 19) || s.set.sups.any (fun p => bitOf (field p.2.2 0 4) 6)

/-! ### The new numbering (R113, R118) -/

/-- The counter of an in-service numbering; a merge passes over the absorbed train's counter too (R112). -/
def serviceTopo (n : Nat) (far : Option (Numbering × Nat)) : Nat :=
  match far with
  | some (t, _) => if nextTopo n = t.topo then nextTopo (nextTopo n) else nextTopo n
  | none => nextTopo n

/-- The numbering that the lead would issue in cycle m, and whether a join was refused; none while it has nothing to
change. -/
def newNumbering (s : State) : Option Numbering × Bool :=
  match s.set.numbering with
  | none => (none, false)
  | some t =>
    let r := s.set.triggers.foldl (applyTrigger s.set.absentOrder t) ⟨t.entries, t.rate25, false, false⟩
    let es := correctUnits s r.entries
    let m := s.set.absorbed
    let es := match m with | none => es | some (far, _) => mergeEntries s es far
    let es := if m.isNone ∧ cabAtRear es then reversed es else es
    let rate := r.rate25 && (match m with | none => true | some (far, _) => far.rate25 && !rateLowSeen s)
    let es := numbered es
    if m.isNone ∧ !r.forced ∧ rate = t.rate25 ∧ (s.set.triggers.isEmpty ∨ es = t.entries) then (none, r.full)
    else (some
      { topo := serviceTopo t.topo m, rate25 := rate, split := t.split && m.isNone, headless := !es.any (·.cab),
        merge := m.isSome, commit := nonZeroCycle (cycAdd s.cyc.n 2), entries := es }, r.full)

/-- A lead at the boundary holds the absorbed table itself (R129). -/
def ownFarTable (s : State) : State :=
  match s.set.far with
  | some x =>
    if s.set.survivor ∧ s.set.farTableDue ∧ ownBoundary s ∧ !s.set.refused then
      { s with set := { s.set with absorbed := x.table.map (fun t => (outward s t, x.key)), farTableDue := x.table.isNone } }
    else if s.set.refused ∧ s.set.farTableDue then { s with set := { s.set with farTableDue := false } }
    else s
  | none => s

/-- The numberings that the lead's turn of cycle `n` repeats, each up to and including cycle c + 8 of its own, with the
acknowledgements that have come (R118, R119). -/
def repeating (s : State) (n : Nat) : List (Numbering × List (Nat × Nat)) :=
  let latest := match s.set.issued, s.set.repeatTo with
    | some t, some c => if cycBefore c n then [] else [(t, s.set.acks)]
    | _, _ => []
  s.set.olds.filter (fun x => !cycBefore (cycAdd x.1.commit 8) n) ++ latest

/-- RENUMBERING_ISSUE: the lead repeats each numbering up to cycle c + 8 of its own, and with none pending it sends the next
one, which ends an announced sleep (R118, R415). -/
def issueNumbering (s : State) : State :=
  let s := ownFarTable s
  let again := repeating s s.cyc.n
  let resend := again.foldl (fun s x => sendNumbering s x.1) s
  if s.set.pending.isSome then resend
  else
    let (t?, full) := newNumbering s
    let resend := { resend with set := { resend.set with triggers := [] } }
    match t? with
    | none => reportIf full resend 0x0202 5 0 []
    | some t =>
      let s1 := sendNumbering resend t
      reportIf full { s1 with
        set := { s1.set with
          pending := some t, issued := some t, repeatTo := some (cycAdd t.commit 8), acks := []
          olds := s.set.olds ++ s.set.issued.toList.map (fun o => (o, s.set.acks)), triggers := [], absorbed := none
          mergeClaimDue := s.set.mergeClaimDue && !t.merge }
        sleep := { s1.sleep with sleepAt := none, votes := if s1.sleep.sleepAt.isSome then [] else s1.sleep.votes } } 0x0202 5 0 []

/-- The set-out frames and fallback repeats of the lead's turn in the window of cycle `n`, in wire bytes (R87). -/
def turnBytes (s : State) (n : Nat) : Nat :=
  let bytes := fun (t : Numbering) => frameLength t.bytes.length + 20 + frameLength 12 + 20
  let s := ownFarTable s
  let new := match (newNumbering s).1 with | none => 0 | some t => if s.set.pending.isSome then 0 else bytes t
  ((repeating s n).map (fun x => bytes x.1)).sum + new +
    (s.cyc.repeats.map (fun f => frameLength f.payload.length + 20)).sum

end Sys2Proof.Machine
end

