-- ==== Sys2Proof/Machine/Window.lean ====
section
/-! DEFINITION. The windows of a cycle: the own publication slot, the lead's poll burst and turn, poll replies,
supervision slots, the lead's planning, and the delivery of publications, nulls, polls and supervision frames (R68 to
R96, R175, R179, R362, R379, R389, R394, R413 to R415, R422 to R424). -/

namespace Sys2Proof.Machine

/-! ### Sending for the vehicle -/

/-- The management side runs and the unit is awake. -/
def awake (s : State) : Bool := managing s && decide (s.sleep.power = .awake)

/-- A frame in the vehicle's name: on the lines that the unit carries, and over the peer ring for the other lines of a
vehicle with more units (R22, R92). -/
def sendOwn (s : State) (ftype channel extra : Nat) (payload : Bytes) : State :=
  let f := newFrame s ftype channel extra payload
  let other := ([0, 1] : List Nat).filter (fun l => !(allPorts.any (fun p => assigned s p && lineNo (portLine p) == l)))
  let ring := if (otherUnits s).isEmpty || !onRing s then [] else
    other.map (fun l => Out.peer ringFrameChannel (frameBytes { f with line := l }))
  emit (feed (originate s ftype channel extra payload) f) ring

/-! ### The own publication slot (R77, R78, R175, R361) -/

/-- The own vehicle's publication slot in this cycle. -/
def ownPubSlot (s : State) : Option Slot := (pubSlots s).find? (fun x => x.pos == ownPos s && x.pos != 0)

/-- Another unit of the vehicle composes, by its fresh control record. -/
def peerComposes (s : State) : Bool := (otherUnits s).any (fun u => ((freshRec s u).map PeerRec.composes).getD false)

/-- While its ring is lost another unit fills the own slot on its line: at a standby whose interlock input is asserted, and
at a train-line unit of a split-lines stack whose latest hawk lease is of another unit (R23, R386, R397; log entry 175). -/
def fillsUnheard (s : State) : Bool :=
  (decide (s.pair.role = .standby) && decide (s.pair.ilkIn = 2)) ||
    (isStack s && splitLines s && ringDown s && s.pair.hawkAcked.any (fun x => x.1 != s.unitNo))

/-- The reason of a null frame in the own slot; none while another unit fills the slot (R55, R78, R374): by its control
record, or while the ring is lost (R23). -/
def nullReason (s : State) : Option Nat :=
  if s.sleep.power = .lineKeeping then some 2
  else if !managing s then some (if s.host.booting then 4 else 1)
  else if composing s then some 0
  else if peerComposes s || fillsUnheard s then none
  else some 3

/-- The sample set of the present cycle is latched. -/
def publicationReady (s : State) : Bool := s.skim.samples.any (fun x => x.n == s.cyc.n)

/-- The safety frames of the present cycle's skim; none outside `VOTED`, `RESYNC` and `DUAL` (R361). -/
def safetyFramesNow (s : State) : List Bytes :=
  if safeRuns s then ((s.safe.frames.find? (fun x => x.1 == s.cyc.n)).map (·.2)).getD [] else []

/-- The elements of a publication frame's payload, in a slot. -/
def frameElems (slot : Nat) (f : Frame) : List (Nat × Nat × Val × Quality) :=
  ((pubRecords f).getD []).flatMap (recordElems slot)

/-- The safety frames that fit what the node signals leave of the slot, in order (R77; log entry 177). -/
def fitSafety : Nat → List Bytes → List Bytes
  | _, [] => []
  | k, b :: bs => if frameLength b.length + 20 ≤ k then b :: fitSafety (k - (frameLength b.length + 20)) bs else []

/-- The frames of the own publication: payload and whether it is a safety frame, in index order (R175). In a slot too small
for any of its records there is none (log entry 177). -/
def ownFrames (s : State) (budget : Nat) : List (Bytes × Bool) × Nat :=
  let units := (List.range (ownUnits s)).map (· + 1)
  let safe := fitSafety (budget - nodeWire s s.cyc.n budget units) (safetyFramesNow s)
  let wire := (safe.map (fun b => frameLength b.length + 20)).sum
  let (fs, dropped) := composePublication s s.cyc.n budget units wire safe.length
  let pubs := fs.map (fun f => (pubPayload f, false))
  if fs.all (fun f => f.recs == 0) then ([], dropped)
  else (pubs.take 1 ++ safe.map (fun b => (b, true)) ++ pubs.drop 1, dropped)

/-- One frame of the own publication enters the own slot of the skim being built, and leaves if the unit may originate. -/
def publishFrame (slot last : Nat) (s : State) (k : Nat) (p : Bytes × Bool) : State :=
  let extra := (if k = last then 8 else 0) + (if p.2 then 64 else 0)
  let channel := slot * 256 + k
  let f := newFrame s 2 channel extra p.1
  let s1 := addToBuild s slot k (k == last) (frameElems slot f)
  if mayOriginate s then sendOwn s1 2 channel extra p.1 else s1

/-- The publication of the present cycle. -/
def publish (s : State) (x : Slot) : State :=
  let (fs, dropped) := ownFrames s x.bytes
  let s1 := reportIf (0 < dropped) s 0x0402 8 dropped []
  ((List.range fs.length).zip fs).foldl (fun s (p : Nat × Bytes × Bool) => publishFrame x.slot (fs.length - 1) s p.1 p.2) s1

/-- PUBLICATION_SLOT_START: the publication, or exactly one null frame (NULL_SEND). The composing unit renews its role
watchdog with either (R387). -/
def execPublicationSlotStart (s : State) : Res :=
  .next (match ownPubSlot s with
  | none => s
  | some x =>
    if !s.cyc.running then s
    else if awake s && composing s && publicationReady s && !(ownFrames s x.bytes).1.isEmpty then renewWatchdog (publish s x)
    else match nullReason s with
      | none => s
      | some r =>
        let s1 := if mayOriginate s && (attached s || composing s) then sendOwn s 3 (x.slot * 256) 8 (be 1 r ++ zeros 3) else s
        if awake s && composing s then renewWatchdog s1 else s1)

/-! ### Publications delivered (R173, R179, R362) -/

/-- The slot and the index that a publication's channel names (R55). -/
def pubSlotOf (f : Frame) : Nat := f.channel / 256 % 64
def pubIndexOf (f : Frame) : Nat := f.channel % 256

/-- The first envelope check that a safety frame fails (R362). A unit without an equation table has no domain of its own,
and check 3 passes (log entry 78). -/
def envelopeFault (s : State) (f : Frame) : Option Nat :=
  let b := f.payload
  let o := b.length - 16
  let src := field b o 4
  let uuid := (slotEntry s (src / 67108864)).map (·.uuid)
  let code := uuid.map (fun u => crc32c (b.take (o + 12) ++ be 16 u))
  if code ≠ some (field b (o + 12) 4) then some 1
  else if (slotEntry s (src / 67108864)).map (·.pos) ≠ some f.srcPos ∨ src / 67108864 ≠ pubSlotOf f ∨
      src / 16777216 % 4 + 1 ≠ f.srcUnit ∨ src / 65536 % 256 ≠ pubIndexOf f then some 2
  else if s.safe.table.any (fun t => eqDomain t != src % 65536) then some 3
  else if field b (o + 4) 4 ≠ f.cycle ∨ f.cycle ≠ s.cyc.n then some 4
  else if field b (o + 8) 4 ≠ topoFor s f.cycle then some 5
  else none

/-- A signal that the receiver's dictionary defines as `SAFETY`. -/
def isSafetySignal (s : State) (id : Nat) : Bool :=
  match defOf s id with | none => false | some d => decide (d.cls = .safety)

/-- PUBLICATION_DELIVERED: its records enter the slot of the skim being built. A safety frame that fails its envelope is
not delivered, and the other line's copy still may be; `SAFETY` elements outside a safety frame are not applied. -/
def execPublicationDelivered (p : LinePort) (f : Frame) (s : State) : Res :=
  .next (deliver s p f (fun s =>
    let slot := pubSlotOf f
    let bound := (slotEntry s slot).any (fun e => e.pos == f.srcPos && !e.absent)
    if f.ftype ≠ 2 ∨ !bound ∨ f.cycle ≠ s.cyc.n then s
    else match (if isSafety f then envelopeFault s f else none) with
      | some k =>
        let s1 := report (markPort s p 5 (fun q => { q with drops := count32 q.drops })) 0x0804 15 k []
        { s1 with line := { s1.line with dups := s1.line.dups.filter (fun x => !sameKey x (dupKey s f)) } }
      | none =>
        let es := frameElems slot f
        let stray := !isSafety f && es.any (fun e => isSafetySignal s e.1)
        let es := if stray then es.filter (fun e => !isSafetySignal s e.1) else es
        let s1 := reportIf stray (hearFrom s f.srcPos) 0x0804 15 0 []
        let s2 := { s1 with sleep := { s1.sleep with lineKeepers := s1.sleep.lineKeepers.filter (· != f.srcPos) } }
        addToBuild s2 slot (pubIndexOf f) (isLast f) es))

/-- NULL_DELIVERED: the slot is not complete. A null of reason 0x02 shows a unit in line-keeping (R423). -/
def execNullDelivered (p : LinePort) (f : Frame) (s : State) : Res :=
  .next (deliver s p f (fun s =>
    let slot := pubSlotOf f
    let bound := (slotEntry s slot).any (fun e => e.pos == f.srcPos && !e.absent)
    if f.ftype ≠ 3 ∨ !bound ∨ f.cycle ≠ s.cyc.n then s
    else
      let s1 := putBuild (hearFrom s f.srcPos) { slotBuild s slot with null := true }
      let others := s.sleep.lineKeepers.filter (· != f.srcPos)
      { s1 with sleep := { s1.sleep with
          lineKeepers := if field f.payload 0 1 = 2 then others ++ [f.srcPos] else others } }))

/-! ### Slot close (R84, R379) -/

/-- The bitmap of complete vehicle slots. -/
def completeBitmap (s : State) : Nat :=
  ((s.skim.building.filter slotComplete).map (fun b => 2 ^ b.slot)).sum

/-- COMMIT_MARK_SEND: the feeding unit's mark of the cycle, once. -/
def sendMark (s : State) : State :=
  if feeding s && managing s && onRing s && slotsClosed s && s.pair.markCycle != some s.cyc.n then
    let b := be 4 s.cyc.n ++ be 8 (completeBitmap s) ++ be 4 s.pair.fedOut
    { s with
      out := s.out ++ mirrorFrames 2 (peerMask s (fedUnits s)) s.cyc.n b
      pair := { s.pair with markCycle := some s.cyc.n } }
  else s

/-- SLOT_CLOSE: a frame still arriving is cut (SLOT_GATE_REFUSAL). -/
def execSlotClose (p : LinePort) (s : State) : Res := .next (sendMark (cutAtClose s p))

/-! ### Planning the message window (R88, R90) -/

/-- The path delay from a position to the lead; the bound of R148 where none is held. -/
def leadDist (s : State) (pos : Nat) : Nat :=
  let ds := allPorts.flatMap (fun p =>
    (List.range 4).filterMap (fun u => pathDelay s p ⟨pos, u + 1, lineNo (portLine p)⟩))
  if ds.isEmpty then (pos - 1) * 1600 else (ds.foldl max 0).toNat

/-- Bytes on the wire as ns. -/
def wireTime (r25 : Bool) (bytes : Nat) : Nat := cdiv (bytes * byteTenths r25) 10

/-- The replies of a list of positions with their grants, `prev` the reply before with its distance (R88). -/
def planReplies (r25 : Bool) (g u : Nat) (d : Nat → Nat) : Option (PollSeen × Nat) → List (Nat × Nat) → List PollSeen
  | _, [] => []
  | prev, (p, grant) :: t =>
    let first : Int := u + 2 * d p + g + 2000
    let a : Int := match prev with
      | none => first
      | some (q, dq) => max first (q.timeout * 1000 + grantTime r25 q.grant + g + 2 * ((d p : Int) - dq))
    let x : PollSeen := ⟨p, 0, grant, cdiv a.toNat 1000⟩
    x :: planReplies r25 g u d (some (x, d p)) t

/-- The end of a plan, with its burst and turn of `u` ns (R88). -/
def planEnd (r25 : Bool) (g u dmax : Nat) (l : List PollSeen) : Nat :=
  match l.getLast? with | none => u | some q => q.timeout * 1000 + grantTime r25 q.grant + g + dmax

/-- A plan for the next window: replies, own grant, where polling and fallback grants go on (R90). -/
structure WindowPlan where
  replies : List PollSeen
  own : Nat
  pollFrom : Nat
  pdFrom : Nat
deriving DecidableEq, Repr

/-- A vehicle's latest health words show `PEER_DOWN`. -/
def peerDownSeen (s : State) (pos : Nat) : Bool :=
  if pos = ownPos s then peerDown s else s.set.sups.any (fun p => p.1 / 16 == pos && bitOf (field p.2.2 0 4) 3)

/-- The lead has messages of its own to send in its turn (R90, and the worked example of the 4 ms cycle). -/
def leadBusy (s : State) : Bool := !s.bridge.queue.isEmpty || s.cyc.ownBacklog

/-- GRANT_PLANNING for the window of cycle `n` under the guard of `guard` µs, with a turn of `turn` wire bytes of set-out
frames and repeats, and own messages if `busy`: the burst and the turn make U (R87, R88). Every vehicle has its quiet
grant, the lead's own turn included; U counts it when the turn sends messages. Where the plan does not hold the fallback
grants of step 2, all have quiet grants in this window (log entry 163). -/
def planWindow (s : State) (guard turn : Nat) (busy : Bool) : WindowPlan :=
  let r := rate25 s
  let g := guard * 1000
  let window := supStart s - msgStart s
  let quiet := sched s 20 2 256
  let top := sched s 22 2 65535
  let own := ownPos s
  let ps := ((presentEntries s).map (·.pos)).filter (· != own)
  let order := ps.filter (fun p => s.cyc.pollFrom ≤ p) ++ ps.filter (fun p => p < s.cyc.pollFrom)
  let d := leadDist s
  let dmax := (ps.map d).foldl max 0
  let lay := fun (l : List Nat) (ownG : Nat) (gr : Nat → Nat) =>
    let u := wireTime r (84 * l.length + turn) + (if busy then grantTime r ownG else 0)
    let plan := planReplies r g u d none (l.map (fun p => (p, gr p)))
    (plan, planEnd r g u dmax plan)
  let chosen := fun k => ps.filter (fun p => (order.take k).contains p)
  let fits := fun k => decide ((lay (chosen k) quiet (fun _ => quiet)).2 ≤ window)
  let k := ((List.range (ps.length + 1)).reverse.find? fits).getD 0
  if k < ps.length then
    ⟨(lay (chosen k) quiet (fun _ => quiet)).1, quiet, order.getD k 0, s.cyc.pdFrom⟩
  else
    let down := (presentEntries s).map (·.pos) |>.filter (peerDownSeen s)
    let big := max quiet (top / 2048 * 2048)
    let all2 := fun (l : List Nat) p => if l.contains p then big else quiet
    let sum2 := down.length * grantTime r big
    let one := (down.find? (fun p => s.cyc.pdFrom ≤ p)).getD (down.headD 0)
    let down2 := if window < 2 * sum2 then [one] else down
    let g2 := all2 down2
    let step2 := lay ps (g2 own) g2
    let (step2, g2) := if window < step2.2 then (lay ps quiet (fun _ => quiet), fun _ => quiet) else (step2, g2)
    let back := ps.filter (fun p => s.cyc.backlog.contains p) ++ (if s.cyc.ownBacklog then [own] else [])
    let rest := window - step2.2 + back.length * grantTime r quiet
    let most := if back.isEmpty then 0 else min (top / 2048) (rest / back.length * 10 / byteTenths r / 2068)
    let g3 := fun n p => if back.contains p then max (g2 p) (n * 2048) else g2 p
    let step3 := fun n => lay ps (g3 n own) (g3 n)
    let n := ((List.range (most + 1)).reverse.find? (fun n => decide ((step3 n).2 ≤ window))).getD 0
    let pd := if down2 = down then s.cyc.pdFrom else one + 1
    ⟨(step3 n).1, g3 n own, 0, pd⟩

/-- Plans the window of cycle `n` with what the lead's turn would send in it now. -/
def planFor (s : State) (guard n : Nat) : State :=
  let turn := (turnBytes s n, leadBusy s)
  let w := planWindow s guard turn.1 turn.2
  { s with cyc := { s.cyc with
      plan := w.replies, ownGrant := w.own, planTurn := turn, pollNext := w.pollFrom, pdNext := w.pdFrom } }

/-- The plan of the next window, as the lead's work of a cycle makes it (R94). -/
def keepPlan (s : State) : State := planFor s s.cyc.guardNext (cycAdd s.cyc.n 1)

/-- The plan at the start of its window: as kept, or made anew when what the turn sends has changed since, so that U holds
the whole turn (R87, R88; log entry 106). -/
def withOwnTurn (s : State) : State :=
  if s.cyc.plan.isEmpty ∨ s.cyc.planTurn ≠ (turnBytes s s.cyc.n, leadBusy s) then planFor s s.cyc.guard s.cyc.n else s

/-- What the window's replies show of a backlog, at each vehicle whose last frame came and of which no frame was lost; any
other reply counts as none (R90, R91). -/
def settleReplies (s : State) : State :=
  let told := fun (p : Nat) =>
    if s.cyc.lostReplies.any (fun x => x.1 == p) then s.cyc.backlog.contains p
    else (Tab.get? s.cyc.replyEnds p).getD (s.cyc.backlog.contains p)
  { s with cyc := { s.cyc with
      backlog := ((presentEntries s).map (·.pos)).filter told, replyEnds := [], lostReplies := [] } }

/-! ### Role grants (R389) -/

/-- The latest supervision payload of a unit, its own included; none once 4 rounds of the supervision groups went by
without one (log entry 63). -/
def supOf (s : State) (pos u : Nat) : Option Bytes :=
  if pos = ownPos s ∧ u = s.unitNo then some (supervisionPayload s)
  else match Tab.get? s.set.sups (pos * 16 + u) with
    | none => none
    | some (c, b) => if cycDiff s.cyc.n c ≤ 64 then some b else none

/-- The unit that the lead names for a vehicle, if it sends it a grant. -/
def namedUnit (s : State) (e : Entry) : Option Nat :=
  let sups := [1, 2].filterMap (fun u => (supOf s e.pos u).map (fun b => (u, b)))
  if !sups.any (fun p => bitOf (field p.2 0 4) 4) then none
  else match sups.find? (fun p => field p.2 13 1 / 16 == 1) with
    | some p => some p.1
    | none =>
      match Tab.get? s.pair.grants e.slot with
      | some (_, x) => if cycBefore s.cyc.n x then none else (sups.head?).map (·.1)
      | none => (sups.head?).map (·.1)

/-- A grant to a unit, as a message of kind 0x07 with the opcode `ROLE_GRANT`, `QUIET`, under tag 0; to the own unit at
once. -/
def sendGrantTo (s : State) (e : Entry) : State :=
  match namedUnit s e with
  | none => s
  | some u =>
    let x := cycAdd s.cyc.n 8
    let s1 := { s with pair := { s.pair with grants := Tab.set s.pair.grants e.slot (u, x) } }
    if e.pos = ownPos s then receiveGrant s1 u x
    else
      let items := [(⟨0x0F, be 1 e.slot⟩ : Tlv), ⟨0x10, be 1 u⟩, ⟨0x0A, be 4 x⟩].flatMap tlvBytes
      let pk := packetBytes 1 0x0703 (s.cyc.n % 65536) 0x40 items
      queueMsg s1 { source := channelOf s 1, destSlot := e.slot, destUnit := u, kind := 7, tag := 0,
                    bodies := [be 2 (e.slot * 1024 + (u - 1) * 256 + 1) ++ zeros 2 ++ pk], notBefore := none, deadline := none }

def roleGrants (s : State) : State :=
  ((presentEntries s).filter (fun e => e.arr == 1 || e.arr == 2)).foldl sendGrantTo s

/-! ### The lead's burst and turn (R87) -/

/-- The poll burst. -/
def pollBurst (s : State) (l : List PollSeen) : State :=
  let s1 := l.foldl (fun s q =>
    originate s 4 0 0 (be 1 q.pos ++ be 1 (q.unit * 16) ++ be 2 q.grant ++ be 2 q.timeout ++ zeros 2)) s
  { s1 with cyc := { s1.cyc with polls := l } }

/-- The fallback messages sent again on both lines (R394). -/
def repeatFallback (s : State) : State :=
  let s1 := s.cyc.repeats.foldl (fun s f => originate s 5 f.channel 8 f.payload) s
  { s1 with cyc := { s1.cyc with repeats := [] } }

/-- MESSAGE_WINDOW_START: polls in order of position; then numbering and commit (RENUMBERING_ISSUE), fallback repeats,
and the own messages within the own grant, the role grants of this window among them. -/
def execMessageWindowStart (s : State) : Res :=
  .next (if !(s.set.lease && mayOriginate s && awake s) then s
  else
    let s1 := withOwnTurn (roleGrants s)
    let s2 := repeatFallback (issueNumbering (pollBurst s1 s1.cyc.plan))
    let r := sendGrant s2 s2.cyc.ownGrant
    { r.1 with cyc := { r.1.cyc with
        ownBacklog := r.2.2, plan := [], pollFrom := s1.cyc.pollNext, pdFrom := s1.cyc.pdNext } })

/-! ### Polls and replies (R74, R88, R89) -/

/-- POLL_DELIVERED: the plan is learnt; the first poll of the burst gives the start of the window (R74). -/
def execPollDelivered (p : LinePort) (f : Frame) (_arrival : Int) (s : State) : Res :=
  .next (deliver s p f (fun s =>
    if f.ftype ≠ 4 then s
    else
      let b := f.payload
      { s with cyc := { s.cyc with
          polls := s.cyc.polls ++ [⟨field b 0 1, field b 1 1 / 16, field b 2 2, field b 4 2⟩]
          windowStart := if s.cyc.polls.isEmpty then some (extend32 s.time.now f.fragment) else s.cyc.windowStart } }))

/-- The poll that this unit answers: of its position, naming it or, as unit 0, the composing unit. -/
def ownPoll (s : State) : Option PollSeen :=
  s.cyc.polls.find? (fun q => q.pos == ownPos s && q.pos != 0 && (if q.unit = 0 then composing s else q.unit == s.unitNo))

/-- A command packet to a management core, as the body of a message of kind 0x07. -/
def corePacket (s : State) (slot unit : Nat) (tag opcode flags : Nat) (items : List Tlv) : QMsg :=
  { source := channelOf s 1, destSlot := slot, destUnit := unit, kind := 7, tag := tag,
    bodies := [be 2 (slot * 1024 + (unit - 1) * 256 + 1) ++ zeros 2 ++
      packetBytes (if opcode = 0x0402 then 0 else 1) opcode (s.cyc.n % 65536) flags (items.flatMap tlvBytes)],
    notBefore := none, deadline := none }

/-- The next piece of the lead's table is asked for while the schedule mismatches (R74). -/
def askSchedule (s : State) : State :=
  match s.set.numbering.bind (fun t => t.entries.find? (fun e => e.pos == 1)), newTag s with
  | some e, some t =>
    let asked := s.bridge.tags.any (fun x => x.kind == .fetch && x.state != .held)
    if s.cyc.mismatch ∧ !asked ∧ schedCheck s.cyc.fetched ≠ s.cyc.leadCheck then
      let s1 := holdTag s (blankTag t (channelOf s 1) .fetch .queued (s.clk + bridgeTimeout s))
      queueMsg s1 (corePacket s e.slot 0 t 0x0402 0 [⟨0x0B, be 4 s.cyc.fetched.length⟩, ⟨0x0A, be 4 16376⟩])
    else s
  | _, _ => s

/-- The survivor's boundary unit hands the absorbed table to its lead (R129); in a refused merge each boundary unit hands the
other train's table to its own lead, which refuses it too (R128; log entry 158). -/
def sendFarTable (s : State) : State :=
  match s.set.far, s.set.numbering.bind (fun t => t.entries.find? (fun e => e.pos == 1)) with
  | some x, some e =>
    match x.table with
    | some t =>
      if (s.set.survivor ∨ s.set.refused) ∧ s.set.farTableDue ∧ !s.set.lease then
        let s1 := queueMsg s (corePacket s e.slot 0 0 0x0504 0x40 [⟨0x0C, (outward s t).bytes ++ be 8 x.key⟩])
        { s1 with set := { s1.set with farTableDue := false } }
      else s
    | none => s
  | _, _ => s

/-- POLL_REPLY_SEND: what fits the grant, or one message of kind 0x00, with `MORE` where ready frames did not fit. -/
def execPollReplySend (s : State) : Res :=
  .next (match ownPoll s with
  | none => s
  | some q =>
    if !inCycle s || s.cyc.stopped || s.cyc.silenced || !(s.cyc.joined || s.cyc.mismatch) || s.set.lease || !awake s ||
        s.cyc.replied.contains (ownPos s) then s
    else
      let s1 := askSchedule (sendFarTable s)
      let r := sendGrant s1 q.grant
      let s2 := if r.2.1 then r.1 else
        originate r.1 5 (channelOf s 0) (8 + 2 * b2n r.2.2) (msgPayload 1 0 0 0 0 0 [])
      { s2 with cyc := { s2.cyc with replied := s2.cyc.replied ++ [ownPos s] } })

/-! ### Supervision (R92, R121, R122, R413) -/

/-- The own vehicle has a supervision slot in this cycle. -/
def hasSupSlot (s : State) : Bool := (supSlots s).any (fun x => x.pos == ownPos s && x.pos != 0)

/-- What the island reports while the management side does not run: the health word last written, vote 0x1, no reason
(R27, R413). -/
def islandSupervision (s : State) : Bytes :=
  be 4 s.start.health ++ be 1 1 ++ zeros 3 ++ be 4 0 ++ be 1 0 ++ be 1 (roleCode s.pair.role * 16) ++ zeros 2 ++
    be 4 (bankVersion s.img.fw) ++ be 4 (bankVersion s.img.cf)

def ownSupervision (s : State) : Bytes := if awake s then supervisionPayload s else islandSupervision s

/-- Every unit of the vehicle reports vote 0x1; the instant since when is kept (R423). -/
def trackLineKeeping (s : State) : State :=
  let own := field (ownSupervision s) 4 1 == 1
  let all := own && (otherUnits s).all (fun u =>
    match Tab.get? s.set.sups (ownPos s * 16 + u) with
    | none => false
    | some (_, b) => field b 4 1 == 1 && field b 8 4 == 0)
  { s with sleep := { s.sleep with
      lkSince := if all then (match s.sleep.lkSince with | some t => some t | none => some s.clk) else none } }

/-- A port whose partner is reported, with the partner's probe (R122). -/
def reportPort (s : State) : Option (LinePort × Bytes) :=
  (allPorts.filter (fun p => assigned s p && linkUp s p && s.set.reporting.get p)).findSome? (fun p =>
    (s.set.probes.get p).map (fun b => (p, b)))

/-- The join report of a partner (R122). -/
def joinReport (s : State) (p : LinePort) (b : Bytes) : Bytes :=
  let arr := field b 22 1 % 16
  let key := (if bitOf (field b 25 1) 0 then 0 else 2 ^ 63) + 0x7F * 2 ^ 56 + field b 16 6 * 256
  let orient := (field b 23 1 == 0 || field b 23 1 == 2) && !facesPrev s p
  claimPayload key (field b 0 16) 0 (4 + 8 * b2n orient + 16 * unitsCode arr 4)

/-- A commit acknowledgement is due: of the pending numbering, or of the one in force where no supervision slot came before
its commit cycle (R93, R119). -/
def dueAck (s : State) : Option Numbering :=
  if s.set.ackDue ∧ !s.set.lease then (match s.set.pending with | some t => some t | none => s.set.numbering) else none

/-- The set-out frame that the own supervision slot carries, at most one: a commit acknowledgement first, then the merge
claim, the own claim, a join report (R92; log entry 64). -/
def slotFrame (s : State) : Option (Nat × Bytes) :=
  match dueAck s with
  | some t => some (9, commitPayload t)
  | none =>
    if !awake s then none
    else match (if s.set.mergeClaimDue then s.set.far else none) with
      | some x => some (7, claimPayload x.key x.uuid x.counter 1)
      | none =>
        if s.set.claimDue then some (7, ownClaim s 0)
        else (reportPort s).map (fun x => (7, joinReport s x.1 x.2))

/-- At the lead a partner to report is a trigger at once (R122, R123). -/
def ownJoin (s : State) (c : Bytes) : List Trigger :=
  let known := s.set.triggers.any (fun x => match x with | .join _ u _ _ _ => u == field c 8 16 | _ => false)
  if s.set.lease && !known then
    [Trigger.join (ownPos s) (field c 8 16) (field c 0 8) (bitOf (field c 28 1) 3) (bits (field c 28 1) 6 4)] else []

/-- What the slot's set-out frame settles. -/
def slotSettled (s : State) (ftype : Nat) (c : Bytes) : State :=
  if ftype = 9 then { s with set := { s.set with ackDue := false } }
  else if s.set.mergeClaimDue ∧ s.set.far.isSome then s
  else if s.set.claimDue then { s with set := { s.set with claimDue := false } }
  else { s with set := { s.set with triggers := s.set.triggers ++ ownJoin s c } }

/-- Sends the slot's set-out frame; it is the slot's last (R46). -/
def slotExtra (s : State) : State :=
  match slotFrame s with
  | none => s
  | some (t, b) => slotSettled (originate s t 0 8 b) t b

/-- The unit's latest supervision frame is the one it sends now (R126). -/
def keepSup (s : State) : State := { s with set := { s.set with ownSup := ownSupervision s } }

/-- SUPERVISION_SLOT_START: the unit's supervision frame, for a unit without train-line ports over the peer ring, and at
most one set-out frame, which no stop of originating holds back (JOIN_REPORT_SEND). The last of the unit's own frames
carries `LAST` (log entry 164). -/
def execSupervisionSlotStart (s : State) : Res :=
  .next (if !inCycle s || !hasSupSlot s then s
  else
    let s1 := trackLineKeeping s
    let last := if (slotFrame s1).isNone then 8 else 0
    let s2 := if !mayOriginate s1 then s1
      else if attached s1 then originate (keepSup s1) 10 0 last (ownSupervision s1)
      else if awake s1 then sendOwn (keepSup s1) 10 0 0 (ownSupervision s1) else s1
    if attached s2 then slotExtra s2 else s2)

/-- A unit's vote as the lead counts it: the override of R424 makes it ready. -/
def countedVote (s : State) (vote bitmap : Nat) : Nat :=
  if s.sleep.override ∧ !bitOf bitmap 0 ∧ !bitOf bitmap 3 then 1 else vote

/-- The lead's record of a unit's vote after a frame (R414). -/
def noteVote (s : State) (key vote bitmap : Nat) : State :=
  let was := Tab.getD s.sleep.votes key ⟨0, 0, 0, s.clk⟩
  let ready := countedVote s vote bitmap == 1
  let v : VoteSt :=
    { vote := vote, bitmap := bitmap, readies := if ready then was.readies + 1 else 0
      since := if ready && 0 < was.readies then was.since else s.clk }
  { s with sleep := { s.sleep with votes := Tab.set s.sleep.votes key v } }

/-- SLEEP_CANCEL: an announced sleep ends while its last 3 cycles are not reached; votes count afresh (R415). -/
def cancelSleep (s : State) : State :=
  match s.sleep.sleepAt with
  | none => s
  | some c =>
    if 4 ≤ cycDiff c s.cyc.n then { s with sleep := { s.sleep with sleepAt := none, votes := [] } } else s

/-- SUPERVISION_DELIVERED. -/
def execSupervisionDelivered (p : LinePort) (f : Frame) (s : State) : Res :=
  .next (deliver s p f (fun s =>
    let here := (presentEntries s).any (fun e => e.pos == f.srcPos)
    if f.ftype ≠ 10 ∨ !here ∨ f.srcUnit < 1 ∨ 4 < f.srcUnit then s
    else
      let b := f.payload
      let key := f.srcPos * 16 + f.srcUnit
      let was := ((Tab.get? s.set.sups key).map (fun x => field x.2 8 4)).getD 0
      let vote := field b 4 1
      let bitmap := field b 8 4
      let lead := s.set.lease
      let newly := fun k => bitOf bitmap k && !bitOf was k
      let low := lead && bitOf (field b 0 4) 6 && rate25 s && !s.set.triggers.contains .rateLow
      let s1 := hearFrom s f.srcPos
      let s2 := { s1 with
        set := { s1.set with
          sups := Tab.set s1.set.sups key (f.cycle, b)
          triggers := s1.set.triggers ++ (if low then [.rateLow] else []) }
        sleep := { s1.sleep with
          reasonSeen := s1.sleep.reasonSeen || decide (bitmap / 64 * 64 + bitmap % 32 ≠ 0)
          partialFrom := if lead && newly 3 then s1.sleep.partialFrom.map (fun _ => s1.clk) else s1.sleep.partialFrom } }
      let s3 := if f.srcPos = ownPos s then trackLineKeeping s2 else s2
      let s4 := if lead && newly 0 && !s.sleep.lineKeepers.isEmpty then drivePulses s3 none none else s3
      let s5 := noteVote s4 key vote bitmap
      if lead && countedVote s vote bitmap != 1 then cancelSleep s5 else s5))

/-! ### The lead's work of a cycle (R94, R96, R414, R422, R424) -/

/-- The key of a holder counter: vehicle slot, unit and reason bit. -/
def holderKey (slot unit bit : Nat) : Nat := slot * 1024 + unit * 16 + bit

/-- One unit's reasons are counted (R422). -/
def countHolder (s : State) (slot unit bitmap : Nat) : State :=
  ((List.range 9).filter (bitOf bitmap)).foldl (fun s k =>
    { s with sleep := { s.sleep with holders := Tab.adj s.sleep.holders (holderKey slot unit k) 0 count32 } }) s

/-- The counters of a cycle: every present unit whose latest vote is not 0x1. -/
def countHolders (s : State) : State :=
  (presentEntries s).foldl (fun s e =>
    (s.sleep.votes.filter (fun v => v.1 / 16 == e.pos && v.2.vote != 1)).foldl (fun s v =>
      countHolder s e.slot (v.1 % 16) v.2.bitmap) s) s

/-- Partial running: awake, with no present vehicle cab-active (R424). -/
def trackPartial (s : State) : State :=
  let on := !s.set.cabActive && (presentEntries s).all (fun e => !e.cab)
  { s with sleep := { s.sleep with
      partialFrom := if on then (match s.sleep.partialFrom with | some t => some t | none => some s.clk) else none
      override := s.sleep.override && on } }

/-- Every present unit has been ready in its last two frames, for at least 250 ms, the lead itself is ready, and no
numbering is pending (R414). -/
def mayAnnounce (s : State) : Bool :=
  s.set.pending.isNone && sleepVote s == 1 && s.sleep.sleepAt.isNone &&
    (presentEntries s).all (fun e => (List.range e.units).all (fun u =>
      (e.pos == ownPos s && u + 1 == s.unitNo) ||
        (match Tab.get? s.sleep.votes (e.pos * 16 + u + 1) with
         | none => false
         | some v => 2 ≤ v.readies && v.since + 250000000 ≤ s.clk)))

/-- SLEEP_ANNOUNCE: the cycle-start of the next cycle a carries s = a + 16. A cycle number 0, which means none, is passed
over. A reason of the lead's own cancels like a delivered vote. -/
def announceSleep (s : State) : State :=
  let c := cycAdd s.cyc.n 17
  let s1 := if countedVote s (sleepVote s) (reasonBitmap s) ≠ 1 then cancelSleep s else s
  if mayAnnounce s1 ∧ c ≠ 0 then { s1 with sleep := { s1.sleep with sleepAt := some c } } else s1

/-- The own vote as the lead keeps it, and pulses when the own vehicle becomes cab-active while a vehicle keeps the line
(R423). -/
def ownVote (s : State) : State :=
  let key := ownPos s * 16 + s.unitNo
  let was := (Tab.getD s.sleep.votes key ⟨0, 0, 0, 0⟩).bitmap
  let s1 := if bitOf (reasonBitmap s) 0 && !bitOf was 0 && !s.sleep.lineKeepers.isEmpty then drivePulses s none none else s
  noteVote s1 key (sleepVote s) (reasonBitmap s)

/-- The lead declares a time step (R96): the grid is anchored anew for cycle n + 1, and what was latched on the old one
after Ts(n) is discarded. -/
def declareStep (s : State) (anchor : Int) : State :=
  let late := anchor - (s.cyc.ts + (cycleLen s : Nat))
  let s1 := report s 0x0103 7 late (be 1 StepCause.anchor.code)
  { s1 with
    cyc := { s1.cyc with nextAnchor := some anchor, ahead := 0 }
    skim := { s1.skim with samples := s1.skim.samples.filter (fun x => !cycBefore s1.cyc.n x.n) } }

/-- The timeline of the next cycle (R94 to R96): its shift, or the anchor of a time step (TIME_STEP). Where its Ts has
come already the cycle turns with the end of this work. -/
def setTimeline (s : State) (instant : Int) : State :=
  let t := nextTimeline s instant
  let s1 := { s with cyc := { s.cyc with nextShift := t.1 } }
  match t.2 with
  | some a => declareStep s1 a
  | none => s1

/-- LEAD_CYCLE_WORK_DONE, once for a cycle: replies, votes, sleep and the plan of the next window, and the next cycle's
timeline. -/
def execLeadCycleWorkDone (instant : Int) (s : State) : Res :=
  .next (if !(s.set.lease && inCycle s && awake s) || s.cyc.nextShift.isSome then s
  else
    let s1 := keepPlan (settleReplies (announceSleep (trackPartial (countHolders (ownVote (setTimeline s instant))))))
    if decide (1 ≤ s1.cyc.ahead) then turnCycle s1 else s1)

end Sys2Proof.Machine
end

