-- ==== Sys2Proof/Machine/Session.lean ====
section
/-! DEFINITION. Command sessions (R446 to R456): requests accepted and refused, the order in which firmware serves them,
replies made, kept and sent on each transport. -/

namespace Sys2Proof.Machine

/-! ### Names of statuses (R450) -/

def statusName (st : Nat) : String :=
  match st with
  | 0x0000 => "DONE" | 0x0001 => "POSTED" | 0x0002 => "RETRY" | 0x0101 => "UNKNOWN_OPCODE" | 0x0102 => "BAD_LENGTH"
  | 0x0103 => "BAD_PARAMETER" | 0x0104 => "BAD_CHECK" | 0x0105 => "INCOMPLETE" | 0x0106 => "BAD_VERSION"
  | 0x0201 => "PRESENCE_REQUIRED" | 0x0202 => "SEAL_INTACT" | 0x0203 => "AUTHORITY_LOW" | 0x0301 => "BUSY"
  | 0x0302 => "NOT_LEAD" | 0x0303 => "SKIM_EXPIRED" | 0x0304 => "NOT_APPLICABLE" | 0x0401 => "FAR_ERROR"
  | 0x0402 => "FAR_TIMEOUT" | 0x0403 => "ROUTE_MISSING" | _ => "LOCK_HELD"

/-- The statuses whose replies carry data. -/
def carriesData (st : Nat) : Bool := st ≤ 2

/-! ### Sessions (R446) -/

def sessionOf (s : State) (x : Session) : Option SessSt := s.cmd.sessions.find? (fun q => q.sess == x)

/-- At most 8 vehicle-network and 60 train-line sessions. -/
def sessionRoom (s : State) (x : Session) : Bool :=
  let count := fun (f : Session → Bool) => (s.cmd.sessions.filter (fun q => f q.sess)).length
  match x with
  | .vehicle _ _ => count (fun q => match q with | .vehicle _ _ => true | _ => false) < 8
  | .line _ => count (fun q => match q with | .line _ => true | _ => false) < 60
  | _ => true

/-- The session is open, or opens; its last packet comes now. -/
def touchSession (s : State) (x : Session) : State :=
  { s with cmd := { s.cmd with sessions :=
      if (sessionOf s x).isSome then s.cmd.sessions.map (fun q => if q.sess = x then { q with last := s.clk } else q)
      else s.cmd.sessions ++ [⟨x, s.clk, [], [], []⟩] } }

def adjSession (s : State) (x : Session) (f : SessSt → SessSt) : State :=
  { s with cmd := { s.cmd with sessions := s.cmd.sessions.map (fun q => if q.sess = x then f q else q) } }

/-- The channel that stands for a session as initiator (R225): the host's, the service port's, the management core's for
the vehicle network, its own for a train-line session (log entry 65). -/
def initiatorOf (s : State) : Session → Nat
  | .host => channelOf s 2
  | .service => channelOf s 3
  | .vehicle _ _ => channelOf s 1
  | .line c => c

/-! ### Replies (R449, R471) -/

/-- A reply: bytes 0 to 6 of the request's header with `REPLY` set and their reserved bits zero (R8; log entry 143), the
status, the data padded to a multiple of 4. -/
def replyOf (head : Bytes) (st : Nat) (data : Bytes) : Bytes :=
  let params := be 2 st ++ zeros 2 ++ fit data ((data.length + 3) / 4 * 4)
  let h := fit head 5 ++ [((head.getD 5 0) &&& 0x40) ||| 0x80, 0] ++ be 2 params.length ++ zeros 3
  h ++ be 4 (crc32 (h ++ params)) ++ params

def headOf (p : Packet) : Bytes := be 1 (16 + p.cls) ++ be 2 p.opcode ++ be 2 p.seq ++ [p.flags] ++ zeros 1

def replyStatus (r : Bytes) : Nat := field r 16 2
def replyData (r : Bytes) : Bytes := r.drop 20

/-- The reply window takes a reply, or the queue behind it (R471). -/
def placeReply (s : State) (r : Bytes) : State :=
  if s.host.replyHeld then { s with host := { s.host with replyQueue := s.host.replyQueue ++ [r] } }
  else raiseInt { s with host := { s.host with
    replyHeld := true, replyLength := r.length
    replyWin := Mem.writeN [] 0 r } } 0

/-- A message of at most 16 fragments of 2,012 body bytes (R49, R459). -/
def fragments (b : Bytes) : List Bytes := partsOf 2012 b

/-- The longest message that one grant carries: `MAX_GRANT` in whole 2,048-byte multiples (R231). -/
def messageLimit (s : State) : Nat := grantBudget (sched s 22 2 65535 / 2048 * 2048)

/-- A command reply to a train-line session; one too long for a message becomes `BAD_LENGTH` without data (R231, R459). -/
def lineReply (s : State) (chan tag : Nat) (r : Bytes) : State :=
  let msg := fun (b : Bytes) =>
    ({ source := channelOf s 1, destSlot := channelSlot chan, destUnit := channelUnit chan + 1, kind := 8, tag := tag,
       bodies := fragments (be 2 chan ++ zeros 2 ++ b), notBefore := none, deadline := none } : QMsg)
  let m := msg r
  queueMsg s (if messageLimit s < msgWire m then msg (replyOf (r.take 7) stBadLength []) else m)

/-- The reply of a monitor's command: data lines, the status line and the prompt (R496). A replay's tag is kept until its
result can be collected (R501). -/
def monitorReply (s : State) (r : Bytes) : State :=
  let st := replyStatus r
  if st = stRetry then { s with mon := { s.mon with wait := some (field (replyData r) 0 2) } }
  else
  let s1 := if carriesData st then
    printLine { s with out := s.out ++ [Out.monitorData (field r 1 2) (replyData r)] } "ok"
    else printLine s ("err " ++ statusName st)
  sendPrompt { s1 with mon := { s1.mon with busy := false, wait := none } }

/-- A reply leaves on its session's transport. A packet of the service port carries tag 1 when the monitor made it from a
text line; a packet-mode reply after packet mode has ended is discarded (R500). A TRDP request's session and reply
ComId are held in its tag. -/
def sendReply (s : State) (x : Session) (tag : Nat) (r : Bytes) : State :=
  match x with
  | .host => placeReply s r
  | .service =>
    if tag = 1 then monitorReply s r
    else if s.mon.packetMode then emit s [Out.monitor ([0xA5, 0x5A] ++ r)] else s
  | .vehicle ip _ =>
    sendMd s 0x4D70 (tag % 4294967296) ip (tag / 4294967296) 0 r
  | .line c => lineReply s c tag r

/-- A refusal before the packet is accepted, unless `QUIET` suppresses it. -/
def refuse (s : State) (x : Session) (tag : Nat) (head : Bytes) (st : Nat) : State :=
  if (head.getD 5 0).getLsbD 6 then s else sendReply s x tag (replyOf head st [])

/-- A served request's reply: kept with the last 8 of its session when firmware served it, and sent unless `QUIET` is set
(R456). -/
def reply (s : State) (p : Packet) (st : Nat) (data : Bytes) : State :=
  let r := replyOf (headOf p) st data
  let s1 := if hardwareServed p.opcode then s
    else adjSession s p.sess (fun q => { q with kept := lastN 8 (q.kept ++ [⟨p.seq, p.check, r, s.clk⟩]) })
  if pkQuiet p then s1 else sendReply s1 p.sess p.tag r

/-! ### Classes (R446, R452) -/

/-- The ceiling of every transport: operate at least, else the unit's presence authority. -/
def ceiling (s : State) : Nat := max 1 (presenceClass s.pres)

/-- An entry that differs from another only in `ENABLE`, bit `k` of byte `o`. -/
def onlyEnable (o k : Nat) (a b : Bytes) : Bool :=
  a.length == b.length && ((List.range a.length).all (fun i =>
    if i = o then setBit (a.getD i 0) k false == setBit (b.getD i 0) k false else a.getD i 0 == b.getD i 0))

/-- Byte and bit of `ENABLE` in a route entry (R199). -/
def routeEnable : Nat × Nat := (7, 0)

/-- The class that a request needs (R458): some opcodes need more or less by what they ask for. -/
def classNeeded (s : State) (r : OpSpec) (p : Packet) : Nat :=
  let data := (pkItem p tData).getD []
  match r.op with
  | 0x0302 =>
    let es := (List.range (data.length / 36)).map (fun i => (field data (36 * i) 4, bslice data (36 * i + 4) 32))
    if data.length % 36 = 0 ∧ 0 < es.length ∧ es.all (fun e => onlyEnable routeEnable.1 routeEnable.2 (entryAt s e.1) e.2) then 2 else 3
  | 0x0503 => if pkNum p tMode 0 = 1 then 3 else 2
  | 0x0A15 => if pkNum p tMode 0 = 1 then 4 else 3
  | 0x0B03 => if onlyEnable 0 0 (chanSt s (pkNum p tIndex 0)).entry data then 2 else 3
  | 0x0D02 =>
    let e := entryAt s (pkNum p tRoute 0)
    if rDomain e ≠ 8 ∧ rEnabled e ∧ sideEffects s (farKey e) then 1 else 0
  | _ => r.cls

/-- The status with which a class is refused (R452). -/
def classRefusal (s : State) (cls need : Nat) : Option Nat :=
  if cls < need then some stAuthorityLow
  else if (cls = 3 ∨ need = 3) ∧ !s.pres.sealOpen then some stSealIntact
  else if ceiling s < cls then some stPresenceRequired
  else none

/-- The opcodes that an unconfigured unit serves (R508). -/
def unconfiguredOpcode (op : Nat) : Bool :=
  op == 0x0101 || op == 0x0102 || op / 256 == 9 || op / 256 == 0x0A

/-- The checks of R451 from authority on; none when the request is accepted. -/
def requestRefusal (s : State) (r : OpSpec) (p : Packet) : Option Nat :=
  match classRefusal s p.cls (classNeeded s r p) with
  | some st => some st
  | none =>
    if !itemsOk r p.items then some stBadParameter
    else if s.cfg.isNone ∧ !unconfiguredOpcode p.opcode then some stNotApplicable
    else none

/-! ### Acceptance (R451, R454, R456) -/

/-- Requests of a session that firmware has not served. -/
def firmwareQueue (q : SessSt) : List Packet := q.queue.filter (fun p => !hardwareServed p.opcode)

/-- A skim or descriptor read that names the current skim (R181, R183). -/
def namesCurrent (s : State) (p : Packet) : Bool :=
  (p.opcode == 0x0201 || p.opcode == 0x0203) && (pkItem p tSkim).isNone && (pkItem p tPin).isNone && !s.skim.retained.isEmpty

/-- A request with a known opcode is refused, answered from a kept reply, or queued. -/
def acceptRequest (s : State) (r : OpSpec) (p : Packet) : State :=
  if (sessionOf s p.sess).isNone ∧ !sessionRoom s p.sess then
    refuse s p.sess p.tag (headOf p) ((requestRefusal s r p).getD stBusy)
  else
    let s := touchSession s p.sess
    let q := (sessionOf s p.sess).getD ⟨p.sess, s.clk, [], [], []⟩
    let old := if hardwareServed p.opcode then none
      else q.kept.find? (fun k => k.seq == p.seq && k.check == p.check && s.clk < k.at_ + 5000000000)
    match old with
    | some k => if pkQuiet p then s else sendReply s p.sess p.tag k.reply
    | none =>
      match requestRefusal s r p with
      | some st => refuse s p.sess p.tag (headOf p) st
      | none =>
        if !hardwareServed p.opcode ∧ 8 ≤ (firmwareQueue q).length then refuse s p.sess p.tag (headOf p) stBusy
        else adjSession s p.sess (fun q => { q with
          queue := q.queue ++ [p], reads := if namesCurrent s p then q.reads ++ [(p, skimNow s)] else q.reads })

/-- A packet arrives as bytes from a session, with the tag its reply carries; `quiet` takes `QUIET` as set (R446, R451).
A discarded reply counts on a counter of 32 bits (log entry 170). -/
def acceptBytes (s : State) (x : Session) (tag : Nat) (quiet : Bool) (b : Bytes) : State :=
  if b.length < 16 then s
  else if bitOf (field b 5 1) 7 then { s with cmd := { s.cmd with discarded := count32 s.cmd.discarded } }
  else
    let flags := if quiet then (b.getD 5 0) ||| 0x40 else b.getD 5 0
    let head := splice (b.take 7) 5 [flags]
    let plen := field b 7 2
    let op := field b 1 2
    if b.length ≠ 16 + plen ∨ 16384 < plen then refuse s x tag head stBadLength
    else if field b 12 4 ≠ crc32 (b.take 12 ++ b.drop 16) then refuse s x tag head stBadCheck
    else if field b 0 1 / 16 ≠ 1 then refuse s x tag head stBadVersion
    else match opSpec op with
      | none => refuse s x tag head stUnknownOpcode
      | some r =>
        let items := parseItems 4096 (b.drop 16)
        let p : Packet := { sess := x, cls := field b 0 1 % 16, opcode := op, seq := field b 3 2, flags := flags,
                            items := items.getD [⟨0xFFFF, []⟩], check := field b 12 4, tag := tag }
        acceptRequest s r p

/-! ### Serving (R454, R455) -/

/-- Sessions in the order in which firmware takes them: H, M, the vehicle network by opening, train-line by endpoint. -/
def sessionOrder (s : State) : List SessSt :=
  let l := s.cmd.sessions
  let line := l.filterMap (fun q => match q.sess with | .line c => some (c % 256, q) | _ => none)
  l.filter (fun q => q.sess == .host) ++ l.filter (fun q => q.sess == .service) ++
    l.filter (fun q => match q.sess with | .vehicle _ _ => true | _ => false) ++
    (List.range 256).flatMap (fun e => (line.filter (fun x => x.1 == e)).map (·.2))

/-- The packet that firmware serves next: the head of the first session after the one served last, round robin. -/
def nextPacket (s : State) : Option Packet :=
  let l := sessionOrder s
  let after := (l.dropWhile (fun q => some q.sess != s.cmd.turn)).drop 1
  (after ++ l).findSome? (fun q => (firmwareQueue q).head?)

def isQueued (s : State) (p : Packet) : Bool := (sessionOf s p.sess).any (fun q => q.queue.contains p)

/-- The packet leaves its session's queue; what was the current skim at its acceptance goes with it. -/
def takePacket (s : State) (p : Packet) : State :=
  let at_ := (sessionOf s p.sess).bind (fun q => (q.reads.find? (fun x => x.1 == p)).map (·.2))
  let s1 := adjSession s p.sess (fun q => { q with
    queue := dropOne p q.queue
    reads := match q.reads.find? (fun x => x.1 == p) with | none => q.reads | some x => dropOne x q.reads })
  { s1 with cmd := { s1.cmd with
      servedSkim := at_
      turn := if hardwareServed p.opcode then s1.cmd.turn else some p.sess } }

/-- The state after the packet's acceptance: a packet that does not wait yet is offered to its session. -/
def offered (op : Nat) (p : Packet) (s : State) : State :=
  if isQueued s p then s
  else match opSpec op with
    | none => s
    | some r => acceptRequest s r p

/-- A packet that waits is next: a hardware-served one at once, another at its session's turn (R455). -/
def isNext (op : Nat) (p : Packet) (s : State) : Bool :=
  isQueued s p && (if hardwareServed op then true else nextPacket s == some p)

/-- An opcode's row: the packet is accepted first if no transport has queued it, and served when its turn has come. -/
def serve (op : Nat) (p : Packet) (act : State → State) (s : State) : State :=
  if p.opcode ≠ op ∨ !managing s then s
  else if isNext op p (offered op p s) then act (takePacket (offered op p s) p)
  else offered op p s

/-! ### Sessions and kept replies end (R446, R456) -/

/-- SESSION_IDLE: nothing for 10 s. -/
def execSessionIdle (sess : Session) (s : State) : Res :=
  .next (match sessionOf s sess with
    | none => s
    | some q =>
      if q.last + 10000000000 ≤ s.clk then
        { s with cmd := { s.cmd with
            sessions := s.cmd.sessions.filter (fun x => x.sess != sess)
            turn := if s.cmd.turn = some sess then none else s.cmd.turn } }
      else s)

/-- REPLY_KEEP_EXPIRY: a kept reply is forgotten after 5 s. -/
def execReplyKeepExpiry (sess : Session) (seq : Nat) (s : State) : Res :=
  .next (adjSession s sess (fun q =>
    { q with kept := q.kept.filter (fun k => k.seq != seq || s.clk < k.at_ + 5000000000) }))

end Sys2Proof.Machine
end

