-- ==== Sys2Proof/Machine/Remote.lean ====
section
/-! DEFINITION. Command packets over the train line and over TRDP: messages reassembled, replies collected, messages that
stay incomplete, and commands of the vehicle network (R276, R446, R459, R460). -/

namespace Sys2Proof.Machine

/-! ### Reassembly (R460) -/

def sameMessage (f : Frame) (r : Reasm) : Bool := r.kind == msgKind f && r.chan == f.channel && r.tag == msgTag f

/-- The message that a fragment belongs to, with that fragment. A fragment 0 begins it anew. Fragment 0 opens with the
destination channel and 2 reserved bytes (R459). -/
def joinFragment (s : State) (f : Frame) : Reasm :=
  let i := msgIndex f
  let old := if i = 0 then none else s.cmd.reasm.find? (sameMessage f)
  let r := old.getD ⟨msgKind f, f.channel, msgTag f, 0, msgLastIndex f, [], s.cyc.n⟩
  { r with
    dest := if i = 0 then msgChannel f else r.dest
    parts := Tab.set r.parts i (if i = 0 then (msgBody f).drop 4 else msgBody f) }

def wholeMessage (r : Reasm) : Bool := (List.range (r.last + 1)).all (fun i => Tab.has r.parts i)

def messageBytes (r : Reasm) : Bytes := (List.range (r.last + 1)).flatMap (fun i => Tab.getD r.parts i [])

/-- A fragment is added; `act` has the message once it is whole. -/
def reassemble (s : State) (f : Frame) (act : State → Reasm → State) : State :=
  let r := joinFragment s f
  let others := s.cmd.reasm.filter (fun x => !sameMessage f x)
  if wholeMessage r then act { s with cmd := { s.cmd with reasm := others } } r
  else { s with cmd := { s.cmd with reasm := others ++ [r] } }

/-- REMOTE_COMMAND_MESSAGE: the packet of a train-line session, named by its source channel. -/
def execRemoteCommandMessage (f : Frame) (s : State) : Res :=
  .next (takeMessage s f 7 (fun s => reassemble s f (fun s r => acceptBytes s (.line r.chan) r.tag false (messageBytes r))))

/-- A piece of the lead's table arrives (R74); a refusal means that the table has changed, and the fetch begins anew. -/
def takePiece (s : State) (x : TagSt) (b : Bytes) : State :=
  let s1 := releaseTag s x.tag
  { s1 with cyc := { s1.cyc with fetched := if replyStatus b = stDone then s1.cyc.fetched ++ replyData b else [] } }

/-- COMMAND_REPLY_MESSAGE: the reply is held under the tag of its `REMOTE_COMMAND`; one that no tag awaits is dropped and
counted (R241, R243). -/
def execCommandReplyMessage (f : Frame) (s : State) : Res :=
  .next (takeMessage s f 8 (fun s => reassemble s f (fun s r =>
    match s.bridge.tags.find? (fun x => x.tag == r.tag && x.initiator == r.dest && x.state != .held &&
        (x.kind == .remote || x.kind == .fetch)) with
    | some x => if x.kind = .fetch then takePiece s x (messageBytes r) else holdResult s x.tag stDone (messageBytes r) id
    | none => { s with bridge := { s.bridge with droppedResults := count32 s.bridge.droppedResults } })))

/-- The message window of a cycle has ended. -/
def windowOver (s : State) (cycle : Nat) : Bool :=
  cycle != s.cyc.n || decide (lineStart s + (supStart s : Int) ≤ s.time.now)

/-- REMOTE_PACKET_INCOMPLETE: a message that lacks fragments is discarded; a request whose fragment 0 arrived is answered
`INCOMPLETE` (R460). -/
def execRemotePacketIncomplete (chan tag : Nat) (s : State) : Res :=
  let gone := fun (r : Reasm) => r.chan == chan && r.tag == tag && windowOver s r.cycle
  let s1 := { s with cmd := { s.cmd with reasm := s.cmd.reasm.filter (fun r => !gone r) } }
  .next ((s.cmd.reasm.filter (fun r => gone r && r.kind == 7)).foldl (fun s r =>
    match Tab.get? r.parts 0 with
    | some b => if b.length < 16 then s else refuse s (.line chan) tag (b.take 7) stIncomplete
    | none => s) s1)

/-! ### TRDP (R276, R446) -/

/-- A dataset on the command ComId reaches its session; the tag holds the TRDP session and the reply's ComId. -/
def trdpCommand (s : State) (t : TrdpIn) (quiet : Bool) : State :=
  let com := if t.replyComId = 0 then t.comId else t.replyComId
  acceptBytes s (.vehicle t.src t.sport) (t.session * 4294967296 + com) quiet t.dataset

def commandComId (s : State) : Nat := s.cfg.elim 13300 (·.node.commandComId)

/-- TRDP_MR_RECEIVED: any other ComId is answered Me, with the code of IEC 61375-2-3 for no replier (log entry 66). -/
def execTrdpMrReceived (t : TrdpIn) (s : State) : Res :=
  .next (trdpHeader s t (fun s =>
    if t.comId = commandComId s ∧ managing s then trdpCommand s t false
    else sendMd s 0x4D65 0 t.src t.session 0xFFFFFFFD []))

/-- TRDP_MN_RECEIVED: the packet is taken as if `QUIET` were set; any other ComId is discarded and counted. -/
def execTrdpMnReceived (t : TrdpIn) (s : State) : Res :=
  .next (trdpHeader s t (fun s =>
    if t.comId = commandComId s ∧ managing s then trdpCommand s t true
    else { s with veh := { s.veh with mnDiscarded := count32 s.veh.mnDiscarded } }))

end Sys2Proof.Machine
end

