-- ==== Sys2Proof/Machine/OpsSkim.lean ====
section
/-! DEFINITION. Opcodes of families 0x01 and 0x02: identity, status, time, skim reads and writes, pins, forces and the
history snapshot (R182 to R192, R458, R548). -/

namespace Sys2Proof.Config

/-- The bytes of a complete history snapshot, whose layout is not stated (R189; log entry 67). -/
opaque snapshotImage : Machine.Snapshot → Bytes

/-- The status and data with which the composing unit answers the k-th request passed to it, whose format on the peer ring is
not stated (R223, R226; log entry 68). -/
opaque passedStatus : Nat → Nat
opaque passedData : Nat → Bytes

end Sys2Proof.Config

namespace Sys2Proof.Machine

/-! ### Family 0x01 -/

/-- `POWER_STATE` (R420). -/
def powerCode (s : State) : Nat := b2n (s.sleep.power == .lineKeeping)

/-- The set-out state's code; 0xFF for a unit without train-line ports (R548). -/
def setoutCode (s : State) : Nat :=
  if !attached s then 0xFF
  else match s.set.state with
    | .settling => 0 | .claiming => 1 | .waiting => 2 | .census => 3 | .committing => 4 | .committed => 5 | .absorbing => 6

def programEntry (target : Nat) (p : Option Program) : Bytes :=
  be 1 target ++ be 1 (b2n p.isSome) ++ zeros 2 ++ be 4 (p.elim 0 (·.version))

/-- OP IDENTITY. -/
def execOpIdentity (p : Packet) (s : State) : Res :=
  .next (serve 0x0101 p (fun s => reply s p stDone
    (text "CX-860  " ++ be 6 s.unitId ++ be 1 s.hwIssue ++ be 1 s.unitNo ++ be 16 (vehicleUuid s) ++
      be 4 (bankVersion s.img.fw) ++ be 4 (bankVersion s.img.cf) ++ be 6 s.veh.macBase ++ zeros 2)) s)

def statusData (s : State) : Bytes :=
  be 4 (healthWord s) ++ be 1 (roleCode s.pair.role) ++ be 1 (powerCode s) ++ be 1 (timebaseCode s.time.base) ++
    be 1 (setoutCode s) ++ be 4 (topoInForce s) ++ be 4 (skimNow s) ++
    (List.range 6).flatMap (fun i => programEntry (i + 1) (floatOf s (portFloat (i + 1))).prog) ++
    (List.range 16).flatMap (fun k => programEntry (16 + k) (Tab.get? s.fld.profiles k))

/-- OP STATUS. -/
def execOpStatus (p : Packet) (s : State) : Res :=
  .next (serve 0x0102 p (fun s => reply s p stDone (statusData s)) s)

/-- OP TIME: speed is 0x8000_0000 while the position is not valid. -/
def execOpTime (p : Packet) (s : State) : Res :=
  .next (serve 0x0103 p (fun s => reply s p stDone
    (be 8 (time64 s.time.now) ++ beInt 8 (positionAt s s.time.now) ++
      (if s.time.carriedValid then beInt 4 s.time.carriedSpeed else be 4 0x80000000) ++
      be 1 (timebaseCode s.time.base) ++ zeros 3)) s)

/-! ### Reads of skims (R183, R184) -/

/-- What a read names: a skim to serve it from and whether it is the current one, a skim to wait for, or a refusal. -/
inductive Named where
  | found (r : SkimRec) (current : Bool)
  | hold (skim : Nat)
  | refused (status : Nat)
deriving DecidableEq, Repr

/-- A skim by number or "current". The node has committed before once slots have been bound (R184); from a
discard of the window until the next commit every name reads as expired (log entry 183). -/
def nameSkim (s : State) (skim : Option Nat) : Named :=
  match s.skim.retained with
  | [] => .refused (if s.skim.bound.isEmpty then stBusy else stSkimExpired)
  | c :: _ =>
    match skim with
    | none =>
      match s.cmd.servedSkim.bind (retainedSkim s) with
      | some r => .found r true
      | none => .found c true
    | some n =>
      if n = c.desc.skim then .found c true
      else if n = cycAdd c.desc.skim 1 then .hold n
      else if !cycBefore n c.desc.skim then .refused stBadParameter
      else match retainedSkim s n with
        | some r => .found r false
        | none =>
          match s.skim.pins.findSome? (fun x => if x.skim = n then x.kept else none) <|>
              (if s.skim.copyPin = some n then s.skim.snapshot.recs.find? (fun r => r.desc.skim == n) else none) with
          | some r => .found r false
          | none => .refused stSkimExpired

/-- The skim that a request names with `SKIM` or `PIN` (R184, R187). -/
def nameRead (s : State) (p : Packet) : Named :=
  match pkItem p tPin with
  | none => nameSkim s ((pkItem p tSkim).map (field · 0 4))
  | some h =>
    if (pkItem p tSkim).isSome then .refused stBadParameter
    else match s.skim.pins.find? (fun x => x.handle == field h 0 2) with
      | none => .refused stBadParameter
      | some x =>
        match x.kept with
        | none => .refused stSkimExpired
        | some r => .found r (r.desc.skim == skimNow s)

/-- The id names the second half of a 16-byte signal, by its definition or, without one, by the width received for it in the
current skim (R172, R183). -/
def secondHalf (s : State) (id : Nat) : Bool :=
  oddHalf s id || (id % 2 == 1 && (defOf s id).isNone &&
    (match s.skim.retained with | [] => false | r :: _ => readType s r (id - 1) == 0xD))

/-- The ids of a read keep R167 and R183. -/
def readIdsOk (s : State) (p : Packet) : Bool :=
  match pkItem p tIds, pkItem p tRange with
  | some b, _ => (idList b).all (fun id => decide (id < 2 ^ 23) && !secondHalf s id)
  | none, some b => 1 ≤ field b 4 4 && field b 4 4 ≤ 64 && decide (field b 0 4 + field b 4 4 ≤ 2 ^ 23)
  | none, none => false

/-- Descriptor and elements of a read. -/
def readData (s : State) (p : Packet) (r : SkimRec) (current : Bool) : Bytes :=
  descBytes r.desc ++ (match pkItem p tIds, pkItem p tRange with
    | some b, _ => idElems s r current (idList b)
    | none, some b => rangeElems s r current (field b 0 4) (field b 4 4)
    | none, none => [])

/-- The data of a read, or of a descriptor read. -/
def readReply (s : State) (p : Packet) (r : SkimRec) (current : Bool) : Bytes :=
  if p.opcode = 0x0203 then descBytes r.desc else readData s p r current

/-- A read is answered, or waits for its skim at most one cycle length. -/
def serveRead (s : State) (p : Packet) : State :=
  let s := lapsePins s
  match nameRead s p with
  | .refused st => reply s p st []
  | .found r current => reply s p stDone (readReply s p r current)
  | .hold n => { s with skim := { s.skim with held := s.skim.held ++ [⟨p, n, s.clk + cycleLen s⟩] } }

/-- OP SKIM_READ. -/
def execOpSkimRead (p : Packet) (s : State) : Res :=
  .next (serve 0x0201 p (fun s => if readIdsOk s p then serveRead s p else reply s p stBadParameter []) s)

/-- OP SKIM_DESCRIPTOR. -/
def execOpSkimDescriptor (p : Packet) (s : State) : Res :=
  .next (serve 0x0203 p (fun s => serveRead s p) s)

/-- SKIM_READ_HELD_ANSWER: the held reads whose skim has committed. -/
def execSkimReadHeldAnswer (s : State) : Res :=
  let due := s.skim.held.filter (fun x => (retainedSkim s x.skim).isSome)
  let s1 := { s with skim := { s.skim with held := s.skim.held.filter (fun x => (retainedSkim s x.skim).isNone) } }
  .next (due.foldl (fun s x =>
    match retainedSkim s x.skim with
    | some r => reply s x.packet stDone (readReply s x.packet r (x.skim == skimNow s))
    | none => s) s1)

/-- SKIM_READ_TIMEOUT: the held reads whose skim has not committed in time. -/
def execSkimReadTimeout (s : State) : Res :=
  let late := fun (x : HeldRead) => decide (x.until_ ≤ s.clk) && (retainedSkim s x.skim).isNone
  let s1 := { s with skim := { s.skim with held := s.skim.held.filter (fun x => !late x) } }
  .next ((s.skim.held.filter late).foldl (fun s x => reply s x.packet stBusy []) s1)

/-! ### Writes (R190, R192, R233) -/

/-- The one id of a request that takes one. -/
def oneId (p : Packet) : Option Nat :=
  match (pkItem p tIds).map idList with
  | some [id] => if id < 2 ^ 23 then some id else none
  | _ => none

def valueItem (p : Packet) : Nat := field ((pkItem p tValue).getD []) 0 16

/-- A value as a type holds it. -/
def typedValue (t v : Nat) : Val := BitVec.ofNat 128 (if t = 0xD then v else v % 2 ^ typeBits t)

/-- Posted writes that wait: queued messages and accesses of this unit's initiators (R257). -/
def postedQueued (s : State) : Nat :=
  (s.bridge.queue.filter (fun m => m.kind == 1)).length + (s.bridge.farQueue.filter (fun x => x.localTag && x.write.isSome)).length

/-- A posted write is queued as a message; its tag goes with `POSTED`. -/
def postMessage (s : State) (p : Packet) (slot targetKind logKind typ target value logTarget : Nat) : State :=
  let who := initiatorOf s p.sess
  match newTag s with
  | none => reply s p stBusy []
  | some t =>
    if 4096 ≤ postedQueued s ∨
        256 ≤ (s.bridge.queue.filter (fun m => m.source == who)).length then reply s p stBusy []
    else
      let ms := (bridgeTimeout s) / 1000000
      let body := be 2 (slot * 1024) ++ zeros 2 ++ be 1 targetKind ++ be 1 typ ++ be 2 ms ++ be 4 target ++ be 16 value
      let s1 := holdTag s { blankTag t who .postedWrite .queued (s.clk + bridgeTimeout s) with
        target := logTarget, targetKind := logKind, slot := some slot }
      let s2 := queueMsg s1 { source := who, destSlot := slot, destUnit := 0, kind := 1, tag := t, bodies := [body],
                              notBefore := none, deadline := some (s.clk + bridgeTimeout s) }
      reply s2 p stPosted (be 2 t)

/-- A posted write to a signal of another slot (R190, R227, R233): the type is the writer's own dictionary's. -/
def postSignal (s : State) (p : Packet) (id : Nat) : State :=
  if !slotPresent s (sigSlot id) then reply s p stRouteMissing []
  else
    let v := valueItem p
    match defOf s id with
    | none => postMessage s p (sigSlot id) 2 2 0xF id v id
    | some d => postMessage s p (sigSlot id) 2 2 d.typ id (wireValue d.typ (typedValue d.typ v)).toNat id

/-- A request that the composing unit serves leaves on the peer ring (R190, R223; log entry 68). -/
def passOn (s : State) (p : Packet) : State := emit s [Out.passed p]

/-- A request for the composing unit leaves on the peer ring; its answer is a free value (R226; log entry 68). -/
def passBridge (s : State) (p : Packet) : State :=
  reply (tookFree (passOn s p) 1) p (Config.passedStatus s.freeCount) (Config.passedData s.freeCount)

/-- A transaction is served by the composing unit. -/
def atComposing (s : State) (p : Packet) (act : State → State) : State := if composing s then act s else passBridge s p

/-- OP SKIM_WRITE. -/
def execOpSkimWrite (p : Packet) (s : State) : Res :=
  .next (serve 0x0202 p (fun s =>
    match oneId p with
    | none => reply s p stBadParameter []
    | some id =>
      if isNodeSignal id then reply s p stBadParameter []
      else if !ownSignal s id then atComposing s p (fun s => postSignal s p id)
      else if !writeAllowed s id then reply s p stBadParameter []
      else if composing s then
        let t := (defOf s id).elim 0xF (·.typ)
        reply (stageWrite s id (typedValue t (valueItem p))) p stDone (be 4 (nextSkim s))
      else reply (passOn s p) p stDone (be 4 (nextSkim s))) s)

/-! ### Pins (R187) -/

/-- A lease item in ms, 1,000 by default; none outside 10 to 10,000. -/
def leaseMs (p : Packet) : Option Nat :=
  let ms := pkNum p tLease 1000
  if 10 ≤ ms ∧ ms ≤ 10000 then some ms else none

/-- OP PIN_TAKE. -/
def execOpPinTake (p : Packet) (s : State) : Res :=
  .next (serve 0x0204 p (fun s =>
    let s := lapsePins s
    match leaseMs p, nameSkim s ((pkItem p tSkim).map (field · 0 4)), newHandle s with
    | none, _, _ => reply s p stBadParameter []
    | _, .refused st, _ => reply s p st []
    | _, .hold _, _ => reply s p stBadParameter []
    | _, .found _ _, none => reply s p stBusy []
    | some ms, .found r _, some h =>
      if (retainedSkim s r.desc.skim).isNone then reply s p stSkimExpired []
      else if 16 ≤ s.skim.pins.length then reply s p stBusy []
      else
        let s1 := { s with skim := { s.skim with
          pins := s.skim.pins ++ [⟨h, r.desc.skim, some r, s.clk + ms * 1000000⟩]
          nextHandle := h % 65535 + 1 } }
        reply s1 p stDone (be 2 h ++ be 4 r.desc.skim)) s)

/-- OP PIN_RENEW. -/
def execOpPinRenew (p : Packet) (s : State) : Res :=
  .next (serve 0x0205 p (fun s =>
    let s := lapsePins s
    let h := pkNum p tPin 0
    match leaseMs p, s.skim.pins.find? (fun x => x.handle == h) with
    | some ms, some x =>
      if x.kept.isNone then reply s p stSkimExpired []
      else
        let s1 := { s with skim := { s.skim with pins := s.skim.pins.map (fun y =>
          if y.handle = h then { y with lease := s.clk + ms * 1000000 } else y) } }
        reply s1 p stDone (be 8 (time64 (s.time.now + ms * 1000000)))
    | _, _ => reply s p stBadParameter []) s)

/-- OP PIN_RELEASE: a broken pin is freed with `DONE` too. -/
def execOpPinRelease (p : Packet) (s : State) : Res :=
  .next (serve 0x0206 p (fun s =>
    let s := lapsePins s
    let h := pkNum p tPin 0
    if s.skim.pins.any (fun x => x.handle == h) then
      let s1 := { s with skim := { s.skim with
        pins := s.skim.pins.filter (fun x => x.handle != h)
        freed := s.skim.freed ++ [(h, s.clk + 10000000000)] } }
      reply s1 p stDone []
    else reply s p stBadParameter []) s)

/-! ### Forces (R191) -/

/-- OP FORCE: a second force of a signal replaces the first, from the skim on that the reply names (R191, R192). -/
def execOpForce (p : Packet) (s : State) : Res :=
  .next (serve 0x0207 p (fun s =>
    match oneId p with
    | none => reply s p stBadParameter []
    | some id =>
      if !ownSignal s id ∨ !forceAllowed s id then reply s p stBadParameter []
      else
        let others := s.skim.forces.filter (fun f => f.id != id)
        let until_ := s.skim.forces.filter (fun f => f.id == id && forceDue (gridN s) f)
        if 256 ≤ (others.map (·.id)).eraseDups.length then reply s p stBusy []
        else
          let t := (defOf s id).elim 0xF (·.typ)
          let f : Force := ⟨id, typedValue t (valueItem p), openWindows s.pres,
            if s.cyc.running then some (nextSkim s) else none⟩
          reply { s with skim := { s.skim with forces := others ++ until_ ++ [f] } } p stDone (be 4 (nextSkim s))) s)

/-- OP FORCE_RELEASE: without `IDS` all forces end. -/
def execOpForceRelease (p : Packet) (s : State) : Res :=
  .next (serve 0x0208 p (fun s =>
    let ids := (pkItem p tIds).map idList
    let bad : Bool := match ids with | none => false | some l => l.any (fun id => !(decide (id < 2 ^ 23)) || !ownSignal s id || !forceAllowed s id)
    if bad then reply s p stBadParameter []
    else
      let gone := fun (f : Force) => (match ids with | none => true | some l => l.contains f.id : Bool)
      let n := ((s.skim.forces.filter gone).map (·.id)).eraseDups.length
      reply { s with skim := { s.skim with forces := s.skim.forces.filter (fun f => !gone f) } } p stDone (be 4 n)) s)

/-! ### The history snapshot (R189) -/

/-- OP SNAPSHOT_TAKE: while a copy runs or the area is locked, the request is logged and refused. -/
def execOpSnapshotTake (p : Packet) (s : State) : Res :=
  .next (serve 0x0209 p (fun s =>
    let s1 := startSnapshot s
    if s.skim.snapshot.state = 1 ∨ s.skim.snapshot.locked ∨ s.skim.retained.isEmpty then reply s1 p stBusy []
    else
      let s2 := { s1 with skim := { s1.skim with snapshot := { s1.skim.snapshot with locked := bitOf (pkNum p tMode 0) 0 } } }
      reply s2 p stDone (be 4 (s1.skim.copyPin.getD 0))) s)

/-- The state code of the snapshot area: 0 none, 1 copying, 2 complete, 3 locked. -/
def snapshotCode (x : Snapshot) : Nat := if x.state = 2 ∧ x.locked then 3 else x.state

/-- OP SNAPSHOT_READ: bytes only of a complete snapshot. -/
def execOpSnapshotRead (p : Packet) (s : State) : Res :=
  .next (serve 0x020A p (fun s =>
    let n := pkNum p tCount 0
    let x := s.skim.snapshot
    if 16376 < n then reply s p stBadParameter []
    else reply s p stDone (be 1 (snapshotCode x) ++
      (if x.state = 2 then ((Config.snapshotImage x).drop (pkNum p tOffset 0)).take n else []))) s)

/-- OP SNAPSHOT_LOCK. -/
def execOpSnapshotLock (p : Packet) (s : State) : Res :=
  .next (serve 0x020B p (fun s =>
    if s.skim.snapshot.state = 0 then reply s p stNotApplicable []
    else reply { s with skim := { s.skim with snapshot := { s.skim.snapshot with locked := true } } } p stDone []) s)

/-- OP SNAPSHOT_UNLOCK. -/
def execOpSnapshotUnlock (p : Packet) (s : State) : Res :=
  .next (serve 0x020C p (fun s =>
    reply { s with skim := { s.skim with snapshot := { s.skim.snapshot with locked := false } } } p stDone []) s)

end Sys2Proof.Machine
end

