-- ==== Sys2Proof/Machine/OpsTrain.lean ====
section
/-! DEFINITION. Opcodes of families 0x03 to 0x05 other than transfers: route table, cycle, schedule, events, set-out
(R160, R161, R199, R221, R458, R548). -/

namespace Sys2Proof.Machine

/-- The data of a refused table: check number and index (R449, R457). -/
def refusalData (x : Nat × Nat) : Bytes := be 1 x.1 ++ be 4 x.2

/-! ### Family 0x03 -/

/-- OP ROUTE_READ. -/
def execOpRouteRead (p : Packet) (s : State) : Res :=
  .next (serve 0x0301 p (fun s =>
    let i := pkNum p tIndex 0
    let n := pkNum p tCount 0
    if 256 < n ∨ 1048576 ≤ i then reply s p stBadParameter []
    else reply s p stDone ((List.range (min n (1048576 - i))).flatMap (fun k => entryAt s (i + k)))) s)

/-- The entries that an edit names: index and entry. -/
def editList (b : Bytes) : List (Nat × Bytes) :=
  (List.range (b.length / 36)).map (fun i => (field b (36 * i) 4, bslice b (36 * i + 4) 32))

/-- The table that the next Ts finds in force: the one in force with the edits accepted since the latest Ts. -/
def editBase (s : State) : RouteTable :=
  match s.route.edited with
  | some t => t
  | none => s.route.table.getD ⟨0, 0, 0, 0, []⟩

/-- A table with entries replaced; an empty entry is not kept. The number of entries grows to the highest index edited. -/
def editTable (t : RouteTable) (es : List (Nat × Bytes)) (m : Nat) : RouteTable :=
  let entries := es.foldl (fun l (i, e) => if e.all (· == 0) then Tab.erase l i else Tab.set l i e) t.entries
  let n := es.foldl (fun k (i, _) => max k (i + 1)) t.count
  { t with count := n, entries := entries, check := tableCheck n entries, activation := m }

/-- OP ROUTE_EDIT (R221): an index that is too large fails check 0x01, whose index is 0 (R218); the edit takes force at the first Ts after acceptance. -/
def execOpRouteEdit (p : Packet) (s : State) : Res :=
  .next (serve 0x0302 p (fun s =>
    let b := (pkItem p tData).getD []
    let es := editList b
    if s.route.staged.isSome then reply s p stBusy []
    else if b.length % 36 ≠ 0 ∨ es.isEmpty ∨ 256 < es.length then reply s p stBadParameter []
    else match es.find? (fun x => decide (1048576 ≤ x.1)) with
      | some _ => reply s p stBadParameter (refusalData (1, 0))
      | none =>
        let t := editTable (editBase s) es (nextSkim s)
        match tableChecks s t.entries with
        | some x => reply s p stBadParameter (refusalData x)
        | none => reply { s with route := { s.route with edited := some t } } p stDone (be 4 (nextSkim s))) s)

def tableTriple (t : Option RouteTable) : Bytes :=
  match t with | none => zeros 12 | some t => be 4 t.tableId ++ be 4 t.check ++ be 4 t.activation

/-- OP ROUTE_STATUS. -/
def execOpRouteStatus (p : Packet) (s : State) : Res :=
  .next (serve 0x0303 p (fun s =>
    let count := fun d => (match s.route.table with | none => 0 | some t => (enabledRoutes t d).length : Nat)
    reply s p stDone (tableTriple s.route.table ++ tableTriple s.route.staged ++
      be 4 (count 1) ++ be 4 (count 2) ++ be 4 (count 3) ++ be 4 s.route.cache.length)) s)

/-- OP ROUTE_DISCARD_STAGED. -/
def execOpRouteDiscardStaged (p : Packet) (s : State) : Res :=
  .next (serve 0x0313 p (fun s => reply { s with route := { s.route with staged := none } } p stDone []) s)

/-! ### Family 0x04 -/

/-- OP CYCLE_STATUS. -/
def execOpCycleStatus (p : Packet) (s : State) : Res :=
  .next (serve 0x0401 p (fun s => reply s p stDone
    (be 4 s.cyc.n ++ be 2 (rowIndex s s.cyc.n) ++ zeros 2 ++ be 4 s.cyc.shift ++ be 1 s.cyc.guard ++ be 1 (b2n (rate25 s)) ++
      zeros 2 ++ be 4 (s.cyc.table.elim 0 schedCheck) ++ be 4 (s.cyc.staged.elim 0 (field · 24 4)))) s)

/-- OP SCHEDULE_READ: bytes of the table in force (R74). -/
def execOpScheduleRead (p : Packet) (s : State) : Res :=
  .next (serve 0x0402 p (fun s =>
    let b := s.cyc.table.getD []
    let o := pkNum p tOffset 0
    let n := pkNum p tCount 0
    if 16376 < n ∨ b.length ≤ o then reply s p stBadParameter []
    else reply s p stDone (bslice b o (min n (b.length - o)))) s)

/-- OP STEP (R160): the lead's next cycle-start carries the step. Steps commanded before it add up. -/
def execOpStep (p : Packet) (s : State) : Res :=
  .next (serve 0x0403 p (fun s =>
    let b := (pkItem p tStep).getD []
    let axis := field b 0 1
    let v := beSigned (bslice b 1 8)
    let old := if axis = 0 then s.time.timeStep else s.time.posStep
    let joins := (s.time.timeStep ≠ 0 ∨ s.time.posStep ≠ 0) ∧ s.time.stepAt = s.cyc.n ∧ !s.cyc.csSeen
    let n := if joins then s.cyc.n else cycAdd s.cyc.n 1
    if 1 < axis ∨ 2147483647 < (old + v).natAbs ∨ 2147483647 < v.natAbs then reply s p stBadParameter []
    else if !s.set.lease then reply s p stNotLead []
    else
      let s1 := { s with time :=
        if axis = 0 then { s.time with timeStep := old + v, stepAt := n } else { s.time with posStep := old + v, stepAt := n } }
      reply s1 p stDone (be 4 n)) s)

/-- OP EVENT_READ. -/
def execOpEventRead (p : Packet) (s : State) : Res :=
  .next (serve 0x0404 p (fun s =>
    let i := pkNum p tIndex 0
    let n := pkNum p tCount 0
    if 512 < n ∨ 512 ≤ i then reply s p stBadParameter []
    else reply s p stDone ((List.range (min n (512 - i))).flatMap (fun k =>
      match s.time.events[i + k]? with | some e => e.bytes | none => zeros 32))) s)

/-! ### Family 0x05 -/

/-- OP SETOUT_TABLE: counter 0 and no entry before a numbering is in force. -/
def execOpSetoutTable (p : Packet) (s : State) : Res :=
  .next (serve 0x0501 p (fun s => reply s p stDone (match s.set.numbering with
    | none => be 4 0 ++ zeros 3
    | some t => be 4 t.topo ++ be 1 t.flags ++ be 1 t.entries.length ++ be 1 (b2n t.rate25) ++ t.entries.flatMap Entry.bytes)) s)

def neighbourEntry (b : Option Bytes) : Bytes := be 1 (b2n b.isSome) ++ zeros 3 ++ fit (b.getD []) 28

/-- OP SETOUT_STATUS. -/
def execOpSetoutStatus (p : Packet) (s : State) : Res :=
  .next (serve 0x0502 p (fun s =>
    let pend := s.set.pending.elim (0, 0) (fun t => (t.topo, t.commit))
    reply s p stDone (be 1 (setoutCode s) ++ zeros 3 ++ be 4 pend.1 ++ be 4 pend.2 ++ be 8 s.set.leadKey ++
      allPorts.flatMap (fun q => neighbourEntry (s.set.probes.get q)))) s)

/-- The cycle in whose turn a numbering triggered now is sent: this one while its message window is still to come, and
not before a pending one's commit cycle (R118). -/
def issueCycle (s : State) : Nat :=
  let m := if windowAt s ≤ s.time.now then cycAdd s.cyc.n 1 else s.cyc.n
  match s.set.pending with
  | some t => if cycBefore m t.commit then t.commit else m
  | none => m

/-- A commanded cold start (R99): the lead leaves its cycle and its numbering and settles; its retained table and its
neighbours stay (log entry 69). -/
def coldStart (s : State) : State :=
  enterSettling { s with
    cyc := { s.cyc with
      stopped := true, joined := false, joinFrom := none, silenced := false, mismatch := false, fetched := [], missed := 0
      fences := [], opened := [], polls := [], plan := [], backlog := [], ownBacklog := false, repeats := []
      nextShift := none, nextAnchor := none, discontinuous := none }
    set := { SetoutSt.init with
      firstLink := s.set.firstLink
      retained := s.set.retained, cabActive := s.set.cabActive, probes := s.set.probes, probeTopo := s.set.probeTopo } }

/-- OP RENUMBER. -/
def execOpRenumber (p : Packet) (s : State) : Res :=
  .next (serve 0x0503 p (fun s =>
    let mode := pkNum p tMode 0
    if 1 < mode then reply s p stBadParameter []
    else if !s.set.lease then reply s p stNotLead []
    else if mode = 1 then reply (coldStart s) p stDone (be 4 0)
    else
      let c := nonZeroCycle (cycAdd (issueCycle s) 2)
      reply { s with set := { s.set with triggers := s.set.triggers ++ [.command] } } p stDone (be 4 c)) s)

/-- A train-line session of a unit whose vehicle stands in the numbering in force. -/
def ownTrain (s : State) : Session → Bool
  | .line c => (slotEntry s (channelSlot c)).isSome
  | _ => false

/-- OP FAR_NUMBERING (R129). -/
def execOpFarNumbering (p : Packet) (s : State) : Res :=
  .next (serve 0x0504 p (fun s =>
    let b := (pkItem p tData).getD []
    let t := b.take (b.length - 8)
    if !numberingOk t then reply s p stBadParameter []
    else if !s.set.lease then reply s p stNotLead []
    else if !ownTrain s p.sess then reply s p stNotApplicable []
    else
      let far := parseNumbering t
      let total := (presentEntries s).length + presentCount far
      if 64 < total then reply (report s 0x0204 5 total []) p stDone []
      else reply { s with set := { s.set with absorbed := some (far, field b (b.length - 8) 8) } } p stDone []) s)

end Sys2Proof.Machine
end

