-- ==== Sys2Proof/Machine/Settings.lean ====
section
/-! DEFINITION. The checks of a configuration image's own settings: the dictionary and the publication list (R169, R170,
R172, R174, R195) and the ranges that the limit tables of the spec give each setting. -/

namespace Sys2Proof.Machine

/-- A number lies in a closed range. -/
def within (lo hi x : Nat) : Bool := decide (lo ≤ x) && decide (x ≤ hi)

/-! ### The signal dictionary (R172, R195) -/

/-- A definition keeps within one slot, has a value type, and for `OCT16` an even first id and count. -/
def definitionOk (d : SigDef) : Bool :=
  within 1 131072 d.count && decide (d.typ ≤ 0xD) && decide (d.first < 64 * 131072) &&
    sigSlot d.first == sigSlot (d.first + d.count - 1) &&
    (d.typ != 0xD || (d.first % 2 == 0 && d.count % 2 == 0))

def defsOverlap (d e : SigDef) : Bool := decide (d.first < e.first + e.count) && decide (e.first < d.first + d.count)

/-- Some two definitions of a list overlap. -/
def anyOverlap : List SigDef → Bool
  | [] => false
  | d :: l => l.any (defsOverlap d) || anyOverlap l

/-- The hot signals that a definition adds: one per signal, not per id (R172). -/
def hotCount (d : SigDef) : Nat := if !d.hot then 0 else if d.typ = 0xD then d.count / 2 else d.count

def dictionaryOk (l : List SigDef) : Bool :=
  decide (l.length ≤ 262144) && l.all definitionOk && !anyOverlap l && decide ((l.map hotCount).sum ≤ 1048576)

/-! ### The publication list (R169, R170, R174) -/

/-- The ids from `id` on, `n` of them, are all defined with width `w`: each step takes the definition that holds the
first id and goes on behind it. -/
def runDefined (l : List SigDef) (w : Nat) : Nat → Nat → Nat → Bool
  | 0, _, n => n == 0
  | fuel + 1, id, n =>
    if n = 0 then true
    else match l.find? (fun d => decide (d.first ≤ id) && decide (id < d.first + d.count)) with
      | none => false
      | some d => typeWidth d.typ == w && runDefined l w fuel (d.first + d.count) (n - (d.first + d.count - id))

/-- The width of the definition of an id. -/
def widthAt (l : List SigDef) (id : Nat) : Option Nat :=
  (l.find? (fun d => decide (d.first ≤ id) && decide (id < d.first + d.count))).map (fun d => typeWidth d.typ)

/-- An entry in the slot whose ids begin at `base`. -/
def pubEntryOk (l : List SigDef) (base : Nat) (e : PubEntry) : Bool :=
  within 1 131072 e.count && within 1 1024 e.modulus && decide (e.phase < e.modulus) &&
    decide (e.first + e.count ≤ 0x1FF00) &&
    (match widthAt l (base + e.first) with
     | none => false
     | some w => runDefined l w (l.length + 1) (base + e.first) e.count &&
        (w != 5 || (e.first % 2 == 0 && e.count % 2 == 0)))

def pubListOk (l : List SigDef) (base : Nat) (p : Bytes) : Bool :=
  decide (p.length % 12 = 0) && decide (p.length ≤ 4096 * 12) && (pubEntries p).all (pubEntryOk l base)

/-! ### The node's own settings (R19, R104, R154, R257, R495) -/

/-- A tachometer's pulses per revolution (R154, R166). -/
def tachOk (t : TachCfg) : Bool := within 1 1024 t.pulses

/-- The units that an arrangement allows (R19). -/
def arrangementOk (a units : Nat) : Bool :=
  match a with
  | 0 => units == 1
  | 1 | 2 => units == 2
  | 3 | 4 => within 3 4 units
  | _ => false

def nodeOk (c : NodeCfg) : Bool :=
  arrangementOk c.arrangement c.units && decide (c.preference ≤ 127) &&
    (!c.odometry || (tachOk c.tach1 && tachOk c.tach2)) && within 50 5000 c.bridgeTimeout

/-! ### The vehicle network (R165, R263 to R277, R286) -/

def vportOk (c : VportCfg) : Bool :=
  within 1 4094 c.pvid && decide (c.defaultPcp ≤ 7) && c.pcpMap.all (· ≤ 7) &&
    c.queueLimit.all (within 16384 1048576) && decide (c.ptp ≤ 2)

def vlanOk (c : VlanCfg) : Bool := within 1 4094 c.vid && within 64 9216 c.maxFrame

def ifaceOk (p : Nat × IfaceCfg) : Bool :=
  decide (p.1 ≤ 15) && within 1 4094 p.2.vlan && within 8 30 p.2.prefixLen && within 1 255 p.2.ttl && within 10 5000 p.2.replyTimeout

/-- A configured destination lies in its interface's subnet, or is a multicast address (R269). -/
def destinationOk (c : NetCfg) (i ip : Nat) : Bool :=
  decide (ip / 2 ^ 28 = 14) ||
    (match Tab.get? c.ifaces i with
     | none => false
     | some f => ip / 2 ^ (32 - f.prefixLen) == f.ip / 2 ^ (32 - f.prefixLen))

def telegramOk (c : NetCfg) (t : PubTelegram) : Bool :=
  decide (t.queue ≤ 7) && within 1 1024 t.period && decide (t.phase < t.period) && decide (t.length ≤ 1432) &&
    destinationOk c t.iface t.dest

def subscriptionOk (t : SubTelegram) : Bool := decide (t.length ≤ 1432) && within 10 60000 t.timeout

/-- The PTP settings of R165. -/
def ptpOk (c : NetCfg) : Bool :=
  decide (c.ptpDomain ≤ 127) && decide (c.ptpPriority1 ≤ 255) && decide (c.ptpPriority2 ≤ 255) &&
    decide (-1 ≤ c.logSync) && decide (c.logSync ≤ 1) && decide (c.logAnnounce ≤ 4) && decide (c.logMinDelayReq ≤ 5)

def channelEntryOk (s : State) (c : NetCfg) (p : Nat × Bytes) : Bool :=
  let x := ChanSt.init p.2
  decide (p.1 ≤ 511) && channelOk s p.2 && (!chEnabled x || destinationOk c (chIface x) (chAddr x))

/-- The repliers of the unit's domain 0x3 routes lie in an interface's subnet (R269). -/
def repliersOk (s : State) (c : Cfg) : Bool :=
  c.route.isEmpty || (imageEntries c.route).all (fun p => rDomain p.2 != 3 || rUnit p.2 + 1 != s.unitNo ||
    c.net.ifaces.any (fun i => rAddr p.2 4 4 / 2 ^ (32 - i.2.prefixLen) == i.2.ip / 2 ^ (32 - i.2.prefixLen)))

def netOk (s : State) (c : NetCfg) : Bool :=
  c.ports.all (fun p => within 1 16 p.1 && vportOk p.2) && c.vlans.all vlanOk && decide (c.statics.length ≤ 1024) &&
    within 10 1000000 c.ageing && c.ifaces.all ifaceOk && decide (c.pubs.length ≤ 1024) && c.pubs.all (telegramOk c) &&
    decide (c.subs.length ≤ 2048) && c.subs.all subscriptionOk && c.channels.all (channelEntryOk s c) &&
    decide (c.arpStatic.length ≤ 1024) && (c.hostRing == 0 || ringCountOk c.hostRing) && decide (c.chanQueue ≤ 7) && decide (c.mdQueue ≤ 7) && decide (c.arpQueue ≤ 7) && ptpOk c

/-! ### The field buses (R288, R293 to R299, R303 to R309) -/

def mvbPortOk (tbp : Nat) (x : MvbPort) : Bool :=
  decide (x.fcode ≤ 4) && decide (tbp * 2 ^ x.exponent ≤ 1024000) && decide (x.phase < 2 ^ x.exponent) &&
    within 1 65535 (x.fresh.getD 1)

/-- The ports whose master frame is sent in a basic period. -/
def pollsAt (x : SPortCfg) (j : Nat) : List MvbPort := x.ports.filter (fun q => j % 2 ^ q.exponent == q.phase)

/-- No basic period of the macro period has a periodic phase above 70 % of Tbp (R294). -/
def periodicOk (x : SPortCfg) : Bool :=
  (List.range ((x.ports.map (fun q => 2 ^ q.exponent)).foldl max 1)).all (fun j =>
    decide (10 * ((pollsAt x j).map (fun q => Config.mvbPollNs q.fcode)).sum ≤ 7 * (x.tbp * 1000)))

/-- A serial port's settings; `c` is the cycle in ns. The settings hold for the port's mode: an administrator's poll list, a
device's address (R294, R295, R298). -/
def sportOk (c : Nat) (x : SPortCfg) : Bool :=
  match x.mode with
  | 0 => true
  | 1 | 2 => within 1000 2000 x.tbp && x.tbp % 1000 == 0 && c % (x.tbp * 1000) == 0 && decide (x.offset < x.tbp) &&
      decide (x.ports.length ≤ 4096) && x.ports.all (mvbPortOk x.tbp) &&
      (if x.mode = 1 then periodicOk x else within 0x001 0xFFF x.deviceAddr)
  | 3 => within 1 1024 x.period && decide (x.phase < x.period) && within 100000 1000000000 x.timeout &&
      decide (x.retries ≤ 3) && within 1200 3000000 x.bitRate && within 7 8 x.dataBits && decide (x.parity ≤ 2) &&
      within 1 2 x.stopBits
  | _ => false

def canNodeOk (x : CanNode) : Bool := within 1 127 x.node && within 10 65535 x.consumer

/-- A CAN port's settings; `c` is the cycle in ns. Bit rates in kb/s. -/
def canOk (c : Nat) (x : CanCfg) : Bool :=
  !x.enabled ||
    (within 125 1000 x.nominal && within 1000 5000 x.dataRate && decide (x.nodes.length ≤ 127) && x.nodes.all canNodeOk &&
      within 100 60000 x.bootWait && within 1 5000 x.sdoTimeout && within 1 1024 x.syncPeriod &&
      decide (x.syncOffset * 1000 < c) && (x.syncOverflow == 0 || within 2 240 x.syncOverflow) &&
      decide (x.outs.length ≤ 256) &&
      x.outs.all (fun o => within 1 1024 o.period && decide (o.phase < o.period) && within 1 8 o.length) &&
      decide (x.ins.length ≤ 512) && x.ins.all (fun i => within 1 60000 i.limit))

/-- The even port of a redundant MVB pair has the mode of the odd one, and only an even port is one (R287). -/
def pairsOk (x : FieldCfg) : Bool :=
  x.serial.all (fun p => !p.2.pairB ||
    (p.1 % 2 == 0 && (p.2.mode == 1 || p.2.mode == 2) && (Tab.getD x.serial (p.1 - 1) SPortCfg.off).mode == p.2.mode))

/-- Programs go to the serial floats of S1 to S6 and to the profiles 0 to 15 alone (R310, R321). -/
def targetsOk (x : FieldCfg) : Bool := x.programs.all (fun p => within 1 6 p.1 || within 16 31 p.1)

def fieldOk (c : Nat) (x : FieldCfg) : Bool :=
  pairsOk x && targetsOk x &&
  x.serial.all (fun p => within 1 6 p.1 && sportOk c p.2) && x.can.all (fun p => within 1 4 p.1 && canOk c p.2)

/-! ### Sleep and the recorder (R423, R424, R430, R432, R438) -/

def powerOk (c : PowerCfg) : Bool := within 10 3600 c.lkDelay && within 10 1440 c.maxAwake

def recorderOk (c : RecCfg) : Bool :=
  c.buckets.all (fun b => decide (b.2.1 ≤ 255) && within 10000000 86400000000000 b.2.2) &&
    c.bins.all (fun b => decide (1 ≤ b.2.2)) && within 60000000000 86400000000000 c.period &&
    decide (c.triggers.length ≤ 16)

/-! ### The whole -/

/-- The settings of an image keep every limit; `s` is the state under them. A unit that holds no slot checks its publication
list against the definitions of slot 0 (log entry 184). -/
def settingsOk (s : State) (c : Cfg) : Bool :=
  nodeOk c.node && dictionaryOk c.dictionary && pubListOk c.dictionary ((heldSlot s).getD 0 * 131072) c.pubList &&
    netOk s c.net && repliersOk s c && fieldOk (cycleLen s) c.field && powerOk c.power && recorderOk c.recorder

end Sys2Proof.Machine
end

