-- ==== Sys2Proof/Machine/Transfer.lean ====
section
/-! DEFINITION. Image transfers: begin, chunk and finish of every kind, their load checks and what a loaded image does
(R72, R161, R218, R219, R266, R321, R358, R457, R486, R487). -/

namespace Sys2Proof.Machine

/-! ### Transfers in progress (R457) -/

/-- The family that carries a kind. -/
def kindFamily (kind : Nat) : Nat :=
  match kind with
  | 1 => 0x03 | 2 => 0x04 | 3 => 0x04 | 4 => 0x08 | 5 => 0x0C | 6 => 0x0B | 7 => 0x0B | 8 => 0x0A | 9 => 0x0A | _ => 0

/-- The target that a begin names: 0 for a kind without one; none when it is missing, out of range or not the kind's. -/
def beginTarget (p : Packet) (kind : Nat) : Option Nat :=
  let port := pkNum p tPort 0
  let group := port / 256
  let k := port % 256
  let hasPort := (pkItem p tPort).isSome
  let hasIndex := (pkItem p tIndex).isSome
  match kind with
  | 5 => if hasPort ∧ !hasIndex ∧ group = 2 ∧ 1 ≤ k ∧ k ≤ 6 then some k else none
  | 6 => if hasIndex ∧ !hasPort ∧ pkNum p tIndex 0 ≤ 15 then some (pkNum p tIndex 0) else none
  | 7 => if hasPort ∧ !hasIndex ∧ group = 1 ∧ 1 ≤ k ∧ k ≤ 16 then some k else none
  | _ => if hasPort ∨ hasIndex then none else some 0

def isImage (kind : Nat) : Bool := kind == 8 || kind == 9

/-- The bank that is not running takes a state and content. -/
def putSpare (b : Banks) (x : Bank) : Banks := b.put (1 - b.running) x

def eitherTrial (b : Banks) : Bool := b.b0.state == .trial || b.b1.state == .trial

/-- A transfer begins: an image transfer erases the bank that is not running. -/
def openTransfer (s : State) (p : Packet) (kind target : Nat) : State :=
  let others := s.cmd.transfers.filter (fun t => !(t.kind == kind && t.target == target))
  let s1 := { s with cmd := { s.cmd with
    transfers := others ++ [⟨kind, target, p.sess, pkNum p tCount 0, [], s.clk, p.cls⟩]
    lapsed := s.cmd.lapsed.filter (fun l => !(l.1 == kind && l.2.1 == target && l.2.2 == p.sess)) } }
  if isImage kind then setBanks s1 kind (putSpare (banksOf s1 kind) ⟨.writing, []⟩) else s1

/-- Begin. -/
def beginTransfer (family : Nat) (p : Packet) (s : State) : State :=
  let kind := pkNum p tKind 0
  match beginTarget p kind with
  | none => reply s p stBadParameter []
  | some target =>
    if kindFamily kind ≠ family ∨ pkNum p tCount 0 = 0 then reply s p stBadParameter []
    else if s.cmd.transfers.any (fun t => t.kind == kind && t.target == target && t.owner != p.sess) then reply s p stBusy []
    else if isImage kind ∧ eitherTrial (banksOf s kind) then reply s p stBusy []
    else reply (openTransfer s p kind target) p stDone []

/-- The transfer of a family that a session's chunk or finish goes to: the one that it began last. -/
def sessionTransfer (s : State) (family : Nat) (x : Session) : Option Transfer :=
  s.cmd.transfers.reverse.find? (fun t => t.owner == x && kindFamily t.kind == family)

/-- A chunk or finish without a transfer: `PRESENCE_REQUIRED` once after one lapsed under R453. -/
def noTransfer (s : State) (family : Nat) (p : Packet) : State :=
  match s.cmd.lapsed.find? (fun l => l.2.2 == p.sess && kindFamily l.1 == family) with
  | some l => reply { s with cmd := { s.cmd with lapsed := s.cmd.lapsed.filter (· != l) } } p stPresenceRequired []
  | none => reply s p stBadParameter []

/-- Chunk. -/
def chunkTransfer (family : Nat) (p : Packet) (s : State) : State :=
  match sessionTransfer s family p.sess with
  | none => noTransfer s family p
  | some t =>
    let d := (pkItem p tData).getD []
    if pkNum p tOffset 0 ≠ t.data.length then reply s p stBadParameter []
    else if t.total < t.data.length + d.length then reply s p stBadLength []
    else
      let s1 := { s with cmd := { s.cmd with transfers := s.cmd.transfers.map (fun x =>
        if x = t then { t with data := t.data ++ d, last := s.clk } else x) } }
      reply s1 p stDone []

/-! ### Load checks and loading -/

/-- A check that refuses an image, or the image loaded with the activation cycle or skim that its result names. -/
abbrev Loaded := Except (Nat × Nat) (State × Nat)

/-- `TABLE_LOADED`: kind and `TABLE_ID` (log entry 70). -/
def logTable (s : State) (kind id : Nat) : State := report s 0x0B05 18 (kind : Nat) (be 4 id)

/-- The skim at which a route table takes force: its `ACTIVATION` if that lies at least 2 cycles ahead, else the first
skim that does; 0, the first Ts, in a unit that keeps no cycle (R219). -/
def routeActivation (s : State) (act : Nat) : Nat :=
  let first := cycAdd s.cyc.n 2
  if !s.cyc.running then 0 else if act ≠ 0 ∧ !cycBefore act first then act else first

def loadRoute (s : State) (b : Bytes) : Loaded :=
  match checkRouteImage s b with
  | .error x => .error x
  | .ok t =>
    let m := routeActivation s t.activation
    .ok (logTable { s with route := { s.route with staged := some { t with activation := m } } } 1 t.tableId, m)

/-- The cycle length of a schedule table, ns. -/
def imageCycle (b : Bytes) : Nat := 1000000 * 2 ^ field b 4 1

/-- Checks 0x01 to 0x08 of R72. -/
def scheduleRefusal (s : State) (b : Bytes) : Option (Nat × Nat) :=
  match schedChecks b with
  | some x => some x
  | none =>
    if s.safe.table.elim false (fun e => !eqWithin e (imageCycle b) (field b 14 2)) then some (6, 0)
    else if s.route.table.elim false (fun t => decide (cyclicBudget (imageCycle b) < (cyclicRoutes t.entries).length)) then some (7, 0)
    else if s.set.lease ∧ cycBefore (field b 24 4) (cycAdd s.cyc.n 16) then some (8, 0)
    else none

def loadSchedule (s : State) (b : Bytes) : Loaded :=
  match scheduleRefusal s b with
  | some x => .error x
  | none => .ok (logTable { s with cyc := { s.cyc with staged := some b } } 2 (field b 0 4), field b 24 4)

/-- An entry that writes a signal which an event table may not write (R190). -/
def eventWriteBad (s : State) (e : EventEntry) : Bool :=
  let id := (heldSlot s).getD 0 * 131072 + e.object % 131072
  e.kind != 0 && e.action == 1 &&
    (isNodeSignal id || (match defOf s id with | some d => d.cls == .safety | none => false))

/-- The first entry that the load of an event table refuses (R161, R190). -/
def eventRefusal (s : State) (b : Bytes) : Option Nat :=
  match eventChecks b with
  | some i => some i
  | none =>
    let l := parseEvents b
    (((List.range l.length).zip l).find? (fun p => eventWriteBad s p.2)).map (·.1)

/-- The event table is replaced at once. No check of it is numbered: its refusal names check 0x00 (log entry 70). -/
def loadEvents (s : State) (b : Bytes) : Loaded :=
  match eventRefusal s b with
  | some i => .error (0, i)
  | none => .ok (logTable { s with time := { s.time with events := parseEvents b } } 3 0, nextSkim s)

/-- An equation table waits for the next full scratch test (R354), whose skim is not known: 0. -/
def loadEquations (s : State) (b : Bytes) : Loaded :=
  match equationChecks s b with
  | some x => .error x
  | none => .ok (logTable { s with safe := { s.safe with pendingTable := some b } } 4 (field b 0 4), 0)

def loadSerial (s : State) (port : Nat) (b : Bytes) : Loaded :=
  match programChecks s none b with
  | some x => .error x
  | none => .ok (setFloat s (portFloat port) { floatOf s (portFloat port) with staged := some (parseProgram b) }, nextSkim s)

def loadProfile (s : State) (k : Nat) (b : Bytes) : Loaded :=
  match programChecks s (some k) b with
  | some x => .error x
  | none => .ok ({ s with fld := { s.fld with stagedProfiles := Tab.set s.fld.stagedProfiles k (parseProgram b) } }, nextSkim s)

/-- The first cycle from `n` on that a list of period `m` can begin in. -/
def gateStart (n m : Nat) : Nat := let k := (n + m - 1) / m * m; if cycleMod ≤ k then 0 else k

/-- A gate list is staged; like the event table's, its check has no number. -/
def loadGates (s : State) (v : Nat) (b : Bytes) : Loaded :=
  if !gateListOk s b then .error (0, 0)
  else
    let k := gateStart (nextSkim s) (max 1 (gateM b))
    .ok (logTable (setVport s v (fun q => { q with staged := some (b, k) })) 7 0, k)

/-- The first that refuses of a list of contained images: kind and index in one number (R487 check 0x09). -/
def containedRefusal (l : List (Nat × Option Nat)) : Option Nat :=
  (l.findSome? (fun p => p.2.map (fun i => p.1 * 2 ^ 24 + i % 2 ^ 24)))

/-- Check 0x09: the settings of the image within their limits (index 0), and the tables and programs that it contains,
checked under the settings that it holds itself. -/
def configRefusal (s : State) (b : Bytes) : Option Nat :=
  match Config.parseConfig (imgBody b) with
  | none => some 0
  | some c =>
    let t := { s with cfg := some c, cyc := { s.cyc with table := if c.schedule.isEmpty then none else some c.schedule } }
    let u := { t with
      fld := { t.fld with
        profiles := (c.field.programs.filter (fun p => 16 ≤ p.1)).map (fun p => (p.1 - 16, parseProgram p.2)), stagedProfiles := [] }
      veh := { t.veh with chans := c.net.channels.map (fun p => (p.1, ChanSt.init p.2)) } }
    let route : Option Nat := if c.route.isEmpty then none else match checkRouteImage t c.route with
      | .error x => some x.2
      | .ok r => if cyclicBudget (cycleLen t) < (cyclicRoutes r.entries).length then some 0 else none
    let eq : Option Nat := if c.equation.isEmpty then none
      else match equationChecks t c.equation with
        | some x => some x.2
        | none => if eqWithin c.equation (cycleLen t) (sched t 14 2 625) then none else some 0
    if !settingsOk t c then some 0
    else containedRefusal (
      [(1, route), (2, if c.schedule.isEmpty then none else (schedChecks c.schedule).map (·.2)), (3, eventRefusal t c.events), (4, eq)] ++
        (c.field.programs.filter (fun p => p.1 < 16)).map (fun p => (5, (programChecks t none p.2).map (·.2))) ++
        (c.field.programs.filter (fun p => 16 ≤ p.1)).map (fun p => (6, (programChecks u (some (p.1 - 16)) p.2).map (·.2))) ++
        c.net.gates.map (fun g => (7, if gateListOk t g.2 then none else some 0)))

/-- The checks of R487: the first that fails, with its index. -/
def imageRefusal (s : State) (kind : Nat) (b : Bytes) : Option (Nat × Nat) :=
  let k := imageChecks s kind b
  if k ≠ 0 then some (k, 0)
  else if kind = 9 then (configRefusal s b).map (fun i => (9, i))
  else none

/-- A checked image is `LOADED`; its result names no cycle. -/
def loadImage (s : State) (kind : Nat) (b : Bytes) : Loaded :=
  match imageRefusal s kind b with
  | some x => .error x
  | none => .ok (setBanks s kind (putSpare (banksOf s kind) ⟨.loaded, b⟩), 0)

def loadKind (s : State) (t : Transfer) : Loaded :=
  match t.kind with
  | 1 => loadRoute s t.data
  | 2 => loadSchedule s t.data
  | 3 => loadEvents s t.data
  | 4 => loadEquations s t.data
  | 5 => loadSerial s t.target t.data
  | 6 => loadProfile s t.target t.data
  | 7 => loadGates s t.target t.data
  | k => loadImage s k t.data

/-- A bank whose transfer did not end in a loaded image is empty (R486, R487). -/
def emptySpare (s : State) (kind : Nat) : State :=
  if isImage kind then setBanks s kind (dropWriting (banksOf s kind)) else s

/-- A result that is held at once under a new tag (R240, R457). -/
def heldTag (s : State) (t who : Nat) (kind : TagKind) (status : Nat) (data : Bytes) : State :=
  holdTag s { blankTag t who kind .held s.clk with status := status, data := data, holdEnd := s.clk + 250000000 }

/-- Finish: the transfer ends, and the result of its checks is held. -/
def finishTransfer (family : Nat) (p : Packet) (s : State) : State :=
  match sessionTransfer s family p.sess with
  | none => noTransfer s family p
  | some t =>
    match newTag s with
    | none => reply s p stBusy []
    | some tag =>
      let s1 := { s with cmd := { s.cmd with transfers := s.cmd.transfers.filter (· != t) } }
      if t.data.length ≠ t.total then reply (emptySpare s1 t.kind) p stBadLength []
      else
        let who := initiatorOf s p.sess
        let s2 := match loadKind s1 t with
          | .error x => heldTag (emptySpare s1 t.kind) tag who .transfer stBadParameter (refusalData x)
          | .ok (u, m) => heldTag u tag who .transfer stDone (be 4 m)
        reply s2 p stRetry (be 2 tag)

/-- TRANSFER_IDLE: no chunk for 10 s. -/
def execTransferIdle (kind target : Nat) (s : State) : Res :=
  let idle := fun (t : Transfer) => t.kind == kind && t.target == target && decide (t.last + 10000000000 ≤ s.clk)
  .next (if s.cmd.transfers.any idle then
    emptySpare { s with cmd := { s.cmd with transfers := s.cmd.transfers.filter (fun t => !idle t) } } kind
  else s)

/-! ### The opcodes -/

/-- OP ROUTE_TRANSFER_BEGIN, CHUNK, FINISH. -/
def execOpRouteTransferBegin (p : Packet) (s : State) : Res := .next (serve 0x0310 p (beginTransfer 0x03 p) s)
def execOpRouteTransferChunk (p : Packet) (s : State) : Res := .next (serve 0x0311 p (chunkTransfer 0x03 p) s)
def execOpRouteTransferFinish (p : Packet) (s : State) : Res := .next (serve 0x0312 p (finishTransfer 0x03 p) s)

/-- OP SCHEDULE_EVENT_TRANSFER_BEGIN, CHUNK, FINISH. -/
def execOpScheduleEventTransferBegin (p : Packet) (s : State) : Res := .next (serve 0x0410 p (beginTransfer 0x04 p) s)
def execOpScheduleEventTransferChunk (p : Packet) (s : State) : Res := .next (serve 0x0411 p (chunkTransfer 0x04 p) s)
def execOpScheduleEventTransferFinish (p : Packet) (s : State) : Res := .next (serve 0x0412 p (finishTransfer 0x04 p) s)

/-- OP EQUATION_TRANSFER_BEGIN, CHUNK, FINISH. -/
def execOpEquationTransferBegin (p : Packet) (s : State) : Res := .next (serve 0x0810 p (beginTransfer 0x08 p) s)
def execOpEquationTransferChunk (p : Packet) (s : State) : Res := .next (serve 0x0811 p (chunkTransfer 0x08 p) s)
def execOpEquationTransferFinish (p : Packet) (s : State) : Res := .next (serve 0x0812 p (finishTransfer 0x08 p) s)

/-- OP IMAGE_TRANSFER_BEGIN, CHUNK, FINISH. -/
def execOpImageTransferBegin (p : Packet) (s : State) : Res := .next (serve 0x0A10 p (beginTransfer 0x0A p) s)
def execOpImageTransferChunk (p : Packet) (s : State) : Res := .next (serve 0x0A11 p (chunkTransfer 0x0A p) s)
def execOpImageTransferFinish (p : Packet) (s : State) : Res := .next (serve 0x0A12 p (finishTransfer 0x0A p) s)

/-- OP PROFILE_GATE_TRANSFER_BEGIN, CHUNK, FINISH. -/
def execOpProfileGateTransferBegin (p : Packet) (s : State) : Res := .next (serve 0x0B10 p (beginTransfer 0x0B p) s)
def execOpProfileGateTransferChunk (p : Packet) (s : State) : Res := .next (serve 0x0B11 p (chunkTransfer 0x0B p) s)
def execOpProfileGateTransferFinish (p : Packet) (s : State) : Res := .next (serve 0x0B12 p (finishTransfer 0x0B p) s)

/-- OP SERIAL_PROGRAM_TRANSFER_BEGIN, CHUNK, FINISH. -/
def execOpSerialProgramTransferBegin (p : Packet) (s : State) : Res := .next (serve 0x0C10 p (beginTransfer 0x0C p) s)
def execOpSerialProgramTransferChunk (p : Packet) (s : State) : Res := .next (serve 0x0C11 p (chunkTransfer 0x0C p) s)
def execOpSerialProgramTransferFinish (p : Packet) (s : State) : Res := .next (serve 0x0C12 p (finishTransfer 0x0C p) s)

end Sys2Proof.Machine
end

