-- ==== Sys2Proof/Machine/OpsPower.lean ====
section
/-! DEFINITION. Opcodes of families 0x06 to 0x08 other than transfers: power, alarms, holders, pairs, the safety complex
(R333, R347 to R349, R366, R383, R389, R392, R411, R412, R420, R422, R423, R458, R548). -/

namespace Sys2Proof.Config

/-- An alarm entry as bytes, and the entry that bytes spell. R411 states what an entry holds and no layout
(log entry 71). -/
opaque alarmBytes : Machine.AlarmEntry → Bytes
opaque parseAlarm : Bytes → Option Machine.AlarmEntry

end Sys2Proof.Config

namespace Sys2Proof.Machine

/-! ### Family 0x06 -/

/-- A read of `WAKE_STATUS`: `FALSE_WAKES` is cleared by it (R420). -/
def readWakeStatus (s : State) : State × Nat := ({ s with sleep := { s.sleep with falseWakes := 0 } }, wakeStatus s)

/-- OP POWER_STATUS. -/
def execOpPowerStatus (p : Packet) (s : State) : Res :=
  .next (serve 0x0601 p (fun s =>
    let (s1, w) := readWakeStatus s
    reply s1 p stDone (be 4 w ++ be 4 (reasonBitmap s) ++ be 1 (sleepVote s) ++ be 4 s.sleep.announced)) s)

/-- OP STAY_AWAKE: 1 s to 24 h; 0 ends the hold (R412). -/
def execOpStayAwake (p : Packet) (s : State) : Res :=
  .next (serve 0x0602 p (fun s =>
    let d := pkNum p tDuration 0
    if 86400 < d then reply s p stBadParameter []
    else
      let hold := if d = 0 then none else some (s.clk + d * 1000000000)
      reply { s with sleep := { s.sleep with commandHold := hold } } p stDone (be 8 (time64 (s.time.now + d * 1000000000)))) s)

/-- OP WAKE_ALL (R423). -/
def execOpWakeAll (p : Packet) (s : State) : Res :=
  .next (serve 0x0603 p (fun s =>
    if !s.set.lease then reply s p stNotLead [] else reply (drivePulses s none none) p stDone []) s)

/-- OP ALARM_READ: nothing for an entry that holds no alarm. -/
def execOpAlarmRead (p : Packet) (s : State) : Res :=
  .next (serve 0x0604 p (fun s =>
    let i := pkNum p tIndex 0
    if 7 < i then reply s p stBadParameter []
    else reply s p stDone (match Tab.get? s.sleep.alarms i with | none => [] | some a => Config.alarmBytes a)) s)

/-- OP ALARM_WRITE: a hold of 1 min to 24 h; empty `DATA` removes the entry. -/
def execOpAlarmWrite (p : Packet) (s : State) : Res :=
  .next (serve 0x0605 p (fun s =>
    let i := pkNum p tIndex 0
    let b := (pkItem p tData).getD []
    let put := fun (t : Tab AlarmEntry) => reply { s with sleep := { s.sleep with alarms := t } } p stDone []
    if 7 < i then reply s p stBadParameter []
    else if b.isEmpty then put (Tab.erase s.sleep.alarms i)
    else match Config.parseAlarm b with
      | none => reply s p stBadParameter []
      | some a =>
        if 60000 ≤ a.hold ∧ a.hold ≤ 86400000 then put (Tab.set s.sleep.alarms i a) else reply s p stBadParameter []) s)

/-- The counters of R422 by slot, unit and reason bit. -/
def holdersData (s : State) : Bytes :=
  (List.range 64).flatMap (fun v => (List.range 4).flatMap (fun u => (List.range 9).flatMap (fun k =>
    be 4 (Tab.getD s.sleep.holders (holderKey v (u + 1) k) 0))))

/-- OP HOLDERS_READ. -/
def execOpHoldersRead (p : Packet) (s : State) : Res :=
  .next (serve 0x0606 p (fun s =>
    if !s.set.lease then reply s p stNotLead [] else reply s p stDone (holdersData s)) s)

/-- OP HOLDERS_CLEAR. -/
def execOpHoldersClear (p : Packet) (s : State) : Res :=
  .next (serve 0x0607 p (fun s =>
    if !s.set.lease then reply s p stNotLead []
    else reply { s with sleep := { s.sleep with holders := [] } } p stDone []) s)

/-! ### Family 0x07 -/

/-- The latest control record of a unit: the own one as it would leave now, else the one received, else zeros. -/
def controlOf (s : State) (u : Nat) : Bytes :=
  if u = s.unitNo then fit (controlContent s) 32
  else match peerRec s u with | none => zeros 32 | some r => fit r.content 32

/-- OP PAIR_STATUS. -/
def execOpPairStatus (p : Packet) (s : State) : Res :=
  .next (serve 0x0701 p (fun s =>
    if !isPair s ∧ !isStack s then reply s p stNotApplicable []
    else reply s p stDone ((List.range (ownUnits s)).flatMap (fun u => controlOf s (u + 1)) ++
      be 4 (s.pair.grant.elim 0 (·.2)))) s)

/-- OP HANDOVER: an active unit begins to release; the switch is at cycle n + 2 (R392). -/
def execOpHandover (p : Packet) (s : State) : Res :=
  .next (serve 0x0702 p (fun s =>
    if !isPair s ∨ s.pair.role ≠ .active then reply s p stNotApplicable []
    else
      let ready := s.pair.segs.all (·.up) && (otherUnits s).any (fun u => ((freshRec s u).map PeerRec.mirrorCurrent).getD false)
      if !ready then reply s p stBusy []
      else reply { s with pair := { s.pair with releasing := true } } p stDone (be 4 (cycAdd s.cyc.n 2))) s)

/-- A train-line session of a unit at position 1. -/
def fromPositionOne (s : State) : Session → Bool
  | .line c => (slotEntry s (channelSlot c)).any (fun e => e.pos == 1)
  | _ => false

/-- OP ROLE_GRANT (R389). -/
def execOpRoleGrant (p : Packet) (s : State) : Res :=
  .next (serve 0x0703 p (fun s =>
    let u := pkNum p tUnit 0
    if ownSlot s ≠ some (pkNum p tSlot 0) ∨ u < 1 ∨ 4 < u then reply s p stBadParameter []
    else if !fromPositionOne s p.sess ∨ (!isPair s ∧ !isStack s) then reply s p stNotApplicable []
    else reply (receiveGrant s u (pkNum p tCount 0)) p stDone []) s)

/-! ### Family 0x08 -/

/-- OP SAFE_STATUS_READ. -/
def execOpSafeStatusRead (p : Packet) (s : State) : Res :=
  .next (serve 0x0801 p (fun s => reply s p stDone
    (be 4 (safeStatus s) ++ (List.range 3).flatMap (fun k => be 4 ((s.safe.cores.getD k CoreSt.init).corrected)) ++
      be 4 s.safe.scratchResult)) s)

/-- OP MISMATCH_LOG: newest first. -/
def execOpMismatchLog (p : Packet) (s : State) : Res :=
  .next (serve 0x0802 p (fun s => reply s p stDone ((lastN 16 s.safe.log).reverse.flatMap Mismatch.bytes)) s)

/-- OP COMPLEX_RESET: counts and a failed core are cleared, and a full scratch test runs; its result word is the tag's
result (R338, R343, R349, R506). -/
def execOpComplexReset (p : Packet) (s : State) : Res :=
  .next (serve 0x0803 p (fun s =>
    match newTag s with
    | none => reply s p stBusy []
    | some t =>
      let s1 := noteSafe s (startScratch (clearCounts s))
      let s2 := holdTag s1 (blankTag t (initiatorOf s p.sess) .complexReset .waiting (s.clk + bridgeTimeout s))
      reply s2 p stRetry (be 2 t)) s)

/-- OP OUTPUT_FAULT_CLEAR (R366). -/
def execOpOutputFaultClear (p : Packet) (s : State) : Res :=
  .next (serve 0x0804 p (fun s =>
    let k := pkNum p tIndex 0
    if 8 < k then reply s p stBadParameter [] else reply (clearOutputFault s k) p stDone []) s)

/-- The worst case E of an equation table, ns (R359). -/
def eqWorst (b : Bytes) : Nat := ((List.range (eqCount b)).map (rowCost b)).sum

/-- OP EQUATION_STATUS: zeros without a table. -/
def execOpEquationStatus (p : Packet) (s : State) : Res :=
  .next (serve 0x0805 p (fun s => reply s p stDone (match s.safe.table with
    | none => zeros 20
    | some b => be 4 (field b 0 4) ++ be 4 (field b 4 4) ++ be 4 (field b 16 4) ++ be 2 (eqDomain b) ++ zeros 2 ++ be 4 (eqWorst b))) s)

end Sys2Proof.Machine
end

