-- ==== Sys2Proof/Machine/Start.lean ====
section
/-! DEFINITION. Start-up, resets, the supply and image trials (R441, R473, R489, R504 to R520). -/

namespace Sys2Proof.Machine

/-! ### Start-up (R504 to R508) -/

/-- Alarm entries that fell due while the unit was without supply do not fire: a repeating one moves on (R512). -/
def skipAlarms (s : State) : State :=
  let now := rtc s
  { s with sleep := { s.sleep with alarms := s.sleep.alarms.filterMap (fun p =>
      if now < p.2.time then some p
      else if p.2.repeats then some (p.1, { p.2 with time := p.2.time + ((now - p.2.time) / dayNs + 1) * dayNs })
      else none) } }

/-- POWER_ON_RESET, with UNIT_CODE_READ (R372, R504). A stopped converter starts with CONVERTER_RESTART instead. -/
def execPowerOnReset (upos : BitVec 3) (alarmLost : Bool) (s : State) : Res :=
  .next (if s.start.boot = .unpowered ∧ !s.start.overvoltStop ∧ !s.start.overtempStop then
    skipAlarms (powerOn s upos alarmLost) else s)

/-- A unit that may not be on the line: its relay sets close and the island has no links (R373, R508). -/
def offLine (s : State) : State := islandDown (closeRelays s)

/-- The configuration that the chosen bank holds comes into force, with its schedule table and what the choice of banks
logs. -/
def adoptConfig (s : State) (cfg : Option Cfg) (log : List (Nat × Bool)) : State :=
  { s with
    cfg := cfg
    img := { s.img with toLog := s.img.toLog ++ log }
    cyc := { s.cyc with table := match cfg with
      | none => none
      | some c => if c.schedule.isEmpty then none else some c.schedule }
    start := { s.start with boot := if s.line.islandAt.isSome then .island else .checked } }

/-- The unit takes its place: its role, and whether its place contradicts the configuration (R372). -/
def placeUnit (s : State) : State :=
  { s with
    unplaced := s.unplaced || (s.cfg.isSome && misplaced s)
    pair := { s.pair with role := restingRole s } }

/-- BANK_CHECK_COMPLETE: the boot ROM has chosen both banks. After a reset of causes 1 to 3 the island runs already. -/
def execBankCheckComplete (s : State) : Res :=
  .next (if s.start.boot ≠ .powered ∨ s.sleep.power ≠ .awake ∨ s.host.resetHeld ∨ s.start.parked then s
  else
    let fw := chooseBank s 8 0
    let s1 := setBanks s 8 fw.1
    if !fw.1.usable then
      let s2 := offLine s1
      { s2 with
        line := { s2.line with islandAt := none }
        start := { s2.start with boot := .checked } }
    else
      let cf := chooseBank s1 9 (imgVersion (fw.1.bank fw.1.running).image)
      let cfg := runningConfig cf.1
      let s2 := setBanks s1 9 { cf.1 with usable := cfg.isSome }
      let s3 := placeUnit (adoptConfig s2 cfg (fw.2 ++ cf.2))
      if cfg.isNone || s3.unplaced then offLine s3 else s3)

/-- The island begins to run, and line A's relay set opens where the unit has ports on it. -/
def startIsland (s : State) : State :=
  let s1 := { s with
    line := { s.line with islandAt := some s.clk }
    start := { s.start with boot := .island } }
  if assigned s1 .a1 || assigned s1 .a2 then openRelay s1 .a else s1

/-- A wake that the wake latch kept acts now, and is the start's source. -/
def takeWakeLatch (s : State) : State :=
  match s.sleep.latch with
  | none => s
  | some (wide, src) =>
    let s1 := if wide then drivePulses s none none else s
    { s1 with
      sleep := { s1.sleep with latch := none, latchedWake := true, source := src }
      start := { s1.start with startSource := src } }

/-- ISLAND_READY: the island runs and line A's relay set opens; a wake that was latched before a supply loss acts (R504,
R519). -/
def execIslandReady (s : State) : Res :=
  .next (if s.start.boot ≠ .checked ∨ !s.img.fw.usable ∨ s.sleep.power ≠ .awake then s
  else takeWakeLatch (startIsland s))

/-- The recorder's first records: the start, and the banks that were activated or restored (R443, R488, R507). -/
def logStart (s : State) : State :=
  let s1 := startRecorder s s.start.startSource
  let s2 := s1.img.toLog.foldl (fun s p => recordNow s 0x0B04 18 p.1 (be 1 (b2n p.2))) s1
  { s2 with
    img := { s2.img with toLog := [] }
    start := { s2.start with wasParked := false, alarmRestarted := false } }

/-- READY: the management side serves commands; the tables are in force; the recorder, the scratch test and the monitor
start (R373, R443, R494, R504 to R506). An unconfigured unit serves H and M only (R508). -/
def execReady (s : State) : Res :=
  .next (if s.start.boot ≠ .island ∨ s.sleep.power ≠ .awake ∨ s.host.resetHeld ∨ s.start.parked ∨ managing s then s
  else
    let s1 := raiseInt { s with
      host := { s.host with ready := true, booting := false }
      start := { s.start with boot := .running }
      img := { s.img with readyAt := some s.clk } } 12
    let s2 := match s1.cfg with | none => s1 | some c => loadTables s1 c
    let s3 := logStart s2
    let s4 := if s3.unplaced then report s3 0x0901 19 s3.upos [] else s3
    let s5 := if s4.safe.state = .halted then s4 else startScratch s4
    sendBanner (noteSafe s4 s5))

/-- NO_FIRMWARE_LINE: every 10 s at 115,200 baud while no firmware bank is usable (R508). -/
def execNoFirmwareLine (s : State) : Res :=
  .next (if s.start.boot = .checked ∧ !s.img.fw.usable ∧ s.start.noFirmwareAt.all (fun t => t + 10000000000 ≤ s.clk) then
    let s1 := printLine s "no firmware"
    { s1 with start := { s1.start with noFirmwareAt := some s.clk } }
  else s)

/-! ### Resets (R473, R509, R510) -/

/-- The management side may be reset: the unit is awake and its boot has begun. -/
def resettable (s : State) : Bool := decide (s.sleep.power = .awake) && decide (s.start.boot ≠ .unpowered)

/-- RESET_N_ASSERTED: in force until RESET_N_RELEASED; ends parking (R473, R510). -/
def execResetNAsserted (s : State) : Res :=
  .next (if !resettable s || s.host.resetHeld then s
  else
    let s1 := { s with
      host := { s.host with resetHeld := true }
      start := { s.start with wasParked := s.start.wasParked || s.start.parked, parked := false } }
    beginReset s1 1)

/-- RESET_N_RELEASED: high for 10 µs. -/
def execResetNReleased (s : State) : Res :=
  .next (if !s.host.resetHeld then s
  else { s with
    host := { s.host with resetHeld := false, booting := true }
    img := { s.img with releasedAt := s.clk } })

/-- MANAGEMENT_WATCHDOG_EXPIRY: cause 3; the fourth within 600 s with no image in trial parks the unit (R509, R510). -/
def execManagementWatchdogExpiry (s : State) : Res :=
  .next (if !resettable s || s.host.resetHeld || s.start.parked then s
  else
    let l := s.start.watchdogs.filter (fun t => s.clk < t + 600000000000) ++ [s.clk]
    let park := decide (4 ≤ l.length) && !inTrial s
    beginReset { s with start := { s.start with watchdogs := if park then [] else l, parked := park } } 3)

/-- RESET_COMMAND: 10 ms after the reply of an activation or rollback (R488). -/
def execResetCommand (s : State) : Res :=
  .next (match s.img.resetAt with
    | none => s
    | some t => if t ≤ s.clk then beginReset s 2 else s)

/-! ### Trials (R489) -/

/-- The running trial becomes active, the other bank only loaded, and the floor rises. -/
def Banks.confirm (b : Banks) : Banks :=
  let x := b.bank b.running
  let y := b.bank (1 - b.running)
  if x.state ≠ .trial then b
  else
    let b1 := (b.put b.running { x with state := .active }).put (1 - b.running)
      (if y.state = .active then { y with state := .loaded } else y)
    { b1 with floor := max b.floor (imgFloor x.image), trialStarts := 0 }

/-- The trial bank is rejected and the other one selected. -/
def Banks.fail (b : Banks) : Banks :=
  let x := b.bank b.running
  if x.state ≠ .trial then b
  else { (b.put b.running { x with state := .rejected }) with selected := 1 - b.running, trialStarts := 0 }

/-- What a failed trial is to log: the restored version, as a rollback. -/
def Banks.failLog (b : Banks) : List (Nat × Bool) :=
  if (b.bank b.running).state ≠ .trial then [] else [(imgVersion (b.bank (1 - b.running)).image, true)]

/-- TRIAL_CONFIRMED. -/
def execTrialConfirmed (s : State) : Res :=
  let held : Bool := match s.img.readyAt with
    | none => false
    | some t => decide (256 ≤ s.img.joinedRun) || (decide (s.set.state ≠ .committed) && decide (t + 60000000000 ≤ s.clk))
  .next (if inTrial s ∧ managing s ∧ !s.safe.scratchFail ∧ s.img.votedApplied ∧ held ∧ s.clk ≤ s.img.releasedAt + 120000000000 then
    { s with img := { s.img with fw := s.img.fw.confirm, cf := s.img.cf.confirm } }
  else s)

/-- TRIAL_TIMEOUT: 120 s without confirmation, or the complex halted: the node restarts on the other bank. -/
def execTrialTimeout (s : State) : Res :=
  .next (if inTrial s ∧ resettable s ∧ (s.img.releasedAt + 120000000000 ≤ s.clk ∨ s.safe.state = .halted) then
    beginReset { s with img := { s.img with
      fw := s.img.fw.fail, cf := s.img.cf.fail, toLog := s.img.toLog ++ s.img.fw.failLog ++ s.img.cf.failLog } } 2
  else s)

/-! ### Supply (R36, R441, R515 to R520) -/

/-- INTERNAL_SUPPLY_FAIL (R36). -/
def execInternalSupplyFail (s : State) : Res := .next (if s.sleep.power = .off then s else powerLost s)

/-- POWER_FAIL_WARNING: below 13.5 V; the recorder closes, the real-time alarm's count is saved (R441, R512, R516). -/
def execPowerFailWarning (supply : Nat) (s : State) : Res :=
  .next (if s.sleep.power = .off then s
  else
    let s1 := { s with start := { s.start with rtcSaved := rtc s } }
    if managing s1 then recordPowerFail s1 supply else s1)

/-- POWER_RESTORED (R441). -/
def execPowerRestored (s : State) : Res := .next (if managing s then recordPowerRestored s else s)

/-- HOLD_BUS_LOW: the hold-up bus at 20 V opens `SAFE_OFF` (R518). -/
def execHoldBusLow (s : State) : Res :=
  .next (if s.sleep.power = .off then s
  else
    let s1 := dropOutputs s
    { s1 with
      safe := { s1.safe with supplyOpen := true }
      start := { s1.start with holdLow := true } })

/-- SAFE_OFF_RECLOSE: 10 ms after the supply returned (R518). -/
def execSafeOffReclose (s : State) : Res :=
  .next (if !s.safe.supplyOpen then s
  else endCondition { s with
    safe := { s.safe with supplyOpen := false }
    start := { s.start with holdLow := false } })

/-- CONVERTER_OVERVOLTAGE_STOP: a loss of the internal supply (R515). -/
def execConverterOvervoltageStop (s : State) : Res :=
  let s1 := if s.sleep.power = .off then s else powerLost s
  .next { s1 with start := { s1.start with overvoltStop := true } }

/-- CONVERTER_OVERTEMP_STOP (R520). -/
def execConverterOvertempStop (s : State) : Res :=
  let s1 := if s.sleep.power = .off then s else powerLost s
  .next { s1 with start := { s1.start with overtempStop := true } }

/-- CONVERTER_RESTART: supply and converter temperature are back within limits; a power-on reset (R515, R520). -/
def execConverterRestart (upos : BitVec 3) (alarmLost : Bool) (s : State) : Res :=
  .next (if s.start.boot = .unpowered ∧ (s.start.overvoltStop ∨ s.start.overtempStop) then
    skipAlarms (powerOn { s with start := { s.start with overvoltStop := false, overtempStop := false } } upos alarmLost)
  else s)

/-- SUPPLY_WARN_SET: outside the continuous range for more than 1 s (R520). -/
def execSupplyWarnSet (s : State) : Res :=
  .next (match s.start.supplyOutSince with
    | none => s
    | some t => if t + 1000000000 < s.clk then { s with start := { s.start with supplyWarn := true } } else s)

/-- SUPPLY_WARN_CLEAR: inside for 10 s. -/
def execSupplyWarnClear (s : State) : Res :=
  .next (match s.start.supplyInSince with
    | none => s
    | some t => if t + 10000000000 ≤ s.clk then { s with start := { s.start with supplyWarn := false } } else s)

/-- TEMP_WARN_CHANGE: set above 70 °C, cleared below 67 °C; the temperature is in 0.1 °C (R520). -/
def execTempWarnChange (temp : Int) (s : State) : Res :=
  .next (if !managing s then s
  else { s with start := { s.start with
    temp := temp
    tempWarn := if 700 < temp then true else if temp < 670 then false else s.start.tempWarn } })

end Sys2Proof.Machine
end

