-- ==== Sys2Proof/Machine/OpsStore.lean ====
section
/-! DEFINITION. Opcodes of families 0x09 to 0x0C other than transfers: recorder, images and keys, vehicle and field ports,
channels (R277, R280, R291, R305, R432, R437, R439, R485 to R491, R548). -/

namespace Sys2Proof.Machine

/-! ### Family 0x09 -/

/-- The records of an area that a reader sees, staged ones included: 0 topcoat, 1 primer. -/
def areaRecords (s : State) (area : Nat) : List Record :=
  let staged := s.recorder.staging.map (·.record)
  if area = 0 then s.recorder.topcoat ++ staged
  else s.recorder.primer ++ (staged.filter Record.primer).take (primerCap - s.recorder.primer.length)

def oldestSeq (l : List Record) : Nat := (l.head?.map (·.seq)).getD 0
def newestSeq (l : List Record) : Nat := (l.getLast?.map (·.seq)).getD 0

/-- OP RECORDER_READ (R439). -/
def execOpRecorderRead (p : Packet) (s : State) : Res :=
  .next (serve 0x0901 p (fun s =>
    let area := pkNum p tArea 0
    let n := pkNum p tCount 0
    if 1 < area ∨ 16 < n ∨ n = 0 then reply s p stBadParameter []
    else
      let l := areaRecords s area
      let got := (l.filter (fun r => decide (pkNum p tSequence 0 ≤ r.seq))).take n
      reply s p stDone (be 8 (oldestSeq got) ++ be 8 (newestSeq l) ++ be 8 (oldestSeq l) ++ got.flatMap Record.bytes)) s)

/-- OP RECORDER_STATS: the live statistics of a code as the two summary records of R432 (R440). -/
def execOpRecorderStats (p : Packet) (s : State) : Res :=
  .next (serve 0x0902 p (fun s =>
    let c := pkNum p tCode 0
    if (codeClass c).isNone then reply s p stBadParameter []
    else
      let q := summaryParts c (codeStat s c)
      reply s p stDone ((selfRecord s c 16 0 q.1).bytes ++ (selfRecord s c 48 0 q.2).bytes)) s)

/-- OP RECORDER_STATUS. -/
def execOpRecorderStatus (p : Packet) (s : State) : Res :=
  .next (serve 0x0903 p (fun s =>
    let t := areaRecords s 0
    let q := areaRecords s 1
    reply s p stDone (be 8 (newestSeq t) ++ be 8 (oldestSeq t) ++ be 8 (newestSeq q) ++ be 8 (oldestSeq q) ++
      be 1 (b2n (decide (primerCap ≤ s.recorder.primer.length)) + 2 * b2n s.recorder.degraded) ++ zeros 3 ++
      be 4 s.recorder.dropCount)) s)

/-! ### Family 0x0A -/

def bankCode : BankState → Nat
  | .empty => 0 | .writing => 1 | .loaded => 2 | .active => 3 | .trial => 4 | .rejected => 5

def bankEntry (kind : Nat) (b : Bank) : Bytes :=
  be 1 kind ++ be 4 (if b.image.isEmpty then 0 else imgVersion b.image) ++ be 1 (bankCode b.state)

/-- OP IMAGE_STATUS: the two firmware banks, then the two configuration banks. -/
def execOpImageStatus (p : Packet) (s : State) : Res :=
  .next (serve 0x0A01 p (fun s => reply s p stDone
    (bankEntry 8 s.img.fw.b0 ++ bankEntry 8 s.img.fw.b1 ++ bankEntry 9 s.img.cf.b0 ++ bankEntry 9 s.img.cf.b1)) s)

def spareBank (b : Banks) : Bank := b.bank (1 - b.running)

/-- The firmware that the configuration will run with has the version that it asks for (R488). -/
def minFwOk (s : State) (kind : Nat) : Bool :=
  if kind = 9 then imgMinFw (spareBank s.img.cf).image ≤ imgVersion (s.img.fw.bank s.img.fw.selected).image
  else !s.img.cf.usable || imgMinFw (s.img.cf.bank s.img.cf.selected).image ≤ imgVersion (spareBank s.img.fw).image

/-- The bank that is not running is selected, with a reset to come in modes 1 and 2. -/
def selectSpare (s : State) (p : Packet) (kind : Nat) : State :=
  let mode := pkNum p tMode 0
  if mode = 1 ∧ (s.set.lease ∨ s.sleep.announced ≠ 0) then reply s p stBusy []
  else
    let b := banksOf s kind
    let s1 := setBanks s kind { b with selected := 1 - b.running }
    let s2 := if mode = 0 then s1 else { s1 with img := { s1.img with resetAt := some (s.clk + 10000000) } }
    reply s2 p stDone []

/-- `KIND` and `MODE` of an activation or rollback. -/
def modeOk (p : Packet) : Bool := isImage (pkNum p tKind 0) && pkNum p tMode 0 ≤ 2

/-- OP IMAGE_ACTIVATE (R488). -/
def execOpImageActivate (p : Packet) (s : State) : Res :=
  .next (serve 0x0A13 p (fun s =>
    let kind := pkNum p tKind 0
    if !modeOk p then reply s p stBadParameter []
    else if (spareBank (banksOf s kind)).state ≠ .loaded ∨ !minFwOk s kind then reply s p stBadParameter (refusalData (8, 0))
    else selectSpare s p kind) s)

/-- OP IMAGE_ROLLBACK (R490). -/
def execOpImageRollback (p : Packet) (s : State) : Res :=
  .next (serve 0x0A14 p (fun s =>
    let kind := pkNum p tKind 0
    let b := banksOf s kind
    let x := spareBank b
    if !modeOk p then reply s p stBadParameter []
    else if x.state ≠ .loaded ∨ imgVersion x.image < b.floor ∨ (keyFor s kind (imgKeyId x.image)).isNone then reply s p stBadParameter []
    else selectSpare s p kind) s)

/-- A key is enrolled: a configuration bank that is not running and was signed under another key is rejected. -/
def enrolKey (s : State) (key : Bytes) (id : Nat) : State :=
  report (rejectLost { s with img := { s.img with key := some (key, id) } }) 0x0B05 18 0x0A (be 4 id)

/-- Mode 1 erases both configuration banks. -/
def eraseConfigs (s : State) : State :=
  { s with img := { s.img with cf := { s.img.cf with b0 := Bank.blank, b1 := Bank.blank } } }

/-- OP KEY_ENROL (R491). -/
def execOpKeyEnrol (p : Packet) (s : State) : Res :=
  .next (serve 0x0A15 p (fun s =>
    let b := (pkItem p tData).getD []
    let mode := pkNum p tMode 0
    let key := b.take 32
    let id := field b 32 4
    if b.length ≠ 100 ∨ 1 < mode then reply s p stBadParameter []
    else if mode = 1 then
      (if !s.pres.sealOpen then reply s p stSealIntact [] else reply (eraseConfigs (enrolKey s key id)) p stDone [])
    else match s.img.key with
      | none => reply (enrolKey s key id) p stDone []
      | some (old, _) =>
        if Config.ed25519 old (b.take 36) (bslice b 36 64) then reply (enrolKey s key id) p stDone []
        else reply s p stBadParameter []) s)

/-! ### Family 0x0B -/

/-- The port number of a request in a group, if it lies within 1 to `n`. -/
def portIn (p : Packet) (group n : Nat) : Option Nat :=
  let v := pkNum p tPort 0
  if v / 256 = group ∧ 1 ≤ v % 256 ∧ v % 256 ≤ n then some (v % 256) else none

/-- `VPORT_LINK` as it reads: `ADMIN_UP` shows that the configuration image enables the port (R261). -/
def vportLink (s : State) (v : Nat) : Word32 := setBit (vport s v).link 8 (vportCfg s v).enabled

/-- A read of `VPORT_LINK` clears its count of link-down events (R261). -/
def readVportLink (s : State) (v : Nat) : State × Nat :=
  let w := vportLink s v
  (setVport s v (fun q => { q with link := q.link &&& 0xFF00FFFF }), w.toNat)

/-- OP VPORT_STATUS. -/
def execOpVportStatus (p : Packet) (s : State) : Res :=
  .next (serve 0x0B01 p (fun s =>
    match portIn p 1 16 with
    | none => reply s p stBadParameter []
    | some v =>
      let (s1, w) := readVportLink s v
      reply s1 p stDone (be 4 (vport s v).status.toNat ++ be 4 w)) s)

/-- OP CHANNEL_READ. -/
def execOpChannelRead (p : Packet) (s : State) : Res :=
  .next (serve 0x0B02 p (fun s =>
    let i := pkNum p tIndex 0
    if 511 < i then reply s p stBadParameter []
    else reply s p stDone (fit (chanSt s i).entry 32 ++ be 1 (chCode (chanSt s i).state))) s)

/-- OP CHANNEL_WRITE: the channel's accesses end, and it begins anew with its entry (R280). An entry with which the due
channels' activations would exceed 25 % of C is refused (R320; log entry 192). -/
def execOpChannelWrite (p : Packet) (s : State) : Res :=
  .next (serve 0x0B03 p (fun s =>
    let i := pkNum p tIndex 0
    let e := (pkItem p tData).getD []
    if 511 < i ∨ !channelEntryOk s (net s) (i, e) ∨ !profileBudgetOk (setChan s i (ChanSt.init e)) (profilesAhead s) then reply s p stBadParameter []
    else
      let s1 := failChannel s i (2 * 2 ^ 24 + chCode (if field e 0 1 % 2 = 1 then .resolving else .disabled))
      reply (beginChannel s1 i e) p stDone []) s)

/-! ### Family 0x0C -/

/-- The register block number of a field port that the far-bus locks use: S1 to S6 as 1 to 6, C1 to C4 as 9 to 12. -/
def lockNo (k : Nat) : Nat := if k ≤ 6 then k else k + 2

/-- `FIELD_PORT_STATE` of port k, 1 to 10 (R291). -/
def fieldState (s : State) (k : Nat) : Nat :=
  let locked := 64 * b2n (portLocked s (lockNo k))
  if k ≤ 6 then
    (sportCfg s k).mode + 32 * b2n (sport s k).lineB + locked + 128 * b2n (floatOf s (portFloat k)).stoppedAt.isSome
  else
    let c := canPort s (k - 6)
    4 * b2n (canCfg s (k - 6)).enabled + 8 * c.state + locked + 2 ^ 8 * min 255 c.tec + 2 ^ 16 * min 255 c.rec_ + 2 ^ 24 * c.busOff

/-- A read of `FIELD_PORT_STATE` clears its count of bus-off events. -/
def readFieldState (s : State) (k : Nat) : State × Nat :=
  let s := if k ≤ 6 then s else readCounters s (k - 6)
  (if k ≤ 6 then s else setCan s (k - 6) (fun c => { c with busOff := 0 }), fieldState s k)

/-- A field port's status and counters; the link of an MVB port is that of the moment (R290). -/
def fieldPort (s : State) (k : Nat) : FPort :=
  if 6 < k then (canPort s (k - 6)).port
  else if mvbMode s k then (sport s k).port.setUp (mvbUp s k) else (sport s k).port

/-- OP FIELD_STATUS. -/
def execOpFieldStatus (p : Packet) (s : State) : Res :=
  .next (serve 0x0C01 p (fun s =>
    match portIn p 2 10 with
    | none => reply s p stBadParameter []
    | some k =>
      let (s1, w) := readFieldState s k
      reply s1 p stDone (be 4 (fieldPort s k).status.toNat ++ be 4 w)) s)

def nodeCode (s : State) (c node : Nat) : Nat :=
  if (canNode s c node).isNone then 0
  else match (nodeSt s c node).phase with
    | .operational => 2 | .missing => 3 | _ => 1

/-- OP CANOPEN_NODES. -/
def execOpCanopenNodes (p : Packet) (s : State) : Res :=
  .next (serve 0x0C02 p (fun s =>
    match portIn p 2 10 with
    | none => reply s p stBadParameter []
    | some k =>
      if k ≤ 6 then reply s p stBadParameter []
      else reply s p stDone ((List.range 127).flatMap (fun n => be 1 (nodeCode s (k - 6) (n + 1))))) s)

end Sys2Proof.Machine
end

