-- ==== Sys2Proof/Machine/HostRegs.lean ====
section
/-! DEFINITION. The registers and windows of the host port: what a read returns and does, what a write does (R9, R61, R261,
R291, R347, R378, R420, R464 to R474). -/

namespace Sys2Proof.Machine

/-- The host port is accessible: supplied, awake, and not held in reset (R474). -/
def hostUp (s : State) : Bool :=
  s.start.boot != .unpowered && s.sleep.power == .awake && !s.host.resetHeld

/-- A framing event (R465). -/
def frameErr (s : State) : State := raiseInt s 11

/-! ### Status registers, 0x01_0000 to 0x01_FFFF (R466, R467) -/

/-- The place of an address in a block of `n` words. -/
def wordIn (base n a : Nat) : Option Nat :=
  if base ≤ a ∧ a < base + 4 * n ∧ a % 4 = 0 then some ((a - base) / 4) else none

/-- A register of the status window. -/
inductive StatusReg where
  | line (p : LinePort)
  | peer (k : Nat)
  | vehicle (v : Nat)
  | vehicleLink (v : Nat)
  | field (k : Nat)
  | fieldState (k : Nat)
  | safe
  | wake
deriving DecidableEq, Repr

/-- The register at an address; none where nothing is mapped. -/
def statusReg (a : Nat) : Option StatusReg :=
  match wordIn 0x010000 4 a, wordIn 0x010010 2 a, wordIn 0x010100 16 a, wordIn 0x010200 16 a with
  | some k, _, _, _ => some (.line (allPorts.getD k .a1))
  | _, some k, _, _ => some (.peer k)
  | _, _, some k, _ => some (.vehicle (k + 1))
  | _, _, _, some k => some (.vehicleLink (k + 1))
  | none, none, none, none =>
    match wordIn 0x010300 10 a, wordIn 0x010400 10 a with
    | some k, _ => some (.field (k + 1))
    | _, some k => some (.fieldState (k + 1))
    | none, none => if a = 0x010500 then some .safe else if a = 0x010504 then some .wake else none

def peerSeg (s : State) (k : Nat) : PeerSeg := s.pair.segs.getD k PeerSeg.init

/-- Whether a port's wake wire is asserted is not known: its end has no row, from the qualification of a pulse until it would
be stuck, and from stuck until it is released (R61, R408; log entry 166). -/
def wakeOpen (s : State) (p : LinePort) : Bool :=
  let w := s.sleep.wires.get p
  w.driven.isNone &&
    (w.stuck || (match w.heard with | none => false | some t => decide (t < s.clk) && decide (s.clk < t + 199000000)))

/-- A port's wake wire is asserted: driven by this unit, at the instant at which a pulse qualifies, and else, where the level
is not known, by a free bit (R61, R408; log entry 166). -/
def wakeIn (s : State) (p : LinePort) : Bool :=
  let w := s.sleep.wires.get p
  w.driven.isSome || decide (w.heard = some s.clk) || (wakeOpen s p && Config.freeBit s.freeCount)

/-- A read of a status register: its RC fields clear (R9). -/
def readStatus (s : State) (r : StatusReg) : State × Nat :=
  match r with
  | .line p => (if wakeOpen s p then tookFree s 1 else s, (setBit (s.line.ports.get p).status 21 (wakeIn s p)).toNat)
  | .peer k => (s, (peerSeg s k).status.toNat)
  | .vehicle v => (s, (vport s v).status.toNat)
  | .vehicleLink v => readVportLink s v
  | .field k => (s, (fieldPort s k).status.toNat)
  | .fieldState k => readFieldState s k
  | .safe => (s, safeStatus s)
  | .wake => readWakeStatus s

/-- The W1C bits 0 to 7 of a `PORT_STATUS` register cleared by a write of ones (R61). -/
def clearStatus (status w : Word32) : Word32 := status &&& ~~~(w &&& 0xFF)

/-- A field port's record changed. -/
def setFieldPort (s : State) (k : Nat) (f : FPort → FPort) : State :=
  if k ≤ 6 then setSport s k (fun q => { q with port := f q.port }) else setCan s (k - 6) (fun q => { q with port := f q.port })

/-- A write to a status register reaches its W1C bits only (R9, R466). -/
def writeStatus (s : State) (r : StatusReg) (w : Word32) : State :=
  match r with
  | .line p => { s with line := { s.line with ports := s.line.ports.adj p (fun q => { q with status := clearStatus q.status w }) } }
  | .peer k => { s with pair := { s.pair with
      segs := s.pair.segs.set k { peerSeg s k with status := clearStatus (peerSeg s k).status w } } }
  | .vehicle v => setVport s v (fun q => { q with status := clearStatus q.status w })
  | .vehicleLink v => if w.getLsbD 7 then setVport s v (fun q => { q with link := setBit q.link 7 false }) else s
  | .field k => setFieldPort s k (fun q => { q with status := clearStatus q.status w })
  | .fieldState _ => s
  | .safe => { s with safe := { s.safe with
      compFaultBit := s.safe.compFaultBit && !w.getLsbD 20, replayMismatch := s.safe.replayMismatch && !w.getLsbD 22 } }
  | .wake => { s with sleep := { s.sleep with latchedWake := s.sleep.latchedWake && !w.getLsbD 7 } }

/-! ### The host ring (R283, R467) -/

def hostRing (s : State) : Option Ring := Tab.get? s.veh.rings 2

/-- A word of the host ring's control block, in the order of R467. -/
def ringControl (r : Ring) (k : Nat) : Nat :=
  match k with
  | 0 => r.size | 1 => r.writeIx | 2 => r.readIx | 3 => r.written | 4 => r.dropped | _ => b2n r.starved

/-- A word of the ring's descriptors or buffers; none outside them. -/
def ringWord (r : Ring) (a : Nat) : Option Nat :=
  match wordIn 0x400000 6 a, wordIn 0x400020 (4 * r.size) a, wordIn 0x500000 (64 * r.size) a with
  | some k, _, _ => some (ringControl r k)
  | _, some k, _ => some (field (descAt r (k / 4)) (4 * (k % 4)) 4)
  | _, _, some k => some (field (Tab.getD r.bufs (k / 64) []) (4 * (k % 64)) 4)
  | none, none, none => none

/-- The host writes the ring's read index. -/
def writeReadIndex (s : State) (w : Word32) : State :=
  match hostRing s with
  | none => s
  | some r => setRing s 2 { r with readIx := w.toNat }

/-- A write to a descriptor changes only `OWN`; staged frames whose descriptors now fit are written (R284). -/
def writeOwn (s : State) (r : Ring) (k : Nat) (w : Word32) : State :=
  let d := splice (descAt r k) 6 [setBit ((descAt r k).getD 6 0) 7 (w.getLsbD 15)]
  unstage 2 s.veh.staging.length (setRing s 2 { r with descs := Tab.set r.descs k d })

/-- A write to the host ring. Its counts, its write index and its buffers are read-only. -/
def writeRingWord (s : State) (r : Ring) (a : Nat) (w : Word32) : State :=
  if a = 0x400008 then writeReadIndex s w
  else if a = 0x400014 then (if w.getLsbD 0 then setRing s 2 { r with starved := false } else s)
  else match wordIn 0x400020 (4 * r.size) a with
    | some k => if k % 4 = 1 then writeOwn s r (k / 4) w else s
    | none => frameErr s

/-! ### Control registers and windows (R467 to R472) -/

/-- `HOST_STATUS` (R468). -/
def hostStatus (s : State) : Nat :=
  b2n s.host.ready + 2 * b2n s.host.booting + 4 * b2n s.host.cmdFull + 8 * b2n s.host.replyHeld +
    16 * timebaseCode s.time.base + 64 * safeCode s.safe.state + 1024 * b2n s.set.lease + 65536 * (skimNow s % 65536)

/-- Reading `TRAIN_TIME_HI` latches `TRAIN_TIME_LO` from the same instant. -/
def readTrainTime (s : State) : State × Nat :=
  ({ s with host := { s.host with trainTimeLo := time64 s.time.now % 4294967296 } }, time64 s.time.now / 4294967296)

/-- A word of the command or reply window. -/
def windowWord (s : State) (a : Nat) : Option Nat :=
  match wordIn 0x1000 4100 a, wordIn 0x8000 4100 a with
  | some k, _ => some (beNat (Mem.readN s.host.cmdWin (4 * k) 4))
  | _, some k => some (beNat (Mem.readN s.host.replyWin (4 * k) 4))
  | none, none => none

/-- A read of one word. An unmapped address reads as zero, with `FRAME_ERR` (R465). -/
def hostRead (s : State) (a : Nat) : State × Nat :=
  match a with
  | 0x00 => (s, 0x0860 * 65536 + s.hwIssue % 256 * 256 + 1)
  | 0x04 => (s, hostStatus s)
  | 0x08 => (s, s.host.intStatus.toNat)
  | 0x0C => (s, s.host.intMask.toNat)
  | 0x10 => (s, s.host.cmdLength)
  | 0x14 => (s, if s.host.replyHeld then s.host.replyLength else 0)
  | 0x18 => (s, s.host.resetCause)
  | 0x1C => (s, skimNow s)
  | 0x20 => readTrainTime s
  | 0x24 => (s, s.host.trainTimeLo)
  | _ =>
    match windowWord s a, statusReg a, (hostRing s).bind (fun r => ringWord r a) with
    | some w, _, _ => (s, w)
    | _, some r, _ => readStatus s r
    | _, _, some w => (s, w)
    | none, none, none => (frameErr s, 0)

/-- The packet in the command window, of the length submitted with it (R470). -/
def windowPacket (s : State) : Bytes :=
  Mem.readN s.host.cmdWin 0 (min s.host.goLength 16400) ++ zeros (s.host.goLength - 16400)

/-- The node takes the packet that waits, unless the queue of 8 replies is full, and frees the window (R470, R471). -/
def takeCommand (s : State) : State :=
  if s.host.cmdFull ∧ s.host.replyQueue.length < 8 then
    let s1 := acceptBytes s .host 0 false (windowPacket s)
    raiseInt { s1 with host := { s1.host with cmdFull := false } } 1
  else s

/-- A write of `CMD_CTRL`: `CMD_LENGTH` takes its value (R9); `GO` submits the packet, and is ignored while the window is
full or firmware does not serve it (R469, R470, R474). -/
def writeCmdCtrl (s : State) (w : Word32) : State :=
  let s1 := { s with host := { s.host with cmdLength := w.toNat % 65536 } }
  if !w.getLsbD 31 then s1
  else if s.host.cmdFull || !s.host.ready then frameErr s1
  else takeCommand { s1 with host := { s1.host with cmdFull := true, goLength := s1.host.cmdLength } }

/-- The reply window is released: `REPLY_READY` clears, and the next queued reply is placed at once, or a packet that
waited for the queue is taken (R471). -/
def releaseReply (s : State) : State :=
  let s1 := { s with host := { s.host with
    replyHeld := false, replyLength := 0, intStatus := setBit s.host.intStatus 0 false } }
  match s1.host.replyQueue with
  | [] => takeCommand s1
  | r :: rest => takeCommand (placeReply { s1 with host := { s1.host with replyQueue := rest } } r)

/-- A write of `REPLY_CTRL`. -/
def writeReplyCtrl (s : State) (w : Word32) : State := if w.getLsbD 31 then releaseReply s else s

/-- A write of `INT_STATUS` clears the bits written 1; an event of the same clock stands behind it in the queue (R10; log entry
171). -/
def writeIntStatus (s : State) (w : Word32) : State :=
  { s with host := { s.host with intStatus := s.host.intStatus &&& ~~~(w &&& 0x1FFF) } }

def writeIntMask (s : State) (w : Word32) : State := { s with host := { s.host with intMask := w &&& 0x1FFF } }

/-- `IRQ_N` is driven low (R472). -/
def irqLow (s : State) : Bool := hostUp s && (s.host.intStatus &&& s.host.intMask) != 0

/-- A write to the command window: ignored while it is full (R465). -/
def writeCmdWin (s : State) (k : Nat) (w : Word32) : State :=
  if s.host.cmdFull then frameErr s
  else { s with host := { s.host with cmdWin := Mem.writeN s.host.cmdWin (4 * k) (be 4 w.toNat) } }

/-- A write of one word. A write to a register or window without a writable field, or to an unmapped address, is ignored
with `FRAME_ERR` (R465, R466). -/
def hostWrite (s : State) (a : Nat) (w : Word32) : State :=
  match a with
  | 0x08 => writeIntStatus s w
  | 0x0C => writeIntMask s w
  | 0x10 => writeCmdCtrl s w
  | 0x14 => writeReplyCtrl s w
  | _ =>
    match wordIn 0x1000 4100 a, statusReg a, hostRing s with
    | some k, _, _ => writeCmdWin s k w
    | _, some (.fieldState _), _ => frameErr s
    | _, some r, _ => writeStatus s r w
    | _, _, some r => writeRingWord s r a w
    | none, none, none => frameErr s

end Sys2Proof.Machine
end

