-- ==== Sys2Proof/Machine/HostPort.lean ====
section
/-! DEFINITION. The rows of the host port (spec file 18). -/

namespace Sys2Proof.Machine

/-- An access acts while the host port is accessible (R474). -/
def hostAccess (s : State) (act : State → State) : State := if hostUp s then act s else s

/-- A read of one word, which leaves on `HOST_MISO`. -/
def hostReadOut (s : State) (a : Nat) : State :=
  let (s1, w) := hostRead s a
  emit s1 [Out.host [BitVec.ofNat 32 w]]

/-- CMD_CTRL_WRITE (R469, R470). -/
def execCmdCtrlWrite (w : Word32) (s : State) : Res := .next (hostAccess s (fun s => writeCmdCtrl s w))

/-- REPLY_CTRL_WRITE (R469, R471). -/
def execReplyCtrlWrite (w : Word32) (s : State) : Res := .next (hostAccess s (fun s => writeReplyCtrl s w))

/-- INT_STATUS_WRITE (R472). -/
def execIntStatusWrite (w : Word32) (s : State) : Res := .next (hostAccess s (fun s => writeIntStatus s w))

/-- INT_MASK_WRITE (R472). -/
def execIntMaskWrite (w : Word32) (s : State) : Res := .next (hostAccess s (fun s => writeIntMask s w))

/-- TRAIN_TIME_HI_READ (R467). -/
def execTrainTimeHiRead (s : State) : Res := .next (hostAccess s (fun s => hostReadOut s 0x20))

/-- RC_FIELD_READ (R9, R465): the field clears once its word has been shifted out. -/
def execRcFieldRead (address : Nat) (s : State) : Res := .next (hostAccess s (fun s => hostReadOut s address))

/-- W1C_BIT_WRITE (R9). -/
def execW1cBitWrite (address : Nat) (w : Word32) (s : State) : Res := .next (hostAccess s (fun s => hostWrite s address w))

/-- HOST_RING_READ_INDEX_WRITE (R467). -/
def execHostRingReadIndexWrite (w : Word32) (s : State) : Res := .next (hostAccess s (fun s => writeReadIndex s w))

/-- A command word that makes its transaction void (R464, R465). -/
def voidCommand (command : Word32) : Bool := bits command.toNat 30 24 != 0 || command.toNat % 4 != 0

/-- Words written from an address on. -/
def hostWrites : State → Nat → List Word32 → State
  | s, _, [] => s
  | s, a, w :: ws => hostWrites (hostWrite s a w) (a + 4) ws

/-- Words read from an address on. -/
def hostReads : State → Nat → Nat → State × List Word32
  | s, _, 0 => (s, [])
  | s, a, k + 1 =>
    let (s1, w) := hostRead s a
    let (s2, ws) := hostReads s1 (a + 4) k
    (s2, BitVec.ofNat 32 w :: ws)

/-- HOST_REGISTER_WRITE: a transaction of the words that follow its command word on `HOST_MOSI` (R464, R465). In a read
the first of them returns zero. A transaction that ends within a word sets `FRAME_ERR`; its whole words stand. -/
def execHostRegisterWrite (command : Word32) (words : List Word32) (partialWord : Bool) (s : State) : Res :=
  .next (hostAccess s (fun s =>
    let a := command.toNat % 16777216
    let s1 :=
      if voidCommand command then frameErr s
      else if command.getLsbD 31 then hostWrites s a words
      else
        let (s2, ws) := hostReads s a (words.length - 1)
        emit s2 [Out.host (if words.isEmpty then [] else 0 :: ws)]
    if partialWord then frameErr s1 else s1))

end Sys2Proof.Machine
end

