-- ==== Sys2Proof/Machine/OpsBridge.lean ====
section
/-! DEFINITION. Opcodes of family 0x0D: posted writes, reads, retries, locked sequences, semaphores, endpoints, the error
log and remote commands (R225 to R257, R458, R459). -/

namespace Sys2Proof.Config

/-- The planned bus time, in ns, of the accesses of a locked sequence, which is not stated (R247; log entry 73). -/
opaque plannedBusTime : List (Bytes × Bool) → Nat

end Sys2Proof.Config

namespace Sys2Proof.Machine

/-- The status with which an ACCESS route is refused (R204, R227): flag 1 for a read, 2 for a write. -/
def routeRefusal (s : State) (i flag : Nat) : Option Nat :=
  let e := entryAt s i
  if rEmpty e || !rEnabled e then some stRouteMissing
  else if rDir e ≠ 3 ∨ !rFlag e flag then some stBadParameter
  else if rDomain e = 8 ∧ !slotPresent s (rAddr e 0 1) then some stRouteMissing
  else none

/-- Room for a message of a source channel (R257). -/
def channelRoom (s : State) (who : Nat) : Bool := (s.bridge.queue.filter (fun m => m.source == who)).length < 256

/-! ### Posted writes (R233) -/

/-- A posted write to a route of this node's table. -/
def postRoute (s : State) (p : Packet) (i : Nat) : State :=
  match routeRefusal s i 2 with
  | some st => reply s p st []
  | none =>
    let e := entryAt s i
    let t := rSignal e % 16
    let v := typedValue t (valueItem p)
    if rDomain e = 8 then postMessage s p (rAddr e 0 1) 0 1 t (farIndex e) (wireValue t v).toNat i
    else match newTag s with
      | none => reply s p stBusy []
      | some tag =>
        if 4096 ≤ postedQueued s then reply s p stBusy []
        else
          let who := initiatorOf s p.sess
          let until_ := s.clk + bridgeTimeout s
          let s1 := reply (holdTag s { blankTag tag who .postedWrite .waiting until_ with target := i }) p stPosted (be 2 tag)
          match accessRefusal s1 i t true 1 with
          | some (st, d) => (match findTag s1 tag with | some x => failWrite s1 x st 0 d | none => s1)
          | none => enqueueFar s1 (accessTxn s1 i who tag true (some (v, t)) until_ 1)

/-- OP POSTED_WRITE. A signal of the own slot is not written this way (R227). -/
def execOpPostedWrite (p : Packet) (s : State) : Res :=
  .next (serve 0x0D01 p (fun s => atComposing s p (fun s =>
    if (pkItem p tRoute).isSome then postRoute s p (pkNum p tRoute 0)
    else match oneId p with
      | none => reply s p stBadParameter []
      | some id =>
        if ownSlot s = some (sigSlot id) ∨ isNodeSignal id then reply s p stBadParameter []
        else postSignal s p id)) s)

/-! ### Reads (R239, R240) -/

/-- A read request of a remote-vehicle route, with the initiator's class (R226, R228). -/
def readRequest (e : Bytes) (slot cls ms : Nat) : Bytes :=
  be 2 (slot * 1024) ++ zeros 2 ++ be 1 0 ++ be 1 (rSignal e % 16) ++ be 2 ms ++ be 4 (farIndex e) ++ be 1 (min cls 1) ++ zeros 3

/-- OP READ. -/
def execOpRead (p : Packet) (s : State) : Res :=
  .next (serve 0x0D02 p (fun s => atComposing s p (fun s =>
    let i := pkNum p tRoute 0
    match routeRefusal s i 1, newTag s with
    | some st, _ => reply s p st []
    | none, none => reply s p stBusy []
    | none, some tag =>
      let e := entryAt s i
      let who := initiatorOf s p.sess
      let until_ := s.clk + bridgeTimeout s
      if rDomain e = 8 then
        if !channelRoom s who then reply s p stBusy []
        else
          let slot := rAddr e 0 1
          let s1 := holdTag s { blankTag tag who .read .queued until_ with target := i, targetKind := 1, slot := some slot, typ := rSignal e % 16 }
          let s2 := queueMsg s1
            { source := who, destSlot := slot, destUnit := 0, kind := 2, tag := tag
              bodies := [readRequest e slot p.cls (bridgeTimeout s / 1000000)], notBefore := none, deadline := some until_ }
          reply s2 p stRetry (be 2 tag)
      else
        let s1 := reply (holdTag s { blankTag tag who .read .waiting until_ with target := i, typ := rSignal e % 16 }) p stRetry (be 2 tag)
        match readAhead s1 i with
        | some r => holdResult s1 tag stDone (be 4 0) (fun t => { t with value := r.value, farRoute := i, owner := rNotify e })
        | none => enqueueFar s1 (accessTxn s1 i who tag true none until_ (min p.cls 1)))) s)

/-! ### Retries (R240) -/

/-- The data of a held result: value, type and far detail of a read; the reply data of any other transaction. -/
def resultData (x : TagSt) : Bytes :=
  match x.kind with
  | .read => if x.status = stDone then be 16 x.value.toNat ++ be 1 x.typ ++ fit x.data 4 else []
  | .transfer => x.data
  | _ => if x.status = stDone then x.data else []

/-- The tag has a result that a retry collects: not a posted write, nor the node's own fetch of the lead's table. -/
def collectable (x : TagSt) : Bool := x.kind != .postedWrite && x.kind != .fetch

/-- OP RETRY. -/
def execOpRetry (p : Packet) (s : State) : Res :=
  .next (serve 0x0D03 p (fun s =>
    let t := pkNum p tTag 0
    match s.bridge.tags.find? (fun x => x.tag == t && x.initiator == initiatorOf s p.sess && collectable x) with
    | some x =>
      if x.state = .held then
        reply (updateTag s t (fun y => { y with collected := true })) p x.status (resultData x)
      else reply s p stRetry (be 2 t)
    | none => atComposing s p (fun s => reply s p stBadParameter [])) s)

/-! ### Locked sequences (R247) -/

/-- The routes that a locked sequence names, in the order named, and its values. -/
def sequenceRoutes (p : Packet) : List Nat := (p.items.filter (fun t => t.tag == tRoute)).map (fun t => field t.val 0 4)
def sequenceValues (p : Packet) : List Nat := (p.items.filter (fun t => t.tag == tValue)).map (fun t => field t.val 0 16)

/-- A route that can only be written, and one that can be written or read. -/
def onlyWritable (e : Bytes) : Bool := rFlag e 2 && !rFlag e 1
def bothWays (e : Bytes) : Bool := rFlag e 2 && rFlag e 1

/-- The accesses of a sequence: a route that can be read and written is written while values are left for it (log
entry 72). `spare` is the number of values beyond those of the routes that can only be written. -/
def pairValues (s : State) : List Nat → Nat → List Nat → List (Nat × Bytes × Option Val)
  | [], _, _ => []
  | i :: is, spare, vs =>
    let e := entryAt s i
    let write : Bool := onlyWritable e || (bothWays e && decide (0 < spare))
    match write, vs with
    | true, v :: vs' =>
      (i, e, some (typedValue (rSignal e % 16) v)) :: pairValues s is (if bothWays e then spare - 1 else spare) vs'
    | _, _ => (i, e, none) :: pairValues s is spare vs

/-- A level 3 port's route: CANopen objects, or a serial selector. -/
def onFarBus (e : Bytes) : Bool := rDomain e == 6 || (rDomain e == 7 && rAddr e 0 1 != 0)

/-- The status with which a sequence is refused. -/
def sequenceRefusal (s : State) (p : Packet) : Option Nat :=
  let is := sequenceRoutes p
  let es := is.map (entryAt s)
  let n := (sequenceValues p).length
  let least := (es.filter onlyWritable).length
  if is.isEmpty ∨ 16 < is.length ∨ 100 < pkNum p tWait 0 then some stBadParameter
  else if es.any (fun e => rEmpty e || !rEnabled e) then some stRouteMissing
  else if es.any (fun e => rDir e != 3 || !onFarBus e || !(rFlag e 1 || rFlag e 2)) then some stBadParameter
  else if es.any (fun e => lockPort e != lockPort (es.headD []) || rGroup e != rGroup (es.headD [])) then some stBadParameter
  else if n < least ∨ least + (es.filter bothWays).length < n then some stBadParameter
  else if !localChannel s (initiatorOf s p.sess) then some stBadParameter
  else if 5000000 < Config.plannedBusTime (es.zip ((pairValues s is (n - least) (sequenceValues p)).map (·.2.2.isSome))) then
    some stBadParameter
  else none

/-- OP LOCKED_SEQUENCE: the sequence waits for its port's lock. -/
def execOpLockedSequence (p : Packet) (s : State) : Res :=
  .next (serve 0x0D04 p (fun s => atComposing s p (fun s =>
    match sequenceRefusal s p, newTag s with
    | some st, _ => reply s p st []
    | none, none => reply s p stBusy []
    | none, some tag =>
      let is := sequenceRoutes p
      let es := is.map (entryAt s)
      let port := lockPort (es.headD [])
      let who := initiatorOf s p.sess
      let wait := pkNum p tWait 0 * 1000000
      let spare := (sequenceValues p).length - (es.filter onlyWritable).length
      let s1 := holdTag s { blankTag tag who .locked .waiting (s.clk + wait + bridgeTimeout s) with target := is.headD 0 }
      let q : LockedSeq := ⟨tag, port, pairValues s is spare (sequenceValues p), []⟩
      let w : LockWait := ⟨port, tag, who, s.clk + wait, channelSlot who⟩
      reply { s1 with bridge := { s1.bridge with locked := s1.bridge.locked ++ [q], lockWaits := s1.bridge.lockWaits ++ [w] } }
        p stRetry (be 2 tag))) s)

/-! ### Semaphores (R248) -/

/-- OP SEMAPHORE: this vehicle's semaphore, or that of a named vehicle by a message of kind 0x06. -/
def execOpSemaphore (p : Packet) (s : State) : Res :=
  .next (serve 0x0D05 p (fun s => atComposing s p (fun s =>
    let b := (pkItem p tSemaphore).getD []
    let sem := field b 0 2
    let op := field b 2 1
    let wait := pkNum p tWait 0
    let slot := (pkItem p tSlot).map (fun v => field v 0 1)
    let far : Bool := slot.isSome && slot != ownSlot s
    let who := initiatorOf s p.sess
    if sem < 1 ∨ 256 < sem ∨ op < 1 ∨ 3 < op ∨ 100 < wait then reply s p stBadParameter []
    else if far && !slotPresent s (slot.getD 0) then reply s p stRouteMissing []
    else match newTag s with
      | none => reply s p stBusy []
      | some tag =>
        if far then
          if !channelRoom s who then reply s p stBusy []
          else
            let k := slot.getD 0
            let until_ := s.clk + (if op = 1 then wait * 1000000 else 0) + bridgeTimeout s
            let s1 := holdTag s { blankTag tag who .semaphore .queued until_ with target := op, slot := some k }
            let body := be 2 (k * 1024) ++ zeros 2 ++ be 1 op ++ zeros 1 ++ be 2 sem ++ be 2 wait ++ be 2 0
            let s2 := queueMsg s1
              { source := who, destSlot := k, destUnit := 0, kind := 6, tag := tag, bodies := [body]
                notBefore := none, deadline := some until_ }
            reply s2 p stRetry (be 2 tag)
        else
          let until_ := s.clk + wait * 1000000 + bridgeTimeout s
          let s1 := holdTag s { blankTag tag who .semaphore .waiting until_ with target := op }
          pumpAll (semOperate (reply s1 p stRetry (be 2 tag)) op sem wait who tag))) s)

/-! ### Endpoints (R225, R283) -/

/-- OP ENDPOINT_OPEN: the lowest free application endpoint, with a ring that fits the ring area. -/
def execOpEndpointOpen (p : Packet) (s : State) : Res :=
  .next (serve 0x0D06 p (fun s =>
    let k := pkNum p tCount 0
    if !ringCountOk k then reply s p stBadParameter []
    else match ((List.range 191).map (· + 0x40)).find? (fun e => !s.bridge.endpoints.contains e) with
      | none => reply s p stBusy []
      | some e =>
        if 256 ≤ s.veh.rings.length ∨ 67108864 < ringBase s k + ringSize k then reply s p stBusy []
        else
          let s1 := setRing s e (newRing k (ringBase s k))
          reply { s1 with bridge := { s1.bridge with endpoints := s1.bridge.endpoints ++ [e] } } p stDone
            (be 2 (channelOf s e))) s)

/-- OP ENDPOINT_CLOSE: the endpoint and its ring are gone, with what waited for the ring. -/
def execOpEndpointClose (p : Packet) (s : State) : Res :=
  .next (serve 0x0D07 p (fun s =>
    let c := pkNum p tChannel 0
    let e := channelEnd c
    if c ≠ channelOf s e ∨ !s.bridge.endpoints.contains e then reply s p stBadParameter []
    else
      let s1 := { s with
        bridge := { s.bridge with endpoints := s.bridge.endpoints.filter (· != e) }
        veh := { s.veh with rings := Tab.erase s.veh.rings e, staging := s.veh.staging.filter (fun x => x.ring != e) } }
      reply s1 p stDone (be 2 c)) s)

/-! ### The error log (R236) -/

def ErrEntry.bytes (x : ErrEntry) : Bytes :=
  be 2 x.initiator ++ be 2 x.tag ++ be 1 x.targetKind ++ be 1 x.failedUnit ++ be 2 x.status ++ be 4 x.target ++
    be 4 x.detail ++ be 8 (time64 x.time) ++ be 4 x.seq ++ zeros 4

/-- OP ERROR_LOG: 64 entries, oldest first; those never written are zero. -/
def execOpErrorLog (p : Packet) (s : State) : Res :=
  .next (serve 0x0D08 p (fun s => atComposing s p (fun s =>
    reply s p stDone (fit (s.bridge.errors.flatMap ErrEntry.bytes) 2048))) s)

/-! ### Remote commands (R459) -/

/-- A packet for a remote unit is queued as a message to it (R231, R459). -/
def queueRemote (p : Packet) (s : State) : State :=
  let slot := pkNum p tSlot 0
  let unit := (pkItem p tUnit).map (fun v => field v 0 1)
  let who := initiatorOf s p.sess
  let dest := slot * 1024 + (unit.getD 1 - 1) * 256 + 1
  if 63 < slot ∨ unit.any (fun u => u < 1 || 4 < u) then reply s p stBadParameter []
  else if !slotPresent s slot then reply s p stRouteMissing []
  else match newTag s with
    | none => reply s p stBusy []
    | some tag =>
      let until_ := s.clk + bridgeTimeout s
      let m : QMsg :=
        { source := who, destSlot := slot, destUnit := unit.getD 0, kind := 7, tag := tag
          bodies := fragments (be 2 dest ++ zeros 2 ++ (pkItem p tPacket).getD []), notBefore := none, deadline := some until_ }
      if messageLimit s < msgWire m ∨ 16 < m.bodies.length then reply s p stBadLength []
      else if !channelRoom s who then reply s p stBusy []
      else
        let s1 := holdTag s { blankTag tag who .remote .queued until_ with slot := some slot }
        reply (queueMsg s1 m) p stRetry (be 2 tag)

/-- OP REMOTE_COMMAND. A packet that no grant could carry is refused (R231). -/
def execOpRemoteCommand (p : Packet) (s : State) : Res :=
  .next (serve 0x0D10 p (fun s => atComposing s p (queueRemote p)) s)

end Sys2Proof.Machine
end

