-- ==== Sys2Proof/Machine/OpsDebug.lean ====
section
/-! DEFINITION. Opcodes of families 0x0E and 0x0F: registers, CX-320 counters, split mode and the debugger (R11, R62, R262,
R292, R350 to R352, R378, R458, R466, R501 to R503). -/

namespace Sys2Proof.Machine

/-! ### Family 0x0E -/

/-- An address that the register opcodes reach (R466). -/
def opcodeAddress (a : Nat) : Bool := 0x010000 ≤ a && a ≤ 0x01FFFF && a % 4 == 0

/-- Words from an address on; an unmapped one reads as zero. -/
def readWords : State → Nat → Nat → State × Bytes
  | s, _, 0 => (s, [])
  | s, a, k + 1 =>
    let (s1, w) := match statusReg a with | some r => readStatus s r | none => (s, 0)
    let (s2, b) := readWords s1 (a + 4) k
    (s2, be 4 w ++ b)

/-- OP REGISTER_READ. -/
def execOpRegisterRead (p : Packet) (s : State) : Res :=
  .next (serve 0x0E01 p (fun s =>
    let a := pkNum p tAddress 0
    let n := pkNum p tCount 0
    if 64 < n ∨ !opcodeAddress a ∨ 0x020000 < a + 4 * n then reply s p stBadParameter []
    else
      let (s1, b) := readWords s a n
      reply s1 p stDone b) s)

/-- OP REGISTER_WRITE: bytes 12 to 15 of `VALUE`. -/
def execOpRegisterWrite (p : Packet) (s : State) : Res :=
  .next (serve 0x0E02 p (fun s =>
    let a := pkNum p tAddress 0
    let w : Word32 := BitVec.ofNat 32 (field ((pkItem p tValue).getD []) 12 4)
    if !opcodeAddress a then reply s p stBadParameter []
    else reply (match statusReg a with | some r => writeStatus s r w | none => s) p stDone []) s)

/-- The counters of a port at the offsets of R62. -/
def counterBlock (good fcs runts oversize drops : Nat) : Bytes :=
  be 4 good ++ be 4 fcs ++ be 4 runts ++ be 4 oversize ++ be 4 drops ++ zeros 12

def lineCounters (q : LPort) : Bytes := counterBlock q.good q.fcs q.runts q.oversize q.drops
def vehicleCounters (q : Vport) : Bytes := counterBlock q.good q.fcs q.runts q.oversize q.drops
def fieldCounters (q : FPort) : Bytes := counterBlock q.good q.fcs q.runts q.oversize q.drops
def peerCounters (q : PeerSeg) : Bytes := counterBlock q.good q.fcs q.runts q.oversize q.drops

/-- The counters of a port group; none for a group that does not exist. -/
def groupCounters (s : State) (group : Nat) : Option Bytes :=
  match group with
  | 0 => some (allPorts.flatMap (fun p => lineCounters (s.line.ports.get p)))
  | 1 => some (vports.flatMap (fun v => vehicleCounters (vport s v)))
  | 2 => some ((List.range 10).flatMap (fun k => fieldCounters (fieldPort s (k + 1))))
  | 3 => some ((List.range 2).flatMap (fun k => peerCounters (peerSeg s k)))
  | _ => none

def clearField (q : FPort) : FPort := { q with good := 0, fcs := 0, runts := 0, oversize := 0, drops := 0 }

/-- The counters of a port group clear as they are read (R11). -/
def clearCounters (s : State) (group : Nat) : State :=
  match group with
  | 0 =>
    let f := fun (q : LPort) => { q with good := 0, fcs := 0, runts := 0, oversize := 0, drops := 0 }
    { s with line := { s.line with ports := Ports.map s.line.ports (fun _ q => f q) } }
  | 1 =>
    let f := fun (x : Nat × Vport) => (x.1, { x.2 with good := 0, fcs := 0, runts := 0, oversize := 0, drops := 0 })
    { s with veh := { s.veh with ports := s.veh.ports.map f } }
  | 2 =>
    let f := fun (x : Nat × SPort) => (x.1, { x.2 with port := clearField x.2.port })
    let g := fun (x : Nat × CanPort) => (x.1, { x.2 with port := clearField x.2.port })
    { s with fld := { s.fld with serial := s.fld.serial.map f, can := s.fld.can.map g } }
  | _ =>
    let f := fun (q : PeerSeg) => { q with good := 0, fcs := 0, runts := 0, oversize := 0, drops := 0 }
    { s with pair := { s.pair with segs := s.pair.segs.map f } }

/-- OP CX320_COUNTERS: the group of `PORT`, whose port number is not used. -/
def execOpCx320Counters (p : Packet) (s : State) : Res :=
  .next (serve 0x0E03 p (fun s =>
    let g := pkNum p tPort 0 / 256
    match groupCounters s g with
    | none => reply s p stBadParameter []
    | some b => reply (clearCounters s g) p stDone b) s)

/-! ### Split mode (R350, R352) -/

def freshSplit : SplitSt := { halted := false, count := 0, buffer := [], full := false, laneCrc := 0, replay := none }

/-- OP SPLIT_ENTER: at the next cycle boundary, which is the end of the safety cycle that runs (log entry 75). -/
def execOpSplitEnter (p : Packet) (s : State) : Res :=
  .next (serve 0x0F01 p (fun s =>
    if s.safe.state = .split then reply s p stDone (be 4 s.cyc.n)
    else if s.safe.state = .halted then reply s p stNotApplicable []
    else if !safeRuns s then reply s p stBusy []
    else
      let s1 := if s.safe.cycle.isSome then { s with safe := { s.safe with split := some freshSplit } }
        else noteSafe s (enterSplit s freshSplit)
      reply s1 p stDone (be 4 (cycAdd s.cyc.n 1))) s)

/-- A debug opcode outside split mode is not applicable (R458). -/
def inSplit (s : State) (p : Packet) (act : State → SplitSt → State) : State :=
  match s.safe.state, s.safe.split with
  | .split, some x => act s x
  | _, _ => reply s p stNotApplicable []

/-- OP SPLIT_LEAVE: a full scratch test runs (R352). -/
def execOpSplitLeave (p : Packet) (s : State) : Res :=
  .next (serve 0x0F02 p (fun s => inSplit s p (fun s _ => reply (noteSafe s (startScratch s)) p stDone (be 4 s.cyc.n))) s)

def setSplit (s : State) (f : SplitSt → SplitSt) : State := { s with safe := { s.safe with split := s.safe.split.map f } }

/-- Core A as it stands at this instant: a running one has run on (log entry 41). -/
def coreNow (s : State) (x : SplitSt) : State := if x.halted then s else coreRuns s

def splitCount (s : State) : Nat := s.safe.split.elim 0 (·.count)

/-- The reply with core A's instruction count. -/
def replyCount (s : State) (p : Packet) : State := reply s p stDone (be 4 (splitCount s % 4294967296))

/-- OP CORE_HALT: core A stops at the next instruction boundary. -/
def execOpCoreHalt (p : Packet) (s : State) : Res :=
  .next (serve 0x0F03 p (fun s => inSplit s p (fun s x =>
    replyCount (setSplit (coreNow s x) (fun y => { y with halted := true })) p)) s)

/-- OP CORE_STEP: core A runs `COUNT` instructions from where it stands and is halted; what they leave is the program's. -/
def execOpCoreStep (p : Packet) (s : State) : Res :=
  .next (serve 0x0F04 p (fun s => inSplit s p (fun s x =>
    let n := pkNum p tCount 0
    if n < 1 ∨ 65535 < n then reply s p stBadParameter []
    else
      let s1 := coreNow s x
      let c := splitCount s1
      replyCount (setSplit (coreRuns s1) (fun y => { y with halted := true, count := c + n })) p)) s)

/-- OP CORE_RUN. -/
def execOpCoreRun (p : Packet) (s : State) : Res :=
  .next (serve 0x0F05 p (fun s => inSplit s p (fun s x =>
    replyCount (setSplit (coreNow s x) (fun y => { y with halted := false })) p)) s)

/-! ### Core A's registers and TCM (R502) -/

/-- A word address of core A's debug space. -/
def coreAddress (a : Nat) : Bool :=
  a % 4 == 0 && (a < 0x080000 || (0x100000 ≤ a && a < 0x100080) || (0x110000 ≤ a && a < 0x114000))

/-- A range of words of core A's debug space. -/
def coreRange (a n : Nat) : Bool := (List.range n).all (fun i => coreAddress (a + 4 * i))

def coreA (s : State) : CoreSt := s.safe.cores.getD 0 CoreSt.init

def setCoreA (s : State) (c : CoreSt) : State := { s with safe := { s.safe with cores := s.safe.cores.set 0 c } }

def putCoreWord (c : CoreSt) (a : Nat) (w : Word32) : CoreSt :=
  if 0x110000 ≤ a then { c with ctrl := Tab.set c.ctrl ((a - 0x110000) / 4) w }
  else if 0x100000 ≤ a then { c with regs := c.regs.set ((a - 0x100000) / 4) w }
  else
    let b := be 4 w.toNat
    { c with tcm := (List.range 4).foldl (fun t i => Tab.set t (a + i) (b.getD i 0)) c.tcm }

/-- A word of core A whose content is known. -/
def coreWord (c : CoreSt) (a : Nat) : Option Word32 :=
  if 0x110000 ≤ a then
    (match Tab.get? c.ctrl ((a - 0x110000) / 4) with | some w => some w | none => if c.cleared then some 0 else none)
  else if 0x100000 ≤ a then c.regs[(a - 0x100000) / 4]?
  else
    let b := (List.range 4).filterMap (fun i => c.tcmByte (a + i))
    if b.length = 4 then some (BitVec.ofNat 32 (beNat b)) else none

/-- Reads a word of core A; one that the program made is a free value, which then stands (log entry 41). -/
def readCoreWord (s : State) (a : Nat) : State × Bytes :=
  match coreWord (coreA s) a with
  | some w => (s, be 4 w.toNat)
  | none =>
    let w := Config.freeValue s.freeCount
    (tookFree (setCoreA s (putCoreWord (coreA s) a w)) 1, be 4 w.toNat)

def readCoreWords : State → Nat → Nat → State × Bytes
  | s, _, 0 => (s, [])
  | s, a, k + 1 =>
    let (s1, b) := readCoreWord s a
    let (s2, r) := readCoreWords s1 (a + 4) k
    (s2, b ++ r)

/-- OP CORE_READ: 1 to 64 words. -/
def execOpCoreRead (p : Packet) (s : State) : Res :=
  .next (serve 0x0F06 p (fun s => inSplit s p (fun s x =>
    let a := pkNum p tAddress 0
    let n := pkNum p tCount 0
    if n < 1 ∨ 64 < n ∨ !coreRange a n then reply s p stBadParameter []
    else
      let (s1, b) := readCoreWords (coreNow s x) a n
      reply s1 p stDone b)) s)

/-- The replay buffer records a debugger write at A's instruction count, while it has room (R350; entry: log entry 76). -/
def recordWrite (x : SplitSt) (a : Nat) (w : Word32) : SplitSt :=
  if x.full then x
  else if 16384 ≤ x.buffer.length then { x with full := true }
  else { x with buffer := x.buffer ++ [be 8 x.count ++ be 4 a ++ be 4 w.toNat] }

def writeCoreWords : State → Nat → List Word32 → State
  | s, _, [] => s
  | s, a, w :: ws => writeCoreWords (setSplit (setCoreA s (putCoreWord (coreA s) a w)) (fun x => recordWrite x a w)) (a + 4) ws

/-- OP CORE_WRITE: 1 to 64 words of `DATA`. -/
def execOpCoreWrite (p : Packet) (s : State) : Res :=
  .next (serve 0x0F07 p (fun s => inSplit s p (fun s x =>
    let a := pkNum p tAddress 0
    let b := (pkItem p tData).getD []
    let ws := (List.range (b.length / 4)).map (fun i => (BitVec.ofNat 32 (field b (4 * i) 4) : Word32))
    if b.length % 4 ≠ 0 ∨ b.isEmpty ∨ 256 < b.length ∨ !coreRange a ws.length then reply s p stBadParameter []
    else reply (writeCoreWords (coreNow s x) a ws) p stDone [])) s)

/-- OP REPLAY: one safety cycle or less; the result comes with its own row (R351). -/
def execOpReplay (p : Packet) (s : State) : Res :=
  .next (serve 0x0F08 p (fun s => inSplit s p (fun s _ =>
    if 1 < pkNum p tCount 0 then reply s p stBadParameter []
    else match newTag s with
      | none => reply s p stBusy []
      | some t =>
        reply (holdTag s (blankTag t (initiatorOf s p.sess) .replay .waiting (s.clk + bridgeTimeout s))) p stRetry (be 2 t))) s)

end Sys2Proof.Machine
end

