-- ==== Sys2Proof/Machine/Monitor.lean ====
section
/-! DEFINITION. The Luanko monitor on port M: text lines, the commands they spell, and packet mode (R493 to R503; log
entries 60, 61, 77). -/

namespace Sys2Proof.Config

/-- The bits of an `F32` (7) or `F64` (10) value that a text spells, whose form is not stated (R495, R498; log entry 77). -/
opaque parseReal : Nat → Bytes → Option Nat

end Sys2Proof.Config

namespace Sys2Proof.Machine

/-! ### Words and numbers (R495) -/

def lowerByte (b : Byte) : Byte := if 0x41 ≤ b.toNat ∧ b.toNat ≤ 0x5A then b + 0x20 else b

/-- The words of a line, separated by spaces, in lower case. -/
def wordsOf (l : Bytes) : List Bytes :=
  (l.foldr (fun b (acc : List Bytes) =>
    if b = 0x20 then [] :: acc
    else match acc with
      | [] => [[lowerByte b]]
      | w :: ws => (lowerByte b :: w) :: ws) [[]]).filter (fun w => !w.isEmpty)

/-- A digit's value, at most 15. -/
def digitOf (b : Byte) : Option Nat :=
  let n := b.toNat
  if 0x30 ≤ n ∧ n ≤ 0x39 then some (n - 0x30)
  else if 0x61 ≤ n ∧ n ≤ 0x66 then some (n - 0x57)
  else none

/-- The digits of a base as a number; underscores are passed over. -/
def digitsOf (base : Nat) (b : Bytes) : Option Nat :=
  let ds := b.filter (fun x => x != 0x5F)
  if ds.isEmpty then none
  else ds.foldl (fun acc x => acc.bind (fun a => (digitOf x).bind (fun d => if d < base then some (a * base + d) else none))) (some 0)

/-- A decimal number, or a hexadecimal one with `0x`. -/
def numOf (b : Bytes) : Option Nat := if b.take 2 = text "0x" then digitsOf 16 (b.drop 2) else digitsOf 10 b

def numBelow (k : Nat) (b : Bytes) : Option Nat := (numOf b).bind (fun n => if n < k then some n else none)

/-- All of a list's words as numbers. -/
def numsOf (k : Nat) (l : List Bytes) : Option (List Nat) :=
  l.foldr (fun b acc => acc.bind (fun ns => (numBelow k b).map (fun n => n :: ns))) (some [])

/-- A value as a signal's type reads it: its bits. A signed type takes a minus sign. -/
def valueOf (typ : Nat) (b : Bytes) : Option Nat :=
  if typ = 0 ∧ b = text "true" then some 1
  else if typ = 0 ∧ b = text "false" then some 0
  else if typeFloat typ then Config.parseReal typ b
  else if typ = 0xF then numBelow (2 ^ 128) b
  else if typeSigned typ then
    let m := 2 ^ (typeBits typ - 1)
    if b.take 1 = text "-" then (numBelow (m + 1) (b.drop 1)).map (fun n => wrapInt (typeBits typ) (-(n : Int)))
    else numBelow m b
  else numBelow (2 ^ typeBits typ) b

/-- The `VALUE` item of a signal's value, in the layout of R228. -/
def valueBytes (typ v : Nat) : Bytes :=
  be 16 (if typ = 0xF then v else (wireValue typ (typedValue typ v)).toNat)

/-! ### Commands (R498, R501) -/

def item (tag k v : Nat) : Tlv := ⟨tag, be k v⟩

/-- Items of a signal and its value. -/
def writeItems (s : State) (l : List Bytes) : Option (List Tlv) :=
  match l with
  | [a, v] => (numBelow (2 ^ 32) a).bind (fun id =>
      let t := (defOf s id).elim 0xF (·.typ)
      (valueOf t v).map (fun x => [item tIds 4 id, ⟨tValue, valueBytes t x⟩]))
  | _ => none

/-- Items of a read: `@` before a skim number, then 1 to 64 ids. -/
def readItems (l : List Bytes) : Option (List Tlv) :=
  let at_ := (l.headD []).take 1 = text "@"
  let skim := if at_ then (numBelow (2 ^ 32) ((l.headD []).drop 1)).map (fun n => [item tSkim 4 n]) else some []
  let ids := numsOf (2 ^ 32) (if at_ then l.drop 1 else l)
  skim.bind (fun k => ids.bind (fun ns =>
    if ns.isEmpty ∨ 64 < ns.length then none else some (k ++ [⟨tIds, ns.flatMap (be 4)⟩])))

/-- Items of an address and a count, 1 by default. -/
def addressItems (l : List Bytes) : Option (List Tlv) :=
  match l with
  | [a] => (numBelow (2 ^ 32) a).map (fun a => [item tAddress 4 a, item tCount 4 1])
  | [a, n] => (numBelow (2 ^ 32) a).bind (fun a => (numBelow (2 ^ 32) n).map (fun n => [item tAddress 4 a, item tCount 4 n]))
  | _ => none

def groupOfName (w : Bytes) : Option Nat :=
  if w = text "line" then some 0 else if w = text "vehicle" then some 1 else if w = text "field" then some 2 else none

def areaOfName (w : Bytes) : Option Nat := if w = text "topcoat" then some 0 else if w = text "primer" then some 1 else none

/-- Items of a recorder read: area, sequence and a count, 1 by default. -/
def recItems (l : List Bytes) : Option (List Tlv) :=
  (areaOfName (l.headD [])).bind (fun a =>
    let go := fun (q n : Bytes) => (numBelow (2 ^ 64) q).bind (fun q => (numBelow (2 ^ 32) n).map (fun n =>
      [item tArea 1 a, item tSequence 8 q, item tCount 4 n]))
    match l.drop 1 with
    | [q] => go q (text "1")
    | [q, n] => go q n
    | _ => none)

/-- Items of a write of words: an address, then 1 to 64 words. -/
def coreItems (l : List Bytes) : Option (List Tlv) :=
  (numBelow (2 ^ 32) (l.headD [])).bind (fun a => (numsOf (2 ^ 32) (l.drop 1)).bind (fun ws =>
    if ws.isEmpty ∨ 64 < ws.length then none else some [item tAddress 4 a, ⟨tData, ws.flatMap (be 4)⟩]))

def noItems (l : List Bytes) : Option (List Tlv) := if l.isEmpty then some [] else none

/-- The opcode of a command that takes no argument. -/
def plainOpcode (w : Bytes) : Option Nat :=
  ([("id", 0x0101), ("status", 0x0102), ("time", 0x0103), ("setout", 0x0501), ("power", 0x0601), ("pair", 0x0701),
    ("safe", 0x0801), ("halt", 0x0F03), ("run", 0x0F05)].find? (fun p => decide (text p.1 = w))).map (·.2)

/-- What a line asks for. -/
inductive MonCmd where
  | empty
  | help
  | baud (rate : Option Nat)
  | packet
  | op (opcode : Nat) (items : Option (List Tlv))
  | unknown
deriving DecidableEq, Repr

/-- `help`, `packet` and `baud`, which are no opcodes. -/
def portCommand (w : Bytes) (l : List Bytes) : Option MonCmd :=
  if w = text "help" then some .help
  else if w = text "packet" then some .packet
  else if w = text "baud" then some (.baud (match l with | [a] => numOf a | _ => none))
  else none

/-- The commands with arguments. -/
def argCommand (s : State) (w : Bytes) (l : List Bytes) : Option MonCmd :=
  if w = text "read" then some (.op 0x0201 (readItems l))
  else if w = text "write" then some (.op 0x0202 (writeItems s l))
  else if w = text "force" then some (.op 0x0207 (writeItems s l))
  else if w = text "release" then
    some (.op 0x0208 (if l.isEmpty then some [] else (numsOf (2 ^ 32) l).bind (fun ns =>
      if ns.length = 1 then some [⟨tIds, ns.flatMap (be 4)⟩] else none)))
  else if w = text "rec" then some (.op 0x0901 (recItems l))
  else if w = text "reg" then some (.op 0x0E01 (addressItems l))
  else if w = text "regw" then
    some (.op 0x0E02 ((numsOf (2 ^ 32) l).bind (fun ns => match ns with
      | [a, v] => some [item tAddress 4 a, ⟨tValue, be 16 v⟩]
      | _ => none)))
  else if w = text "counters" then
    some (.op 0x0E03 (match l with | [g] => (groupOfName g).map (fun k => [item tPort 2 (k * 256)]) | _ => none))
  else none

/-- The debug commands. -/
def debugCommand (w : Bytes) (l : List Bytes) : Option MonCmd :=
  if w = text "split" then
    some (if l = [text "on"] then .op 0x0F01 (some []) else if l = [text "off"] then .op 0x0F02 (some []) else .op 0x0F01 none)
  else if w = text "step" then
    some (.op 0x0F04 (match l with
      | [] => some [item tCount 4 1]
      | [n] => (numBelow (2 ^ 32) n).map (fun n => [item tCount 4 n])
      | _ => none))
  else if w = text "rd" then some (.op 0x0F06 (addressItems l))
  else if w = text "wr" then some (.op 0x0F07 (coreItems l))
  else if w = text "replay" then some (.op 0x0F08 (if l.isEmpty then some [item tCount 4 1] else none))
  else none

/-- The command that a line spells. -/
def lineCommand (s : State) (line : Bytes) : MonCmd :=
  match wordsOf line with
  | [] => .empty
  | w :: l =>
    match portCommand w l, plainOpcode w, argCommand s w l, debugCommand w l with
    | some c, _, _, _ => c
    | _, some op, _, _ => .op op (noItems l)
    | _, _, some c, _ => c
    | _, _, _, some c => c
    | none, none, none, none => .unknown

/-! ### Commands as packets (R497) -/

/-- An item as a packet carries it (R448). -/
def Tlv.bytes (t : Tlv) : Bytes :=
  be 2 t.tag ++ be 2 t.val.length ++ t.val ++ zeros ((4 - t.val.length % 4) % 4)

/-- A packet of an opcode and items at a class. -/
def commandBytes (cls op seq : Nat) (items : List Tlv) : Bytes :=
  let body := items.flatMap Tlv.bytes
  let h := be 1 (16 + cls) ++ be 2 op ++ be 2 seq ++ zeros 2 ++ be 2 body.length ++ zeros 3
  h ++ be 4 (crc32 (h ++ body)) ++ body

/-- The monitor sends a packet of the service session, at the class that its opcode needs. -/
def sendCommand (s : State) (op : Nat) (items : List Tlv) : State :=
  let p : Packet := { sess := .service, cls := 0, opcode := op, seq := s.mon.seq, flags := 0, items := items, check := 0, tag := 1 }
  let cls := match opSpec op with | some r => classNeeded s r p | none => 0
  let s1 := { s with mon := { s.mon with busy := true, seq := (s.mon.seq + 1) % 65536 } }
  acceptBytes s1 .service 1 false (commandBytes cls op s.mon.seq items)

/-- A status line and the prompt. -/
def answerLine (s : State) (t : String) : State := sendPrompt (printLine s t)

def answerErr (s : State) (st : Nat) : State := answerLine s ("err " ++ statusName st)

/-! ### The commands that are no opcodes -/

def helpLines : List String :=
  ["id", "status", "time", "read [@skim] id ...", "write id value", "force id value", "release [id]", "setout", "power", "pair",
   "safe", "rec topcoat|primer sequence [count]", "reg address [count]", "regw address word", "counters line|vehicle|field",
   "baud rate", "packet", "help", "split on|off", "halt", "run", "step [count]", "rd address [count]", "wr address word ...",
   "replay"]

def doHelp (s : State) : State := answerLine (helpLines.foldl printLine s) "ok"

/-- The rate that `baud` sets holds once the `ok` line has left (R493). -/
def doBaud (s : State) (rate : Nat) : State :=
  if [115200, 230400, 460800, 921600].contains rate then
    let s1 := printLine s "ok"
    sendPrompt { s1 with mon := { s1.mon with baud := rate } }
  else answerErr s stBadParameter

/-- `packet` answers `ok` and switches to packet mode (R499). -/
def doPacket (s : State) : State :=
  let s1 := printLine s "ok"
  { s1 with mon := { s1.mon with packetMode := true, rx := [], lastByte := s.clk, line := [], lastCr := false } }

/-- A line's command is carried out, or sent as a packet. -/
def runLine (s : State) (line : Bytes) : State :=
  match lineCommand s line with
  | .empty => sendPrompt s
  | .help => doHelp s
  | .baud (some r) => doBaud s r
  | .baud none => answerErr s stBadParameter
  | .packet => doPacket s
  | .op op (some items) => sendCommand s op items
  | .op _ none => answerErr s stBadParameter
  | .unknown => answerErr s stUnknownOpcode

/-! ### Characters in text mode (R495, R496) -/

/-- The monitor runs, in text mode. -/
def monText (s : State) : Bool := managing s && !s.mon.packetMode

/-- The monitor reads: no command waits for its status line, and no line waits to be read. -/
def monReads (s : State) : Bool := !s.mon.busy && s.mon.lines.isEmpty

/-- A character is taken into the line: echoed, deleted, or the line's end. -/
def typeChar (s : State) (b : Byte) : State :=
  let m := s.mon
  if b = 0x0A ∧ m.lastCr then { s with mon := { m with lastCr := false } }
  else if b = 0x0A ∨ b = 0x0D then
    emit { s with mon := { m with lines := m.lines ++ [m.line], line := [], lastCr := b == 0x0D } } [.monitor [0x0D, 0x0A]]
  else
    let s1 := { s with mon := { m with lastCr := false } }
    if b = 0x08 ∨ b = 0x7F then
      (if m.line.isEmpty then s1
       else emit { s1 with mon := { s1.mon with line := m.line.take (m.line.length - 1) } } [.monitor [b]])
    else if m.line.length < 255 then emit { s1 with mon := { s1.mon with line := m.line ++ [b] } } [.monitor [b]]
    else s1

/-- The bytes up to the last line end. -/
def wholeLines (b : Bytes) : Bytes := (b.reverse.dropWhile (fun x => x != 0x0A && x != 0x0D)).reverse

/-- A byte is held while the monitor does not read. When 1,024 are held, the line being received is discarded. -/
def holdByte (s : State) (b : Byte) : State :=
  let m := s.mon
  if m.dropping then { s with mon := { m with dropping := b != 0x0A && b != 0x0D } }
  else if m.held.length < 1024 then { s with mon := { m with held := m.held ++ [b] } }
  else
    let kept := wholeLines m.held
    { s with mon := { m with held := kept, overflows := m.overflows ++ [kept.length], dropping := b != 0x0A && b != 0x0D } }

/-- Held bytes are taken while the monitor reads; a discarded line is answered in its place. -/
def takeHeld : Nat → State → State
  | 0, s => s
  | k + 1, s =>
    if !monText s || !monReads s then s
    else match s.mon.overflows, s.mon.held with
      | 0 :: rest, _ => takeHeld k (answerErr { s with mon := { s.mon with overflows := rest, line := [] } } stBadLength)
      | _, [] => s
      | o, b :: held => takeHeld k (typeChar { s with mon := { s.mon with held := held, overflows := o.map (· - 1) } } b)

/-- Everything held that can be taken now. -/
def catchUp (s : State) : State := takeHeld (s.mon.held.length + s.mon.overflows.length) s

/-- The monitor collects the result of a replay that its last command started (R501). -/
def collectReplay (s : State) : State :=
  match s.mon.wait with
  | none => s
  | some t =>
    if (findTag s t).all (fun x => x.state == .held) then
      sendCommand { s with mon := { s.mon with wait := none } } 0x0D03 [item tTag 2 t]
    else s

/-! ### Packet mode (R499) -/

/-- A whole packet that follows the sync bytes. -/
def packetFrame (s : State) (b : Bytes) : State :=
  if 16 ≤ b.length ∧ b.length = 16 + field b 7 2 ∧ field b 7 2 ≤ 16384 then acceptBytes s .service 0 false b else s

/-- A byte in packet mode: the hunt for the sync bytes, then the packet. -/
def packetByte (s : State) (b : Byte) : State :=
  let rx := s.mon.rx
  let next : Bytes :=
    match rx with
    | [] => if b = 0xA5 then [b] else []
    | [_] => if b = 0x5A then rx ++ [b] else if b = 0xA5 then [b] else []
    | _ => rx ++ [b]
  let put := fun (l : Bytes) => { s with mon := { s.mon with rx := l, lastByte := s.clk } }
  let plen := field next 9 2
  if next.length < 11 then put next
  else if 16384 < plen then put []
  else if next.length = 18 + plen then packetFrame (put []) (next.drop 2)
  else put next

/-! ### Rows -/

/-- MONITOR_CHARACTER_RECEIVED: while the management side does not run, bytes are discarded (R494). -/
def execMonitorCharacterReceived (b : Byte) (s : State) : Res :=
  .next (if !managing s then s
  else if s.mon.packetMode then packetByte s b
  else
    let s1 := catchUp (collectReplay s)
    if monReads s1 && s1.mon.held.isEmpty then typeChar s1 b else holdByte s1 b)

/-- The next line, with the bytes held behind it taken once it is answered. -/
def readLine (s : State) : State :=
  match s.mon.busy, s.mon.lines with
  | false, l :: rest => catchUp (runLine { s with mon := { s.mon with lines := rest } } l)
  | _, _ => s

/-- MONITOR_LINE. -/
def execMonitorLine (s : State) : Res := .next (if monText s then readLine (catchUp (collectReplay s)) else s)

/-- A command that is no opcode is the line that waits, or is typed whole. -/
def portRow (s : State) (isIt : MonCmd → Bool) (act : State → State) : State :=
  if !monText s || s.mon.busy then s
  else match s.mon.lines with
    | [] => act s
    | l :: rest => if isIt (lineCommand s l) then catchUp (act { s with mon := { s.mon with lines := rest } }) else s

/-- HELP. -/
def execMonHelp (s : State) : Res := .next (portRow s (fun c => c == .help) doHelp)

/-- BAUD. -/
def execMonBaud (rate : Nat) (s : State) : Res := .next (portRow s (fun c => c == .baud (some rate)) (fun s => doBaud s rate))

/-- PACKET. -/
def execMonPacket (s : State) : Res := .next (portRow s (fun c => c == .packet) doPacket)

/-- PACKET_MODE_FRAME: a packet that follows the sync bytes. -/
def execPacketModeFrame (bytes : Bytes) (s : State) : Res :=
  .next (if managing s && s.mon.packetMode then
    packetFrame { s with mon := { s.mon with rx := [], lastByte := s.clk } } bytes
  else s)

/-- PACKET_BYTE_TIMEOUT: more than 50 ms since the last byte of a frame; it is discarded. -/
def execPacketByteTimeout (s : State) : Res :=
  .next (if s.mon.packetMode && decide (s.mon.lastByte + 50000000 < s.clk) then { s with mon := { s.mon with rx := [] } } else s)

/-- PACKET_MODE_END: text mode again, and the prompt (R500). -/
def execPacketModeEnd (s : State) : Res :=
  .next (if managing s && s.mon.packetMode then
    sendPrompt { s with mon := { s.mon with packetMode := false, rx := [], line := [], lastCr := false } }
  else s)

/-- REPLAY_COMPLETE (R351): the result of a running replay is held for its initiator, and collected by the monitor that
started it. -/
def execReplayComplete (mismatch : Bool) (count lane : Nat) (s : State) : Res :=
  let waits := s.bridge.tags.filter (fun x => decide (x.kind = .replay) && decide (x.state ≠ .held))
  .next (if s.safe.state ≠ .split ∨ waits.isEmpty then s
  else
    let s := { s with safe := { s.safe with
      replayMismatch := s.safe.replayMismatch || mismatch
      split := s.safe.split.map (fun x => { x with replay := some (count, lane) }) } }
    collectReplay (waits.foldl (fun s x => holdResult s x.tag 0 (be 1 (b2n mismatch) ++ be 4 count ++ be 1 lane) id) s))

end Sys2Proof.Machine
end

