-- ==== Sys2Proof/Machine/SafeComplex.lean ====
section
/-! DEFINITION. The rows of the safety complex (spec file 12). -/

namespace Sys2Proof.Machine

/-- A core differs in a clock: what the clock carries out is done with the voted values (R335), and the comparator names it as the minority in voted mode; between two cores the difference gives
no majority (R331, R334, R336 to R338). -/
def differingCore (s : State) (core : Nat) (l : List LaneCmp) (clock : Nat) (par : List (BitVec 3)) : State :=
  let v := compareLanes s l par
  if 1 ≤ core ∧ core ≤ 3 ∧ (v.1 = .minority core ∨ (v.1 = .noMajority ∧ s.safe.state ≠ .voted)) then
    let t := if v.1 = .minority core then carryOut s l par else s
    noteSafe s (coreDiffers t core v.2.1 clock v.2.2)
  else s

/-- The lanes of a clock name a core: while a restart runs, in its lane self-check. -/
def nameCore (s : State) (core : Nat) (l : List LaneCmp) (clock : Nat) (parity : List (BitVec 3)) : State :=
  let par := laneParity l parity
  if s.safe.state = .restart then restartSelfCheck s core l par else differingCore s core l clock par

/-- MINORITY_DETECTED: the comparator's outcome for the lanes of the clock names the core. -/
def execMinorityDetected (core : Nat) (lane : List LaneCmp) (clock : Nat) (parity : List (BitVec 3)) (s : State) : Res :=
  .next (nameCore s core lane clock parity)

/-- NO_MAJORITY (R334, R336, R339, R343). -/
def execNoMajority (lane : List LaneCmp) (clock : Nat) (parity : List (BitVec 3)) (s : State) : Res :=
  let v := compareLanes s lane (laneParity lane parity)
  .next (if safeRuns s ∧ v.1 = .noMajority then
    noteSafe s (noMajority (logMismatch s v.2.1 (4 + (if v.2.2 then 128 else 0)) clock))
  else s)

/-- COMPARATOR_FAULT (R342, R343): a full scratch test, or `HALTED` at the second within 3,600 s. Between two cores a
rail code leads to no majority (R336). -/
def execComparatorFault (lane : List LaneCmp) (clock : Nat) (s : State) : Res :=
  let v := compareLanes s lane (laneParity lane [])
  let flag := if v.2.2 then 128 else 0
  .next (noteSafe s (
    if s.safe.state = .voted ∧ v.1 = .fault then
      let s := logMismatch s v.2.1 (5 + flag) clock
      let fs := recentOf s s.safe.compFaults ++ [s.clk]
      let s := { s with safe := { s.safe with compFaults := fs, compFaultBit := true } }
      if 2 ≤ fs.length then enterHalted s else startScratch s
    else if safeRuns s ∧ v.1 = .noMajority ∧ s.safe.state ≠ .voted then noMajority (logMismatch s v.2.1 (4 + flag) clock)
    else s))

/-- CHECKPOINT_WRITE_COMPLETE: the safety cycle ends (R345): its results are staged, a fully voted cycle ends a hold
whose conditions are over (R340, R368), a minority core's resynchronisation begins (R337), and split mode that was
asked for is entered (R350). -/
def execCheckpointWriteComplete (s : State) : Res :=
  .next (noteSafe s (match s.safe.cycle with
    | none => s
    | some c =>
      if !safeRuns s then s
      else
        let s := stageResults (writeCheckpoint s c) c
        let free := s.safe.hold && s.safe.release.isNone && c.clean && !holdCause s
        let s := { s with
          safe := { s.safe with
            release := if free then some c.n else s.safe.release
            resyncing := s.safe.resyncing || decide (s.safe.state = .resync) } }
        let s := if composing s then mirrorRecord s 3 c.n (safetyRecord s) else s
        match s.safe.split with
        | none => s
        | some x =>
          enterSplit s x))

/-- RESYNC_COMPLETE (R337, R338): the minority core is loaded, and all three are released from the checkpoint. -/
def execResyncComplete (selfCheckOk : Bool) (s : State) : Res :=
  .next (noteSafe s (if s.safe.state = .resync ∧ s.safe.resyncing then
    (if selfCheckOk then
      let s := loadCores s (latestCheckpoint s)
      { s with safe := { s.safe with state := .voted, minority := 0, resyncing := false } }
     else failCore s s.safe.minority)
  else s))

/-- RESTART_COMPLETE (R339): the cores are loaded and released with the latest checkpoint's state and evaluate the skim of the
cycle that was cut again, from its start. -/
def execRestartComplete (s : State) : Res :=
  .next (noteSafe s (if s.safe.state ≠ .restart then s
  else
    let terms := match latestCheckpoint s with | none => [] | some k => k.terms
    let s := loadCores s (latestCheckpoint s)
    let s := { s with safe := { s.safe with state := if s.safe.failed = 0 then .voted else .dual, terms := terms } }
    match s.safe.cycle with
    | none => s
    | some c =>
      (match s.skim.retained.find? (fun r => r.desc.skim == c.n) with
       | none => { s with safe := { s.safe with cycle := none } }
       | some r => beginCycle s r)))

/-- SCRATCH_TEST_COMPLETE (R349, R343, R354, R506): a pass resumes with cold equation state and brings a waiting
equation table into force. -/
def execScratchTestComplete (failBits : BitVec 8) (s : State) : Res :=
  .next (noteSafe s (if s.safe.state ≠ .scratch ∨ !managing s then s
  else
    let r := failBits.toNat
    let s := report s 0x0807 15 (r : Int) []
    let table := if r = 0 ∧ s.safe.pendingTable.isSome then s.safe.pendingTable else s.safe.table
    let s := { s with safe := { s.safe with
      scratchResult := r, scratchFail := r != 0, terms := [], table := table
      pendingTable := if r = 0 then none else s.safe.pendingTable
      state := if s.safe.failed = 0 then .voted else .dual } }
    let s := if r = 0 then loadCores s none else enterHalted s
    (s.bridge.tags.filter (fun x => decide (x.kind = .complexReset) && decide (x.state ≠ .held))).foldl
      (fun s x => holdResult s x.tag 0 (be 4 r) id) s))

/-- TCM_SCRUB (R333) of a 64-bit word, whose correction code is the word's outcome: 1 counts a corrected error, 2 traps, which lane 0x5 shows as a difference. -/
def execTcmScrub (core : Nat) (_addr : Nat) (outcome : Nat) (s : State) : Res :=
  .next (if core < 1 ∨ 3 < core then s
  else if outcome = 1 then
    let c := s.safe.cores.getD (core - 1) CoreSt.init
    { s with safe := { s.safe with cores := s.safe.cores.set (core - 1) { c with corrected := count32 c.corrected } } }
  else if outcome = 2 then nameCore s core (trapLanes core) (cycleClocks s) []
  else s)

end Sys2Proof.Machine
end

