-- ==== Sys2Proof/Machine/Dispatch.lean ====
section
/-! DEFINITION. One arm per command, each a direct call of its meaning. -/

namespace Sys2Proof.Machine

def exec (i : Instr) (s : State) : Host.Outcome State Fault Refusal :=
  match i with
  | .powerOnReset upos alarmLost => Sys2Proof.Machine.execPowerOnReset upos alarmLost s
  | .bankCheckComplete => Sys2Proof.Machine.execBankCheckComplete s
  | .islandReady => Sys2Proof.Machine.execIslandReady s
  | .lineBRelayOpen peerLineAUp => Sys2Proof.Machine.execLineBRelayOpen peerLineAUp s
  | .ready => Sys2Proof.Machine.execReady s
  | .scratchTestComplete failBits => Sys2Proof.Machine.execScratchTestComplete failBits s
  | .resetNAsserted => Sys2Proof.Machine.execResetNAsserted s
  | .resetNReleased => Sys2Proof.Machine.execResetNReleased s
  | .managementWatchdogExpiry => Sys2Proof.Machine.execManagementWatchdogExpiry s
  | .internalSupplyFail => Sys2Proof.Machine.execInternalSupplyFail s
  | .powerFailWarning supply => Sys2Proof.Machine.execPowerFailWarning supply s
  | .powerRestored => Sys2Proof.Machine.execPowerRestored s
  | .holdBusLow => Sys2Proof.Machine.execHoldBusLow s
  | .safeOffReclose => Sys2Proof.Machine.execSafeOffReclose s
  | .converterOvervoltageStop => Sys2Proof.Machine.execConverterOvervoltageStop s
  | .converterOvertempStop => Sys2Proof.Machine.execConverterOvertempStop s
  | .converterRestart upos alarmLost => Sys2Proof.Machine.execConverterRestart upos alarmLost s
  | .supplyWarnSet => Sys2Proof.Machine.execSupplyWarnSet s
  | .supplyWarnClear => Sys2Proof.Machine.execSupplyWarnClear s
  | .tempWarnChange temp => Sys2Proof.Machine.execTempWarnChange temp s
  | .outputFeedLow feed => Sys2Proof.Machine.execOutputFeedLow feed s
  | .outputFeedRecovered feed => Sys2Proof.Machine.execOutputFeedRecovered feed s
  | .currentLimitExpiry output => Sys2Proof.Machine.execCurrentLimitExpiry output s
  | .trainLineLinkUp p linked rate25 xr master => Sys2Proof.Machine.execTrainLineLinkUp p linked rate25 xr master s
  | .trainLineLinkDown p => Sys2Proof.Machine.execTrainLineLinkDown p s
  | .portUnassignedLink p => Sys2Proof.Machine.execPortUnassignedLink p s
  | .frameHeaderReceived p hdr arrival => Sys2Proof.Machine.execFrameHeaderReceived p hdr arrival s
  | .frameReceived p bytes arrival => Sys2Proof.Machine.execFrameReceived p bytes arrival s
  | .slotClose p => Sys2Proof.Machine.execSlotClose p s
  | .duplicateKeyExpiry => Sys2Proof.Machine.execDuplicateKeyExpiry s
  | .relayedCopyReceived f => Sys2Proof.Machine.execRelayedCopyReceived f s
  | .sampleInstant inp => Sys2Proof.Machine.execSampleInstant inp s
  | .outputInstant n => Sys2Proof.Machine.execOutputInstant n s
  | .cycleStartSend => Sys2Proof.Machine.execCycleStartSend s
  | .cycleStartDelivered p f arrival => Sys2Proof.Machine.execCycleStartDelivered p f arrival s
  | .cycleStartMissing => Sys2Proof.Machine.execCycleStartMissing s
  | .holdoverEntry => Sys2Proof.Machine.execHoldoverEntry s
  | .coastingEntry => Sys2Proof.Machine.execCoastingEntry s
  | .scheduleFetchComplete image => Sys2Proof.Machine.execScheduleFetchComplete image s
  | .scheduleTableActivation => Sys2Proof.Machine.execScheduleTableActivation s
  | .joinComplete => Sys2Proof.Machine.execJoinComplete s
  | .segmentPhaseOpen p => Sys2Proof.Machine.execSegmentPhaseOpen p s
  | .publicationSlotStart => Sys2Proof.Machine.execPublicationSlotStart s
  | .messageWindowStart => Sys2Proof.Machine.execMessageWindowStart s
  | .pollDelivered p f arrival => Sys2Proof.Machine.execPollDelivered p f arrival s
  | .pollReplySend => Sys2Proof.Machine.execPollReplySend s
  | .supervisionSlotStart => Sys2Proof.Machine.execSupervisionSlotStart s
  | .supervisionDelivered p f => Sys2Proof.Machine.execSupervisionDelivered p f s
  | .leadCycleWorkDone instant => Sys2Proof.Machine.execLeadCycleWorkDone instant s
  | .sourceFenced p src => Sys2Proof.Machine.execSourceFenced p src s
  | .fenceLifted p src => Sys2Proof.Machine.execFenceLifted p src s
  | .publicationDelivered p f => Sys2Proof.Machine.execPublicationDelivered p f s
  | .nullDelivered p f => Sys2Proof.Machine.execNullDelivered p f s
  | .probeDelivered p f => Sys2Proof.Machine.execProbeDelivered p f s
  | .claimDelivered p f => Sys2Proof.Machine.execClaimDelivered p f s
  | .censusRequestDelivered p f => Sys2Proof.Machine.execCensusRequestDelivered p f s
  | .censusReplyDelivered p f arrival => Sys2Proof.Machine.execCensusReplyDelivered p f arrival s
  | .numberingDelivered p f => Sys2Proof.Machine.execNumberingDelivered p f s
  | .commitDelivered p f => Sys2Proof.Machine.execCommitDelivered p f s
  | .commitAckDelivered p f => Sys2Proof.Machine.execCommitAckDelivered p f s
  | .joinReportDelivered p f => Sys2Proof.Machine.execJoinReportDelivered p f s
  | .mergeClaimDelivered p f => Sys2Proof.Machine.execMergeClaimDelivered p f s
  | .delayRequestDelivered p f t2 t3 => Sys2Proof.Machine.execDelayRequestDelivered p f t2 t3 s
  | .delayResponseDelivered p f t4 => Sys2Proof.Machine.execDelayResponseDelivered p f t4 s
  | .delayResponseTimeout p => Sys2Proof.Machine.execDelayResponseTimeout p s
  | .messageFrameDelivered p f => Sys2Proof.Machine.execMessageFrameDelivered p f s
  | .postedWriteMessage f => Sys2Proof.Machine.execPostedWriteMessage f s
  | .readRequestMessage f => Sys2Proof.Machine.execReadRequestMessage f s
  | .readResponseMessage f => Sys2Proof.Machine.execReadResponseMessage f s
  | .farErrorMessage f => Sys2Proof.Machine.execFarErrorMessage f s
  | .announcementMessage f => Sys2Proof.Machine.execAnnouncementMessage f s
  | .semaphoreMessage f => Sys2Proof.Machine.execSemaphoreMessage f s
  | .remoteCommandMessage f => Sys2Proof.Machine.execRemoteCommandMessage f s
  | .commandReplyMessage f => Sys2Proof.Machine.execCommandReplyMessage f s
  | .mirrorFallbackMessage f => Sys2Proof.Machine.execMirrorFallbackMessage f s
  | .remotePacketIncomplete chan tag => Sys2Proof.Machine.execRemotePacketIncomplete chan tag s
  | .settleEnd peer => Sys2Proof.Machine.execSettleEnd peer s
  | .probeTimer => Sys2Proof.Machine.execProbeTimer s
  | .claimRepeat => Sys2Proof.Machine.execClaimRepeat s
  | .claimWindowEnd => Sys2Proof.Machine.execClaimWindowEnd s
  | .censusReplySend => Sys2Proof.Machine.execCensusReplySend s
  | .censusRunClose => Sys2Proof.Machine.execCensusRunClose s
  | .censusRunStart => Sys2Proof.Machine.execCensusRunStart s
  | .waitingTimeout => Sys2Proof.Machine.execWaitingTimeout s
  | .commitAckSend => Sys2Proof.Machine.execCommitAckSend s
  | .commitAckTimeout => Sys2Proof.Machine.execCommitAckTimeout s
  | .commitCycleAdoption => Sys2Proof.Machine.execCommitCycleAdoption s
  | .lineBRetrain => Sys2Proof.Machine.execLineBRetrain s
  | .setoutNoAck => Sys2Proof.Machine.execSetoutNoAck s
  | .leaseLapse peer => Sys2Proof.Machine.execLeaseLapse peer s
  | .absorbingTimeout peer => Sys2Proof.Machine.execAbsorbingTimeout peer s
  | .vehicleAbsent pos => Sys2Proof.Machine.execVehicleAbsent pos s
  | .cabActiveChange active => Sys2Proof.Machine.execCabActiveChange active s
  | .boundaryLinkUp p claim numbering => Sys2Proof.Machine.execBoundaryLinkUp p claim numbering s
  | .boundaryOpen => Sys2Proof.Machine.execBoundaryOpen s
  | .eventTrainTimeFire index => Sys2Proof.Machine.execEventTrainTimeFire index s
  | .positionInvalid => Sys2Proof.Machine.execPositionInvalid s
  | .ptpSyncSend vport => Sys2Proof.Machine.execPtpSyncSend vport s
  | .ptpAnnounceSend vport => Sys2Proof.Machine.execPtpAnnounceSend vport s
  | .ptpDelayReqReceived vport seq requester arrival => Sys2Proof.Machine.execPtpDelayReqReceived vport seq requester arrival s
  | .ptpAnnounceReceived vport => Sys2Proof.Machine.execPtpAnnounceReceived vport s
  | .rtcSet => Sys2Proof.Machine.execRtcSet s
  | .skimCommit => Sys2Proof.Machine.execSkimCommit s
  | .fedCommitTimeout => Sys2Proof.Machine.execFedCommitTimeout s
  | .skimReadHeldAnswer => Sys2Proof.Machine.execSkimReadHeldAnswer s
  | .skimReadTimeout => Sys2Proof.Machine.execSkimReadTimeout s
  | .pinLeaseExpiry handle => Sys2Proof.Machine.execPinLeaseExpiry handle s
  | .snapshotCopyComplete => Sys2Proof.Machine.execSnapshotCopyComplete s
  | .routeTableActivation => Sys2Proof.Machine.execRouteTableActivation s
  | .resultHoldExpiry tag => Sys2Proof.Machine.execResultHoldExpiry tag s
  | .bridgeTimeoutExpiry tag => Sys2Proof.Machine.execBridgeTimeoutExpiry tag s
  | .bridgeMarkSend slot => Sys2Proof.Machine.execBridgeMarkSend slot s
  | .senderRecordExpiry slot seq => Sys2Proof.Machine.execSenderRecordExpiry slot seq s
  | .readAheadExpiry route => Sys2Proof.Machine.execReadAheadExpiry route s
  | .announcementRelease => Sys2Proof.Machine.execAnnouncementRelease s
  | .semaphoreLeaseExpiry sem => Sys2Proof.Machine.execSemaphoreLeaseExpiry sem s
  | .semaphoreWaitExpiry tag => Sys2Proof.Machine.execSemaphoreWaitExpiry tag s
  | .farBusLockTaken port => Sys2Proof.Machine.execFarBusLockTaken port s
  | .farBusLockExpiry port => Sys2Proof.Machine.execFarBusLockExpiry port s
  | .lockWaitExpiry tag => Sys2Proof.Machine.execLockWaitExpiry tag s
  | .farTransactionComplete key answer => Sys2Proof.Machine.execFarTransactionComplete key answer s
  | .vportLinkUp v speed fullDuplex mdix master => Sys2Proof.Machine.execVportLinkUp v speed fullDuplex mdix master s
  | .vportLinkDown v => Sys2Proof.Machine.execVportLinkDown v s
  | .vehicleFrameReceived v bytes bad => Sys2Proof.Machine.execVehicleFrameReceived v bytes bad s
  | .macEntryAgeing vlan mac => Sys2Proof.Machine.execMacEntryAgeing vlan mac s
  | .gateEntryBoundary v => Sys2Proof.Machine.execGateEntryBoundary v s
  | .gateListActivation v => Sys2Proof.Machine.execGateListActivation v s
  | .arpRequestReceived iface senderIp senderMac targetIp => Sys2Proof.Machine.execArpRequestReceived iface senderIp senderMac targetIp s
  | .arpReplyReceived iface senderIp senderMac => Sys2Proof.Machine.execArpReplyReceived iface senderIp senderMac s
  | .arpRetryTimer iface ip => Sys2Proof.Machine.execArpRetryTimer iface ip s
  | .arpEntryAgeing iface ip => Sys2Proof.Machine.execArpEntryAgeing iface ip s
  | .gratuitousArpRepeat iface => Sys2Proof.Machine.execGratuitousArpRepeat iface s
  | .ipDatagramReceived iface d => Sys2Proof.Machine.execIpDatagramReceived iface d s
  | .trdpPublish index => Sys2Proof.Machine.execTrdpPublish index s
  | .trdpPrReceived t => Sys2Proof.Machine.execTrdpPrReceived t s
  | .trdpPdReceived t => Sys2Proof.Machine.execTrdpPdReceived t s
  | .trdpMrReceived t => Sys2Proof.Machine.execTrdpMrReceived t s
  | .trdpMnReceived t => Sys2Proof.Machine.execTrdpMnReceived t s
  | .trdpReplyReceived t => Sys2Proof.Machine.execTrdpReplyReceived t s
  | .trdpReplyTimeout session => Sys2Proof.Machine.execTrdpReplyTimeout session s
  | .channelCyclicRequest ch => Sys2Proof.Machine.execChannelCyclicRequest ch s
  | .channelResponseReceived ch r => Sys2Proof.Machine.execChannelResponseReceived ch r s
  | .channelReplyTimeout ch => Sys2Proof.Machine.execChannelReplyTimeout ch s
  | .channelOnDemandSend ch => Sys2Proof.Machine.execChannelOnDemandSend ch s
  | .channelFaultedPoll ch => Sys2Proof.Machine.execChannelFaultedPoll ch s
  | .channelResolved ch => Sys2Proof.Machine.execChannelResolved ch s
  | .ringDescriptorReturn chan count => Sys2Proof.Machine.execRingDescriptorReturn chan count s
  | .stagingTimeout => Sys2Proof.Machine.execStagingTimeout s
  | .mvbBasicPeriod port => Sys2Proof.Machine.execMvbBasicPeriod port s
  | .mvbMasterFrameReceived port fcode addr checkOk => Sys2Proof.Machine.execMvbMasterFrameReceived port fcode addr checkOk s
  | .mvbSlaveFrameReceived port m => Sys2Proof.Machine.execMvbSlaveFrameReceived port m s
  | .serialBusCycleStart port => Sys2Proof.Machine.execSerialBusCycleStart port s
  | .serialTransactionHanded port => Sys2Proof.Machine.execSerialTransactionHanded port s
  | .canPortStart c => Sys2Proof.Machine.execCanPortStart c s
  | .canFrameReceived c m => Sys2Proof.Machine.execCanFrameReceived c m s
  | .pdoReceived c cobId data => Sys2Proof.Machine.execPdoReceived c cobId data s
  | .heartbeatReceived c node state => Sys2Proof.Machine.execHeartbeatReceived c node state s
  | .heartbeatTimeout c node => Sys2Proof.Machine.execHeartbeatTimeout c node s
  | .bootWaitExpiry c node => Sys2Proof.Machine.execBootWaitExpiry c node s
  | .sdoResponseReceived c node data => Sys2Proof.Machine.execSdoResponseReceived c node data s
  | .sdoTimeout c node => Sys2Proof.Machine.execSdoTimeout c node s
  | .emcyReceived c node data => Sys2Proof.Machine.execEmcyReceived c node data s
  | .syncProduce c => Sys2Proof.Machine.execSyncProduce c s
  | .heartbeatProduce c => Sys2Proof.Machine.execHeartbeatProduce c s
  | .canBusOff c => Sys2Proof.Machine.execCanBusOff c s
  | .busOffRecovery c => Sys2Proof.Machine.execBusOffRecovery c s
  | .fNop k => Sys2Proof.Machine.execFNop k s
  | .fLdi k => Sys2Proof.Machine.execFLdi k s
  | .fLdh k => Sys2Proof.Machine.execFLdh k s
  | .fMov k => Sys2Proof.Machine.execFMov k s
  | .fAdd k => Sys2Proof.Machine.execFAdd k s
  | .fAddi k => Sys2Proof.Machine.execFAddi k s
  | .fSub k => Sys2Proof.Machine.execFSub k s
  | .fAnd k => Sys2Proof.Machine.execFAnd k s
  | .fOr k => Sys2Proof.Machine.execFOr k s
  | .fXor k => Sys2Proof.Machine.execFXor k s
  | .fShl k => Sys2Proof.Machine.execFShl k s
  | .fShr k => Sys2Proof.Machine.execFShr k s
  | .fLd k => Sys2Proof.Machine.execFLd k s
  | .fSt k => Sys2Proof.Machine.execFSt k s
  | .fLdb k => Sys2Proof.Machine.execFLdb k s
  | .fStb k => Sys2Proof.Machine.execFStb k s
  | .fCmp k => Sys2Proof.Machine.execFCmp k s
  | .fCmpi k => Sys2Proof.Machine.execFCmpi k s
  | .fTmr k => Sys2Proof.Machine.execFTmr k s
  | .fTta k => Sys2Proof.Machine.execFTta k s
  | .fPta k => Sys2Proof.Machine.execFPta k s
  | .fWait k => Sys2Proof.Machine.execFWait k s
  | .fIn k => Sys2Proof.Machine.execFIn k s
  | .fOut k => Sys2Proof.Machine.execFOut k s
  | .fTget k => Sys2Proof.Machine.execFTget k s
  | .fTput k => Sys2Proof.Machine.execFTput k s
  | .fTend k => Sys2Proof.Machine.execFTend k s
  | .fCrc k => Sys2Proof.Machine.execFCrc k s
  | .fFault k => Sys2Proof.Machine.execFFault k s
  | .fTime k => Sys2Proof.Machine.execFTime k s
  | .fBr k => Sys2Proof.Machine.execFBr k s
  | .fLoop k => Sys2Proof.Machine.execFLoop k s
  | .floatRestart k => Sys2Proof.Machine.execFloatRestart k s
  | .floatTimerExpiry k => Sys2Proof.Machine.execFloatTimerExpiry k s
  | .lineSilence port => Sys2Proof.Machine.execLineSilence port s
  | .serialByteReceived port byte parityErr framingErr => Sys2Proof.Machine.execSerialByteReceived port byte parityErr framingErr s
  | .transmitDrained port => Sys2Proof.Machine.execTransmitDrained port s
  | .trainTimeTargetReached k => Sys2Proof.Machine.execTrainTimeTargetReached k s
  | .programTakeForce target => Sys2Proof.Machine.execProgramTakeForce target s
  | .minorityDetected core lane clock parity => Sys2Proof.Machine.execMinorityDetected core lane clock parity s
  | .noMajority lane clock parity => Sys2Proof.Machine.execNoMajority lane clock parity s
  | .comparatorFault lane clock => Sys2Proof.Machine.execComparatorFault lane clock s
  | .checkpointWriteComplete => Sys2Proof.Machine.execCheckpointWriteComplete s
  | .resyncComplete selfCheckOk => Sys2Proof.Machine.execResyncComplete selfCheckOk s
  | .restartComplete => Sys2Proof.Machine.execRestartComplete s
  | .tcmScrub core addr outcome => Sys2Proof.Machine.execTcmScrub core addr outcome s
  | .replayComplete mismatch count lane => Sys2Proof.Machine.execReplayComplete mismatch count lane s
  | .inputComparatorDisagree input => Sys2Proof.Machine.execInputComparatorDisagree input s
  | .inputFaultClear input => Sys2Proof.Machine.execInputFaultClear input s
  | .outputPulseTest output readsOff => Sys2Proof.Machine.execOutputPulseTest output readsOff s
  | .controlRecordReceived unit unitId cycle content => Sys2Proof.Machine.execControlRecordReceived unit unitId cycle content s
  | .commitMarkReceived content => Sys2Proof.Machine.execCommitMarkReceived content s
  | .safetyStateRecord skim part parts content => Sys2Proof.Machine.execSafetyStateRecord skim part parts content s
  | .outputImageRecord skim part parts content => Sys2Proof.Machine.execOutputImageRecord skim part parts content s
  | .writesAndForcesRecord skim part parts content => Sys2Proof.Machine.execWritesAndForcesRecord skim part parts content s
  | .portTrafficRecord fromUnit skim part parts content => Sys2Proof.Machine.execPortTrafficRecord fromUnit skim part parts content s
  | .peerSegmentDown seg => Sys2Proof.Machine.execPeerSegmentDown seg s
  | .interlockReadingChange ilkIn ownLoop => Sys2Proof.Machine.execInterlockReadingChange ilkIn ownLoop s
  | .interlockSettle => Sys2Proof.Machine.execInterlockSettle s
  | .ilkFaultSet => Sys2Proof.Machine.execIlkFaultSet s
  | .ilkFaultClear => Sys2Proof.Machine.execIlkFaultClear s
  | .roleWatchdogExpiry => Sys2Proof.Machine.execRoleWatchdogExpiry s
  | .roleTakeover => Sys2Proof.Machine.execRoleTakeover s
  | .handoverSwitch => Sys2Proof.Machine.execHandoverSwitch s
  | .switchback => Sys2Proof.Machine.execSwitchback s
  | .grantExpiry => Sys2Proof.Machine.execGrantExpiry s
  | .hawkFence => Sys2Proof.Machine.execHawkFence s
  | .hawkClaim => Sys2Proof.Machine.execHawkClaim s
  | .hawkTake => Sys2Proof.Machine.execHawkTake s
  | .hawkRelease => Sys2Proof.Machine.execHawkRelease s
  | .coldTakeoverEnd => Sys2Proof.Machine.execColdTakeoverEnd s
  | .gapRepeatEnd => Sys2Proof.Machine.execGapRepeatEnd s
  | .wakePulseQualified p => Sys2Proof.Machine.execWakePulseQualified p s
  | .wakePulseEnd => Sys2Proof.Machine.execWakePulseEnd s
  | .refractoryEnd => Sys2Proof.Machine.execRefractoryEnd s
  | .wakeWireStuck p => Sys2Proof.Machine.execWakeWireStuck p s
  | .wakeWireReleased p => Sys2Proof.Machine.execWakeWireReleased p s
  | .tc10WakeReceived link => Sys2Proof.Machine.execTc10WakeReceived link s
  | .tc10SleepTimeout link => Sys2Proof.Machine.execTc10SleepTimeout link s
  | .wakeInputActive input => Sys2Proof.Machine.execWakeInputActive input s
  | .alarmFire index => Sys2Proof.Machine.execAlarmFire index s
  | .alarmHoldEnd index => Sys2Proof.Machine.execAlarmHoldEnd index s
  | .commandHoldEnd => Sys2Proof.Machine.execCommandHoldEnd s
  | .pointOfNoReturn => Sys2Proof.Machine.execPointOfNoReturn s
  | .sleepEntry => Sys2Proof.Machine.execSleepEntry s
  | .sleepEntryComplete => Sys2Proof.Machine.execSleepEntryComplete s
  | .falseWake => Sys2Proof.Machine.execFalseWake s
  | .wakeSourceUnmasked source => Sys2Proof.Machine.execWakeSourceUnmasked source s
  | .wakeInputStuck input => Sys2Proof.Machine.execWakeInputStuck input s
  | .wakeInputUnstuck input => Sys2Proof.Machine.execWakeInputUnstuck input s
  | .lineKeepingEntry => Sys2Proof.Machine.execLineKeepingEntry s
  | .lineKeepingExit source => Sys2Proof.Machine.execLineKeepingExit source s
  | .maxAwakeExpiry => Sys2Proof.Machine.execMaxAwakeExpiry s
  | .eventReported e => Sys2Proof.Machine.execEventReported e s
  | .tokenRefill code => Sys2Proof.Machine.execTokenRefill code s
  | .recorderFlush writeOk => Sys2Proof.Machine.execRecorderFlush writeOk s
  | .recorderDegraded => Sys2Proof.Machine.execRecorderDegraded s
  | .summaryPeriodEnd => Sys2Proof.Machine.execSummaryPeriodEnd s
  | .sessionIdle sess => Sys2Proof.Machine.execSessionIdle sess s
  | .transferIdle kind target => Sys2Proof.Machine.execTransferIdle kind target s
  | .replyKeepExpiry sess seq => Sys2Proof.Machine.execReplyKeepExpiry sess seq s
  | .opIdentity p => Sys2Proof.Machine.execOpIdentity p s
  | .opStatus p => Sys2Proof.Machine.execOpStatus p s
  | .opTime p => Sys2Proof.Machine.execOpTime p s
  | .opSkimRead p => Sys2Proof.Machine.execOpSkimRead p s
  | .opSkimWrite p => Sys2Proof.Machine.execOpSkimWrite p s
  | .opSkimDescriptor p => Sys2Proof.Machine.execOpSkimDescriptor p s
  | .opPinTake p => Sys2Proof.Machine.execOpPinTake p s
  | .opPinRenew p => Sys2Proof.Machine.execOpPinRenew p s
  | .opPinRelease p => Sys2Proof.Machine.execOpPinRelease p s
  | .opForce p => Sys2Proof.Machine.execOpForce p s
  | .opForceRelease p => Sys2Proof.Machine.execOpForceRelease p s
  | .opSnapshotTake p => Sys2Proof.Machine.execOpSnapshotTake p s
  | .opSnapshotRead p => Sys2Proof.Machine.execOpSnapshotRead p s
  | .opSnapshotLock p => Sys2Proof.Machine.execOpSnapshotLock p s
  | .opSnapshotUnlock p => Sys2Proof.Machine.execOpSnapshotUnlock p s
  | .opRouteRead p => Sys2Proof.Machine.execOpRouteRead p s
  | .opRouteEdit p => Sys2Proof.Machine.execOpRouteEdit p s
  | .opRouteStatus p => Sys2Proof.Machine.execOpRouteStatus p s
  | .opRouteTransferBegin p => Sys2Proof.Machine.execOpRouteTransferBegin p s
  | .opRouteTransferChunk p => Sys2Proof.Machine.execOpRouteTransferChunk p s
  | .opRouteTransferFinish p => Sys2Proof.Machine.execOpRouteTransferFinish p s
  | .opRouteDiscardStaged p => Sys2Proof.Machine.execOpRouteDiscardStaged p s
  | .opCycleStatus p => Sys2Proof.Machine.execOpCycleStatus p s
  | .opScheduleRead p => Sys2Proof.Machine.execOpScheduleRead p s
  | .opStep p => Sys2Proof.Machine.execOpStep p s
  | .opEventRead p => Sys2Proof.Machine.execOpEventRead p s
  | .opScheduleEventTransferBegin p => Sys2Proof.Machine.execOpScheduleEventTransferBegin p s
  | .opScheduleEventTransferChunk p => Sys2Proof.Machine.execOpScheduleEventTransferChunk p s
  | .opScheduleEventTransferFinish p => Sys2Proof.Machine.execOpScheduleEventTransferFinish p s
  | .opSetoutTable p => Sys2Proof.Machine.execOpSetoutTable p s
  | .opSetoutStatus p => Sys2Proof.Machine.execOpSetoutStatus p s
  | .opRenumber p => Sys2Proof.Machine.execOpRenumber p s
  | .opFarNumbering p => Sys2Proof.Machine.execOpFarNumbering p s
  | .opPowerStatus p => Sys2Proof.Machine.execOpPowerStatus p s
  | .opStayAwake p => Sys2Proof.Machine.execOpStayAwake p s
  | .opWakeAll p => Sys2Proof.Machine.execOpWakeAll p s
  | .opAlarmRead p => Sys2Proof.Machine.execOpAlarmRead p s
  | .opAlarmWrite p => Sys2Proof.Machine.execOpAlarmWrite p s
  | .opHoldersRead p => Sys2Proof.Machine.execOpHoldersRead p s
  | .opHoldersClear p => Sys2Proof.Machine.execOpHoldersClear p s
  | .opPairStatus p => Sys2Proof.Machine.execOpPairStatus p s
  | .opHandover p => Sys2Proof.Machine.execOpHandover p s
  | .opRoleGrant p => Sys2Proof.Machine.execOpRoleGrant p s
  | .opSafeStatusRead p => Sys2Proof.Machine.execOpSafeStatusRead p s
  | .opMismatchLog p => Sys2Proof.Machine.execOpMismatchLog p s
  | .opComplexReset p => Sys2Proof.Machine.execOpComplexReset p s
  | .opOutputFaultClear p => Sys2Proof.Machine.execOpOutputFaultClear p s
  | .opEquationStatus p => Sys2Proof.Machine.execOpEquationStatus p s
  | .opEquationTransferBegin p => Sys2Proof.Machine.execOpEquationTransferBegin p s
  | .opEquationTransferChunk p => Sys2Proof.Machine.execOpEquationTransferChunk p s
  | .opEquationTransferFinish p => Sys2Proof.Machine.execOpEquationTransferFinish p s
  | .opRecorderRead p => Sys2Proof.Machine.execOpRecorderRead p s
  | .opRecorderStats p => Sys2Proof.Machine.execOpRecorderStats p s
  | .opRecorderStatus p => Sys2Proof.Machine.execOpRecorderStatus p s
  | .opImageStatus p => Sys2Proof.Machine.execOpImageStatus p s
  | .opImageTransferBegin p => Sys2Proof.Machine.execOpImageTransferBegin p s
  | .opImageTransferChunk p => Sys2Proof.Machine.execOpImageTransferChunk p s
  | .opImageTransferFinish p => Sys2Proof.Machine.execOpImageTransferFinish p s
  | .opImageActivate p => Sys2Proof.Machine.execOpImageActivate p s
  | .opImageRollback p => Sys2Proof.Machine.execOpImageRollback p s
  | .opKeyEnrol p => Sys2Proof.Machine.execOpKeyEnrol p s
  | .opVportStatus p => Sys2Proof.Machine.execOpVportStatus p s
  | .opChannelRead p => Sys2Proof.Machine.execOpChannelRead p s
  | .opChannelWrite p => Sys2Proof.Machine.execOpChannelWrite p s
  | .opProfileGateTransferBegin p => Sys2Proof.Machine.execOpProfileGateTransferBegin p s
  | .opProfileGateTransferChunk p => Sys2Proof.Machine.execOpProfileGateTransferChunk p s
  | .opProfileGateTransferFinish p => Sys2Proof.Machine.execOpProfileGateTransferFinish p s
  | .opFieldStatus p => Sys2Proof.Machine.execOpFieldStatus p s
  | .opCanopenNodes p => Sys2Proof.Machine.execOpCanopenNodes p s
  | .opSerialProgramTransferBegin p => Sys2Proof.Machine.execOpSerialProgramTransferBegin p s
  | .opSerialProgramTransferChunk p => Sys2Proof.Machine.execOpSerialProgramTransferChunk p s
  | .opSerialProgramTransferFinish p => Sys2Proof.Machine.execOpSerialProgramTransferFinish p s
  | .opPostedWrite p => Sys2Proof.Machine.execOpPostedWrite p s
  | .opRead p => Sys2Proof.Machine.execOpRead p s
  | .opRetry p => Sys2Proof.Machine.execOpRetry p s
  | .opLockedSequence p => Sys2Proof.Machine.execOpLockedSequence p s
  | .opSemaphore p => Sys2Proof.Machine.execOpSemaphore p s
  | .opEndpointOpen p => Sys2Proof.Machine.execOpEndpointOpen p s
  | .opEndpointClose p => Sys2Proof.Machine.execOpEndpointClose p s
  | .opErrorLog p => Sys2Proof.Machine.execOpErrorLog p s
  | .opRemoteCommand p => Sys2Proof.Machine.execOpRemoteCommand p s
  | .opRegisterRead p => Sys2Proof.Machine.execOpRegisterRead p s
  | .opRegisterWrite p => Sys2Proof.Machine.execOpRegisterWrite p s
  | .opCx320Counters p => Sys2Proof.Machine.execOpCx320Counters p s
  | .opSplitEnter p => Sys2Proof.Machine.execOpSplitEnter p s
  | .opSplitLeave p => Sys2Proof.Machine.execOpSplitLeave p s
  | .opCoreHalt p => Sys2Proof.Machine.execOpCoreHalt p s
  | .opCoreStep p => Sys2Proof.Machine.execOpCoreStep p s
  | .opCoreRun p => Sys2Proof.Machine.execOpCoreRun p s
  | .opCoreRead p => Sys2Proof.Machine.execOpCoreRead p s
  | .opCoreWrite p => Sys2Proof.Machine.execOpCoreWrite p s
  | .opReplay p => Sys2Proof.Machine.execOpReplay p s
  | .cmdCtrlWrite w => Sys2Proof.Machine.execCmdCtrlWrite w s
  | .replyCtrlWrite w => Sys2Proof.Machine.execReplyCtrlWrite w s
  | .intStatusWrite w => Sys2Proof.Machine.execIntStatusWrite w s
  | .intMaskWrite w => Sys2Proof.Machine.execIntMaskWrite w s
  | .trainTimeHiRead => Sys2Proof.Machine.execTrainTimeHiRead s
  | .rcFieldRead address => Sys2Proof.Machine.execRcFieldRead address s
  | .w1cBitWrite address w => Sys2Proof.Machine.execW1cBitWrite address w s
  | .hostRingReadIndexWrite w => Sys2Proof.Machine.execHostRingReadIndexWrite w s
  | .hostRegisterWrite command words partialWord => Sys2Proof.Machine.execHostRegisterWrite command words partialWord s
  | .maintButtonPress => Sys2Proof.Machine.execMaintButtonPress s
  | .maintButtonRelease heldMs => Sys2Proof.Machine.execMaintButtonRelease heldMs s
  | .maintWindowClose => Sys2Proof.Machine.execMaintWindowClose s
  | .maintJumperFitted => Sys2Proof.Machine.execMaintJumperFitted s
  | .maintJumperRemoved => Sys2Proof.Machine.execMaintJumperRemoved s
  | .presenceRawChange sealOpen debugFitted => Sys2Proof.Machine.execPresenceRawChange sealOpen debugFitted s
  | .sealOpened => Sys2Proof.Machine.execSealOpened s
  | .sealClosed => Sys2Proof.Machine.execSealClosed s
  | .debugJumperFitted => Sys2Proof.Machine.execDebugJumperFitted s
  | .debugJumperRemoved => Sys2Proof.Machine.execDebugJumperRemoved s
  | .presenceInputFault input => Sys2Proof.Machine.execPresenceInputFault input s
  | .presenceFaultLift input => Sys2Proof.Machine.execPresenceFaultLift input s
  | .trialConfirmed => Sys2Proof.Machine.execTrialConfirmed s
  | .trialTimeout => Sys2Proof.Machine.execTrialTimeout s
  | .monitorLine => Sys2Proof.Machine.execMonitorLine s
  | .monHelp => Sys2Proof.Machine.execMonHelp s
  | .monBaud rate => Sys2Proof.Machine.execMonBaud rate s
  | .monPacket => Sys2Proof.Machine.execMonPacket s
  | .packetModeFrame bytes => Sys2Proof.Machine.execPacketModeFrame bytes s
  | .packetByteTimeout => Sys2Proof.Machine.execPacketByteTimeout s
  | .packetModeEnd => Sys2Proof.Machine.execPacketModeEnd s
  | .peerSegmentLinkUp seg master => Sys2Proof.Machine.execPeerSegmentLinkUp seg master s
  | .resetCommand => Sys2Proof.Machine.execResetCommand s
  | .noFirmwareLine => Sys2Proof.Machine.execNoFirmwareLine s
  | .monitorCharacterReceived b => Sys2Proof.Machine.execMonitorCharacterReceived b s

end Sys2Proof.Machine
end

