-- ==== Sys2Proof/Safety.lean ====
section
/-! DEFINITION. What statements about the whole machine are made of: the parts of the state and which of them a
command may write, what a command answers, the causes that hold the safety outputs de-energised, and the canonical form of the host port's
windows. -/

namespace Sys2Proof.Machine

/-- The command answers a next state (no fault, no refusal), and `P` holds of that state. -/
def Answers (i : Instr) (s : State) (P : State → Prop) : Prop := ∃ t, exec i s = .next t ∧ P t

/-! ### The parts of the state -/

/-- The parts of the state, one for each field of `State`. -/
inductive Part where
  | pending | clk | freeCount | out | unitId | hwIssue | unitNo | upos | unplaced | cfg | line | cyc | set | time | skim
  | route | bridge | veh | fld | recorder | cmd | host | pres | img | mon | start | pair | sleep | safe
deriving DecidableEq, Repr

/-- What a part holds. -/
abbrev Part.Ty : Part → Type
  | .pending => List Instr | .clk => Nat | .freeCount => Nat | .out => List Out | .unitId => Nat | .hwIssue => Nat
  | .unitNo => Nat | .upos => Nat | .unplaced => Bool | .cfg => Option Cfg | .line => LineSt | .cyc => CycleSt
  | .set => SetoutSt | .time => TimeSt | .skim => SkimSt | .route => Routing | .bridge => BridgeSt | .veh => VehSt
  | .fld => FieldSt | .recorder => RecorderSt | .cmd => CmdSt | .host => HostSt | .pres => PresenceSt
  | .img => ImageSt | .mon => MonitorSt | .start => StartSt | .pair => PairSt | .sleep => SleepSt | .safe => SafeSt

/-- A part's value. -/
def State.part (s : State) : (p : Part) → p.Ty
  | .pending => s.pending | .clk => s.clk | .freeCount => s.freeCount | .out => s.out | .unitId => s.unitId
  | .hwIssue => s.hwIssue | .unitNo => s.unitNo | .upos => s.upos | .unplaced => s.unplaced | .cfg => s.cfg
  | .line => s.line | .cyc => s.cyc | .set => s.set | .time => s.time | .skim => s.skim | .route => s.route
  | .bridge => s.bridge | .veh => s.veh | .fld => s.fld | .recorder => s.recorder | .cmd => s.cmd | .host => s.host
  | .pres => s.pres | .img => s.img | .mon => s.mon | .start => s.start | .pair => s.pair | .sleep => s.sleep
  | .safe => s.safe

/-- `t` differs from `s` in the parts `w` at most. -/
def Only (w : List Part) (s t : State) : Prop := ∀ p : Part, p ∉ w → t.part p = s.part p

/-- The parts that a command can write. No command writes the queue, the count of ns, or the unit's identity. -/
def writes : Instr → List Part
  | .powerOnReset _ _ | .converterRestart _ _ => [.unitNo, .upos, .unplaced, .time, .host, .img, .start, .sleep]
  | .bankCheckComplete => [.unplaced, .cfg, .line, .cyc, .set, .time, .img, .start, .pair]
  | .islandReady => [.out, .line, .start, .sleep]
  | .lineBRelayOpen _ | .duplicateKeyExpiry => [.line]
  | .ready => [.out, .time, .skim, .route, .veh, .fld, .recorder, .host, .img, .mon, .start, .safe]
  | .scratchTestComplete _ => [.skim, .bridge, .recorder, .host, .safe]
  | .resetNAsserted | .managementWatchdogExpiry | .lineKeepingEntry | .trialTimeout | .resetCommand =>
    [.set, .time, .skim, .route, .bridge, .veh, .fld, .recorder, .cmd, .host, .pres, .img, .mon, .start, .pair, .sleep, .safe]
  | .resetNReleased => [.host, .img]
  | .internalSupplyFail | .converterOvervoltageStop | .converterOvertempStop =>
    [.cfg, .line, .cyc, .set, .time, .skim, .route, .bridge, .veh, .fld, .recorder, .cmd, .host, .pres, .img, .mon, .start, .pair, .sleep, .safe]
  | .powerFailWarning _ => [.skim, .recorder, .host, .start]
  | .powerRestored | .eventReported _ | .recorderFlush _ => [.skim, .recorder, .host]
  | .holdBusLow | .safeOffReclose => [.start, .safe]
  | .supplyWarnSet | .supplyWarnClear | .tempWarnChange _ | .outputFeedLow _ | .outputFeedRecovered _ => [.start]
  | .currentLimitExpiry _ | .outputPulseTest _ _ => [.recorder, .safe]
  | .trainLineLinkUp _ _ _ _ _ | .trainLineLinkDown _ | .settleEnd _ | .claimRepeat | .claimWindowEnd
  | .censusReplySend | .censusRunClose | .censusRunStart | .commitAckSend | .commitAckTimeout => [.out, .line, .set]
  | .portUnassignedLink _ | .tokenRefill _ | .recorderDegraded | .summaryPeriodEnd => [.recorder]
  | .frameHeaderReceived _ _ _ | .joinComplete | .pollDelivered _ _ _ => [.line, .cyc]
  | .frameReceived _ _ _ => [.out, .line, .cyc, .time, .pair]
  | .slotClose _ => [.out, .line, .cyc, .pair]
  | .relayedCopyReceived _ => [.freeCount, .out, .line, .cyc, .time, .pair]
  | .sampleInstant _ =>
    [.freeCount, .out, .cyc, .set, .time, .skim, .route, .bridge, .fld, .recorder, .img, .start, .pair, .sleep, .safe]
  | .outputInstant _ => [.out, .skim, .route, .bridge, .veh, .fld, .recorder, .img, .safe]
  | .cycleStartSend => [.out, .line, .cyc, .set, .time, .skim, .bridge, .fld, .recorder, .host, .pair, .sleep]
  | .cycleStartDelivered _ _ _ =>
    [.freeCount, .out, .line, .cyc, .set, .time, .skim, .bridge, .fld, .recorder, .host, .pair, .sleep]
  | .cycleStartMissing => [.cyc, .set, .time, .recorder, .pair]
  | .holdoverEntry | .coastingEntry => [.cyc, .time, .host]
  | .scheduleFetchComplete _ | .scheduleTableActivation => [.cyc]
  | .segmentPhaseOpen _ => [.out, .line, .cyc, .time]
  | .publicationSlotStart => [.out, .line, .skim, .recorder, .pair]
  | .messageWindowStart => [.freeCount, .out, .line, .cyc, .set, .bridge, .recorder, .host, .pair, .sleep, .safe]
  | .pollReplySend => [.out, .line, .cyc, .set, .bridge]
  | .supervisionSlotStart => [.out, .line, .set, .pair, .sleep]
  | .supervisionDelivered _ _ => [.out, .line, .set, .sleep]
  | .leadCycleWorkDone _ => [.out, .cyc, .set, .time, .skim, .recorder, .pair, .sleep]
  | .sourceFenced _ _ | .fenceLifted _ _ => [.cyc, .recorder]
  | .publicationDelivered _ _ => [.line, .set, .skim, .recorder, .sleep]
  | .nullDelivered _ _ => [.line, .set, .skim, .sleep]
  | .probeDelivered _ _ | .claimDelivered _ _ | .censusRequestDelivered _ _ | .censusReplyDelivered _ _ _
  | .numberingDelivered _ _ | .commitDelivered _ _ | .commitAckDelivered _ _ | .joinReportDelivered _ _
  | .mergeClaimDelivered _ _ | .lineBRetrain => [.line, .set]
  | .delayRequestDelivered _ _ _ _ => [.out, .line]
  | .delayResponseDelivered _ _ _ => [.line, .cyc, .time, .skim, .fld, .recorder, .host]
  | .delayResponseTimeout _ => [.cyc, .time, .skim, .fld, .recorder, .host]
  | .messageFrameDelivered _ _ => [.freeCount, .out, .line, .cyc, .set, .bridge, .veh, .recorder, .host, .pair]
  | .postedWriteMessage _ | .farBusLockExpiry _ | .channelCyclicRequest _ | .channelResponseReceived _ _
  | .channelReplyTimeout _ | .channelOnDemandSend _ | .channelFaultedPoll _ | .serialBusCycleStart _ | .fNop _
  | .fLdi _ | .fLdh _ | .fMov _ | .fAdd _ | .fAddi _ | .fSub _ | .fAnd _ | .fOr _ | .fXor _ | .fShl _ | .fShr _
  | .fLd _ | .fSt _ | .fLdb _ | .fStb _ | .fCmp _ | .fCmpi _ | .fTmr _ | .fTta _ | .fPta _ | .fWait _ | .fIn _
  | .fOut _ | .fTget _ | .fTput _ | .fTend _ | .fCrc _ | .fTime _ | .fBr _ | .fLoop _ =>
    [.freeCount, .out, .skim, .route, .bridge, .veh, .fld, .recorder, .host]
  | .readRequestMessage _ | .semaphoreMessage _ | .semaphoreLeaseExpiry _ | .semaphoreWaitExpiry _
  | .farBusLockTaken _ | .lockWaitExpiry _ | .farTransactionComplete _ _ | .vportLinkDown _ | .arpEntryAgeing _ _
  | .trdpReplyReceived _ | .trdpReplyTimeout _ | .channelResolved _ | .serialTransactionHanded _
  | .sdoResponseReceived _ _ _ | .sdoTimeout _ _ =>
    [.freeCount, .out, .route, .bridge, .veh, .fld, .recorder, .host]
  | .readResponseMessage _ | .announcementMessage _ | .resultHoldExpiry _ => [.bridge, .recorder]
  | .farErrorMessage _ | .bridgeTimeoutExpiry _ => [.bridge, .recorder, .host]
  | .remoteCommandMessage _ | .remotePacketIncomplete _ _ | .opIdentity _ | .opStatus _ | .opTime _
  | .opSnapshotRead _ | .opRouteRead _ | .opRouteStatus _ | .opRouteTransferChunk _ | .opCycleStatus _
  | .opScheduleRead _ | .opEventRead _ | .opScheduleEventTransferChunk _ | .opSetoutTable _ | .opSetoutStatus _
  | .opAlarmRead _ | .opHoldersRead _ | .opPairStatus _ | .opSafeStatusRead _ | .opMismatchLog _
  | .opEquationStatus _ | .opEquationTransferChunk _ | .opRecorderRead _ | .opRecorderStats _
  | .opRecorderStatus _ | .opImageStatus _ | .opImageTransferChunk _ | .opVportStatus _ | .opChannelRead _
  | .opProfileGateTransferChunk _ | .opCanopenNodes _ | .opSerialProgramTransferChunk _ | .opEndpointOpen _
  | .opEndpointClose _ | .opReplay _ | .cmdCtrlWrite _ | .replyCtrlWrite _ | .monitorLine | .packetModeFrame _
  | .monitorCharacterReceived _ => [.out, .bridge, .veh, .cmd, .host, .mon]
  | .commandReplyMessage _ => [.cyc, .bridge, .recorder, .cmd]
  | .mirrorFallbackMessage _ => [.bridge, .recorder, .pair]
  | .probeTimer => [.out, .line, .set, .time]
  | .waitingTimeout | .vehicleAbsent _ | .cabActiveChange _ | .boundaryOpen => [.set]
  | .commitCycleAdoption => [.freeCount, .line, .cyc, .set, .time, .skim, .bridge, .recorder, .host, .sleep]
  | .setoutNoAck => [.set, .recorder]
  | .leaseLapse _ | .absorbingTimeout _ => [.out, .line, .cyc, .set, .time, .host]
  | .boundaryLinkUp _ _ _ => [.out, .line, .set, .recorder]
  | .eventTrainTimeFire _ => [.time, .skim, .bridge, .fld, .recorder]
  | .positionInvalid => [.time]
  | .ptpSyncSend _ | .ptpAnnounceSend _ => [.out, .time]
  | .ptpDelayReqReceived _ _ _ _ => [.out]
  | .ptpAnnounceReceived _ => [.time, .recorder]
  | .rtcSet => [.start, .sleep]
  | .skimCommit | .fedCommitTimeout | .commitMarkReceived _ =>
    [.freeCount, .out, .time, .skim, .route, .bridge, .recorder, .host, .pair, .safe]
  | .skimReadHeldAnswer | .skimReadTimeout | .opSkimRead _ | .opSkimDescriptor _ | .opPinTake _ | .opPinRenew _
  | .opPinRelease _ | .opForce _ | .opForceRelease _ | .opSnapshotLock _ | .opSnapshotUnlock _ =>
    [.out, .skim, .bridge, .veh, .cmd, .host, .mon]
  | .pinLeaseExpiry _ | .snapshotCopyComplete => [.skim]
  | .routeTableActivation => [.freeCount, .route, .recorder]
  | .bridgeMarkSend _ | .senderRecordExpiry _ _ | .readAheadExpiry _ => [.bridge]
  | .announcementRelease => [.freeCount, .out, .line, .bridge, .veh, .recorder, .host, .pair]
  | .vportLinkUp _ _ _ _ _ | .arpRequestReceived _ _ _ _ | .arpReplyReceived _ _ _ | .ipDatagramReceived _ _
  | .trdpPrReceived _ => [.out, .veh, .recorder]
  | .vehicleFrameReceived _ _ _ => [.freeCount, .out, .line, .veh, .recorder, .host, .pair]
  | .macEntryAgeing _ _ | .hostRingReadIndexWrite _ => [.veh]
  | .gateEntryBoundary _ | .gateListActivation _ | .arpRetryTimer _ _ | .gratuitousArpRepeat _ | .trdpPublish _ =>
    [.out, .veh]
  | .trdpPdReceived _ => [.route, .veh, .recorder]
  | .trdpMrReceived _ | .trdpMnReceived _ => [.out, .bridge, .veh, .recorder, .cmd, .host, .mon]
  | .ringDescriptorReturn _ _ => [.veh, .host]
  | .stagingTimeout => [.freeCount, .line, .bridge, .veh, .recorder, .host, .pair]
  | .mvbBasicPeriod _ => [.out, .bridge, .fld, .recorder]
  | .mvbMasterFrameReceived _ _ _ _ | .busOffRecovery _ => [.out, .fld]
  | .mvbSlaveFrameReceived _ _ => [.route, .bridge, .fld, .recorder]
  | .canPortStart _ | .heartbeatReceived _ _ _ | .bootWaitExpiry _ _ | .syncProduce _ | .heartbeatProduce _ =>
    [.out, .bridge, .fld]
  | .canFrameReceived _ _ | .heartbeatTimeout _ _ | .floatRestart _ | .floatTimerExpiry _ | .lineSilence _
  | .serialByteReceived _ _ _ _ | .transmitDrained _ | .trainTimeTargetReached _ => [.fld]
  | .pdoReceived _ _ _ => [.route, .fld]
  | .emcyReceived _ _ _ => [.bridge, .fld, .recorder]
  | .canBusOff _ => [.freeCount, .fld, .recorder]
  | .fFault _ => [.freeCount, .out, .line, .cyc, .skim, .route, .bridge, .veh, .fld, .recorder, .host]
  | .programTakeForce _ => [.fld, .recorder]
  | .minorityDetected _ _ _ _ | .tcmScrub _ _ _ => [.freeCount, .skim, .recorder, .host, .safe]
  | .noMajority _ _ _ | .comparatorFault _ _ => [.skim, .recorder, .host, .safe]
  | .checkpointWriteComplete => [.freeCount, .out, .skim, .bridge, .host, .safe]
  | .resyncComplete _ => [.recorder, .host, .safe]
  | .restartComplete => [.host, .safe]
  | .replayComplete _ _ _ => [.out, .bridge, .veh, .recorder, .cmd, .host, .mon, .safe]
  | .inputComparatorDisagree _ => [.set, .recorder, .safe]
  | .inputFaultClear _ => [.safe]
  | .controlRecordReceived _ _ _ _ => [.freeCount, .out, .unplaced, .line, .recorder, .pair, .safe]
  | .safetyStateRecord _ _ _ _ => [.freeCount, .recorder, .pair]
  | .outputImageRecord _ _ _ _ | .writesAndForcesRecord _ _ _ _ => [.freeCount, .pair]
  | .portTrafficRecord _ _ _ _ _ => [.freeCount, .skim, .route, .recorder, .pair]
  | .peerSegmentDown _ | .interlockSettle | .ilkFaultSet | .ilkFaultClear | .coldTakeoverEnd | .gapRepeatEnd
  | .peerSegmentLinkUp _ _ => [.pair]
  | .interlockReadingChange _ _ | .roleWatchdogExpiry | .grantExpiry | .hawkFence =>
    [.set, .recorder, .host, .pair, .safe]
  | .roleTakeover | .hawkTake => [.set, .skim, .route, .bridge, .recorder, .host, .pair]
  | .handoverSwitch => [.set, .skim, .route, .bridge, .recorder, .host, .pair, .safe]
  | .switchback | .hawkRelease => [.out, .set, .recorder, .host, .pair, .safe]
  | .hawkClaim => [.out, .pair]
  | .wakePulseQualified _ | .tc10WakeReceived _ | .wakeInputActive _ | .alarmFire _ | .lineKeepingExit _ =>
    [.out, .time, .recorder, .host, .img, .start, .sleep]
  | .wakePulseEnd | .refractoryEnd | .wakeWireReleased _ | .tc10SleepTimeout _ | .alarmHoldEnd _
  | .commandHoldEnd | .pointOfNoReturn | .wakeInputUnstuck _ | .maxAwakeExpiry => [.sleep]
  | .wakeWireStuck _ | .wakeSourceUnmasked _ | .wakeInputStuck _ => [.recorder, .sleep]
  | .sleepEntry | .falseWake =>
    [.out, .cyc, .set, .time, .skim, .route, .bridge, .veh, .fld, .recorder, .cmd, .host, .pres, .img, .mon, .start, .pair, .sleep, .safe]
  | .sleepEntryComplete => [.out, .line, .cyc, .set, .time, .recorder, .host, .img, .start, .pair, .sleep]
  | .sessionIdle _ | .replyKeepExpiry _ _ => [.cmd]
  | .transferIdle _ _ => [.cmd, .img]
  | .opSkimWrite _ => [.freeCount, .out, .skim, .bridge, .veh, .cmd, .host, .mon]
  | .opSnapshotTake _ => [.out, .skim, .bridge, .veh, .recorder, .cmd, .host, .mon]
  | .opRouteEdit _ | .opRouteDiscardStaged _ => [.out, .route, .bridge, .veh, .cmd, .host, .mon]
  | .opRouteTransferBegin _ | .opScheduleEventTransferBegin _ | .opEquationTransferBegin _
  | .opImageTransferBegin _ | .opImageActivate _ | .opImageRollback _ | .opProfileGateTransferBegin _
  | .opSerialProgramTransferBegin _ => [.out, .bridge, .veh, .cmd, .host, .img, .mon]
  | .opRouteTransferFinish _ | .opScheduleEventTransferFinish _ | .opEquationTransferFinish _
  | .opImageTransferFinish _ | .opProfileGateTransferFinish _ | .opSerialProgramTransferFinish _ =>
    [.out, .cfg, .cyc, .time, .route, .bridge, .veh, .fld, .recorder, .cmd, .host, .img, .mon, .safe]
  | .opStep _ => [.out, .time, .bridge, .veh, .cmd, .host, .mon]
  | .opRenumber _ => [.out, .cyc, .set, .bridge, .veh, .cmd, .host, .mon]
  | .opFarNumbering _ => [.out, .set, .bridge, .veh, .recorder, .cmd, .host, .mon]
  | .opPowerStatus _ | .opStayAwake _ | .opWakeAll _ | .opAlarmWrite _ | .opHoldersClear _ =>
    [.out, .bridge, .veh, .cmd, .host, .mon, .sleep]
  | .opHandover _ => [.out, .bridge, .veh, .cmd, .host, .mon, .pair]
  | .opRoleGrant _ => [.out, .set, .bridge, .veh, .recorder, .cmd, .host, .mon, .pair, .safe]
  | .opComplexReset _ | .opSplitLeave _ => [.out, .skim, .bridge, .veh, .cmd, .host, .mon, .safe]
  | .opOutputFaultClear _ => [.out, .bridge, .veh, .cmd, .host, .mon, .safe]
  | .opKeyEnrol _ => [.out, .bridge, .veh, .recorder, .cmd, .host, .img, .mon]
  | .opChannelWrite _ | .opPostedWrite _ | .opRead _ | .opSemaphore _ =>
    [.freeCount, .out, .route, .bridge, .veh, .fld, .recorder, .cmd, .host, .mon]
  | .opFieldStatus _ => [.freeCount, .out, .bridge, .veh, .fld, .cmd, .host, .mon]
  | .opRetry _ | .opLockedSequence _ | .opErrorLog _ | .opRemoteCommand _ =>
    [.freeCount, .out, .bridge, .veh, .cmd, .host, .mon]
  | .opRegisterRead _ => [.freeCount, .out, .bridge, .veh, .fld, .cmd, .host, .mon, .sleep]
  | .opRegisterWrite _ | .w1cBitWrite _ _ =>
    [.out, .line, .bridge, .veh, .fld, .cmd, .host, .mon, .pair, .sleep, .safe]
  | .opCx320Counters _ => [.out, .line, .bridge, .veh, .fld, .cmd, .host, .mon, .pair]
  | .opSplitEnter _ => [.freeCount, .out, .skim, .bridge, .veh, .cmd, .host, .mon, .safe]
  | .opCoreHalt _ | .opCoreStep _ | .opCoreRun _ | .opCoreRead _ | .opCoreWrite _ =>
    [.freeCount, .out, .bridge, .veh, .cmd, .host, .mon, .safe]
  | .intStatusWrite _ | .intMaskWrite _ => [.host]
  | .trainTimeHiRead | .rcFieldRead _ => [.freeCount, .out, .veh, .fld, .host, .sleep]
  | .hostRegisterWrite _ _ _ =>
    [.freeCount, .out, .line, .bridge, .veh, .fld, .cmd, .host, .mon, .pair, .sleep, .safe]
  | .maintButtonPress => [.out, .time, .recorder, .host, .pres, .img, .start, .sleep]
  | .maintButtonRelease _ | .maintJumperFitted => [.recorder, .pres]
  | .maintWindowClose | .maintJumperRemoved => [.skim, .recorder, .cmd, .pres, .img]
  | .presenceRawChange _ _ | .presenceFaultLift _ => [.pres, .safe]
  | .sealOpened | .debugJumperFitted => [.recorder, .pres, .safe]
  | .sealClosed => [.skim, .recorder, .cmd, .pres, .img, .safe]
  | .debugJumperRemoved | .presenceInputFault _ => [.out, .skim, .recorder, .cmd, .pres, .img, .safe]
  | .trialConfirmed => [.img]
  | .monHelp | .monBaud _ | .monPacket | .packetModeEnd => [.out, .mon]
  | .packetByteTimeout => [.mon]
  | .noFirmwareLine => [.out, .start]

/-! ### Frames that leave on the line (R43, R46) -/

/-- An own frame has gone to those of the ports whose float has not faulted (R322): at once on those that are idle, and behind
the frame that a busy port forwards. -/
def Sent (s t : State) (ports : List LinePort) (f : Frame) : Prop :=
  (∀ o ∈ lineCopies (idleTx s (unmuted s ports)) f, o ∈ t.out) ∧
    ∀ p ∈ unmuted s ports, busyTx s p = true → { f with line := lineNo (portLine p) } ∈ (t.line.ports.get p).waiting

/-- The own frames that wait at a port, as they leave once it is idle. -/
def waitingOut (s : State) (p : LinePort) : List Out :=
  (s.line.ports.get p).waiting.map (fun f => .line [p] { f with fragment := time64 s.time.now % 4294967296 })

/-! ### Images of far objects (R211, R289) -/

/-- A far object's image is complete in `t` with data that arrived now: it is fresh, and carries the instant of `s`. -/
def ImageNow (s t : State) (k : FarKey) (d : Bytes) : Prop :=
  ∃ x, imageOf t.route.images k = some x ∧ x.data = d ∧ x.fresh = true ∧ x.at_ = s.clk ∧ x.stamp = s.time.now

/-! ### Bridge messages (R229) -/

/-- A message of the bridge that waits for its kind's row, the next in its sender's sequence. -/
def arrivesInOrder (s : State) (f : Frame) (kind : Nat) : Prop :=
  f ∈ s.bridge.inbox ∧ msgKind f = kind ∧
    (32768 ≤ field (msgBody f) 2 2 ∨ Tab.get? s.bridge.expected (channelSlot f.channel) = none ∨
      Tab.get? s.bridge.expected (channelSlot f.channel) = some (field (msgBody f) 2 2 % 32768))

/-- Exactly one message more waits in the queue, of a kind and tag, for a channel's slot. -/
def queuesOne (s t : State) (kind tag dest : Nat) (P : QMsg → Prop) : Prop :=
  ∃ m, t.bridge.queue = s.bridge.queue ++ [m] ∧ m.kind = kind ∧ m.tag = tag ∧ m.destSlot = channelSlot dest ∧ P m

/-! ### Resets of the management side (R473, R509) -/

/-- `t` follows `s` by a reset of the management side with a cause: the management core, the host port, the skim and
store, the bridge, the vehicle switch, the field buses and the recorder start again, the complex is held with its
outputs de-energised, and the line-keeping island and the always-on domain run on. -/
structure Restarted (s t : State) (cause : Nat) : Prop where
  boot : t.start.boot = .powered
  source : t.start.startSource = 0xFF
  lastCause : t.host.resetCause = cause
  notReady : t.host.ready = false
  host : t.host = { HostSt.init with resetCause := cause, resetHeld := t.host.resetHeld, booting := t.host.booting }
  retained : t.skim.retained = []
  pins : t.skim.pins = []
  forces : t.skim.forces = []
  route : t.route = Routing.init
  bridge : t.bridge = BridgeSt.init
  vehicle : t.veh = { VehSt.init with macBase := s.veh.macBase }
  fieldBuses : t.fld = FieldSt.init
  sessions : t.cmd = CmdSt.init
  staged : t.recorder.staging = []
  topcoat : t.recorder.topcoat = s.recorder.topcoat
  outputs : t.safe.applied = 0
  halted : t.safe.state = (if s.safe.state = .halted then .halted else .scratch)
  failedCore : t.safe.failed = s.safe.failed
  lease : t.set.lease = false
  numbering : t.set.numbering = s.set.numbering
  line : t.line = s.line
  cycle : t.cyc = s.cyc
  config : t.cfg = s.cfg
  trainTime : t.time.now = s.time.now
  alarms : t.sleep.alarms = s.sleep.alarms
  latch : t.sleep.latch = s.sleep.latch

/-- `t` follows `s` by a loss of the internal supply (R36, R511): relay sets closed, outputs de-energised, everything
volatile at its initial value; flash and the always-on backup keep what they hold. -/
structure SupplyLost (s t : State) : Prop where
  boot : t.start.boot = .unpowered
  power : t.sleep.power = .off
  relays : t.line.relayAOpen = false ∧ t.line.relayBOpen = false
  bypass : ∀ p, (t.line.ports.get p).status.getLsbD 20 = true ∧ (t.line.ports.get p).status.getLsbD 16 = false
  outputs : t.safe.applied = 0
  host : t.host = HostSt.init
  config : t.cfg = none
  cycle : t.cyc = CycleSt.init
  time : t.time = TimeSt.init
  skims : t.skim.retained = []
  route : t.route = Routing.init
  bridge : t.bridge = BridgeSt.init
  fieldBuses : t.fld = FieldSt.init
  pair : t.pair = PairSt.init
  sessions : t.cmd = CmdSt.init
  staged : t.recorder.staging = []
  numbering : t.set.numbering = none
  table : t.set.retained = s.set.retained
  topcoat : t.recorder.topcoat = s.recorder.topcoat
  primer : t.recorder.primer = s.recorder.primer
  firmware : t.img.fw = dropWriting s.img.fw
  configuration : t.img.cf = dropWriting s.img.cf
  key : t.img.key = s.img.key
  parked : t.start.parked = s.start.parked
  alarms : t.sleep.alarms = s.sleep.alarms
  latch : t.sleep.latch = s.sleep.latch

/-! ### Requests of command sessions (R451, R454, R455) -/

/-- The packet's row serves it now: the management side runs, the packet waits in its session (or is accepted at once)
and its turn has come; `v` is the state in which the opcode acts. -/
def servedNow (s : State) (op : Nat) (p : Packet) (v : State) : Prop :=
  managing s = true ∧ p.opcode = op ∧ isNext op p (offered op p s) = true ∧ v = takePacket (offered op p s) p

/-- The skim that a request which names none reads: the one that was current at its acceptance, where it is still
retained, and else the newest (R181, R187). -/
def currentFor (s : State) : Option SkimRec := (s.cmd.servedSkim.bind (retainedSkim s)) <|> s.skim.retained.head?

/-- The row's effect leads to a state that `P` describes, and the request is then answered with a status and data. -/
def Replies (i : Instr) (s : State) (p : Packet) (st : Nat) (data : Bytes) (P : State → Prop) : Prop :=
  ∃ u, exec i s = .next (reply u p st data) ∧ P u

/-! ### Floats (R311 to R313) -/

/-- Float `k` runs program word `w` next: it runs, waits for no event, and is within the budget of its segment. -/
abbrev floatAt (s : State) (k : Nat) (w : Word32) : Prop :=
  6 ≤ k ∧ k ≤ 11 ∧ (floatOf s k).running = true ∧ (floatOf s k).waiting = none ∧
    (floatOf s k).prog.bind (fun p => p.code[(floatOf s k).pc]?) = some w ∧ (floatOf s k).steps < 1024

/-- The row runs that instruction: work registers, flags Z, N and C, program counter and data memory after it. -/
def FloatNext (i : Instr) (s : State) (k : Nat) (regs : List Word32) (z n c : Bool) (pc : Nat) (data : Mem) : Prop :=
  Answers i s (fun t => (floatOf t k).regs = regs ∧ (floatOf t k).z = z ∧ (floatOf t k).n = n ∧ (floatOf t k).c = c ∧
    (floatOf t k).pc = pc ∧ (floatOf t k).data = data ∧ (floatOf t k).running = true)

/-! ### The safety outputs (R339, R340, R342, R365, R366, R368, R479, R480, R518) -/

/-- The causes that hold every safety output de-energised, whatever is staged: the complex does not run, a hold waits
for a fully voted cycle, the SEAL loop is open or faulted, the DEBUG jumper is fitted or faulted, the supply monitor
or a fault holds `SAFE_OFF` open. -/
def outputsBarred (s : State) : Bool :=
  !safeRuns s || s.safe.hold || sealHold s || debugHold s || s.safe.supplyOpen || s.safe.safeOffFault != 0

/-- No output is energised while a cause bars them all, and no faulted output is energised. -/
def outputsSound (s : State) : Prop :=
  (outputsBarred s = true → s.safe.applied = 0) ∧ s.safe.applied &&& s.safe.chFault = 0

/-! ### The host port's windows (R469, R470) -/

/-- Both windows of the host port are in canonical form. -/
def windowsWf (s : State) : Bool := Mem.wf s.host.cmdWin && Mem.wf s.host.replyWin

end Sys2Proof.Machine
end

