-- ==== Sys2Proof/Certificates/Slice0/Obligations.lean ====
section
/-! DEFINITION. The statements about the block, for the provers: for each family of commands what its commands do, what
they leave, and that they complete; the frame of every command; and the invariants that every step keeps. Each statement
of a command's effect concludes that `exec` answers a next state (`Answers`, `Replies` or an equation). -/

open Sys2Proof Sys2Proof.Machine

/-- R504's steps: the power-on reset (R136, R372), the choice of banks (R507, R508), the island, READY (R468, R472),
and R508's line. -/
def Obligations.StartStepsTakeEffect : Prop :=
  (∀ (u : BitVec 3), unitOfCode u = if u = 0 then 1 else if u = 5 then 2 else if u = 6 then 3 else if u = 3 then 4 else 0) ∧
  (∀ (s : State) (u : BitVec 3) (lost : Bool), s.start.boot = .unpowered → s.start.overvoltStop = false →
    s.start.overtempStop = false →
    Answers (.powerOnReset u lost) s (fun t =>
      t.start.boot = .powered ∧ t.unitNo = unitOfCode u ∧ t.upos = u.toNat ∧ t.start.parked = false ∧
      t.start.wasParked = s.start.parked ∧ t.start.startSource = 0 ∧ t.start.alarmRestarted = lost ∧
      t.time = { TimeSt.init with now := (rtc t : Nat) } ∧ rtc t = (if lost then s.start.rtcSaved else rtc s) ∧
      t.host = HostSt.init ∧ t.img.releasedAt = s.clk ∧ t.sleep.power = .awake)) ∧
  (∀ (s : State), s.start.boot = .powered → s.sleep.power = .awake → s.host.resetHeld = false → s.start.parked = false →
    (chooseBank s 8 0).1.usable = false →
    Answers .bankCheckComplete s (fun t =>
      t.start.boot = .checked ∧ t.img.fw.usable = false ∧ t.line.relayAOpen = false ∧ t.line.relayBOpen = false ∧
      t.line.islandAt = none ∧ t.cyc = CycleSt.init ∧ t.cfg = s.cfg)) ∧
  (∀ (s : State), s.start.boot = .powered → s.sleep.power = .awake → s.host.resetHeld = false → s.start.parked = false →
    (chooseBank s 8 0).1.usable = true →
    Answers .bankCheckComplete s (fun t =>
      t.img.fw = (chooseBank s 8 0).1 ∧ t.img.cf.usable = t.cfg.isSome ∧
      t.start.boot = (if s.line.islandAt.isSome then .island else .checked) ∧
      t.cfg = runningConfig (chooseBank (setBanks s 8 (chooseBank s 8 0).1) 9
        (imgVersion ((chooseBank s 8 0).1.bank (chooseBank s 8 0).1.running).image)).1 ∧
      (t.cfg = none → t.line.relayAOpen = false ∧ t.line.relayBOpen = false))) ∧
  (∀ (s : State), s.start.boot = .checked → s.img.fw.usable = true → s.sleep.power = .awake →
    Answers .islandReady s (fun t =>
      t.start.boot = .island ∧ t.line.islandAt = some s.clk ∧ t.line.relayBOpen = s.line.relayBOpen ∧
      t.line.relayAOpen = (s.line.relayAOpen || assigned s .a1 || assigned s .a2) ∧ t.sleep.latch = none ∧
      (∀ wide src, s.sleep.latch = some (wide, src) → t.start.startSource = src ∧ t.sleep.source = src ∧
        t.sleep.latchedWake = true))) ∧
  (∀ (s : State), s.start.boot = .island → s.sleep.power = .awake → s.host.resetHeld = false → s.start.parked = false →
    s.host.ready = false →
    Answers .ready s (fun t =>
      t.start.boot = .running ∧ t.host.ready = true ∧ t.host.booting = false ∧ t.host.intStatus.getLsbD 12 = true ∧
      t.img.readyAt = some s.clk ∧ t.recorder.started = true ∧
      (s.safe.state ≠ .halted → t.safe.state = .scratch ∧ t.safe.applied = 0) ∧
      (s.safe.state = .halted → t.safe.state = .halted))) ∧
  (∀ (s : State), s.start.boot = .checked → s.img.fw.usable = false →
    (∀ d, s.start.noFirmwareAt = some d → d + 10000000000 ≤ s.clk) →
    exec .noFirmwareLine s = .next { s with
      out := s.out ++ [.monitor (lineBytes "no firmware")], start := { s.start with noFirmwareAt := some s.clk } })

/-- R473, R509 and R510: the resets of the management side; R489's failed trial. -/
def Obligations.ResetsRestartTheManagementSide : Prop :=
  (∀ (s : State), s.sleep.power = .awake → s.start.boot ≠ .unpowered → s.host.resetHeld = false →
    Answers .resetNAsserted s (fun t => Restarted s t 1 ∧ t.host.resetHeld = true ∧ t.host.booting = false ∧
      t.start.parked = false ∧ t.start.wasParked = (s.start.wasParked || s.start.parked))) ∧
  (∀ (s : State), s.host.resetHeld = true →
    exec .resetNReleased s = .next { s with
      host := { s.host with resetHeld := false, booting := true }, img := { s.img with releasedAt := s.clk } }) ∧
  (∀ (s : State), s.sleep.power = .awake → s.start.boot ≠ .unpowered → s.host.resetHeld = false → s.start.parked = false →
    Answers .managementWatchdogExpiry s (fun t => Restarted s t 3 ∧
      (t.start.parked = true ↔
        3 ≤ (s.start.watchdogs.filter (fun w => decide (s.clk < w + 600000000000))).length ∧ inTrial s = false) ∧
      (t.start.parked = true → t.host.booting = false) ∧ (t.start.parked = false → t.host.booting = true))) ∧
  (∀ (s : State) (d : Nat), s.img.resetAt = some d → d ≤ s.clk →
    Answers .resetCommand s (fun t => Restarted s t 2)) ∧
  (∀ (s : State), inTrial s = true → s.sleep.power = .awake → s.start.boot ≠ .unpowered →
    s.img.releasedAt + 120000000000 ≤ s.clk ∨ s.safe.state = .halted →
    Answers .trialTimeout s (fun t => Restarted s t 2 ∧
      (∀ k, k = 8 ∨ k = 9 → ((banksOf s k).bank (banksOf s k).running).state = .trial →
        (banksOf t k).selected = 1 - (banksOf s k).running ∧
        ((banksOf t k).bank (banksOf s k).running).state = .rejected)))

/-- R36 and R511's loss of supply, R441 and R516's warning, R515's and R520's converter stops, R518's hold-up bus, and
R520's warnings. -/
def Obligations.SupplyEventsTakeEffect : Prop :=
  (∀ (s : State), s.sleep.power ≠ .off → Answers .internalSupplyFail s (SupplyLost s)) ∧
  (∀ (s : State), s.sleep.power ≠ .off →
    Answers .converterOvervoltageStop s (fun t => SupplyLost s t ∧ t.start.overvoltStop = true ∧
      t.start.overtempStop = s.start.overtempStop)) ∧
  (∀ (s : State), s.sleep.power ≠ .off →
    Answers .converterOvertempStop s (fun t => SupplyLost s t ∧ t.start.overtempStop = true ∧
      t.start.overvoltStop = s.start.overvoltStop)) ∧
  (∀ (s : State) (u : BitVec 3) (lost : Bool), s.start.boot = .unpowered →
    s.start.overvoltStop = true ∨ s.start.overtempStop = true →
    Answers (.converterRestart u lost) s (fun t =>
      t.start.boot = .powered ∧ t.start.overvoltStop = false ∧ t.start.overtempStop = false ∧ t.unitNo = unitOfCode u ∧
      t.sleep.power = .awake ∧ t.time.base = .unset)) ∧
  (∀ (s : State) (x : Nat), s.sleep.power ≠ .off →
    Answers (.powerFailWarning x) s (fun t => t.start = { s.start with rtcSaved := rtc s } ∧
      (s.host.ready = true → t.recorder.staging = [] ∧ t.recorder.powerFail = some s.clk) ∧
      (s.host.ready = false → t.recorder = s.recorder))) ∧
  (∀ (s : State) (c : Nat), s.host.ready = true → s.recorder.powerFail = some c →
    Answers .powerRestored s (fun t => t.recorder.powerFail = none)) ∧
  (∀ (s : State), s.sleep.power ≠ .off →
    Answers .holdBusLow s (fun t => t.safe.applied = 0 ∧ t.safe.supplyOpen = true ∧
      t.start = { s.start with holdLow := true } ∧ t.safe.state = s.safe.state ∧ t.safe.staged = s.safe.staged)) ∧
  (∀ (s : State), s.safe.supplyOpen = true →
    exec .safeOffReclose s = .next { s with
      safe := { s.safe with supplyOpen := false, hold := true, release := none, cycle := s.safe.cycle.map (fun c => { c with clean := false }) }
      start := { s.start with holdLow := false } }) ∧
  (∀ (s : State) (d : Nat), s.start.supplyOutSince = some d → d + 1000000000 < s.clk →
    exec .supplyWarnSet s = .next { s with start := { s.start with supplyWarn := true } }) ∧
  (∀ (s : State) (d : Nat), s.start.supplyInSince = some d → d + 10000000000 ≤ s.clk →
    exec .supplyWarnClear s = .next { s with start := { s.start with supplyWarn := false } }) ∧
  (∀ (s : State) (x : Int), s.host.ready = true →
    exec (.tempWarnChange x) s = .next { s with start := { s.start with
      temp := x, tempWarn := decide (700 < x) || (s.start.tempWarn && decide (670 ≤ x)) } })

/-- R426, R427, R430, R431, R432 and R437: what the recorder does with a report, a refill, a flush and a period's end. -/
def Obligations.RecorderCountsRecordsAndFlushes : Prop :=
  (∀ (s : State) (e : EventIn) (k : AreaClass), s.recorder.started = true → codeClass e.code = some k →
    Answers (.eventReported e) s (fun t =>
      (codeStat t e.code).pCount = satAdd 4294967295 (codeStat s e.code).pCount 1 ∧
      (codeStat t e.code).lCount = satAdd 18446744073709551615 (codeStat s e.code).lCount 1 ∧
      (noMeasure e.code = false → (codeStat s e.code).pCount ≠ 0 →
        (codeStat t e.code).pMin = min (codeStat s e.code).pMin (satMeasure e.code e.measure) ∧
        (codeStat t e.code).pMax = max (codeStat s e.code).pMax (satMeasure e.code e.measure)))) ∧
  (∀ (s : State) (e : EventIn) (k : AreaClass), s.recorder.started = true → codeClass e.code = some k →
    k ≠ .tally → exempt k = false → s.recorder.powerFail = none → (refill s e.code (codeStat s e.code)).tokens ≠ 0 →
    s.recorder.staging.length < 15360 → (avgNow s).1 ≠ 0 →
    Answers (.eventReported e) s (fun t => ∃ r : Record,
      t.recorder.staging = s.recorder.staging ++ [⟨r, s.clk⟩] ∧ r.seq = s.recorder.nextSeq ∧ r.code = e.code ∧
      r.suppressed = (codeStat s e.code).suppressed ∧
      r.payload = payloadOf e.code (satMeasure e.code e.measure) e.payload ∧ r.primer = primerClass k ∧
      t.recorder.nextSeq = s.recorder.nextSeq + 1 ∧ (codeStat t e.code).suppressed = 0 ∧
      (codeStat t e.code).tokens = (refill s e.code (codeStat s e.code)).tokens - 1)) ∧
  (∀ (s : State) (e : EventIn) (k : AreaClass), s.recorder.started = true → codeClass e.code = some k →
    k ≠ .tally → exempt k = false → s.recorder.powerFail = none → (refill s e.code (codeStat s e.code)).tokens = 0 →
    Answers (.eventReported e) s (fun t => t.recorder.staging = s.recorder.staging ∧
      (codeStat t e.code).suppressed = satAdd 65535 (codeStat s e.code).suppressed 1)) ∧
  (∀ (s : State) (c : Nat), Tab.has s.recorder.codes c = true →
    Answers (.tokenRefill c) s (fun t =>
      (codeStat t c).tokens = (if (bucketOf s c).1 ≤ (codeStat s c).tokens then (codeStat s c).tokens
        else min (bucketOf s c).1 ((codeStat s c).tokens + (s.clk - (codeStat s c).below) / max 1 (bucketOf s c).2)) ∧
      (codeStat t c).pCount = (codeStat s c).pCount ∧ t.recorder.staging = s.recorder.staging)) ∧
  (∀ (s : State), s.recorder.staging ≠ [] → s.recorder.degraded = false →
    Answers (.recorderFlush true) s (fun t => t.recorder.staging = [] ∧ t.recorder.failedWrites = 0 ∧
      t.recorder.failingSince = none ∧
      t.recorder.topcoat = ringAppend s.recorder.topcoat (s.recorder.staging.map (·.record)) ∧
      (s.recorder.primer.length + s.recorder.staging.length ≤ primerCap → t.recorder.primer =
        s.recorder.primer ++ (s.recorder.staging.map (·.record)).filter Record.primer))) ∧
  (∀ (s : State), s.recorder.staging ≠ [] →
    exec (.recorderFlush false) s = .next { s with recorder := { s.recorder with
      failedWrites := s.recorder.failedWrites + 1, failingSince := some (s.recorder.failingSince.getD s.clk) } }) ∧
  (∀ (s : State) (d : Nat), s.recorder.failingSince = some d → d + 1000000000 ≤ s.clk →
    Answers .recorderDegraded s (fun t => t = { s with recorder := { s.recorder with degraded := true } } ∧
      bitOf (healthWord t) 9 = true)) ∧
  (∀ (s : State), s.recorder.started = true → s.recorder.periodStart + max 1 (recCfg s).period ≤ rtc s →
    Answers .summaryPeriodEnd s (fun t =>
      t.recorder.codes = s.recorder.codes.map (fun q => (q.1, q.2.newPeriod)) ∧
      t.recorder.periodStart = rtc s / max 1 (recCfg s).period * max 1 (recCfg s).period ∧
      (∀ g, g = summaryGroup s false (decide (s.recorder.lastPrimerSummary + primerSpan ≤ rtc s)) →
        s.recorder.staging.length + g.length ≤ 16384 →
        t.recorder.nextSeq = s.recorder.nextSeq + g.length ∧
        (t.recorder.staging.drop s.recorder.staging.length).map (fun x => { x.record with seq := 0 }) = g)))

/-- R37, R38, R61: links and relay sets; R20: an unassigned port; R59, R100: duplicate keys; R86: fences. -/
def Obligations.LinksRelaysAndFencesFollowTheirRows : Prop :=
  (∀ (s : State) (p : LinePort) (linked r25 xr master fits : Bool), assigned s p = true → relayOpen s p = true →
    fits = (linked && (s.set.numbering.isNone || r25 == lineRate s p ||
      (decide (s.set.state = .absorbing) && lineRate s p && !r25))) →
    Answers (.trainLineLinkUp p linked r25 xr master) s (fun t =>
      (t.line.ports.get p).status.getLsbD 16 = fits ∧ (t.line.ports.get p).status.getLsbD 17 = (fits && r25) ∧
      (t.line.ports.get p).offRate = (if linked ∧ fits = false ∧ (adjacentPos s p).isNone then some r25 else none) ∧
      (t.line.ports.get p).status.getLsbD 18 = ((fits || (t.line.ports.get p).offRate.isSome) && xr) ∧
      (t.line.ports.get p).status.getLsbD 19 = (!linked || (!fits && lineRate s p && !r25)) ∧
      (t.line.ports.get p).status.getLsbD 22 = master ∧ (t.line.ports.get p).inFlight = none ∧
      (∀ k, k ∉ [16, 17, 18, 19, 22] → (t.line.ports.get p).status.getLsbD k = (s.line.ports.get p).status.getLsbD k) ∧
      (∀ q, q ≠ p → q ≠ otherEnd p ∨ s.set.state ≠ .absorbing → t.line.ports.get q = s.line.ports.get q))) ∧
  (∀ (s : State) (p : LinePort), assigned s p = true →
    Answers (.trainLineLinkDown p) s (fun t =>
      linkUp t p = false ∧ (t.line.ports.get p).status.getLsbD 17 = false ∧ (t.line.ports.get p).inFlight = none ∧
      t.set.probes.get p = none ∧ t.set.boundary.get p = false ∧
      (∀ k, k ∉ [16, 17, 18, 22] → (t.line.ports.get p).status.getLsbD k = (s.line.ports.get p).status.getLsbD k) ∧
      t.line.ports.get (otherEnd p) = { s.line.ports.get (otherEnd p) with waiting := [] } ∧
      t.out = s.out ++ waitingOut s (otherEnd p) ∧
      (∀ q, q ≠ p → q ≠ otherEnd p → t.line.ports.get q = s.line.ports.get q) ∧
      (∀ q, q ≠ p → t.set.probes.get q = s.set.probes.get q))) ∧
  (∀ (s : State) (p : LinePort), s.cfg.isSome = true → assigned s p = false →
    exec (.portUnassignedLink p) s = .next { s with recorder := { s.recorder with
      reports := s.recorder.reports ++ [stamp s ⟨0x0104, 3, portNo p, []⟩] } }) ∧
  (∀ (s : State) (peer : Bool) (d : Nat), assigned s .b1 || assigned s .b2 → s.line.relayBOpen = false →
    assigned s .a1 || assigned s .a2 → s.line.islandAt = some d →
    (linkUp s .a1 = true ∧ linkUp s .a2 = true) ∨ d + 500000000 ≤ s.clk →
    Answers (.lineBRelayOpen peer) s (fun t => t.line.relayBOpen = true ∧ t.line.relayAOpen = s.line.relayAOpen ∧
      (t.line.ports.get .b1).status.getLsbD 20 = false ∧ (t.line.ports.get .b2).status.getLsbD 20 = false ∧
      t.line.ports.get .a1 = s.line.ports.get .a1 ∧ t.line.ports.get .a2 = s.line.ports.get .a2)) ∧
  (∀ (s : State), exec .duplicateKeyExpiry s =
    .next { s with line := { s.line with dups := s.line.dups.filter (keyHeld s) } }) ∧
  (∀ (s : State) (p : LinePort) (src : Source) (x : Fence), fenceOf s p src = some x → x.fenced = false → 3 ≤ x.run →
    Answers (.sourceFenced p src) s (fun t => fenceOf t p src = some { x with fenced := true } ∧
      (∀ q c, q ≠ p ∨ c ≠ src → fenceOf t q c = fenceOf s q c) ∧
      t.recorder.reports = s.recorder.reports ++
        [stamp s ⟨0x0101, 4, 0, be 1 (portNo p) ++ be 1 src.pos ++ be 1 src.unit ++ be 1 src.line⟩])) ∧
  (∀ (s : State) (p : LinePort) (src : Source) (x : Fence), fenceOf s p src = some x → x.fenced = true → x.good = true →
    Answers (.fenceLifted p src) s (fun t => fenceOf t p src = some { x with fenced := false, run := 0 } ∧
      (∀ q c, q ≠ p ∨ c ≠ src → fenceOf t q c = fenceOf s q c) ∧
      t.recorder.reports = s.recorder.reports ++
        [stamp s ⟨0x0101, 4, 1, be 1 (portNo p) ++ be 1 src.pos ++ be 1 src.unit ++ be 1 src.line⟩]))

/-- R40, R83, R84: headers and slot gates; R52, R53, R56, R58, R61: completed frames; R60, R380: relayed copies. -/
def Obligations.ArrivingFramesAreGatedCheckedAndDelivered : Prop :=
  (∀ (s : State) (p : LinePort) (hdr : Bytes) (arrival : Int) (f : Frame) (plen : Nat), assigned s p = true →
    linkUp s p = true → parseHeader (hdr.take 24) = some (f, plen) → plen ≤ 2020 → f.ftype ≠ 12 → gated s f = false →
    exec (.frameHeaderReceived p hdr arrival) s = .next { s with line := { s.line with
      ports := s.line.ports.adj p (fun q => { q with
        inFlight := some ⟨f, plen, arrival, false, false, !segmentOnly f.ftype && canForward s p, none, false⟩ }) } }) ∧
  (∀ (s : State) (p : LinePort) (hdr : Bytes) (arrival : Int) (f : Frame) (plen : Nat), assigned s p = true →
    linkUp s p = true → parseHeader (hdr.take 24) = some (f, plen) → plen ≤ 2020 → f.ftype ≠ 12 → gated s f = true →
    isFenced s p f = false →
    Answers (.frameHeaderReceived p hdr arrival) s (fun t =>
      (∀ c, gateAdmit s p f arrival = some c →
        t.line.ports.get p = { s.line.ports.get p with
          inFlight := some ⟨f, plen, arrival, false, false, canForward s p, some c, false⟩ }) ∧
      (gateAdmit s p f arrival = none →
        t.line.ports.get p = { s.line.ports.get p with
          status := setBit (s.line.ports.get p).status 6 true, drops := count32 (s.line.ports.get p).drops
          inFlight := some ⟨f, plen, arrival, false, true, false, none, false⟩ }))) ∧
  (∀ (s : State) (p : LinePort) (hdr : Bytes) (arrival : Int), assigned s p = true → linkUp s p = true →
    (∀ f plen, parseHeader (hdr.take 24) = some (f, plen) → 2020 < plen) →
    Answers (.frameHeaderReceived p hdr arrival) s (fun t =>
      (t.line.ports.get p).status = setBit (s.line.ports.get p).status 3 true ∧
      (t.line.ports.get p).drops = count32 (s.line.ports.get p).drops ∧
      (∃ x, (t.line.ports.get p).inFlight = some x ∧ x.fault = true ∧ x.forwarding = false))) ∧
  (∀ (s : State) (p : LinePort) (b : Bytes) (arrival : Int) (x : InFlight) (f : Frame), assigned s p = true →
    linkUp s p = true → (s.line.ports.get p).inFlight = some x → x.fault = false → x.refused = false → x.cut = false →
    f = { x.hdr with payload := bslice b 24 x.plen } → 64 ≤ b.length → b.length ≤ 2048 →
    b.length = frameLength x.plen → b.drop (b.length - 4) = fcsBytes (b.take (b.length - 4)) →
    lateCycleStart s p f arrival = false →
    mustDrop f = false → isDuplicate s f = false → acceptsTopo s p f = true → feeding s = false → splitLines s = false →
    Answers (.frameReceived p b arrival) s (fun t =>
      t.line.rx = s.line.rx ++ [⟨p, f, arrival⟩] ∧
      t.line.dups = (if segmentOnly f.ftype then s.line.dups else s.line.dups ++ [dupKey s f]) ∧
      (t.line.ports.get p).good = count32 (s.line.ports.get p).good ∧
      (t.line.ports.get p).status = (s.line.ports.get p).status ∧ (t.line.ports.get p).inFlight = none ∧
      t.out = s.out ++ (if x.forwarding then [.forward (otherEnd p) b false] ++ waitingOut s (otherEnd p) else []))) ∧
  (∀ (s : State) (p : LinePort) (b : Bytes) (arrival : Int) (x : InFlight), assigned s p = true → linkUp s p = true →
    (s.line.ports.get p).inFlight = some x → x.fault = false → x.refused = false → x.cut = false → 64 ≤ b.length →
    b.length ≤ 2048 → b.drop (b.length - 4) ≠ fcsBytes (b.take (b.length - 4)) →
    b.drop (b.length - 4) ≠ stompBytes (b.take (b.length - 4)) →
    Answers (.frameReceived p b arrival) s (fun t =>
      t.line.rx = s.line.rx ∧ t.line.dups = s.line.dups ∧
      (t.line.ports.get p).status = setBit (s.line.ports.get p).status 2 true ∧
      (t.line.ports.get p).fcs = count32 (s.line.ports.get p).fcs ∧
      (t.line.ports.get p).good = (s.line.ports.get p).good ∧
      t.out = s.out ++ (if x.forwarding then [.forward (otherEnd p)
        (b.take (b.length - 4) ++ stompBytes (b.take (b.length - 4))) true] ++ waitingOut s (otherEnd p) else []))) ∧
  (∀ (s : State) (p : LinePort) (b : Bytes) (arrival : Int) (x : InFlight) (v : Verdict) (k : Nat), assigned s p = true →
    linkUp s p = true → (s.line.ports.get p).inFlight = some x → x.fault = false → x.refused = false → x.cut = false →
    v = frameVerdict b (some x) → (v = .stomped ∧ k = 4) ∨ (v = .runt ∧ k = 0) ∨ (v = .oversize ∧ k = 1) →
    Answers (.frameReceived p b arrival) s (fun t =>
      t.line.rx = s.line.rx ∧ (t.line.ports.get p).status = setBit (s.line.ports.get p).status k true ∧
      (v = .runt → b.length < 64) ∧ (v = .oversize → 2049 ≤ b.length))) ∧
  (∀ (s : State) (p : LinePort) (b : Bytes) (arrival : Int) (x : InFlight) (f : Frame), assigned s p = true →
    linkUp s p = true → (s.line.ports.get p).inFlight = some x → x.fault = false → x.refused = false → x.cut = false →
    f = { x.hdr with payload := bslice b 24 x.plen } → frameVerdict b (some x) = .valid →
    lateCycleStart s p f arrival = false → mustDrop f = false → isDuplicate s f = true →
    Answers (.frameReceived p b arrival) s (fun t =>
      (portLine p = .b → t.line.rx = s.line.rx) ∧
      (portLine p = .a → t.line.rx = s.line.rx.map (fun y =>
        if portLine y.port = .b ∧ y.arrival = arrival ∧ sameKey (dupKey s y.frame) (dupKey s f) then ⟨p, f, arrival⟩ else y)) ∧
      t.line.dups = s.line.dups ∧
      (t.line.ports.get p).status = (s.line.ports.get p).status)) ∧
  (∀ (s : State) (p : LinePort) (x : InFlight) (c : Int), (s.line.ports.get p).inFlight = some x → x.close = some c →
    x.refused = false → x.cut = false → x.fault = false → c ≤ s.time.now →
    Answers (.slotClose p) s (fun t =>
      t.line.ports.get p = { s.line.ports.get p with
        status := setBit (s.line.ports.get p).status 6 true, drops := count32 (s.line.ports.get p).drops
        inFlight := some { x with cut := true } } ∧
      (x.forwarding = true → .cut (otherEnd p) ∈ t.out))) ∧
  (∀ (s : State) (f : Frame), splitLines s = true → s.host.ready = true → onRing s = true → mustDrop f = false →
    isDuplicate s f = false → acceptsTopo s (relayPort s f) f = true →
    (∀ r l, s.skim.retained = r :: l → r.desc.skim ≠ f.cycle ∧ cycBefore f.cycle r.desc.skim = false) →
    Answers (.relayedCopyReceived f) s (fun t => t.line.rx = s.line.rx ++ [⟨relayPort s f, f, s.time.now⟩] ∧
      t.line.dups = (if segmentOnly f.ftype then s.line.dups else s.line.dups ++ [dupKey s f]))) ∧
  (∀ (s : State) (f : Frame) (r : SkimRec) (l : List SkimRec), splitLines s = true → s.host.ready = true →
    onRing s = true → mustDrop f = false → isDuplicate s f = false → s.cyc.running = true → f.ftype = 2 ∨ f.ftype = 3 →
    s.skim.retained = r :: l → r.desc.skim = f.cycle ∨ cycBefore f.cycle r.desc.skim = true →
    Answers (.relayedCopyReceived f) s (fun t => t.line.rx = s.line.rx ∧
      t.pair.relayLate = count32 s.pair.relayLate))

/-- R64, R79 to R82, R95, R96: the cycle; R73, R74: schedule tables; R136, R150, R158: coasting, holdover, position. -/
def Obligations.CyclesTurnOnTheGrid : Prop :=
  (∀ (s : State) (inp : SampleIn), s.cyc.running = true → s.cyc.fresh = false → nextTs s ≤ s.time.now →
    sleepsAt s (nextGrid s) = false →
    Answers (.sampleInstant inp) s (fun t =>
      ((s.cyc.nextAnchor.isSome = true ∨ cycleOver { s with cyc := { s.cyc with ahead := s.cyc.ahead + 1 } } = true) →
        t.cyc.n = (s.cyc.n + 1) % 4294967296 ∧ t.cyc.ts = s.cyc.nextAnchor.getD (s.cyc.ts + cycleLen s) ∧
        t.cyc.ahead = s.cyc.ahead ∧ t.cyc.guard = s.cyc.guardNext ∧ t.cyc.csSeen = false ∧ t.cyc.polls = [] ∧
        t.cyc.tableNext = none ∧ t.cyc.table = (match s.cyc.tableNext with | some b => some b | none => s.cyc.table)) ∧
      (s.cyc.nextAnchor = none → cycleOver { s with cyc := { s.cyc with ahead := s.cyc.ahead + 1 } } = false →
        t.cyc.n = s.cyc.n ∧ t.cyc.ts = s.cyc.ts ∧ t.cyc.ahead = s.cyc.ahead + 1 ∧ t.cyc.csSeen = s.cyc.csSeen) ∧
      (s.host.ready = true → s.sleep.power = .awake →
        (t.skim.samples.getLast?).map (·.n) = some (gridN t) ∧ t.safe.hv = inp.hv))) ∧
  (∀ (s : State) (n : Nat), s.cyc.running = true → s.host.ready = true → s.sleep.power = .awake → notApplied s n = true →
    toOf s n ≤ s.time.now → sleepsAt s s.sleep.announced = false →
    Answers (.outputInstant n) s (fun t =>
      t.safe.applied = outputsAt (endHold s n) n ∧ (∀ x ∈ t.safe.staged, cycBefore n x.n = true) ∧
      (∀ outs, s.skim.staging.find? (fun x => x.1 == n) = some (n, outs) → t.skim.applied = some (n, outs)) ∧
      (∀ m outs, s.skim.staging.find? (fun x => x.1 == n) = none → s.skim.applied = some (m, outs) →
        t.skim.applied = some (n, outs)))) ∧
  (∀ (s : State), s.cyc.running = true → s.host.ready = true → s.sleep.power = .awake → s.set.lease = true →
    s.cyc.csSeen = false → s.time.timeStep = 0 → s.time.posStep = 0 →
    Answers .cycleStartSend s (fun t =>
      t.cyc.n = s.cyc.n ∧ t.cyc.csSeen = true ∧ t.cyc.joined = true ∧ t.cyc.missed = 0 ∧ t.set.lastStart = s.cyc.n ∧
      t.set.expiry = cycAdd s.cyc.n (if s.set.yielding then 1 else 8) ∧ t.set.lease = !s.set.yielding ∧
      (s.set.yielding = true → t.set.state = .absorbing) ∧ (s.set.yielding = false → t.time.base = .tracking) ∧
      Sent s t (openPorts s) (newFrame s 1 0 0
        (cycleStartPayload s (cycAdd s.cyc.n (if s.set.yielding then 1 else 8)) 0 0)))) ∧
  (∀ (s : State), s.cyc.running = true → s.host.ready = true → s.sleep.power = .awake →
    s.cyc.csSeen = false → s.set.lease = true ∨ s.set.takeLease = true →
    Answers .cycleStartSend s (fun t => t.set.takeLease = false ∧ t.set.lease = !s.set.yielding ∧
      (s.time.stepAt = s.cyc.n →
        t.time.timeStep = 0 ∧ t.time.posStep = 0 ∧ t.cyc.ts = s.cyc.ts + s.time.timeStep) ∧
      (s.time.stepAt ≠ s.cyc.n →
        t.time.timeStep = s.time.timeStep ∧ t.time.posStep = s.time.posStep ∧ t.cyc.ts = s.cyc.ts))) ∧
  (∀ (s : State) (p : LinePort) (f : Frame) (arrival : Int), waits s p f = true → f.ftype = 1 → fromLead f = true →
    s.set.lease = false → (s.cyc.csSeen = false ∨ f.cycle ≠ s.cyc.n) → s.set.state ≠ .absorbing →
    s.set.numbering.isSome = true → f.topo = topoFor s f.cycle → s.set.pending = none ∨ inCycle s = true →
    Answers (.cycleStartDelivered p f arrival) s (fun t =>
      t.cyc.running = true ∧ t.cyc.n = f.cycle ∧ t.cyc.ts = timeField f.payload 0 ∧ t.cyc.shift = field f.payload 8 4 ∧
      t.cyc.guardNext = field f.payload 53 1 ∧ t.cyc.csSeen = true ∧ t.cyc.missed = 0 ∧ t.cyc.stopped = false ∧
      t.set.expiry = field f.payload 32 4 ∧ t.set.lastStart = f.cycle ∧ t.cyc.leadCheck = field f.payload 44 4 ∧
      t.time.carried = beSigned (bslice f.payload 16 8) ∧ t.time.carriedCycle = f.cycle ∧
      t.line.rx = takeRx p f s.line.rx)) ∧
  (∀ (s : State) (p : LinePort) (f : Frame) (arrival : Int), waits s p f = true → f.ftype = 1 → fromLead f = true →
    s.set.lease = false → (s.cyc.csSeen = false ∨ f.cycle ≠ s.cyc.n) → s.set.state ≠ .absorbing →
    s.set.numbering.isSome = true → f.topo ≠ topoFor s f.cycle → s.set.pending = none ∨ inCycle s = true →
    Answers (.cycleStartDelivered p f arrival) s (fun t =>
      t.cyc.joined = false ∧ t.cyc.csSeen = true ∧ t.set.late = true ∧ t.set.lastStart = f.cycle ∧
      t.set.expiry = field f.payload 32 4)) ∧
  (∀ (s : State) (p : LinePort) (f : Frame) (arrival : Int) (x : Numbering), waits s p f = true → f.ftype = 1 →
    fromLead f = true → s.set.lease = false → s.set.pending = some x → inCycle s = false → f.topo = x.topo →
    Answers (.cycleStartDelivered p f arrival) s (fun t =>
      t.set.numbering = some x ∧ t.set.state = .committed ∧ t.set.pending = none ∧ t.cyc.running = true ∧
      t.cyc.n = f.cycle ∧ t.cyc.csSeen = true ∧ t.set.lastStart = f.cycle)) ∧
  (∀ (s : State), s.cyc.running = true → s.set.lease = false → s.cyc.csSeen = false →
    (s.cyc.missDone = false → Answers .cycleStartMissing s (fun t => t.cyc.missed = s.cyc.missed + 1 ∧
      t.cyc.shift = s.cyc.shift - reserveLen s / 2 ∧ t.cyc.joinFrom = none ∧ t.cyc.n = s.cyc.n ∧ t.cyc.missDone = true)) ∧
    (s.cyc.missDone = true → s.cyc.ahead = 0 → exec .cycleStartMissing s = .next s)) ∧
  (∀ (s : State), s.cyc.running = true → s.set.lease = false → s.cyc.csSeen = true ∨ s.cyc.missDone = true →
    1 ≤ s.cyc.ahead → Answers .cycleStartMissing s (fun t => t.cyc.n = cycAdd s.cyc.n 1 ∧ t.cyc.missed = s.cyc.missed + 1 ∧
      t.cyc.ahead = s.cyc.ahead - 1 ∧ t.cyc.csSeen = false ∧ t.cyc.joinFrom = none)) ∧
  (∀ (s : State) (m : Nat), s.cyc.joinFrom = some m → cycBefore m s.cyc.n = true → s.cyc.csSeen = true →
    s.cyc.mismatch = false → s.set.numbering.isSome = true → aboveGuard s (estimatedOffset s) 1 4 = false →
    exec .joinComplete s = .next { s with
      cyc := { s.cyc with joined := true, silenced := false }
      line := { s.line with ports := s.line.ports.map (fun _ q => { q with muted := false }) } }) ∧
  (∀ (s : State) (b : Bytes), s.cyc.staged = some b → s.cyc.running = true →
    field b 24 4 = s.cyc.n ∨ cycBefore (field b 24 4) s.cyc.n = true →
    exec .scheduleTableActivation s = .next { s with cyc := { s.cyc with table := some b, staged := none } }) ∧
  (∀ (s : State) (b : Bytes), s.cyc.mismatch = true → s.cyc.fetched = b → schedCheck b = s.cyc.leadCheck →
    schedChecks b = none →
    Answers (.scheduleFetchComplete b) s (fun t => t.cyc.tableNext = some b ∧ t.cyc.fetched = [] ∧
      t.cyc.table = s.cyc.table)) ∧
  (∀ (s : State), s.set.lease = false → s.time.corrected = false → s.time.base = .tracking →
    (s.time.uncorrected = false → exec .coastingEntry s = .next s) ∧
    (s.time.uncorrected = true → Answers .coastingEntry s (fun t => t.time = { s.time with phase := 0, base := .coasting } ∧
      t.host.intStatus.getLsbD 10 = true ∧
      (inCycle s = true → offLimit s = true → t.cyc.silenced = true ∧ t.cyc.joined = false)))) ∧
  (∀ (s : State), holdoverDue s = true →
    Answers .holdoverEntry s (fun t => t.time = { s.time with phase := 0, base := .holdover } ∧ t.cyc.stopped = true ∧
      t.cyc.joined = false ∧ t.cyc.n = s.cyc.n)) ∧
  (∀ (s : State), s.set.lease = false → 9 ≤ cycDiff (gridN s) s.time.carriedCycle →
    exec .positionInvalid s = .next { s with time := { s.time with carriedValid := false } })

/-- R180, R182: skim commit; R379: fed units; R187, R189: pins and snapshots; R217, R219, R221: route tables. -/
def Obligations.SkimsCommitAndTablesTakeForce : Prop :=
  (∀ (s : State) (c : Instr), c = .skimCommit ∨ c = .fedCommitTimeout ∨ (∃ b, c = .commitMarkReceived b ∧ b.length = 16 ∧
      onRing s = true ∧ field b 0 4 = s.cyc.n ∧ field b 12 4 ≤ s.pair.fedCount) →
    (c = .skimCommit → isFed s = false ∧ slotsClosed s = true) → (c ≠ .skimCommit → isFed s = true) →
    (c = .fedCommitTimeout → s.cyc.ts + (cycleLen s : Int) ≤ s.time.now) →
    s.cyc.running = true → uncommitted s = true → s.host.ready = true → s.sleep.power = .awake →
    Answers c s (fun t =>
      (∃ r l, t.skim.retained = r :: l ∧ r.desc.skim = s.cyc.n ∧ r.desc.topo = topoInForce s ∧
        r.desc.sampleTime = s.cyc.ts ∧ r.desc.commitTime = s.time.now ∧ l.length ≤ 255) ∧
      t.skim.building = [] ∧ t.host.intStatus.getLsbD 2 = true ∧ t.pair.mark = none ∧ t.cyc = s.cyc)) ∧
  (∀ (s : State) (b : Bytes), isFed s = true → onRing s = true → b.length = 16 →
    (field b 0 4 ≠ s.cyc.n ∨ s.pair.fedCount < field b 12 4) →
    Answers (.commitMarkReceived b) s (fun t =>
      t.pair.mark = some (field b 0 4, field b 4 8, field b 12 4) ∧ t.pair.markCycle = some (field b 0 4) ∧
      t.skim = s.skim)) ∧
  (∀ (s : State) (h : Nat), Answers (.pinLeaseExpiry h) s (fun t =>
    (∀ x, x ∈ t.skim.pins ↔ x ∈ s.skim.pins ∧ ¬(x.handle = h ∧ x.lease ≤ s.clk)) ∧
    (∀ x ∈ s.skim.pins, x.handle = h → x.lease ≤ s.clk → (h, s.clk + 10000000000) ∈ t.skim.freed) ∧
    t.skim.retained = s.skim.retained)) ∧
  (∀ (s : State), s.skim.snapshot.state = 1 →
    exec .snapshotCopyComplete s = .next { s with skim := { s.skim with
      snapshot := { s.skim.snapshot with state := 2 }, copyPin := none } }) ∧
  (∀ (s : State) (tb : RouteTable), s.route.edited = none → s.route.staged = some tb → tableDue s tb = true →
    Answers .routeTableActivation s (fun t => t.route.table = some tb ∧ t.route.staged = none ∧
      t.route.old = s.route.table.map (fun o => (o, gridN s)) ∧ t.route.shadows = s.route.shadows ∧
      t.route.cache = cacheOf tb)) ∧
  (∀ (s : State) (tb : RouteTable), s.route.edited = some tb → s.route.staged = none → tableDue s tb = true →
    Answers .routeTableActivation s (fun t => t.route.table = some tb ∧ t.route.edited = none ∧
      t.route.old = s.route.table.map (fun o => (o, gridN s)) ∧ t.route.cache = cacheOf tb))

/-- R142, R144 to R146: the delay exchange; R161, R162, R164: train-time entries. Rounding of the halves is the model's
(log entry 45). -/
def Obligations.TimeIsMeasuredAndEventsFire : Prop :=
  (∀ (s : State) (p : LinePort) (f : Frame) (t2 t3 : Int), waits s p f = true → f.ftype = 11 → field f.payload 0 1 = 0 →
    fromVehicle s f = false → linkUp s p = true → segmentFree s p = true → s.set.quietUntil ≤ s.clk →
    Answers (.delayRequestDelivered p f t2 t3) s (fun t =>
      (∀ F : Frame, F = newFrame s 11 (portNo p) 0
          (be 1 1 ++ be 1 (portNo p) ++ zeros 2 ++ bslice f.payload 4 8 ++ be 8 (time64 t2) ++ be 8 (time64 t3)) →
        Sent s t [p] F ∧ t.out = s.out ++ lineCopies (idleTx s (unmuted s [p])) F) ∧
      t.line.rx = takeRx p f s.line.rx)) ∧
  (∀ (s : State) (p : LinePort) (f : Frame) (t2 t3 : Int), waits s p f = true → f.ftype = 11 → field f.payload 0 1 = 0 →
    fromVehicle s f = true → onRing s = true → composing s = true →
    Answers (.delayRequestDelivered p f t2 t3) s (fun t =>
      t.out = s.out ++ [.peer ringFrameChannel (frameBytes (newFrame s 11 (portNo p) 0
        (be 1 1 ++ be 1 (portNo p) ++ zeros 2 ++ bslice f.payload 4 8 ++ be 8 (time64 t2) ++ be 8 (time64 t3))))] ∧
      t.line.ports = s.line.ports ∧ t.line.rx = takeRx p f s.line.rx)) ∧
  (∀ (s : State) (p : LinePort) (f : Frame) (t2 t3 : Int), waits s p f = true → mayAnswer s p f = false →
    Answers (.delayRequestDelivered p f t2 t3) s (fun t => t.out = s.out ∧ t.line.rx = takeRx p f s.line.rx)) ∧
  (∀ (s : State) (p : LinePort) (f : Frame) (t1 t2 t3 t4 : Int), waits s p f = true → f.ftype = 11 →
    isFed s = false ∨ ringRef s = some f.srcUnit → field f.payload 0 1 = 1 → (s.time.exchanges.get p).t1 = some t1 → timeField f.payload 4 = t1 →
    timeField f.payload 12 = t2 → timeField f.payload 20 = t3 →
    Answers (.delayResponseDelivered p f t4) s (fun t =>
      (t.time.exchanges.get p).t1 = none ∧
      (t4 - t1 ≤ 20000 → 0 ≤ ((t2 - t1) + (t4 - t3)) / 2 → ((t2 - t1) + (t4 - t3)) / 2 ≤ 600 → t3 - t2 ≤ 10000 →
        (t.time.exchanges.get p).delay = some (((t2 - t1) + (t4 - t3)) / 2) ∧
        (t.time.exchanges.get p).delta = some (((t2 - t1) - (t4 - t3)) / 2) ∧
        (timeRef s = some p → s.time.corrected = false → s.set.lease = false →
          t.time.corrected = true ∧ t.time.offset = (((t2 - t1) - (t4 - t3)) / 2).natAbs ∧ t.time.offsetAt = s.clk ∧
          (s.time.base ≠ .unset → aboveGuard s (((t2 - t1) - (t4 - t3)) / 2) 3 4 = false →
            t.time.phase = -(((t2 - t1) - (t4 - t3)) / 2) ∧ t.time.now = s.time.now))) ∧
      (20000 < t4 - t1 ∨ ((t2 - t1) + (t4 - t3)) / 2 < 0 ∨ 600 < ((t2 - t1) + (t4 - t3)) / 2 ∨ 10000 < t3 - t2 →
        (t.time.exchanges.get p).delay = none ∧ (t.time.exchanges.get p).delta = none))) ∧
  (∀ (s : State) (p : LinePort) (t1 : Int), (s.time.exchanges.get p).t1 = some t1 →
    (s.time.exchanges.get p).sentAt + 20000 ≤ s.clk →
    Answers (.delayResponseTimeout p) s (fun t => (t.time.exchanges.get p).t1 = none ∧
      (t.time.exchanges.get p).delay = none ∧ (∀ q, q ≠ p → t.time.exchanges.get q = s.time.exchanges.get q))) ∧
  (∀ (s : State) (i : Nat) (e : EventEntry), s.time.events[i]? = some e → e.kind = 1 → canFire e = true →
    e.target ≤ s.time.now →
    Answers (.eventTrainTimeFire i) s (fun t =>
      t.time.events[i]? = some { e with fired := true, target := if e.repeats then e.target + e.interval else e.target } ∧
      (∀ j, j ≠ i → t.time.events[j]? = s.time.events[j]?) ∧
      (e.action = 1 → t.skim.writes = s.skim.writes ++
        [⟨(ownSlot s).getD 0 * 131072 + e.object % 131072, BitVec.ofNat 128 e.value, some i, some (cycleFor s e.target), none⟩]) ∧
      (e.action = 4 → t.recorder.reports = s.recorder.reports ++ [stamp s ⟨0x0006, 6, i, be 8 e.value⟩]) ∧
      (e.action ≠ 1 → t.skim.writes = s.skim.writes)))

/-- R68 to R94 and R102: the frames of each window. -/
def Obligations.WindowsOfTheCycleAreUsed : Prop :=
  (∀ (s : State) (p : LinePort), inCycle s = true → phaseOpen s p = true → s.cyc.phased.contains p = false →
    p ∈ upPorts s → isFed s = false →
    Answers (.segmentPhaseOpen p) s (fun t => Sent s t [p] (newFrame s 6 (portNo p) 0 (probePayload s p)) ∧
      (∃ f : Frame, f.ftype = 11 ∧ f.payload = delayPayload 0 (portNo p) (stamp2 s.time.now) 0 0 ∧ Sent s t [p] f) ∧
      (t.time.exchanges.get p).t1 = some (stamp2 s.time.now) ∧ (t.time.exchanges.get p).sentAt = s.clk ∧
      t.cyc.phased = s.cyc.phased ++ [p])) ∧
  (∀ (s : State), inCycle s = false → s.set.quietUntil ≤ s.clk → (∀ d, s.set.probedAt = some d → d + 1000000 ≤ s.clk) →
    Answers .probeTimer s (fun t => t.set.probedAt = some s.clk ∧ ∀ p ∈ upPorts s, ∃ f : Frame, f.ftype = 6 ∧
      f.payload = probePayload s p ∧ f.srcPos = 0 ∧ Sent s t [p] f)) ∧
  (∀ (s : State) (x : Slot) (p : Bytes × Bool) (ps : List (Bytes × Bool)), ownPubSlot s = some x → s.cyc.running = true →
    awake s = true → composing s = true → publicationReady s = true → mayOriginate s = true →
    (ownFrames s x.bytes).1 = p :: ps →
    Answers .publicationSlotStart s (fun t => Sent s t (openPorts s) (newFrame s 2 (x.slot * 256)
      ((if ps = [] then 8 else 0) + (if p.2 then 64 else 0)) p.1))) ∧
  (∀ (s : State) (x : Slot) (r : Nat), ownPubSlot s = some x → s.cyc.running = true →
    (awake s && composing s && publicationReady s && !(ownFrames s x.bytes).1.isEmpty) = false → nullReason s = some r → mayOriginate s = true →
    attached s = true ∨ composing s = true →
    Answers .publicationSlotStart s (fun t => t.skim = s.skim ∧
      Sent s t (openPorts s) (newFrame s 3 (x.slot * 256) 8 (be 1 r ++ zeros 3)))) ∧
  (∀ (s : State), s.set.lease = true → mayOriginate s = true → awake s = true →
    Answers .messageWindowStart s (fun t => t.cyc.polls = (withOwnTurn (roleGrants s)).cyc.plan ∧ t.cyc.plan = [] ∧
      t.cyc.repeats = [] ∧
      (∀ q ∈ (withOwnTurn (roleGrants s)).cyc.plan, ∃ f : Frame, f.ftype = 4 ∧
        f.payload = be 1 q.pos ++ be 1 (q.unit * 16) ++ be 2 q.grant ++ be 2 q.timeout ++ zeros 2 ∧
        Sent s t (openPorts s) f))) ∧
  (∀ (s : State) (q : PollSeen), ownPoll s = some q → inCycle s = true → s.cyc.stopped = false → s.cyc.silenced = false →
    s.cyc.joined = true ∨ s.cyc.mismatch = true → s.set.lease = false → awake s = true →
    s.cyc.replied.contains (ownPos s) = false →
    Answers .pollReplySend s (fun t => t.cyc.replied = s.cyc.replied ++ [ownPos s] ∧ t.cyc.polls = s.cyc.polls ∧
      ((sendGrant (askSchedule (sendFarTable s)) q.grant).2.1 = false → ∃ f : Frame, f.ftype = 5 ∧
        f.payload = msgPayload 1 0 0 0 0 0 [] ∧ f.srcPos = ownPos s ∧ Sent s t (openPorts s) f))) ∧
  (∀ (s : State), mayOriginate s = true → hasSupSlot s = true → attached s = true →
    Answers .supervisionSlotStart s (fun t => Sent s t (openPorts s)
      (newFrame s 10 0 (if (slotFrame (trackLineKeeping s)).isNone then 8 else 0) (ownSupervision (trackLineKeeping s))))) ∧
  (∀ (s : State) (instant : Int) (excess sh : Nat), s.set.lease = true → inCycle s = true → awake s = true →
    s.cyc.nextShift = none → s.cyc.nextAnchor = none → excess = (instant - (s.cyc.ts + s.cyc.shift + (resStart s : Int))).toNat → sh = s.cyc.shift + excess - reserveLen s / 2 →
    Answers (.leadCycleWorkDone instant) s (fun t =>
      (sh ≤ 4 * cycleLen s → s.cyc.ahead = 0 → t.cyc.nextShift = some sh ∧ t.cyc.nextAnchor = none ∧
        t.cyc.n = s.cyc.n ∧ t.cyc.ts = s.cyc.ts) ∧
      (sh ≤ 4 * cycleLen s → 1 ≤ s.cyc.ahead → t.cyc.n = cycAdd s.cyc.n 1 ∧ t.cyc.ts = s.cyc.ts + cycleLen s ∧
        t.cyc.shift = sh ∧ t.cyc.ahead = s.cyc.ahead - 1) ∧
      (4 * cycleLen s < sh → t.cyc.nextShift = some 0 ∧ t.cyc.n = s.cyc.n ∧ t.cyc.ts = s.cyc.ts ∧ t.cyc.ahead = 0 ∧
        ∃ a : Int, t.cyc.nextAnchor = some a ∧ a % 1000 = 0 ∧
        instant + (reserveLen s / 2 : Nat) ≤ a ∧ a < instant + (reserveLen s / 2 : Nat) + 1000 ∧
        (∀ x ∈ t.skim.samples, cycBefore s.cyc.n x.n = false))))

/-- R98 and R103 to R119: the states of the set-out engine. -/
def Obligations.SetOutStatesFollowTheTable : Prop :=
  (∀ (s : State) (e : OpenEnds), s.set.state = .settling → attached s = true →
    ((allPorts.filter (assigned s)).all (linkUp s) = true ∨ ∃ d, s.set.firstLink = some d ∧ d + 150000000 ≤ s.clk) →
    Answers (.settleEnd e) s (fun t =>
      t.set.state = (if endUnit s e && mayClaim s then .claiming else .waiting) ∧
      (endUnit s e = true → mayClaim s = true → t.set.claimFrom = s.clk ∧ t.set.lastClaim = s.clk ∧ t.set.keys = []) ∧
      t.set.numbering = s.set.numbering)) ∧
  (∀ (s : State), s.set.state = .claiming → s.set.lastClaim + 250000 ≤ s.clk → s.set.quietUntil ≤ s.clk →
    Answers .claimRepeat s (fun t => t.set.lastClaim = s.clk ∧ t.set.state = .claiming ∧ ∃ f : Frame, f.ftype = 7 ∧
      field f.payload 0 8 = ownKey s % 2 ^ 64 ∧ Sent s t (openPorts s) f)) ∧
  (∀ (s : State), s.set.state = .claiming → s.set.claimFrom + 1000000 ≤ s.clk → s.set.quietUntil ≤ s.clk →
    (∀ k ∈ s.set.keys, ownKey s < k) →
    Answers .claimWindowEnd s (fun t => t.set.state = .census ∧ t.set.runNo = 1 ∧ t.set.runOpen = true ∧
      t.set.runFrom = s.clk ∧ t.set.replies = [] ∧ t.set.prevRun = none ∧ t.set.leadKey = ownKey s)) ∧
  (∀ (s : State), s.set.state = .census → s.set.runOpen = false → s.set.runFrom + 500000 ≤ s.clk →
    Answers .censusRunStart s (fun t => t.set.state = .census ∧ t.set.runNo = s.set.runNo + 1 ∧ t.set.runOpen = true ∧
      t.set.replies = [] ∧ t.set.prevRun = s.set.prevRun)) ∧
  (∀ (s : State) (p : LinePort), s.set.replyDue = some p →
    Answers .censusReplySend s (fun t => t.set.replyDue = none ∧ t.set.state = s.set.state ∧ ∃ f : Frame, f.ftype = 7 ∧
      field f.payload 28 1 = 2 + (if portEnd p = 1 then 8 else 0) + 16 * unitsCode (arrangement s) (ownUnits s) ∧
      Sent s t (openPorts s) f)) ∧
  (∀ (s : State) (ranked : List CensusReply), s.set.state = .census → s.set.runOpen = true → s.set.runFrom + 250000 ≤ s.clk →
    ranked = rankReplies s.set.replies →
    (s.set.replies.any (fun r => portEnd r.port == 1) && s.set.replies.any (fun r => portEnd r.port == 2)) = false →
    Answers .censusRunClose s (fun t => t.set.runOpen = false ∧
      (tooClose ranked = false → s.set.prevRun = some (runKey ranked) → t.set.state = .committing ∧ t.set.attempts = 1 ∧
        t.set.acks = [] ∧ ∃ num, t.set.issued = some num ∧ num.entries.length = 1 + (ranked.filter (fun r => r.uuid != vehicleUuid s)).length ∧
          (num.entries.head?.map (fun e => (e.uuid, e.pos))) = some (vehicleUuid s, 1) ∧
          (s.set.lapse = none → num.topo = nextTopo ((s.set.retained.map (·.topo)).getD 0))) ∧
      (tooClose ranked = false → s.set.prevRun ≠ some (runKey ranked) → s.set.runNo < 4 →
        t.set.state = .census ∧ t.set.prevRun = some (runKey ranked)) ∧
      (tooClose ranked = true → s.set.runNo < 4 → t.set.state = .census ∧ t.set.prevRun = none) ∧
      ((tooClose ranked = true ∨ s.set.prevRun ≠ some (runKey ranked)) → 4 ≤ s.set.runNo → t.set.state = .settling))) ∧
  (∀ (s : State), s.set.state = .census → s.set.runOpen = true → s.set.runFrom + 250000 ≤ s.clk →
    (∃ r ∈ s.set.replies, portEnd r.port = 1) → (∃ r ∈ s.set.replies, portEnd r.port = 2) →
    Answers .censusRunClose s (fun t => t.set.state = .settling ∧ t.set.runOpen = false ∧ t.set.replies = [])) ∧
  (∀ (s : State) (num : Numbering), s.set.state = .committing → s.set.commitTs = none →
    s.set.ackFrom + 250000 ≤ s.clk → s.set.issued = some num →
    Answers .commitAckTimeout s (fun t =>
      (allAcked s = true → t.set.pending = some num ∧ t.set.commitTs.isSome = true ∧ t.set.state = .committing ∧
        (s.set.lapse = none → ∃ x : Int, t.set.commitTs = some x ∧ x % 1000000 = 0 ∧ s.time.now + 1000000 ≤ x ∧
          x < s.time.now + 2000000)) ∧
      (allAcked s = false → s.set.attempts < 3 → t.set.attempts = s.set.attempts + 1 ∧ t.set.ackFrom = s.clk ∧
        t.set.state = .committing) ∧
      (allAcked s = false → 3 ≤ s.set.attempts → t.set.state = .census ∧ t.set.runNo = 1 ∧ t.set.issued = none))) ∧
  (∀ (s : State) (num : Numbering), s.set.pending = some num → s.set.ackDue = true → inCycle s = false →
    s.set.state ≠ .absorbing →
    Answers .commitAckSend s (fun t => t.set.ackDue = false ∧ t.set.pending = some num ∧
      Sent s t (openPorts s) (newFrame s 9 0 0 (be 4 num.topo ++ be 4 num.commit ++ be 4 (crc32 num.bytes))))) ∧
  (∀ (s : State) (num : Numbering), s.set.pending = some num →
    (∃ x, s.set.commitTs = some x ∧ x ≤ s.time.now) ∨ (s.set.commitTs = none ∧ s.cyc.running = true ∧
      s.set.pendingAt ≠ some s.cyc.n ∧ (inCycle s = true ∨ s.set.lapse.isSome = true ∨ s.set.state = .absorbing) ∧
      (num.commit = s.cyc.n ∨ cycBefore num.commit s.cyc.n = true)) →
    Answers .commitCycleAdoption s (fun t => t.set.state = .committed ∧ t.set.numbering = some num ∧
      t.set.retained = some num ∧ t.set.pending = none ∧ t.set.lapse = none ∧ t.cyc.running = true ∧
      (∀ x, s.set.commitTs = some x → t.cyc.n = num.commit ∧ t.cyc.ts = x ∧ t.set.expiry = cycAdd num.commit 8) ∧
      (s.set.commitTs = none → t.cyc.n = s.cyc.n ∧ t.cyc.ts = s.cyc.ts) ∧ t.set.takeLease = takesLease s num)) ∧
  (∀ (s : State) (e : OpenEnds), s.set.state = .committed → s.set.lease = false → s.cyc.running = true →
    s.set.expiry = gridN s ∨ cycBefore s.set.expiry (gridN s) = true →
    Answers (.leaseLapse e) s (fun t =>
      (s.set.expiry = cycAdd s.set.lastStart 8 → t.set.lapse = some (topoCommitted s) ∧ t.time.base = .holdover ∧
        (t.set.state = .claiming ∨ t.set.state = .waiting) ∧ t.cyc.stopped = true ∧ t.cyc.joined = false) ∧
      (s.set.expiry ≠ cycAdd s.set.lastStart 8 → t.set.state = .absorbing ∧ t.set.absorbFrom = gridN s ∧
        t.cyc.joined = false))) ∧
  (∀ (s : State) (e : OpenEnds), s.set.state = .absorbing → 16 ≤ cycDiff (gridN s) s.set.absorbFrom →
    Answers (.absorbingTimeout e) s (fun t => t.set.lapse = some (topoCommitted s) ∧
      (t.set.state = .claiming ∨ t.set.state = .waiting) ∧ t.time.base = .holdover ∧ t.cyc.joined = false)) ∧
  (∀ (s : State), s.set.state = .waiting → s.set.waitFrom + 50000000 ≤ s.clk →
    Answers .waitingTimeout s (fun t => t.set.state = .settling ∧ t.set.keys = [] ∧ t.set.replies = [] ∧
      t.set.firstLink = (if (upPorts s).isEmpty then none else s.set.firstLink)))

/-- R80, R88, R92, R106 to R128, R362: what a delivered frame of each kind changes. -/
def Obligations.DeliveredFramesTakeEffect : Prop :=
  (∀ (s : State) (p : LinePort) (f : Frame), waits s p f = true → f.ftype = 2 → isSafety f = false →
    (slotEntry s (pubSlotOf f)).any (fun e => e.pos == f.srcPos && !e.absent) = true → f.cycle = s.cyc.n →
    (frameElems (pubSlotOf f) f).any (fun e => isSafetySignal s e.1) = false →
    Answers (.publicationDelivered p f) s (fun t =>
      (slotBuild t (pubSlotOf f)).frames = (slotBuild s (pubSlotOf f)).frames ++ [pubIndexOf f] ∧
      (slotBuild t (pubSlotOf f)).last = (if isLast f then some (pubIndexOf f) else (slotBuild s (pubSlotOf f)).last) ∧
      (slotBuild t (pubSlotOf f)).elems = (slotBuild s (pubSlotOf f)).elems ++
        (frameElems (pubSlotOf f) f).filter (fun e => widthAgrees s e.1 e.2.1) ∧
      (∀ k, k ≠ pubSlotOf f → slotBuild t k = slotBuild s k) ∧ f.srcPos ∈ t.set.heard ∧
      t.line.rx = takeRx p f s.line.rx ∧ t.skim.retained = s.skim.retained)) ∧
  (∀ (s : State) (p : LinePort) (f : Frame) (k : Nat), waits s p f = true → f.ftype = 2 → isSafety f = true →
    (slotEntry s (pubSlotOf f)).any (fun e => e.pos == f.srcPos && !e.absent) = true → f.cycle = s.cyc.n →
    envelopeFault s f = some k → assigned s p = true →
    Answers (.publicationDelivered p f) s (fun t => t.skim = s.skim ∧
      (t.line.ports.get p).status = setBit (s.line.ports.get p).status 5 true ∧
      (t.line.ports.get p).drops = count32 (s.line.ports.get p).drops ∧ (∀ x ∈ t.line.dups, sameKey x (dupKey s f) = false) ∧
      t.recorder.reports = s.recorder.reports ++ [stamp s ⟨0x0804, 15, k, []⟩])) ∧
  (∀ (s : State) (p : LinePort) (f : Frame), waits s p f = true → f.ftype = 3 →
    (slotEntry s (pubSlotOf f)).any (fun e => e.pos == f.srcPos && !e.absent) = true → f.cycle = s.cyc.n →
    Answers (.nullDelivered p f) s (fun t =>
      slotBuild t (pubSlotOf f) = { slotBuild s (pubSlotOf f) with null := true } ∧ f.srcPos ∈ t.set.heard ∧
      (f.srcPos ∈ t.sleep.lineKeepers ↔ field f.payload 0 1 = 2))) ∧
  (∀ (s : State) (p : LinePort) (f : Frame) (arrival : Int), waits s p f = true → f.ftype = 4 →
    Answers (.pollDelivered p f arrival) s (fun t =>
      t.cyc.polls = s.cyc.polls ++ [⟨field f.payload 0 1, field f.payload 1 1 / 16, field f.payload 2 2, field f.payload 4 2⟩] ∧
      (s.cyc.polls = [] → t.cyc.windowStart = some (extend32 s.time.now f.fragment)) ∧
      (s.cyc.polls ≠ [] → t.cyc.windowStart = s.cyc.windowStart))) ∧
  (∀ (s : State) (p : LinePort) (f : Frame), waits s p f = true → f.ftype = 10 → 1 ≤ f.srcUnit → f.srcUnit ≤ 4 →
    (∃ e ∈ presentEntries s, e.pos = f.srcPos) →
    Answers (.supervisionDelivered p f) s (fun t =>
      Tab.get? t.set.sups (f.srcPos * 16 + f.srcUnit) = some (f.cycle, f.payload) ∧ f.srcPos ∈ t.set.heard ∧
      (s.set.lease = false → ∃ v, Tab.get? t.sleep.votes (f.srcPos * 16 + f.srcUnit) = some v ∧
        v.vote = field f.payload 4 1 ∧ v.bitmap = field f.payload 8 4))) ∧
  (∀ (s : State) (p : LinePort) (f : Frame), waits s p f = true → f.ftype = 6 →
    Answers (.probeDelivered p f) s (fun t => t.set.probes.get p = some f.payload ∧ t.set.probeTopo.get p = f.topo ∧
      (∀ q, q ≠ p → t.set.probes.get q = s.set.probes.get q) ∧ t.set.state = s.set.state)) ∧
  (∀ (s : State) (p : LinePort) (f : Frame), waits s p f = true → f.ftype = 7 → claimBits f = 0 →
    s.set.state ≠ .committed → field f.payload 0 8 ≠ ownKey s →
    Answers (.claimDelivered p f) s (fun t => t.set.keys = s.set.keys ++ [field f.payload 0 8] ∧
      (field f.payload 0 8 < ownKey s → s.set.state = .claiming ∨ s.set.state = .census ∨ s.set.state = .committing →
        t.set.state = .waiting ∧ t.set.waitFrom = s.clk) ∧
      (ownKey s < field f.payload 0 8 → t.set.state = s.set.state))) ∧
  (∀ (s : State) (p : LinePort) (f : Frame), waits s p f = true → f.ftype = 7 → claimBits f = 0 →
    s.set.state = .committed →
    Answers (.claimDelivered p f) s (fun t =>
      t.set.leadKey = (if f.srcPos = 1 ∧ fromLead f then field f.payload 0 8 else s.set.leadKey) ∧
      (1 ≤ f.srcPos → f.srcPos ∈ t.set.heard) ∧
      (s.set.lease = true → f.srcPos ≠ 0 → Trigger.cab f.srcPos (field f.payload 0 8) ∈ t.set.triggers))) ∧
  (∀ (s : State) (p : LinePort) (f : Frame), waits s p f = true → f.ftype = 7 → claimBits f = 2 →
    s.set.state = .waiting ∨ s.set.state = .claiming → s.set.quietUntil ≤ s.clk →
    Answers (.censusRequestDelivered p f) s (fun t => t.set.replyDue = some p ∧ t.set.quietUntil = s.clk + 300000 ∧
      t.set.waitFrom = s.clk ∧ t.set.leadKey = field f.payload 0 8 ∧ t.set.censusKey = some (field f.payload 0 8) ∧
      t.set.keys = s.set.keys ++ [field f.payload 0 8] ∧
      t.set.state = (if field f.payload 0 8 < ownKey s then .waiting else s.set.state))) ∧
  (∀ (s : State) (p : LinePort) (f : Frame) (arrival : Int), waits s p f = true → f.ftype = 7 → claimBits f = 2 →
    s.set.state = .census → s.set.runOpen = true →
    Answers (.censusReplyDelivered p f arrival) s (fun t => t.set.replies = s.set.replies ++
      [⟨field f.payload 8 16, arrival, p, bitOf (field f.payload 28 1) 3, bits (field f.payload 28 1) 6 4,
        field f.payload 0 8, field f.payload 24 4⟩])) ∧
  (∀ (s : State) (p : LinePort) (f : Frame), waits s p f = true → f.ftype = 8 →
    Answers (.numberingDelivered p f) s (fun t =>
      (s.set.boundary.get p = false → t.set.offered = some f.payload ∧ t.set.far = s.set.far ∧
        ((parseNumbering f.payload).merge = true → t.set.mergeClaimDue = false)) ∧
      (s.set.boundary.get p = true → t.set.offered = s.set.offered ∧
        ∀ x, s.set.far = some x → t.set.far = some { x with table := some (parseNumbering f.payload) }))) ∧
  (∀ (s : State) (p : LinePort) (f : Frame) (raw : Bytes) (num : Numbering), waits s p f = true → f.ftype = 9 →
    fromLead f = true → s.set.offered = some raw → num = parseNumbering raw → field f.payload 8 4 = crc32 raw →
    field f.payload 0 4 = num.topo → field f.payload 4 4 = num.commit → (entryOf num (vehicleUuid s)).isSome = true →
    s.set.lease = false → (∀ o, s.set.numbering = some o → s.set.state = .committed → o.topo ≠ num.topo) →
    (∀ o, s.set.numbering = some o ∨ s.set.pending = some o → s.set.state = .committed →
      cycBefore num.commit o.commit = false) →
    Answers (.commitDelivered p f) s (fun t => t.set.pending = some num ∧
      (s.set.pending ≠ some num ∨ inCycle s = false → t.set.ackDue = true) ∧ t.set.numbering = s.set.numbering)) ∧
  (∀ (s : State) (p : LinePort) (f : Frame) (num : Numbering), waits s p f = true → f.ftype = 9 → fromLead f = false →
    s.set.issued = some num → f.payload = commitPayload num → f.srcPos = 0 →
    Answers (.commitAckDelivered p f) s (fun t => t.set.acks = s.set.acks ++ [(0, f.cycle)] ∧ t.set.issued = some num)) ∧
  (∀ (s : State) (p : LinePort) (f : Frame), waits s p f = true → f.ftype = 7 → claimBits f = 4 → s.set.lease = true →
    1 ≤ f.srcPos → (∀ num, s.set.numbering = some num ∨ s.set.pending = some num →
      ∀ e ∈ num.entries, e.uuid = field f.payload 8 16 → e.absent = true) →
    (∀ q u k o n, Trigger.join q u k o n ∈ s.set.triggers → u ≠ field f.payload 8 16) →
    Answers (.joinReportDelivered p f) s (fun t => t.set.triggers = s.set.triggers ++
      [.join f.srcPos (field f.payload 8 16) (field f.payload 0 8) (bitOf (field f.payload 28 1) 3)
        (bits (field f.payload 28 1) 6 4)])) ∧
  (∀ (s : State) (p : LinePort) (f : Frame), waits s p f = true → f.ftype = 7 → bitOf (claimBits f) 0 = true →
    Answers (.mergeClaimDelivered p f) s (fun t =>
      (isBoundary s p = false ∨ field f.payload 0 8 ≠ s.set.leadKey → ∃ x, t.set.far = some x ∧
        x.key = field f.payload 0 8 ∧ x.uuid = field f.payload 8 16 ∧ x.counter = field f.payload 24 4) ∧
      (isBoundary s p = true → field f.payload 0 8 = s.set.leadKey → t.set.far = s.set.far) ∧
      (isBoundary s p = false → s.set.lease = true → t.set.survivor = decide (s.set.leadKey ≤ field f.payload 0 8) ∧
        t.set.yielding = (s.set.yielding || decide (field f.payload 0 8 < s.set.leadKey)))))

/-- R99, R119, R121, R124, R126: triggers and the rate; R127 to R131: coupling. -/
def Obligations.RenumberingTriggersAndCouplingFollow : Prop :=
  (∀ (s : State) (pos : Nat), s.set.lease = true → 4 ≤ Tab.getD s.set.silent pos 0 → Trigger.absent pos ∉ s.set.triggers →
    exec (.vehicleAbsent pos) s = .next { s with set := { s.set with triggers := s.set.triggers ++ [.absent pos] } }) ∧
  (∀ (s : State) (num : Numbering), s.set.issued = some num → s.set.lease = true →
    repeatsOver s num = true →
    Answers .setoutNoAck s (fun t => t.set = { s.set with
        issued := none, repeatTo := none, olds := s.set.olds.filter (fun x => !repeatsOver s x.1) } ∧
      (∀ e ∈ num.entries, e.absent = false → e.uuid ≠ vehicleUuid s → (∀ a ∈ s.set.acks, a.1 ≠ e.slot + 1) →
        stamp s ⟨0x0205, 5, e.slot, []⟩ ∈ t.recorder.reports) ∧
      (∀ r ∈ t.recorder.reports, r ∈ s.recorder.reports ∨ r.ev.code = 0x0205))) ∧
  (∀ (s : State) (b : Bool), b ≠ s.set.cabActive →
    Answers (.cabActiveChange b) s (fun t => t.set.cabActive = b ∧
      (s.set.state = .committed → t.set.claimDue = true) ∧
      (s.set.lease = true → t.set.leadKey = ownKey t) ∧ (s.set.lease = false → t.set.leadKey = s.set.leadKey) ∧
      (s.set.lease = true → s.set.state = .committed → t.set.triggers = s.set.triggers ++ [.cab (ownPos s) (ownKey t)]) ∧
      ownKey t / 2 ^ 63 = (if b then 0 else 1))) ∧
  (∀ (s : State) (d : Int), s.set.retrainB = some d → d ≤ s.cyc.ts →
    (∀ e ∈ presentEntries s, e.pos ≠ 1 → (∀ num, s.set.numbering = some num → e.pos ≠ num.entries.length) →
      (if e.pos = ownPos s then s.set.ownSup ≠ [] ∧ bitOf (field s.set.ownSup 0 4) 7 = false
       else ∃ x ∈ s.set.sups, x.1 / 16 = e.pos) ∧
      ∀ x ∈ s.set.sups, x.1 / 16 = e.pos → bitOf (field x.2.2 0 4) 7 = false) →
    Answers .lineBRetrain s (fun t => t.set.retrainB = none ∧ t.line.rateB25 = false ∧ t.line.rateA25 = s.line.rateA25 ∧
      (∀ p, portLine p = .b → linkUp t p = decide ((s.line.ports.get p).offRate = some false)) ∧
      t.line.ports.get .a1 = s.line.ports.get .a1 ∧
      t.line.ports.get .a2 = s.line.ports.get .a2)) ∧
  (∀ (s : State) (p : LinePort) (claim table : Bytes) (num : Numbering) (key counter : Nat), s.set.numbering = some num →
    s.set.state = .committed → managing s = true → p ∈ upPorts s → claim.length = 32 → numberingOk table = true →
    key = field claim 0 8 →
    counter = field claim 24 4 →
    Answers (.boundaryLinkUp p claim table) s (fun t =>
      Sent s t [p] (newFrame s 7 0 0 (claimPayload s.set.leadKey
        (((num.entries.find? (fun e => e.pos == 1)).map (·.uuid)).getD 0) num.topo 1)) ∧
      (key = s.set.leadKey → counter = num.topo → t.set.boundary.get p = false ∧ t.set.far = none) ∧
      (key = s.set.leadKey → counter ≠ num.topo → t.recorder.reports = s.recorder.reports ++ [stamp s ⟨0x0203, 5, 0, []⟩] ∧
        t.set.yielding = s.set.yielding) ∧
      (key ≠ s.set.leadKey → 64 < presentCount num + presentCount (parseNumbering table) →
        t.set.refused = true ∧ t.set.farTableDue = true ∧ t.recorder.reports = s.recorder.reports ++
          [stamp s ⟨0x0204, 5, (presentCount num + presentCount (parseNumbering table) : Nat), []⟩]) ∧
      (key ≠ s.set.leadKey → presentCount num + presentCount (parseNumbering table) ≤ 64 →
        t.set.boundary.get p = true ∧ t.set.survivor = decide (s.set.leadKey < key) ∧ t.set.mergeClaimDue = true ∧
        t.set.farTableDue = decide (s.set.leadKey < key) ∧
        t.set.yielding = (s.set.yielding || (decide (key < s.set.leadKey) && s.set.lease)) ∧
        ∃ x, t.set.far = some x ∧ x.key = key ∧ x.counter = counter ∧ x.table = some (parseNumbering table)))) ∧
  (∀ (s : State) (p : LinePort), s.set.boundary.get p = true → s.set.state = .committed → s.set.survivor = true →
    s.set.far.isSome = true → s.set.refused = false → linkUp s p = true → probeCommitted s p = false →
    Answers .boundaryOpen s (fun t => (∀ q, s.set.boundary.get q = true →
        segRate25 s q = mergedRate25 s → lineRate s q = mergedRate25 s →
        t.set.boundary.get q = false ∧ t.set.merging.get q = true) ∧
      (∀ q, segRate25 s q ≠ mergedRate25 s ∨ lineRate s q ≠ mergedRate25 s →
        t.set.boundary.get q = s.set.boundary.get q ∧ t.set.merging.get q = s.set.merging.get q) ∧
      t.set.numbering = s.set.numbering ∧ t.set.survivor = true))

/-- R226 to R236, R241, R248, R252: what the node does with a message of each kind. -/
def Obligations.BridgeMessagesAreServed : Prop :=
  (∀ (s : State) (p : LinePort) (f : Frame), waits s p f = true → msgKind f ≠ 0 → addressedHere s f = true →
    s.veh.staging.length < 128 → stagedBytes s + (ringBytes f).length ≤ 524288 →
    Answers (.messageFrameDelivered p f) s (fun t => t.bridge.inbox = s.bridge.inbox ++ [f] ∧ f.srcPos ∈ t.set.heard ∧
      t.line.rx = takeRx p f s.line.rx)) ∧
  (∀ (s : State) (f : Frame) (c : Instr) (k : Nat), (c = .postedWriteMessage f ∧ k = 1) ∨ (c = .readRequestMessage f ∧ k = 2) ∨
      (c = .readResponseMessage f ∧ k = 3) ∨ (c = .farErrorMessage f ∧ k = 4) ∨ (c = .announcementMessage f ∧ k = 5) ∨
      (c = .semaphoreMessage f ∧ k = 6) → f ∈ s.bridge.inbox → msgKind f = k →
    ∀ e, Tab.get? s.bridge.expected (channelSlot f.channel) = some e → field (msgBody f) 2 2 < 32768 →
    16383 < (field (msgBody f) 2 2 + 32768 - e) % 32768 →
    Answers c s (fun t => t.bridge = { s.bridge with inbox := dropOne f s.bridge.inbox, oldSeq := count32 s.bridge.oldSeq })) ∧
  (∀ (s : State) (f : Frame) (id v : Nat) (d : SigDef), arrivesInOrder s f 1 → field (msgBody f) 4 1 = 2 →
    id = field (msgBody f) 8 4 → ownSignal s id = true → defOf s id = some d → field (msgBody f) 5 1 = d.typ → d.typ ≠ 15 →
    writeAllowed s id = true → v = (if d.typ = 0xD then field (msgBody f) 12 16 else field (msgBody f) 12 16 % 2 ^ typeBits d.typ) →
    Answers (.postedWriteMessage f) s (fun t =>
      t.skim.writes = s.skim.writes ++
        [⟨id, BitVec.ofNat 128 v, none, if s.cyc.running then some (nextSkim s) else none, some (f.channel, msgTag f)⟩] ∧
      t.bridge.queue = s.bridge.queue)) ∧
  (∀ (s : State) (f : Frame) (st d : Nat), arrivesInOrder s f 1 → field (msgBody f) 4 1 = 0 → st < 65536 →
    accessRefusal s (field (msgBody f) 8 4 % 1048576) (field (msgBody f) 5 1) true 1 = some (st, d) →
    Answers (.postedWriteMessage f) s (fun t => queuesOne s t 4 (msgTag f) f.channel
      (fun m => m.bodies.map (fun b => field b 6 2) = [st]) ∧ t.bridge.farQueue = s.bridge.farQueue)) ∧
  (∀ (s : State) (f : Frame) (st d : Nat), arrivesInOrder s f 2 → st < 65536 →
    accessRefusal s (field (msgBody f) 8 4 % 1048576) (field (msgBody f) 5 1) false (field (msgBody f) 12 1) = some (st, d) →
    Answers (.readRequestMessage f) s (fun t => queuesOne s t 3 (msgTag f) f.channel
      (fun m => m.bodies.map (fun b => (field b 4 2, bitOf (field b 6 1) 0)) =
        [(st, sideEffects s (farKey (entryAt s (field (msgBody f) 8 4 % 1048576))))]) ∧
      t.bridge.farQueue = s.bridge.farQueue)) ∧
  (∀ (s : State) (f : Frame) (r : ReadAhead), arrivesInOrder s f 2 →
    accessRefusal s (field (msgBody f) 8 4 % 1048576) (field (msgBody f) 5 1) false (field (msgBody f) 12 1) = none →
    readAhead s (field (msgBody f) 8 4 % 1048576) = some r →
    Answers (.readRequestMessage f) s (fun t => queuesOne s t 3 (msgTag f) f.channel
      (fun m => m.bodies.map (fun b => (field b 4 2, field b 20 16)) = [(stDone, r.value.toNat)]) ∧
      t.bridge.farQueue = s.bridge.farQueue)) ∧
  (∀ (s : State) (f : Frame) (x : TagSt), arrivesInOrder s f 3 → findTag s (msgTag f) = some x → x.kind = .read →
    x.state ≠ .held → x.initiator = msgChannel f →
    Answers (.readResponseMessage f) s (fun t => ∃ y, findTag t (msgTag f) = some y ∧ y.state = .held ∧
      y.status = field (msgBody f) 4 2 ∧ y.value = BitVec.ofNat 128 (field (msgBody f) 20 16) ∧
      y.holdEnd = s.clk + 250000000)) ∧
  (∀ (s : State) (f : Frame), arrivesInOrder s f 3 → findTag s (msgTag f) = none → bitOf (field (msgBody f) 6 1) 0 = false →
    Answers (.readResponseMessage f) s (fun t => t.bridge.droppedResults = count32 s.bridge.droppedResults ∧
      t.bridge.tags = s.bridge.tags)) ∧
  (∀ (s : State) (f : Frame) (x : TagSt), arrivesInOrder s f 4 → field (msgBody f) 4 1 ≠ 0xFE →
    findTag s (msgTag f) = some x → x.kind = .postedWrite → x.initiator = msgChannel f →
    Answers (.farErrorMessage f) s (fun t =>
      (∃ e, t.bridge.errors = lastN 64 (s.bridge.errors ++ [e]) ∧ e.initiator = x.initiator ∧ e.tag = x.tag ∧
        e.status = field (msgBody f) 6 2 ∧ e.failedUnit = field (msgBody f) 5 1 ∧ e.time = s.time.now) ∧
      findTag t (msgTag f) = none ∧ t.host.intStatus.getLsbD 5 = true)) ∧
  (∀ (s : State) (f : Frame), arrivesInOrder s f 5 → endpointOpen s (channelEnd (field (msgBody f) 0 2)) = true →
    annCount s < 1024 →
    Answers (.announcementMessage f) s (fun t => t.bridge.heldAnns = s.bridge.heldAnns ++
      [⟨field (msgBody f) 0 2, msgBody f, field (msgBody f) 12 4, f.channel⟩])) ∧
  (∀ (s : State), Answers .announcementRelease s (fun t =>
    ∀ a, a ∈ t.bridge.heldAnns ↔ a ∈ s.bridge.heldAnns ∧ annDue s a = false)) ∧
  (∀ (s : State) (f : Frame) (sem : Nat), arrivesInOrder s f 6 → field (msgBody f) 4 1 = 1 → sem = field (msgBody f) 6 2 →
    semHere s f.channel (msgTag f) = false →
    Answers (.semaphoreMessage f) s (fun t => ∃ u, t = pumpAll u ∧
      (semOf s sem = none → semOf u sem = some ⟨sem, f.channel, s.clk + 100000000⟩ ∧ queuesOne s u 6 (msgTag f) f.channel
        (fun m => m.bodies.map (fun b => field b 4 1) = [0x81])) ∧
      (∀ h, semOf s sem = some h → h.holder ≠ f.channel → semOf u sem = some h ∧
        (field (msgBody f) 8 2 = 0 → queuesOne s u 6 (msgTag f) f.channel (fun m => m.bodies.map (fun b => field b 4 1) = [0x84])) ∧
        (field (msgBody f) 8 2 ≠ 0 → u.bridge.semWaits = s.bridge.semWaits ++
          [⟨sem, msgTag f, f.channel, s.clk + field (msgBody f) 8 2 * 1000000, channelSlot f.channel⟩]))))

/-- R230 to R250: expiries, marks, locks, semaphores and the end of an access unit. -/
def Obligations.BridgeTimersAndLocksRunOut : Prop :=
  (∀ (s : State) (k : Nat) (x : TagSt), findTag s k = some x → x.state = .held → x.holdEnd ≤ s.clk →
    Answers (.resultHoldExpiry k) s (fun t => findTag t k = none ∧
      (∀ j, j ≠ k → findTag t j = findTag s j) ∧
      (x.collected = false → x.sideEffect = false → t.bridge.droppedResults = count32 s.bridge.droppedResults) ∧
      (x.collected = false → x.sideEffect = true → ∃ r ∈ t.recorder.reports, r.ev.code = 0x0504 ∧
        r.ev.payload = be 16 x.value.toNat ++ be 4 x.target ++ be 4 x.farRoute ++ be 2 k ++ be 2 x.initiator))) ∧
  (∀ (s : State) (k : Nat) (x : TagSt), findTag s k = some x → x.state ≠ .held → x.deadline ≤ s.clk →
    (x.kind = .postedWrite → ∀ y ∈ s.bridge.farQueue, y.localTag = true → y.tag = k → y.started = false) →
    (∀ y ∈ s.bridge.farQueue, y.localTag = true → y.tag = k → y.started = false → needsSem y.entry = true → semState s y ≠ 2) →
    Answers (.bridgeTimeoutExpiry k) s (fun t =>
      (x.kind = .read → ∃ y, findTag t k = some y ∧ y.state = .held ∧ y.status = stFarTimeout ∧ y.data = be 4 6 ∧
        y.holdEnd = s.clk + 250000000) ∧
      (x.kind = .postedWrite → x.state ≠ .sent ∨ (∀ r ∈ s.bridge.sentRecs, sentWrite r x = false) → findTag t k = none) ∧
      (x.kind = .postedWrite → x.state = .sent → (∃ r ∈ s.bridge.sentRecs, sentWrite r x = true) → t = s) ∧
      (x.kind = .postedWrite → x.state ≠ .sent → ∃ e, t.bridge.errors = lastN 64 (s.bridge.errors ++ [e]) ∧
        e.tag = k ∧ e.status = stFarTimeout ∧ e.initiator = x.initiator) ∧
      (x.kind = .postedWrite → x.state = .sent → t.bridge.errors = s.bridge.errors))) ∧
  (∀ (s : State) (k : Nat) (x : TagSt) (y : FarTxn), findTag s k = some x → x.kind = .postedWrite → y ∈ s.bridge.farQueue →
    y.localTag = true → y.tag = k → y.started = true → exec (.bridgeTimeoutExpiry k) s = .next s) ∧
  (∀ (s : State) (k : Nat) (x : TagSt) (y : FarTxn), findTag s k = some x → x.kind = .read → x.state ≠ .held →
    x.deadline ≤ s.clk → y ∈ s.bridge.farQueue → y.localTag = true → y.tag = k → y.started = false →
    needsSem y.entry = true → semState s y = 2 →
    Answers (.bridgeTimeoutExpiry k) s (fun t => ∃ z, findTag t k = some z ∧ z.state = .held ∧ z.status = stLockHeld)) ∧
  (∀ (s : State) (slot : Nat), (slotTxOf s slot).markDue = true → 8 ≤ (slotTxOf s slot).idle → slotPresent s slot = true →
    Answers (.bridgeMarkSend slot) s (fun t => (slotTxOf t slot).markDue = false ∧
      queuesOne s t 1 0 (slot * 1024) (fun m => m.bodies.map (fun b => field b 4 1) = [0xFF]))) ∧
  (∀ (s : State) (slot seq : Nat), Answers (.senderRecordExpiry slot seq) s (fun t =>
    (∀ r, r ∈ t.bridge.sentRecs ↔ r ∈ s.bridge.sentRecs ∧ ¬(r.slot = slot ∧ r.seq = seq ∧ r.at_ + 1000000000 ≤ s.clk)) ∧
    (∀ r ∈ s.bridge.sentRecs, r.slot = slot → r.seq = seq → r.at_ + 1000000000 ≤ s.clk →
      ∀ x ∈ s.bridge.tags, x.kind = .postedWrite → x.state = .sent → x.deadline ≤ s.clk → sentWrite r x = true →
        findTag t x.tag = none) ∧
    t = { s with bridge := { s.bridge with
        sentRecs := t.bridge.sentRecs, tags := t.bridge.tags, released := t.bridge.released } })) ∧
  (∀ (s : State) (i : Nat), Answers (.readAheadExpiry i) s (fun t =>
    (∀ r, r ∈ t.bridge.readAheads ↔ r ∈ s.bridge.readAheads ∧ ¬(r.route = i ∧ r.until_ ≤ s.clk)) ∧
    t = { s with bridge := { s.bridge with readAheads := t.bridge.readAheads } })) ∧
  (∀ (s : State) (k : Nat) (x : SemSt), semOf s k = some x → x.sem = k → x.leaseEnd ≠ 0 → x.leaseEnd ≤ s.clk →
    Answers (.semaphoreLeaseExpiry k) s (fun t => ∃ u, t = pumpAll u ∧
      (s.bridge.semWaits.find? (fun w => w.port == k) = none → semOf u k = none) ∧
      (∀ w, s.bridge.semWaits.find? (fun w => w.port == k) = some w →
        semOf u k = some ⟨k, w.channel, s.clk + 100000000⟩ ∧ u.bridge.semWaits = dropOne w s.bridge.semWaits) ∧
      stamp s ⟨0x0506, 10, k, []⟩ ∈ u.recorder.reports)) ∧
  (∀ (s : State) (k : Nat) (w : LockWait), s.bridge.semWaits.find? (fun w => w.tag == k && w.until_ ≤ s.clk) = some w →
    Answers (.semaphoreWaitExpiry k) s (fun t => t.bridge.semWaits = dropOne w s.bridge.semWaits ∧
      (∀ x, semHere s w.channel w.tag = true → findTag s w.tag = some x → ∃ y, findTag t w.tag = some y ∧ y.state = .held ∧
        y.status = stLockHeld) ∧
      (semHere s w.channel w.tag = false → queuesOne s t 6 w.tag w.channel (fun m => m.bodies.map (fun b => field b 4 1) = [0x84])))) ∧
  (∀ (s : State) (port : Nat) (w : LockWait), (∀ l ∈ s.bridge.locks, l.port ≠ port) → portBusy s port = false →
    s.bridge.lockWaits.find? (fun w => w.port == port) = some w → txnId w.channel w.tag ≠ 0 →
    (∀ q ∈ s.bridge.locked, q.tag = w.tag → q.port ≠ port) →
    exec (.farBusLockTaken port) s = .next (pumpAll { s with bridge := { s.bridge with
      lockWaits := dropOne w s.bridge.lockWaits, locks := s.bridge.locks ++ [⟨port, txnId w.channel w.tag, s.clk⟩] } })) ∧
  (∀ (s : State) (port : Nat), portBusy s port = true ∨ (∃ l ∈ s.bridge.locks, l.port = port) →
    exec (.farBusLockTaken port) s = .next s) ∧
  (∀ (s : State) (port : Nat) (l : PortLock), s.bridge.locks.find? (fun l => l.port == port) = some l →
    l.taken + 5000000 ≤ s.clk →
    Answers (.farBusLockExpiry port) s (fun t =>
      (l.holder ≠ 0 → s.bridge.farQueue = [] → s.bridge.locked = [] → t.bridge.locks = s.bridge.locks.filter (fun m => m.port != port)) ∧
      (∀ q, l.holder ≠ 0 → s.bridge.farQueue = [] → s.bridge.locked = [q] → q.port = port → t.bridge.locked = [] ∧
        t.bridge.locks = s.bridge.locks.filter (fun m => m.port != port) ∧
        ∀ x, findTag s q.tag = some x → ∃ y, findTag t q.tag = some y ∧ y.state = .held ∧ y.status = stFarTimeout ∧ y.data = be 4 7))) ∧
  (∀ (s : State) (k : Nat) (w : LockWait) (q : LockedSeq) (x : TagSt),
    s.bridge.lockWaits.find? (fun w => w.tag == k && w.until_ ≤ s.clk) = some w →
    s.bridge.locked.find? (fun q => q.tag == k && q.port == w.port) = some q → findTag s k = some x →
    Answers (.lockWaitExpiry k) s (fun t => t.bridge.lockWaits = dropOne w s.bridge.lockWaits ∧
      (∀ y ∈ t.bridge.locked, y.tag ≠ k) ∧ ∃ y, findTag t k = some y ∧ y.state = .held ∧ y.status = stLockHeld)) ∧
  (∀ (s : State) (x : FarTxn) (a : FarAnswer) (st d : Nat), s.bridge.farQueue = [x] → x.started = true → x.locked = false →
    x.semHeld = false → x.localTag = false → x.write = none → x.shadowRead = false →
    (a = .error d ∧ st = stFarError) ∨ (a = .timeout ∧ st = stFarTimeout) →
    Answers (.farTransactionComplete x.key a) s (fun t => t.bridge.farQueue = [] ∧
      queuesOne s t 3 x.tag x.replyTo (fun m => m.bodies.map (fun b => field b 4 2) = [st]))) ∧
  (∀ (s : State) (x : FarTxn) (v : Val × Nat) (b : Bytes), s.bridge.farQueue = [x] → x.started = true → x.locked = false →
    x.semHeld = false → x.localTag = false → x.write = some v → x.shadowRead = false → x.unitsDone + 1 = unitCount x.entry →
    Answers (.farTransactionComplete x.key (.ok b)) s (fun t => t.bridge.farQueue = [] ∧ t.bridge.queue = s.bridge.queue))

/-- R277 to R280, R319: device channels. The number of a state in a detail is its place in R280's table. Which cyclic accesses
hold a semaphore, and how long, is log entry 201's choice. -/
def Obligations.DeviceChannelsExchange : Prop :=
  (∀ (s : State) (ch n : Nat) (l : List StagedOut), chEnabled (chanSt s ch) = true → (chanSt s ch).out = 0 →
    (chanSt s ch).state ∈ [.starting, .active, .missing] → s.pair.repeatOff = false →
    dueSkim s (chPeriod (chanSt s ch)) (chPhase (chanSt s ch)) (chanSt s ch).lastCyclic = some (n, l) →
    ∀ l' c u r, l' = l.filter (fun o => !semBlocked s o) → c = { chanSt s ch with lastCyclic := some n } →
    u = setChan (takeSems ((l.filter (fun o => onChannel s ch o.entry && semBlocked s o)).foldl noteDeferred s) ch l') ch c →
    r = activate u ch 0 (stagedImage u (chanKey u ch) (chOutLen c) l') [] none [] →
    (r = none → Answers (.channelCyclicRequest ch) s (fun t => t.out = u.out ∧
      chanSt t ch = { c with out := 1, sentAt := s.clk + (toOf s n - s.time.now).toNat, refused := none })) ∧
    (∀ f code, r = some (.ok f) → f.ended = some (0, code) → exec (.channelCyclicRequest ch) s = .next (sendIp
      (setChan (tookFree u 1025) ch { c with out := 1, sentAt := s.clk + (toOf s n - s.time.now).toNat, refused := none,
                                             state16 := Mem.readN f.data 0xC000 16 })
      (chIface c) (chAddr c) (net s).chanQueue (some n)
      (.udp (ifaceIp s (chIface c)) (chAddr c) (chLocal c ch) (chDevPort c) (Mem.readN f.data 0x8000 f.reqLength)))) ∧
    (∀ f cls code, r = some (.ok f) → f.ended = some (cls, code) → cls ≠ 0 →
      Answers (.channelCyclicRequest ch) s (fun t => t.out = u.out ∧ chanSt t ch = { c with
        out := 1, sentAt := s.clk + (toOf s n - s.time.now).toNat, refused := none, state16 := Mem.readN f.data 0xC000 16 })) ∧
    (∀ code d f, r = some (.error (code, d, f)) → Answers (.channelCyclicRequest ch) s (fun t =>
      (chanSt t ch).state = .faulted ∧ (chanSt t ch).out = 0 ∧ (chanSt t ch).lastFaultPoll = s.clk)) ∧
    (∀ o ∈ l, r = none → onChannel s ch o.entry = true → needsSem o.entry = true → semOf s (rGroup o.entry) = none →
      Answers (.channelCyclicRequest ch) s (fun t =>
        semOf t (rGroup o.entry) = some ⟨rGroup o.entry, cyclicHolder ch, 0⟩))) ∧
  (∀ (s : State) (ch : Nat), chEnabled (chanSt s ch) = false ∨ s.pair.repeatOff = true ∨
    (chanSt s ch).state ∈ [.disabled, .resolving, .faulted] → exec (.channelCyclicRequest ch) s = .next s) ∧
  (∀ (s : State) (ch : Nat) (x : FarTxn), chanDemand s ch = some x → s.clk < x.deadline → (chanSt s ch).state ≠ .active →
    exec (.channelOnDemandSend ch) s = .next (failChannel s ch (2 * 2 ^ 24 + chCode (chanSt s ch).state))) ∧
  (∀ (s : State) (ch : Nat) (x : FarTxn), chanDemand s ch = some x → x.deadline ≤ s.clk →
    exec (.channelOnDemandSend ch) s = .next (pumpAll (finishTxn s x stFarTimeout x.unitsDone 6 0))) ∧
  (∀ (s : State) (ch : Nat) (x : FarTxn), chanDemand s ch = some x → s.clk < x.deadline → (chanSt s ch).state = .active →
    (chanSt s ch).out = 0 → s.cyc.running = false →
    activate s ch (if writing x then 2 else 1) (appliedImage s (chanKey s ch) (chOutLen (chanSt s ch))) []
      (some (chanTxn x)) (if writing x then unitBytes s x else []) = none →
    Answers (.channelOnDemandSend ch) s (fun t => chanSt t ch = { chanSt s ch with out := 2, sentAt := s.clk, refused := none })) ∧
  (∀ (s : State) (ch : Nat), (chanSt s ch).state = .faulted → (chanSt s ch).lastFaultPoll + 1000000000 ≤ s.clk →
    Answers (.channelFaultedPoll ch) s (fun t => (chanSt t ch).lastFaultPoll = s.clk ∧ (chanSt t ch).state = .faulted)) ∧
  (∀ (s : State) (ch : Nat) (r : ChanResp), ((chanSt s ch).out = 0 ∨ r.src ≠ chAddr (chanSt s ch) ∨
      r.sport ≠ chDevPort (chanSt s ch) ∨ r.dport ≠ chLocal (chanSt s ch) ch) →
    exec (.channelResponseReceived ch r) s = .next (setChan s ch
      { chanSt s ch with unmatched := count32 (chanSt s ch).unmatched })) ∧
  (∀ (s : State) (ch : Nat) (r : ChanResp), (chanSt s ch).out ≠ 0 → r.src = chAddr (chanSt s ch) →
    r.sport = chDevPort (chanSt s ch) → r.dport = chLocal (chanSt s ch) ch → ∀ c x a, c = chanSt s ch →
    x = (if c.out = 2 then (chanDemand s ch).map chanTxn else none) →
    a = activate s ch 3 (appliedImage s (chanKey s ch) (chOutLen c)) r.data x [] →
    (a = none → exec (.channelResponseReceived ch r) s = .next (setChan s ch { c with unmatched := count32 c.unmatched })) ∧
    (∀ code d f, a = some (.error (code, d, f)) → Answers (.channelResponseReceived ch r) s (fun t =>
      (chanSt t ch).state = .faulted ∧ (chanSt t ch).out = 0 ∧ (chanSt t ch).lastFaultPoll = s.clk)) ∧
    (∀ f code, a = some (.ok f) → f.ended = some (0, code) →
      Answers (.channelResponseReceived ch r) s (fun t =>
        ImageNow s t (chanKey s ch) (Mem.readN f.data 0xA000 (chInLen c)) ∧ (chanSt t ch).out = 0 ∧
        (chanSt t ch).state16 = Mem.readN f.data 0xC000 16 ∧ (chanSt t ch).received = true ∧
        (c.state = .starting → (chanSt t ch).state = .active) ∧
        (c.state = .active → chanSt t ch = { c with state16 := Mem.readN f.data 0xC000 16, misses := 0, oks := c.oks + 1,
                                                    exceptions := 0, out := 0, refused := none, received := true }) ∧
        (c.state = .missing → (chanSt t ch).state = (if chRecover c ≤ c.oks + 1 then .active else .missing)) ∧
        (c.state = .missing → ¬ chRecover c ≤ c.oks + 1 → (chanSt t ch).oks = c.oks + 1) ∧
        (c.state = .faulted → (chanSt t ch).state = .starting))) ∧
    (∀ f code, a = some (.ok f) → f.ended = some (1, code) → c.state = .active →
      Answers (.channelResponseReceived ch r) s (fun t =>
        ImageNow s t (chanKey s ch) (Mem.readN f.data 0xA000 (chInLen c)) ∧ (chanSt t ch).out = 0 ∧
        (chanSt t ch).state = (if chFaultLimit c ≤ c.exceptions + 1 then .faulted else .active) ∧
        (¬ chFaultLimit c ≤ c.exceptions + 1 → (chanSt t ch).exceptions = c.exceptions + 1))) ∧
    (∀ f cls code, a = some (.ok f) → f.ended = some (cls, code) → cls ≠ 0 → cls ≠ 1 →
      Answers (.channelResponseReceived ch r) s (fun t => t.route.images = s.route.images ∧ chanSt t ch = { c with
        state16 := Mem.readN f.data 0xC000 16, refused := (if cls = 3 then some code else none),
        unmatched := count32 c.unmatched }))) ∧
  (∀ (s : State) (ch : Nat) (c : ChanSt), c = chanSt s ch → c.out ≠ 0 →
    (c.sentAt + chTimeout c ≤ s.clk → Answers (.channelReplyTimeout ch) s (fun t => (chanSt t ch).out = 0 ∧
      (chanSt t ch).state =
        (if c.state ∈ [.starting, .active] ∧ chMissLimit c ≤ c.misses + 1 then .missing else c.state) ∧
      (¬ (c.state ∈ [.starting, .active] ∧ chMissLimit c ≤ c.misses + 1) → (chanSt t ch).misses = c.misses + 1))) ∧
    (s.clk < c.sentAt + chTimeout c → exec (.channelReplyTimeout ch) s = .next s)) ∧
  (∀ (s : State) (ch : Nat), (chanSt s ch).state = .resolving → ifaceUp s (chIface (chanSt s ch)) = true →
    (arpMac s (chIface (chanSt s ch)) (chAddr (chanSt s ch))).isSome = true →
    Answers (.channelResolved ch) s (fun t => (chanSt t ch).state = .starting ∧ (chanSt t ch).out = 0))

/-- R241, R243, R273, R276, R446, R456, R457, R459, R460. The result code of Me is the model's (log entry 66). -/
def Obligations.RemotePacketsAndSessionsFollow : Prop :=
  (∀ (s : State) (f : Frame), f ∈ s.bridge.inbox → msgKind f = 7 → msgIndex f = 0 → msgLastIndex f = 0 →
    exec (.remoteCommandMessage f) s = .next (acceptBytes
      { s with bridge := { s.bridge with inbox := dropOne f s.bridge.inbox }
               cmd := { s.cmd with reasm := s.cmd.reasm.filter (fun r => !sameMessage f r) } }
      (.line f.channel) (msgTag f) false ((msgBody f).drop 4))) ∧
  (∀ (s : State) (f : Frame) (x : TagSt), f ∈ s.bridge.inbox → msgKind f = 8 → msgIndex f = 0 → msgLastIndex f = 0 →
    findTag s (msgTag f) = some x → x.kind = .remote → x.state ≠ .held → x.initiator = msgChannel f →
    Answers (.commandReplyMessage f) s (fun t => ∃ y, findTag t (msgTag f) = some y ∧ y.state = .held ∧
      y.status = stDone ∧ y.data = (msgBody f).drop 4 ∧ y.holdEnd = s.clk + 250000000 ∧
      t.bridge.droppedResults = s.bridge.droppedResults)) ∧
  (∀ (s : State) (f : Frame), f ∈ s.bridge.inbox → msgKind f = 8 → msgIndex f = 0 → msgLastIndex f = 0 →
    findTag s (msgTag f) = none →
    Answers (.commandReplyMessage f) s (fun t => t.bridge.droppedResults = count32 s.bridge.droppedResults ∧
      t.bridge.tags = s.bridge.tags)) ∧
  (∀ (s : State) (chan tag : Nat), Answers (.remotePacketIncomplete chan tag) s (fun t =>
    t.cmd.reasm = s.cmd.reasm.filter (fun r => !(r.chan == chan && r.tag == tag && windowOver s r.cycle)))) ∧
  (∀ (s : State) (r : Reasm) (b : Bytes), s.cmd.reasm = [r] → r.kind = 7 → windowOver s r.cycle = true →
    Tab.get? r.parts 0 = some b → 16 ≤ b.length →
    exec (.remotePacketIncomplete r.chan r.tag) s =
      .next (refuse { s with cmd := { s.cmd with reasm := [] } } (.line r.chan) r.tag (b.take 7) stIncomplete)) ∧
  (∀ (s : State) (m : TrdpIn) (c : Instr) (q : Bool), (c = .trdpMrReceived m ∧ q = false) ∨ (c = .trdpMnReceived m ∧ q = true) →
    m.headerOk = true → m.version / 256 = 1 → m.etbTopo = 0 → m.comId = commandComId s → managing s = true →
    exec c s = .next (acceptBytes s (.vehicle m.src m.sport)
      (m.session * 4294967296 + (if m.replyComId = 0 then m.comId else m.replyComId)) q m.dataset)) ∧
  (∀ (s : State) (m : TrdpIn), m.headerOk = true → m.version / 256 = 1 → m.etbTopo = 0 → m.comId ≠ commandComId s →
    exec (.trdpMrReceived m) s = .next (sendIp s (ifaceFor s m.src) m.src (net s).mdQueue none
      (.trdp ⟨0x4D65, 0, 0, topoCommitted s, m.src, m.session, 0xFFFFFFFD, [], 17225, 0x0100, 0⟩)) ∧
    Answers (.trdpMnReceived m) s (fun t => t.veh.mnDiscarded = count32 s.veh.mnDiscarded ∧ t.cmd = s.cmd)) ∧
  (∀ (s : State) (m : TrdpIn) (c : Instr), c = .trdpMrReceived m ∨ c = .trdpMnReceived m → m.headerOk = false →
    exec c s = .next (report s 0x0682 11 1 [])) ∧
  (∀ (s : State) (sess : Session) (q : SessSt), sessionOf s sess = some q → q.last + 10000000000 ≤ s.clk →
    Answers (.sessionIdle sess) s (fun t => sessionOf t sess = none ∧
      (∀ x, x ≠ sess → sessionOf t x = sessionOf s x) ∧ (s.cmd.turn = some sess → t.cmd.turn = none))) ∧
  (∀ (s : State) (sess : Session) (seq : Nat) (q : SessSt), sessionOf s sess = some q →
    Answers (.replyKeepExpiry sess seq) s (fun t => ∃ q', sessionOf t sess = some q' ∧ q'.queue = q.queue ∧ q'.last = q.last ∧
      q'.kept = q.kept.filter (fun k => k.seq != seq || s.clk < k.at_ + 5000000000))) ∧
  (∀ (s : State) (x : Transfer), x ∈ s.cmd.transfers → x.last + 10000000000 ≤ s.clk →
    Answers (.transferIdle x.kind x.target) s (fun t => x ∉ t.cmd.transfers ∧
      (∀ y ∈ s.cmd.transfers, y ∉ t.cmd.transfers → y.kind = x.kind ∧ y.target = x.target ∧ y.last + 10000000000 ≤ s.clk) ∧
      (x.kind = 8 → t.img.fw = dropWriting s.img.fw) ∧ (x.kind = 9 → t.img.cf = dropWriting s.img.cf)))

/-- R457 and the rules of each kind (R72, R161, R219, R266, R321, R358, R486, R487); R453 for lapsed transfers. -/
def Obligations.TransfersAreOpenedFilledAndFinished : Prop :=
  (∀ (s v : State) (p : Packet) (c : Instr) (op fam target : Nat),
    (c, op, fam) ∈ [(Instr.opRouteTransferBegin p, 0x0310, 3), (.opScheduleEventTransferBegin p, 0x0410, 4),
      (.opEquationTransferBegin p, 0x0810, 8), (.opImageTransferBegin p, 0x0A10, 0x0A),
      (.opProfileGateTransferBegin p, 0x0B10, 0x0B), (.opSerialProgramTransferBegin p, 0x0C10, 0x0C)] →
    servedNow s op p v → beginTarget p (pkNum p tKind 0) = some target → kindFamily (pkNum p tKind 0) = fam →
    pkNum p tCount 0 ≠ 0 →
    v.cmd.transfers.any (fun t => t.kind == pkNum p tKind 0 && t.target == target && t.owner != p.sess) = false →
    eitherTrial (banksOf v (pkNum p tKind 0)) = false →
    Replies c s p stDone [] (fun u =>
      u.cmd.transfers = v.cmd.transfers.filter (fun t => !(t.kind == pkNum p tKind 0 && t.target == target)) ++
        [⟨pkNum p tKind 0, target, p.sess, pkNum p tCount 0, [], v.clk, p.cls⟩] ∧
      (pkNum p tKind 0 = 8 → u.img.fw = putSpare v.img.fw ⟨.writing, []⟩ ∧ u.img.cf = v.img.cf) ∧
      (pkNum p tKind 0 = 9 → u.img.cf = putSpare v.img.cf ⟨.writing, []⟩ ∧ u.img.fw = v.img.fw) ∧
      (pkNum p tKind 0 < 8 → u.img = v.img))) ∧
  (∀ (s v : State) (p : Packet) (c : Instr) (op fam : Nat) (t : Transfer),
    (c, op, fam) ∈ [(Instr.opRouteTransferChunk p, 0x0311, 3), (.opScheduleEventTransferChunk p, 0x0411, 4),
      (.opEquationTransferChunk p, 0x0811, 8), (.opImageTransferChunk p, 0x0A11, 0x0A),
      (.opProfileGateTransferChunk p, 0x0B11, 0x0B), (.opSerialProgramTransferChunk p, 0x0C11, 0x0C)] →
    servedNow s op p v → sessionTransfer v fam p.sess = some t →
    (pkNum p tOffset 0 = t.data.length → t.data.length + ((pkItem p tData).getD []).length ≤ t.total →
      Replies c s p stDone [] (fun u => u.cmd = { v.cmd with transfers := v.cmd.transfers.map (fun x =>
        if x = t then { t with data := t.data ++ (pkItem p tData).getD [], last := v.clk } else x) } ∧ u.img = v.img)) ∧
    (pkNum p tOffset 0 ≠ t.data.length → Replies c s p stBadParameter [] (fun u => u = v)) ∧
    (pkNum p tOffset 0 = t.data.length → t.total < t.data.length + ((pkItem p tData).getD []).length →
      Replies c s p stBadLength [] (fun u => u = v))) ∧
  (∀ (s v : State) (p : Packet) (c : Instr) (op fam tag : Nat) (t : Transfer),
    (c, op, fam) ∈ [(Instr.opRouteTransferFinish p, 0x0312, 3), (.opScheduleEventTransferFinish p, 0x0412, 4),
      (.opEquationTransferFinish p, 0x0812, 8), (.opImageTransferFinish p, 0x0A12, 0x0A),
      (.opProfileGateTransferFinish p, 0x0B12, 0x0B), (.opSerialProgramTransferFinish p, 0x0C12, 0x0C)] →
    servedNow s op p v → sessionTransfer v fam p.sess = some t → newTag v = some tag → t.data.length = t.total →
    ∀ w, w = { v with cmd := { v.cmd with transfers := v.cmd.transfers.filter (· != t) } } →
    Replies c s p stRetry (be 2 tag) (fun u => u.cmd.transfers = w.cmd.transfers ∧
      (∃ y, findTag u tag = some y ∧ y.kind = .transfer ∧ y.state = .held ∧ y.initiator = initiatorOf v p.sess ∧
        y.holdEnd = v.clk + 250000000 ∧
        (y.status, y.data) = (match loadKind w t with
          | .error x => (stBadParameter, refusalData x) | .ok (_, m) => (stDone, be 4 m))) ∧
      (t.kind = 1 → u.route.staged = (match checkRouteImage w t.data with
        | .error _ => v.route.staged | .ok r => some { r with activation := routeActivation w r.activation })) ∧
      (t.kind = 2 → u.cyc.staged = if scheduleRefusal w t.data = none then some t.data else v.cyc.staged) ∧
      (t.kind = 3 → u.time.events = if eventRefusal w t.data = none then parseEvents t.data else v.time.events) ∧
      (t.kind = 4 → u.safe.pendingTable = if equationChecks w t.data = none then some t.data else v.safe.pendingTable) ∧
      (t.kind = 5 → (floatOf u (portFloat t.target)).staged =
        if programChecks w none t.data = none then some (parseProgram t.data) else (floatOf v (portFloat t.target)).staged) ∧
      (t.kind = 6 → Tab.get? u.fld.stagedProfiles t.target =
        if programChecks w (some t.target) t.data = none then some (parseProgram t.data)
        else Tab.get? v.fld.stagedProfiles t.target) ∧
      (t.kind = 7 → (vport u t.target).staged = if gateListOk w t.data = true then
        some (t.data, gateStart (nextSkim v) (gateM t.data)) else (vport v t.target).staged) ∧
      (t.kind = 8 → u.img.fw = if imageRefusal w 8 t.data = none then putSpare v.img.fw ⟨.loaded, t.data⟩
        else dropWriting v.img.fw) ∧
      (t.kind = 9 → u.img.cf = if imageRefusal w 9 t.data = none then putSpare v.img.cf ⟨.loaded, t.data⟩
        else dropWriting v.img.cf))) ∧
  (∀ (s v : State) (p : Packet) (c : Instr) (op fam : Nat) (l : Nat × Nat × Session),
    (c, op, fam) ∈ [(Instr.opRouteTransferChunk p, 0x0311, 3), (.opRouteTransferFinish p, 0x0312, 3),
      (.opScheduleEventTransferChunk p, 0x0411, 4), (.opScheduleEventTransferFinish p, 0x0412, 4),
      (.opEquationTransferChunk p, 0x0811, 8), (.opEquationTransferFinish p, 0x0812, 8),
      (.opImageTransferChunk p, 0x0A11, 0x0A), (.opImageTransferFinish p, 0x0A12, 0x0A),
      (.opProfileGateTransferChunk p, 0x0B11, 0x0B), (.opProfileGateTransferFinish p, 0x0B12, 0x0B),
      (.opSerialProgramTransferChunk p, 0x0C11, 0x0C), (.opSerialProgramTransferFinish p, 0x0C12, 0x0C)] →
    servedNow s op p v → sessionTransfer v fam p.sess = none → l ∈ v.cmd.lapsed → l.2.2 = p.sess → kindFamily l.1 = fam →
    Replies c s p stPresenceRequired [] (fun u => u.cmd.lapsed.length < v.cmd.lapsed.length))

/-- R9, R465 to R474: the host port. -/
def Obligations.HostPortRegistersAndWindowsAnswer : Prop :=
  (∀ (s : State) (w : Word32), hostUp s = true → w.getLsbD 31 = false →
    exec (.cmdCtrlWrite w) s = .next { s with host := { s.host with cmdLength := w.toNat % 65536 } }) ∧
  (∀ (s : State) (w : Word32), hostUp s = true → w.getLsbD 31 = true → s.host.cmdFull = false → s.host.ready = true →
    (s.host.replyQueue.length < 8 →
      ∀ v, v = { s with host := { s.host with
          cmdLength := w.toNat % 65536, cmdFull := true, goLength := w.toNat % 65536 } } →
      Answers (.cmdCtrlWrite w) s (fun t => t.host.cmdFull = false ∧ t.host.intStatus.getLsbD 1 = true ∧
        t.cmd = (acceptBytes v .host 0 false (windowPacket v)).cmd)) ∧
    (8 ≤ s.host.replyQueue.length →
      exec (.cmdCtrlWrite w) s = .next { s with host := { s.host with
        cmdLength := w.toNat % 65536, cmdFull := true, goLength := w.toNat % 65536 } })) ∧
  (∀ (s : State) (w : Word32), hostUp s = true → w.getLsbD 31 = true → s.host.cmdFull = true →
    exec (.cmdCtrlWrite w) s = .next (frameErr { s with host := { s.host with cmdLength := w.toNat % 65536 } })) ∧
  (∀ (s : State) (w : Word32), hostUp s = true → w.getLsbD 31 = true → s.host.ready = false →
    Answers (.cmdCtrlWrite w) s (fun t => t.host.intStatus.getLsbD 11 = true ∧ t.host.cmdFull = s.host.cmdFull ∧ t.cmd = s.cmd)) ∧
  (∀ (s : State) (w : Word32), hostUp s = true → w.getLsbD 31 = true → s.host.cmdFull = false →
    (s.host.replyQueue = [] → Answers (.replyCtrlWrite w) s (fun t => t.host.replyHeld = false ∧ t.host.replyLength = 0 ∧
      t.host.intStatus.getLsbD 0 = false)) ∧
    (∀ r rest, s.host.replyQueue = r :: rest → Answers (.replyCtrlWrite w) s (fun t => t.host.replyHeld = true ∧
      t.host.replyLength = r.length ∧ Mem.readN t.host.replyWin 0 r.length = r ∧ t.host.replyQueue = rest ∧
      t.host.intStatus.getLsbD 0 = true))) ∧
  (∀ (s : State) (w : Word32), hostUp s = true →
    exec (.intStatusWrite w) s = .next { s with host := { s.host with intStatus := s.host.intStatus &&& ~~~(w &&& 0x1FFF) } } ∧
    exec (.intMaskWrite w) s = .next { s with host := { s.host with intMask := w &&& 0x1FFF } }) ∧
  (∀ (s : State), hostUp s = true → exec .trainTimeHiRead s = .next
    { s with host := { s.host with trainTimeLo := time64 s.time.now % 4294967296 }
             out := s.out ++ [Out.host [BitVec.ofNat 32 (time64 s.time.now / 4294967296)]] }) ∧
  (∀ (s : State) (v : Nat), hostUp s = true → 1 ≤ v → v ≤ 16 →
    Answers (.rcFieldRead (0x010200 + 4 * (v - 1))) s (fun t =>
      (vport t v).link = (vport s v).link &&& 0xFF00FFFF ∧ t.out = s.out ++ [Out.host [vportLink s v]])) ∧
  (∀ (s : State), hostUp s = true → Answers (.rcFieldRead 0x010504) s (fun t => t.sleep.falseWakes = 0 ∧
      t.out = s.out ++ [Out.host [BitVec.ofNat 32 (wakeStatus s)]])) ∧
  (∀ (s : State) (p : LinePort) (w : Word32), hostUp s = true →
    Answers (.w1cBitWrite (0x010000 + 4 * portNo p) w) s (fun t =>
      (t.line.ports.get p).status = (s.line.ports.get p).status &&& ~~~(w &&& 0xFF) ∧
      (∀ q, q ≠ p → t.line.ports.get q = s.line.ports.get q))) ∧
  (∀ (s : State) (w : Word32) (r : Ring), hostUp s = true → hostRing s = some r →
    Answers (.hostRingReadIndexWrite w) s (fun t => hostRing t = some { r with readIx := w.toNat })) ∧
  (∀ (s : State) (c : Word32) (words : List Word32), hostUp s = true →
    (voidCommand c = true → exec (.hostRegisterWrite c words false) s = .next (frameErr s)) ∧
    (voidCommand c = false → c.getLsbD 31 = true →
      exec (.hostRegisterWrite c words false) s = .next (hostWrites s (c.toNat % 16777216) words)) ∧
    (voidCommand c = false → c.getLsbD 31 = false → words ≠ [] →
      Answers (.hostRegisterWrite c words false) s (fun t => ∃ ws, t.out = s.out ++ [Out.host (0 :: ws)] ∧
        ws = (hostReads s (c.toNat % 16777216) (words.length - 1)).2 ∧ ws.length + 1 = words.length)) ∧
    (∀ t, exec (.hostRegisterWrite c words false) s = .next t →
      exec (.hostRegisterWrite c words true) s = .next (frameErr t))) ∧
  (∀ (s : State), hostUp s = false → ∀ (c : Instr) (w : Word32) (a : Nat) (ws : List Word32) (x : Bool),
    c ∈ [Instr.cmdCtrlWrite w, .replyCtrlWrite w, .intStatusWrite w, .intMaskWrite w, .trainTimeHiRead, .rcFieldRead a,
      .w1cBitWrite a w, .hostRingReadIndexWrite w, .hostRegisterWrite w ws x] → exec c s = .next s)

/-- R493 to R501, R351: the monitor on port M. The wording of its lines is the model's (log entries 60, 61, 77). -/
def Obligations.MonitorReadsLinesAndPackets : Prop :=
  (∀ (s : State) (b : Byte), managing s = false → exec (.monitorCharacterReceived b) s = .next s) ∧
  (∀ (s : State) (b : Byte), monText s = true → monReads s = true → s.mon.wait = none → s.mon.held = [] → s.mon.overflows = [] →
    (b ∉ [0x0A, 0x0D, 0x08, 0x7F] → s.mon.line.length < 255 →
      exec (.monitorCharacterReceived b) s = .next
        { s with mon := { s.mon with line := s.mon.line ++ [b], lastCr := false }, out := s.out ++ [.monitor [b]] }) ∧
    (b = 0x0D → exec (.monitorCharacterReceived b) s = .next
        { s with mon := { s.mon with lines := [s.mon.line], line := [], lastCr := true }
                 out := s.out ++ [.monitor [0x0D, 0x0A]] }) ∧
    (b = 0x08 → s.mon.line ≠ [] → Answers (.monitorCharacterReceived b) s (fun t =>
        t.mon.line = s.mon.line.take (s.mon.line.length - 1)))) ∧
  (∀ (s : State) (b : Byte), monText s = true → s.mon.busy = true → s.mon.wait = none → s.mon.dropping = false →
    s.mon.held.length < 1024 →
    exec (.monitorCharacterReceived b) s = .next { s with mon := { s.mon with held := s.mon.held ++ [b] } }) ∧
  (∀ (s : State) (l : Bytes), monText s = true → s.mon.busy = false → s.mon.wait = none → s.mon.held = [] →
    s.mon.overflows = [] → s.mon.lines = [l] → ∀ v, v = { s with mon := { s.mon with lines := [] } } →
    (∀ op items, lineCommand s l = .op op (some items) → exec .monitorLine s = .next (sendCommand v op items)) ∧
    (∀ op, lineCommand s l = .op op none → exec .monitorLine s = .next (answerErr v stBadParameter)) ∧
    (lineCommand s l = .empty → exec .monitorLine s = .next (sendPrompt v)) ∧
    (lineCommand s l = .unknown → exec .monitorLine s = .next (answerErr v stUnknownOpcode))) ∧
  (∀ (s : State), monText s = true → s.mon.busy = false → s.mon.lines = [] →
    exec .monHelp s = .next (answerLine (helpLines.foldl printLine s) "ok") ∧
    (∀ rate, rate ∈ [115200, 230400, 460800, 921600] → Answers (.monBaud rate) s (fun t => t.mon.baud = rate)) ∧
    (∀ rate, rate ∉ [115200, 230400, 460800, 921600] → exec (.monBaud rate) s = .next (answerErr s stBadParameter)) ∧
    Answers .monPacket s (fun t => t.mon.packetMode = true ∧ t.mon.rx = [] ∧ t.mon.line = [])) ∧
  (∀ (s : State) (b : Bytes), managing s = true → s.mon.packetMode = true → 16 ≤ b.length → b.length = 16 + field b 7 2 →
    field b 7 2 ≤ 16384 →
    exec (.packetModeFrame b) s = .next (acceptBytes { s with mon := { s.mon with rx := [], lastByte := s.clk } } .service 0 false b)) ∧
  (∀ (s : State), s.mon.packetMode = true → s.mon.lastByte + 50000000 < s.clk →
    exec .packetByteTimeout s = .next { s with mon := { s.mon with rx := [] } }) ∧
  (∀ (s : State), managing s = true → s.mon.packetMode = true →
    exec .packetModeEnd s = .next (sendPrompt
      { s with mon := { s.mon with packetMode := false, rx := [], line := [], lastCr := false } })) ∧
  (∀ (s : State) (x : TagSt) (bad : Bool) (count lane : Nat), s.safe.state = .split → s.mon.wait = none →
    s.bridge.tags = [x] → x.kind = .replay → x.state = .waiting →
    Answers (.replayComplete bad count lane) s (fun t => ∃ y, t.bridge.tags = [y] ∧ y.tag = x.tag ∧ y.state = .held ∧
      y.status = stDone ∧ y.data = be 1 (b2n bad) ++ be 4 count ++ be 1 lane ∧ y.holdEnd = s.clk + 250000000 ∧
      (t.safe.replayMismatch = (s.safe.replayMismatch || bad))))

/-- R182 to R184, R187, R458: identity, status, time and reads of skims. -/
def Obligations.IdentityStatusAndSkimReadsAnswer : Prop :=
  (∀ (s v : State) (p : Packet), servedNow s 0x0101 p v → Replies (.opIdentity p) s p stDone
    (text "CX-860  " ++ be 6 v.unitId ++ be 1 v.hwIssue ++ be 1 v.unitNo ++ be 16 (vehicleUuid v) ++
      be 4 (bankVersion v.img.fw) ++ be 4 (bankVersion v.img.cf) ++ be 6 v.veh.macBase ++ zeros 2) (fun u => u = v)) ∧
  (∀ (s v : State) (p : Packet), servedNow s 0x0102 p v → Replies (.opStatus p) s p stDone
    (be 4 (healthWord v) ++ be 1 (roleCode v.pair.role) ++ be 1 (if v.sleep.power = .lineKeeping then 1 else 0) ++
      be 1 (timebaseCode v.time.base) ++ be 1 (setoutCode v) ++ be 4 (topoInForce v) ++ be 4 (skimNow v) ++
      (List.range 6).flatMap (fun i => programEntry (i + 1) (floatOf v (portFloat (i + 1))).prog) ++
      (List.range 16).flatMap (fun k => programEntry (16 + k) (Tab.get? v.fld.profiles k))) (fun u => u = v)) ∧
  (∀ (s v : State) (p : Packet), servedNow s 0x0103 p v → Replies (.opTime p) s p stDone
    (be 8 (time64 v.time.now) ++ beInt 8 (positionAt v v.time.now) ++
      (if v.time.carriedValid then beInt 4 v.time.carriedSpeed else be 4 0x80000000) ++
      be 1 (timebaseCode v.time.base) ++ zeros 3) (fun u => u = v)) ∧
  (∀ (s v : State) (p : Packet) (r : SkimRec), servedNow s 0x0201 p v → readIdsOk v p = true →
    currentFor v = some r → pkItem p tPin = none → pkItem p tSkim = none →
    Replies (.opSkimRead p) s p stDone
      (descBytes r.desc ++ (match pkItem p tIds, pkItem p tRange with
        | some b, _ => idElems (lapsePins v) r true (idList b)
        | none, some b => rangeElems (lapsePins v) r true (field b 0 4) (field b 4 4)
        | none, none => [])) (fun u => u = lapsePins v)) ∧
  (∀ (s v : State) (p : Packet) (r : SkimRec), servedNow s 0x0203 p v → currentFor v = some r → pkItem p tPin = none → pkItem p tSkim = none →
    Replies (.opSkimDescriptor p) s p stDone (descBytes r.desc) (fun u => u = lapsePins v)) ∧
  (∀ (s v : State) (p : Packet) (c : Instr) (r : SkimRec) (rest : List SkimRec) (n : Nat),
    (c = .opSkimRead p ∧ servedNow s 0x0201 p v ∧ readIdsOk v p = true) ∨ (c = .opSkimDescriptor p ∧ servedNow s 0x0203 p v) →
    v.skim.retained = r :: rest → pkItem p tPin = none → (pkItem p tSkim).map (field · 0 4) = some n → n ≠ r.desc.skim →
    (n = cycAdd r.desc.skim 1 → Answers c s (fun t => t.skim.held = v.skim.held ++ [⟨p, n, v.clk + cycleLen v⟩] ∧
      t.host = v.host ∧ t.out = v.out)) ∧
    (n ≠ cycAdd r.desc.skim 1 → cycBefore n r.desc.skim = false → Replies c s p stBadParameter [] (fun u => u = lapsePins v)) ∧
    (cycBefore n r.desc.skim = true → n ≠ cycAdd r.desc.skim 1 → retainedSkim v n = none → v.skim.pins = [] →
      v.skim.copyPin ≠ some n →
      Replies c s p stSkimExpired [] (fun u => u = lapsePins v))) ∧
  (∀ (s v : State) (p : Packet), servedNow s 0x0203 p v → v.skim.retained = [] → v.skim.bound = [] → pkItem p tPin = none →
    Replies (.opSkimDescriptor p) s p stBusy [] (fun u => u = lapsePins v)) ∧
  (∀ (s v : State) (p : Packet), servedNow s 0x0201 p v → readIdsOk v p = false →
    Replies (.opSkimRead p) s p stBadParameter [] (fun u => u = v)) ∧
  (∀ (s : State) (x : HeldRead) (r : SkimRec), s.skim.held = [x] → retainedSkim s x.skim = some r →
    Replies .skimReadHeldAnswer s x.packet stDone
      (readReply { s with skim := { s.skim with held := [] } } x.packet r (x.skim == skimNow s))
      (fun u => u = { s with skim := { s.skim with held := [] } })) ∧
  (∀ (s : State) (x : HeldRead), s.skim.held = [x] → retainedSkim s x.skim = none → x.until_ ≤ s.clk →
    Replies .skimReadTimeout s x.packet stBusy [] (fun u => u = { s with skim := { s.skim with held := [] } }))

/-- R187, R190 to R192, R233: writes, pins and forces. -/
def Obligations.WritesPinsAndForcesAreServed : Prop :=
  (∀ (s v : State) (p : Packet) (id : Nat), servedNow s 0x0202 p v → oneId p = some id →
    (isNodeSignal id = true → Replies (.opSkimWrite p) s p stBadParameter [] (fun u => u = v)) ∧
    (isNodeSignal id = false → ownSignal v id = true → writeAllowed v id = false →
      Replies (.opSkimWrite p) s p stBadParameter [] (fun u => u = v)) ∧
    (∀ d, isNodeSignal id = false → ownSignal v id = true → writeAllowed v id = true → composing v = true →
      defOf v id = some d → Replies (.opSkimWrite p) s p stDone (be 4 (nextSkim v)) (fun u =>
        u = { v with skim := { v.skim with
          writes := v.skim.writes ++ [⟨id, typedValue d.typ (valueItem p), none,
            if v.cyc.running then some (nextSkim v) else none, none⟩] } })) ∧
    (isNodeSignal id = false → ownSignal v id = false → composing v = true → slotPresent v (sigSlot id) = false →
      Replies (.opSkimWrite p) s p stRouteMissing [] (fun u => u = v)) ∧
    (∀ t, isNodeSignal id = false → ownSignal v id = false → composing v = true → slotPresent v (sigSlot id) = true →
      newTag v = some t → v.bridge.queue = [] → v.bridge.farQueue = [] →
      Replies (.opSkimWrite p) s p stPosted (be 2 t) (fun u =>
        (∃ m, u.bridge.queue = [m] ∧ m.kind = 1 ∧ m.tag = t ∧ m.destSlot = sigSlot id ∧ m.source = initiatorOf v p.sess) ∧
        (∃ x, u.bridge.tags = v.bridge.tags ++ [x] ∧ x.tag = t ∧ x.kind = .postedWrite ∧ x.target = id ∧
          x.deadline = v.clk + bridgeTimeout v) ∧ u.skim = v.skim))) ∧
  (∀ (s v w : State) (p : Packet), servedNow s 0x0204 p v → w = lapsePins v →
    (∀ ms r h, leaseMs p = some ms → pkItem p tSkim = none → currentFor v = some r → newHandle w = some h →
      (w.skim.pins.length < 16 → Replies (.opPinTake p) s p stDone (be 2 h ++ be 4 r.desc.skim) (fun u =>
        u.skim.pins = w.skim.pins ++ [⟨h, r.desc.skim, some r, v.clk + ms * 1000000⟩] ∧ u.skim.forces = v.skim.forces)) ∧
      (16 ≤ w.skim.pins.length → Replies (.opPinTake p) s p stBusy [] (fun u => u = w))) ∧
    (∀ ms n h, leaseMs p = some ms → (pkItem p tSkim).map (field · 0 4) = some n → newHandle w = some h →
      v.skim.retained ≠ [] → (∃ x ∈ v.skim.pins, x.skim = n ∧ x.kept.isSome = true ∧ v.clk < x.lease) →
      (∀ x ∈ v.skim.pins, ∀ r, x.kept = some r → r.desc.skim = x.skim) →
      cycBefore n (skimNow v) = true → n ≠ cycAdd (skimNow v) 1 → retainedSkim v n = none →
      Replies (.opPinTake p) s p stSkimExpired [] (fun u => u = w)) ∧
    (leaseMs p = none → Replies (.opPinTake p) s p stBadParameter [] (fun u => u = w))) ∧
  (∀ (s v w : State) (p : Packet) (ms : Nat), servedNow s 0x0205 p v → w = lapsePins v → leaseMs p = some ms →
    (∀ x, w.skim.pins.find? (fun y => y.handle == pkNum p tPin 0) = some x → x.kept.isSome = true →
      Replies (.opPinRenew p) s p stDone (be 8 (time64 (v.time.now + ms * 1000000))) (fun u =>
        u.skim.pins = w.skim.pins.map (fun y =>
          if y.handle = pkNum p tPin 0 then { y with lease := v.clk + ms * 1000000 } else y))) ∧
    (∀ x, w.skim.pins.find? (fun y => y.handle == pkNum p tPin 0) = some x → x.kept = none →
      Replies (.opPinRenew p) s p stSkimExpired [] (fun u => u = w)) ∧
    (w.skim.pins.find? (fun y => y.handle == pkNum p tPin 0) = none →
      Replies (.opPinRenew p) s p stBadParameter [] (fun u => u = w))) ∧
  (∀ (s v w : State) (p : Packet), servedNow s 0x0206 p v → w = lapsePins v →
    (w.skim.pins.any (fun x => x.handle == pkNum p tPin 0) = true → Replies (.opPinRelease p) s p stDone [] (fun u =>
      u.skim.pins = w.skim.pins.filter (fun x => x.handle != pkNum p tPin 0) ∧
      u.skim.freed = w.skim.freed ++ [(pkNum p tPin 0, v.clk + 10000000000)])) ∧
    (w.skim.pins.any (fun x => x.handle == pkNum p tPin 0) = false →
      Replies (.opPinRelease p) s p stBadParameter [] (fun u => u = w))) ∧
  (∀ (s v : State) (p : Packet) (id : Nat), servedNow s 0x0207 p v → oneId p = some id →
    (ownSignal v id = false ∨ forceAllowed v id = false → Replies (.opForce p) s p stBadParameter [] (fun u => u = v)) ∧
    (∀ d, ownSignal v id = true → forceAllowed v id = true → defOf v id = some d →
      (((v.skim.forces.filter (fun f => f.id != id)).map (·.id)).eraseDups.length < 256 →
        Replies (.opForce p) s p stDone (be 4 (nextSkim v)) (fun u =>
          u.skim.forces = v.skim.forces.filter (fun f => f.id != id) ++
            v.skim.forces.filter (fun f => f.id == id && forceDue (gridN v) f) ++ [⟨id, typedValue d.typ (valueItem p),
              openWindows v.pres, if v.cyc.running then some (nextSkim v) else none⟩] ∧ u.skim.writes = v.skim.writes)) ∧
      (256 ≤ ((v.skim.forces.filter (fun f => f.id != id)).map (·.id)).eraseDups.length → Replies (.opForce p) s p stBusy [] (fun u => u = v)))) ∧
  (∀ (s v : State) (p : Packet), servedNow s 0x0208 p v →
    (pkItem p tIds = none → Replies (.opForceRelease p) s p stDone (be 4 (v.skim.forces.map (·.id)).eraseDups.length) (fun u =>
      u.skim.forces = [])) ∧
    (∀ b, pkItem p tIds = some b → (∃ id ∈ idList b, 2 ^ 23 ≤ id ∨ ownSignal v id = false ∨ forceAllowed v id = false) →
      Replies (.opForceRelease p) s p stBadParameter [] (fun u => u = v)) ∧
    (∀ b, pkItem p tIds = some b →
      (∀ id ∈ idList b, id < 2 ^ 23 ∧ ownSignal v id = true ∧ forceAllowed v id = true) →
      Replies (.opForceRelease p) s p stDone (be 4 ((v.skim.forces.filter (fun f => (idList b).contains f.id)).map (·.id)).eraseDups.length) (fun u =>
        u.skim.forces = v.skim.forces.filter (fun f => !(idList b).contains f.id))))

/-- R189, R199, R219, R221, R160, R458. LOCK without a snapshot, and steps of one cycle adding up, are the model's choices. -/
def Obligations.SnapshotsRoutesAndTablesAreServed : Prop :=
  (∀ (s v : State) (p : Packet) (r : SkimRec) (rest : List SkimRec), servedNow s 0x0209 p v →
    (v.skim.snapshot.state ≠ 1 → v.skim.snapshot.locked = false → v.skim.retained = r :: rest →
      Replies (.opSnapshotTake p) s p stDone (be 4 ((windowOldest v).getD 0)) (fun u =>
        u.skim.snapshot.state = 1 ∧ u.skim.snapshot.recs = v.skim.retained ∧ u.skim.snapshot.skim = r.desc.skim ∧
        u.skim.snapshot.locked = bitOf (pkNum p tMode 0) 0 ∧ u.skim.copyPin = windowOldest v)) ∧
    (v.skim.snapshot.state = 1 ∨ v.skim.snapshot.locked = true →
      Replies (.opSnapshotTake p) s p stBusy [] (fun u => u.skim = v.skim ∧ u = report v 0x0405 9 0 []))) ∧
  (∀ (s v : State) (p : Packet), servedNow s 0x020A p v → pkNum p tCount 0 ≤ 16376 → v.skim.snapshot.state ≠ 2 →
    Replies (.opSnapshotRead p) s p stDone (be 1 (snapshotCode v.skim.snapshot)) (fun u => u = v)) ∧
  (∀ (s v : State) (p : Packet), servedNow s 0x020B p v →
    (v.skim.snapshot.state ≠ 0 → Replies (.opSnapshotLock p) s p stDone [] (fun u =>
      u.skim.snapshot = { v.skim.snapshot with locked := true })) ∧
    (v.skim.snapshot.state = 0 → Replies (.opSnapshotLock p) s p stNotApplicable [] (fun u => u = v))) ∧
  (∀ (s v : State) (p : Packet), servedNow s 0x020C p v → Replies (.opSnapshotUnlock p) s p stDone [] (fun u =>
    u.skim.snapshot = { v.skim.snapshot with locked := false })) ∧
  (∀ (s v : State) (p : Packet), servedNow s 0x0301 p v →
    (pkNum p tCount 0 ≤ 256 → pkNum p tIndex 0 < 1048576 → Replies (.opRouteRead p) s p stDone
      ((List.range (min (pkNum p tCount 0) (1048576 - pkNum p tIndex 0))).flatMap (fun k => entryAt v (pkNum p tIndex 0 + k)))
      (fun u => u = v)) ∧
    (256 < pkNum p tCount 0 ∨ 1048576 ≤ pkNum p tIndex 0 → Replies (.opRouteRead p) s p stBadParameter [] (fun u => u = v))) ∧
  (∀ (s v : State) (p : Packet) (b : Bytes), servedNow s 0x0302 p v → pkItem p tData = some b →
    (v.route.staged.isSome = true → Replies (.opRouteEdit p) s p stBusy [] (fun u => u = v)) ∧
    (v.route.staged = none → b.length % 36 ≠ 0 → Replies (.opRouteEdit p) s p stBadParameter [] (fun u => u = v)) ∧
    (v.route.staged = none → b.length % 36 = 0 → 36 ≤ b.length → b.length ≤ 9216 →
      (∀ x ∈ editList b, x.1 < 1048576) → ∀ t, t = editTable (editBase v) (editList b) (nextSkim v) →
      (tableChecks v t.entries = none → Replies (.opRouteEdit p) s p stDone (be 4 (nextSkim v)) (fun u =>
        u.route.edited = some t ∧ u.route.table = v.route.table)) ∧
      (∀ x, tableChecks v t.entries = some x →
        Replies (.opRouteEdit p) s p stBadParameter (be 1 x.1 ++ be 4 x.2) (fun u => u = v))) ∧
    (v.route.staged = none → b.length % 36 = 0 → 36 ≤ b.length → b.length ≤ 9216 → (∃ x ∈ editList b, 1048576 ≤ x.1) →
      Replies (.opRouteEdit p) s p stBadParameter (be 1 1 ++ be 4 0) (fun u => u = v))) ∧
  (∀ (s v : State) (p : Packet) (t : RouteTable), servedNow s 0x0303 p v → v.route.table = some t → v.route.staged = none →
    Replies (.opRouteStatus p) s p stDone (be 4 t.tableId ++ be 4 t.check ++ be 4 t.activation ++ zeros 12 ++
      be 4 (enabledRoutes t 1).length ++ be 4 (enabledRoutes t 2).length ++ be 4 (enabledRoutes t 3).length ++
      be 4 v.route.cache.length) (fun u => u = v)) ∧
  (∀ (s v : State) (p : Packet), servedNow s 0x0313 p v → Replies (.opRouteDiscardStaged p) s p stDone [] (fun u =>
    u.route = { v.route with staged := none } ∧ u.skim = v.skim)) ∧
  (∀ (s v : State) (p : Packet), servedNow s 0x0401 p v → Replies (.opCycleStatus p) s p stDone
    (be 4 v.cyc.n ++ be 2 (rowIndex v v.cyc.n) ++ zeros 2 ++ be 4 v.cyc.shift ++ be 1 v.cyc.guard ++ be 1 (b2n (rate25 v)) ++
      zeros 2 ++ be 4 (v.cyc.table.elim 0 schedCheck) ++ be 4 (v.cyc.staged.elim 0 (field · 24 4))) (fun u => u = v)) ∧
  (∀ (s v : State) (p : Packet) (b : Bytes), servedNow s 0x0402 p v → v.cyc.table = some b → pkNum p tCount 0 ≤ 16376 →
    pkNum p tOffset 0 < b.length → Replies (.opScheduleRead p) s p stDone
      (bslice b (pkNum p tOffset 0) (min (pkNum p tCount 0) (b.length - pkNum p tOffset 0))) (fun u => u = v)) ∧
  (∀ (s v : State) (p : Packet) (b : Bytes) (d : Int) (n : Nat), servedNow s 0x0403 p v → pkItem p tStep = some b →
    n = (if (v.time.timeStep ≠ 0 ∨ v.time.posStep ≠ 0) ∧ v.time.stepAt = v.cyc.n ∧ v.cyc.csSeen = false then v.cyc.n
      else cycAdd v.cyc.n 1) → d = beSigned (bslice b 1 8) → d.natAbs ≤ 2147483647 →
    (v.set.lease = true → field b 0 1 = 0 → (v.time.timeStep + d).natAbs ≤ 2147483647 →
      Replies (.opStep p) s p stDone (be 4 n) (fun u =>
        u.time = { v.time with timeStep := v.time.timeStep + d, stepAt := n })) ∧
    (v.set.lease = true → field b 0 1 = 1 → (v.time.posStep + d).natAbs ≤ 2147483647 →
      Replies (.opStep p) s p stDone (be 4 n) (fun u =>
        u.time = { v.time with posStep := v.time.posStep + d, stepAt := n })) ∧
    (v.set.lease = false → field b 0 1 = 0 → v.time.timeStep = 0 → Replies (.opStep p) s p stNotLead [] (fun u => u = v))) ∧
  (∀ (s v : State) (p : Packet), servedNow s 0x0404 p v → pkNum p tCount 0 ≤ 512 → pkNum p tIndex 0 < 512 →
    Replies (.opEventRead p) s p stDone ((List.range (min (pkNum p tCount 0) (512 - pkNum p tIndex 0))).flatMap (fun k =>
      match v.time.events[pkNum p tIndex 0 + k]? with | some e => e.bytes | none => zeros 32)) (fun u => u = v))

/-- R99, R118, R129, R411, R412, R420, R422, R423, R458, R548. The bytes of an alarm are free (log entry 71); what a cold
start keeps is the model's (log entry 69). -/
def Obligations.SetoutAndPowerRequestsAreServed : Prop :=
  (∀ (s v : State) (p : Packet) (t : Numbering), servedNow s 0x0501 p v → v.set.numbering = some t →
    Replies (.opSetoutTable p) s p stDone (be 4 t.topo ++ be 1 (b2n t.split + 2 * b2n t.headless + 4 * b2n t.merge) ++
      be 1 t.entries.length ++ be 1 (b2n t.rate25) ++ t.entries.flatMap Entry.bytes) (fun u => u = v)) ∧
  (∀ (s v : State) (p : Packet), servedNow s 0x0502 p v → v.set.pending = none →
    Replies (.opSetoutStatus p) s p stDone (be 1 (setoutCode v) ++ zeros 11 ++ be 8 v.set.leadKey ++
      allPorts.flatMap (fun q => be 1 (b2n (v.set.probes.get q).isSome) ++ zeros 3 ++ fit ((v.set.probes.get q).getD []) 28))
      (fun u => u = v)) ∧
  (∀ (s v : State) (p : Packet), servedNow s 0x0503 p v →
    (v.set.lease = true → pkNum p tMode 0 = 0 →
      Replies (.opRenumber p) s p stDone (be 4 (nonZeroCycle (cycAdd (issueCycle v) 2))) (fun u =>
        u.set = { v.set with triggers := v.set.triggers ++ [.command] } ∧ u.cyc = v.cyc)) ∧
    (v.set.lease = true → pkNum p tMode 0 = 1 → Replies (.opRenumber p) s p stDone (be 4 0) (fun u =>
        u.set.state = .settling ∧ u.set.numbering = none ∧ u.set.lease = false ∧ u.set.retained = v.set.retained ∧
        u.cyc.stopped = true ∧ u.cyc.running = v.cyc.running ∧ u.cyc.n = v.cyc.n)) ∧
    (v.set.lease = false → pkNum p tMode 0 ≤ 1 → Replies (.opRenumber p) s p stNotLead [] (fun u => u = v))) ∧
  (∀ (s v : State) (p : Packet) (b : Bytes), servedNow s 0x0504 p v → pkItem p tData = some b →
    numberingOk (b.take (b.length - 8)) = true →
    (v.set.lease = true → ownTrain v p.sess = true →
      64 < (presentEntries v).length + presentCount (parseNumbering (b.take (b.length - 8))) →
      Replies (.opFarNumbering p) s p stDone [] (fun u => u.set = v.set ∧ u = report v 0x0204 5
        ((presentEntries v).length + presentCount (parseNumbering (b.take (b.length - 8))) : Nat) [])) ∧
    (v.set.lease = true → ownTrain v p.sess = true →
      (presentEntries v).length + presentCount (parseNumbering (b.take (b.length - 8))) ≤ 64 →
      Replies (.opFarNumbering p) s p stDone [] (fun u =>
      u.set.absorbed = some (parseNumbering (b.take (b.length - 8)), field b (b.length - 8) 8) ∧
      u.set.numbering = v.set.numbering)) ∧
    (v.set.lease = true → ownTrain v p.sess = false → Replies (.opFarNumbering p) s p stNotApplicable [] (fun u => u = v))) ∧
  (∀ (s v : State) (p : Packet), servedNow s 0x0601 p v → Replies (.opPowerStatus p) s p stDone
    (be 4 (wakeStatus v) ++ be 4 (reasonBitmap v) ++ be 1 (sleepVote v) ++ be 4 v.sleep.announced) (fun u =>
      u = { v with sleep := { v.sleep with falseWakes := 0 } })) ∧
  (∀ (s v : State) (p : Packet) (d : Nat), servedNow s 0x0602 p v → d = pkNum p tDuration 0 →
    (d ≤ 86400 → Replies (.opStayAwake p) s p stDone (be 8 (time64 (v.time.now + d * 1000000000))) (fun u =>
      u.sleep.commandHold = if d = 0 then none else some (v.clk + d * 1000000000))) ∧
    (86400 < d → Replies (.opStayAwake p) s p stBadParameter [] (fun u => u = v))) ∧
  (∀ (s v : State) (p : Packet), servedNow s 0x0603 p v →
    (v.set.lease = true → Replies (.opWakeAll p) s p stDone [] (fun u => u = drivePulses v none none)) ∧
    (v.set.lease = false → Replies (.opWakeAll p) s p stNotLead [] (fun u => u = v))) ∧
  (∀ (s v : State) (p : Packet), servedNow s 0x0604 p v → pkNum p tIndex 0 ≤ 7 →
    Replies (.opAlarmRead p) s p stDone (match Tab.get? v.sleep.alarms (pkNum p tIndex 0) with
      | none => [] | some a => Config.alarmBytes a) (fun u => u = v)) ∧
  (∀ (s v : State) (p : Packet) (b : Bytes), servedNow s 0x0605 p v → pkNum p tIndex 0 ≤ 7 → pkItem p tData = some b →
    (b = [] → Replies (.opAlarmWrite p) s p stDone [] (fun u =>
      u.sleep = { v.sleep with alarms := Tab.erase v.sleep.alarms (pkNum p tIndex 0) })) ∧
    (b ≠ [] → Answers (.opAlarmWrite p) s (fun t => t.sleep.alarms = (match Config.parseAlarm b with
      | none => v.sleep.alarms
      | some a => if 60000 ≤ a.hold ∧ a.hold ≤ 86400000 then Tab.set v.sleep.alarms (pkNum p tIndex 0) a
                  else v.sleep.alarms)))) ∧
  (∀ (s v : State) (p : Packet), servedNow s 0x0606 p v → v.set.lease = true →
    Replies (.opHoldersRead p) s p stDone ((List.range 64).flatMap (fun k => (List.range 4).flatMap (fun u =>
      (List.range 9).flatMap (fun b => be 4 (Tab.getD v.sleep.holders (holderKey k (u + 1) b) 0))))) (fun u => u = v)) ∧
  (∀ (s v : State) (p : Packet), servedNow s 0x0607 p v →
    (v.set.lease = true → Replies (.opHoldersClear p) s p stDone [] (fun u => u.sleep = { v.sleep with holders := [] })) ∧
    (v.set.lease = false → Replies (.opHoldersClear p) s p stNotLead [] (fun u => u = v)))

/-- R347 to R349, R358, R366, R383, R389, R392, R458, R506. -/
def Obligations.PairAndComplexRequestsAreServed : Prop :=
  (∀ (s v : State) (p : Packet), servedNow s 0x0701 p v →
    (isPair v = true ∨ isStack v = true → Replies (.opPairStatus p) s p stDone
      ((List.range (ownUnits v)).flatMap (fun u => controlOf v (u + 1)) ++ be 4 (v.pair.grant.elim 0 (·.2))) (fun u => u = v)) ∧
    (isPair v = false → isStack v = false → Replies (.opPairStatus p) s p stNotApplicable [] (fun u => u = v))) ∧
  (∀ (s v : State) (p : Packet), servedNow s 0x0702 p v →
    (isPair v = true → v.pair.role = .active → v.pair.segs.all (·.up) = true →
      (∃ u r, u ∈ otherUnits v ∧ freshRec v u = some r ∧ r.mirrorCurrent = true) →
      Replies (.opHandover p) s p stDone (be 4 (cycAdd v.cyc.n 2)) (fun u => u.pair = { v.pair with releasing := true })) ∧
    (isPair v = true → v.pair.role = .active → v.pair.segs.all (·.up) = false →
      Replies (.opHandover p) s p stBusy [] (fun u => u = v)) ∧
    (isPair v = false ∨ v.pair.role ≠ .active → Replies (.opHandover p) s p stNotApplicable [] (fun u => u = v))) ∧
  (∀ (s v : State) (p : Packet), servedNow s 0x0703 p v → 1 ≤ pkNum p tUnit 0 → pkNum p tUnit 0 ≤ 4 →
    (ownSlot v = some (pkNum p tSlot 0) → fromPositionOne v p.sess = true → isPair v = true →
      Replies (.opRoleGrant p) s p stDone [] (fun u => u = receiveGrant v (pkNum p tUnit 0) (pkNum p tCount 0) ∧
        u.pair.grant = some (pkNum p tUnit 0, pkNum p tCount 0))) ∧
    (ownSlot v = some (pkNum p tSlot 0) → fromPositionOne v p.sess = false →
      Replies (.opRoleGrant p) s p stNotApplicable [] (fun u => u = v)) ∧
    (ownSlot v ≠ some (pkNum p tSlot 0) → Replies (.opRoleGrant p) s p stBadParameter [] (fun u => u = v))) ∧
  (∀ (s v : State) (p : Packet), servedNow s 0x0801 p v → Replies (.opSafeStatusRead p) s p stDone
    (be 4 (safeStatus v) ++ (List.range 3).flatMap (fun k => be 4 ((v.safe.cores.getD k CoreSt.init).corrected)) ++
      be 4 v.safe.scratchResult) (fun u => u = v)) ∧
  (∀ (s v : State) (p : Packet), servedNow s 0x0802 p v → Replies (.opMismatchLog p) s p stDone
    ((lastN 16 v.safe.log).reverse.flatMap (fun m =>
      be 8 (time64 m.time) ++ be 4 m.skim ++ be 1 m.lane ++ be 1 m.outcome ++ be 2 m.clock)) (fun u => u = v)) ∧
  (∀ (s v : State) (p : Packet) (t : Nat), servedNow s 0x0803 p v → newTag v = some t →
    Replies (.opComplexReset p) s p stRetry (be 2 t) (fun u =>
      u.safe.state = .scratch ∧ u.safe.failed = 0 ∧ u.safe.resyncs = [] ∧ u.safe.restarts = [] ∧
      u.safe.slot0 = none ∧ u.safe.slot1 = none ∧ u.safe.applied = 0 ∧
      (∃ x, u.bridge.tags = v.bridge.tags ++ [x] ∧ x.tag = t ∧ x.kind = .complexReset ∧ x.state = .waiting))) ∧
  (∀ (s v : State) (p : Packet) (k : Nat), servedNow s 0x0804 p v → k = pkNum p tIndex 0 →
    (k = 0 → Replies (.opOutputFaultClear p) s p stDone [] (fun u =>
      u.safe = { v.safe with clearing := v.safe.chFault, clearingOff := decide (v.safe.safeOffFault ≠ 0) })) ∧
    (1 ≤ k → k ≤ 8 → Replies (.opOutputFaultClear p) s p stDone [] (fun u =>
      u.safe = { v.safe with clearing := if v.safe.chFault.getLsbD (k - 1) then setBit v.safe.clearing (k - 1) true
                                         else v.safe.clearing })) ∧
    (8 < k → Replies (.opOutputFaultClear p) s p stBadParameter [] (fun u => u = v))) ∧
  (∀ (s v : State) (p : Packet), servedNow s 0x0805 p v →
    (∀ b, v.safe.table = some b → Replies (.opEquationStatus p) s p stDone (be 4 (field b 0 4) ++ be 4 (field b 4 4) ++
      be 4 (field b 16 4) ++ be 2 (eqDomain b) ++ zeros 2 ++ be 4 (eqWorst b)) (fun u => u = v)) ∧
    (v.safe.table = none → Replies (.opEquationStatus p) s p stDone (zeros 20) (fun u => u = v)))

/-- R261, R277, R280, R291, R437, R439, R488, R490, R491, R548. -/
def Obligations.RecordersImagesAndPortsAreServed : Prop :=
  (∀ (s v : State) (p : Packet) (l got : List Record), servedNow s 0x0901 p v → pkNum p tArea 0 ≤ 1 → 1 ≤ pkNum p tCount 0 →
    pkNum p tCount 0 ≤ 16 → l = areaRecords v (pkNum p tArea 0) →
    got = (l.filter (fun r => decide (pkNum p tSequence 0 ≤ r.seq))).take (pkNum p tCount 0) →
    Replies (.opRecorderRead p) s p stDone
      (be 8 (oldestSeq got) ++ be 8 (newestSeq l) ++ be 8 (oldestSeq l) ++ got.flatMap Record.bytes) (fun u => u = v)) ∧
  (∀ (s v : State) (p : Packet), servedNow s 0x0902 p v →
    ((codeClass (pkNum p tCode 0)).isSome = true → Replies (.opRecorderStats p) s p stDone
      ((selfRecord v (pkNum p tCode 0) 16 0 (summaryParts (pkNum p tCode 0) (codeStat v (pkNum p tCode 0))).1).bytes ++
       (selfRecord v (pkNum p tCode 0) 48 0 (summaryParts (pkNum p tCode 0) (codeStat v (pkNum p tCode 0))).2).bytes)
      (fun u => u = v)) ∧
    ((codeClass (pkNum p tCode 0)).isSome = false → Replies (.opRecorderStats p) s p stBadParameter [] (fun u => u = v))) ∧
  (∀ (s v : State) (p : Packet), servedNow s 0x0903 p v → Replies (.opRecorderStatus p) s p stDone
    (be 8 (newestSeq (areaRecords v 0)) ++ be 8 (oldestSeq (areaRecords v 0)) ++ be 8 (newestSeq (areaRecords v 1)) ++
      be 8 (oldestSeq (areaRecords v 1)) ++
      be 1 (b2n (decide (primerCap ≤ v.recorder.primer.length)) + 2 * b2n v.recorder.degraded) ++ zeros 3 ++
      be 4 v.recorder.dropCount) (fun u => u = v)) ∧
  (∀ (s v : State) (p : Packet), servedNow s 0x0A01 p v → Replies (.opImageStatus p) s p stDone
    (bankEntry 8 v.img.fw.b0 ++ bankEntry 8 v.img.fw.b1 ++ bankEntry 9 v.img.cf.b0 ++ bankEntry 9 v.img.cf.b1) (fun u => u = v)) ∧
  (∀ (s v : State) (p : Packet) (c : Instr) (kind : Nat), kind = pkNum p tKind 0 → modeOk p = true →
    (c = .opImageActivate p ∧ servedNow s 0x0A13 p v ∧ (spareBank (banksOf v kind)).state = .loaded ∧ minFwOk v kind = true) ∨
    (c = .opImageRollback p ∧ servedNow s 0x0A14 p v ∧ (spareBank (banksOf v kind)).state = .loaded ∧
      (banksOf v kind).floor ≤ imgVersion (spareBank (banksOf v kind)).image ∧
      (keyFor v kind (imgKeyId (spareBank (banksOf v kind)).image)).isSome = true) →
    (pkNum p tMode 0 = 1 → v.set.lease = true → Replies c s p stBusy [] (fun u => u = v)) ∧
    (pkNum p tMode 0 ≠ 1 → Replies c s p stDone [] (fun u =>
      (banksOf u kind).selected = 1 - (banksOf v kind).running ∧ (banksOf u kind).running = (banksOf v kind).running ∧
      u.img.resetAt = if pkNum p tMode 0 = 0 then v.img.resetAt else some (v.clk + 10000000)))) ∧
  (∀ (s v : State) (p : Packet) (kind : Nat), kind = pkNum p tKind 0 → modeOk p = true →
    (spareBank (banksOf v kind)).state ≠ .loaded →
    (servedNow s 0x0A13 p v → Replies (.opImageActivate p) s p stBadParameter (be 1 8 ++ be 4 0) (fun u => u = v)) ∧
    (servedNow s 0x0A14 p v → Replies (.opImageRollback p) s p stBadParameter [] (fun u => u = v))) ∧
  (∀ (s v : State) (p : Packet) (b : Bytes), servedNow s 0x0A15 p v → pkItem p tData = some b → b.length = 100 →
    (pkNum p tMode 0 = 0 → v.img.key = none → Replies (.opKeyEnrol p) s p stDone [] (fun u =>
      u.img.key = some (b.take 32, field b 32 4))) ∧
    (pkNum p tMode 0 = 1 → v.pres.sealOpen = true → Replies (.opKeyEnrol p) s p stDone [] (fun u =>
      u.img.key = some (b.take 32, field b 32 4) ∧ u.img.cf.b0 = Bank.blank ∧ u.img.cf.b1 = Bank.blank ∧ u.img.fw = v.img.fw)) ∧
    (pkNum p tMode 0 = 1 → v.pres.sealOpen = false → Replies (.opKeyEnrol p) s p stSealIntact [] (fun u => u = v))) ∧
  (∀ (s v : State) (p : Packet) (k : Nat), servedNow s 0x0B01 p v → portIn p 1 16 = some k →
    Replies (.opVportStatus p) s p stDone (be 4 (vport v k).status.toNat ++ be 4 (vportLink v k).toNat) (fun u =>
      (vport u k).link = (vport v k).link &&& 0xFF00FFFF ∧ (vport u k).status = (vport v k).status)) ∧
  (∀ (s v : State) (p : Packet), servedNow s 0x0B02 p v → pkNum p tIndex 0 ≤ 511 → Replies (.opChannelRead p) s p stDone
    (fit (chanSt v (pkNum p tIndex 0)).entry 32 ++ be 1 (chCode (chanSt v (pkNum p tIndex 0)).state)) (fun u => u = v)) ∧
  (∀ (s v : State) (p : Packet) (e : Bytes) (ok : Bool), servedNow s 0x0B03 p v → pkNum p tIndex 0 ≤ 511 →
    pkItem p tData = some e → ok = (channelEntryOk v (net v) (pkNum p tIndex 0, e) &&
      profileBudgetOk (setChan v (pkNum p tIndex 0) (ChanSt.init e)) (profilesAhead v)) →
    (ok = true → Replies (.opChannelWrite p) s p stDone [] (fun u =>
      (chanSt u (pkNum p tIndex 0)).entry = e ∧
      (chanSt u (pkNum p tIndex 0)).state = (if field e 0 1 % 2 = 1 then .resolving else .disabled) ∧
      (chanSt u (pkNum p tIndex 0)).out = 0)) ∧
    (ok = false → Replies (.opChannelWrite p) s p stBadParameter [] (fun u => u = v))) ∧
  (∀ (s v w : State) (p : Packet) (k : Nat), servedNow s 0x0C01 p v → portIn p 2 10 = some k →
    w = (if k ≤ 6 then v else readCounters v (k - 6)) →
    Replies (.opFieldStatus p) s p stDone (be 4 (fieldPort v k).status.toNat ++ be 4 (fieldState w k)) (fun u =>
      u.fld.serial = v.fld.serial ∧ (6 < k → (canPort u (k - 6)).busOff = 0))) ∧
  (∀ (s v : State) (p : Packet) (k : Nat), servedNow s 0x0C02 p v → portIn p 2 10 = some k →
    (6 < k → Replies (.opCanopenNodes p) s p stDone ((List.range 127).flatMap (fun n => be 1 (nodeCode v (k - 6) (n + 1))))
      (fun u => u = v)) ∧
    (k ≤ 6 → Replies (.opCanopenNodes p) s p stBadParameter [] (fun u => u = v)))

/-- R225, R227, R231, R233, R236, R239, R240, R242, R247, R248, R459. The planned bus time is free (log entry 73), the ring's
place and the order of endpoints are the model's (log entry 74). -/
def Obligations.BridgeRequestsAreServed : Prop :=
  (∀ (s v : State) (p : Packet) (t : Nat), servedNow s 0x0D01 p v → composing v = true → newTag v = some t →
    v.bridge.queue = [] → v.bridge.farQueue = [] →
    (∀ id, pkItem p tRoute = none → oneId p = some id → ownSlot v ≠ some (sigSlot id) → isNodeSignal id = false →
      slotPresent v (sigSlot id) = true → Replies (.opPostedWrite p) s p stPosted (be 2 t) (fun u =>
        ∃ m, u.bridge.queue = [m] ∧ m.kind = 1 ∧ m.tag = t ∧ m.destSlot = sigSlot id)) ∧
    (∀ e, (pkItem p tRoute).isSome = true → e = entryAt v (pkNum p tRoute 0) → routeRefusal v (pkNum p tRoute 0) 2 = none →
      rDomain e = 8 → Replies (.opPostedWrite p) s p stPosted (be 2 t) (fun u =>
        ∃ m, u.bridge.queue = [m] ∧ m.kind = 1 ∧ m.tag = t ∧ m.destSlot = rAddr e 0 1)) ∧
    (∀ st, (pkItem p tRoute).isSome = true → routeRefusal v (pkNum p tRoute 0) 2 = some st →
      Replies (.opPostedWrite p) s p st [] (fun u => u = v)) ∧
    (∀ id, pkItem p tRoute = none → oneId p = some id → ownSlot v = some (sigSlot id) →
      Replies (.opPostedWrite p) s p stBadParameter [] (fun u => u = v))) ∧
  (∀ (s v : State) (p : Packet) (t : Nat) (e : Bytes), servedNow s 0x0D02 p v → composing v = true → newTag v = some t →
    e = entryAt v (pkNum p tRoute 0) → routeRefusal v (pkNum p tRoute 0) 1 = none →
    (rDomain e = 8 → v.bridge.queue = [] → Replies (.opRead p) s p stRetry (be 2 t) (fun u =>
      (∃ m, u.bridge.queue = [m] ∧ m.kind = 2 ∧ m.tag = t ∧ m.destSlot = rAddr e 0 1) ∧
      (∃ x, u.bridge.tags = v.bridge.tags ++ [x] ∧ x.tag = t ∧ x.kind = .read ∧ x.state = .queued))) ∧
    (∀ r, rDomain e ≠ 8 → readAhead v (pkNum p tRoute 0) = some r → Answers (.opRead p) s (fun u =>
      ∃ y, findTag u t = some y ∧ y.state = .held ∧ y.status = stDone ∧ y.value = r.value ∧ y.holdEnd = v.clk + 250000000))) ∧
  (∀ (s v : State) (p : Packet), servedNow s 0x0D03 p v →
    (∀ x, v.bridge.tags.find? (fun x => x.tag == pkNum p tTag 0 && x.initiator == initiatorOf v p.sess && collectable x) = some x →
      (x.state = .held → Replies (.opRetry p) s p x.status (resultData x) (fun u => findTag u x.tag ≠ none)) ∧
      (x.state ≠ .held → Replies (.opRetry p) s p stRetry (be 2 (pkNum p tTag 0)) (fun u => u = v))) ∧
    (v.bridge.tags = [] → composing v = true → Replies (.opRetry p) s p stBadParameter [] (fun u => u = v))) ∧
  (∀ (s v : State) (p : Packet) (t : Nat) (is : List Nat) (es : List Bytes), servedNow s 0x0D04 p v → composing v = true →
    newTag v = some t → is = sequenceRoutes p → es = is.map (entryAt v) → is ≠ [] → is.length ≤ 16 → pkNum p tWait 0 ≤ 100 →
    (∀ e ∈ es, rEmpty e = false ∧ rEnabled e = true ∧ rDir e = 3 ∧ onFarBus e = true ∧ (rFlag e 1 = true ∨ rFlag e 2 = true) ∧
      lockPort e = lockPort (es.headD []) ∧ rGroup e = rGroup (es.headD [])) →
    (es.filter onlyWritable).length ≤ (sequenceValues p).length →
    (sequenceValues p).length ≤ (es.filter onlyWritable).length + (es.filter bothWays).length →
    localChannel v (initiatorOf v p.sess) = true →
    Answers (.opLockedSequence p) s (fun u => u = reply v p stBadParameter [] ∨
      ∃ w, u = reply w p stRetry (be 2 t) ∧
        (∃ q, w.bridge.locked = v.bridge.locked ++ [q] ∧ q.tag = t ∧ q.routes.map (·.1) = is) ∧
        (∃ x, w.bridge.lockWaits = v.bridge.lockWaits ++ [x] ∧ x.tag = t ∧ x.until_ = v.clk + pkNum p tWait 0 * 1000000))) ∧
  (∀ (s v : State) (p : Packet) (t sem : Nat), servedNow s 0x0D05 p v → composing v = true → newTag v = some t →
    sem = field ((pkItem p tSemaphore).getD []) 0 2 → 1 ≤ sem → sem ≤ 256 → pkNum p tWait 0 ≤ 100 →
    (pkItem p tSlot = none → field ((pkItem p tSemaphore).getD []) 2 1 = 1 → semOf v sem = none → v.bridge.farQueue = [] →
      Answers (.opSemaphore p) s (fun u => semOf u sem = some ⟨sem, initiatorOf v p.sess, v.clk + 100000000⟩)) ∧
    (∀ k, (pkItem p tSlot).map (fun b => field b 0 1) = some k → ownSlot v ≠ some k → slotPresent v k = true →
      1 ≤ field ((pkItem p tSemaphore).getD []) 2 1 → field ((pkItem p tSemaphore).getD []) 2 1 ≤ 3 → v.bridge.queue = [] →
      Replies (.opSemaphore p) s p stRetry (be 2 t) (fun u =>
        ∃ m, u.bridge.queue = [m] ∧ m.kind = 6 ∧ m.tag = t ∧ m.destSlot = k))) ∧
  (∀ (s v : State) (p : Packet), servedNow s 0x0D06 p v →
    (∀ e, ringCountOk (pkNum p tCount 0) = true →
      ((List.range 191).map (· + 0x40)).find? (fun e => !v.bridge.endpoints.contains e) = some e → v.veh.rings.length < 256 →
      ringBase v (pkNum p tCount 0) + ringSize (pkNum p tCount 0) ≤ 67108864 →
      Replies (.opEndpointOpen p) s p stDone (be 2 (channelOf v e)) (fun u =>
        u.bridge.endpoints = v.bridge.endpoints ++ [e] ∧
        Tab.get? u.veh.rings e = some (newRing (pkNum p tCount 0) (ringBase v (pkNum p tCount 0))))) ∧
    (ringCountOk (pkNum p tCount 0) = false → Replies (.opEndpointOpen p) s p stBadParameter [] (fun u => u = v))) ∧
  (∀ (s v : State) (p : Packet) (c : Nat), servedNow s 0x0D07 p v → c = pkNum p tChannel 0 →
    (c = channelOf v (channelEnd c) → channelEnd c ∈ v.bridge.endpoints →
      Replies (.opEndpointClose p) s p stDone (be 2 c) (fun u => channelEnd c ∉ u.bridge.endpoints ∧
        Tab.get? u.veh.rings (channelEnd c) = none ∧ (∀ x ∈ u.veh.staging, x.ring ≠ channelEnd c))) ∧
    (channelEnd c ∉ v.bridge.endpoints → Replies (.opEndpointClose p) s p stBadParameter [] (fun u => u = v))) ∧
  (∀ (s v : State) (p : Packet), servedNow s 0x0D08 p v → composing v = true → Replies (.opErrorLog p) s p stDone
    (fit (v.bridge.errors.flatMap ErrEntry.bytes) 2048) (fun u => u = v)) ∧
  (∀ (s v : State) (p : Packet) (t : Nat), servedNow s 0x0D10 p v → composing v = true → newTag v = some t →
    pkNum p tSlot 0 ≤ 63 → pkItem p tUnit = none →
    (slotPresent v (pkNum p tSlot 0) = false → Replies (.opRemoteCommand p) s p stRouteMissing [] (fun u => u = v)) ∧
    (slotPresent v (pkNum p tSlot 0) = true → ((pkItem p tPacket).getD []).length ≤ 2000 →
      frameLength 2020 + 20 ≤ messageLimit v → v.bridge.queue = [] →
      Replies (.opRemoteCommand p) s p stRetry (be 2 t) (fun u =>
        ∃ m, u.bridge.queue = [m] ∧ m.kind = 7 ∧ m.tag = t ∧ m.destSlot = pkNum p tSlot 0 ∧
          m.bodies = [be 2 (pkNum p tSlot 0 * 1024 + 1) ++ zeros 2 ++ (pkItem p tPacket).getD []])))

/-- R11, R62, R350 to R352, R466, R502. Core A's own results are free (log entry 41); the begin of split mode: log entry 75. -/
def Obligations.DebugRequestsAreServed : Prop :=
  (∀ (s v : State) (p : Packet) (k : LinePort), servedNow s 0x0E01 p v → pkNum p tAddress 0 = 0x010000 + 4 * portNo k →
    pkNum p tCount 0 = 1 → Replies (.opRegisterRead p) s p stDone
      (be 4 (setBit (v.line.ports.get k).status 21 (wakeIn v k)).toNat)
      (fun u => u = if wakeOpen v k then tookFree v 1 else v)) ∧
  (∀ (s v : State) (p : Packet), servedNow s 0x0E01 p v →
    (pkNum p tAddress 0 < 0x010000 ∨ 0x01FFFF < pkNum p tAddress 0 ∨ 64 < pkNum p tCount 0) →
    Replies (.opRegisterRead p) s p stBadParameter [] (fun u => u = v)) ∧
  (∀ (s v : State) (p : Packet) (k : LinePort) (w : Word32), servedNow s 0x0E02 p v →
    pkNum p tAddress 0 = 0x010000 + 4 * portNo k → w = BitVec.ofNat 32 (field ((pkItem p tValue).getD []) 12 4) →
    Replies (.opRegisterWrite p) s p stDone [] (fun u =>
      (u.line.ports.get k).status = (v.line.ports.get k).status &&& ~~~(w &&& 0xFF) ∧
      (∀ q, q ≠ k → u.line.ports.get q = v.line.ports.get q))) ∧
  (∀ (s v : State) (p : Packet), servedNow s 0x0E03 p v → pkNum p tPort 0 / 256 = 0 →
    Replies (.opCx320Counters p) s p stDone (allPorts.flatMap (fun k => let q := v.line.ports.get k
      be 4 q.good ++ be 4 q.fcs ++ be 4 q.runts ++ be 4 q.oversize ++ be 4 q.drops ++ zeros 12)) (fun u =>
      ∀ k, u.line.ports.get k = { v.line.ports.get k with good := 0, fcs := 0, runts := 0, oversize := 0, drops := 0 })) ∧
  (∀ (s v : State) (p : Packet), servedNow s 0x0E03 p v → 3 < pkNum p tPort 0 / 256 →
    Replies (.opCx320Counters p) s p stBadParameter [] (fun u => u = v)) ∧
  (∀ (s v : State) (p : Packet), servedNow s 0x0F01 p v →
    (safeRuns v = true → v.safe.state ≠ .split → v.safe.state ≠ .halted → v.safe.cycle.isSome = true →
      Replies (.opSplitEnter p) s p stDone (be 4 (cycAdd v.cyc.n 1)) (fun u => u.safe = { v.safe with split := some freshSplit })) ∧
    (safeRuns v = true → v.safe.state ≠ .split → v.safe.state ≠ .halted → v.safe.cycle = none →
      Replies (.opSplitEnter p) s p stDone (be 4 (cycAdd v.cyc.n 1)) (fun u => u.safe.state = .split ∧ u.safe.applied = 0)) ∧
    (v.safe.state = .halted → Replies (.opSplitEnter p) s p stNotApplicable [] (fun u => u = v))) ∧
  (∀ (s v : State) (p : Packet) (x : SplitSt), v.safe.state = .split → v.safe.split = some x →
    (servedNow s 0x0F02 p v → Replies (.opSplitLeave p) s p stDone (be 4 v.cyc.n) (fun u =>
      u.safe.state = .scratch ∧ u.safe.split = none ∧ u.safe.applied = 0)) ∧
    (servedNow s 0x0F03 p v → x.halted = true → Replies (.opCoreHalt p) s p stDone (be 4 (x.count % 4294967296)) (fun u =>
      u = v)) ∧
    (servedNow s 0x0F03 p v → x.halted = false → Answers (.opCoreHalt p) s (fun t =>
      t.safe.split.elim false (·.halted) = true)) ∧
    (servedNow s 0x0F04 p v → x.halted = true → 1 ≤ pkNum p tCount 0 → pkNum p tCount 0 ≤ 65535 →
      Replies (.opCoreStep p) s p stDone (be 4 ((x.count + pkNum p tCount 0) % 4294967296)) (fun u =>
        u.safe.split.elim 0 (·.count) = x.count + pkNum p tCount 0 ∧ u.safe.split.elim false (·.halted) = true)) ∧
    (servedNow s 0x0F05 p v → x.halted = true → Replies (.opCoreRun p) s p stDone (be 4 (x.count % 4294967296)) (fun u =>
      u.safe.split = some { x with halted := false })) ∧
    (∀ w, servedNow s 0x0F06 p v → x.halted = true → coreAddress (pkNum p tAddress 0) = true → pkNum p tCount 0 = 1 →
      coreWord (coreA v) (pkNum p tAddress 0) = some w → Replies (.opCoreRead p) s p stDone (be 4 w.toNat) (fun u => u = v)) ∧
    (∀ b, servedNow s 0x0F07 p v → x.halted = true → v.safe.cores ≠ [] → pkItem p tData = some b → b.length = 4 →
      coreAddress (pkNum p tAddress 0) = true → 0x110000 ≤ pkNum p tAddress 0 →
      Replies (.opCoreWrite p) s p stDone [] (fun u =>
        coreWord (coreA u) (pkNum p tAddress 0) = some (BitVec.ofNat 32 (field b 0 4)))) ∧
    (∀ tag, servedNow s 0x0F08 p v → pkNum p tCount 0 ≤ 1 → newTag v = some tag →
      Replies (.opReplay p) s p stRetry (be 2 tag) (fun u =>
        ∃ y, u.bridge.tags = v.bridge.tags ++ [y] ∧ y.tag = tag ∧ y.kind = .replay ∧ y.state = .waiting))) ∧
  (∀ (s v : State) (p : Packet) (c : Instr) (op : Nat), v.safe.state ≠ .split →
    (c, op) ∈ [(Instr.opSplitLeave p, 0x0F02), (.opCoreHalt p, 0x0F03), (.opCoreStep p, 0x0F04), (.opCoreRun p, 0x0F05),
      (.opCoreRead p, 0x0F06), (.opCoreWrite p, 0x0F07), (.opReplay p, 0x0F08)] → servedNow s op p v →
    Replies c s p stNotApplicable [] (fun u => u = v))

/-- R407, R408, R410 to R412, R416, R421: wake sources and holds. -/
def Obligations.WakeSourcesActAndHold : Prop :=
  (∀ (s : State) (p : LinePort), sensesWires s = true → assigned s p = true → s.sleep.refractory ≤ s.clk →
    (s.sleep.wires.get p).stuck = false → maskedSource s (portNo p + 1) = false →
    (s.sleep.power = .sleep → pastReturn s = false → Answers (.wakePulseQualified p) s (fun t =>
      t.sleep.power = .awake ∧ t.sleep.source = portNo p + 1 ∧ t.start.boot = .powered ∧
      t.sleep.refractory = s.clk + 500000000 ∧
      (∀ q, q ≠ p → assigned s q = true → Out.wakePulse q ∈ t.out ∧ (t.sleep.wires.get q).driven = some s.clk) ∧
      (t.sleep.wires.get p).driven = (s.sleep.wires.get p).driven)) ∧
    (pastReturn s = true → s.sleep.power ≠ .off → s.sleep.latch = none → Answers (.wakePulseQualified p) s (fun t =>
      t.sleep.latch = some (true, portNo p + 1) ∧ t.sleep.power = s.sleep.power))) ∧
  (∀ (s : State) (p : LinePort), sensesWires s = true → assigned s p = true → s.clk < s.sleep.refractory →
    exec (.wakePulseQualified p) s = .next { s with sleep := { s.sleep with
      wires := s.sleep.wires.adj p (fun w => { w with heard := some s.clk }) } }) ∧
  (∀ (s : State), Answers .wakePulseEnd s (fun t => ∀ p, (t.sleep.wires.get p).stuck = (s.sleep.wires.get p).stuck ∧
    (∀ t0, (s.sleep.wires.get p).driven = some t0 →
      (t.sleep.wires.get p).driven = if t0 + 20000000 ≤ s.clk then none else some t0))) ∧
  (∀ (s : State), s.sleep.refractory ≤ s.clk →
    exec .refractoryEnd s = .next { s with sleep := { s.sleep with refractory := 0 } }) ∧
  (∀ (s : State) (p : LinePort),
    (sensesWires s = true → assigned s p = true → (s.sleep.wires.get p).stuck = false →
      Answers (.wakeWireStuck p) s (fun t => (t.sleep.wires.get p).stuck = true ∧
        t.recorder = (report s 0x0A01 2 (portNo p + 1) []).recorder)) ∧
    Answers (.wakeWireReleased p) s (fun t => (t.sleep.wires.get p).stuck = false ∧ (t.sleep.wires.get p).heard = none ∧
      (∀ q, q ≠ p → t.sleep.wires.get q = s.sleep.wires.get q))) ∧
  (∀ (s : State) (link : Nat), s.sleep.power = .sleep → link ∈ s.sleep.phySleep → maskedSource s (link + 4) = false →
    pastReturn s = false → Answers (.tc10WakeReceived link) s (fun t =>
      t.sleep.power = .awake ∧ t.sleep.source = link + 4 ∧ t.start.boot = .powered)) ∧
  (∀ (s : State) (link t0 : Nat), Tab.get? s.sleep.tc10 link = some t0 → t0 + 10000000 ≤ s.clk →
    Answers (.tc10SleepTimeout link) s (fun t => t.sleep.phySleep = s.sleep.phySleep ++ [link] ∧
      Tab.get? t.sleep.tc10 link = none)) ∧
  (∀ (s : State) (k : Nat) (high wide : Bool), Tab.get? (powerCfg s).wakeInputs k = some (high, wide) → s.sleep.power ≠ .off →
    Tab.has s.sleep.inputSince k = false → k ∉ s.sleep.inputStuck → maskedSource s (10 + k) = false → pastReturn s = false →
    (s.sleep.power = .awake → Answers (.wakeInputActive k) s (fun t =>
      Tab.get? t.sleep.inputSince k = some s.clk ∧ t.sleep.reasonSeen = true ∧ t.sleep.power = .awake)) ∧
    (s.sleep.power = .sleep → Answers (.wakeInputActive k) s (fun t => t.sleep.power = .awake ∧ t.sleep.source = 10 + k))) ∧
  (∀ (s : State) (k t0 : Nat), Tab.get? s.sleep.inputSince k = some t0 → k ∉ s.sleep.inputStuck →
    t0 + (powerCfg s).maxAwake * 60000000000 < s.clk → Answers (.wakeInputStuck k) s (fun t =>
      t.sleep.inputStuck = s.sleep.inputStuck ++ [k])) ∧
  (∀ (s : State) (k t0 : Nat), Tab.get? s.sleep.inputOffSince k = some t0 → t0 + 10000000000 ≤ s.clk →
    Answers (.wakeInputUnstuck k) s (fun t => k ∉ t.sleep.inputStuck ∧ Tab.get? t.sleep.inputSince k = none)) ∧
  (∀ (s : State) (k : Nat) (a : AlarmEntry), Tab.get? s.sleep.alarms k = some a → s.sleep.power ≠ .off → a.time ≤ rtc s →
    Answers (.alarmFire k) s (fun t =>
      t.sleep.alarms = (if a.repeats then Tab.set s.sleep.alarms k { a with time := a.time + 86400000000000 }
        else Tab.erase s.sleep.alarms k) ∧
      (maskedSource s 15 = false → Tab.get? t.sleep.alarmHold k = some (s.clk + a.hold * 1000000) ∧
        (s.sleep.power = .sleep → pastReturn s = false → t.sleep.power = .awake ∧ t.sleep.source = 15)))) ∧
  (∀ (s : State) (k t0 : Nat), Tab.get? s.sleep.alarmHold k = some t0 → t0 ≤ s.clk →
    exec (.alarmHoldEnd k) s = .next { s with sleep := { s.sleep with alarmHold := Tab.erase s.sleep.alarmHold k } }) ∧
  (∀ (s : State) (t0 : Nat), s.sleep.commandHold = some t0 → t0 ≤ s.clk →
    exec .commandHoldEnd s = .next { s with sleep := { s.sleep with commandHold := none } }) ∧
  (∀ (s : State), s.time.base = .tracking → s.sleep.alarmSetAt + 1000000000 ≤ s.clk →
    Answers .rtcSet s (fun t => t.start.rtcBase = s.time.now - s.clk ∧ t.sleep.alarmSetAt = s.clk ∧ t.time = s.time))

/-- R415 to R419, R422 to R424, R442, R519: entering and leaving sleep. -/
def Obligations.SleepIsEnteredAndLeft : Prop :=
  (∀ (s : State), s.sleep.announced ≠ 0 → s.cyc.running = true → 1 ≤ cycDiff s.sleep.announced (gridN s) →
    cycDiff s.sleep.announced (gridN s) ≤ 3 →
    exec .pointOfNoReturn s = .next { s with sleep := { s.sleep with pastNoReturn := true } }) ∧
  (∀ (s : State), s.cyc.running = true → s.sleep.announced = nextGrid s → s.sleep.announced ≠ 0 → 1 ≤ s.sleep.seen →
    nextTs s ≤ s.time.now → s.sleep.entering = none → s.sleep.power = .awake → Answers .sleepEntry s (fun t =>
      t.sleep.entering = some s.clk ∧ t.sleep.pastNoReturn = true ∧ t.host.ready = false ∧ t.cyc.running = false ∧
      t.safe.applied = 0 ∧ t.set.lease = false ∧ (∀ k ∈ sleepLinks s, Out.tc10Sleep k ∈ t.out) ∧
      t.sleep.tc10 = (sleepLinks s).map (fun k => (k, s.clk)))) ∧
  (∀ (s : State) (t0 : Nat), s.sleep.entering = some t0 →
    (s.sleep.latch = none → Answers .sleepEntryComplete s (fun t => t.sleep.power = .sleep ∧ t.sleep.entering = none ∧
      t.start.boot = .powered ∧ t.line.relayAOpen = s.line.relayAOpen ∧ t.line.relayBOpen = s.line.relayBOpen ∧
      t.set.numbering = none ∧ t.set.retained = s.set.retained ∧ t.cyc = CycleSt.init)) ∧
    (∀ wide src, s.sleep.latch = some (wide, src) → Answers .sleepEntryComplete s (fun t => t.sleep.power = .awake ∧
      t.sleep.source = src ∧ t.sleep.latch = none ∧ t.sleep.latchedWake = true))) ∧
  (∀ (s : State), s.sleep.power = .awake → s.sleep.awakeFrom ≠ 0 → s.sleep.awakeFrom + 5000000000 ≤ s.clk →
    s.sleep.reasonSeen = false → reasonBitmap s / 64 * 64 + reasonBitmap s % 32 = 0 → s.sleep.entering = none → ∀ l,
    l = (Tab.getD s.sleep.falseAt s.sleep.source []).filter (fun t => s.clk < t + 3600000000000) ++ [s.clk] →
    Answers .falseWake s (fun t => t.sleep.entering = some s.clk ∧ t.sleep.falseWakes = satAdd 255 s.sleep.falseWakes 1 ∧
      (8 ≤ l.length → s.sleep.source ≠ 0 → Tab.get? t.sleep.masked s.sleep.source = some (s.clk + 3600000000000)) ∧
      (l.length < 8 → t.sleep.masked = s.sleep.masked ∧ Tab.get? t.sleep.falseAt s.sleep.source = some l))) ∧
  (∀ (s : State) (src t0 : Nat), Tab.get? s.sleep.masked src = some t0 → t0 ≤ s.clk →
    Answers (.wakeSourceUnmasked src) s (fun t => maskedSource t src = false ∧
      t.recorder = (report s 0x0A03 2 src []).recorder)) ∧
  (∀ (s : State) (t0 : Nat), s.sleep.power = .awake → managing s = true → (powerCfg s).lkAllowed = true → s.set.lease = false →
    inCycle s = true → s.sleep.announced = 0 → s.sleep.lkSince = some t0 → t0 + (powerCfg s).lkDelay * 1000000000 ≤ s.clk →
    Answers .lineKeepingEntry s (fun t => t.sleep.power = .lineKeeping ∧ t.start.boot = .island ∧ t.host.ready = false ∧
      t.line = s.line ∧ t.cyc = s.cyc ∧ t.set.numbering = s.set.numbering ∧ t.safe.applied = 0)) ∧
  (∀ (s : State) (src : Nat), s.sleep.power = .lineKeeping → pastReturn s = false →
    (11 ≤ src → src ≤ 16 → maskedSource s src = false → Answers (.lineKeepingExit src) s (fun t =>
      t.sleep.power = .awake ∧ t.sleep.source = src ∧ t.host.booting = true ∧ t.line = s.line)) ∧
    (s.set.state ≠ .committed → Answers (.lineKeepingExit 0) s (fun t => t.sleep.power = .awake ∧ t.host.booting = true))) ∧
  (∀ (s : State) (t0 : Nat), s.sleep.partialFrom = some t0 → s.set.lease = true →
    t0 + (powerCfg s).maxAwake * 60000000000 ≤ s.clk →
    exec .maxAwakeExpiry s = .next { s with sleep := { s.sleep with override := true } })

/-- R24, R373, R377, R378, R382, R383, R392 to R394, R403; the layout of the type 0x05 record: log entry 44. -/
def Obligations.PeerRecordsAreKeptAndMirrored : Prop :=
  (∀ (s : State) (u id n : Nat) (b : Bytes), managing s = true → s.unplaced = false → b.length = 32 → 1 ≤ u → u ≤ 4 →
    field b 0 1 % 16 ≤ 4 → field b 3 1 ≤ 4 →
    (u = s.unitNo → id < s.unitId → Answers (.controlRecordReceived u id n b) s (fun t =>
      t.unplaced = true ∧ t.safe.applied = 0 ∧ t.line.relayAOpen = false ∧ t.line.relayBOpen = false ∧ t.pair.ilkOut = false)) ∧
    (u = s.unitNo → s.unitId ≤ id → exec (.controlRecordReceived u id n b) s = .next (ringGood s)) ∧
    (u ≠ s.unitNo → field b 16 16 ≠ vehicleUuid s → Answers (.controlRecordReceived u id n b) s (fun t =>
      t.pair.uuidMismatch = oddUnit t ∧ u ∈ t.pair.badUuid ∧ (∀ r ∈ t.pair.records, r.unit ≠ u) ∧ t.pair.role = s.pair.role)) ∧
    (u ≠ s.unitNo → field b 16 16 = vehicleUuid s → isStack s = false → Answers (.controlRecordReceived u id n b) s (fun t =>
      ⟨u, id, n, s.clk, b⟩ ∈ t.pair.records ∧ (∀ r ∈ t.pair.records, r.unit = u → r = ⟨u, id, n, s.clk, b⟩) ∧
      u ∉ t.pair.badUuid ∧
      (s.pair.role = .standby → field b 0 1 = 1 → bitOf (field b 1 1) 1 = true → s.pair.handAt = none →
        t.pair.handAt = some (cycAdd n 1))))) ∧
  (∀ (s : State) (u id n : Nat) (b : Bytes), managing s = true → s.unplaced = false → 1 ≤ u → u ≤ 4 →
    b.length ≠ 32 ∨ 4 < field b 0 1 % 16 ∨ 4 < field b 3 1 →
    exec (.controlRecordReceived u id n b) s = .next (recordDropped s)) ∧
  (∀ (s : State) (k : Nat) (b : Bytes), managing s = true → s.unplaced = false → onRing s = true → keepsMirror s = true →
    b.length ≤ 2012 →
    (b.length = 8 → Answers (.safetyStateRecord k 0 1 b) s (fun t => t.pair.mirror.safety = b ∧
      (field b 2 1 ≠ safeCode s.safe.state → t.recorder = (report s 0x0903 19 0 []).recorder))) ∧
    Answers (.outputImageRecord k 0 1 b) s (fun t => t.pair.mirror.imageSkim = some k ∧ t.pair.mirror.fallback = false ∧
      t.pair.mirror.fields = parseFields s (b.length / 4) b (if follows s.pair.mirror.imageSkim k then s.pair.mirror.fields else [])) ∧
    Answers (.writesAndForcesRecord k 0 1 b) s (fun t => t.pair.mirror.writesSkim = some k ∧
      t.pair.mirror.writes = parseWrites (field b 0 4) (b.drop 4))) ∧
  (∀ (s : State) (f : Frame), f ∈ s.bridge.inbox → msgKind f = 9 → keepsMirror s = true → fallbackPair s = true →
    field (msgBody f) 0 1 = 4 → field (msgBody f) 2 2 = 0 → field (msgBody f) 8 2 = 1 → 12 ≤ (msgBody f).length →
    (msgBody f).length ≤ 2024 → Answers (.mirrorFallbackMessage f) s (fun t =>
      t.pair.mirror.imageSkim = some (field (msgBody f) 4 4) ∧ t.pair.mirror.fallback = true ∧
      t.bridge.inbox = dropOne f s.bridge.inbox)) ∧
  (∀ (s : State) (u k : Nat) (b : Bytes), managing s = true → s.unplaced = false → onRing s = true →
    u ∈ otherUnits s → composing s = false →
    b.length ≤ 2012 → Answers (.portTrafficRecord u k 0 1 b) s (fun t => ∃ outs,
      t.skim.staging.getLast? = some (k, outs) ∧ (∀ o ∈ outs, rUnit o.entry + 1 = s.unitNo ∧ rDir o.entry = 2))) ∧
  (∀ (s : State) (k : Nat) (x : PeerSeg), s.pair.segs[k]? = some x →
    Answers (.peerSegmentDown (k + 1)) s (fun t =>
      t.pair.segs[k]? = some { x with up := false, status := setBit (setBit x.status 16 false) 22 false } ∧
      (∀ j, j ≠ k → t.pair.segs[j]? = s.pair.segs[j]?)) ∧
    (∀ m, s.unplaced = false → Answers (.peerSegmentLinkUp (k + 1) m) s (fun t =>
      t.pair.segs[k]? = some { x with up := true, status := setBit (setBit x.status 16 true) 22 m } ∧
      (∀ j, j ≠ k → t.pair.segs[j]? = s.pair.segs[j]?))))

/-- R385 to R389, R391, R392, R395, R397 to R399, R401: interlock, roles and the hawk. -/
def Obligations.InterlockRolesAndHawkFollow : Prop :=
  (∀ (s : State) (a b : Nat), a ≤ 4 → b ≤ 2 → hasIlk s = true →
    Answers (.interlockReadingChange a b) s (fun t => t.pair.ilkIn = a ∧ t.pair.ownLoop = b ∧
      (a ≠ s.pair.ilkIn → t.pair.ilkSince = s.clk) ∧
      (a = 2 → b = 0 → isPair s = true → s.unitNo = 2 → s.pair.ilkOut = true → s.pair.ilkFault = false → s.pair.ilkChanges = [] →
        t.pair.ilkOut = false ∧ t.pair.role = .standby ∧ t.safe.applied = 0))) ∧
  (∀ (s : State), hasIlk s = true → s.pair.ilkFault = false → s.pair.ilkOut = false → s.pair.takeAt = none → isFit s = true →
    ilkTakes s = true → s.pair.ilkSince + 500000 ≤ s.clk → Answers .interlockSettle s (fun t =>
      t.pair.ilkOut = true ∧ t.pair.takeAt = some (s.time.now + 100000) ∧ t.pair.watchdog = some (s.clk + 2 * cycleLen s))) ∧
  (∀ (s : State) (t0 : Nat), hasIlk s = true → ilkBad s = true → s.pair.condSince = some t0 → t0 + 10000000 ≤ s.clk →
    Answers .ilkFaultSet s (fun t => t.pair.ilkFault = true)) ∧
  (∀ (s : State) (t0 : Nat), ilkBad s = false → s.pair.clearSince = some t0 → t0 + 1000000000 ≤ s.clk →
    Answers .ilkFaultClear s (fun t => t.pair.ilkFault = false ∧ t.pair.ilkChanges = [])) ∧
  (∀ (s : State) (t0 : Nat), s.pair.watchdog = some t0 → t0 ≤ s.clk → Answers .roleWatchdogExpiry s (fun t =>
      t.pair.ilkOut = false ∧ t.pair.watchdog = none ∧
      (isStack s = true → t.set.lease = false) ∧
      (isPair s = true → t.pair.role = .standby ∧ t.safe.applied = 0))) ∧
  (∀ (s : State) (t0 : Int), s.pair.takeAt = some t0 → s.pair.ilkOut = true → isFit s = true →
    (s.cyc.running = true → t0 ≤ s.cyc.ts) → t0 ≤ s.time.now → Answers .roleTakeover s (fun t =>
      t.pair.takeAt = none ∧
      (isStack s = false → t.pair.role = .active ∧ t.bridge = { BridgeSt.init with endpoints := s.bridge.endpoints } ∧
        t.pair.sendFull = true ∧ (warmNow s = false → t.skim.forces = [] ∧ t.pair.coldTo = some (cycAdd s.cyc.n 7))))) ∧
  (∀ (s : State), isPair s = true → s.pair.handAt = some s.cyc.n →
    (s.pair.role = .active → Answers .handoverSwitch s (fun t =>
      t.pair.role = .standby ∧ t.pair.ilkOut = false ∧ t.safe.applied = 0 ∧ t.pair.releasing = false)) ∧
    (s.pair.role = .standby → isFit s = true → Answers .handoverSwitch s (fun t =>
      t.pair.role = .active ∧ t.pair.ilkOut = true ∧ t.pair.handAt = none))) ∧
  (∀ (s : State), s.unitNo = 2 → 16 ≤ s.pair.unit1Fit →
    (arrangement s = 1 → s.pair.role = .active →
      exec .switchback s = .next { s with pair := { s.pair with releasing := true } }) ∧
    (arrangement s = 3 → s.pair.hawkHeld = true → Answers .switchback s (fun t =>
      t.pair.hawkHeld = false ∧ t.pair.role = .member ∧ t.safe.applied = 0))) ∧
  (∀ (s : State), isPair s = true → s.pair.ilkFault = true → s.pair.role = .active → leadCommitted s = true → granted s = false →
    Answers .grantExpiry s (fun t => t.pair.role = .standby ∧ t.pair.ilkOut = false ∧ t.safe.applied = 0)) ∧
  (∀ (s : State), isStack s = true → s.pair.hawkHeld = true →
    (6 ≤ cycDiff (gridN s) s.pair.hawkMajority → Answers .hawkFence s (fun t =>
      t.pair.hawkHeld = false ∧ t.pair.role = .member ∧ t.safe.applied = 0)) ∧
    Answers .hawkRelease s (fun t => t.pair.hawkHeld = false ∧ t.pair.hawkAcked = none ∧ t.pair.role = .member)) ∧
  (∀ (s : State) (e : Nat), claimCycle s = some e → e = gridN s ∨ cycBefore e (gridN s) = true → isStack s = true → s.unitNo ≤ 2 →
    s.unplaced = false → s.pair.hawkHeld = false → isFit s = true → s.pair.hawkClaimAt ≠ some (gridN s) →
    Answers .hawkClaim s (fun t => t.pair.hawkClaimAt = some (gridN s) ∧ t.pair.hawkVotes = [s.unitNo] ∧
      t.pair.hawkVoteExpiry = cycAdd (gridN s) 9 ∧ t.pair.hawkAcked = some (s.unitNo, cycAdd (gridN s) 9))) ∧
  (∀ (s : State) (e : Nat), s.pair.hawkClaimAt = some e → gridN s = cycAdd e 1 → s.pair.hawkHeld = false →
    hawkMajorityOf s ≤ s.pair.hawkVotes.length → isFit s = true → Answers .hawkTake s (fun t =>
      t.pair.hawkHeld = true ∧ t.pair.role = .master ∧ t.pair.hawkExpiry = some s.pair.hawkVoteExpiry ∧
      t.pair.hawkMajority = e)) ∧
  (∀ (s : State) (k : Nat), s.pair.coldTo = some k → cycBefore k s.cyc.n = true →
    exec .coldTakeoverEnd s = .next { s with pair := { s.pair with coldTo := none } }) ∧
  (∀ (s : State), 10 ≤ s.pair.gapCycles → exec .gapRepeatEnd s = .next { s with pair := { s.pair with repeatOff := true } })

/-- R191, R352, R365, R368, R453, R476 to R482: presence. -/
def Obligations.PresenceWindowsOpenAndClose : Prop :=
  (∀ (s : State), s.sleep.power = .awake → s.pres.button.fault = false → s.pres.pressed = none → pastReturn s = false →
    Answers .maintButtonPress s (fun t => t.pres.pressed = some s.clk ∧ t.pres.button.active = true ∧
      t.pres.windowEnd = s.pres.windowEnd)) ∧
  (∀ (s : State) (ms t0 : Nat), managing s = true → s.pres.button.fault = false → s.pres.pressed = some t0 →
    Answers (.maintButtonRelease ms) s (fun t => t.pres.pressed = none ∧ t.pres.button.active = false ∧
      t.pres.windowEnd = (if 200 ≤ ms ∧ ms ≤ 10000 then some (s.clk + 120000000000) else s.pres.windowEnd) ∧
      (10000 < ms → t.recorder = (report s 0x0B03 20 ms []).recorder))) ∧
  (∀ (s : State) (t0 : Nat), s.pres.windowEnd = some t0 → t0 ≤ s.clk → Answers .maintWindowClose s (fun t =>
    t.pres = { s.pres with windowEnd := none } ∧
    t.skim.forces = s.skim.forces.filter (fun f => f.windows.any (fun w => (openWindows t.pres).contains w)))) ∧
  (∀ (s : State), managing s = true → s.pres.jumper.fault = false → s.pres.jumperOpen = false →
    Answers .maintJumperFitted s (fun t => t.pres.jumperOpen = true ∧ t.pres.jumper.active = true ∧ 2 ≤ presenceClass t.pres)) ∧
  (∀ (s : State), s.pres.jumperOpen = true → Answers .maintJumperRemoved s (fun t => t.pres.jumperOpen = false ∧
    (∀ f ∈ t.skim.forces, f.windows.any (fun w => (openWindows t.pres).contains w) = true))) ∧
  (∀ (s : State) (a b : Bool), s.sleep.power ≠ .off → Answers (.presenceRawChange a b) s (fun t =>
    t.pres.sealLoop.raw = a ∧ t.pres.debugJumper.raw = b ∧
    ((a = true ∧ s.pres.sealLoop.raw = false) ∨ (b = true ∧ s.pres.debugJumper.raw = false) → t.safe.applied = 0) ∧
    (a = false → s.pres.sealLoop.raw = true → s.pres.sealLoop.active = false → t.safe.hold = true))) ∧
  (∀ (s : State), managing s = true → s.pres.sealLoop.fault = false → s.pres.sealOpen = false →
    Answers .sealOpened s (fun t => t.pres.sealOpen = true ∧ t.pres.sealLoop.active = true ∧ t.safe.applied = 0 ∧
      3 ≤ presenceClass t.pres)) ∧
  (∀ (s : State), s.pres.sealOpen = true → s.pres.sealLoop.active = true → Answers .sealClosed s (fun t =>
    t.pres.sealOpen = false ∧ t.pres.sealLoop.active = false ∧ t.safe.hold = true ∧ t.cmd.transfers = [] ∧
    t.cmd.lapsed = s.cmd.lapsed ++ s.cmd.transfers.map (fun x => (x.kind, x.target, x.owner)))) ∧
  (∀ (s : State), managing s = true → s.pres.debugJumper.fault = false → s.pres.debugOpen = false →
    Answers .debugJumperFitted s (fun t => t.pres.debugOpen = true ∧ t.safe.applied = 0 ∧ presenceClass t.pres = 4)) ∧
  (∀ (s : State), s.pres.debugOpen = true → Answers .debugJumperRemoved s (fun t => t.pres.debugOpen = false ∧
    t.pres.debugJumper.active = false ∧ t.safe.split = none ∧ (s.safe.state = .split → t.safe.state = .scratch))) ∧
  (∀ (s : State), managing s = true →
    (s.pres.button.fault = false → Answers (.presenceInputFault 0) s (fun t => t.pres.button.fault = true ∧
      t.pres.windowEnd = none ∧ t.pres.pressed = none)) ∧
    (s.pres.jumper.fault = false → Answers (.presenceInputFault 1) s (fun t => t.pres.jumper.fault = true ∧
      t.pres.jumperOpen = false)) ∧
    (s.pres.sealLoop.fault = false → Answers (.presenceInputFault 2) s (fun t => t.pres.sealLoop.fault = true ∧
      t.pres.sealOpen = false ∧ t.safe.applied = 0)) ∧
    (s.pres.debugJumper.fault = false → Answers (.presenceInputFault 3) s (fun t => t.pres.debugJumper.fault = true ∧
      t.pres.debugOpen = false ∧ t.safe.applied = 0))) ∧
  (∀ (s : State),
    Answers (.presenceFaultLift 0) s (fun t => t.pres.button.fault = false) ∧
    Answers (.presenceFaultLift 1) s (fun t => t.pres.jumper.fault = false) ∧
    Answers (.presenceFaultLift 2) s (fun t => t.pres.sealLoop.fault = false ∧
      (s.pres.sealLoop.fault = true → s.pres.sealLoop.raw = false → t.safe.hold = true)) ∧
    Answers (.presenceFaultLift 3) s (fun t => t.pres.debugJumper.fault = false))

/-- R331 to R333, R336 to R340, R342, R343, R345, R349, R354. -/
def Obligations.TheComplexReactsToFaults : Prop :=
  (∀ (s : State) (core clock : Nat) (lane : List LaneCmp) (parity : List (BitVec 3)), 1 ≤ core → core ≤ 3 →
    (s.safe.state = .voted → (compareLanes s lane (laneParity lane parity)).1 = .minority core → resyncsOf s core < 2 →
      Answers (.minorityDetected core lane clock parity) s (fun t =>
      t.safe.state = .resync ∧ t.safe.minority = core ∧ t.safe.resyncs = s.safe.resyncs ++ [⟨core, s.clk, trainNow s⟩] ∧
      (s.safe.cores.length = 3 → ∃ c, t.safe.cores[core - 1]? = some c ∧ c.held = true ∧ c.regs = List.replicate 32 0 ∧
        c.tcm = [] ∧ c.ctrl = [] ∧ c.loaded = false ∧ c.cleared = true) ∧
      t.safe.applied = s.safe.applied ∧ t.host.intStatus.getLsbD 7 = true)) ∧
    (s.safe.state = .voted → (compareLanes s lane (laneParity lane parity)).1 = .minority core → 2 ≤ resyncsOf s core → Answers (.minorityDetected core lane clock parity) s (fun t =>
      t.safe.state = .dual ∧ t.safe.failed = core ∧ t.safe.minority = 0)) ∧
    (s.safe.state = .dual → (compareLanes s lane (laneParity lane parity)).1 = .noMajority → core ≠ s.safe.failed → core ≠ s.safe.minority → (recentOf s s.safe.restarts).length < 2 →
      Answers (.minorityDetected core lane clock parity) s (fun t => t.safe.state = .restart ∧ t.safe.applied = 0 ∧
        t.safe.staged = [] ∧ t.safe.hold = true)) ∧
    (s.safe.state = .restart → s.safe.failed = 0 → (voteLanes lane (laneParity lane parity)).1 = .minority core →
      Answers (.minorityDetected core lane clock parity) s (fun t => t.safe.state = .restart ∧ t.safe.failed = core))) ∧
  (∀ (s : State) (clock : Nat) (lane : List LaneCmp) (parity : List (BitVec 3)), safeRuns s = true →
    (compareLanes s lane (laneParity lane parity)).1 = .noMajority → Answers (.noMajority lane clock parity) s (fun t =>
    t.safe.applied = 0 ∧ t.safe.staged = [] ∧ t.skim.results = [] ∧ t.safe.hold = true ∧
    t.safe.state = (if 3 ≤ (recentOf s s.safe.restarts).length + 1 then .halted else .restart))) ∧
  (∀ (s : State) (clock : Nat) (lane : List LaneCmp), s.safe.state = .voted → (compareLanes s lane (laneParity lane [])).1 = .fault → Answers (.comparatorFault lane clock) s (fun t =>
    t.safe.applied = 0 ∧ t.safe.compFaultBit = true ∧
    t.safe.state = (if 2 ≤ (recentOf s s.safe.compFaults).length + 1 then .halted else .scratch))) ∧
  (∀ (s : State) (c : SafeCycle), s.safe.cycle = some c → safeRuns s = true → s.safe.split = none →
    Answers .checkpointWriteComplete s (fun t => t.safe.cycle = none ∧ t.safe.terms = c.terms ∧
      (∃ k : Checkpoint, k.skim = c.n ∧ k.time = s.time.now ∧ k.terms = c.terms ∧ k.valid = true ∧
        (if c.n % 2 = 0 then t.safe.slot0 = some k ∧ t.safe.slot1 = s.safe.slot1
         else t.safe.slot1 = some k ∧ t.safe.slot0 = s.safe.slot0)) ∧
      (s.safe.table.isSome = true → ∃ x ∈ t.safe.staged, x.n = c.n) ∧
      (s.safe.hold = true → s.safe.release = none → c.clean = true → holdCause s = false → t.safe.release = some c.n) ∧
      (c.clean = false → t.safe.release = s.safe.release))) ∧
  (∀ (s : State), s.safe.state = .resync → s.safe.resyncing = true →
    Answers (.resyncComplete true) s (fun t => t.safe.state = .voted ∧ t.safe.minority = 0 ∧ t.safe.resyncing = false ∧
      (s.safe.failed = 0 → t.safe.cores = s.safe.cores.map (loadCore (latestCheckpoint s)))) ∧
    Answers (.resyncComplete false) s (fun t => t.safe.state = .dual ∧ t.safe.failed = s.safe.minority)) ∧
  (∀ (s : State), s.safe.state = .restart → Answers .restartComplete s (fun t =>
    t.safe.state = (if s.safe.failed = 0 then .voted else .dual) ∧
    (s.safe.cycle = none → t.safe.terms = (latestCheckpoint s).elim [] (·.terms) ∧ t.safe.cycle = none) ∧
    (∀ c r, s.safe.cycle = some c → s.skim.retained.find? (fun r => r.desc.skim == c.n) = some r →
      t.safe.cycleAt = c.n ∧ t.safe.cycle.elim 0 (·.n) = c.n))) ∧
  (∀ (s : State), s.safe.state = .scratch → managing s = true →
    Answers (.scratchTestComplete 0) s (fun t => t.safe.state = (if s.safe.failed = 0 then .voted else .dual) ∧
      t.safe.terms = [] ∧ t.safe.scratchFail = false ∧ t.safe.pendingTable = none ∧
      t.safe.table = (if s.safe.pendingTable.isSome then s.safe.pendingTable else s.safe.table)) ∧
    (∀ b : BitVec 8, b ≠ 0 → Answers (.scratchTestComplete b) s (fun t => t.safe.state = .halted ∧ t.safe.scratchFail = true ∧
      t.safe.scratchResult = b.toNat ∧ t.safe.table = s.safe.table ∧ t.safe.applied = 0))) ∧
  (∀ (s : State) (core a : Nat) (c : CoreSt), 1 ≤ core → core ≤ 3 → s.safe.cores[core - 1]? = some c →
    Answers (.tcmScrub core a 1) s (fun t => t.safe.cores[core - 1]? = some { c with corrected := count32 c.corrected } ∧
      t.safe.state = s.safe.state) ∧
    exec (.tcmScrub core a 2) s = exec (.minorityDetected core (trapLanes core) (cycleClocks s) []) s)

/-- R363, R364, R366, R367, R524, R525: safety I/O. -/
def Obligations.SafetyInputsAndOutputsAreSupervised : Prop :=
  (∀ (s : State) (k : Nat), 1 ≤ k → k ≤ 16 → s.safe.hvFault.getLsbD (k - 1) = false →
    Answers (.inputComparatorDisagree k) s (fun t => t.safe.hvFault.getLsbD (k - 1) = true ∧
      (∀ j, j ≠ k - 1 → t.safe.hvFault.getLsbD j = s.safe.hvFault.getLsbD j) ∧
      (k = cabInput s → t.set.cabActive = false) ∧ (k ≠ cabInput s → t.set = s.set) ∧
      t.recorder = (report s 0x0805 14 k []).recorder)) ∧
  (∀ (s : State) (k : Nat), 1 ≤ k → k ≤ 16 → Answers (.inputFaultClear k) s (fun t =>
    t.safe.hvFault.getLsbD (k - 1) = false ∧ (∀ j, j ≠ k - 1 → t.safe.hvFault.getLsbD j = s.safe.hvFault.getLsbD j))) ∧
  (∀ (s : State) (k : Nat), 1 ≤ k → k ≤ 8 → s.safe.applied.getLsbD (k - 1) = true →
    s.safe.pulseAt.getD (k - 1) 0 + 10000000000 ≤ s.clk →
    Answers (.outputPulseTest k true) s (fun t => t.safe.applied = s.safe.applied ∧ t.safe.safeOffFault = s.safe.safeOffFault) ∧
    (feedLow s k = false → Answers (.outputPulseTest k false) s (fun t => t.safe.applied = 0 ∧
      t.safe.safeOffFault.getLsbD (k - 1) = true)) ∧
    (feedLow s k = true → Answers (.outputPulseTest k false) s (fun t => t.safe.safeOffFault = s.safe.safeOffFault ∧
      t.safe.applied = s.safe.applied))) ∧
  (∀ (s : State) (k : Nat), 1 ≤ k → k ≤ 8 → s.safe.applied.getLsbD (k - 1) = true →
    Answers (.currentLimitExpiry k) s (fun t => t.safe.chFault.getLsbD (k - 1) = true ∧ t.safe.applied.getLsbD (k - 1) = false ∧
      (∀ j, j ≠ k - 1 → t.safe.applied.getLsbD j = s.safe.applied.getLsbD j))) ∧
  (∀ (s : State), exec (.outputFeedLow 1) s = .next { s with start := { s.start with feed1Low := true } } ∧
    exec (.outputFeedLow 2) s = .next { s with start := { s.start with feed2Low := true } } ∧
    exec (.outputFeedRecovered 1) s = .next { s with start := { s.start with feed1Low := false } } ∧
    exec (.outputFeedRecovered 2) s = .next { s with start := { s.start with feed2Low := false } })

/-- R290, R293 to R297: MVB buses. -/
def Obligations.MvbBusesRun : Prop :=
  (∀ (s : State) (p k : Nat), (sportCfg s p).mode = 1 → (sportCfg s p).pairB = false → basicIndex s (sportCfg s p) = (k : Int) →
    (sport s p).polled = none →
    ((sport s p).basic = k + 1 → exec (.mvbBasicPeriod p) s = .next s) ∧
    ((sport s p).basic ≠ k + 1 → (sportCfg s p).devices = [] → Answers (.mvbBasicPeriod p) s (fun t =>
      t.out = s.out ++ mvbPoll s p k ∧ (sport t p).basic = k + 1 ∧ (sport t p).polled = none)) ∧
    (∀ d, (sport s p).basic ≠ k + 1 →
      (sportCfg s p).devices[(sport s p).nextDevice % (sportCfg s p).devices.length]? = some d →
      Answers (.mvbBasicPeriod p) s (fun t => t.out = s.out ++ mvbPoll s p k ++ [.mvbMaster p 15 d.addr] ∧
        (sport t p).polled = some d.addr ∧ (sport t p).basic = k + 1))) ∧
  (∀ (s : State) (p f a : Nat), (sportCfg s p).mode = 2 → (sportCfg s p).pairB = false →
    Answers (.mvbMasterFrameReceived p f a false) s (fun t => t.out = s.out ∧ (sport t p).port = (sport s p).port.mark 3) ∧
    Answers (.mvbMasterFrameReceived p 15 (sportCfg s p).deviceAddr true) s (fun t =>
      t.out = s.out ++ [.mvbSlave p (sportCfg s p).deviceAddr (be 2 (sportCfg s p).deviceStatus)] ∧ (sport t p).frameAt = some s.clk) ∧
    (∀ x, f ≤ 4 → mvbPort s p a = some x → x.source = true → x.fcode = f → Answers (.mvbMasterFrameReceived p f a true) s (fun t =>
      t.out = s.out ++ [.mvbSlave p a (mvbData s p x)] ∧ (sport t p).frameAt = some s.clk))) ∧
  (∀ (s : State) (p : Nat) (m : MvbIn), mvbMode s p = true →
    (m.missing = true → m.fcode ≠ 15 → Answers (.mvbSlaveFrameReceived p m) s (fun t =>
      sport t p = { sport s p with port := (sport s p).port.mark 6 } ∧ t.route = s.route)) ∧
    (m.missing = false → (m.inWindow = false ∨ m.short = true ∨ m.long = true ∨ m.checkBad = true) →
      Answers (.mvbSlaveFrameReceived p m) s (fun t =>
        sport t p = { sport s p with port := (sport s p).port.mark (if m.inWindow = false then 6 else if m.short then 0 else if m.long then 1 else 2) } ∧ t.route = s.route)) ∧
    (∀ x, m.missing = false → m.inWindow = true → m.short = false → m.long = false → m.checkBad = false → m.fcode ≠ 15 →
      mvbPort s p m.addr = some x → x.sink = true → x.fcode = m.fcode → Answers (.mvbSlaveFrameReceived p m) s (fun t =>
        ImageNow s t (mvbKey s p m.addr) (fit m.data (2 * 2 ^ x.fcode)) ∧
        (sport t p).frameAt = some s.clk ∧ (sport t p).lineB = m.lineB ∧
        Tab.get? (sport t p).sinkAt m.addr = some s.time.now)) ∧
    (m.missing = false → m.inWindow = true → m.short = false → m.long = false → m.checkBad = false → m.fcode ≠ 15 →
      mvbPort s p m.addr = none → mvbRouted s p m.addr m.fcode = false → Answers (.mvbSlaveFrameReceived p m) s (fun t => t.route = s.route ∧
        (sport t p).port = (((sport s p).port.countGood).setUp true).mark 5)))

/-- R302 to R307: CAN ports. -/
def Obligations.CanBusesRun : Prop :=
  (∀ (s : State) (c : Nat), (canCfg s c).enabled = true → (canPort s c).started = false → Answers (.canPortStart c) s (fun t =>
    (canPort t c).started = true ∧ (canPort t c).state = 0 ∧
    (∀ node, (canNode s c node).isSome = true → (nodeSt t c node).phase = .boot ∧ (nodeSt t c node).since = s.clk) ∧
    (portLocked s (8 + c) = false → t.out = s.out ++ [.can c ⟨0, false, be 1 0x82 ++ be 1 0, false, false, false⟩]))) ∧
  (∀ (s : State) (c : Nat) (m : CanIn), (canCfg s c).enabled = true → (canPort s c).started = true → (canPort s c).state ≠ 2 →
    (m.error = true → Answers (.canFrameReceived c m) s (fun t => (canPort t c).state = (canPort s c).state ∧
      (canPort t c).inbox = (canPort s c).inbox ∧ (canPort t c).port = (canPort s c).port.mark 2)) ∧
    (m.error = false → 8 < m.dlc → Answers (.canFrameReceived c m) s (fun t =>
      (canPort t c).inbox = (canPort s c).inbox ∧ (canPort t c).port = (canPort s c).port.mark 1)) ∧
    (m.error = false → m.dlc ≤ 8 → (inPdo s c m.ident).isSome = true → Answers (.canFrameReceived c m) s (fun t =>
      (canPort t c).inbox = (canPort s c).inbox ++ [m] ∧ (canPort t c).port = (canPort s c).port.countGood)) ∧
    (m.error = false → m.dlc ≤ 8 → inPdo s c m.ident = none → canNode s c (m.ident % 128) = none →
      sdoBusy s c (m.ident % 128) = false → s.route.table = none →
      Answers (.canFrameReceived c m) s (fun t =>
        (canPort t c).inbox = (canPort s c).inbox ∧ (canPort t c).port = ((canPort s c).port.countGood).mark 5))) ∧
  (∀ (s : State) (c cob : Nat) (x : InPdo) (m : CanIn), m ∈ (canPort s c).inbox → m.ident = cob → inPdo s c cob = some x →
    Answers (.pdoReceived c cob m.data) s (fun t => Tab.get? (canPort t c).pdoAt cob = some s.time.now ∧
      (canPort t c).inbox.length + 1 = (canPort s c).inbox.length ∧
      ImageNow s t (pdoKey s c x.node cob) m.data)) ∧
  (∀ (s : State) (c node state : Nat) (m : CanIn), m ∈ (canPort s c).inbox → m.ident = 0x700 + node →
    field m.data 0 1 % 128 = state →
    (state = 5 → (nodeSt s c node).phase ≠ .boot → (nodeSt s c node).phase ≠ .config →
      Answers (.heartbeatReceived c node state) s (fun t =>
        (nodeSt t c node).phase = .operational ∧ (nodeSt t c node).heard = s.clk)) ∧
    (state ≠ 0 → state ≠ 5 → (nodeSt s c node).phase ≠ .boot → (nodeSt s c node).phase ≠ .config → Answers (.heartbeatReceived c node state) s (fun t =>
      (nodeSt t c node).phase = (if state = 0x7F then .boot else .missing) ∧ (nodeSt t c node).heard = s.clk)) ∧
    (∀ n, state = 0 → canNode s c node = some n → sdoBusy s c node = false → Answers (.heartbeatReceived c node state) s (fun t =>
      if n.downloads = [] then (nodeSt t c node).phase = .started
      else (nodeSt t c node).phase = .config ∧ sdoBusy t c node = true))) ∧
  (∀ (s : State) (c node : Nat) (n : CanNode), canNode s c node = some n →
    ((nodeSt s c node).phase = .operational → (nodeSt s c node).heard + n.consumer * 1000000 ≤ s.clk →
      Answers (.heartbeatTimeout c node) s (fun t => nodeSt t c node = { nodeSt s c node with phase := .missing })) ∧
    (s.clk < (nodeSt s c node).heard + n.consumer * 1000000 → exec (.heartbeatTimeout c node) s = .next s) ∧
    ((canPort s c).started = true → (nodeSt s c node).phase = .boot →
      (nodeSt s c node).since + (canCfg s c).bootWait * 1000000 ≤ s.clk → Answers (.bootWaitExpiry c node) s (fun t =>
        (nodeSt t c node).phase = .boot ∧ (nodeSt t c node).since = s.clk ∧ (nodeSt t c node).step = 0 ∧
        ((canCfg s c).enabled = true → (canPort s c).state ≠ 2 → portLocked s (8 + c) = false →
          t.out = s.out ++ [.can c ⟨0, false, be 1 0x82 ++ be 1 node, false, false, false⟩]))) ∧
    (s.clk < (nodeSt s c node).since + (canCfg s c).bootWait * 1000000 → exec (.bootWaitExpiry c node) s = .next s)) ∧
  (∀ (s : State) (c node : Nat) (x : Sdo) (m : CanIn),
    (canPort s c).inbox.find? (fun y => y.ident == 0x580 + node && y.data == m.data) = some m →
    (canPort s c).sdos.find? (fun y => y.node == node) = some x → ∀ u, u = setCan s c (fun p => { p with inbox := dropOne m p.inbox }) →
    (field m.data 0 1 = 0x80 → bslice m.data 1 3 = sdoMux x → exec (.sdoResponseReceived c node m.data) s =
      .next (endSdo u c x (.error (beNat (bslice m.data 4 4).reverse)))) ∧
    (x.write = true → x.segmented = false → field m.data 0 1 = 0x60 → bslice m.data 1 3 = sdoMux x →
      exec (.sdoResponseReceived c node m.data) s = .next (endSdo u c x (.ok []))) ∧
    (x.write = false → x.segmented = false → field m.data 0 1 = 0x43 → bslice m.data 1 3 = sdoMux x →
      exec (.sdoResponseReceived c node m.data) s = .next (endSdo u c x (.ok (bslice m.data 4 4))))) ∧
  (∀ (s : State) (c node : Nat) (x : Sdo), (canPort s c).sdos.find? (fun y => y.node == node) = some x →
    exec (.sdoTimeout c node) s = .next (if x.until_ ≤ s.clk then endSdo s c x .timeout else s)) ∧
  (∀ (s : State) (c node : Nat) (m : CanIn),
    (canPort s c).inbox.find? (fun y => y.ident == 0x080 + node && y.data == m.data) = some m →
    exec (.emcyReceived c node m.data) s = .next (raiseKey (setCan s c (fun p => { p with inbox := dropOne m p.inbox }))
      (fun e => rDomain e == 5 && rUnit e + 1 == s.unitNo && rAddr e 0 1 == c && rAddr e 1 1 == node)
      1 (c * 2 ^ 24 + node * 65536 + beNat (bslice m.data 0 2).reverse) (fit m.data 8))) ∧
  (∀ (s : State) (c : Nat), (canCfg s c).enabled = true → (canPort s c).started = true → (canPort s c).state ≠ 2 →
    ((canCfg s c).sync = true → s.cyc.running = true → gridN s % (canCfg s c).syncPeriod = 0 →
      (canPort s c).syncAt ≠ some (gridN s) → gridTs s + (canCfg s c).syncOffset * 1000 ≤ s.time.now →
      Answers (.syncProduce c) s (fun t => (canPort t c).syncAt = some (gridN s) ∧
        ((canCfg s c).syncOverflow = 0 → t.out = s.out ++ [.can c ⟨(canCfg s c).syncCob, false, [], false, true, false⟩]) ∧
        (2 ≤ (canCfg s c).syncOverflow → t.out = s.out ++ [.can c ⟨(canCfg s c).syncCob, false,
          be 1 ((canPort s c).syncCount % (canCfg s c).syncOverflow + 1), false, true, false⟩]))) ∧
    ((canCfg s c).ownNode ≠ 0 → (canPort s c).beatAt + (canCfg s c).heartbeat * 1000000 ≤ s.clk →
      Answers (.heartbeatProduce c) s (fun t => (canPort t c).beatAt = s.clk ∧
        t.out = s.out ++ [.can c ⟨0x700 + (canCfg s c).ownNode, false, be 1 5, false, true, false⟩])) ∧
    Answers (.canBusOff c) s (fun t => (canPort t c).state = 2 ∧ (canPort t c).busOff = min 255 ((canPort s c).busOff + 1) ∧
      (canPort t c).queue = (canPort s c).queue ∧ t.recorder = (report s 0x0703 13 c []).recorder)) ∧
  (∀ (s : State) (c : Nat), (canPort s c).state = 2 →
    ((∀ k, (canPort s c).recoveredAt = some k → k + 100000000 ≤ s.clk) → Answers (.busOffRecovery c) s (fun t =>
      (canPort t c).state = 0 ∧ (canPort t c).tec = 0 ∧ (canPort t c).rec_ = 0 ∧ (canPort t c).recoveredAt = some s.clk ∧
      (portLocked s (8 + c) = false → (canPort t c).queue = (canPort s c).queue.filter (·.grouped) ∧
        t.out = s.out ++ ((canPort s c).queue.filter (fun m => !m.grouped)).map (Out.can c)))) ∧
    (∀ k, (canPort s c).recoveredAt = some k → s.clk < k + 100000000 → exec (.busOffRecovery c) s = .next s))

/-- R311 to R313: the instructions that act on the work registers. C after a logic or shift instruction is free. -/
def Obligations.FloatInstructionsCompute : Prop :=
  ∀ (s : State) (k : Nat) (w : Word32), floatAt s k w → ∀ f a b, f = floatOf s k → a = fReg f (wA w) → b = fReg f (wB w) →
  (wOp w = 0x00 → FloatNext (.fNop k) s k f.regs f.z f.n f.c (f.pc + 1) f.data) ∧
  (wOp w = 0x01 → FloatNext (.fLdi k) s k (f.regs.set (wA w) (BitVec.ofNat 32 (wImm w))) f.z f.n f.c (f.pc + 1) f.data) ∧
  (wOp w = 0x02 → FloatNext (.fLdh k) s k (f.regs.set (wA w) (BitVec.ofNat 16 (wImm w) ++ a.setWidth 16)) f.z f.n f.c (f.pc + 1) f.data) ∧
  (wOp w = 0x03 → FloatNext (.fMov k) s k (f.regs.set (wA w) b) f.z f.n f.c (f.pc + 1) f.data) ∧
  (wOp w = 0x04 → FloatNext (.fAdd k) s k (f.regs.set (wA w) (a + b)) (a + b == 0) (a + b).msb
    (decide (2 ^ 32 ≤ a.toNat + b.toNat)) (f.pc + 1) f.data) ∧
  (∀ y, wOp w = 0x05 → y = BitVec.signExtend 32 (BitVec.ofNat 16 (wImm w)) → FloatNext (.fAddi k) s k
    (f.regs.set (wA w) (a + y)) (a + y == 0) (a + y).msb (decide (2 ^ 32 ≤ a.toNat + y.toNat)) (f.pc + 1) f.data) ∧
  (wOp w = 0x06 → FloatNext (.fSub k) s k (f.regs.set (wA w) (a - b)) (a - b == 0) (a - b).msb
    (decide (a.toNat < b.toNat)) (f.pc + 1) f.data) ∧
  (wOp w = 0x07 → ∃ c, FloatNext (.fAnd k) s k (f.regs.set (wA w) (a &&& b)) (a &&& b == 0) (a &&& b).msb c (f.pc + 1) f.data) ∧
  (wOp w = 0x08 → ∃ c, FloatNext (.fOr k) s k (f.regs.set (wA w) (a ||| b)) (a ||| b == 0) (a ||| b).msb c (f.pc + 1) f.data) ∧
  (wOp w = 0x09 → ∃ c, FloatNext (.fXor k) s k (f.regs.set (wA w) (a ^^^ b)) (a ^^^ b == 0) (a ^^^ b).msb c (f.pc + 1) f.data) ∧
  (∀ v, wOp w = 0x0A → v = a <<< (wImm w % 32) → ∃ c, FloatNext (.fShl k) s k (f.regs.set (wA w) v) (v == 0) v.msb c (f.pc + 1) f.data) ∧
  (∀ v, wOp w = 0x0B → v = a >>> (wImm w % 32) → ∃ c, FloatNext (.fShr k) s k (f.regs.set (wA w) v) (v == 0) v.msb c (f.pc + 1) f.data) ∧
  (wOp w = 0x10 → FloatNext (.fCmp k) s k f.regs (a - b == 0) (a - b).msb (decide (a.toNat < b.toNat)) (f.pc + 1) f.data) ∧
  (∀ y, wOp w = 0x11 → y = BitVec.ofNat 32 (wImm w) → FloatNext (.fCmpi k) s k f.regs (a - y == 0) (a - y).msb
    (decide (a.toNat < y.toNat)) (f.pc + 1) f.data) ∧
  (wOp w = 0x29 → FloatNext (.fCrc k) s k
    (f.regs.set (wA w) (BitVec.ofNat 32 (fCrcOf (wImm w) a.toNat (b.setWidth 8)))) f.z f.n f.c (f.pc + 1) f.data) ∧
  (wOp w = 0x2B → FloatNext (.fTime k) s k ((f.regs.set (wA w) (BitVec.ofNat 32 (time64 s.time.now / 2 ^ 32))).set (wA w + 1)
    (BitVec.ofNat 32 (time64 s.time.now))) f.z f.n f.c (f.pc + 1) f.data) ∧
  (wOp w = 0x30 → FloatNext (.fBr k) s k f.regs f.z f.n f.c (if fHolds (wSub w) f then wTarget w else f.pc + 1) f.data) ∧
  (wOp w = 0x31 → FloatNext (.fLoop k) s k (f.regs.set (wA w) (a - 1)) f.z f.n f.c
    (if a - 1 ≠ 0 ∧ Tab.getD f.passes f.pc 0 + 1 < wLimit w then wTarget w else f.pc + 1) f.data)

/-- R311, R313 to R315, R317, R318, R320, R322: the other float instructions. -/
def Obligations.FloatMemoryEventsAndTransactionsWork : Prop :=
  (∀ (s : State) (k : Nat) (w : Word32), floatAt s k w → ∀ f a x, f = floatOf s k → a = fReg f (wA w) → x = fAddr w f →
    (wOp w = 0x0C → x % 4 = 0 → x + 4 ≤ 0x4000 → FloatNext (.fLd k) s k
      (f.regs.set (wA w) (BitVec.ofNat 32 (beNat (Mem.readN f.data x 4)))) f.z f.n f.c (f.pc + 1) f.data) ∧
    (wOp w = 0x0D → x % 4 = 0 → x + 4 ≤ 0x4000 → FloatNext (.fSt k) s k f.regs f.z f.n f.c (f.pc + 1)
      (Mem.writeN f.data x (be 4 a.toNat))) ∧
    (wOp w = 0x0E → x + 1 ≤ 0x4000 → FloatNext (.fLdb k) s k (f.regs.set (wA w) ((Mem.read f.data x).setWidth 32)) f.z f.n f.c (f.pc + 1) f.data) ∧
    (wOp w = 0x0F → x + 1 ≤ 0x4000 → FloatNext (.fStb k) s k f.regs f.z f.n f.c (f.pc + 1) (Mem.write f.data x (a.setWidth 8))) ∧
    (wOp w = 0x20 → Answers (.fTmr k) s (fun t => (∃ e, (floatOf t k).timer = some e ∧ s.clk + a.toNat ≤ e ∧ e < s.clk + a.toNat + 13) ∧
      (floatOf t k).events % 2 = 0 ∧ (floatOf t k).pc = f.pc + 1 ∧ (floatOf t k).regs = f.regs)) ∧
    (wOp w = 0x21 → Answers (.fTta k) s (fun t => (floatOf t k).tta = some (fPair w f : Int) ∧ (floatOf t k).regs = f.regs)) ∧
    (wOp w = 0x22 → Answers (.fPta k) s (fun t => (floatOf t k).pta = some (signed64 (fPair w f), wImm w) ∧
      (floatOf t k).regs = f.regs)) ∧
    (∀ p, wOp w = 0x23 → p = Nat.land (floatPresent f) (wImm w % 256) →
      (p = 0 → Answers (.fWait k) s (fun t => (floatOf t k).waiting = some (wImm w, wA w) ∧ (floatOf t k).regs = f.regs)) ∧
      (p ≠ 0 → Answers (.fWait k) s (fun t => (floatOf t k).waiting = none ∧ (floatOf t k).steps = 0 ∧
        (floatOf t k).events = f.events - Nat.land f.events p ∧ (floatOf t k).regs = f.regs.set (wA w)
          (BitVec.ofNat 32 (p + 256 * b2n ((bitOf p 5 && f.steppedT) || (bitOf p 6 && f.steppedP))))))) ∧
    (wOp w = 0x24 →
      (∀ v l, wImm w % 256 = 0 → f.rx = v :: l → Answers (.fIn k) s (fun t => (floatOf t k).rx = l ∧
        (floatOf t k).regs = f.regs.set (wA w) (BitVec.ofNat 32 v))) ∧
      (wImm w % 256 = 0 → f.rx = [] → FloatNext (.fIn k) s k (f.regs.set (wA w) 0) f.z f.n f.c (f.pc + 1) f.data) ∧
      (wImm w % 256 = 1 → FloatNext (.fIn k) s k (f.regs.set (wA w) (BitVec.ofNat 32 f.rx.length)) f.z f.n f.c (f.pc + 1) f.data) ∧
      (wImm w % 256 = 3 → f.tx = [] → FloatNext (.fIn k) s k (f.regs.set (wA w) 64) f.z f.n f.c (f.pc + 1) f.data) ∧
      (wImm w % 256 = 5 → FloatNext (.fIn k) s k (f.regs.set (wA w) (BitVec.ofNat 32 f.silence)) f.z f.n f.c (f.pc + 1) f.data) ∧
      (wImm w % 256 = 6 → FloatNext (.fIn k) s k (f.regs.set (wA w) (BitVec.ofNat 32 (sportCfg s (k - 5)).timeout)) f.z f.n f.c (f.pc + 1) f.data)) ∧
    (wOp w = 0x25 →
      (wImm w = 2 → f.tx.length < 64 → f.lineCtrl % 2 = 1 → (sport s (k - 5)).sentBytes < 1024 → Answers (.fOut k) s (fun t =>
        t.out = s.out ++ [.serial (k - 5) (onLine (sportCfg s (k - 5)) (a.setWidth 8))] ∧
        (floatOf t k).tx.getLast? = some (a.setWidth 8) ∧ (sport t (k - 5)).sentBytes = (sport s (k - 5)).sentBytes + 1)) ∧
      (wImm w = 4 → Answers (.fOut k) s (fun t => (floatOf t k).lineCtrl = a.toNat % 2 ∧ t.out = s.out ∧
        (floatOf t k).rx = (if a.getLsbD 1 then [] else f.rx))) ∧
      (wImm w = 5 → a.toNat % 65536 ≠ 0 → Answers (.fOut k) s (fun t => (floatOf t k).silence = a.toNat % 65536 ∧ t.out = s.out))) ∧
    (∀ x, f.txn = some x →
      (wOp w = 0x26 → wImm w = 0 → FloatNext (.fTget k) s k (f.regs.set (wA w) (BitVec.ofNat 32 x.kind)) f.z f.n f.c (f.pc + 1) f.data) ∧
      (wOp w = 0x26 → wImm w = 3 → FloatNext (.fTget k) s k (f.regs.set (wA w) (BitVec.ofNat 32 x.reg)) f.z f.n f.c (f.pc + 1) f.data) ∧
      (wOp w = 0x26 → wImm w = 5 → FloatNext (.fTget k) s k (f.regs.set (wA w) (BitVec.ofNat 32 (field f.txnData 0 (dataPart x 5)))) f.z f.n f.c (f.pc + 1) f.data) ∧
      (wOp w = 0x27 → wImm w = 5 → Answers (.fTput k) s (fun t => (floatOf t k).txnData = splice f.txnData 0 (be (dataPart x 5) a.toNat) ∧
        (floatOf t k).regs = f.regs ∧ (floatOf t k).pc = f.pc + 1)) ∧
      (wOp w = 0x28 → Answers (.fTend k) s (fun t => (floatOf t k).txn = none ∧ (floatOf t k).pc = f.pc + 1 ∧
        (floatOf t k).regs = f.regs)))) ∧
  (∀ (s : State) (k : Nat) (w : Word32), floatAt s k w → ∀ f i, f = floatOf s k →
    ((i = .fLd k ∧ wOp w = 0x0C ∨ i = .fSt k ∧ wOp w = 0x0D) ∧ fAddr w f % 4 ≠ 0 ∨
     i = .fFault k ∧ wOp w = 0x2A ∨
     (i = .fTget k ∧ wOp w = 0x26 ∨ i = .fTput k ∧ wOp w = 0x27 ∨ i = .fTend k ∧ wOp w = 0x28) ∧ f.txn = none ∨
     i = .fOut k ∧ wOp w = 0x25 ∧ wImm w = 2 ∧ 64 ≤ (txLeft (floatEnv s k) f).length) →
    Answers i s (fun t => (floatOf t k).running = false ∧ (floatOf t k).stoppedAt = some s.clk ∧ (floatOf t k).txn = none)) ∧
  (∀ (s : State) (k : Nat) (w : Word32), 6 ≤ k → k ≤ 11 → (floatOf s k).running = true → (floatOf s k).waiting = none →
    (floatOf s k).prog.bind (fun p => p.code[(floatOf s k).pc]?) = some w → 1024 ≤ (floatOf s k).steps → wOp w = 0x04 →
    Answers (.fAdd k) s (fun t => (floatOf t k).running = false ∧ (floatOf t k).stoppedAt = some s.clk)) ∧
  (∀ (s : State) (k : Nat), (floatOf s k).waiting.isSome = true → exec (.fNop k) s = .next s ∧ exec (.fOut k) s = .next s)

/-- R290, R299, R311, R314, R316 to R318, R322, R324: floats and serial ports. -/
def Obligations.FloatsAndSerialPortsRun : Prop :=
  (∀ (s : State) (k e : Nat) (p : Program), (floatOf s k).stoppedAt = some e → (floatOf s k).prog = some p →
    (e + 1000000000 ≤ s.clk → (floatOf s k).faults.length < 3 → Answers (.floatRestart k) s (fun t =>
      (floatOf t k).running = true ∧ (floatOf t k).pc = p.entry ∧ (floatOf t k).regs = List.replicate 8 0 ∧
      (floatOf t k).events = 0 ∧ (floatOf t k).z = false ∧ (floatOf t k).n = false ∧ (floatOf t k).c = false ∧
      (floatOf t k).data = Mem.writeN [] 0 p.init ∧ (floatOf t k).faults = (floatOf s k).faults)) ∧
    (s.clk < e + 1000000000 ∨ 3 ≤ (floatOf s k).faults.length → exec (.floatRestart k) s = .next s)) ∧
  (∀ (s : State) (k e : Nat), (floatOf s k).timer = some e → e ≤ s.clk → (floatOf s k).running = true →
    (floatOf s k).waiting = none → Answers (.floatTimerExpiry k) s (fun t => (floatOf t k).timer = none ∧
      bitOf (floatOf t k).events 0 = true)) ∧
  (∀ (s : State) (k e r : Nat), (floatOf s k).timer = some e → e ≤ s.clk → (floatOf s k).running = true →
    (floatOf s k).waiting = some (1, r) → Answers (.floatTimerExpiry k) s (fun t => (floatOf t k).timer = none ∧
      (floatOf t k).waiting = none ∧ (floatOf t k).steps = 0 ∧ bitOf (floatOf t k).events 0 = false ∧
      (floatOf t k).regs = (floatOf s k).regs.set r 1)) ∧
  (∀ (s : State) (p e : Nat), (floatOf s (portFloat p)).byteAt = some e → (floatOf s (portFloat p)).running = true →
    (floatOf s (portFloat p)).waiting = none →
    (e + (floatOf s (portFloat p)).silence * (sportCfg s p).bitNs ≤ s.clk → Answers (.lineSilence p) s (fun t =>
      bitOf (floatOf t (portFloat p)).events 1 = true ∧ (floatOf t (portFloat p)).byteAt = none ∧ (sport t p).frameBytes = 0)) ∧
    (s.clk < e + (floatOf s (portFloat p)).silence * (sportCfg s p).bitNs → exec (.lineSilence p) s = .next s)) ∧
  (∀ (s : State) (p : Nat) (b : Byte) (pe fe : Bool), (sportCfg s p).mode = 3 → (floatOf s (portFloat p)).waiting = none →
    ((floatOf s (portFloat p)).rx.length < 64 → Answers (.serialByteReceived p b pe fe) s (fun t =>
      (floatOf t (portFloat p)).rx = (floatOf s (portFloat p)).rx ++ [(onLine (sportCfg s p) b).toNat + 256 + 512 * b2n pe + 1024 * b2n fe +
        2048 * b2n (floatOf s (portFloat p)).overrun] ∧ (floatOf t (portFloat p)).overrun = false ∧
      (floatOf t (portFloat p)).byteAt = some s.clk)) ∧
    (64 ≤ (floatOf s (portFloat p)).rx.length → Answers (.serialByteReceived p b pe fe) s (fun t =>
      (floatOf t (portFloat p)).rx = (floatOf s (portFloat p)).rx ∧ (floatOf t (portFloat p)).overrun = true))) ∧
  (∀ (s : State) (p : Nat), (floatOf s (portFloat p)).tx ≠ [] → (floatOf s (portFloat p)).txAt +
      (floatOf s (portFloat p)).tx.length * ((sportCfg s p).bitNs * (sportCfg s p).charBits) ≤ s.clk →
    Answers (.transmitDrained p) s (fun t => (floatOf t (portFloat p)).tx = [])) ∧
  (∀ (s : State) (k : Nat) (e : Int), (floatOf s k).tta = some e → (floatOf s k).running = true → (floatOf s k).waiting = none →
    (e ≤ s.time.now → Answers (.trainTimeTargetReached k) s (fun t => (floatOf t k).tta = none ∧
      bitOf (floatOf t k).events 5 = true)) ∧
    (s.time.now < e → exec (.trainTimeTargetReached k) s = .next s)) ∧
  (∀ (s : State) (p : Nat) (x : Program), p < 16 → (floatOf s (portFloat p)).staged = some x →
    (busStart s p = true → (sport s p).held = none → Answers (.programTakeForce p) s (fun t => (floatOf t (portFloat p)).prog = some x ∧
      (floatOf t (portFloat p)).running = true ∧ (floatOf t (portFloat p)).pc = x.entry ∧ (floatOf t (portFloat p)).staged = none ∧
      (floatOf t (portFloat p)).faults = [] ∧ t.recorder = (report s 0x0704 13 x.version (be 4 x.id)).recorder)) ∧
    (busStart s p = false ∨ (sport s p).held.isSome = true → exec (.programTakeForce p) s = .next s)) ∧
  (∀ (s : State) (k : Nat) (x : Program), Tab.get? s.fld.stagedProfiles k = some x →
    Answers (.programTakeForce (16 + k)) s (fun t => Tab.get? t.fld.profiles k = some x ∧
      t.recorder = (report s 0x0704 12 x.version (be 4 x.id)).recorder)) ∧
  (∀ (s : State) (p n : Nat) (outs : List StagedOut), s.skim.applied = some (n, outs) → (sportCfg s p).mode = 3 →
    s.pair.repeatOff = false → n % (sportCfg s p).period = (sportCfg s p).phase → (sport s p).lastCycle ≠ some n →
    (∀ m, (sport s p).cycleOf = some m → Answers (.serialBusCycleStart p) s (fun t =>
      (sport t p).overrun = some (topoInForce s) ∧ (sport t p).cycleOf = some m ∧ (sport t p).work = (sport s p).work ∧
      ((sport s p).overrun ≠ some (topoInForce s) → t.recorder = (report s 0x0701 13 p []).recorder) ∧
      ((sport s p).overrun = some (topoInForce s) → t.recorder = s.recorder))) ∧
    ((sport s p).cycleOf = none → (floatOf s (portFloat p)).staged = none → serialReady s p = true → outWork s p outs ++ inWork s p ≠ [] →
      Answers (.serialBusCycleStart p) s (fun t => (sport t p).cycleOf = some n ∧
        (sport t p).work = (sport s p).work.filter (fun x => x.kind == 2) ++ (outWork s p outs ++ inWork s p)))) ∧
  (∀ (s : State) (p : Nat), serialReady s p = true → (sport s p).held = none → portLocked s p = false →
    (∀ x ∈ s.bridge.farQueue, notHanded s p x = true → s.clk < x.deadline) →
    (∀ x l, (sport s p).work = x :: l → lockedCyclic s x = true → portWaited s p = false →
      Answers (.serialTransactionHanded p) s (fun t => (sport t p).held = some x ∧ (sport t p).work = l ∧
        t.bridge.locks = s.bridge.locks ++ [⟨ownPort s p, 0, s.clk⟩])) ∧
    (∀ x l, (sport s p).work = x :: l → lockedCyclic s x = false → nextDemand s p = none →
      Answers (.serialTransactionHanded p) s (fun t =>
      (sport t p).held = some x ∧ (sport t p).work = l ∧ (floatOf t (portFloat p)).txn = some ⟨b2n x.write, rAddr x.entry 1 2,
        rAddr x.entry 3 1, rAddr x.entry 4 4 + x.unit * rUnitBytes x.entry, rUnitBytes x.entry, x.attempt⟩)) ∧
    (∀ d, (sport s p).work = [] → nextDemand s p = some d → Answers (.serialTransactionHanded p) s (fun t =>
      (sport t p).held = some ⟨2, writing d, d.key, d.entry, [], 0, d.unitsDone, [], 0, d.tag, none⟩ ∧ (sport t p).work = [])) ∧
    ((sport s p).work = [] → nextDemand s p = none → exec (.serialTransactionHanded p) s = .next s))

/-- R258 to R264, R267, R268: vehicle ports. -/
def Obligations.VehiclePortsSwitchAndGate : Prop :=
  (∀ (s : State) (v sp : Nat) (m1 m2 : Bool), (vportCfg s v).enabled = true → sp < 3 →
    bitOf (vportCfg s v).speeds sp = true →
    Answers (.vportLinkUp v sp true m1 m2) s (fun t => vlink t v = true ∧ bits (vport t v).link.toNat 2 1 = sp ∧
      (vportLink t v).getLsbD 8 = true) ∧
    Answers (.vportLinkUp v sp false m1 m2) s (fun t => (vport t v).link.getLsbD 7 = true ∧ vlink t v = vlink s v ∧
      t.recorder = (report s 0x0601 11 v []).recorder)) ∧
  (∀ (s : State) (v sp : Nat) (fd m1 m2 : Bool), (vportCfg s v).enabled = false ∨ bitOf (vportCfg s v).speeds sp = false →
    exec (.vportLinkUp v sp fd m1 m2) s = .next s) ∧
  (∀ (s : State) (v : Nat), vlink s v = true → Answers (.vportLinkDown v) s (fun t => vlink t v = false ∧
    bits (vport t v).link.toNat 23 16 = min 255 (bits (vport s v).link.toNat 23 16 + 1) ∧
    t.veh.macs = s.veh.macs.filter (fun m => m.port != v))) ∧
  (∀ (s : State) (v : Nat) (b : Bytes), vlink s v = true → ∀ f, f = classify s v b →
    Answers (.vehicleFrameReceived v b true) s (fun t => (vport t v).fcs = count32 (vport s v).fcs ∧
      (vport t v).status.getLsbD 2 = true ∧ t.out = s.out ∧ t.veh.macs = s.veh.macs) ∧
    (b.length ≤ 63 → Answers (.vehicleFrameReceived v b false) s (fun t => (vport t v).runts = count32 (vport s v).runts ∧
      (vport t v).status.getLsbD 0 = true ∧ t.out = s.out ∧ t.veh.macs = s.veh.macs)) ∧
    (64 ≤ b.length → (vlanCfg s f.vlan).maxFrame < b.length → Answers (.vehicleFrameReceived v b false) s (fun t =>
      (vport t v).oversize = count32 (vport s v).oversize ∧ (vport t v).status.getLsbD 1 = true ∧ t.out = s.out ∧
      t.veh.macs = s.veh.macs)) ∧
    (64 ≤ b.length → b.length ≤ (vlanCfg s f.vlan).maxFrame → ¬ (0x0180C2000000 ≤ f.dst ∧ f.dst ≤ 0x0180C200000F) →
      (isMember s v f.vlan = false → Answers (.vehicleFrameReceived v b false) s (fun t =>
        (vport t v).drops = count32 (vport s v).drops ∧ (vport t v).status.getLsbD 5 = true ∧ t.out = s.out ∧
        t.veh.macs = s.veh.macs)) ∧
      (isMember s v f.vlan = true → f.vlan ≠ 4095 → bitOf f.src 40 = false → s.veh.macs.length < 16384 →
        Answers (.vehicleFrameReceived v b false) s (fun t => (vport t v).good = count32 (vport s v).good ∧
          (⟨f.vlan, f.src, v, s.clk⟩ : MacEntry) ∈ t.veh.macs)))) ∧
  (∀ (s : State) (vl mac : Nat), Answers (.macEntryAgeing vl mac) s (fun t => ∀ m, m ∈ t.veh.macs ↔
    m ∈ s.veh.macs ∧ ¬ (m.vid = vl ∧ m.mac = mac ∧ m.at_ + (net s).ageing * 1000000000 ≤ s.clk))) ∧
  (∀ (s : State) (v : Nat), ((vport s v).gates.isSome = true → Answers (.gateEntryBoundary v) s (fun t =>
      (vport t v).open_ = gateStates s v ∧ (vport t v).gates = (vport s v).gates)) ∧
    ((vport s v).gates = none → exec (.gateEntryBoundary v) s = .next s)) ∧
  (∀ (s : State) (v act : Nat) (b : Bytes), (vport s v).staged = some (b, act) →
    (gridN s = act ∨ cycBefore act (gridN s) = true → gridN s % gateM b = 0 → 1 ≤ gateM b →
      gridTs s + (outOffset s : Nat) ≤ s.time.now → Answers (.gateListActivation v) s (fun t =>
        (vport t v).gates = some b ∧ (vport t v).staged = none)) ∧
    (gridN s ≠ act → cycBefore act (gridN s) = false → exec (.gateListActivation v) s = .next s))

/-- R270, R271, R284, R285: ARP, IPv4 and rings. -/
def Obligations.AddressesResolveAndDatagramsAreAnswered : Prop :=
  (∀ (s : State) (i sip smac : Nat), (iface s i).isSome = true →
    (sip ≠ ifaceIp s i → exec (.arpRequestReceived i sip smac (ifaceIp s i)) s = .next (sendArp s i 2 sip smac smac)) ∧
    (∀ tip, smac ≠ ifaceMac s i → (s.veh.claims.find? (fun c => c.iface == i)) = none →
      Answers (.arpRequestReceived i (ifaceIp s i) smac tip) s (fun t => (⟨i, true, s.clk⟩ : IpClaim) ∈ t.veh.claims ∧
        t.recorder = (report s 0x0602 11 i []).recorder))) ∧
  (∀ (s : State) (i sip smac : Nat) (a : ArpEntry), arpFind s i sip = some a → sip ≠ ifaceIp s i →
    Answers (.arpReplyReceived i sip smac) s (fun t => arpFind t i sip = some ⟨i, sip, some smac, 0, s.clk, []⟩) ∧
    (∀ q g b, a.held = [⟨q, g, b⟩] → exec (.arpReplyReceived i sip smac) s =
      .next (sendEther (setArp s ⟨i, sip, some smac, 0, s.clk, []⟩) i smac q g b))) ∧
  (∀ (s : State) (i ip : Nat) (a : ArpEntry), arpFind s i ip = some a →
    (a.mac = none → a.at_ + 100000000 ≤ s.clk → Answers (.arpRetryTimer i ip) s (fun t =>
      (a.tries < 3 → arpFind t i ip = some { a with tries := a.tries + 1, at_ := s.clk }) ∧
      (3 ≤ a.tries → resolvingAt s i ip = false → arpFind t i ip = none) ∧
      (3 ≤ a.tries → resolvingAt s i ip = true → s.veh.arp.length + (net s).arpStatic.length ≤ 1024 →
        arpFind t i ip = some ⟨i, ip, none, 1, s.clk, []⟩))) ∧
    (a.mac.isSome = true ∨ s.clk < a.at_ + 100000000 → exec (.arpRetryTimer i ip) s = .next s) ∧
    (a.mac.isSome = true → a.at_ + 300000000000 ≤ s.clk → Answers (.arpEntryAgeing i ip) s (fun t =>
      (arpFind t i ip).bind (·.mac) = none)) ∧
    (a.mac = none ∨ s.clk < a.at_ + 300000000000 → exec (.arpEntryAgeing i ip) s = .next s)) ∧
  (∀ (s : State) (i : Nat) (c : IpClaim), s.veh.claims.find? (fun c => c.iface == i) = some c →
    (s.clk < c.sentAt + 10000000000 → exec (.gratuitousArpRepeat i) s = .next s) ∧
    (c.sentAt + 10000000000 ≤ s.clk → c.heard = true → exec (.gratuitousArpRepeat i) s = .next (gratuitous { s with veh :=
      { s.veh with claims := s.veh.claims.filter (fun c => c.iface != i) ++ [⟨i, false, s.clk⟩] } } i)) ∧
    (c.sentAt + 10000000000 ≤ s.clk → c.heard = false → exec (.gratuitousArpRepeat i) s = .next { s with veh :=
      { s.veh with claims := s.veh.claims.filter (fun c => c.iface != i) } })) ∧
  (∀ (s : State) (i : Nat) (d : IpIn), (iface s i).isSome = true →
    (d.frag = true → exec (.ipDatagramReceived i d) s = .next (report s 0x0681 11 1 [])) ∧
    (d.frag = false → d.sumOk = false → exec (.ipDatagramReceived i d) s = .next { s with veh :=
      { s.veh with badChecksum := count32 s.veh.badChecksum } }) ∧
    (d.frag = false → d.sumOk = true → d.dst = ifaceIp s i ∨ d.dst ∈ (net s).groups ∨ isBroadcast s i d.dst = true → d.proto = 1 → d.echo = true →
      (s.clk < s.veh.echoFrom + 1000000000 → s.veh.echoes < 64 → exec (.ipDatagramReceived i d) s = .next (sendIp { s with veh :=
        { s.veh with echoes := s.veh.echoes + 1 } } i d.src (net s).arpQueue none (.echo (ifaceIp s i) d.src d.payload))) ∧
      (s.veh.echoFrom + 1000000000 ≤ s.clk → exec (.ipDatagramReceived i d) s = .next (sendIp { s with veh :=
        { s.veh with echoFrom := s.clk, echoes := 1 } } i d.src (net s).arpQueue none (.echo (ifaceIp s i) d.src d.payload))) ∧
      (s.clk < s.veh.echoFrom + 1000000000 → 64 ≤ s.veh.echoes → exec (.ipDatagramReceived i d) s = .next s))) ∧
  (∀ (s : State) (ch n : Nat) (r : Ring), ch < 256 → Tab.get? s.veh.rings ch = some r → s.veh.staging = [] →
    Answers (.ringDescriptorReturn ch n) s (fun t => ∃ r', Tab.get? t.veh.rings ch = some r' ∧
      r'.readIx = (r.readIx + min n r.size) % r.size ∧ r'.writeIx = r.writeIx ∧ r'.size = r.size ∧
      ((∀ k, (descAt r k).length = 16) → ∀ k, k < min n r.size → ownBit r' (r.readIx + k) = true))) ∧
  (∀ (s : State), (∀ x r, s.veh.staging.find? (fun x => x.at_ + 100000 ≤ s.clk) = some x → Tab.get? s.veh.rings x.ring = some r →
      Answers .stagingTimeout s (fun t => t.veh.staging.length < s.veh.staging.length ∧
        ∃ r', Tab.get? t.veh.rings x.ring = some r' ∧ r'.dropped = count32 r.dropped ∧ r'.starved = true)) ∧
    (s.veh.staging.find? (fun x => x.at_ + 100000 ≤ s.clk) = none → exec .stagingTimeout s = .next s))

/-- R165, R272 to R276: TRDP and PTP. -/
def Obligations.TelegramsAndTimeMessagesAreServed : Prop :=
  (∀ (s : State) (i n : Nat) (p : PubTelegram) (l : List StagedOut), (net s).pubs[i]? = some p → managing s = true →
    s.pair.repeatOff = false → ∀ st, st = Tab.getD s.veh.pubs i ⟨0, none⟩ → dueSkim s p.period p.phase st.last = some (n, l) →
    exec (.trdpPublish i) s = .next (sendIp { s with veh := { s.veh with
        pubs := Tab.set s.veh.pubs i ⟨(st.seq + 1) % 4294967296, some n⟩ } } p.iface p.dest p.queue (some n)
      (.trdp ⟨0x5064, p.comId, (st.seq + 1) % 4294967296, topoCommitted s, p.dest, 0, 0,
        stagedImage s (trdpKey s p.comId p.dest) p.length l, 17224, 0x0100, 0⟩))) ∧
  (∀ (s : State) (m : TrdpIn) (i : Instr), i = .trdpPrReceived m ∨ i = .trdpPdReceived m ∨ i = .trdpReplyReceived m →
    (m.headerOk = false ∨ m.version / 256 ≠ 1 → exec i s = .next (report s 0x0682 11 1 [])) ∧
    (m.headerOk = true → m.version / 256 = 1 → m.etbTopo ≠ 0 → m.etbTopo ≠ topoInForce s →
      exec i s = .next (report s 0x0683 11 1 []))) ∧
  (∀ (s : State) (m : TrdpIn), m.headerOk = true → m.version / 256 = 1 → (m.etbTopo = 0 ∨ m.etbTopo = topoInForce s) →
    (∀ p, (net s).pubs.find? (fun x => x.comId == m.comId) = some p → m.replyIp = 0 → m.replyComId = 0 →
      exec (.trdpPrReceived m) s = .next (sendIp s p.iface m.src p.queue
        (if s.cyc.running then some (dueFrom (nextOut s) (max 1 p.period) p.phase) else none)
        (.trdp ⟨0x5070, m.comId, 0, topoCommitted s, m.src, 0, 0, stagedImage s (trdpKey s p.comId p.dest) p.length [],
          17224, 0x0100, 0⟩))) ∧
    ((∀ c ∈ (net s).subs, c.comId ≠ m.comId) → Answers (.trdpPdReceived m) s (fun t =>
      t.veh.unrouted = count32 s.veh.unrouted ∧ t.route = s.route)) ∧
    (∀ c, (net s).subs = [c] → c.comId = m.comId → c.iface = m.interface → c.source = 0 → m.kind = 0x5064 →
      m.dataset.length = c.length → ∀ st, st = Tab.getD s.veh.subs 0 ⟨[], m.src, 0, none⟩ →
      ((m.src, m.seq) ∈ st.seqs → exec (.trdpPdReceived m) s = .next s) ∧
      ((m.src, m.seq) ∉ st.seqs → Answers (.trdpPdReceived m) s (fun t =>
        ImageNow s t (trdpKey s c.comId 0) m.dataset ∧
        ∃ u, Tab.get? t.veh.subs 0 = some u ∧ (m.src, m.seq) ∈ u.seqs ∧ u.at_ = s.time.now))) ∧
    (∀ x, s.veh.sessions.find? (fun x => x.no == m.session && x.ip == m.src) = some x → ∀ u,
      u = { s with veh := { s.veh with sessions := dropOne x s.veh.sessions } } →
      (m.kind = 0x4D65 → exec (.trdpReplyReceived m) s = .next (pumpAll (completeUnit u x.key (.error m.resultCode)))) ∧
      (∀ y, m.kind = 0x4D70 → m.resultCode = 0 → headTxn u x.key = some y → writing y = true →
        exec (.trdpReplyReceived m) s = .next (pumpAll (completeUnit u x.key (.ok [])))) ∧
      (∀ y o, m.kind = 0x4D70 → m.resultCode = 0 → headTxn u x.key = some y → writing y = false →
        o = rByteOff y.entry + y.unitsDone * rUnitBytes y.entry → o + rUnitBytes y.entry ≤ m.dataset.length →
        exec (.trdpReplyReceived m) s = .next (pumpAll (completeUnit (keepAhead u x.key y.route 0 m.dataset) x.key
          (.ok (bslice m.dataset o (rUnitBytes y.entry)))))) ∧
      (m.kind ≠ 0x4D65 → m.kind ≠ 0x4D70 → m.kind ≠ 0x4D71 → exec (.trdpReplyReceived m) s = .next s)) ∧
    (s.veh.sessions.find? (fun x => x.no == m.session && x.ip == m.src) = none → exec (.trdpReplyReceived m) s = .next s)) ∧
  (∀ (s : State) (k : Nat) (x : TrdpSession), s.veh.sessions.find? (fun x => x.no == k) = some x →
    (s.clk < x.until_ → exec (.trdpReplyTimeout k) s = .next s) ∧
    (x.until_ ≤ s.clk → exec (.trdpReplyTimeout k) s = .next (pumpAll (completeUnit
      { s with veh := { s.veh with sessions := dropOne x s.veh.sessions } } x.key .timeout)))) ∧
  (∀ (s : State) (v : Nat), ptpOn s v = true →
    (ptpDue s (ptpState s v).syncAt (net s).logSync = true → Answers (.ptpSyncSend v) s (fun t =>
      (ptpState t v).syncSeq = ((ptpState s v).syncSeq + 1) % 65536 ∧ (ptpState t v).syncAt = some s.clk ∧
      t.out = (sendPtp s v 0 (ptpState s v).syncSeq
        (ptpSource s v (net s).ptpDomain (net s).logSync ++ be 8 (time64 s.time.now))).out)) ∧
    (ptpDue s (ptpState s v).syncAt (net s).logSync = false → exec (.ptpSyncSend v) s = .next s) ∧
    (ptpDue s (ptpState s v).annAt (net s).logAnnounce = true → Answers (.ptpAnnounceSend v) s (fun t =>
      (ptpState t v).annSeq = ((ptpState s v).annSeq + 1) % 65536 ∧ (ptpState t v).annAt = some s.clk ∧
      t.out = (sendPtp s v 0xB (ptpState s v).annSeq (ptpSource s v (net s).ptpDomain (net s).logAnnounce ++ zeros 1 ++
        be 1 (clockClass s) ++ be 1 (clockAccuracy s) ++ be 1 (net s).ptpPriority1 ++ be 1 (net s).ptpPriority2)).out)) ∧
    (∀ seq rq at_, exec (.ptpDelayReqReceived v seq rq at_) s = .next (sendPtp s v 9 seq
      (ptpSource s v (net s).ptpDomain (net s).logMinDelayReq ++ be 8 (time64 at_) ++ rq))) ∧
    Answers (.ptpAnnounceReceived v) s (fun t => (ptpState t v).foreign = count32 (ptpState s v).foreign ∧ t.out = s.out ∧
      t.recorder = (report s 0x0603 11 v []).recorder))

/-- R449, R451, R452, R454, R456, R471: command sessions. -/
def Obligations.RequestsAreCheckedQueuedAndAnsweredOnce : Prop :=
  (∀ (s : State) (x : Session) (tag : Nat) (b : Bytes),
    (b.length < 16 → acceptBytes s x tag false b = s) ∧
    (16 ≤ b.length → bitOf (field b 5 1) 7 = true →
      acceptBytes s x tag false b = { s with cmd := { s.cmd with discarded := count32 s.cmd.discarded } }) ∧
    (16 ≤ b.length → bitOf (field b 5 1) 7 = false →
      (b.length ≠ 16 + field b 7 2 ∨ 16384 < field b 7 2 → acceptBytes s x tag false b = refuse s x tag (b.take 7) stBadLength) ∧
      (b.length = 16 + field b 7 2 → field b 7 2 ≤ 16384 →
        (field b 12 4 ≠ crc32 (b.take 12 ++ b.drop 16) → acceptBytes s x tag false b = refuse s x tag (b.take 7) stBadCheck) ∧
        (field b 12 4 = crc32 (b.take 12 ++ b.drop 16) →
          (field b 0 1 / 16 ≠ 1 → acceptBytes s x tag false b = refuse s x tag (b.take 7) stBadVersion) ∧
          (field b 0 1 / 16 = 1 → opSpec (field b 1 2) = none →
            acceptBytes s x tag false b = refuse s x tag (b.take 7) stUnknownOpcode) ∧
          (∀ r, field b 0 1 / 16 = 1 → opSpec (field b 1 2) = some r → acceptBytes s x tag false b = acceptRequest s r
            ⟨x, field b 0 1 % 16, field b 1 2, field b 3 2, b.getD 5 0, (parseItems 4096 (b.drop 16)).getD [⟨0xFFFF, []⟩],
              field b 12 4, tag⟩))))) ∧
  (∀ (s : State) (r : OpSpec) (p : Packet) (need : Nat), need = classNeeded s r p →
    (p.cls < need → requestRefusal s r p = some stAuthorityLow) ∧
    (need ≤ p.cls → p.cls = 3 ∨ need = 3 → s.pres.sealOpen = false → requestRefusal s r p = some stSealIntact) ∧
    (need ≤ p.cls → (p.cls ≠ 3 ∧ need ≠ 3 ∨ s.pres.sealOpen = true) → ceiling s < p.cls →
      requestRefusal s r p = some stPresenceRequired) ∧
    (need ≤ p.cls → (p.cls ≠ 3 ∧ need ≠ 3 ∨ s.pres.sealOpen = true) → p.cls ≤ ceiling s →
      (itemsOk r p.items = false → requestRefusal s r p = some stBadParameter) ∧
      (itemsOk r p.items = true → requestRefusal s r p =
        if s.cfg.isNone ∧ !unconfiguredOpcode p.opcode then some stNotApplicable else none))) ∧
  (∀ (s : State) (r : OpSpec) (p : Packet) (q : SessSt), sessionOf s p.sess = some q → hardwareServed p.opcode = false →
    (∀ k, q.kept.find? (fun k => k.seq == p.seq && k.check == p.check && s.clk < k.at_ + 5000000000) = some k →
      pkQuiet p = false → acceptRequest s r p = sendReply (touchSession s p.sess) p.sess p.tag k.reply) ∧
    (q.kept.find? (fun k => k.seq == p.seq && k.check == p.check && s.clk < k.at_ + 5000000000) = none →
      (∀ st, requestRefusal (touchSession s p.sess) r p = some st →
        acceptRequest s r p = refuse (touchSession s p.sess) p.sess p.tag (headOf p) st) ∧
      (requestRefusal (touchSession s p.sess) r p = none →
        (8 ≤ (firmwareQueue q).length → acceptRequest s r p = refuse (touchSession s p.sess) p.sess p.tag (headOf p) stBusy) ∧
        ((firmwareQueue q).length < 8 → sessionOf (acceptRequest s r p) p.sess =
          some { q with last := s.clk, queue := q.queue ++ [p]
                        reads := if namesCurrent s p then q.reads ++ [(p, skimNow s)] else q.reads })))) ∧
  (∀ (s : State) (p : Packet) (q : SessSt) (st : Nat) (d : Bytes), sessionOf s p.sess = some q → p.sess = .host →
    hardwareServed p.opcode = false → pkQuiet p = false → ∀ b, b = replyOf (headOf p) st d →
    sessionOf (reply s p st d) p.sess = some { q with kept := lastN 8 (q.kept ++ [⟨p.seq, p.check, b, s.clk⟩]) } ∧
    (s.host.replyHeld = true → (reply s p st d).host.replyQueue = s.host.replyQueue ++ [b] ∧
      (reply s p st d).host.replyWin = s.host.replyWin) ∧
    (s.host.replyHeld = false → (reply s p st d).host.replyHeld = true ∧ (reply s p st d).host.replyLength = b.length ∧
      (reply s p st d).host.replyWin = Mem.writeN [] 0 b))

/-- The step of a block: the front command's effect on everything but the queue. -/
def Obligations.StepRunsTheCommandInFront : Prop :=
  ∀ (c : Instr) (rest : List Instr) (s : State), step { s with pending := c :: rest } = exec c { s with pending := rest }

/-- The tick (log entry 1, the model's choice): 2 ns pass; nothing else changes. -/
def Obligations.AnEmptyQueueLetsTimePass : Prop :=
  ∀ s : State, s.pending = [] → ∃ t, ∃ d : Nat, step s = .next t ∧ t.clk = s.clk + 2 ∧
    t.time.now = (time64 (s.time.now + d) : Int) ∧
    d * rateUnit + t.time.frac = s.time.frac + 2 * (rateOf s).toNat ∧ t.time.frac < rateUnit ∧
    t = { s with clk := t.clk, time := { s.time with now := t.time.now, frac := t.time.frac } }

/-- Reset, and that both invariants below hold there. The empty configuration banks are log entry 9's choice. -/
def Obligations.ResetLeavesTheUnitUnpowered : Prop :=
  State.reset.start.boot = .unpowered ∧ State.reset.sleep.power = .off ∧ State.reset.line.relayAOpen = false ∧
    State.reset.line.relayBOpen = false ∧ (∀ p, linkUp State.reset p = false) ∧ State.reset.safe.applied = 0 ∧
    State.reset.time.base = .unset ∧ State.reset.skim.retained = [] ∧ State.reset.set.numbering = none ∧
    State.reset.cmd.sessions = [] ∧ State.reset.cfg = none ∧ State.reset.host.intStatus = 0 ∧ State.reset.host.intMask = 0 ∧
    State.reset.host.ready = false ∧ State.reset.pending = [] ∧ outputsSound State.reset ∧ windowsWf State.reset = true

/-- Completion of every command, and its frame: `writes` lists the parts of `State` that a command may change. -/
def Obligations.CommandsCompleteAndChangeOnlyTheirParts : Prop :=
  ∀ (i : Instr) (s : State), ∃ t, exec i s = .next t ∧ Only (writes i) s t ∧
    t.pending = s.pending ∧ t.clk = s.clk ∧ t.unitId = s.unitId ∧ t.hwIssue = s.hwIssue

/-- R339, R340, R342, R365, R366, R368, R479, R480, R518: the safety outputs, over every step of every state. -/
def Obligations.OutputsStayDeEnergisedWhileBarred : Prop :=
  ∀ s t : State, outputsSound s → step s = .next t → outputsSound t

/-- The canonical form of the windows of R469 to R471, over every step of every state. -/
def Obligations.HostWindowsStayCanonical : Prop :=
  ∀ s t : State, windowsWf s = true → step s = .next t → windowsWf t = true

/-- R372. The two power-on resets are POWER_ON_RESET and, after a stop of the converter, CONVERTER_RESTART. -/
def Obligations.TheUnitCodeIsReadOnceAtPowerOn : Prop :=
  (∀ (s : State) (u : BitVec 3) (a : Bool), s.start.boot = .unpowered →
    (s.start.overvoltStop = false → s.start.overtempStop = false → Answers (.powerOnReset u a) s (fun t =>
      t.upos = u.toNat ∧ t.unitNo = unitOfCode u)) ∧
    (s.start.overvoltStop = true ∨ s.start.overtempStop = true → Answers (.converterRestart u a) s (fun t =>
      t.upos = u.toNat ∧ t.unitNo = unitOfCode u))) ∧
  (unitOfCode 0b000 = 1 ∧ unitOfCode 0b101 = 2 ∧ unitOfCode 0b110 = 3 ∧ unitOfCode 0b011 = 4 ∧
    ∀ u, unitOfCode u ≠ 0 ↔ u ∈ [0b000, 0b101, 0b110, 0b011]) ∧
  (∀ u : BitVec 3, unitOfCode u ≠ 0 → u.getLsbD 2 = (u.getLsbD 1 ^^ u.getLsbD 0) ∧
    ∀ k, k < 3 → unitOfCode (u ^^^ (1#3 <<< k)) = 0) ∧
  (∀ (i : Instr) (s t : State), (∀ u a, i ≠ .powerOnReset u a) → (∀ u a, i ≠ .converterRestart u a) → exec i s = .next t →
    t.upos = s.upos ∧ t.unitNo = s.unitNo)

/-- R178. Skim numbers are 32-bit values. -/
def Obligations.SignalAgesCountFromTheRefresh : Prop :=
  ∀ (n : Nat) (c : SigCell), n < 2 ^ 32 →
    (∀ k, k < 2 ^ 32 → c.refresh = some k → ageOf n c = min 255 ((n + 2 ^ 32 - k) % 2 ^ 32)) ∧
    (c.refresh = some n → ageOf n c = 0) ∧ (c.refresh = none → ageOf n c = 255)

/-- R413: the vote and the bitmap in the frame that a unit sends. -/
def Obligations.SleepVotesFollowTheBitmap : Prop :=
  (∀ s : State, field (ownSupervision s) 4 1 =
    if field (ownSupervision s) 8 4 = 0 then 1 else if s.sleep.announced ≠ 0 then 2 else 0) ∧
  (∀ s : State, awake s = true → field (ownSupervision s) 8 4 = reasonBitmap s) ∧
  (∀ s : State, s.sleep.power = .lineKeeping → field (ownSupervision s) 4 1 = 1 ∧ field (ownSupervision s) 8 4 = 0 ∧
    (mayOriginate s = true → hasSupSlot s = true → attached s = true → Answers .supervisionSlotStart s (fun t =>
      Sent s t (openPorts s) (newFrame s 10 0 (if (slotFrame s).isNone then 8 else 0) (ownSupervision s)))))

/-- R489: confirmation of a trial. -/
def Obligations.TrialsAreConfirmedWhenTheyHold : Prop :=
  (∀ (s : State), inTrial s = true → managing s = true → s.safe.scratchFail = false → s.img.votedApplied = true →
    (∃ r, s.img.readyAt = some r ∧ (256 ≤ s.img.joinedRun ∨ s.set.state ≠ .committed ∧ r + 60000000000 ≤ s.clk)) →
    s.clk ≤ s.img.releasedAt + 120000000000 → Answers .trialConfirmed s (fun t => inTrial t = false ∧
      (∀ k b, b = banksOf s k → k = 8 ∨ k = 9 → (b.bank b.running).state = .trial →
        ((banksOf t k).bank b.running).state = .active ∧ ((banksOf t k).bank b.running).image = (b.bank b.running).image ∧
        ((b.bank (1 - b.running)).state = .active → ((banksOf t k).bank (1 - b.running)).state = .loaded) ∧
        (banksOf t k).running = b.running ∧ (banksOf t k).floor = max b.floor (imgFloor (b.bank b.running).image)))) ∧
  (∀ (s : State), (inTrial s = false ∨ managing s = false ∨ s.safe.scratchFail = true ∨ s.img.votedApplied = false ∨
    s.img.readyAt = none ∨ s.img.releasedAt + 120000000000 < s.clk) → exec .trialConfirmed s = .next s)

/-- R334: the agreement signals of a lane, its outcome and voted value, and the outcome of a clock in voted mode. The last
three operands of a lane are what a fault of the comparator inverts on its rails, zero in a sound one. -/
def Obligations.TheComparatorVotesOnItsLanes : Prop :=
  (∀ (x : LaneCmp) (p : BitVec 3) (pa pb pc : Bool), pa = p.getLsbD 0 → pb = p.getLsbD 1 → pc = p.getLsbD 2 →
    laneRails x p =
      ((if x.a = x.b ∧ pa = false ∧ pb = false then 0b01#2 else 0b10#2) ^^^ x.ab,
       (if x.b = x.c ∧ pb = false ∧ pc = false then 0b01#2 else 0b10#2) ^^^ x.bc,
       (if x.c = x.a ∧ pc = false ∧ pa = false then 0b01#2 else 0b10#2) ^^^ x.ca)) ∧
  (∀ (x : LaneCmp) (p : BitVec 3) (ab bc ca : BitVec 2), laneRails x p = (ab, bc, ca) → ∀ v w, v = laneVerdict (ab, bc, ca) →
    w = votedValue x p →
    (ab = 0b01 → bc = 0b01 → ca = 0b01 → v = .agree ∧ w = some x.a) ∧
    (ab = 0b01 → bc = 0b10 → ca = 0b10 → v = .minority 3 ∧ w = some x.a) ∧
    (ab = 0b10 → bc = 0b01 → ca = 0b10 → v = .minority 1 ∧ w = some x.b) ∧
    (ab = 0b10 → bc = 0b10 → ca = 0b01 → v = .minority 2 ∧ w = some x.c) ∧
    (ab = 0b10 → bc = 0b10 → ca = 0b10 → v = .noMajority ∧ w = none) ∧
    ((ab = 0b01 ∧ bc = 0b01 ∧ ca = 0b10) ∨ (ab = 0b01 ∧ bc = 0b10 ∧ ca = 0b01) ∨ (ab = 0b10 ∧ bc = 0b01 ∧ ca = 0b01) ∨
      (∃ r ∈ [ab, bc, ca], r = 0b00 ∨ r = 0b11) → v = .fault ∧ w = none) ∧
    (x.ab = 0 → x.bc = 0 → x.ca = 0 → v ≠ .fault)) ∧
  (∀ (s : State) (l : List LaneCmp) (par : List (BitVec 3)), s.safe.state = .voted →
    ∀ vs o, vs = (lanesOf l par).map (fun x => laneVerdict (laneRails x.2.1 x.2.2)) → o = (compareLanes s l par).1 →
    (Vote.fault ∈ vs → o = .fault) ∧
    (Vote.fault ∉ vs → Vote.noMajority ∈ vs → o = .noMajority) ∧
    (∀ j k, Vote.fault ∉ vs → Vote.noMajority ∉ vs → Vote.minority j ∈ vs → Vote.minority k ∈ vs → j ≠ k →
      o = .noMajority) ∧
    (∀ k, Vote.minority k ∈ vs → (∀ v ∈ vs, v = .agree ∨ v = .minority k) → o = .minority k) ∧
    ((∀ v ∈ vs, v = Vote.agree) → o = .agree))

/-- R98: each row of the set-out engine completes when it is due, and leaves the engine in a state of R98's table. -/
def Obligations.DueSetOutRowsComplete : Prop :=
  (∀ (s : State) (e : OpenEnds), s.set.state = .settling → attached s = true →
    (∃ d, s.set.firstLink = some d ∧ d + 150000000 ≤ s.clk) →
    ∃ t, exec (.settleEnd e) s = .next t ∧ (t.set.state = .claiming ∨ t.set.state = .waiting)) ∧
  (∀ (s : State), s.set.state = .claiming → s.set.quietUntil ≤ s.clk →
    (s.set.lastClaim + 250000 ≤ s.clk →
      ∃ t, exec .claimRepeat s = .next t ∧ t.set.state = .claiming ∧ t.set.lastClaim = s.clk) ∧
    (s.set.claimFrom + 1000000 ≤ s.clk → (∀ k ∈ s.set.keys, ownKey s < k) →
      ∃ t, exec .claimWindowEnd s = .next t ∧ t.set.state = .census ∧ t.set.runOpen = true)) ∧
  (∀ (s : State), s.set.state = .waiting → s.set.waitFrom + 50000000 ≤ s.clk →
    ∃ t, exec .waitingTimeout s = .next t ∧ t.set.state = .settling) ∧
  (∀ (s : State) (p : LinePort), s.set.replyDue = some p →
    ∃ t, exec .censusReplySend s = .next t ∧ t.set.replyDue = none ∧ t.set.state = s.set.state) ∧
  (∀ (s : State), s.set.state = .census →
    (s.set.runOpen = true → s.set.runFrom + 250000 ≤ s.clk → ∃ t, exec .censusRunClose s = .next t ∧
      t.set.runOpen = false ∧ (t.set.state = .census ∨ t.set.state = .committing ∨ t.set.state = .settling)) ∧
    (s.set.runOpen = false → s.set.runFrom + 500000 ≤ s.clk → ∃ t, exec .censusRunStart s = .next t ∧
      t.set.runOpen = true ∧ t.set.state = .census)) ∧
  (∀ (s : State) (num : Numbering), s.set.state = .committing → s.set.commitTs = none → s.set.ackFrom + 250000 ≤ s.clk →
    s.set.issued = some num → ∃ t, exec .commitAckTimeout s = .next t ∧ (t.set.state = .committing ∨ t.set.state = .census) ∧
      (t.set.commitTs.isSome = true ∨ t.set.attempts ≠ s.set.attempts ∨ t.set.state = .census)) ∧
  (∀ (s : State) (num : Numbering), s.set.pending = some num →
    (s.set.ackDue = true → inCycle s = false → s.set.state ≠ .absorbing →
      ∃ t, exec .commitAckSend s = .next t ∧ t.set.ackDue = false ∧ t.set.state = s.set.state) ∧
    (∀ x, s.set.commitTs = some x → x ≤ s.time.now →
      ∃ t, exec .commitCycleAdoption s = .next t ∧ t.set.state = .committed ∧ t.set.numbering = some num)) ∧
  (∀ (s : State) (e : OpenEnds), s.set.state = .committed → s.set.lease = false → s.cyc.running = true →
    s.set.expiry = gridN s ∨ cycBefore s.set.expiry (gridN s) = true → ∃ t, exec (.leaseLapse e) s = .next t ∧
      (t.set.state = .claiming ∨ t.set.state = .waiting ∨ t.set.state = .absorbing)) ∧
  (∀ (s : State) (e : OpenEnds), s.set.state = .absorbing → 16 ≤ cycDiff (gridN s) s.set.absorbFrom →
    ∃ t, exec (.absorbingTimeout e) s = .next t ∧ (t.set.state = .claiming ∨ t.set.state = .waiting))

/-- R142, R161: the rows of a delay exchange end what they are for, and a due train-time entry is marked fired. -/
def Obligations.ExchangeAndEventRowsComplete : Prop :=
  (∀ (s : State) (p : LinePort) (f : Frame) (t2 t3 : Int), waits s p f = true → f.ftype = 11 → field f.payload 0 1 = 0 →
    fromVehicle s f = false → linkUp s p = true → segmentFree s p = true → s.set.quietUntil ≤ s.clk →
    ∃ t, exec (.delayRequestDelivered p f t2 t3) s = .next t ∧ t.line.rx = takeRx p f s.line.rx ∧ ∃ g : Frame,
      g.ftype = 11 ∧ field g.payload 0 1 = 1 ∧ Sent s t [p] g) ∧
  (∀ (s : State) (p : LinePort) (f : Frame) (t1 t4 : Int), waits s p f = true → f.ftype = 11 → field f.payload 0 1 = 1 →
    isFed s = false ∨ ringRef s = some f.srcUnit → (s.time.exchanges.get p).t1 = some t1 → timeField f.payload 4 = t1 →
    ∃ t, exec (.delayResponseDelivered p f t4) s = .next t ∧ (t.time.exchanges.get p).t1 = none ∧
      t.line.rx = takeRx p f s.line.rx) ∧
  (∀ (s : State) (p : LinePort) (t1 : Int), (s.time.exchanges.get p).t1 = some t1 →
    (s.time.exchanges.get p).sentAt + 20000 ≤ s.clk →
    ∃ t, exec (.delayResponseTimeout p) s = .next t ∧ (t.time.exchanges.get p).t1 = none) ∧
  (∀ (s : State) (i : Nat) (e : EventEntry), s.time.events[i]? = some e → e.kind = 1 → canFire e = true →
    e.target ≤ s.time.now → ∃ t x, exec (.eventTrainTimeFire i) s = .next t ∧ t.time.events[i]? = some x ∧ x.fired = true)

/-- R278 to R280: each due row of a device channel completes, in whatever state its channel is. -/
def Obligations.DueChannelRowsComplete : Prop :=
  (∀ (s : State) (ch n : Nat) (l : List StagedOut), chEnabled (chanSt s ch) = true →
    (chanSt s ch).state ∈ [.starting, .active, .missing] → s.pair.repeatOff = false →
    dueSkim s (chPeriod (chanSt s ch)) (chPhase (chanSt s ch)) (chanSt s ch).lastCyclic = some (n, l) →
    ∃ t, exec (.channelCyclicRequest ch) s = .next t ∧ (chanSt t ch).lastCyclic = some n) ∧
  (∀ (s : State) (ch : Nat) (r : ChanResp) (f : FloatSt) (cls code : Nat), (chanSt s ch).out ≠ 0 →
    r.src = chAddr (chanSt s ch) → r.sport = chDevPort (chanSt s ch) → r.dport = chLocal (chanSt s ch) ch →
    activate s ch 3 (appliedImage s (chanKey s ch) (chOutLen (chanSt s ch))) r.data
      (if (chanSt s ch).out = 2 then (chanDemand s ch).map chanTxn else none) [] = some (.ok f) →
    f.ended = some (cls, code) → cls = 0 ∨ cls = 1 →
    ∃ t, exec (.channelResponseReceived ch r) s = .next t ∧ (chanSt t ch).out = 0 ∧ (chanSt t ch).received = true) ∧
  (∀ (s : State) (ch : Nat), (chanSt s ch).out ≠ 0 → (chanSt s ch).sentAt + chTimeout (chanSt s ch) ≤ s.clk →
    ∃ t, exec (.channelReplyTimeout ch) s = .next t ∧ (chanSt t ch).out = 0 ∧ (chanSt t ch).refused = none) ∧
  (∀ (s : State) (ch : Nat) (x : FarTxn), chanDemand s ch = some x → s.clk < x.deadline → (chanSt s ch).state = .active →
    (chanSt s ch).out = 0 → s.cyc.running = false →
    ∀ r, r = activate s ch (if writing x then 2 else 1) (appliedImage s (chanKey s ch) (chOutLen (chanSt s ch))) []
      (some (chanTxn x)) (if writing x then unitBytes s x else []) →
    r = none ∨ (∃ f code, r = some (.ok f) ∧ f.ended = some (0, code)) →
    ∃ t, exec (.channelOnDemandSend ch) s = .next t ∧ (chanSt t ch).out = 2 ∧ (chanSt t ch).sentAt = s.clk) ∧
  (∀ (s : State) (ch : Nat), (chanSt s ch).state = .faulted → (chanSt s ch).lastFaultPoll + 1000000000 ≤ s.clk →
    ∃ t, exec (.channelFaultedPoll ch) s = .next t ∧ (chanSt t ch).lastFaultPoll = s.clk ∧ (chanSt t ch).state = .faulted) ∧
  (∀ (s : State) (ch : Nat), (chanSt s ch).state = .resolving → ifaceUp s (chIface (chanSt s ch)) = true →
    (arpMac s (chIface (chanSt s ch)) (chAddr (chanSt s ch))).isSome = true →
    ∃ t, exec (.channelResolved ch) s = .next t ∧ (chanSt t ch).state = .starting)

/-- R299, R311, R314, R316, R317, R322, R324: each due row of a float or of a port in generic serial mode completes. -/
def Obligations.DueFloatAndSerialRowsComplete : Prop :=
  (∀ (s : State) (k e : Nat) (p : Program), (floatOf s k).stoppedAt = some e → (floatOf s k).prog = some p →
    e + 1000000000 ≤ s.clk → (floatOf s k).faults.length < 3 →
    ∃ t, exec (.floatRestart k) s = .next t ∧ (floatOf t k).running = true ∧ (floatOf t k).pc = p.entry) ∧
  (∀ (s : State) (k e : Nat), (floatOf s k).timer = some e → e ≤ s.clk → (floatOf s k).running = true →
    ∃ t, exec (.floatTimerExpiry k) s = .next t ∧ (floatOf t k).timer = none) ∧
  (∀ (s : State) (k : Nat) (e : Int), (floatOf s k).tta = some e → e ≤ s.time.now → (floatOf s k).running = true →
    ∃ t, exec (.trainTimeTargetReached k) s = .next t ∧ (floatOf t k).tta = none) ∧
  (∀ (s : State) (p e : Nat), (floatOf s (portFloat p)).byteAt = some e → (floatOf s (portFloat p)).running = true →
    e + (floatOf s (portFloat p)).silence * (sportCfg s p).bitNs ≤ s.clk →
    ∃ t, exec (.lineSilence p) s = .next t ∧ (floatOf t (portFloat p)).byteAt = none ∧ (sport t p).frameBytes = 0) ∧
  (∀ (s : State) (p : Nat) (b : Byte) (pe fe : Bool), (sportCfg s p).mode = 3 →
    ∃ t, exec (.serialByteReceived p b pe fe) s = .next t ∧ (floatOf t (portFloat p)).byteAt = some s.clk ∧
      (sport t p).frameBytes = (sport s p).frameBytes + 1) ∧
  (∀ (s : State) (p : Nat), (floatOf s (portFloat p)).tx ≠ [] → (floatOf s (portFloat p)).txAt +
      (floatOf s (portFloat p)).tx.length * ((sportCfg s p).bitNs * (sportCfg s p).charBits) ≤ s.clk →
    ∃ t, exec (.transmitDrained p) s = .next t ∧ (floatOf t (portFloat p)).tx = [] ∧ (sport t p).sentBytes = 0) ∧
  (∀ (s : State) (p : Nat) (x : Program), p < 16 → (floatOf s (portFloat p)).staged = some x → busStart s p = true →
    (sport s p).held = none →
    ∃ t, exec (.programTakeForce p) s = .next t ∧ (floatOf t (portFloat p)).prog = some x ∧
      (floatOf t (portFloat p)).staged = none) ∧
  (∀ (s : State) (p n : Nat) (outs : List StagedOut), s.skim.applied = some (n, outs) → (sportCfg s p).mode = 3 →
    s.pair.repeatOff = false → n % (sportCfg s p).period = (sportCfg s p).phase → (sport s p).lastCycle ≠ some n →
    ∃ t, exec (.serialBusCycleStart p) s = .next t ∧ (sport t p).lastCycle = some n) ∧
  (∀ (s : State) (p : Nat) (x : SerialTxn) (l : List SerialTxn), serialReady s p = true → (sport s p).held = none →
    portLocked s p = false → portWaited s p = false → (sport s p).work = x :: l → nextDemand s p = none →
    (∀ y ∈ s.bridge.farQueue, notHanded s p y = true → s.clk < y.deadline) →
    ∃ t, exec (.serialTransactionHanded p) s = .next t ∧ (sport t p).held = some x ∧ (sport t p).work = l)
end

