-- ==== Sys2Proof/Laws/State.lean ====
section
/-! SUPPORT. The parts of the state under record updates: an updated part reads back, every other part keeps its
value, and `Only` composes. One lemma for each combination of parts that the model updates at once. -/

namespace Sys2Proof.Machine

/-- A command that answers `t` answers a state with every property of `t`. -/
theorem Answers.intro {i : Instr} {s t : State} {P : State → Prop} (h : exec i s = .next t) (p : P t) : Answers i s P :=
  ⟨t, h, p⟩

/-! ### An updated part reads back -/

@[simp] theorem upd_pending (s : State) (x : Part.Ty .pending) : ({ s with pending := x } : State).pending = x := rfl
@[simp] theorem upd_clk (s : State) (x : Part.Ty .clk) : ({ s with clk := x } : State).clk = x := rfl
@[simp] theorem upd_freeCount (s : State) (x : Part.Ty .freeCount) : ({ s with freeCount := x } : State).freeCount = x := rfl
@[simp] theorem upd_out (s : State) (x : Part.Ty .out) : ({ s with out := x } : State).out = x := rfl
@[simp] theorem upd_unitId (s : State) (x : Part.Ty .unitId) : ({ s with unitId := x } : State).unitId = x := rfl
@[simp] theorem upd_hwIssue (s : State) (x : Part.Ty .hwIssue) : ({ s with hwIssue := x } : State).hwIssue = x := rfl
@[simp] theorem upd_unitNo (s : State) (x : Part.Ty .unitNo) : ({ s with unitNo := x } : State).unitNo = x := rfl
@[simp] theorem upd_upos (s : State) (x : Part.Ty .upos) : ({ s with upos := x } : State).upos = x := rfl
@[simp] theorem upd_unplaced (s : State) (x : Part.Ty .unplaced) : ({ s with unplaced := x } : State).unplaced = x := rfl
@[simp] theorem upd_cfg (s : State) (x : Part.Ty .cfg) : ({ s with cfg := x } : State).cfg = x := rfl
@[simp] theorem upd_line (s : State) (x : Part.Ty .line) : ({ s with line := x } : State).line = x := rfl
@[simp] theorem upd_cyc (s : State) (x : Part.Ty .cyc) : ({ s with cyc := x } : State).cyc = x := rfl
@[simp] theorem upd_set (s : State) (x : Part.Ty .set) : ({ s with set := x } : State).set = x := rfl
@[simp] theorem upd_time (s : State) (x : Part.Ty .time) : ({ s with time := x } : State).time = x := rfl
@[simp] theorem upd_skim (s : State) (x : Part.Ty .skim) : ({ s with skim := x } : State).skim = x := rfl
@[simp] theorem upd_route (s : State) (x : Part.Ty .route) : ({ s with route := x } : State).route = x := rfl
@[simp] theorem upd_bridge (s : State) (x : Part.Ty .bridge) : ({ s with bridge := x } : State).bridge = x := rfl
@[simp] theorem upd_veh (s : State) (x : Part.Ty .veh) : ({ s with veh := x } : State).veh = x := rfl
@[simp] theorem upd_fld (s : State) (x : Part.Ty .fld) : ({ s with fld := x } : State).fld = x := rfl
@[simp] theorem upd_recorder (s : State) (x : Part.Ty .recorder) : ({ s with recorder := x } : State).recorder = x := rfl
@[simp] theorem upd_cmd (s : State) (x : Part.Ty .cmd) : ({ s with cmd := x } : State).cmd = x := rfl
@[simp] theorem upd_host (s : State) (x : Part.Ty .host) : ({ s with host := x } : State).host = x := rfl
@[simp] theorem upd_pres (s : State) (x : Part.Ty .pres) : ({ s with pres := x } : State).pres = x := rfl
@[simp] theorem upd_img (s : State) (x : Part.Ty .img) : ({ s with img := x } : State).img = x := rfl
@[simp] theorem upd_mon (s : State) (x : Part.Ty .mon) : ({ s with mon := x } : State).mon = x := rfl
@[simp] theorem upd_start (s : State) (x : Part.Ty .start) : ({ s with start := x } : State).start = x := rfl
@[simp] theorem upd_pair (s : State) (x : Part.Ty .pair) : ({ s with pair := x } : State).pair = x := rfl
@[simp] theorem upd_sleep (s : State) (x : Part.Ty .sleep) : ({ s with sleep := x } : State).sleep = x := rfl
@[simp] theorem upd_safe (s : State) (x : Part.Ty .safe) : ({ s with safe := x } : State).safe = x := rfl

/-! ### `Only` composes -/

theorem Only.rfl' (w : List Part) (s : State) : Only w s s := fun _ _ => rfl
theorem Only.trans {w : List Part} {s t u : State} (a : Only w s t) (b : Only w t u) : Only w s u :=
  fun p h => (b p h).trans (a p h)
theorem Only.mono {v w : List Part} {s t : State} (a : Only v s t) (h : ∀ p ∈ v, p ∈ w) : Only w s t :=
  fun p k => a p (fun m => k (h p m))
theorem Only.foldl {α : Type} {w : List Part} (f : State → α → State) (h : ∀ s x, Only w s (f s x)) (l : List α) (s : State) :
    Only w s (l.foldl f s) := by
  induction l generalizing s with
  | nil => exact Only.rfl' w s
  | cons x t ih => exact (h s x).trans (ih (f s x))

/-! ### Folds, conditionals and record updates keep the other parts -/

@[simp] theorem foldl_part {α : Type} (f : State → α → State) (p : Part) (l : List α) (s : State)
    (h : ∀ s x, (f s x).part p = s.part p) : (l.foldl f s).part p = s.part p := by
  induction l generalizing s with
  | nil => rfl
  | cons x t ih => simp only [List.foldl_cons, ih, h]
@[simp] theorem foldl_fst_part {α β : Type} (f : State × β → α → State × β) (p : Part) (l : List α) (a : State × β)
    (h : ∀ a x, (f a x).1.part p = a.1.part p) : (l.foldl f a).1.part p = a.1.part p := by
  induction l generalizing a with
  | nil => rfl
  | cons x t ih => simp only [List.foldl_cons, ih, h]
@[simp] theorem ite_part (c : Prop) [Decidable c] (a b : State) (p : Part) : (if c then a else b).part p = if c then a.part p else b.part p := by split <;> rfl
@[simp] theorem part_upd_bridge (s : State) (x0 : Part.bridge.Ty) (p : Part) (h : p ∉ [.bridge]) :
    ({ s with bridge := x0 } : State).part p = s.part p := by
  cases p <;> first | rfl | exact absurd (by decide) h
@[simp] theorem part_upd_cmd (s : State) (x0 : Part.cmd.Ty) (p : Part) (h : p ∉ [.cmd]) :
    ({ s with cmd := x0 } : State).part p = s.part p := by
  cases p <;> first | rfl | exact absurd (by decide) h
@[simp] theorem part_upd_cyc (s : State) (x0 : Part.cyc.Ty) (p : Part) (h : p ∉ [.cyc]) :
    ({ s with cyc := x0 } : State).part p = s.part p := by
  cases p <;> first | rfl | exact absurd (by decide) h
@[simp] theorem part_upd_fld (s : State) (x0 : Part.fld.Ty) (p : Part) (h : p ∉ [.fld]) :
    ({ s with fld := x0 } : State).part p = s.part p := by
  cases p <;> first | rfl | exact absurd (by decide) h
@[simp] theorem part_upd_freeCount (s : State) (x0 : Part.freeCount.Ty) (p : Part) (h : p ∉ [.freeCount]) :
    ({ s with freeCount := x0 } : State).part p = s.part p := by
  cases p <;> first | rfl | exact absurd (by decide) h
@[simp] theorem part_upd_host (s : State) (x0 : Part.host.Ty) (p : Part) (h : p ∉ [.host]) :
    ({ s with host := x0 } : State).part p = s.part p := by
  cases p <;> first | rfl | exact absurd (by decide) h
@[simp] theorem part_upd_img (s : State) (x0 : Part.img.Ty) (p : Part) (h : p ∉ [.img]) :
    ({ s with img := x0 } : State).part p = s.part p := by
  cases p <;> first | rfl | exact absurd (by decide) h
@[simp] theorem part_upd_line (s : State) (x0 : Part.line.Ty) (p : Part) (h : p ∉ [.line]) :
    ({ s with line := x0 } : State).part p = s.part p := by
  cases p <;> first | rfl | exact absurd (by decide) h
@[simp] theorem part_upd_mon (s : State) (x0 : Part.mon.Ty) (p : Part) (h : p ∉ [.mon]) :
    ({ s with mon := x0 } : State).part p = s.part p := by
  cases p <;> first | rfl | exact absurd (by decide) h
@[simp] theorem part_upd_out (s : State) (x0 : Part.out.Ty) (p : Part) (h : p ∉ [.out]) :
    ({ s with out := x0 } : State).part p = s.part p := by
  cases p <;> first | rfl | exact absurd (by decide) h
@[simp] theorem part_upd_pair (s : State) (x0 : Part.pair.Ty) (p : Part) (h : p ∉ [.pair]) :
    ({ s with pair := x0 } : State).part p = s.part p := by
  cases p <;> first | rfl | exact absurd (by decide) h
@[simp] theorem part_upd_pending (s : State) (x0 : Part.pending.Ty) (p : Part) (h : p ∉ [.pending]) :
    ({ s with pending := x0 } : State).part p = s.part p := by
  cases p <;> first | rfl | exact absurd (by decide) h
@[simp] theorem part_upd_pres (s : State) (x0 : Part.pres.Ty) (p : Part) (h : p ∉ [.pres]) :
    ({ s with pres := x0 } : State).part p = s.part p := by
  cases p <;> first | rfl | exact absurd (by decide) h
@[simp] theorem part_upd_recorder (s : State) (x0 : Part.recorder.Ty) (p : Part) (h : p ∉ [.recorder]) :
    ({ s with recorder := x0 } : State).part p = s.part p := by
  cases p <;> first | rfl | exact absurd (by decide) h
@[simp] theorem part_upd_route (s : State) (x0 : Part.route.Ty) (p : Part) (h : p ∉ [.route]) :
    ({ s with route := x0 } : State).part p = s.part p := by
  cases p <;> first | rfl | exact absurd (by decide) h
@[simp] theorem part_upd_safe (s : State) (x0 : Part.safe.Ty) (p : Part) (h : p ∉ [.safe]) :
    ({ s with safe := x0 } : State).part p = s.part p := by
  cases p <;> first | rfl | exact absurd (by decide) h
@[simp] theorem part_upd_set (s : State) (x0 : Part.set.Ty) (p : Part) (h : p ∉ [.set]) :
    ({ s with set := x0 } : State).part p = s.part p := by
  cases p <;> first | rfl | exact absurd (by decide) h
@[simp] theorem part_upd_skim (s : State) (x0 : Part.skim.Ty) (p : Part) (h : p ∉ [.skim]) :
    ({ s with skim := x0 } : State).part p = s.part p := by
  cases p <;> first | rfl | exact absurd (by decide) h
@[simp] theorem part_upd_sleep (s : State) (x0 : Part.sleep.Ty) (p : Part) (h : p ∉ [.sleep]) :
    ({ s with sleep := x0 } : State).part p = s.part p := by
  cases p <;> first | rfl | exact absurd (by decide) h
@[simp] theorem part_upd_start (s : State) (x0 : Part.start.Ty) (p : Part) (h : p ∉ [.start]) :
    ({ s with start := x0 } : State).part p = s.part p := by
  cases p <;> first | rfl | exact absurd (by decide) h
@[simp] theorem part_upd_time (s : State) (x0 : Part.time.Ty) (p : Part) (h : p ∉ [.time]) :
    ({ s with time := x0 } : State).part p = s.part p := by
  cases p <;> first | rfl | exact absurd (by decide) h
@[simp] theorem part_upd_veh (s : State) (x0 : Part.veh.Ty) (p : Part) (h : p ∉ [.veh]) :
    ({ s with veh := x0 } : State).part p = s.part p := by
  cases p <;> first | rfl | exact absurd (by decide) h
@[simp] theorem part_upd_bridge_veh (s : State) (x0 : Part.bridge.Ty) (x1 : Part.veh.Ty) (p : Part) (h : p ∉ [.bridge, .veh]) :
    ({ s with bridge := x0, veh := x1 } : State).part p = s.part p := by
  cases p <;> first | rfl | exact absurd (by decide) h
@[simp] theorem part_upd_cfg_cyc (s : State) (x0 : Part.cfg.Ty) (x1 : Part.cyc.Ty) (p : Part) (h : p ∉ [.cfg, .cyc]) :
    ({ s with cfg := x0, cyc := x1 } : State).part p = s.part p := by
  cases p <;> first | rfl | exact absurd (by decide) h
@[simp] theorem part_upd_clk_time (s : State) (x0 : Part.clk.Ty) (x1 : Part.time.Ty) (p : Part) (h : p ∉ [.clk, .time]) :
    ({ s with clk := x0, time := x1 } : State).part p = s.part p := by
  cases p <;> first | rfl | exact absurd (by decide) h
@[simp] theorem part_upd_cmd_img (s : State) (x0 : Part.cmd.Ty) (x1 : Part.img.Ty) (p : Part) (h : p ∉ [.cmd, .img]) :
    ({ s with cmd := x0, img := x1 } : State).part p = s.part p := by
  cases p <;> first | rfl | exact absurd (by decide) h
@[simp] theorem part_upd_cyc_set (s : State) (x0 : Part.cyc.Ty) (x1 : Part.set.Ty) (p : Part) (h : p ∉ [.cyc, .set]) :
    ({ s with cyc := x0, set := x1 } : State).part p = s.part p := by
  cases p <;> first | rfl | exact absurd (by decide) h
@[simp] theorem part_upd_cyc_time (s : State) (x0 : Part.cyc.Ty) (x1 : Part.time.Ty) (p : Part) (h : p ∉ [.cyc, .time]) :
    ({ s with cyc := x0, time := x1 } : State).part p = s.part p := by
  cases p <;> first | rfl | exact absurd (by decide) h
@[simp] theorem part_upd_host_img (s : State) (x0 : Part.host.Ty) (x1 : Part.img.Ty) (p : Part) (h : p ∉ [.host, .img]) :
    ({ s with host := x0, img := x1 } : State).part p = s.part p := by
  cases p <;> first | rfl | exact absurd (by decide) h
@[simp] theorem part_upd_host_start (s : State) (x0 : Part.host.Ty) (x1 : Part.start.Ty) (p : Part) (h : p ∉ [.host, .start]) :
    ({ s with host := x0, start := x1 } : State).part p = s.part p := by
  cases p <;> first | rfl | exact absurd (by decide) h
@[simp] theorem part_upd_img_pair (s : State) (x0 : Part.img.Ty) (x1 : Part.pair.Ty) (p : Part) (h : p ∉ [.img, .pair]) :
    ({ s with img := x0, pair := x1 } : State).part p = s.part p := by
  cases p <;> first | rfl | exact absurd (by decide) h
@[simp] theorem part_upd_img_safe (s : State) (x0 : Part.img.Ty) (x1 : Part.safe.Ty) (p : Part) (h : p ∉ [.img, .safe]) :
    ({ s with img := x0, safe := x1 } : State).part p = s.part p := by
  cases p <;> first | rfl | exact absurd (by decide) h
@[simp] theorem part_upd_img_start (s : State) (x0 : Part.img.Ty) (x1 : Part.start.Ty) (p : Part) (h : p ∉ [.img, .start]) :
    ({ s with img := x0, start := x1 } : State).part p = s.part p := by
  cases p <;> first | rfl | exact absurd (by decide) h
@[simp] theorem part_upd_line_set (s : State) (x0 : Part.line.Ty) (x1 : Part.set.Ty) (p : Part) (h : p ∉ [.line, .set]) :
    ({ s with line := x0, set := x1 } : State).part p = s.part p := by
  cases p <;> first | rfl | exact absurd (by decide) h
@[simp] theorem part_upd_line_start (s : State) (x0 : Part.line.Ty) (x1 : Part.start.Ty) (p : Part) (h : p ∉ [.line, .start]) :
    ({ s with line := x0, start := x1 } : State).part p = s.part p := by
  cases p <;> first | rfl | exact absurd (by decide) h
@[simp] theorem part_upd_line_time (s : State) (x0 : Part.line.Ty) (x1 : Part.time.Ty) (p : Part) (h : p ∉ [.line, .time]) :
    ({ s with line := x0, time := x1 } : State).part p = s.part p := by
  cases p <;> first | rfl | exact absurd (by decide) h
@[simp] theorem part_upd_out_cyc (s : State) (x0 : Part.out.Ty) (x1 : Part.cyc.Ty) (p : Part) (h : p ∉ [.out, .cyc]) :
    ({ s with out := x0, cyc := x1 } : State).part p = s.part p := by
  cases p <;> first | rfl | exact absurd (by decide) h
@[simp] theorem part_upd_out_line (s : State) (x0 : Part.out.Ty) (x1 : Part.line.Ty) (p : Part) (h : p ∉ [.out, .line]) :
    ({ s with out := x0, line := x1 } : State).part p = s.part p := by
  cases p <;> first | rfl | exact absurd (by decide) h
@[simp] theorem part_upd_out_pair (s : State) (x0 : Part.out.Ty) (x1 : Part.pair.Ty) (p : Part) (h : p ∉ [.out, .pair]) :
    ({ s with out := x0, pair := x1 } : State).part p = s.part p := by
  cases p <;> first | rfl | exact absurd (by decide) h
@[simp] theorem part_upd_set_pair (s : State) (x0 : Part.set.Ty) (x1 : Part.pair.Ty) (p : Part) (h : p ∉ [.set, .pair]) :
    ({ s with set := x0, pair := x1 } : State).part p = s.part p := by
  cases p <;> first | rfl | exact absurd (by decide) h
@[simp] theorem part_upd_set_sleep (s : State) (x0 : Part.set.Ty) (x1 : Part.sleep.Ty) (p : Part) (h : p ∉ [.set, .sleep]) :
    ({ s with set := x0, sleep := x1 } : State).part p = s.part p := by
  cases p <;> first | rfl | exact absurd (by decide) h
@[simp] theorem part_upd_set_time (s : State) (x0 : Part.set.Ty) (x1 : Part.time.Ty) (p : Part) (h : p ∉ [.set, .time]) :
    ({ s with set := x0, time := x1 } : State).part p = s.part p := by
  cases p <;> first | rfl | exact absurd (by decide) h
@[simp] theorem part_upd_skim_pair (s : State) (x0 : Part.skim.Ty) (x1 : Part.pair.Ty) (p : Part) (h : p ∉ [.skim, .pair]) :
    ({ s with skim := x0, pair := x1 } : State).part p = s.part p := by
  cases p <;> first | rfl | exact absurd (by decide) h
@[simp] theorem part_upd_skim_safe (s : State) (x0 : Part.skim.Ty) (x1 : Part.safe.Ty) (p : Part) (h : p ∉ [.skim, .safe]) :
    ({ s with skim := x0, safe := x1 } : State).part p = s.part p := by
  cases p <;> first | rfl | exact absurd (by decide) h
@[simp] theorem part_upd_start_safe (s : State) (x0 : Part.start.Ty) (x1 : Part.safe.Ty) (p : Part) (h : p ∉ [.start, .safe]) :
    ({ s with start := x0, safe := x1 } : State).part p = s.part p := by
  cases p <;> first | rfl | exact absurd (by decide) h
@[simp] theorem part_upd_start_sleep (s : State) (x0 : Part.start.Ty) (x1 : Part.sleep.Ty) (p : Part) (h : p ∉ [.start, .sleep]) :
    ({ s with start := x0, sleep := x1 } : State).part p = s.part p := by
  cases p <;> first | rfl | exact absurd (by decide) h
@[simp] theorem part_upd_unplaced_pair (s : State) (x0 : Part.unplaced.Ty) (x1 : Part.pair.Ty) (p : Part) (h : p ∉ [.unplaced, .pair]) :
    ({ s with unplaced := x0, pair := x1 } : State).part p = s.part p := by
  cases p <;> first | rfl | exact absurd (by decide) h
@[simp] theorem part_upd_veh_fld (s : State) (x0 : Part.veh.Ty) (x1 : Part.fld.Ty) (p : Part) (h : p ∉ [.veh, .fld]) :
    ({ s with veh := x0, fld := x1 } : State).part p = s.part p := by
  cases p <;> first | rfl | exact absurd (by decide) h
@[simp] theorem part_upd_cyc_set_time (s : State) (x0 : Part.cyc.Ty) (x1 : Part.set.Ty) (x2 : Part.time.Ty) (p : Part) (h : p ∉ [.cyc, .set, .time]) :
    ({ s with cyc := x0, set := x1, time := x2 } : State).part p = s.part p := by
  cases p <;> first | rfl | exact absurd (by decide) h
@[simp] theorem part_upd_cyc_start_sleep (s : State) (x0 : Part.cyc.Ty) (x1 : Part.start.Ty) (x2 : Part.sleep.Ty) (p : Part) (h : p ∉ [.cyc, .start, .sleep]) :
    ({ s with cyc := x0, start := x1, sleep := x2 } : State).part p = s.part p := by
  cases p <;> first | rfl | exact absurd (by decide) h
@[simp] theorem part_upd_host_img_start (s : State) (x0 : Part.host.Ty) (x1 : Part.img.Ty) (x2 : Part.start.Ty) (p : Part) (h : p ∉ [.host, .img, .start]) :
    ({ s with host := x0, img := x1, start := x2 } : State).part p = s.part p := by
  cases p <;> first | rfl | exact absurd (by decide) h
@[simp] theorem part_upd_cfg_cyc_img_start (s : State) (x0 : Part.cfg.Ty) (x1 : Part.cyc.Ty) (x2 : Part.img.Ty) (x3 : Part.start.Ty) (p : Part) (h : p ∉ [.cfg, .cyc, .img, .start]) :
    ({ s with cfg := x0, cyc := x1, img := x2, start := x3 } : State).part p = s.part p := by
  cases p <;> first | rfl | exact absurd (by decide) h
@[simp] theorem part_upd_cyc_set_time_sleep (s : State) (x0 : Part.cyc.Ty) (x1 : Part.set.Ty) (x2 : Part.time.Ty) (x3 : Part.sleep.Ty) (p : Part) (h : p ∉ [.cyc, .set, .time, .sleep]) :
    ({ s with cyc := x0, set := x1, time := x2, sleep := x3 } : State).part p = s.part p := by
  cases p <;> first | rfl | exact absurd (by decide) h
@[simp] theorem part_upd_host_img_start_sleep (s : State) (x0 : Part.host.Ty) (x1 : Part.img.Ty) (x2 : Part.start.Ty) (x3 : Part.sleep.Ty) (p : Part) (h : p ∉ [.host, .img, .start, .sleep]) :
    ({ s with host := x0, img := x1, start := x2, sleep := x3 } : State).part p = s.part p := by
  cases p <;> first | rfl | exact absurd (by decide) h
@[simp] theorem part_upd_line_cyc_set_time_pair (s : State) (x0 : Part.line.Ty) (x1 : Part.cyc.Ty) (x2 : Part.set.Ty) (x3 : Part.time.Ty) (x4 : Part.pair.Ty) (p : Part) (h : p ∉ [.line, .cyc, .set, .time, .pair]) :
    ({ s with line := x0, cyc := x1, set := x2, time := x3, pair := x4 } : State).part p = s.part p := by
  cases p <;> first | rfl | exact absurd (by decide) h
@[simp] theorem part_upd_time_host_img_start_sleep (s : State) (x0 : Part.time.Ty) (x1 : Part.host.Ty) (x2 : Part.img.Ty) (x3 : Part.start.Ty) (x4 : Part.sleep.Ty) (p : Part) (h : p ∉ [.time, .host, .img, .start, .sleep]) :
    ({ s with time := x0, host := x1, img := x2, start := x3, sleep := x4 } : State).part p = s.part p := by
  cases p <;> first | rfl | exact absurd (by decide) h
@[simp] theorem part_upd_time_route_veh_fld_mon_safe (s : State) (x0 : Part.time.Ty) (x1 : Part.route.Ty) (x2 : Part.veh.Ty) (x3 : Part.fld.Ty) (x4 : Part.mon.Ty) (x5 : Part.safe.Ty) (p : Part) (h : p ∉ [.time, .route, .veh, .fld, .mon, .safe]) :
    ({ s with time := x0, route := x1, veh := x2, fld := x3, mon := x4, safe := x5 } : State).part p = s.part p := by
  cases p <;> first | rfl | exact absurd (by decide) h
@[simp] theorem part_upd_unitNo_upos_unplaced_host_img_start_sleep (s : State) (x0 : Part.unitNo.Ty) (x1 : Part.upos.Ty) (x2 : Part.unplaced.Ty) (x3 : Part.host.Ty) (x4 : Part.img.Ty) (x5 : Part.start.Ty) (x6 : Part.sleep.Ty) (p : Part) (h : p ∉ [.unitNo, .upos, .unplaced, .host, .img, .start, .sleep]) :
    ({ s with unitNo := x0, upos := x1, unplaced := x2, host := x3, img := x4, start := x5, sleep := x6 } : State).part p = s.part p := by
  cases p <;> first | rfl | exact absurd (by decide) h
@[simp] theorem part_upd_cfg_line_host_pres_start_pair_sleep_safe (s : State) (x0 : Part.cfg.Ty) (x1 : Part.line.Ty) (x2 : Part.host.Ty) (x3 : Part.pres.Ty) (x4 : Part.start.Ty) (x5 : Part.pair.Ty) (x6 : Part.sleep.Ty) (x7 : Part.safe.Ty) (p : Part) (h : p ∉ [.cfg, .line, .host, .pres, .start, .pair, .sleep, .safe]) :
    ({ s with cfg := x0, line := x1, host := x2, pres := x3, start := x4, pair := x5, sleep := x6, safe := x7 } : State).part p = s.part p := by
  cases p <;> first | rfl | exact absurd (by decide) h
@[simp] theorem part_upd_set_time_skim_route_bridge_veh_fld_cmd_host_pres_img_mon_start_pair_sleep (s : State) (x0 : Part.set.Ty) (x1 : Part.time.Ty) (x2 : Part.skim.Ty) (x3 : Part.route.Ty) (x4 : Part.bridge.Ty) (x5 : Part.veh.Ty) (x6 : Part.fld.Ty) (x7 : Part.cmd.Ty) (x8 : Part.host.Ty) (x9 : Part.pres.Ty) (x10 : Part.img.Ty) (x11 : Part.mon.Ty) (x12 : Part.start.Ty) (x13 : Part.pair.Ty) (x14 : Part.sleep.Ty) (p : Part) (h : p ∉ [.set, .time, .skim, .route, .bridge, .veh, .fld, .cmd, .host, .pres, .img, .mon, .start, .pair, .sleep]) :
    ({ s with set := x0, time := x1, skim := x2, route := x3, bridge := x4, veh := x5, fld := x6, cmd := x7, host := x8, pres := x9, img := x10, mon := x11, start := x12, pair := x13, sleep := x14 } : State).part p = s.part p := by
  cases p <;> first | rfl | exact absurd (by decide) h
@[simp] theorem part_upd_cyc_pair_set_time (s : State) (x0 : Part.cyc.Ty) (x1 : Part.pair.Ty) (x2 : Part.set.Ty) (x3 : Part.time.Ty) (p : Part) (h : p ∉ [.cyc, .pair, .set, .time]) :
    ({ s with cyc := x0, pair := x1, set := x2, time := x3 } : State).part p = s.part p := by
  cases p <;> first | rfl | exact absurd (by decide) h
@[simp] theorem part_upd_cyc_skim (s : State) (x0 : Part.cyc.Ty) (x1 : Part.skim.Ty) (p : Part) (h : p ∉ [.cyc, .skim]) :
    ({ s with cyc := x0, skim := x1 } : State).part p = s.part p := by
  cases p <;> first | rfl | exact absurd (by decide) h
@[simp] theorem part_upd_cyc_line (s : State) (x0 : Part.cyc.Ty) (x1 : Part.line.Ty) (p : Part) (h : p ∉ [.cyc, .line]) :
    ({ s with cyc := x0, line := x1 } : State).part p = s.part p := by
  cases p <;> first | rfl | exact absurd (by decide) h

end Sys2Proof.Machine
end

