-- ==== Sys2Proof/Laws/Only1.lean ====
section
/-! SUPPORT. What the shared operations of Ops, Route, Skim, Peers, Line, FloatOps, Timebase, Cycle can write:
every other part of the state is unchanged. -/

set_option Elab.async false
set_option linter.unusedSimpArgs false

namespace Sys2Proof.Machine

@[simp] theorem tookFree_only (s : State) (k : Nat) (pt : Part) (h : pt ∉ [.freeCount]) : (tookFree s k).part pt = s.part pt := by
  simp at h
  simp [tookFree, h]

@[simp] theorem emit_only (s : State) (o : List Out) (pt : Part) (h : pt ∉ [.out]) : (emit s o).part pt = s.part pt := by
  simp at h
  simp [emit, h]

@[simp] theorem reportAll_only (s : State) (es : List EventIn) (pt : Part) (h : pt ∉ [.recorder]) : (reportAll s es).part pt = s.part pt := by
  simp at h
  simp [reportAll, h]

@[simp] theorem report_only (s : State) (code : Nat) (subsystem : Nat) (measure : Int) (payload : Bytes) (pt : Part) (h : pt ∉ [.recorder]) : (report s code subsystem measure payload).part pt = s.part pt := by
  simp at h
  simp [report, h]

@[simp] theorem reportIf_only (c : Bool) (s : State) (code : Nat) (subsystem : Nat) (measure : Int) (payload : Bytes) (pt : Part) (h : pt ∉ [.recorder]) : (reportIf c s code subsystem measure payload).part pt = s.part pt := by
  simp at h
  simp [reportIf, h]

@[simp] theorem raiseInt_only (s : State) (k : Nat) (pt : Part) (h : pt ∉ [.host]) : (raiseInt s k).part pt = s.part pt := by
  simp at h
  simp [raiseInt, h]

@[simp] theorem raiseIntIf_only (c : Bool) (s : State) (k : Nat) (pt : Part) (h : pt ∉ [.host]) : (raiseIntIf c s k).part pt = s.part pt := by
  simp at h
  simp [raiseIntIf, h]

@[simp] theorem setTimebase_only (s : State) (b : Timebase) (pt : Part) (h : pt ∉ [.time, .host]) : (setTimebase s b).part pt = s.part pt := by
  simp at h
  simp [setTimebase, h]

@[simp] theorem markPort_only (s : State) (p : LinePort) (k : Nat) (f : LPort → LPort) (pt : Part) (h : pt ∉ [.line]) : (markPort s p k f).part pt = s.part pt := by
  simp at h
  simp [markPort, h]

@[simp] theorem transmit_only (s : State) (ports : List LinePort) (f : Frame) (pt : Part) (h : pt ∉ [.out, .line]) : (transmit s ports f).part pt = s.part pt := by
  simp at h
  unfold transmit
  dsimp only
  (repeat' split) <;> simp [h]

@[simp] theorem originateOn_only (s : State) (ports : List LinePort) (ftype : Nat) (channel : Nat) (extra : Nat) (payload : Bytes) (pt : Part) (h : pt ∉ [.line, .out]) : (originateOn s ports ftype channel extra payload).part pt = s.part pt := by
  simp at h
  simp [originateOn, h]

@[simp] theorem originate_only (s : State) (ftype : Nat) (channel : Nat) (extra : Nat) (payload : Bytes) (pt : Part) (h : pt ∉ [.line, .out]) : (originate s ftype channel extra payload).part pt = s.part pt := by
  simp at h
  simp [originate, h]

@[simp] theorem queueMsg_only (s : State) (m : QMsg) (pt : Part) (h : pt ∉ [.bridge]) : (queueMsg s m).part pt = s.part pt := by
  simp at h
  simp [queueMsg, h]

@[simp] theorem announce_only (s : State) (dest : Nat) (kind : Nat) (source : Nat) (skim : Nat) (code : Nat) (payload : Bytes) (pt : Part) (h : pt ∉ [.bridge, .recorder]) : (announce s dest kind source skim code payload).part pt = s.part pt := by
  simp at h
  simp [announce, h]

@[simp] theorem adjRoute_only (s : State) (i : Nat) (f : RouteSt → RouteSt) (pt : Part) (h : pt ∉ [.route]) : (adjRoute s i f).part pt = s.part pt := by
  simp at h
  simp [adjRoute, h]

@[simp] theorem noteClip_only (s : State) (i : Nat) (clipped : Bool) (pt : Part) (h : pt ∉ [.route, .recorder]) : (noteClip s i clipped).part pt = s.part pt := by
  simp at h
  simp [noteClip, h]

@[simp] theorem installTable_only (s : State) (t : RouteTable) (m : Nat) (pt : Part) (h : pt ∉ [.route]) : (installTable s t m).part pt = s.part pt := by
  simp at h
  simp [installTable, h]

@[simp] theorem compareTables_only (s : State) (pt : Part) (h : pt ∉ [.freeCount, .recorder]) : (compareTables s).part pt = s.part pt := by
  simp at h
  unfold compareTables
  dsimp only
  (repeat' split) <;> simp [h]

@[simp] theorem activateRoutes_only (s : State) (pt : Part) (h : pt ∉ [.route, .freeCount, .recorder]) : (activateRoutes s).part pt = s.part pt := by
  simp at h
  unfold activateRoutes
  dsimp only
  (repeat' split) <;> simp [h]

@[simp] theorem putImage_only (s : State) (k : FarKey) (d : Bytes) (pt : Part) (h : pt ∉ [.route]) : (putImage s k d).part pt = s.part pt := by
  simp at h
  simp [putImage, h]

@[simp] theorem setShadow_only (s : State) (e : Bytes) (n : Nat) (pt : Part) (h : pt ∉ [.route]) : (setShadow s e n).part pt = s.part pt := by
  simp at h
  simp [setShadow, h]

@[simp] theorem noteDeferred_only (s : State) (o : StagedOut) (pt : Part) (h : pt ∉ [.route, .recorder]) : (noteDeferred s o).part pt = s.part pt := by
  simp at h
  unfold noteDeferred
  split <;> simp [h]

@[simp] theorem noteField_only (s : State) (e : Bytes) (n : Nat) (pt : Part) (h : pt ∉ [.route]) : (noteField s e n).part pt = s.part pt := by
  simp at h
  unfold noteField
  dsimp only
  split <;> simp [h]

@[simp] theorem noteReceived_only (s : State) (e : Bytes) (b : Bool) (pt : Part) (h : pt ∉ [.route]) : (noteReceived s e b).part pt = s.part pt := by
  simp at h
  unfold noteReceived
  dsimp only
  (repeat' split) <;> simp [h]

@[simp] theorem settleDelays_only (s : State) (pt : Part) (h : pt ∉ [.time]) : (settleDelays s).part pt = s.part pt := by
  simp at h
  simp [settleDelays, h]

@[simp] theorem inPass_only (s : State) (unitHere : Nat → Bool) (pt : Part) (h : pt ∉ [.route, .recorder]) : (inPass s unitHere).1.part pt = s.part pt := by
  simp at h
  unfold inPass
  split <;> simp [h]

@[simp] theorem freeOld_only (s : State) (n : Nat) (pt : Part) (h : pt ∉ [.route]) : (freeOld s n).part pt = s.part pt := by
  simp at h
  simp [freeOld, h]

@[simp] theorem outPass_only (s : State) (n : Nat) (pt : Part) (h : pt ∉ [.route, .freeCount, .skim, .recorder]) : (outPass s n).part pt = s.part pt := by
  simp at h
  unfold outPass
  split <;> simp [h]

@[simp] theorem stageFrom_only (s : State) (id : Nat) (v : Val) (w : Option (Nat × Nat)) (pt : Part) (h : pt ∉ [.skim]) : (stageFrom s id v w).part pt = s.part pt := by
  simp at h
  unfold stageFrom
  dsimp only
  (repeat' split) <;> simp [h]

@[simp] theorem stageWrite_only (s : State) (id : Nat) (v : Val) (pt : Part) (h : pt ∉ [.skim]) : (stageWrite s id v).part pt = s.part pt := by
  simp at h
  simp [stageWrite, h]

@[simp] theorem latchSamples_only (s : State) (n : Nat) (inputs : List QVal) (node : List QVal) (pt : Part) (h : pt ∉ [.skim]) : (latchSamples s n inputs node).part pt = s.part pt := by
  simp at h
  simp [latchSamples, h]

@[simp] theorem putBuild_only (s : State) (b : SlotBuild) (pt : Part) (h : pt ∉ [.skim]) : (putBuild s b).part pt = s.part pt := by
  simp at h
  simp [putBuild, h]

@[simp] theorem addToBuild_only (s : State) (slot : Nat) (index : Nat) (last : Bool) (elems : List (Nat × Nat × Val × Quality)) (pt : Part) (h : pt ∉ [.skim, .recorder]) : (addToBuild s slot index last elems).part pt = s.part pt := by
  simp at h
  simp [addToBuild, h]

@[simp] theorem rebindSlots_only (s : State) (pt : Part) (h : pt ∉ [.skim]) : (rebindSlots s).part pt = s.part pt := by
  simp at h
  simp [rebindSlots, h]

@[simp] theorem breakPin_only (s : State) (k : Nat) (pt : Part) (h : pt ∉ [.skim, .recorder]) : (breakPin s k).part pt = s.part pt := by
  simp at h
  simp [breakPin, h]

@[simp] theorem overwriteOldest_only (k : Nat) (s : State) (pt : Part) (h : pt ∉ [.skim, .recorder]) :
    (overwriteOldest k s).part pt = s.part pt := by
  simp only [List.mem_cons, List.not_mem_nil, or_false, not_or] at h
  induction k generalizing s with
  | zero => rfl
  | succ k ih =>
    simp only [overwriteOldest]
    (repeat' split) <;> simp [h, ih]

@[simp] theorem commitSkim_only (s : State) (pt : Part) (h : pt ∉ [.skim, .recorder]) : (commitSkim s).part pt = s.part pt := by
  simp at h
  simp [commitSkim, h]

@[simp] theorem lapsePins_only (s : State) (pt : Part) (h : pt ∉ [.skim]) : (lapsePins s).part pt = s.part pt := by
  simp at h
  simp [lapsePins, h]

@[simp] theorem startSnapshot_only (s : State) (pt : Part) (h : pt ∉ [.skim, .recorder]) : (startSnapshot s).part pt = s.part pt := by
  simp at h
  unfold startSnapshot
  (repeat' split) <;> simp [h]

@[simp] theorem feed_only (s : State) (f : Frame) (pt : Part) (h : pt ∉ [.out, .pair]) : (feed s f).part pt = s.part pt := by
  simp at h
  simp [feed, h]

@[simp] theorem setPort_only (s : State) (p : LinePort) (f : LPort → LPort) (pt : Part) (h : pt ∉ [.line]) : (setPort s p f).part pt = s.part pt := by
  simp at h
  simp [setPort, h]

@[simp] theorem headerFault_only (s : State) (p : LinePort) (bit : Nat) (fr : Frame) (plen : Nat) (arrival : Int) (pt : Part) (h : pt ∉ [.line]) : (headerFault s p bit fr plen arrival).part pt = s.part pt := by
  simp at h
  simp [headerFault, h]

@[simp] theorem headerArrives_only (s : State) (p : LinePort) (hdr : Bytes) (arrival : Int) (pt : Part) (h : pt ∉ [.line, .cyc]) : (headerArrives s p hdr arrival).part pt = s.part pt := by
  simp at h
  unfold headerArrives
  (repeat' split) <;> simp [h]

@[simp] theorem noteReply_only (s : State) (f : Frame) (good : Bool) (pt : Part) (h : pt ∉ [.cyc]) : (noteReply s f good).part pt = s.part pt := by
  simp at h
  unfold noteReply
  dsimp only
  (repeat' split) <;> simp [h]

@[simp] theorem acceptFrame_only (s : State) (p : LinePort) (f : Frame) (arrival : Int) (fromPeer : Bool) (pt : Part) (h : pt ∉ [.time, .line, .out, .pair, .cyc]) : (acceptFrame s p f arrival fromPeer).part pt = s.part pt := by
  simp at h
  simp [acceptFrame, h]

@[simp] theorem releaseWaiting_only (s : State) (p : LinePort) (pt : Part) (h : pt ∉ [.out, .line]) : (releaseWaiting s p).part pt = s.part pt := by
  simp at h
  unfold releaseWaiting
  dsimp only
  (repeat' split) <;> simp [h]

@[simp] theorem preferA_only (s : State) (p : LinePort) (f : Frame) (arrival : Int) (pt : Part) (h : pt ∉ [.line]) : (preferA s p f arrival).part pt = s.part pt := by
  simp at h
  unfold preferA
  dsimp only
  (repeat' split) <;> simp [h]

@[simp] theorem frameCompletes_only (s : State) (p : LinePort) (b : Bytes) (arrival : Int) (pt : Part) (h : pt ∉ [.time, .line, .out, .cyc, .pair]) : (frameCompletes s p b arrival).part pt = s.part pt := by
  simp at h
  simp [frameCompletes, h]

@[simp] theorem cutAtClose_only (s : State) (p : LinePort) (pt : Part) (h : pt ∉ [.line, .out, .cyc]) : (cutAtClose s p).part pt = s.part pt := by
  simp at h
  unfold cutAtClose
  split <;> simp [h]

@[simp] theorem setFloat_only (s : State) (k : Nat) (f : FloatSt) (pt : Part) (h : pt ∉ [.fld]) : (setFloat s k f).part pt = s.part pt := by
  simp at h
  simp [setFloat, h]

@[simp] theorem latchEvent_only (s : State) (k : Nat) (b : Nat) (pt : Part) (h : pt ∉ [.fld]) : (latchEvent s k b).part pt = s.part pt := by
  simp at h
  simp [latchEvent, h]

@[simp] theorem floatTimeStep_only (s : State) (lo : Int) (hi : Int) (pt : Part) (h : pt ∉ [.fld]) : (floatTimeStep s lo hi).part pt = s.part pt := by
  simp at h
  simp [floatTimeStep, h]

@[simp] theorem floatPositions_only (s : State) (a : Int) (b : Int) (step : Bool) (pt : Part) (h : pt ∉ [.fld]) : (floatPositions s a b step).part pt = s.part pt := by
  simp at h
  simp [floatPositions, h]

@[simp] theorem stepTime_only (s : State) (d : Int) (why : StepCause) (pt : Part) (h : pt ∉ [.time, .host, .fld, .recorder]) : (stepTime s d why).part pt = s.part pt := by
  simp at h
  simp [stepTime, h]

@[simp] theorem dropPassed_only (s : State) (d : Int) (pt : Part) (h : pt ∉ [.skim]) : (dropPassed s d).part pt = s.part pt := by
  simp at h
  unfold dropPassed
  dsimp only
  (repeat' split) <;> simp [h]

@[simp] theorem silenceIf_only (c : Bool) (s : State) (pt : Part) (h : pt ∉ [.cyc]) : (silenceIf c s).part pt = s.part pt := by
  simp at h
  unfold silenceIf
  dsimp only
  (repeat' split) <;> simp [h]

@[simp] theorem correct_only (s : State) (theta : Int) (why : StepCause) (pt : Part) (h : pt ∉ [.time, .host, .cyc, .fld, .recorder, .skim]) : (correct s theta why).part pt = s.part pt := by
  simp at h
  simp [correct, h]

@[simp] theorem correctFromStart_only (s : State) (pt : Part) (h : pt ∉ [.time, .host, .cyc, .fld, .recorder, .skim]) : (correctFromStart s).part pt = s.part pt := by
  simp at h
  unfold correctFromStart
  (repeat' split) <;> simp [h]

@[simp] theorem sendDelay_only (s : State) (p : LinePort) (payload : Bytes) (ring : Bool) (pt : Part) (h : pt ∉ [.out, .line]) : (sendDelay s p payload ring).part pt = s.part pt := by
  simp at h
  unfold sendDelay
  dsimp only
  (repeat' split) <;> simp [h]

@[simp] theorem sendDelayRequest_only (s : State) (p : LinePort) (pt : Part) (h : pt ∉ [.time, .line, .out]) : (sendDelayRequest s p).part pt = s.part pt := by
  simp at h
  simp [sendDelayRequest, h]

@[simp] theorem deliver_only (s : State) (p : LinePort) (f : Frame) (act : State → State) (pt : Part) (h : pt ∉ [.line])
    (ha : ∀ s, (act s).part pt = s.part pt) : (deliver s p f act).part pt = s.part pt := by
  simp only [List.mem_cons, List.not_mem_nil, or_false, not_or] at h
  unfold deliver
  split <;> simp [h, ha]

@[simp] theorem wakeFloat_only (s : State) (k : Nat) (pt : Part) (h : pt ∉ [.fld]) : (wakeFloat s k).part pt = s.part pt := by
  simp at h
  simp [wakeFloat, h]

@[simp] theorem eventAction_only (s : State) (i : Nat) (e : EventEntry) (n : Nat) (pt : Part) (h : pt ∉ [.skim, .fld, .bridge, .recorder]) : (eventAction s i e n).part pt = s.part pt := by
  simp at h
  unfold eventAction
  split <;> simp [h]

@[simp] theorem setEvent_only (s : State) (i : Nat) (e : EventEntry) (pt : Part) (h : pt ∉ [.time]) : (setEvent s i e).part pt = s.part pt := by
  simp at h
  simp [setEvent, h]

@[simp] theorem firePositions_only (s : State) (a b : Int) (n : Nat) (pt : Part) (h : pt ∉ [.fld, .time, .skim, .bridge, .recorder]) :
    (firePositions s a b n).part pt = s.part pt := by
  simp only [List.mem_cons, List.not_mem_nil, or_false, not_or] at h
  unfold firePositions
  apply foldl_part
  intro s x
  split <;> (try split) <;> simp [h]

@[simp] theorem turnCycle_only (s : State) (pt : Part) (h : pt ∉ [.cyc, .set, .time, .pair]) : (turnCycle s).part pt = s.part pt := by
  simp at h
  unfold turnCycle
  dsimp only
  simp [h]

@[simp] theorem advanceCycle_only (s : State) (pt : Part) (h : pt ∉ [.set, .time, .cyc, .pair]) : (advanceCycle s).part pt = s.part pt := by
  simp at h
  unfold advanceCycle
  (repeat' split) <;> simp [h]

end Sys2Proof.Machine
end

