-- ==== Sys2Proof/Laws/Only2.lean ====
section
/-! SUPPORT. What the shared operations of Cycle, BridgeOps, VehicleOps, FieldOps, FarSide can write: every other
part of the state is unchanged. -/

set_option Elab.async false
set_option linter.unusedSimpArgs false

namespace Sys2Proof.Machine

@[simp] theorem applySteps_only (s : State) (tstep pstep : Int) (pt : Part) (h : pt ∉ [.time, .host, .cyc, .fld, .recorder]) : (applySteps s tstep pstep).part pt = s.part pt := by
  simp at h
  simp [applySteps, h]

@[simp] theorem skipPositions_only (s : State) (a b : Int) (pt : Part) (h : pt ∉ [.time, .fld, .recorder]) : (skipPositions s a b).part pt = s.part pt := by
  simp at h
  unfold skipPositions
  dsimp only
  (repeat' split) <;> simp [h]

@[simp] theorem carryPosition_only (s : State) (pos : Int) (v : Int) (valid : Bool) (skip : Int) (pt : Part) (h : pt ∉ [.time, .skim, .fld, .bridge, .recorder]) : (carryPosition s pos v valid skip).part pt = s.part pt := by
  simp at h
  simp [carryPosition, h]

@[simp] theorem takeSleepCycle_only (s : State) (n : Nat) (c : Nat) (pt : Part) (h : pt ∉ [.sleep, .host]) : (takeSleepCycle s n c).part pt = s.part pt := by
  simp at h
  simp [takeSleepCycle, h]

@[simp] theorem tallyShift_only (s : State) (pt : Part) (h : pt ∉ [.recorder]) : (tallyShift s).part pt = s.part pt := by
  simp at h
  simp [tallyShift, h]

@[simp] theorem discardWindow_only (s : State) (n : Nat) (pt : Part) (h : pt ∉ [.skim, .recorder]) : (discardWindow s n).part pt = s.part pt := by
  simp at h
  simp [discardWindow, h]

@[simp] theorem takePosition_only (s : State) (f : Frame) (pt : Part) (h : pt ∉ [.time, .skim, .bridge, .fld, .recorder]) : (takePosition s f).part pt = s.part pt := by
  simp at h
  unfold takePosition
  dsimp only
  (repeat' split) <;> simp [h]

@[simp] theorem followStep_only (s : State) (f : Frame) (pt : Part) (h : pt ∉ [.time, .fld, .recorder, .host]) : (followStep s f).part pt = s.part pt := by
  simp at h
  simp [followStep, h]

@[simp] theorem turnTo_only (s : State) (f : Frame) (pt : Part) (h : pt ∉ [.cyc, .set, .time, .skim, .pair]) : (turnTo s f).part pt = s.part pt := by
  simp at h
  unfold turnTo
  dsimp only
  (repeat' split) <;> simp [h]

@[simp] theorem askPeerSchedule_only (s : State) (mism : Bool) (anew : Bool) (pt : Part) (h : pt ∉ [.out, .cyc]) : (askPeerSchedule s mism anew).part pt = s.part pt := by
  simp at h
  unfold askPeerSchedule
  dsimp only
  (repeat' split) <;> simp [h]

@[simp] theorem followStart_only (s : State) (f : Frame) (pt : Part) (h : pt ∉ [.set, .sleep, .time, .host, .skim, .cyc, .fld, .bridge, .recorder, .out, .pair]) : (followStart s f).part pt = s.part pt := by
  simp at h
  simp [followStart, h]

@[simp] theorem unknownCounter_only (s : State) (f : Frame) (pt : Part) (h : pt ∉ [.set, .cyc, .time, .skim, .bridge, .fld, .recorder, .host, .pair]) : (unknownCounter s f).part pt = s.part pt := by
  simp at h
  simp [unknownCounter, h]

@[simp] theorem clearCorrection_only (s : State) (pt : Part) (h : pt ∉ [.time]) : (clearCorrection s).part pt = s.part pt := by
  simp at h
  unfold clearCorrection
  dsimp only
  (repeat' split) <;> simp [h]

@[simp] theorem outsideStart_only (s : State) (f : Frame) (pt : Part) (h : pt ∉ [.cyc, .set, .time, .skim, .bridge, .fld, .recorder, .host, .pair]) : (outsideStart s f).part pt = s.part pt := by
  simp at h
  simp [outsideStart, h]

@[simp] theorem noteArrival_only (s : State) (p : LinePort) (f : Frame) (arrival : Int) (first : Bool) (pt : Part) (h : pt ∉ [.time]) : (noteArrival s p f arrival first).part pt = s.part pt := by
  simp at h
  unfold noteArrival
  dsimp only
  (repeat' split) <;> simp [h]

@[simp] theorem takeStart_only (s : State) (f : Frame) (pt : Part) (h : pt ∉ [.out, .cyc, .set, .time, .skim, .bridge, .fld, .recorder, .host, .pair, .sleep]) : (takeStart s f).part pt = s.part pt := by
  simp at h
  simp [takeStart, h]

@[simp] theorem openAbsorbed_only (s : State) (p : LinePort) (pt : Part) (h : pt ∉ [.set]) : (openAbsorbed s p).part pt = s.part pt := by
  simp at h
  unfold openAbsorbed
  dsimp only
  (repeat' split) <;> simp [h]

@[simp] theorem startDelivered_only (p : LinePort) (f : Frame) (arrival : Int) (s : State) (pt : Part) (h : pt ∉ [.set, .sleep, .time, .host, .skim, .line, .cyc, .fld, .bridge, .recorder, .out, .pair]) : (startDelivered p f arrival s).part pt = s.part pt := by
  simp at h
  simp [startDelivered, h]

@[simp] theorem holdTag_only (s : State) (x : TagSt) (pt : Part) (h : pt ∉ [.bridge]) : (holdTag s x).part pt = s.part pt := by
  simp at h
  simp [holdTag, h]

@[simp] theorem releaseTag_only (s : State) (t : Nat) (pt : Part) (h : pt ∉ [.bridge]) : (releaseTag s t).part pt = s.part pt := by
  simp at h
  simp [releaseTag, h]

@[simp] theorem updateTag_only (s : State) (t : Nat) (f : TagSt → TagSt) (pt : Part) (h : pt ∉ [.bridge]) : (updateTag s t f).part pt = s.part pt := by
  simp at h
  simp [updateTag, h]

@[simp] theorem holdResult_only (s : State) (t : Nat) (status : Nat) (data : Bytes) (f : TagSt → TagSt) (pt : Part) (h : pt ∉ [.bridge, .recorder]) : (holdResult s t status data f).part pt = s.part pt := by
  simp at h
  unfold holdResult
  split <;> simp [h]

@[simp] theorem noteFailure_only (s : State) (x : TagSt) (status failedUnit detail : Nat) (pt : Part) (h : pt ∉ [.bridge, .recorder, .host]) : (noteFailure s x status failedUnit detail).part pt = s.part pt := by
  simp at h
  unfold noteFailure
  dsimp only
  (repeat' split) <;> simp [h]

@[simp] theorem failWrite_only (s : State) (x : TagSt) (status : Nat) (failedUnit : Nat) (detail : Nat) (pt : Part) (h : pt ∉ [.host, .bridge, .recorder]) : (failWrite s x status failedUnit detail).part pt = s.part pt := by
  simp at h
  simp [failWrite, h]

@[simp] theorem failTag_only (s : State) (x : TagSt) (status : Nat) (failedUnit : Nat) (detail : Nat) (pt : Part) (h : pt ∉ [.host, .bridge, .recorder]) : (failTag s x status failedUnit detail).part pt = s.part pt := by
  simp at h
  simp [failTag, h]

@[simp] theorem orphan_only (s : State) (value : Val) (route : Nat) (farRoute : Nat) (tag : Nat) (initiator : Nat) (owner : Nat) (pt : Part) (h : pt ∉ [.bridge, .recorder]) : (orphan s value route farRoute tag initiator owner).part pt = s.part pt := by
  simp at h
  simp [orphan, h]

@[simp] theorem noteSent_only (s : State) (m : QMsg) (pt : Part) (h : pt ∉ [.bridge]) : (noteSent s m).1.part pt = s.part pt := by
  simp at h
  unfold noteSent
  split <;> simp [h]

@[simp] theorem sendMsg_only (s : State) (m : QMsg) (more : Bool) (pt : Part) (h : pt ∉ [.line, .out, .bridge]) : (sendMsg s m more).part pt = s.part pt := by
  simp at h
  simp [sendMsg, h]

@[simp] theorem sendMsgs_only (s : State) (more : Bool) (l : List QMsg) (pt : Part) (h : pt ∉ [.line, .bridge, .out]) :
    (sendMsgs s more l).part pt = s.part pt := by
  simp only [List.mem_cons, List.not_mem_nil, or_false, not_or] at h
  induction l generalizing s with
  | nil => rfl
  | cons m ms ih => cases ms <;> simp_all [sendMsgs]

@[simp] theorem sendGrant_only (s : State) (grant : Nat) (pt : Part) (h : pt ∉ [.line, .out, .bridge]) : (sendGrant s grant).1.part pt = s.part pt := by
  simp at h
  simp [sendGrant, h]

@[simp] theorem endSlot_only (s : State) (slot : Nat) (pt : Part) (h : pt ∉ [.host, .bridge, .recorder]) : (endSlot s slot).part pt = s.part pt := by
  simp at h
  simp [endSlot, h]

@[simp] theorem rebindBridge_only (s : State) (old : Option Numbering) (new : Option Numbering) (pt : Part) (h : pt ∉ [.host, .bridge, .recorder]) : (rebindBridge s old new).part pt = s.part pt := by
  simp at h
  simp [rebindBridge, h]

@[simp] theorem setVport_only (s : State) (v : Nat) (f : Vport → Vport) (pt : Part) (h : pt ∉ [.veh]) : (setVport s v f).part pt = s.part pt := by
  simp at h
  simp [setVport, h]

@[simp] theorem drainPort_only (v k used : Nat) (s : State) (pt : Part) (h : pt ∉ [.out, .veh]) :
    (drainPort v k used s).part pt = s.part pt := by
  simp only [List.mem_cons, List.not_mem_nil, or_false, not_or] at h
  induction k generalizing used s with
  | zero => rfl
  | succ k ih => unfold drainPort; dsimp only; split <;> (try split) <;> simp [h, ih]

@[simp] theorem vdrop_only (s : State) (v : Nat) (bit : Nat) (pt : Part) (h : pt ∉ [.veh]) : (vdrop s v bit).part pt = s.part pt := by
  simp at h
  simp [vdrop, h]

@[simp] theorem egress_only (s : State) (v : Nat) (queue : Nat) (gate : Option Nat) (f : VFrame) (pt : Part) (h : pt ∉ [.out, .veh]) : (egress s v queue gate f).part pt = s.part pt := by
  simp at h
  simp [egress, h]

@[simp] theorem sendEther_only (s : State) (i : Nat) (dst : Nat) (queue : Nat) (gate : Option Nat) (body : VBody) (pt : Part) (h : pt ∉ [.out, .veh]) : (sendEther s i dst queue gate body).part pt = s.part pt := by
  simp at h
  unfold sendEther
  split <;> simp [h]

@[simp] theorem sendArp_only (s : State) (i : Nat) (op : Nat) (tip : Nat) (tmac : Nat) (dst : Nat) (pt : Part) (h : pt ∉ [.out, .veh]) : (sendArp s i op tip tmac dst).part pt = s.part pt := by
  simp at h
  simp [sendArp, h]

@[simp] theorem gratuitous_only (s : State) (i : Nat) (pt : Part) (h : pt ∉ [.out, .veh]) : (gratuitous s i).part pt = s.part pt := by
  simp at h
  simp [gratuitous, h]

@[simp] theorem setArp_only (s : State) (a : ArpEntry) (pt : Part) (h : pt ∉ [.veh]) : (setArp s a).part pt = s.part pt := by
  simp at h
  simp [setArp, h]

@[simp] theorem startArp_only (s : State) (i : Nat) (ip : Nat) (held : List HeldOut) (pt : Part) (h : pt ∉ [.out, .veh]) : (startArp s i ip held).part pt = s.part pt := by
  simp at h
  simp [startArp, h]

@[simp] theorem sendIp_only (s : State) (i : Nat) (ip : Nat) (queue : Nat) (gate : Option Nat) (body : VBody) (pt : Part) (h : pt ∉ [.out, .veh]) : (sendIp s i ip queue gate body).part pt = s.part pt := by
  simp at h
  unfold sendIp
  (repeat' split) <;> simp [h]

@[simp] theorem setRing_only (s : State) (e : Nat) (r : Ring) (pt : Part) (h : pt ∉ [.veh]) : (setRing s e r).part pt = s.part pt := by
  simp at h
  simp [setRing, h]

@[simp] theorem writeRing_only (s : State) (e : Nat) (r : Ring) (f : RingFrame) (pt : Part) (h : pt ∉ [.host, .veh]) : (writeRing s e r f).part pt = s.part pt := by
  simp at h
  simp [writeRing, h]

@[simp] theorem setSeg_only (s : State) (k : Nat) (f : PeerSeg → PeerSeg) (pt : Part) (h : pt ∉ [.pair]) : (setSeg s k f).part pt = s.part pt := by
  simp at h
  simp [setSeg, h]

@[simp] theorem ringMark_only (s : State) (f : PeerSeg → PeerSeg) (pt : Part) (h : pt ∉ [.freeCount, .pair]) : (ringMark s f).part pt = s.part pt := by
  simp at h
  simp [ringMark, h]

@[simp] theorem ringStarved_only (s : State) (pt : Part) (h : pt ∉ [.freeCount, .pair]) : (ringStarved s).part pt = s.part pt := by
  simp at h
  simp [ringStarved, h]

@[simp] theorem starveRing_only (s : State) (e : Nat) (f : RingFrame) (pt : Part) (h : pt ∉ [.host, .line, .veh, .recorder, .freeCount, .pair]) : (starveRing s e f).part pt = s.part pt := by
  simp at h
  unfold starveRing
  (repeat' split) <;> simp [h]

@[simp] theorem toRing_only (s : State) (e : Nat) (f : RingFrame) (pt : Part) (h : pt ∉ [.host, .line, .veh, .recorder, .freeCount, .pair]) : (toRing s e f).1.part pt = s.part pt := by
  simp at h
  unfold toRing
  (repeat' split) <;> simp [h]

@[simp] theorem unstage_only (e k : Nat) (s : State) (pt : Part) (h : pt ∉ [.host, .veh]) :
    (unstage e k s).part pt = s.part pt := by
  simp only [List.mem_cons, List.not_mem_nil, or_false, not_or] at h
  induction k generalizing s with
  | zero => rfl
  | succ k ih => unfold unstage; split <;> (try split) <;> simp [h, ih]

@[simp] theorem returnDescs_only (s : State) (e : Nat) (count : Nat) (pt : Part) (h : pt ∉ [.host, .veh]) : (returnDescs s e count).part pt = s.part pt := by
  simp at h
  unfold returnDescs
  split <;> simp [h]

@[simp] theorem setChan_only (s : State) (k : Nat) (c : ChanSt) (pt : Part) (h : pt ∉ [.veh]) : (setChan s k c).part pt = s.part pt := by
  simp at h
  simp [setChan, h]

@[simp] theorem setSport_only (s : State) (p : Nat) (f : SPort → SPort) (pt : Part) (h : pt ∉ [.fld]) : (setSport s p f).part pt = s.part pt := by
  simp at h
  simp [setSport, h]

@[simp] theorem setCan_only (s : State) (c : Nat) (f : CanPort → CanPort) (pt : Part) (h : pt ∉ [.fld]) : (setCan s c f).part pt = s.part pt := by
  simp at h
  simp [setCan, h]

@[simp] theorem askCyclic_only (s : State) (k : Nat) (pt : Part) (h : pt ∉ [.bridge]) : (askCyclic s k).part pt = s.part pt := by
  simp at h
  unfold askCyclic
  dsimp only
  (repeat' split) <;> simp [h]

@[simp] theorem canSend_only (s : State) (c : Nat) (m : CanOut) (pt : Part) (h : pt ∉ [.out, .fld, .bridge]) : (canSend s c m).part pt = s.part pt := by
  simp at h
  simp [canSend, h]

@[simp] theorem flushCan_only (s : State) (c : Nat) (pt : Part) (h : pt ∉ [.out, .fld]) : (flushCan s c).part pt = s.part pt := by
  simp at h
  simp [flushCan, h]

@[simp] theorem flushCans_only (s : State) (pt : Part) (h : pt ∉ [.out, .fld]) : (flushCans s).part pt = s.part pt := by
  simp at h
  simp [flushCans, h]

@[simp] theorem sdoFrame_only (s : State) (c : Nat) (x : Sdo) (exempt : Bool) (data : Bytes) (pt : Part) (h : pt ∉ [.out, .fld, .bridge]) : (sdoFrame s c x exempt data).part pt = s.part pt := by
  simp at h
  simp [sdoFrame, h]

@[simp] theorem startSdo_only (s : State) (c : Nat) (x : Sdo) (exempt : Bool) (pt : Part) (h : pt ∉ [.out, .fld, .bridge]) : (startSdo s c x exempt).part pt = s.part pt := by
  simp at h
  simp [startSdo, h]

@[simp] theorem bridgeMsg_only (s : State) (dest : Nat) (kind : Nat) (tag : Nat) (body : Bytes) (pt : Part) (h : pt ∉ [.bridge]) : (bridgeMsg s dest kind tag body).part pt = s.part pt := by
  simp at h
  simp [bridgeMsg, h]

@[simp] theorem sendFarError_only (s : State) (dest : Nat) (tag : Nat) (targetKind : Nat) (failedUnit : Nat) (status : Nat) (target : Nat) (detail : Nat) (first : Nat) (count : Nat) (pt : Part) (h : pt ∉ [.bridge]) : (sendFarError s dest tag targetKind failedUnit status target detail first count).part pt = s.part pt := by
  simp at h
  simp [sendFarError, h]

@[simp] theorem sendResponse_only (s : State) (dest : Nat) (tag : Nat) (status : Nat) (side : Bool) (typ : Nat) (target : Nat) (owner : Nat) (failedUnit : Nat) (detail : Nat) (value : Val) (pt : Part) (h : pt ∉ [.bridge]) : (sendResponse s dest tag status side typ target owner failedUnit detail value).part pt = s.part pt := by
  simp at h
  simp [sendResponse, h]

@[simp] theorem raiseRoute_only (s : State) (route : Nat) (e : Bytes) (kind : Nat) (code : Nat) (payload : Bytes) (pt : Part) (h : pt ∉ [.bridge, .recorder]) : (raiseRoute s route e kind code payload).part pt = s.part pt := by
  simp at h
  unfold raiseRoute
  (repeat' split) <;> simp [h]

@[simp] theorem raiseKey_only (s : State) (sel : Bytes → Bool) (kind : Nat) (code : Nat) (payload : Bytes) (pt : Part) (h : pt ∉ [.bridge, .recorder]) : (raiseKey s sel kind code payload).part pt = s.part pt := by
  simp at h
  unfold raiseKey
  split <;> simp [h]

end Sys2Proof.Machine
end

