-- ==== Sys2Proof/Laws/Only3.lean ====
section
/-! SUPPORT. What the shared operations of FarSide, BridgeRows, Vehicle, Float can write: every other part of the
state is unchanged. -/

set_option Elab.async false
set_option linter.unusedSimpArgs false

namespace Sys2Proof.Machine

@[simp] theorem setSem_only (s : State) (x : SemSt) (pt : Part) (h : pt ∉ [.bridge]) : (setSem s x).part pt = s.part pt := by
  simp at h
  simp [setSem, h]

@[simp] theorem freeSem_only (s : State) (k : Nat) (pt : Part) (h : pt ∉ [.bridge]) : (freeSem s k).part pt = s.part pt := by
  simp at h
  simp [freeSem, h]

@[simp] theorem semReply_only (s : State) (channel : Nat) (tag : Nat) (op : Nat) (sem : Nat) (lease : Nat) (pt : Part) (h : pt ∉ [.bridge, .recorder]) : (semReply s channel tag op sem lease).part pt = s.part pt := by
  simp at h
  simp [semReply, h]

@[simp] theorem semRefuse_only (s : State) (channel : Nat) (tag : Nat) (op : Nat) (sem : Nat) (pt : Part) (h : pt ∉ [.bridge, .recorder]) : (semRefuse s channel tag op sem).part pt = s.part pt := by
  simp at h
  simp [semRefuse, h]

@[simp] theorem grantWaiter_only (s : State) (k : Nat) (pt : Part) (h : pt ∉ [.bridge, .recorder]) : (grantWaiter s k).part pt = s.part pt := by
  simp at h
  unfold grantWaiter
  (repeat' split) <;> simp [h]

@[simp] theorem semOperate_only (s : State) (op : Nat) (sem : Nat) (wait : Nat) (channel : Nat) (tag : Nat) (pt : Part) (h : pt ∉ [.bridge, .recorder]) : (semOperate s op sem wait channel tag).part pt = s.part pt := by
  simp at h
  unfold semOperate
  split <;> simp [h]

@[simp] theorem setTxn_only (s : State) (x : FarTxn) (y : FarTxn) (pt : Part) (h : pt ∉ [.bridge]) : (setTxn s x y).part pt = s.part pt := by
  simp at h
  simp [setTxn, h]

@[simp] theorem sendMd_only (s : State) (kind comId ip session result : Nat) (dataset : Bytes) (pt : Part) (h : pt ∉ [.out, .veh]) : (sendMd s kind comId ip session result dataset).part pt = s.part pt := by
  simp at h
  unfold sendMd
  dsimp only
  (repeat' split) <;> simp [h]

@[simp] theorem sendMr_only (s : State) (x : FarTxn) (pt : Part) (h : pt ∉ [.out, .veh]) : (sendMr s x).1.part pt = s.part pt := by
  simp at h
  unfold sendMr
  split <;> simp [h]

@[simp] theorem startUnit_only (s : State) (x : FarTxn) (pt : Part) (h : pt ∉ [.out, .veh, .fld, .bridge]) : (startUnit s x).part pt = s.part pt := by
  simp at h
  simp [startUnit, h]

@[simp] theorem dropTxn_only (s : State) (x : FarTxn) (pt : Part) (h : pt ∉ [.bridge]) : (dropTxn s x).part pt = s.part pt := by
  simp at h
  simp [dropTxn, h]

@[simp] theorem releaseFor_only (s : State) (x : FarTxn) (pt : Part) (h : pt ∉ [.bridge, .out, .fld, .recorder]) :
    (releaseFor s x).part pt = s.part pt := by
  have k : ∀ t : State, t.part pt = s.part pt → (if x.semHeld = true then
      match semOf t (rGroup x.entry) with
      | some m => if m.leaseEnd = 0 ∧ m.holder = x.replyTo then grantWaiter (freeSem t m.sem) m.sem else t
      | none => t
    else t).part pt = s.part pt := by
    intro t ht
    simp only [List.mem_cons, List.not_mem_nil, or_false, not_or] at h
    (repeat' split) <;> simp [h, ht]
  unfold releaseFor
  apply k
  simp only [List.mem_cons, List.not_mem_nil, or_false, not_or] at h
  split <;> simp [h]

@[simp] theorem answerTxn_only (s : State) (x : FarTxn) (status : Nat) (failedUnit : Nat) (detail : Nat) (value : Val) (pt : Part) (h : pt ∉ [.host, .bridge, .recorder]) : (answerTxn s x status failedUnit detail value).part pt = s.part pt := by
  simp at h
  unfold answerTxn
  (repeat' split) <;> simp [h]

@[simp] theorem setLocked_only (s : State) (tag : Nat) (f : LockedSeq → Option LockedSeq) (pt : Part) (h : pt ∉ [.bridge]) : (setLocked s tag f).part pt = s.part pt := by
  simp at h
  simp [setLocked, h]

@[simp] theorem endLocked_only (s : State) (q : LockedSeq) (status : Nat) (detail : Nat) (pt : Part) (h : pt ∉ [.out, .fld, .bridge, .recorder]) : (endLocked s q status detail).part pt = s.part pt := by
  simp at h
  simp [endLocked, h]

@[simp] theorem waitLock_only (s : State) (x : FarTxn) (pt : Part) (h : pt ∉ [.bridge]) : (waitLock s x).part pt = s.part pt := by
  simp at h
  simp [waitLock, h]

@[simp] theorem convertWrite_only (s : State) (x : FarTxn) (pt : Part) (h : pt ∉ [.freeCount, .route, .bridge, .recorder]) : (convertWrite s x).1.part pt = s.part pt := by
  simp at h
  unfold convertWrite
  dsimp only
  (repeat' split) <;> simp [h]

@[simp] theorem pumpWith_only (fin : State → FarTxn → Nat → Nat → Nat → Val → State) (s : State) (key : FarKey) (pt : Part)
    (h : pt ∉ [.fld, .out, .host, .bridge, .veh, .recorder, .freeCount, .route]) (hf : ∀ s x a b c v, (fin s x a b c v).part pt = s.part pt) :
    (pumpWith fin s key).part pt = s.part pt := by
  simp only [List.mem_cons, List.not_mem_nil, or_false, not_or] at h
  unfold pumpWith
  split
  · rfl
  · dsimp only
    (repeat' split) <;> simp [h, hf]

@[simp] theorem dropAhead_only (s : State) (k : FarKey) (pt : Part) (h : pt ∉ [.bridge]) : (dropAhead s k).part pt = s.part pt := by
  simp at h
  unfold dropAhead
  dsimp only
  (repeat' split) <;> simp [h]

@[simp] theorem finish_only (k : Nat) (s : State) (x : FarTxn) (st fu dt : Nat) (v : Val) (pt : Part) (h : pt ∉ [.fld, .out, .host, .bridge, .veh, .recorder, .freeCount, .route]) :
    (finish k s x st fu dt v).part pt = s.part pt := by
  have hh := h
  simp only [List.mem_cons, List.not_mem_nil, or_false, not_or] at h
  induction k generalizing s x st fu dt v with
  | zero => rfl
  | succ k ih =>
    have hp := fun s key => pumpWith_only (finish k) s key pt hh ih
    unfold finish
    dsimp only
    split
    · split
      · rw [hp]; simp [h]
      · split
        · rw [hp]; simp [h]
        · split
          · rw [hp]; simp [h]
          · rw [hp, hp]; simp [h]
    · rw [hp]; simp [h]

@[simp] theorem finishTxn_only (s : State) (x : FarTxn) (status : Nat) (failedUnit : Nat) (detail : Nat) (value : Val) (pt : Part) (h : pt ∉ [.host, .out, .veh, .fld, .bridge, .recorder, .freeCount, .route]) : (finishTxn s x status failedUnit detail value).part pt = s.part pt := by
  simp at h
  simp [finishTxn, h]

@[simp] theorem pumpKey_only (s : State) (key : FarKey) (pt : Part) (h : pt ∉ [.host, .out, .veh, .fld, .bridge, .recorder, .freeCount, .route]) : (pumpKey s key).part pt = s.part pt := by
  simp at h
  simp [pumpKey, h]

@[simp] theorem pumpAll_only (s : State) (pt : Part) (h : pt ∉ [.host, .out, .veh, .fld, .bridge, .recorder, .freeCount, .route]) : (pumpAll s).part pt = s.part pt := by
  simp at h
  simp [pumpAll, h]

@[simp] theorem enqueueFar_only (s : State) (x : FarTxn) (pt : Part) (h : pt ∉ [.host, .out, .veh, .fld, .bridge, .recorder, .freeCount, .route]) : (enqueueFar s x).part pt = s.part pt := by
  simp at h
  simp [enqueueFar, h]

@[simp] theorem keepAhead_only (s : State) (k : FarKey) (route off : Nat) (data : Bytes) (pt : Part) (h : pt ∉ [.route, .bridge, .recorder]) : (keepAhead s k route off data).part pt = s.part pt := by
  simp only [List.mem_cons, List.not_mem_nil, or_false, not_or] at h
  unfold keepAhead
  split
  · rfl
  · split
    · rfl
    · apply foldl_part
      intro s x
      dsimp only
      split <;> simp [h]

@[simp] theorem setShadowAt_only (s : State) (e : Bytes) (o : Nat) (b : Bytes) (pt : Part) (h : pt ∉ [.route]) : (setShadowAt s e o b).part pt = s.part pt := by
  simp at h
  unfold setShadowAt
  dsimp only
  (repeat' split) <;> simp [h]

@[simp] theorem completeUnit_only (s : State) (key : FarKey) (a : FarAnswer) (pt : Part) (h : pt ∉ [.route, .host, .out, .veh, .fld, .bridge, .recorder, .freeCount]) : (completeUnit s key a).part pt = s.part pt := by
  simp at h
  unfold completeUnit
  dsimp only
  (repeat' split) <;> simp [h]

@[simp] theorem failAccesses_only (sel : FarTxn → Bool) (detail k : Nat) (s : State) (pt : Part) (h : pt ∉ [.fld, .out, .host, .bridge, .veh, .recorder, .freeCount, .route]) :
    (failAccesses sel detail k s).part pt = s.part pt := by
  simp only [List.mem_cons, List.not_mem_nil, or_false, not_or] at h
  induction k generalizing s with
  | zero => rfl
  | succ k ih => unfold failAccesses; split <;> simp [h, ih]

@[simp] theorem failChannel_only (s : State) (ch : Nat) (detail : Nat) (pt : Part) (h : pt ∉ [.host, .out, .veh, .fld, .bridge, .recorder, .freeCount, .route]) : (failChannel s ch detail).part pt = s.part pt := by
  simp at h
  simp [failChannel, h]

@[simp] theorem markFailed_only (s : State) (i : Nat) (e : Bytes) (skim : Option Nat) (status : Nat) (failedUnit : Nat) (detail : Nat) (pt : Part) (h : pt ∉ [.route, .skim, .bridge]) : (markFailed s i e skim status failedUnit detail).part pt = s.part pt := by
  simp at h
  unfold markFailed
  dsimp only
  (repeat' split) <;> simp [h]

@[simp] theorem markWritten_only (s : State) (i : Nat) (e : Bytes) (raw : Nat) (pt : Part) (h : pt ∉ [.route, .skim]) : (markWritten s i e raw).part pt = s.part pt := by
  simp at h
  simp [markWritten, h]

@[simp] theorem takeMessage_only (s : State) (f : Frame) (kind : Nat) (act : State → State) (pt : Part) (h : pt ∉ [.bridge])
    (ha : ∀ s, (act s).part pt = s.part pt) : (takeMessage s f kind act).part pt = s.part pt := by
  simp only [List.mem_cons, List.not_mem_nil, or_false, not_or] at h
  unfold takeMessage
  split <;> simp [h, ha]

@[simp] theorem sequenced_only (s : State) (f : Frame) (act : State → State) (pt : Part) (h : pt ∉ [.bridge, .recorder])
    (ha : ∀ s, (act s).part pt = s.part pt) : (sequenced s f act).part pt = s.part pt := by
  simp only [List.mem_cons, List.not_mem_nil, or_false, not_or] at h
  unfold sequenced
  dsimp only
  split <;> (repeat' split) <;> simp [h, ha]

@[simp] theorem ownerWrite_only (s : State) (f : Frame) (b : Bytes) (pt : Part) (h : pt ∉ [.skim, .bridge]) : (ownerWrite s f b).part pt = s.part pt := by
  simp at h
  unfold ownerWrite
  dsimp only
  (repeat' split) <;> simp [h]

@[simp] theorem resolveLost_only (s : State) (r : SentRec) (pt : Part) (h : pt ∉ [.host, .bridge, .recorder]) : (resolveLost s r).part pt = s.part pt := by
  simp at h
  unfold resolveLost
  dsimp only
  (repeat' split) <;> simp [h]

@[simp] theorem receiveAnn_only (s : State) (source : Nat) (b : Bytes) (pt : Part) (h : pt ∉ [.bridge, .recorder]) : (receiveAnn s source b).part pt = s.part pt := by
  simp at h
  simp [receiveAnn, h]

@[simp] theorem countIdle_only (s : State) (pt : Part) (h : pt ∉ [.bridge]) : (countIdle s).part pt = s.part pt := by
  simp at h
  simp [countIdle, h]

@[simp] theorem dropCarrier_only (s : State) (key : FarKey) (pt : Part) (h : pt ∉ [.veh, .fld]) : (dropCarrier s key).part pt = s.part pt := by
  simp at h
  simp [dropCarrier, h]

@[simp] theorem toResolving_only (s : State) (k : Nat) (pt : Part) (h : pt ∉ [.host, .out, .veh, .fld, .bridge, .recorder, .freeCount, .route]) : (toResolving s k).part pt = s.part pt := by
  simp at h
  simp [toResolving, h]

@[simp] theorem unresolve_only (s : State) (sel : ChanSt → Bool) (pt : Part) (h : pt ∉ [.host, .out, .veh, .fld, .bridge, .recorder, .freeCount, .route]) : (unresolve s sel).part pt = s.part pt := by
  simp at h
  simp [unresolve, h]

@[simp] theorem learn_only (s : State) (v : Nat) (f : VFrame) (pt : Part) (h : pt ∉ [.veh]) : (learn s v f).part pt = s.part pt := by
  simp at h
  simp [learn, h]

@[simp] theorem switchFrame_only (s : State) (v : Nat) (f : VFrame) (b : Bytes) (pt : Part) (h : pt ∉ [.host, .line, .out, .veh, .recorder, .freeCount, .pair]) : (switchFrame s v f b).part pt = s.part pt := by
  simp at h
  simp [switchFrame, h]

@[simp] theorem moveGates_only (s : State) (v : Nat) (pt : Part) (h : pt ∉ [.out, .veh]) : (moveGates s v).part pt = s.part pt := by
  simp at h
  simp [moveGates, h]

@[simp] theorem dropArp_only (s : State) (i : Nat) (ip : Nat) (pt : Part) (h : pt ∉ [.veh]) : (dropArp s i ip).part pt = s.part pt := by
  simp at h
  simp [dropArp, h]

@[simp] theorem trdpHeader_only (s : State) (t : TrdpIn) (act : State → State) (pt : Part) (h : pt ∉ [.recorder])
    (ha : ∀ s, (act s).part pt = s.part pt) : (trdpHeader s t act).part pt = s.part pt := by
  simp only [List.mem_cons, List.not_mem_nil, or_false, not_or] at h
  unfold trdpHeader
  (repeat' split) <;> simp [h, ha]

@[simp] theorem markImage_only (s : State) (k : FarKey) (fresh : FarImage → Bool) (pt : Part) (h : pt ∉ [.route]) : (markImage s k fresh).part pt = s.part pt := by
  simp at h
  unfold markImage
  dsimp only
  (repeat' split) <;> simp [h]

@[simp] theorem ageSubscriptions_only (s : State) (ts : Int) (pt : Part) (h : pt ∉ [.route]) :
    (ageSubscriptions s ts).part pt = s.part pt := by
  simp at h
  simp [ageSubscriptions, h]

@[simp] theorem sendPtp_only (s : State) (v : Nat) (kind : Nat) (seq : Nat) (b : Bytes) (pt : Part) (h : pt ∉ [.out]) : (sendPtp s v kind seq b).part pt = s.part pt := by
  simp at h
  simp [sendPtp, h]

@[simp] theorem storeImage_only (s : State) (k : FarKey) (d : Bytes) (pt : Part) (h : pt ∉ [.route]) : (storeImage s k d).part pt = s.part pt := by
  simp at h
  simp [storeImage, h]

@[simp] theorem handTxn_only (s : State) (p : Nat) (t : SerialTxn) (pt : Part) (h : pt ∉ [.fld]) : (handTxn s p t).part pt = s.part pt := by
  simp at h
  simp [handTxn, h]

end Sys2Proof.Machine
end

