-- ==== Sys2Proof/Laws/Only4.lean ====
section
/-! SUPPORT. What the shared operations of Float, FieldBus, Channel, Setout can write: every other part of the
state is unchanged. -/

set_option Elab.async false
set_option linter.unusedSimpArgs false

namespace Sys2Proof.Machine

@[simp] theorem closeCycle_only (s : State) (p : Nat) (pt : Part) (h : pt ∉ [.route, .fld]) : (closeCycle s p).part pt = s.part pt := by
  simp at h
  simp [closeCycle, h]

@[simp] theorem failSerial_only (s : State) (t : SerialTxn) (status : Nat) (detail : Nat) (pt : Part) (h : pt ∉ [.route, .host, .skim, .out, .veh, .fld, .bridge, .recorder, .freeCount]) : (failSerial s t status detail).part pt = s.part pt := by
  simp at h
  unfold failSerial
  split <;> simp [h]

@[simp] theorem finishSerial_only (s : State) (p : Nat) (t : SerialTxn) (data : Bytes) (pt : Part) (h : pt ∉ [.fld, .out, .host, .bridge, .veh, .route, .skim, .recorder, .freeCount]) :
    (finishSerial s p t data).part pt = s.part pt := by
  simp only [List.mem_cons, List.not_mem_nil, or_false, not_or] at h
  unfold finishSerial
  dsimp only
  split
  · split
    · simp [h]
    · rw [foldl_part]
      · simp [h]
      · intro s x; exact markWritten_only s x.1 x.2.1 x.2.2 pt (by simp [h])
  · split <;> simp [h]
  · split <;> simp [h]

@[simp] theorem releaseCyclic_only (s : State) (p : Nat) (pt : Part) (h : pt ∉ [.bridge]) : (releaseCyclic s p).part pt = s.part pt := by
  simp at h
  unfold releaseCyclic
  dsimp only
  (repeat' split) <;> simp [h]

@[simp] theorem endSerial_only (s : State) (p : Nat) (cls : Nat) (code : Nat) (data : Bytes) (pt : Part) (h : pt ∉ [.route, .host, .skim, .out, .veh, .fld, .bridge, .recorder, .freeCount]) : (endSerial s p cls code data).part pt = s.part pt := by
  simp at h
  unfold endSerial
  split <;> simp [h]

@[simp] theorem failPort_only (s : State) (p : Nat) (detail : Nat) (pt : Part) (h : pt ∉ [.route, .host, .skim, .out, .veh, .fld, .bridge, .recorder, .freeCount]) : (failPort s p detail).part pt = s.part pt := by
  simp at h
  simp [failPort, h]

@[simp] theorem floatFault_only (s : State) (k : Nat) (code : Nat) (detail : Nat) (index : Nat) (pt : Part) (h : pt ∉ [.route, .host, .skim, .out, .veh, .fld, .bridge, .recorder, .freeCount]) : (floatFault s k code detail index).part pt = s.part pt := by
  simp at h
  simp [floatFault, h]

@[simp] theorem settleEnd_only (s : State) (k : Nat) (f : FloatSt) (pt : Part) (h : pt ∉ [.route, .host, .skim, .out, .veh, .fld, .bridge, .recorder, .freeCount]) : (settleEnd s k f).part pt = s.part pt := by
  simp at h
  unfold settleEnd
  split <;> simp [h]

@[simp] theorem floatRow_only (s : State) (k op : Nat) (act : Word32 → FEnv → FloatSt → FRes) (pt : Part) (h : pt ∉ [.out, .host, .freeCount, .bridge, .fld, .veh, .skim, .route, .recorder]) :
    (floatRow s k op act).part pt = s.part pt := by
  simp only [List.mem_cons, List.not_mem_nil, or_false, not_or] at h
  unfold floatRow
  generalize floatEnv s k = env
  generalize floatOf s k = f
  dsimp only
  split
  · rfl
  · split
    · rfl
    · split <;> simp [h]

@[simp] theorem sendSerial_only (s t : State) (k : Nat) (pt : Part) (h : pt ∉ [.out, .fld]) :
    (sendSerial s t k).part pt = t.part pt := by
  simp only [List.mem_cons, List.not_mem_nil, or_false, not_or] at h
  unfold sendSerial
  dsimp only
  split <;> (try split) <;> simp [h]

@[simp] theorem progLog_only (s : State) (sub : Nat) (p : Program) (pt : Part) (h : pt ∉ [.recorder]) : (progLog s sub p).part pt = s.part pt := by
  simp at h
  simp [progLog, h]

@[simp] theorem mvbAnnounce_only (s : State) (p : Nat) (d : MvbDevice) (new : Nat) (old : Nat) (pt : Part) (h : pt ∉ [.bridge, .recorder]) : (mvbAnnounce s p d new old).part pt = s.part pt := by
  simp at h
  simp [mvbAnnounce, h]

@[simp] theorem mvbStatus_only (s : State) (p : Nat) (addr : Nat) (w : Option Nat) (pt : Part) (h : pt ∉ [.fld, .bridge, .recorder]) : (mvbStatus s p addr w).part pt = s.part pt := by
  simp at h
  unfold mvbStatus
  dsimp only
  (repeat' split) <;> simp [h]

@[simp] theorem mvbSeen_only (s : State) (p : Nat) (lineB : Bool) (pt : Part) (h : pt ∉ [.fld]) : (mvbSeen s p lineB).part pt = s.part pt := by
  simp at h
  simp [mvbSeen, h]

@[simp] theorem mvbOutputs_only (s : State) (outs : List StagedOut) (pt : Part) (h : pt ∉ [.fld]) : (mvbOutputs s outs).part pt = s.part pt := by
  simp at h
  simp [mvbOutputs, h]

@[simp] theorem nmt_only (s : State) (c : Nat) (cmd : NmtCommand) (node : Nat) (pt : Part) (h : pt ∉ [.out, .fld, .bridge]) : (nmt s c cmd node).part pt = s.part pt := by
  simp at h
  simp [nmt, h]

@[simp] theorem setNode_only (s : State) (c : Nat) (node : Nat) (f : CanNodeSt → CanNodeSt) (pt : Part) (h : pt ∉ [.fld]) : (setNode s c node f).part pt = s.part pt := by
  simp at h
  simp [setNode, h]

@[simp] theorem rebootNode_only (s : State) (c : Nat) (node : Nat) (pt : Part) (h : pt ∉ [.out, .fld, .bridge]) : (rebootNode s c node).part pt = s.part pt := by
  simp at h
  simp [rebootNode, h]

@[simp] theorem bootStep_only (s : State) (c : Nat) (node : Nat) (pt : Part) (h : pt ∉ [.out, .fld, .bridge]) : (bootStep s c node).part pt = s.part pt := by
  simp at h
  unfold bootStep
  (repeat' split) <;> simp [h]

@[simp] theorem takeCan_only (s : State) (c : Nat) (sel : CanIn → Bool) (act : State → State) (pt : Part) (h : pt ∉ [.fld])
    (ha : ∀ s, (act s).part pt = s.part pt) : (takeCan s c sel act).part pt = s.part pt := by
  simp only [List.mem_cons, List.not_mem_nil, or_false, not_or] at h
  unfold takeCan
  split <;> simp [h, ha]

@[simp] theorem endSdo_only (s : State) (c : Nat) (x : Sdo) (a : FarAnswer) (pt : Part) (h : pt ∉ [.route, .host, .out, .veh, .fld, .bridge, .recorder, .freeCount]) : (endSdo s c x a).part pt = s.part pt := by
  simp at h
  unfold endSdo
  (repeat' split) <;> simp [h]

@[simp] theorem nextSdo_only (s : State) (c : Nat) (x : Sdo) (data : Bytes) (pt : Part) (h : pt ∉ [.out, .fld, .bridge]) : (nextSdo s c x data).part pt = s.part pt := by
  simp at h
  simp [nextSdo, h]

@[simp] theorem sdoSegment_only (s : State) (c : Nat) (x : Sdo) (pt : Part) (h : pt ∉ [.out, .fld, .bridge]) : (sdoSegment s c x).part pt = s.part pt := by
  simp at h
  simp [sdoSegment, h]

@[simp] theorem sdoAnswer_only (s : State) (c : Nat) (x : Sdo) (d : Bytes) (pt : Part) (h : pt ∉ [.route, .host, .out, .veh, .fld, .bridge, .recorder, .freeCount]) : (sdoAnswer s c x d).part pt = s.part pt := by
  simp at h
  simp [sdoAnswer, h]

@[simp] theorem canOutputs_only (s : State) (n : Nat) (outs : List StagedOut) (pt : Part) (h : pt ∉ [.out, .fld, .skim, .route, .bridge]) :
    (canOutputs s n outs).part pt = s.part pt := by
  simp only [List.mem_cons, List.not_mem_nil, or_false, not_or] at h
  unfold canOutputs
  apply foldl_part
  intro s c
  apply foldl_part
  intro s x
  dsimp only
  split
  · rfl
  · split
    all_goals
      rw [foldl_part]
      · simp [h]
      · intro s o; simp [h]

@[simp] theorem ageField_only (s : State) (ts : Int) (pt : Part) (h : pt ∉ [.route, .fld]) : (ageField s ts).part pt = s.part pt := by
  simp at h
  simp [ageField, h]

@[simp] theorem chanAlarm_only (s : State) (ch : Nat) (reason : Nat) (code : Nat) (payload : Bytes) (pt : Part) (h : pt ∉ [.bridge, .recorder]) : (chanAlarm s ch reason code payload).part pt = s.part pt := by
  simp at h
  simp [chanAlarm, h]

@[simp] theorem dropSems_only (s : State) (ch : Nat) (pt : Part) (h : pt ∉ [.freeCount, .out, .route, .bridge, .veh, .fld, .recorder, .host]) : (dropSems s ch).part pt = s.part pt := by
  simp at h
  unfold dropSems
  dsimp only
  (repeat' split) <;> simp [h]

@[simp] theorem enterChan_only (s : State) (ch : Nat) (st : ChanState) (detail : Nat) (pt : Part) (h : pt ∉ [.host, .out, .veh, .fld, .bridge, .recorder, .freeCount, .route]) : (enterChan s ch st detail).part pt = s.part pt := by
  simp at h
  unfold enterChan
  (repeat' split) <;> simp [h]

@[simp] theorem failOuts_only (s : State) (ch st detail : Nat) (pt : Part) (h : pt ∉ [.route, .skim, .bridge]) : (failOuts s ch st detail).part pt = s.part pt := by
  simp at h
  unfold failOuts
  split <;> simp [h]

@[simp] theorem passOuts_only (s : State) (ch : Nat) (pt : Part) (h : pt ∉ [.route, .skim]) : (passOuts s ch).part pt = s.part pt := by
  simp at h
  unfold passOuts
  split <;> simp [h]

@[simp] theorem profileFault_only (s : State) (ch : Nat) (code : Nat) (detail : Nat) (index : Nat) (pt : Part) (h : pt ∉ [.route, .skim, .host, .out, .veh, .fld, .bridge, .recorder, .freeCount]) : (profileFault s ch code detail index).part pt = s.part pt := by
  simp at h
  simp [profileFault, h]

@[simp] theorem keepChannel_only (s : State) (ch : Nat) (f : FloatSt) (pt : Part) (h : pt ∉ [.veh]) : (keepChannel s ch f).part pt = s.part pt := by
  simp at h
  unfold keepChannel
  dsimp only
  (repeat' split) <;> simp [h]

@[simp] theorem sendRequest_only (s : State) (ch : Nat) (mode : Nat) (gate : Option Nat) (leaves : Nat) (r : Option (Except (Nat × Nat × FloatSt) FloatSt)) (pt : Part) (h : pt ∉ [.route, .skim, .freeCount, .host, .out, .veh, .fld, .bridge, .recorder]) : (sendRequest s ch mode gate leaves r).part pt = s.part pt := by
  simp at h
  unfold sendRequest
  split <;> simp [h]

@[simp] theorem answerDemand_only (s : State) (ch : Nat) (a : FarAnswer) (pt : Part) (h : pt ∉ [.route, .host, .out, .veh, .fld, .bridge, .recorder, .freeCount]) : (answerDemand s ch a).part pt = s.part pt := by
  simp at h
  unfold answerDemand
  split <;> simp [h]

@[simp] theorem missChan_only (s : State) (ch : Nat) (pt : Part) (h : pt ∉ [.skim, .route, .host, .out, .veh, .fld, .bridge, .recorder, .freeCount]) : (missChan s ch).part pt = s.part pt := by
  simp at h
  unfold missChan
  dsimp only
  (repeat' split) <;> simp [h]

@[simp] theorem acceptChan_only (s : State) (ch : Nat) (isException : Bool) (pt : Part) (h : pt ∉ [.host, .out, .veh, .fld, .bridge, .recorder, .freeCount, .route]) : (acceptChan s ch isException).part pt = s.part pt := by
  simp at h
  unfold acceptChan
  dsimp only
  (repeat' split) <;> simp [h]

@[simp] theorem profileAlarm_only (s : State) (ch : Nat) (f : FloatSt) (pt : Part) (h : pt ∉ [.freeCount, .bridge, .recorder]) : (profileAlarm s ch f).part pt = s.part pt := by
  simp at h
  unfold profileAlarm
  split <;> simp [h]

@[simp] theorem ageChannels_only (s : State) (pt : Part) (h : pt ∉ [.route]) : (ageChannels s).part pt = s.part pt := by
  simp at h
  simp [ageChannels, h]

@[simp] theorem sendClaim_only (s : State) (flags : Nat) (pt : Part) (h : pt ∉ [.line, .out]) : (sendClaim s flags).part pt = s.part pt := by
  simp at h
  simp [sendClaim, h]

@[simp] theorem probePort_only (s : State) (p : LinePort) (pt : Part) (h : pt ∉ [.time, .line, .out]) : (probePort s p).part pt = s.part pt := by
  simp at h
  simp [probePort, h]

@[simp] theorem enterWaiting_only (s : State) (pt : Part) (h : pt ∉ [.set]) : (enterWaiting s).part pt = s.part pt := by
  simp at h
  simp [enterWaiting, h]

@[simp] theorem enterSettling_only (s : State) (pt : Part) (h : pt ∉ [.set]) : (enterSettling s).part pt = s.part pt := by
  simp at h
  simp [enterSettling, h]

@[simp] theorem enterClaiming_only (s : State) (pt : Part) (h : pt ∉ [.set, .line, .out]) : (enterClaiming s).part pt = s.part pt := by
  simp at h
  simp [enterClaiming, h]

@[simp] theorem openRun_only (s : State) (no : Nat) (pt : Part) (h : pt ∉ [.set, .line, .out]) : (openRun s no).part pt = s.part pt := by
  simp at h
  simp [openRun, h]

@[simp] theorem sendNumbering_only (s : State) (t : Numbering) (pt : Part) (h : pt ∉ [.line, .out]) : (sendNumbering s t).part pt = s.part pt := by
  simp at h
  simp [sendNumbering, h]

@[simp] theorem electCommit_only (s : State) (pt : Part) (h : pt ∉ [.set]) : (electCommit s).part pt = s.part pt := by
  simp at h
  simp [electCommit, h]

@[simp] theorem retrainLine_only (s : State) (l : Line) (pt : Part) (h : pt ∉ [.line]) : (retrainLine s l).part pt = s.part pt := by
  simp at h
  simp [retrainLine, h]

@[simp] theorem remapAll_only (s : State) (old : Numbering) (new : Numbering) (pt : Part) (h : pt ∉ [.set, .sleep, .time, .cyc]) : (remapAll s old new).part pt = s.part pt := by
  simp at h
  simp [remapAll, h]

@[simp] theorem keepBoundaries_only (s : State) (pt : Part) (h : pt ∉ [.set]) : (keepBoundaries s).part pt = s.part pt := by
  simp at h
  unfold keepBoundaries
  dsimp only
  (repeat' split) <;> simp [h]

@[simp] theorem leaveGrid_only (s : State) (n : Nat) (pt : Part) (h : pt ∉ [.skim, .recorder]) : (leaveGrid s n).part pt = s.part pt := by
  simp at h
  simp [leaveGrid, h]

@[simp] theorem adoptNumbering_only (s : State) (t : Numbering) (pt : Part) (h : pt ∉ [.set, .sleep, .time, .host, .line, .cyc, .bridge, .recorder, .freeCount, .skim]) : (adoptNumbering s t).part pt = s.part pt := by
  simp only [List.mem_cons, List.not_mem_nil, or_false, not_or] at h
  unfold adoptNumbering
  simp only []
  split <;> first | rfl | simp [h] | (split <;> first | rfl | simp [h])

@[simp] theorem yieldTo_only (s : State) (key : Nat) (pt : Part) (h : pt ∉ [.set]) : (yieldTo s key).part pt = s.part pt := by
  simp at h
  simp [yieldTo, h]

@[simp] theorem lapseSetout_only (s : State) (peer : OpenEnds) (pt : Part) (h : pt ∉ [.set, .time, .host, .line, .out, .cyc]) : (lapseSetout s peer).part pt = s.part pt := by
  simp at h
  simp [lapseSetout, h]

end Sys2Proof.Machine
end

