-- ==== Sys2Proof/Laws/Only5.lean ====
section
/-! SUPPORT. What the shared operations of Setout, SafeOps, SafeIo, PairOps, Commit, Recorder can write: every
other part of the state is unchanged. -/

set_option Elab.async false
set_option linter.unusedSimpArgs false

namespace Sys2Proof.Machine

@[simp] theorem exchangeFrames_only (s : State) (p : LinePort) (pt : Part) (h : pt ∉ [.line, .out]) : (exchangeFrames s p).part pt = s.part pt := by
  simp at h
  unfold exchangeFrames
  split <;> simp [h]

@[simp] theorem openRelay_only (s : State) (l : Line) (pt : Part) (h : pt ∉ [.line]) : (openRelay s l).part pt = s.part pt := by
  simp at h
  simp [openRelay, h]

@[simp] theorem closeRelays_only (s : State) (pt : Part) (h : pt ∉ [.line]) : (closeRelays s).part pt = s.part pt := by
  simp at h
  simp [closeRelays, h]

@[simp] theorem sendMirror_only (s : State) (type : Nat) (skim : Nat) (units : List Nat) (content : Bytes) (pt : Part) (h : pt ∉ [.out]) : (sendMirror s type skim units content).part pt = s.part pt := by
  simp at h
  simp [sendMirror, h]

@[simp] theorem mirrorRecord_only (s : State) (type : Nat) (skim : Nat) (content : Bytes) (pt : Part) (h : pt ∉ [.out, .bridge]) : (mirrorRecord s type skim content).part pt = s.part pt := by
  simp at h
  simp [mirrorRecord, h]

@[simp] theorem noteSafe_only (b s : State) (pt : Part) (h : pt ∉ [.host]) : (noteSafe b s).part pt = s.part pt := by
  simp only [List.mem_cons, List.not_mem_nil, or_false, not_or] at h
  simp [noteSafe, h]

@[simp] theorem logMismatch_only (s : State) (lane : Nat) (outcome : Nat) (clock : Nat) (pt : Part) (h : pt ∉ [.safe, .recorder]) : (logMismatch s lane outcome clock).part pt = s.part pt := by
  simp at h
  simp [logMismatch, h]

@[simp] theorem dropOutputs_only (s : State) (pt : Part) (h : pt ∉ [.safe]) : (dropOutputs s).part pt = s.part pt := by
  simp at h
  simp [dropOutputs, h]

@[simp] theorem discardStaged_only (s : State) (pt : Part) (h : pt ∉ [.safe, .skim]) : (discardStaged s).part pt = s.part pt := by
  simp at h
  simp [discardStaged, h]

@[simp] theorem holdOutputs_only (s : State) (pt : Part) (h : pt ∉ [.safe]) : (holdOutputs s).part pt = s.part pt := by
  simp at h
  simp [holdOutputs, h]

@[simp] theorem endCondition_only (s : State) (pt : Part) (h : pt ∉ [.safe]) : (endCondition s).part pt = s.part pt := by
  simp at h
  simp [endCondition, h]

@[simp] theorem goSafe_only (s : State) (pt : Part) (h : pt ∉ [.safe, .skim]) : (goSafe s).part pt = s.part pt := by
  simp at h
  simp [goSafe, h]

@[simp] theorem resetCores_only (s : State) (pt : Part) (h : pt ∉ [.safe]) : (resetCores s).part pt = s.part pt := by
  simp at h
  unfold resetCores
  dsimp only
  (repeat' split) <;> simp [h]

@[simp] theorem enterHalted_only (s : State) (pt : Part) (h : pt ∉ [.safe, .skim]) : (enterHalted s).part pt = s.part pt := by
  simp at h
  simp [enterHalted, h]

@[simp] theorem noMajority_only (s : State) (pt : Part) (h : pt ∉ [.safe, .skim]) : (noMajority s).part pt = s.part pt := by
  simp at h
  simp [noMajority, h]

@[simp] theorem startScratch_only (s : State) (pt : Part) (h : pt ∉ [.safe, .skim]) : (startScratch s).part pt = s.part pt := by
  simp at h
  simp [startScratch, h]

@[simp] theorem clearCounts_only (s : State) (pt : Part) (h : pt ∉ [.safe]) : (clearCounts s).part pt = s.part pt := by
  simp at h
  simp [clearCounts, h]

@[simp] theorem setCore_only (s : State) (core : Nat) (f : CoreSt → CoreSt) (pt : Part) (h : pt ∉ [.safe]) : (setCore s core f).part pt = s.part pt := by
  simp at h
  unfold setCore
  dsimp only
  (repeat' split) <;> simp [h]

@[simp] theorem failCore_only (s : State) (core : Nat) (pt : Part) (h : pt ∉ [.safe, .recorder]) : (failCore s core).part pt = s.part pt := by
  simp at h
  simp [failCore, h]

@[simp] theorem unclean_only (s : State) (pt : Part) (h : pt ∉ [.safe]) : (unclean s).part pt = s.part pt := by
  simp at h
  simp [unclean, h]

@[simp] theorem namedMinority_only (s : State) (core : Nat) (pt : Part) (h : pt ∉ [.safe, .recorder]) : (namedMinority s core).part pt = s.part pt := by
  simp at h
  simp [namedMinority, h]

@[simp] theorem coreDiffers_only (s : State) (core : Nat) (lane : Nat) (clock : Nat) (parity : Bool) (pt : Part) (h : pt ∉ [.safe, .skim, .recorder]) : (coreDiffers s core lane clock parity).part pt = s.part pt := by
  simp at h
  simp [coreDiffers, h]

@[simp] theorem runCores_only (s : State) (pt : Part) (h : pt ∉ [.safe]) : (runCores s).part pt = s.part pt := by
  simp at h
  unfold runCores
  dsimp only
  (repeat' split) <;> simp [h]

@[simp] theorem beginCycle_only (s : State) (r : SkimRec) (pt : Part) (h : pt ∉ [.safe]) : (beginCycle s r).part pt = s.part pt := by
  simp at h
  simp [beginCycle, h]

@[simp] theorem overrunAt_only (s : State) (old : Nat) (n : Nat) (pt : Part) (h : pt ∉ [.safe, .skim, .recorder]) : (overrunAt s old n).part pt = s.part pt := by
  simp at h
  simp [overrunAt, h]

@[simp] theorem coreRuns_only (s : State) (pt : Part) (h : pt ∉ [.safe, .freeCount]) : (coreRuns s).part pt = s.part pt := by
  simp at h
  simp [coreRuns, h]

@[simp] theorem enterSplit_only (s : State) (x : SplitSt) (pt : Part) (h : pt ∉ [.safe, .freeCount, .skim]) : (enterSplit s x).part pt = s.part pt := by
  simp at h
  simp [enterSplit, h]

@[simp] theorem commitSafety_only (s : State) (pt : Part) (h : pt ∉ [.safe, .freeCount, .skim, .recorder]) : (commitSafety s).part pt = s.part pt := by
  simp at h
  unfold commitSafety
  (repeat' split) <;> simp [h]

@[simp] theorem stageResults_only (s : State) (c : SafeCycle) (pt : Part) (h : pt ∉ [.safe, .skim]) : (stageResults s c).part pt = s.part pt := by
  simp at h
  unfold stageResults
  split <;> simp [h]

@[simp] theorem writeCheckpoint_only (s : State) (c : SafeCycle) (pt : Part) (h : pt ∉ [.safe, .freeCount]) : (writeCheckpoint s c).part pt = s.part pt := by
  simp at h
  simp [writeCheckpoint, h]

@[simp] theorem faultChannel_only (s : State) (k : Nat) (pt : Part) (h : pt ∉ [.safe, .recorder]) : (faultChannel s k).part pt = s.part pt := by
  simp at h
  simp [faultChannel, h]

@[simp] theorem faultSafeOff_only (s : State) (shown : BitVec 8) (pt : Part) (h : pt ∉ [.safe, .recorder]) : (faultSafeOff s shown).part pt = s.part pt := by
  simp at h
  simp [faultSafeOff, h]

@[simp] theorem findOutputFaults_only (s : State) (inp : SampleIn) (pt : Part) (h : pt ∉ [.safe, .recorder]) : (findOutputFaults s inp).part pt = s.part pt := by
  simp at h
  simp [findOutputFaults, h]

@[simp] theorem liftOutputFaults_only (s : State) (clean : List Nat) (all : Bool) (pt : Part) (h : pt ∉ [.safe]) : (liftOutputFaults s clean all).part pt = s.part pt := by
  simp at h
  simp [liftOutputFaults, h]

@[simp] theorem compareReadback_only (s : State) (inp : SampleIn) (pt : Part) (h : pt ∉ [.safe, .recorder]) : (compareReadback s inp).part pt = s.part pt := by
  simp at h
  simp [compareReadback, h]

@[simp] theorem clearOutputFault_only (s : State) (k : Nat) (pt : Part) (h : pt ∉ [.safe]) : (clearOutputFault s k).part pt = s.part pt := by
  simp at h
  simp [clearOutputFault, h]

@[simp] theorem latchIo_only (s : State) (n : Nat) (inp : SampleIn) (pt : Part) (h : pt ∉ [.safe]) : (latchIo s n inp).part pt = s.part pt := by
  simp at h
  simp [latchIo, h]

@[simp] theorem endHold_only (s : State) (n : Nat) (pt : Part) (h : pt ∉ [.safe, .img]) : (endHold s n).part pt = s.part pt := by
  simp at h
  unfold endHold
  split <;> simp [h]

@[simp] theorem applySafe_only (s : State) (n : Nat) (pt : Part) (h : pt ∉ [.safe, .img]) : (applySafe s n).part pt = s.part pt := by
  simp at h
  simp [applySafe, h]

@[simp] theorem sendImages_only (s : State) (n : Nat) (outs : List StagedOut) (pt : Part) (h : pt ∉ [.out, .pair, .bridge]) : (sendImages s n outs).part pt = s.part pt := by
  simp at h
  simp [sendImages, h]

@[simp] theorem sendControl_only (s : State) (pt : Part) (h : pt ∉ [.out, .pair]) : (sendControl s).part pt = s.part pt := by
  simp at h
  simp [sendControl, h]

@[simp] theorem setRole_only (s : State) (r : Role) (pt : Part) (h : pt ∉ [.host, .pair, .recorder]) : (setRole s r).part pt = s.part pt := by
  simp at h
  simp [setRole, h]

@[simp] theorem leaveRole_only (s : State) (pt : Part) (h : pt ∉ [.set, .safe, .host, .pair, .recorder]) : (leaveRole s).part pt = s.part pt := by
  simp at h
  simp [leaveRole, h]

@[simp] theorem renewWatchdog_only (s : State) (pt : Part) (h : pt ∉ [.pair]) : (renewWatchdog s).part pt = s.part pt := by
  simp at h
  simp [renewWatchdog, h]

@[simp] theorem freshBridge_only (s : State) (pt : Part) (h : pt ∉ [.bridge, .recorder]) : (freshBridge s).part pt = s.part pt := by
  simp at h
  simp [freshBridge, h]

@[simp] theorem takeWarm_only (s : State) (pt : Part) (h : pt ∉ [.route, .skim, .recorder]) : (takeWarm s).part pt = s.part pt := by
  simp at h
  simp [takeWarm, h]

@[simp] theorem takeCold_only (s : State) (j : Nat) (pt : Part) (h : pt ∉ [.skim, .pair, .recorder]) : (takeCold s j).part pt = s.part pt := by
  simp at h
  simp [takeCold, h]

@[simp] theorem becomeComposing_only (s : State) (r : Role) (warm : Bool) (pt : Part) (h : pt ∉ [.set, .route, .host, .skim, .pair, .bridge, .recorder]) : (becomeComposing s r warm).part pt = s.part pt := by
  simp at h
  simp [becomeComposing, h]

@[simp] theorem assertRole_only (s : State) (pt : Part) (h : pt ∉ [.pair]) : (assertRole s).part pt = s.part pt := by
  simp at h
  simp [assertRole, h]

@[simp] theorem stepOdometry_only (s : State) (r : SkimRec) (pt : Part) (h : pt ∉ [.time, .freeCount]) : (stepOdometry s r).part pt = s.part pt := by
  simp at h
  unfold stepOdometry
  dsimp only
  (repeat' split) <;> simp [h]

@[simp] theorem noteGap_only (s : State) (n : Nat) (published : Bool) (pt : Part) (h : pt ∉ [.pair]) : (noteGap s n published).part pt = s.part pt := by
  simp at h
  simp [noteGap, h]

@[simp] theorem outSide_only (s : State) (n : Nat) (pt : Part) (h : pt ∉ [.route, .freeCount, .skim, .out, .pair, .bridge, .recorder]) : (outSide s n).part pt = s.part pt := by
  simp at h
  simp [outSide, h]

@[simp] theorem commitAll_only (s : State) (pt : Part) (h : pt ∉ [.route, .safe, .time, .freeCount, .host, .skim, .out, .pair, .bridge, .recorder]) : (commitAll s).part pt = s.part pt := by
  simp at h
  unfold commitAll
  dsimp only
  (repeat' split) <;> simp [h]

@[simp] theorem setCode_only (s : State) (c : Nat) (x : CodeStat) (pt : Part) (h : pt ∉ [.recorder]) : (setCode s c x).part pt = s.part pt := by
  simp at h
  simp [setCode, h]

@[simp] theorem dropRecord_only (s : State) (c : Nat) (pt : Part) (h : pt ∉ [.recorder]) : (dropRecord s c).part pt = s.part pt := by
  simp at h
  simp [dropRecord, h]

@[simp] theorem yieldPlace_only (s : State) (x : Option Staged) (pt : Part) (h : pt ∉ [.recorder]) : (yieldPlace s x).part pt = s.part pt := by
  simp at h
  cases x <;> simp [yieldPlace, h]

@[simp] theorem stageRecord_only (s : State) (r : Record) (free : Bool) (pt : Part) (h : pt ∉ [.recorder]) : (stageRecord s r free).part pt = s.part pt := by
  simp at h
  simp [stageRecord, h]

@[simp] theorem fireTrigger_only (s : State) (t : TriggerCfg) (pt : Part) (h : pt ∉ [.host, .skim, .recorder]) : (fireTrigger s t).part pt = s.part pt := by
  simp at h
  simp [fireTrigger, h]

@[simp] theorem fireTriggers_only (s : State) (c : Nat) (v : Int) (pt : Part) (h : pt ∉ [.host, .skim, .recorder]) : (fireTriggers s c v).part pt = s.part pt := by
  simp at h
  simp [fireTriggers, h]

@[simp] theorem recordEvent_only (s : State) (r : Report) (pt : Part) (h : pt ∉ [.host, .skim, .recorder]) : (recordEvent s r).part pt = s.part pt := by
  simp only [List.mem_cons, List.not_mem_nil, or_false, not_or] at h
  unfold recordEvent
  dsimp only
  (repeat' split) <;> first | rfl | simp [h]

@[simp] theorem recordNow_only (s : State) (c : Nat) (subsystem : Nat) (v : Int) (rest : Bytes) (pt : Part) (h : pt ∉ [.host, .skim, .recorder]) : (recordNow s c subsystem v rest).part pt = s.part pt := by
  simp at h
  simp [recordNow, h]

@[simp] theorem writeSummary_only (s : State) (partial_ : Bool) (primer : Bool) (pt : Part) (h : pt ∉ [.recorder]) : (writeSummary s partial_ primer).part pt = s.part pt := by
  simp at h
  unfold writeSummary
  (repeat' split) <;> simp [h]

@[simp] theorem flushStaging_only (s : State) (pt : Part) (h : pt ∉ [.recorder]) : (flushStaging s).part pt = s.part pt := by
  simp at h
  simp [flushStaging, h]

end Sys2Proof.Machine
end

