-- ==== Sys2Proof/Laws/Only6.lean ====
section
/-! SUPPORT. What the shared operations of Recorder, Sample, Pair, Tables, Boot, Sleep can write: every other part
of the state is unchanged. -/

set_option Elab.async false
set_option linter.unusedSimpArgs false

namespace Sys2Proof.Machine

@[simp] theorem startRecorder_only (s : State) (source : Nat) (pt : Part) (h : pt ∉ [.host, .skim, .recorder]) : (startRecorder s source).part pt = s.part pt := by
  simp at h
  simp [startRecorder, h]

@[simp] theorem stopRecorder_only (s : State) (pt : Part) (h : pt ∉ [.recorder]) : (stopRecorder s).part pt = s.part pt := by
  simp at h
  simp [stopRecorder, h]

@[simp] theorem recordPowerFail_only (s : State) (supply : Nat) (pt : Part) (h : pt ∉ [.host, .skim, .recorder]) : (recordPowerFail s supply).part pt = s.part pt := by
  simp at h
  simp [recordPowerFail, h]

@[simp] theorem recordPowerRestored_only (s : State) (pt : Part) (h : pt ∉ [.host, .skim, .recorder]) : (recordPowerRestored s).part pt = s.part pt := by
  simp at h
  unfold recordPowerRestored
  split <;> simp [h]

@[simp] theorem recordSleep_only (s : State) (c : Nat) (holders : Bytes) (pt : Part) (h : pt ∉ [.host, .skim, .recorder]) : (recordSleep s c holders).part pt = s.part pt := by
  simp at h
  simp [recordSleep, h]

@[simp] theorem judgeTachs_only (s : State) (a : TachIn) (b : TachIn) (pt : Part) (h : pt ∉ [.time, .freeCount]) : (judgeTachs s a b).part pt = s.part pt := by
  simp at h
  unfold judgeTachs
  split <;> simp [h]

@[simp] theorem sendTraffic_only (s : State) (n : Nat) (pt : Part) (h : pt ∉ [.out]) : (sendTraffic s n).part pt = s.part pt := by
  simp at h
  unfold sendTraffic
  split <;> simp [h]

@[simp] theorem renewHawk_only (s : State) (pt : Part) (h : pt ∉ [.pair]) : (renewHawk s).part pt = s.part pt := by
  simp at h
  simp [renewHawk, h]

@[simp] theorem nameSwitch_only (s : State) (pt : Part) (h : pt ∉ [.pair]) : (nameSwitch s).part pt = s.part pt := by
  simp at h
  simp [nameSwitch, h]

@[simp] theorem firstFit_only (s : State) (pt : Part) (h : pt ∉ [.pair]) : (firstFit s).part pt = s.part pt := by
  simp at h
  simp [firstFit, h]

@[simp] theorem releaseUnfit_only (s : State) (pt : Part) (h : pt ∉ [.pair]) : (releaseUnfit s).part pt = s.part pt := by
  simp at h
  simp [releaseUnfit, h]

@[simp] theorem drivePulses_only (s : State) (wire : Option LinePort) (link : Option Nat) (pt : Part) (h : pt ∉ [.sleep, .out]) : (drivePulses s wire link).part pt = s.part pt := by
  simp at h
  simp [drivePulses, h]

@[simp] theorem countCycle_only (s : State) (pt : Part) (h : pt ∉ [.img, .pair, .recorder]) : (countCycle s).part pt = s.part pt := by
  simp at h
  simp [countCycle, h]

@[simp] theorem measureSupply_only (s : State) (inp : SampleIn) (pt : Part) (h : pt ∉ [.start, .recorder]) : (measureSupply s inp).part pt = s.part pt := by
  simp at h
  simp [measureSupply, h]

@[simp] theorem takeInputs_only (s : State) (pt : Part) (h : pt ∉ [.out, .recorder, .route]) : (takeInputs s).1.part pt = s.part pt := by
  simp at h
  unfold takeInputs
  split <;> simp [h]

@[simp] theorem latchAll_only (s : State) (inp : SampleIn) (pt : Part) (h : pt ∉ [.route, .safe, .time, .freeCount, .skim, .out, .start, .fld, .bridge, .recorder]) : (latchAll s inp).part pt = s.part pt := by
  simp at h
  simp [latchAll, h]

@[simp] theorem trackInputs_only (s : State) (pt : Part) (h : pt ∉ [.sleep]) : (trackInputs s).part pt = s.part pt := by
  simp at h
  simp [trackInputs, h]

@[simp] theorem noteReasons_only (s : State) (pt : Part) (h : pt ∉ [.sleep]) : (noteReasons s).part pt = s.part pt := by
  simp at h
  simp [noteReasons, h]

@[simp] theorem staysAwake_only (s : State) (pt : Part) (h : pt ∉ [.sleep, .out]) : (staysAwake s).part pt = s.part pt := by
  simp at h
  simp [staysAwake, h]

@[simp] theorem applyImages_only (s : State) (outs : List StagedOut) (pt : Part) (h : pt ∉ [.route]) : (applyImages s outs).part pt = s.part pt := by
  simp at h
  simp [applyImages, h]

@[simp] theorem applyRoutes_only (s : State) (n : Nat) (pt : Part) (h : pt ∉ [.route, .skim, .out, .fld, .bridge]) : (applyRoutes s n).part pt = s.part pt := by
  simp at h
  unfold applyRoutes
  dsimp only
  (repeat' split) <;> simp [h]

@[simp] theorem becomeUnplaced_only (s : State) (pt : Part) (h : pt ∉ [.safe, .line, .pair, .recorder, .unplaced]) : (becomeUnplaced s).part pt = s.part pt := by
  simp at h
  simp [becomeUnplaced, h]

@[simp] theorem ackHawk_only (s : State) (u : Nat) (e : Nat) (pt : Part) (h : pt ∉ [.out, .pair]) : (ackHawk s u e).part pt = s.part pt := by
  simp at h
  simp [ackHawk, h]

@[simp] theorem countVote_only (s : State) (from_ : Nat) (e : Nat) (pt : Part) (h : pt ∉ [.pair]) : (countVote s from_ e).part pt = s.part pt := by
  simp at h
  simp [countVote, h]

@[simp] theorem hawkRecord_only (s : State) (u : Nat) (b : Bytes) (pt : Part) (h : pt ∉ [.out, .pair]) : (hawkRecord s u b).part pt = s.part pt := by
  simp at h
  unfold hawkRecord
  split <;> simp [h]

@[simp] theorem keepRecord_only (s : State) (u : Nat) (id : Nat) (cycle : Nat) (b : Bytes) (pt : Part) (h : pt ∉ [.pair]) : (keepRecord s u id cycle b).part pt = s.part pt := by
  simp at h
  simp [keepRecord, h]

@[simp] theorem seeRelease_only (s : State) (r : PeerRec) (pt : Part) (h : pt ∉ [.pair]) : (seeRelease s r).part pt = s.part pt := by
  simp at h
  simp [seeRelease, h]

@[simp] theorem mirrorPart_only (s : State) (type : Nat) (skim : Nat) (part : Nat) (parts : Nat) (content : Bytes) (pt : Part) (h : pt ∉ [.pair]) : (mirrorPart s type skim part parts content).1.part pt = s.part pt := by
  simp at h
  unfold mirrorPart
  dsimp only
  (repeat' split) <;> simp [h]

@[simp] theorem mirrorImage_only (s : State) (skim : Nat) (b : Bytes) (fallback : Bool) (pt : Part) (h : pt ∉ [.pair]) : (mirrorImage s skim b fallback).part pt = s.part pt := by
  simp at h
  simp [mirrorImage, h]

@[simp] theorem mirrorSafety_only (s : State) (b : Bytes) (pt : Part) (h : pt ∉ [.pair, .recorder]) : (mirrorSafety s b).part pt = s.part pt := by
  simp at h
  simp [mirrorSafety, h]

@[simp] theorem mirrorRecordPart_only (s : State) (type skim part parts : Nat) (content : Bytes) (act : State → Bytes → State) (pt : Part) (h : pt ∉ [.pair])
    (ha : ∀ s b, (act s b).part pt = s.part pt) : (mirrorRecordPart s type skim part parts content act).part pt = s.part pt := by
  have k := mirrorPart_only s type skim part parts content pt h
  unfold mirrorRecordPart
  split
  · rfl
  · split <;> simp_all

@[simp] theorem trafficUp_only (s : State) (u n : Nat) (b : Bytes) (pt : Part) (h : pt ∉ [.skim, .route, .recorder]) :
    (trafficUp s u n b).part pt = s.part pt := by
  simp only [List.mem_cons, List.not_mem_nil, or_false, not_or] at h
  unfold trafficUp
  split
  · rfl
  · rw [part_upd_skim _ _ _ (by simp [h]), foldl_fst_part]
    intro a x
    dsimp only
    split <;> (try split) <;> simp [h]

@[simp] theorem trafficDown_only (s : State) (n : Nat) (b : Bytes) (pt : Part) (h : pt ∉ [.skim]) : (trafficDown s n b).part pt = s.part pt := by
  simp at h
  simp [trafficDown, h]

@[simp] theorem noteIlk_only (s : State) (pt : Part) (h : pt ∉ [.pair]) : (noteIlk s).part pt = s.part pt := by
  simp at h
  simp [noteIlk, h]

@[simp] theorem loseIlk_only (s : State) (pt : Part) (h : pt ∉ [.set, .safe, .host, .pair, .recorder]) : (loseIlk s).part pt = s.part pt := by
  simp at h
  simp [loseIlk, h]

@[simp] theorem takeLineDuty_only (s : State) (pt : Part) (h : pt ∉ [.set, .pair]) : (takeLineDuty s).part pt = s.part pt := by
  simp at h
  simp [takeLineDuty, h]

@[simp] theorem releaseHawk_only (s : State) (pt : Part) (h : pt ∉ [.set, .safe, .host, .out, .pair, .recorder]) : (releaseHawk s).part pt = s.part pt := by
  simp at h
  simp [releaseHawk, h]

@[simp] theorem receiveGrant_only (s : State) (u : Nat) (e : Nat) (pt : Part) (h : pt ∉ [.set, .safe, .host, .pair, .recorder]) : (receiveGrant s u e).part pt = s.part pt := by
  simp at h
  simp [receiveGrant, h]

@[simp] theorem beginChannel_only (s : State) (ch : Nat) (e : Bytes) (pt : Part) (h : pt ∉ [.out, .veh]) : (beginChannel s ch e).part pt = s.part pt := by
  simp at h
  simp [beginChannel, h]

@[simp] theorem setBanks_only (s : State) (kind : Nat) (b : Banks) (pt : Part) (h : pt ∉ [.img]) : (setBanks s kind b).part pt = s.part pt := by
  simp at h
  simp [setBanks, h]

@[simp] theorem rejectLost_only (s : State) (pt : Part) (h : pt ∉ [.img]) : (rejectLost s).part pt = s.part pt := by
  simp at h
  simp [rejectLost, h]

@[simp] theorem holdComplex_only (s : State) (pt : Part) (h : pt ∉ [.safe]) : (holdComplex s).part pt = s.part pt := by
  simp at h
  simp [holdComplex, h]

@[simp] theorem mgmtDown_only (s : State) (pt : Part) (h : pt ∉ [.set, .sleep, .route, .safe, .time, .host, .skim, .img, .veh, .start, .fld, .mon, .cmd, .pair, .bridge, .pres, .recorder]) : (mgmtDown s).part pt = s.part pt := by
  simp at h
  simp [mgmtDown, h]

@[simp] theorem beginReset_only (s : State) (cause : Nat) (pt : Part) (h : pt ∉ [.set, .sleep, .route, .safe, .time, .host, .skim, .img, .veh, .start, .fld, .mon, .cmd, .pair, .bridge, .pres, .recorder]) : (beginReset s cause).part pt = s.part pt := by
  simp at h
  simp [beginReset, h]

@[simp] theorem islandDown_only (s : State) (pt : Part) (h : pt ∉ [.set, .time, .line, .cyc, .pair]) : (islandDown s).part pt = s.part pt := by
  simp at h
  simp [islandDown, h]

@[simp] theorem powerLost_only (s : State) (pt : Part) (h : pt ∉ [.set, .sleep, .cfg, .route, .safe, .time, .host, .skim, .line, .img, .veh, .cyc, .start, .fld, .mon, .cmd, .pair, .bridge, .pres, .recorder]) : (powerLost s).part pt = s.part pt := by
  simp at h
  simp [powerLost, h]

@[simp] theorem powerOn_only (s : State) (upos : BitVec 3) (alarmLost : Bool) (pt : Part) (h : pt ∉ [.img, .unplaced, .upos, .host, .unitNo, .time, .start, .sleep]) :
    (powerOn s upos alarmLost).part pt = s.part pt := by
  cases pt <;> first | rfl | exact absurd (by decide) h

@[simp] theorem adoptConfig_only (s : State) (cfg : Option Cfg) (log : List (Nat × Bool)) (pt : Part) (h : pt ∉ [.cfg, .img, .cyc, .start]) : (adoptConfig s cfg log).part pt = s.part pt := by
  simp at h
  simp [adoptConfig, h]

@[simp] theorem placeUnit_only (s : State) (pt : Part) (h : pt ∉ [.unplaced, .pair]) : (placeUnit s).part pt = s.part pt := by
  simp at h
  simp [placeUnit, h]

@[simp] theorem startIsland_only (s : State) (pt : Part) (h : pt ∉ [.line, .start, .out]) : (startIsland s).part pt = s.part pt := by
  simp at h
  simp [startIsland, h]

@[simp] theorem takeWakeLatch_only (s : State) (pt : Part) (h : pt ∉ [.sleep, .start, .out]) : (takeWakeLatch s).part pt = s.part pt := by
  simp at h
  unfold takeWakeLatch
  split <;> simp [h]

@[simp] theorem loadTables_only (s : State) (c : Cfg) (pt : Part) (h : pt ∉ [.route, .safe, .time, .out, .veh, .fld, .mon, .recorder]) : (loadTables s c).part pt = s.part pt := by
  simp at h
  simp [loadTables, h]

@[simp] theorem leaveSleep_only (s : State) (src : Nat) (pt : Part) (h : pt ∉ [.sleep, .time, .host, .img, .start, .recorder]) : (leaveSleep s src).part pt = s.part pt := by
  simp at h
  simp [leaveSleep, h]

@[simp] theorem leaveLineKeeping_only (s : State) (src : Nat) (pt : Part) (h : pt ∉ [.sleep, .host, .img, .start, .recorder]) : (leaveLineKeeping s src).part pt = s.part pt := by
  simp at h
  simp [leaveLineKeeping, h]

end Sys2Proof.Machine
end

