-- ==== Sys2Proof/Laws/Only7.lean ====
section
/-! SUPPORT. What the shared operations of Sleep, Renumber, Window, Text, Presence, Session, Remote can write:
every other part of the state is unchanged. -/

set_option Elab.async false
set_option linter.unusedSimpArgs false

namespace Sys2Proof.Machine

@[simp] theorem latchWake_only (s : State) (src : Nat) (wide : Bool) (pt : Part) (h : pt ∉ [.sleep]) : (latchWake s src wide).part pt = s.part pt := by
  simp at h
  simp [latchWake, h]

@[simp] theorem requestWake_only (s : State) (src : Nat) (wide : Bool) (relayed : Bool) (pt : Part) (h : pt ∉ [.sleep, .time, .host, .img, .out, .start, .recorder]) : (requestWake s src wide relayed).part pt = s.part pt := by
  simp at h
  unfold requestWake
  (repeat' split) <;> simp [h]

@[simp] theorem setRtc_only (s : State) (pt : Part) (h : pt ∉ [.sleep, .start]) : (setRtc s).part pt = s.part pt := by
  simp at h
  simp [setRtc, h]

@[simp] theorem closeForSleep_only (s : State) (c : Nat) (pt : Part) (h : pt ∉ [.host, .recorder, .skim]) : (closeForSleep s c).part pt = s.part pt := by
  simp at h
  simp [closeForSleep, h]

@[simp] theorem stopForSleep_only (s : State) (c : Nat) (pt : Part) (h : pt ∉ [.bridge, .cmd, .fld, .host, .img, .mon, .pair, .pres, .recorder, .route, .safe, .set, .skim, .sleep, .start, .time, .veh]) : (stopForSleep s c).part pt = s.part pt := by
  simp at h
  simp [stopForSleep, h]

@[simp] theorem enterSleep_only (s : State) (c : Nat) (pt : Part) (h : pt ∉ [.set, .sleep, .route, .safe, .time, .host, .skim, .img, .out, .veh, .cyc, .start, .fld, .mon, .cmd, .pair, .bridge, .pres, .recorder]) : (enterSleep s c).part pt = s.part pt := by
  simp at h
  simp [enterSleep, h]

@[simp] theorem actOnLatch_only (s : State) (pt : Part) (h : pt ∉ [.sleep, .time, .host, .img, .out, .start, .recorder]) : (actOnLatch s).part pt = s.part pt := by
  simp at h
  unfold actOnLatch
  split <;> simp [h]

@[simp] theorem countFalseWake_only (s : State) (pt : Part) (h : pt ∉ [.sleep, .host, .skim, .recorder]) : (countFalseWake s).part pt = s.part pt := by
  simp at h
  simp [countFalseWake, h]

@[simp] theorem ownFarTable_only (s : State) (pt : Part) (h : pt ∉ [.set]) : (ownFarTable s).part pt = s.part pt := by
  simp at h
  unfold ownFarTable
  split <;> simp [h]

@[simp] theorem issueNumbering_only (s : State) (pt : Part) (h : pt ∉ [.set, .sleep, .freeCount, .line, .out, .recorder]) : (issueNumbering s).part pt = s.part pt := by
  simp at h
  unfold issueNumbering
  dsimp only
  (repeat' split) <;> simp [h]

@[simp] theorem sendOwn_only (s : State) (ftype : Nat) (channel : Nat) (extra : Nat) (payload : Bytes) (pt : Part) (h : pt ∉ [.line, .out, .pair]) : (sendOwn s ftype channel extra payload).part pt = s.part pt := by
  simp at h
  simp [sendOwn, h]

@[simp] theorem publishFrame_only (slot : Nat) (last : Nat) (s : State) (k : Nat) (p : Bytes × Bool) (pt : Part) (h : pt ∉ [.skim, .line, .out, .pair, .recorder]) : (publishFrame slot last s k p).part pt = s.part pt := by
  simp at h
  simp [publishFrame, h]

@[simp] theorem publish_only (s : State) (x : Slot) (pt : Part) (h : pt ∉ [.skim, .line, .out, .pair, .recorder]) : (publish s x).part pt = s.part pt := by
  simp at h
  simp [publish, h]

@[simp] theorem hearFrom_only (s : State) (pos : Nat) (pt : Part) (h : pt ∉ [.set]) : (hearFrom s pos).part pt = s.part pt := by
  simp at h
  simp [hearFrom, h]

@[simp] theorem sendMark_only (s : State) (pt : Part) (h : pt ∉ [.out, .pair]) : (sendMark s).part pt = s.part pt := by
  simp at h
  simp [sendMark, h]

@[simp] theorem planFor_only (s : State) (guard n : Nat) (pt : Part) (h : pt ∉ [.cyc]) : (planFor s guard n).part pt = s.part pt := by
  simp at h
  unfold planFor
  dsimp only
  (repeat' split) <;> simp [h]

@[simp] theorem withOwnTurn_only (s : State) (pt : Part) (h : pt ∉ [.cyc]) : (withOwnTurn s).part pt = s.part pt := by
  simp at h
  simp [withOwnTurn, h]

@[simp] theorem keepPlan_only (s : State) (pt : Part) (h : pt ∉ [.cyc]) : (keepPlan s).part pt = s.part pt := by
  simp at h
  simp [keepPlan, h]

@[simp] theorem sendGrantTo_only (s : State) (e : Entry) (pt : Part) (h : pt ∉ [.set, .safe, .host, .pair, .bridge, .recorder]) : (sendGrantTo s e).part pt = s.part pt := by
  simp at h
  unfold sendGrantTo
  split <;> simp [h]

@[simp] theorem roleGrants_only (s : State) (pt : Part) (h : pt ∉ [.set, .safe, .host, .pair, .bridge, .recorder]) : (roleGrants s).part pt = s.part pt := by
  simp at h
  simp [roleGrants, h]

@[simp] theorem pollBurst_only (s : State) (l : List PollSeen) (pt : Part) (h : pt ∉ [.line, .out, .cyc]) : (pollBurst s l).part pt = s.part pt := by
  simp at h
  simp [pollBurst, h]

@[simp] theorem repeatFallback_only (s : State) (pt : Part) (h : pt ∉ [.line, .out, .cyc]) : (repeatFallback s).part pt = s.part pt := by
  simp at h
  simp [repeatFallback, h]

@[simp] theorem askSchedule_only (s : State) (pt : Part) (h : pt ∉ [.bridge]) : (askSchedule s).part pt = s.part pt := by
  simp at h
  unfold askSchedule
  split <;> simp [h]

@[simp] theorem sendFarTable_only (s : State) (pt : Part) (h : pt ∉ [.set, .bridge]) : (sendFarTable s).part pt = s.part pt := by
  simp at h
  unfold sendFarTable
  (repeat' split) <;> simp [h]

@[simp] theorem trackLineKeeping_only (s : State) (pt : Part) (h : pt ∉ [.sleep]) : (trackLineKeeping s).part pt = s.part pt := by
  simp at h
  simp [trackLineKeeping, h]

@[simp] theorem slotSettled_only (s : State) (ftype : Nat) (c : Bytes) (pt : Part) (h : pt ∉ [.set]) : (slotSettled s ftype c).part pt = s.part pt := by
  simp at h
  unfold slotSettled
  dsimp only
  (repeat' split) <;> simp [h]

@[simp] theorem slotExtra_only (s : State) (pt : Part) (h : pt ∉ [.line, .set, .out]) :
    (slotExtra s).part pt = s.part pt := by
  simp only [List.mem_cons, List.not_mem_nil, or_false, not_or] at h
  unfold slotExtra
  (repeat' split) <;> simp [h]

@[simp] theorem noteVote_only (s : State) (key : Nat) (vote : Nat) (bitmap : Nat) (pt : Part) (h : pt ∉ [.sleep]) : (noteVote s key vote bitmap).part pt = s.part pt := by
  simp at h
  simp [noteVote, h]

@[simp] theorem cancelSleep_only (s : State) (pt : Part) (h : pt ∉ [.sleep]) : (cancelSleep s).part pt = s.part pt := by
  simp at h
  unfold cancelSleep
  split <;> simp [h]

@[simp] theorem countHolder_only (s : State) (slot : Nat) (unit : Nat) (bitmap : Nat) (pt : Part) (h : pt ∉ [.sleep]) : (countHolder s slot unit bitmap).part pt = s.part pt := by
  simp at h
  simp [countHolder, h]

@[simp] theorem countHolders_only (s : State) (pt : Part) (h : pt ∉ [.sleep]) : (countHolders s).part pt = s.part pt := by
  unfold countHolders
  apply foldl_part
  intro s x
  apply foldl_part
  intro s x
  exact countHolder_only _ _ _ _ _ h

@[simp] theorem trackPartial_only (s : State) (pt : Part) (h : pt ∉ [.sleep]) : (trackPartial s).part pt = s.part pt := by
  simp at h
  simp [trackPartial, h]

@[simp] theorem announceSleep_only (s : State) (pt : Part) (h : pt ∉ [.sleep]) : (announceSleep s).part pt = s.part pt := by
  simp at h
  simp [announceSleep, h]

@[simp] theorem ownVote_only (s : State) (pt : Part) (h : pt ∉ [.sleep, .out]) : (ownVote s).part pt = s.part pt := by
  simp at h
  simp [ownVote, h]

@[simp] theorem printLine_only (s : State) (t : String) (pt : Part) (h : pt ∉ [.out]) : (printLine s t).part pt = s.part pt := by
  simp at h
  simp [printLine, h]

@[simp] theorem sendPrompt_only (s : State) (pt : Part) (h : pt ∉ [.out]) : (sendPrompt s).part pt = s.part pt := by
  simp at h
  simp [sendPrompt, h]

@[simp] theorem sendBanner_only (s : State) (pt : Part) (h : pt ∉ [.out]) : (sendBanner s).part pt = s.part pt := by
  simp at h
  simp [sendBanner, h]

@[simp] theorem logWindow_only (s : State) (input : Nat) (what : Nat) (pt : Part) (h : pt ∉ [.recorder]) : (logWindow s input what).part pt = s.part pt := by
  simp at h
  simp [logWindow, h]

@[simp] theorem logSeal_only (s : State) (isOpen : Bool) (pt : Part) (h : pt ∉ [.recorder]) : (logSeal s isOpen).part pt = s.part pt := by
  simp at h
  simp [logSeal, h]

@[simp] theorem lapseForces_only (s : State) (pt : Part) (h : pt ∉ [.skim, .recorder]) : (lapseForces s).part pt = s.part pt := by
  simp at h
  simp [lapseForces, h]

@[simp] theorem lapseTransfers_only (s : State) (pt : Part) (h : pt ∉ [.img, .cmd]) : (lapseTransfers s).part pt = s.part pt := by
  simp at h
  simp [lapseTransfers, h]

@[simp] theorem afterClose_only (s : State) (pt : Part) (h : pt ∉ [.skim, .img, .cmd, .recorder]) : (afterClose s).part pt = s.part pt := by
  simp at h
  simp [afterClose, h]

@[simp] theorem dropSplit_only (s : State) (pt : Part) (h : pt ∉ [.safe, .skim, .out]) : (dropSplit s).part pt = s.part pt := by
  simp at h
  simp [dropSplit, h]

@[simp] theorem touchSession_only (s : State) (x : Session) (pt : Part) (h : pt ∉ [.cmd]) : (touchSession s x).part pt = s.part pt := by
  simp at h
  simp [touchSession, h]

@[simp] theorem adjSession_only (s : State) (x : Session) (f : SessSt → SessSt) (pt : Part) (h : pt ∉ [.cmd]) : (adjSession s x f).part pt = s.part pt := by
  simp at h
  simp [adjSession, h]

@[simp] theorem placeReply_only (s : State) (r : Bytes) (pt : Part) (h : pt ∉ [.host]) : (placeReply s r).part pt = s.part pt := by
  simp at h
  simp [placeReply, h]

@[simp] theorem lineReply_only (s : State) (chan : Nat) (tag : Nat) (r : Bytes) (pt : Part) (h : pt ∉ [.bridge]) : (lineReply s chan tag r).part pt = s.part pt := by
  simp at h
  simp [lineReply, h]

@[simp] theorem monitorReply_only (s : State) (r : Bytes) (pt : Part) (h : pt ∉ [.out, .mon]) : (monitorReply s r).part pt = s.part pt := by
  simp at h
  simp [monitorReply, h]

@[simp] theorem sendReply_only (s : State) (x : Session) (tag : Nat) (r : Bytes) (pt : Part) (h : pt ∉ [.host, .out, .veh, .mon, .bridge]) : (sendReply s x tag r).part pt = s.part pt := by
  simp at h
  unfold sendReply
  split <;> simp [h]

@[simp] theorem refuse_only (s : State) (x : Session) (tag : Nat) (head : Bytes) (st : Nat) (pt : Part) (h : pt ∉ [.host, .out, .veh, .mon, .bridge]) : (refuse s x tag head st).part pt = s.part pt := by
  simp at h
  simp [refuse, h]

@[simp] theorem reply_only (s : State) (p : Packet) (st : Nat) (data : Bytes) (pt : Part) (h : pt ∉ [.host, .out, .veh, .mon, .cmd, .bridge]) : (reply s p st data).part pt = s.part pt := by
  simp at h
  simp [reply, h]

@[simp] theorem acceptRequest_only (s : State) (r : OpSpec) (p : Packet) (pt : Part) (h : pt ∉ [.host, .out, .veh, .mon, .cmd, .bridge]) : (acceptRequest s r p).part pt = s.part pt := by
  simp at h
  unfold acceptRequest
  dsimp only
  (repeat' split) <;> simp [h]

@[simp] theorem acceptBytes_only (s : State) (x : Session) (tag : Nat) (quiet : Bool) (b : Bytes) (pt : Part) (h : pt ∉ [.host, .out, .veh, .mon, .cmd, .bridge]) : (acceptBytes s x tag quiet b).part pt = s.part pt := by
  simp at h
  unfold acceptBytes
  dsimp only
  (repeat' split) <;> simp [h]

@[simp] theorem takePacket_only (s : State) (p : Packet) (pt : Part) (h : pt ∉ [.cmd]) : (takePacket s p).part pt = s.part pt := by
  simp at h
  simp [takePacket, h]

@[simp] theorem offered_only (op : Nat) (p : Packet) (s : State) (pt : Part) (h : pt ∉ [.host, .out, .veh, .mon, .cmd, .bridge]) : (offered op p s).part pt = s.part pt := by
  simp at h
  unfold offered
  (repeat' split) <;> simp [h]

@[simp] theorem serve_only (op : Nat) (p : Packet) (act : State → State) (s : State) (pt : Part) (h : pt ∉ [.bridge, .host, .out, .veh, .mon, .cmd])
    (ha : ∀ s, (act s).part pt = s.part pt) : (serve op p act s).part pt = s.part pt := by
  simp only [List.mem_cons, List.not_mem_nil, or_false, not_or] at h
  unfold serve
  (repeat' split) <;> simp [h, ha]

@[simp] theorem reassemble_only (s : State) (f : Frame) (act : State → Reasm → State) (pt : Part) (h : pt ∉ [.cmd])
    (ha : ∀ s r, (act s r).part pt = s.part pt) : (reassemble s f act).part pt = s.part pt := by
  simp only [List.mem_cons, List.not_mem_nil, or_false, not_or] at h
  unfold reassemble
  dsimp only
  split <;> simp [h, ha]

end Sys2Proof.Machine
end

