-- ==== Sys2Proof/Laws/Only8.lean ====
section
/-! SUPPORT. What the shared operations of Remote, OpsSkim, OpsTrain, Transfer, OpsPower, Start, OpsStore,
HostRegs, HostPort, OpsBridge can write: every other part of the state is unchanged. -/

set_option Elab.async false
set_option linter.unusedSimpArgs false

namespace Sys2Proof.Machine

@[simp] theorem takePiece_only (s : State) (x : TagSt) (b : Bytes) (pt : Part) (h : pt ∉ [.cyc, .bridge]) : (takePiece s x b).part pt = s.part pt := by
  simp at h
  simp [takePiece, h]

@[simp] theorem trdpCommand_only (s : State) (t : TrdpIn) (quiet : Bool) (pt : Part) (h : pt ∉ [.host, .out, .veh, .mon, .cmd, .bridge]) : (trdpCommand s t quiet).part pt = s.part pt := by
  simp at h
  simp [trdpCommand, h]

@[simp] theorem serveRead_only (s : State) (p : Packet) (pt : Part) (h : pt ∉ [.host, .skim, .out, .veh, .mon, .cmd, .bridge]) : (serveRead s p).part pt = s.part pt := by
  simp at h
  unfold serveRead
  dsimp only
  (repeat' split) <;> simp [h]

@[simp] theorem postMessage_only (s : State) (p : Packet) (slot : Nat) (targetKind : Nat) (logKind : Nat) (typ : Nat) (target : Nat) (value : Nat) (logTarget : Nat) (pt : Part) (h : pt ∉ [.host, .out, .veh, .mon, .cmd, .bridge]) : (postMessage s p slot targetKind logKind typ target value logTarget).part pt = s.part pt := by
  simp at h
  unfold postMessage
  split <;> simp [h]

@[simp] theorem postSignal_only (s : State) (p : Packet) (id : Nat) (pt : Part) (h : pt ∉ [.host, .out, .veh, .mon, .cmd, .bridge]) : (postSignal s p id).part pt = s.part pt := by
  simp at h
  unfold postSignal
  (repeat' split) <;> simp [h]

@[simp] theorem passOn_only (s : State) (p : Packet) (pt : Part) (h : pt ∉ [.out]) : (passOn s p).part pt = s.part pt := by
  simp at h
  simp [passOn, h]

@[simp] theorem passBridge_only (s : State) (p : Packet) (pt : Part) (h : pt ∉ [.freeCount, .host, .out, .veh, .mon, .cmd, .bridge]) : (passBridge s p).part pt = s.part pt := by
  simp at h
  simp [passBridge, h]

@[simp] theorem atComposing_only (s : State) (p : Packet) (act : State → State) (pt : Part) (h : pt ∉ [.bridge, .host, .out, .veh, .mon, .cmd, .freeCount])
    (ha : ∀ s, (act s).part pt = s.part pt) : (atComposing s p act).part pt = s.part pt := by
  simp only [List.mem_cons, List.not_mem_nil, or_false, not_or] at h
  unfold atComposing
  split <;> simp [h, ha]

@[simp] theorem coldStart_only (s : State) (pt : Part) (h : pt ∉ [.set, .cyc]) : (coldStart s).part pt = s.part pt := by
  simp at h
  simp [coldStart, h]

@[simp] theorem openTransfer_only (s : State) (p : Packet) (kind : Nat) (target : Nat) (pt : Part) (h : pt ∉ [.img, .cmd]) : (openTransfer s p kind target).part pt = s.part pt := by
  simp at h
  simp [openTransfer, h]

@[simp] theorem beginTransfer_only (family : Nat) (p : Packet) (s : State) (pt : Part) (h : pt ∉ [.host, .img, .out, .veh, .mon, .cmd, .bridge]) : (beginTransfer family p s).part pt = s.part pt := by
  simp at h
  unfold beginTransfer
  dsimp only
  (repeat' split) <;> simp [h]

@[simp] theorem noTransfer_only (s : State) (family : Nat) (p : Packet) (pt : Part) (h : pt ∉ [.host, .out, .veh, .mon, .cmd, .bridge]) : (noTransfer s family p).part pt = s.part pt := by
  simp at h
  unfold noTransfer
  split <;> simp [h]

@[simp] theorem chunkTransfer_only (family : Nat) (p : Packet) (s : State) (pt : Part) (h : pt ∉ [.host, .out, .veh, .mon, .cmd, .bridge]) : (chunkTransfer family p s).part pt = s.part pt := by
  simp at h
  unfold chunkTransfer
  split <;> simp [h]

@[simp] theorem logTable_only (s : State) (kind : Nat) (id : Nat) (pt : Part) (h : pt ∉ [.recorder]) : (logTable s kind id).part pt = s.part pt := by
  simp at h
  simp [logTable, h]

@[simp] theorem emptySpare_only (s : State) (kind : Nat) (pt : Part) (h : pt ∉ [.img]) : (emptySpare s kind).part pt = s.part pt := by
  simp at h
  simp [emptySpare, h]

@[simp] theorem heldTag_only (s : State) (t : Nat) (who : Nat) (kind : TagKind) (status : Nat) (data : Bytes) (pt : Part) (h : pt ∉ [.bridge]) : (heldTag s t who kind status data).part pt = s.part pt := by
  simp at h
  simp [heldTag, h]

@[simp] theorem finishTransfer_only (family : Nat) (p : Packet) (s : State) (pt : Part) (h : pt ∉ [.cfg, .route, .safe, .time, .host, .img, .out, .veh, .cyc, .fld, .mon, .cmd, .bridge, .recorder]) :
    (finishTransfer family p s).part pt = s.part pt := by
  simp only [List.mem_cons, List.not_mem_nil, or_false, not_or] at h
  have hl : ∀ (s : State) (t : Transfer) (u : State) (m : Nat), loadKind s t = .ok (u, m) → u.part pt = s.part pt := by
    intro s t u m hk
    unfold loadKind loadRoute loadSchedule loadEvents loadEquations loadSerial loadProfile loadGates loadImage at hk
    dsimp only at hk
    (repeat' split at hk) <;> first | (cases hk; done) | (injection hk with hk; injection hk with hk _; subst hk; simp [h])
  unfold finishTransfer
  split
  · simp [h]
  · split
    · simp [h]
    · dsimp only
      split
      · simp [h]
      · split
        · simp [h]
        · next u m hk => simp [h, hl _ _ _ _ hk]

@[simp] theorem readWakeStatus_only (s : State) (pt : Part) (h : pt ∉ [.sleep]) : (readWakeStatus s).1.part pt = s.part pt := by
  simp at h
  simp [readWakeStatus, h]

@[simp] theorem skipAlarms_only (s : State) (pt : Part) (h : pt ∉ [.sleep]) : (skipAlarms s).part pt = s.part pt := by
  simp at h
  simp [skipAlarms, h]

@[simp] theorem offLine_only (s : State) (pt : Part) (h : pt ∉ [.set, .time, .line, .cyc, .pair]) : (offLine s).part pt = s.part pt := by
  simp at h
  simp [offLine, h]

@[simp] theorem logStart_only (s : State) (pt : Part) (h : pt ∉ [.host, .skim, .img, .start, .recorder]) : (logStart s).part pt = s.part pt := by
  simp at h
  simp [logStart, h]

@[simp] theorem selectSpare_only (s : State) (p : Packet) (kind : Nat) (pt : Part) (h : pt ∉ [.host, .img, .out, .veh, .mon, .cmd, .bridge]) : (selectSpare s p kind).part pt = s.part pt := by
  simp at h
  simp [selectSpare, h]

@[simp] theorem enrolKey_only (s : State) (key : Bytes) (id : Nat) (pt : Part) (h : pt ∉ [.img, .recorder]) : (enrolKey s key id).part pt = s.part pt := by
  simp at h
  simp [enrolKey, h]

@[simp] theorem eraseConfigs_only (s : State) (pt : Part) (h : pt ∉ [.img]) : (eraseConfigs s).part pt = s.part pt := by
  simp at h
  simp [eraseConfigs, h]

@[simp] theorem readVportLink_only (s : State) (v : Nat) (pt : Part) (h : pt ∉ [.veh]) : (readVportLink s v).1.part pt = s.part pt := by
  simp at h
  simp [readVportLink, h]

@[simp] theorem readCounters_only (s : State) (c : Nat) (pt : Part) (h : pt ∉ [.freeCount, .fld]) : (readCounters s c).part pt = s.part pt := by
  simp at h
  unfold readCounters
  dsimp only
  (repeat' split) <;> simp [h]

@[simp] theorem readFieldState_only (s : State) (k : Nat) (pt : Part) (h : pt ∉ [.fld, .freeCount]) : (readFieldState s k).1.part pt = s.part pt := by
  simp at h
  simp [readFieldState, h]

@[simp] theorem frameErr_only (s : State) (pt : Part) (h : pt ∉ [.host]) : (frameErr s).part pt = s.part pt := by
  simp at h
  simp [frameErr, h]

@[simp] theorem readStatus_only (s : State) (r : StatusReg) (pt : Part) (h : pt ∉ [.sleep, .veh, .fld, .freeCount]) : (readStatus s r).1.part pt = s.part pt := by
  simp at h
  unfold readStatus
  split <;> simp [h]

@[simp] theorem setFieldPort_only (s : State) (k : Nat) (f : FPort → FPort) (pt : Part) (h : pt ∉ [.fld]) : (setFieldPort s k f).part pt = s.part pt := by
  simp at h
  simp [setFieldPort, h]

@[simp] theorem writeStatus_only (s : State) (r : StatusReg) (w : Word32) (pt : Part) (h : pt ∉ [.sleep, .safe, .line, .veh, .fld, .pair]) : (writeStatus s r w).part pt = s.part pt := by
  simp at h
  unfold writeStatus
  split <;> simp [h]

@[simp] theorem writeReadIndex_only (s : State) (w : Word32) (pt : Part) (h : pt ∉ [.veh]) : (writeReadIndex s w).part pt = s.part pt := by
  simp at h
  unfold writeReadIndex
  split <;> simp [h]

@[simp] theorem writeOwn_only (s : State) (r : Ring) (k : Nat) (w : Word32) (pt : Part) (h : pt ∉ [.host, .veh]) : (writeOwn s r k w).part pt = s.part pt := by
  simp at h
  simp [writeOwn, h]

@[simp] theorem writeRingWord_only (s : State) (r : Ring) (a : Nat) (w : Word32) (pt : Part) (h : pt ∉ [.host, .veh]) : (writeRingWord s r a w).part pt = s.part pt := by
  simp at h
  unfold writeRingWord
  (repeat' split) <;> simp [h]

@[simp] theorem readTrainTime_only (s : State) (pt : Part) (h : pt ∉ [.host]) : (readTrainTime s).1.part pt = s.part pt := by
  simp at h
  simp [readTrainTime, h]

@[simp] theorem hostRead_only (s : State) (a : Nat) (pt : Part) (h : pt ∉ [.sleep, .host, .veh, .fld, .freeCount]) : (hostRead s a).1.part pt = s.part pt := by
  simp at h
  unfold hostRead
  (repeat' split) <;> simp [h]

@[simp] theorem takeCommand_only (s : State) (pt : Part) (h : pt ∉ [.host, .out, .veh, .mon, .cmd, .bridge]) : (takeCommand s).part pt = s.part pt := by
  simp at h
  simp [takeCommand, h]

@[simp] theorem writeCmdCtrl_only (s : State) (w : Word32) (pt : Part) (h : pt ∉ [.host, .out, .veh, .mon, .cmd, .bridge]) : (writeCmdCtrl s w).part pt = s.part pt := by
  simp at h
  simp [writeCmdCtrl, h]

@[simp] theorem releaseReply_only (s : State) (pt : Part) (h : pt ∉ [.host, .out, .veh, .mon, .cmd, .bridge]) : (releaseReply s).part pt = s.part pt := by
  simp at h
  unfold releaseReply
  dsimp only
  (repeat' split) <;> simp [h]

@[simp] theorem writeReplyCtrl_only (s : State) (w : Word32) (pt : Part) (h : pt ∉ [.host, .out, .veh, .mon, .cmd, .bridge]) : (writeReplyCtrl s w).part pt = s.part pt := by
  simp at h
  simp [writeReplyCtrl, h]

@[simp] theorem writeIntStatus_only (s : State) (w : Word32) (pt : Part) (h : pt ∉ [.host]) : (writeIntStatus s w).part pt = s.part pt := by
  simp at h
  simp [writeIntStatus, h]

@[simp] theorem writeIntMask_only (s : State) (w : Word32) (pt : Part) (h : pt ∉ [.host]) : (writeIntMask s w).part pt = s.part pt := by
  simp at h
  simp [writeIntMask, h]

@[simp] theorem writeCmdWin_only (s : State) (k : Nat) (w : Word32) (pt : Part) (h : pt ∉ [.host]) : (writeCmdWin s k w).part pt = s.part pt := by
  simp at h
  simp [writeCmdWin, h]

@[simp] theorem hostWrite_only (s : State) (a : Nat) (w : Word32) (pt : Part) (h : pt ∉ [.sleep, .safe, .host, .line, .out, .veh, .fld, .mon, .cmd, .pair, .bridge]) : (hostWrite s a w).part pt = s.part pt := by
  simp at h
  unfold hostWrite
  (repeat' split) <;> simp [h]

@[simp] theorem hostAccess_only (s : State) (act : State → State) (pt : Part)
    (ha : ∀ s, (act s).part pt = s.part pt) : (hostAccess s act).part pt = s.part pt := by
  unfold hostAccess
  split <;> simp [ha]

@[simp] theorem hostReadOut_only (s : State) (a : Nat) (pt : Part) (h : pt ∉ [.sleep, .host, .out, .veh, .fld, .freeCount]) : (hostReadOut s a).part pt = s.part pt := by
  simp at h
  simp [hostReadOut, h]

@[simp] theorem hostWrites_only (s : State) (a : Nat) (l : List Word32) (pt : Part) (h : pt ∉ [.line, .out, .bridge, .veh, .sleep, .safe, .host, .mon, .fld, .cmd, .pair]) :
    (hostWrites s a l).part pt = s.part pt := by
  simp only [List.mem_cons, List.not_mem_nil, or_false, not_or] at h
  induction l generalizing s a with
  | nil => rfl
  | cons w ws ih => simp [hostWrites, ih, h]

@[simp] theorem hostReads_only (s : State) (a k : Nat) (pt : Part) (h : pt ∉ [.sleep, .host, .out, .veh, .fld, .freeCount]) :
    (hostReads s a k).1.part pt = s.part pt := by
  simp only [List.mem_cons, List.not_mem_nil, or_false, not_or] at h
  induction k generalizing s a with
  | zero => rfl
  | succ k ih => simp [hostReads, ih, h]

@[simp] theorem postRoute_only (s : State) (p : Packet) (i : Nat) (pt : Part) (h : pt ∉ [.host, .out, .veh, .fld, .mon, .cmd, .bridge, .recorder, .freeCount, .route]) : (postRoute s p i).part pt = s.part pt := by
  simp at h
  unfold postRoute
  dsimp only
  (repeat' split) <;> simp [h]

end Sys2Proof.Machine
end

