-- ==== Sys2Proof/Laws/Only9.lean ====
section
/-! SUPPORT. What the shared operations of OpsDebug, Monitor, Step, OpsSkim can write: every other part of the
state is unchanged. -/

set_option Elab.async false
set_option linter.unusedSimpArgs false

namespace Sys2Proof.Machine

@[simp] theorem readWords_only (s : State) (a k : Nat) (pt : Part) (h : pt ∉ [.sleep, .veh, .fld, .freeCount]) :
    (readWords s a k).1.part pt = s.part pt := by
  simp only [List.mem_cons, List.not_mem_nil, or_false, not_or] at h
  induction k generalizing s a with
  | zero => rfl
  | succ k ih => simp only [readWords, ih]; split <;> simp [h]

@[simp] theorem clearCounters_only (s : State) (group : Nat) (pt : Part) (h : pt ∉ [.line, .veh, .fld, .pair]) : (clearCounters s group).part pt = s.part pt := by
  simp at h
  unfold clearCounters
  split <;> simp [h]

@[simp] theorem inSplit_only (s : State) (p : Packet) (act : State → SplitSt → State) (pt : Part) (h : pt ∉ [.bridge, .host, .out, .veh, .mon, .cmd])
    (ha : ∀ s x, (act s x).part pt = s.part pt) : (inSplit s p act).part pt = s.part pt := by
  simp only [List.mem_cons, List.not_mem_nil, or_false, not_or] at h
  unfold inSplit
  split <;> simp [h, ha]

@[simp] theorem setSplit_only (s : State) (f : SplitSt → SplitSt) (pt : Part) (h : pt ∉ [.safe]) : (setSplit s f).part pt = s.part pt := by
  simp at h
  simp [setSplit, h]

@[simp] theorem coreNow_only (s : State) (x : SplitSt) (pt : Part) (h : pt ∉ [.safe, .freeCount]) : (coreNow s x).part pt = s.part pt := by
  simp at h
  simp [coreNow, h]

@[simp] theorem replyCount_only (s : State) (p : Packet) (pt : Part) (h : pt ∉ [.host, .out, .veh, .mon, .cmd, .bridge]) : (replyCount s p).part pt = s.part pt := by
  simp at h
  simp [replyCount, h]

@[simp] theorem setCoreA_only (s : State) (c : CoreSt) (pt : Part) (h : pt ∉ [.safe]) : (setCoreA s c).part pt = s.part pt := by
  simp at h
  simp [setCoreA, h]

@[simp] theorem readCoreWord_only (s : State) (a : Nat) (pt : Part) (h : pt ∉ [.safe, .freeCount]) : (readCoreWord s a).1.part pt = s.part pt := by
  simp at h
  unfold readCoreWord
  split <;> simp [h]

@[simp] theorem readCoreWords_only (s : State) (a k : Nat) (pt : Part) (h : pt ∉ [.safe, .freeCount]) :
    (readCoreWords s a k).1.part pt = s.part pt := by
  simp only [List.mem_cons, List.not_mem_nil, or_false, not_or] at h
  induction k generalizing s a with
  | zero => rfl
  | succ k ih => simp [readCoreWords, ih, h]

@[simp] theorem writeCoreWords_only (s : State) (a : Nat) (l : List Word32) (pt : Part) (h : pt ∉ [.safe]) :
    (writeCoreWords s a l).part pt = s.part pt := by
  simp only [List.mem_cons, List.not_mem_nil, or_false, not_or] at h
  induction l generalizing s a with
  | nil => rfl
  | cons w ws ih => simp [writeCoreWords, ih, h]

@[simp] theorem sendCommand_only (s : State) (op : Nat) (items : List Tlv) (pt : Part) (h : pt ∉ [.host, .out, .veh, .mon, .cmd, .bridge]) : (sendCommand s op items).part pt = s.part pt := by
  simp at h
  simp [sendCommand, h]

@[simp] theorem answerLine_only (s : State) (t : String) (pt : Part) (h : pt ∉ [.out]) : (answerLine s t).part pt = s.part pt := by
  simp at h
  simp [answerLine, h]

@[simp] theorem answerErr_only (s : State) (st : Nat) (pt : Part) (h : pt ∉ [.out]) : (answerErr s st).part pt = s.part pt := by
  simp at h
  simp [answerErr, h]

@[simp] theorem doHelp_only (s : State) (pt : Part) (h : pt ∉ [.out]) : (doHelp s).part pt = s.part pt := by
  simp at h
  simp [doHelp, h]

@[simp] theorem doBaud_only (s : State) (rate : Nat) (pt : Part) (h : pt ∉ [.out, .mon]) : (doBaud s rate).part pt = s.part pt := by
  simp at h
  simp [doBaud, h]

@[simp] theorem doPacket_only (s : State) (pt : Part) (h : pt ∉ [.out, .mon]) : (doPacket s).part pt = s.part pt := by
  simp at h
  simp [doPacket, h]

@[simp] theorem runLine_only (s : State) (line : Bytes) (pt : Part) (h : pt ∉ [.host, .out, .veh, .mon, .cmd, .bridge]) : (runLine s line).part pt = s.part pt := by
  simp at h
  unfold runLine
  split <;> simp [h]

@[simp] theorem typeChar_only (s : State) (b : Byte) (pt : Part) (h : pt ∉ [.out, .mon]) : (typeChar s b).part pt = s.part pt := by
  simp at h
  simp [typeChar, h]

@[simp] theorem holdByte_only (s : State) (b : Byte) (pt : Part) (h : pt ∉ [.mon]) : (holdByte s b).part pt = s.part pt := by
  simp at h
  simp [holdByte, h]

@[simp] theorem takeHeld_only (k : Nat) (s : State) (pt : Part) (h : pt ∉ [.out, .mon]) :
    (takeHeld k s).part pt = s.part pt := by
  simp only [List.mem_cons, List.not_mem_nil, or_false, not_or] at h
  induction k generalizing s with
  | zero => rfl
  | succ k ih => unfold takeHeld; (repeat' split) <;> simp [h, ih]

@[simp] theorem catchUp_only (s : State) (pt : Part) (h : pt ∉ [.out, .mon]) : (catchUp s).part pt = s.part pt := by
  simp at h
  simp [catchUp, h]

@[simp] theorem collectReplay_only (s : State) (pt : Part) (h : pt ∉ [.host, .out, .veh, .mon, .cmd, .bridge]) : (collectReplay s).part pt = s.part pt := by
  simp at h
  unfold collectReplay
  split <;> simp [h]

@[simp] theorem packetFrame_only (s : State) (b : Bytes) (pt : Part) (h : pt ∉ [.host, .out, .veh, .mon, .cmd, .bridge]) : (packetFrame s b).part pt = s.part pt := by
  simp at h
  simp [packetFrame, h]

@[simp] theorem packetByte_only (s : State) (b : Byte) (pt : Part) (h : pt ∉ [.host, .out, .veh, .mon, .cmd, .bridge]) : (packetByte s b).part pt = s.part pt := by
  simp at h
  simp [packetByte, h]

@[simp] theorem readLine_only (s : State) (pt : Part) (h : pt ∉ [.host, .out, .veh, .mon, .cmd, .bridge]) : (readLine s).part pt = s.part pt := by
  simp at h
  unfold readLine
  split <;> simp [h]

@[simp] theorem portRow_only (s : State) (isIt : MonCmd → Bool) (act : State → State) (pt : Part) (h : pt ∉ [.out, .mon])
    (ha : ∀ s, (act s).part pt = s.part pt) : (portRow s isIt act).part pt = s.part pt := by
  simp only [List.mem_cons, List.not_mem_nil, or_false, not_or] at h
  unfold portRow
  (repeat' split) <;> simp [h, ha]

@[simp] theorem State.withFetchWord_only (s : State) (nbits : Nat) (w : Nat) (pt : Part) (h : pt ∉ [.pending]) : (State.withFetchWord s nbits w).part pt = s.part pt := by
  simp at h
  unfold State.withFetchWord
  split <;> simp [h]

@[simp] theorem queueRemote_only (p : Packet) (s : State) (pt : Part) (h : pt ∉ [.bridge, .cmd, .freeCount, .host, .mon, .out, .veh]) : (queueRemote p s).part pt = s.part pt := by
  simp at h
  unfold queueRemote
  split <;> simp [h]

end Sys2Proof.Machine
end

