-- ==== Sys2Proof/Laws/Exec1.lean ====
section
/-! SUPPORT. What the meanings of the commands from `powerOnReset` to `ptpAnnounceSend` can write. -/

set_option Elab.async false
set_option linter.unusedSimpArgs false
set_option linter.unusedVariables false

namespace Sys2Proof.Machine

theorem execPowerOnReset_only (upos : BitVec 3) (alarmLost : Bool) (s t0 : State) (e : execPowerOnReset upos alarmLost s = .next t0) : Only [.sleep, .time, .host, .img, .unitNo, .upos, .start, .unplaced] s t0 := by
  intro pt h
  simp at h
  obtain rfl := Host.Outcome.next.inj e
  simp [h]

theorem execBankCheckComplete_only  (s t0 : State) (e : execBankCheckComplete  s = .next t0) : Only [.set, .cfg, .time, .line, .img, .cyc, .start, .pair, .unplaced] s t0 := by
  intro pt h
  simp only [List.mem_cons, List.not_mem_nil, or_false, not_or] at h
  unfold execBankCheckComplete at e
  injection e with e
  subst e
  dsimp only
  (repeat' split) <;> simp [h]

theorem execIslandReady_only  (s t0 : State) (e : execIslandReady  s = .next t0) : Only [.sleep, .line, .out, .start] s t0 := by
  intro pt h
  simp only [List.mem_cons, List.not_mem_nil, or_false, not_or] at h
  unfold execIslandReady at e
  injection e with e
  subst e
  split <;> simp [h]

theorem execLineBRelayOpen_only (peerLineAUp : Bool) (s t0 : State) (e : execLineBRelayOpen peerLineAUp s = .next t0) : Only [.line] s t0 := by
  intro pt h
  simp at h
  obtain rfl := Host.Outcome.next.inj e
  simp [h]

theorem execReady_only  (s t0 : State) (e : execReady  s = .next t0) : Only [.route, .safe, .time, .host, .skim, .img, .out, .veh, .start, .fld, .mon, .recorder] s t0 := by
  intro pt h
  simp at h
  obtain rfl := Host.Outcome.next.inj e
  dsimp only
  (repeat' split) <;> simp [h]

@[simp] theorem loadCores_only (s : State) (ck : Option Checkpoint) (pt : Part) (h : pt ∉ [.safe]) : (loadCores s ck).part pt = s.part pt := by
  simp at h
  unfold loadCores
  dsimp only
  (repeat' split) <;> simp [h]

theorem execScratchTestComplete_only (failBits : BitVec 8) (s t0 : State) (e : execScratchTestComplete failBits s = .next t0) : Only [.safe, .host, .skim, .bridge, .recorder] s t0 := by
  intro pt h
  simp at h
  obtain rfl := Host.Outcome.next.inj e
  simp [h]

theorem execResetNAsserted_only  (s t0 : State) (e : execResetNAsserted  s = .next t0) : Only [.set, .sleep, .route, .safe, .time, .host, .skim, .img, .veh, .start, .fld, .mon, .cmd, .pair, .bridge, .pres, .recorder] s t0 := by
  intro pt h
  simp at h
  obtain rfl := Host.Outcome.next.inj e
  simp [h]

theorem execResetNReleased_only  (s t0 : State) (e : execResetNReleased  s = .next t0) : Only [.host, .img] s t0 := by
  intro pt h
  simp at h
  obtain rfl := Host.Outcome.next.inj e
  simp [h]

theorem execManagementWatchdogExpiry_only  (s t0 : State) (e : execManagementWatchdogExpiry  s = .next t0) : Only [.set, .sleep, .route, .safe, .time, .host, .skim, .img, .veh, .start, .fld, .mon, .cmd, .pair, .bridge, .pres, .recorder] s t0 := by
  intro pt h
  simp at h
  obtain rfl := Host.Outcome.next.inj e
  simp [h]

theorem execInternalSupplyFail_only  (s t0 : State) (e : execInternalSupplyFail  s = .next t0) : Only [.set, .sleep, .cfg, .route, .safe, .time, .host, .skim, .line, .img, .veh, .cyc, .start, .fld, .mon, .cmd, .pair, .bridge, .pres, .recorder] s t0 := by
  intro pt h
  simp at h
  obtain rfl := Host.Outcome.next.inj e
  simp [h]

theorem execPowerFailWarning_only (supply : Nat) (s t0 : State) (e : execPowerFailWarning supply s = .next t0) : Only [.host, .skim, .start, .recorder] s t0 := by
  intro pt h
  simp at h
  obtain rfl := Host.Outcome.next.inj e
  simp [h]

theorem execPowerRestored_only  (s t0 : State) (e : execPowerRestored  s = .next t0) : Only [.host, .skim, .recorder] s t0 := by
  intro pt h
  simp at h
  obtain rfl := Host.Outcome.next.inj e
  simp [h]

theorem execHoldBusLow_only  (s t0 : State) (e : execHoldBusLow  s = .next t0) : Only [.safe, .start] s t0 := by
  intro pt h
  simp at h
  obtain rfl := Host.Outcome.next.inj e
  simp [h]

theorem execSafeOffReclose_only  (s t0 : State) (e : execSafeOffReclose  s = .next t0) : Only [.safe, .start] s t0 := by
  intro pt h
  simp at h
  obtain rfl := Host.Outcome.next.inj e
  simp [h]

theorem execConverterOvervoltageStop_only  (s t0 : State) (e : execConverterOvervoltageStop  s = .next t0) : Only [.set, .sleep, .cfg, .route, .safe, .time, .host, .skim, .line, .img, .veh, .cyc, .start, .fld, .mon, .cmd, .pair, .bridge, .pres, .recorder] s t0 := by
  intro pt h
  simp at h
  obtain rfl := Host.Outcome.next.inj e
  simp [h]

theorem execConverterOvertempStop_only  (s t0 : State) (e : execConverterOvertempStop  s = .next t0) : Only [.set, .sleep, .cfg, .route, .safe, .time, .host, .skim, .line, .img, .veh, .cyc, .start, .fld, .mon, .cmd, .pair, .bridge, .pres, .recorder] s t0 := by
  intro pt h
  simp at h
  obtain rfl := Host.Outcome.next.inj e
  simp [h]

theorem execConverterRestart_only (upos : BitVec 3) (alarmLost : Bool) (s t0 : State) (e : execConverterRestart upos alarmLost s = .next t0) : Only [.sleep, .time, .host, .img, .unitNo, .upos, .start, .unplaced] s t0 := by
  intro pt h
  simp at h
  obtain rfl := Host.Outcome.next.inj e
  simp [h]

theorem execSupplyWarnSet_only  (s t0 : State) (e : execSupplyWarnSet  s = .next t0) : Only [.start] s t0 := by
  intro pt h
  simp at h
  obtain rfl := Host.Outcome.next.inj e
  split <;> simp [h]

theorem execSupplyWarnClear_only  (s t0 : State) (e : execSupplyWarnClear  s = .next t0) : Only [.start] s t0 := by
  intro pt h
  simp at h
  obtain rfl := Host.Outcome.next.inj e
  split <;> simp [h]

theorem execTempWarnChange_only (temp : Int) (s t0 : State) (e : execTempWarnChange temp s = .next t0) : Only [.start] s t0 := by
  intro pt h
  simp at h
  obtain rfl := Host.Outcome.next.inj e
  simp [h]

theorem execOutputFeedLow_only (feed : Nat) (s t0 : State) (e : execOutputFeedLow feed s = .next t0) : Only [.start] s t0 := by
  intro pt h
  simp at h
  obtain rfl := Host.Outcome.next.inj e
  simp [h]

theorem execOutputFeedRecovered_only (feed : Nat) (s t0 : State) (e : execOutputFeedRecovered feed s = .next t0) : Only [.start] s t0 := by
  intro pt h
  simp at h
  obtain rfl := Host.Outcome.next.inj e
  simp [h]

theorem execCurrentLimitExpiry_only (output : Nat) (s t0 : State) (e : execCurrentLimitExpiry output s = .next t0) : Only [.safe, .recorder] s t0 := by
  intro pt h
  simp at h
  obtain rfl := Host.Outcome.next.inj e
  simp [h]

@[simp] theorem dropLink_only (s : State) (p : LinePort) (pt : Part) (h : pt ∉ [.out, .line]) : (dropLink s p).part pt = s.part pt := by
  simp at h
  unfold dropLink
  dsimp only
  (repeat' split) <;> simp [h]

theorem execTrainLineLinkUp_only (p : LinePort) (linked rate25 xr master : Bool) (s t0 : State) (e : execTrainLineLinkUp p linked rate25 xr master s = .next t0) : Only [.set, .line, .out] s t0 := by
  intro pt h
  simp at h
  obtain rfl := Host.Outcome.next.inj e
  simp [h]

theorem execTrainLineLinkDown_only (p : LinePort) (s t0 : State) (e : execTrainLineLinkDown p s = .next t0) : Only [.set, .line, .out] s t0 := by
  intro pt h
  simp at h
  obtain rfl := Host.Outcome.next.inj e
  simp [h]

theorem execPortUnassignedLink_only (p : LinePort) (s t0 : State) (e : execPortUnassignedLink p s = .next t0) : Only [.recorder] s t0 := by
  intro pt h
  simp at h
  obtain rfl := Host.Outcome.next.inj e
  simp [h]

theorem execFrameHeaderReceived_only (p : LinePort) (hdr : Bytes) (arrival : Int) (s t0 : State) (e : execFrameHeaderReceived p hdr arrival s = .next t0) : Only [.line, .cyc] s t0 := by
  intro pt h
  simp at h
  obtain rfl := Host.Outcome.next.inj e
  simp [h]

theorem execFrameReceived_only (p : LinePort) (bytes : Bytes) (arrival : Int) (s t0 : State) (e : execFrameReceived p bytes arrival s = .next t0) : Only [.time, .line, .out, .cyc, .pair] s t0 := by
  intro pt h
  simp at h
  obtain rfl := Host.Outcome.next.inj e
  simp [h]

theorem execSlotClose_only (p : LinePort) (s t0 : State) (e : execSlotClose p s = .next t0) : Only [.line, .out, .cyc, .pair] s t0 := by
  intro pt h
  simp at h
  obtain rfl := Host.Outcome.next.inj e
  simp [h]

theorem execDuplicateKeyExpiry_only  (s t0 : State) (e : execDuplicateKeyExpiry  s = .next t0) : Only [.line] s t0 := by
  intro pt h
  simp at h
  obtain rfl := Host.Outcome.next.inj e
  simp [h]

theorem execRelayedCopyReceived_only (f : Frame) (s t0 : State) (e : execRelayedCopyReceived f s = .next t0) : Only [.time, .line, .out, .pair, .freeCount, .cyc] s t0 := by
  intro pt h
  simp at h
  obtain rfl := Host.Outcome.next.inj e
  simp [h]

theorem execSampleInstant_only (inp : SampleIn) (s t0 : State) (e : execSampleInstant inp s = .next t0) : Only [.set, .sleep, .route, .safe, .time, .freeCount, .skim, .img, .out, .cyc, .start, .fld, .pair, .bridge, .recorder] s t0 := by
  intro pt h
  simp at h
  obtain rfl := Host.Outcome.next.inj e
  simp [h]

@[simp] theorem drainPorts_only (s : State) (pt : Part) (h : pt ∉ [.out, .veh]) : (drainPorts s).part pt = s.part pt := by
  simp at h
  simp [drainPorts, h]

theorem execOutputInstant_only (n : Nat) (s t0 : State) (e : execOutputInstant n s = .next t0) : Only [.route, .safe, .skim, .img, .out, .fld, .recorder, .bridge, .veh] s t0 := by
  intro pt h
  simp at h
  obtain rfl := Host.Outcome.next.inj e
  simp [h]

@[simp] theorem sendCycleStart_only (s : State) (payload : Bytes) (pt : Part) (h : pt ∉ [.out, .line]) : (sendCycleStart s payload).part pt = s.part pt := by
  simp at h
  unfold sendCycleStart
  dsimp only
  (repeat' split) <;> simp [h]

@[simp] theorem leadTurns_only (s : State) (pt : Part) (h : pt ∉ [.cyc, .set, .time, .pair]) : (leadTurns s).part pt = s.part pt := by
  simp at h
  simp [leadTurns, h]

theorem execCycleStartSend_only  (s t0 : State) (e : execCycleStartSend  s = .next t0) : Only [.set, .sleep, .time, .host, .skim, .line, .out, .cyc, .fld, .bridge, .recorder, .pair] s t0 := by
  intro pt h
  simp at h
  obtain rfl := Host.Outcome.next.inj e
  simp [h]

theorem execCycleStartDelivered_only (p : LinePort) (f : Frame) (arrival : Int) (s t0 : State) (e : execCycleStartDelivered p f arrival s = .next t0) : Only [.set, .sleep, .time, .host, .skim, .line, .cyc, .fld, .bridge, .recorder, .freeCount, .out, .pair] s t0 := by
  intro pt h
  simp at h
  obtain rfl := Host.Outcome.next.inj e
  split <;> simp [h]

@[simp] theorem awaitedCycle_only (s : State) (pt : Part) (h : pt ∉ [.cyc, .set, .time, .pair]) : (awaitedCycle s).part pt = s.part pt := by
  simp at h
  simp [awaitedCycle, h]

theorem execCycleStartMissing_only  (s t0 : State) (e : execCycleStartMissing  s = .next t0) : Only [.cyc, .recorder, .set, .time, .pair] s t0 := by
  intro pt h
  simp at h
  obtain rfl := Host.Outcome.next.inj e
  simp [h]

theorem execHoldoverEntry_only  (s t0 : State) (e : execHoldoverEntry  s = .next t0) : Only [.time, .host, .cyc] s t0 := by
  intro pt h
  simp at h
  obtain rfl := Host.Outcome.next.inj e
  simp [h]

theorem execCoastingEntry_only  (s t0 : State) (e : execCoastingEntry  s = .next t0) : Only [.time, .host, .cyc] s t0 := by
  intro pt h
  simp at h
  obtain rfl := Host.Outcome.next.inj e
  simp [h]

theorem execScheduleFetchComplete_only (image : Bytes) (s t0 : State) (e : execScheduleFetchComplete image s = .next t0) : Only [.cyc] s t0 := by
  intro pt h
  simp at h
  obtain rfl := Host.Outcome.next.inj e
  simp [h]

theorem execScheduleTableActivation_only  (s t0 : State) (e : execScheduleTableActivation  s = .next t0) : Only [.cyc] s t0 := by
  intro pt h
  simp at h
  obtain rfl := Host.Outcome.next.inj e
  split <;> simp [h]

theorem execJoinComplete_only  (s t0 : State) (e : execJoinComplete  s = .next t0) : Only [.cyc, .line] s t0 := by
  intro pt h
  simp at h
  obtain rfl := Host.Outcome.next.inj e
  simp [h]

theorem execSegmentPhaseOpen_only (p : LinePort) (s t0 : State) (e : execSegmentPhaseOpen p s = .next t0) : Only [.time, .line, .out, .cyc] s t0 := by
  intro pt h
  simp at h
  obtain rfl := Host.Outcome.next.inj e
  simp [h]

theorem execPublicationSlotStart_only  (s t0 : State) (e : execPublicationSlotStart  s = .next t0) : Only [.skim, .line, .out, .pair, .recorder] s t0 := by
  intro pt h
  simp at h
  obtain rfl := Host.Outcome.next.inj e
  (repeat' split) <;> simp [h]

theorem execMessageWindowStart_only  (s t0 : State) (e : execMessageWindowStart  s = .next t0) : Only [.set, .sleep, .safe, .freeCount, .host, .line, .out, .cyc, .pair, .bridge, .recorder] s t0 := by
  intro pt h
  simp at h
  obtain rfl := Host.Outcome.next.inj e
  simp [h]

theorem execPollDelivered_only (p : LinePort) (f : Frame) (arrival : Int) (s t0 : State) (e : execPollDelivered p f arrival s = .next t0) : Only [.line, .cyc] s t0 := by
  intro pt h
  simp at h
  obtain rfl := Host.Outcome.next.inj e
  simp [h]

theorem execPollReplySend_only  (s t0 : State) (e : execPollReplySend  s = .next t0) : Only [.set, .line, .out, .cyc, .bridge] s t0 := by
  intro pt h
  simp at h
  obtain rfl := Host.Outcome.next.inj e
  split <;> simp [h]

@[simp] theorem keepSup_only (s : State) (pt : Part) (h : pt ∉ [.set]) : (keepSup s).part pt = s.part pt := by
  simp at h
  unfold keepSup
  dsimp only
  (repeat' split) <;> simp [h]

theorem execSupervisionSlotStart_only  (s t0 : State) (e : execSupervisionSlotStart  s = .next t0) : Only [.set, .sleep, .line, .out, .pair] s t0 := by
  intro pt h
  simp at h
  obtain rfl := Host.Outcome.next.inj e
  simp [h]

theorem execSupervisionDelivered_only (p : LinePort) (f : Frame) (s t0 : State) (e : execSupervisionDelivered p f s = .next t0) : Only [.set, .sleep, .line, .out] s t0 := by
  intro pt h
  simp at h
  obtain rfl := Host.Outcome.next.inj e
  simp [h]

@[simp] theorem settleReplies_only (s : State) (pt : Part) (h : pt ∉ [.cyc]) : (settleReplies s).part pt = s.part pt := by
  simp at h
  unfold settleReplies
  dsimp only
  (repeat' split) <;> simp [h]

@[simp] theorem declareStep_only (s : State) (anchor : Int) (pt : Part) (h : pt ∉ [.cyc, .skim, .recorder]) : (declareStep s anchor).part pt = s.part pt := by
  simp at h
  unfold declareStep
  dsimp only
  (repeat' split) <;> simp [h]

@[simp] theorem setTimeline_only (s : State) (instant : Int) (pt : Part) (h : pt ∉ [.cyc, .skim, .recorder]) : (setTimeline s instant).part pt = s.part pt := by
  simp at h
  unfold setTimeline
  dsimp only
  (repeat' split) <;> simp [h]

theorem execLeadCycleWorkDone_only (instant : Int) (s t0 : State) (e : execLeadCycleWorkDone instant s = .next t0) : Only [.sleep, .skim, .out, .cyc, .set, .time, .recorder, .pair] s t0 := by
  intro pt h
  simp at h
  obtain rfl := Host.Outcome.next.inj e
  simp [h]

theorem execSourceFenced_only (p : LinePort) (src : Source) (s t0 : State) (e : execSourceFenced p src s = .next t0) : Only [.cyc, .recorder] s t0 := by
  intro pt h
  simp at h
  obtain rfl := Host.Outcome.next.inj e
  simp [h]

theorem execFenceLifted_only (p : LinePort) (src : Source) (s t0 : State) (e : execFenceLifted p src s = .next t0) : Only [.cyc, .recorder] s t0 := by
  intro pt h
  simp at h
  obtain rfl := Host.Outcome.next.inj e
  simp [h]

theorem execPublicationDelivered_only (p : LinePort) (f : Frame) (s t0 : State) (e : execPublicationDelivered p f s = .next t0) : Only [.set, .sleep, .skim, .line, .recorder] s t0 := by
  intro pt h
  simp only [List.mem_cons, List.not_mem_nil, or_false, not_or] at h
  unfold execPublicationDelivered at e
  injection e with e
  subst e
  (try dsimp only)
  (repeat' first | (simp [h]; done) | refine (serve_only _ _ _ _ _ (by simp [h]) (fun u => ?_)) | refine (deliver_only _ _ _ _ _ (by simp [h]) (fun u => ?_)) | refine (takeMessage_only _ _ _ _ _ (by simp [h]) (fun u => ?_)) | refine (sequenced_only _ _ _ _ (by simp [h]) (fun u => ?_)) | refine (trdpHeader_only _ _ _ _ (by simp [h]) (fun u => ?_)) | refine (takeCan_only _ _ _ _ _ (by simp [h]) (fun u => ?_)) | refine (inSplit_only _ _ _ _ (by simp [h]) (fun u x => ?_)) | refine (atComposing_only _ _ _ _ (by simp [h]) (fun u => ?_)) | refine (reassemble_only _ _ _ _ (by simp [h]) (fun u x => ?_)) | (apply foldl_part; intro u x) | split | dsimp only)

theorem execNullDelivered_only (p : LinePort) (f : Frame) (s t0 : State) (e : execNullDelivered p f s = .next t0) : Only [.set, .sleep, .skim, .line] s t0 := by
  intro pt h
  simp at h
  obtain rfl := Host.Outcome.next.inj e
  simp [h]

theorem execProbeDelivered_only (p : LinePort) (f : Frame) (s t0 : State) (e : execProbeDelivered p f s = .next t0) : Only [.set, .line] s t0 := by
  intro pt h
  simp at h
  obtain rfl := Host.Outcome.next.inj e
  simp [h]

theorem execClaimDelivered_only (p : LinePort) (f : Frame) (s t0 : State) (e : execClaimDelivered p f s = .next t0) : Only [.set, .line] s t0 := by
  intro pt h
  simp at h
  obtain rfl := Host.Outcome.next.inj e
  simp [h]

theorem execCensusRequestDelivered_only (p : LinePort) (f : Frame) (s t0 : State) (e : execCensusRequestDelivered p f s = .next t0) : Only [.set, .line] s t0 := by
  intro pt h
  simp at h
  obtain rfl := Host.Outcome.next.inj e
  simp [h]

theorem execCensusReplyDelivered_only (p : LinePort) (f : Frame) (arrival : Int) (s t0 : State) (e : execCensusReplyDelivered p f arrival s = .next t0) : Only [.set, .line] s t0 := by
  intro pt h
  simp at h
  obtain rfl := Host.Outcome.next.inj e
  simp [h]

theorem execNumberingDelivered_only (p : LinePort) (f : Frame) (s t0 : State) (e : execNumberingDelivered p f s = .next t0) : Only [.set, .line] s t0 := by
  intro pt h
  simp at h
  obtain rfl := Host.Outcome.next.inj e
  simp [h]

theorem execCommitDelivered_only (p : LinePort) (f : Frame) (s t0 : State) (e : execCommitDelivered p f s = .next t0) : Only [.set, .line] s t0 := by
  intro pt h
  simp only [List.mem_cons, List.not_mem_nil, or_false, not_or] at h
  unfold execCommitDelivered at e
  injection e with e
  subst e
  (try dsimp only)
  (repeat' first | (simp [h]; done) | refine (serve_only _ _ _ _ _ (by simp [h]) (fun u => ?_)) | refine (deliver_only _ _ _ _ _ (by simp [h]) (fun u => ?_)) | refine (takeMessage_only _ _ _ _ _ (by simp [h]) (fun u => ?_)) | refine (sequenced_only _ _ _ _ (by simp [h]) (fun u => ?_)) | refine (trdpHeader_only _ _ _ _ (by simp [h]) (fun u => ?_)) | refine (takeCan_only _ _ _ _ _ (by simp [h]) (fun u => ?_)) | refine (inSplit_only _ _ _ _ (by simp [h]) (fun u x => ?_)) | refine (atComposing_only _ _ _ _ (by simp [h]) (fun u => ?_)) | refine (reassemble_only _ _ _ _ (by simp [h]) (fun u x => ?_)) | (apply foldl_part; intro u x) | split | dsimp only)

theorem execCommitAckDelivered_only (p : LinePort) (f : Frame) (s t0 : State) (e : execCommitAckDelivered p f s = .next t0) : Only [.set, .line] s t0 := by
  intro pt h
  simp only [List.mem_cons, List.not_mem_nil, or_false, not_or] at h
  unfold execCommitAckDelivered at e
  injection e with e
  subst e
  (try dsimp only)
  (repeat' first | (simp [h]; done) | refine (serve_only _ _ _ _ _ (by simp [h]) (fun u => ?_)) | refine (deliver_only _ _ _ _ _ (by simp [h]) (fun u => ?_)) | refine (takeMessage_only _ _ _ _ _ (by simp [h]) (fun u => ?_)) | refine (sequenced_only _ _ _ _ (by simp [h]) (fun u => ?_)) | refine (trdpHeader_only _ _ _ _ (by simp [h]) (fun u => ?_)) | refine (takeCan_only _ _ _ _ _ (by simp [h]) (fun u => ?_)) | refine (inSplit_only _ _ _ _ (by simp [h]) (fun u x => ?_)) | refine (atComposing_only _ _ _ _ (by simp [h]) (fun u => ?_)) | refine (reassemble_only _ _ _ _ (by simp [h]) (fun u x => ?_)) | (apply foldl_part; intro u x) | split | dsimp only)

theorem execJoinReportDelivered_only (p : LinePort) (f : Frame) (s t0 : State) (e : execJoinReportDelivered p f s = .next t0) : Only [.set, .line] s t0 := by
  intro pt h
  simp at h
  obtain rfl := Host.Outcome.next.inj e
  simp [h]

theorem execMergeClaimDelivered_only (p : LinePort) (f : Frame) (s t0 : State) (e : execMergeClaimDelivered p f s = .next t0) : Only [.set, .line] s t0 := by
  intro pt h
  simp at h
  obtain rfl := Host.Outcome.next.inj e
  simp [h]

theorem execDelayRequestDelivered_only (p : LinePort) (f : Frame) (t2 t3 : Int) (s t0 : State) (e : execDelayRequestDelivered p f t2 t3 s = .next t0) : Only [.line, .out] s t0 := by
  intro pt h
  simp at h
  obtain rfl := Host.Outcome.next.inj e
  simp [h]

theorem execDelayResponseDelivered_only (p : LinePort) (f : Frame) (t4 : Int) (s t0 : State) (e : execDelayResponseDelivered p f t4 s = .next t0) : Only [.time, .host, .line, .cyc, .fld, .recorder, .skim] s t0 := by
  intro pt h
  simp only [List.mem_cons, List.not_mem_nil, or_false, not_or] at h
  unfold execDelayResponseDelivered at e
  injection e with e
  subst e
  (try dsimp only)
  (repeat' first | (simp [h]; done) | refine (serve_only _ _ _ _ _ (by simp [h]) (fun u => ?_)) | refine (deliver_only _ _ _ _ _ (by simp [h]) (fun u => ?_)) | refine (takeMessage_only _ _ _ _ _ (by simp [h]) (fun u => ?_)) | refine (sequenced_only _ _ _ _ (by simp [h]) (fun u => ?_)) | refine (trdpHeader_only _ _ _ _ (by simp [h]) (fun u => ?_)) | refine (takeCan_only _ _ _ _ _ (by simp [h]) (fun u => ?_)) | refine (inSplit_only _ _ _ _ (by simp [h]) (fun u x => ?_)) | refine (atComposing_only _ _ _ _ (by simp [h]) (fun u => ?_)) | refine (reassemble_only _ _ _ _ (by simp [h]) (fun u x => ?_)) | (apply foldl_part; intro u x) | split | dsimp only)

theorem execDelayResponseTimeout_only (p : LinePort) (s t0 : State) (e : execDelayResponseTimeout p s = .next t0) : Only [.time, .host, .cyc, .fld, .recorder, .skim] s t0 := by
  intro pt h
  simp at h
  obtain rfl := Host.Outcome.next.inj e
  simp [h]

@[simp] theorem passMessage_only (s : State) (c : Nat) (b : Bytes) (pt : Part) (h : pt ∉ [.out]) : (passMessage s c b).part pt = s.part pt := by
  simp at h
  simp [passMessage, h]

@[simp] theorem noteReplyEnd_only (s : State) (f : Frame) (pt : Part) (h : pt ∉ [.cyc]) : (noteReplyEnd s f).part pt = s.part pt := by
  simp at h
  simp [noteReplyEnd, h]

@[simp] theorem noteRepeat_only (s : State) (f : Frame) (pt : Part) (h : pt ∉ [.cyc]) : (noteRepeat s f).part pt = s.part pt := by
  simp at h
  simp [noteRepeat, h]

@[simp] theorem placeArrival_only (s : State) (p : LinePort) (f : Frame) (pt : Part) (h : pt ∉ [.host, .line, .veh, .recorder, .freeCount, .out, .pair]) :
    (placeArrival s p f).1.part pt = s.part pt := by
  simp only [List.mem_cons, List.not_mem_nil, or_false, not_or] at h
  unfold placeArrival
  extract_lets src
  by_cases a : ringOnArrival f <;> by_cases b : forOther s f <;> simp [a, b, h]

@[simp] theorem takeArrival_only (s : State) (p : LinePort) (f : Frame) (pt : Part) (h : pt ∉ [.host, .line, .veh, .bridge, .recorder, .freeCount, .out, .pair]) :
    (takeArrival s p f).part pt = s.part pt := by
  simp at h
  simp [takeArrival, h]

theorem execMessageFrameDelivered_only (p : LinePort) (f : Frame) (s t0 : State) (e : execMessageFrameDelivered p f s = .next t0) : Only [.set, .host, .line, .veh, .cyc, .bridge, .recorder, .freeCount, .out, .pair] s t0 := by
  intro pt h
  simp at h
  obtain rfl := Host.Outcome.next.inj e
  simp [h]

theorem execPostedWriteMessage_only (f : Frame) (s t0 : State) (e : execPostedWriteMessage f s = .next t0) : Only [.host, .skim, .out, .veh, .fld, .bridge, .recorder, .freeCount, .route] s t0 := by
  intro pt h
  simp only [List.mem_cons, List.not_mem_nil, or_false, not_or] at h
  unfold execPostedWriteMessage at e
  injection e with e
  subst e
  (try dsimp only)
  (repeat' first | (simp [h]; done) | refine (serve_only _ _ _ _ _ (by simp [h]) (fun u => ?_)) | refine (deliver_only _ _ _ _ _ (by simp [h]) (fun u => ?_)) | refine (takeMessage_only _ _ _ _ _ (by simp [h]) (fun u => ?_)) | refine (sequenced_only _ _ _ _ (by simp [h]) (fun u => ?_)) | refine (trdpHeader_only _ _ _ _ (by simp [h]) (fun u => ?_)) | refine (takeCan_only _ _ _ _ _ (by simp [h]) (fun u => ?_)) | refine (inSplit_only _ _ _ _ (by simp [h]) (fun u x => ?_)) | refine (atComposing_only _ _ _ _ (by simp [h]) (fun u => ?_)) | refine (reassemble_only _ _ _ _ (by simp [h]) (fun u x => ?_)) | (apply foldl_part; intro u x) | split | dsimp only)

theorem execReadRequestMessage_only (f : Frame) (s t0 : State) (e : execReadRequestMessage f s = .next t0) : Only [.host, .out, .veh, .fld, .bridge, .recorder, .freeCount, .route] s t0 := by
  intro pt h
  simp only [List.mem_cons, List.not_mem_nil, or_false, not_or] at h
  unfold execReadRequestMessage at e
  injection e with e
  subst e
  (try dsimp only)
  (repeat' first | (simp [h]; done) | refine (serve_only _ _ _ _ _ (by simp [h]) (fun u => ?_)) | refine (deliver_only _ _ _ _ _ (by simp [h]) (fun u => ?_)) | refine (takeMessage_only _ _ _ _ _ (by simp [h]) (fun u => ?_)) | refine (sequenced_only _ _ _ _ (by simp [h]) (fun u => ?_)) | refine (trdpHeader_only _ _ _ _ (by simp [h]) (fun u => ?_)) | refine (takeCan_only _ _ _ _ _ (by simp [h]) (fun u => ?_)) | refine (inSplit_only _ _ _ _ (by simp [h]) (fun u x => ?_)) | refine (atComposing_only _ _ _ _ (by simp [h]) (fun u => ?_)) | refine (reassemble_only _ _ _ _ (by simp [h]) (fun u x => ?_)) | (apply foldl_part; intro u x) | split | dsimp only)

theorem execReadResponseMessage_only (f : Frame) (s t0 : State) (e : execReadResponseMessage f s = .next t0) : Only [.bridge, .recorder] s t0 := by
  intro pt h
  simp only [List.mem_cons, List.not_mem_nil, or_false, not_or] at h
  unfold execReadResponseMessage at e
  injection e with e
  subst e
  (try dsimp only)
  (repeat' first | (simp [h]; done) | refine (serve_only _ _ _ _ _ (by simp [h]) (fun u => ?_)) | refine (deliver_only _ _ _ _ _ (by simp [h]) (fun u => ?_)) | refine (takeMessage_only _ _ _ _ _ (by simp [h]) (fun u => ?_)) | refine (sequenced_only _ _ _ _ (by simp [h]) (fun u => ?_)) | refine (trdpHeader_only _ _ _ _ (by simp [h]) (fun u => ?_)) | refine (takeCan_only _ _ _ _ _ (by simp [h]) (fun u => ?_)) | refine (inSplit_only _ _ _ _ (by simp [h]) (fun u x => ?_)) | refine (atComposing_only _ _ _ _ (by simp [h]) (fun u => ?_)) | refine (reassemble_only _ _ _ _ (by simp [h]) (fun u x => ?_)) | (apply foldl_part; intro u x) | split | dsimp only)

theorem execFarErrorMessage_only (f : Frame) (s t0 : State) (e : execFarErrorMessage f s = .next t0) : Only [.host, .bridge, .recorder] s t0 := by
  intro pt h
  simp only [List.mem_cons, List.not_mem_nil, or_false, not_or] at h
  unfold execFarErrorMessage at e
  injection e with e
  subst e
  (try dsimp only)
  (repeat' first | (simp [h]; done) | refine (serve_only _ _ _ _ _ (by simp [h]) (fun u => ?_)) | refine (deliver_only _ _ _ _ _ (by simp [h]) (fun u => ?_)) | refine (takeMessage_only _ _ _ _ _ (by simp [h]) (fun u => ?_)) | refine (sequenced_only _ _ _ _ (by simp [h]) (fun u => ?_)) | refine (trdpHeader_only _ _ _ _ (by simp [h]) (fun u => ?_)) | refine (takeCan_only _ _ _ _ _ (by simp [h]) (fun u => ?_)) | refine (inSplit_only _ _ _ _ (by simp [h]) (fun u x => ?_)) | refine (atComposing_only _ _ _ _ (by simp [h]) (fun u => ?_)) | refine (reassemble_only _ _ _ _ (by simp [h]) (fun u x => ?_)) | (apply foldl_part; intro u x) | split | dsimp only)

theorem execAnnouncementMessage_only (f : Frame) (s t0 : State) (e : execAnnouncementMessage f s = .next t0) : Only [.bridge, .recorder] s t0 := by
  intro pt h
  simp only [List.mem_cons, List.not_mem_nil, or_false, not_or] at h
  unfold execAnnouncementMessage at e
  injection e with e
  subst e
  (try dsimp only)
  (repeat' first | (simp [h]; done) | refine (serve_only _ _ _ _ _ (by simp [h]) (fun u => ?_)) | refine (deliver_only _ _ _ _ _ (by simp [h]) (fun u => ?_)) | refine (takeMessage_only _ _ _ _ _ (by simp [h]) (fun u => ?_)) | refine (sequenced_only _ _ _ _ (by simp [h]) (fun u => ?_)) | refine (trdpHeader_only _ _ _ _ (by simp [h]) (fun u => ?_)) | refine (takeCan_only _ _ _ _ _ (by simp [h]) (fun u => ?_)) | refine (inSplit_only _ _ _ _ (by simp [h]) (fun u x => ?_)) | refine (atComposing_only _ _ _ _ (by simp [h]) (fun u => ?_)) | refine (reassemble_only _ _ _ _ (by simp [h]) (fun u x => ?_)) | (apply foldl_part; intro u x) | split | dsimp only)

theorem execSemaphoreMessage_only (f : Frame) (s t0 : State) (e : execSemaphoreMessage f s = .next t0) : Only [.bridge, .recorder, .freeCount, .out, .route, .veh, .fld, .host] s t0 := by
  intro pt h
  simp only [List.mem_cons, List.not_mem_nil, or_false, not_or] at h
  unfold execSemaphoreMessage at e
  injection e with e
  subst e
  (try dsimp only)
  (repeat' first | (simp [h]; done) | refine (serve_only _ _ _ _ _ (by simp [h]) (fun u => ?_)) | refine (deliver_only _ _ _ _ _ (by simp [h]) (fun u => ?_)) | refine (takeMessage_only _ _ _ _ _ (by simp [h]) (fun u => ?_)) | refine (sequenced_only _ _ _ _ (by simp [h]) (fun u => ?_)) | refine (trdpHeader_only _ _ _ _ (by simp [h]) (fun u => ?_)) | refine (takeCan_only _ _ _ _ _ (by simp [h]) (fun u => ?_)) | refine (inSplit_only _ _ _ _ (by simp [h]) (fun u x => ?_)) | refine (atComposing_only _ _ _ _ (by simp [h]) (fun u => ?_)) | refine (reassemble_only _ _ _ _ (by simp [h]) (fun u x => ?_)) | (apply foldl_part; intro u x) | split | dsimp only)

theorem execRemoteCommandMessage_only (f : Frame) (s t0 : State) (e : execRemoteCommandMessage f s = .next t0) : Only [.host, .out, .veh, .mon, .cmd, .bridge] s t0 := by
  intro pt h
  simp only [List.mem_cons, List.not_mem_nil, or_false, not_or] at h
  unfold execRemoteCommandMessage at e
  injection e with e
  subst e
  (try dsimp only)
  (repeat' first | (simp [h]; done) | refine (serve_only _ _ _ _ _ (by simp [h]) (fun u => ?_)) | refine (deliver_only _ _ _ _ _ (by simp [h]) (fun u => ?_)) | refine (takeMessage_only _ _ _ _ _ (by simp [h]) (fun u => ?_)) | refine (sequenced_only _ _ _ _ (by simp [h]) (fun u => ?_)) | refine (trdpHeader_only _ _ _ _ (by simp [h]) (fun u => ?_)) | refine (takeCan_only _ _ _ _ _ (by simp [h]) (fun u => ?_)) | refine (inSplit_only _ _ _ _ (by simp [h]) (fun u x => ?_)) | refine (atComposing_only _ _ _ _ (by simp [h]) (fun u => ?_)) | refine (reassemble_only _ _ _ _ (by simp [h]) (fun u x => ?_)) | (apply foldl_part; intro u x) | split | dsimp only)

theorem execCommandReplyMessage_only (f : Frame) (s t0 : State) (e : execCommandReplyMessage f s = .next t0) : Only [.cyc, .cmd, .bridge, .recorder] s t0 := by
  intro pt h
  simp only [List.mem_cons, List.not_mem_nil, or_false, not_or] at h
  unfold execCommandReplyMessage at e
  injection e with e
  subst e
  (try dsimp only)
  (repeat' first | (simp [h]; done) | refine (serve_only _ _ _ _ _ (by simp [h]) (fun u => ?_)) | refine (deliver_only _ _ _ _ _ (by simp [h]) (fun u => ?_)) | refine (takeMessage_only _ _ _ _ _ (by simp [h]) (fun u => ?_)) | refine (sequenced_only _ _ _ _ (by simp [h]) (fun u => ?_)) | refine (trdpHeader_only _ _ _ _ (by simp [h]) (fun u => ?_)) | refine (takeCan_only _ _ _ _ _ (by simp [h]) (fun u => ?_)) | refine (inSplit_only _ _ _ _ (by simp [h]) (fun u x => ?_)) | refine (atComposing_only _ _ _ _ (by simp [h]) (fun u => ?_)) | refine (reassemble_only _ _ _ _ (by simp [h]) (fun u x => ?_)) | (apply foldl_part; intro u x) | split | dsimp only)

theorem execMirrorFallbackMessage_only (f : Frame) (s t0 : State) (e : execMirrorFallbackMessage f s = .next t0) : Only [.pair, .bridge, .recorder] s t0 := by
  intro pt h
  simp only [List.mem_cons, List.not_mem_nil, or_false, not_or] at h
  unfold execMirrorFallbackMessage at e
  injection e with e
  subst e
  (try dsimp only)
  (repeat' first | (simp [h]; done) | refine (serve_only _ _ _ _ _ (by simp [h]) (fun u => ?_)) | refine (deliver_only _ _ _ _ _ (by simp [h]) (fun u => ?_)) | refine (takeMessage_only _ _ _ _ _ (by simp [h]) (fun u => ?_)) | refine (sequenced_only _ _ _ _ (by simp [h]) (fun u => ?_)) | refine (trdpHeader_only _ _ _ _ (by simp [h]) (fun u => ?_)) | refine (takeCan_only _ _ _ _ _ (by simp [h]) (fun u => ?_)) | refine (inSplit_only _ _ _ _ (by simp [h]) (fun u x => ?_)) | refine (atComposing_only _ _ _ _ (by simp [h]) (fun u => ?_)) | refine (reassemble_only _ _ _ _ (by simp [h]) (fun u x => ?_)) | (apply foldl_part; intro u x) | split | dsimp only)

theorem execRemotePacketIncomplete_only (chan tag : Nat) (s t0 : State) (e : execRemotePacketIncomplete chan tag s = .next t0) : Only [.host, .out, .veh, .mon, .cmd, .bridge] s t0 := by
  intro pt h
  simp only [List.mem_cons, List.not_mem_nil, or_false, not_or] at h
  unfold execRemotePacketIncomplete at e
  injection e with e
  subst e
  rw [foldl_part]
  · simp [h]
  · intro s x
    (repeat' split) <;> simp [h]

theorem execSettleEnd_only (peer : OpenEnds) (s t0 : State) (e : execSettleEnd peer s = .next t0) : Only [.set, .line, .out] s t0 := by
  intro pt h
  simp at h
  obtain rfl := Host.Outcome.next.inj e
  simp [h]

theorem execProbeTimer_only  (s t0 : State) (e : execProbeTimer  s = .next t0) : Only [.time, .line, .out, .set] s t0 := by
  intro pt h
  simp at h
  obtain rfl := Host.Outcome.next.inj e
  simp [h]

theorem execClaimRepeat_only  (s t0 : State) (e : execClaimRepeat  s = .next t0) : Only [.set, .line, .out] s t0 := by
  intro pt h
  simp at h
  obtain rfl := Host.Outcome.next.inj e
  simp [h]

theorem execClaimWindowEnd_only  (s t0 : State) (e : execClaimWindowEnd  s = .next t0) : Only [.set, .line, .out] s t0 := by
  intro pt h
  simp at h
  obtain rfl := Host.Outcome.next.inj e
  simp [h]

theorem execCensusReplySend_only  (s t0 : State) (e : execCensusReplySend  s = .next t0) : Only [.set, .line, .out] s t0 := by
  intro pt h
  simp at h
  obtain rfl := Host.Outcome.next.inj e
  split <;> simp [h]

theorem execCensusRunClose_only  (s t0 : State) (e : execCensusRunClose  s = .next t0) : Only [.set, .line, .out] s t0 := by
  intro pt h
  simp at h
  obtain rfl := Host.Outcome.next.inj e
  simp [h]

theorem execCensusRunStart_only  (s t0 : State) (e : execCensusRunStart  s = .next t0) : Only [.set, .line, .out] s t0 := by
  intro pt h
  simp at h
  obtain rfl := Host.Outcome.next.inj e
  simp [h]

theorem execWaitingTimeout_only  (s t0 : State) (e : execWaitingTimeout  s = .next t0) : Only [.set] s t0 := by
  intro pt h
  simp at h
  obtain rfl := Host.Outcome.next.inj e
  simp [h]

theorem execCommitAckSend_only  (s t0 : State) (e : execCommitAckSend  s = .next t0) : Only [.set, .line, .out] s t0 := by
  intro pt h
  simp at h
  obtain rfl := Host.Outcome.next.inj e
  split <;> simp [h]

theorem execCommitAckTimeout_only  (s t0 : State) (e : execCommitAckTimeout  s = .next t0) : Only [.set, .line, .out] s t0 := by
  intro pt h
  simp at h
  obtain rfl := Host.Outcome.next.inj e
  (repeat' split) <;> simp [h]

theorem execCommitCycleAdoption_only  (s t0 : State) (e : execCommitCycleAdoption  s = .next t0) : Only [.set, .sleep, .time, .host, .line, .cyc, .bridge, .recorder, .freeCount, .skim] s t0 := by
  intro pt h
  simp at h
  obtain rfl := Host.Outcome.next.inj e
  split <;> simp [h]

theorem execLineBRetrain_only  (s t0 : State) (e : execLineBRetrain  s = .next t0) : Only [.set, .line] s t0 := by
  intro pt h
  simp at h
  obtain rfl := Host.Outcome.next.inj e
  split <;> simp [h]

theorem execSetoutNoAck_only  (s t0 : State) (e : execSetoutNoAck  s = .next t0) : Only [.set, .recorder] s t0 := by
  intro pt h
  simp only [List.mem_cons, List.not_mem_nil, or_false, not_or] at h
  unfold execSetoutNoAck at e
  injection e with e
  subst e
  dsimp only
  (repeat' split) <;> first | rfl | simp [h]

@[simp] theorem retrainQuiet_only (s : State) (pt : Part) (h : pt ∉ [.line]) : (retrainQuiet s).part pt = s.part pt := by
  simp at h
  simp [retrainQuiet, h]

theorem execLeaseLapse_only (peer : OpenEnds) (s t0 : State) (e : execLeaseLapse peer s = .next t0) : Only [.set, .time, .host, .line, .out, .cyc] s t0 := by
  intro pt h
  simp at h
  obtain rfl := Host.Outcome.next.inj e
  simp [h]

theorem execAbsorbingTimeout_only (peer : OpenEnds) (s t0 : State) (e : execAbsorbingTimeout peer s = .next t0) : Only [.set, .time, .host, .line, .out, .cyc] s t0 := by
  intro pt h
  simp at h
  obtain rfl := Host.Outcome.next.inj e
  simp [h]

theorem execVehicleAbsent_only (pos : Nat) (s t0 : State) (e : execVehicleAbsent pos s = .next t0) : Only [.set] s t0 := by
  intro pt h
  simp at h
  obtain rfl := Host.Outcome.next.inj e
  simp [h]

theorem execCabActiveChange_only (active : Bool) (s t0 : State) (e : execCabActiveChange active s = .next t0) : Only [.set] s t0 := by
  intro pt h
  simp at h
  obtain rfl := Host.Outcome.next.inj e
  simp [h]

theorem execBoundaryLinkUp_only (p : LinePort) (claim numbering : Bytes) (s t0 : State) (e : execBoundaryLinkUp p claim numbering s = .next t0) : Only [.set, .line, .out, .recorder] s t0 := by
  intro pt h
  simp at h
  obtain rfl := Host.Outcome.next.inj e
  split <;> simp [h]

theorem execBoundaryOpen_only  (s t0 : State) (e : execBoundaryOpen  s = .next t0) : Only [.set] s t0 := by
  intro pt h
  simp at h
  obtain rfl := Host.Outcome.next.inj e
  simp [h]

theorem execEventTrainTimeFire_only (index : Nat) (s t0 : State) (e : execEventTrainTimeFire index s = .next t0) : Only [.time, .skim, .fld, .bridge, .recorder] s t0 := by
  intro pt h
  simp at h
  obtain rfl := Host.Outcome.next.inj e
  split <;> simp [h]

theorem execPositionInvalid_only  (s t0 : State) (e : execPositionInvalid  s = .next t0) : Only [.time] s t0 := by
  intro pt h
  simp at h
  obtain rfl := Host.Outcome.next.inj e
  simp [h]

theorem execPtpSyncSend_only (vport : Nat) (s t0 : State) (e : execPtpSyncSend vport s = .next t0) : Only [.time, .out] s t0 := by
  intro pt h
  simp at h
  obtain rfl := Host.Outcome.next.inj e
  simp [h]

theorem execPtpAnnounceSend_only (vport : Nat) (s t0 : State) (e : execPtpAnnounceSend vport s = .next t0) : Only [.time, .out] s t0 := by
  intro pt h
  simp at h
  obtain rfl := Host.Outcome.next.inj e
  simp [h]

end Sys2Proof.Machine
end

