-- ==== Sys2Proof/Laws/Exec2.lean ====
section
/-! SUPPORT. What the meanings of the commands from `ptpDelayReqReceived` to `fLoop` can write. -/

set_option Elab.async false
set_option linter.unusedSimpArgs false
set_option linter.unusedVariables false

namespace Sys2Proof.Machine

theorem execPtpDelayReqReceived_only (vport : Nat) (seq : Nat) (requester : Bytes) (arrival : Int) (s t0 : State) (e : execPtpDelayReqReceived vport seq requester arrival s = .next t0) : Only [.out] s t0 := by
  intro pt h
  simp at h
  obtain rfl := Host.Outcome.next.inj e
  simp [h]

theorem execPtpAnnounceReceived_only (vport : Nat) (s t0 : State) (e : execPtpAnnounceReceived vport s = .next t0) : Only [.time, .recorder] s t0 := by
  intro pt h
  simp at h
  obtain rfl := Host.Outcome.next.inj e
  simp [h]

theorem execRtcSet_only  (s t0 : State) (e : execRtcSet  s = .next t0) : Only [.sleep, .start] s t0 := by
  intro pt h
  simp at h
  obtain rfl := Host.Outcome.next.inj e
  simp [h]

theorem execSkimCommit_only  (s t0 : State) (e : execSkimCommit  s = .next t0) : Only [.route, .safe, .time, .freeCount, .host, .skim, .out, .pair, .bridge, .recorder] s t0 := by
  intro pt h
  simp at h
  obtain rfl := Host.Outcome.next.inj e
  simp [h]

theorem execFedCommitTimeout_only  (s t0 : State) (e : execFedCommitTimeout  s = .next t0) : Only [.route, .safe, .time, .freeCount, .host, .skim, .out, .pair, .bridge, .recorder] s t0 := by
  intro pt h
  simp at h
  obtain rfl := Host.Outcome.next.inj e
  simp [h]

theorem execSkimReadHeldAnswer_only  (s t0 : State) (e : execSkimReadHeldAnswer  s = .next t0) : Only [.host, .skim, .out, .veh, .mon, .cmd, .bridge] s t0 := by
  intro pt h
  simp only [List.mem_cons, List.not_mem_nil, or_false, not_or] at h
  unfold execSkimReadHeldAnswer at e
  injection e with e
  subst e
  rw [foldl_part]
  · simp [h]
  · intro s x
    (repeat' split) <;> simp [h]

theorem execSkimReadTimeout_only  (s t0 : State) (e : execSkimReadTimeout  s = .next t0) : Only [.host, .skim, .out, .veh, .mon, .cmd, .bridge] s t0 := by
  intro pt h
  simp at h
  obtain rfl := Host.Outcome.next.inj e
  simp [h]

theorem execPinLeaseExpiry_only (handle : Nat) (s t0 : State) (e : execPinLeaseExpiry handle s = .next t0) : Only [.skim] s t0 := by
  intro pt h
  simp at h
  obtain rfl := Host.Outcome.next.inj e
  simp [h]

theorem execSnapshotCopyComplete_only  (s t0 : State) (e : execSnapshotCopyComplete  s = .next t0) : Only [.skim] s t0 := by
  intro pt h
  simp at h
  obtain rfl := Host.Outcome.next.inj e
  simp [h]

theorem execRouteTableActivation_only  (s t0 : State) (e : execRouteTableActivation  s = .next t0) : Only [.route, .freeCount, .recorder] s t0 := by
  intro pt h
  simp at h
  obtain rfl := Host.Outcome.next.inj e
  simp [h]

theorem execResultHoldExpiry_only (tag : Nat) (s t0 : State) (e : execResultHoldExpiry tag s = .next t0) : Only [.bridge, .recorder] s t0 := by
  intro pt h
  simp at h
  obtain rfl := Host.Outcome.next.inj e
  split <;> simp [h]

theorem execBridgeTimeoutExpiry_only (tag : Nat) (s t0 : State) (e : execBridgeTimeoutExpiry tag s = .next t0) : Only [.host, .bridge, .recorder] s t0 := by
  intro pt h
  simp at h
  obtain rfl := Host.Outcome.next.inj e
  split <;> simp [h]

theorem execBridgeMarkSend_only (slot : Nat) (s t0 : State) (e : execBridgeMarkSend slot s = .next t0) : Only [.bridge] s t0 := by
  intro pt h
  simp at h
  obtain rfl := Host.Outcome.next.inj e
  simp [h]

theorem execSenderRecordExpiry_only (slot seq : Nat) (s t0 : State) (e : execSenderRecordExpiry slot seq s = .next t0) : Only [.bridge] s t0 := by
  intro pt h
  simp at h
  obtain rfl := Host.Outcome.next.inj e
  simp [h]

theorem execReadAheadExpiry_only (route : Nat) (s t0 : State) (e : execReadAheadExpiry route s = .next t0) : Only [.bridge] s t0 := by
  intro pt h
  simp at h
  obtain rfl := Host.Outcome.next.inj e
  simp [h]

theorem execAnnouncementRelease_only  (s t0 : State) (e : execAnnouncementRelease  s = .next t0) : Only [.host, .line, .veh, .bridge, .recorder, .freeCount, .out, .pair] s t0 := by
  intro pt h
  simp at h
  obtain rfl := Host.Outcome.next.inj e
  simp [h]

theorem execSemaphoreLeaseExpiry_only (sem : Nat) (s t0 : State) (e : execSemaphoreLeaseExpiry sem s = .next t0) : Only [.host, .out, .veh, .fld, .bridge, .recorder, .freeCount, .route] s t0 := by
  intro pt h
  simp at h
  obtain rfl := Host.Outcome.next.inj e
  split <;> simp [h]

theorem execSemaphoreWaitExpiry_only (tag : Nat) (s t0 : State) (e : execSemaphoreWaitExpiry tag s = .next t0) : Only [.host, .out, .veh, .fld, .bridge, .recorder, .freeCount, .route] s t0 := by
  intro pt h
  simp at h
  obtain rfl := Host.Outcome.next.inj e
  (repeat' split) <;> simp [h]

@[simp] theorem sendGrouped_only (s : State) (c : Nat) (pt : Part) (h : pt ∉ [.out, .fld]) : (sendGrouped s c).part pt = s.part pt := by
  simp at h
  unfold sendGrouped
  (repeat' split) <;> simp [h]

@[simp] theorem cyclicLock_only (s : State) (port : Nat) (pt : Part) (h : pt ∉ [.out, .bridge, .fld]) : (cyclicLock s port).part pt = s.part pt := by
  simp at h
  unfold cyclicLock
  dsimp only
  (repeat' split) <;> simp [h]

@[simp] theorem enqueueFirst_only (s : State) (x : FarTxn) (pt : Part) (h : pt ∉ [.freeCount, .out, .route, .bridge, .veh, .fld, .recorder, .host]) : (enqueueFirst s x).part pt = s.part pt := by
  simp at h
  unfold enqueueFirst
  dsimp only
  (repeat' split) <;> simp [h]

theorem execFarBusLockTaken_only (port : Nat) (s t0 : State) (e : execFarBusLockTaken port s = .next t0) : Only [.host, .out, .veh, .fld, .bridge, .recorder, .freeCount, .route] s t0 := by
  intro pt h
  simp at h
  obtain rfl := Host.Outcome.next.inj e
  dsimp only
  (repeat' split) <;> simp [h]

@[simp] theorem endCyclic_only (s : State) (p : Nat) (pt : Part) (h : pt ∉ [.freeCount, .out, .skim, .route, .bridge, .veh, .fld, .recorder, .host]) : (endCyclic s p).part pt = s.part pt := by
  simp at h
  unfold endCyclic
  dsimp only
  (repeat' split) <;> simp [h]

theorem execFarBusLockExpiry_only (port : Nat) (s t0 : State) (e : execFarBusLockExpiry port s = .next t0) : Only [.host, .out, .veh, .fld, .bridge, .recorder, .freeCount, .skim, .route] s t0 := by
  intro pt h
  simp at h
  obtain rfl := Host.Outcome.next.inj e
  dsimp only
  (repeat' split) <;> simp [h]

theorem execLockWaitExpiry_only (tag : Nat) (s t0 : State) (e : execLockWaitExpiry tag s = .next t0) : Only [.host, .out, .veh, .fld, .bridge, .recorder, .freeCount, .route] s t0 := by
  intro pt h
  simp at h
  obtain rfl := Host.Outcome.next.inj e
  dsimp only
  (repeat' split) <;> simp [h]

theorem execFarTransactionComplete_only (key : FarKey) (answer : FarAnswer) (s t0 : State) (e : execFarTransactionComplete key answer s = .next t0) : Only [.route, .host, .out, .veh, .fld, .bridge, .recorder, .freeCount] s t0 := by
  intro pt h
  simp at h
  obtain rfl := Host.Outcome.next.inj e
  simp [h]

theorem execVportLinkUp_only (v : Nat) (speed : Nat) (fullDuplex mdix master : Bool) (s t0 : State) (e : execVportLinkUp v speed fullDuplex mdix master s = .next t0) : Only [.out, .veh, .recorder] s t0 := by
  intro pt h
  simp at h
  obtain rfl := Host.Outcome.next.inj e
  simp [h]

theorem execVportLinkDown_only (v : Nat) (s t0 : State) (e : execVportLinkDown v s = .next t0) : Only [.host, .out, .veh, .fld, .bridge, .recorder, .freeCount, .route] s t0 := by
  intro pt h
  simp at h
  obtain rfl := Host.Outcome.next.inj e
  simp [h]

theorem execVehicleFrameReceived_only (v : Nat) (bytes : Bytes) (bad : Bool) (s t0 : State) (e : execVehicleFrameReceived v bytes bad s = .next t0) : Only [.host, .line, .out, .veh, .recorder, .freeCount, .pair] s t0 := by
  intro pt h
  simp at h
  obtain rfl := Host.Outcome.next.inj e
  simp [h]

theorem execMacEntryAgeing_only (vlan mac : Nat) (s t0 : State) (e : execMacEntryAgeing vlan mac s = .next t0) : Only [.veh] s t0 := by
  intro pt h
  simp at h
  obtain rfl := Host.Outcome.next.inj e
  simp [h]

theorem execGateEntryBoundary_only (v : Nat) (s t0 : State) (e : execGateEntryBoundary v s = .next t0) : Only [.out, .veh] s t0 := by
  intro pt h
  simp at h
  obtain rfl := Host.Outcome.next.inj e
  simp [h]

theorem execGateListActivation_only (v : Nat) (s t0 : State) (e : execGateListActivation v s = .next t0) : Only [.out, .veh] s t0 := by
  intro pt h
  simp at h
  obtain rfl := Host.Outcome.next.inj e
  split <;> simp [h]

theorem execArpRequestReceived_only (iface senderIp senderMac targetIp : Nat) (s t0 : State) (e : execArpRequestReceived iface senderIp senderMac targetIp s = .next t0) : Only [.out, .veh, .recorder] s t0 := by
  intro pt h
  simp at h
  obtain rfl := Host.Outcome.next.inj e
  simp [h]

theorem execArpReplyReceived_only (iface senderIp senderMac : Nat) (s t0 : State) (e : execArpReplyReceived iface senderIp senderMac s = .next t0) : Only [.out, .veh, .recorder] s t0 := by
  intro pt h
  simp at h
  obtain rfl := Host.Outcome.next.inj e
  (repeat' split) <;> simp [h]

theorem execArpRetryTimer_only (iface ip : Nat) (s t0 : State) (e : execArpRetryTimer iface ip s = .next t0) : Only [.out, .veh] s t0 := by
  intro pt h
  simp at h
  obtain rfl := Host.Outcome.next.inj e
  split <;> simp [h]

theorem execArpEntryAgeing_only (iface ip : Nat) (s t0 : State) (e : execArpEntryAgeing iface ip s = .next t0) : Only [.host, .out, .veh, .fld, .bridge, .recorder, .freeCount, .route] s t0 := by
  intro pt h
  simp at h
  obtain rfl := Host.Outcome.next.inj e
  split <;> simp [h]

theorem execGratuitousArpRepeat_only (iface : Nat) (s t0 : State) (e : execGratuitousArpRepeat iface s = .next t0) : Only [.out, .veh] s t0 := by
  intro pt h
  simp at h
  obtain rfl := Host.Outcome.next.inj e
  split <;> simp [h]

theorem execIpDatagramReceived_only (iface : Nat) (d : IpIn) (s t0 : State) (e : execIpDatagramReceived iface d s = .next t0) : Only [.out, .veh, .recorder] s t0 := by
  intro pt h
  simp at h
  obtain rfl := Host.Outcome.next.inj e
  simp [h]

theorem execTrdpPublish_only (index : Nat) (s t0 : State) (e : execTrdpPublish index s = .next t0) : Only [.out, .veh] s t0 := by
  intro pt h
  simp at h
  obtain rfl := Host.Outcome.next.inj e
  dsimp only
  (repeat' split) <;> simp [h]

theorem execTrdpPrReceived_only (t : TrdpIn) (s t0 : State) (e : execTrdpPrReceived t s = .next t0) : Only [.out, .veh, .recorder] s t0 := by
  intro pt h
  simp only [List.mem_cons, List.not_mem_nil, or_false, not_or] at h
  unfold execTrdpPrReceived at e
  injection e with e
  subst e
  (try dsimp only)
  (repeat' first | (simp [h]; done) | refine (serve_only _ _ _ _ _ (by simp [h]) (fun u => ?_)) | refine (deliver_only _ _ _ _ _ (by simp [h]) (fun u => ?_)) | refine (takeMessage_only _ _ _ _ _ (by simp [h]) (fun u => ?_)) | refine (sequenced_only _ _ _ _ (by simp [h]) (fun u => ?_)) | refine (trdpHeader_only _ _ _ _ (by simp [h]) (fun u => ?_)) | refine (takeCan_only _ _ _ _ _ (by simp [h]) (fun u => ?_)) | refine (inSplit_only _ _ _ _ (by simp [h]) (fun u x => ?_)) | refine (atComposing_only _ _ _ _ (by simp [h]) (fun u => ?_)) | refine (reassemble_only _ _ _ _ (by simp [h]) (fun u x => ?_)) | (apply foldl_part; intro u x) | split | dsimp only)

theorem execTrdpPdReceived_only (t : TrdpIn) (s t0 : State) (e : execTrdpPdReceived t s = .next t0) : Only [.route, .veh, .recorder] s t0 := by
  intro pt h
  simp only [List.mem_cons, List.not_mem_nil, or_false, not_or] at h
  unfold execTrdpPdReceived at e
  injection e with e
  subst e
  (try dsimp only)
  (repeat' first | (simp [h]; done) | refine (serve_only _ _ _ _ _ (by simp [h]) (fun u => ?_)) | refine (deliver_only _ _ _ _ _ (by simp [h]) (fun u => ?_)) | refine (takeMessage_only _ _ _ _ _ (by simp [h]) (fun u => ?_)) | refine (sequenced_only _ _ _ _ (by simp [h]) (fun u => ?_)) | refine (trdpHeader_only _ _ _ _ (by simp [h]) (fun u => ?_)) | refine (takeCan_only _ _ _ _ _ (by simp [h]) (fun u => ?_)) | refine (inSplit_only _ _ _ _ (by simp [h]) (fun u x => ?_)) | refine (atComposing_only _ _ _ _ (by simp [h]) (fun u => ?_)) | refine (reassemble_only _ _ _ _ (by simp [h]) (fun u x => ?_)) | (apply foldl_part; intro u x) | split | dsimp only)

theorem execTrdpMrReceived_only (t : TrdpIn) (s t0 : State) (e : execTrdpMrReceived t s = .next t0) : Only [.host, .out, .veh, .mon, .cmd, .bridge, .recorder] s t0 := by
  intro pt h
  simp at h
  obtain rfl := Host.Outcome.next.inj e
  simp [h]

theorem execTrdpMnReceived_only (t : TrdpIn) (s t0 : State) (e : execTrdpMnReceived t s = .next t0) : Only [.host, .out, .veh, .mon, .cmd, .bridge, .recorder] s t0 := by
  intro pt h
  simp at h
  obtain rfl := Host.Outcome.next.inj e
  simp [h]

theorem execTrdpReplyReceived_only (t : TrdpIn) (s t0 : State) (e : execTrdpReplyReceived t s = .next t0) : Only [.route, .host, .out, .veh, .fld, .bridge, .recorder, .freeCount] s t0 := by
  intro pt h
  simp only [List.mem_cons, List.not_mem_nil, or_false, not_or] at h
  unfold execTrdpReplyReceived at e
  injection e with e
  subst e
  (try dsimp only)
  (repeat' first | (simp [h]; done) | refine (serve_only _ _ _ _ _ (by simp [h]) (fun u => ?_)) | refine (deliver_only _ _ _ _ _ (by simp [h]) (fun u => ?_)) | refine (takeMessage_only _ _ _ _ _ (by simp [h]) (fun u => ?_)) | refine (sequenced_only _ _ _ _ (by simp [h]) (fun u => ?_)) | refine (trdpHeader_only _ _ _ _ (by simp [h]) (fun u => ?_)) | refine (takeCan_only _ _ _ _ _ (by simp [h]) (fun u => ?_)) | refine (inSplit_only _ _ _ _ (by simp [h]) (fun u x => ?_)) | refine (atComposing_only _ _ _ _ (by simp [h]) (fun u => ?_)) | refine (reassemble_only _ _ _ _ (by simp [h]) (fun u x => ?_)) | (apply foldl_part; intro u x) | split | dsimp only)

theorem execTrdpReplyTimeout_only (session : Nat) (s t0 : State) (e : execTrdpReplyTimeout session s = .next t0) : Only [.route, .host, .out, .veh, .fld, .bridge, .recorder, .freeCount] s t0 := by
  intro pt h
  simp at h
  obtain rfl := Host.Outcome.next.inj e
  split <;> simp [h]

@[simp] theorem takeSems_only (s : State) (ch : Nat) (l : List StagedOut) (pt : Part) (h : pt ∉ [.bridge]) : (takeSems s ch l).part pt = s.part pt := by
  simp at h
  unfold takeSems
  dsimp only
  (repeat' split) <;> simp [h]

theorem execChannelCyclicRequest_only (ch : Nat) (s t0 : State) (e : execChannelCyclicRequest ch s = .next t0) : Only [.skim, .route, .freeCount, .host, .out, .veh, .fld, .bridge, .recorder] s t0 := by
  intro pt h
  simp at h
  obtain rfl := Host.Outcome.next.inj e
  dsimp only
  have missed : ∀ u : State, (if (chanSt s ch).out = 0 then u else missChan u ch).part pt = u.part pt := by
    intro u
    split <;> simp [h]
  have deferred : ∀ l : List StagedOut, (l.foldl noteDeferred s).part pt = s.part pt :=
    fun l => foldl_part _ _ _ _ (by intro u x; simp [h])
  (repeat' split) <;> simp [h, missed, deferred]

theorem execChannelResponseReceived_only (ch : Nat) (r : ChanResp) (s t0 : State) (e : execChannelResponseReceived ch r s = .next t0) : Only [.skim, .route, .freeCount, .host, .out, .veh, .fld, .bridge, .recorder] s t0 := by
  intro pt h
  simp at h
  obtain rfl := Host.Outcome.next.inj e
  dsimp only
  (repeat' split) <;> simp [h]

theorem execChannelReplyTimeout_only (ch : Nat) (s t0 : State) (e : execChannelReplyTimeout ch s = .next t0) : Only [.skim, .route, .host, .out, .veh, .fld, .bridge, .recorder, .freeCount] s t0 := by
  intro pt h
  simp at h
  obtain rfl := Host.Outcome.next.inj e
  simp [h]

theorem execChannelOnDemandSend_only (ch : Nat) (s t0 : State) (e : execChannelOnDemandSend ch s = .next t0) : Only [.skim, .route, .freeCount, .host, .out, .veh, .fld, .bridge, .recorder] s t0 := by
  intro pt h
  simp at h
  obtain rfl := Host.Outcome.next.inj e
  dsimp only
  (repeat' split) <;> simp [h]

theorem execChannelFaultedPoll_only (ch : Nat) (s t0 : State) (e : execChannelFaultedPoll ch s = .next t0) : Only [.skim, .route, .freeCount, .host, .out, .veh, .fld, .bridge, .recorder] s t0 := by
  intro pt h
  simp at h
  obtain rfl := Host.Outcome.next.inj e
  simp [h]

theorem execChannelResolved_only (ch : Nat) (s t0 : State) (e : execChannelResolved ch s = .next t0) : Only [.host, .out, .veh, .fld, .bridge, .recorder, .freeCount, .route] s t0 := by
  intro pt h
  simp at h
  obtain rfl := Host.Outcome.next.inj e
  simp [h]

theorem execRingDescriptorReturn_only (chan count : Nat) (s t0 : State) (e : execRingDescriptorReturn chan count s = .next t0) : Only [.host, .veh] s t0 := by
  intro pt h
  simp at h
  obtain rfl := Host.Outcome.next.inj e
  simp [h]

theorem execStagingTimeout_only  (s t0 : State) (e : execStagingTimeout  s = .next t0) : Only [.host, .line, .veh, .bridge, .recorder, .freeCount, .pair] s t0 := by
  intro pt h
  simp at h
  obtain rfl := Host.Outcome.next.inj e
  split <;> simp [h]

theorem execMvbBasicPeriod_only (port : Nat) (s t0 : State) (e : execMvbBasicPeriod port s = .next t0) : Only [.out, .fld, .bridge, .recorder] s t0 := by
  intro pt h
  simp at h
  obtain rfl := Host.Outcome.next.inj e
  dsimp only
  (repeat' split) <;> simp [h]

theorem execMvbMasterFrameReceived_only (port fcode addr : Nat) (checkOk : Bool) (s t0 : State) (e : execMvbMasterFrameReceived port fcode addr checkOk s = .next t0) : Only [.out, .fld] s t0 := by
  intro pt h
  simp at h
  obtain rfl := Host.Outcome.next.inj e
  (repeat' split) <;> simp [h]

@[simp] theorem takeMvbData_only (s : State) (port : Nat) (m : MvbIn) (pt : Part) (h : pt ∉ [.route, .fld]) : (takeMvbData s port m).part pt = s.part pt := by
  simp at h
  unfold takeMvbData
  dsimp only
  (repeat' split) <;> simp [h]

theorem execMvbSlaveFrameReceived_only (port : Nat) (m : MvbIn) (s t0 : State) (e : execMvbSlaveFrameReceived port m s = .next t0) : Only [.route, .fld, .bridge, .recorder] s t0 := by
  intro pt h
  simp only [List.mem_cons, List.not_mem_nil, or_false, not_or] at h
  unfold execMvbSlaveFrameReceived at e
  injection e with e
  subst e
  dsimp only
  (repeat' split) <;> first | rfl | simp [h]

@[simp] theorem takeSerial_only (s : State) (port : Nat) (pt : Part) (h : pt ∉ [.fld, .recorder]) : (takeSerial s port).part pt = s.part pt := by
  simp at h
  unfold takeSerial
  dsimp only
  (repeat' split) <;> simp [h]

theorem execSerialBusCycleStart_only (port : Nat) (s t0 : State) (e : execSerialBusCycleStart port s = .next t0) : Only [.route, .host, .skim, .out, .veh, .fld, .bridge, .recorder, .freeCount] s t0 := by
  intro pt h
  simp at h
  obtain rfl := Host.Outcome.next.inj e
  split <;> simp [h]

@[simp] theorem lateAccesses_only (sel : FarTxn → Bool) (k : Nat) (s : State) (pt : Part)
    (h : pt ∉ [.freeCount, .out, .route, .bridge, .veh, .fld, .recorder, .host]) :
    (lateAccesses sel k s).part pt = s.part pt := by
  simp at h
  induction k generalizing s with
  | zero => rfl
  | succ k ih =>
    unfold lateAccesses
    split
    · rfl
    · simp [ih, h]

theorem execSerialTransactionHanded_only (port : Nat) (s t0 : State) (e : execSerialTransactionHanded port s = .next t0) : Only [.fld, .bridge, .freeCount, .out, .route, .veh, .recorder, .host] s t0 := by
  intro pt h
  simp only [List.mem_cons, List.not_mem_nil, or_false, not_or] at h
  unfold execSerialTransactionHanded at e
  injection e with e
  subst e
  dsimp only
  (repeat' split) <;> first | rfl | simp [h]

@[simp] theorem bootAll_only (s : State) (c : Nat) (pt : Part) (h : pt ∉ [.out, .bridge, .fld]) : (bootAll s c).part pt = s.part pt := by
  simp at h
  simp [bootAll, h]

theorem execCanPortStart_only (c : Nat) (s t0 : State) (e : execCanPortStart c s = .next t0) : Only [.out, .fld, .bridge] s t0 := by
  intro pt h
  simp at h
  obtain rfl := Host.Outcome.next.inj e
  simp [h]

theorem execCanFrameReceived_only (c : Nat) (m : CanIn) (s t0 : State) (e : execCanFrameReceived c m s = .next t0) : Only [.fld] s t0 := by
  intro pt h
  simp at h
  obtain rfl := Host.Outcome.next.inj e
  simp [h]

theorem execPdoReceived_only (c cobId : Nat) (data : Bytes) (s t0 : State) (e : execPdoReceived c cobId data s = .next t0) : Only [.route, .fld] s t0 := by
  intro pt h
  simp only [List.mem_cons, List.not_mem_nil, or_false, not_or] at h
  unfold execPdoReceived at e
  injection e with e
  subst e
  (try dsimp only)
  (repeat' first | (simp [h]; done) | refine (serve_only _ _ _ _ _ (by simp [h]) (fun u => ?_)) | refine (deliver_only _ _ _ _ _ (by simp [h]) (fun u => ?_)) | refine (takeMessage_only _ _ _ _ _ (by simp [h]) (fun u => ?_)) | refine (sequenced_only _ _ _ _ (by simp [h]) (fun u => ?_)) | refine (trdpHeader_only _ _ _ _ (by simp [h]) (fun u => ?_)) | refine (takeCan_only _ _ _ _ _ (by simp [h]) (fun u => ?_)) | refine (inSplit_only _ _ _ _ (by simp [h]) (fun u x => ?_)) | refine (atComposing_only _ _ _ _ (by simp [h]) (fun u => ?_)) | refine (reassemble_only _ _ _ _ (by simp [h]) (fun u x => ?_)) | (apply foldl_part; intro u x) | split | dsimp only)

theorem execHeartbeatReceived_only (c node state : Nat) (s t0 : State) (e : execHeartbeatReceived c node state s = .next t0) : Only [.out, .fld, .bridge] s t0 := by
  intro pt h
  simp only [List.mem_cons, List.not_mem_nil, or_false, not_or] at h
  unfold execHeartbeatReceived at e
  injection e with e
  subst e
  (try dsimp only)
  (repeat' first | (simp [h]; done) | refine (serve_only _ _ _ _ _ (by simp [h]) (fun u => ?_)) | refine (deliver_only _ _ _ _ _ (by simp [h]) (fun u => ?_)) | refine (takeMessage_only _ _ _ _ _ (by simp [h]) (fun u => ?_)) | refine (sequenced_only _ _ _ _ (by simp [h]) (fun u => ?_)) | refine (trdpHeader_only _ _ _ _ (by simp [h]) (fun u => ?_)) | refine (takeCan_only _ _ _ _ _ (by simp [h]) (fun u => ?_)) | refine (inSplit_only _ _ _ _ (by simp [h]) (fun u x => ?_)) | refine (atComposing_only _ _ _ _ (by simp [h]) (fun u => ?_)) | refine (reassemble_only _ _ _ _ (by simp [h]) (fun u x => ?_)) | (apply foldl_part; intro u x) | split | dsimp only)

theorem execHeartbeatTimeout_only (c node : Nat) (s t0 : State) (e : execHeartbeatTimeout c node s = .next t0) : Only [.fld] s t0 := by
  intro pt h
  simp at h
  obtain rfl := Host.Outcome.next.inj e
  split <;> simp [h]

theorem execBootWaitExpiry_only (c node : Nat) (s t0 : State) (e : execBootWaitExpiry c node s = .next t0) : Only [.out, .fld, .bridge] s t0 := by
  intro pt h
  simp at h
  obtain rfl := Host.Outcome.next.inj e
  simp [h]

theorem execSdoResponseReceived_only (c node : Nat) (data : Bytes) (s t0 : State) (e : execSdoResponseReceived c node data s = .next t0) : Only [.route, .host, .out, .veh, .fld, .bridge, .recorder, .freeCount] s t0 := by
  intro pt h
  simp only [List.mem_cons, List.not_mem_nil, or_false, not_or] at h
  unfold execSdoResponseReceived at e
  injection e with e
  subst e
  (try dsimp only)
  (repeat' first | (simp [h]; done) | refine (serve_only _ _ _ _ _ (by simp [h]) (fun u => ?_)) | refine (deliver_only _ _ _ _ _ (by simp [h]) (fun u => ?_)) | refine (takeMessage_only _ _ _ _ _ (by simp [h]) (fun u => ?_)) | refine (sequenced_only _ _ _ _ (by simp [h]) (fun u => ?_)) | refine (trdpHeader_only _ _ _ _ (by simp [h]) (fun u => ?_)) | refine (takeCan_only _ _ _ _ _ (by simp [h]) (fun u => ?_)) | refine (inSplit_only _ _ _ _ (by simp [h]) (fun u x => ?_)) | refine (atComposing_only _ _ _ _ (by simp [h]) (fun u => ?_)) | refine (reassemble_only _ _ _ _ (by simp [h]) (fun u x => ?_)) | (apply foldl_part; intro u x) | split | dsimp only)

theorem execSdoTimeout_only (c node : Nat) (s t0 : State) (e : execSdoTimeout c node s = .next t0) : Only [.route, .host, .out, .veh, .fld, .bridge, .recorder, .freeCount] s t0 := by
  intro pt h
  simp at h
  obtain rfl := Host.Outcome.next.inj e
  split <;> simp [h]

theorem execEmcyReceived_only (c node : Nat) (data : Bytes) (s t0 : State) (e : execEmcyReceived c node data s = .next t0) : Only [.fld, .bridge, .recorder] s t0 := by
  intro pt h
  simp at h
  obtain rfl := Host.Outcome.next.inj e
  simp [h]

theorem execSyncProduce_only (c : Nat) (s t0 : State) (e : execSyncProduce c s = .next t0) : Only [.out, .fld, .bridge] s t0 := by
  intro pt h
  simp at h
  obtain rfl := Host.Outcome.next.inj e
  simp [h]

theorem execHeartbeatProduce_only (c : Nat) (s t0 : State) (e : execHeartbeatProduce c s = .next t0) : Only [.out, .fld, .bridge] s t0 := by
  intro pt h
  simp at h
  obtain rfl := Host.Outcome.next.inj e
  simp [h]

theorem execCanBusOff_only (c : Nat) (s t0 : State) (e : execCanBusOff c s = .next t0) : Only [.freeCount, .fld, .recorder] s t0 := by
  intro pt h
  simp at h
  obtain rfl := Host.Outcome.next.inj e
  simp [h]

theorem execBusOffRecovery_only (c : Nat) (s t0 : State) (e : execBusOffRecovery c s = .next t0) : Only [.out, .fld] s t0 := by
  intro pt h
  simp at h
  obtain rfl := Host.Outcome.next.inj e
  simp [h]

theorem execFNop_only (k : Nat) (s t0 : State) (e : execFNop k s = .next t0) : Only [.route, .freeCount, .host, .skim, .out, .veh, .fld, .bridge, .recorder] s t0 := by
  intro pt h
  simp at h
  obtain rfl := Host.Outcome.next.inj e
  simp [h]

theorem execFLdi_only (k : Nat) (s t0 : State) (e : execFLdi k s = .next t0) : Only [.route, .freeCount, .host, .skim, .out, .veh, .fld, .bridge, .recorder] s t0 := by
  intro pt h
  simp at h
  obtain rfl := Host.Outcome.next.inj e
  simp [h]

theorem execFLdh_only (k : Nat) (s t0 : State) (e : execFLdh k s = .next t0) : Only [.route, .freeCount, .host, .skim, .out, .veh, .fld, .bridge, .recorder] s t0 := by
  intro pt h
  simp at h
  obtain rfl := Host.Outcome.next.inj e
  simp [h]

theorem execFMov_only (k : Nat) (s t0 : State) (e : execFMov k s = .next t0) : Only [.route, .freeCount, .host, .skim, .out, .veh, .fld, .bridge, .recorder] s t0 := by
  intro pt h
  simp at h
  obtain rfl := Host.Outcome.next.inj e
  simp [h]

theorem execFAdd_only (k : Nat) (s t0 : State) (e : execFAdd k s = .next t0) : Only [.route, .freeCount, .host, .skim, .out, .veh, .fld, .bridge, .recorder] s t0 := by
  intro pt h
  simp at h
  obtain rfl := Host.Outcome.next.inj e
  simp [h]

theorem execFAddi_only (k : Nat) (s t0 : State) (e : execFAddi k s = .next t0) : Only [.route, .freeCount, .host, .skim, .out, .veh, .fld, .bridge, .recorder] s t0 := by
  intro pt h
  simp at h
  obtain rfl := Host.Outcome.next.inj e
  simp [h]

theorem execFSub_only (k : Nat) (s t0 : State) (e : execFSub k s = .next t0) : Only [.route, .freeCount, .host, .skim, .out, .veh, .fld, .bridge, .recorder] s t0 := by
  intro pt h
  simp at h
  obtain rfl := Host.Outcome.next.inj e
  simp [h]

theorem execFAnd_only (k : Nat) (s t0 : State) (e : execFAnd k s = .next t0) : Only [.route, .freeCount, .host, .skim, .out, .veh, .fld, .bridge, .recorder] s t0 := by
  intro pt h
  simp at h
  obtain rfl := Host.Outcome.next.inj e
  simp [h]

theorem execFOr_only (k : Nat) (s t0 : State) (e : execFOr k s = .next t0) : Only [.route, .freeCount, .host, .skim, .out, .veh, .fld, .bridge, .recorder] s t0 := by
  intro pt h
  simp at h
  obtain rfl := Host.Outcome.next.inj e
  simp [h]

theorem execFXor_only (k : Nat) (s t0 : State) (e : execFXor k s = .next t0) : Only [.route, .freeCount, .host, .skim, .out, .veh, .fld, .bridge, .recorder] s t0 := by
  intro pt h
  simp at h
  obtain rfl := Host.Outcome.next.inj e
  simp [h]

theorem execFShl_only (k : Nat) (s t0 : State) (e : execFShl k s = .next t0) : Only [.route, .freeCount, .host, .skim, .out, .veh, .fld, .bridge, .recorder] s t0 := by
  intro pt h
  simp at h
  obtain rfl := Host.Outcome.next.inj e
  simp [h]

theorem execFShr_only (k : Nat) (s t0 : State) (e : execFShr k s = .next t0) : Only [.route, .freeCount, .host, .skim, .out, .veh, .fld, .bridge, .recorder] s t0 := by
  intro pt h
  simp at h
  obtain rfl := Host.Outcome.next.inj e
  simp [h]

theorem execFLd_only (k : Nat) (s t0 : State) (e : execFLd k s = .next t0) : Only [.route, .freeCount, .host, .skim, .out, .veh, .fld, .bridge, .recorder] s t0 := by
  intro pt h
  simp at h
  obtain rfl := Host.Outcome.next.inj e
  simp [h]

theorem execFSt_only (k : Nat) (s t0 : State) (e : execFSt k s = .next t0) : Only [.route, .freeCount, .host, .skim, .out, .veh, .fld, .bridge, .recorder] s t0 := by
  intro pt h
  simp at h
  obtain rfl := Host.Outcome.next.inj e
  simp [h]

theorem execFLdb_only (k : Nat) (s t0 : State) (e : execFLdb k s = .next t0) : Only [.route, .freeCount, .host, .skim, .out, .veh, .fld, .bridge, .recorder] s t0 := by
  intro pt h
  simp at h
  obtain rfl := Host.Outcome.next.inj e
  simp [h]

theorem execFStb_only (k : Nat) (s t0 : State) (e : execFStb k s = .next t0) : Only [.route, .freeCount, .host, .skim, .out, .veh, .fld, .bridge, .recorder] s t0 := by
  intro pt h
  simp at h
  obtain rfl := Host.Outcome.next.inj e
  simp [h]

theorem execFCmp_only (k : Nat) (s t0 : State) (e : execFCmp k s = .next t0) : Only [.route, .freeCount, .host, .skim, .out, .veh, .fld, .bridge, .recorder] s t0 := by
  intro pt h
  simp at h
  obtain rfl := Host.Outcome.next.inj e
  simp [h]

theorem execFCmpi_only (k : Nat) (s t0 : State) (e : execFCmpi k s = .next t0) : Only [.route, .freeCount, .host, .skim, .out, .veh, .fld, .bridge, .recorder] s t0 := by
  intro pt h
  simp at h
  obtain rfl := Host.Outcome.next.inj e
  simp [h]

theorem execFTmr_only (k : Nat) (s t0 : State) (e : execFTmr k s = .next t0) : Only [.route, .freeCount, .host, .skim, .out, .veh, .fld, .bridge, .recorder] s t0 := by
  intro pt h
  simp at h
  obtain rfl := Host.Outcome.next.inj e
  simp [h]

theorem execFTta_only (k : Nat) (s t0 : State) (e : execFTta k s = .next t0) : Only [.route, .freeCount, .host, .skim, .out, .veh, .fld, .bridge, .recorder] s t0 := by
  intro pt h
  simp at h
  obtain rfl := Host.Outcome.next.inj e
  simp [h]

theorem execFPta_only (k : Nat) (s t0 : State) (e : execFPta k s = .next t0) : Only [.route, .freeCount, .host, .skim, .out, .veh, .fld, .bridge, .recorder] s t0 := by
  intro pt h
  simp at h
  obtain rfl := Host.Outcome.next.inj e
  simp [h]

theorem execFWait_only (k : Nat) (s t0 : State) (e : execFWait k s = .next t0) : Only [.route, .freeCount, .host, .skim, .out, .veh, .fld, .bridge, .recorder] s t0 := by
  intro pt h
  simp at h
  obtain rfl := Host.Outcome.next.inj e
  simp [h]

theorem execFIn_only (k : Nat) (s t0 : State) (e : execFIn k s = .next t0) : Only [.route, .freeCount, .host, .skim, .out, .veh, .fld, .bridge, .recorder] s t0 := by
  intro pt h
  simp at h
  obtain rfl := Host.Outcome.next.inj e
  simp [h]

theorem execFOut_only (k : Nat) (s t0 : State) (e : execFOut k s = .next t0) : Only [.route, .freeCount, .host, .skim, .out, .veh, .fld, .bridge, .recorder] s t0 := by
  intro pt h
  simp at h
  obtain rfl := Host.Outcome.next.inj e
  simp [h]

theorem execFTget_only (k : Nat) (s t0 : State) (e : execFTget k s = .next t0) : Only [.route, .freeCount, .host, .skim, .out, .veh, .fld, .bridge, .recorder] s t0 := by
  intro pt h
  simp at h
  obtain rfl := Host.Outcome.next.inj e
  simp [h]

theorem execFTput_only (k : Nat) (s t0 : State) (e : execFTput k s = .next t0) : Only [.route, .freeCount, .host, .skim, .out, .veh, .fld, .bridge, .recorder] s t0 := by
  intro pt h
  simp at h
  obtain rfl := Host.Outcome.next.inj e
  simp [h]

theorem execFTend_only (k : Nat) (s t0 : State) (e : execFTend k s = .next t0) : Only [.route, .freeCount, .host, .skim, .out, .veh, .fld, .bridge, .recorder] s t0 := by
  intro pt h
  simp at h
  obtain rfl := Host.Outcome.next.inj e
  simp [h]

theorem execFCrc_only (k : Nat) (s t0 : State) (e : execFCrc k s = .next t0) : Only [.route, .freeCount, .host, .skim, .out, .veh, .fld, .bridge, .recorder] s t0 := by
  intro pt h
  simp at h
  obtain rfl := Host.Outcome.next.inj e
  simp [h]

@[simp] theorem firmwareReaction_only (s : State) (k : Nat) (pt : Part) (h : pt ∉ [.out, .line, .cyc, .bridge, .fld, .recorder]) : (firmwareReaction s k).part pt = s.part pt := by
  simp at h
  unfold firmwareReaction
  dsimp only
  (repeat' split) <;> simp [h]

@[simp] theorem firmwareFault_only (s : State) (k : Nat) (pt : Part) (h : pt ∉ [.freeCount, .out, .line, .cyc, .bridge, .fld, .recorder]) : (firmwareFault s k).part pt = s.part pt := by
  simp at h
  unfold firmwareFault
  dsimp only
  (repeat' split) <;> simp [h]

theorem execFFault_only (k : Nat) (s t0 : State) (e : execFFault k s = .next t0) : Only [.route, .freeCount, .host, .skim, .out, .veh, .fld, .bridge, .recorder, .line, .cyc] s t0 := by
  intro pt h
  simp at h
  obtain rfl := Host.Outcome.next.inj e
  simp [h]

theorem execFTime_only (k : Nat) (s t0 : State) (e : execFTime k s = .next t0) : Only [.route, .freeCount, .host, .skim, .out, .veh, .fld, .bridge, .recorder] s t0 := by
  intro pt h
  simp at h
  obtain rfl := Host.Outcome.next.inj e
  simp [h]

theorem execFBr_only (k : Nat) (s t0 : State) (e : execFBr k s = .next t0) : Only [.route, .freeCount, .host, .skim, .out, .veh, .fld, .bridge, .recorder] s t0 := by
  intro pt h
  simp at h
  obtain rfl := Host.Outcome.next.inj e
  simp [h]

theorem execFLoop_only (k : Nat) (s t0 : State) (e : execFLoop k s = .next t0) : Only [.route, .freeCount, .host, .skim, .out, .veh, .fld, .bridge, .recorder] s t0 := by
  intro pt h
  simp at h
  obtain rfl := Host.Outcome.next.inj e
  simp [h]

end Sys2Proof.Machine
end

