-- ==== Sys2Proof/Laws/Exec3.lean ====
section
/-! SUPPORT. What the meanings of the commands from `floatRestart` to `opSetoutTable` can write. -/

set_option Elab.async false
set_option linter.unusedSimpArgs false
set_option linter.unusedVariables false

namespace Sys2Proof.Machine

theorem execFloatRestart_only (k : Nat) (s t0 : State) (e : execFloatRestart k s = .next t0) : Only [.fld] s t0 := by
  intro pt h
  simp at h
  obtain rfl := Host.Outcome.next.inj e
  split <;> simp [h]

theorem execFloatTimerExpiry_only (k : Nat) (s t0 : State) (e : execFloatTimerExpiry k s = .next t0) : Only [.fld] s t0 := by
  intro pt h
  simp at h
  obtain rfl := Host.Outcome.next.inj e
  split <;> simp [h]

theorem execLineSilence_only (port : Nat) (s t0 : State) (e : execLineSilence port s = .next t0) : Only [.fld] s t0 := by
  intro pt h
  simp at h
  obtain rfl := Host.Outcome.next.inj e
  split <;> simp [h]

theorem execSerialByteReceived_only (port : Nat) (byte : Byte) (parityErr framingErr : Bool) (s t0 : State) (e : execSerialByteReceived port byte parityErr framingErr s = .next t0) : Only [.fld] s t0 := by
  intro pt h
  simp at h
  obtain rfl := Host.Outcome.next.inj e
  simp [h]

theorem execTransmitDrained_only (port : Nat) (s t0 : State) (e : execTransmitDrained port s = .next t0) : Only [.fld] s t0 := by
  intro pt h
  simp at h
  obtain rfl := Host.Outcome.next.inj e
  simp [h]

theorem execTrainTimeTargetReached_only (k : Nat) (s t0 : State) (e : execTrainTimeTargetReached k s = .next t0) : Only [.fld] s t0 := by
  intro pt h
  simp at h
  obtain rfl := Host.Outcome.next.inj e
  split <;> simp [h]

theorem execProgramTakeForce_only (target : Nat) (s t0 : State) (e : execProgramTakeForce target s = .next t0) : Only [.fld, .recorder] s t0 := by
  intro pt h
  simp at h
  obtain rfl := Host.Outcome.next.inj e
  dsimp only
  (repeat' split) <;> simp [h]

@[simp] theorem votedStore_only (s : State) (l : List LaneCmp) (par : List (BitVec 3)) (pt : Part) (h : pt ∉ [.safe]) : (votedStore s l par).part pt = s.part pt := by
  simp at h
  unfold votedStore
  dsimp only
  (repeat' split) <;> simp [h]

@[simp] theorem votedRead_only (s : State) (l : List LaneCmp) (par : List (BitVec 3)) (pt : Part) (h : pt ∉ [.freeCount, .safe]) : (votedRead s l par).part pt = s.part pt := by
  simp at h
  unfold votedRead
  dsimp only
  (repeat' split) <;> simp [h]

@[simp] theorem carryOut_only (s : State) (l : List LaneCmp) (par : List (BitVec 3)) (pt : Part) (h : pt ∉ [.freeCount, .safe]) : (carryOut s l par).part pt = s.part pt := by
  simp at h
  unfold carryOut
  dsimp only
  (repeat' split) <;> simp [h]

@[simp] theorem differingCore_only (s : State) (core : Nat) (l : List LaneCmp) (clock : Nat) (par : List (BitVec 3)) (pt : Part) (h : pt ∉ [.skim, .recorder, .host, .safe, .freeCount]) : (differingCore s core l clock par).part pt = s.part pt := by
  simp at h
  unfold differingCore
  dsimp only
  (repeat' split) <;> simp [h]

@[simp] theorem restartSelfCheck_only (s : State) (core : Nat) (l : List LaneCmp) (par : List (BitVec 3)) (pt : Part) (h : pt ∉ [.skim, .recorder, .host, .safe]) : (restartSelfCheck s core l par).part pt = s.part pt := by
  simp at h
  unfold restartSelfCheck
  dsimp only
  (repeat' split) <;> simp [h]

@[simp] theorem nameCore_only (s : State) (core : Nat) (l : List LaneCmp) (clock : Nat) (parity : List (BitVec 3)) (pt : Part) (h : pt ∉ [.freeCount, .skim, .recorder, .host, .safe]) : (nameCore s core l clock parity).part pt = s.part pt := by
  simp at h
  unfold nameCore
  dsimp only
  split <;> simp [h]

theorem execMinorityDetected_only (core : Nat) (lane : List LaneCmp) (clock : Nat) (parity : List (BitVec 3)) (s t0 : State) (e : execMinorityDetected core lane clock parity s = .next t0) : Only [.safe, .host, .skim, .recorder, .freeCount] s t0 := by
  intro pt h
  simp at h
  obtain rfl := Host.Outcome.next.inj e
  simp [h]

theorem execNoMajority_only (lane : List LaneCmp) (clock : Nat) (parity : List (BitVec 3)) (s t0 : State) (e : execNoMajority lane clock parity s = .next t0) : Only [.safe, .host, .skim, .recorder] s t0 := by
  intro pt h
  simp at h
  obtain rfl := Host.Outcome.next.inj e
  simp [h]

theorem execComparatorFault_only (lane : List LaneCmp) (clock : Nat) (s t0 : State) (e : execComparatorFault lane clock s = .next t0) : Only [.safe, .host, .skim, .recorder] s t0 := by
  intro pt h
  simp at h
  obtain rfl := Host.Outcome.next.inj e
  simp [h]

theorem execCheckpointWriteComplete_only  (s t0 : State) (e : execCheckpointWriteComplete  s = .next t0) : Only [.safe, .freeCount, .host, .skim, .out, .bridge] s t0 := by
  intro pt h
  simp at h
  obtain rfl := Host.Outcome.next.inj e
  dsimp only
  (repeat' split) <;> simp [h]

theorem execResyncComplete_only (selfCheckOk : Bool) (s t0 : State) (e : execResyncComplete selfCheckOk s = .next t0) : Only [.safe, .host, .recorder] s t0 := by
  intro pt h
  simp at h
  obtain rfl := Host.Outcome.next.inj e
  simp [h]

theorem execRestartComplete_only  (s t0 : State) (e : execRestartComplete  s = .next t0) : Only [.safe, .host] s t0 := by
  intro pt h
  simp at h
  obtain rfl := Host.Outcome.next.inj e
  dsimp only
  (repeat' split) <;> simp [h]

theorem execTcmScrub_only (core : Nat) (addr : Nat) (outcome : Nat) (s t0 : State) (e : execTcmScrub core addr outcome s = .next t0) : Only [.safe, .host, .skim, .recorder, .freeCount] s t0 := by
  intro pt h
  simp at h
  obtain rfl := Host.Outcome.next.inj e
  simp [h]

theorem execReplayComplete_only (mismatch : Bool) (count lane : Nat) (s t0 : State) (e : execReplayComplete mismatch count lane s = .next t0) : Only [.safe, .host, .out, .veh, .mon, .cmd, .bridge, .recorder] s t0 := by
  intro pt h
  simp at h
  obtain rfl := Host.Outcome.next.inj e
  simp [h]

theorem execInputComparatorDisagree_only (input : Nat) (s t0 : State) (e : execInputComparatorDisagree input s = .next t0) : Only [.set, .safe, .recorder] s t0 := by
  intro pt h
  simp at h
  unfold execInputComparatorDisagree at e
  (repeat' split at e) <;> cases e <;> simp [h]

theorem execInputFaultClear_only (input : Nat) (s t0 : State) (e : execInputFaultClear input s = .next t0) : Only [.safe] s t0 := by
  intro pt h
  simp at h
  obtain rfl := Host.Outcome.next.inj e
  simp [h]

theorem execOutputPulseTest_only (output : Nat) (readsOff : Bool) (s t0 : State) (e : execOutputPulseTest output readsOff s = .next t0) : Only [.safe, .recorder] s t0 := by
  intro pt h
  simp at h
  obtain rfl := Host.Outcome.next.inj e
  simp [h]

@[simp] theorem recordDropped_only (s : State) (pt : Part) (h : pt ∉ [.freeCount, .pair]) : (recordDropped s).part pt = s.part pt := by
  simp at h
  simp [recordDropped, h]

@[simp] theorem ringGood_only (s : State) (pt : Part) (h : pt ∉ [.freeCount, .pair]) : (ringGood s).part pt = s.part pt := by
  simp at h
  simp [ringGood, h]

@[simp] theorem judgeUuid_only (s : State) (pt : Part) (h : pt ∉ [.pair]) : (judgeUuid s).part pt = s.part pt := by
  simp at h
  unfold judgeUuid
  dsimp only
  (repeat' split) <;> simp [h]

theorem execControlRecordReceived_only (unit : Nat) (unitId : Nat) (cycle : Nat) (content : Bytes) (s t0 : State) (e : execControlRecordReceived unit unitId cycle content s = .next t0) : Only [.safe, .line, .out, .pair, .recorder, .unplaced, .freeCount] s t0 := by
  intro pt h
  simp at h
  obtain rfl := Host.Outcome.next.inj e
  simp [h]

theorem execCommitMarkReceived_only (content : Bytes) (s t0 : State) (e : execCommitMarkReceived content s = .next t0) : Only [.route, .safe, .time, .freeCount, .host, .skim, .out, .pair, .bridge, .recorder] s t0 := by
  intro pt h
  simp at h
  obtain rfl := Host.Outcome.next.inj e
  simp [h]

@[simp] theorem ringRecordPart_only (s : State) (type skim part parts : Nat) (content : Bytes) (act : State → Bytes → State) (pt : Part) (h : pt ∉ [.freeCount, .pair])
    (ha : ∀ s b, (act s b).part pt = s.part pt) : (ringRecordPart s type skim part parts content act).part pt = s.part pt := by
  simp only [List.mem_cons, List.not_mem_nil, or_false, not_or] at h
  unfold ringRecordPart
  (repeat' split) <;> simp [h, ha]

theorem execSafetyStateRecord_only (skim part parts : Nat) (content : Bytes) (s t0 : State) (e : execSafetyStateRecord skim part parts content s = .next t0) : Only [.pair, .recorder, .freeCount] s t0 := by
  intro pt h
  simp at h
  obtain rfl := Host.Outcome.next.inj e
  simp [h]

theorem execOutputImageRecord_only (skim part parts : Nat) (content : Bytes) (s t0 : State) (e : execOutputImageRecord skim part parts content s = .next t0) : Only [.pair, .freeCount] s t0 := by
  intro pt h
  simp at h
  obtain rfl := Host.Outcome.next.inj e
  simp [h]

theorem execWritesAndForcesRecord_only (skim part parts : Nat) (content : Bytes) (s t0 : State) (e : execWritesAndForcesRecord skim part parts content s = .next t0) : Only [.pair, .freeCount] s t0 := by
  intro pt h
  simp at h
  obtain rfl := Host.Outcome.next.inj e
  simp [h]

theorem execPortTrafficRecord_only (fromUnit skim part parts : Nat) (content : Bytes) (s t0 : State) (e : execPortTrafficRecord fromUnit skim part parts content s = .next t0) : Only [.route, .skim, .pair, .recorder, .freeCount] s t0 := by
  intro pt h
  simp only [List.mem_cons, List.not_mem_nil, or_false, not_or] at h
  unfold execPortTrafficRecord at e
  injection e with e
  subst e
  have k := mirrorPart_only (ringGood s) (6 + 16 * fromUnit) skim part parts content pt (by simp [h])
  split
  · rfl
  · split
    · simp [h]
    · split
      · next s1 hm => rw [hm] at k; simpa [h] using k
      · next s1 b hm =>
        rw [hm] at k
        (repeat' split) <;> simp [h, k] <;> simpa [h] using k

theorem execPeerSegmentDown_only (seg : Nat) (s t0 : State) (e : execPeerSegmentDown seg s = .next t0) : Only [.pair] s t0 := by
  intro pt h
  simp at h
  obtain rfl := Host.Outcome.next.inj e
  simp [h]

theorem execInterlockReadingChange_only (ilkIn ownLoop : Nat) (s t0 : State) (e : execInterlockReadingChange ilkIn ownLoop s = .next t0) : Only [.set, .safe, .host, .pair, .recorder] s t0 := by
  intro pt h
  simp at h
  obtain rfl := Host.Outcome.next.inj e
  simp [h]

theorem execInterlockSettle_only  (s t0 : State) (e : execInterlockSettle  s = .next t0) : Only [.pair] s t0 := by
  intro pt h
  simp at h
  obtain rfl := Host.Outcome.next.inj e
  simp [h]

theorem execIlkFaultSet_only  (s t0 : State) (e : execIlkFaultSet  s = .next t0) : Only [.pair] s t0 := by
  intro pt h
  simp at h
  obtain rfl := Host.Outcome.next.inj e
  split <;> simp [h]

theorem execIlkFaultClear_only  (s t0 : State) (e : execIlkFaultClear  s = .next t0) : Only [.pair] s t0 := by
  intro pt h
  simp at h
  obtain rfl := Host.Outcome.next.inj e
  split <;> simp [h]

theorem execRoleWatchdogExpiry_only  (s t0 : State) (e : execRoleWatchdogExpiry  s = .next t0) : Only [.set, .safe, .host, .pair, .recorder] s t0 := by
  intro pt h
  simp at h
  obtain rfl := Host.Outcome.next.inj e
  split <;> simp [h]

theorem execRoleTakeover_only  (s t0 : State) (e : execRoleTakeover  s = .next t0) : Only [.set, .route, .host, .skim, .pair, .bridge, .recorder] s t0 := by
  intro pt h
  simp at h
  obtain rfl := Host.Outcome.next.inj e
  split <;> simp [h]

theorem execHandoverSwitch_only  (s t0 : State) (e : execHandoverSwitch  s = .next t0) : Only [.set, .route, .safe, .host, .skim, .pair, .bridge, .recorder] s t0 := by
  intro pt h
  simp at h
  obtain rfl := Host.Outcome.next.inj e
  split <;> simp [h]

theorem execSwitchback_only  (s t0 : State) (e : execSwitchback  s = .next t0) : Only [.set, .safe, .host, .out, .pair, .recorder] s t0 := by
  intro pt h
  simp at h
  obtain rfl := Host.Outcome.next.inj e
  simp [h]

theorem execGrantExpiry_only  (s t0 : State) (e : execGrantExpiry  s = .next t0) : Only [.set, .safe, .host, .pair, .recorder] s t0 := by
  intro pt h
  simp at h
  obtain rfl := Host.Outcome.next.inj e
  simp [h]

theorem execHawkFence_only  (s t0 : State) (e : execHawkFence  s = .next t0) : Only [.set, .safe, .host, .pair, .recorder] s t0 := by
  intro pt h
  simp at h
  obtain rfl := Host.Outcome.next.inj e
  simp [h]

theorem execHawkClaim_only  (s t0 : State) (e : execHawkClaim  s = .next t0) : Only [.out, .pair] s t0 := by
  intro pt h
  simp at h
  obtain rfl := Host.Outcome.next.inj e
  split <;> simp [h]

theorem execHawkTake_only  (s t0 : State) (e : execHawkTake  s = .next t0) : Only [.set, .route, .host, .skim, .pair, .bridge, .recorder] s t0 := by
  intro pt h
  simp at h
  obtain rfl := Host.Outcome.next.inj e
  split <;> simp [h]

theorem execHawkRelease_only  (s t0 : State) (e : execHawkRelease  s = .next t0) : Only [.set, .safe, .host, .out, .pair, .recorder] s t0 := by
  intro pt h
  simp at h
  obtain rfl := Host.Outcome.next.inj e
  simp [h]

theorem execColdTakeoverEnd_only  (s t0 : State) (e : execColdTakeoverEnd  s = .next t0) : Only [.pair] s t0 := by
  intro pt h
  simp at h
  obtain rfl := Host.Outcome.next.inj e
  split <;> simp [h]

theorem execGapRepeatEnd_only  (s t0 : State) (e : execGapRepeatEnd  s = .next t0) : Only [.pair] s t0 := by
  intro pt h
  simp at h
  obtain rfl := Host.Outcome.next.inj e
  simp [h]

theorem execWakePulseQualified_only (p : LinePort) (s t0 : State) (e : execWakePulseQualified p s = .next t0) : Only [.sleep, .time, .host, .img, .out, .start, .recorder] s t0 := by
  intro pt h
  simp at h
  obtain rfl := Host.Outcome.next.inj e
  simp [h]

theorem execWakePulseEnd_only  (s t0 : State) (e : execWakePulseEnd  s = .next t0) : Only [.sleep] s t0 := by
  intro pt h
  simp at h
  obtain rfl := Host.Outcome.next.inj e
  simp [h]

theorem execRefractoryEnd_only  (s t0 : State) (e : execRefractoryEnd  s = .next t0) : Only [.sleep] s t0 := by
  intro pt h
  simp at h
  obtain rfl := Host.Outcome.next.inj e
  simp [h]

theorem execWakeWireStuck_only (p : LinePort) (s t0 : State) (e : execWakeWireStuck p s = .next t0) : Only [.sleep, .recorder] s t0 := by
  intro pt h
  simp at h
  obtain rfl := Host.Outcome.next.inj e
  simp [h]

theorem execWakeWireReleased_only (p : LinePort) (s t0 : State) (e : execWakeWireReleased p s = .next t0) : Only [.sleep] s t0 := by
  intro pt h
  simp at h
  obtain rfl := Host.Outcome.next.inj e
  simp [h]

theorem execTc10WakeReceived_only (link : Nat) (s t0 : State) (e : execTc10WakeReceived link s = .next t0) : Only [.sleep, .time, .host, .img, .out, .start, .recorder] s t0 := by
  intro pt h
  simp at h
  obtain rfl := Host.Outcome.next.inj e
  simp [h]

theorem execTc10SleepTimeout_only (link : Nat) (s t0 : State) (e : execTc10SleepTimeout link s = .next t0) : Only [.sleep] s t0 := by
  intro pt h
  simp at h
  obtain rfl := Host.Outcome.next.inj e
  split <;> simp [h]

theorem execWakeInputActive_only (input : Nat) (s t0 : State) (e : execWakeInputActive input s = .next t0) : Only [.sleep, .time, .host, .img, .out, .start, .recorder] s t0 := by
  intro pt h
  simp at h
  obtain rfl := Host.Outcome.next.inj e
  split <;> simp [h]

theorem execAlarmFire_only (index : Nat) (s t0 : State) (e : execAlarmFire index s = .next t0) : Only [.sleep, .time, .host, .img, .out, .start, .recorder] s t0 := by
  intro pt h
  simp at h
  obtain rfl := Host.Outcome.next.inj e
  split <;> simp [h]

theorem execAlarmHoldEnd_only (index : Nat) (s t0 : State) (e : execAlarmHoldEnd index s = .next t0) : Only [.sleep] s t0 := by
  intro pt h
  simp at h
  obtain rfl := Host.Outcome.next.inj e
  split <;> simp [h]

theorem execCommandHoldEnd_only  (s t0 : State) (e : execCommandHoldEnd  s = .next t0) : Only [.sleep] s t0 := by
  intro pt h
  simp at h
  obtain rfl := Host.Outcome.next.inj e
  split <;> simp [h]

theorem execPointOfNoReturn_only  (s t0 : State) (e : execPointOfNoReturn  s = .next t0) : Only [.sleep] s t0 := by
  intro pt h
  simp at h
  obtain rfl := Host.Outcome.next.inj e
  simp [h]

theorem execSleepEntry_only  (s t0 : State) (e : execSleepEntry  s = .next t0) : Only [.set, .sleep, .route, .safe, .time, .host, .skim, .img, .out, .veh, .cyc, .start, .fld, .mon, .cmd, .pair, .bridge, .pres, .recorder] s t0 := by
  intro pt h
  simp at h
  obtain rfl := Host.Outcome.next.inj e
  simp [h]

theorem execSleepEntryComplete_only  (s t0 : State) (e : execSleepEntryComplete  s = .next t0) : Only [.set, .sleep, .time, .host, .line, .img, .out, .cyc, .start, .pair, .recorder] s t0 := by
  intro pt h
  simp at h
  obtain rfl := Host.Outcome.next.inj e
  simp [h]

theorem execFalseWake_only  (s t0 : State) (e : execFalseWake  s = .next t0) : Only [.set, .sleep, .route, .safe, .time, .host, .skim, .img, .out, .veh, .cyc, .start, .fld, .mon, .cmd, .pair, .bridge, .pres, .recorder] s t0 := by
  intro pt h
  simp at h
  obtain rfl := Host.Outcome.next.inj e
  simp [h]

theorem execWakeSourceUnmasked_only (source : Nat) (s t0 : State) (e : execWakeSourceUnmasked source s = .next t0) : Only [.sleep, .recorder] s t0 := by
  intro pt h
  simp at h
  obtain rfl := Host.Outcome.next.inj e
  split <;> simp [h]

theorem execWakeInputStuck_only (input : Nat) (s t0 : State) (e : execWakeInputStuck input s = .next t0) : Only [.sleep, .recorder] s t0 := by
  intro pt h
  simp at h
  obtain rfl := Host.Outcome.next.inj e
  split <;> simp [h]

theorem execWakeInputUnstuck_only (input : Nat) (s t0 : State) (e : execWakeInputUnstuck input s = .next t0) : Only [.sleep] s t0 := by
  intro pt h
  simp at h
  obtain rfl := Host.Outcome.next.inj e
  simp [h]

theorem execLineKeepingEntry_only  (s t0 : State) (e : execLineKeepingEntry  s = .next t0) : Only [.set, .sleep, .route, .safe, .time, .host, .skim, .img, .veh, .start, .fld, .mon, .cmd, .pair, .bridge, .pres, .recorder] s t0 := by
  intro pt h
  simp at h
  obtain rfl := Host.Outcome.next.inj e
  simp [h]

theorem execLineKeepingExit_only (source : Nat) (s t0 : State) (e : execLineKeepingExit source s = .next t0) : Only [.sleep, .time, .host, .img, .out, .start, .recorder] s t0 := by
  intro pt h
  simp at h
  obtain rfl := Host.Outcome.next.inj e
  simp [h]

theorem execMaxAwakeExpiry_only  (s t0 : State) (e : execMaxAwakeExpiry  s = .next t0) : Only [.sleep] s t0 := by
  intro pt h
  simp at h
  obtain rfl := Host.Outcome.next.inj e
  split <;> simp [h]

theorem execEventReported_only (e : EventIn) (s t0 : State) (e : execEventReported e s = .next t0) : Only [.host, .skim, .recorder] s t0 := by
  intro pt h
  simp at h
  obtain rfl := Host.Outcome.next.inj e
  (repeat' split) <;> simp [h]

theorem execTokenRefill_only (code : Nat) (s t0 : State) (e : execTokenRefill code s = .next t0) : Only [.recorder] s t0 := by
  intro pt h
  simp at h
  obtain rfl := Host.Outcome.next.inj e
  simp [h]

theorem execRecorderFlush_only (writeOk : Bool) (s t0 : State) (e : execRecorderFlush writeOk s = .next t0) : Only [.host, .skim, .recorder] s t0 := by
  intro pt h
  simp at h
  obtain rfl := Host.Outcome.next.inj e
  simp [h]

theorem execRecorderDegraded_only  (s t0 : State) (e : execRecorderDegraded  s = .next t0) : Only [.recorder] s t0 := by
  intro pt h
  simp at h
  obtain rfl := Host.Outcome.next.inj e
  split <;> simp [h]

theorem execSummaryPeriodEnd_only  (s t0 : State) (e : execSummaryPeriodEnd  s = .next t0) : Only [.recorder] s t0 := by
  intro pt h
  simp at h
  obtain rfl := Host.Outcome.next.inj e
  simp [h]

theorem execSessionIdle_only (sess : Session) (s t0 : State) (e : execSessionIdle sess s = .next t0) : Only [.cmd] s t0 := by
  intro pt h
  simp at h
  obtain rfl := Host.Outcome.next.inj e
  split <;> simp [h]

theorem execTransferIdle_only (kind target : Nat) (s t0 : State) (e : execTransferIdle kind target s = .next t0) : Only [.img, .cmd] s t0 := by
  intro pt h
  simp at h
  obtain rfl := Host.Outcome.next.inj e
  simp [h]

theorem execReplyKeepExpiry_only (sess : Session) (seq : Nat) (s t0 : State) (e : execReplyKeepExpiry sess seq s = .next t0) : Only [.cmd] s t0 := by
  intro pt h
  simp at h
  obtain rfl := Host.Outcome.next.inj e
  simp [h]

theorem execOpIdentity_only (p : Packet) (s t0 : State) (e : execOpIdentity p s = .next t0) : Only [.host, .out, .veh, .mon, .cmd, .bridge] s t0 := by
  intro pt h
  simp at h
  obtain rfl := Host.Outcome.next.inj e
  simp [h]

theorem execOpStatus_only (p : Packet) (s t0 : State) (e : execOpStatus p s = .next t0) : Only [.host, .out, .veh, .mon, .cmd, .bridge] s t0 := by
  intro pt h
  simp at h
  obtain rfl := Host.Outcome.next.inj e
  simp [h]

theorem execOpTime_only (p : Packet) (s t0 : State) (e : execOpTime p s = .next t0) : Only [.host, .out, .veh, .mon, .cmd, .bridge] s t0 := by
  intro pt h
  simp at h
  obtain rfl := Host.Outcome.next.inj e
  simp [h]

theorem execOpSkimRead_only (p : Packet) (s t0 : State) (e : execOpSkimRead p s = .next t0) : Only [.host, .skim, .out, .veh, .mon, .cmd, .bridge] s t0 := by
  intro pt h
  simp at h
  obtain rfl := Host.Outcome.next.inj e
  simp [h]

theorem execOpSkimWrite_only (p : Packet) (s t0 : State) (e : execOpSkimWrite p s = .next t0) : Only [.freeCount, .host, .skim, .out, .veh, .mon, .cmd, .bridge] s t0 := by
  intro pt h
  simp only [List.mem_cons, List.not_mem_nil, or_false, not_or] at h
  unfold execOpSkimWrite at e
  injection e with e
  subst e
  (try dsimp only)
  (repeat' first | (simp [h]; done) | refine (serve_only _ _ _ _ _ (by simp [h]) (fun u => ?_)) | refine (deliver_only _ _ _ _ _ (by simp [h]) (fun u => ?_)) | refine (takeMessage_only _ _ _ _ _ (by simp [h]) (fun u => ?_)) | refine (sequenced_only _ _ _ _ (by simp [h]) (fun u => ?_)) | refine (trdpHeader_only _ _ _ _ (by simp [h]) (fun u => ?_)) | refine (takeCan_only _ _ _ _ _ (by simp [h]) (fun u => ?_)) | refine (inSplit_only _ _ _ _ (by simp [h]) (fun u x => ?_)) | refine (atComposing_only _ _ _ _ (by simp [h]) (fun u => ?_)) | refine (reassemble_only _ _ _ _ (by simp [h]) (fun u x => ?_)) | (apply foldl_part; intro u x) | split | dsimp only)

theorem execOpSkimDescriptor_only (p : Packet) (s t0 : State) (e : execOpSkimDescriptor p s = .next t0) : Only [.host, .skim, .out, .veh, .mon, .cmd, .bridge] s t0 := by
  intro pt h
  simp at h
  obtain rfl := Host.Outcome.next.inj e
  simp [h]

theorem execOpPinTake_only (p : Packet) (s t0 : State) (e : execOpPinTake p s = .next t0) : Only [.host, .skim, .out, .veh, .mon, .cmd, .bridge] s t0 := by
  intro pt h
  simp only [List.mem_cons, List.not_mem_nil, or_false, not_or] at h
  unfold execOpPinTake at e
  injection e with e
  subst e
  (try dsimp only)
  (repeat' first | (simp [h]; done) | refine (serve_only _ _ _ _ _ (by simp [h]) (fun u => ?_)) | refine (deliver_only _ _ _ _ _ (by simp [h]) (fun u => ?_)) | refine (takeMessage_only _ _ _ _ _ (by simp [h]) (fun u => ?_)) | refine (sequenced_only _ _ _ _ (by simp [h]) (fun u => ?_)) | refine (trdpHeader_only _ _ _ _ (by simp [h]) (fun u => ?_)) | refine (takeCan_only _ _ _ _ _ (by simp [h]) (fun u => ?_)) | refine (inSplit_only _ _ _ _ (by simp [h]) (fun u x => ?_)) | refine (atComposing_only _ _ _ _ (by simp [h]) (fun u => ?_)) | refine (reassemble_only _ _ _ _ (by simp [h]) (fun u x => ?_)) | (apply foldl_part; intro u x) | split | dsimp only)

theorem execOpPinRenew_only (p : Packet) (s t0 : State) (e : execOpPinRenew p s = .next t0) : Only [.host, .skim, .out, .veh, .mon, .cmd, .bridge] s t0 := by
  intro pt h
  simp only [List.mem_cons, List.not_mem_nil, or_false, not_or] at h
  unfold execOpPinRenew at e
  injection e with e
  subst e
  (try dsimp only)
  (repeat' first | (simp [h]; done) | refine (serve_only _ _ _ _ _ (by simp [h]) (fun u => ?_)) | refine (deliver_only _ _ _ _ _ (by simp [h]) (fun u => ?_)) | refine (takeMessage_only _ _ _ _ _ (by simp [h]) (fun u => ?_)) | refine (sequenced_only _ _ _ _ (by simp [h]) (fun u => ?_)) | refine (trdpHeader_only _ _ _ _ (by simp [h]) (fun u => ?_)) | refine (takeCan_only _ _ _ _ _ (by simp [h]) (fun u => ?_)) | refine (inSplit_only _ _ _ _ (by simp [h]) (fun u x => ?_)) | refine (atComposing_only _ _ _ _ (by simp [h]) (fun u => ?_)) | refine (reassemble_only _ _ _ _ (by simp [h]) (fun u x => ?_)) | (apply foldl_part; intro u x) | split | dsimp only)

theorem execOpPinRelease_only (p : Packet) (s t0 : State) (e : execOpPinRelease p s = .next t0) : Only [.host, .skim, .out, .veh, .mon, .cmd, .bridge] s t0 := by
  intro pt h
  simp at h
  obtain rfl := Host.Outcome.next.inj e
  simp [h]

theorem execOpForce_only (p : Packet) (s t0 : State) (e : execOpForce p s = .next t0) : Only [.host, .skim, .out, .veh, .mon, .cmd, .bridge] s t0 := by
  intro pt h
  simp at h
  obtain rfl := Host.Outcome.next.inj e
  split <;> simp [h]

theorem execOpForceRelease_only (p : Packet) (s t0 : State) (e : execOpForceRelease p s = .next t0) : Only [.host, .skim, .out, .veh, .mon, .cmd, .bridge] s t0 := by
  intro pt h
  simp at h
  obtain rfl := Host.Outcome.next.inj e
  simp [h]

theorem execOpSnapshotTake_only (p : Packet) (s t0 : State) (e : execOpSnapshotTake p s = .next t0) : Only [.host, .skim, .out, .veh, .mon, .cmd, .bridge, .recorder] s t0 := by
  intro pt h
  simp at h
  obtain rfl := Host.Outcome.next.inj e
  simp [h]

theorem execOpSnapshotRead_only (p : Packet) (s t0 : State) (e : execOpSnapshotRead p s = .next t0) : Only [.host, .out, .veh, .mon, .cmd, .bridge] s t0 := by
  intro pt h
  simp at h
  obtain rfl := Host.Outcome.next.inj e
  simp [h]

theorem execOpSnapshotLock_only (p : Packet) (s t0 : State) (e : execOpSnapshotLock p s = .next t0) : Only [.host, .skim, .out, .veh, .mon, .cmd, .bridge] s t0 := by
  intro pt h
  simp at h
  obtain rfl := Host.Outcome.next.inj e
  simp [h]

theorem execOpSnapshotUnlock_only (p : Packet) (s t0 : State) (e : execOpSnapshotUnlock p s = .next t0) : Only [.host, .skim, .out, .veh, .mon, .cmd, .bridge] s t0 := by
  intro pt h
  simp at h
  obtain rfl := Host.Outcome.next.inj e
  simp [h]

theorem execOpRouteRead_only (p : Packet) (s t0 : State) (e : execOpRouteRead p s = .next t0) : Only [.host, .out, .veh, .mon, .cmd, .bridge] s t0 := by
  intro pt h
  simp at h
  obtain rfl := Host.Outcome.next.inj e
  simp [h]

theorem execOpRouteEdit_only (p : Packet) (s t0 : State) (e : execOpRouteEdit p s = .next t0) : Only [.route, .host, .out, .veh, .mon, .cmd, .bridge] s t0 := by
  intro pt h
  simp only [List.mem_cons, List.not_mem_nil, or_false, not_or] at h
  unfold execOpRouteEdit at e
  injection e with e
  subst e
  (try dsimp only)
  (repeat' first | (simp [h]; done) | refine (serve_only _ _ _ _ _ (by simp [h]) (fun u => ?_)) | refine (deliver_only _ _ _ _ _ (by simp [h]) (fun u => ?_)) | refine (takeMessage_only _ _ _ _ _ (by simp [h]) (fun u => ?_)) | refine (sequenced_only _ _ _ _ (by simp [h]) (fun u => ?_)) | refine (trdpHeader_only _ _ _ _ (by simp [h]) (fun u => ?_)) | refine (takeCan_only _ _ _ _ _ (by simp [h]) (fun u => ?_)) | refine (inSplit_only _ _ _ _ (by simp [h]) (fun u x => ?_)) | refine (atComposing_only _ _ _ _ (by simp [h]) (fun u => ?_)) | refine (reassemble_only _ _ _ _ (by simp [h]) (fun u x => ?_)) | (apply foldl_part; intro u x) | split | dsimp only)

theorem execOpRouteStatus_only (p : Packet) (s t0 : State) (e : execOpRouteStatus p s = .next t0) : Only [.host, .out, .veh, .mon, .cmd, .bridge] s t0 := by
  intro pt h
  simp at h
  obtain rfl := Host.Outcome.next.inj e
  simp [h]

theorem execOpRouteTransferBegin_only (p : Packet) (s t0 : State) (e : execOpRouteTransferBegin p s = .next t0) : Only [.host, .img, .out, .veh, .mon, .cmd, .bridge] s t0 := by
  intro pt h
  simp at h
  obtain rfl := Host.Outcome.next.inj e
  simp [h]

theorem execOpRouteTransferChunk_only (p : Packet) (s t0 : State) (e : execOpRouteTransferChunk p s = .next t0) : Only [.host, .out, .veh, .mon, .cmd, .bridge] s t0 := by
  intro pt h
  simp at h
  obtain rfl := Host.Outcome.next.inj e
  simp [h]

theorem execOpRouteTransferFinish_only (p : Packet) (s t0 : State) (e : execOpRouteTransferFinish p s = .next t0) : Only [.cfg, .route, .safe, .time, .host, .img, .out, .veh, .cyc, .fld, .mon, .cmd, .bridge, .recorder] s t0 := by
  intro pt h
  simp at h
  obtain rfl := Host.Outcome.next.inj e
  simp [h]

theorem execOpRouteDiscardStaged_only (p : Packet) (s t0 : State) (e : execOpRouteDiscardStaged p s = .next t0) : Only [.route, .host, .out, .veh, .mon, .cmd, .bridge] s t0 := by
  intro pt h
  simp at h
  obtain rfl := Host.Outcome.next.inj e
  simp [h]

theorem execOpCycleStatus_only (p : Packet) (s t0 : State) (e : execOpCycleStatus p s = .next t0) : Only [.host, .out, .veh, .mon, .cmd, .bridge] s t0 := by
  intro pt h
  simp at h
  obtain rfl := Host.Outcome.next.inj e
  simp [h]

theorem execOpScheduleRead_only (p : Packet) (s t0 : State) (e : execOpScheduleRead p s = .next t0) : Only [.host, .out, .veh, .mon, .cmd, .bridge] s t0 := by
  intro pt h
  simp at h
  obtain rfl := Host.Outcome.next.inj e
  simp [h]

theorem execOpStep_only (p : Packet) (s t0 : State) (e : execOpStep p s = .next t0) : Only [.time, .host, .out, .veh, .mon, .cmd, .bridge] s t0 := by
  intro pt h
  simp at h
  obtain rfl := Host.Outcome.next.inj e
  simp [h]

theorem execOpEventRead_only (p : Packet) (s t0 : State) (e : execOpEventRead p s = .next t0) : Only [.host, .out, .veh, .mon, .cmd, .bridge] s t0 := by
  intro pt h
  simp at h
  obtain rfl := Host.Outcome.next.inj e
  simp [h]

theorem execOpScheduleEventTransferBegin_only (p : Packet) (s t0 : State) (e : execOpScheduleEventTransferBegin p s = .next t0) : Only [.host, .img, .out, .veh, .mon, .cmd, .bridge] s t0 := by
  intro pt h
  simp at h
  obtain rfl := Host.Outcome.next.inj e
  simp [h]

theorem execOpScheduleEventTransferChunk_only (p : Packet) (s t0 : State) (e : execOpScheduleEventTransferChunk p s = .next t0) : Only [.host, .out, .veh, .mon, .cmd, .bridge] s t0 := by
  intro pt h
  simp at h
  obtain rfl := Host.Outcome.next.inj e
  simp [h]

theorem execOpScheduleEventTransferFinish_only (p : Packet) (s t0 : State) (e : execOpScheduleEventTransferFinish p s = .next t0) : Only [.cfg, .route, .safe, .time, .host, .img, .out, .veh, .cyc, .fld, .mon, .cmd, .bridge, .recorder] s t0 := by
  intro pt h
  simp at h
  obtain rfl := Host.Outcome.next.inj e
  simp [h]

theorem execOpSetoutTable_only (p : Packet) (s t0 : State) (e : execOpSetoutTable p s = .next t0) : Only [.host, .out, .veh, .mon, .cmd, .bridge] s t0 := by
  intro pt h
  simp at h
  obtain rfl := Host.Outcome.next.inj e
  simp [h]

end Sys2Proof.Machine
end

