-- ==== Sys2Proof/Laws/Exec4.lean ====
section
/-! SUPPORT. What the meanings of the commands from `opSetoutStatus` to `monitorCharacterReceived` can write. -/

set_option Elab.async false
set_option linter.unusedSimpArgs false
set_option linter.unusedVariables false

namespace Sys2Proof.Machine

theorem execOpSetoutStatus_only (p : Packet) (s t0 : State) (e : execOpSetoutStatus p s = .next t0) : Only [.host, .out, .veh, .mon, .cmd, .bridge] s t0 := by
  intro pt h
  simp at h
  obtain rfl := Host.Outcome.next.inj e
  simp [h]

theorem execOpRenumber_only (p : Packet) (s t0 : State) (e : execOpRenumber p s = .next t0) : Only [.set, .host, .out, .veh, .cyc, .mon, .cmd, .bridge] s t0 := by
  intro pt h
  simp at h
  obtain rfl := Host.Outcome.next.inj e
  simp [h]

theorem execOpFarNumbering_only (p : Packet) (s t0 : State) (e : execOpFarNumbering p s = .next t0) : Only [.set, .host, .out, .veh, .mon, .cmd, .bridge, .recorder] s t0 := by
  intro pt h
  simp at h
  obtain rfl := Host.Outcome.next.inj e
  simp [h]

theorem execOpPowerStatus_only (p : Packet) (s t0 : State) (e : execOpPowerStatus p s = .next t0) : Only [.sleep, .host, .out, .veh, .mon, .cmd, .bridge] s t0 := by
  intro pt h
  simp at h
  obtain rfl := Host.Outcome.next.inj e
  simp [h]

theorem execOpStayAwake_only (p : Packet) (s t0 : State) (e : execOpStayAwake p s = .next t0) : Only [.sleep, .host, .out, .veh, .mon, .cmd, .bridge] s t0 := by
  intro pt h
  simp at h
  obtain rfl := Host.Outcome.next.inj e
  simp [h]

theorem execOpWakeAll_only (p : Packet) (s t0 : State) (e : execOpWakeAll p s = .next t0) : Only [.sleep, .host, .out, .veh, .mon, .cmd, .bridge] s t0 := by
  intro pt h
  simp at h
  obtain rfl := Host.Outcome.next.inj e
  simp [h]

theorem execOpAlarmRead_only (p : Packet) (s t0 : State) (e : execOpAlarmRead p s = .next t0) : Only [.host, .out, .veh, .mon, .cmd, .bridge] s t0 := by
  intro pt h
  simp at h
  obtain rfl := Host.Outcome.next.inj e
  simp [h]

theorem execOpAlarmWrite_only (p : Packet) (s t0 : State) (e : execOpAlarmWrite p s = .next t0) : Only [.sleep, .host, .out, .veh, .mon, .cmd, .bridge] s t0 := by
  intro pt h
  simp at h
  obtain rfl := Host.Outcome.next.inj e
  dsimp only
  (repeat' split) <;> simp [h]

theorem execOpHoldersRead_only (p : Packet) (s t0 : State) (e : execOpHoldersRead p s = .next t0) : Only [.host, .out, .veh, .mon, .cmd, .bridge] s t0 := by
  intro pt h
  simp at h
  obtain rfl := Host.Outcome.next.inj e
  simp [h]

theorem execOpHoldersClear_only (p : Packet) (s t0 : State) (e : execOpHoldersClear p s = .next t0) : Only [.sleep, .host, .out, .veh, .mon, .cmd, .bridge] s t0 := by
  intro pt h
  simp at h
  obtain rfl := Host.Outcome.next.inj e
  simp [h]

theorem execOpPairStatus_only (p : Packet) (s t0 : State) (e : execOpPairStatus p s = .next t0) : Only [.host, .out, .veh, .mon, .cmd, .bridge] s t0 := by
  intro pt h
  simp at h
  obtain rfl := Host.Outcome.next.inj e
  simp [h]

theorem execOpHandover_only (p : Packet) (s t0 : State) (e : execOpHandover p s = .next t0) : Only [.host, .out, .veh, .mon, .cmd, .pair, .bridge] s t0 := by
  intro pt h
  simp at h
  obtain rfl := Host.Outcome.next.inj e
  simp [h]

theorem execOpRoleGrant_only (p : Packet) (s t0 : State) (e : execOpRoleGrant p s = .next t0) : Only [.set, .safe, .host, .out, .veh, .mon, .cmd, .pair, .bridge, .recorder] s t0 := by
  intro pt h
  simp at h
  obtain rfl := Host.Outcome.next.inj e
  simp [h]

theorem execOpSafeStatusRead_only (p : Packet) (s t0 : State) (e : execOpSafeStatusRead p s = .next t0) : Only [.host, .out, .veh, .mon, .cmd, .bridge] s t0 := by
  intro pt h
  simp at h
  obtain rfl := Host.Outcome.next.inj e
  simp [h]

theorem execOpMismatchLog_only (p : Packet) (s t0 : State) (e : execOpMismatchLog p s = .next t0) : Only [.host, .out, .veh, .mon, .cmd, .bridge] s t0 := by
  intro pt h
  simp at h
  obtain rfl := Host.Outcome.next.inj e
  simp [h]

theorem execOpComplexReset_only (p : Packet) (s t0 : State) (e : execOpComplexReset p s = .next t0) : Only [.safe, .host, .skim, .out, .veh, .mon, .cmd, .bridge] s t0 := by
  intro pt h
  simp only [List.mem_cons, List.not_mem_nil, or_false, not_or] at h
  unfold execOpComplexReset at e
  injection e with e
  subst e
  (try dsimp only)
  (repeat' first | (simp [h]; done) | refine (serve_only _ _ _ _ _ (by simp [h]) (fun u => ?_)) | refine (deliver_only _ _ _ _ _ (by simp [h]) (fun u => ?_)) | refine (takeMessage_only _ _ _ _ _ (by simp [h]) (fun u => ?_)) | refine (sequenced_only _ _ _ _ (by simp [h]) (fun u => ?_)) | refine (trdpHeader_only _ _ _ _ (by simp [h]) (fun u => ?_)) | refine (takeCan_only _ _ _ _ _ (by simp [h]) (fun u => ?_)) | refine (inSplit_only _ _ _ _ (by simp [h]) (fun u x => ?_)) | refine (atComposing_only _ _ _ _ (by simp [h]) (fun u => ?_)) | refine (reassemble_only _ _ _ _ (by simp [h]) (fun u x => ?_)) | (apply foldl_part; intro u x) | split | dsimp only)

theorem execOpOutputFaultClear_only (p : Packet) (s t0 : State) (e : execOpOutputFaultClear p s = .next t0) : Only [.safe, .host, .out, .veh, .mon, .cmd, .bridge] s t0 := by
  intro pt h
  simp at h
  obtain rfl := Host.Outcome.next.inj e
  simp [h]

theorem execOpEquationStatus_only (p : Packet) (s t0 : State) (e : execOpEquationStatus p s = .next t0) : Only [.host, .out, .veh, .mon, .cmd, .bridge] s t0 := by
  intro pt h
  simp at h
  obtain rfl := Host.Outcome.next.inj e
  simp [h]

theorem execOpEquationTransferBegin_only (p : Packet) (s t0 : State) (e : execOpEquationTransferBegin p s = .next t0) : Only [.host, .img, .out, .veh, .mon, .cmd, .bridge] s t0 := by
  intro pt h
  simp at h
  obtain rfl := Host.Outcome.next.inj e
  simp [h]

theorem execOpEquationTransferChunk_only (p : Packet) (s t0 : State) (e : execOpEquationTransferChunk p s = .next t0) : Only [.host, .out, .veh, .mon, .cmd, .bridge] s t0 := by
  intro pt h
  simp at h
  obtain rfl := Host.Outcome.next.inj e
  simp [h]

theorem execOpEquationTransferFinish_only (p : Packet) (s t0 : State) (e : execOpEquationTransferFinish p s = .next t0) : Only [.cfg, .route, .safe, .time, .host, .img, .out, .veh, .cyc, .fld, .mon, .cmd, .bridge, .recorder] s t0 := by
  intro pt h
  simp at h
  obtain rfl := Host.Outcome.next.inj e
  simp [h]

theorem execOpRecorderRead_only (p : Packet) (s t0 : State) (e : execOpRecorderRead p s = .next t0) : Only [.host, .out, .veh, .mon, .cmd, .bridge] s t0 := by
  intro pt h
  simp at h
  obtain rfl := Host.Outcome.next.inj e
  simp [h]

theorem execOpRecorderStats_only (p : Packet) (s t0 : State) (e : execOpRecorderStats p s = .next t0) : Only [.host, .out, .veh, .mon, .cmd, .bridge] s t0 := by
  intro pt h
  simp at h
  obtain rfl := Host.Outcome.next.inj e
  simp [h]

theorem execOpRecorderStatus_only (p : Packet) (s t0 : State) (e : execOpRecorderStatus p s = .next t0) : Only [.host, .out, .veh, .mon, .cmd, .bridge] s t0 := by
  intro pt h
  simp at h
  obtain rfl := Host.Outcome.next.inj e
  simp [h]

theorem execOpImageStatus_only (p : Packet) (s t0 : State) (e : execOpImageStatus p s = .next t0) : Only [.host, .out, .veh, .mon, .cmd, .bridge] s t0 := by
  intro pt h
  simp at h
  obtain rfl := Host.Outcome.next.inj e
  simp [h]

theorem execOpImageTransferBegin_only (p : Packet) (s t0 : State) (e : execOpImageTransferBegin p s = .next t0) : Only [.host, .img, .out, .veh, .mon, .cmd, .bridge] s t0 := by
  intro pt h
  simp at h
  obtain rfl := Host.Outcome.next.inj e
  simp [h]

theorem execOpImageTransferChunk_only (p : Packet) (s t0 : State) (e : execOpImageTransferChunk p s = .next t0) : Only [.host, .out, .veh, .mon, .cmd, .bridge] s t0 := by
  intro pt h
  simp at h
  obtain rfl := Host.Outcome.next.inj e
  simp [h]

theorem execOpImageTransferFinish_only (p : Packet) (s t0 : State) (e : execOpImageTransferFinish p s = .next t0) : Only [.cfg, .route, .safe, .time, .host, .img, .out, .veh, .cyc, .fld, .mon, .cmd, .bridge, .recorder] s t0 := by
  intro pt h
  simp at h
  obtain rfl := Host.Outcome.next.inj e
  simp [h]

theorem execOpImageActivate_only (p : Packet) (s t0 : State) (e : execOpImageActivate p s = .next t0) : Only [.host, .img, .out, .veh, .mon, .cmd, .bridge] s t0 := by
  intro pt h
  simp at h
  obtain rfl := Host.Outcome.next.inj e
  simp [h]

theorem execOpImageRollback_only (p : Packet) (s t0 : State) (e : execOpImageRollback p s = .next t0) : Only [.host, .img, .out, .veh, .mon, .cmd, .bridge] s t0 := by
  intro pt h
  simp at h
  obtain rfl := Host.Outcome.next.inj e
  simp [h]

theorem execOpKeyEnrol_only (p : Packet) (s t0 : State) (e : execOpKeyEnrol p s = .next t0) : Only [.host, .img, .out, .veh, .mon, .cmd, .bridge, .recorder] s t0 := by
  intro pt h
  simp only [List.mem_cons, List.not_mem_nil, or_false, not_or] at h
  unfold execOpKeyEnrol at e
  injection e with e
  subst e
  (try dsimp only)
  (repeat' first | (simp [h]; done) | refine (serve_only _ _ _ _ _ (by simp [h]) (fun u => ?_)) | refine (deliver_only _ _ _ _ _ (by simp [h]) (fun u => ?_)) | refine (takeMessage_only _ _ _ _ _ (by simp [h]) (fun u => ?_)) | refine (sequenced_only _ _ _ _ (by simp [h]) (fun u => ?_)) | refine (trdpHeader_only _ _ _ _ (by simp [h]) (fun u => ?_)) | refine (takeCan_only _ _ _ _ _ (by simp [h]) (fun u => ?_)) | refine (inSplit_only _ _ _ _ (by simp [h]) (fun u x => ?_)) | refine (atComposing_only _ _ _ _ (by simp [h]) (fun u => ?_)) | refine (reassemble_only _ _ _ _ (by simp [h]) (fun u x => ?_)) | (apply foldl_part; intro u x) | split | dsimp only)

theorem execOpVportStatus_only (p : Packet) (s t0 : State) (e : execOpVportStatus p s = .next t0) : Only [.host, .out, .veh, .mon, .cmd, .bridge] s t0 := by
  intro pt h
  simp at h
  obtain rfl := Host.Outcome.next.inj e
  split <;> simp [h]

theorem execOpChannelRead_only (p : Packet) (s t0 : State) (e : execOpChannelRead p s = .next t0) : Only [.host, .out, .veh, .mon, .cmd, .bridge] s t0 := by
  intro pt h
  simp at h
  obtain rfl := Host.Outcome.next.inj e
  simp [h]

theorem execOpChannelWrite_only (p : Packet) (s t0 : State) (e : execOpChannelWrite p s = .next t0) : Only [.host, .out, .veh, .fld, .mon, .cmd, .bridge, .recorder, .freeCount, .route] s t0 := by
  intro pt h
  simp at h
  obtain rfl := Host.Outcome.next.inj e
  simp [h]

theorem execOpProfileGateTransferBegin_only (p : Packet) (s t0 : State) (e : execOpProfileGateTransferBegin p s = .next t0) : Only [.host, .img, .out, .veh, .mon, .cmd, .bridge] s t0 := by
  intro pt h
  simp at h
  obtain rfl := Host.Outcome.next.inj e
  simp [h]

theorem execOpProfileGateTransferChunk_only (p : Packet) (s t0 : State) (e : execOpProfileGateTransferChunk p s = .next t0) : Only [.host, .out, .veh, .mon, .cmd, .bridge] s t0 := by
  intro pt h
  simp at h
  obtain rfl := Host.Outcome.next.inj e
  simp [h]

theorem execOpProfileGateTransferFinish_only (p : Packet) (s t0 : State) (e : execOpProfileGateTransferFinish p s = .next t0) : Only [.cfg, .route, .safe, .time, .host, .img, .out, .veh, .cyc, .fld, .mon, .cmd, .bridge, .recorder] s t0 := by
  intro pt h
  simp at h
  obtain rfl := Host.Outcome.next.inj e
  simp [h]

theorem execOpFieldStatus_only (p : Packet) (s t0 : State) (e : execOpFieldStatus p s = .next t0) : Only [.host, .out, .veh, .fld, .mon, .cmd, .bridge, .freeCount] s t0 := by
  intro pt h
  simp at h
  obtain rfl := Host.Outcome.next.inj e
  split <;> simp [h]

theorem execOpCanopenNodes_only (p : Packet) (s t0 : State) (e : execOpCanopenNodes p s = .next t0) : Only [.host, .out, .veh, .mon, .cmd, .bridge] s t0 := by
  intro pt h
  simp at h
  obtain rfl := Host.Outcome.next.inj e
  split <;> simp [h]

theorem execOpSerialProgramTransferBegin_only (p : Packet) (s t0 : State) (e : execOpSerialProgramTransferBegin p s = .next t0) : Only [.host, .img, .out, .veh, .mon, .cmd, .bridge] s t0 := by
  intro pt h
  simp at h
  obtain rfl := Host.Outcome.next.inj e
  simp [h]

theorem execOpSerialProgramTransferChunk_only (p : Packet) (s t0 : State) (e : execOpSerialProgramTransferChunk p s = .next t0) : Only [.host, .out, .veh, .mon, .cmd, .bridge] s t0 := by
  intro pt h
  simp at h
  obtain rfl := Host.Outcome.next.inj e
  simp [h]

theorem execOpSerialProgramTransferFinish_only (p : Packet) (s t0 : State) (e : execOpSerialProgramTransferFinish p s = .next t0) : Only [.cfg, .route, .safe, .time, .host, .img, .out, .veh, .cyc, .fld, .mon, .cmd, .bridge, .recorder] s t0 := by
  intro pt h
  simp at h
  obtain rfl := Host.Outcome.next.inj e
  simp [h]

theorem execOpPostedWrite_only (p : Packet) (s t0 : State) (e : execOpPostedWrite p s = .next t0) : Only [.freeCount, .host, .out, .veh, .fld, .mon, .cmd, .bridge, .recorder, .route] s t0 := by
  intro pt h
  simp only [List.mem_cons, List.not_mem_nil, or_false, not_or] at h
  unfold execOpPostedWrite at e
  injection e with e
  subst e
  (try dsimp only)
  (repeat' first | (simp [h]; done) | refine (serve_only _ _ _ _ _ (by simp [h]) (fun u => ?_)) | refine (deliver_only _ _ _ _ _ (by simp [h]) (fun u => ?_)) | refine (takeMessage_only _ _ _ _ _ (by simp [h]) (fun u => ?_)) | refine (sequenced_only _ _ _ _ (by simp [h]) (fun u => ?_)) | refine (trdpHeader_only _ _ _ _ (by simp [h]) (fun u => ?_)) | refine (takeCan_only _ _ _ _ _ (by simp [h]) (fun u => ?_)) | refine (inSplit_only _ _ _ _ (by simp [h]) (fun u x => ?_)) | refine (atComposing_only _ _ _ _ (by simp [h]) (fun u => ?_)) | refine (reassemble_only _ _ _ _ (by simp [h]) (fun u x => ?_)) | (apply foldl_part; intro u x) | split | dsimp only)

theorem execOpRead_only (p : Packet) (s t0 : State) (e : execOpRead p s = .next t0) : Only [.freeCount, .host, .out, .veh, .fld, .mon, .cmd, .bridge, .recorder, .route] s t0 := by
  intro pt h
  simp only [List.mem_cons, List.not_mem_nil, or_false, not_or] at h
  unfold execOpRead at e
  injection e with e
  subst e
  (try dsimp only)
  (repeat' first | (simp [h]; done) | refine (serve_only _ _ _ _ _ (by simp [h]) (fun u => ?_)) | refine (deliver_only _ _ _ _ _ (by simp [h]) (fun u => ?_)) | refine (takeMessage_only _ _ _ _ _ (by simp [h]) (fun u => ?_)) | refine (sequenced_only _ _ _ _ (by simp [h]) (fun u => ?_)) | refine (trdpHeader_only _ _ _ _ (by simp [h]) (fun u => ?_)) | refine (takeCan_only _ _ _ _ _ (by simp [h]) (fun u => ?_)) | refine (inSplit_only _ _ _ _ (by simp [h]) (fun u x => ?_)) | refine (atComposing_only _ _ _ _ (by simp [h]) (fun u => ?_)) | refine (reassemble_only _ _ _ _ (by simp [h]) (fun u x => ?_)) | (apply foldl_part; intro u x) | split | dsimp only)

theorem execOpRetry_only (p : Packet) (s t0 : State) (e : execOpRetry p s = .next t0) : Only [.freeCount, .host, .out, .veh, .mon, .cmd, .bridge] s t0 := by
  intro pt h
  simp only [List.mem_cons, List.not_mem_nil, or_false, not_or] at h
  unfold execOpRetry at e
  injection e with e
  subst e
  (try dsimp only)
  (repeat' first | (simp [h]; done) | refine (serve_only _ _ _ _ _ (by simp [h]) (fun u => ?_)) | refine (deliver_only _ _ _ _ _ (by simp [h]) (fun u => ?_)) | refine (takeMessage_only _ _ _ _ _ (by simp [h]) (fun u => ?_)) | refine (sequenced_only _ _ _ _ (by simp [h]) (fun u => ?_)) | refine (trdpHeader_only _ _ _ _ (by simp [h]) (fun u => ?_)) | refine (takeCan_only _ _ _ _ _ (by simp [h]) (fun u => ?_)) | refine (inSplit_only _ _ _ _ (by simp [h]) (fun u x => ?_)) | refine (atComposing_only _ _ _ _ (by simp [h]) (fun u => ?_)) | refine (reassemble_only _ _ _ _ (by simp [h]) (fun u x => ?_)) | (apply foldl_part; intro u x) | split | dsimp only)

theorem execOpLockedSequence_only (p : Packet) (s t0 : State) (e : execOpLockedSequence p s = .next t0) : Only [.freeCount, .host, .out, .veh, .mon, .cmd, .bridge] s t0 := by
  intro pt h
  simp only [List.mem_cons, List.not_mem_nil, or_false, not_or] at h
  unfold execOpLockedSequence at e
  injection e with e
  subst e
  (try dsimp only)
  (repeat' first | (simp [h]; done) | refine (serve_only _ _ _ _ _ (by simp [h]) (fun u => ?_)) | refine (deliver_only _ _ _ _ _ (by simp [h]) (fun u => ?_)) | refine (takeMessage_only _ _ _ _ _ (by simp [h]) (fun u => ?_)) | refine (sequenced_only _ _ _ _ (by simp [h]) (fun u => ?_)) | refine (trdpHeader_only _ _ _ _ (by simp [h]) (fun u => ?_)) | refine (takeCan_only _ _ _ _ _ (by simp [h]) (fun u => ?_)) | refine (inSplit_only _ _ _ _ (by simp [h]) (fun u x => ?_)) | refine (atComposing_only _ _ _ _ (by simp [h]) (fun u => ?_)) | refine (reassemble_only _ _ _ _ (by simp [h]) (fun u x => ?_)) | (apply foldl_part; intro u x) | split | dsimp only)

theorem execOpSemaphore_only (p : Packet) (s t0 : State) (e : execOpSemaphore p s = .next t0) : Only [.freeCount, .host, .out, .veh, .fld, .mon, .cmd, .bridge, .recorder, .route] s t0 := by
  intro pt h
  simp only [List.mem_cons, List.not_mem_nil, or_false, not_or] at h
  unfold execOpSemaphore at e
  injection e with e
  subst e
  (try dsimp only)
  (repeat' first | (simp [h]; done) | refine (serve_only _ _ _ _ _ (by simp [h]) (fun u => ?_)) | refine (deliver_only _ _ _ _ _ (by simp [h]) (fun u => ?_)) | refine (takeMessage_only _ _ _ _ _ (by simp [h]) (fun u => ?_)) | refine (sequenced_only _ _ _ _ (by simp [h]) (fun u => ?_)) | refine (trdpHeader_only _ _ _ _ (by simp [h]) (fun u => ?_)) | refine (takeCan_only _ _ _ _ _ (by simp [h]) (fun u => ?_)) | refine (inSplit_only _ _ _ _ (by simp [h]) (fun u x => ?_)) | refine (atComposing_only _ _ _ _ (by simp [h]) (fun u => ?_)) | refine (reassemble_only _ _ _ _ (by simp [h]) (fun u x => ?_)) | (apply foldl_part; intro u x) | split | dsimp only)

theorem execOpEndpointOpen_only (p : Packet) (s t0 : State) (e : execOpEndpointOpen p s = .next t0) : Only [.host, .out, .veh, .mon, .cmd, .bridge] s t0 := by
  intro pt h
  simp only [List.mem_cons, List.not_mem_nil, or_false, not_or] at h
  unfold execOpEndpointOpen at e
  injection e with e
  subst e
  (try dsimp only)
  (repeat' first | (simp [h]; done) | refine (serve_only _ _ _ _ _ (by simp [h]) (fun u => ?_)) | refine (deliver_only _ _ _ _ _ (by simp [h]) (fun u => ?_)) | refine (takeMessage_only _ _ _ _ _ (by simp [h]) (fun u => ?_)) | refine (sequenced_only _ _ _ _ (by simp [h]) (fun u => ?_)) | refine (trdpHeader_only _ _ _ _ (by simp [h]) (fun u => ?_)) | refine (takeCan_only _ _ _ _ _ (by simp [h]) (fun u => ?_)) | refine (inSplit_only _ _ _ _ (by simp [h]) (fun u x => ?_)) | refine (atComposing_only _ _ _ _ (by simp [h]) (fun u => ?_)) | refine (reassemble_only _ _ _ _ (by simp [h]) (fun u x => ?_)) | (apply foldl_part; intro u x) | split | dsimp only)

theorem execOpEndpointClose_only (p : Packet) (s t0 : State) (e : execOpEndpointClose p s = .next t0) : Only [.host, .out, .veh, .mon, .cmd, .bridge] s t0 := by
  intro pt h
  simp at h
  obtain rfl := Host.Outcome.next.inj e
  simp [h]

theorem execOpErrorLog_only (p : Packet) (s t0 : State) (e : execOpErrorLog p s = .next t0) : Only [.freeCount, .host, .out, .veh, .mon, .cmd, .bridge] s t0 := by
  intro pt h
  simp only [List.mem_cons, List.not_mem_nil, or_false, not_or] at h
  unfold execOpErrorLog at e
  injection e with e
  subst e
  (try dsimp only)
  (repeat' first | (simp [h]; done) | refine (serve_only _ _ _ _ _ (by simp [h]) (fun u => ?_)) | refine (deliver_only _ _ _ _ _ (by simp [h]) (fun u => ?_)) | refine (takeMessage_only _ _ _ _ _ (by simp [h]) (fun u => ?_)) | refine (sequenced_only _ _ _ _ (by simp [h]) (fun u => ?_)) | refine (trdpHeader_only _ _ _ _ (by simp [h]) (fun u => ?_)) | refine (takeCan_only _ _ _ _ _ (by simp [h]) (fun u => ?_)) | refine (inSplit_only _ _ _ _ (by simp [h]) (fun u x => ?_)) | refine (atComposing_only _ _ _ _ (by simp [h]) (fun u => ?_)) | refine (reassemble_only _ _ _ _ (by simp [h]) (fun u x => ?_)) | (apply foldl_part; intro u x) | split | dsimp only)

theorem execOpRemoteCommand_only (p : Packet) (s t0 : State) (e : execOpRemoteCommand p s = .next t0) : Only [.freeCount, .host, .out, .veh, .mon, .cmd, .bridge] s t0 := by
  intro pt h
  simp only [List.mem_cons, List.not_mem_nil, or_false, not_or] at h
  unfold execOpRemoteCommand at e
  injection e with e
  subst e
  (try dsimp only)
  (repeat' first | (simp [h]; done) | refine (serve_only _ _ _ _ _ (by simp [h]) (fun u => ?_)) | refine (deliver_only _ _ _ _ _ (by simp [h]) (fun u => ?_)) | refine (takeMessage_only _ _ _ _ _ (by simp [h]) (fun u => ?_)) | refine (sequenced_only _ _ _ _ (by simp [h]) (fun u => ?_)) | refine (trdpHeader_only _ _ _ _ (by simp [h]) (fun u => ?_)) | refine (takeCan_only _ _ _ _ _ (by simp [h]) (fun u => ?_)) | refine (inSplit_only _ _ _ _ (by simp [h]) (fun u x => ?_)) | refine (atComposing_only _ _ _ _ (by simp [h]) (fun u => ?_)) | refine (reassemble_only _ _ _ _ (by simp [h]) (fun u x => ?_)) | (apply foldl_part; intro u x) | split | dsimp only)

theorem execOpRegisterRead_only (p : Packet) (s t0 : State) (e : execOpRegisterRead p s = .next t0) : Only [.sleep, .host, .out, .veh, .fld, .mon, .cmd, .bridge, .freeCount] s t0 := by
  intro pt h
  simp at h
  obtain rfl := Host.Outcome.next.inj e
  simp [h]

theorem execOpRegisterWrite_only (p : Packet) (s t0 : State) (e : execOpRegisterWrite p s = .next t0) : Only [.sleep, .safe, .host, .line, .out, .veh, .fld, .mon, .cmd, .pair, .bridge] s t0 := by
  intro pt h
  simp at h
  obtain rfl := Host.Outcome.next.inj e
  dsimp only
  (repeat' split) <;> simp [h]

theorem execOpCx320Counters_only (p : Packet) (s t0 : State) (e : execOpCx320Counters p s = .next t0) : Only [.host, .line, .out, .veh, .fld, .mon, .cmd, .pair, .bridge] s t0 := by
  intro pt h
  simp only [List.mem_cons, List.not_mem_nil, or_false, not_or] at h
  unfold execOpCx320Counters at e
  injection e with e
  subst e
  (try dsimp only)
  (repeat' first | (simp [h]; done) | refine (serve_only _ _ _ _ _ (by simp [h]) (fun u => ?_)) | refine (deliver_only _ _ _ _ _ (by simp [h]) (fun u => ?_)) | refine (takeMessage_only _ _ _ _ _ (by simp [h]) (fun u => ?_)) | refine (sequenced_only _ _ _ _ (by simp [h]) (fun u => ?_)) | refine (trdpHeader_only _ _ _ _ (by simp [h]) (fun u => ?_)) | refine (takeCan_only _ _ _ _ _ (by simp [h]) (fun u => ?_)) | refine (inSplit_only _ _ _ _ (by simp [h]) (fun u x => ?_)) | refine (atComposing_only _ _ _ _ (by simp [h]) (fun u => ?_)) | refine (reassemble_only _ _ _ _ (by simp [h]) (fun u x => ?_)) | (apply foldl_part; intro u x) | split | dsimp only)

theorem execOpSplitEnter_only (p : Packet) (s t0 : State) (e : execOpSplitEnter p s = .next t0) : Only [.safe, .freeCount, .host, .skim, .out, .veh, .mon, .cmd, .bridge] s t0 := by
  intro pt h
  simp at h
  obtain rfl := Host.Outcome.next.inj e
  simp [h]

theorem execOpSplitLeave_only (p : Packet) (s t0 : State) (e : execOpSplitLeave p s = .next t0) : Only [.safe, .host, .skim, .out, .veh, .mon, .cmd, .bridge] s t0 := by
  intro pt h
  simp only [List.mem_cons, List.not_mem_nil, or_false, not_or] at h
  unfold execOpSplitLeave at e
  injection e with e
  subst e
  (try dsimp only)
  (repeat' first | (simp [h]; done) | refine (serve_only _ _ _ _ _ (by simp [h]) (fun u => ?_)) | refine (deliver_only _ _ _ _ _ (by simp [h]) (fun u => ?_)) | refine (takeMessage_only _ _ _ _ _ (by simp [h]) (fun u => ?_)) | refine (sequenced_only _ _ _ _ (by simp [h]) (fun u => ?_)) | refine (trdpHeader_only _ _ _ _ (by simp [h]) (fun u => ?_)) | refine (takeCan_only _ _ _ _ _ (by simp [h]) (fun u => ?_)) | refine (inSplit_only _ _ _ _ (by simp [h]) (fun u x => ?_)) | refine (atComposing_only _ _ _ _ (by simp [h]) (fun u => ?_)) | refine (reassemble_only _ _ _ _ (by simp [h]) (fun u x => ?_)) | (apply foldl_part; intro u x) | split | dsimp only)

theorem execOpCoreHalt_only (p : Packet) (s t0 : State) (e : execOpCoreHalt p s = .next t0) : Only [.safe, .freeCount, .host, .out, .veh, .mon, .cmd, .bridge] s t0 := by
  intro pt h
  simp only [List.mem_cons, List.not_mem_nil, or_false, not_or] at h
  unfold execOpCoreHalt at e
  injection e with e
  subst e
  (try dsimp only)
  (repeat' first | (simp [h]; done) | refine (serve_only _ _ _ _ _ (by simp [h]) (fun u => ?_)) | refine (deliver_only _ _ _ _ _ (by simp [h]) (fun u => ?_)) | refine (takeMessage_only _ _ _ _ _ (by simp [h]) (fun u => ?_)) | refine (sequenced_only _ _ _ _ (by simp [h]) (fun u => ?_)) | refine (trdpHeader_only _ _ _ _ (by simp [h]) (fun u => ?_)) | refine (takeCan_only _ _ _ _ _ (by simp [h]) (fun u => ?_)) | refine (inSplit_only _ _ _ _ (by simp [h]) (fun u x => ?_)) | refine (atComposing_only _ _ _ _ (by simp [h]) (fun u => ?_)) | refine (reassemble_only _ _ _ _ (by simp [h]) (fun u x => ?_)) | (apply foldl_part; intro u x) | split | dsimp only)

theorem execOpCoreStep_only (p : Packet) (s t0 : State) (e : execOpCoreStep p s = .next t0) : Only [.safe, .freeCount, .host, .out, .veh, .mon, .cmd, .bridge] s t0 := by
  intro pt h
  simp only [List.mem_cons, List.not_mem_nil, or_false, not_or] at h
  unfold execOpCoreStep at e
  injection e with e
  subst e
  (try dsimp only)
  (repeat' first | (simp [h]; done) | refine (serve_only _ _ _ _ _ (by simp [h]) (fun u => ?_)) | refine (deliver_only _ _ _ _ _ (by simp [h]) (fun u => ?_)) | refine (takeMessage_only _ _ _ _ _ (by simp [h]) (fun u => ?_)) | refine (sequenced_only _ _ _ _ (by simp [h]) (fun u => ?_)) | refine (trdpHeader_only _ _ _ _ (by simp [h]) (fun u => ?_)) | refine (takeCan_only _ _ _ _ _ (by simp [h]) (fun u => ?_)) | refine (inSplit_only _ _ _ _ (by simp [h]) (fun u x => ?_)) | refine (atComposing_only _ _ _ _ (by simp [h]) (fun u => ?_)) | refine (reassemble_only _ _ _ _ (by simp [h]) (fun u x => ?_)) | (apply foldl_part; intro u x) | split | dsimp only)

theorem execOpCoreRun_only (p : Packet) (s t0 : State) (e : execOpCoreRun p s = .next t0) : Only [.safe, .freeCount, .host, .out, .veh, .mon, .cmd, .bridge] s t0 := by
  intro pt h
  simp only [List.mem_cons, List.not_mem_nil, or_false, not_or] at h
  unfold execOpCoreRun at e
  injection e with e
  subst e
  (try dsimp only)
  (repeat' first | (simp [h]; done) | refine (serve_only _ _ _ _ _ (by simp [h]) (fun u => ?_)) | refine (deliver_only _ _ _ _ _ (by simp [h]) (fun u => ?_)) | refine (takeMessage_only _ _ _ _ _ (by simp [h]) (fun u => ?_)) | refine (sequenced_only _ _ _ _ (by simp [h]) (fun u => ?_)) | refine (trdpHeader_only _ _ _ _ (by simp [h]) (fun u => ?_)) | refine (takeCan_only _ _ _ _ _ (by simp [h]) (fun u => ?_)) | refine (inSplit_only _ _ _ _ (by simp [h]) (fun u x => ?_)) | refine (atComposing_only _ _ _ _ (by simp [h]) (fun u => ?_)) | refine (reassemble_only _ _ _ _ (by simp [h]) (fun u x => ?_)) | (apply foldl_part; intro u x) | split | dsimp only)

theorem execOpCoreRead_only (p : Packet) (s t0 : State) (e : execOpCoreRead p s = .next t0) : Only [.safe, .freeCount, .host, .out, .veh, .mon, .cmd, .bridge] s t0 := by
  intro pt h
  simp only [List.mem_cons, List.not_mem_nil, or_false, not_or] at h
  unfold execOpCoreRead at e
  injection e with e
  subst e
  (try dsimp only)
  (repeat' first | (simp [h]; done) | refine (serve_only _ _ _ _ _ (by simp [h]) (fun u => ?_)) | refine (deliver_only _ _ _ _ _ (by simp [h]) (fun u => ?_)) | refine (takeMessage_only _ _ _ _ _ (by simp [h]) (fun u => ?_)) | refine (sequenced_only _ _ _ _ (by simp [h]) (fun u => ?_)) | refine (trdpHeader_only _ _ _ _ (by simp [h]) (fun u => ?_)) | refine (takeCan_only _ _ _ _ _ (by simp [h]) (fun u => ?_)) | refine (inSplit_only _ _ _ _ (by simp [h]) (fun u x => ?_)) | refine (atComposing_only _ _ _ _ (by simp [h]) (fun u => ?_)) | refine (reassemble_only _ _ _ _ (by simp [h]) (fun u x => ?_)) | (apply foldl_part; intro u x) | split | dsimp only)

theorem execOpCoreWrite_only (p : Packet) (s t0 : State) (e : execOpCoreWrite p s = .next t0) : Only [.safe, .freeCount, .host, .out, .veh, .mon, .cmd, .bridge] s t0 := by
  intro pt h
  simp only [List.mem_cons, List.not_mem_nil, or_false, not_or] at h
  unfold execOpCoreWrite at e
  injection e with e
  subst e
  (try dsimp only)
  (repeat' first | (simp [h]; done) | refine (serve_only _ _ _ _ _ (by simp [h]) (fun u => ?_)) | refine (deliver_only _ _ _ _ _ (by simp [h]) (fun u => ?_)) | refine (takeMessage_only _ _ _ _ _ (by simp [h]) (fun u => ?_)) | refine (sequenced_only _ _ _ _ (by simp [h]) (fun u => ?_)) | refine (trdpHeader_only _ _ _ _ (by simp [h]) (fun u => ?_)) | refine (takeCan_only _ _ _ _ _ (by simp [h]) (fun u => ?_)) | refine (inSplit_only _ _ _ _ (by simp [h]) (fun u x => ?_)) | refine (atComposing_only _ _ _ _ (by simp [h]) (fun u => ?_)) | refine (reassemble_only _ _ _ _ (by simp [h]) (fun u x => ?_)) | (apply foldl_part; intro u x) | split | dsimp only)

theorem execOpReplay_only (p : Packet) (s t0 : State) (e : execOpReplay p s = .next t0) : Only [.host, .out, .veh, .mon, .cmd, .bridge] s t0 := by
  intro pt h
  simp only [List.mem_cons, List.not_mem_nil, or_false, not_or] at h
  unfold execOpReplay at e
  injection e with e
  subst e
  (try dsimp only)
  (repeat' first | (simp [h]; done) | refine (serve_only _ _ _ _ _ (by simp [h]) (fun u => ?_)) | refine (deliver_only _ _ _ _ _ (by simp [h]) (fun u => ?_)) | refine (takeMessage_only _ _ _ _ _ (by simp [h]) (fun u => ?_)) | refine (sequenced_only _ _ _ _ (by simp [h]) (fun u => ?_)) | refine (trdpHeader_only _ _ _ _ (by simp [h]) (fun u => ?_)) | refine (takeCan_only _ _ _ _ _ (by simp [h]) (fun u => ?_)) | refine (inSplit_only _ _ _ _ (by simp [h]) (fun u x => ?_)) | refine (atComposing_only _ _ _ _ (by simp [h]) (fun u => ?_)) | refine (reassemble_only _ _ _ _ (by simp [h]) (fun u x => ?_)) | (apply foldl_part; intro u x) | split | dsimp only)

theorem execCmdCtrlWrite_only (w : Word32) (s t0 : State) (e : execCmdCtrlWrite w s = .next t0) : Only [.host, .out, .veh, .mon, .cmd, .bridge] s t0 := by
  intro pt h
  simp at h
  obtain rfl := Host.Outcome.next.inj e
  simp [h]

theorem execReplyCtrlWrite_only (w : Word32) (s t0 : State) (e : execReplyCtrlWrite w s = .next t0) : Only [.host, .out, .veh, .mon, .cmd, .bridge] s t0 := by
  intro pt h
  simp at h
  obtain rfl := Host.Outcome.next.inj e
  simp [h]

theorem execIntStatusWrite_only (w : Word32) (s t0 : State) (e : execIntStatusWrite w s = .next t0) : Only [.host] s t0 := by
  intro pt h
  simp at h
  obtain rfl := Host.Outcome.next.inj e
  simp [h]

theorem execIntMaskWrite_only (w : Word32) (s t0 : State) (e : execIntMaskWrite w s = .next t0) : Only [.host] s t0 := by
  intro pt h
  simp at h
  obtain rfl := Host.Outcome.next.inj e
  simp [h]

theorem execTrainTimeHiRead_only  (s t0 : State) (e : execTrainTimeHiRead  s = .next t0) : Only [.sleep, .host, .out, .veh, .fld, .freeCount] s t0 := by
  intro pt h
  simp at h
  obtain rfl := Host.Outcome.next.inj e
  simp [h]

theorem execRcFieldRead_only (address : Nat) (s t0 : State) (e : execRcFieldRead address s = .next t0) : Only [.sleep, .host, .out, .veh, .fld, .freeCount] s t0 := by
  intro pt h
  simp at h
  obtain rfl := Host.Outcome.next.inj e
  simp [h]

theorem execW1cBitWrite_only (address : Nat) (w : Word32) (s t0 : State) (e : execW1cBitWrite address w s = .next t0) : Only [.sleep, .safe, .host, .line, .out, .veh, .fld, .mon, .cmd, .pair, .bridge] s t0 := by
  intro pt h
  simp at h
  obtain rfl := Host.Outcome.next.inj e
  simp [h]

theorem execHostRingReadIndexWrite_only (w : Word32) (s t0 : State) (e : execHostRingReadIndexWrite w s = .next t0) : Only [.veh] s t0 := by
  intro pt h
  simp at h
  obtain rfl := Host.Outcome.next.inj e
  simp [h]

theorem execHostRegisterWrite_only (command : Word32) (words : List Word32) (partialWord : Bool) (s t0 : State) (e : execHostRegisterWrite command words partialWord s = .next t0) : Only [.sleep, .safe, .host, .line, .out, .veh, .fld, .mon, .cmd, .pair, .bridge, .freeCount] s t0 := by
  intro pt h
  simp at h
  obtain rfl := Host.Outcome.next.inj e
  simp [h]

theorem execMaintButtonPress_only  (s t0 : State) (e : execMaintButtonPress  s = .next t0) : Only [.sleep, .time, .host, .img, .out, .start, .pres, .recorder] s t0 := by
  intro pt h
  simp at h
  obtain rfl := Host.Outcome.next.inj e
  simp [h]

theorem execMaintButtonRelease_only (heldMs : Nat) (s t0 : State) (e : execMaintButtonRelease heldMs s = .next t0) : Only [.pres, .recorder] s t0 := by
  intro pt h
  simp at h
  obtain rfl := Host.Outcome.next.inj e
  simp [h]

theorem execMaintWindowClose_only  (s t0 : State) (e : execMaintWindowClose  s = .next t0) : Only [.skim, .img, .cmd, .pres, .recorder] s t0 := by
  intro pt h
  simp at h
  obtain rfl := Host.Outcome.next.inj e
  split <;> simp [h]

theorem execMaintJumperFitted_only  (s t0 : State) (e : execMaintJumperFitted  s = .next t0) : Only [.pres, .recorder] s t0 := by
  intro pt h
  simp at h
  obtain rfl := Host.Outcome.next.inj e
  simp [h]

theorem execMaintJumperRemoved_only  (s t0 : State) (e : execMaintJumperRemoved  s = .next t0) : Only [.skim, .img, .cmd, .pres, .recorder] s t0 := by
  intro pt h
  simp at h
  obtain rfl := Host.Outcome.next.inj e
  simp [h]

theorem execPresenceRawChange_only (sealOpen debugFitted : Bool) (s t0 : State) (e : execPresenceRawChange sealOpen debugFitted s = .next t0) : Only [.safe, .pres] s t0 := by
  intro pt h
  simp at h
  obtain rfl := Host.Outcome.next.inj e
  simp [h]

theorem execSealOpened_only  (s t0 : State) (e : execSealOpened  s = .next t0) : Only [.safe, .pres, .recorder] s t0 := by
  intro pt h
  simp at h
  obtain rfl := Host.Outcome.next.inj e
  simp [h]

theorem execSealClosed_only  (s t0 : State) (e : execSealClosed  s = .next t0) : Only [.safe, .skim, .img, .cmd, .pres, .recorder] s t0 := by
  intro pt h
  simp at h
  obtain rfl := Host.Outcome.next.inj e
  simp [h]

theorem execDebugJumperFitted_only  (s t0 : State) (e : execDebugJumperFitted  s = .next t0) : Only [.safe, .pres, .recorder] s t0 := by
  intro pt h
  simp at h
  obtain rfl := Host.Outcome.next.inj e
  simp [h]

theorem execDebugJumperRemoved_only  (s t0 : State) (e : execDebugJumperRemoved  s = .next t0) : Only [.safe, .skim, .img, .out, .cmd, .pres, .recorder] s t0 := by
  intro pt h
  simp at h
  obtain rfl := Host.Outcome.next.inj e
  simp [h]

theorem execPresenceInputFault_only (input : Nat) (s t0 : State) (e : execPresenceInputFault input s = .next t0) : Only [.safe, .skim, .img, .out, .cmd, .pres, .recorder] s t0 := by
  intro pt h
  simp at h
  obtain rfl := Host.Outcome.next.inj e
  (repeat' split) <;> simp [h]

theorem execPresenceFaultLift_only (input : Nat) (s t0 : State) (e : execPresenceFaultLift input s = .next t0) : Only [.safe, .pres] s t0 := by
  intro pt h
  simp at h
  obtain rfl := Host.Outcome.next.inj e
  split <;> simp [h]

theorem execTrialConfirmed_only  (s t0 : State) (e : execTrialConfirmed  s = .next t0) : Only [.img] s t0 := by
  intro pt h
  simp at h
  obtain rfl := Host.Outcome.next.inj e
  simp [h]

theorem execTrialTimeout_only  (s t0 : State) (e : execTrialTimeout  s = .next t0) : Only [.set, .sleep, .route, .safe, .time, .host, .skim, .img, .veh, .start, .fld, .mon, .cmd, .pair, .bridge, .pres, .recorder] s t0 := by
  intro pt h
  simp at h
  obtain rfl := Host.Outcome.next.inj e
  simp [h]

theorem execMonitorLine_only  (s t0 : State) (e : execMonitorLine  s = .next t0) : Only [.host, .out, .veh, .mon, .cmd, .bridge] s t0 := by
  intro pt h
  simp at h
  obtain rfl := Host.Outcome.next.inj e
  simp [h]

theorem execMonHelp_only  (s t0 : State) (e : execMonHelp  s = .next t0) : Only [.out, .mon] s t0 := by
  intro pt h
  simp at h
  obtain rfl := Host.Outcome.next.inj e
  simp [h]

theorem execMonBaud_only (rate : Nat) (s t0 : State) (e : execMonBaud rate s = .next t0) : Only [.out, .mon] s t0 := by
  intro pt h
  simp at h
  obtain rfl := Host.Outcome.next.inj e
  simp [h]

theorem execMonPacket_only  (s t0 : State) (e : execMonPacket  s = .next t0) : Only [.out, .mon] s t0 := by
  intro pt h
  simp at h
  obtain rfl := Host.Outcome.next.inj e
  simp [h]

theorem execPacketModeFrame_only (bytes : Bytes) (s t0 : State) (e : execPacketModeFrame bytes s = .next t0) : Only [.host, .out, .veh, .mon, .cmd, .bridge] s t0 := by
  intro pt h
  simp at h
  obtain rfl := Host.Outcome.next.inj e
  simp [h]

theorem execPacketByteTimeout_only  (s t0 : State) (e : execPacketByteTimeout  s = .next t0) : Only [.mon] s t0 := by
  intro pt h
  simp at h
  obtain rfl := Host.Outcome.next.inj e
  simp [h]

theorem execPacketModeEnd_only  (s t0 : State) (e : execPacketModeEnd  s = .next t0) : Only [.out, .mon] s t0 := by
  intro pt h
  simp at h
  obtain rfl := Host.Outcome.next.inj e
  simp [h]

theorem execPeerSegmentLinkUp_only (seg : Nat) (master : Bool) (s t0 : State) (e : execPeerSegmentLinkUp seg master s = .next t0) : Only [.pair] s t0 := by
  intro pt h
  simp at h
  obtain rfl := Host.Outcome.next.inj e
  simp [h]

theorem execResetCommand_only  (s t0 : State) (e : execResetCommand  s = .next t0) : Only [.set, .sleep, .route, .safe, .time, .host, .skim, .img, .veh, .start, .fld, .mon, .cmd, .pair, .bridge, .pres, .recorder] s t0 := by
  intro pt h
  simp at h
  obtain rfl := Host.Outcome.next.inj e
  split <;> simp [h]

theorem execNoFirmwareLine_only  (s t0 : State) (e : execNoFirmwareLine  s = .next t0) : Only [.out, .start] s t0 := by
  intro pt h
  simp at h
  obtain rfl := Host.Outcome.next.inj e
  simp [h]

theorem execMonitorCharacterReceived_only (b : Byte) (s t0 : State) (e : execMonitorCharacterReceived b s = .next t0) : Only [.host, .out, .veh, .mon, .cmd, .bridge] s t0 := by
  intro pt h
  simp at h
  obtain rfl := Host.Outcome.next.inj e
  simp [h]

end Sys2Proof.Machine
end

