-- ==== Sys2Proof/Laws/Mem.lean ====
section
/-! SUPPORT. The canonical memories: a read after a write, and that every write keeps the form. -/

namespace Sys2Proof.Machine.Mem

/-- A memory's addresses all lie above `a`. -/
def above (a : Nat) (m : Mem) : Prop := ∀ c ∈ m, a < c.1

theorem wf_cons {a : Nat} {x : Byte} {m : Mem} (h : wf ((a, x) :: m) = true) : x ≠ 0 ∧ wf m = true ∧ above a m := by
  induction m generalizing a x with
  | nil =>
    refine ⟨?_, rfl, ?_⟩
    · simpa [wf] using h
    · intro c hc; cases hc
  | cons c m ih =>
    obtain ⟨b, y⟩ := c
    simp only [wf, Bool.and_eq_true, decide_eq_true_eq, bne_iff_ne] at h
    obtain ⟨⟨hx, hab⟩, hm⟩ := h
    refine ⟨hx, hm, ?_⟩
    intro c hc
    rcases List.mem_cons.mp hc with rfl | hc
    · exact hab
    · exact Nat.lt_trans hab ((ih hm).2.2 c hc)

theorem wf_of_cons {a : Nat} {x : Byte} {m : Mem} (hx : x ≠ 0) (hm : wf m = true) (ha : above a m) :
    wf ((a, x) :: m) = true := by
  cases m with
  | nil => simpa [wf] using hx
  | cons c m =>
    obtain ⟨b, y⟩ := c
    simp only [wf, Bool.and_eq_true, decide_eq_true_eq, bne_iff_ne]
    exact ⟨⟨hx, ha (b, y) (List.mem_cons_self ..)⟩, hm⟩

theorem above_write {a b : Nat} {m : Mem} (v : Byte) (hb : a < b) (h : above a m) : above a (write m b v) := by
  induction m with
  | nil =>
    intro c hc
    simp only [write] at hc
    split at hc
    · cases hc
    · rcases List.mem_singleton.mp hc with rfl; exact hb
  | cons c m ih =>
    obtain ⟨d, x⟩ := c
    have hm : above a m := fun c hc => h c (List.mem_cons_of_mem _ hc)
    have hd : a < d := h (d, x) (List.mem_cons_self ..)
    intro c hc
    simp only [write] at hc
    split at hc
    · split at hc
      · exact h c hc
      · rcases List.mem_cons.mp hc with rfl | hc
        · exact hb
        · exact h c hc
    · split at hc
      · split at hc
        · exact hm c hc
        · rcases List.mem_cons.mp hc with rfl | hc
          · exact hb
          · exact hm c hc
      · rcases List.mem_cons.mp hc with rfl | hc
        · exact hd
        · exact ih hm c hc

/-- A write keeps the canonical form. -/
theorem write_wf {m : Mem} (a : Nat) (v : Byte) (h : wf m = true) : wf (write m a v) = true := by
  induction m with
  | nil =>
    simp only [write]
    split
    · rfl
    · next hv => simpa [wf] using hv
  | cons c m ih =>
    obtain ⟨b, x⟩ := c
    obtain ⟨hx, hm, hb⟩ := wf_cons h
    simp only [write]
    split
    · next hab =>
      split
      · exact h
      · next hv =>
        refine wf_of_cons hv h ?_
        intro c hc
        rcases List.mem_cons.mp hc with rfl | hc
        · exact hab
        · exact Nat.lt_trans hab (hb c hc)
    · split
      · next hab =>
        subst hab
        split
        · exact hm
        · next hv => exact wf_of_cons hv hm hb
      · next h1 h2 => exact wf_of_cons hx (ih hm) (above_write v (by omega) hb)

/-- A string of writes keeps the canonical form. -/
theorem writeN_wf {m : Mem} (a : Nat) (b : Bytes) (h : wf m = true) : wf (writeN m a b) = true := by
  induction b generalizing m a with
  | nil => exact h
  | cons x t ih => exact ih (a + 1) (write_wf a x h)

theorem read_cons (a b : Nat) (x : Byte) (m : Mem) : read ((b, x) :: m) a = if b = a then x else read m a := by
  unfold read
  by_cases h : b = a
  · simp [List.find?, h]
  · simp [List.find?, h, beq_false_of_ne h]

theorem read_of_above {a b : Nat} {m : Mem} (h : above a m) (hb : b ≤ a) : read m b = 0 := by
  induction m with
  | nil => rfl
  | cons c m ih =>
    obtain ⟨d, x⟩ := c
    have hd : a < d := h (d, x) (List.mem_cons_self ..)
    rw [read_cons, if_neg (by omega)]
    exact ih (fun c hc => h c (List.mem_cons_of_mem _ hc))

/-- A byte reads what was written last, and every other byte what it read before. -/
theorem read_write {m : Mem} (a b : Nat) (v : Byte) (h : wf m = true) :
    read (write m a v) b = if a = b then v else read m b := by
  induction m with
  | nil =>
    simp only [write]
    by_cases hv : v = 0
    · rw [if_pos hv]; split
      · rw [hv]; rfl
      · rfl
    · rw [if_neg hv, read_cons]
  | cons c m ih =>
    obtain ⟨d, x⟩ := c
    obtain ⟨hx, hm, hd⟩ := wf_cons h
    simp only [write]
    by_cases h1 : a < d
    · rw [if_pos h1]
      by_cases hv : v = 0
      · rw [if_pos hv]
        split
        · next hab =>
          subst hab
          rw [hv]
          refine read_of_above (a := a) ?_ (Nat.le_refl a)
          intro c hc
          rcases List.mem_cons.mp hc with rfl | hc
          · exact h1
          · exact Nat.lt_trans h1 (hd c hc)
        · rfl
      · rw [if_neg hv, read_cons]
    · rw [if_neg h1]
      by_cases h2 : a = d
      · subst h2
        rw [if_pos rfl]
        by_cases hv : v = 0
        · rw [if_pos hv]
          split
          · next hab => subst hab; rw [hv]; exact read_of_above hd (Nat.le_refl a)
          · next hab => rw [read_cons, if_neg hab]
        · rw [if_neg hv, read_cons]
          split
          · rfl
          · next hab => rw [read_cons, if_neg hab]
      · rw [if_neg h2, read_cons, ih hm, read_cons]
        by_cases h3 : d = b
        · rw [if_pos h3, if_pos h3, if_neg (by omega)]
        · rw [if_neg h3, if_neg h3]

end Sys2Proof.Machine.Mem
end

