-- ==== Sys2Proof/Laws/Outputs.lean ====
section
/-! SUPPORT. The safety outputs under the shared operations: which operations move nothing that the outputs depend on,
which end with no output energised, and which keep `outputsSound`. -/

set_option Elab.async false
set_option linter.unusedSimpArgs false

namespace Sys2Proof.Machine

/-- What the soundness of the outputs depends on. -/
structure Lamp where
  state : SafeState
  hold : Bool
  supplyOpen : Bool
  offFault : BitVec 8
  applied : BitVec 8
  chFault : BitVec 8
  sealIn : PInput
  debugIn : PInput

def lampOf (x : SafeSt) (p : PresenceSt) : Lamp :=
  ⟨x.state, x.hold, x.supplyOpen, x.safeOffFault, x.applied, x.chFault, p.sealLoop, p.debugJumper⟩
def State.lamp (s : State) : Lamp := lampOf (s.part .safe) (s.part .pres)

/-- The states in which the complex runs. -/
def runsIn (x : SafeState) : Bool := match x with | .voted => true | .resync => true | .dual => true | _ => false
/-- `outputsBarred` in terms of the lamp. -/
def Lamp.barred (l : Lamp) : Bool :=
  !(runsIn l.state) || l.hold ||
    (l.sealIn.raw || l.sealIn.active || l.sealIn.fault) || (l.debugIn.raw || l.debugIn.active || l.debugIn.fault) ||
    l.supplyOpen || l.offFault != 0
/-- `outputsSound` in terms of the lamp. -/
def Lamp.sound (l : Lamp) : Prop := (l.barred = true → l.applied = 0) ∧ l.applied &&& l.chFault = 0

theorem sound_iff (s : State) : outputsSound s ↔ s.lamp.sound := Iff.rfl

theorem Lamp.sound_of_dark {l : Lamp} (h : l.applied = 0) : l.sound := ⟨fun _ => h, by rw [h]; exact BitVec.zero_and⟩

theorem safe_part (s : State) : s.safe = s.part .safe := rfl

theorem pres_part (s : State) : s.pres = s.part .pres := rfl

theorem part_mk_safe (a b c d e f g h i j k l m n o p q r t u v w x y z a' b' c' d') :
    (State.mk a b c d e f g h i j k l m n o p q r t u v w x y z a' b' c' d').part .safe = d' := rfl

theorem part_mk_pres (a b c d e f g h i j k l m n o p q r t u v w x y z a' b' c' d') :
    (State.mk a b c d e f g h i j k l m n o p q r t u v w x y z a' b' c' d').part .pres = x := rfl

theorem lamp_only {s t : State} (a : t.part .safe = s.part .safe) (b : t.part .pres = s.part .pres) : t.lamp = s.lamp := by
  simp [State.lamp, a, b]

theorem lamp_applied {s t : State} (h : t.lamp = s.lamp) : t.safe.applied = s.safe.applied := congrArg Lamp.applied h

theorem sound_lamp {s t : State} (h : t.lamp = s.lamp) (k : s.lamp.sound) : t.lamp.sound := h ▸ k

theorem sound_dark {s : State} (h : s.safe.applied = 0) : s.lamp.sound := Lamp.sound_of_dark h

theorem sound_only {s t : State} (k : s.lamp.sound) (a : t.part .safe = s.part .safe) (b : t.part .pres = s.part .pres) : t.lamp.sound :=
  sound_lamp (lamp_only a b) k

theorem dark_only {s t : State} (k : s.safe.applied = 0) (a : t.part .safe = s.part .safe) : t.safe.applied = 0 := by
  rw [safe_part, a]; exact k

/-! operations that move no lamp field -/

theorem logMismatch_lamp (s : State) (a b c : Nat) : (logMismatch s a b c).lamp = s.lamp := by
  simp [logMismatch, State.lamp, part_mk_safe, part_mk_pres, safe_part, pres_part, lampOf]

theorem setCore_lamp (s : State) (k : Nat) (f : CoreSt → CoreSt) : (setCore s k f).lamp = s.lamp := rfl

theorem resetCores_lamp (s : State) : (resetCores s).lamp = s.lamp := rfl

theorem loadCores_lamp (s : State) (ck : Option Checkpoint) : (loadCores s ck).lamp = s.lamp := rfl

theorem runCores_lamp (s : State) : (runCores s).lamp = s.lamp := rfl

theorem votedStore_lamp (s : State) (l : List LaneCmp) (par : List (BitVec 3)) : (votedStore s l par).lamp = s.lamp := by
  unfold votedStore
  split
  · rfl
  · split
    · rfl
    · split <;> rfl

theorem votedRead_lamp (s : State) (l : List LaneCmp) (par : List (BitVec 3)) : (votedRead s l par).lamp = s.lamp := by
  unfold votedRead
  split
  · rfl
  · split
    · rfl
    · exact (lamp_only (tookFree_only _ _ _ (by decide)) (tookFree_only _ _ _ (by decide))).trans rfl

theorem carryOut_lamp (s : State) (l : List LaneCmp) (par : List (BitVec 3)) : (carryOut s l par).lamp = s.lamp := by
  unfold carryOut
  exact (votedRead_lamp _ _ _).trans ((votedStore_lamp _ _ _).trans rfl)

theorem discardStaged_lamp (s : State) : (discardStaged s).lamp = s.lamp := by
  simp [discardStaged, State.lamp, part_mk_safe, part_mk_pres, safe_part, pres_part, lampOf]

theorem clearCounts_lamp (s : State) : (clearCounts s).lamp = s.lamp := by
  simp [clearCounts, State.lamp, part_mk_safe, part_mk_pres, safe_part, pres_part, lampOf]

theorem unclean_lamp (s : State) : (unclean s).lamp = s.lamp := by
  simp [unclean, State.lamp, part_mk_safe, part_mk_pres, safe_part, pres_part, lampOf]

theorem beginCycle_lamp (s : State) (r : SkimRec) : (beginCycle s r).lamp = s.lamp := rfl

theorem coreRuns_lamp (s : State) : (coreRuns s).lamp = s.lamp := by
  simp [coreRuns, State.lamp, part_mk_safe, part_mk_pres, safe_part, pres_part, lampOf]

theorem stageResults_lamp (s : State) (c : SafeCycle) : (stageResults s c).lamp = s.lamp := by
  unfold stageResults; split <;> simp [State.lamp, part_mk_safe, part_mk_pres, safe_part, pres_part, lampOf]

theorem writeCheckpoint_lamp (s : State) (c : SafeCycle) : (writeCheckpoint s c).lamp = s.lamp := by
  simp [writeCheckpoint, State.lamp, part_mk_safe, part_mk_pres, safe_part, pres_part, lampOf]

theorem clearOutputFault_lamp (s : State) (k : Nat) : (clearOutputFault s k).lamp = s.lamp := by
  unfold clearOutputFault; split <;> simp [State.lamp, part_mk_safe, part_mk_pres, safe_part, pres_part, lampOf]

theorem latchIo_lamp (s : State) (n : Nat) (i : SampleIn) : (latchIo s n i).lamp = s.lamp := by
  simp [latchIo, State.lamp, part_mk_safe, part_mk_pres, safe_part, pres_part, lampOf]

theorem setSplit_lamp (s : State) (f : SplitSt → SplitSt) : (setSplit s f).lamp = s.lamp := by
  simp [setSplit, State.lamp, part_mk_safe, part_mk_pres, safe_part, pres_part, lampOf]

theorem setCoreA_lamp (s : State) (c : CoreSt) : (setCoreA s c).lamp = s.lamp := by
  simp [setCoreA, State.lamp, part_mk_safe, part_mk_pres, safe_part, pres_part, lampOf]

theorem coreNow_lamp (s : State) (x : SplitSt) : (coreNow s x).lamp = s.lamp := by
  unfold coreNow; split <;> simp [coreRuns_lamp]

theorem readCoreWord_lamp (s : State) (a : Nat) : (readCoreWord s a).1.lamp = s.lamp := by
  unfold readCoreWord; split
  · rfl
  · exact (lamp_only (tookFree_only _ _ _ (by decide)) (tookFree_only _ _ _ (by decide))).trans (setCoreA_lamp _ _)

theorem readCoreWords_lamp (s : State) (a k : Nat) : (readCoreWords s a k).1.lamp = s.lamp := by
  induction k generalizing s a with
  | zero => rfl
  | succ k ih => exact (ih _ _).trans (readCoreWord_lamp s a)

theorem writeCoreWords_lamp (s : State) (a : Nat) (l : List Word32) : (writeCoreWords s a l).lamp = s.lamp := by
  induction l generalizing s a with
  | nil => rfl
  | cons w ws ih => exact (ih _ _).trans ((setSplit_lamp _ _).trans (setCoreA_lamp _ _))

theorem loadTables_lamp (s : State) (c : Cfg) : (loadTables s c).lamp = s.lamp := by
  have h : (loadTables s c).part .safe = { s.safe with table := if c.equation.isEmpty then none else some c.equation } := by
    unfold loadTables
    dsimp only
    rw [foldl_part]
    · rw [setRing_only _ _ _ _ (by decide)]
      split
      · rw [foldl_part _ _ _ _ (fun u x => by simp), foldl_part _ _ _ _ (fun u x => by simp)]
        rfl
      · rw [setRing_only _ _ _ _ (by decide), foldl_part _ _ _ _ (fun u x => by simp), foldl_part _ _ _ _ (fun u x => by simp)]
        rfl
    · intro u x; simp
  have k : (loadTables s c).part .pres = s.part .pres := by simp
  simp [State.lamp, h, k, lampOf, safe_part]

theorem writeStatus_lamp (s : State) (r : StatusReg) (w : Word32) : (writeStatus s r w).lamp = s.lamp := by
  unfold writeStatus
  split <;> (try split) <;> simp [State.lamp, part_mk_safe, part_mk_pres, safe_part, pres_part, lampOf]

theorem hostWrite_lamp (s : State) (a : Nat) (w : Word32) : (hostWrite s a w).lamp = s.lamp := by
  unfold hostWrite
  split
  iterate 4 (exact lamp_only (by simp) (by simp))
  split
  · exact lamp_only (by simp) (by simp)
  · exact lamp_only (by simp) (by simp)
  · exact writeStatus_lamp _ _ _
  · exact lamp_only (by simp) (by simp)
  · exact lamp_only (by simp) (by simp)

theorem hostWrites_lamp (s : State) (a : Nat) (l : List Word32) : (hostWrites s a l).lamp = s.lamp := by
  induction l generalizing s a with
  | nil => rfl
  | cons w ws ih => exact (ih _ _).trans (hostWrite_lamp s a w)

/-! operations that end dark -/

theorem goSafe_dark (s : State) : (goSafe s).safe.applied = 0 := rfl

theorem enterHalted_dark (s : State) : (enterHalted s).safe.applied = 0 := rfl

theorem startScratch_dark (s : State) : (startScratch s).safe.applied = 0 := rfl

theorem noMajority_dark (s : State) : (noMajority s).safe.applied = 0 := by
  unfold noMajority; dsimp only; split <;> rfl

theorem enterSplit_dark (s : State) (x : SplitSt) : (enterSplit s x).safe.applied = 0 := by
  unfold enterSplit; exact lamp_applied (coreRuns_lamp _)

theorem overrunAt_dark (s : State) (a b : Nat) : (overrunAt s a b).safe.applied = 0 := by
  unfold overrunAt; exact noMajority_dark _

theorem holdComplex_dark (s : State) : (holdComplex s).safe.applied = 0 := rfl

theorem mgmtDown_dark (s : State) : (mgmtDown s).safe.applied = 0 := by
  have e : (mgmtDown s).part .safe = (stopRecorder (holdComplex s)).part .safe := by
    unfold mgmtDown; dsimp only; simp only [part_mk_safe]; rw [safe_part]; split <;> simp
  rw [safe_part, e, stopRecorder_only _ _ (by decide)]
  exact holdComplex_dark s

theorem beginReset_dark (s : State) (c : Nat) : (beginReset s c).safe.applied = 0 := mgmtDown_dark s

theorem powerLost_dark (s : State) : (powerLost s).safe.applied = 0 := rfl

theorem leaveRole_dark (s : State) : (leaveRole s).safe.applied = 0 := by
  have e : (leaveRole s).part .safe = (dropOutputs s).part .safe := by
    unfold leaveRole; simp [part_mk_safe, safe_part]
  rw [safe_part, e]; rfl

theorem becomeUnplaced_dark (s : State) : (becomeUnplaced s).safe.applied = 0 := by
  have e : (becomeUnplaced s).part .safe = (dropOutputs (report s 0x0901 19 s.upos [])).part .safe := by
    unfold becomeUnplaced; simp [part_mk_safe, safe_part]
  rw [safe_part, e]; rfl

theorem releaseHawk_dark (s : State) : (releaseHawk s).safe.applied = 0 := by
  unfold releaseHawk
  exact dark_only (leaveRole_dark { s with pair := { s.pair with hawkHeld := false, hawkAcked := none } })
    ((sendControl_only _ _ (by decide)).trans rfl)

/-! operations that keep the invariant -/

theorem loseIlk_sound {s : State} (h : s.lamp.sound) : (loseIlk s).lamp.sound := by
  unfold loseIlk; split
  · exact h
  · exact sound_dark (leaveRole_dark s)

theorem assertRole_lamp (s : State) : (assertRole s).lamp = s.lamp := lamp_only (by simp) (by simp)

theorem receiveGrant_sound {s : State} (u e : Nat) (h : s.lamp.sound) : (receiveGrant s u e).lamp.sound := by
  unfold receiveGrant; dsimp only
  split
  · exact h
  · split
    · split
      · exact sound_dark (leaveRole_dark _)
      · exact h
    · split
      · exact sound_lamp (assertRole_lamp _) h
      · exact h

theorem sendGrantTo_sound {s : State} (e : Entry) (h : s.lamp.sound) : (sendGrantTo s e).lamp.sound := by
  unfold sendGrantTo
  split
  · exact h
  · dsimp only
    split
    · exact receiveGrant_sound _ _ h
    · exact h

theorem sound_foldl {α : Type} (f : State → α → State) (l : List α) (k : ∀ s x, s.lamp.sound → (f s x).lamp.sound) {s : State}
    (h : s.lamp.sound) : (l.foldl f s).lamp.sound := by
  induction l generalizing s with
  | nil => exact h
  | cons x t ih => exact ih (k s x h)

theorem roleGrants_sound {s : State} (h : s.lamp.sound) : (roleGrants s).lamp.sound :=
  sound_foldl _ _ (fun _ x k => sendGrantTo_sound x k) h

theorem dropSplit_sound {s : State} (h : s.lamp.sound) : (dropSplit s).lamp.sound := by
  unfold dropSplit
  split
  · dsimp only
    split
    · refine sound_only (s := if decide (s.safe.state = .split) = true then startScratch s else
        { s with safe := { s.safe with split := none } }) ?_ (by simp) (by simp)
      split
      · exact sound_dark (startScratch_dark s)
      · exact h
    · split
      · exact sound_dark (startScratch_dark s)
      · exact h
  · exact h

/-- A running state may follow a running one. -/
theorem Lamp.sound_run {l : Lamp} (h : l.sound) (x : SafeState) (v : runsIn l.state = true) : Lamp.sound { l with state := x } ∨ runsIn x = false := by
  cases hx : runsIn x
  · exact .inr rfl
  · refine .inl ⟨fun b => h.1 ?_, h.2⟩
    simp only [Lamp.barred, hx, v] at b ⊢
    exact b

theorem sound_to {s t : State} (h : s.lamp.sound) (x : SafeState) (v : runsIn s.safe.state = true) (w : runsIn x = true)
    (e : t.lamp = { s.lamp with state := x }) : t.lamp.sound := by
  rw [e]
  rcases Lamp.sound_run h x v with k | k
  · exact k
  · rw [w] at k; exact absurd k (by decide)

theorem failCore_sound {s : State} (k : Nat) (h : s.lamp.sound) (v : runsIn s.safe.state = true) : (failCore s k).lamp.sound :=
  sound_to h .dual v rfl (by
    unfold failCore
    exact (lamp_only (report_only _ _ _ _ _ _ (by decide)) (report_only _ _ _ _ _ _ (by decide))).trans rfl)

theorem namedMinority_sound {s : State} (k : Nat) (h : s.lamp.sound) (v : runsIn s.safe.state = true) : (namedMinority s k).lamp.sound := by
  unfold namedMinority
  have hu := sound_lamp (unclean_lamp s) h
  have vu : runsIn (unclean s).safe.state = true := v
  dsimp only
  split
  · exact failCore_sound k hu vu
  · exact sound_to hu .resync vu rfl rfl

theorem coreDiffers_sound {s : State} (a b c : Nat) (p : Bool) (h : s.lamp.sound) : (coreDiffers s a b c p).lamp.sound := by
  unfold coreDiffers
  dsimp only
  split
  · next hv =>
    refine namedMinority_sound a (sound_lamp (logMismatch_lamp _ _ _ _) h) ?_
    have e := congrArg Lamp.state (logMismatch_lamp s b (a + if p = true then 128 else 0) c)
    have e2 : (logMismatch s b (a + if p = true then 128 else 0) c).safe.state = s.safe.state := e
    rw [e2, hv]; rfl
  · split
    · exact sound_dark (noMajority_dark _)
    · exact h

theorem commitSafety_sound {s : State} (h : s.lamp.sound) : (commitSafety s).lamp.sound := by
  unfold commitSafety
  split
  · exact h
  · dsimp only
    split
    · exact h
    · exact h
    · split
      · exact h
      · exact sound_lamp (coreRuns_lamp _) h
    · split
      · exact sound_dark (overrunAt_dark _ _ _)
      · exact h
    · split
      · exact sound_dark (overrunAt_dark _ _ _)
      · exact sound_lamp (beginCycle_lamp _ _) h

theorem noteSafe_sound {b s : State} (h : s.lamp.sound) : (noteSafe b s).lamp.sound :=
  sound_only h (noteSafe_only _ _ _ (by decide)) (noteSafe_only _ _ _ (by decide))

theorem commitAll_sound {s : State} (h : s.lamp.sound) : (commitAll s).lamp.sound := by
  unfold commitAll
  split
  · exact h
  · dsimp only
    have key : ∀ v : State, v.lamp.sound → ({ v with pair := { v.pair with mark := none } } : State).lamp.sound := fun _ h => h
    refine key _ (noteSafe_sound (commitSafety_sound ?_))
    have e : ∀ (u : State) (p : Part), p = .safe ∨ p = .pres → u.part p = s.part p →
        (match u.skim.retained with | [] => u | r :: _ => stepOdometry u r).part p = s.part p := by
      intro u p hp hu
      split
      · exact hu
      · rw [stepOdometry_only _ _ _ (by rcases hp with rfl | rfl <;> decide)]; exact hu
    generalize hu : outSide (noteGap (raiseInt (commitSkim s) 2) s.cyc.n ((heldSlot s).elim false fun v => !(slotBuild s v).frames.isEmpty)) s.cyc.n = u
    have a : u.part .safe = s.part .safe := by rw [← hu]; simp
    have b : u.part .pres = s.part .pres := by rw [← hu]; simp
    exact sound_only h (e u .safe (.inl rfl) a) (e u .pres (.inr rfl) b)

/-! outputs -/

theorem faultChannel_lamp (s : State) (k : Nat) : (faultChannel s k).lamp =
    { s.lamp with chFault := setBit s.safe.chFault (k - 1) true, applied := setBit s.safe.applied (k - 1) false } := by
  unfold faultChannel
  dsimp only
  generalize hr : reportIf (!s.safe.chFault.getLsbD (k - 1)) s 0x0806 14 k [] = r
  have e : r.safe = s.safe := hr ▸ reportIf_only _ _ _ _ _ _ .safe (by decide)
  have p : r.pres = s.pres := hr ▸ reportIf_only _ _ _ _ _ _ .pres (by decide)
  show Lamp.mk _ _ _ _ _ _ _ _ = Lamp.mk _ _ _ _ _ _ _ _
  rw [e, p]
  rfl

theorem fault_apart (a c m : BitVec 8) (h : a &&& c = 0) : (a &&& ~~~m) &&& (c ||| m) = 0 := by
  ext i hi
  have := congrArg (fun v => v[i]) h
  simp at this ⊢
  intro x y
  exact ⟨this x, y⟩

theorem faultChannel_sound {s : State} (k : Nat) (h : s.lamp.sound) : (faultChannel s k).lamp.sound := by
  rw [faultChannel_lamp]
  refine ⟨fun b => ?_, ?_⟩
  · have : s.safe.applied = 0 := h.1 b
    show s.safe.applied &&& _ = 0
    rw [this]; exact BitVec.zero_and
  · exact fault_apart _ _ _ h.2

theorem faultSafeOff_dark (s : State) (v : BitVec 8) : (faultSafeOff s v).safe.applied = 0 := rfl

theorem findOutputFaults_sound {s : State} (i : SampleIn) (h : s.lamp.sound) : (findOutputFaults s i).lamp.sound := by
  unfold findOutputFaults
  have h1 := sound_foldl faultChannel (badOutputs s i) (fun _ k hk => faultChannel_sound k hk) h
  dsimp only
  split
  · exact h1
  · exact sound_dark (faultSafeOff_dark _ _)

theorem and_clear_foldl (a : BitVec 8) (l : List Nat) (v : BitVec 8) (h : a &&& v = 0) :
    a &&& l.foldl (fun v k => setBit v (k - 1) false) v = 0 := by
  induction l generalizing v with
  | nil => exact h
  | cons k t ih =>
    refine ih _ ?_
    show a &&& (v &&& _) = 0
    rw [← BitVec.and_assoc, h]; exact BitVec.zero_and

theorem Lamp.sound_lift {l : Lamp} (h : l.sound) (off : Bool) (c : BitVec 8) (hc : l.applied &&& c = 0) :
    Lamp.sound { l with offFault := if off then 0 else l.offFault, chFault := c } := by
  refine ⟨fun b => h.1 ?_, hc⟩
  cases off
  · exact b
  · simp [Lamp.barred] at b ⊢
    exact .inl b

theorem liftOutputFaults_sound {s : State} (l : List Nat) (all : Bool) (h : s.lamp.sound) : (liftOutputFaults s l all).lamp.sound :=
  Lamp.sound_lift h (s.safe.clearingOff && all) _ (and_clear_foldl s.safe.applied _ _ h.2)

theorem compareReadback_sound {s : State} (i : SampleIn) (h : s.lamp.sound) : (compareReadback s i).lamp.sound :=
  liftOutputFaults_sound _ _ (findOutputFaults_sound i h)

theorem endHold_lamp (s : State) (n : Nat) : (endHold s n).lamp = s.lamp ∨ (endHold s n).lamp = { s.lamp with hold := false } := by
  unfold endHold
  split
  · exact .inl rfl
  · split
    · exact .inr rfl
    · exact .inl rfl

theorem endHold_applied (s : State) (n : Nat) : (endHold s n).safe.applied = s.safe.applied := by
  rcases endHold_lamp s n with h | h <;> exact congrArg Lamp.applied h

theorem allHeld_of_barred (u : State) (n : Nat) (b : outputsBarred u = true) : allHeld u n = true := by
  simp only [outputsBarred, allHeld, holdCause, Bool.or_eq_true] at b ⊢
  rcases b with ((((b | b) | b) | b) | b) | b <;> simp_all

theorem applySafe_sound (s : State) (n : Nat) : (applySafe s n).lamp.sound := by
  unfold applySafe
  generalize endHold s n = u
  constructor
  · intro b
    show outputsAt u n = 0
    unfold outputsAt
    rw [if_pos (allHeld_of_barred u n b)]
  · show outputsAt u n &&& u.safe.chFault = 0
    unfold outputsAt
    split
    · exact BitVec.zero_and
    · ext i hi
      simp

theorem endCondition_sound {s : State} (h : s.safe.applied = 0) : (endCondition s).lamp.sound := sound_dark h

theorem latchAll_sound {s : State} (i : SampleIn) (h : s.lamp.sound) : (latchAll s i).lamp.sound := by
  unfold latchAll
  dsimp only
  generalize hu : measureSupply _ i = u
  have a : u.part .safe = s.part .safe := by rw [← hu]; simp
  have b : u.part .pres = s.part .pres := by rw [← hu]; simp
  refine sound_only (s := latchIo (compareReadback u i) (gridN s) i) ?_ (by simp) (by simp)
  refine sound_lamp (latchIo_lamp _ _ _) (compareReadback_sound i (sound_only h a b))

theorem stopForSleep_dark (s : State) (c : Nat) : (stopForSleep s c).safe.applied = 0 := by
  unfold stopForSleep
  dsimp only
  split
  · exact dark_only (mgmtDown_dark _) (setRtc_only _ _ (by decide))
  · exact mgmtDown_dark _

theorem enterSleep_dark (s : State) (c : Nat) : (enterSleep s c).safe.applied = 0 := stopForSleep_dark s c

theorem serve_sound (op : Nat) (p : Packet) (act : State → State) {s : State} (h : s.lamp.sound)
    (k : ∀ u : State, u.lamp.sound → (act u).lamp.sound) : (serve op p act s).lamp.sound := by
  have ho : (offered op p s).lamp.sound := sound_only h (by simp) (by simp)
  unfold serve
  split
  · exact h
  · split
    · exact k _ (sound_only ho (by simp) (by simp))
    · exact ho

theorem reply_sound {s : State} (p : Packet) (a : Nat) (b : Bytes) (h : s.lamp.sound) : (reply s p a b).lamp.sound :=
  sound_only h (by simp) (by simp)

theorem inSplit_sound {s : State} (p : Packet) (act : State → SplitSt → State) (h : s.lamp.sound)
    (k : ∀ x, (act s x).lamp.sound) : (inSplit s p act).lamp.sound := by
  unfold inSplit
  split
  · exact k _
  · exact reply_sound _ _ _ h

theorem hostAccess_sound {s : State} (act : State → State) (h : s.lamp.sound) (k : (act s).lamp.sound) : (hostAccess s act).lamp.sound := by
  unfold hostAccess
  split
  · exact k
  · exact h

theorem replyCount_sound {s : State} (p : Packet) (h : s.lamp.sound) : (replyCount s p).lamp.sound := sound_only h (by simp) (by simp)

theorem loadKind_lamp (s : State) (t : Transfer) (u : State) (m : Nat) (h : loadKind s t = .ok (u, m)) : u.lamp = s.lamp := by
  unfold loadKind loadRoute loadSchedule loadEvents loadEquations loadSerial loadProfile loadGates loadImage at h
  dsimp only at h
  (repeat' split at h) <;> first
    | (cases h; done)
    | (injection h with h; injection h with h _; subst h; apply lamp_only <;> simp; done)
    | (injection h with h; injection h with h _; subst h; simp [State.lamp, part_mk_safe, part_mk_pres, safe_part, pres_part, lampOf]; done)

theorem finishTransfer_lamp (family : Nat) (p : Packet) (s : State) : (finishTransfer family p s).lamp = s.lamp := by
  unfold finishTransfer
  split
  · exact lamp_only (by simp) (by simp)
  · split
    · exact lamp_only (by simp) (by simp)
    · dsimp only
      split
      · exact lamp_only (by simp) (by simp)
      · split
        · exact lamp_only (by simp) (by simp)
        · next u m hk =>
          exact (lamp_only (s := u) (by simp) (by simp)).trans ((loadKind_lamp _ _ _ _ hk).trans rfl)

end Sys2Proof.Machine
end

