-- ==== Sys2Proof/Laws/OutputsExec.lean ====
section
/-! SUPPORT. The meanings of the commands that write the safety complex or the presence inputs keep `outputsSound`. -/

set_option Elab.async false
set_option linter.unusedSimpArgs false
set_option linter.unusedVariables false

namespace Sys2Proof.Machine

variable {s t : State}

theorem differingCore_sound (core : Nat) (l : List LaneCmp) (clock : Nat) (par : List (BitVec 3)) (h : s.lamp.sound) :
    (differingCore s core l clock par).lamp.sound := by
  unfold differingCore
  dsimp only
  split
  · refine noteSafe_sound (coreDiffers_sound _ _ _ _ ?_)
    split
    · exact sound_lamp (carryOut_lamp _ _ _) h
    · exact h
  · exact h

theorem dark_of_stopped (h : s.lamp.sound) (v : runsIn s.safe.state = false) : s.safe.applied = 0 := by
  refine h.1 ?_
  show (!(runsIn s.safe.state) || _ || _ || _ || _ || _) = true
  simp [v]

theorem restartSelfCheck_sound (core : Nat) (l : List LaneCmp) (par : List (BitVec 3)) (v : s.safe.state = .restart)
    (h : s.lamp.sound) : (restartSelfCheck s core l par).lamp.sound := by
  have d : s.safe.applied = 0 := dark_of_stopped h (by rw [v]; rfl)
  have f : (failCore s core).safe.applied = 0 := by
    unfold failCore
    exact dark_only (s := { (setCore s core resetCore) with safe := { (setCore s core resetCore).safe with state := .dual, failed := core, minority := 0, resyncing := false } }) d (report_only _ _ _ _ _ _ (by decide))
  unfold restartSelfCheck
  split
  · exact sound_dark f
  · split
    · exact noteSafe_sound (sound_dark (noMajority_dark _))
    · exact h

theorem nameCore_sound (core : Nat) (l : List LaneCmp) (clock : Nat) (parity : List (BitVec 3)) (h : s.lamp.sound) :
    (nameCore s core l clock parity).lamp.sound := by
  unfold nameCore
  dsimp only
  split
  · next v => exact restartSelfCheck_sound _ _ _ v h
  · exact differingCore_sound _ _ _ _ h

theorem execMinorityDetected_sound (core : Nat) (lane : List LaneCmp) (clock : Nat) (parity : List (BitVec 3)) (e : execMinorityDetected core lane clock parity s = .next t) (h : s.lamp.sound) : t.lamp.sound := by
  obtain rfl := Host.Outcome.next.inj e
  exact nameCore_sound _ _ _ _ h

theorem execNoMajority_sound (lane : List LaneCmp) (clock : Nat) (parity : List (BitVec 3)) (e : execNoMajority lane clock parity s = .next t) (h : s.lamp.sound) : t.lamp.sound := by
  unfold execNoMajority at e
  obtain rfl := Host.Outcome.next.inj e
  generalize compareLanes s lane (laneParity lane parity) = v
  split
  · exact noteSafe_sound (sound_dark (noMajority_dark _))
  · exact h

theorem execComparatorFault_sound (lane : List LaneCmp) (clock : Nat) (e : execComparatorFault lane clock s = .next t) (h : s.lamp.sound) : t.lamp.sound := by
  unfold execComparatorFault at e
  obtain rfl := Host.Outcome.next.inj e
  generalize compareLanes s lane (laneParity lane []) = v
  refine noteSafe_sound ?_
  split
  · dsimp only
    generalize (if v.2.2 = true then 128 else 0) = flag
    split
    · exact sound_dark (enterHalted_dark _)
    · exact sound_dark (startScratch_dark _)
  · split
    · exact sound_dark (noMajority_dark _)
    · exact h

theorem execCheckpointWriteComplete_sound (e : execCheckpointWriteComplete s = .next t) (h : s.lamp.sound) : t.lamp.sound := by
  obtain rfl := Host.Outcome.next.inj e
  refine noteSafe_sound ?_
  split
  · exact h
  · next c hc =>
    split
    · exact h
    · dsimp only
      have h1 : (stageResults (writeCheckpoint s c) c).lamp.sound :=
        sound_lamp ((stageResults_lamp _ _).trans (writeCheckpoint_lamp _ _)) h
      have h3 : ∀ u : State, u.lamp.sound → (if composing u then mirrorRecord u 3 c.n (safetyRecord u) else u).lamp.sound := by
        intro u hu
        split
        · exact sound_only hu (by simp) (by simp)
        · exact hu
      split
      · exact h3 _ h1
      · exact sound_dark (enterSplit_dark _ _)

theorem execResyncComplete_sound (ok : Bool) (e : execResyncComplete ok s = .next t) (h : s.lamp.sound) : t.lamp.sound := by
  obtain rfl := Host.Outcome.next.inj e
  refine noteSafe_sound ?_
  split
  · next hc =>
    have v : runsIn s.safe.state = true := by rw [hc.1]; rfl
    split
    · exact sound_to h .voted v rfl rfl
    · exact failCore_sound _ h v
  · exact h

theorem execRestartComplete_sound (e : execRestartComplete s = .next t) (h : s.lamp.sound) : t.lamp.sound := by
  obtain rfl := Host.Outcome.next.inj e
  refine noteSafe_sound ?_
  split
  · exact h
  · next hc =>
    have d : s.safe.applied = 0 := dark_of_stopped h (by simp at hc; rw [hc]; rfl)
    dsimp only
    split
    · exact sound_dark d
    · split
      · exact sound_dark d
      · exact sound_lamp (beginCycle_lamp _ _) (sound_dark d)

theorem execScratchTestComplete_sound (b : BitVec 8) (e : execScratchTestComplete b s = .next t) (h : s.lamp.sound) : t.lamp.sound := by
  obtain rfl := Host.Outcome.next.inj e
  refine noteSafe_sound ?_
  split
  · exact h
  · next hc =>
    have d : s.safe.applied = 0 := dark_of_stopped h (by simp at hc; rw [hc.1]; rfl)
    extract_lets r s1 table s2 s3
    refine sound_foldl _ _ (fun u x k => sound_only k (by simp) (by simp)) ?_
    have h1 : s1.safe.applied = 0 := dark_only d (by simp [s1])
    clear_value s1
    show Lamp.sound (State.lamp (if _ then _ else _))
    split
    · exact sound_dark h1
    · exact sound_dark (enterHalted_dark _)

theorem execTcmScrub_sound (core a o : Nat) (e : execTcmScrub core a o s = .next t) (h : s.lamp.sound) : t.lamp.sound := by
  obtain rfl := Host.Outcome.next.inj e
  split
  · exact h
  · split
    · exact h
    · split
      · exact nameCore_sound _ _ _ _ h
      · exact h

theorem execInputComparatorDisagree_sound (i : Nat) (e : execInputComparatorDisagree i s = .next t) (h : s.lamp.sound) : t.lamp.sound := by
  unfold execInputComparatorDisagree at e
  dsimp only at e
  have k : (report { s with safe := { s.safe with hvFault := setBit s.safe.hvFault (i - 1) true } } 0x0805 14 i []).lamp.sound :=
    sound_only (s := { s with safe := { s.safe with hvFault := setBit s.safe.hvFault (i - 1) true } }) h (by simp) (by simp)
  split at e
  · obtain rfl := Host.Outcome.next.inj e; exact h
  · split at e
    · exact sound_only k (execCabActiveChange_only _ _ _ e .safe (by decide)) (execCabActiveChange_only _ _ _ e .pres (by decide))
    · obtain rfl := Host.Outcome.next.inj e; exact k

theorem execInputFaultClear_sound (i : Nat) (e : execInputFaultClear i s = .next t) (h : s.lamp.sound) : t.lamp.sound := by
  obtain rfl := Host.Outcome.next.inj e
  split <;> exact h

theorem execOutputPulseTest_sound (o : Nat) (r : Bool) (e : execOutputPulseTest o r s = .next t) (h : s.lamp.sound) : t.lamp.sound := by
  obtain rfl := Host.Outcome.next.inj e
  split
  · exact h
  · dsimp only
    split
    · exact h
    · exact sound_dark (faultSafeOff_dark _ _)

theorem execCurrentLimitExpiry_sound (o : Nat) (e : execCurrentLimitExpiry o s = .next t) (h : s.lamp.sound) : t.lamp.sound := by
  obtain rfl := Host.Outcome.next.inj e
  split
  · exact faultChannel_sound _ h
  · exact h

theorem execHoldBusLow_sound (e : execHoldBusLow s = .next t) (h : s.lamp.sound) : t.lamp.sound := by
  obtain rfl := Host.Outcome.next.inj e
  split
  · exact h
  · exact sound_dark rfl

theorem dark_of_barred (h : s.lamp.sound) (b : outputsBarred s = true) : s.safe.applied = 0 := h.1 b

theorem execSafeOffReclose_sound (e : execSafeOffReclose s = .next t) (h : s.lamp.sound) : t.lamp.sound := by
  obtain rfl := Host.Outcome.next.inj e
  split
  · exact h
  · next hc =>
    have d : s.safe.applied = 0 := dark_of_barred h (by simp at hc; simp [outputsBarred, hc])
    exact sound_dark (s := endCondition _) d

theorem execConverterOvervoltageStop_sound (e : execConverterOvervoltageStop s = .next t) (h : s.lamp.sound) : t.lamp.sound := by
  obtain rfl := Host.Outcome.next.inj e
  have k : (if s.sleep.power = .off then s else powerLost s).lamp.sound := by
    split
    · exact h
    · exact sound_dark (powerLost_dark s)
  exact k

theorem execConverterOvertempStop_sound (e : execConverterOvertempStop s = .next t) (h : s.lamp.sound) : t.lamp.sound := by
  obtain rfl := Host.Outcome.next.inj e
  have k : (if s.sleep.power = .off then s else powerLost s).lamp.sound := by
    split
    · exact h
    · exact sound_dark (powerLost_dark s)
  exact k

theorem execInternalSupplyFail_sound (e : execInternalSupplyFail s = .next t) (h : s.lamp.sound) : t.lamp.sound := by
  obtain rfl := Host.Outcome.next.inj e
  split
  · exact h
  · exact sound_dark (powerLost_dark s)

theorem rawKept_sound (a b : Bool) (h : s.lamp.sound) (x : a = true → s.pres.sealLoop.raw = true) (y : b = true → s.pres.debugJumper.raw = true) :
    ({ s with pres := { s.pres with sealLoop := { s.pres.sealLoop with raw := a }, debugJumper := { s.pres.debugJumper with raw := b } } } : State).lamp.sound := by
  refine ⟨fun k => h.1 ?_, h.2⟩
  have k' : (!(runsIn s.safe.state) || s.safe.hold || (a || s.pres.sealLoop.active || s.pres.sealLoop.fault) ||
    (b || s.pres.debugJumper.active || s.pres.debugJumper.fault) || s.safe.supplyOpen || s.safe.safeOffFault != 0) = true := k
  show (!(runsIn s.safe.state) || s.safe.hold || (s.pres.sealLoop.raw || s.pres.sealLoop.active || s.pres.sealLoop.fault) ||
    (s.pres.debugJumper.raw || s.pres.debugJumper.active || s.pres.debugJumper.fault) || s.safe.supplyOpen || s.safe.safeOffFault != 0) = true
  simp only [Bool.or_eq_true] at k' ⊢
  rcases k' with ((((k | k) | (k | k) | k) | (k | k) | k) | k) | k <;> simp_all

theorem execPresenceRawChange_sound (a b : Bool) (e : execPresenceRawChange a b s = .next t) (h : s.lamp.sound) : t.lamp.sound := by
  obtain rfl := Host.Outcome.next.inj e
  split
  · exact h
  · have k : ∀ (o : Bool) (u : State), (o = false → u.lamp.sound) → (if o then dropOutputs u else u).lamp.sound := by
      intro o u hu
      cases o
      · exact hu rfl
      · exact sound_dark rfl
    have z : ∀ (o : Bool) (u : State), u.safe.applied = 0 → (if o then dropOutputs u else u).safe.applied = 0 := by
      intro o u hu
      cases o
      · exact hu
      · rfl
    dsimp only
    split
    · next y =>
      have d : s.safe.applied = 0 := by
        refine dark_of_barred h ?_
        simp only [Bool.or_eq_true, Bool.and_eq_true] at y
        simp only [outputsBarred, sealHold, debugHold]
        rcases y with ⟨⟨_, y⟩, _⟩ | ⟨⟨_, y⟩, _⟩ <;> simp [y]
      exact endCondition_sound (z _ _ d)
    · refine k _ _ (fun o => rawKept_sound a b h ?_ ?_) <;> (intro x; simp [x] at o; simp [o])

theorem execSealOpened_sound (e : execSealOpened s = .next t) (h : s.lamp.sound) : t.lamp.sound := by
  obtain rfl := Host.Outcome.next.inj e
  split
  · exact h
  · exact sound_dark (dark_only (s := dropOutputs { s with pres := { s.pres with sealLoop := ⟨true, true, false⟩, sealOpen := true } }) rfl (by simp))

theorem afterClose_sound (h : s.lamp.sound) : (afterClose s).lamp.sound := sound_only h (by simp) (by simp)

theorem logWindow_sound (a b : Nat) (h : s.lamp.sound) : (logWindow s a b).lamp.sound := sound_only h (by simp) (by simp)

theorem logSeal_sound (a : Bool) (h : s.lamp.sound) : (logSeal s a).lamp.sound := sound_only h (by simp) (by simp)

theorem execSealClosed_sound (e : execSealClosed s = .next t) (h : s.lamp.sound) : t.lamp.sound := by
  obtain rfl := Host.Outcome.next.inj e
  have k : ∀ u : State, u.lamp.sound → (if s.pres.sealOpen then afterClose (logWindow (logSeal u false) 2 1) else u).lamp.sound := by
    intro u hu
    split
    · exact afterClose_sound (logWindow_sound _ _ (logSeal_sound _ hu))
    · exact hu
  refine k _ ?_
  split
  · next c =>
    have d : s.safe.applied = 0 := by
      refine dark_of_barred h ?_
      simp only [Bool.or_eq_true] at c
      simp only [outputsBarred, sealHold]
      rcases c with c | c <;> simp [c]
    exact sound_dark (s := endCondition _) d
  · refine ⟨fun b => h.1 ?_, h.2⟩
    simp [Lamp.barred, State.lamp, lampOf, State.part] at b ⊢
    rcases b with (((b | b) | b) | b) | b <;> simp_all

theorem execDebugJumperFitted_sound (e : execDebugJumperFitted s = .next t) (h : s.lamp.sound) : t.lamp.sound := by
  obtain rfl := Host.Outcome.next.inj e
  split
  · exact h
  · exact logWindow_sound _ _ (sound_dark rfl)

theorem execDebugJumperRemoved_sound (e : execDebugJumperRemoved s = .next t) (h : s.lamp.sound) : t.lamp.sound := by
  obtain rfl := Host.Outcome.next.inj e
  have k : ∀ u : State, u.lamp.sound → (if s.pres.debugOpen then dropSplit (afterClose (logWindow u 3 1)) else u).lamp.sound := by
    intro u hu
    split
    · exact dropSplit_sound (afterClose_sound (logWindow_sound _ _ hu))
    · exact hu
  refine k _ ?_
  split
  · next c =>
    have d : s.safe.applied = 0 := by
      refine dark_of_barred h ?_
      simp only [Bool.or_eq_true] at c
      simp only [outputsBarred, debugHold]
      rcases c with c | c <;> simp [c]
    exact sound_dark (s := endCondition _) d
  · refine ⟨fun b => h.1 ?_, h.2⟩
    simp [Lamp.barred, State.lamp, lampOf, State.part] at b ⊢
    rcases b with (((b | b) | b) | b) | b <;> simp_all

theorem execPresenceInputFault_sound (i : Nat) (e : execPresenceInputFault i s = .next t) (h : s.lamp.sound) : t.lamp.sound := by
  obtain rfl := Host.Outcome.next.inj e
  dsimp only
  have k : ∀ (c : Bool) (u : State), u.lamp.sound → (if c then afterClose u else u).lamp.sound := by
    intro c u hu
    split
    · exact afterClose_sound hu
    · exact hu
  split
  · exact h
  · split
    · split
      · exact h
      · exact k _ _ (logWindow_sound _ _ h)
    · split
      · exact h
      · exact k _ _ (logWindow_sound _ _ h)
    · split
      · exact h
      · exact k _ _ (sound_dark rfl)
    · split
      · exact h
      · split
        · exact dropSplit_sound (afterClose_sound (sound_dark rfl))
        · exact sound_dark rfl

theorem execPresenceFaultLift_sound (i : Nat) (e : execPresenceFaultLift i s = .next t) (h : s.lamp.sound) : t.lamp.sound := by
  obtain rfl := Host.Outcome.next.inj e
  split
  · exact h
  · exact h
  · split
    · exact h
    · next c =>
      have d : s.safe.applied = 0 := dark_of_barred h (by simp at c; simp [outputsBarred, sealHold, c])
      dsimp only
      split
      · exact sound_dark d
      · exact sound_dark (s := endCondition _) d
  · split
    · exact h
    · next c =>
      have d : s.safe.applied = 0 := dark_of_barred h (by simp at c; simp [outputsBarred, debugHold, c])
      dsimp only
      split
      · exact sound_dark d
      · exact sound_dark (s := endCondition _) d
  · exact h

theorem execMaintButtonPress_sound (e : execMaintButtonPress s = .next t) (h : s.lamp.sound) : t.lamp.sound := by
  obtain rfl := Host.Outcome.next.inj e
  split
  · exact h
  · refine sound_only (s := { s with pres := { s.pres with button := { s.pres.button with raw := true, active := true }, pressed := some s.clk } }) h (by simp) (by simp)

theorem execMaintButtonRelease_sound (m : Nat) (e : execMaintButtonRelease m s = .next t) (h : s.lamp.sound) : t.lamp.sound := by
  obtain rfl := Host.Outcome.next.inj e
  have k : ∀ u : State, u.lamp.sound → ({ u with pres := { u.pres with windowEnd := some (s.clk + 120000000000) } } : State).lamp.sound := fun _ x => x
  dsimp only
  split
  · exact h
  · split
    · exact sound_only (s := { s with pres := { s.pres with button := { s.pres.button with raw := false, active := false }, pressed := none } }) h (by simp) (by simp)
    · split
      · exact h
      · refine k _ ?_
        split
        · exact h
        · exact logWindow_sound _ _ h

theorem execMaintJumperFitted_sound (e : execMaintJumperFitted s = .next t) (h : s.lamp.sound) : t.lamp.sound := by
  obtain rfl := Host.Outcome.next.inj e
  split
  · exact h
  · exact logWindow_sound _ _ h

theorem execMaintJumperRemoved_sound (e : execMaintJumperRemoved s = .next t) (h : s.lamp.sound) : t.lamp.sound := by
  obtain rfl := Host.Outcome.next.inj e
  split
  · exact afterClose_sound (logWindow_sound _ _ h)
  · exact h

theorem execMaintWindowClose_sound (e : execMaintWindowClose s = .next t) (h : s.lamp.sound) : t.lamp.sound := by
  obtain rfl := Host.Outcome.next.inj e
  split
  · exact h
  · split
    · exact h
    · exact afterClose_sound (logWindow_sound _ _ h)

theorem sound_ite {c : Prop} [Decidable c] {a b : State} (x : a.lamp.sound) (y : b.lamp.sound) : (if c then a else b).lamp.sound := by
  split
  · exact x
  · exact y

theorem execManagementWatchdogExpiry_sound (e : execManagementWatchdogExpiry s = .next t) (h : s.lamp.sound) : t.lamp.sound := by
  obtain rfl := Host.Outcome.next.inj e
  split
  · exact h
  · exact sound_dark (beginReset_dark _ _)

theorem execResetNAsserted_sound (e : execResetNAsserted s = .next t) (h : s.lamp.sound) : t.lamp.sound := by
  obtain rfl := Host.Outcome.next.inj e
  split
  · exact h
  · exact sound_dark (beginReset_dark _ _)

theorem execResetCommand_sound (e : execResetCommand s = .next t) (h : s.lamp.sound) : t.lamp.sound := by
  obtain rfl := Host.Outcome.next.inj e
  split
  · exact h
  · split
    · exact sound_dark (beginReset_dark _ _)
    · exact h

theorem execTrialTimeout_sound (e : execTrialTimeout s = .next t) (h : s.lamp.sound) : t.lamp.sound := by
  obtain rfl := Host.Outcome.next.inj e
  split
  · exact sound_dark (beginReset_dark _ _)
  · exact h

theorem execLineKeepingEntry_sound (e : execLineKeepingEntry s = .next t) (h : s.lamp.sound) : t.lamp.sound := by
  obtain rfl := Host.Outcome.next.inj e
  have k : ∀ (u : State) (a : StartSt) (b : SleepSt), u.safe.applied = 0 → ({ u with start := a, sleep := b } : State).lamp.sound :=
    fun u a b x => sound_dark (s := { u with start := a, sleep := b }) x
  exact sound_ite (k _ _ _ (mgmtDown_dark s)) h

theorem execSleepEntry_sound (e : execSleepEntry s = .next t) (h : s.lamp.sound) : t.lamp.sound := by
  obtain rfl := Host.Outcome.next.inj e
  split
  · exact sound_dark (enterSleep_dark _ _)
  · exact h

theorem execFalseWake_sound (e : execFalseWake s = .next t) (h : s.lamp.sound) : t.lamp.sound := by
  obtain rfl := Host.Outcome.next.inj e
  split
  · exact h
  · exact sound_dark (enterSleep_dark _ _)

theorem execReady_sound (e : execReady s = .next t) (h : s.lamp.sound) : t.lamp.sound := by
  obtain rfl := Host.Outcome.next.inj e
  split
  · exact h
  · dsimp only
    have z : ∀ (a b : State), b.lamp.sound → (sendBanner (noteSafe a b)).lamp.sound :=
      fun a b hb => sound_only hb (by simp) (by simp)
    refine z _ _ ?_
    have r : ∀ (u : State), u.lamp.sound → (if u.safe.state = .halted then u else startScratch u).lamp.sound := by
      intro u hu
      split
      · exact hu
      · exact sound_dark (startScratch_dark _)
    refine r _ ?_
    have q : ∀ (u : State), u.lamp.sound → (if u.unplaced then report u 0x0901 19 u.upos [] else u).lamp.sound := by
      intro u hu
      split
      · exact sound_only hu (by simp) (by simp)
      · exact hu
    refine q _ ?_
    have w : ∀ (u : State), u.lamp.sound → (logStart (match u.cfg with | none => u | some c => loadTables u c)).lamp.sound := by
      intro u hu
      refine sound_only (s := match u.cfg with | none => u | some c => loadTables u c) ?_ (by simp) (by simp)
      split
      · exact hu
      · exact sound_lamp (loadTables_lamp _ _) hu
    refine w _ ?_
    have y : ∀ (a : HostSt) (b : StartSt) (c : ImageSt), (raiseInt { s with host := a, start := b, img := c } 12).lamp.sound :=
      fun a b c => sound_only (s := { s with host := a, start := b, img := c }) h (by simp) (by simp)
    exact y _ _ _

theorem execCommitMarkReceived_sound (c : Bytes) (e : execCommitMarkReceived c s = .next t) (h : s.lamp.sound) : t.lamp.sound := by
  obtain rfl := Host.Outcome.next.inj e
  split
  · exact h
  · split
    · exact sound_only h (by simp) (by simp)
    · have g : (ringGood s).lamp.sound := sound_only h (by simp) (by simp)
      generalize ringGood s = u at *
      have k : ∀ a : PairSt, (commitAll { u with pair := a }).lamp.sound := fun a => commitAll_sound (s := { u with pair := a }) g
      exact sound_ite (k _) g

theorem execFedCommitTimeout_sound (e : execFedCommitTimeout s = .next t) (h : s.lamp.sound) : t.lamp.sound := by
  obtain rfl := Host.Outcome.next.inj e
  split
  · exact commitAll_sound h
  · exact h

theorem execSkimCommit_sound (e : execSkimCommit s = .next t) (h : s.lamp.sound) : t.lamp.sound := by
  obtain rfl := Host.Outcome.next.inj e
  exact sound_ite (commitAll_sound h) h

theorem execSampleInstant_sound (i : SampleIn) (e : execSampleInstant i s = .next t) (h : s.lamp.sound) : t.lamp.sound := by
  obtain rfl := Host.Outcome.next.inj e
  split
  · exact h
  · dsimp only
    have h1 : (staysAwake (countCycle (advanceCycle s))).lamp.sound := sound_only h (by simp) (by simp)
    split
    · exact h1
    · exact sound_only (latchAll_sound i h1) (by simp) (by simp)

theorem execOutputInstant_sound (n : Nat) (e : execOutputInstant n s = .next t) (h : s.lamp.sound) : t.lamp.sound := by
  obtain rfl := Host.Outcome.next.inj e
  refine sound_only ?_ (drainPorts_only _ _ (by decide)) (drainPorts_only _ _ (by decide))
  split
  · exact h
  · exact sound_only (s := applySafe (reportIf (lateOutputs s n) s 0x0102 4 (s.cyc.shift / 1000 : Nat) []) n) (applySafe_sound _ n) (by simp) (by simp)

theorem execGrantExpiry_sound (e : execGrantExpiry s = .next t) (h : s.lamp.sound) : t.lamp.sound := by
  obtain rfl := Host.Outcome.next.inj e
  split
  · exact sound_dark (leaveRole_dark _)
  · exact h

theorem execHandoverSwitch_sound (e : execHandoverSwitch s = .next t) (h : s.lamp.sound) : t.lamp.sound := by
  obtain rfl := Host.Outcome.next.inj e
  split
  · exact h
  · split
    · exact h
    · split
      · exact sound_dark (leaveRole_dark _)
      · split
        · exact sound_only (s := renewWatchdog { s with pair := { s.pair with ilkOut := true } }) (sound_only (s := { s with pair := { s.pair with ilkOut := true } }) h (by simp) (by simp)) (by simp) (by simp)
        · exact h

theorem execHawkFence_sound (e : execHawkFence s = .next t) (h : s.lamp.sound) : t.lamp.sound := by
  obtain rfl := Host.Outcome.next.inj e
  split
  · exact sound_dark (leaveRole_dark _)
  · exact h

theorem execHawkRelease_sound (e : execHawkRelease s = .next t) (h : s.lamp.sound) : t.lamp.sound := by
  obtain rfl := Host.Outcome.next.inj e
  split
  · exact sound_dark (releaseHawk_dark _)
  · exact h

theorem execInterlockReadingChange_sound (a b : Nat) (e : execInterlockReadingChange a b s = .next t) (h : s.lamp.sound) : t.lamp.sound := by
  obtain rfl := Host.Outcome.next.inj e
  split
  · exact h
  · have k : ∀ a : PairSt, (noteIlk { s with pair := a }).lamp.sound :=
      fun a => sound_only (s := { s with pair := a }) h (by simp) (by simp)
    exact sound_ite (loseIlk_sound (k _)) (k _)

theorem execRoleWatchdogExpiry_sound (e : execRoleWatchdogExpiry s = .next t) (h : s.lamp.sound) : t.lamp.sound := by
  obtain rfl := Host.Outcome.next.inj e
  split
  · have k : ∀ a : PairSt, (loseIlk { s with pair := a }).lamp.sound := fun a => loseIlk_sound (s := { s with pair := a }) h
    split
    · exact k _
    · exact h
  · exact h

theorem execSwitchback_sound (e : execSwitchback s = .next t) (h : s.lamp.sound) : t.lamp.sound := by
  obtain rfl := Host.Outcome.next.inj e
  split
  · exact h
  · split
    · exact h
    · split
      · exact sound_dark (releaseHawk_dark _)
      · exact h

theorem execControlRecordReceived_sound (u i c : Nat) (b : Bytes) (e : execControlRecordReceived u i c b s = .next t) (h : s.lamp.sound) : t.lamp.sound := by
  obtain rfl := Host.Outcome.next.inj e
  have g : (ringGood s).lamp.sound := sound_only h (by simp) (by simp)
  refine sound_ite h (sound_ite (sound_only h (by simp) (by simp)) ?_)
  generalize ringGood s = s at *
  dsimp only
  refine sound_ite (sound_ite (sound_dark (becomeUnplaced_dark _)) g) (sound_ite g ?_)
  have k : ∀ v : State, v.lamp.sound → (if isStack v then hawkRecord v u b else v).lamp.sound := by
    intro v hv
    exact sound_ite (sound_only hv (by simp) (by simp)) hv
  have y : ∀ a : PairSt, (keepRecord { s with pair := a } u i c b).lamp.sound :=
    fun a => sound_only (s := { s with pair := a }) g (by simp) (by simp)
  have z : ∀ (v : State) (r : PeerRec), v.lamp.sound → (seeRelease v r).lamp.sound := fun v r hv => sound_only hv (by simp) (by simp)
  exact z _ _ (k _ (y _))

theorem windowWork_sound (u : State) (h : u.lamp.sound) : (withOwnTurn (roleGrants u)).lamp.sound :=
  sound_only (roleGrants_sound h) (withOwnTurn_only _ _ (by decide)) (withOwnTurn_only _ _ (by decide))

theorem execMessageWindowStart_sound (e : execMessageWindowStart s = .next t) (h : s.lamp.sound) : t.lamp.sound := by
  obtain rfl := Host.Outcome.next.inj e
  refine sound_ite h ?_
  have w := windowWork_sound s h
  generalize withOwnTurn (roleGrants s) = s1 at w
  dsimp only
  have w2 : (repeatFallback (issueNumbering (pollBurst s1 s1.cyc.plan))).lamp.sound := sound_only w (by simp) (by simp)
  generalize repeatFallback (issueNumbering (pollBurst s1 s1.cyc.plan)) = s2 at w2
  have z : ∀ (u : State) (k : Nat) (c : CycleSt), u.lamp.sound → ({ (sendGrant u k).1 with cyc := c } : State).lamp.sound :=
    fun u k c x => sound_lamp (s := (sendGrant u k).1) rfl (sound_lamp (s := u) (lamp_only (sendGrant_only _ _ _ (by decide)) (sendGrant_only _ _ _ (by decide))) x)
  exact z _ _ _ w2

theorem execHostRegisterWrite_sound (c : Word32) (w : List Word32) (b : Bool) (e : execHostRegisterWrite c w b s = .next t) (h : s.lamp.sound) : t.lamp.sound := by
  obtain rfl := Host.Outcome.next.inj e
  refine hostAccess_sound _ h ?_
  dsimp only
  have f : ∀ u : State, u.lamp.sound → (frameErr u).lamp.sound := fun u k => sound_only k (by simp) (by simp)
  have r : (if voidCommand c then frameErr s
      else if c.getLsbD 31 then hostWrites s (c.toNat % 16777216) w
      else emit (hostReads s (c.toNat % 16777216) (w.length - 1)).1
        [Out.host (if w.isEmpty then [] else 0 :: (hostReads s (c.toNat % 16777216) (w.length - 1)).2)]).lamp.sound :=
    sound_ite (f s h) (sound_ite (sound_lamp (hostWrites_lamp _ _ _) h) (sound_only h (by simp) (by simp)))
  exact sound_ite (f _ r) r

theorem execW1cBitWrite_sound (a : Nat) (w : Word32) (e : execW1cBitWrite a w s = .next t) (h : s.lamp.sound) : t.lamp.sound := by
  obtain rfl := Host.Outcome.next.inj e
  exact hostAccess_sound _ h (sound_lamp (hostWrite_lamp _ _ _) h)

theorem execOpComplexReset_sound (p : Packet) (e : execOpComplexReset p s = .next t) (h : s.lamp.sound) : t.lamp.sound := by
  obtain rfl := Host.Outcome.next.inj e
  refine serve_sound _ _ _ h (fun u hu => ?_)
  split
  · exact reply_sound _ _ _ hu
  · dsimp only
    exact sound_only (s := startScratch (clearCounts u)) (sound_dark (startScratch_dark _)) (by simp) (by simp)

theorem execOpCoreHalt_sound (p : Packet) (e : execOpCoreHalt p s = .next t) (h : s.lamp.sound) : t.lamp.sound := by
  obtain rfl := Host.Outcome.next.inj e
  refine serve_sound _ _ _ h (fun u hu => inSplit_sound _ _ hu (fun x => ?_))
  exact replyCount_sound _ (sound_lamp ((setSplit_lamp _ _).trans (coreNow_lamp _ _)) hu)

theorem execOpCoreRun_sound (p : Packet) (e : execOpCoreRun p s = .next t) (h : s.lamp.sound) : t.lamp.sound := by
  obtain rfl := Host.Outcome.next.inj e
  refine serve_sound _ _ _ h (fun u hu => inSplit_sound _ _ hu (fun x => ?_))
  exact replyCount_sound _ (sound_lamp ((setSplit_lamp _ _).trans (coreNow_lamp _ _)) hu)

theorem execOpCoreStep_sound (p : Packet) (e : execOpCoreStep p s = .next t) (h : s.lamp.sound) : t.lamp.sound := by
  obtain rfl := Host.Outcome.next.inj e
  refine serve_sound _ _ _ h (fun u hu => inSplit_sound _ _ hu (fun x => ?_))
  dsimp only
  split
  · exact reply_sound _ _ _ hu
  · exact replyCount_sound _ (sound_lamp ((setSplit_lamp _ _).trans ((coreRuns_lamp _).trans (coreNow_lamp _ _))) hu)

theorem execOpCoreRead_sound (p : Packet) (e : execOpCoreRead p s = .next t) (h : s.lamp.sound) : t.lamp.sound := by
  obtain rfl := Host.Outcome.next.inj e
  refine serve_sound _ _ _ h (fun u hu => inSplit_sound _ _ hu (fun x => ?_))
  dsimp only
  split
  · exact reply_sound _ _ _ hu
  · exact reply_sound _ _ _ (sound_lamp ((readCoreWords_lamp _ _ _).trans (coreNow_lamp _ _)) hu)

theorem execOpCoreWrite_sound (p : Packet) (e : execOpCoreWrite p s = .next t) (h : s.lamp.sound) : t.lamp.sound := by
  obtain rfl := Host.Outcome.next.inj e
  refine serve_sound _ _ _ h (fun u hu => inSplit_sound _ _ hu (fun x => ?_))
  dsimp only
  split
  · exact reply_sound _ _ _ hu
  · exact reply_sound _ _ _ (sound_lamp ((writeCoreWords_lamp _ _ _).trans (coreNow_lamp _ _)) hu)

theorem execOpRouteTransferFinish_sound (p : Packet) (e : execOpRouteTransferFinish p s = .next t) (h : s.lamp.sound) : t.lamp.sound := by
  obtain rfl := Host.Outcome.next.inj e
  exact serve_sound _ _ _ h (fun u hu => sound_lamp (finishTransfer_lamp _ _ _) hu)

theorem execOpScheduleEventTransferFinish_sound (p : Packet) (e : execOpScheduleEventTransferFinish p s = .next t) (h : s.lamp.sound) : t.lamp.sound := by
  obtain rfl := Host.Outcome.next.inj e
  exact serve_sound _ _ _ h (fun u hu => sound_lamp (finishTransfer_lamp _ _ _) hu)

theorem execOpEquationTransferFinish_sound (p : Packet) (e : execOpEquationTransferFinish p s = .next t) (h : s.lamp.sound) : t.lamp.sound := by
  obtain rfl := Host.Outcome.next.inj e
  exact serve_sound _ _ _ h (fun u hu => sound_lamp (finishTransfer_lamp _ _ _) hu)

theorem execOpImageTransferFinish_sound (p : Packet) (e : execOpImageTransferFinish p s = .next t) (h : s.lamp.sound) : t.lamp.sound := by
  obtain rfl := Host.Outcome.next.inj e
  exact serve_sound _ _ _ h (fun u hu => sound_lamp (finishTransfer_lamp _ _ _) hu)

theorem execOpProfileGateTransferFinish_sound (p : Packet) (e : execOpProfileGateTransferFinish p s = .next t) (h : s.lamp.sound) : t.lamp.sound := by
  obtain rfl := Host.Outcome.next.inj e
  exact serve_sound _ _ _ h (fun u hu => sound_lamp (finishTransfer_lamp _ _ _) hu)

theorem execOpSerialProgramTransferFinish_sound (p : Packet) (e : execOpSerialProgramTransferFinish p s = .next t) (h : s.lamp.sound) : t.lamp.sound := by
  obtain rfl := Host.Outcome.next.inj e
  exact serve_sound _ _ _ h (fun u hu => sound_lamp (finishTransfer_lamp _ _ _) hu)

theorem execOpOutputFaultClear_sound (p : Packet) (e : execOpOutputFaultClear p s = .next t) (h : s.lamp.sound) : t.lamp.sound := by
  obtain rfl := Host.Outcome.next.inj e
  refine serve_sound _ _ _ h (fun u hu => ?_)
  dsimp only
  split
  · exact reply_sound _ _ _ hu
  · exact reply_sound _ _ _ (sound_lamp (clearOutputFault_lamp _ _) hu)

theorem execOpRegisterWrite_sound (p : Packet) (e : execOpRegisterWrite p s = .next t) (h : s.lamp.sound) : t.lamp.sound := by
  obtain rfl := Host.Outcome.next.inj e
  refine serve_sound _ _ _ h (fun u hu => ?_)
  dsimp only
  split
  · exact reply_sound _ _ _ hu
  · refine reply_sound _ _ _ ?_
    split
    · exact sound_lamp (writeStatus_lamp _ _ _) hu
    · exact hu

theorem execOpRoleGrant_sound (p : Packet) (e : execOpRoleGrant p s = .next t) (h : s.lamp.sound) : t.lamp.sound := by
  obtain rfl := Host.Outcome.next.inj e
  refine serve_sound _ _ _ h (fun u hu => ?_)
  dsimp only
  split
  · exact reply_sound _ _ _ hu
  · split
    · exact reply_sound _ _ _ hu
    · exact reply_sound _ _ _ (receiveGrant_sound _ _ hu)

theorem execOpSplitEnter_sound (p : Packet) (e : execOpSplitEnter p s = .next t) (h : s.lamp.sound) : t.lamp.sound := by
  obtain rfl := Host.Outcome.next.inj e
  refine serve_sound _ _ _ h (fun u hu => ?_)
  split
  · exact reply_sound _ _ _ hu
  · split
    · exact reply_sound _ _ _ hu
    · split
      · exact reply_sound _ _ _ hu
      · dsimp only
        refine reply_sound _ _ _ ?_
        split
        · exact hu
        · exact noteSafe_sound (sound_dark (enterSplit_dark _ _))

theorem execOpSplitLeave_sound (p : Packet) (e : execOpSplitLeave p s = .next t) (h : s.lamp.sound) : t.lamp.sound := by
  obtain rfl := Host.Outcome.next.inj e
  refine serve_sound _ _ _ h (fun u hu => inSplit_sound _ _ hu (fun x => ?_))
  exact reply_sound _ _ _ (noteSafe_sound (sound_dark (startScratch_dark _)))

theorem execReplayComplete_sound (m : Bool) (c l : Nat) (e : execReplayComplete m c l s = .next t) (h : s.lamp.sound) : t.lamp.sound := by
  obtain rfl := Host.Outcome.next.inj e
  refine sound_ite h ?_
  have c : ∀ u : State, u.lamp.sound → (collectReplay u).lamp.sound := fun u hu => sound_only hu (by simp) (by simp)
  refine c _ (sound_foldl _ _ (fun u x k => sound_only k (by simp) (by simp)) ?_)
  exact sound_lamp (s := s) rfl h

end Sys2Proof.Machine
end

