-- ==== Sys2Proof/Laws/Session.lean ====
section
/-! SUPPORT. What serving a request does, once: a row whose turn has come runs its opcode on the state without the packet. -/

namespace Sys2Proof.Laws

open Sys2Proof Sys2Proof.Machine

/-- A row whose turn has come acts on the state without the packet. -/
theorem serve_now {s v : State} {op : Nat} {p : Packet} (act : State → State) (h : servedNow s op p v) :
    serve op p act s = act v := by
  obtain ⟨h1, h2, h3, rfl⟩ := h
  simp [serve, h1, h2, h3]

/-- An opcode that answers with a status and data, from the state that its action leads to. -/
theorem Replies.intro {i : Instr} {s v u : State} {op : Nat} {p : Packet} {act : State → State} {st : Nat} {d : Bytes}
    {P : State → Prop} (hv : servedNow s op p v) (he : exec i s = .next (serve op p act s))
    (ha : act v = reply u p st d) (hp : P u) : Replies i s p st d P :=
  ⟨u, by rw [he, serve_now act hv, ha], hp⟩

end Sys2Proof.Laws
end

