-- ==== Sys2Proof/WellFormed.lean ====
section
/-! DEFINITION. Which commands are well formed: every operand lies in the range that the spec gives the thing it names.
The meanings are total on ill-formed commands too; a command that names nothing the unit has changes nothing. -/

namespace Sys2Proof

def below (k n : Nat) : Bool := decide (n < k)
def between (lo hi n : Nat) : Bool := decide (lo ≤ n) && decide (n ≤ hi)
def word32 (n : Nat) : Bool := decide (n < 2 ^ 32)

/-- The header's field widths, and the longest payload (R46). -/
def Frame.wf (f : Frame) : Bool :=
  below 16 f.version && below 16 f.ftype && word32 f.topo && word32 f.cycle && below 65 f.srcPos && below 16 f.srcUnit &&
    below 16 f.line && below 65536 f.channel && below 65536 f.seq && word32 f.fragment && decide (f.payload.length ≤ 2020)

/-- A source (R86). -/
def Source.wf (x : Source) : Bool := below 65 x.pos && below 16 x.unit && below 2 x.line

/-- A session: addresses and ports of the vehicle network, channels of the train line (R446). -/
def Session.wf : Session → Bool
  | .host => true
  | .service => true
  | .vehicle ip port => word32 ip && below 65536 port
  | .line chan => below 65536 chan

/-- Header widths of R447; values of at most 16,384 parameter bytes. -/
def Packet.wf (p : Packet) : Bool :=
  p.sess.wf && below 16 p.cls && below 65536 p.opcode && below 65536 p.seq && word32 p.check &&
    p.items.all (fun t => below 65536 t.tag && decide (t.val.length ≤ 16380))

/-- The content that each lane compares (R330), of at most five lanes. -/
def lanesWf (l : List LaneCmp) : Bool :=
  decide (l.length ≤ 5) && (l.zip [38, 69, 45, 35, 9]).all (fun x => x.1.a < 2 ^ x.2 && x.1.b < 2 ^ x.2 && x.1.c < 2 ^ x.2)

/-- Edge intervals and rates of a tachometer; the supply in steps of 10 mV fits 16 bits. -/
def SampleIn.wf (x : SampleIn) : Bool := below 65536 x.supply

/-- Address bytes of a far key (R203, R213). -/
def FarKey.wf (k : FarKey) : Bool := below 16 k.domain && below 4 k.unit && decide (k.addr.length ≤ 12)

/-- An access unit of at most 16 bytes, or a 32-bit detail (R209, R235). -/
def FarAnswer.wf : FarAnswer → Bool
  | .ok data => decide (data.length ≤ 16)
  | .error detail => word32 detail
  | .timeout => true

/-- Addresses, protocol and ports (R271). -/
def IpIn.wf (d : IpIn) : Bool :=
  word32 d.src && word32 d.dst && below 256 d.proto && below 65536 d.sport && below 65536 d.dport && decide (d.payload.length ≤ 1480)

/-- Header widths and dataset lengths of R272. -/
def TrdpIn.wf (t : TrdpIn) : Bool :=
  below 65536 t.kind && below 65536 t.version && word32 t.etbTopo && word32 t.comId && word32 t.seq && word32 t.src &&
    below 65536 t.sport && word32 t.replyIp && word32 t.replyComId && below (2 ^ 128) t.session && word32 t.resultCode &&
    below 16 t.interface && decide (t.dataset.length ≤ 1432)

/-- A UDP response (R278). -/
def ChanResp.wf (r : ChanResp) : Bool :=
  word32 r.src && below 65536 r.sport && below 65536 r.dport && decide (r.data.length ≤ 1472)

/-- Identifier with its format in bit 31, the length that the code names, and the bytes (R302). -/
def CanIn.wf (m : CanIn) : Bool :=
  (below 2048 m.ident || between (2 ^ 31) (2 ^ 31 + 2 ^ 29 - 1) m.ident) && below 65 m.dlc && decide (m.data.length ≤ 64)

/-- F-code and address of 4 and 12 bits, at most 32 bytes (R293). -/
def MvbIn.wf (m : MvbIn) : Bool := below 16 m.fcode && below 4096 m.addr && decide (m.data.length ≤ 32)

/-- Code, subsystem 1 to 21, and a payload of 28 bytes, 24 with a measure (R426). -/
def EventIn.wf (e : EventIn) : Bool := below 65536 e.code && between 1 21 e.subsystem && decide (e.payload.length ≤ 28)

/-- The commands' operands. -/
def Instr.wf (i : Instr) : Bool :=
  match i with
  | .powerOnReset _ _ => true
  | .bankCheckComplete => true
  | .islandReady => true
  | .lineBRelayOpen _ => true
  | .ready => true
  | .scratchTestComplete _ => true
  | .resetNAsserted => true
  | .resetNReleased => true
  | .managementWatchdogExpiry => true
  | .internalSupplyFail => true
  | .powerFailWarning supply => below 65536 supply
  | .powerRestored => true
  | .holdBusLow => true
  | .safeOffReclose => true
  | .converterOvervoltageStop => true
  | .converterOvertempStop => true
  | .converterRestart _ _ => true
  | .supplyWarnSet => true
  | .supplyWarnClear => true
  | .tempWarnChange _ => true
  | .outputFeedLow feed => between 1 2 feed
  | .outputFeedRecovered feed => between 1 2 feed
  | .currentLimitExpiry output => between 1 8 output
  | .trainLineLinkUp _ _ _ _ _ => true
  | .trainLineLinkDown _ => true
  | .portUnassignedLink _ => true
  | .frameHeaderReceived _ hdr _ => decide (hdr.length = 24)
  | .frameReceived _ bytes _ => decide (bytes.length ≤ 4096)
  | .slotClose _ => true
  | .duplicateKeyExpiry => true
  | .relayedCopyReceived f => f.wf
  | .sampleInstant inp => inp.wf
  | .outputInstant n => word32 n
  | .cycleStartSend => true
  | .cycleStartDelivered _ f _ => f.wf
  | .cycleStartMissing => true
  | .holdoverEntry => true
  | .coastingEntry => true
  | .scheduleFetchComplete image => decide (image.length ≤ 32192)
  | .scheduleTableActivation => true
  | .joinComplete => true
  | .segmentPhaseOpen _ => true
  | .publicationSlotStart => true
  | .messageWindowStart => true
  | .pollDelivered _ f _ => f.wf
  | .pollReplySend => true
  | .supervisionSlotStart => true
  | .supervisionDelivered _ f => f.wf
  | .leadCycleWorkDone _ => true
  | .sourceFenced _ src => src.wf
  | .fenceLifted _ src => src.wf
  | .publicationDelivered _ f => f.wf
  | .nullDelivered _ f => f.wf
  | .probeDelivered _ f => f.wf
  | .claimDelivered _ f => f.wf
  | .censusRequestDelivered _ f => f.wf
  | .censusReplyDelivered _ f _ => f.wf
  | .numberingDelivered _ f => f.wf
  | .commitDelivered _ f => f.wf
  | .commitAckDelivered _ f => f.wf
  | .joinReportDelivered _ f => f.wf
  | .mergeClaimDelivered _ f => f.wf
  | .delayRequestDelivered _ f _ _ => f.wf
  | .delayResponseDelivered _ f _ => f.wf
  | .delayResponseTimeout _ => true
  | .messageFrameDelivered _ f => f.wf
  | .postedWriteMessage f => f.wf
  | .readRequestMessage f => f.wf
  | .readResponseMessage f => f.wf
  | .farErrorMessage f => f.wf
  | .announcementMessage f => f.wf
  | .semaphoreMessage f => f.wf
  | .remoteCommandMessage f => f.wf
  | .commandReplyMessage f => f.wf
  | .mirrorFallbackMessage f => f.wf
  | .remotePacketIncomplete chan tag => below 65536 chan && below 65536 tag
  | .settleEnd _ => true
  | .probeTimer => true
  | .claimRepeat => true
  | .claimWindowEnd => true
  | .censusReplySend => true
  | .censusRunClose => true
  | .censusRunStart => true
  | .waitingTimeout => true
  | .commitAckSend => true
  | .commitAckTimeout => true
  | .commitCycleAdoption => true
  | .lineBRetrain => true
  | .setoutNoAck => true
  | .leaseLapse _ => true
  | .absorbingTimeout _ => true
  | .vehicleAbsent pos => between 1 64 pos
  | .cabActiveChange _ => true
  | .boundaryLinkUp _ claim numbering => decide (claim.length ≤ 2020) && decide (numbering.length ≤ 2020)
  | .boundaryOpen => true
  | .eventTrainTimeFire index => below 512 index
  | .positionInvalid => true
  | .ptpSyncSend vport => between 1 16 vport
  | .ptpAnnounceSend vport => between 1 16 vport
  | .ptpDelayReqReceived vport seq requester _ => between 1 16 vport && below 65536 seq && decide (requester.length = 10)
  | .ptpAnnounceReceived vport => between 1 16 vport
  | .rtcSet => true
  | .skimCommit => true
  | .fedCommitTimeout => true
  | .skimReadHeldAnswer => true
  | .skimReadTimeout => true
  | .pinLeaseExpiry handle => below 65536 handle
  | .snapshotCopyComplete => true
  | .routeTableActivation => true
  | .resultHoldExpiry tag => between 1 65535 tag
  | .bridgeTimeoutExpiry tag => between 1 65535 tag
  | .bridgeMarkSend slot => below 64 slot
  | .senderRecordExpiry slot seq => below 64 slot && below 65536 seq
  | .readAheadExpiry route => below 1048576 route
  | .announcementRelease => true
  | .semaphoreLeaseExpiry sem => between 1 256 sem
  | .semaphoreWaitExpiry tag => between 1 65535 tag
  | .farBusLockTaken port => below 64 port
  | .farBusLockExpiry port => below 64 port
  | .lockWaitExpiry tag => between 1 65535 tag
  | .farTransactionComplete key answer => key.wf && answer.wf
  | .vportLinkUp v speed _ _ _ => between 1 16 v && below 3 speed
  | .vportLinkDown v => between 1 16 v
  | .vehicleFrameReceived v bytes _ => between 1 16 v && decide (bytes.length ≤ 2048)
  | .macEntryAgeing vlan mac => below 4096 vlan && below (2 ^ 48) mac
  | .gateEntryBoundary v => between 1 16 v
  | .gateListActivation v => between 1 16 v
  | .arpRequestReceived iface senderIp senderMac targetIp => below 16 iface && word32 senderIp && below (2 ^ 48) senderMac && word32 targetIp
  | .arpReplyReceived iface senderIp senderMac => below 16 iface && word32 senderIp && below (2 ^ 48) senderMac
  | .arpRetryTimer iface ip => below 16 iface && word32 ip
  | .arpEntryAgeing iface ip => below 16 iface && word32 ip
  | .gratuitousArpRepeat iface => below 16 iface
  | .ipDatagramReceived iface d => below 16 iface && d.wf
  | .trdpPublish _ => true
  | .trdpPrReceived t => t.wf
  | .trdpPdReceived t => t.wf
  | .trdpMrReceived t => t.wf
  | .trdpMnReceived t => t.wf
  | .trdpReplyReceived t => t.wf
  | .trdpReplyTimeout _ => true
  | .channelCyclicRequest ch => below 512 ch
  | .channelResponseReceived ch r => below 512 ch && r.wf
  | .channelReplyTimeout ch => below 512 ch
  | .channelOnDemandSend ch => below 512 ch
  | .channelFaultedPoll ch => below 512 ch
  | .channelResolved ch => below 512 ch
  | .ringDescriptorReturn chan _ => below 65536 chan
  | .stagingTimeout => true
  | .mvbBasicPeriod port => between 1 6 port
  | .mvbMasterFrameReceived port fcode addr _ => between 1 6 port && below 16 fcode && below 4096 addr
  | .mvbSlaveFrameReceived port m => between 1 6 port && m.wf
  | .serialBusCycleStart port => between 1 6 port
  | .serialTransactionHanded port => between 1 6 port
  | .canPortStart c => between 1 4 c
  | .canFrameReceived c m => between 1 4 c && m.wf
  | .pdoReceived c cobId data => between 1 4 c && word32 cobId && decide (data.length ≤ 8)
  | .heartbeatReceived c node state => between 1 4 c && between 1 127 node && below 128 state
  | .heartbeatTimeout c node => between 1 4 c && between 1 127 node
  | .bootWaitExpiry c node => between 1 4 c && between 1 127 node
  | .sdoResponseReceived c node data => between 1 4 c && between 1 127 node && decide (data.length ≤ 8)
  | .sdoTimeout c node => between 1 4 c && between 1 127 node
  | .emcyReceived c node data => between 1 4 c && between 1 127 node && decide (data.length ≤ 8)
  | .syncProduce c => between 1 4 c
  | .heartbeatProduce c => between 1 4 c
  | .canBusOff c => between 1 4 c
  | .busOffRecovery c => between 1 4 c
  | .fNop k => between 6 11 k
  | .fLdi k => between 6 11 k
  | .fLdh k => between 6 11 k
  | .fMov k => between 6 11 k
  | .fAdd k => between 6 11 k
  | .fAddi k => between 6 11 k
  | .fSub k => between 6 11 k
  | .fAnd k => between 6 11 k
  | .fOr k => between 6 11 k
  | .fXor k => between 6 11 k
  | .fShl k => between 6 11 k
  | .fShr k => between 6 11 k
  | .fLd k => between 6 11 k
  | .fSt k => between 6 11 k
  | .fLdb k => between 6 11 k
  | .fStb k => between 6 11 k
  | .fCmp k => between 6 11 k
  | .fCmpi k => between 6 11 k
  | .fTmr k => between 6 11 k
  | .fTta k => between 6 11 k
  | .fPta k => between 6 11 k
  | .fWait k => between 6 11 k
  | .fIn k => between 6 11 k
  | .fOut k => between 6 11 k
  | .fTget k => between 6 11 k
  | .fTput k => between 6 11 k
  | .fTend k => between 6 11 k
  | .fCrc k => between 6 11 k
  | .fFault k => between 0 15 k
  | .fTime k => between 6 11 k
  | .fBr k => between 6 11 k
  | .fLoop k => between 6 11 k
  | .floatRestart k => between 6 11 k
  | .floatTimerExpiry k => between 6 11 k
  | .lineSilence port => between 1 6 port
  | .serialByteReceived port _ _ _ => between 1 6 port
  | .transmitDrained port => between 1 6 port
  | .trainTimeTargetReached k => between 6 11 k
  | .programTakeForce target => between 1 6 target || between 16 31 target
  | .minorityDetected core lane _ parity => between 1 3 core && lanesWf lane && decide (parity.length ≤ 5)
  | .noMajority lane _ parity => lanesWf lane && decide (parity.length ≤ 5)
  | .comparatorFault lane _ => lanesWf lane
  | .checkpointWriteComplete => true
  | .resyncComplete _ => true
  | .restartComplete => true
  | .tcmScrub core _ outcome => between 1 3 core && between 1 2 outcome
  | .replayComplete _ _ lane => below 16 lane
  | .inputComparatorDisagree input => between 1 16 input
  | .inputFaultClear input => between 1 16 input
  | .outputPulseTest output _ => between 1 8 output
  | .controlRecordReceived unit _ cycle content => between 1 4 unit && word32 cycle && decide (content.length ≤ 2020)
  | .commitMarkReceived content => decide (content.length ≤ 2020)
  | .safetyStateRecord skim part parts content => word32 skim && below 256 part && between 1 255 parts && decide (content.length ≤ 2020)
  | .outputImageRecord skim part parts content => word32 skim && below 256 part && between 1 255 parts && decide (content.length ≤ 2020)
  | .writesAndForcesRecord skim part parts content => word32 skim && below 256 part && between 1 255 parts && decide (content.length ≤ 2020)
  | .portTrafficRecord fromUnit skim part parts content => between 1 4 fromUnit && word32 skim && below 256 part && between 1 255 parts && decide (content.length ≤ 2020)
  | .peerSegmentDown seg => between 1 2 seg
  | .interlockReadingChange ilkIn ownLoop => below 5 ilkIn && below 3 ownLoop
  | .interlockSettle => true
  | .ilkFaultSet => true
  | .ilkFaultClear => true
  | .roleWatchdogExpiry => true
  | .roleTakeover => true
  | .handoverSwitch => true
  | .switchback => true
  | .grantExpiry => true
  | .hawkFence => true
  | .hawkClaim => true
  | .hawkTake => true
  | .hawkRelease => true
  | .coldTakeoverEnd => true
  | .gapRepeatEnd => true
  | .wakePulseQualified _ => true
  | .wakePulseEnd => true
  | .refractoryEnd => true
  | .wakeWireStuck _ => true
  | .wakeWireReleased _ => true
  | .tc10WakeReceived link => between 1 6 link
  | .tc10SleepTimeout link => between 1 6 link
  | .wakeInputActive input => between 1 16 input
  | .alarmFire index => below 8 index
  | .alarmHoldEnd index => below 8 index
  | .commandHoldEnd => true
  | .pointOfNoReturn => true
  | .sleepEntry => true
  | .sleepEntryComplete => true
  | .falseWake => true
  | .wakeSourceUnmasked source => between 1 16 source
  | .wakeInputStuck input => between 1 16 input
  | .wakeInputUnstuck input => between 1 16 input
  | .lineKeepingEntry => true
  | .lineKeepingExit source => between 1 16 source
  | .maxAwakeExpiry => true
  | .eventReported e => e.wf
  | .tokenRefill code => below 65536 code
  | .recorderFlush _ => true
  | .recorderDegraded => true
  | .summaryPeriodEnd => true
  | .sessionIdle sess => sess.wf
  | .transferIdle kind _ => below 256 kind
  | .replyKeepExpiry sess seq => sess.wf && below 65536 seq
  | .opIdentity p => p.wf
  | .opStatus p => p.wf
  | .opTime p => p.wf
  | .opSkimRead p => p.wf
  | .opSkimWrite p => p.wf
  | .opSkimDescriptor p => p.wf
  | .opPinTake p => p.wf
  | .opPinRenew p => p.wf
  | .opPinRelease p => p.wf
  | .opForce p => p.wf
  | .opForceRelease p => p.wf
  | .opSnapshotTake p => p.wf
  | .opSnapshotRead p => p.wf
  | .opSnapshotLock p => p.wf
  | .opSnapshotUnlock p => p.wf
  | .opRouteRead p => p.wf
  | .opRouteEdit p => p.wf
  | .opRouteStatus p => p.wf
  | .opRouteTransferBegin p => p.wf
  | .opRouteTransferChunk p => p.wf
  | .opRouteTransferFinish p => p.wf
  | .opRouteDiscardStaged p => p.wf
  | .opCycleStatus p => p.wf
  | .opScheduleRead p => p.wf
  | .opStep p => p.wf
  | .opEventRead p => p.wf
  | .opScheduleEventTransferBegin p => p.wf
  | .opScheduleEventTransferChunk p => p.wf
  | .opScheduleEventTransferFinish p => p.wf
  | .opSetoutTable p => p.wf
  | .opSetoutStatus p => p.wf
  | .opRenumber p => p.wf
  | .opFarNumbering p => p.wf
  | .opPowerStatus p => p.wf
  | .opStayAwake p => p.wf
  | .opWakeAll p => p.wf
  | .opAlarmRead p => p.wf
  | .opAlarmWrite p => p.wf
  | .opHoldersRead p => p.wf
  | .opHoldersClear p => p.wf
  | .opPairStatus p => p.wf
  | .opHandover p => p.wf
  | .opRoleGrant p => p.wf
  | .opSafeStatusRead p => p.wf
  | .opMismatchLog p => p.wf
  | .opComplexReset p => p.wf
  | .opOutputFaultClear p => p.wf
  | .opEquationStatus p => p.wf
  | .opEquationTransferBegin p => p.wf
  | .opEquationTransferChunk p => p.wf
  | .opEquationTransferFinish p => p.wf
  | .opRecorderRead p => p.wf
  | .opRecorderStats p => p.wf
  | .opRecorderStatus p => p.wf
  | .opImageStatus p => p.wf
  | .opImageTransferBegin p => p.wf
  | .opImageTransferChunk p => p.wf
  | .opImageTransferFinish p => p.wf
  | .opImageActivate p => p.wf
  | .opImageRollback p => p.wf
  | .opKeyEnrol p => p.wf
  | .opVportStatus p => p.wf
  | .opChannelRead p => p.wf
  | .opChannelWrite p => p.wf
  | .opProfileGateTransferBegin p => p.wf
  | .opProfileGateTransferChunk p => p.wf
  | .opProfileGateTransferFinish p => p.wf
  | .opFieldStatus p => p.wf
  | .opCanopenNodes p => p.wf
  | .opSerialProgramTransferBegin p => p.wf
  | .opSerialProgramTransferChunk p => p.wf
  | .opSerialProgramTransferFinish p => p.wf
  | .opPostedWrite p => p.wf
  | .opRead p => p.wf
  | .opRetry p => p.wf
  | .opLockedSequence p => p.wf
  | .opSemaphore p => p.wf
  | .opEndpointOpen p => p.wf
  | .opEndpointClose p => p.wf
  | .opErrorLog p => p.wf
  | .opRemoteCommand p => p.wf
  | .opRegisterRead p => p.wf
  | .opRegisterWrite p => p.wf
  | .opCx320Counters p => p.wf
  | .opSplitEnter p => p.wf
  | .opSplitLeave p => p.wf
  | .opCoreHalt p => p.wf
  | .opCoreStep p => p.wf
  | .opCoreRun p => p.wf
  | .opCoreRead p => p.wf
  | .opCoreWrite p => p.wf
  | .opReplay p => p.wf
  | .cmdCtrlWrite _ => true
  | .replyCtrlWrite _ => true
  | .intStatusWrite _ => true
  | .intMaskWrite _ => true
  | .trainTimeHiRead => true
  | .rcFieldRead address => below 16777216 address && decide (address % 4 = 0)
  | .w1cBitWrite address _ => below 16777216 address && decide (address % 4 = 0)
  | .hostRingReadIndexWrite _ => true
  | .hostRegisterWrite _ _ _ => true
  | .maintButtonPress => true
  | .maintButtonRelease _ => true
  | .maintWindowClose => true
  | .maintJumperFitted => true
  | .maintJumperRemoved => true
  | .presenceRawChange _ _ => true
  | .sealOpened => true
  | .sealClosed => true
  | .debugJumperFitted => true
  | .debugJumperRemoved => true
  | .presenceInputFault input => below 4 input
  | .presenceFaultLift input => below 4 input
  | .trialConfirmed => true
  | .trialTimeout => true
  | .monitorLine => true
  | .monHelp => true
  | .monBaud _ => true
  | .monPacket => true
  | .packetModeFrame _ => true
  | .packetByteTimeout => true
  | .packetModeEnd => true
  | .peerSegmentLinkUp seg _ => between 1 2 seg
  | .resetCommand => true
  | .noFirmwareLine => true
  | .monitorCharacterReceived _ => true

end Sys2Proof
end

