-- ==== Sys2Proof/Tests/Slice0.lean ====
section
/-! SUPPORT. Tests: the spec's worked examples, the terms that the well-formedness checks refuse, and for every statement of
Certificates/Slice0/Obligations.lean that has premises a concrete state and operands that meet them (`meets_…`). -/

set_option Elab.async false

namespace Sys2Proof.Machine

/-! ### The spec's worked examples -/

/-- Signal ids of spec file 00: slot 5 local 0x1F00, and 0x0012_0040 of slot 9 (R167). -/
theorem test_signal_ids : 5 * 131072 + 0x1F00 = 0xA1F00 ∧ sigSlot 0x000A1F00 = 5 ∧ sigSlot 0x00120040 = 9 ∧ sigSlot 0x00060101 = 3 := by decide

/-- The cycle wrap of spec file 00 (R12). -/
theorem test_cycle_wrap : cycDiff 1 0xFFFFFFFE = 3 ∧ cycBefore 0xFFFFFFFE 1 = true ∧ cycBefore 1 0xFFFFFFFE = false := by decide

/-- The check values that R47, R50 and R362 state over "123456789". -/
theorem test_check_values :
    crc16 [0x31, 0x32, 0x33, 0x34, 0x35, 0x36, 0x37, 0x38, 0x39] = 0x29B1 ∧
    crc32 [0x31, 0x32, 0x33, 0x34, 0x35, 0x36, 0x37, 0x38, 0x39] = 0xCBF43926 ∧
    crc32c [0x31, 0x32, 0x33, 0x34, 0x35, 0x36, 0x37, 0x38, 0x39] = 0xE3069283 := by decide +kernel

/-- N vehicles of weight 100 on a 4 ms cycle at 2.5 Gb/s. -/
def exampleSlots (n : Nat) : List Slot :=
  pubLayout (zeros 32 ++ (List.replicate 64 (be 2 100)).flatten) ((List.range n).map (fun v => ⟨v + 1, v + 1, v, false, false, false, 1, 0⟩))
    0 2000 true 2400000 100000

/-- The slots of spec file 03: 61,875 wire bytes of 198 µs, vehicle p from 100 + (p − 1) × 200 µs (R76). -/
theorem test_twelve_slots : (exampleSlots 12).map (fun x => (x.bytes, x.t, x.start)) =
    (List.range 12).map (fun i => (61875, 198000, ((100000 + 200000 * i : Nat) : Int))) := by decide +kernel

/-- The slot of spec file 23: 30,625 wire bytes for each of 24 vehicles. -/
theorem test_twenty_four_slots : (exampleSlots 24).all (fun x => x.bytes == 30625) = true := by decide +kernel

/-- The exchange of spec file 05: 30 ns ahead on a link of 100 ns (R142). -/
theorem test_delay_exchange : exchangeResult 5000000030 5000000100 5000004000 5000004130 = some (-30, 100) := by decide

/-- The costs of the equation of spec file 13: 13,450 ns in all (R359). -/
theorem test_equation_cost :
    ([0x02, 0x05, 0x15, 0x10, 0x03, 0x10, 0x06, 0x12, 0x10].map (fun t => termCost [t])).sum + 150 = 13450 := by decide

/-- The scale of spec file 07: a raw 2,624 times 10/128 is 205. -/
theorem test_route_scale : numToInt (mulNum (numOfInt 0x0A40) (decode32 0x3DA00000)) = some 205 := by decide +kernel

/-- A serial frame that includes its CRC yields 0 (spec file 11): one request of 6 bytes. -/
theorem test_float_crc :
    (let c := [1, 3, 0, 40].foldl (fun v b => fCrcOf 0 v (BitVec.ofNat 8 b)) 0xFFFF
     [c % 256, c / 256].foldl (fun v b => fCrcOf 0 v (BitVec.ofNat 8 b)) c) = 0 := by decide +kernel

/-- The packet of spec file 17: 24 bytes whose parameter is the id 0x0012_0040; its reply's header has `REPLY` set and a
parameter length of 52 (R447 to R449). -/
theorem test_packet_example :
    parseItems 8 [0x00, 0x03, 0x00, 0x04, 0x00, 0x12, 0x00, 0x40] = some [⟨3, [0x00, 0x12, 0x00, 0x40]⟩] ∧
    (replyOf [0x10, 0x02, 0x01, 0x00, 0x07, 0x00, 0x00] 0 (zeros 48)).length = 68 ∧
    (replyOf [0x10, 0x02, 0x01, 0x00, 0x07, 0x00, 0x00] 0 (zeros 48)).take 9 = [0x10, 0x02, 0x01, 0x00, 0x07, 0x80, 0x00, 0x00, 0x34] := by
  decide +kernel

/-- One step from reset: the supply comes up on a unit coded 101, which is unit 2 (R372). -/
theorem test_power_on : (match step { State.reset with pending := [.powerOnReset 5 false] } with
    | .next t => t.unitNo == 2 && t.pending.isEmpty && t.start.boot == .powered | _ => false) = true := by decide +kernel

/-- No row spells words (log entry 5). -/
theorem test_no_words : Sys2Proof.decodeTableWord 16 0 = none ∧ State.reset.withFetchWord 16 0 = State.reset := ⟨rfl, rfl⟩

/-! ### Well-formedness: the terms that the checks refuse, and the same terms in range -/

def wfFrame : Frame := ⟨1, 1, 0, 0, 0, 1, 1, 0, 0, 0, 0, []⟩
def wfPacket : Packet := ⟨.host, 0, 0x0101, 0, 0, [], 0, 0⟩
def wfTach : TachIn := ⟨0, none, 0, false, false⟩
def wfSample : SampleIn := ⟨0, wfTach, wfTach, 0, 0, 0, 0, 2400, 20⟩
def wfIp : IpIn := ⟨1, 2, 17, false, true, false, 3, 4, []⟩
def wfTrdp : TrdpIn := ⟨0x5064, true, 0x0100, 0, 1, 1, 1, 17224, 0, 0, 0, 0, 0, []⟩
def wfMvb : MvbIn := ⟨1, 2, [], false, false, false, true, false, false⟩

def wfLane : LaneCmp := ⟨0, 0, 0, 0, 0, 0, 0⟩

def refused (l : List Instr) : Bool := l.all (fun i => !i.wf)
def accepted (l : List Instr) : Bool := l.all Instr.wf

theorem test_wf_refuses_1 : refused
    [.powerFailWarning 65536, .outputFeedLow 3, .outputFeedLow 0, .outputFeedRecovered 3, .outputFeedRecovered 0,
     .currentLimitExpiry 9, .currentLimitExpiry 0, .relayedCopyReceived { wfFrame with ftype := 16 },
     .sampleInstant { wfSample with supply := 65536 }, .outputInstant (2 ^ 32),
     .cycleStartDelivered .a1 { wfFrame with ftype := 16 } 0, .pollDelivered .a1 { wfFrame with ftype := 16 } 0,
     .supervisionDelivered .a1 { wfFrame with ftype := 16 }, .sourceFenced .a1 ⟨65, 1, 0⟩,
     .fenceLifted .a1 ⟨65, 1, 0⟩, .publicationDelivered .a1 { wfFrame with ftype := 16 },
     .nullDelivered .a1 { wfFrame with ftype := 16 }, .probeDelivered .a1 { wfFrame with ftype := 16 },
     .claimDelivered .a1 { wfFrame with ftype := 16 }, .censusRequestDelivered .a1 { wfFrame with ftype := 16 },
     .censusReplyDelivered .a1 { wfFrame with ftype := 16 } 0,
     .numberingDelivered .a1 { wfFrame with ftype := 16 }, .commitDelivered .a1 { wfFrame with ftype := 16 },
     .commitAckDelivered .a1 { wfFrame with ftype := 16 }] = true := by decide +kernel

theorem test_wf_refuses_2 : refused
    [.joinReportDelivered .a1 { wfFrame with ftype := 16 }, .mergeClaimDelivered .a1 { wfFrame with ftype := 16 },
     .delayRequestDelivered .a1 { wfFrame with ftype := 16 } 0 0,
     .delayResponseDelivered .a1 { wfFrame with ftype := 16 } 0,
     .messageFrameDelivered .a1 { wfFrame with ftype := 16 }, .postedWriteMessage { wfFrame with ftype := 16 },
     .readRequestMessage { wfFrame with ftype := 16 }, .readResponseMessage { wfFrame with ftype := 16 },
     .farErrorMessage { wfFrame with ftype := 16 }, .announcementMessage { wfFrame with ftype := 16 },
     .semaphoreMessage { wfFrame with ftype := 16 }, .remoteCommandMessage { wfFrame with ftype := 16 },
     .commandReplyMessage { wfFrame with ftype := 16 }, .mirrorFallbackMessage { wfFrame with ftype := 16 },
     .remotePacketIncomplete 65536 0, .remotePacketIncomplete 0 65536, .vehicleAbsent 65, .vehicleAbsent 0,
     .eventTrainTimeFire 512, .ptpSyncSend 17, .ptpSyncSend 0, .ptpAnnounceSend 17, .ptpAnnounceSend 0,
     .ptpDelayReqReceived 17 0 (zeros 10) 0] = true := by decide +kernel

theorem test_wf_refuses_3 : refused
    [.ptpDelayReqReceived 0 0 (zeros 10) 0, .ptpDelayReqReceived 1 65536 (zeros 10) 0, .ptpAnnounceReceived 17,
     .ptpAnnounceReceived 0, .pinLeaseExpiry 65536, .resultHoldExpiry 65536, .resultHoldExpiry 0,
     .bridgeTimeoutExpiry 65536, .bridgeTimeoutExpiry 0, .bridgeMarkSend 64, .senderRecordExpiry 64 0,
     .senderRecordExpiry 0 65536, .readAheadExpiry 1048576, .semaphoreLeaseExpiry 257, .semaphoreLeaseExpiry 0,
     .semaphoreWaitExpiry 65536, .semaphoreWaitExpiry 0, .farBusLockTaken 64, .farBusLockExpiry 64,
     .lockWaitExpiry 65536, .lockWaitExpiry 0, .farTransactionComplete ⟨16, 0, []⟩ .timeout,
     .farTransactionComplete ⟨2, 0, []⟩ (.error (2 ^ 32)), .vportLinkUp 17 0 false false false] = true := by decide +kernel

theorem test_wf_refuses_4 : refused
    [.vportLinkUp 0 0 false false false, .vportLinkUp 1 3 false false false, .vportLinkDown 17, .vportLinkDown 0,
     .vehicleFrameReceived 17 [] false, .vehicleFrameReceived 0 [] false, .macEntryAgeing 4096 0,
     .macEntryAgeing 0 (2 ^ 48), .gateEntryBoundary 17, .gateEntryBoundary 0, .gateListActivation 17,
     .gateListActivation 0, .arpRequestReceived 16 0 0 0, .arpRequestReceived 0 (2 ^ 32) 0 0,
     .arpRequestReceived 0 0 (2 ^ 48) 0, .arpRequestReceived 0 0 0 (2 ^ 32), .arpReplyReceived 16 0 0,
     .arpReplyReceived 0 (2 ^ 32) 0, .arpReplyReceived 0 0 (2 ^ 48), .arpRetryTimer 16 0,
     .arpRetryTimer 0 (2 ^ 32), .arpEntryAgeing 16 0, .arpEntryAgeing 0 (2 ^ 32), .gratuitousArpRepeat 16] = true := by decide +kernel

theorem test_wf_refuses_5 : refused
    [.ipDatagramReceived 16 wfIp, .ipDatagramReceived 0 { wfIp with proto := 256 },
     .trdpPrReceived { wfTrdp with interface := 16 }, .trdpPdReceived { wfTrdp with interface := 16 },
     .trdpMrReceived { wfTrdp with interface := 16 }, .trdpMnReceived { wfTrdp with interface := 16 },
     .trdpReplyReceived { wfTrdp with interface := 16 }, .channelCyclicRequest 512,
     .channelResponseReceived 512 ⟨0, 0, 0, []⟩, .channelResponseReceived 0 ⟨2 ^ 32, 0, 0, []⟩,
     .channelReplyTimeout 512, .channelOnDemandSend 512, .channelFaultedPoll 512, .channelResolved 512,
     .ringDescriptorReturn 65536 0, .mvbBasicPeriod 7, .mvbBasicPeriod 0, .mvbMasterFrameReceived 7 0 0 false,
     .mvbMasterFrameReceived 0 0 0 false, .mvbMasterFrameReceived 1 16 0 false,
     .mvbMasterFrameReceived 1 0 4096 false, .mvbSlaveFrameReceived 7 wfMvb, .mvbSlaveFrameReceived 0 wfMvb,
     .mvbSlaveFrameReceived 1 { wfMvb with fcode := 16 }] = true := by decide +kernel

theorem test_wf_refuses_6 : refused
    [.serialBusCycleStart 7, .serialBusCycleStart 0, .serialTransactionHanded 7, .serialTransactionHanded 0,
     .canPortStart 5, .canPortStart 0, .canFrameReceived 5 ⟨0, false, 0, [], false⟩,
     .canFrameReceived 0 ⟨0, false, 0, [], false⟩, .canFrameReceived 1 ⟨2048, false, 0, [], false⟩,
     .pdoReceived 5 0 [], .pdoReceived 0 0 [], .pdoReceived 1 (2 ^ 32) [], .heartbeatReceived 5 1 0,
     .heartbeatReceived 0 1 0, .heartbeatReceived 1 128 0, .heartbeatReceived 1 0 0, .heartbeatReceived 1 1 128,
     .heartbeatTimeout 5 1, .heartbeatTimeout 0 1, .heartbeatTimeout 1 128, .heartbeatTimeout 1 0,
     .bootWaitExpiry 5 1, .bootWaitExpiry 0 1, .bootWaitExpiry 1 128] = true := by decide +kernel

theorem test_wf_refuses_7 : refused
    [.bootWaitExpiry 1 0, .sdoResponseReceived 5 1 [], .sdoResponseReceived 0 1 [], .sdoResponseReceived 1 128 [],
     .sdoResponseReceived 1 0 [], .sdoTimeout 5 1, .sdoTimeout 0 1, .sdoTimeout 1 128, .sdoTimeout 1 0,
     .emcyReceived 5 1 [], .emcyReceived 0 1 [], .emcyReceived 1 128 [], .emcyReceived 1 0 [], .syncProduce 5,
     .syncProduce 0, .heartbeatProduce 5, .heartbeatProduce 0, .canBusOff 5, .canBusOff 0, .busOffRecovery 5,
     .busOffRecovery 0, .fNop 12, .fNop 5, .fLdi 12] = true := by decide +kernel

theorem test_wf_refuses_8 : refused
    [.fLdi 5, .fLdh 12, .fLdh 5, .fMov 12, .fMov 5, .fAdd 12, .fAdd 5, .fAddi 12, .fAddi 5, .fSub 12, .fSub 5,
     .fAnd 12, .fAnd 5, .fOr 12, .fOr 5, .fXor 12, .fXor 5, .fShl 12, .fShl 5, .fShr 12, .fShr 5, .fLd 12, .fLd 5,
     .fSt 12] = true := by decide +kernel

theorem test_wf_refuses_9 : refused
    [.fSt 5, .fLdb 12, .fLdb 5, .fStb 12, .fStb 5, .fCmp 12, .fCmp 5, .fCmpi 12, .fCmpi 5, .fTmr 12, .fTmr 5,
     .fTta 12, .fTta 5, .fPta 12, .fPta 5, .fWait 12, .fWait 5, .fIn 12, .fIn 5, .fOut 12, .fOut 5, .fTget 12,
     .fTget 5, .fTput 12] = true := by decide +kernel

theorem test_wf_refuses_10 : refused
    [.fTput 5, .fTend 12, .fTend 5, .fCrc 12, .fCrc 5, .fFault 16, .fTime 12, .fTime 5, .fBr 12, .fBr 5,
     .fLoop 12, .fLoop 5, .floatRestart 12, .floatRestart 5, .floatTimerExpiry 12, .floatTimerExpiry 5,
     .lineSilence 7, .lineSilence 0, .serialByteReceived 7 0 false false, .serialByteReceived 0 0 false false,
     .transmitDrained 7, .transmitDrained 0, .trainTimeTargetReached 12] = true := by decide +kernel

theorem test_wf_refuses_11 : refused
    [.trainTimeTargetReached 5, .programTakeForce 7, .programTakeForce 0, .programTakeForce 32,
     .programTakeForce 15, .minorityDetected 4 [] 0 [], .minorityDetected 0 [] 0 [],
     .minorityDetected 1 (List.replicate 6 wfLane) 0 [], .minorityDetected 1 [] 0 [0, 0, 0, 0, 0, 0],
     .noMajority [{ wfLane with a := 2 ^ 38 }] 0 [], .noMajority [] 0 [0, 0, 0, 0, 0, 0],
     .comparatorFault [wfLane, wfLane, wfLane, wfLane, { wfLane with c := 512 }] 0, .tcmScrub 4 0 1,
     .tcmScrub 0 0 1, .tcmScrub 1 0 3, .tcmScrub 1 0 0, .replayComplete false 0 16, .inputComparatorDisagree 17,
     .inputComparatorDisagree 0, .inputFaultClear 17, .inputFaultClear 0, .outputPulseTest 9 false,
     .outputPulseTest 0 false, .controlRecordReceived 5 0 0 [], .controlRecordReceived 0 0 0 [],
     .controlRecordReceived 1 0 (2 ^ 32) []] = true := by decide +kernel

theorem test_wf_refuses_12 : refused
    [.safetyStateRecord (2 ^ 32) 0 1 [], .safetyStateRecord 0 256 1 [], .safetyStateRecord 0 0 256 [],
     .safetyStateRecord 0 0 0 [], .outputImageRecord (2 ^ 32) 0 1 [], .outputImageRecord 0 256 1 [],
     .outputImageRecord 0 0 256 [], .outputImageRecord 0 0 0 [], .writesAndForcesRecord (2 ^ 32) 0 1 [],
     .writesAndForcesRecord 0 256 1 [], .writesAndForcesRecord 0 0 256 [], .writesAndForcesRecord 0 0 0 [],
     .portTrafficRecord 5 0 0 1 [], .portTrafficRecord 0 0 0 1 [], .portTrafficRecord 1 (2 ^ 32) 0 1 [],
     .portTrafficRecord 1 0 256 1 [], .portTrafficRecord 1 0 0 256 [], .portTrafficRecord 1 0 0 0 [],
     .peerSegmentDown 3, .peerSegmentDown 0, .interlockReadingChange 5 0, .interlockReadingChange 0 3,
     .tc10WakeReceived 7, .tc10WakeReceived 0] = true := by decide +kernel

theorem test_wf_refuses_13 : refused
    [.tc10SleepTimeout 7, .tc10SleepTimeout 0, .wakeInputActive 17, .wakeInputActive 0, .alarmFire 8,
     .alarmHoldEnd 8, .wakeSourceUnmasked 17, .wakeSourceUnmasked 0, .wakeInputStuck 17, .wakeInputStuck 0,
     .wakeInputUnstuck 17, .wakeInputUnstuck 0, .lineKeepingExit 17, .lineKeepingExit 0,
     .eventReported ⟨1, 22, 0, []⟩, .tokenRefill 65536, .sessionIdle (.line 65536), .transferIdle 256 0,
     .replyKeepExpiry (.line 65536) 0, .replyKeepExpiry .host 65536, .opIdentity { wfPacket with cls := 16 },
     .opStatus { wfPacket with cls := 16 }, .opTime { wfPacket with cls := 16 }, .rcFieldRead 16777216] = true := by decide +kernel

theorem test_wf_refuses_14 : refused
    [.rcFieldRead 2, .w1cBitWrite 16777216 0, .w1cBitWrite 2 0, .presenceInputFault 4, .presenceFaultLift 4,
     .peerSegmentLinkUp 3 false, .peerSegmentLinkUp 0 false] = true := by decide +kernel

theorem test_wf_refuses_long_frameHeaderReceived_0 : refused [.frameHeaderReceived .a1 (List.replicate 25 0) 0] = true := by
  simp [refused, Instr.wf, -List.reduceReplicate]

theorem test_wf_refuses_long_frameReceived_1 : refused [.frameReceived .a1 (List.replicate 4097 0) 0] = true := by
  simp [refused, Instr.wf, -List.reduceReplicate]

theorem test_wf_refuses_long_scheduleFetchComplete_2 : refused [.scheduleFetchComplete (List.replicate 32193 0)] = true := by
  simp [refused, Instr.wf, -List.reduceReplicate]

theorem test_wf_refuses_long_boundaryLinkUp_3 : refused [.boundaryLinkUp .a1 (List.replicate 2021 0) []] = true := by
  simp [refused, Instr.wf, -List.reduceReplicate]

theorem test_wf_refuses_long_boundaryLinkUp_4 : refused [.boundaryLinkUp .a1 [] (List.replicate 2021 0)] = true := by
  simp [refused, Instr.wf, -List.reduceReplicate]

theorem test_wf_refuses_long_ptpDelayReqReceived_5 : refused [.ptpDelayReqReceived 1 0 (List.replicate 11 0) 0] = true := by
  simp [refused, Instr.wf, -List.reduceReplicate]

theorem test_wf_refuses_long_vehicleFrameReceived_6 : refused [.vehicleFrameReceived 1 (List.replicate 2049 0) false] = true := by
  simp [refused, Instr.wf, -List.reduceReplicate]

theorem test_wf_refuses_long_pdoReceived_7 : refused [.pdoReceived 1 0 (List.replicate 9 0)] = true := by
  simp [refused, Instr.wf, -List.reduceReplicate]

theorem test_wf_refuses_long_sdoResponseReceived_8 : refused [.sdoResponseReceived 1 1 (List.replicate 9 0)] = true := by
  simp [refused, Instr.wf, -List.reduceReplicate]

theorem test_wf_refuses_long_emcyReceived_9 : refused [.emcyReceived 1 1 (List.replicate 9 0)] = true := by
  simp [refused, Instr.wf, -List.reduceReplicate]

theorem test_wf_refuses_long_controlRecordReceived_10 : refused [.controlRecordReceived 1 0 0 (List.replicate 2021 0)] = true := by
  simp [refused, Instr.wf, -List.reduceReplicate]

theorem test_wf_refuses_long_commitMarkReceived_11 : refused [.commitMarkReceived (List.replicate 2021 0)] = true := by
  simp [refused, Instr.wf, -List.reduceReplicate]

theorem test_wf_refuses_long_safetyStateRecord_12 : refused [.safetyStateRecord 0 0 1 (List.replicate 2021 0)] = true := by
  simp [refused, Instr.wf, -List.reduceReplicate]

theorem test_wf_refuses_long_outputImageRecord_13 : refused [.outputImageRecord 0 0 1 (List.replicate 2021 0)] = true := by
  simp [refused, Instr.wf, -List.reduceReplicate]

theorem test_wf_refuses_long_writesAndForcesRecord_14 : refused [.writesAndForcesRecord 0 0 1 (List.replicate 2021 0)] = true := by
  simp [refused, Instr.wf, -List.reduceReplicate]

theorem test_wf_refuses_long_portTrafficRecord_15 : refused [.portTrafficRecord 1 0 0 1 (List.replicate 2021 0)] = true := by
  simp [refused, Instr.wf, -List.reduceReplicate]

theorem test_wf_refuses_fields_Frame : [{ wfFrame with version := 16 }, { wfFrame with topo := 2 ^ 32 }, { wfFrame with cycle := 2 ^ 32 }, { wfFrame with srcPos := 65 }, { wfFrame with srcUnit := 16 }, { wfFrame with line := 16 }, { wfFrame with channel := 65536 }, { wfFrame with seq := 65536 }, { wfFrame with fragment := 2 ^ 32 }].all (fun x => !x.wf) = true := by decide

theorem test_wf_refuses_fields_Packet : [{ wfPacket with sess := .vehicle (2 ^ 32) 0 }, { wfPacket with opcode := 65536 }, { wfPacket with seq := 65536 }, { wfPacket with check := 2 ^ 32 }, { wfPacket with items := [⟨65536, []⟩] }].all (fun x => !x.wf) = true := by decide

theorem test_wf_refuses_fields_Ip : [{ wfIp with src := 2 ^ 32 }, { wfIp with dst := 2 ^ 32 }, { wfIp with sport := 65536 }, { wfIp with dport := 65536 }].all (fun x => !x.wf) = true := by decide

theorem test_wf_refuses_fields_Trdp : [{ wfTrdp with kind := 65536 }, { wfTrdp with version := 65536 }, { wfTrdp with etbTopo := 2 ^ 32 }, { wfTrdp with comId := 2 ^ 32 }, { wfTrdp with seq := 2 ^ 32 }, { wfTrdp with src := 2 ^ 32 }, { wfTrdp with sport := 65536 }, { wfTrdp with replyIp := 2 ^ 32 }, { wfTrdp with replyComId := 2 ^ 32 }, { wfTrdp with session := 2 ^ 128 }, { wfTrdp with resultCode := 2 ^ 32 }].all (fun x => !x.wf) = true := by decide

theorem test_wf_refuses_fields_Mvb : [{ wfMvb with addr := 4096 }].all (fun x => !x.wf) = true := by decide

theorem test_wf_refuses_fields_other :
    !(Source.wf ⟨1, 16, 0⟩) && !(Source.wf ⟨1, 1, 2⟩) && !(FarKey.wf ⟨2, 4, []⟩) && !(FarKey.wf ⟨2, 0, zeros 13⟩) &&
      !(FarAnswer.wf (.ok (zeros 17))) && !(ChanResp.wf ⟨0, 65536, 0, []⟩) && !(ChanResp.wf ⟨0, 0, 65536, []⟩) &&
      !(CanIn.wf ⟨0, false, 65, [], false⟩) && !(CanIn.wf ⟨0, false, 0, zeros 65, false⟩) && !(CanIn.wf ⟨2 ^ 31 + 2 ^ 29, false, 0, [], false⟩) &&
      !(EventIn.wf ⟨65536, 1, 0, []⟩) && !(EventIn.wf ⟨1, 1, 0, zeros 29⟩) && !(Session.wf (.vehicle 0 65536)) && !({ wfMvb with data := zeros 33 } : MvbIn).wf = true := by
  decide

theorem test_wf_refuses_lengths :
    ({ wfFrame with payload := List.replicate 2021 0 } : Frame).wf = false ∧
    ({ wfPacket with items := [⟨1, List.replicate 16381 0⟩] } : Packet).wf = false ∧
    ({ wfIp with payload := List.replicate 1481 0 } : IpIn).wf = false ∧
    ({ wfTrdp with dataset := List.replicate 1433 0 } : TrdpIn).wf = false ∧
    (ChanResp.wf ⟨0, 0, 0, List.replicate 1473 0⟩) = false := by
  simp [Frame.wf, Packet.wf, IpIn.wf, TrdpIn.wf, ChanResp.wf, -List.reduceReplicate]

theorem test_wf_accepts_1 : accepted
    [.powerOnReset 0 false, .bankCheckComplete, .islandReady, .lineBRelayOpen false, .ready,
     .scratchTestComplete 0, .resetNAsserted, .resetNReleased, .managementWatchdogExpiry, .internalSupplyFail,
     .powerFailWarning 0, .powerRestored, .holdBusLow, .safeOffReclose, .converterOvervoltageStop,
     .converterOvertempStop, .converterRestart 0 false, .supplyWarnSet, .supplyWarnClear, .tempWarnChange 0,
     .outputFeedLow 1, .outputFeedRecovered 1, .currentLimitExpiry 1, .trainLineLinkUp .a1 false false false false,
     .trainLineLinkDown .a1, .portUnassignedLink .a1, .frameHeaderReceived .a1 (zeros 24) 0,
     .frameReceived .a1 [] 0, .slotClose .a1, .duplicateKeyExpiry, .relayedCopyReceived wfFrame,
     .sampleInstant wfSample, .outputInstant 0, .cycleStartSend, .cycleStartDelivered .a1 wfFrame 0,
     .cycleStartMissing, .holdoverEntry, .coastingEntry, .scheduleFetchComplete [], .scheduleTableActivation,
     .joinComplete, .segmentPhaseOpen .a1, .publicationSlotStart, .messageWindowStart,
     .pollDelivered .a1 wfFrame 0, .pollReplySend, .supervisionSlotStart, .supervisionDelivered .a1 wfFrame,
     .leadCycleWorkDone 0, .sourceFenced .a1 ⟨1, 1, 0⟩] = true := by decide +kernel

theorem test_wf_accepts_2 : accepted
    [.fenceLifted .a1 ⟨1, 1, 0⟩, .publicationDelivered .a1 wfFrame, .nullDelivered .a1 wfFrame,
     .probeDelivered .a1 wfFrame, .claimDelivered .a1 wfFrame, .censusRequestDelivered .a1 wfFrame,
     .censusReplyDelivered .a1 wfFrame 0, .numberingDelivered .a1 wfFrame, .commitDelivered .a1 wfFrame,
     .commitAckDelivered .a1 wfFrame, .joinReportDelivered .a1 wfFrame, .mergeClaimDelivered .a1 wfFrame,
     .delayRequestDelivered .a1 wfFrame 0 0, .delayResponseDelivered .a1 wfFrame 0, .delayResponseTimeout .a1,
     .messageFrameDelivered .a1 wfFrame, .postedWriteMessage wfFrame, .readRequestMessage wfFrame,
     .readResponseMessage wfFrame, .farErrorMessage wfFrame, .announcementMessage wfFrame,
     .semaphoreMessage wfFrame, .remoteCommandMessage wfFrame, .commandReplyMessage wfFrame,
     .mirrorFallbackMessage wfFrame, .remotePacketIncomplete 0 0, .settleEnd ⟨false, false⟩, .probeTimer, .claimRepeat,
     .claimWindowEnd, .censusReplySend, .censusRunClose, .censusRunStart, .waitingTimeout, .commitAckSend,
     .commitAckTimeout, .commitCycleAdoption, .lineBRetrain, .setoutNoAck, .leaseLapse ⟨false, false⟩,
     .absorbingTimeout ⟨false, false⟩, .vehicleAbsent 1, .cabActiveChange false, .boundaryLinkUp .a1 [] [], .boundaryOpen,
     .eventTrainTimeFire 0, .positionInvalid, .ptpSyncSend 1, .ptpAnnounceSend 1,
     .ptpDelayReqReceived 1 0 (zeros 10) 0] = true := by decide +kernel

theorem test_wf_accepts_3 : accepted
    [.ptpAnnounceReceived 1, .rtcSet, .skimCommit, .fedCommitTimeout, .skimReadHeldAnswer, .skimReadTimeout,
     .pinLeaseExpiry 0, .snapshotCopyComplete, .routeTableActivation, .resultHoldExpiry 1, .bridgeTimeoutExpiry 1,
     .bridgeMarkSend 0, .senderRecordExpiry 0 0, .readAheadExpiry 0, .announcementRelease, .semaphoreLeaseExpiry 1,
     .semaphoreWaitExpiry 1, .farBusLockTaken 0, .farBusLockExpiry 0, .lockWaitExpiry 1,
     .farTransactionComplete ⟨2, 0, []⟩ .timeout, .vportLinkUp 1 0 false false false, .vportLinkDown 1,
     .vehicleFrameReceived 1 [] false, .macEntryAgeing 0 0, .gateEntryBoundary 1, .gateListActivation 1,
     .arpRequestReceived 0 0 0 0, .arpReplyReceived 0 0 0, .arpRetryTimer 0 0, .arpEntryAgeing 0 0,
     .gratuitousArpRepeat 0, .ipDatagramReceived 0 wfIp, .trdpPublish 0, .trdpPrReceived wfTrdp,
     .trdpPdReceived wfTrdp, .trdpMrReceived wfTrdp, .trdpMnReceived wfTrdp, .trdpReplyReceived wfTrdp,
     .trdpReplyTimeout 0, .channelCyclicRequest 0, .channelResponseReceived 0 ⟨0, 0, 0, []⟩,
     .channelReplyTimeout 0, .channelOnDemandSend 0, .channelFaultedPoll 0, .channelResolved 0,
     .ringDescriptorReturn 0 0, .stagingTimeout, .mvbBasicPeriod 1, .mvbMasterFrameReceived 1 0 0 false] = true := by decide +kernel

theorem test_wf_accepts_4 : accepted
    [.mvbSlaveFrameReceived 1 wfMvb, .serialBusCycleStart 1, .serialTransactionHanded 1, .canPortStart 1,
     .canFrameReceived 1 ⟨0, false, 0, [], false⟩, .pdoReceived 1 0 [], .heartbeatReceived 1 1 0,
     .heartbeatTimeout 1 1, .bootWaitExpiry 1 1, .sdoResponseReceived 1 1 [], .sdoTimeout 1 1,
     .emcyReceived 1 1 [], .syncProduce 1, .heartbeatProduce 1, .canBusOff 1, .busOffRecovery 1, .fNop 6, .fLdi 6,
     .fLdh 6, .fMov 6, .fAdd 6, .fAddi 6, .fSub 6, .fAnd 6, .fOr 6, .fXor 6, .fShl 6, .fShr 6, .fLd 6, .fSt 6,
     .fLdb 6, .fStb 6, .fCmp 6, .fCmpi 6, .fTmr 6, .fTta 6, .fPta 6, .fWait 6, .fIn 6, .fOut 6, .fTget 6, .fTput 6,
     .fTend 6, .fCrc 6, .fFault 6, .fTime 6, .fBr 6, .fLoop 6, .floatRestart 6, .floatTimerExpiry 6] = true := by decide +kernel

theorem test_wf_accepts_5 : accepted
    [.lineSilence 1, .serialByteReceived 1 0 false false, .transmitDrained 1, .trainTimeTargetReached 6,
     .programTakeForce 1, .minorityDetected 1 [] 0 [], .noMajority [wfLane] 0 [0], .comparatorFault [] 0,
     .checkpointWriteComplete, .resyncComplete false, .restartComplete, .tcmScrub 1 0 1, .replayComplete false 0 0,
     .inputComparatorDisagree 1, .inputFaultClear 1, .outputPulseTest 1 false, .controlRecordReceived 1 0 0 [],
     .commitMarkReceived [], .safetyStateRecord 0 0 1 [], .outputImageRecord 0 0 1 [],
     .writesAndForcesRecord 0 0 1 [], .portTrafficRecord 1 0 0 1 [], .peerSegmentDown 1,
     .interlockReadingChange 0 0, .interlockSettle, .ilkFaultSet, .ilkFaultClear, .roleWatchdogExpiry,
     .roleTakeover, .handoverSwitch, .switchback, .grantExpiry, .hawkFence, .hawkClaim, .hawkTake, .hawkRelease,
     .coldTakeoverEnd, .gapRepeatEnd, .wakePulseQualified .a1, .wakePulseEnd, .refractoryEnd, .wakeWireStuck .a1,
     .wakeWireReleased .a1, .tc10WakeReceived 1, .tc10SleepTimeout 1, .wakeInputActive 1, .alarmFire 0,
     .alarmHoldEnd 0, .commandHoldEnd, .pointOfNoReturn] = true := by decide +kernel

theorem test_wf_accepts_6 : accepted
    [.sleepEntry, .sleepEntryComplete, .falseWake, .wakeSourceUnmasked 1, .wakeInputStuck 1, .wakeInputUnstuck 1,
     .lineKeepingEntry, .lineKeepingExit 1, .maxAwakeExpiry, .eventReported ⟨1, 1, 0, []⟩, .tokenRefill 0,
     .recorderFlush false, .recorderDegraded, .summaryPeriodEnd, .sessionIdle .host, .transferIdle 0 0,
     .replyKeepExpiry .host 0, .opIdentity wfPacket, .opStatus wfPacket, .opTime wfPacket, .opSkimRead wfPacket,
     .opSkimWrite wfPacket, .opSkimDescriptor wfPacket, .opPinTake wfPacket, .opPinRenew wfPacket,
     .opPinRelease wfPacket, .opForce wfPacket, .opForceRelease wfPacket, .opSnapshotTake wfPacket,
     .opSnapshotRead wfPacket, .opSnapshotLock wfPacket, .opSnapshotUnlock wfPacket, .opRouteRead wfPacket,
     .opRouteEdit wfPacket, .opRouteStatus wfPacket, .opRouteTransferBegin wfPacket,
     .opRouteTransferChunk wfPacket, .opRouteTransferFinish wfPacket, .opRouteDiscardStaged wfPacket,
     .opCycleStatus wfPacket, .opScheduleRead wfPacket, .opStep wfPacket, .opEventRead wfPacket,
     .opScheduleEventTransferBegin wfPacket, .opScheduleEventTransferChunk wfPacket,
     .opScheduleEventTransferFinish wfPacket, .opSetoutTable wfPacket, .opSetoutStatus wfPacket,
     .opRenumber wfPacket, .opFarNumbering wfPacket] = true := by decide +kernel

theorem test_wf_accepts_7 : accepted
    [.opPowerStatus wfPacket, .opStayAwake wfPacket, .opWakeAll wfPacket, .opAlarmRead wfPacket,
     .opAlarmWrite wfPacket, .opHoldersRead wfPacket, .opHoldersClear wfPacket, .opPairStatus wfPacket,
     .opHandover wfPacket, .opRoleGrant wfPacket, .opSafeStatusRead wfPacket, .opMismatchLog wfPacket,
     .opComplexReset wfPacket, .opOutputFaultClear wfPacket, .opEquationStatus wfPacket,
     .opEquationTransferBegin wfPacket, .opEquationTransferChunk wfPacket, .opEquationTransferFinish wfPacket,
     .opRecorderRead wfPacket, .opRecorderStats wfPacket, .opRecorderStatus wfPacket, .opImageStatus wfPacket,
     .opImageTransferBegin wfPacket, .opImageTransferChunk wfPacket, .opImageTransferFinish wfPacket,
     .opImageActivate wfPacket, .opImageRollback wfPacket, .opKeyEnrol wfPacket, .opVportStatus wfPacket,
     .opChannelRead wfPacket, .opChannelWrite wfPacket, .opProfileGateTransferBegin wfPacket,
     .opProfileGateTransferChunk wfPacket, .opProfileGateTransferFinish wfPacket, .opFieldStatus wfPacket,
     .opCanopenNodes wfPacket, .opSerialProgramTransferBegin wfPacket, .opSerialProgramTransferChunk wfPacket,
     .opSerialProgramTransferFinish wfPacket, .opPostedWrite wfPacket, .opRead wfPacket, .opRetry wfPacket,
     .opLockedSequence wfPacket, .opSemaphore wfPacket, .opEndpointOpen wfPacket, .opEndpointClose wfPacket,
     .opErrorLog wfPacket, .opRemoteCommand wfPacket, .opRegisterRead wfPacket, .opRegisterWrite wfPacket] = true := by decide +kernel

theorem test_wf_accepts_8 : accepted
    [.opCx320Counters wfPacket, .opSplitEnter wfPacket, .opSplitLeave wfPacket, .opCoreHalt wfPacket,
     .opCoreStep wfPacket, .opCoreRun wfPacket, .opCoreRead wfPacket, .opCoreWrite wfPacket, .opReplay wfPacket,
     .cmdCtrlWrite 0, .replyCtrlWrite 0, .intStatusWrite 0, .intMaskWrite 0, .trainTimeHiRead, .rcFieldRead 0,
     .w1cBitWrite 0 0, .hostRingReadIndexWrite 0, .hostRegisterWrite 0 [] false, .maintButtonPress,
     .maintButtonRelease 0, .maintWindowClose, .maintJumperFitted, .maintJumperRemoved,
     .presenceRawChange false false, .sealOpened, .sealClosed, .debugJumperFitted, .debugJumperRemoved,
     .presenceInputFault 0, .presenceFaultLift 0, .trialConfirmed, .trialTimeout, .monitorLine, .monHelp,
     .monBaud 0, .monPacket, .packetModeFrame [], .packetByteTimeout, .packetModeEnd, .peerSegmentLinkUp 1 false,
     .resetCommand, .noFirmwareLine, .monitorCharacterReceived 0] = true := by decide +kernel

/-! ### States and operands that meet the premises of the statements -/

/-- A unit whose supply is up and whose management side serves commands. -/
def wRun : State :=
  { State.reset with
    host := { HostSt.init with ready := true, booting := false }
    sleep := { SleepSt.init with power := .awake }
    start := { StartSt.init with boot := .running } }
/-- A unit whose power-on reset has been released. -/
def wPow : State :=
  { State.reset with sleep := { SleepSt.init with power := .awake }, start := { StartSt.init with boot := .powered } }
/-- The configuration of a single unit with empty tables. -/
def wCfg : Cfg :=
  { node := ⟨1, 0, 1, 0, false, ⟨1, 1, true⟩, ⟨1, 1, true⟩, false, 0, false, 100, 115200, 1000⟩
    dictionary := [], pubList := [], schedule := [], route := [], equation := [], events := []
    recorder := RecCfg.default, net := NetCfg.none, field := FieldCfg.none, power := PowerCfg.none }
/-- A configured single unit on both lines, with its line A relay set open and the island ready since 500 ms. -/
def wLine : State :=
  { wRun with
    cfg := some wCfg, clk := 500000000
    line := { LineSt.init with relayAOpen := true, islandAt := some 0 }
    cyc := { CycleSt.init with fences := [⟨.a1, ⟨2, 1, 0⟩, 3, false, true, true, false⟩, ⟨.a2, ⟨3, 1, 0⟩, 3, true, true, false, true⟩] } }
/-- A port that is up at 2.5 Gb/s. -/
def wUp : LPort := { LPort.init with status := 0x00030000 }
/-- A committed train of two vehicles, this unit its lead at position 1 and slot 0. -/
def wNum : Numbering := ⟨1, true, false, false, false, 0, [⟨1, 1, 0, false, false, false, 1, 0⟩, ⟨2, 2, 1, false, false, false, 1, 0⟩]⟩
/-- The lead of a running two-vehicle train. -/
def wTrain : State :=
  { wLine with
    line := { wLine.line with relayBOpen := true, ports := Ports.all wUp }
    set := { SetoutSt.init with state := .committed, numbering := some wNum, lease := true }
    cyc := { CycleSt.init with running := true, joined := true, n := 100, ts := 100000000000 }
    time := { TimeSt.init with base := .tracking, now := 100000000000 } }

/-- A request on the host session. -/
def wPk (op cls : Nat) (items : List Tlv) : Packet := ⟨.host, cls, op, 1, 0, items, 0, 0⟩
/-- A unit on whose host session that request alone waits. -/
def wAsk (s : State) (p : Packet) : State := { s with cmd := { CmdSt.init with sessions := [⟨.host, 0, [p], [], []⟩] } }
/-- The state in which its opcode acts. -/
def wTaken (s : State) (p : Packet) : State := takePacket (wAsk s p) p
/-- Such a request is served now. -/
theorem wAsk_served (s : State) (op cls : Nat) (items : List Tlv) (h : managing s = true) :
    servedNow (wAsk s (wPk op cls items)) op (wPk op cls items) (wTaken s (wPk op cls items)) := by
  have hq : isQueued (wAsk s (wPk op cls items)) (wPk op cls items) = true := by
    simp [isQueued, wAsk, sessionOf, wPk]
  have ho : offered op (wPk op cls items) (wAsk s (wPk op cls items)) = wAsk s (wPk op cls items) := by
    simp [offered, hq]
  have hn : (List.range 256).flatMap (fun _ => ([] : List SessSt)) = [] := by simp [List.flatMap_eq_nil_iff]
  have hs : sessionOrder (wAsk s (wPk op cls items)) = [⟨.host, 0, [wPk op cls items], [], []⟩] := by
    simp [sessionOrder, wAsk, CmdSt.init, hn]
  have hop : (wPk op cls items).opcode = op := rfl
  have ht : (wAsk s (wPk op cls items)).cmd.turn = none := rfl
  refine ⟨h, rfl, ?_, ?_⟩
  · rw [ho]
    cases hh : hardwareServed op <;>
      simp [isNext, hq, nextPacket, hs, ht, firmwareQueue, hop, hh]
  · rw [ho]; rfl
/-- A retained skim. -/
def wSkim (n : Nat) : SkimRec := ⟨⟨n, 1, 0, 0, 0, 0⟩, [], [0], [0], []⟩
/-- A unit that has committed skim 99 after skim 97. -/
def wSkims : State := { wTrain with skim := { SkimSt.init with retained := [wSkim 99, wSkim 97] } }

/-- The same request on the train-line session of channel 5 of slot 0. -/
def wLinePk (op cls : Nat) (items : List Tlv) : Packet := { wPk op cls items with sess := .line 5 }
def wLineAsk (s : State) (p : Packet) : State := { s with cmd := { CmdSt.init with sessions := [⟨.line 5, 0, [p], [], []⟩] } }
/-- A composing active unit of a pair whose peer is fit and mirrored. -/
def wPair : State :=
  { wTrain with
    cfg := some { wCfg with node := { wCfg.node with units := 2, arrangement := 1 } }
    pair := { PairSt.init with role := .active } }

/-- A train's lead with vehicle port V1 in VLAN 1 and an interface on it. -/
def wVehCfg : NetCfg :=
  let port : VportCfg := ⟨true, 7, 1, 0, [1], [1], [0, 1, 2, 3, 4, 5, 6, 7], [], 0⟩
  { NetCfg.none with ports := [(1, port), (2, port)], ifaces := [(0, ⟨1, 0x0A000001, 24, 64, 1000⟩)], pubs := [⟨900, 0x0A000009, 0, 6, 1, 0, 4⟩], subs := [⟨901, 0, 0, 4, 100⟩] }
def wVeh (veh : VehSt) : State := { wTrain with cfg := some { wCfg with net := wVehCfg }, clk := 400000000000, veh := veh }
def wVport : Vport := { Vport.init with link := 5 }
def wVehUp : VehSt := { VehSt.init with macBase := 0x020000000000, ports := [(1, wVport)] }

/-- The lead of a train with a schedule table of equal weights, its sample set latched and a poll planned. -/
def wPub : State :=
  { wTrain with
    cyc := { wTrain.cyc with
      csSeen := true, plan := [⟨2, 0, 256, 400⟩]
      table := some (be 4 0 ++ be 1 2 ++ be 1 2 ++ be 2 0 ++ be 2 1 ++ be 1 2 ++ be 1 0 ++ be 2 100 ++ be 2 400 ++ be 2 600 ++
        be 2 900 ++ be 2 256 ++ be 2 4096 ++ zeros 8 ++ be 2 1 ++ be 2 1 ++ zeros 124) }
    skim := { SkimSt.init with samples := [⟨100, [], []⟩] } }

/-- The premises of `Obligations.StartStepsTakeEffect` are met. -/
theorem meets_startSteps :
    (State.reset.start.boot = .unpowered ∧ State.reset.start.overvoltStop = false ∧ State.reset.start.overtempStop = false) ∧
    (wPow.start.boot = .powered ∧ wPow.sleep.power = .awake ∧ wPow.host.resetHeld = false ∧ wPow.start.parked = false) ∧
    (∀ s, s = { wPow with clk := 10000000000, start := { wPow.start with boot := .checked, noFirmwareAt := some 0 }, img := { ImageSt.init with fw := { ImageSt.init.fw with usable := false } } } →
      s.start.boot = .checked ∧ s.img.fw.usable = false ∧ s.start.noFirmwareAt = some 0 ∧ 0 + 10000000000 ≤ s.clk) := by
  refine ⟨by decide, by decide, ?_⟩; intro s h; subst h; decide

/-- A unit whose firmware bank is in trial since 120 s. -/
def wTrial : State :=
  { wRun with
    clk := 120000000000
    img := { ImageSt.init with resetAt := some 0, fw := { ImageSt.init.fw with b0 := ⟨.trial, []⟩ } } }
/-- The premises of `Obligations.ResetsRestartTheManagementSide` are met. -/
theorem meets_resets :
    (wRun.sleep.power = .awake ∧ wRun.start.boot ≠ .unpowered ∧ wRun.host.resetHeld = false ∧ wRun.start.parked = false) ∧
    ({ wRun with host := { wRun.host with resetHeld := true } } : State).host.resetHeld = true ∧
    (wTrial.img.resetAt = some 0 ∧ 0 ≤ wTrial.clk) ∧
    (inTrial wTrial = true ∧ wTrial.sleep.power = .awake ∧ wTrial.start.boot ≠ .unpowered ∧
      wTrial.img.releasedAt + 120000000000 ≤ wTrial.clk ∧ (banksOf wTrial 8).running = 0 ∧ (banksOf wTrial 8).b0.state = .trial) := by
  decide

/-- The premises of `Obligations.SupplyEventsTakeEffect` are met. -/
theorem meets_supply :
    wRun.sleep.power ≠ .off ∧ wRun.host.ready = true ∧
    (∃ s : State, s.start.boot = .unpowered ∧ s.start.overtempStop = true) ∧
    (∃ s : State, s.host.ready = true ∧ s.recorder.powerFail = some 0) ∧
    (∃ s : State, s.safe.supplyOpen = true) ∧
    (∃ s : State, s.start.supplyOutSince = some 0 ∧ 0 + 1000000000 < s.clk ∧ s.start.supplyInSince = some 0 ∧
      0 + 10000000000 ≤ s.clk) :=
  ⟨by decide, rfl, ⟨{ State.reset with start := { StartSt.init with overtempStop := true } }, by decide⟩,
    ⟨{ wRun with recorder := { RecorderSt.init with powerFail := some 0 } }, by decide⟩,
    ⟨{ wRun with safe := { SafeSt.init with supplyOpen := true } }, rfl⟩,
    ⟨{ wRun with clk := 10000000000, start := { StartSt.init with supplyOutSince := some 0, supplyInSince := some 0 } }, by decide⟩⟩

/-- A recorder with a staged record, a full bucket and a failed write 1 s ago. -/
def wRec : State :=
  { wRun with
    clk := 3600000000000
    recorder := { RecorderSt.init with
      started := true, failingSince := some 0, codes := [(0x0101, CodeStat.blank 16)]
      staging := [⟨⟨1, 0, 0, 0, 0x0101, 0, 0, 0, []⟩, 0⟩] } }
/-- The premises of `Obligations.RecorderCountsRecordsAndFlushes` are met. -/
theorem meets_recorder :
    (wRec.recorder.started = true ∧ codeClass 0x0101 = some .t ∧ AreaClass.t ≠ .tally ∧ exempt .t = false ∧
      wRec.recorder.powerFail = none ∧ (refill wRec 0x0101 (codeStat wRec 0x0101)).tokens = 16 ∧
      wRec.recorder.staging.length < 15360 ∧ (avgNow wRec).1 ≠ 0 ∧ noMeasure 0x0101 = false) ∧
    (refill { wRec with clk := 0, recorder := { wRec.recorder with codes := [(0x0101, CodeStat.blank 0)] } } 0x0101
      (CodeStat.blank 0)).tokens = 0 ∧
    (Tab.has wRec.recorder.codes 0x0101 = true ∧ wRec.recorder.staging ≠ [] ∧ wRec.recorder.degraded = false) ∧
    (wRec.recorder.failingSince = some 0 ∧ 0 + 1000000000 ≤ wRec.clk) ∧
    (wRec.recorder.periodStart + max 1 (recCfg wRec).period ≤ rtc wRec ∧
      wRec.recorder.staging.length + (summaryGroup wRec false false).length ≤ 16384) := by
  decide

/-- The premises of `Obligations.LinksRelaysAndFencesFollowTheirRows` are met. -/
theorem meets_links :
    (assigned wLine .a1 = true ∧ relayOpen wLine .a1 = true ∧ assigned wLine .b1 = true ∧ wLine.line.relayBOpen = false ∧
      wLine.line.islandAt = some 0 ∧ 0 + 500000000 ≤ wLine.clk) ∧
    (wLine.cfg.isSome = true ∧ assigned { wLine with unplaced := true } .a1 = false) ∧
    (fenceOf wLine .a1 ⟨2, 1, 0⟩ = some ⟨.a1, ⟨2, 1, 0⟩, 3, false, true, true, false⟩ ∧
      fenceOf wLine .a2 ⟨3, 1, 0⟩ = some ⟨.a2, ⟨3, 1, 0⟩, 3, true, true, false, true⟩) := by
  decide

/-- A claim frame (type 0x7) of a unit outside a running cycle. -/
def wProbe : Frame := ⟨1, 7, 0, 0, 0, 0, 1, 0, 0, 0, 0, zeros 32⟩
def wArr (f : Frame) (close : Option Int) : State :=
  { wTrain with line := { wTrain.line with
      ports := wTrain.line.ports.set .a1 { wUp with inFlight := some ⟨f, f.payload.length, 0, false, false, true, close, false⟩ } } }
/-- The bytes of a frame on the line, with its FCS. -/
def wWire (f : Frame) : Bytes := let h := fit ((frameBytes f).take (24 + f.payload.length)) 60; h ++ fcsBytes h
/-- Unit 1 of a split-lines pair in a running train of one vehicle. -/
def wSplit : State :=
  { wTrain with
    cfg := some { wCfg with node := { wCfg.node with arrangement := 2, units := 2 } }
    line := { wTrain.line with ports := (Ports.all LPort.init).set .a1 wUp } }
/-- The premises of `Obligations.ArrivingFramesAreGatedCheckedAndDelivered` are met: headers. -/
theorem meets_frameHeaders :
    (assigned wTrain .a1 = true ∧ linkUp wTrain .a1 = true ∧
      parseHeader ((frameBytes wProbe).take 24) = some ({ wProbe with payload := [] }, 32) ∧ gated wTrain wProbe = false) ∧
    (parseHeader ((frameBytes { wProbe with ftype := 2, srcPos := 2, topo := 1, cycle := 100 }).take 24) =
        some ({ wProbe with ftype := 2, srcPos := 2, topo := 1, cycle := 100, payload := [] }, 32) ∧
      gated wTrain { wProbe with ftype := 2, srcPos := 2 } = true ∧ isFenced wTrain .a1 { wProbe with ftype := 2, srcPos := 2 } = false) ∧
    parseHeader (zeros 24) = none := by
  decide +kernel
/-- … completed frames. -/
theorem meets_frames :
    ((wArr wProbe none).line.ports.get .a1).inFlight = some ⟨wProbe, 32, 0, false, false, true, none, false⟩ ∧
    (wWire wProbe).length = 64 ∧ 64 = frameLength 32 ∧ (wWire wProbe).drop 60 = fcsBytes ((wWire wProbe).take 60) ∧
    lateCycleStart (wArr wProbe none) .a1 wProbe 0 = false ∧
    mustDrop wProbe = false ∧ isDuplicate (wArr wProbe none) wProbe = false ∧
    acceptsTopo (wArr wProbe none) .a1 wProbe = true ∧ feeding (wArr wProbe none) = false ∧
    splitLines (wArr wProbe none) = false := by
  decide +kernel
/-- … other verdicts, duplicates, a slot's close and relayed copies. -/
theorem meets_frameVerdicts :
    frameVerdict (zeros 63) (some ⟨wProbe, 32, 0, false, false, true, none, false⟩) = .runt ∧
    (zeros 64).drop 60 ≠ fcsBytes ((zeros 64).take 60) ∧ (zeros 64).drop 60 ≠ stompBytes ((zeros 64).take 60) ∧
    isDuplicate { wArr wProbe none with line := { (wArr wProbe none).line with
      dups := [dupKey wTrain wProbe] } } wProbe = true ∧
    ((wArr wProbe (some 0)).line.ports.get .a1).inFlight = some ⟨wProbe, 32, 0, false, false, true, some 0, false⟩ ∧
    0 ≤ (wArr wProbe (some 0)).time.now ∧
    (splitLines wSplit = true ∧ wSplit.host.ready = true ∧ onRing wSplit = true ∧ mustDrop wProbe = false ∧
      acceptsTopo wSplit (relayPort wSplit wProbe) wProbe = true ∧ wSplit.skim.retained = []) ∧
    (∀ f s, f = ⟨1, 3, 0, 1, 99, 2, 1, 0, 256, 0, 0, zeros 4⟩ → s = { wSplit with skim := { SkimSt.init with retained := [wSkim 99] } } →
      splitLines s = true ∧ onRing s = true ∧ mustDrop f = false ∧ isDuplicate s f = false ∧ s.cyc.running = true ∧
      s.skim.retained = [wSkim 99] ∧ (wSkim 99).desc.skim = f.cycle) := by
  refine ⟨by decide +kernel, by decide +kernel, by decide +kernel, by decide +kernel, by decide +kernel, by decide +kernel,
    by decide +kernel, ?_⟩
  intro f s h k; subst h; subst k; decide +kernel

/-- A follower of a running train at position 2, whose next cycle-start waits at A1. -/
def wCs : Frame := ⟨1, 1, 0x80, 1, 100, 1, 1, 0, 0, 0, 0, zeros 56⟩
def wFollow : State :=
  { wTrain with
    set := { wTrain.set with lease := false, lastStart := 92 }
    line := { wTrain.line with rx := [⟨.a1, wCs, 0⟩] }
    cyc := { wTrain.cyc with staged := some (zeros 32), joinFrom := some 98, csSeen := false } }
/-- The lead of the running train when the instants of cycle 100 are past. -/
def wLate : State := { wTrain with time := { wTrain.time with now := 200000000000 } }
/-- The premises of `Obligations.CyclesTurnOnTheGrid` are met: the lead's. -/
theorem meets_cycleLead :
    wLate.cyc.running = true ∧ wLate.cyc.fresh = false ∧ nextTs wLate ≤ wLate.time.now ∧ sleepsAt wLate (nextGrid wLate) = false ∧
    wLate.cyc.nextAnchor = none ∧ cycleOver { wLate with cyc := { wLate.cyc with ahead := wLate.cyc.ahead + 1 } } = false ∧
    cycleOver { wLate with cyc := { wLate.cyc with ahead := wLate.cyc.ahead + 1, nextShift := some 0 } } = true ∧
    wLate.host.ready = true ∧ wLate.sleep.power = .awake ∧ notApplied wLate 100 = true ∧ toOf wLate 100 ≤ wLate.time.now ∧
    sleepsAt wLate wLate.sleep.announced = false ∧ wTrain.set.lease = true ∧ wTrain.cyc.csSeen = false ∧ wTrain.time.timeStep = 0 ∧
    wTrain.time.posStep = 0 ∧ ({ wTrain.time with stepAt := 100 } : TimeSt).stepAt = wTrain.cyc.n ∧ wTrain.time.stepAt ≠ wTrain.cyc.n ∧
    (({ wTrain with skim := { SkimSt.init with staging := [(100, [])] } } : State).skim.staging.find?
      (fun x => x.1 == 100)) = some (100, []) := by
  decide
/-- … the follower's, with a cycle-start of the counter in force and with one of another counter. -/
theorem meets_cycleFollower :
    (waits wFollow .a1 wCs = true ∧ wCs.ftype = 1 ∧ fromLead wCs = true ∧ wFollow.set.lease = false ∧
      wFollow.cyc.csSeen = false ∧ wFollow.set.state ≠ .absorbing ∧ wFollow.set.numbering.isSome = true ∧
      wFollow.set.pending = none ∧
      wCs.topo = topoFor wFollow wCs.cycle ∧ wCs.topo ≠ topoFor { wFollow with set := { wFollow.set with numbering := some { wNum with topo := 2 } } } wCs.cycle) ∧
    (wFollow.cyc.joinFrom = some 98 ∧ cycBefore 98 100 = true ∧ wFollow.cyc.mismatch = false ∧
      aboveGuard wFollow (estimatedOffset wFollow) 1 4 = false) ∧
    (wFollow.cyc.staged = some (zeros 32) ∧ cycBefore (field (zeros 32) 24 4) wFollow.cyc.n = true) ∧
    (wFollow.time.corrected = false ∧ wFollow.time.base = .tracking ∧ holdoverDue wFollow = true ∧
      9 ≤ cycDiff (gridN wFollow) wFollow.time.carriedCycle) ∧
    (∀ s, s = { wFollow with cyc := { wFollow.cyc with csSeen := true, ahead := 1 } } → s.cyc.running = true ∧ s.set.lease = false ∧
      s.cyc.csSeen = true ∧ 1 ≤ s.cyc.ahead) := by
  refine ⟨by decide, by decide, by decide, by decide, ?_⟩; intro s h; subst h; decide
/-- … a missing start that is counted, and a follower whose cycle passed without a correction. -/
theorem meets_cycleMore :
    wFollow.cyc.missDone = false ∧ wFollow.time.uncorrected = false ∧
    (∀ s, s = { wFollow with cyc := { wFollow.cyc with missDone := true } } → s.cyc.running = true ∧ s.set.lease = false ∧
      s.cyc.csSeen = false ∧ s.cyc.missDone = true ∧ s.cyc.ahead = 0) ∧
    (∀ s, s = { wFollow with cyc := { wFollow.cyc with missDone := true, ahead := 1 } } → s.cyc.missDone = true ∧ 1 ≤ s.cyc.ahead) ∧
    (∀ s, s = { wFollow with time := { wFollow.time with uncorrected := true } } → s.set.lease = false ∧ s.time.corrected = false ∧
      s.time.base = .tracking ∧ s.time.uncorrected = true) := by
  refine ⟨by decide, by decide, ?_, ?_, ?_⟩ <;> intro s h <;> subst h <;> decide
/-- … a unit of no committed train that holds the numbering of the cycle-start that waits. -/
theorem meets_adoption : ∀ s, s = { wFollow with set := { wFollow.set with state := .committing, numbering := none, pending := some wNum } } →
    waits s .a1 wCs = true ∧ wCs.ftype = 1 ∧ fromLead wCs = true ∧ s.set.lease = false ∧ s.set.pending = some wNum ∧
      inCycle s = false ∧ wCs.topo = wNum.topo := by
  intro s h; subst h; decide
/-- A schedule table of one row of weights 1, 1 that passes every check of R72, as fetched from the lead. -/
def wTable : Bytes :=
  be 4 0x4358545A ++ be 1 2 ++ be 1 2 ++ be 2 0 ++ be 2 1 ++ be 1 2 ++ be 1 0 ++ be 2 100 ++ be 2 400 ++ be 2 600 ++ be 2 900 ++
    be 2 256 ++ be 2 4096 ++ be 4 0 ++ be 4 0 ++ be 2 1 ++ be 2 1 ++ zeros 124
theorem meets_fetch :
    schedChecks wTable = none ∧ (∃ s : State, s.cyc.mismatch = true ∧ s.cyc.fetched = wTable ∧ schedCheck wTable = s.cyc.leadCheck) :=
  ⟨by decide +kernel, { wFollow with cyc := { wFollow.cyc with mismatch := true, fetched := wTable, leadCheck := schedCheck wTable } },
    rfl, rfl, rfl⟩

/-- Unit 2 of a standby pair with one train-line unit (arrangement 1): a fed unit, at the end of its cycle. -/
def wFed : State :=
  { wTrain with
    unitNo := 2, cfg := some { wCfg with node := { wCfg.node with arrangement := 1, units := 2 } }
    time := { wTrain.time with now := 200000000000 } }
/-- The premises of `Obligations.SkimsCommitAndTablesTakeForce` are met. -/
theorem meets_commit :
    (isFed wLate = false ∧ slotsClosed wLate = true ∧ wLate.cyc.running = true ∧ uncommitted wLate = true ∧ wLate.host.ready = true ∧
      wLate.sleep.power = .awake) ∧
    (isFed wFed = true ∧ onRing wFed = true ∧ wFed.cyc.running = true ∧ uncommitted wFed = true ∧ wFed.host.ready = true ∧
      wFed.sleep.power = .awake ∧ wFed.cyc.ts + (cycleLen wFed : Int) ≤ wFed.time.now ∧
      (be 4 100 ++ zeros 12).length = 16 ∧ field (be 4 100 ++ zeros 12) 0 4 = wFed.cyc.n ∧
      field (be 4 100 ++ zeros 12) 12 4 ≤ wFed.pair.fedCount ∧ field (zeros 16) 0 4 ≠ wFed.cyc.n) ∧
    (∃ s : State, s.skim.snapshot.state = 1) ∧
    (∃ s : State, s.route.edited = none ∧ s.route.staged = some ⟨1, 0, 0, 0, []⟩ ∧ tableDue s ⟨1, 0, 0, 0, []⟩ = true) ∧
    (∃ s : State, s.route.edited = some ⟨1, 0, 0, 100, []⟩ ∧ s.route.staged = none ∧ tableDue s ⟨1, 0, 0, 100, []⟩ = true) :=
  ⟨by decide, by decide, ⟨{ wTrain with skim := { SkimSt.init with snapshot := ⟨1, false, 0, none, [], []⟩ } }, rfl⟩,
    ⟨{ wTrain with route := { Routing.init with staged := some ⟨1, 0, 0, 0, []⟩ } }, by decide⟩,
    ⟨{ wTrain with route := { Routing.init with edited := some ⟨1, 0, 0, 100, []⟩ } }, by decide⟩⟩

/-- A unit with a delay request pending on A1 and a response to it, and one with an entry due. -/
def wDelay (kind : Nat) : Frame := ⟨1, 11, 0, 0, 0, 0, 1, 0, 0, 0, 0, be 1 kind ++ zeros 27⟩
def wExch (f : Frame) : State :=
  { wTrain with
    line := { wTrain.line with rx := [⟨.a1, f, 0⟩, ⟨.a2, f, 0⟩] }
    time := { wTrain.time with
      exchanges := Ports.all ⟨some 0, 0, none, none⟩
      events := [⟨1, 4, true, false, false, false, 0, 0, 0, 0⟩] } }
/-- The unit on the line of a pair whose unit 2 is fed over the peer ring, with a frame from it. -/
def wFedTx (f : Frame) : State :=
  { wExch f with cfg := some { wCfg with node := { wCfg.node with arrangement := 1, units := 2 } } }
/-- The premises of `Obligations.TimeIsMeasuredAndEventsFire` and of `Obligations.ExchangeAndEventRowsComplete` are met. -/
theorem meets_time :
    (waits (wExch (wDelay 0)) .a1 (wDelay 0) = true ∧ (wDelay 0).ftype = 11 ∧ field (wDelay 0).payload 0 1 = 0 ∧
      fromVehicle (wExch (wDelay 0)) (wDelay 0) = false ∧ linkUp (wExch (wDelay 0)) .a1 = true ∧
      segmentFree (wExch (wDelay 0)) .a1 = true ∧ (wExch (wDelay 0)).set.quietUntil ≤ (wExch (wDelay 0)).clk) ∧
    (∀ f s, f = { wDelay 0 with srcPos := 1, srcUnit := 2 } → s = wFedTx f → waits s .a1 f = true ∧ f.ftype = 11 ∧ field f.payload 0 1 = 0 ∧
      fromVehicle s f = true ∧ onRing s = true ∧ composing s = true) ∧
    (waits (wExch (wDelay 0)) .a1 (wDelay 0) = true ∧
      mayAnswer { wExch (wDelay 0) with line := { (wExch (wDelay 0)).line with ports := Ports.all LPort.init } } .a1 (wDelay 0) = false) ∧
    (isFed (wExch (wDelay 1)) = false ∧ waits (wExch (wDelay 1)) .a1 (wDelay 1) = true ∧ field (wDelay 1).payload 0 1 = 1 ∧
      ((wExch (wDelay 1)).time.exchanges.get .a1).t1 = some 0 ∧ timeField (wDelay 1).payload 4 = 0 ∧
      timeField (wDelay 1).payload 12 = 0 ∧ timeField (wDelay 1).payload 20 = 0) ∧
    ((wExch (wDelay 0)).time.exchanges.get .a1).sentAt + 20000 ≤ (wExch (wDelay 0)).clk ∧
    (∃ e, (wExch (wDelay 0)).time.events[0]? = some e ∧ e.kind = 1 ∧ canFire e = true ∧
      e.target ≤ (wExch (wDelay 0)).time.now ∧ e.action = 4) :=
  ⟨by decide, by intro f s h k; subst h; subst k; decide, by decide, by decide, by decide, ⟨⟨1, 4, true, false, false, false, 0, 0, 0, 0⟩, by decide⟩⟩
/-- A response on the time reference port of a follower corrects it. -/
theorem meets_correction :
    ∃ s : State, isFed s = false ∧ waits s .a2 (wDelay 1) = true ∧ (s.time.exchanges.get .a2).t1 = some 0 ∧ timeRef s = some .a2 ∧
      s.time.corrected = false ∧ s.set.lease = false ∧ s.time.base ≠ .unset ∧ aboveGuard s ((0 - 0 - (5 - 0)) / 2) 3 4 = false :=
  ⟨{ wExch (wDelay 1) with
      cfg := some { wCfg with node := { wCfg.node with uuid := 2 } }
      set := { wTrain.set with
        lease := false, probes := wTrain.set.probes.set .a2 (some (zeros 25 ++ [4])), probeTopo := Ports.all 1 } }, by decide⟩

/-- A polled unit at position 2 of the same train. -/
def wPoll : State :=
  { wPub with
    cfg := some { wCfg with node := { wCfg.node with uuid := 2 } }
    set := { wTrain.set with lease := false }
    cyc := { wPub.cyc with polls := [⟨2, 0, 256, 400⟩] } }
/-- The premises of `Obligations.WindowsOfTheCycleAreUsed` are met: the segment phase, the timer and the slots. -/
theorem meets_windows :
    (inCycle wPub = true ∧ phaseOpen wPub .a1 = true ∧ wPub.cyc.phased.contains .a1 = false ∧ LinePort.a1 ∈ upPorts wPub ∧
      isFed wPub = false) ∧
    (inCycle { wPub with cyc := CycleSt.init } = false ∧ wPub.set.quietUntil ≤ wPub.clk ∧ 0 + 1000000 ≤ wPub.clk) ∧
    ((ownPubSlot wPub).isSome = true ∧ awake wPub = true ∧ composing wPub = true ∧ publicationReady wPub = true ∧
      mayOriginate wPub = true) ∧
    ((awake wPub && composing wPub && publicationReady { wPub with skim := SkimSt.init }) = false ∧
      nullReason { wPub with skim := SkimSt.init } = some 0 ∧ attached wPub = true) := by
  decide +kernel
theorem meets_ownFrames : ∃ x p ps, ownPubSlot wPub = some x ∧ (ownFrames wPub x.bytes).1 = p :: ps := by
  have h : ∃ x, ownPubSlot wPub = some x ∧ (ownFrames wPub x.bytes).1 ≠ [] :=
    ⟨(ownPubSlot wPub).getD ⟨0, 0, 0, 0, 0⟩, by decide +kernel⟩
  obtain ⟨x, h1, h2⟩ := h
  obtain ⟨p, ps, h3⟩ := List.exists_cons_of_ne_nil h2
  exact ⟨x, p, ps, h1, h3⟩
/-- … the message and supervision windows and the lead's work. -/
theorem meets_messageWindow :
    (wPub.set.lease = true ∧ mayOriginate wPub = true ∧ awake wPub = true) ∧
    (wPub.cyc.nextShift = none ∧ wPub.cyc.nextAnchor = none ∧ wPub.cyc.ahead = 0 ∧ inCycle wPub = true) ∧
    (ownPoll wPoll = some ⟨2, 0, 256, 400⟩ ∧ inCycle wPoll = true ∧ wPoll.cyc.stopped = false ∧
      wPoll.cyc.silenced = false ∧ wPoll.cyc.joined = true ∧ wPoll.set.lease = false ∧ awake wPoll = true ∧
      wPoll.cyc.replied.contains (ownPos wPoll) = false) ∧
    (mayOriginate wPub = true ∧ hasSupSlot { wPub with cyc := { wPub.cyc with n := 0 } } = true ∧ attached wPub = true) := by
  decide +kernel

/-- A unit in a state of the set-out engine, its instants long past. -/
def wSet (st : SetoutState) : State := { wLine with line := { wLine.line with ports := Ports.all wUp }, set := { SetoutSt.init with state := st } }
/-- … in a census run with one reply. -/
def wRunOpen (rs : List CensusReply) : State :=
  { wSet .census with set := { (wSet .census).set with runOpen := true, replies := rs, prevRun := some (runKey rs) } }
/-- The premises of `Obligations.SetOutStatesFollowTheTable` and of `Obligations.DueSetOutRowsComplete` are met. -/
theorem meets_setOut :
    ((wSet .settling).set.state = .settling ∧ attached (wSet .settling) = true ∧
      (allPorts.filter (assigned (wSet .settling))).all (linkUp (wSet .settling)) = true) ∧
    ((wSet .claiming).set.lastClaim + 250000 ≤ (wSet .claiming).clk ∧ (wSet .claiming).set.claimFrom + 1000000 ≤ (wSet .claiming).clk ∧
      (wSet .claiming).set.quietUntil ≤ (wSet .claiming).clk ∧
      (wSet .claiming).set.keys = []) ∧
    ((wSet .census).set.runOpen = false ∧ (wSet .census).set.runFrom + 500000 ≤ (wSet .census).clk) ∧
    (∀ rs, rs = [⟨2, 1000, .a1, false, 1, 5, 0⟩] → (wRunOpen rs).set.runOpen = true ∧
      tooClose (rankReplies rs) = false ∧ (wRunOpen rs).set.prevRun = some (runKey (rankReplies rs))) ∧
    (∀ st, st = { wSet .committing with set := { (wSet .committing).set with issued := some wNum, attempts := 3, replies := [⟨2, 0, .a1, false, 1, 256, 0⟩] } } →
      st.set.commitTs = none ∧ st.set.ackFrom + 250000 ≤ st.clk ∧ st.set.issued = some wNum ∧ allAcked st = false) := by
  refine ⟨by decide, by decide, by decide, ?_, ?_⟩ <;> intro _ h <;> subst h <;> decide
theorem meets_setOutDue :
    (∃ s : State, s.set.replyDue = some .a1) ∧
    (∃ s : State, s.set.pending = some wNum ∧ s.set.ackDue = true ∧ inCycle s = false ∧
      s.set.state ≠ .absorbing ∧ s.set.commitTs = some 0 ∧ 0 ≤ s.time.now) ∧
    (∃ s : State, s.set.pending = some { wNum with commit := 100 } ∧ s.set.commitTs = none ∧ s.cyc.running = true ∧ inCycle s = true ∧
      100 = s.cyc.n ∧ s.set.pendingAt ≠ some s.cyc.n) ∧
    (∃ s : State, s.set.state = .committed ∧ s.set.lease = false ∧ s.cyc.running = true ∧ s.set.expiry = gridN s ∧
      s.set.expiry = cycAdd s.set.lastStart 8) ∧
    (∃ s : State, s.set.state = .absorbing ∧ 16 ≤ cycDiff (gridN s) s.set.absorbFrom) ∧
    (∃ s : State, s.set.state = .settling ∧ attached s = true ∧ s.set.firstLink = some 0 ∧ 0 + 150000000 ≤ s.clk) ∧
    ((wSet .waiting).set.state = .waiting ∧ (wSet .waiting).set.waitFrom + 50000000 ≤ (wSet .waiting).clk) :=
  ⟨⟨{ wSet .waiting with set := { SetoutSt.init with replyDue := some .a1 } }, rfl⟩,
    ⟨{ wSet .waiting with set := { SetoutSt.init with pending := some wNum, ackDue := true, commitTs := some 0 } }, by decide⟩,
    ⟨{ wTrain with set := { wTrain.set with pending := some { wNum with commit := 100 } } }, by decide⟩,
    ⟨{ wTrain with set := { wTrain.set with lease := false, expiry := 100, lastStart := 92 } }, by decide⟩,
    ⟨{ wTrain with set := { wTrain.set with state := .absorbing } }, by decide⟩,
    ⟨{ wLine with set := { SetoutSt.init with state := .settling, firstLink := some 0 } }, by decide⟩, by decide⟩

/-- A frame of a type from position 2, waiting at A1 in a state. -/
def wFrame (ty chan : Nat) (payload : Bytes) : Frame := ⟨1, ty, 0, 1, 100, 2, 1, 0, chan, 0, 0, payload⟩
def wWait (s : State) (f : Frame) : State := { s with line := { s.line with rx := [⟨.a1, f, 0⟩] } }
/-- The premises of `Obligations.DeliveredFramesTakeEffect` are met: frames of a running train. -/
theorem meets_deliveredInService :
    (∀ f, f = wFrame 2 256 (be 4 0 ++ zeros 4) →
      waits (wWait wTrain f) .a1 f = true ∧ isSafety f = false ∧
      (slotEntry (wWait wTrain f) (pubSlotOf f)).any (fun e => e.pos == f.srcPos && !e.absent) = true ∧
      f.cycle = (wWait wTrain f).cyc.n ∧ (frameElems (pubSlotOf f) f).any (fun e => isSafetySignal (wWait wTrain f) e.1) = false) ∧
    (∀ f, f = { wFrame 2 256 (zeros 24) with flags := 0x40 } →
      waits (wWait wTrain f) .a1 f = true ∧ isSafety f = true ∧ envelopeFault (wWait wTrain f) f = some 1 ∧ assigned (wWait wTrain f) .a1 = true) ∧
    (∀ f, f = wFrame 3 256 (zeros 4) → waits (wWait wTrain f) .a1 f = true ∧
      (slotEntry (wWait wTrain f) (pubSlotOf f)).any (fun e => e.pos == f.srcPos && !e.absent) = true) ∧
    (∀ f, f = wFrame 4 0 (zeros 8) → waits (wWait wTrain f) .a1 f = true) ∧
    (∀ f, f = wFrame 10 0 (zeros 24) → waits (wWait wTrain f) .a1 f = true ∧ 1 ≤ f.srcUnit ∧ f.srcUnit ≤ 4 ∧
      (presentEntries (wWait wTrain f)).any (fun e => e.pos == f.srcPos) = true) ∧
    (∀ f, f = wFrame 6 0 (zeros 28) → waits (wWait wTrain f) .a1 f = true) := by
  refine ⟨?_, ?_, ?_, ?_, ?_, ?_⟩ <;> intro _ h <;> subst h <;> decide +kernel
/-- … set-out frames. -/
theorem meets_deliveredSetOut :
    (∀ f, f = wFrame 7 0 (be 8 5 ++ zeros 24) → waits (wWait wTrain f) .a1 f = true ∧ claimBits f = 0 ∧ 1 ≤ f.srcPos) ∧
    (∀ f, f = wFrame 7 0 (be 8 5 ++ zeros 20 ++ [5] ++ zeros 3) → waits (wWait wTrain f) .a1 f = true ∧ bitOf (claimBits f) 0 = true ∧
      isBoundary wTrain .a1 = false) ∧
    (∀ f, f = wFrame 7 0 (be 8 5 ++ zeros 20 ++ [4] ++ zeros 3) →
      waits (wWait wTrain f) .a1 f = true ∧ claimBits f = 4 ∧ 1 ≤ f.srcPos ∧ wTrain.set.state = .committed ∧ wTrain.set.lease = true ∧
      wTrain.set.pending = none ∧ field f.payload 8 16 = 0 ∧ wNum.entries.all (fun e => e.uuid != 0) = true ∧ wTrain.set.triggers = []) ∧
    (∀ f s, f = wFrame 7 0 (be 8 5 ++ zeros 24) → s = { wLine with set := { SetoutSt.init with state := .waiting } } →
      waits (wWait s f) .a1 f = true ∧ claimBits f = 0 ∧ field f.payload 0 8 ≠ ownKey s ∧ s.set.quietUntil ≤ s.clk) ∧
    (∀ f s, f = wFrame 7 0 (be 8 5 ++ zeros 20 ++ [2] ++ zeros 3) → s = { wLine with set := { SetoutSt.init with state := .claiming } } →
      waits (wWait s f) .a1 f = true ∧ claimBits f = 2 ∧ s.set.state = .claiming ∧ s.set.quietUntil ≤ s.clk) ∧
    (∀ f s, f = wFrame 7 0 (zeros 28 ++ [2] ++ zeros 3) → s = { wLine with set := { SetoutSt.init with state := .census, runOpen := true } } →
      waits (wWait s f) .a1 f = true ∧ claimBits f = 2 ∧ s.set.state = .census ∧ s.set.runOpen = true) ∧
    (∀ f, f = wFrame 8 0 wNum.bytes → waits (wWait wTrain f) .a1 f = true) ∧
    (∀ f s, f = { wFrame 9 0 (commitPayload (parseNumbering wNum.bytes)) with flags := 0x80 } →
      s = { wLine with set := { SetoutSt.init with offered := some wNum.bytes } } →
      waits (wWait s f) .a1 f = true ∧ fromLead f = true ∧ s.set.offered = some wNum.bytes ∧
      field f.payload 8 4 = crc32 wNum.bytes ∧ field f.payload 0 4 = (parseNumbering wNum.bytes).topo ∧
      s.set.state ≠ .committed ∧ field f.payload 4 4 = (parseNumbering wNum.bytes).commit ∧ (entryOf (parseNumbering wNum.bytes) (vehicleUuid s)).isSome = true) ∧
    (∀ f s, f = { wFrame 9 0 (commitPayload wNum) with srcPos := 0 } → s = { wLine with set := { SetoutSt.init with issued := some wNum } } →
      waits (wWait s f) .a1 f = true ∧ fromLead f = false ∧ s.set.issued = some wNum) := by
  refine ⟨?_, ?_, ?_, ?_, ?_, ?_, ?_, ?_, ?_⟩ <;>
    first | (intro _ h; subst h; decide +kernel) | (intro _ _ h k; subst h; subst k; decide +kernel)

/-- The premises of `Obligations.RenumberingTriggersAndCouplingFollow` are met. -/
theorem meets_renumbering :
    (∃ s : State, s.set.lease = true ∧ 4 ≤ Tab.getD s.set.silent 2 0 ∧ Trigger.absent 2 ∉ s.set.triggers ∧
      s.set.issued = some wNum ∧ repeatsOver s wNum = true) ∧
    true ≠ wTrain.set.cabActive ∧
    (∃ s : State, s.set.retrainB = some 0 ∧ 0 ≤ s.cyc.ts ∧ (presentEntries s).filter (fun e => e.pos != 1 && e.pos != 2) = []) ∧
    (wTrain.set.numbering = some wNum ∧ wTrain.set.state = .committed ∧ managing wTrain = true ∧ LinePort.a1 ∈ upPorts wTrain ∧
      (zeros 32).length = 32 ∧ numberingOk wNum.bytes = true ∧ field (zeros 32) 0 8 = wTrain.set.leadKey ∧
      field (be 8 9 ++ zeros 24) 0 8 ≠ wTrain.set.leadKey ∧ presentCount wNum + presentCount (parseNumbering wNum.bytes) ≤ 64) ∧
    (∃ s : State, s.set.boundary.get .a1 = true ∧ s.set.state = .committed ∧ s.set.survivor = true ∧ s.set.far.isSome = true ∧
      s.set.refused = false ∧ segRate25 s .a1 = mergedRate25 s ∧ lineRate s .a1 = mergedRate25 s ∧ linkUp s .a1 = true ∧
      probeCommitted s .a1 = false) := by
  refine ⟨⟨{ wTrain with set := { wTrain.set with silent := [(2, 4)], issued := some wNum } }, by decide⟩, by decide,
    ⟨{ wTrain with set := { wTrain.set with retrainB := some 0 } }, by decide⟩, by decide +kernel,
    ⟨{ wTrain with set := { wTrain.set with boundary := Ports.all true, survivor := true, far := some ⟨0, 0, 0, none⟩ } }, by decide⟩⟩
/-- … a retraining of line B at position 2 of three, and a merge claim through a boundary port from this unit's own lead. -/
theorem meets_mergeMore :
    (∀ s, s = { wTrain with
        cfg := some { wCfg with node := { wCfg.node with uuid := 2 } }
        set := { wTrain.set with retrainB := some 0, ownSup := zeros 12, numbering := some { wNum with entries := wNum.entries ++ [⟨3, 3, 2, false, false, false, 1, 0⟩] } } } →
      s.set.retrainB = some 0 ∧ 0 ≤ s.cyc.ts ∧ ownPos s = 2 ∧ (presentEntries s).map (·.pos) = [1, 2, 3] ∧ s.set.ownSup ≠ [] ∧
      bitOf (field s.set.ownSup 0 4) 7 = false ∧ s.set.sups = []) ∧
    (∀ f s, f = wFrame 7 0 (be 8 5 ++ zeros 20 ++ [5] ++ zeros 3) →
      s = { wWait wTrain f with set := { wTrain.set with boundary := Ports.all true, leadKey := 5 } } →
      waits s .a1 f = true ∧ bitOf (claimBits f) 0 = true ∧ isBoundary s .a1 = true ∧ field f.payload 0 8 = s.set.leadKey) := by
  refine ⟨?_, ?_⟩
  · intro s h; subst h; decide +kernel
  · intro f s h k; subst h; subst k; decide +kernel

/-- A message frame of a kind for the bridge engine of slot 0, from slot 1. -/
def wMsg (kind : Nat) (body : Bytes) : Frame :=
  ⟨1, 5, 0, 1, 100, 2, 1, 0, 1024, 0, 0, msgPayload 1 0 kind 0 0 7 (be 2 0 ++ be 2 0 ++ body)⟩
/-- A unit with that message in its inbox, tag 7 in use, and a signal of its own. -/
def wInbox (f : Frame) (kind : TagKind) : State :=
  { wTrain with
    cfg := some { wCfg with dictionary := [⟨0, 1, 4, .application, false, 0⟩] }
    bridge := { BridgeSt.init with
      inbox := [f], tags := [⟨7, 0, kind, .waiting, 0, 0, none, 0, 0, [], 0, 0, false, false, 0, 0, 0⟩] } }
/-- An access route that may be read, and a value read ahead on it. -/
def wReadEntry : Bytes := be 4 0 ++ be 1 0x63 ++ be 1 0 ++ be 2 3 ++ zeros 24
def wAhead : ReadAhead := ⟨0, 5, 1000000000⟩
/-- The premises of `Obligations.BridgeMessagesAreServed` are met: delivery, writes and reads. -/
theorem meets_messages :
    (∀ f s, f = wMsg 1 (zeros 24) → s = { wTrain with line := { wTrain.line with rx := [⟨.a1, f, 0⟩] } } →
      waits s .a1 f = true ∧ msgKind f ≠ 0 ∧ addressedHere s f = true ∧ s.veh.staging.length < 128 ∧
      stagedBytes s + (ringBytes f).length ≤ 524288) ∧
    (∀ f s, f = wMsg 1 (be 1 2 ++ be 1 4 ++ zeros 22) → s = wInbox f .read → f ∈ s.bridge.inbox ∧ msgKind f = 1 ∧
      Tab.get? s.bridge.expected (channelSlot f.channel) = none ∧ field (msgBody f) 4 1 = 2 ∧ field (msgBody f) 8 4 = 0 ∧
      ownSignal s 0 = true ∧ defOf s 0 = some ⟨0, 1, 4, .application, false, 0⟩ ∧ field (msgBody f) 5 1 = 4 ∧
      writeAllowed s 0 = true) ∧
    (∀ f s, f = wMsg 1 (zeros 24) → s = wInbox f .read → f ∈ s.bridge.inbox ∧ field (msgBody f) 4 1 = 0 ∧
      accessRefusal s (field (msgBody f) 8 4 % 1048576) (field (msgBody f) 5 1) true 1 = some (stRouteMissing, 0)) ∧
    (∀ f s, f = wMsg 2 (zeros 24) → s = wInbox f .read → f ∈ s.bridge.inbox ∧ msgKind f = 2 ∧
      accessRefusal s (field (msgBody f) 8 4 % 1048576) (field (msgBody f) 5 1) false (field (msgBody f) 12 1) = some (stRouteMissing, 0)) ∧
    (∀ f s, f = wMsg 3 (zeros 32) → s = wInbox f .read → f ∈ s.bridge.inbox ∧ msgKind f = 3 ∧ (findTag s (msgTag f)).isSome = true ∧
      msgChannel f = 0 ∧ bitOf (field (msgBody f) 6 1) 0 = false ∧
      findTag { s with bridge := { s.bridge with tags := [] } } (msgTag f) = none) := by
  refine ⟨?_, ?_, ?_, ?_, ?_⟩ <;> intro _ _ h k <;> subst h <;> subst k <;> decide +kernel
/-- … a read-ahead value, errors, announcements, semaphores and an old sequence. -/
theorem meets_messagesMore :
    (∃ s f r, arrivesInOrder s f 2 ∧
      accessRefusal s (field (msgBody f) 8 4 % 1048576) (field (msgBody f) 5 1) false (field (msgBody f) 12 1) = none ∧
      readAhead s (field (msgBody f) 8 4 % 1048576) = some r) ∧
    (∀ f s, f = wMsg 4 (zeros 16) → s = wInbox f .postedWrite → f ∈ s.bridge.inbox ∧ msgKind f = 4 ∧
      field (msgBody f) 4 1 ≠ 0xFE ∧ (findTag s (msgTag f)).isSome = true ∧ msgChannel f = 0) ∧
    (∀ f s, f = { wMsg 5 (zeros 28) with payload := msgPayload 1 0 5 0 0 7 (be 2 1 ++ zeros 30) } → s = wInbox f .read →
      f ∈ s.bridge.inbox ∧ msgKind f = 5 ∧ endpointOpen s (channelEnd (field (msgBody f) 0 2)) = true ∧ annCount s < 1024) ∧
    (∀ f s, f = wMsg 6 (be 1 1 ++ zeros 7) → s = wInbox f .read → f ∈ s.bridge.inbox ∧ msgKind f = 6 ∧
      field (msgBody f) 4 1 = 1 ∧ semHere s f.channel (msgTag f) = false ∧ semOf s 0 = none ∧
      semOf { s with bridge := { s.bridge with sems := [⟨0, 5, 1⟩] } } 0 = some ⟨0, 5, 1⟩) ∧
    (∀ f, f = wMsg 1 (zeros 24) → 16383 < (field (msgBody f) 2 2 + 32768 - 1) % 32768 ∧ field (msgBody f) 2 2 < 32768) := by
  refine ⟨?_, ?_, ?_, ?_, ?_⟩
  · let f := wMsg 2 (zeros 24)
    refine ⟨{ wInbox f .read with
      route := { Routing.init with table := some ⟨0, 1, 0, 0, [(0, wReadEntry)]⟩ }
      bridge := { (wInbox f .read).bridge with readAheads := [wAhead] } }, f, wAhead, ⟨?_, ?_, ?_⟩, ?_, ?_⟩ <;> decide +kernel
  · intro _ _ h k; subst h; subst k; decide +kernel
  · intro _ _ h k; subst h; subst k; decide +kernel
  · intro _ _ h k; subst h; subst k; decide +kernel
  · intro _ h; subst h; decide +kernel

/-- A tag, a semaphore's holder and waiter, a lock and a transaction whose times have come. -/
def wTag (kind : TagKind) (st : TagState) : TagSt := ⟨7, 0, kind, st, 0, 0, none, 0, 0, [], 0, 0, false, true, 0, 0, 0⟩
def wTxn (w : Option (Val × Nat)) : FarTxn :=
  { key := ⟨0, 6, []⟩, route := 0, entry := zeros 32, replyTo := 1024, tag := 9, localTag := false, srcSlot := 1, write := w, conv := none,
    deadline := 0, unitsDone := 0, got := [], started := true, shadowRead := false, locked := false, semHeld := false, authority := 1, side := false }
def wDue : State :=
  { wTrain with bridge := { BridgeSt.init with
      tags := [wTag .read .held], slotTx := [(1, ⟨0, false, 8, true⟩)], sems := [⟨3, 1024, 1⟩]
      semWaits := [⟨3, 8, 1024, 0, 1⟩], locks := [⟨1, 5, 0⟩], lockWaits := [⟨2, 7, 0, 0, 0⟩], locked := [⟨7, 2, [], []⟩] } }
/-- The premises of `Obligations.BridgeTimersAndLocksRunOut` are met. -/
theorem meets_bridgeTimers :
    (findTag wDue 7 = some (wTag .read .held) ∧ (wTag .read .held).holdEnd ≤ wDue.clk) ∧
    (∀ k, k = TagKind.read ∨ k = .postedWrite → ∀ s, s = { wDue with bridge := { wDue.bridge with tags := [wTag k .queued] } } →
      findTag s 7 = some (wTag k .queued) ∧ (wTag k .queued).deadline ≤ s.clk ∧
      ∀ y ∈ s.bridge.farQueue, y.localTag = true → y.tag = 7 → y.started = false) ∧
    (∀ s, s = { wDue with bridge := { wDue.bridge with
        tags := [wTag .postedWrite .waiting], farQueue := [{ wTxn (some (0, 0)) with tag := 7, localTag := true }] } } →
      findTag s 7 = some (wTag .postedWrite .waiting) ∧ (wTag .postedWrite .waiting).kind = .postedWrite ∧
      ∃ y ∈ s.bridge.farQueue, y.localTag = true ∧ y.tag = 7 ∧ y.started = true) ∧
    ((slotTxOf wDue 1).markDue = true ∧ 8 ≤ (slotTxOf wDue 1).idle ∧ slotPresent wDue 1 = true) ∧
    (semOf wDue 3 = some ⟨3, 1024, 1⟩ ∧ 1 ≤ wDue.clk ∧ wDue.bridge.farQueue = [] ∧
      wDue.bridge.semWaits.find? (fun w => w.tag == 8 && w.until_ ≤ wDue.clk) = some ⟨3, 8, 1024, 0, 1⟩ ∧
      semHere wDue 1024 8 = false) ∧
    (∀ s, s = { wDue with bridge := { wDue.bridge with locked := [] } } → (∀ l ∈ s.bridge.locks, l.port ≠ 2) ∧ portBusy s 2 = false ∧
      s.bridge.lockWaits.find? (fun w => w.port == 2) = some ⟨2, 7, 0, 0, 0⟩ ∧ txnId 0 7 ≠ 0) ∧
    (∀ s, s = { wDue with clk := 1000000000, bridge := { wDue.bridge with
        tags := [wTag .postedWrite .sent], sentRecs := [⟨1, 0, 1, 7, 0, 0, 1024, none, 0, 0, 0⟩] } } →
      findTag s 7 = some (wTag .postedWrite .sent) ∧ (wTag .postedWrite .sent).deadline ≤ s.clk ∧
      s.bridge.sentRecs.any (fun r => sentWrite r (wTag .postedWrite .sent) && decide (r.at_ + 1000000000 ≤ s.clk)) = true) ∧
    (      wDue.bridge.locks.find? (fun l => l.port == 1) = some ⟨1, 5, 0⟩ ∧ 0 + 5000000 ≤ wDue.clk ∧
      wDue.bridge.lockWaits.find? (fun w => w.tag == 7 && w.until_ ≤ wDue.clk) = some ⟨2, 7, 0, 0, 0⟩ ∧
      wDue.bridge.locked.find? (fun q => q.tag == 7 && q.port == 2) = some ⟨7, 2, [], []⟩) ∧
    ((wTxn none).started = true ∧ (wTxn none).locked = false ∧ (wTxn (some (0, 0))).unitsDone + 1 = unitCount (wTxn (some (0, 0))).entry) := by
  refine ⟨by decide, ?_, ?_, by decide, by decide, ?_, ?_, by decide, by decide +kernel⟩
  · intro k h s e; subst e; rcases h with h | h <;> subst h <;> decide
  all_goals (intro s e; subst e; decide)
/-- … an access whose semaphore another initiator holds. -/
theorem meets_bridgeTimersHeld :
    ∀ s y, y = { wTxn none with tag := 7, localTag := true, started := false, entry := be 4 0x10 ++ be 1 0x73 ++ be 1 0 ++ be 2 0x10 ++ [0, 0, 3] ++ zeros 21 } →
      s = { wDue with bridge := { wDue.bridge with tags := [wTag .read .waiting], farQueue := [y], sems := [⟨rGroup y.entry, 5, 1⟩] } } →
      findTag s 7 = some (wTag .read .waiting) ∧ (wTag .read .waiting).deadline ≤ s.clk ∧ y ∈ s.bridge.farQueue ∧
      needsSem y.entry = true ∧ semState s y = 2 := by
  intro s y h k; subst h; subst k; decide +kernel

/-- The entry of a channel: enabled, interface 0, profile 5, missing at 3, device port 700, period 1, timeout 1 s. -/
def wChanEntry : Bytes := [1, 0, 5, 3] ++ be 4 0x0A000002 ++ be 2 700 ++ be 2 0 ++ be 2 1 ++ be 2 0 ++ be 2 10000 ++
  be 2 4 ++ be 2 4 ++ zeros 10
/-- A unit of a running train with channel 3 in that state. -/
def wChan (c : ChanSt) : State := { wTrain with clk := 5000000000, veh := { wTrain.veh with chans := [(3, c)] } }
def wChanSt : ChanSt := { ChanSt.init wChanEntry with state := .active, sentAt := 1 }
/-- An access of the channel that is at its head. -/
def wChanTxn : FarTxn := ⟨⟨7, 0, be 1 0 ++ be 2 3⟩, 1, be 4 0 ++ be 1 0x70 ++ zeros 3 ++ be 1 0 ++ be 2 3 ++ zeros 21,
  0, 7, true, 0, none, none, 9000000000, 0, [], true, false, false, false, 0, false⟩
/-- The premises of `Obligations.DeviceChannelsExchange` and of `Obligations.DueChannelRowsComplete` are met. -/
theorem meets_channels :
    (∀ s, s = { wChan wChanSt with skim := { wTrain.skim with staging := [(101, [])] } } →
      chEnabled (chanSt s 3) = true ∧ (chanSt s 3).out = 0 ∧ (chanSt s 3).state = .active ∧ s.pair.repeatOff = false ∧
      dueSkim s (chPeriod (chanSt s 3)) (chPhase (chanSt s 3)) (chanSt s 3).lastCyclic = some (101, [])) ∧
    (∀ s, s = { wChan { wChanSt with state := .missing } with bridge := { BridgeSt.init with farQueue := [wChanTxn] } } →
      chanDemand s 3 = some wChanTxn ∧ s.clk < wChanTxn.deadline ∧ (chanSt s 3).state ≠ .active) ∧
    (∀ s, s = { wChan wChanSt with bridge := { BridgeSt.init with farQueue := [wChanTxn] }, cyc := CycleSt.init } →
      chanDemand s 3 = some wChanTxn ∧ (chanSt s 3).state = .active ∧ (chanSt s 3).out = 0 ∧ s.cyc.running = false ∧
      (activate s 3 1 (appliedImage s (chanKey s 3) (chOutLen (chanSt s 3))) [] (some (chanTxn wChanTxn)) []).isNone = true ∧
      writing wChanTxn = false) ∧
    (∀ s, s = wChan { wChanSt with state := .faulted } → (chanSt s 3).state = .faulted ∧
      (chanSt s 3).lastFaultPoll + 1000000000 ≤ s.clk) ∧
    (∀ s, s = wChan { wChanSt with out := 1 } → (chanSt s 3).out ≠ 0 ∧ (chanSt s 3).state = .active ∧
      chAddr (chanSt s 3) ≠ 0 ∧ (chanSt s 3).sentAt + chTimeout (chanSt s 3) ≤ s.clk) ∧
    (∀ s, s = { wTrain with
        cfg := some { wCfg with net := { NetCfg.none with
          ifaces := [(0, ⟨1, 0x0A000001, 24, 64, 1⟩)], arpStatic := [(0, 0x0A000002, 9)] } },
        veh := { wTrain.veh with chans := [(3, { wChanSt with state := .resolving })], ports := [(1, { Vport.init with link := 1 })] } } →
      (chanSt s 3).state = .resolving ∧ ifaceUp s (chIface (chanSt s 3)) = true ∧ (arpMac s (chIface (chanSt s 3)) (chAddr (chanSt s 3))).isSome = true) := by
  refine ⟨?_, ?_, ?_, ?_, ?_, ?_⟩ <;> intro s h <;> subst h <;> decide +kernel
/-- … a response that the channel's profile accepts: its program is the one instruction TEND of class 0. -/
theorem meets_channelResponse :
    ∃ s : State, (chanSt s 3).out = 1 ∧ (chanSt s 3).state = .active ∧ chAddr (chanSt s 3) = 0x0A000002 ∧
      (match activate s 3 3 (appliedImage s (chanKey s 3) (chOutLen (chanSt s 3))) [1, 2] none [] with
       | some (.ok f) => f.ended == some (0, 0) | _ => false) = true := by
  refine ⟨{ wChan { wChanSt with out := 1 } with
      fld := { FieldSt.init with profiles := [(5, ⟨1, 1, 0, 0, [0xA0000000], []⟩)] } }, ?_⟩
  decide +kernel
/-- A profile program that ends each activation with `TEND` of a class, and one that faults: its build and its parse are `FAULT`. -/
def wProfile (cls : Nat) : Program := ⟨1, 1, 0, 0, [BitVec.ofNat 32 (0xA0000000 + cls)], []⟩
def wFaulty : Program := ⟨1, 1, 0, 0, [0xA8000000], []⟩
/-- How a program ends an activation: 100 and the fault's code, or its class. -/
def wEnds (r : Option (Except (Nat × Nat × FloatSt) FloatSt)) : Option Nat :=
  r.map (fun x => match x with | .error e => 100 + e.1 | .ok f => f.ended.elim 99 (·.1))
def wChanIn (st : ChanState) (out : Nat) (p : Program) : State :=
  { wChan { wChanSt with state := st, out := out } with
    skim := { wTrain.skim with staging := [(101, [])] }, fld := { FieldSt.init with profiles := [(5, p)] } }
/-- … each way in which a build or a parse ends, in each state; semaphores, and an expired access. -/
theorem meets_channelEnds :
    (∀ st ∈ [ChanState.starting, .active, .missing], ∀ c ∈ [0, 1, 3], ∀ s, s = wChanIn st 0 (wProfile c) →
      (chanSt s 3).state = st ∧ dueSkim s (chPeriod (chanSt s 3)) (chPhase (chanSt s 3)) (chanSt s 3).lastCyclic = some (101, []) ∧
      wEnds (activate s 3 0 (stagedImage s (chanKey s 3) (chOutLen (chanSt s 3)) []) [] none []) = some c) ∧
    (∀ st ∈ [ChanState.starting, .active, .missing, .faulted], ∀ c ∈ [0, 1, 3], ∀ s, s = wChanIn st 1 (wProfile c) →
      (chanSt s 3).out ≠ 0 ∧ (chanSt s 3).state = st ∧
      wEnds (activate s 3 3 (appliedImage s (chanKey s 3) (chOutLen (chanSt s 3))) [1] none []) = some c) ∧
    (∀ k ∈ [0, 3], ∀ s, s = wChanIn .active (k / 3) wFaulty →
      wEnds (activate s 3 k (appliedImage s (chanKey s 3) (chOutLen (chanSt s 3))) [] none []) = some 105) ∧
    (∀ s, s = { wChanIn .active 2 (wProfile 0) with bridge := { BridgeSt.init with farQueue := [wChanTxn] } } →
      (chanSt s 3).out = 2 ∧ chanDemand s 3 = some wChanTxn ∧
      wEnds (activate s 3 3 (appliedImage s (chanKey s 3) (chOutLen (chanSt s 3))) [1] (some (chanTxn wChanTxn)) []) = some 0) ∧
    (∀ st ∈ [ChanState.disabled, .resolving, .faulted], (chanSt (wChanIn st 0 wFaulty) 3).state = st) ∧
    (∀ s, s = wChan { wChanSt with out := 1, sentAt := 4999999999 } → s.clk < (chanSt s 3).sentAt + chTimeout (chanSt s 3)) ∧
    (∀ e, e = be 4 0 ++ be 1 0x72 ++ be 1 0 ++ be 2 0x11 ++ be 1 0 ++ be 2 3 ++ zeros 21 →
      onChannel (wChan wChanSt) 3 e = true ∧ needsSem e = true ∧ semOf (wChan wChanSt) (rGroup e) = none) ∧
    (∀ s, s = { wChan wChanSt with bridge := { BridgeSt.init with farQueue := [{ wChanTxn with deadline := 4 }] } } →
      chanDemand s 3 = some { wChanTxn with deadline := 4 } ∧ 4 ≤ s.clk) := by
  refine ⟨?_, ?_, ?_, ?_, by decide +kernel, ?_, ?_, ?_⟩
  · intro st hs c hc s h; subst h; revert c; revert st; decide +kernel
  · intro st hs c hc s h; subst h; revert c; revert st; decide +kernel
  · intro k hk s h; subst h; revert k; decide +kernel
  all_goals (intro s h; subst h; decide +kernel)

/-- A message frame of one fragment for the management core of slot 0 from slot 1, tag 7. -/
def wPacketMsg (kind : Nat) : Frame :=
  ⟨1, 5, 0, 1, 100, 2, 1, 0, 1024, 0, 0, msgPayload 1 0 kind 0 0 7 (zeros 24)⟩
def wMr : TrdpIn := ⟨0x4D72, true, 0x0100, 0, 13300, 0, 0x0A000002, 17225, 0, 0, 5, 0, 0, zeros 16⟩
/-- The premises of `Obligations.RemotePacketsAndSessionsFollow` are met. -/
theorem meets_remotePackets :
    (∀ f s, f = wPacketMsg 7 → s = { wTrain with bridge := { BridgeSt.init with inbox := [f] } } →
      f ∈ s.bridge.inbox ∧ msgKind f = 7 ∧ msgIndex f = 0 ∧ msgLastIndex f = 0) ∧
    (∀ f x s, f = wPacketMsg 8 → x = ⟨7, 0, .remote, .waiting, 0, 0, none, 0, 0, [], 0, 0, false, false, 0, 0, 0⟩ →
      s = { wTrain with bridge := { BridgeSt.init with inbox := [f], tags := [x] } } →
      f ∈ s.bridge.inbox ∧ msgKind f = 8 ∧ msgIndex f = 0 ∧ msgLastIndex f = 0 ∧ findTag s (msgTag f) = some x ∧
      x.initiator = msgChannel f ∧ findTag wTrain (msgTag f) = none) ∧
    (windowOver { wTrain with cyc := { wTrain.cyc with n := 101 } } 100 = true) ∧
    (∀ m, m = wMr → m.headerOk = true ∧ m.version / 256 = 1 ∧ m.etbTopo = 0 ∧ m.comId ≠ 5 ∧ managing wRun = true ∧
      m.comId = commandComId wRun) ∧
    (∀ s, s = { wRun with clk := 20000000000, cmd := { CmdSt.init with sessions := [⟨.host, 0, [], [], []⟩] } } →
      sessionOf s .host = some ⟨.host, 0, [], [], []⟩ ∧ 0 + 10000000000 ≤ s.clk) ∧
    (∀ s x, x = ⟨8, 0, .host, 8, [], 0, 4⟩ → s = { wRun with clk := 20000000000, cmd := { CmdSt.init with transfers := [x] } } →
      x ∈ s.cmd.transfers ∧ x.last + 10000000000 ≤ s.clk) := by
  refine ⟨?_, ?_, by decide +kernel, ?_, ?_, ?_⟩
  · intro f s h k; subst h; subst k; decide +kernel
  · intro f x s h j k; subst h; subst j; subst k; decide +kernel
  · intro m h; subst h; decide +kernel
  · intro s h; subst h; decide +kernel
  · intro s x h k; subst h; subst k; decide +kernel

/-- The premises of `Obligations.TransfersAreOpenedFilledAndFinished` are met, in every family. -/
theorem meets_transferBegin :
    ∀ x ∈ [(0x0310, 3, 1, [(⟨tKind, [1]⟩ : Tlv), ⟨tCount, be 4 9⟩]), (0x0410, 4, 2, [⟨tKind, [2]⟩, ⟨tCount, be 4 9⟩]),
      (0x0810, 8, 4, [⟨tKind, [4]⟩, ⟨tCount, be 4 9⟩]), (0x0A10, 0x0A, 8, [⟨tKind, [8]⟩, ⟨tCount, be 4 9⟩]),
      (0x0B10, 0x0B, 6, [⟨tKind, [6]⟩, ⟨tIndex, be 2 15⟩, ⟨tCount, be 4 9⟩]),
      (0x0C10, 0x0C, 5, [⟨tKind, [5]⟩, ⟨tPort, be 2 0x206⟩, ⟨tCount, be 4 9⟩])],
    ∀ p, p = wPk x.1 3 x.2.2.2 → isNext x.1 p (offered x.1 p (wAsk wTrain p)) = true ∧ managing (wAsk wTrain p) = true ∧
      (beginTarget p (pkNum p tKind 0)).isSome = true ∧ pkNum p tKind 0 = x.2.2.1 ∧ kindFamily (pkNum p tKind 0) = x.2.1 ∧
      pkNum p tCount 0 = 9 ∧ eitherTrial (banksOf wTrain (pkNum p tKind 0)) = false := by
  intro x hx p h; subst h; revert x; decide +kernel
/-- … a chunk and a finish find the session's transfer and a free tag. -/
theorem meets_transferRest :
    ∀ x ∈ [(0x0311, 3, 1), (0x0312, 3, 1), (0x0411, 4, 2), (0x0412, 4, 3), (0x0811, 8, 4), (0x0812, 8, 4), (0x0A11, 0x0A, 8),
      (0x0A12, 0x0A, 9), (0x0B11, 0x0B, 7), (0x0B12, 0x0B, 6), (0x0C11, 0x0C, 5), (0x0C12, 0x0C, 5)],
    ∀ p s, p = wPk x.1 3 [⟨tOffset, be 4 2⟩, ⟨tData, [7]⟩] →
      s = (let w := wAsk wTrain p; { w with cmd := { w.cmd with transfers := [⟨x.2.2, 1, .host, 2, [1, 2], 0, 3⟩] } }) →
      isNext x.1 p (offered x.1 p s) = true ∧
      sessionTransfer (takePacket (offered x.1 p s) p) x.2.1 p.sess = some ⟨x.2.2, 1, .host, 2, [1, 2], 0, 3⟩ ∧
      pkNum p tOffset 0 = 2 ∧ newTag (takePacket (offered x.1 p s) p) = some 1 ∧
      sessionTransfer wTrain x.2.1 p.sess = none := by
  intro x hx p s h k; subst k; subst h; revert x; decide +kernel

/-- The premises of `Obligations.HostPortRegistersAndWindowsAnswer` are met. -/
theorem meets_hostPort : hostUp wRun = true ∧ wRun.host.cmdFull = false ∧ wRun.host.ready = true ∧ wRun.host.replyQueue = [] ∧
    (0x80000018 : Word32).getLsbD 31 = true ∧ (0x18 : Word32).getLsbD 31 = false ∧ hostUp State.reset = false ∧
    (∀ s, s = { wRun with host := { wRun.host with cmdFull := true, replyQueue := List.replicate 8 [0] } } →
      hostUp s = true ∧ s.host.cmdFull = true ∧ 8 ≤ s.host.replyQueue.length) ∧
    (∀ s, s = { wRun with host := { wRun.host with ready := false } } → hostUp s = true ∧ s.host.ready = false) ∧
    (∀ s, s = { wRun with veh := { wRun.veh with rings := [(2, ⟨16, 0, 0, 0, 0, 0, false, [], []⟩)] } } →
      hostUp s = true ∧ (hostRing s).isSome = true) ∧
    voidCommand 0x80000003 = true ∧ voidCommand 0x80001000 = false ∧ voidCommand 0x14 = false ∧
    (0x80001000 : Word32).getLsbD 31 = true ∧ (0x14 : Word32).getLsbD 31 = false := by
  refine ⟨?_, ?_, ?_, ?_, ?_, ?_, ?_, ?_, ?_, ?_, ?_⟩ <;> first | decide +kernel | (intro s h; subst h; decide +kernel)

/-- The premises of `Obligations.MonitorReadsLinesAndPackets` are met. -/
theorem meets_monitor : managing State.reset = false ∧ monText wRun = true ∧ monReads wRun = true ∧ wRun.mon.wait = none ∧
    wRun.mon.held = [] ∧ wRun.mon.overflows = [] ∧ wRun.mon.busy = false ∧ wRun.mon.lines = [] ∧ wRun.mon.dropping = false ∧
    (∀ s, s = { wRun with mon := { wRun.mon with busy := true } } → monText s = true ∧ s.mon.busy = true) ∧
    (∀ s, s = { wRun with mon := { wRun.mon with line := [0x61] } } → s.mon.line ≠ [] ∧ monReads s = true) ∧
    lineCommand wRun (text "id") = .op 0x0101 (some []) ∧ lineCommand wRun (text "id 4") = .op 0x0101 none ∧
    lineCommand wRun [] = .empty ∧ lineCommand wRun (text "walk") = .unknown ∧
    (∀ b, b = commandBytes 0 0x0101 1 [] → 16 ≤ b.length ∧ b.length = 16 + field b 7 2 ∧ field b 7 2 ≤ 16384) ∧
    (∀ s, s = { wRun with clk := 60000000, mon := { wRun.mon with packetMode := true } } →
      s.mon.packetMode = true ∧ s.mon.lastByte + 50000000 < s.clk ∧ managing s = true) ∧
    (∀ s, s = { wRun with safe := { wRun.safe with state := .split }
                          bridge := { BridgeSt.init with tags := [blankTag 7 0 .replay .waiting 0] } } →
      s.safe.state = .split ∧ s.mon.wait = none ∧ s.bridge.tags = [blankTag 7 0 .replay .waiting 0]) := by
  refine ⟨?_, ?_, ?_, ?_, ?_, ?_, ?_, ?_, ?_, ?_, ?_, ?_, ?_, ?_, ?_, ?_, ?_, ?_⟩ <;>
    first | decide +kernel | (intro s h; subst h; decide +kernel)

/-- Any request on the host session is served now by a unit whose management side runs. -/
theorem meets_served (op cls : Nat) (items : List Tlv) :
    servedNow (wAsk wTrain (wPk op cls items)) op (wPk op cls items) (wTaken wTrain (wPk op cls items)) ∧
    servedNow (wAsk wSkims (wPk op cls items)) op (wPk op cls items) (wTaken wSkims (wPk op cls items)) :=
  ⟨wAsk_served _ _ _ _ (by decide), wAsk_served _ _ _ _ (by decide)⟩
/-- The premises of `Obligations.IdentityStatusAndSkimReadsAnswer` are met, at the edges of the skim numbers. -/
theorem meets_skimReads :
    (∀ p v, p = wPk 0x0201 0 [⟨tIds, be 4 0x7FFFFF⟩] → v = wTaken wSkims p →
      readIdsOk v p = true ∧ currentFor v = some (wSkim 99) ∧ v.skim.retained = [wSkim 99, wSkim 97] ∧ pkItem p tPin = none ∧
      pkItem p tSkim = none) ∧
    (∀ p v, p = wPk 0x0203 0 [] → v = wTaken wSkims p → currentFor v = some (wSkim 99) ∧ pkItem p tPin = none ∧ pkItem p tSkim = none) ∧
    (∀ n ∈ [96, 98, 100, 101], ∀ p v, p = wPk 0x0203 0 [⟨tSkim, be 4 n⟩] → v = wTaken wSkims p →
      (pkItem p tSkim).map (field · 0 4) = some n ∧ n ≠ 99 ∧ v.skim.pins = [] ∧ v.skim.copyPin ≠ some n ∧
      (if n = 100 then n = cycAdd 99 1 else n ≠ cycAdd 99 1 ∧ (if n < 99 then cycBefore n 99 = true ∧ (retainedSkim v n).isNone = true
        else cycBefore n 99 = false))) ∧
    (∀ p v, p = wPk 0x0203 0 [] → v = wTaken wTrain p → v.skim.retained = [] ∧ v.skim.bound = [] ∧ pkItem p tPin = none) ∧
    (∀ p v, p = wPk 0x0201 0 [⟨tIds, be 4 0x800000⟩] → v = wTaken wSkims p → readIdsOk v p = false) ∧
    (∀ s, s = { wSkims with skim := { wSkims.skim with held := [⟨wPk 0x0203 0 [], 99, 1⟩] } } →
      s.skim.held = [⟨wPk 0x0203 0 [], 99, 1⟩] ∧ retainedSkim s 99 = some (wSkim 99) ∧ retainedSkim s 100 = none ∧ 1 ≤ s.clk) := by
  refine ⟨?_, ?_, ?_, ?_, ?_, ?_⟩
  · intro p v h k; subst h; subst k; decide +kernel
  · intro p v h k; subst h; subst k; decide +kernel
  · intro n hn p v h k; subst h; subst k; revert n; decide +kernel
  · intro p v h k; subst h; subst k; decide +kernel
  · intro p v h k; subst h; subst k; decide +kernel
  · intro s h; subst h; decide +kernel

/-- A unit with one APPLICATION signal, id 0, and one SAFETY signal, id 1, in its own slot. -/
def wSignals : State :=
  { wSkims with cfg := some { wCfg with dictionary := [⟨0, 1, 4, .application, false, 0⟩, ⟨1, 1, 4, .safety, false, 0⟩] } }
/-- The premises of `Obligations.WritesPinsAndForcesAreServed` are met: writes and forces (the requests are served by
`meets_served`). -/
theorem meets_writes :
    (∀ x ∈ [(0x1FF00, true, true, false, true), (1, false, true, false, true), (0, false, true, true, true),
        (131072, false, false, false, true), (262144, false, false, false, false)],
      ∀ p v, p = wPk 0x0202 1 [⟨tIds, be 4 x.1⟩, ⟨tValue, be 16 9⟩] → v = wTaken wSignals p →
      oneId p = some x.1 ∧ isNodeSignal x.1 = x.2.1 ∧ ownSignal v x.1 = x.2.2.1 ∧ writeAllowed v x.1 = x.2.2.2.1 ∧
      composing v = true ∧ (ownSignal v x.1 = true ∨ slotPresent v (sigSlot x.1) = x.2.2.2.2) ∧ newTag v = some 1 ∧
      v.bridge.queue = [] ∧ v.bridge.farQueue = []) ∧
    (∀ p v, p = wPk 0x0207 3 [⟨tIds, be 4 0⟩, ⟨tValue, be 16 9⟩] → v = wTaken wSignals p →
      oneId p = some 0 ∧ ownSignal v 0 = true ∧ forceAllowed v 0 = true ∧ forceAllowed v 1 = false ∧ (defOf v 0).isSome = true ∧
      (v.skim.forces.filter (fun f => f.id != 0)).length < 256 ∧ pkItem (wPk 0x0208 3 []) tIds = none ∧
      pkItem p tIds = some (be 4 0) ∧ (∀ id ∈ idList (be 4 0), id < 2 ^ 23 ∧ ownSignal v id = true ∧ forceAllowed v id = true) ∧
      1 ∈ idList (be 4 1)) ∧
    (∀ v, v = { wSignals with skim := { wSignals.skim with forces := (List.range 256).map (fun k => ⟨k + 1, 0, [], none⟩) } } →
      256 ≤ (v.skim.forces.filter (fun f => f.id != 0)).length) := by
  refine ⟨?_, ?_, ?_⟩
  · intro x hx p v h k; subst h; subst k; revert x; decide +kernel
  · intro p v h k; subst h; subst k; decide +kernel
  · intro v h; subst h; decide +kernel
/-- … pins: one to take at either end of the lease's range, the 17th, one to renew, a broken one, an unknown one. -/
theorem meets_pins :
    (∀ ms ∈ [10, 10000], leaseMs (wPk 0x0204 0 [⟨tLease, be 4 ms⟩]) = some ms) ∧
    leaseMs (wPk 0x0204 0 [⟨tLease, be 4 9⟩]) = none ∧
    (∀ w, w = lapsePins wSkims → newHandle w = some 1 ∧ w.skim.pins.length < 16) ∧
    (∀ w, w = lapsePins { wSkims with skim := { wSkims.skim with pins := (List.range 16).map (fun k => ⟨k + 1, 9, none, 10 ^ 9⟩) } } →
      newHandle w = some 17 ∧ 16 ≤ w.skim.pins.length ∧
      w.skim.pins.find? (fun y => y.handle == 3) = some ⟨3, 9, none, 10 ^ 9⟩ ∧ (w.skim.pins.any (fun x => x.handle == 3)) = true ∧
      w.skim.pins.find? (fun y => y.handle == 17) = none) ∧
    (∀ v, v = { wSkims with skim := { wSkims.skim with pins := [⟨3, 50, some (wSkim 50), 10 ^ 9⟩] } } → v.skim.retained ≠ [] ∧
      (∃ x ∈ v.skim.pins, x.skim = 50 ∧ x.kept.isSome = true ∧ v.clk < x.lease) ∧
      (v.skim.pins.all (fun x => x.kept.all (fun r => r.desc.skim == x.skim))) = true ∧ newHandle (lapsePins v) = some 1 ∧
      cycBefore 50 (skimNow v) = true ∧ 50 ≠ cycAdd (skimNow v) 1 ∧ (retainedSkim v 50).isNone = true) ∧
    currentFor wSkims = some (wSkim 99) ∧
    (∀ w, w = lapsePins { wSkims with skim := { wSkims.skim with pins := [⟨3, 99, some (wSkim 99), 10 ^ 9⟩] } } →
      w.skim.pins.find? (fun y => y.handle == 3) = some ⟨3, 99, some (wSkim 99), 10 ^ 9⟩) := by
  refine ⟨by decide +kernel, by decide +kernel, ?_, ?_, ?_, by decide +kernel, ?_⟩ <;> intro w h <;> subst h <;> decide +kernel

/-- The premises of `Obligations.SnapshotsRoutesAndTablesAreServed` are met (the requests are served by `meets_served`). -/
theorem meets_tables :
    (wSkims.skim.snapshot.state ≠ 1 ∧ wSkims.skim.snapshot.locked = false ∧ wSkims.skim.snapshot.state = 0 ∧
      wSkims.skim.retained = [wSkim 99, wSkim 97]) ∧
    (pkNum (wPk 0x0301 0 [⟨tIndex, be 4 1048575⟩, ⟨tCount, be 4 256⟩]) tCount 0 ≤ 256 ∧
      pkNum (wPk 0x0301 0 [⟨tIndex, be 4 1048575⟩]) tIndex 0 < 1048576 ∧
      1048576 ≤ pkNum (wPk 0x0301 0 [⟨tIndex, be 4 1048576⟩]) tIndex 0) ∧
    (∀ b, b = be 4 1048575 ++ zeros 32 → pkItem (wPk 0x0302 3 [⟨tData, b⟩]) tData = some b ∧ wTrain.route.staged = none ∧
      b.length = 36 ∧ (∀ x ∈ editList b, x.1 < 1048576) ∧
      tableChecks wTrain (editTable (editBase wTrain) (editList b) (nextSkim wTrain)).entries = none) ∧
    (∀ b, b = be 4 0 ++ List.replicate 32 0xFF → (∀ x ∈ editList b, x.1 < 1048576) ∧
      (tableChecks wTrain (editTable (editBase wTrain) (editList b) (nextSkim wTrain)).entries).isSome = true) ∧
    (∀ b, b = be 1 1 ++ be 8 (2 ^ 64 - 2147483647) → beSigned (bslice b 1 8) = -2147483647 ∧ field b 0 1 = 1 ∧
      pkItem (wPk 0x0403 3 [⟨tStep, b⟩]) tStep = some b ∧ wTrain.set.lease = true ∧
      (wTrain.time.posStep + -2147483647).natAbs ≤ 2147483647) ∧
    (wRun.set.lease = false ∧ field (zeros 9) 0 1 = 0 ∧ wRun.time.timeStep = 0) ∧
    (pkNum (wPk 0x0404 0 [⟨tIndex, be 4 511⟩, ⟨tCount, be 4 512⟩]) tCount 0 ≤ 512) := by
  refine ⟨by decide +kernel, by decide +kernel, ?_, ?_, ?_, by decide +kernel, by decide +kernel⟩ <;>
    intro b h <;> subst h <;> decide +kernel
/-- … and an edit whose index is beyond the table. -/
theorem meets_editIndex :
    ∀ b, b = be 4 1048576 ++ zeros 32 → b.length % 36 = 0 ∧ 36 ≤ b.length ∧ b.length ≤ 9216 ∧ (∃ x ∈ editList b, 1048576 ≤ x.1) := by
  intro b h; subst h
  exact ⟨by decide +kernel, by decide +kernel, by decide +kernel, ⟨(1048576, zeros 32), by decide +kernel, by decide⟩⟩

/-- A numbering of 63 present vehicles. -/
def wBig : Numbering := { wNum with entries := (List.range 63).map (fun k => ⟨k + 1, k + 1, k, false, false, false, 1, 0⟩) }
/-- The premises of `Obligations.SetoutAndPowerRequestsAreServed` are met (host requests are served by `meets_served`). -/
theorem meets_setoutRequests :
    (wTrain.set.numbering = some wNum ∧ wTrain.set.pending = none ∧ wTrain.set.lease = true ∧ wRun.set.lease = false ∧
      pkNum (wPk 0x0503 2 []) tMode 0 = 0 ∧ pkNum (wPk 0x0503 3 [⟨tMode, [1]⟩]) tMode 0 = 1) ∧
    (∀ b p s v, b = be 4 2 ++ be 1 1 ++ zeros 2 ++ zeros 1 ++ be 4 0 ++ be 16 9 ++ be 1 64 ++ be 1 63 ++ be 1 0 ++ be 1 0x44 ++ be 8 7 →
      p = wLinePk 0x0504 3 [⟨tData, b⟩] → s = wLineAsk wTrain p → v = takePacket s p →
      managing s = true ∧ isNext 0x0504 p s = true ∧ isQueued s p = true ∧ pkItem p tData = some b ∧
      numberingOk (b.take (b.length - 8)) = true ∧ v.set.lease = true ∧ ownTrain v p.sess = true ∧ ownTrain v .host = false ∧
      (presentEntries v).length + presentCount (parseNumbering (b.take (b.length - 8))) ≤ 64) ∧
    (∀ b p s v, b = wBig.bytes ++ be 8 7 → p = wLinePk 0x0504 3 [⟨tData, b⟩] → s = wLineAsk wTrain p → v = takePacket s p →
      pkItem p tData = some b ∧ numberingOk (b.take (b.length - 8)) = true ∧ v.set.lease = true ∧ ownTrain v p.sess = true ∧
      64 < (presentEntries v).length + presentCount (parseNumbering (b.take (b.length - 8)))) ∧
    (pkNum (wPk 0x0602 2 [⟨tDuration, be 4 86400⟩]) tDuration 0 = 86400 ∧
      86400 < pkNum (wPk 0x0602 2 [⟨tDuration, be 4 86401⟩]) tDuration 0 ∧ pkNum (wPk 0x0602 2 []) tDuration 0 = 0) ∧
    (∀ p, p = wPk 0x0605 2 [⟨tIndex, be 2 7⟩, ⟨tData, []⟩] → pkNum p tIndex 0 ≤ 7 ∧ pkItem p tData = some []) ∧
    (∀ p, p = wPk 0x0605 2 [⟨tIndex, be 2 0⟩, ⟨tData, [1]⟩] → pkNum p tIndex 0 ≤ 7 ∧ pkItem p tData = some [1]) := by
  refine ⟨by decide +kernel, ?_, ?_, by decide +kernel, ?_, ?_⟩
  · intro b p s v h1 h2 h3 h4; subst h1; subst h2; subst h3; subst h4; decide +kernel
  · intro b p s v h1 h2 h3 h4; subst h1; subst h2; subst h3; subst h4; decide +kernel
  · intro p h; subst h; decide +kernel
  · intro p h; subst h; decide +kernel

/-- The premises of `Obligations.PairAndComplexRequestsAreServed` are met (host requests as in `wAsk_served`). -/
theorem meets_pairRequests :
    (managing wPair = true ∧ isPair wPair = true ∧ wPair.pair.role = .active ∧ wPair.pair.segs.all (·.up) = false ∧
      isPair wTrain = false ∧ isStack wTrain = false) ∧
    (∀ s, s = { wPair with pair := { wPair.pair with
        segs := wPair.pair.segs.map (fun x => { x with up := true })
        records := [⟨2, 9, 100, 500000000, be 1 4 ++ be 1 0x11 ++ zeros 30⟩] } } →
      isPair s = true ∧ s.pair.role = .active ∧ s.pair.segs.all (·.up) = true ∧
      (2 ∈ otherUnits s ∧ freshRec s 2 = some ⟨2, 9, 100, 500000000, be 1 4 ++ be 1 0x11 ++ zeros 30⟩ ∧
        PeerRec.mirrorCurrent ⟨2, 9, 100, 500000000, be 1 4 ++ be 1 0x11 ++ zeros 30⟩ = true)) ∧
    (∀ p s v, p = wLinePk 0x0703 3 [⟨tSlot, be 1 0⟩, ⟨tUnit, be 1 1⟩, ⟨tCount, be 4 200⟩] → s = wLineAsk wPair p →
      v = takePacket s p → managing s = true ∧ isNext 0x0703 p s = true ∧ isQueued s p = true ∧
      ownSlot v = some (pkNum p tSlot 9) ∧ pkNum p tUnit 0 = 1 ∧ fromPositionOne v p.sess = true ∧ isPair v = true ∧
      fromPositionOne v .host = false ∧ ownSlot v ≠ some 9) ∧
    (newTag wTrain = some 1 ∧ wTrain.safe.table = none) ∧
    (pkNum (wPk 0x0804 3 [⟨tIndex, be 2 8⟩]) tIndex 0 = 8 ∧ 8 < pkNum (wPk 0x0804 3 [⟨tIndex, be 2 9⟩]) tIndex 0) := by
  refine ⟨by decide +kernel, ?_, ?_, by decide +kernel, by decide +kernel⟩
  · intro s h; subst h; decide +kernel
  · intro p s v h1 h2 h3; subst h1; subst h2; subst h3; decide +kernel

/-- A unit with a loaded configuration image of version 3 in bank 1, signed under the enrolled key 5. -/
def wImages : State :=
  { wSkims with img := { ImageSt.init with
      key := some (zeros 32, 5)
      fw := ⟨⟨.active, zeros 8 ++ be 4 1 ++ zeros 300⟩, ⟨.loaded, zeros 8 ++ be 4 2 ++ zeros 300⟩, 0, 0, 1, 0, true⟩
      cf := ⟨⟨.active, []⟩, ⟨.loaded, zeros 8 ++ be 4 3 ++ zeros 16 ++ be 4 5 ++ zeros 300⟩, 0, 0, 3, 0, true⟩ } }
/-- The premises of `Obligations.RecordersImagesAndPortsAreServed` are met (the requests are served by `meets_served`). -/
theorem meets_images :
    (∀ p, p = wPk 0x0901 0 [⟨tArea, [1]⟩, ⟨tSequence, be 8 0⟩, ⟨tCount, be 4 16⟩] →
      pkNum p tArea 0 ≤ 1 ∧ 1 ≤ pkNum p tCount 0 ∧ pkNum p tCount 0 ≤ 16) ∧
    ((codeClass 1).isSome = true ∨ (codeClass 0x0405).isSome = true) ∧ (codeClass 0xFFFF).isSome = false ∧
    (∀ kind ∈ [8, 9], ∀ p v, p = wPk 0x0A13 4 [⟨tKind, be 1 kind⟩, ⟨tMode, [2]⟩] → v = wTaken wImages p →
      kind = pkNum p tKind 0 ∧ modeOk p = true ∧ pkNum p tMode 0 ≠ 1 ∧ (spareBank (banksOf v kind)).state = .loaded ∧
      minFwOk v kind = true ∧ (kind = 9 → (banksOf v kind).floor ≤ imgVersion (spareBank (banksOf v kind)).image ∧
        (keyFor v kind (imgKeyId (spareBank (banksOf v kind)).image)).isSome = true)) ∧
    ((spareBank (banksOf wTrain 9)).state ≠ .loaded ∧ wImages.set.lease = true ∧ managing wImages = true) ∧
    (∀ p, p = wPk 0x0A15 3 [⟨tData, zeros 100⟩] → pkItem p tData = some (zeros 100) ∧ (zeros 100).length = 100 ∧
      pkNum p tMode 0 = 0 ∧ wTrain.img.key = none ∧ wTrain.pres.sealOpen = false ∧
      ({ PresenceSt.init with sealOpen := true }).sealOpen = true) := by
  refine ⟨?_, by decide +kernel, by decide +kernel, ?_, by decide +kernel, ?_⟩
  · intro p h; subst h; decide +kernel
  · intro kind hk p v h1 h2; subst h1; subst h2; revert kind; decide +kernel
  · intro p h; subst h; decide +kernel
/-- … ports and channels at the ends of their ranges. -/
theorem meets_portRequests :
    portIn (wPk 0x0B01 0 [⟨tPort, be 2 0x101⟩]) 1 16 = some 1 ∧ portIn (wPk 0x0B01 0 [⟨tPort, be 2 0x110⟩]) 1 16 = some 16 ∧
    pkNum (wPk 0x0B02 0 [⟨tIndex, be 2 511⟩]) tIndex 0 = 511 ∧
    portIn (wPk 0x0C01 0 [⟨tPort, be 2 0x206⟩]) 2 10 = some 6 ∧ portIn (wPk 0x0C01 0 [⟨tPort, be 2 0x20A⟩]) 2 10 = some 10 ∧
    channelOk wTrain ([1, 0, 5, 3] ++ be 4 0x0A000002 ++ be 2 700 ++ be 2 0 ++ be 2 4 ++ be 2 0 ++ be 2 100 ++ be 2 4 ++ be 2 4 ++
      be 1 1 ++ be 1 1 ++ zeros 8) = true ∧ channelOk wTrain [] = false := by decide +kernel
/-- … a channel entry that the node takes, and one that it refuses. -/
theorem meets_channelWrite :
    (∀ e s, e = zeros 32 → s = wTrain → (channelEntryOk s (net s) (511, e) &&
      profileBudgetOk (setChan s 511 (ChanSt.init e)) (profilesAhead s)) = false) ∧
    (∀ e s, e = [1, 0, 5, 3] ++ be 4 0x0A000002 ++ be 2 700 ++ be 2 0 ++ be 2 4 ++ be 2 0 ++ be 2 100 ++ be 2 4 ++ be 2 4 ++
        be 1 1 ++ be 1 1 ++ zeros 8 → s = wVeh wVehUp → (channelEntryOk s (net s) (511, e) &&
      profileBudgetOk (setChan s 511 (ChanSt.init e)) (profilesAhead s)) = true) := by
  refine ⟨?_, ?_⟩ <;> intro e s h k <;> subst h <;> subst k <;> decide +kernel

/-- An ACCESS route of a remote vehicle, slot 1, readable and writable, and one of serial port S1. -/
def wRemoteRoute : Bytes := be 4 4 ++ be 1 0x83 ++ be 1 0 ++ be 2 7 ++ [1, 0] ++ be 4 9 ++ zeros 18
def wSerialRoute : Bytes := be 4 4 ++ be 1 0x73 ++ be 1 0 ++ be 2 7 ++ [1] ++ zeros 23
/-- A unit of a running train with those routes. -/
def wRoutes : State :=
  { wSkims with route := { Routing.init with table := some ⟨0, 2, 0, 0, [(0, wRemoteRoute), (1, wSerialRoute)]⟩ } }
theorem meets_bridgeRequests :
    (composing wRoutes = true ∧ managing wRoutes = true ∧ newTag wRoutes = some 1 ∧ wRoutes.bridge.queue = [] ∧
      wRoutes.bridge.farQueue = [] ∧ wRoutes.bridge.tags = []) ∧
    (∀ p, p = wPk 0x0D01 1 [⟨tIds, be 4 131072⟩, ⟨tValue, zeros 16⟩] → pkItem p tRoute = none ∧ oneId p = some 131072 ∧
      ownSlot wRoutes ≠ some (sigSlot 131072) ∧ ownSlot wRoutes = some (sigSlot 5) ∧ isNodeSignal 131072 = false ∧
      slotPresent wRoutes (sigSlot 131072) = true ∧ slotPresent wRoutes 63 = false) ∧
    (∀ p, p = wPk 0x0D02 0 [⟨tRoute, be 4 0⟩] → entryAt wRoutes (pkNum p tRoute 9) = wRemoteRoute ∧
      routeRefusal wRoutes 0 1 = none ∧ routeRefusal wRoutes 0 2 = none ∧ routeRefusal wRoutes 9 2 = some stRouteMissing ∧
      rDomain wRemoteRoute = 8 ∧ (pkItem p tRoute).isSome = true) ∧
    (∀ s, s = { wRoutes with bridge := { BridgeSt.init with readAheads := [⟨1, 7, 10 ^ 9⟩] } } →
      routeRefusal s 1 1 = none ∧ rDomain wSerialRoute ≠ 8 ∧ readAhead s 1 = some ⟨1, 7, 10 ^ 9⟩) ∧
    (∀ p s, p = wPk 0x0D03 0 [⟨tTag, be 2 7⟩] → s = { wRoutes with bridge := { BridgeSt.init with
        tags := [blankTag 7 (initiatorOf wRoutes .host) .read .held 0] } } →
      s.bridge.tags.find? (fun x => x.tag == pkNum p tTag 0 && x.initiator == initiatorOf s p.sess && collectable x) =
        some (blankTag 7 (initiatorOf wRoutes .host) .read .held 0)) ∧
    (∀ p, p = wPk 0x0D04 1 [⟨tRoute, be 4 1⟩, ⟨tValue, zeros 16⟩, ⟨tWait, be 2 100⟩] → sequenceRoutes p = [1] ∧
      pkNum p tWait 0 ≤ 100 ∧ (∀ e ∈ [wSerialRoute], rEmpty e = false ∧ rEnabled e = true ∧ rDir e = 3 ∧ onFarBus e = true ∧
        rFlag e 1 = true) ∧ entryAt wRoutes 1 = wSerialRoute ∧ ([wSerialRoute].filter onlyWritable).length = 0 ∧
      (sequenceValues p).length = 1 ∧ ([wSerialRoute].filter bothWays).length = 1 ∧
      localChannel wRoutes (initiatorOf wRoutes .host) = true) := by
  refine ⟨by decide +kernel, ?_, ?_, ?_, ?_, ?_⟩
  · intro p h; subst h; decide +kernel
  · intro p h; subst h; decide +kernel
  · intro p h; subst h; decide +kernel
  · intro p s h k; subst h; subst k; decide +kernel
  · intro p h; subst h; decide +kernel
/-- … semaphores, endpoints and remote commands. -/
theorem meets_bridgeRequestsMore :
    (∀ sem ∈ [1, 256], ∀ p, p = wPk 0x0D05 1 [⟨tSemaphore, be 2 sem ++ [1, 0]⟩] → sem = field ((pkItem p tSemaphore).getD []) 0 2 ∧
      field ((pkItem p tSemaphore).getD []) 2 1 = 1 ∧ pkItem p tSlot = none ∧ semOf wRoutes sem = none ∧ pkNum p tWait 0 = 0) ∧
    (∀ p, p = wPk 0x0D05 1 [⟨tSemaphore, [0, 1, 3, 0]⟩, ⟨tSlot, [1]⟩] → (pkItem p tSlot).map (fun b => field b 0 1) = some 1 ∧
      ownSlot wRoutes ≠ some 1 ∧ slotPresent wRoutes 1 = true) ∧
    (ringCountOk 16 = true ∧ ringCountOk 4096 = true ∧ ringCountOk 17 = false ∧
      ((List.range 191).map (· + 0x40)).find? (fun e => !wRoutes.bridge.endpoints.contains e) = some 0x40 ∧
      ringBase wRoutes 4096 + ringSize 4096 ≤ 67108864) ∧
    (∀ s, s = { wRoutes with bridge := { BridgeSt.init with endpoints := [0x40] } } →
      channelEnd 0x40 ∈ s.bridge.endpoints ∧ 0x40 = channelOf s (channelEnd 0x40) ∧ channelEnd 0x41 ∉ s.bridge.endpoints) ∧
    (∀ p, p = wPk 0x0D10 0 [⟨tSlot, [1]⟩, ⟨tPacket, zeros 16⟩] → pkNum p tSlot 0 = 1 ∧ pkItem p tUnit = none ∧
      slotPresent wRoutes 1 = true ∧ slotPresent wRoutes 63 = false ∧ ((pkItem p tPacket).getD []).length ≤ 2000 ∧
      frameLength 2020 + 20 ≤ messageLimit wRoutes) := by
  refine ⟨?_, ?_, by decide +kernel, ?_, ?_⟩
  · intro sem hs p h; subst h; revert sem; decide +kernel
  · intro p h; subst h; decide +kernel
  · intro p h; subst h; decide +kernel
  · intro p h; subst h; decide +kernel

/-- A unit in split mode with core A halted at count 9. -/
def wSplitMode : State :=
  { wTrain with safe := { SafeSt.init with state := .split, split := some { freshSplit with halted := true, count := 9 } } }
theorem meets_debug :
    (∀ p, p = wPk 0x0E01 0 [⟨tAddress, be 4 0x01000C⟩, ⟨tCount, be 4 1⟩, ⟨tPort, be 2 0x0400⟩] →
      pkNum p tAddress 0 = 0x010000 + 4 * portNo .b2 ∧ pkNum p tCount 0 = 1 ∧ 3 < pkNum p tPort 0 / 256) ∧
    (pkNum (wPk 0x0E01 0 []) tAddress 0 < 0x010000 ∧ pkNum (wPk 0x0E03 0 []) tPort 0 / 256 = 0) ∧
    (∀ v, v = { wTrain with safe := { SafeSt.init with state := .voted } } →
      safeRuns v = true ∧ v.safe.state ≠ .split ∧ v.safe.state ≠ .halted ∧ v.safe.cycle = none) ∧
    (managing wSplitMode = true ∧ wSplitMode.safe.state = .split ∧ wSplitMode.safe.split = some { freshSplit with halted := true, count := 9 } ∧
      newTag wSplitMode = some 1 ∧ wSplitMode.safe.cores ≠ [] ∧ wTrain.safe.state ≠ .split) ∧
    (∀ a ∈ [0x110000, 0x113FFC], coreAddress a = true) ∧ coreWord (coreA wSplitMode) 0x100000 = some 0 ∧
    coreAddress 0x100000 = true ∧
    pkNum (wPk 0x0F04 4 [⟨tCount, be 4 65535⟩]) tCount 0 = 65535 ∧
    pkItem (wPk 0x0F07 4 [⟨tData, [1, 2, 3, 4]⟩]) tData = some [1, 2, 3, 4] := by
  refine ⟨?_, by decide +kernel, ?_, by decide +kernel, by decide +kernel, by decide +kernel, by decide +kernel,
    by decide +kernel, by decide +kernel⟩
  · intro p h; subst h; decide +kernel
  · intro v h; subst h; decide +kernel

/-- A unit asleep for 2 s, with wake input 1 and alarm 7. -/
def wAsleep : State :=
  { wTrain with
    clk := 2000000000
    cfg := some { wCfg with power := { PowerCfg.none with wakeInputs := [(1, true, false)] } }
    sleep := { SleepSt.init with
      power := .sleep, phySleep := [1], tc10 := [(2, 0)], alarms := [(7, ⟨1, false, 60000, true⟩)], alarmHold := [(0, 5)]
      commandHold := some 9, alarmSetAt := 7 } }
theorem meets_wakeSources :
    (∀ p, sensesWires wAsleep = true ∧ assigned wAsleep p = true ∧ wAsleep.sleep.refractory ≤ wAsleep.clk ∧
      (wAsleep.sleep.wires.get p).stuck = false ∧ maskedSource wAsleep (portNo p + 1) = false) ∧
    (wAsleep.sleep.power = .sleep ∧ pastReturn wAsleep = false ∧ wAsleep.sleep.latch = none ∧ 1 ∈ wAsleep.sleep.phySleep ∧
      maskedSource wAsleep 5 = false ∧ Tab.get? wAsleep.sleep.tc10 2 = some 0 ∧ 0 + 10000000 ≤ wAsleep.clk) ∧
    (pastReturn { wAsleep with sleep := { wAsleep.sleep with entering := some 5 } } = true) ∧
    (∀ s, s = { wAsleep with sleep := { wAsleep.sleep with refractory := 3000000000 } } → sensesWires s = true ∧
      assigned s .a1 = true ∧ s.clk < s.sleep.refractory) ∧
    (Tab.get? (powerCfg wAsleep).wakeInputs 1 = some (true, false) ∧ Tab.has wAsleep.sleep.inputSince 1 = false ∧
      1 ∉ wAsleep.sleep.inputStuck ∧ maskedSource wAsleep 11 = false) ∧
    (∀ s, s = { wAsleep with clk := 10 ^ 15, sleep := { wAsleep.sleep with inputSince := [(1, 0)], inputOffSince := [(1, 0)] } } →
      Tab.get? s.sleep.inputSince 1 = some 0 ∧ 0 + (powerCfg s).maxAwake * 60000000000 < s.clk ∧
      Tab.get? s.sleep.inputOffSince 1 = some 0 ∧ 0 + 10000000000 ≤ s.clk ∧ 1 ∉ s.sleep.inputStuck) ∧
    (Tab.get? wAsleep.sleep.alarms 7 = some ⟨1, false, 60000, true⟩ ∧ 1 ≤ rtc wAsleep ∧ maskedSource wAsleep 15 = false ∧
      Tab.get? wAsleep.sleep.alarmHold 0 = some 5 ∧ 5 ≤ wAsleep.clk ∧ wAsleep.sleep.commandHold = some 9 ∧
      wAsleep.time.base = .tracking ∧ wAsleep.sleep.alarmSetAt + 1000000000 ≤ wAsleep.clk) := by
  refine ⟨?_, by decide +kernel, by decide +kernel, ?_, by decide +kernel, ?_, by decide +kernel⟩
  · intro p; cases p <;> decide +kernel
  all_goals (intro s h; subst h; decide +kernel)

/-- A unit in whose train sleep is announced for cycle a. -/
def wSleepy (a : Nat) : State :=
  { wTrain with sleep := { SleepSt.init with power := .awake, announced := a, seen := 1 } }
theorem meets_sleep :
    (∀ a ∈ [101, 103], (wSleepy a).sleep.announced ≠ 0 ∧ (wSleepy a).cyc.running = true ∧
      1 ≤ cycDiff (wSleepy a).sleep.announced (gridN (wSleepy a)) ∧ cycDiff (wSleepy a).sleep.announced (gridN (wSleepy a)) ≤ 3) ∧
    (∀ s, s = { wSleepy 101 with time := wLate.time } → s.sleep.announced = nextGrid s ∧ nextTs s ≤ s.time.now ∧
      s.sleep.entering = none ∧ s.sleep.latch = none ∧ 1 ≤ s.sleep.seen) ∧
    (∀ s, s = { wTrain with clk := 6000000000, cyc := CycleSt.init, sleep := { SleepSt.init with power := .awake, awakeFrom := 1 } } →
      s.sleep.awakeFrom + 5000000000 ≤ s.clk ∧ s.sleep.reasonSeen = false ∧ reasonBitmap s / 64 * 64 + reasonBitmap s % 32 = 0 ∧ s.sleep.entering = none ∧
      ((Tab.getD s.sleep.falseAt s.sleep.source []).filter (fun t => s.clk < t + 3600000000000) ++ [s.clk]).length < 8) ∧
    (∀ s, s = { wTrain with clk := 6000000000, sleep := { SleepSt.init with source := 3, falseAt := [(3, List.replicate 7 9)] } } →
      8 ≤ ((Tab.getD s.sleep.falseAt s.sleep.source []).filter (fun t => s.clk < t + 3600000000000) ++ [s.clk]).length ∧
      s.sleep.source ≠ 0) ∧
    (∀ s, s = { wTrain with
        clk := 6 * 10 ^ 14
        cfg := some { wCfg with power := { PowerCfg.none with lkAllowed := true } }
        set := { wTrain.set with lease := false }
        sleep := { SleepSt.init with power := .awake, lkSince := some 0, masked := [(3, 5)], partialFrom := some 0 } } →
      managing s = true ∧ (powerCfg s).lkAllowed = true ∧ s.set.lease = false ∧ inCycle s = true ∧ s.sleep.announced = 0 ∧
      0 + (powerCfg s).lkDelay * 1000000000 ≤ s.clk ∧ Tab.get? s.sleep.masked 3 = some 5 ∧ 5 ≤ s.clk ∧
      0 + (powerCfg s).maxAwake * 60000000000 ≤ s.clk ∧ wTrain.set.lease = true) ∧
    (∀ s, s = { wTrain with sleep := { SleepSt.init with power := .lineKeeping } } → pastReturn s = false ∧
      maskedSource s 11 = false ∧ maskedSource s 16 = false ∧ State.reset.set.state ≠ .committed) := by
  refine ⟨by decide +kernel, ?_, ?_, ?_, ?_, ?_⟩ <;> intro s h <;> subst h <;> decide +kernel

/-- The standby of a pair, which keeps a mirror. -/
def wStandby : State := { wPair with unitId := 7, unitNo := 2, pair := { PairSt.init with role := .standby } }
theorem meets_peerRecords :
    (managing wStandby = true ∧ wStandby.unplaced = false ∧ wStandby.unitNo = 2 ∧ (zeros 32).length = 32 ∧ 6 < wStandby.unitId ∧
      isStack wStandby = false ∧ wStandby.pair.role = .standby ∧ wStandby.pair.handAt = none ∧ keepsMirror wStandby = true ∧
      onRing wStandby = true ∧ (zeros 31).length ≠ 32 ∧ 4 < field ([5] ++ zeros 31) 0 1 % 16 ∧ composing wStandby = false ∧ 1 ∈ otherUnits wStandby ∧ wStandby.pair.segs[1]? = some PeerSeg.init) ∧
    (∀ b, b = [1, 3] ++ zeros 14 ++ be 16 1 → b.length = 32 ∧ field b 0 1 % 16 ≤ 4 ∧ field b 3 1 ≤ 4 ∧ field b 16 16 = vehicleUuid wStandby ∧ field b 0 1 = 1 ∧
      bitOf (field b 1 1) 1 = true ∧ field (zeros 32) 16 16 ≠ vehicleUuid wStandby) ∧
    (field [0, 0, 9, 0, 0, 0, 0, 0] 2 1 ≠ safeCode wStandby.safe.state) ∧
    (∀ f s, f = ⟨1, 5, 0, 0, 100, 1, 1, 0, 0, 0, 0, msgPayload 1 0 9 0 0 7 ([4] ++ zeros 1 ++ be 2 0 ++ be 4 99 ++ be 2 1 ++ zeros 2)⟩ →
      s = { wStandby with
        cfg := some { wCfg with node := { wCfg.node with units := 2, arrangement := 2 } }
        bridge := { BridgeSt.init with inbox := [f] } } →
      f ∈ s.bridge.inbox ∧ msgKind f = 9 ∧ keepsMirror s = true ∧ fallbackPair s = true ∧ field (msgBody f) 0 1 = 4 ∧
      field (msgBody f) 2 2 = 0 ∧ field (msgBody f) 8 2 = 1 ∧ (msgBody f).length = 12) := by
  refine ⟨by decide +kernel, ?_, by decide +kernel, ?_⟩
  · intro b h; subst h; decide +kernel
  · intro f s h k; subst h; subst k; decide +kernel

/-- A fit unit of an arrangement of two units: 1 a pair, 3 a stack, each with one attachment. -/
def wFit (arr unit : Nat) (f : PairSt → PairSt) : State :=
  { wTrain with
    unitNo := unit
    cfg := some { wCfg with node := { wCfg.node with units := 2, arrangement := arr } }
    route := { Routing.init with table := some ⟨0, 0, 0, 0, []⟩ }
    safe := { SafeSt.init with state := .voted }
    pair := f { PairSt.init with joinedFor := 2, marksFor := 2 } }
theorem meets_roles :
    (∀ s, s = wFit 1 2 (fun p => { p with ilkOut := true, role := .active, watchdog := some 5 }) → hasIlk s = true ∧ isPair s = true ∧
      s.unitNo = 2 ∧ s.pair.ilkOut = true ∧ s.pair.ilkFault = false ∧ s.pair.ilkChanges = [] ∧ 5 ≤ s.clk) ∧
    (∀ s, s = wFit 1 1 (fun p => { p with ilkIn := 1, role := .standby }) → hasIlk s = true ∧ s.pair.ilkOut = false ∧
      s.pair.takeAt = none ∧ isFit s = true ∧ ilkTakes s = true ∧ s.pair.ilkSince + 500000 ≤ s.clk) ∧
    (∀ s, s = wFit 1 1 (fun p => { p with ilkIn := 3, condSince := some 0 }) → hasIlk s = true ∧ ilkBad s = true ∧
      0 + 10000000 ≤ s.clk) ∧
    (∀ s, s = { wFit 1 1 (fun p => { p with ilkIn := 1, clearSince := some 0 }) with clk := 10 ^ 9 } → ilkBad s = false ∧
      0 + 1000000000 ≤ s.clk) ∧
    (∀ s, s = wFit 1 1 (fun p => { p with ilkOut := true, takeAt := some 0, role := .standby, handAt := some 100 }) →
      isFit s = true ∧ (s.cyc.running = true → (0 : Int) ≤ s.cyc.ts) ∧ (0 : Int) ≤ s.time.now ∧ isStack s = false ∧
      warmNow s = false ∧ s.pair.handAt = some s.cyc.n ∧ isPair s = true) ∧
    (∀ s, s = wFit 1 2 (fun p => { p with role := .active, unit1Fit := 16, ilkFault := true }) → arrangement s = 1 ∧
      16 ≤ s.pair.unit1Fit ∧ leadCommitted s = true ∧ granted s = false ∧ s.pair.role = .active) := by
  refine ⟨?_, ?_, ?_, ?_, ?_, ?_⟩ <;> intro s h <;> subst h <;> decide +kernel
/-- … the hawk of a stack, cold takeovers and gaps. -/
theorem meets_hawk :
    (∀ s, s = wFit 3 2 (fun p => { p with hawkHeld := true, unit1Fit := 16, hawkMajority := 94 }) → isStack s = true ∧
      arrangement s = 3 ∧ 6 ≤ cycDiff (gridN s) s.pair.hawkMajority) ∧
    (∀ s, s = wFit 3 1 (fun p => { p with hawkExpiry := some 100 }) → claimCycle s = some 100 ∧ 100 = gridN s ∧
      isFit s = true ∧ s.unplaced = false ∧ s.pair.hawkHeld = false ∧ s.pair.hawkClaimAt ≠ some (gridN s)) ∧
    (∀ s, s = wFit 3 1 (fun p => { p with hawkClaimAt := some 99, hawkVotes := [1, 2] }) → gridN s = cycAdd 99 1 ∧
      hawkMajorityOf s ≤ s.pair.hawkVotes.length ∧ isFit s = true) ∧
    (∀ s, s = wFit 1 1 (fun p => { p with coldTo := some 99, gapCycles := 10 }) → cycBefore 99 s.cyc.n = true ∧
      10 ≤ s.pair.gapCycles) := by
  refine ⟨?_, ?_, ?_, ?_⟩ <;> intro s h <;> subst h <;> decide +kernel

/-- A unit with every presence window open. -/
def wPresent : State :=
  { wRun with clk := 9, pres := { PresenceSt.init with
      pressed := some 1, windowEnd := some 5, jumperOpen := true, sealOpen := true, debugOpen := true,
      sealLoop := ⟨true, true, false⟩ } }
theorem meets_presence : wRun.sleep.power = .awake ∧ managing wRun = true ∧ managing wPresent = true ∧
    wRun.pres.button.fault = false ∧ wRun.pres.jumper.fault = false ∧ wRun.pres.sealLoop.fault = false ∧
    wRun.pres.debugJumper.fault = false ∧ wRun.pres.pressed = none ∧ pastReturn wRun = false ∧ wRun.pres.jumperOpen = false ∧
    wRun.pres.sealOpen = false ∧ wRun.pres.debugOpen = false ∧ wPresent.pres.button.fault = false ∧
    wPresent.pres.pressed = some 1 ∧ wPresent.pres.windowEnd = some 5 ∧ 5 ≤ wPresent.clk ∧ wPresent.pres.jumperOpen = true ∧
    wPresent.pres.sealOpen = true ∧ wPresent.pres.sealLoop.active = true ∧ wPresent.pres.debugOpen = true := by decide +kernel

theorem meets_complex :
    (∀ s, s = { wRun with safe := { SafeSt.init with state := .voted } } → s.safe.state = .voted ∧ resyncsOf s 3 < 2 ∧
      safeRuns s = true ∧ s.safe.split = none ∧ (compareLanes s [⟨1, 1, 2, 0, 0, 0, 0⟩] []).1 = .minority 3 ∧
      (compareLanes s [⟨1, 2, 3, 0, 0, 0, 0⟩] []).1 = .noMajority ∧ (compareLanes s [⟨1, 1, 1, 3, 0, 0, 0⟩] []).1 = .fault) ∧
    (∀ s, s = { wRun with clk := 9, safe := { SafeSt.init with state := .voted, resyncs := [⟨1, 1, none⟩, ⟨1, 2, none⟩] } } → 2 ≤ resyncsOf s 1) ∧
    (∀ s, s = { wRun with safe := { SafeSt.init with state := .dual, failed := 2 } } → s.safe.state = .dual ∧ 1 ≠ s.safe.failed ∧
      (compareLanes s [⟨1, 1, 2, 0, 0, 0, 0⟩] []).1 = .noMajority ∧ 1 ≠ s.safe.minority ∧ (recentOf s s.safe.restarts).length < 2 ∧ safeRuns s = true) ∧
    (∀ s, s = { wRun with safe := { SafeSt.init with state := .voted, cycle := some ⟨100, true, [], []⟩, table := some (zeros 24) } } →
      s.safe.cycle = some ⟨100, true, [], []⟩ ∧ safeRuns s = true ∧ s.safe.split = none ∧ s.safe.table.isSome = true ∧
      s.safe.hold = true ∧ s.safe.release = none ∧ holdCause s = false) ∧
    (∀ s, s = { wRun with safe := { SafeSt.init with state := .resync, resyncing := true, minority := 1 } } →
      s.safe.state = .resync ∧ s.safe.resyncing = true) ∧
    (∀ s, s = { wSkims with safe := { SafeSt.init with state := .restart, cycle := some ⟨99, false, [], []⟩ } } →
      s.safe.state = .restart ∧ s.skim.retained.find? (fun r => r.desc.skim == 99) = some (wSkim 99)) ∧
    (wRun.safe.state = .scratch ∧ managing wRun = true ∧ wRun.safe.cores[3 - 1]? = some CoreSt.init) := by
  refine ⟨?_, ?_, ?_, ?_, ?_, ?_, by decide +kernel⟩ <;> intro s h <;> subst h <;> decide +kernel
/-- … a minority in the lane self-check of a restart, and lanes as the rows hand them on. -/
theorem meets_restartCheck :
    (voteLanes [⟨1, 1, 2, 0, 0, 0, 0⟩] (laneParity [⟨1, 1, 2, 0, 0, 0, 0⟩] [])).1 = .minority 3 ∧ wRun.safe.cores.length = 3 ∧
    (∀ s, s = { wRun with safe := { SafeSt.init with state := .voted } } →
      (compareLanes s [⟨1, 1, 2, 0, 0, 0, 0⟩] (laneParity [⟨1, 1, 2, 0, 0, 0, 0⟩] [])).1 = .minority 3 ∧
      (compareLanes s [⟨1, 2, 3, 0, 0, 0, 0⟩] (laneParity [⟨1, 2, 3, 0, 0, 0, 0⟩] [])).1 = .noMajority ∧
      (compareLanes s [⟨1, 1, 1, 3, 0, 0, 0⟩] (laneParity [⟨1, 1, 1, 3, 0, 0, 0⟩] [])).1 = .fault) ∧
    (∀ s, s = { wRun with safe := { SafeSt.init with state := .restart } } → s.safe.state = .restart ∧ s.safe.failed = 0) := by
  refine ⟨by decide +kernel, by decide +kernel, ?_, ?_⟩ <;> intro s h <;> subst h <;> decide +kernel

/-- The premises of `Obligations.TheComparatorVotesOnItsLanes` are met: the lanes of each case, and states of the outcomes. -/
theorem meets_lanes :
    laneRails ⟨1, 1, 1, 0, 0, 0, 0⟩ 0 = (1, 1, 1) ∧ laneRails ⟨1, 1, 2, 0, 0, 0, 0⟩ 0 = (1, 2, 2) ∧ laneRails ⟨2, 1, 1, 0, 0, 0, 0⟩ 0 = (2, 1, 2) ∧
    laneRails ⟨1, 1, 1, 0, 0, 0, 0⟩ 2 = (2, 2, 1) ∧ laneRails ⟨1, 2, 3, 0, 0, 0, 0⟩ 0 = (2, 2, 2) ∧ laneRails ⟨1, 1, 1, 0, 0, 3, 0⟩ 0 = (1, 1, 2) ∧
    laneRails ⟨1, 1, 1, 0, 1, 0, 0⟩ 0 = (1, 0, 1) ∧
    (∀ s, s = { wRun with safe := { SafeSt.init with state := .voted } } → s.safe.state = .voted ∧
      (compareLanes s [⟨1, 1, 2, 0, 0, 0, 0⟩, ⟨2, 1, 1, 0, 0, 0, 0⟩] []).1 = .noMajority ∧ (compareLanes s [] []).1 = .agree) := by
  refine ⟨by decide, by decide, by decide, by decide, by decide, by decide, by decide, ?_⟩
  intro s h; subst h; decide +kernel

theorem meets_safetyIo :
    (∀ k ∈ [1, 16], wRun.safe.hvFault.getLsbD (k - 1) = false) ∧ cabInput wRun = 1 ∧
    (∀ s, s = { wRun with clk := 10000000000, safe := { SafeSt.init with state := .voted, applied := 0x81 } } →
      s.safe.applied.getLsbD (1 - 1) = true ∧ s.safe.applied.getLsbD (8 - 1) = true ∧
      s.safe.pulseAt.getD (8 - 1) 0 + 10000000000 ≤ s.clk ∧ feedLow s 8 = false) ∧
    (∀ s, s = { wRun with start := { wRun.start with feed1Low := true } } → feedLow s 1 = true) := by
  refine ⟨by decide +kernel, by decide +kernel, ?_, ?_⟩ <;> intro s h <;> subst h <;> decide +kernel

/-- A train's lead with an MVB administrator on S2, an MVB device on S4 and a CANopen manager on C1. -/
def wField (devs : List MvbDevice) : State :=
  let mvb : SPortCfg := { SPortCfg.off with mode := 1, devices := devs, ports := [⟨16, 1, 0, 0, true, false, some 100⟩, ⟨17, 2, 0, 0, false, true, some 100⟩] }
  let dev : SPortCfg := { SPortCfg.off with mode := 2, deviceAddr := 33, deviceStatus := 7, ports := [⟨16, 1, 0, 0, true, false, some 100⟩] }
  let nodes : List CanNode := [⟨5, 100, []⟩, ⟨6, 100, [(0x1017, 0, [100, 0])]⟩]
  let can : CanCfg := { CanCfg.off with enabled := true, nodes := nodes, ins := [⟨0x185, 5, some 100⟩], sync := true, syncCob := 0x80, ownNode := 1, heartbeat := 100 }
  { wTrain with cfg := some { wCfg with field := { FieldCfg.none with serial := [(2, mvb), (4, dev)], can := [(1, can)] } } }
/-- The premises of `Obligations.MvbBusesRun` are met. -/
theorem meets_mvb :
    (∀ s, s ∈ [wField [], wField [⟨40, 0⟩]] → (sportCfg s 2).mode = 1 ∧ (sportCfg s 2).pairB = false ∧
      (∃ k : Nat, basicIndex s (sportCfg s 2) = (k : Int) ∧ (sport s 2).basic ≠ k + 1) ∧ (sport s 2).polled = none) ∧
    (sportCfg (wField []) 2).devices = [] ∧
    (sportCfg (wField [⟨40, 0⟩]) 2).devices[(sport (wField [⟨40, 0⟩]) 2).nextDevice % 1]? = some ⟨40, 0⟩ ∧
    (sportCfg (wField []) 4).mode = 2 ∧ (sportCfg (wField []) 4).pairB = false ∧
    mvbPort (wField []) 4 16 = some ⟨16, 1, 0, 0, true, false, some 100⟩ ∧
    mvbMode (wField []) 2 = true ∧ mvbPort (wField []) 2 17 = some ⟨17, 2, 0, 0, false, true, some 100⟩ ∧
    mvbPort (wField []) 2 18 = none ∧ mvbRouted (wField []) 2 18 2 = false := by
  refine ⟨?_, by decide +kernel⟩
  intro s h
  refine ⟨?_, ?_, ⟨(basicIndex s (sportCfg s 2)).toNat, ?_, ?_⟩, ?_⟩ <;>
    (simp only [List.mem_cons, List.not_mem_nil, or_false] at h; rcases h with h | h <;> subst h <;> decide +kernel)

/-- That manager's port in a given state. -/
def wCan (p : CanPort) : State := { wField [] with clk := 6000000000, fld := { FieldSt.init with can := [(1, p)] } }
def wCanPort : CanPort :=
  { CanPort.init with
    started := true
    nodes := [(5, ⟨.operational, 0, 0, 5, 0⟩), (6, ⟨.boot, 0, 0, 0, 0⟩)]
    inbox := [⟨0x185, false, 1, [9], false⟩, ⟨0x705, false, 1, [5], false⟩, ⟨0x705, false, 1, [4], false⟩,
    ⟨0x705, false, 1, [0x7F], false⟩, ⟨0x705, false, 1, [0], false⟩, ⟨0x706, false, 1, [0], false⟩, ⟨0x085, false, 8, [1, 2, 3, 4, 5, 6, 7, 8], false⟩] }
/-- An SDO with node 5, and its answer. -/
def wSdo (write : Bool) : Sdo := ⟨5, true, ⟨6, 0, []⟩, 0x2000, 1, write, [], [], 4, false, false, 7⟩
def wSdoPort (write : Bool) (cs : Nat) : CanPort :=
  { wCanPort with sdos := [wSdo write], inbox := [⟨0x585, false, 8, be 1 cs ++ [0, 0x20, 1, 1, 2, 3, 4], false⟩] }
/-- The premises of `Obligations.CanBusesRun` are met. -/
theorem meets_can :
    (∀ s, s = wField [] → (canCfg s 1).enabled = true ∧ (canPort s 1).started = false ∧ (canNode s 1 5).isSome = true ∧
      portLocked s 9 = false) ∧
    (∀ s, s = wCan wCanPort → (canCfg s 1).enabled = true ∧ (canPort s 1).started = true ∧ (canPort s 1).state ≠ 2 ∧
      (inPdo s 1 0x185).isSome = true ∧ inPdo s 1 0x187 = none ∧ canNode s 1 (0x187 % 128) = none ∧ sdoBusy s 1 (0x187 % 128) = false ∧ s.route.table = none ∧
      inPdo s 1 0x185 = some ⟨0x185, 5, some 100⟩ ∧
      (∀ d ∈ [0, 4, 5, 0x7F], (⟨0x705, false, 1, [d], false⟩ : CanIn) ∈ (canPort s 1).inbox) ∧ field [4] 0 1 % 128 = 4 ∧
      field [0x7F] 0 1 % 128 = 0x7F ∧ field [5] 0 1 % 128 = 5 ∧
      (nodeSt s 1 5).phase = .operational ∧ (nodeSt s 1 6).phase = .boot ∧ sdoBusy s 1 6 = false ∧ sdoBusy s 1 5 = false ∧
      (nodeSt s 1 5).heard + 100 * 1000000 ≤ s.clk ∧ (nodeSt s 1 6).since + (canCfg s 1).bootWait * 1000000 ≤ s.clk ∧
      (canPort s 1).inbox.find? (fun y => y.ident == 0x080 + 5 && y.data == [1, 2, 3, 4, 5, 6, 7, 8]) =
        some ⟨0x085, false, 8, [1, 2, 3, 4, 5, 6, 7, 8], false⟩ ∧
      (canCfg s 1).sync = true ∧ s.cyc.running = true ∧ gridN s % (canCfg s 1).syncPeriod = 0 ∧ (canPort s 1).syncAt ≠ some (gridN s) ∧
      gridTs s + (canCfg s 1).syncOffset * 1000 ≤ s.time.now ∧ (canCfg s 1).syncOverflow = 0 ∧ (canCfg s 1).ownNode ≠ 0 ∧
      (canPort s 1).beatAt + (canCfg s 1).heartbeat * 1000000 ≤ s.clk) ∧
    (∀ s, s = { wCan wCanPort with clk := 5 } → s.clk < (nodeSt s 1 5).heard + 100 * 1000000) ∧
    (∀ cs ∈ [0x80, 0x60, 0x43], ∀ s, s = wCan (wSdoPort (cs == 0x60) cs) → ∃ m,
      (canPort s 1).inbox.find? (fun y => y.ident == 0x580 + 5 && y.data == m.data) = some m ∧ field m.data 0 1 = cs ∧
      (canPort s 1).sdos.find? (fun y => y.node == 5) = some (wSdo (cs == 0x60)) ∧
      bslice m.data 1 3 = sdoMux (wSdo (cs == 0x60))) ∧
    (∀ s, s = wCan { wCanPort with state := 2 } → (canPort s 1).state = 2 ∧ (canPort s 1).recoveredAt = none) := by
  refine ⟨?_, ?_, ?_, ?_, ?_⟩
  · intro s h; subst h; decide +kernel
  · intro s h; subst h; decide +kernel
  · intro s h; subst h; decide +kernel
  · intro cs hc s h
    refine ⟨⟨0x585, false, 8, be 1 cs ++ [0, 0x20, 1, 1, 2, 3, 4], false⟩, ?_⟩
    subst h
    revert cs
    decide +kernel
  · intro s h; subst h; decide +kernel

/-- A program of these words, at its start on float F6 (port S1) of a train's lead. -/
def wFloat (code : List Word32) (txn : Option FloatTxn) : State :=
  { wTrain with
    cfg := some { wCfg with field := { FieldCfg.none with serial := [(1, { SPortCfg.off with mode := 3 })] } }
    clk := 5000000000
    fld := { FieldSt.init with floats := [(6, { startProgram FloatSt.init ⟨1, 1, 0, 0, code, []⟩ 0 with txn := txn })] } }
/-- Every opcode of R313 is the next word of some running float. -/
theorem meets_float : ∀ op < 50, ∃ w : Word32, wOp w = op ∧ floatAt (wFloat [w] none) 6 w := by
  intro op h
  refine ⟨BitVec.ofNat 32 (op * 2 ^ 26), ?_⟩
  revert h op
  decide +kernel

/-- The premises of `Obligations.FloatMemoryEventsAndTransactionsWork` are met; words by `meets_float`. -/
theorem meets_floatMemory :
    (∀ f, f = floatOf (wFloat [0x30000004] none) 6 → fAddr 0x30000004 f = 4 ∧ (sport (wFloat [0x30000004] none) (6 - 5)).sentBytes < 1024 ∧ f.tx = [] ∧ f.rx = [] ∧ f.lineCtrl % 2 = 1 ∧
      f.txn = none) ∧ fAddr 0x30003FFC FloatSt.init + 4 = 0x4000 ∧ fAddr 0x38003FFF FloatSt.init + 1 = 0x4000 ∧
    fAddr 0x30000002 FloatSt.init % 4 ≠ 0 ∧
    (∀ n ∈ [0x94000002, 0x94000004, 0x94000005, 0x98000000, 0x9C000005, 0xA0000000],
      floatAt (wFloat [BitVec.ofNat 32 n] (some ⟨0, 1, 3, 40, 2, 0⟩)) 6 (BitVec.ofNat 32 n)) ∧
    Nat.land (floatPresent (floatOf (wFloat [0x8C000010] none) 6)) (wImm 0x8C000010 % 256) ≠ 0 ∧
    Nat.land (floatPresent (floatOf (wFloat [0x8C000001] none) 6)) (wImm 0x8C000001 % 256) = 0 ∧
    (∀ s, s = { wFloat [0x10000000] none with fld := { FieldSt.init with
        floats := [(6, { startProgram FloatSt.init ⟨1, 1, 0, 0, [0x10000000], []⟩ 0 with steps := 1024 })] } } →
      (floatOf s 6).running = true ∧ (floatOf s 6).waiting = none ∧ 1024 ≤ (floatOf s 6).steps ∧ wOp 0x10000000 = 4 ∧
      (floatOf s 6).prog.bind (fun p => p.code[(floatOf s 6).pc]?) = some 0x10000000) := by
  refine ⟨?_, by decide +kernel, by decide +kernel, by decide +kernel, by decide +kernel, by decide +kernel, by decide +kernel, ?_⟩ <;>
    intro s h <;> subst h <;> decide +kernel
/-- … and a full transmit FIFO. -/
theorem meets_floatFull :
    ∃ s, floatAt s 6 0x94000002 ∧ (floatOf s 6).running = true ∧ 64 ≤ (txLeft (floatEnv s 6) (floatOf s 6)).length := by
  refine ⟨{ wFloat [0x94000002] none with fld := { FieldSt.init with
      floats := [(6, { startProgram FloatSt.init ⟨1, 1, 0, 0, [0x94000002], []⟩ 0 with tx := zeros 64, txAt := 5000000000 })] } }, ?_⟩
  decide +kernel

/-- A float of port S1 in a given state. -/
def wFloatSt (f : FloatSt) : State :=
  { wTrain with
    cfg := some { wCfg with field := { FieldCfg.none with serial := [(1, { SPortCfg.off with mode := 3 })] } }
    clk := 9000000000
    fld := { FieldSt.init with floats := [(6, f)] } }
def wProg : Program := ⟨1, 1, 0, 0, [0], []⟩
def wFloatRun : FloatSt := startProgram FloatSt.init wProg 0
/-- An IN route of port S1. -/
def wSerialIn : Bytes := be 4 0x01000001 ++ be 1 0x71 ++ zeros 1 ++ be 2 1 ++ be 1 1 ++ be 2 1 ++ be 1 3 ++ be 4 100 ++ be 1 16 ++ zeros 16
def wSerialTxn : SerialTxn := ⟨1, false, farKey wSerialIn, wSerialIn, [], 0, 0, [], 0, 0, none⟩
/-- The premises of `Obligations.FloatsAndSerialPortsRun` and of `Obligations.DueFloatAndSerialRowsComplete` are met. -/
theorem meets_serial :
    (∀ s, s = wFloatSt { wFloatRun with stoppedAt := some 1, running := false } → (floatOf s 6).stoppedAt = some 1 ∧
      (floatOf s 6).prog = some wProg ∧ 1 + 1000000000 ≤ s.clk ∧ (floatOf s 6).faults.length < 3) ∧
    (∀ s, s = wFloatSt { wFloatRun with timer := some 1, byteAt := some 1, tta := some 5, tx := [1], staged := some wProg } →
      (floatOf s 6).timer = some 1 ∧ 1 ≤ s.clk ∧ (floatOf s 6).running = true ∧ (floatOf s 6).waiting = none ∧
      (floatOf s (portFloat 1)).byteAt = some 1 ∧ 1 + (floatOf s 6).silence * (sportCfg s 1).bitNs ≤ s.clk ∧
      (sportCfg s 1).mode = 3 ∧ (floatOf s 6).rx.length < 64 ∧ (floatOf s 6).tx ≠ [] ∧ (floatOf s 6).tta = some 5 ∧ 5 ≤ s.time.now ∧
      (floatOf s 6).staged = some wProg ∧ (sport s 1).held = none ∧ serialReady s 1 = true ∧ portLocked s 1 = false ∧
      (floatOf s 6).txAt + (floatOf s 6).tx.length * ((sportCfg s 1).bitNs * (sportCfg s 1).charBits) ≤ s.clk) ∧
    (floatOf (wFloatSt { wFloatRun with timer := some 1, waiting := some (1, 3) }) 6).waiting = some (1, 3) ∧
    64 ≤ (floatOf (wFloatSt { wFloatRun with rx := List.replicate 64 256 }) 6).rx.length ∧
    Tab.get? ({ FieldSt.init with stagedProfiles := [(5, wProg)] }).stagedProfiles 5 = some wProg ∧
    (∀ s, s = { wFloatSt wFloatRun with
        skim := { SkimSt.init with applied := some (100, []) }
        route := { Routing.init with table := some ⟨1, 0, 0, 0, [(0, wSerialIn)]⟩ } } →
      s.skim.applied = some (100, []) ∧ 100 % (sportCfg s 1).period = (sportCfg s 1).phase ∧ s.pair.repeatOff = false ∧
      (sport s 1).cycleOf = none ∧ (sport s 1).lastCycle ≠ some 100 ∧ outWork s 1 [] ++ inWork s 1 ≠ []) ∧
    (∀ s, s = { wFloatSt wFloatRun with
        fld := { FieldSt.init with floats := [(6, wFloatRun)], serial := [(1, { SPort.init with work := [wSerialTxn], cycleOf := some 99, lastCycle := some 99 })] } } →
      (sport s 1).work = [wSerialTxn] ∧ lockedCyclic s wSerialTxn = false ∧ (sport s 1).cycleOf = some 99 ∧ (sport s 1).lastCycle ≠ some 100 ∧
      (sport s 1).overrun ≠ some (topoInForce s) ∧ nextDemand s 1 = none ∧ (sport s 1).held = none) ∧
    (∀ s, s = { wFloatSt wFloatRun with bridge := { BridgeSt.init with farQueue := [⟨farKey wSerialIn, 1, wSerialIn, 0, 7, true, 0, none, none, 9000000000, 0, [], true, false, false, false, 0, false⟩] } } →
      (sport s 1).work = [] ∧ (nextDemand s 1).isSome = true) ∧
    (∀ s, s = wFloatSt wFloatRun → serialReady s 1 = true ∧ (sport s 1).held = none ∧ portLocked s 1 = false ∧
      portWaited s 1 = false ∧ lockedCyclic s { wSerialTxn with entry := splice wSerialIn 6 (be 2 0x11) } = true) := by
  refine ⟨?_, ?_, by decide +kernel, by decide +kernel, by decide +kernel, ?_, ?_, ?_, ?_⟩ <;> intro s h <;> subst h <;> decide +kernel
/-- … a bus-cycle start at which a program takes force, one at which none may, and accesses in time. -/
theorem meets_serialMore :
    (∀ s, s = { wFloatSt { wFloatRun with staged := some wProg } with skim := { SkimSt.init with applied := some (100, []) } } →
      busStart s 1 = true ∧ (floatOf s (portFloat 1)).staged = some wProg ∧ (sport s 1).held = none) ∧
    (busStart (wFloatSt { wFloatRun with staged := some wProg }) 1 = false) ∧
    (floatOf (wFloatSt wFloatRun) (portFloat 1)).staged = none ∧ (∀ y ∈ (wFloatSt wFloatRun).bridge.farQueue, False) ∧
    (∀ s y, y = ⟨farKey wSerialIn, 1, wSerialIn, 0, 7, true, 0, none, none, 9000000001, 0, [], true, false, false, false, 0, false⟩ →
      s = { wFloatSt wFloatRun with bridge := { BridgeSt.init with farQueue := [y] } } →
      notHanded s 1 y = true ∧ s.clk < y.deadline ∧ nextDemand s 1 = some y) := by
  refine ⟨?_, by decide +kernel, by decide +kernel, by decide +kernel, ?_⟩
  · intro s h; subst h; decide +kernel
  · intro s y h k; subst h; subst k; decide +kernel

/-- A gate list of one cycle whose gates are all open. -/
def wGates : Bytes := be 2 1 ++ be 2 1 ++ be 1 255 ++ zeros 3 ++ be 4 1000000
/-- The premises of `Obligations.VehiclePortsSwitchAndGate` are met. -/
theorem meets_vehiclePorts :
    (∀ s, s = wVeh wVehUp → (vportCfg s 1).enabled = true ∧ vlink s 1 = true ∧
      isMember s 1 (classify s 1 (zeros 64)).vlan = true ∧ (classify s 1 (zeros 64)).vlan ≠ 4095 ∧
      bitOf (vportCfg s 1).speeds 2 = true ∧ bitOf (classify s 1 (zeros 64)).src 40 = false ∧ s.veh.macs.length < 16384 ∧
      (zeros 64).length ≤ (vlanCfg s (classify s 1 (zeros 64)).vlan).maxFrame ∧ (classify s 1 (zeros 64)).dst < 0x0180C2000000 ∧
      (vlanCfg s (classify s 1 (zeros 1523)).vlan).maxFrame < (zeros 1523).length) ∧
    (∀ b s, b = zeros 12 ++ be 2 0x8100 ++ be 2 7 ++ zeros 60 → s = wVeh wVehUp → isMember s 1 (classify s 1 b).vlan = false ∧
      64 ≤ b.length ∧ b.length ≤ (vlanCfg s (classify s 1 b).vlan).maxFrame ∧ (classify s 1 b).dst = 0) ∧
    (∀ s, s = wVeh { wVehUp with ports := [(1, { wVport with gates := some wGates, staged := some (wGates, 100) })] } →
      (vport s 1).gates.isSome = true ∧ (vport s 1).staged = some (wGates, 100) ∧ gridN s = 100 ∧ gridN s % gateM wGates = 0 ∧
      1 ≤ gateM wGates) ∧
    (∀ s, s = { wVeh wVehUp with time := { wTrain.time with now := 200000000000 } } → gridTs s + (outOffset s : Nat) ≤ s.time.now) ∧
    (∀ s, s = wVeh { wVehUp with ports := [(1, { wVport with staged := some (wGates, 108) })] } →
      (vport s 1).staged = some (wGates, 108) ∧ gridN s ≠ 108 ∧ cycBefore 108 (gridN s) = false) := by
  refine ⟨?_, ?_, ?_, ?_, ?_⟩
  · intro s h; subst h; decide +kernel
  · intro b s hb h; subst hb h; decide +kernel
  all_goals (intro s h; subst h; decide +kernel)

/-- A destination's entry. -/
def wArp (mac : Option Nat) (tries : Nat) : State :=
  wVeh { wVehUp with arp := [⟨0, 0x0A000009, mac, tries, 7, [⟨6, none, .raw [1]⟩]⟩] }
def wStaged : StagedFrame := ⟨3, ⟨zeros 8, 0, 0, none⟩, 5⟩
/-- The premises of `Obligations.AddressesResolveAndDatagramsAreAnswered` are met. -/
theorem meets_addresses :
    (∀ s, s = wVeh wVehUp → (iface s 0).isSome = true ∧ ifaceIp s 0 = 0x0A000001 ∧ ifaceMac s 0 = 0x020000000000 ∧
      (s.veh.claims.find? (fun c => c.iface == 0)) = none ∧ isBroadcast s 0 0x0A0000FF = true) ∧
    (resolvingAt (wArp none 3) 0 0x0A000009 = false ∧ (wArp none 3).veh.arp.length + (net (wArp none 3)).arpStatic.length ≤ 1024 ∧
      resolvingAt { wArp none 3 with veh := { (wArp none 3).veh with
        chans := [(3, { ChanSt.init ([1, 0, 5, 3] ++ be 4 0x0A000009 ++ zeros 24) with state := .resolving })] } } 0 0x0A000009 = true) ∧
    (∀ s, s ∈ [wArp none 1, wArp none 3, wArp (some 9) 1] → ∃ a, arpFind s 0 0x0A000009 = some a ∧ 0x0A000009 ≠ ifaceIp s 0 ∧
      a.at_ + 300000000000 ≤ s.clk ∧ a.held = [⟨6, none, .raw [1]⟩]) ∧
    (∀ s, s = wVeh { wVehUp with claims := [⟨0, true, 7⟩] } → s.veh.claims.find? (fun c => c.iface == 0) = some ⟨0, true, 7⟩ ∧
      7 + 10000000000 ≤ s.clk) ∧
    (∀ s, s = wVeh { wVehUp with echoFrom := 400000000000, echoes := 64 } → s.clk < s.veh.echoFrom + 1000000000 ∧ 64 ≤ s.veh.echoes) ∧
    (wVeh wVehUp).veh.echoFrom + 1000000000 ≤ (wVeh wVehUp).clk ∧
    (∀ s, s = wVeh { wVehUp with rings := [(3, newRing 4 0)], staging := [] } → Tab.get? s.veh.rings 3 = some (newRing 4 0) ∧
      s.veh.staging = []) ∧
    (∀ s, s = wVeh { wVehUp with rings := [(3, newRing 4 0)], staging := [wStaged] } →
      s.veh.staging.find? (fun x => x.at_ + 100000 ≤ s.clk) = some wStaged ∧ Tab.get? s.veh.rings wStaged.ring = some (newRing 4 0)) := by
  refine ⟨?_, by decide +kernel, ?_, ?_, ?_, by decide +kernel, ?_, ?_⟩
  · intro s h; subst h; decide +kernel
  · intro s h
    refine ⟨s.veh.arp.headD ⟨0, 0, none, 0, 0, []⟩, ?_⟩
    simp only [List.mem_cons, List.not_mem_nil, or_false] at h
    rcases h with h | h | h <;> subst h <;> decide +kernel
  all_goals (intro s h; subst h; decide +kernel)

/-- A telegram to ComId 901 from 10.0.0.9 that the lead's subscription takes. -/
def wTrdp (kind : Nat) : TrdpIn := ⟨kind, true, 0x0100, 0, 901, 5, 0x0A000009, 17224, 0, 0, 44, 0, 0, [1, 2, 3, 4]⟩
def wSession : TrdpSession := ⟨44, ⟨2, 0, []⟩, 0x0A000009, 9⟩
/-- The premises of `Obligations.TelegramsAndTimeMessagesAreServed` are met. -/
theorem meets_telegrams :
    (∀ s, s = { wVeh wVehUp with skim := { SkimSt.init with staging := [(101, [])] } } →
      (net s).pubs[0]? = some ⟨900, 0x0A000009, 0, 6, 1, 0, 4⟩ ∧ managing s = true ∧ s.pair.repeatOff = false ∧
      dueSkim s 1 0 (Tab.getD s.veh.pubs 0 ⟨0, none⟩).last = some (101, [])) ∧
    (∀ s m, s = wVeh wVehUp → m = wTrdp 0x5064 → m.headerOk = true ∧ m.version / 256 = 1 ∧ m.etbTopo = 0 ∧
      (net s).subs = [⟨901, 0, 0, 4, 100⟩] ∧ m.interface = 0 ∧ m.dataset.length = 4 ∧
      (m.src, m.seq) ∉ (Tab.getD s.veh.subs 0 ⟨[], m.src, 0, none⟩).seqs ∧ topoInForce s = 1 ∧
      (net s).pubs.find? (fun x => x.comId == 900) = some ⟨900, 0x0A000009, 0, 6, 1, 0, 4⟩ ∧
      (∀ c ∈ (net s).subs, c.comId ≠ 902) ∧ (s.veh.sessions.find? (fun x => x.no == m.session && x.ip == m.src)) = none) ∧
    (∀ s, s = wVeh { wVehUp with subs := [(0, ⟨[(0x0A000009, 5)], 0x0A000009, 0, none⟩)] } →
      (0x0A000009, 5) ∈ (Tab.getD s.veh.subs 0 ⟨[], 0x0A000009, 0, none⟩).seqs) ∧
    (∀ s m, s = { wVeh { wVehUp with sessions := [wSession] } with bridge := { BridgeSt.init with farQueue :=
          [⟨⟨2, 0, []⟩, 1, zeros 32, 0, 7, true, 0, some (default, 3), none, 9000000000, 0, [], true, false, false, false, 0, false⟩] } } →
      m = wTrdp 0x4D70 → s.veh.sessions.find? (fun x => x.no == m.session && x.ip == m.src) = some wSession ∧
      m.kind = 0x4D70 ∧ m.resultCode = 0 ∧ (headTxn s ⟨2, 0, []⟩).any writing = true ∧
      s.veh.sessions.find? (fun x => x.no == 44) = some wSession ∧ wSession.until_ ≤ s.clk) ∧
    (∀ s m y, s = { wVeh { wVehUp with sessions := [wSession] } with bridge := { BridgeSt.init with farQueue := [y] } } →
      y = ⟨⟨2, 0, []⟩, 1, zeros 32, 0, 7, true, 0, none, none, 9000000000, 0, [], true, false, false, false, 0, false⟩ →
      m = wTrdp 0x4D70 → headTxn s ⟨2, 0, []⟩ = some y ∧ writing y = false ∧
        rByteOff y.entry + y.unitsDone * rUnitBytes y.entry + rUnitBytes y.entry ≤ m.dataset.length) ∧
    (∀ s, s = wVeh { wVehUp with ports := [(1, { wVport with link := 0x45 })] } → ptpOn s 1 = true ∧
      ptpDue s (ptpState s 1).syncAt (net s).logSync = true ∧ ptpDue s (ptpState s 1).annAt (net s).logAnnounce = true ∧
      ptpDue s (some s.clk) (net s).logSync = false) := by
  refine ⟨?_, ?_, ?_, ?_, ?_, ?_⟩
  · intro s h; subst h; decide +kernel
  · intro s m h hm; subst h hm; decide +kernel
  · intro s h; subst h; decide +kernel
  · intro s m h hm; subst h hm; decide +kernel
  · intro s m y h hy hm; subst hy; subst h hm; decide +kernel
  · intro s h; subst h; decide +kernel

/-- A request as bytes: class and version, opcode, sequence, flags, and its check over header and parameters. -/
def wBytes (ver op flags : Nat) (bad : Nat) : Bytes :=
  let h := be 1 ver ++ be 2 op ++ be 2 1 ++ be 1 flags ++ zeros 1 ++ be 2 0 ++ zeros 3
  h ++ be 4 ((crc32 h + bad) % 2 ^ 32)
/-- The premises of `Obligations.RequestsAreCheckedQueuedAndAnsweredOnce` are met. -/
theorem meets_requests :
    (zeros 15).length < 16 ∧ bitOf (field (wBytes 0x10 0x0101 0x80 0) 5 1) 7 = true ∧
    (wBytes 0x10 0x0101 0 0 ++ [0]).length ≠ 16 + field (wBytes 0x10 0x0101 0 0 ++ [0]) 7 2 ∧
    (∀ b, b = wBytes 0x10 0x0101 0 1 → 16 ≤ b.length ∧ bitOf (field b 5 1) 7 = false ∧ b.length = 16 + field b 7 2 ∧
      field b 7 2 ≤ 16384 ∧ field b 12 4 ≠ crc32 (b.take 12 ++ b.drop 16)) ∧
    (∀ b, b = wBytes 0x20 0x0101 0 0 → b.length = 16 + field b 7 2 ∧ field b 12 4 = crc32 (b.take 12 ++ b.drop 16) ∧ field b 0 1 / 16 ≠ 1) ∧
    (∀ b, b = wBytes 0x10 0x7777 0 0 → field b 12 4 = crc32 (b.take 12 ++ b.drop 16) ∧ field b 0 1 / 16 = 1 ∧ opSpec (field b 1 2) = none) ∧
    (∀ b, b = wBytes 0x10 0x0101 0 0 → field b 12 4 = crc32 (b.take 12 ++ b.drop 16) ∧ field b 0 1 / 16 = 1 ∧ (opSpec (field b 1 2)).isSome = true) := by
  refine ⟨by decide +kernel, by decide +kernel, by decide +kernel, ?_, ?_, ?_, ?_⟩ <;> intro b h <;> subst h <;> decide +kernel
/-- … its authority, its queue and its kept replies. -/
theorem meets_requestStates :
    (∀ r, r = (⟨0x0105, 1, [], [], [], []⟩ : OpSpec) → classNeeded wRun r (wPk 0x0105 0 []) = 1 ∧ wRun.pres.sealOpen = false ∧
      ceiling wRun < 2 ∧ itemsOk r [] = true ∧ itemsOk r [⟨9, [1]⟩] = false) ∧
    (∀ p s, p = wPk 0x0101 0 [] → s = wAsk wRun p → (sessionOf s .host).isSome = true ∧ hardwareServed p.opcode = false ∧
      pkQuiet p = false ∧ s.host.replyHeld = false) ∧
    (∀ p q, p = wPk 0x0101 0 [] → q = (⟨.host, 0, List.replicate 8 p, [⟨1, 0, [], 0⟩], []⟩ : SessSt) →
      sessionOf { wRun with cmd := { CmdSt.init with sessions := [q] } } .host = some q ∧ 8 ≤ (firmwareQueue q).length ∧
      (q.kept.find? (fun k => k.seq == p.seq && k.check == p.check && wRun.clk < k.at_ + 5000000000)).isSome = true) ∧
    (∀ r, r = (⟨0x0101, 0, [], [], [], []⟩ : OpSpec) → requestRefusal (touchSession wRun .host) r (wPk 0x0101 0 []) = none ∧
      requestRefusal (touchSession wRun .host) r (wPk 0x0101 0 [⟨9, [1]⟩]) = some stBadParameter) := by
  refine ⟨?_, ?_, ?_, ?_⟩
  · intro r h; subst h; decide +kernel
  · intro p s hp h; subst hp h; decide +kernel
  · intro p q hp h; subst hp h; decide +kernel
  · intro r h; subst h; decide +kernel

theorem meets_tick : State.reset.pending = [] := rfl

/-- An energised output in a unit whose safety complex is voted and holds nothing, and the reset state. -/
theorem meets_outputsSound :
    outputsSound State.reset ∧
    outputsSound { wRun with safe := { SafeSt.init with state := .voted, hold := false, applied := 1 } } ∧
    outputsBarred { wRun with safe := { SafeSt.init with state := .voted, hold := false, applied := 1 } } = false := by
  unfold outputsSound
  decide +kernel

theorem meets_hostWindows : windowsWf State.reset = true ∧
    windowsWf { wRun with host := { wRun.host with cmdWin := [(0, 16), (4, 1)] } } = true := by decide +kernel

theorem meets_unitCode : State.reset.start.boot = .unpowered ∧ State.reset.start.overvoltStop = false ∧
    State.reset.start.overtempStop = false ∧ unitOfCode 0b101 ≠ 0 := by decide
theorem meets_unitCodeKept : (∀ u a, Instr.islandReady ≠ .powerOnReset u a) ∧ (∀ u a, Instr.islandReady ≠ .converterRestart u a) ∧
    ∃ t, exec .islandReady State.reset = .next t :=
  ⟨fun _ _ h => Instr.noConfusion h, fun _ _ h => Instr.noConfusion h, _, rfl⟩

theorem meets_age : ({ blankCell with refresh := some 4294967295 } : SigCell).refresh = some 4294967295 ∧ blankCell.refresh = none ∧
    ageOf 4 { blankCell with refresh := some 4294967295 } = 5 := by decide

/-- A unit that keeps the line, in its supervision slot. -/
def wKeeping : State :=
  { wPub with
    sleep := { wPub.sleep with power := .lineKeeping }
    host := HostSt.init
    cyc := { wPub.cyc with n := 0 } }
theorem meets_lineKeeping : wKeeping.sleep.power = .lineKeeping ∧ mayOriginate wKeeping = true ∧ hasSupSlot wKeeping = true ∧
    attached wKeeping = true ∧ (lineCopies (openPorts wKeeping) (newFrame wKeeping 10 0 0 [])).length = 2 ∧ awake wTrain = true := by
  decide +kernel

/-- A unit in a trial whose other bank was active, ready since 60 s without a train. -/
theorem meets_trial :
    ∀ s, s = { wRun with
        clk := 70000000000
        img := { ImageSt.init with readyAt := some 1, votedApplied := true, fw := { ImageSt.init.fw with b0 := ⟨.trial, []⟩, b1 := ⟨.active, []⟩ } } } →
      inTrial s = true ∧ managing s = true ∧ s.safe.scratchFail = false ∧ s.img.votedApplied = true ∧ s.img.readyAt = some 1 ∧
      s.set.state ≠ .committed ∧ 1 + 60000000000 ≤ s.clk ∧ s.clk ≤ s.img.releasedAt + 120000000000 ∧ (banksOf s 8).b0.state = .trial ∧
      (banksOf s 8).running = 0 ∧ (banksOf s 8).b1.state = .active := by
  intro s h; subst h; decide

end Sys2Proof.Machine
end

section
/-! SUPPORT. Reading back what was written: bits of a register, entries of a sparse table, the values of the train-line
ports, byte strings of a memory; the words of a register block. -/

namespace Sys2Proof.Proofs

open Sys2Proof Sys2Proof.Machine

/-! ### Containers -/

theorem getLsbD_setBit_self {w k : Nat} (v : BitVec w) (x : Bool) (h : k < w) : (setBit v k x).getLsbD k = x := by
  have hbit : (BitVec.ofNat w (2 ^ k)).getLsbD k = true := by
    rw [BitVec.getLsbD_ofNat, Nat.testBit_two_pow_self]
    simp [h]
  cases x <;> simp only [setBit, Bool.false_eq_true, if_true, if_false, BitVec.getLsbD_or, BitVec.getLsbD_and,
    BitVec.getLsbD_not, hbit, h, decide_true, Bool.not_true, Bool.and_false, Bool.or_true]

@[simp] theorem tab_get?_set_self {α : Type} (t : Tab α) (k : Nat) (v : α) : Tab.get? (Tab.set t k v) k = some v := by
  induction t with
  | nil => simp [Tab.set, Tab.get?]
  | cons e t ih =>
    obtain ⟨a, x⟩ := e
    simp only [Tab.set]
    split
    · simp [Tab.get?]
    · next h =>
      split
      · simp [Tab.get?]
      · next hk => simpa [Tab.get?, Ne.symm hk] using ih

@[simp] theorem tab_getD_adj_self {α : Type} (t : Tab α) (k : Nat) (d : α) (f : α → α) :
    Tab.getD (Tab.adj t k d f) k d = f (Tab.getD t k d) := by
  simp [Tab.getD, Tab.adj]

@[simp] theorem ports_get_adj_self {α : Type} (t : Ports α) (p : LinePort) (f : α → α) :
    (t.adj p f).get p = f (t.get p) := by cases p <;> rfl

theorem ports_get_adj_other {α : Type} (t : Ports α) {p q : LinePort} (f : α → α) (h : q ≠ p) :
    (t.adj p f).get q = t.get q := by
  revert h
  cases p <;> cases q <;> simp [Ports.adj, Ports.set, Ports.get]

@[simp] theorem ports_get_map {α β : Type} (t : Ports α) (f : LinePort → α → β) (p : LinePort) :
    (t.map f).get p = f p (t.get p) := by cases p <;> rfl

/-! ### Memories -/

/-- A string of writes leaves the bytes below it. -/
theorem read_writeN_below {m : Mem} {a c : Nat} (b : Bytes) (hm : Mem.wf m = true) (h : c < a) :
    Mem.read (Mem.writeN m a b) c = Mem.read m c := by
  induction b generalizing m a with
  | nil => rfl
  | cons x t ih =>
    rw [Mem.writeN, ih (Mem.write_wf a x hm) (by omega), Mem.read_write a c x hm, if_neg (by omega)]

theorem readN_succ (m : Mem) (a k : Nat) : Mem.readN m a (k + 1) = Mem.read m a :: Mem.readN m (a + 1) k := by
  simp [Mem.readN, List.range_succ_eq_map, Function.comp_def, Nat.add_assoc, Nat.add_comm 1]

/-- A byte string written is the byte string read. -/
theorem readN_writeN {m : Mem} (a : Nat) (b : Bytes) (hm : Mem.wf m = true) :
    Mem.readN (Mem.writeN m a b) a b.length = b := by
  induction b generalizing m a with
  | nil => rfl
  | cons x t ih =>
    have hw := Mem.write_wf a x hm
    rw [List.length_cons, readN_succ, Mem.writeN, ih (a + 1) hw, read_writeN_below t hw (by omega),
      Mem.read_write a a x hm, if_pos rfl]

/-! ### Words of a register block -/

theorem wordIn_at {base n k : Nat} (hb : base % 4 = 0) (h : k < n) : wordIn base n (base + 4 * k) = some k := by
  rw [wordIn, if_pos (by omega)]
  congr 1
  omega

theorem wordIn_below {base n a : Nat} (h : a < base) : wordIn base n a = none := if_neg (by omega)

theorem wordIn_above {base n a : Nat} (h : base + 4 * n ≤ a) : wordIn base n a = none := if_neg (by omega)

/-- Every status register lies at or above 0x01_0000 (R466). -/
theorem statusReg_ge {a : Nat} {r : StatusReg} (h : statusReg a = some r) : 0x010000 ≤ a := by
  rcases Nat.lt_or_ge a 0x010000 with ha | hge
  case inr => exact hge
  have hb : ∀ base n, 0x010000 ≤ base → wordIn base n a = none := fun base n hbase => wordIn_below (by omega)
  have hs : a ≠ 0x010500 := by omega
  have hw : a ≠ 0x010504 := by omega
  simp [statusReg, hb, hs, hw] at h

theorem statusReg_line (p : LinePort) : statusReg (0x010000 + 4 * portNo p) = some (.line p) := by
  cases p <;> rfl

theorem statusReg_vehicleLink {k : Nat} (h : k < 16) : statusReg (0x010200 + 4 * k) = some (.vehicleLink (k + 1)) := by
  rw [statusReg, wordIn_above (by omega), wordIn_above (by omega), wordIn_above (by omega), wordIn_at rfl h]

theorem statusReg_wake : statusReg 0x010504 = some .wake := rfl

/-- A read of the host port at the address of a status register reads that register. -/
theorem hostRead_status (s : State) {a : Nat} {r : StatusReg} (h : statusReg a = some r) :
    hostRead s a = readStatus s r := by
  have ha := statusReg_ge h
  have hwin : windowWord s a = none := by
    rw [windowWord, wordIn_above (by omega), wordIn_above (by omega)]
  unfold hostRead
  split
  case h_11 => simp only [hwin, h]
  all_goals omega

/-- A write of the host port at a train-line port's status register writes that register. -/
theorem hostWrite_line (s : State) (p : LinePort) (w : Word32) :
    hostWrite s (0x010000 + 4 * portNo p) w = writeStatus s (.line p) w := by
  have hwin : wordIn 0x1000 4100 (0x010000 + 4 * portNo p) = none := wordIn_above (by omega)
  unfold hostWrite
  split
  case h_5 => simp only [hwin, statusReg_line]
  all_goals omega

end Sys2Proof.Proofs
end

section
/-! The host port (R464 to R474): what each access does, and the statement O19. -/

namespace Sys2Proof.Proofs

open Sys2Proof Sys2Proof.Machine

/-! ### Access -/

theorem hostAccess_up {s : State} (act : State → State) (h : hostUp s = true) : hostAccess s act = act s := if_pos h

theorem hostAccess_down {s : State} (act : State → State) (h : hostUp s = false) : hostAccess s act = s := by
  simp [hostAccess, h]

/-- A row of the host port answers what its access leads to while the port is accessible. -/
theorem exec_hostAccess {i : Instr} {s t : State} {act : State → State}
    (he : exec i s = .next (hostAccess s act)) (hup : hostUp s = true) (h : act s = t) : exec i s = .next t := by
  rw [he, hostAccess_up act hup, h]

/-! ### The command window (R469, R470) -/

theorem writeCmdCtrl_noGo {s : State} {w : Word32} (h : w.getLsbD 31 = false) :
    writeCmdCtrl s w = { s with host := { s.host with cmdLength := w.toNat % 65536 } } := by
  simp only [writeCmdCtrl, h, Bool.not_false, if_true]

/-- `GO` on a full window, or before READY, is ignored with `FRAME_ERR`. -/
theorem writeCmdCtrl_refused {s : State} {w : Word32} (hgo : w.getLsbD 31 = true)
    (h : (s.host.cmdFull || !s.host.ready) = true) :
    writeCmdCtrl s w = frameErr { s with host := { s.host with cmdLength := w.toNat % 65536 } } := by
  simp only [writeCmdCtrl, hgo, h, Bool.not_true, Bool.false_eq_true, if_false, if_true]

/-- `GO` on a free window of a ready unit submits the packet. -/
theorem writeCmdCtrl_go {s : State} {w : Word32} (hgo : w.getLsbD 31 = true) (hfree : s.host.cmdFull = false)
    (hready : s.host.ready = true) :
    writeCmdCtrl s w = takeCommand { s with host := { s.host with
      cmdLength := w.toNat % 65536, cmdFull := true, goLength := w.toNat % 65536 } } := by
  simp only [writeCmdCtrl, hgo, hfree, hready, Bool.not_true, Bool.or_false, Bool.false_eq_true, if_false]

theorem takeCommand_free {s : State} (h : s.host.cmdFull = false) : takeCommand s = s := by simp [takeCommand, h]

theorem takeCommand_queueFull {s : State} (h : 8 ≤ s.host.replyQueue.length) : takeCommand s = s :=
  if_neg (fun hc => by omega)

theorem takeCommand_takes {s : State} (hfull : s.host.cmdFull = true) (hq : s.host.replyQueue.length < 8) :
    takeCommand s = raiseInt { acceptBytes s .host 0 false (windowPacket s) with
      host := { (acceptBytes s .host 0 false (windowPacket s)).host with cmdFull := false } } 1 :=
  if_pos ⟨hfull, hq⟩

/-! ### The reply window (R471) -/

theorem releaseReply_empty {s : State} (hfree : s.host.cmdFull = false) (hq : s.host.replyQueue = []) :
    releaseReply s = { s with host := { s.host with
      replyHeld := false, replyLength := 0, intStatus := setBit s.host.intStatus 0 false } } := by
  simp only [releaseReply, hq]
  exact takeCommand_free hfree

theorem releaseReply_next {s : State} {r : Bytes} {rest : List Bytes} (hfree : s.host.cmdFull = false)
    (hq : s.host.replyQueue = r :: rest) :
    releaseReply s = raiseInt { s with host := { s.host with
      replyHeld := true, replyLength := r.length, intStatus := setBit s.host.intStatus 0 false,
      replyQueue := rest, replyWin := Mem.writeN [] 0 r } } 0 := by
  simp only [releaseReply, hq]
  exact takeCommand_free hfree

/-! ### Transactions (R464, R465) -/

theorem hostReads_out (s : State) (a k : Nat) : (hostReads s a k).1.out = s.out := by
  induction k generalizing s a with
  | zero => rfl
  | succ k ih => exact (ih _ _).trans (hostRead_only s a .out (by decide))

theorem hostReads_length (s : State) (a k : Nat) : (hostReads s a k).2.length = k := by
  induction k generalizing s a with
  | zero => rfl
  | succ k ih => exact congrArg Nat.succ (ih _ _)

/-- What a transaction of whole words does. -/
def transaction (command : Word32) (words : List Word32) (s : State) : State :=
  if voidCommand command then frameErr s
  else if command.getLsbD 31 then hostWrites s (command.toNat % 16777216) words
  else emit (hostReads s (command.toNat % 16777216) (words.length - 1)).1
    [Out.host (if words.isEmpty then [] else 0 :: (hostReads s (command.toNat % 16777216) (words.length - 1)).2)]

theorem exec_hostRegisterWrite {s : State} (c : Word32) (words : List Word32) (cut : Bool) (h : hostUp s = true) :
    exec (.hostRegisterWrite c words cut) s =
      .next (if cut then frameErr (transaction c words s) else transaction c words s) :=
  exec_hostAccess rfl h rfl

theorem transaction_void {c : Word32} (words : List Word32) (s : State) (h : voidCommand c = true) :
    transaction c words s = frameErr s := if_pos h

theorem transaction_write {c : Word32} (words : List Word32) (s : State) (h : voidCommand c = false)
    (hw : c.getLsbD 31 = true) : transaction c words s = hostWrites s (c.toNat % 16777216) words := by
  simp [transaction, h, hw]

theorem transaction_read_out {c : Word32} {words : List Word32} (s : State) (h : voidCommand c = false)
    (hr : c.getLsbD 31 = false) (hne : words ≠ []) :
    (transaction c words s).out =
      s.out ++ [Out.host (0 :: (hostReads s (c.toNat % 16777216) (words.length - 1)).2)] := by
  rw [transaction, h, hr, if_neg Bool.false_ne_true, if_neg Bool.false_ne_true, List.isEmpty_eq_false_iff.mpr hne,
    if_neg Bool.false_ne_true, emit, hostReads_out]

/-! ### The port's rows -/

section
variable {s : State}

theorem cmdCtrlWrite_go_taken {w : Word32} (hup : hostUp s = true) (hgo : w.getLsbD 31 = true)
    (hfree : s.host.cmdFull = false) (hready : s.host.ready = true) (hq : s.host.replyQueue.length < 8) {v : State}
    (hv : v = { s with host := { s.host with
      cmdLength := w.toNat % 65536, cmdFull := true, goLength := w.toNat % 65536 } }) :
    Answers (.cmdCtrlWrite w) s (fun t => t.host.cmdFull = false ∧ t.host.intStatus.getLsbD 1 = true ∧
      t.cmd = (acceptBytes v .host 0 false (windowPacket v)).cmd) := by
  have htake : takeCommand v = _ := takeCommand_takes (by rw [hv]) (by rw [hv]; exact hq)
  refine .intro (exec_hostAccess rfl hup (writeCmdCtrl_go hgo hfree hready)) ?_
  rw [← hv, htake]
  exact ⟨rfl, getLsbD_setBit_self _ _ (by decide), rfl⟩

theorem cmdCtrlWrite_go_waits {w : Word32} (hup : hostUp s = true) (hgo : w.getLsbD 31 = true)
    (hfree : s.host.cmdFull = false) (hready : s.host.ready = true) (hq : 8 ≤ s.host.replyQueue.length) :
    exec (.cmdCtrlWrite w) s = .next { s with host := { s.host with
      cmdLength := w.toNat % 65536, cmdFull := true, goLength := w.toNat % 65536 } } :=
  exec_hostAccess rfl hup ((writeCmdCtrl_go hgo hfree hready).trans (takeCommand_queueFull hq))

theorem cmdCtrlWrite_go_refused {w : Word32} (hup : hostUp s = true) (hgo : w.getLsbD 31 = true)
    (h : (s.host.cmdFull || !s.host.ready) = true) :
    exec (.cmdCtrlWrite w) s = .next (frameErr { s with host := { s.host with cmdLength := w.toNat % 65536 } }) :=
  exec_hostAccess rfl hup (writeCmdCtrl_refused hgo h)

theorem replyCtrlWrite_release {w : Word32} (hup : hostUp s = true) (h : w.getLsbD 31 = true) :
    exec (.replyCtrlWrite w) s = .next (releaseReply s) :=
  exec_hostAccess rfl hup (if_pos h)

theorem replyCtrlWrite_empty {w : Word32} (hup : hostUp s = true) (h : w.getLsbD 31 = true)
    (hfree : s.host.cmdFull = false) (hq : s.host.replyQueue = []) :
    Answers (.replyCtrlWrite w) s (fun t => t.host.replyHeld = false ∧ t.host.replyLength = 0 ∧
      t.host.intStatus.getLsbD 0 = false) := by
  refine .intro (replyCtrlWrite_release hup h) ?_
  rw [releaseReply_empty hfree hq]
  exact ⟨rfl, rfl, getLsbD_setBit_self _ _ (by decide)⟩

theorem replyCtrlWrite_next {w : Word32} {r : Bytes} {rest : List Bytes} (hup : hostUp s = true)
    (h : w.getLsbD 31 = true) (hfree : s.host.cmdFull = false) (hq : s.host.replyQueue = r :: rest) :
    Answers (.replyCtrlWrite w) s (fun t => t.host.replyHeld = true ∧ t.host.replyLength = r.length ∧
      Mem.readN t.host.replyWin 0 r.length = r ∧ t.host.replyQueue = rest ∧ t.host.intStatus.getLsbD 0 = true) := by
  refine .intro (replyCtrlWrite_release hup h) ?_
  rw [releaseReply_next hfree hq]
  exact ⟨rfl, rfl, readN_writeN 0 r rfl, rfl, getLsbD_setBit_self _ _ (by decide)⟩

/-- A read of a status register through the port: its effect, and its word on `HOST_MISO`. -/
theorem rcFieldRead_status {a : Nat} {r : StatusReg} (hup : hostUp s = true) (h : statusReg a = some r) :
    exec (.rcFieldRead a) s = .next (emit (readStatus s r).1 [Out.host [BitVec.ofNat 32 (readStatus s r).2]]) :=
  exec_hostAccess rfl hup (by rw [hostReadOut, hostRead_status s h])

theorem rcFieldRead_vehicleLink {v : Nat} (hup : hostUp s = true) (h1 : 1 ≤ v) (h16 : v ≤ 16) :
    Answers (.rcFieldRead (0x010200 + 4 * (v - 1))) s (fun t =>
      (vport t v).link = (vport s v).link &&& 0xFF00FFFF ∧ t.out = s.out ++ [Out.host [vportLink s v]]) := by
  have hreg := statusReg_vehicleLink (k := v - 1) (by omega)
  rw [Nat.sub_add_cancel h1] at hreg
  refine .intro (rcFieldRead_status hup hreg) ⟨?_, ?_⟩
  · simp [readStatus, readVportLink, emit, vport, setVport]
  · simp [readStatus, readVportLink, emit, setVport]

theorem rcFieldRead_wake (hup : hostUp s = true) :
    Answers (.rcFieldRead 0x010504) s (fun t => t.sleep.falseWakes = 0 ∧
      t.out = s.out ++ [Out.host [BitVec.ofNat 32 (wakeStatus s)]]) :=
  .intro (rcFieldRead_status hup statusReg_wake) ⟨rfl, rfl⟩

/-- A write to a train-line port's status clears the W1C bits written 1, on that port alone (R9, R61). -/
theorem writeStatus_line (s : State) (p : LinePort) (w : Word32) :
    ((writeStatus s (.line p) w).line.ports.get p).status = (s.line.ports.get p).status &&& ~~~(w &&& 0xFF) ∧
    (∀ q, q ≠ p → (writeStatus s (.line p) w).line.ports.get q = s.line.ports.get q) := by
  refine ⟨?_, fun q hq => ports_get_adj_other _ _ hq⟩
  simp [writeStatus, clearStatus]

theorem hostRing_writeReadIndex {r : Ring} (w : Word32) (h : hostRing s = some r) :
    hostRing (writeReadIndex s w) = some { r with readIx := w.toNat } := by
  rw [writeReadIndex, h]
  exact tab_get?_set_self ..

/-- The rows of the host port that the statement O19 is about act only while the port is accessible. -/
theorem exec_hostPort_down (h : hostUp s = false) (c : Instr) (w : Word32) (a : Nat) (ws : List Word32) (x : Bool)
    (hc : c ∈ [Instr.cmdCtrlWrite w, .replyCtrlWrite w, .intStatusWrite w, .intMaskWrite w, .trainTimeHiRead, .rcFieldRead a,
      .w1cBitWrite a w, .hostRingReadIndexWrite w, .hostRegisterWrite w ws x]) : exec c s = .next s := by
  have hdown : ∀ {i act}, exec i s = .next (hostAccess s act) → exec i s = .next s :=
    fun he => by rw [he, hostAccess_down _ h]
  simp only [List.mem_cons, List.not_mem_nil, or_false] at hc
  rcases hc with rfl | rfl | rfl | rfl | rfl | rfl | rfl | rfl | rfl <;> exact hdown rfl

end

/-- Settles O19: each row is its access where the port is accessible, and each access has its own lemma above. -/
theorem hostPortRegistersAndWindowsAnswer : Obligations.HostPortRegistersAndWindowsAnswer := by
  unfold Obligations.HostPortRegistersAndWindowsAnswer
  refine ⟨?_, ?_, ?_, ?_, ?_, ?_, ?_, ?_, ?_, ?_, ?_, ?_, ?_⟩
  case refine_1 => exact fun s w hup hgo => exec_hostAccess rfl hup (writeCmdCtrl_noGo hgo)
  case refine_2 =>
    exact fun s w hup hgo hfree hready =>
      ⟨fun hq v hv => cmdCtrlWrite_go_taken hup hgo hfree hready hq hv, cmdCtrlWrite_go_waits hup hgo hfree hready⟩
  case refine_3 => exact fun s w hup hgo hfull => cmdCtrlWrite_go_refused hup hgo (by simp [hfull])
  case refine_4 =>
    intro s w hup hgo hready
    exact .intro (cmdCtrlWrite_go_refused hup hgo (by simp [hready])) ⟨getLsbD_setBit_self _ _ (by decide), rfl, rfl⟩
  case refine_5 =>
    exact fun s w hup h hfree => ⟨replyCtrlWrite_empty hup h hfree, fun r rest => replyCtrlWrite_next hup h hfree⟩
  case refine_6 => exact fun s w hup => ⟨exec_hostAccess rfl hup rfl, exec_hostAccess rfl hup rfl⟩
  case refine_7 => exact fun s hup => exec_hostAccess rfl hup rfl
  case refine_8 => exact fun s v hup => rcFieldRead_vehicleLink hup
  case refine_9 => exact fun s hup => rcFieldRead_wake hup
  case refine_10 =>
    exact fun s p w hup => .intro (exec_hostAccess rfl hup (hostWrite_line s p w)) (writeStatus_line s p w)
  case refine_11 =>
    exact fun s w r hup h => .intro (exec_hostAccess rfl hup rfl) (hostRing_writeReadIndex w h)
  case refine_12 =>
    intro s c words hup
    have hwhole : exec (.hostRegisterWrite c words false) s = .next (transaction c words s) :=
      exec_hostRegisterWrite c words false hup
    refine ⟨fun hv => ?_, fun hv hw => ?_, fun hv hr hne => ?_, fun t ht => ?_⟩
    · rw [hwhole, transaction_void words s hv]
    · rw [hwhole, transaction_write words s hv hw]
    · refine .intro hwhole ⟨_, transaction_read_out s hv hr hne, rfl, ?_⟩
      rw [hostReads_length, Nat.sub_add_cancel (List.length_pos_iff.mpr hne)]
    · obtain rfl := Host.Outcome.next.inj (hwhole.symm.trans ht)
      exact exec_hostRegisterWrite c words true hup
  case refine_13 => exact fun s hdown => exec_hostPort_down hdown

end Sys2Proof.Proofs
end

section
/-! The debugger's requests (R62, R350 to R352, R458, R466, R502): what each opcode's action does, and the statement O28. -/

namespace Sys2Proof.Proofs

open Sys2Proof Sys2Proof.Machine Sys2Proof.Laws

/-! ### Registers (R466) -/

theorem opcodeAddress_line (k : LinePort) : opcodeAddress (0x010000 + 4 * portNo k) = true := by cases k <;> rfl

/-- The register opcodes reach a train-line port's status at its address. -/
theorem readWords_one {s : State} {a : Nat} {r : StatusReg} (h : statusReg a = some r) :
    readWords s a 1 = ((readStatus s r).1, be 4 (readStatus s r).2) := by
  simp only [readWords, h, List.append_nil]

theorem registerRead_line {s v : State} {p : Packet} {k : LinePort} (hv : servedNow s 0x0E01 p v)
    (ha : pkNum p tAddress 0 = 0x010000 + 4 * portNo k) (hn : pkNum p tCount 0 = 1) :
    Replies (.opRegisterRead p) s p stDone (be 4 (setBit (v.line.ports.get k).status 21 (wakeIn v k)).toNat)
      (fun u => u = if wakeOpen v k then tookFree v 1 else v) := by
  refine Replies.intro hv rfl ?_ rfl
  have hk : portNo k ≤ 3 := by cases k <;> decide
  simp only [ha, hn]
  rw [if_neg (by simp [opcodeAddress_line]; omega), readWords_one (statusReg_line k)]
  rfl

theorem registerRead_outside {s v : State} {p : Packet} (hv : servedNow s 0x0E01 p v)
    (h : pkNum p tAddress 0 < 0x010000 ∨ 0x01FFFF < pkNum p tAddress 0 ∨ 64 < pkNum p tCount 0) :
    Replies (.opRegisterRead p) s p stBadParameter [] (fun u => u = v) := by
  refine Replies.intro hv rfl (if_pos ?_) rfl
  simp only [opcodeAddress, Bool.not_eq_true', Bool.and_eq_false_iff, decide_eq_false_iff_not]
  omega

theorem registerWrite_line {s v : State} {p : Packet} {k : LinePort} {w : Word32} (hv : servedNow s 0x0E02 p v)
    (ha : pkNum p tAddress 0 = 0x010000 + 4 * portNo k)
    (hw : w = BitVec.ofNat 32 (field ((pkItem p tValue).getD []) 12 4)) :
    Replies (.opRegisterWrite p) s p stDone [] (fun u =>
      (u.line.ports.get k).status = (v.line.ports.get k).status &&& ~~~(w &&& 0xFF) ∧
      (∀ q, q ≠ k → u.line.ports.get q = v.line.ports.get q)) := by
  refine Replies.intro hv rfl ?_ (writeStatus_line v k w)
  simp only [ha, ← hw, opcodeAddress_line, statusReg_line, Bool.not_true, Bool.false_eq_true, if_false]

/-! ### Counters (R11, R62) -/

theorem groupCounters_none {v : State} {g : Nat} (h : 3 < g) : groupCounters v g = none := by
  unfold groupCounters
  split
  case h_5 => rfl
  all_goals omega

theorem cx320Counters_line {s v : State} {p : Packet} (hv : servedNow s 0x0E03 p v) (hg : pkNum p tPort 0 / 256 = 0) :
    Replies (.opCx320Counters p) s p stDone (allPorts.flatMap (fun k => let q := v.line.ports.get k
      be 4 q.good ++ be 4 q.fcs ++ be 4 q.runts ++ be 4 q.oversize ++ be 4 q.drops ++ zeros 12)) (fun u =>
      ∀ k, u.line.ports.get k =
        { v.line.ports.get k with good := 0, fcs := 0, runts := 0, oversize := 0, drops := 0 }) := by
  refine Replies.intro (u := clearCounters v 0) hv rfl ?_ (fun k => ports_get_map _ _ k)
  simp only [hg]
  rfl

theorem cx320Counters_noGroup {s v : State} {p : Packet} (hv : servedNow s 0x0E03 p v) (hg : 3 < pkNum p tPort 0 / 256) :
    Replies (.opCx320Counters p) s p stBadParameter [] (fun u => u = v) := by
  refine Replies.intro hv rfl ?_ rfl
  simp only [groupCounters_none hg]

/-! ### Split mode (R350, R352) -/

theorem splitEnter_halted {s v : State} {p : Packet} (hv : servedNow s 0x0F01 p v) (h : v.safe.state = .halted) :
    Replies (.opSplitEnter p) s p stNotApplicable [] (fun u => u = v) := by
  refine Replies.intro hv rfl ?_ rfl
  simp [h]

theorem splitEnter_cycleRuns {s v : State} {p : Packet} (hv : servedNow s 0x0F01 p v) (hr : safeRuns v = true)
    (hs : v.safe.state ≠ .split) (hh : v.safe.state ≠ .halted) (hc : v.safe.cycle.isSome = true) :
    Replies (.opSplitEnter p) s p stDone (be 4 (cycAdd v.cyc.n 1))
      (fun u => u.safe = { v.safe with split := some freshSplit }) := by
  refine Replies.intro (u := { v with safe := { v.safe with split := some freshSplit } }) hv rfl ?_ rfl
  simp only [hs, hh, hr, hc, Bool.not_true, Bool.false_eq_true, if_false, if_true]

theorem splitEnter_atOnce {s v : State} {p : Packet} (hv : servedNow s 0x0F01 p v) (hr : safeRuns v = true)
    (hs : v.safe.state ≠ .split) (hh : v.safe.state ≠ .halted) (hc : v.safe.cycle = none) :
    Replies (.opSplitEnter p) s p stDone (be 4 (cycAdd v.cyc.n 1))
      (fun u => u.safe.state = .split ∧ u.safe.applied = 0) := by
  refine Replies.intro (u := noteSafe v (enterSplit v freshSplit)) hv rfl ?_ ⟨rfl, rfl⟩
  simp only [hs, hh, hr, hc, Option.isSome_none, Bool.not_true, Bool.false_eq_true, if_false]

theorem inSplit_in {v : State} {x : SplitSt} (p : Packet) (act : State → SplitSt → State) (hs : v.safe.state = .split)
    (hx : v.safe.split = some x) : inSplit v p act = act v x := by
  simp only [inSplit, hs, hx]

theorem inSplit_out {v : State} (p : Packet) (act : State → SplitSt → State) (hs : v.safe.state ≠ .split) :
    inSplit v p act = reply v p stNotApplicable [] := by
  unfold inSplit
  split
  · next h _ => exact absurd h hs
  · rfl

/-- A debug opcode outside split mode. -/
theorem replies_outside_split {i : Instr} {s v : State} {op : Nat} {p : Packet} {act : State → SplitSt → State}
    (hv : servedNow s op p v) (he : exec i s = .next (serve op p (fun s => inSplit s p act) s))
    (hs : v.safe.state ≠ .split) : Replies i s p stNotApplicable [] (fun u => u = v) :=
  Replies.intro hv he (inSplit_out p act hs) rfl

/-- A debug opcode in split mode. -/
theorem replies_in_split {i : Instr} {s v u : State} {op : Nat} {p : Packet} {act : State → SplitSt → State} {st : Nat}
    {d : Bytes} {P : State → Prop} {x : SplitSt} (hv : servedNow s op p v)
    (he : exec i s = .next (serve op p (fun s => inSplit s p act) s)) (hs : v.safe.state = .split)
    (hx : v.safe.split = some x) (ha : act v x = reply u p st d) (hp : P u) : Replies i s p st d P :=
  Replies.intro hv he ((inSplit_in p act hs hx).trans ha) hp

theorem splitLeave_scratch {s v : State} {p : Packet} {x : SplitSt} (hs : v.safe.state = .split)
    (hx : v.safe.split = some x) (hv : servedNow s 0x0F02 p v) :
    Replies (.opSplitLeave p) s p stDone (be 4 v.cyc.n) (fun u =>
      u.safe.state = .scratch ∧ u.safe.split = none ∧ u.safe.applied = 0) :=
  replies_in_split (u := noteSafe v (startScratch v)) hv rfl hs hx rfl ⟨rfl, rfl, rfl⟩

/-! ### Core A (R350, R502) -/

theorem setSplit_some {s : State} {x : SplitSt} (f : SplitSt → SplitSt) (h : s.safe.split = some x) :
    (setSplit s f).safe.split = some (f x) := congrArg (Option.map f) h

/-- A change of split mode's state that changes nothing of it. -/
theorem setSplit_same {s : State} {x : SplitSt} {f : SplitSt → SplitSt} (hx : s.safe.split = some x) (hf : f x = x) :
    setSplit s f = s := by
  rw [setSplit, hx, Option.map_some, hf, ← hx]

theorem splitCount_some {s : State} {x : SplitSt} (h : s.safe.split = some x) : splitCount s = x.count := by
  rw [splitCount, h, Option.elim_some]

theorem coreNow_halted {s : State} {x : SplitSt} (h : x.halted = true) : coreNow s x = s := if_pos h

/-- Core A's run leaves split mode's state in place, with contents of the program's own (log entry 41). -/
theorem coreRuns_split {s : State} {x : SplitSt} (h : s.safe.split = some x) :
    ∃ y, (coreRuns s).safe.split = some y := ⟨_, congrArg (Option.map _) h⟩

theorem coreNow_split {s : State} {x : SplitSt} (h : s.safe.split = some x) :
    ∃ y, (coreNow s x).safe.split = some y := by
  unfold coreNow
  split
  · exact ⟨x, h⟩
  · exact coreRuns_split h

theorem replyCount_some {u : State} {x : SplitSt} (p : Packet) (h : u.safe.split = some x) :
    replyCount u p = reply u p stDone (be 4 (x.count % 4294967296)) := by rw [replyCount, splitCount_some h]

/-- What a reply's row leaves in the safety complex, the reply leaves too. -/
theorem answers_safe_of_replies {i : Instr} {s : State} {p : Packet} {st : Nat} {d : Bytes} {P : SafeSt → Prop}
    (h : Replies i s p st d (fun u => P u.safe)) : Answers i s (fun t => P t.safe) := by
  obtain ⟨u, he, hp⟩ := h
  have hsafe : (reply u p st d).safe = u.safe := reply_only u p st d .safe (by decide)
  exact Answers.intro he (hsafe ▸ hp)

section
variable {s v : State} {p : Packet} {x : SplitSt} (hs : v.safe.state = .split) (hx : v.safe.split = some x)
include hs hx

theorem coreHalt_halted (hv : servedNow s 0x0F03 p v) (hh : x.halted = true) :
    Replies (.opCoreHalt p) s p stDone (be 4 (x.count % 4294967296)) (fun u => u = v) := by
  refine replies_in_split hv rfl hs hx ?_ rfl
  have hstay : setSplit v (fun y => { y with halted := true }) = v := setSplit_same hx (by rw [← hh])
  rw [coreNow_halted hh, hstay, replyCount_some p hx]

theorem coreHalt_halts (hv : servedNow s 0x0F03 p v) :
    Answers (.opCoreHalt p) s (fun t => t.safe.split.elim false (·.halted) = true) := by
  obtain ⟨y, hy⟩ := coreNow_split hx
  have hset := setSplit_some (fun y => { y with halted := true }) hy
  exact answers_safe_of_replies (P := fun f => f.split.elim false (·.halted) = true)
    (replies_in_split hv rfl hs hx (replyCount_some p hset) (by rw [hset]; rfl))

theorem coreStep_counts (hv : servedNow s 0x0F04 p v) (hh : x.halted = true) (h1 : 1 ≤ pkNum p tCount 0)
    (hn : pkNum p tCount 0 ≤ 65535) :
    Replies (.opCoreStep p) s p stDone (be 4 ((x.count + pkNum p tCount 0) % 4294967296)) (fun u =>
      u.safe.split.elim 0 (·.count) = x.count + pkNum p tCount 0 ∧ u.safe.split.elim false (·.halted) = true) := by
  obtain ⟨y, hy⟩ := coreRuns_split hx
  have hset := setSplit_some (fun y => { y with halted := true, count := x.count + pkNum p tCount 0 }) hy
  refine replies_in_split hv rfl hs hx ?_ (u := setSplit (coreRuns v) _) (by rw [hset]; exact ⟨rfl, rfl⟩)
  dsimp only
  rw [if_neg (by omega), coreNow_halted hh, splitCount_some hx, replyCount_some p hset]

theorem coreRun_releases (hv : servedNow s 0x0F05 p v) (hh : x.halted = true) :
    Replies (.opCoreRun p) s p stDone (be 4 (x.count % 4294967296)) (fun u =>
      u.safe.split = some { x with halted := false }) := by
  have hset := setSplit_some (fun y => { y with halted := false }) hx
  refine replies_in_split hv rfl hs hx ?_ hset
  rw [coreNow_halted hh, replyCount_some p hset]

end

/-! ### Core A's words (R502) -/

theorem coreRange_one (a : Nat) : coreRange a 1 = coreAddress a := by simp [coreRange]

theorem readCoreWords_one {s : State} {a : Nat} {w : Word32} (h : coreWord (coreA s) a = some w) :
    readCoreWords s a 1 = (s, be 4 w.toNat) := by
  simp only [readCoreWords, readCoreWord, h, List.append_nil]

/-- A control register of core A reads what was written to it. -/
theorem coreWord_putCoreWord {c : CoreSt} {a : Nat} (w : Word32) (h : 0x110000 ≤ a) :
    coreWord (putCoreWord c a w) a = some w := by
  simp [coreWord, putCoreWord, h]

theorem coreA_setCoreA {s : State} (c : CoreSt) (h : s.safe.cores ≠ []) : coreA (setCoreA s c) = c := by
  simp [coreA, setCoreA, List.getD_eq_getElem?_getD, List.length_pos_iff.mpr h]

section
variable {s v : State} {p : Packet} {x : SplitSt} (hs : v.safe.state = .split) (hx : v.safe.split = some x)
include hs hx

theorem coreRead_word {w : Word32} (hv : servedNow s 0x0F06 p v) (hh : x.halted = true)
    (ha : coreAddress (pkNum p tAddress 0) = true) (hn : pkNum p tCount 0 = 1)
    (hw : coreWord (coreA v) (pkNum p tAddress 0) = some w) :
    Replies (.opCoreRead p) s p stDone (be 4 w.toNat) (fun u => u = v) := by
  refine replies_in_split hv rfl hs hx ?_ rfl
  simp only [hn]
  rw [if_neg (by simp [coreRange_one, ha]), coreNow_halted hh, readCoreWords_one hw]

theorem coreWrite_word {b : Bytes} (hv : servedNow s 0x0F07 p v) (hh : x.halted = true) (hc : v.safe.cores ≠ [])
    (hb : pkItem p tData = some b) (hl : b.length = 4) (ha : coreAddress (pkNum p tAddress 0) = true)
    (hctrl : 0x110000 ≤ pkNum p tAddress 0) :
    Replies (.opCoreWrite p) s p stDone [] (fun u =>
      coreWord (coreA u) (pkNum p tAddress 0) = some (BitVec.ofNat 32 (field b 0 4))) := by
  have hne : b.isEmpty = false := List.isEmpty_eq_false_iff.mpr (by rintro rfl; cases hl)
  refine replies_in_split (u := writeCoreWords v (pkNum p tAddress 0) [BitVec.ofNat 32 (field b 0 4)]) hv rfl hs hx ?_ ?_
  · simp only [hb, Option.getD_some, hl]
    rw [if_neg (by simp [hne, coreRange_one, ha]), coreNow_halted hh]
    rfl
  · have hcore : coreA (writeCoreWords v (pkNum p tAddress 0) [BitVec.ofNat 32 (field b 0 4)]) =
        putCoreWord (coreA v) (pkNum p tAddress 0) (BitVec.ofNat 32 (field b 0 4)) := coreA_setCoreA _ hc
    rw [hcore, coreWord_putCoreWord _ hctrl]

theorem replay_retry {tag : Nat} (hv : servedNow s 0x0F08 p v) (hn : pkNum p tCount 0 ≤ 1) (ht : newTag v = some tag) :
    Replies (.opReplay p) s p stRetry (be 2 tag) (fun u =>
      ∃ y, u.bridge.tags = v.bridge.tags ++ [y] ∧ y.tag = tag ∧ y.kind = .replay ∧ y.state = .waiting) := by
  refine replies_in_split hv rfl hs hx ?_
    (u := holdTag v (blankTag tag (initiatorOf v p.sess) .replay .waiting (v.clk + bridgeTimeout v)))
    ⟨_, rfl, rfl, rfl, rfl⟩
  simp only [ht, if_neg (Nat.not_lt.mpr hn)]

end

/-- Outside split mode leaving it and each core opcode is refused (R458). -/
theorem debug_outside_split {s v : State} {p : Packet} {c : Instr} {op : Nat} (hs : v.safe.state ≠ .split)
    (hc : (c, op) ∈ [(Instr.opSplitLeave p, 0x0F02), (.opCoreHalt p, 0x0F03), (.opCoreStep p, 0x0F04),
      (.opCoreRun p, 0x0F05), (.opCoreRead p, 0x0F06), (.opCoreWrite p, 0x0F07), (.opReplay p, 0x0F08)])
    (hv : servedNow s op p v) : Replies c s p stNotApplicable [] (fun u => u = v) := by
  simp only [List.mem_cons, List.not_mem_nil, or_false, Prod.mk.injEq] at hc
  rcases hc with ⟨rfl, rfl⟩ | ⟨rfl, rfl⟩ | ⟨rfl, rfl⟩ | ⟨rfl, rfl⟩ | ⟨rfl, rfl⟩ | ⟨rfl, rfl⟩ | ⟨rfl, rfl⟩ <;>
    exact replies_outside_split hv rfl hs

/-- Settles O28: each opcode's reply and the state behind it, from the lemma above that bears its name. -/
theorem debugRequestsAreServed : Obligations.DebugRequestsAreServed := by
  unfold Obligations.DebugRequestsAreServed
  refine ⟨?_, ?_, ?_, ?_, ?_, ?_, ?_, ?_⟩
  case refine_1 => exact fun s v p k hv => registerRead_line hv
  case refine_2 => exact fun s v p hv => registerRead_outside hv
  case refine_3 => exact fun s v p k w hv => registerWrite_line hv
  case refine_4 => exact fun s v p hv => cx320Counters_line hv
  case refine_5 => exact fun s v p hv => cx320Counters_noGroup hv
  case refine_6 => exact fun s v p hv => ⟨splitEnter_cycleRuns hv, splitEnter_atOnce hv, splitEnter_halted hv⟩
  case refine_7 =>
    exact fun s v p x hs hx =>
      ⟨splitLeave_scratch hs hx, coreHalt_halted hs hx, fun hv _ => coreHalt_halts hs hx hv, coreStep_counts hs hx,
        coreRun_releases hs hx, fun w => coreRead_word hs hx, fun b => coreWrite_word hs hx, fun tag => replay_retry hs hx⟩
  case refine_8 => exact fun s v p c op hs hc hv => debug_outside_split hs hc hv

end Sys2Proof.Proofs
end

section
/-! Completion and frame of every command (R28, R36, R446, R455), and the statement O48. -/

namespace Sys2Proof.Proofs

open Sys2Proof Sys2Proof.Machine

/-- The command answers a next state, which differs in the parts that the command writes at most. -/
def CompletesWithin (i : Instr) (s : State) : Prop := ∃ t, exec i s = .next t ∧ Only (writes i) s t

/-- A command's meaning whose frame lists only parts that `writes` grants the command. -/
theorem CompletesWithin.intro {i : Instr} {s t : State} {w : List Part} (he : exec i s = .next t) (ho : Only w s t)
    (hw : w.all (fun p => (writes i).contains p) = true) : CompletesWithin i s :=
  ⟨t, he, ho.mono (by simpa using hw)⟩

theorem fixed_not_mem_writes (i : Instr) {p : Part} (hp : p ∈ [Part.pending, .clk, .unitId, .hwIssue]) : p ∉ writes i := by
  have hdisjoint : ∀ q ∈ [Part.pending, .clk, .unitId, .hwIssue], q ∉ writes i := by
    unfold writes
    split <;> decide
  exact hdisjoint p hp

/-- A disagreement completes whether or not the input names the cab (R363). -/
theorem inputComparatorDisagree_next (input : Nat) (s : State) : ∃ t, execInputComparatorDisagree input s = .next t := by
  unfold execInputComparatorDisagree
  split
  · exact ⟨s, rfl⟩
  · dsimp only
    split <;> exact ⟨_, rfl⟩

/-- Each command's meaning completes and keeps to its own frame; one case for each command. -/
theorem exec_completesWithin (i : Instr) (s : State) : CompletesWithin i s := by
  cases i with
  | powerOnReset upos alarmLost => exact .intro rfl (execPowerOnReset_only upos alarmLost s _ rfl) rfl
  | bankCheckComplete => exact .intro rfl (execBankCheckComplete_only s _ rfl) rfl
  | islandReady => exact .intro rfl (execIslandReady_only s _ rfl) rfl
  | lineBRelayOpen peerLineAUp => exact .intro rfl (execLineBRelayOpen_only peerLineAUp s _ rfl) rfl
  | ready => exact .intro rfl (execReady_only s _ rfl) rfl
  | scratchTestComplete failBits => exact .intro rfl (execScratchTestComplete_only failBits s _ rfl) rfl
  | resetNAsserted => exact .intro rfl (execResetNAsserted_only s _ rfl) rfl
  | resetNReleased => exact .intro rfl (execResetNReleased_only s _ rfl) rfl
  | managementWatchdogExpiry => exact .intro rfl (execManagementWatchdogExpiry_only s _ rfl) rfl
  | internalSupplyFail => exact .intro rfl (execInternalSupplyFail_only s _ rfl) rfl
  | powerFailWarning supply => exact .intro rfl (execPowerFailWarning_only supply s _ rfl) rfl
  | powerRestored => exact .intro rfl (execPowerRestored_only s _ rfl) rfl
  | holdBusLow => exact .intro rfl (execHoldBusLow_only s _ rfl) rfl
  | safeOffReclose => exact .intro rfl (execSafeOffReclose_only s _ rfl) rfl
  | converterOvervoltageStop => exact .intro rfl (execConverterOvervoltageStop_only s _ rfl) rfl
  | converterOvertempStop => exact .intro rfl (execConverterOvertempStop_only s _ rfl) rfl
  | converterRestart upos alarmLost => exact .intro rfl (execConverterRestart_only upos alarmLost s _ rfl) rfl
  | supplyWarnSet => exact .intro rfl (execSupplyWarnSet_only s _ rfl) rfl
  | supplyWarnClear => exact .intro rfl (execSupplyWarnClear_only s _ rfl) rfl
  | tempWarnChange temp => exact .intro rfl (execTempWarnChange_only temp s _ rfl) rfl
  | outputFeedLow feed => exact .intro rfl (execOutputFeedLow_only feed s _ rfl) rfl
  | outputFeedRecovered feed => exact .intro rfl (execOutputFeedRecovered_only feed s _ rfl) rfl
  | currentLimitExpiry output => exact .intro rfl (execCurrentLimitExpiry_only output s _ rfl) rfl
  | trainLineLinkUp p linked rate25 xr master => exact .intro rfl (execTrainLineLinkUp_only p linked rate25 xr master s _ rfl) rfl
  | trainLineLinkDown p => exact .intro rfl (execTrainLineLinkDown_only p s _ rfl) rfl
  | portUnassignedLink p => exact .intro rfl (execPortUnassignedLink_only p s _ rfl) rfl
  | frameHeaderReceived p hdr arrival => exact .intro rfl (execFrameHeaderReceived_only p hdr arrival s _ rfl) rfl
  | frameReceived p bytes arrival => exact .intro rfl (execFrameReceived_only p bytes arrival s _ rfl) rfl
  | slotClose p => exact .intro rfl (execSlotClose_only p s _ rfl) rfl
  | duplicateKeyExpiry => exact .intro rfl (execDuplicateKeyExpiry_only s _ rfl) rfl
  | relayedCopyReceived f => exact .intro rfl (execRelayedCopyReceived_only f s _ rfl) rfl
  | sampleInstant inp => exact .intro rfl (execSampleInstant_only inp s _ rfl) rfl
  | outputInstant n => exact .intro rfl (execOutputInstant_only n s _ rfl) rfl
  | cycleStartSend => exact .intro rfl (execCycleStartSend_only s _ rfl) rfl
  | cycleStartDelivered p f arrival => exact .intro rfl (execCycleStartDelivered_only p f arrival s _ rfl) rfl
  | cycleStartMissing => exact .intro rfl (execCycleStartMissing_only s _ rfl) rfl
  | holdoverEntry => exact .intro rfl (execHoldoverEntry_only s _ rfl) rfl
  | coastingEntry => exact .intro rfl (execCoastingEntry_only s _ rfl) rfl
  | scheduleFetchComplete image => exact .intro rfl (execScheduleFetchComplete_only image s _ rfl) rfl
  | scheduleTableActivation => exact .intro rfl (execScheduleTableActivation_only s _ rfl) rfl
  | joinComplete => exact .intro rfl (execJoinComplete_only s _ rfl) rfl
  | segmentPhaseOpen p => exact .intro rfl (execSegmentPhaseOpen_only p s _ rfl) rfl
  | publicationSlotStart => exact .intro rfl (execPublicationSlotStart_only s _ rfl) rfl
  | messageWindowStart => exact .intro rfl (execMessageWindowStart_only s _ rfl) rfl
  | pollDelivered p f arrival => exact .intro rfl (execPollDelivered_only p f arrival s _ rfl) rfl
  | pollReplySend => exact .intro rfl (execPollReplySend_only s _ rfl) rfl
  | supervisionSlotStart => exact .intro rfl (execSupervisionSlotStart_only s _ rfl) rfl
  | supervisionDelivered p f => exact .intro rfl (execSupervisionDelivered_only p f s _ rfl) rfl
  | leadCycleWorkDone instant => exact .intro rfl (execLeadCycleWorkDone_only instant s _ rfl) rfl
  | sourceFenced p src => exact .intro rfl (execSourceFenced_only p src s _ rfl) rfl
  | fenceLifted p src => exact .intro rfl (execFenceLifted_only p src s _ rfl) rfl
  | publicationDelivered p f => exact .intro rfl (execPublicationDelivered_only p f s _ rfl) rfl
  | nullDelivered p f => exact .intro rfl (execNullDelivered_only p f s _ rfl) rfl
  | probeDelivered p f => exact .intro rfl (execProbeDelivered_only p f s _ rfl) rfl
  | claimDelivered p f => exact .intro rfl (execClaimDelivered_only p f s _ rfl) rfl
  | censusRequestDelivered p f => exact .intro rfl (execCensusRequestDelivered_only p f s _ rfl) rfl
  | censusReplyDelivered p f arrival => exact .intro rfl (execCensusReplyDelivered_only p f arrival s _ rfl) rfl
  | numberingDelivered p f => exact .intro rfl (execNumberingDelivered_only p f s _ rfl) rfl
  | commitDelivered p f => exact .intro rfl (execCommitDelivered_only p f s _ rfl) rfl
  | commitAckDelivered p f => exact .intro rfl (execCommitAckDelivered_only p f s _ rfl) rfl
  | joinReportDelivered p f => exact .intro rfl (execJoinReportDelivered_only p f s _ rfl) rfl
  | mergeClaimDelivered p f => exact .intro rfl (execMergeClaimDelivered_only p f s _ rfl) rfl
  | delayRequestDelivered p f t2 t3 => exact .intro rfl (execDelayRequestDelivered_only p f t2 t3 s _ rfl) rfl
  | delayResponseDelivered p f t4 => exact .intro rfl (execDelayResponseDelivered_only p f t4 s _ rfl) rfl
  | delayResponseTimeout p => exact .intro rfl (execDelayResponseTimeout_only p s _ rfl) rfl
  | messageFrameDelivered p f => exact .intro rfl (execMessageFrameDelivered_only p f s _ rfl) rfl
  | postedWriteMessage f => exact .intro rfl (execPostedWriteMessage_only f s _ rfl) rfl
  | readRequestMessage f => exact .intro rfl (execReadRequestMessage_only f s _ rfl) rfl
  | readResponseMessage f => exact .intro rfl (execReadResponseMessage_only f s _ rfl) rfl
  | farErrorMessage f => exact .intro rfl (execFarErrorMessage_only f s _ rfl) rfl
  | announcementMessage f => exact .intro rfl (execAnnouncementMessage_only f s _ rfl) rfl
  | semaphoreMessage f => exact .intro rfl (execSemaphoreMessage_only f s _ rfl) rfl
  | remoteCommandMessage f => exact .intro rfl (execRemoteCommandMessage_only f s _ rfl) rfl
  | commandReplyMessage f => exact .intro rfl (execCommandReplyMessage_only f s _ rfl) rfl
  | mirrorFallbackMessage f => exact .intro rfl (execMirrorFallbackMessage_only f s _ rfl) rfl
  | remotePacketIncomplete chan tag => exact .intro rfl (execRemotePacketIncomplete_only chan tag s _ rfl) rfl
  | settleEnd peer => exact .intro rfl (execSettleEnd_only peer s _ rfl) rfl
  | probeTimer => exact .intro rfl (execProbeTimer_only s _ rfl) rfl
  | claimRepeat => exact .intro rfl (execClaimRepeat_only s _ rfl) rfl
  | claimWindowEnd => exact .intro rfl (execClaimWindowEnd_only s _ rfl) rfl
  | censusReplySend => exact .intro rfl (execCensusReplySend_only s _ rfl) rfl
  | censusRunClose => exact .intro rfl (execCensusRunClose_only s _ rfl) rfl
  | censusRunStart => exact .intro rfl (execCensusRunStart_only s _ rfl) rfl
  | waitingTimeout => exact .intro rfl (execWaitingTimeout_only s _ rfl) rfl
  | commitAckSend => exact .intro rfl (execCommitAckSend_only s _ rfl) rfl
  | commitAckTimeout => exact .intro rfl (execCommitAckTimeout_only s _ rfl) rfl
  | commitCycleAdoption => exact .intro rfl (execCommitCycleAdoption_only s _ rfl) rfl
  | lineBRetrain => exact .intro rfl (execLineBRetrain_only s _ rfl) rfl
  | setoutNoAck => exact .intro rfl (execSetoutNoAck_only s _ rfl) rfl
  | leaseLapse peer => exact .intro rfl (execLeaseLapse_only peer s _ rfl) rfl
  | absorbingTimeout peer => exact .intro rfl (execAbsorbingTimeout_only peer s _ rfl) rfl
  | vehicleAbsent pos => exact .intro rfl (execVehicleAbsent_only pos s _ rfl) rfl
  | cabActiveChange active => exact .intro rfl (execCabActiveChange_only active s _ rfl) rfl
  | boundaryLinkUp p claim numbering => exact .intro rfl (execBoundaryLinkUp_only p claim numbering s _ rfl) rfl
  | boundaryOpen => exact .intro rfl (execBoundaryOpen_only s _ rfl) rfl
  | eventTrainTimeFire index => exact .intro rfl (execEventTrainTimeFire_only index s _ rfl) rfl
  | positionInvalid => exact .intro rfl (execPositionInvalid_only s _ rfl) rfl
  | ptpSyncSend vport => exact .intro rfl (execPtpSyncSend_only vport s _ rfl) rfl
  | ptpAnnounceSend vport => exact .intro rfl (execPtpAnnounceSend_only vport s _ rfl) rfl
  | ptpDelayReqReceived vport seq requester arrival => exact .intro rfl (execPtpDelayReqReceived_only vport seq requester arrival s _ rfl) rfl
  | ptpAnnounceReceived vport => exact .intro rfl (execPtpAnnounceReceived_only vport s _ rfl) rfl
  | rtcSet => exact .intro rfl (execRtcSet_only s _ rfl) rfl
  | skimCommit => exact .intro rfl (execSkimCommit_only s _ rfl) rfl
  | fedCommitTimeout => exact .intro rfl (execFedCommitTimeout_only s _ rfl) rfl
  | skimReadHeldAnswer => exact .intro rfl (execSkimReadHeldAnswer_only s _ rfl) rfl
  | skimReadTimeout => exact .intro rfl (execSkimReadTimeout_only s _ rfl) rfl
  | pinLeaseExpiry handle => exact .intro rfl (execPinLeaseExpiry_only handle s _ rfl) rfl
  | snapshotCopyComplete => exact .intro rfl (execSnapshotCopyComplete_only s _ rfl) rfl
  | routeTableActivation => exact .intro rfl (execRouteTableActivation_only s _ rfl) rfl
  | resultHoldExpiry tag => exact .intro rfl (execResultHoldExpiry_only tag s _ rfl) rfl
  | bridgeTimeoutExpiry tag => exact .intro rfl (execBridgeTimeoutExpiry_only tag s _ rfl) rfl
  | bridgeMarkSend slot => exact .intro rfl (execBridgeMarkSend_only slot s _ rfl) rfl
  | senderRecordExpiry slot seq => exact .intro rfl (execSenderRecordExpiry_only slot seq s _ rfl) rfl
  | readAheadExpiry route => exact .intro rfl (execReadAheadExpiry_only route s _ rfl) rfl
  | announcementRelease => exact .intro rfl (execAnnouncementRelease_only s _ rfl) rfl
  | semaphoreLeaseExpiry sem => exact .intro rfl (execSemaphoreLeaseExpiry_only sem s _ rfl) rfl
  | semaphoreWaitExpiry tag => exact .intro rfl (execSemaphoreWaitExpiry_only tag s _ rfl) rfl
  | farBusLockTaken port => exact .intro rfl (execFarBusLockTaken_only port s _ rfl) rfl
  | farBusLockExpiry port => exact .intro rfl (execFarBusLockExpiry_only port s _ rfl) rfl
  | lockWaitExpiry tag => exact .intro rfl (execLockWaitExpiry_only tag s _ rfl) rfl
  | farTransactionComplete key answer => exact .intro rfl (execFarTransactionComplete_only key answer s _ rfl) rfl
  | vportLinkUp v speed fullDuplex mdix master => exact .intro rfl (execVportLinkUp_only v speed fullDuplex mdix master s _ rfl) rfl
  | vportLinkDown v => exact .intro rfl (execVportLinkDown_only v s _ rfl) rfl
  | vehicleFrameReceived v bytes bad => exact .intro rfl (execVehicleFrameReceived_only v bytes bad s _ rfl) rfl
  | macEntryAgeing vlan mac => exact .intro rfl (execMacEntryAgeing_only vlan mac s _ rfl) rfl
  | gateEntryBoundary v => exact .intro rfl (execGateEntryBoundary_only v s _ rfl) rfl
  | gateListActivation v => exact .intro rfl (execGateListActivation_only v s _ rfl) rfl
  | arpRequestReceived iface senderIp senderMac targetIp => exact .intro rfl (execArpRequestReceived_only iface senderIp senderMac targetIp s _ rfl) rfl
  | arpReplyReceived iface senderIp senderMac => exact .intro rfl (execArpReplyReceived_only iface senderIp senderMac s _ rfl) rfl
  | arpRetryTimer iface ip => exact .intro rfl (execArpRetryTimer_only iface ip s _ rfl) rfl
  | arpEntryAgeing iface ip => exact .intro rfl (execArpEntryAgeing_only iface ip s _ rfl) rfl
  | gratuitousArpRepeat iface => exact .intro rfl (execGratuitousArpRepeat_only iface s _ rfl) rfl
  | ipDatagramReceived iface d => exact .intro rfl (execIpDatagramReceived_only iface d s _ rfl) rfl
  | trdpPublish index => exact .intro rfl (execTrdpPublish_only index s _ rfl) rfl
  | trdpPrReceived t => exact .intro rfl (execTrdpPrReceived_only t s _ rfl) rfl
  | trdpPdReceived t => exact .intro rfl (execTrdpPdReceived_only t s _ rfl) rfl
  | trdpMrReceived t => exact .intro rfl (execTrdpMrReceived_only t s _ rfl) rfl
  | trdpMnReceived t => exact .intro rfl (execTrdpMnReceived_only t s _ rfl) rfl
  | trdpReplyReceived t => exact .intro rfl (execTrdpReplyReceived_only t s _ rfl) rfl
  | trdpReplyTimeout session => exact .intro rfl (execTrdpReplyTimeout_only session s _ rfl) rfl
  | channelCyclicRequest ch => exact .intro rfl (execChannelCyclicRequest_only ch s _ rfl) rfl
  | channelResponseReceived ch r => exact .intro rfl (execChannelResponseReceived_only ch r s _ rfl) rfl
  | channelReplyTimeout ch => exact .intro rfl (execChannelReplyTimeout_only ch s _ rfl) rfl
  | channelOnDemandSend ch => exact .intro rfl (execChannelOnDemandSend_only ch s _ rfl) rfl
  | channelFaultedPoll ch => exact .intro rfl (execChannelFaultedPoll_only ch s _ rfl) rfl
  | channelResolved ch => exact .intro rfl (execChannelResolved_only ch s _ rfl) rfl
  | ringDescriptorReturn chan count => exact .intro rfl (execRingDescriptorReturn_only chan count s _ rfl) rfl
  | stagingTimeout => exact .intro rfl (execStagingTimeout_only s _ rfl) rfl
  | mvbBasicPeriod port => exact .intro rfl (execMvbBasicPeriod_only port s _ rfl) rfl
  | mvbMasterFrameReceived port fcode addr checkOk => exact .intro rfl (execMvbMasterFrameReceived_only port fcode addr checkOk s _ rfl) rfl
  | mvbSlaveFrameReceived port m => exact .intro rfl (execMvbSlaveFrameReceived_only port m s _ rfl) rfl
  | serialBusCycleStart port => exact .intro rfl (execSerialBusCycleStart_only port s _ rfl) rfl
  | serialTransactionHanded port => exact .intro rfl (execSerialTransactionHanded_only port s _ rfl) rfl
  | canPortStart c => exact .intro rfl (execCanPortStart_only c s _ rfl) rfl
  | canFrameReceived c m => exact .intro rfl (execCanFrameReceived_only c m s _ rfl) rfl
  | pdoReceived c cobId data => exact .intro rfl (execPdoReceived_only c cobId data s _ rfl) rfl
  | heartbeatReceived c node state => exact .intro rfl (execHeartbeatReceived_only c node state s _ rfl) rfl
  | heartbeatTimeout c node => exact .intro rfl (execHeartbeatTimeout_only c node s _ rfl) rfl
  | bootWaitExpiry c node => exact .intro rfl (execBootWaitExpiry_only c node s _ rfl) rfl
  | sdoResponseReceived c node data => exact .intro rfl (execSdoResponseReceived_only c node data s _ rfl) rfl
  | sdoTimeout c node => exact .intro rfl (execSdoTimeout_only c node s _ rfl) rfl
  | emcyReceived c node data => exact .intro rfl (execEmcyReceived_only c node data s _ rfl) rfl
  | syncProduce c => exact .intro rfl (execSyncProduce_only c s _ rfl) rfl
  | heartbeatProduce c => exact .intro rfl (execHeartbeatProduce_only c s _ rfl) rfl
  | canBusOff c => exact .intro rfl (execCanBusOff_only c s _ rfl) rfl
  | busOffRecovery c => exact .intro rfl (execBusOffRecovery_only c s _ rfl) rfl
  | fNop k => exact .intro rfl (execFNop_only k s _ rfl) rfl
  | fLdi k => exact .intro rfl (execFLdi_only k s _ rfl) rfl
  | fLdh k => exact .intro rfl (execFLdh_only k s _ rfl) rfl
  | fMov k => exact .intro rfl (execFMov_only k s _ rfl) rfl
  | fAdd k => exact .intro rfl (execFAdd_only k s _ rfl) rfl
  | fAddi k => exact .intro rfl (execFAddi_only k s _ rfl) rfl
  | fSub k => exact .intro rfl (execFSub_only k s _ rfl) rfl
  | fAnd k => exact .intro rfl (execFAnd_only k s _ rfl) rfl
  | fOr k => exact .intro rfl (execFOr_only k s _ rfl) rfl
  | fXor k => exact .intro rfl (execFXor_only k s _ rfl) rfl
  | fShl k => exact .intro rfl (execFShl_only k s _ rfl) rfl
  | fShr k => exact .intro rfl (execFShr_only k s _ rfl) rfl
  | fLd k => exact .intro rfl (execFLd_only k s _ rfl) rfl
  | fSt k => exact .intro rfl (execFSt_only k s _ rfl) rfl
  | fLdb k => exact .intro rfl (execFLdb_only k s _ rfl) rfl
  | fStb k => exact .intro rfl (execFStb_only k s _ rfl) rfl
  | fCmp k => exact .intro rfl (execFCmp_only k s _ rfl) rfl
  | fCmpi k => exact .intro rfl (execFCmpi_only k s _ rfl) rfl
  | fTmr k => exact .intro rfl (execFTmr_only k s _ rfl) rfl
  | fTta k => exact .intro rfl (execFTta_only k s _ rfl) rfl
  | fPta k => exact .intro rfl (execFPta_only k s _ rfl) rfl
  | fWait k => exact .intro rfl (execFWait_only k s _ rfl) rfl
  | fIn k => exact .intro rfl (execFIn_only k s _ rfl) rfl
  | fOut k => exact .intro rfl (execFOut_only k s _ rfl) rfl
  | fTget k => exact .intro rfl (execFTget_only k s _ rfl) rfl
  | fTput k => exact .intro rfl (execFTput_only k s _ rfl) rfl
  | fTend k => exact .intro rfl (execFTend_only k s _ rfl) rfl
  | fCrc k => exact .intro rfl (execFCrc_only k s _ rfl) rfl
  | fFault k => exact .intro rfl (execFFault_only k s _ rfl) rfl
  | fTime k => exact .intro rfl (execFTime_only k s _ rfl) rfl
  | fBr k => exact .intro rfl (execFBr_only k s _ rfl) rfl
  | fLoop k => exact .intro rfl (execFLoop_only k s _ rfl) rfl
  | floatRestart k => exact .intro rfl (execFloatRestart_only k s _ rfl) rfl
  | floatTimerExpiry k => exact .intro rfl (execFloatTimerExpiry_only k s _ rfl) rfl
  | lineSilence port => exact .intro rfl (execLineSilence_only port s _ rfl) rfl
  | serialByteReceived port byte parityErr framingErr => exact .intro rfl (execSerialByteReceived_only port byte parityErr framingErr s _ rfl) rfl
  | transmitDrained port => exact .intro rfl (execTransmitDrained_only port s _ rfl) rfl
  | trainTimeTargetReached k => exact .intro rfl (execTrainTimeTargetReached_only k s _ rfl) rfl
  | programTakeForce target => exact .intro rfl (execProgramTakeForce_only target s _ rfl) rfl
  | minorityDetected core lane clock parity => exact .intro rfl (execMinorityDetected_only core lane clock parity s _ rfl) rfl
  | noMajority lane clock parity => exact .intro rfl (execNoMajority_only lane clock parity s _ rfl) rfl
  | comparatorFault lane clock => exact .intro rfl (execComparatorFault_only lane clock s _ rfl) rfl
  | checkpointWriteComplete => exact .intro rfl (execCheckpointWriteComplete_only s _ rfl) rfl
  | resyncComplete selfCheckOk => exact .intro rfl (execResyncComplete_only selfCheckOk s _ rfl) rfl
  | restartComplete => exact .intro rfl (execRestartComplete_only s _ rfl) rfl
  | tcmScrub core addr outcome => exact .intro rfl (execTcmScrub_only core addr outcome s _ rfl) rfl
  | replayComplete mismatch count lane => exact .intro rfl (execReplayComplete_only mismatch count lane s _ rfl) rfl
  | inputComparatorDisagree input =>
    obtain ⟨t, he⟩ := inputComparatorDisagree_next input s
    exact .intro he (execInputComparatorDisagree_only input s t he) rfl
  | inputFaultClear input => exact .intro rfl (execInputFaultClear_only input s _ rfl) rfl
  | outputPulseTest output readsOff => exact .intro rfl (execOutputPulseTest_only output readsOff s _ rfl) rfl
  | controlRecordReceived unit unitId cycle content => exact .intro rfl (execControlRecordReceived_only unit unitId cycle content s _ rfl) rfl
  | commitMarkReceived content => exact .intro rfl (execCommitMarkReceived_only content s _ rfl) rfl
  | safetyStateRecord skim part parts content => exact .intro rfl (execSafetyStateRecord_only skim part parts content s _ rfl) rfl
  | outputImageRecord skim part parts content => exact .intro rfl (execOutputImageRecord_only skim part parts content s _ rfl) rfl
  | writesAndForcesRecord skim part parts content => exact .intro rfl (execWritesAndForcesRecord_only skim part parts content s _ rfl) rfl
  | portTrafficRecord fromUnit skim part parts content => exact .intro rfl (execPortTrafficRecord_only fromUnit skim part parts content s _ rfl) rfl
  | peerSegmentDown seg => exact .intro rfl (execPeerSegmentDown_only seg s _ rfl) rfl
  | interlockReadingChange ilkIn ownLoop => exact .intro rfl (execInterlockReadingChange_only ilkIn ownLoop s _ rfl) rfl
  | interlockSettle => exact .intro rfl (execInterlockSettle_only s _ rfl) rfl
  | ilkFaultSet => exact .intro rfl (execIlkFaultSet_only s _ rfl) rfl
  | ilkFaultClear => exact .intro rfl (execIlkFaultClear_only s _ rfl) rfl
  | roleWatchdogExpiry => exact .intro rfl (execRoleWatchdogExpiry_only s _ rfl) rfl
  | roleTakeover => exact .intro rfl (execRoleTakeover_only s _ rfl) rfl
  | handoverSwitch => exact .intro rfl (execHandoverSwitch_only s _ rfl) rfl
  | switchback => exact .intro rfl (execSwitchback_only s _ rfl) rfl
  | grantExpiry => exact .intro rfl (execGrantExpiry_only s _ rfl) rfl
  | hawkFence => exact .intro rfl (execHawkFence_only s _ rfl) rfl
  | hawkClaim => exact .intro rfl (execHawkClaim_only s _ rfl) rfl
  | hawkTake => exact .intro rfl (execHawkTake_only s _ rfl) rfl
  | hawkRelease => exact .intro rfl (execHawkRelease_only s _ rfl) rfl
  | coldTakeoverEnd => exact .intro rfl (execColdTakeoverEnd_only s _ rfl) rfl
  | gapRepeatEnd => exact .intro rfl (execGapRepeatEnd_only s _ rfl) rfl
  | wakePulseQualified p => exact .intro rfl (execWakePulseQualified_only p s _ rfl) rfl
  | wakePulseEnd => exact .intro rfl (execWakePulseEnd_only s _ rfl) rfl
  | refractoryEnd => exact .intro rfl (execRefractoryEnd_only s _ rfl) rfl
  | wakeWireStuck p => exact .intro rfl (execWakeWireStuck_only p s _ rfl) rfl
  | wakeWireReleased p => exact .intro rfl (execWakeWireReleased_only p s _ rfl) rfl
  | tc10WakeReceived link => exact .intro rfl (execTc10WakeReceived_only link s _ rfl) rfl
  | tc10SleepTimeout link => exact .intro rfl (execTc10SleepTimeout_only link s _ rfl) rfl
  | wakeInputActive input => exact .intro rfl (execWakeInputActive_only input s _ rfl) rfl
  | alarmFire index => exact .intro rfl (execAlarmFire_only index s _ rfl) rfl
  | alarmHoldEnd index => exact .intro rfl (execAlarmHoldEnd_only index s _ rfl) rfl
  | commandHoldEnd => exact .intro rfl (execCommandHoldEnd_only s _ rfl) rfl
  | pointOfNoReturn => exact .intro rfl (execPointOfNoReturn_only s _ rfl) rfl
  | sleepEntry => exact .intro rfl (execSleepEntry_only s _ rfl) rfl
  | sleepEntryComplete => exact .intro rfl (execSleepEntryComplete_only s _ rfl) rfl
  | falseWake => exact .intro rfl (execFalseWake_only s _ rfl) rfl
  | wakeSourceUnmasked source => exact .intro rfl (execWakeSourceUnmasked_only source s _ rfl) rfl
  | wakeInputStuck input => exact .intro rfl (execWakeInputStuck_only input s _ rfl) rfl
  | wakeInputUnstuck input => exact .intro rfl (execWakeInputUnstuck_only input s _ rfl) rfl
  | lineKeepingEntry => exact .intro rfl (execLineKeepingEntry_only s _ rfl) rfl
  | lineKeepingExit source => exact .intro rfl (execLineKeepingExit_only source s _ rfl) rfl
  | maxAwakeExpiry => exact .intro rfl (execMaxAwakeExpiry_only s _ rfl) rfl
  | eventReported e => exact .intro rfl (execEventReported_only e s _ rfl) rfl
  | tokenRefill code => exact .intro rfl (execTokenRefill_only code s _ rfl) rfl
  | recorderFlush writeOk => exact .intro rfl (execRecorderFlush_only writeOk s _ rfl) rfl
  | recorderDegraded => exact .intro rfl (execRecorderDegraded_only s _ rfl) rfl
  | summaryPeriodEnd => exact .intro rfl (execSummaryPeriodEnd_only s _ rfl) rfl
  | sessionIdle sess => exact .intro rfl (execSessionIdle_only sess s _ rfl) rfl
  | transferIdle kind target => exact .intro rfl (execTransferIdle_only kind target s _ rfl) rfl
  | replyKeepExpiry sess seq => exact .intro rfl (execReplyKeepExpiry_only sess seq s _ rfl) rfl
  | opIdentity p => exact .intro rfl (execOpIdentity_only p s _ rfl) rfl
  | opStatus p => exact .intro rfl (execOpStatus_only p s _ rfl) rfl
  | opTime p => exact .intro rfl (execOpTime_only p s _ rfl) rfl
  | opSkimRead p => exact .intro rfl (execOpSkimRead_only p s _ rfl) rfl
  | opSkimWrite p => exact .intro rfl (execOpSkimWrite_only p s _ rfl) rfl
  | opSkimDescriptor p => exact .intro rfl (execOpSkimDescriptor_only p s _ rfl) rfl
  | opPinTake p => exact .intro rfl (execOpPinTake_only p s _ rfl) rfl
  | opPinRenew p => exact .intro rfl (execOpPinRenew_only p s _ rfl) rfl
  | opPinRelease p => exact .intro rfl (execOpPinRelease_only p s _ rfl) rfl
  | opForce p => exact .intro rfl (execOpForce_only p s _ rfl) rfl
  | opForceRelease p => exact .intro rfl (execOpForceRelease_only p s _ rfl) rfl
  | opSnapshotTake p => exact .intro rfl (execOpSnapshotTake_only p s _ rfl) rfl
  | opSnapshotRead p => exact .intro rfl (execOpSnapshotRead_only p s _ rfl) rfl
  | opSnapshotLock p => exact .intro rfl (execOpSnapshotLock_only p s _ rfl) rfl
  | opSnapshotUnlock p => exact .intro rfl (execOpSnapshotUnlock_only p s _ rfl) rfl
  | opRouteRead p => exact .intro rfl (execOpRouteRead_only p s _ rfl) rfl
  | opRouteEdit p => exact .intro rfl (execOpRouteEdit_only p s _ rfl) rfl
  | opRouteStatus p => exact .intro rfl (execOpRouteStatus_only p s _ rfl) rfl
  | opRouteTransferBegin p => exact .intro rfl (execOpRouteTransferBegin_only p s _ rfl) rfl
  | opRouteTransferChunk p => exact .intro rfl (execOpRouteTransferChunk_only p s _ rfl) rfl
  | opRouteTransferFinish p => exact .intro rfl (execOpRouteTransferFinish_only p s _ rfl) rfl
  | opRouteDiscardStaged p => exact .intro rfl (execOpRouteDiscardStaged_only p s _ rfl) rfl
  | opCycleStatus p => exact .intro rfl (execOpCycleStatus_only p s _ rfl) rfl
  | opScheduleRead p => exact .intro rfl (execOpScheduleRead_only p s _ rfl) rfl
  | opStep p => exact .intro rfl (execOpStep_only p s _ rfl) rfl
  | opEventRead p => exact .intro rfl (execOpEventRead_only p s _ rfl) rfl
  | opScheduleEventTransferBegin p => exact .intro rfl (execOpScheduleEventTransferBegin_only p s _ rfl) rfl
  | opScheduleEventTransferChunk p => exact .intro rfl (execOpScheduleEventTransferChunk_only p s _ rfl) rfl
  | opScheduleEventTransferFinish p => exact .intro rfl (execOpScheduleEventTransferFinish_only p s _ rfl) rfl
  | opSetoutTable p => exact .intro rfl (execOpSetoutTable_only p s _ rfl) rfl
  | opSetoutStatus p => exact .intro rfl (execOpSetoutStatus_only p s _ rfl) rfl
  | opRenumber p => exact .intro rfl (execOpRenumber_only p s _ rfl) rfl
  | opFarNumbering p => exact .intro rfl (execOpFarNumbering_only p s _ rfl) rfl
  | opPowerStatus p => exact .intro rfl (execOpPowerStatus_only p s _ rfl) rfl
  | opStayAwake p => exact .intro rfl (execOpStayAwake_only p s _ rfl) rfl
  | opWakeAll p => exact .intro rfl (execOpWakeAll_only p s _ rfl) rfl
  | opAlarmRead p => exact .intro rfl (execOpAlarmRead_only p s _ rfl) rfl
  | opAlarmWrite p => exact .intro rfl (execOpAlarmWrite_only p s _ rfl) rfl
  | opHoldersRead p => exact .intro rfl (execOpHoldersRead_only p s _ rfl) rfl
  | opHoldersClear p => exact .intro rfl (execOpHoldersClear_only p s _ rfl) rfl
  | opPairStatus p => exact .intro rfl (execOpPairStatus_only p s _ rfl) rfl
  | opHandover p => exact .intro rfl (execOpHandover_only p s _ rfl) rfl
  | opRoleGrant p => exact .intro rfl (execOpRoleGrant_only p s _ rfl) rfl
  | opSafeStatusRead p => exact .intro rfl (execOpSafeStatusRead_only p s _ rfl) rfl
  | opMismatchLog p => exact .intro rfl (execOpMismatchLog_only p s _ rfl) rfl
  | opComplexReset p => exact .intro rfl (execOpComplexReset_only p s _ rfl) rfl
  | opOutputFaultClear p => exact .intro rfl (execOpOutputFaultClear_only p s _ rfl) rfl
  | opEquationStatus p => exact .intro rfl (execOpEquationStatus_only p s _ rfl) rfl
  | opEquationTransferBegin p => exact .intro rfl (execOpEquationTransferBegin_only p s _ rfl) rfl
  | opEquationTransferChunk p => exact .intro rfl (execOpEquationTransferChunk_only p s _ rfl) rfl
  | opEquationTransferFinish p => exact .intro rfl (execOpEquationTransferFinish_only p s _ rfl) rfl
  | opRecorderRead p => exact .intro rfl (execOpRecorderRead_only p s _ rfl) rfl
  | opRecorderStats p => exact .intro rfl (execOpRecorderStats_only p s _ rfl) rfl
  | opRecorderStatus p => exact .intro rfl (execOpRecorderStatus_only p s _ rfl) rfl
  | opImageStatus p => exact .intro rfl (execOpImageStatus_only p s _ rfl) rfl
  | opImageTransferBegin p => exact .intro rfl (execOpImageTransferBegin_only p s _ rfl) rfl
  | opImageTransferChunk p => exact .intro rfl (execOpImageTransferChunk_only p s _ rfl) rfl
  | opImageTransferFinish p => exact .intro rfl (execOpImageTransferFinish_only p s _ rfl) rfl
  | opImageActivate p => exact .intro rfl (execOpImageActivate_only p s _ rfl) rfl
  | opImageRollback p => exact .intro rfl (execOpImageRollback_only p s _ rfl) rfl
  | opKeyEnrol p => exact .intro rfl (execOpKeyEnrol_only p s _ rfl) rfl
  | opVportStatus p => exact .intro rfl (execOpVportStatus_only p s _ rfl) rfl
  | opChannelRead p => exact .intro rfl (execOpChannelRead_only p s _ rfl) rfl
  | opChannelWrite p => exact .intro rfl (execOpChannelWrite_only p s _ rfl) rfl
  | opProfileGateTransferBegin p => exact .intro rfl (execOpProfileGateTransferBegin_only p s _ rfl) rfl
  | opProfileGateTransferChunk p => exact .intro rfl (execOpProfileGateTransferChunk_only p s _ rfl) rfl
  | opProfileGateTransferFinish p => exact .intro rfl (execOpProfileGateTransferFinish_only p s _ rfl) rfl
  | opFieldStatus p => exact .intro rfl (execOpFieldStatus_only p s _ rfl) rfl
  | opCanopenNodes p => exact .intro rfl (execOpCanopenNodes_only p s _ rfl) rfl
  | opSerialProgramTransferBegin p => exact .intro rfl (execOpSerialProgramTransferBegin_only p s _ rfl) rfl
  | opSerialProgramTransferChunk p => exact .intro rfl (execOpSerialProgramTransferChunk_only p s _ rfl) rfl
  | opSerialProgramTransferFinish p => exact .intro rfl (execOpSerialProgramTransferFinish_only p s _ rfl) rfl
  | opPostedWrite p => exact .intro rfl (execOpPostedWrite_only p s _ rfl) rfl
  | opRead p => exact .intro rfl (execOpRead_only p s _ rfl) rfl
  | opRetry p => exact .intro rfl (execOpRetry_only p s _ rfl) rfl
  | opLockedSequence p => exact .intro rfl (execOpLockedSequence_only p s _ rfl) rfl
  | opSemaphore p => exact .intro rfl (execOpSemaphore_only p s _ rfl) rfl
  | opEndpointOpen p => exact .intro rfl (execOpEndpointOpen_only p s _ rfl) rfl
  | opEndpointClose p => exact .intro rfl (execOpEndpointClose_only p s _ rfl) rfl
  | opErrorLog p => exact .intro rfl (execOpErrorLog_only p s _ rfl) rfl
  | opRemoteCommand p => exact .intro rfl (execOpRemoteCommand_only p s _ rfl) rfl
  | opRegisterRead p => exact .intro rfl (execOpRegisterRead_only p s _ rfl) rfl
  | opRegisterWrite p => exact .intro rfl (execOpRegisterWrite_only p s _ rfl) rfl
  | opCx320Counters p => exact .intro rfl (execOpCx320Counters_only p s _ rfl) rfl
  | opSplitEnter p => exact .intro rfl (execOpSplitEnter_only p s _ rfl) rfl
  | opSplitLeave p => exact .intro rfl (execOpSplitLeave_only p s _ rfl) rfl
  | opCoreHalt p => exact .intro rfl (execOpCoreHalt_only p s _ rfl) rfl
  | opCoreStep p => exact .intro rfl (execOpCoreStep_only p s _ rfl) rfl
  | opCoreRun p => exact .intro rfl (execOpCoreRun_only p s _ rfl) rfl
  | opCoreRead p => exact .intro rfl (execOpCoreRead_only p s _ rfl) rfl
  | opCoreWrite p => exact .intro rfl (execOpCoreWrite_only p s _ rfl) rfl
  | opReplay p => exact .intro rfl (execOpReplay_only p s _ rfl) rfl
  | cmdCtrlWrite w => exact .intro rfl (execCmdCtrlWrite_only w s _ rfl) rfl
  | replyCtrlWrite w => exact .intro rfl (execReplyCtrlWrite_only w s _ rfl) rfl
  | intStatusWrite w => exact .intro rfl (execIntStatusWrite_only w s _ rfl) rfl
  | intMaskWrite w => exact .intro rfl (execIntMaskWrite_only w s _ rfl) rfl
  | trainTimeHiRead => exact .intro rfl (execTrainTimeHiRead_only s _ rfl) rfl
  | rcFieldRead address => exact .intro rfl (execRcFieldRead_only address s _ rfl) rfl
  | w1cBitWrite address w => exact .intro rfl (execW1cBitWrite_only address w s _ rfl) rfl
  | hostRingReadIndexWrite w => exact .intro rfl (execHostRingReadIndexWrite_only w s _ rfl) rfl
  | hostRegisterWrite command words partialWord => exact .intro rfl (execHostRegisterWrite_only command words partialWord s _ rfl) rfl
  | maintButtonPress => exact .intro rfl (execMaintButtonPress_only s _ rfl) rfl
  | maintButtonRelease heldMs => exact .intro rfl (execMaintButtonRelease_only heldMs s _ rfl) rfl
  | maintWindowClose => exact .intro rfl (execMaintWindowClose_only s _ rfl) rfl
  | maintJumperFitted => exact .intro rfl (execMaintJumperFitted_only s _ rfl) rfl
  | maintJumperRemoved => exact .intro rfl (execMaintJumperRemoved_only s _ rfl) rfl
  | presenceRawChange sealOpen debugFitted => exact .intro rfl (execPresenceRawChange_only sealOpen debugFitted s _ rfl) rfl
  | sealOpened => exact .intro rfl (execSealOpened_only s _ rfl) rfl
  | sealClosed => exact .intro rfl (execSealClosed_only s _ rfl) rfl
  | debugJumperFitted => exact .intro rfl (execDebugJumperFitted_only s _ rfl) rfl
  | debugJumperRemoved => exact .intro rfl (execDebugJumperRemoved_only s _ rfl) rfl
  | presenceInputFault input => exact .intro rfl (execPresenceInputFault_only input s _ rfl) rfl
  | presenceFaultLift input => exact .intro rfl (execPresenceFaultLift_only input s _ rfl) rfl
  | trialConfirmed => exact .intro rfl (execTrialConfirmed_only s _ rfl) rfl
  | trialTimeout => exact .intro rfl (execTrialTimeout_only s _ rfl) rfl
  | monitorLine => exact .intro rfl (execMonitorLine_only s _ rfl) rfl
  | monHelp => exact .intro rfl (execMonHelp_only s _ rfl) rfl
  | monBaud rate => exact .intro rfl (execMonBaud_only rate s _ rfl) rfl
  | monPacket => exact .intro rfl (execMonPacket_only s _ rfl) rfl
  | packetModeFrame bytes => exact .intro rfl (execPacketModeFrame_only bytes s _ rfl) rfl
  | packetByteTimeout => exact .intro rfl (execPacketByteTimeout_only s _ rfl) rfl
  | packetModeEnd => exact .intro rfl (execPacketModeEnd_only s _ rfl) rfl
  | peerSegmentLinkUp seg master => exact .intro rfl (execPeerSegmentLinkUp_only seg master s _ rfl) rfl
  | resetCommand => exact .intro rfl (execResetCommand_only s _ rfl) rfl
  | noFirmwareLine => exact .intro rfl (execNoFirmwareLine_only s _ rfl) rfl
  | monitorCharacterReceived b => exact .intro rfl (execMonitorCharacterReceived_only b s _ rfl) rfl

/-- Settles O48: every command completes within the parts that it writes, and those leave out the four fixed ones. -/
theorem commandsCompleteAndChangeOnlyTheirParts : Obligations.CommandsCompleteAndChangeOnlyTheirParts := by
  unfold Obligations.CommandsCompleteAndChangeOnlyTheirParts
  intro i s
  obtain ⟨t, he, ho⟩ := exec_completesWithin i s
  have hfixed : ∀ p ∈ [Part.pending, .clk, .unitId, .hwIssue], t.part p = s.part p :=
    fun p hp => ho p (fixed_not_mem_writes i hp)
  exact ⟨t, he, ho, hfixed .pending (by decide), hfixed .clk (by decide), hfixed .unitId (by decide),
    hfixed .hwIssue (by decide)⟩

end Sys2Proof.Proofs
end

section
/-! The links, relay sets, duplicate keys and fences of the train-line ports (R20, R36 to R38, R59, R61, R86, R100), and
the statement O5. -/

namespace Sys2Proof.Proofs

open Sys2Proof Sys2Proof.Machine

/-! ### Bits and ports -/

theorem getLsbD_setBit_of_ne {w k j : Nat} (v : BitVec w) (x : Bool) (h : j ≠ k) :
    (setBit v k x).getLsbD j = v.getLsbD j := by
  have hbit : (BitVec.ofNat w (2 ^ k)).getLsbD j = false := by
    rw [BitVec.getLsbD_ofNat, Nat.testBit_two_pow_of_ne h.symm, Bool.and_false]
  rcases Nat.lt_or_ge j w with hj | hj
  · cases x <;> simp only [setBit, Bool.false_eq_true, if_true, if_false, BitVec.getLsbD_or, BitVec.getLsbD_and,
      BitVec.getLsbD_not, hbit, hj, decide_true, Bool.not_false, Bool.and_true, Bool.or_false]
  · rw [BitVec.getLsbD_of_ge _ _ hj, BitVec.getLsbD_of_ge _ _ hj]

@[simp] theorem otherEnd_ne (p : LinePort) : otherEnd p ≠ p := by cases p <;> decide

@[simp] theorem otherEnd_otherEnd (p : LinePort) : otherEnd (otherEnd p) = p := by cases p <;> rfl

@[simp] theorem ports_get_set_self {α : Type} (t : Ports α) (p : LinePort) (x : α) : (t.set p x).get p = x := by
  cases p <;> rfl

theorem ports_get_set_other {α : Type} (t : Ports α) {p q : LinePort} (x : α) (h : q ≠ p) :
    (t.set p x).get q = t.get q :=
  ports_get_adj_other t (fun _ => x) h

/-! ### A link that goes down -/

section
variable (s : State) (p : LinePort)

/-- The port's own entry: no link, no frame arriving, none waiting. -/
theorem dropLink_port_self : (dropLink s p).line.ports.get p =
    { s.line.ports.get p with
      status := setBit (setBit (setBit (setBit (s.line.ports.get p).status 16 false) 17 false) 18 false) 22 false
      offRate := none, inFlight := none, waiting := [] } :=
  (ports_get_adj_other _ _ (otherEnd_ne p).symm).trans (ports_get_adj_self ..)

theorem dropLink_port_otherEnd :
    (dropLink s p).line.ports.get (otherEnd p) = { s.line.ports.get (otherEnd p) with waiting := [] } :=
  (ports_get_adj_self ..).trans (congrArg (fun q : LPort => { q with waiting := [] }) (ports_get_adj_other _ _ (otherEnd_ne p)))

theorem dropLink_port_away {q : LinePort} (h : q ≠ p) (k : q ≠ otherEnd p) :
    (dropLink s p).line.ports.get q = s.line.ports.get q :=
  (ports_get_adj_other _ _ k).trans (ports_get_adj_other _ _ h)

/-- What waited at the other end leaves. -/
theorem dropLink_out : (dropLink s p).out = s.out ++ waitingOut s (otherEnd p) := by
  simp only [dropLink, releaseWaiting, setPort, ports_get_adj_other _ _ (otherEnd_ne p)]
  rfl

/-- TRAIN_LINE_LINK_DOWN of an assigned port (R61). -/
theorem trainLineLinkDown_drops (ha : assigned s p = true) : Answers (.trainLineLinkDown p) s (fun t =>
    t.line = (dropLink s p).line ∧ t.out = (dropLink s p).out ∧ t.set.probes = s.set.probes.set p none ∧
    t.set.boundary = s.set.boundary.set p false) := by
  refine ⟨_, rfl, ?_⟩
  simp only [ha, Bool.not_true, Bool.false_eq_true, if_false]
  exact ⟨trivial, trivial, rfl, rfl⟩

theorem trainLineLinkDown_row (ha : assigned s p = true) : Answers (.trainLineLinkDown p) s (fun t =>
    linkUp t p = false ∧ (t.line.ports.get p).status.getLsbD 17 = false ∧ (t.line.ports.get p).inFlight = none ∧
    t.set.probes.get p = none ∧ t.set.boundary.get p = false ∧
    (∀ k, k ∉ [16, 17, 18, 22] → (t.line.ports.get p).status.getLsbD k = (s.line.ports.get p).status.getLsbD k) ∧
    t.line.ports.get (otherEnd p) = { s.line.ports.get (otherEnd p) with waiting := [] } ∧
    t.out = s.out ++ waitingOut s (otherEnd p) ∧
    (∀ q, q ≠ p → q ≠ otherEnd p → t.line.ports.get q = s.line.ports.get q) ∧
    (∀ q, q ≠ p → t.set.probes.get q = s.set.probes.get q)) := by
  obtain ⟨t, he, hline, hout, hprobes, hboundary⟩ := trainLineLinkDown_drops s p ha
  refine ⟨t, he, ?_⟩
  simp only [linkUp, hline, hout, hprobes, hboundary, dropLink_port_self, dropLink_port_otherEnd, dropLink_out,
    ports_get_set_self, true_and]
  refine ⟨?_, ?_, ?_, fun q h k => dropLink_port_away s p h k, fun q h => ports_get_set_other _ _ h⟩
  · simp (disch := decide) only [getLsbD_setBit_of_ne, getLsbD_setBit_self]
  · simp (disch := decide) only [getLsbD_setBit_of_ne, getLsbD_setBit_self]
  · intro k hk
    simp only [List.mem_cons, List.not_mem_nil, or_false, not_or] at hk
    obtain ⟨h16, h17, h18, h22⟩ := hk
    simp only [getLsbD_setBit_of_ne _ _ h16, getLsbD_setBit_of_ne _ _ h17, getLsbD_setBit_of_ne _ _ h18,
      getLsbD_setBit_of_ne _ _ h22]

end

/-! ### A link that comes up -/

/-- `PORT_STATUS` with `LINK_UP`, `RATE`, `XR`, `RATE_LOW` and `MASTER` written (R61). -/
def linkedStatus (st : Word32) (up rate xr low master : Bool) : Word32 :=
  setBit (setBit (setBit (setBit (setBit st 16 up) 17 rate) 18 xr) 19 low) 22 master

theorem linkedStatus_bits (st : Word32) (up rate xr low master : Bool) :
    let v := linkedStatus st up rate xr low master
    v.getLsbD 16 = up ∧ v.getLsbD 17 = rate ∧ v.getLsbD 18 = xr ∧ v.getLsbD 19 = low ∧ v.getLsbD 22 = master ∧
      ∀ k, k ∉ [16, 17, 18, 19, 22] → v.getLsbD k = st.getLsbD k := by
  refine ⟨?_, ?_, ?_, ?_, ?_, fun k hk => ?_⟩
  case refine_6 =>
    simp only [List.mem_cons, List.not_mem_nil, or_false, not_or] at hk
    obtain ⟨h16, h17, h18, h19, h22⟩ := hk
    simp only [linkedStatus, getLsbD_setBit_of_ne _ _ h16, getLsbD_setBit_of_ne _ _ h17, getLsbD_setBit_of_ne _ _ h18,
      getLsbD_setBit_of_ne _ _ h19, getLsbD_setBit_of_ne _ _ h22]
  all_goals simp (disch := decide) only [linkedStatus, getLsbD_setBit_of_ne, getLsbD_setBit_self]

/-- The link at p comes up below the line's rate while absorbing: the merged rate, to which the other end retrains (R131). -/
def mergedRate (s : State) (p : LinePort) (linked r25 : Bool) : Bool :=
  linked && decide (s.set.state = .absorbing) && (lineRate s p && !r25)

/-- The ports that TRAIN_LINE_LINK_UP leaves at p: the other end drops its link first when it retrains. -/
def linkedPorts (s : State) (p : LinePort) (linked r25 : Bool) (f : LPort → LPort) : Ports LPort :=
  (if mergedRate s p linked r25 then dropLink s (otherEnd p) else s).line.ports.adj p f

theorem linkedPorts_away (s : State) {p q : LinePort} (linked r25 : Bool) (f : LPort → LPort) (h : q ≠ p)
    (k : q ≠ otherEnd p ∨ s.set.state ≠ .absorbing) : (linkedPorts s p linked r25 f).get q = s.line.ports.get q := by
  rw [linkedPorts, ports_get_adj_other _ _ h]
  split
  case isFalse => rfl
  case isTrue hm =>
    have hab : s.set.state = .absorbing := by simp [mergedRate] at hm; exact hm.1.2
    have hother : q ≠ otherEnd p := k.resolve_right (absurd hab)
    exact dropLink_port_away s _ hother (by simpa using h)

section
variable {s : State} {p : LinePort} {linked r25 fits : Bool}

/-- TRAIN_LINE_LINK_UP of an assigned port whose relay set is open (R33, R34, R61). -/
theorem trainLineLinkUp_links (xr master : Bool) (ha : assigned s p = true) (hr : relayOpen s p = true)
    (hf : fits = (linked && (s.set.numbering.isNone || r25 == lineRate s p ||
      (decide (s.set.state = .absorbing) && lineRate s p && !r25)))) {off : Bool}
    (ho : off = (linked && !fits && (adjacentPos s p).isNone)) :
    Answers (.trainLineLinkUp p linked r25 xr master) s (fun t => t.line.ports = linkedPorts s p linked r25 (fun q =>
      { q with
        status := linkedStatus (s.line.ports.get p).status fits (fits && r25) ((fits || off) && xr)
          (!linked || (!fits && (lineRate s p && !r25))) master
        offRate := if off then some r25 else none, inFlight := none, waiting := [] })) := by
  have hfits : (linked && (s.set.numbering.isNone || r25 == lineRate s p || mergedRate s p linked r25)) = fits := by
    subst hf
    cases linked <;> simp [mergedRate, Bool.and_assoc]
  refine ⟨_, rfl, ?_⟩
  simp only [ha, hr, Bool.not_true, Bool.or_false, Bool.false_eq_true, if_false]
  simp only [mergedRate] at hfits
  simp only [hfits, ← ho, linkedPorts, mergedRate, setPort, linkedStatus]
  rfl

theorem trainLineLinkUp_row (xr master : Bool) (ha : assigned s p = true) (hr : relayOpen s p = true)
    (hf : fits = (linked && (s.set.numbering.isNone || r25 == lineRate s p ||
      (decide (s.set.state = .absorbing) && lineRate s p && !r25)))) :
    Answers (.trainLineLinkUp p linked r25 xr master) s (fun t =>
      (t.line.ports.get p).status.getLsbD 16 = fits ∧ (t.line.ports.get p).status.getLsbD 17 = (fits && r25) ∧
      (t.line.ports.get p).offRate = (if linked ∧ fits = false ∧ (adjacentPos s p).isNone then some r25 else none) ∧
      (t.line.ports.get p).status.getLsbD 18 = ((fits || (t.line.ports.get p).offRate.isSome) && xr) ∧
      (t.line.ports.get p).status.getLsbD 19 = (!linked || (!fits && lineRate s p && !r25)) ∧
      (t.line.ports.get p).status.getLsbD 22 = master ∧ (t.line.ports.get p).inFlight = none ∧
      (∀ k, k ∉ [16, 17, 18, 19, 22] → (t.line.ports.get p).status.getLsbD k = (s.line.ports.get p).status.getLsbD k) ∧
      (∀ q, q ≠ p → q ≠ otherEnd p ∨ s.set.state ≠ .absorbing → t.line.ports.get q = s.line.ports.get q)) := by
  obtain ⟨off, ho⟩ : ∃ off, off = (linked && !fits && (adjacentPos s p).isNone) := ⟨_, rfl⟩
  obtain ⟨t, he, ht⟩ := trainLineLinkUp_links xr master ha hr hf ho
  obtain ⟨h16, h17, h18, h19, h22, hrest⟩ := linkedStatus_bits (s.line.ports.get p).status fits (fits && r25)
    ((fits || off) && xr) (!linked || (!fits && (lineRate s p && !r25))) master
  have hoff : (linked = true ∧ fits = false ∧ (adjacentPos s p).isNone = true) ↔ off = true := by
    simp [ho, and_assoc]
  have hsome : (if off = true then some r25 else none : Option Bool).isSome = off := by cases off <;> rfl
  have hp := (congrArg (Ports.get · p) ht).trans (ports_get_adj_self ..)
  refine ⟨t, he, ?_⟩
  simp only [hp, hoff, hsome, Bool.and_assoc]
  exact ⟨h16, h17, trivial, h18, h19, h22, trivial, hrest, fun q h k => ht ▸ linkedPorts_away s linked r25 _ h k⟩

end

/-! ### Unassigned ports and relay sets -/

theorem portUnassignedLink_reports (s : State) (p : LinePort) (hc : s.cfg.isSome = true) (ha : assigned s p = false) :
    exec (.portUnassignedLink p) s = .next { s with recorder := { s.recorder with
      reports := s.recorder.reports ++ [stamp s ⟨0x0104, 3, portNo p, []⟩] } } := by
  show execPortUnassignedLink p s = _
  simp only [execPortUnassignedLink, hc, ha]
  rfl

/-- Where line A is the unit's too, its ports' links or 500 ms open line B's relay set (R38). -/
theorem lineBRelayOpen_opens {s : State} (peer : Bool) {d : Nat} (hb : assigned s .b1 || assigned s .b2)
    (hclosed : s.line.relayBOpen = false) (ha : assigned s .a1 || assigned s .a2) (hd : s.line.islandAt = some d)
    (hgo : (linkUp s .a1 = true ∧ linkUp s .a2 = true) ∨ d + 500000000 ≤ s.clk) :
    exec (.lineBRelayOpen peer) s = .next (openRelay s .b) := by
  have hwaited : ((linkUp s .a1 && linkUp s .a2) || decide (d + 500000000 ≤ s.clk)) = true := by simpa using hgo
  show execLineBRelayOpen peer s = _
  simp only [execLineBRelayOpen, ha, hb, hclosed, hd, hwaited]
  rfl

theorem openRelay_b (s : State) : (openRelay s .b).line.relayBOpen = true ∧
    (openRelay s .b).line.relayAOpen = s.line.relayAOpen ∧
    ((openRelay s .b).line.ports.get .b1).status.getLsbD 20 = false ∧
    ((openRelay s .b).line.ports.get .b2).status.getLsbD 20 = false ∧
    (openRelay s .b).line.ports.get .a1 = s.line.ports.get .a1 ∧
    (openRelay s .b).line.ports.get .a2 = s.line.ports.get .a2 :=
  ⟨Bool.or_true _, Bool.or_false _, getLsbD_setBit_self _ _ (by decide), getLsbD_setBit_self _ _ (by decide), rfl, rfl⟩

/-! ### Fences -/

/-- The fence entry of a port and source after `g`; every other entry as it was. -/
def fenceSet (p : LinePort) (src : Source) (g : Fence → Fence) (x : Fence) : Fence :=
  if x.port == p && x.src == src then g x else x

theorem fenceOf_key {s : State} {p : LinePort} {src : Source} {x : Fence} (h : fenceOf s p src = some x) :
    x.port = p ∧ x.src = src := by
  simpa using List.find?_some (p := fun x : Fence => x.port == p && x.src == src) h

section
variable {s t : State} {p : LinePort} {src : Source} {g : Fence → Fence}
  (hg : ∀ x, (g x).port = x.port ∧ (g x).src = x.src) (ht : t.cyc.fences = s.cyc.fences.map (fenceSet p src g))
include hg ht

/-- A change of entries that keeps their keys changes what each key finds. -/
theorem fenceOf_fenceSet (q : LinePort) (c : Source) : fenceOf t q c = (fenceOf s q c).map (fenceSet p src g) := by
  have hkey : ∀ x, ((fenceSet p src g x).port == q && (fenceSet p src g x).src == c) = (x.port == q && x.src == c) := by
    intro x
    unfold fenceSet
    split
    · rw [(hg x).1, (hg x).2]
    · rfl
  rw [fenceOf, ht, List.find?_map]
  simp only [Function.comp_def, hkey]
  rfl

theorem fenceOf_fenceSet_self {x : Fence} (h : fenceOf s p src = some x) : fenceOf t p src = some (g x) := by
  obtain ⟨rfl, rfl⟩ := fenceOf_key h
  rw [fenceOf_fenceSet hg ht, h, Option.map_some, fenceSet, if_pos (by simp)]

theorem fenceOf_fenceSet_other {q : LinePort} {c : Source} (h : q ≠ p ∨ c ≠ src) : fenceOf t q c = fenceOf s q c := by
  rw [fenceOf_fenceSet hg ht]
  cases hf : fenceOf s q c with
  | none => rfl
  | some x =>
    obtain ⟨rfl, rfl⟩ := fenceOf_key hf
    have hkey : ¬ (x.port == p && x.src == src) = true := by
      simpa only [Bool.and_eq_true, beq_iff_eq, Decidable.not_and_iff_not_or_not] using h
    rw [Option.map_some, fenceSet, if_neg hkey]

end

/-- The report of a fence set (measure 0) or lifted (measure 1): port and source (R86). -/
def fenceEvent (p : LinePort) (src : Source) (measure : Int) : EventIn :=
  ⟨0x0101, 4, measure, be 1 (portNo p) ++ be 1 src.pos ++ be 1 src.unit ++ be 1 src.line⟩

/-- An entry changed under its key and the report behind it: what both fence rows leave. -/
theorem fence_answers {i : Instr} {s : State} {p : LinePort} {src : Source} {x : Fence} {g : Fence → Fence} {m : Int}
    (hx : fenceOf s p src = some x) (hg : ∀ x, (g x).port = x.port ∧ (g x).src = x.src)
    (h : Answers i s (fun t => t.cyc.fences = s.cyc.fences.map (fenceSet p src g) ∧
      t.recorder.reports = s.recorder.reports ++ [stamp s (fenceEvent p src m)])) :
    Answers i s (fun t => fenceOf t p src = some (g x) ∧
      (∀ q c, q ≠ p ∨ c ≠ src → fenceOf t q c = fenceOf s q c) ∧
      t.recorder.reports = s.recorder.reports ++ [stamp s (fenceEvent p src m)]) := by
  obtain ⟨t, he, hf, hr⟩ := h
  exact ⟨t, he, fenceOf_fenceSet_self hg hf hx, fun q c h => fenceOf_fenceSet_other hg hf h, hr⟩

section
variable {s : State} {p : LinePort} {src : Source} {x : Fence} (hx : fenceOf s p src = some x)
include hx

theorem sourceFenced_row (hfree : x.fenced = false) (hrun : 3 ≤ x.run) : Answers (.sourceFenced p src) s (fun t =>
    fenceOf t p src = some { x with fenced := true } ∧ (∀ q c, q ≠ p ∨ c ≠ src → fenceOf t q c = fenceOf s q c) ∧
    t.recorder.reports = s.recorder.reports ++ [stamp s (fenceEvent p src 0)]) := by
  refine fence_answers (g := fun x => { x with fenced := true }) hx (fun _ => ⟨rfl, rfl⟩) ⟨_, rfl, ?_⟩
  simp only [hx, hfree, hrun, Bool.not_false, Bool.true_and, decide_true]
  exact ⟨rfl, rfl⟩

theorem fenceLifted_row (hset : x.fenced = true) (hgood : x.good = true) : Answers (.fenceLifted p src) s (fun t =>
    fenceOf t p src = some { x with fenced := false, run := 0 } ∧
    (∀ q c, q ≠ p ∨ c ≠ src → fenceOf t q c = fenceOf s q c) ∧
    t.recorder.reports = s.recorder.reports ++ [stamp s (fenceEvent p src 1)]) := by
  refine fence_answers (g := fun x => { x with fenced := false, run := 0 }) hx (fun _ => ⟨rfl, rfl⟩) ⟨_, rfl, ?_⟩
  simp only [hx, hset, hgood, Bool.true_and]
  exact ⟨rfl, rfl⟩

end

/-- Settles O5: each row's effect, from the lemma above that bears its name. -/
theorem linksRelaysAndFencesFollowTheirRows : Obligations.LinksRelaysAndFencesFollowTheirRows := by
  unfold Obligations.LinksRelaysAndFencesFollowTheirRows
  refine ⟨?_, ?_, ?_, ?_, ?_, ?_, ?_⟩
  case refine_1 => exact fun s p linked r25 xr master fits ha hr hf => trainLineLinkUp_row xr master ha hr hf
  case refine_2 => exact trainLineLinkDown_row
  case refine_3 => exact portUnassignedLink_reports
  case refine_4 =>
    exact fun s peer d hb hclosed ha hd hgo => .intro (lineBRelayOpen_opens peer hb hclosed ha hd hgo) (openRelay_b s)
  case refine_5 => exact fun s => rfl
  case refine_6 => exact fun s p src x hx hfree hrun => sourceFenced_row hx hfree hrun
  case refine_7 => exact fun s p src x hx hset hgood => fenceLifted_row hx hset hgood

end Sys2Proof.Proofs
end

section
/-! Control records, mirror records, port traffic and peer segments (R24, R373, R377, R378, R382, R383, R392 to R394,
R403), and the statement O31. -/

namespace Sys2Proof.Proofs

open Sys2Proof Sys2Proof.Machine

/-! ### Control records (R24, R373, R383, R392) -/

/-- What a control record that keeps its layout leads to, by its unit number, its unit id and its vehicle UUID. -/
def controlTaken (s : State) (u id n : Nat) (b : Bytes) : State :=
  if u = s.unitNo then (if id < s.unitId then becomeUnplaced (ringGood s) else ringGood s)
  else if field b 16 16 ≠ vehicleUuid s then
    judgeUuid { ringGood s with pair := { (ringGood s).pair with
      badUuid := s.pair.badUuid.filter (· != u) ++ [u]
      records := s.pair.records.filter (fun x => x.unit != u) } }
  else
    let s1 := judgeUuid (keepRecord
      { ringGood s with pair := { (ringGood s).pair with badUuid := s.pair.badUuid.filter (· != u) } } u id n b)
    seeRelease (if isStack s1 then hawkRecord s1 u b else s1) ⟨u, id, n, s.clk, b⟩

section
variable {s : State} {r : PeerRec}

/-- A release seen changes the instant of the switch alone. -/
theorem seeRelease_keeps (s : State) (r : PeerRec) : (seeRelease s r).pair.records = s.pair.records ∧
    (seeRelease s r).pair.badUuid = s.pair.badUuid := by
  unfold seeRelease
  split <;> exact ⟨rfl, rfl⟩

theorem seeRelease_switches (hs : s.pair.role = .standby) (hr : r.role = 1) (hrel : r.releasing = true)
    (hnone : s.pair.handAt = none) : (seeRelease s r).pair.handAt = some (cycAdd r.cycle 1) := by
  rw [seeRelease, if_pos ⟨hs, hr, hrel, by rw [hnone]; rfl⟩]

end

section
variable {s : State} {u : Nat} (id n : Nat) {b : Bytes} (hm : managing s = true) (hp : s.unplaced = false)
  (h1 : 1 ≤ u) (h4 : u ≤ 4)
include hm hp h1 h4

/-- Of a unit that manages itself and is placed, the rows look at a record of any unit number. -/
theorem controlRecord_open : ¬ (!managing s || s.unplaced || decide (u < 1 ∨ 4 < u)) = true := by
  simp only [hm, hp, Bool.not_true, Bool.false_or, decide_eq_true_eq]
  omega

/-- A record that breaks its layout (R547). -/
theorem controlRecord_broken (h : b.length ≠ 32 ∨ 4 < field b 0 1 % 16 ∨ 4 < field b 3 1) :
    exec (.controlRecordReceived u id n b) s = .next (recordDropped s) :=
  congrArg Host.Outcome.next ((if_neg (controlRecord_open hm hp h1 h4)).trans (if_pos h))

section
variable (hl : b.length = 32) (hrole : field b 0 1 % 16 ≤ 4) (harr : field b 3 1 ≤ 4)
include hl hrole harr

theorem controlRecord_taken {t : State} (h : controlTaken s u id n b = t) :
    exec (.controlRecordReceived u id n b) s = .next t := by
  have hok : ¬ (b.length ≠ 32 ∨ 4 < field b 0 1 % 16 ∨ 4 < field b 3 1) := by omega
  exact congrArg Host.Outcome.next ((if_neg (controlRecord_open hm hp h1 h4)).trans ((if_neg hok).trans h))

/-- The own unit number with a lower unit id (R373). -/
theorem controlRecord_duplicate (hu : u = s.unitNo) (hid : id < s.unitId) :
    Answers (.controlRecordReceived u id n b) s (fun t => t.unplaced = true ∧ t.safe.applied = 0 ∧
      t.line.relayAOpen = false ∧ t.line.relayBOpen = false ∧ t.pair.ilkOut = false) :=
  .intro (controlRecord_taken id n hm hp h1 h4 hl hrole harr ((if_pos hu).trans (if_pos hid))) ⟨rfl, rfl, rfl, rfl, rfl⟩

/-- The own unit number with no lower unit id: the other unit is the one to yield. -/
theorem controlRecord_own (hu : u = s.unitNo) (hid : s.unitId ≤ id) :
    exec (.controlRecordReceived u id n b) s = .next (ringGood s) :=
  controlRecord_taken id n hm hp h1 h4 hl hrole harr ((if_pos hu).trans (if_neg (Nat.not_lt.mpr hid)))

/-- Another vehicle's UUID (R24). -/
theorem controlRecord_stranger (hu : u ≠ s.unitNo) (hv : field b 16 16 ≠ vehicleUuid s) :
    Answers (.controlRecordReceived u id n b) s (fun t => t.pair.uuidMismatch = oddUnit t ∧ u ∈ t.pair.badUuid ∧
      (∀ r ∈ t.pair.records, r.unit ≠ u) ∧ t.pair.role = s.pair.role) := by
  refine .intro (controlRecord_taken id n hm hp h1 h4 hl hrole harr ((if_neg hu).trans (if_pos hv))) ⟨rfl, ?_, ?_, rfl⟩
  · exact List.mem_append_right _ (List.mem_singleton_self u)
  · intro r hr
    simpa using (List.mem_filter.mp hr).2

/-- Another unit of the vehicle: its record replaces its last, and a standby sees it release (R392). -/
theorem controlRecord_kept (hu : u ≠ s.unitNo) (hv : field b 16 16 = vehicleUuid s) (hstack : isStack s = false) :
    Answers (.controlRecordReceived u id n b) s (fun t => ⟨u, id, n, s.clk, b⟩ ∈ t.pair.records ∧
      (∀ r ∈ t.pair.records, r.unit = u → r = ⟨u, id, n, s.clk, b⟩) ∧
      u ∉ t.pair.badUuid ∧
      (s.pair.role = .standby → field b 0 1 = 1 → bitOf (field b 1 1) 1 = true → s.pair.handAt = none →
        t.pair.handAt = some (cycAdd n 1))) := by
  have hhawk : ∀ s1 : State, isStack s1 = false → (if isStack s1 then hawkRecord s1 u b else s1) = s1 :=
    fun s1 h => if_neg (by simp [h])
  refine .intro (controlRecord_taken id n hm hp h1 h4 hl hrole harr
    ((if_neg hu).trans ((if_neg (not_not_intro hv)).trans (congrArg (seeRelease · _) (hhawk _ hstack))))) ?_
  generalize hs1 : judgeUuid _ = s1
  obtain ⟨hrecords, hbad⟩ := seeRelease_keeps s1 ⟨u, id, n, s.clk, b⟩
  have h1records : s1.pair.records = s.pair.records.filter (fun x => x.unit != u) ++ [⟨u, id, n, s.clk, b⟩] := by
    rw [← hs1]; rfl
  have h1bad : s1.pair.badUuid = s.pair.badUuid.filter (· != u) := by rw [← hs1]; rfl
  rw [hrecords, hbad, h1records, h1bad]
  refine ⟨List.mem_append_right _ (List.mem_singleton_self _), ?_, ?_, ?_⟩
  · intro r hr hru
    rcases List.mem_append.mp hr with hold | hnew
    · exact absurd hru (by simpa using (List.mem_filter.mp hold).2)
    · exact List.mem_singleton.mp hnew
  · simp
  · intro hs hactive hrel hnone
    refine seeRelease_switches (by rw [← hs1]; exact hs) ?_ hrel (by rw [← hs1]; exact hnone)
    show field b 0 1 % 16 = 1
    rw [hactive]

end
end

/-! ### Records in one part (R381) -/

/-- The state that a whole record in one part leaves: the parts kept are others. -/
def withParts (s : State) (l : List (Nat × Nat × Bytes)) : State :=
  { s with pair := { s.pair with mirror := { s.pair.mirror with parts := l } } }

theorem partBroken_whole {b : Bytes} (hb : b.length ≤ 2012) : partBroken 0 1 b = false := by
  simp [partBroken, hb]

/-- Where no older part 0 of the record is left, the part just kept is the one found. -/
theorem find_part_kept (old : List (Nat × Nat × Bytes)) (k : Nat) (b : Bytes)
    (hold : ∀ p ∈ old, (p.1 == k && p.2.1 == 0) = false) :
    ((old ++ [(k, 0, b)]).filter (fun p : Nat × Nat × Bytes => p.1 == k)).find? (fun p => p.2.1 == 0) = some (k, 0, b) := by
  have hnone : (old.filter (fun p => p.1 == k)).find? (fun p => p.2.1 == 0) = none := by
    rw [List.find?_eq_none]
    intro p hp
    obtain ⟨hp, hkey⟩ := List.mem_filter.mp hp
    simpa [hkey] using hold p hp
  rw [List.filter_append, List.find?_append, hnone]
  simp

/-- A record of one part is whole at once: its content is that part. -/
theorem mirrorPart_whole (s : State) (type skim : Nat) {b : Bytes} (hb : b.length ≤ 2012) :
    ∃ l, mirrorPart s type skim 0 1 b = (withParts s l, some b) := by
  unfold mirrorPart
  extract_lets k kept mine whole
  have hfind : mine.find? (fun p => p.2.1 == 0) = some (k, 0, b) := by
    refine find_part_kept _ k b (fun p hp => ?_)
    exact (Bool.not_eq_true' _).mp (Bool.and_eq_true_iff.mp (List.mem_filter.mp hp).2).2
  have hwhole : whole = true := by
    have hany : mine.any (fun p => p.2.1 == 0) = true :=
      List.any_eq_true.mpr ⟨_, List.mem_of_find?_eq_some hfind, rfl⟩
    simp [whole, hany]
  refine ⟨kept.filter (fun p => p.1 != k), ?_⟩
  rw [if_neg (by simp [partBroken_whole hb]), if_pos hwhole]
  refine Prod.ext rfl ?_
  simp [hfind]

/-- A record of one part from the ring acts on its content at a unit that keeps a mirror. -/
theorem ringRecordPart_whole {s : State} (type skim : Nat) {b : Bytes} (act : State → Bytes → State)
    (hm : managing s = true) (hp : s.unplaced = false) (hr : onRing s = true) (hk : keepsMirror s = true)
    (hb : b.length ≤ 2012) : ∃ l, ringRecordPart s type skim 0 1 b act = act (withParts (ringGood s) l) b := by
  obtain ⟨l, hl⟩ := mirrorPart_whole (ringGood s) type skim hb
  have hkeeps : keepsMirror (ringGood s) = true := hk
  refine ⟨l, ?_⟩
  simp only [ringRecordPart, mirrorRecordPart, hm, hp, hr, hkeeps, partBroken_whole hb, hl]
  rfl

/-! ### Mirror records (R382, R393, R394; the layout of type 0x05: log entry 44) -/

/-- The fields of an image record follow the route table alone. -/
theorem parseFields_congr {s t : State} (h : ∀ i, entryAt t i = entryAt s i) (k : Nat) (b : Bytes) (acc : Tab Bytes) :
    parseFields t k b acc = parseFields s k b acc := by
  induction k generalizing b acc with
  | zero => rfl
  | succ k ih => simp only [parseFields, h, ih]

theorem mirrorSafety_row (s : State) (b : Bytes) : (mirrorSafety s b).pair.mirror.safety = b ∧
    (field b 2 1 ≠ safeCode s.safe.state → (mirrorSafety s b).recorder = (report s 0x0903 19 0 []).recorder) := by
  refine ⟨rfl, fun h => ?_⟩
  have hdiffers : (field b 2 1 != safeCode s.safe.state) = true := by simpa using h
  simp only [mirrorSafety, hdiffers, Bool.true_or]
  rfl

section
variable {s : State} (k : Nat) {b : Bytes} (hm : managing s = true) (hp : s.unplaced = false) (hr : onRing s = true)
  (hk : keepsMirror s = true) (hb : b.length ≤ 2012)
include hm hp hr hk hb

theorem safetyStateRecord_row (h8 : b.length = 8) : Answers (.safetyStateRecord k 0 1 b) s (fun t =>
    t.pair.mirror.safety = b ∧
    (field b 2 1 ≠ safeCode s.safe.state → t.recorder = (report s 0x0903 19 0 []).recorder)) := by
  obtain ⟨l, hl⟩ := ringRecordPart_whole 3 k (fun s b => if b.length = 8 then mirrorSafety s b else recordDropped s)
    hm hp hr hk hb
  refine .intro (congrArg Host.Outcome.next (hl.trans (if_pos h8))) ?_
  exact mirrorSafety_row (withParts (ringGood s) l) b

theorem outputImageRecord_row : Answers (.outputImageRecord k 0 1 b) s (fun t =>
    t.pair.mirror.imageSkim = some k ∧ t.pair.mirror.fallback = false ∧
    t.pair.mirror.fields =
      parseFields s (b.length / 4) b (if follows s.pair.mirror.imageSkim k then s.pair.mirror.fields else [])) := by
  obtain ⟨l, hl⟩ := ringRecordPart_whole 4 k (fun s b => mirrorImage s k b false) hm hp hr hk hb
  have hroutes : ∀ i, entryAt (withParts (ringGood s) l) i = entryAt s i := fun _ => rfl
  exact .intro (congrArg Host.Outcome.next hl) ⟨rfl, rfl, parseFields_congr hroutes _ _ _⟩

theorem writesAndForcesRecord_row : Answers (.writesAndForcesRecord k 0 1 b) s (fun t =>
    t.pair.mirror.writesSkim = some k ∧ t.pair.mirror.writes = parseWrites (field b 0 4) (b.drop 4)) := by
  obtain ⟨l, hl⟩ := ringRecordPart_whole 5 k _ hm hp hr hk hb
  exact .intro (congrArg Host.Outcome.next hl) ⟨rfl, rfl⟩

end

/-- A whole output-image record over the train line, for the standby of a pair without its ring (R394). -/
theorem mirrorFallbackMessage_row {s : State} {f : Frame} (hf : f ∈ s.bridge.inbox) (hkind : msgKind f = 9)
    (hk : keepsMirror s = true) (hpair : fallbackPair s = true) (htype : field (msgBody f) 0 1 = 4)
    (hpart : field (msgBody f) 2 2 = 0) (hparts : field (msgBody f) 8 2 = 1) (hmin : 12 ≤ (msgBody f).length)
    (hmax : (msgBody f).length ≤ 2024) : Answers (.mirrorFallbackMessage f) s (fun t =>
      t.pair.mirror.imageSkim = some (field (msgBody f) 4 4) ∧ t.pair.mirror.fallback = true ∧
      t.bridge.inbox = dropOne f s.bridge.inbox) := by
  obtain ⟨v, hv⟩ : ∃ v, v = { s with bridge := { s.bridge with inbox := dropOne f s.bridge.inbox } } := ⟨_, rfl⟩
  have hkv : keepsMirror v = true := by rw [hv]; exact hk
  have hpv : fallbackPair v = true := by rw [hv]; exact hpair
  have hb : ((msgBody f).drop 12).length ≤ 2012 := by rw [List.length_drop]; omega
  obtain ⟨l, hl⟩ := mirrorPart_whole v 4 (field (msgBody f) 4 4) hb
  have hmsg : (s.bridge.inbox.contains f && msgKind f == 9) = true := by simp [hf, hkind]
  have hopen : ¬ ((msgBody f).length < 12 ∨ !fallbackPair v ∨ (4 ≠ 3 ∧ 4 ≠ 4)) := by simp [hpv, hmin]
  refine .intro (t := mirrorImage (withParts v l) (field (msgBody f) 4 4) ((msgBody f).drop 12) true) ?_ ⟨rfl, rfl, ?_⟩
  · show execMirrorFallbackMessage f s = _
    simp only [execMirrorFallbackMessage, takeMessage, hmsg, if_true, ← hv, htype, hpart, hparts, if_neg hopen,
      mirrorRecordPart, hkv, hl]
    rfl
  · rw [hv]; rfl

/-! ### Port traffic (R403) -/

theorem getLast?_lastN_append {α : Type} {k : Nat} (hk : 0 < k) (l : List α) (x : α) :
    (lastN k (l ++ [x])).getLast? = some x := by
  have hlen : ¬ (l ++ [x]).length ≤ (l ++ [x]).length - k := by simp; omega
  rw [lastN, List.getLast?_drop, if_neg hlen, List.getLast?_concat]

/-- Output buffers that arrive are staged for the OUT routes of the unit's own ports. -/
theorem trafficDown_stages (s : State) (n : Nat) (b : Bytes) : ∃ outs,
    (trafficDown s n b).skim.staging.getLast? = some (n, outs) ∧
    ∀ o ∈ outs, rUnit o.entry + 1 = s.unitNo ∧ rDir o.entry = 2 := by
  refine ⟨_, getLast?_lastN_append (by decide) _ _, fun o ho => ?_⟩
  obtain ⟨p, hp, hsome⟩ := List.mem_filterMap.mp ho
  dsimp only at hsome
  split at hsome
  case isTrue h => obtain rfl := Option.some.inj hsome; exact h
  case isFalse => cases hsome

theorem portTrafficRecord_row {s : State} {u : Nat} (k : Nat) {b : Bytes} (hm : managing s = true) (hp : s.unplaced = false)
    (hr : onRing s = true) (hu : u ∈ otherUnits s) (hc : composing s = false) (hb : b.length ≤ 2012) :
    Answers (.portTrafficRecord u k 0 1 b) s (fun t => ∃ outs,
      t.skim.staging.getLast? = some (k, outs) ∧ (∀ o ∈ outs, rUnit o.entry + 1 = s.unitNo ∧ rDir o.entry = 2)) := by
  obtain ⟨l, hl⟩ := mirrorPart_whole (ringGood s) (6 + 16 * u) k hb
  have hother : (otherUnits s).contains u = true := by simpa using hu
  have hcarries : composing (withParts (ringGood s) l) = false := hc
  refine .intro (t := trafficDown (withParts (ringGood s) l) k b) ?_ (trafficDown_stages _ k b)
  show execPortTrafficRecord u k 0 1 b s = _
  simp only [execPortTrafficRecord, hm, hp, hr, hother, partBroken_whole hb, hl, hcarries]
  rfl

/-! ### Peer segments (R377, R378) -/

theorem getElem?_range_zip {α : Type} (l : List α) (j : Nat) :
    ((List.range l.length).zip l)[j]? = l[j]?.map (fun x => (j, x)) := by
  cases hj : l[j]? with
  | none =>
    have hlen : l.length ≤ j := List.getElem?_eq_none_iff.mp hj
    exact List.getElem?_eq_none (by simpa using hlen)
  | some x =>
    obtain ⟨hlen, _⟩ := List.getElem?_eq_some_iff.mp hj
    exact List.getElem?_zip_eq_some.mpr ⟨List.getElem?_range hlen, hj⟩

/-- A change of segment k + 1 changes that segment alone. -/
theorem setSeg_get (s : State) (k : Nat) (f : PeerSeg → PeerSeg) (j : Nat) :
    (setSeg s (k + 1) f).pair.segs[j]? = if j = k then s.pair.segs[j]?.map f else s.pair.segs[j]? := by
  simp only [setSeg, List.getElem?_map, getElem?_range_zip, Option.map_map, Function.comp_def, Nat.add_right_cancel_iff]
  split
  · rfl
  · exact Option.map_id'

theorem setSeg_row {s : State} {k : Nat} {x : PeerSeg} (f : PeerSeg → PeerSeg) (hx : s.pair.segs[k]? = some x) :
    (setSeg s (k + 1) f).pair.segs[k]? = some (f x) ∧
      ∀ j, j ≠ k → (setSeg s (k + 1) f).pair.segs[j]? = s.pair.segs[j]? := by
  refine ⟨?_, fun j hj => ?_⟩
  · rw [setSeg_get, if_pos rfl, hx, Option.map_some]
  · rw [setSeg_get, if_neg hj]

/-- Settles O31: each record's effect, from the lemma above that bears its name. -/
theorem peerRecordsAreKeptAndMirrored : Obligations.PeerRecordsAreKeptAndMirrored := by
  unfold Obligations.PeerRecordsAreKeptAndMirrored
  refine ⟨?_, ?_, ?_, ?_, ?_, ?_⟩
  case refine_1 =>
    intro s u id n b hm hp hl h1 h4 hrole harr
    exact ⟨controlRecord_duplicate id n hm hp h1 h4 hl hrole harr, controlRecord_own id n hm hp h1 h4 hl hrole harr,
      controlRecord_stranger id n hm hp h1 h4 hl hrole harr, controlRecord_kept id n hm hp h1 h4 hl hrole harr⟩
  case refine_2 => exact fun s u id n b hm hp h1 h4 h => controlRecord_broken id n hm hp h1 h4 h
  case refine_3 =>
    exact fun s k b hm hp hr hk hb =>
      ⟨safetyStateRecord_row k hm hp hr hk hb, outputImageRecord_row k hm hp hr hk hb, writesAndForcesRecord_row k hm hp hr hk hb⟩
  case refine_4 =>
    exact fun s f hf hkind hk hpair htype hpart hparts hmin hmax =>
      mirrorFallbackMessage_row hf hkind hk hpair htype hpart hparts hmin hmax
  case refine_5 => exact fun s u k b hm hp hr hu hc hb => portTrafficRecord_row k hm hp hr hu hc hb
  case refine_6 =>
    exact fun s k x hx => ⟨.intro rfl (setSeg_row _ hx), fun m hp => .intro
      (congrArg Host.Outcome.next (if_neg (by simp [hp]))) (setSeg_row _ hx)⟩

end Sys2Proof.Proofs
end

section
/-! Frames that arrive at a train-line port: the header and its gate, the completed frame, the slot's close and relayed
copies (R40, R51 to R53, R56, R58 to R62, R83, R84, R120, R380), and the statement O6. -/

namespace Sys2Proof.Proofs

open Sys2Proof Sys2Proof.Machine

/-! ### Headers and slot gates (R40, R49, R83, R84) -/

theorem segUp_of_linkUp {s : State} {p : LinePort} (h : linkUp s p = true) : segUp s p = true := by simp [segUp, h]

/-- The segment-only types are no types of a gated window. -/
theorem gateWindow_segmentOnly {f : Frame} (h : segmentOnly f.ftype = true) : gateWindow f = none := by
  simp only [segmentOnly, Bool.or_eq_true, beq_iff_eq] at h
  obtain h | h := h <;> simp [gateWindow, h]

theorem segmentOnly_of_gated {s : State} {f : Frame} (h : gated s f = true) : segmentOnly f.ftype = false := by
  cases hseg : segmentOnly f.ftype
  · rfl
  · simp [gated, gateWindow_segmentOnly hseg] at h

section
variable {s : State} {p : LinePort} {hdr : Bytes} {f : Frame} {plen : Nat} (arrival : Int)
  (ha : assigned s p = true) (hl : linkUp s p = true)
include ha hl

/-- A header that passes its own checks is noted, as its type and the gate of the port tell. -/
theorem headerArrives_ungated (hparse : parseHeader hdr = some (f, plen)) (hlen : plen ≤ 2020) (htype : f.ftype ≠ 12)
    (hgate : gated s f = false) : headerArrives s p hdr arrival = setPort s p (fun q => { q with
      inFlight := some ⟨f, plen, arrival, false, false, !segmentOnly f.ftype && canForward s p, none, false⟩ }) := by
  have hshort : ¬ 2020 < plen := by omega
  cases hseg : segmentOnly f.ftype <;>
    simp [headerArrives, ha, hl, segUp_of_linkUp hl, hparse, hshort, htype, hseg, hgate]

/-- The port after a gated frame of a source that is not fenced. -/
theorem headerArrives_gated_port (hparse : parseHeader hdr = some (f, plen)) (hlen : plen ≤ 2020) (htype : f.ftype ≠ 12)
    (hgate : gated s f = true) (hfence : isFenced s p f = false) :
    (headerArrives s p hdr arrival).line.ports.get p = { s.line.ports.get p with
      status := if (gateAdmit s p f arrival).isNone then setBit (s.line.ports.get p).status 6 true
        else (s.line.ports.get p).status
      drops := if (gateAdmit s p f arrival).isNone then count32 (s.line.ports.get p).drops else (s.line.ports.get p).drops
      inFlight := some ⟨f, plen, arrival, false, (gateAdmit s p f arrival).isNone,
        (gateAdmit s p f arrival).isSome && canForward s p, gateAdmit s p f arrival, false⟩ } := by
  have hshort : ¬ 2020 < plen := by omega
  simp [headerArrives, ha, hl, segUp_of_linkUp hl, hparse, hshort, htype, segmentOnly_of_gated hgate, hgate, hfence, setPort]

/-- A header that does not parse, or names too long a payload, is refused for good with `HDR_ERR`. -/
theorem headerArrives_broken (h : ∀ f plen, parseHeader hdr = some (f, plen) → 2020 < plen) :
    ∃ fr n, headerArrives s p hdr arrival = headerFault s p 3 fr n arrival := by
  cases hparse : parseHeader hdr with
  | none => exact ⟨blankFrame, 0, by simp [headerArrives, ha, segUp_of_linkUp hl, hparse]⟩
  | some r =>
    obtain ⟨fr, n⟩ := r
    exact ⟨fr, n, by simp [headerArrives, ha, hl, segUp_of_linkUp hl, hparse, h fr n hparse]⟩

theorem headerReceived_gated (hparse : parseHeader (hdr.take 24) = some (f, plen)) (hlen : plen ≤ 2020)
    (htype : f.ftype ≠ 12) (hgate : gated s f = true) (hfence : isFenced s p f = false) :
    Answers (.frameHeaderReceived p hdr arrival) s (fun t =>
      (∀ c, gateAdmit s p f arrival = some c →
        t.line.ports.get p = { s.line.ports.get p with
          inFlight := some ⟨f, plen, arrival, false, false, canForward s p, some c, false⟩ }) ∧
      (gateAdmit s p f arrival = none →
        t.line.ports.get p = { s.line.ports.get p with
          status := setBit (s.line.ports.get p).status 6 true, drops := count32 (s.line.ports.get p).drops
          inFlight := some ⟨f, plen, arrival, false, true, false, none, false⟩ })) := by
  refine .intro rfl ?_
  rw [headerArrives_gated_port arrival ha hl hparse hlen htype hgate hfence]
  constructor
  · intro c h
    simp [h]
  · intro h
    simp [h]

theorem headerReceived_broken (h : ∀ f plen, parseHeader (hdr.take 24) = some (f, plen) → 2020 < plen) :
    Answers (.frameHeaderReceived p hdr arrival) s (fun t =>
      (t.line.ports.get p).status = setBit (s.line.ports.get p).status 3 true ∧
      (t.line.ports.get p).drops = count32 (s.line.ports.get p).drops ∧
      (∃ x, (t.line.ports.get p).inFlight = some x ∧ x.fault = true ∧ x.forwarding = false)) := by
  obtain ⟨fr, n, hdone⟩ := headerArrives_broken arrival ha hl h
  refine .intro (congrArg Host.Outcome.next hdone) ?_
  simp [headerFault, setPort]

end

/-! ### Check sequences (R50, R51) -/

theorem map_not_ne_self {b : Bytes} (h : b ≠ []) : b.map (fun x => ~~~x) ≠ b := by
  cases b with
  | nil => exact absurd rfl h
  | cons x t =>
    intro he
    have hx : (~~~x).getLsbD 0 = x.getLsbD 0 := congrArg (·.getLsbD 0) (List.cons.inj he).1
    simp at hx

theorem fcsBytes_ne_stompBytes (b : Bytes) : fcsBytes b ≠ stompBytes b := by
  have hlen : (fcsBytes b).length = 4 := by simp [fcsBytes, be]
  exact (map_not_ne_self (List.ne_nil_of_length_pos (by omega))).symm

/-! ### A completed frame's verdict (R52) -/

/-- The copy in flight has passed its header's checks and the gate so far. -/
def Unfaulted (x : InFlight) : Prop := x.fault = false ∧ x.refused = false ∧ x.cut = false

/-- The frame that the bytes of a copy in flight complete. -/
abbrev completed (x : InFlight) (b : Bytes) : Frame := { x.hdr with payload := bslice b 24 x.plen }

section
variable {s : State} {p : LinePort} {x : InFlight}

/-- The verdict by the stomp code, the length and the FCS. -/
theorem frameVerdict_unfaulted (b : Bytes) (hx : Unfaulted x) : frameVerdict b (some x) =
    if 5 ≤ b.length ∧ b.drop (b.length - 4) = stompBytes (b.take (b.length - 4)) then .stomped
    else if 2049 ≤ b.length then .oversize else if b.length < 64 then .runt
    else if b.drop (b.length - 4) ≠ fcsBytes (b.take (b.length - 4)) ∨ b.length ≠ frameLength x.plen then .fcs
    else .valid := by
  obtain ⟨hfault, href, hcut⟩ := hx
  simp only [frameVerdict, hfault, href, hcut, Bool.or_self, Bool.false_eq_true, if_false]

theorem frameVerdict_valid {b : Bytes} (hx : Unfaulted x) (hmin : 64 ≤ b.length) (hmax : b.length ≤ 2048)
    (hlen : b.length = frameLength x.plen) (hfcs : b.drop (b.length - 4) = fcsBytes (b.take (b.length - 4))) :
    frameVerdict b (some x) = .valid := by
  have hstomp := hfcs ▸ fcsBytes_ne_stompBytes (b.take (b.length - 4))
  rw [frameVerdict_unfaulted b hx, if_neg (fun h => hstomp h.2), if_neg (by omega), if_neg (by omega),
    if_neg (fun h => h.elim (· hfcs) (· hlen))]

theorem frameVerdict_fcs {b : Bytes} (hx : Unfaulted x) (hmin : 64 ≤ b.length) (hmax : b.length ≤ 2048)
    (hfcs : b.drop (b.length - 4) ≠ fcsBytes (b.take (b.length - 4)))
    (hstomp : b.drop (b.length - 4) ≠ stompBytes (b.take (b.length - 4))) : frameVerdict b (some x) = .fcs := by
  rw [frameVerdict_unfaulted b hx, if_neg (fun h => hstomp h.2), if_neg (by omega), if_neg (by omega), if_pos (.inl hfcs)]

theorem frameVerdict_runt {b : Bytes} (hx : Unfaulted x) (h : frameVerdict b (some x) = .runt) : b.length < 64 := by
  rw [frameVerdict_unfaulted b hx] at h
  refine Decidable.byContradiction (fun hlong => ?_)
  rw [if_neg hlong] at h
  repeat' split at h
  all_goals cases h

theorem frameVerdict_oversize {b : Bytes} (hx : Unfaulted x) (h : frameVerdict b (some x) = .oversize) : 2049 ≤ b.length := by
  rw [frameVerdict_unfaulted b hx] at h
  refine Decidable.byContradiction (fun hshort => ?_)
  rw [if_neg hshort] at h
  repeat' split at h
  all_goals cases h

/-! ### A completed frame at its port (R52, R53, R61) -/

/-- What leaves the other port: the copy, and the own frames that waited behind it. -/
def copyOut (s : State) (p : LinePort) (b : Bytes) (x : InFlight) (v : Verdict) : List Out :=
  if x.forwarding then [.forward (otherEnd p) (forwardedCopy b v).1 (forwardedCopy b v).2] ++ waitingOut s (otherEnd p) else []

/-- The state when the port has counted the frame and its copy has left. -/
def frameCounted (s : State) (p : LinePort) (b : Bytes) (x : InFlight) (v : Verdict) (dropped : Bool) : State :=
  let t := emit (setPort s p (countFrame b v dropped))
    (if x.forwarding then [.forward (otherEnd p) (forwardedCopy b v).1 (forwardedCopy b v).2] else [])
  if x.forwarding then releaseWaiting t (otherEnd p) else t

/-- Only the outputs and the ports have changed then. -/
theorem frameCounted_eq (s : State) (p : LinePort) (b : Bytes) (x : InFlight) (v : Verdict) (dropped : Bool) :
    ∃ ps, frameCounted s p b x v dropped =
        { s with out := s.out ++ copyOut s p b x v, line := { s.line with ports := ps } } ∧
      ps.get p = countFrame b v dropped (s.line.ports.get p) := by
  cases hfwd : x.forwarding
  case false =>
    exact ⟨s.line.ports.adj p (countFrame b v dropped), by simp [frameCounted, copyOut, hfwd, emit, setPort],
      ports_get_adj_self ..⟩
  case true =>
    have hwait : (s.line.ports.adj p (countFrame b v dropped)).get (otherEnd p) = s.line.ports.get (otherEnd p) :=
      ports_get_adj_other _ _ (otherEnd_ne p)
    refine ⟨(s.line.ports.adj p (countFrame b v dropped)).adj (otherEnd p) (fun q => { q with waiting := [] }), ?_,
      (ports_get_adj_other _ _ (otherEnd_ne p).symm).trans (ports_get_adj_self ..)⟩
    simp [frameCounted, copyOut, hfwd, emit, setPort, releaseWaiting, waitingOut, hwait]

theorem countFrame_valid_good {b : Bytes} {q : LPort} (hmin : 64 ≤ b.length)
    (hfcs : b.drop (b.length - 4) = fcsBytes (b.take (b.length - 4))) : (countFrame b .valid false q).good = count32 q.good := by
  have hlen : 5 ≤ b.length := by omega
  simp [countFrame, hlen, hfcs]

theorem countFrame_badFcs_good {b : Bytes} {v : Verdict} {q : LPort}
    (hfcs : b.drop (b.length - 4) ≠ fcsBytes (b.take (b.length - 4))) : (countFrame b v false q).good = q.good := by
  simp [countFrame, hfcs]

/-- FRAME_RECEIVED of an unfaulted copy that is no late cycle-start, by its verdict. -/
theorem frameCompletes_onTime {b : Bytes} {arrival : Int} (ha : assigned s p = true) (hl : linkUp s p = true)
    (hfl : (s.line.ports.get p).inFlight = some x) (hx : Unfaulted x) {v : Verdict} (hv : frameVerdict b (some x) = v)
    (hlate : v = .valid → lateCycleStart s p (completed x b) arrival = false) :
    frameCompletes s p b arrival =
      let f := completed x b
      let t := frameCounted s p b x v (decide (v = .valid) && mustDrop f)
      if decide (v = .valid) && !(decide (v = .valid) && mustDrop f) && !isDuplicate s f then acceptFrame t p f arrival false
      else if decide (v = .valid) then preferA t p f arrival else noteReply t f false := by
  obtain ⟨hfault, href, hcut⟩ := hx
  have hon : (decide (v = .valid) && lateCycleStart s p (completed x b) arrival) = false := by
    by_cases h : v = .valid <;> simp [h, hlate]
  simp only [frameCompletes, ha, segUp_of_linkUp hl, hfl, hv, hfault, href, hcut, Option.isNone_some, Bool.and_false, hon,
    Bool.not_true, Bool.or_self, Bool.false_eq_true, if_false, lateFault, Bool.not_false, Bool.and_true]
  rfl

/-! ### Delivery (R58 to R60, R120) -/

/-- A frame that passed every check: its key is held, and it waits for its row if its counter and port allow it. -/
theorem acceptFrame_line (s : State) (p : LinePort) (f : Frame) (arrival : Int) (fromPeer : Bool) :
    (acceptFrame s p f arrival fromPeer).line = { s.line with
      dups := if segmentOnly f.ftype then s.line.dups else s.line.dups ++ [dupKey s f]
      rx := if acceptsTopo s p f then s.line.rx ++ [⟨p, f, arrival⟩] else s.line.rx } := by
  have hnote : ∀ t : State, (noteReply t f true).line = t.line := fun t => noteReply_only t f true .line (by decide)
  have hfeed : (feed s f).line = s.line := feed_only s f .line (by decide)
  simp only [acceptFrame, hnote, apply_ite State.line, hfeed, ite_self]

/-- With no unit to feed and no split lines a frame that passed every check sends nothing. -/
theorem acceptFrame_out {s : State} (p : LinePort) (f : Frame) (arrival : Int) (fromPeer : Bool)
    (hfeed : feeding s = false) (hsplit : splitLines s = false) : (acceptFrame s p f arrival fromPeer).out = s.out := by
  have hnote : (noteReply s f true).out = s.out := noteReply_only s f true .out (by decide)
  simp only [acceptFrame, hfeed, hsplit, Bool.false_and, Bool.false_eq_true, if_false, ite_self, hnote]

theorem preferA_line (s : State) (p : LinePort) (f : Frame) (arrival : Int) :
    (preferA s p f arrival).line = { s.line with rx := if portLine p = .a then s.line.rx.map (fun y =>
      if portLine y.port = .b ∧ y.arrival = arrival ∧ sameKey (dupKey s y.frame) (dupKey s f) then ⟨p, f, arrival⟩ else y)
      else s.line.rx } := by
  unfold preferA
  split <;> rfl

section
variable {b : Bytes} {arrival : Int} (ha : assigned s p = true) (hl : linkUp s p = true)
  (hfl : (s.line.ports.get p).inFlight = some x) (hx : Unfaulted x)
include ha hl hfl hx

theorem frameReceived_delivered (hv : frameVerdict b (some x) = .valid)
    (hlate : lateCycleStart s p (completed x b) arrival = false) (hdrop : mustDrop (completed x b) = false)
    (hdup : isDuplicate s (completed x b) = false) (htopo : acceptsTopo s p (completed x b) = true)
    (hfeed : feeding s = false) (hsplit : splitLines s = false) :
    Answers (.frameReceived p b arrival) s (fun t =>
      t.line.rx = s.line.rx ++ [⟨p, completed x b, arrival⟩] ∧
      t.line.dups = (if segmentOnly (completed x b).ftype then s.line.dups else s.line.dups ++ [dupKey s (completed x b)]) ∧
      t.line.ports.get p = countFrame b .valid false (s.line.ports.get p) ∧ t.out = s.out ++ copyOut s p b x .valid) := by
  obtain ⟨ps, ht, hp⟩ := frameCounted_eq s p b x .valid false
  have hdone : frameCompletes s p b arrival =
      acceptFrame (frameCounted s p b x .valid false) p (completed x b) arrival false := by
    simp [frameCompletes_onTime ha hl hfl hx hv (fun _ => hlate), hdrop, hdup]
  refine .intro (congrArg Host.Outcome.next hdone) ?_
  rw [acceptFrame_line, acceptFrame_out p _ _ _ (by rw [ht]; exact hfeed) (by rw [ht]; exact hsplit), ht]
  exact ⟨if_pos htopo, rfl, hp, rfl⟩

/-- A frame with a fault is counted, and its copy leaves; it is not delivered. -/
theorem frameReceived_damaged {v : Verdict} (hv : frameVerdict b (some x) = v) (hbad : v ≠ .valid) :
    Answers (.frameReceived p b arrival) s (fun t => t.line.rx = s.line.rx ∧ t.line.dups = s.line.dups ∧
      t.line.ports.get p = countFrame b v false (s.line.ports.get p) ∧ t.out = s.out ++ copyOut s p b x v) := by
  obtain ⟨ps, ht, hp⟩ := frameCounted_eq s p b x v false
  have hdone : frameCompletes s p b arrival = noteReply (frameCounted s p b x v false) (completed x b) false := by
    simp [frameCompletes_onTime ha hl hfl hx hv (fun h => absurd h hbad), hbad]
  have hnote : ∀ t : State, (noteReply t (completed x b) false).line = t.line ∧
      (noteReply t (completed x b) false).out = t.out := fun t =>
    ⟨noteReply_only t _ false .line (by decide), noteReply_only t _ false .out (by decide)⟩
  refine .intro (congrArg Host.Outcome.next hdone) ?_
  rw [(hnote _).1, (hnote _).2, ht]
  exact ⟨rfl, rfl, hp, rfl⟩

/-- A duplicate is discarded; on line A it takes the place of the line B copy of its clock. -/
theorem frameReceived_duplicate (hv : frameVerdict b (some x) = .valid)
    (hlate : lateCycleStart s p (completed x b) arrival = false) (hdrop : mustDrop (completed x b) = false)
    (hdup : isDuplicate s (completed x b) = true) :
    Answers (.frameReceived p b arrival) s (fun t =>
      (portLine p = .b → t.line.rx = s.line.rx) ∧
      (portLine p = .a → t.line.rx = s.line.rx.map (fun y =>
        if portLine y.port = .b ∧ y.arrival = arrival ∧ sameKey (dupKey s y.frame) (dupKey s (completed x b))
        then ⟨p, completed x b, arrival⟩ else y)) ∧
      t.line.dups = s.line.dups ∧ t.line.ports.get p = countFrame b .valid false (s.line.ports.get p)) := by
  obtain ⟨ps, ht, hp⟩ := frameCounted_eq s p b x .valid false
  have hdone : frameCompletes s p b arrival = preferA (frameCounted s p b x .valid false) p (completed x b) arrival := by
    simp [frameCompletes_onTime ha hl hfl hx hv (fun _ => hlate), hdrop, hdup]
  refine .intro (congrArg Host.Outcome.next hdone) ?_
  rw [preferA_line, ht]
  refine ⟨fun h => if_neg ?_, fun h => if_pos h, rfl, hp⟩
  rw [h]
  decide

end
end

/-! ### A slot's close (R84) -/

/-- The commit mark leaves after what has left already. -/
theorem mem_sendMark_out {s : State} {o : Out} (h : o ∈ s.out) : o ∈ (sendMark s).out := by
  unfold sendMark
  split
  · exact List.mem_append_left _ h
  · exact h

section
variable {s : State} {p : LinePort} {x : InFlight} {c : Int} (hfl : (s.line.ports.get p).inFlight = some x)
  (hclose : x.close = some c) (hx : Unfaulted x) (hc : c ≤ s.time.now)
include hfl hclose hx hc

theorem cutAtClose_port : (cutAtClose s p).line.ports.get p = { s.line.ports.get p with
    status := setBit (s.line.ports.get p).status 6 true, drops := count32 (s.line.ports.get p).drops
    inFlight := some { x with cut := true } } := by
  obtain ⟨hfault, href, hcut⟩ := hx
  simp only [cutAtClose, hfl, hclose, hc, hfault, href, hcut, decide_true, Bool.not_true, Bool.or_self, Bool.false_eq_true,
    if_false, releaseWaiting, setPort]
  split
  · exact (ports_get_adj_other _ _ (otherEnd_ne p).symm).trans (ports_get_adj_self ..)
  · exact ports_get_adj_self ..

theorem cutAtClose_out (hfwd : x.forwarding = true) : .cut (otherEnd p) ∈ (cutAtClose s p).out := by
  obtain ⟨hfault, href, hcut⟩ := hx
  simp [cutAtClose, hfl, hclose, hc, hfault, href, hcut, hfwd, releaseWaiting]

theorem slotClose_cuts : Answers (.slotClose p) s (fun t =>
    t.line.ports.get p = { s.line.ports.get p with
      status := setBit (s.line.ports.get p).status 6 true, drops := count32 (s.line.ports.get p).drops
      inFlight := some { x with cut := true } } ∧
    (x.forwarding = true → .cut (otherEnd p) ∈ t.out)) := by
  have hline : (sendMark (cutAtClose s p)).line = (cutAtClose s p).line := sendMark_only _ .line (by decide)
  refine .intro rfl ⟨?_, fun hfwd => mem_sendMark_out (cutAtClose_out hfl hclose hx hc hfwd)⟩
  rw [hline, cutAtClose_port hfl hclose hx hc]

end

/-! ### Relayed copies (R60, R380) -/

/-- A publication or null frame of a cycle whose skim has committed. -/
def relayLate (s : State) (f : Frame) : Bool :=
  s.cyc.running && (f.ftype == 2 || f.ftype == 3) &&
    (match s.skim.retained with | [] => false | r :: _ => r.desc.skim == f.cycle || cycBefore f.cycle r.desc.skim)

theorem relayLate_of_open {s : State} {f : Frame} (h : ∀ r l, s.skim.retained = r :: l →
    r.desc.skim ≠ f.cycle ∧ cycBefore f.cycle r.desc.skim = false) : relayLate s f = false := by
  cases hret : s.skim.retained with
  | nil => simp [relayLate, hret]
  | cons r l =>
    obtain ⟨hne, hnot⟩ := h r l hret
    simp [relayLate, hret, hne, hnot]

theorem relayLate_of_committed {s : State} {f : Frame} {r : SkimRec} {l : List SkimRec} (hrun : s.cyc.running = true)
    (htype : f.ftype = 2 ∨ f.ftype = 3) (hret : s.skim.retained = r :: l)
    (h : r.desc.skim = f.cycle ∨ cycBefore f.cycle r.desc.skim = true) : relayLate s f = true := by
  simp [relayLate, hrun, htype, hret, h]

/-- A frame that leaves changes the outputs and what waits at the ports. -/
theorem transmit_eq (s : State) (ports : List LinePort) (f : Frame) :
    ∃ o ps, transmit s ports f = { s with out := o, line := { s.line with ports := ps } } ∧
      ∀ p, (ps.get p).status = (s.line.ports.get p).status := by
  refine ⟨_, _, rfl, fun p => ?_⟩
  rw [ports_get_map]
  split <;> rfl

/-- A relayed copy arrives at the same port, whatever leaves before. -/
theorem relayPort_congr (s : State) (f : Frame) (o : List Out) {ps : Ports LPort} (x : PairSt)
    (h : ∀ p, (ps.get p).status = (s.line.ports.get p).status) :
    relayPort { s with out := o, line := { s.line with ports := ps }, pair := x } f = relayPort s f := by
  have hlink : linkUp { s with out := o, line := { s.line with ports := ps }, pair := x } = linkUp s :=
    funext (fun p => congrArg (·.getLsbD 16) (h p))
  simp only [relayPort, relayEnd, upPorts, hlink]
  rfl

section
variable {s : State} {f : Frame} (hsplit : splitLines s = true) (hm : s.host.ready = true) (hring : onRing s = true)
  (hdrop : mustDrop f = false) (hdup : isDuplicate s f = false)
include hsplit hm hring hdrop hdup

/-- RELAYED_COPY_RECEIVED of a split-lines unit on the ring: the copy of an own vehicle's frame leaves first. -/
theorem relayedCopyReceived_judges : ∃ o ps, (∀ p, (ps.get p).status = (s.line.ports.get p).status) ∧
    ∀ u, u = ({ s with out := o, line := { s.line with ports := ps } } : State) →
      exec (.relayedCopyReceived f) s = .next (if relayLate s f then
          { u with pair := { u.pair with relayLate := count32 u.pair.relayLate } }
        else
          let t := { u with pair := { u.pair with fedCount := u.pair.fedCount + if isFed u then 1 else 0 } }
          acceptFrame (tookFree t 1) (relayPort t f) f t.time.now true) := by
  obtain ⟨own, hown⟩ : ∃ own, own = (attached s && f.srcPos == ownPos s && f.srcPos != 0 && f.srcUnit != s.unitNo &&
    mayOriginate s && ownPlace s f && managing s && onRing s) := ⟨_, rfl⟩
  obtain ⟨o, ps, hsent, hst⟩ : ∃ o ps, (if own then transmit s ((openPorts s).filter (fun p => lineNo (portLine p) == f.line))
      { f with flags := f.flags ||| 4 } else s) = { s with out := o, line := { s.line with ports := ps } } ∧
      ∀ p, (ps.get p).status = (s.line.ports.get p).status := by
    cases own
    · exact ⟨s.out, s.line.ports, rfl, fun _ => rfl⟩
    · exact transmit_eq s _ _
  refine ⟨o, ps, hst, fun u hu => ?_⟩
  have htakes : (!managing u || !onRing u || !(splitLines u || isFed u || !(fedUnits u).isEmpty) || mustDrop f ||
      isDuplicate u f) = false := by
    obtain ⟨hmu, hru, hsu, hdu⟩ : managing u = true ∧ onRing u = true ∧ splitLines u = true ∧ isDuplicate u f = false := by
      subst hu
      exact ⟨hm, hring, hsplit, hdup⟩
    simp [hmu, hru, hsu, hdu, hdrop]
  rw [← hu] at hsent
  show execRelayedCopyReceived f s = _
  simp only [execRelayedCopyReceived, ← hown, hsent, htakes, Bool.false_eq_true, if_false]
  rfl

/-- A copy that comes in time is delivered, and its key held. -/
theorem relayedCopyReceived_delivers (htopo : acceptsTopo s (relayPort s f) f = true)
    (hopen : ∀ r l, s.skim.retained = r :: l → r.desc.skim ≠ f.cycle ∧ cycBefore f.cycle r.desc.skim = false) :
    Answers (.relayedCopyReceived f) s (fun t => t.line.rx = s.line.rx ++ [⟨relayPort s f, f, s.time.now⟩] ∧
      t.line.dups = (if segmentOnly f.ftype then s.line.dups else s.line.dups ++ [dupKey s f])) := by
  obtain ⟨o, ps, hst, he⟩ := relayedCopyReceived_judges hsplit hm hring hdrop hdup
  refine .intro (he _ rfl) ?_
  rw [if_neg (by simp [relayLate_of_open hopen]), acceptFrame_line, relayPort_congr s f o _ hst]
  exact ⟨if_pos htopo, rfl⟩

/-- A copy of a committed cycle's publication or null frame is counted as late. -/
theorem relayedCopyReceived_late (hlate : relayLate s f = true) :
    Answers (.relayedCopyReceived f) s (fun t => t.line.rx = s.line.rx ∧ t.pair.relayLate = count32 s.pair.relayLate) := by
  obtain ⟨o, ps, -, he⟩ := relayedCopyReceived_judges hsplit hm hring hdrop hdup
  refine .intro (he _ rfl) ?_
  rw [if_pos hlate]
  exact ⟨rfl, rfl⟩

end

/-- Settles O6: each row's effect, from the lemma above that bears its name. -/
theorem arrivingFramesAreGatedCheckedAndDelivered : Obligations.ArrivingFramesAreGatedCheckedAndDelivered := by
  unfold Obligations.ArrivingFramesAreGatedCheckedAndDelivered
  refine ⟨?_, ?_, ?_, ?_, ?_, ?_, ?_, ?_, ?_, ?_⟩
  case refine_1 =>
    exact fun s p hdr arrival f plen ha hl hparse hlen htype hgate =>
      congrArg Host.Outcome.next (headerArrives_ungated arrival ha hl hparse hlen htype hgate)
  case refine_2 =>
    exact fun s p hdr arrival f plen ha hl hparse hlen htype hgate hfence =>
      headerReceived_gated arrival ha hl hparse hlen htype hgate hfence
  case refine_3 => exact fun s p hdr arrival ha hl h => headerReceived_broken arrival ha hl h
  case refine_4 =>
    rintro s p b arrival x f ha hl hfl hfault href hcut rfl hmin hmax hlen hfcs hlate hdrop hdup htopo hfeed hsplit
    have hx : Unfaulted x := ⟨hfault, href, hcut⟩
    obtain ⟨t, he, hrx, hdups, hp, hout⟩ := frameReceived_delivered ha hl hfl hx (frameVerdict_valid hx hmin hmax hlen hfcs)
      hlate hdrop hdup htopo hfeed hsplit
    refine ⟨t, he, hrx, hdups, ?_⟩
    rw [hp]
    exact ⟨countFrame_valid_good hmin hfcs, rfl, rfl, hout⟩
  case refine_5 =>
    intro s p b arrival x ha hl hfl hfault href hcut hmin hmax hfcs hstomp
    have hx : Unfaulted x := ⟨hfault, href, hcut⟩
    obtain ⟨t, he, hrx, hdups, hp, hout⟩ := frameReceived_damaged ha hl hfl hx (frameVerdict_fcs hx hmin hmax hfcs hstomp)
      (by decide)
    refine ⟨t, he, hrx, hdups, ?_⟩
    rw [hp]
    exact ⟨rfl, rfl, countFrame_badFcs_good hfcs, hout⟩
  case refine_6 =>
    intro s p b arrival x v k ha hl hfl hfault href hcut hv hcase
    have hx : Unfaulted x := ⟨hfault, href, hcut⟩
    have hbit : verdictBit v = some k := by obtain ⟨rfl, rfl⟩ | ⟨rfl, rfl⟩ | ⟨rfl, rfl⟩ := hcase <;> rfl
    have hbad : v ≠ .valid := by rintro rfl; cases hbit
    obtain ⟨t, he, hrx, -, hp, -⟩ := frameReceived_damaged ha hl hfl hx hv.symm hbad
    refine ⟨t, he, hrx, ?_, fun h => frameVerdict_runt hx (hv ▸ h), fun h => frameVerdict_oversize hx (hv ▸ h)⟩
    rw [hp]
    simp [countFrame, hbit]
  case refine_7 =>
    rintro s p b arrival x f ha hl hfl hfault href hcut rfl hv hlate hdrop hdup
    obtain ⟨t, he, hb, hA, hdups, hp⟩ := frameReceived_duplicate ha hl hfl ⟨hfault, href, hcut⟩ hv hlate hdrop hdup
    exact ⟨t, he, hb, hA, hdups, by rw [hp]; rfl⟩
  case refine_8 => exact fun s p x c hfl hclose href hcut hfault hc => slotClose_cuts hfl hclose ⟨hfault, href, hcut⟩ hc
  case refine_9 =>
    exact fun s f hsplit hm hring hdrop hdup htopo hopen =>
      relayedCopyReceived_delivers hsplit hm hring hdrop hdup htopo hopen
  case refine_10 =>
    exact fun s f r l hsplit hm hring hdrop hdup hrun htype hret h =>
      relayedCopyReceived_late hsplit hm hring hdrop hdup (relayLate_of_committed hrun htype hret h)

end Sys2Proof.Proofs
end

section
/-! The supply: its failure and warning, the hold-up bus, converter stops and restarts, the warnings of R520 (R36, R441,
R511, R512, R515 to R520), and the statement O3. -/

namespace Sys2Proof.Proofs

open Sys2Proof Sys2Proof.Machine

/-! ### A loss of the internal supply (R36, R511) -/

/-- What outlives the management side's stop stays as it was, but for a bank that a transfer was writing. -/
theorem mgmtDown_keeps (s : State) : (mgmtDown s).set.retained = s.set.retained ∧
    (mgmtDown s).recorder.staging = [] ∧ (mgmtDown s).recorder.topcoat = s.recorder.topcoat ∧
    (mgmtDown s).recorder.primer = s.recorder.primer ∧ (mgmtDown s).img.fw = dropWriting s.img.fw ∧
    (mgmtDown s).img.cf = dropWriting s.img.cf ∧ (mgmtDown s).img.key = s.img.key := by
  unfold mgmtDown
  dsimp only
  split <;> exact ⟨rfl, rfl, rfl, rfl, rfl, rfl, rfl⟩

/-- A closed relay set bypasses its ports, and they have no link. -/
theorem powerLost_bypassed (s : State) (p : LinePort) : ((powerLost s).line.ports.get p).status.getLsbD 20 = true ∧
    ((powerLost s).line.ports.get p).status.getLsbD 16 = false := by
  have hstatus : ((powerLost s).line.ports.get p).status = setBit LPort.init.status 20 true := by cases p <;> rfl
  rw [hstatus, getLsbD_setBit_self _ _ (by decide), getLsbD_setBit_of_ne _ _ (by decide)]
  exact ⟨rfl, by decide⟩

theorem powerLost_supplyLost (s : State) : SupplyLost s (powerLost s) := by
  obtain ⟨htable, hstaged, htopcoat, hprimer, hfw, hcf, hkey⟩ := mgmtDown_keeps s
  exact
    { boot := rfl, power := rfl, relays := ⟨rfl, rfl⟩, bypass := powerLost_bypassed s, outputs := powerLost_dark s
      host := rfl, config := rfl, cycle := rfl, time := rfl, skims := rfl, route := rfl, bridge := rfl, fieldBuses := rfl
      pair := rfl, sessions := rfl, staged := hstaged, numbering := rfl, table := htable, topcoat := htopcoat
      primer := hprimer, firmware := hfw, configuration := hcf, key := hkey, parked := rfl, alarms := rfl, latch := rfl }

/-- The stop of the converter that follows is no part of the loss. -/
theorem supplyLost_of_stop {s t : State} (h : SupplyLost s t) (v o : Bool) :
    SupplyLost s { t with start := { t.start with overvoltStop := v, overtempStop := o } } :=
  { h with }

section
variable {s : State} (hon : s.sleep.power ≠ .off)
include hon

theorem internalSupplyFail_loses : Answers .internalSupplyFail s (SupplyLost s) :=
  .intro (congrArg Host.Outcome.next (if_neg hon)) (powerLost_supplyLost s)

theorem converterOvervoltageStop_stops : Answers .converterOvervoltageStop s (fun t => SupplyLost s t ∧
    t.start.overvoltStop = true ∧ t.start.overtempStop = s.start.overtempStop) := by
  refine ⟨_, rfl, ?_⟩
  dsimp only
  rw [if_neg hon]
  exact ⟨supplyLost_of_stop (powerLost_supplyLost s) true _, rfl, rfl⟩

theorem converterOvertempStop_stops : Answers .converterOvertempStop s (fun t => SupplyLost s t ∧
    t.start.overtempStop = true ∧ t.start.overvoltStop = s.start.overvoltStop) := by
  refine ⟨_, rfl, ?_⟩
  dsimp only
  rw [if_neg hon]
  exact ⟨supplyLost_of_stop (powerLost_supplyLost s) _ true, rfl, rfl⟩

end

/-- CONVERTER_RESTART is a power-on reset that ends both stops (R515, R520). -/
theorem converterRestart_restarts {s : State} (u : BitVec 3) (lost : Bool) (hboot : s.start.boot = .unpowered)
    (hstop : s.start.overvoltStop = true ∨ s.start.overtempStop = true) :
    Answers (.converterRestart u lost) s (fun t =>
      t.start.boot = .powered ∧ t.start.overvoltStop = false ∧ t.start.overtempStop = false ∧ t.unitNo = unitOfCode u ∧
      t.sleep.power = .awake ∧ t.time.base = .unset) :=
  .intro (congrArg Host.Outcome.next (if_pos ⟨hboot, hstop⟩)) ⟨rfl, rfl, rfl, rfl, rfl, rfl⟩

/-! ### The recorder at the power-fail warning and after it (R441, R516) -/

/-- The recorder's closing at the warning writes no start state, empties staging and marks `POWER_FAIL`. -/
theorem recordPowerFail_closes (s : State) (supply : Nat) : (recordPowerFail s supply).start = s.start ∧
    (recordPowerFail s supply).recorder.staging = [] ∧ (recordPowerFail s supply).recorder.powerFail = some s.clk := by
  refine ⟨?_, rfl, rfl⟩
  calc (flushStaging (writeSummary (recordNow s 0x0002 17 supply []) true false)).start
    _ = (writeSummary (recordNow s 0x0002 17 supply []) true false).start := flushStaging_only _ .start (by decide)
    _ = (recordNow s 0x0002 17 supply []).start := writeSummary_only _ true false .start (by decide)
    _ = s.start := recordNow_only s _ _ _ _ .start (by decide)

theorem powerFailWarning_closes {s : State} (supply : Nat) (hon : s.sleep.power ≠ .off) :
    Answers (.powerFailWarning supply) s (fun t => t.start = { s.start with rtcSaved := rtc s } ∧
      (s.host.ready = true → t.recorder.staging = [] ∧ t.recorder.powerFail = some s.clk) ∧
      (s.host.ready = false → t.recorder = s.recorder)) := by
  cases hready : s.host.ready
  case false =>
    exact .intro (congrArg Host.Outcome.next ((if_neg hon).trans (if_neg (by simp [managing, hready]))))
      ⟨rfl, (nomatch ·), fun _ => rfl⟩
  case true =>
    obtain ⟨hstart, hstaging, hmark⟩ := recordPowerFail_closes { s with start := { s.start with rtcSaved := rtc s } } supply
    exact .intro (congrArg Host.Outcome.next ((if_neg hon).trans (if_pos hready)))
      ⟨hstart, fun _ => ⟨hstaging, hmark⟩, (nomatch ·)⟩

@[simp] theorem dropRecord_powerFail (s : State) (c : Nat) : (dropRecord s c).recorder.powerFail = s.recorder.powerFail := rfl

/-- A place given up changes no mark of `POWER_FAIL`. -/
@[simp] theorem yieldPlace_powerFail (s : State) (x : Option Staged) :
    (yieldPlace s x).recorder.powerFail = s.recorder.powerFail := by
  cases x <;> rfl

@[simp] theorem stageRecord_powerFail (s : State) (r : Record) (free : Bool) :
    (stageRecord s r free).recorder.powerFail = s.recorder.powerFail := by
  simp only [stageRecord, apply_ite State.recorder, apply_ite RecorderSt.powerFail, dropRecord_powerFail,
    yieldPlace_powerFail, ite_self]

@[simp] theorem startSnapshot_powerFail (s : State) : (startSnapshot s).recorder.powerFail = s.recorder.powerFail := by
  unfold startSnapshot
  split
  · rfl
  · split <;> rfl

@[simp] theorem fireTrigger_powerFail (s : State) (t : TriggerCfg) :
    (fireTrigger s t).recorder.powerFail = s.recorder.powerFail := by
  simp only [fireTrigger, raiseIntIf, apply_ite State.recorder, apply_ite RecorderSt.powerFail, startSnapshot_powerFail,
    ite_self]

@[simp] theorem fireTriggers_powerFail (s : State) (c : Nat) (v : Int) :
    (fireTriggers s c v).recorder.powerFail = s.recorder.powerFail := by
  unfold fireTriggers
  generalize List.filter _ _ = l
  induction l generalizing s with
  | nil => rfl
  | cons t l ih => exact (ih _).trans (fireTrigger_powerFail s t)

/-- An event that the recorder takes changes no mark of `POWER_FAIL`. -/
theorem recordEvent_powerFail (s : State) (r : Report) : (recordEvent s r).recorder.powerFail = s.recorder.powerFail := by
  unfold recordEvent
  dsimp only
  split
  · rfl
  · simp only [setCode, apply_ite State.recorder, apply_ite RecorderSt.powerFail, stageRecord_powerFail,
      fireTriggers_powerFail, ite_self]

theorem powerRestored_ends {s : State} {c : Nat} (hm : s.host.ready = true) (hmark : s.recorder.powerFail = some c) :
    Answers .powerRestored s (fun t => t.recorder.powerFail = none) := by
  refine .intro (congrArg Host.Outcome.next (if_pos hm)) ?_
  simp only [recordPowerRestored, hmark]
  exact recordEvent_powerFail _ _

/-! ### The hold-up bus (R518) -/

theorem holdBusLow_opens {s : State} (hon : s.sleep.power ≠ .off) : Answers .holdBusLow s (fun t =>
    t.safe.applied = 0 ∧ t.safe.supplyOpen = true ∧ t.start = { s.start with holdLow := true } ∧
    t.safe.state = s.safe.state ∧ t.safe.staged = s.safe.staged) :=
  .intro (congrArg Host.Outcome.next (if_neg hon)) ⟨rfl, rfl, rfl, rfl, rfl⟩

theorem safeOffReclose_holds {s : State} (h : s.safe.supplyOpen = true) : exec .safeOffReclose s = .next { s with
    safe := { s.safe with
      supplyOpen := false, hold := true, release := none, cycle := s.safe.cycle.map (fun c => { c with clean := false }) }
    start := { s.start with holdLow := false } } :=
  congrArg Host.Outcome.next (if_neg (by simp [h]))

/-! ### The warnings (R520) -/

theorem supplyWarnSet_sets {s : State} {d : Nat} (hout : s.start.supplyOutSince = some d) (hd : d + 1000000000 < s.clk) :
    exec .supplyWarnSet s = .next { s with start := { s.start with supplyWarn := true } } := by
  simp [exec, execSupplyWarnSet, hout, hd]

theorem supplyWarnClear_clears {s : State} {d : Nat} (hin : s.start.supplyInSince = some d) (hd : d + 10000000000 ≤ s.clk) :
    exec .supplyWarnClear s = .next { s with start := { s.start with supplyWarn := false } } := by
  simp [exec, execSupplyWarnClear, hin, hd]

/-- The warning's hysteresis between 67 °C and 70 °C. -/
theorem tempWarn_hysteresis (x : Int) (w : Bool) : (if 700 < x then true else if x < 670 then false else w) =
    (decide (700 < x) || (w && decide (670 ≤ x))) := by
  by_cases hhot : 700 < x
  · simp [hhot]
  · by_cases hcool : x < 670
    · simp [hhot, hcool]
    · simp [hhot, hcool, Int.not_lt.mp hcool]

theorem tempWarnChange_sets {s : State} (x : Int) (hm : s.host.ready = true) : exec (.tempWarnChange x) s = .next { s with
    start := { s.start with
      temp := x, tempWarn := decide (700 < x) || (s.start.tempWarn && decide (670 ≤ x)) } } := by
  rw [← tempWarn_hysteresis]
  exact congrArg Host.Outcome.next (if_neg (by simp [managing, hm]))

/-- Settles O3: each row's effect, from the lemma above that bears its name. -/
theorem supplyEventsTakeEffect : Obligations.SupplyEventsTakeEffect := by
  unfold Obligations.SupplyEventsTakeEffect
  refine ⟨?_, ?_, ?_, ?_, ?_, ?_, ?_, ?_, ?_, ?_, ?_⟩
  case refine_1 => exact fun s hon => internalSupplyFail_loses hon
  case refine_2 => exact fun s hon => converterOvervoltageStop_stops hon
  case refine_3 => exact fun s hon => converterOvertempStop_stops hon
  case refine_4 => exact fun s u lost hboot hstop => converterRestart_restarts u lost hboot hstop
  case refine_5 => exact fun s x hon => powerFailWarning_closes x hon
  case refine_6 => exact fun s c hm hmark => powerRestored_ends hm hmark
  case refine_7 => exact fun s hon => holdBusLow_opens hon
  case refine_8 => exact fun s h => safeOffReclose_holds h
  case refine_9 => exact fun s d hout hd => supplyWarnSet_sets hout hd
  case refine_10 => exact fun s d hin hd => supplyWarnClear_clears hin hd
  case refine_11 => exact fun s x hm => tempWarnChange_sets x hm

end Sys2Proof.Proofs
end

section
/-! The node at reset (R36, R136, R198, R339, R446, R469, R504), and the statement O47. -/

namespace Sys2Proof.Proofs

open Sys2Proof Sys2Proof.Machine

/-- No port has a link: its relay set is closed. -/
theorem linkUp_reset (p : LinePort) : linkUp State.reset p = false := by cases p <;> rfl

/-- No output is energised, whatever bars them. -/
theorem outputsSound_reset : outputsSound State.reset := ⟨fun _ => rfl, rfl⟩

theorem windowsWf_reset : windowsWf State.reset = true := rfl

/-- Settles O47: the ports, the outputs and the windows by the lemmas above, every other part as `State.reset` writes it. -/
theorem resetLeavesTheUnitUnpowered : Obligations.ResetLeavesTheUnitUnpowered :=
  ⟨rfl, rfl, rfl, rfl, linkUp_reset, rfl, rfl, rfl, rfl, rfl, rfl, rfl, rfl, rfl, rfl, outputsSound_reset, windowsWf_reset⟩

end Sys2Proof.Proofs
end

section
/-! What leaves on the line: fields of a payload that is put together from numbers, and own frames that have gone to
their ports (R6, R43, R46). -/

namespace Sys2Proof.Proofs

open Sys2Proof Sys2Proof.Machine

/-- What a row answers may be said with less. -/
theorem answers_imp {i : Instr} {s : State} {P Q : State → Prop} (h : Answers i s P) (hpq : ∀ t, P t → Q t) :
    Answers i s Q := by
  obtain ⟨t, he, hp⟩ := h
  exact ⟨t, he, hpq t hp⟩

/-! ### Numbers in byte strings (R6) -/

@[simp] theorem length_be (k v : Nat) : (be k v).length = k := by
  induction k with
  | zero => rfl
  | succ k ih => exact congrArg Nat.succ ih

/-- Reading on from `a` over the bytes of a number. -/
theorem foldl_be (k v a : Nat) :
    (be k v).foldl (fun a x => a * 256 + x.toNat) a = a * 256 ^ k + v % 256 ^ k := by
  induction k generalizing a with
  | zero => simp [be, Nat.mod_one]
  | succ k ih =>
    have hstep : v % 256 ^ (k + 1) = v % 256 ^ k + 256 ^ k * (v / 256 ^ k % 256) := by
      rw [Nat.pow_succ, Nat.mod_mul]
    have hbyte : (BitVec.ofNat 8 (v / 256 ^ k)).toNat = v / 256 ^ k % 256 := BitVec.toNat_ofNat ..
    rw [be, List.foldl_cons, ih, hbyte, hstep, Nat.pow_succ', Nat.add_mul, Nat.mul_assoc,
      Nat.mul_comm (v / 256 ^ k % 256), Nat.add_assoc, Nat.add_comm (256 ^ k * _)]

theorem beNat_be (k v : Nat) : beNat (be k v) = v % 256 ^ k := by
  simp [beNat, foldl_be]

/-- A number at its offset in a byte string reads back. -/
theorem field_be_at (pre rest : Bytes) (k v : Nat) {o : Nat} (ho : pre.length = o) :
    field (pre ++ (be k v ++ rest)) o k = v % 256 ^ k := by
  have hslice : bslice (pre ++ (be k v ++ rest)) o k = be k v := by
    rw [bslice, List.drop_left' ho, List.take_left' (length_be k v)]
  rw [field, hslice, beNat_be]

theorem claimPayload_key (key uuid counter flags : Nat) :
    field (claimPayload key uuid counter flags) 0 8 = key % 2 ^ 64 := by
  simp only [claimPayload, List.append_assoc]
  exact field_be_at [] _ 8 key rfl

theorem claimPayload_flags (key uuid counter : Nat) {flags : Nat} (h : flags < 256) :
    field (claimPayload key uuid counter flags) 28 1 = flags := by
  have hpre : (be 8 key ++ be 16 uuid ++ be 4 counter).length = 28 := by simp
  rw [claimPayload, List.append_assoc, field_be_at _ _ 1 flags hpre, Nat.pow_one, Nat.mod_eq_of_lt h]

/-! ### Own frames (R43, R46, R322) -/

section
variable {s t u : State} {ports : List LinePort} {f : Frame}

/-- A frame that has gone stays gone while nothing that left or waits is taken back. -/
theorem sent_mono (h : Sent s t ports f) (hout : ∀ o ∈ t.out, o ∈ u.out)
    (hwait : ∀ p, ∀ x ∈ (t.line.ports.get p).waiting, x ∈ (u.line.ports.get p).waiting) : Sent s u ports f :=
  ⟨fun o ho => hout o (h.1 o ho), fun p hp hb => hwait p _ (h.2 p hp hb)⟩

end

theorem transmit_waiting (s : State) (ports : List LinePort) (f : Frame) (p : LinePort) :
    ((transmit s ports f).line.ports.get p).waiting = (s.line.ports.get p).waiting ++
      (if (unmuted s ports).contains p && busyTx s p then [{ f with line := lineNo (portLine p) }] else []) := by
  simp only [transmit, ports_get_map]
  split <;> simp

theorem sent_transmit (s : State) (ports : List LinePort) (f : Frame) : Sent s (transmit s ports f) ports f := by
  refine ⟨fun o ho => List.mem_append_right _ ho, fun p hp hb => ?_⟩
  simp [transmit_waiting, hp, hb]

/-- A later transmission takes nothing back. -/
theorem sent_transmit_of_sent {s t : State} {ports : List LinePort} {f : Frame} (h : Sent s t ports f)
    (ports' : List LinePort) (g : Frame) : Sent s (transmit t ports' g) ports f := by
  refine sent_mono h (fun o ho => List.mem_append_left _ ho) (fun p x hx => ?_)
  rw [transmit_waiting]
  exact List.mem_append_left _ hx

theorem sent_originateOn (s : State) (ports : List LinePort) (ftype channel extra : Nat) (payload : Bytes) :
    Sent s (originateOn s ports ftype channel extra payload) ports (newFrame s ftype channel extra payload) :=
  sent_transmit s ports _

theorem sent_originate (s : State) (ftype channel extra : Nat) (payload : Bytes) :
    Sent s (originate s ftype channel extra payload) (openPorts s) (newFrame s ftype channel extra payload) :=
  sent_originateOn s _ ftype channel extra payload

/-- An own claim is a frame of type 0x7 with the own key and the flags it was sent with. -/
theorem sent_sendClaim (s : State) {flags : Nat} (h : flags < 256) : ∃ f : Frame, f.ftype = 7 ∧
    field f.payload 0 8 = ownKey s % 2 ^ 64 ∧ field f.payload 28 1 = flags ∧ Sent s (sendClaim s flags) (openPorts s) f :=
  ⟨_, rfl, claimPayload_key .., claimPayload_flags _ _ _ h, sent_originate ..⟩

end Sys2Proof.Proofs
end

section
/-! The set-out engine's timed rows (R98, R103 to R119): settling, claims, the census, acknowledgements, adoption and the
lapse of the lease, and the statements O11 and O56. -/

namespace Sys2Proof.Proofs

open Sys2Proof Sys2Proof.Machine

/-! ### Settling, claims and the census's requests (R98, R103 to R109) -/

section
variable {s : State}

theorem settleEnd_row (e : OpenEnds) (hst : s.set.state = .settling) (hat : attached s = true)
    (hdue : (allPorts.filter (assigned s)).all (linkUp s) = true ∨ ∃ d, s.set.firstLink = some d ∧ d + 150000000 ≤ s.clk) :
    Answers (.settleEnd e) s (fun t =>
      t.set.state = (if endUnit s e && mayClaim s then .claiming else .waiting) ∧
      (endUnit s e = true → mayClaim s = true → t.set.claimFrom = s.clk ∧ t.set.lastClaim = s.clk ∧ t.set.keys = []) ∧
      t.set.numbering = s.set.numbering) := by
  have hgo : exec (.settleEnd e) s = .next (if endUnit s e && mayClaim s then enterClaiming s else enterWaiting s) := by
    refine congrArg Host.Outcome.next (if_pos ⟨hst, hat, ?_⟩)
    obtain hall | ⟨d, hd, htime⟩ := hdue
    · exact .inl hall
    · exact .inr (by simp [hd, htime])
  refine .intro hgo ?_
  cases hclaims : (endUnit s e && mayClaim s)
  case true => exact ⟨rfl, fun _ _ => ⟨rfl, rfl, rfl⟩, rfl⟩
  case false => exact ⟨rfl, fun he hm => by simp [he, hm] at hclaims, rfl⟩

theorem claimRepeat_row (hst : s.set.state = .claiming) (hlast : s.set.lastClaim + 250000 ≤ s.clk)
    (hquiet : s.set.quietUntil ≤ s.clk) : Answers .claimRepeat s (fun t =>
      t.set.lastClaim = s.clk ∧ t.set.state = .claiming ∧ ∃ f : Frame, f.ftype = 7 ∧
        field f.payload 0 8 = ownKey s % 2 ^ 64 ∧ Sent s t (openPorts s) f) := by
  obtain ⟨f, htype, hkey, -, hsent⟩ := sent_sendClaim s (flags := 0) (by decide)
  exact .intro (congrArg Host.Outcome.next (if_pos ⟨hst, hlast, hquiet⟩)) ⟨rfl, hst, f, htype, hkey, hsent⟩

theorem claimWindowEnd_row (hst : s.set.state = .claiming) (hfrom : s.set.claimFrom + 1000000 ≤ s.clk)
    (hquiet : s.set.quietUntil ≤ s.clk) (hkeys : ∀ k ∈ s.set.keys, ownKey s < k) :
    Answers .claimWindowEnd s (fun t => t.set.state = .census ∧ t.set.runNo = 1 ∧ t.set.runOpen = true ∧
      t.set.runFrom = s.clk ∧ t.set.replies = [] ∧ t.set.prevRun = none ∧ t.set.leadKey = ownKey s) := by
  have hlowest : s.set.keys.all (fun k => decide (ownKey s < k)) = true := by simpa using hkeys
  exact .intro (congrArg Host.Outcome.next (if_pos ⟨hst, hfrom, hquiet, hlowest⟩)) ⟨rfl, rfl, rfl, rfl, rfl, rfl, rfl⟩

theorem censusRunStart_row (hst : s.set.state = .census) (hopen : s.set.runOpen = false)
    (hfrom : s.set.runFrom + 500000 ≤ s.clk) : Answers .censusRunStart s (fun t => t.set.state = .census ∧
      t.set.runNo = s.set.runNo + 1 ∧ t.set.runOpen = true ∧ t.set.replies = [] ∧ t.set.prevRun = s.set.prevRun) :=
  .intro (congrArg Host.Outcome.next (if_pos ⟨hst, by simp [hopen], hfrom⟩)) ⟨rfl, rfl, rfl, rfl, rfl⟩

theorem unitsCode_le (arr units : Nat) : unitsCode arr units ≤ 6 := by
  unfold unitsCode
  repeat' split
  all_goals decide

/-- The flags of a census reply: `CENSUS`, `ORIENT` where the request came on an end-1 port, `UNITS` (R108). -/
def censusReplyFlags (s : State) (p : LinePort) : Nat :=
  2 + (if portEnd p = 1 then 8 else 0) + 16 * unitsCode (arrangement s) (ownUnits s)

theorem censusReplyFlags_lt (s : State) (p : LinePort) : censusReplyFlags s p < 256 := by
  have hunits := unitsCode_le (arrangement s) (ownUnits s)
  unfold censusReplyFlags
  split <;> omega

theorem censusReplySend_due {p : LinePort} (hdue : s.set.replyDue = some p) : exec .censusReplySend s = .next (
    let t := sendClaim s (censusReplyFlags s p)
    { t with set := { t.set with replyDue := none } }) := by
  show execCensusReplySend s = _
  simp only [execCensusReplySend, hdue]
  rfl

theorem censusReplySend_row {p : LinePort} (hdue : s.set.replyDue = some p) : Answers .censusReplySend s (fun t =>
    t.set.replyDue = none ∧ t.set.state = s.set.state ∧ ∃ f : Frame, f.ftype = 7 ∧
      field f.payload 28 1 = 2 + (if portEnd p = 1 then 8 else 0) + 16 * unitsCode (arrangement s) (ownUnits s) ∧
      Sent s t (openPorts s) f) := by
  obtain ⟨f, htype, -, hbyte, hsent⟩ := sent_sendClaim s (censusReplyFlags_lt s p)
  exact .intro (censusReplySend_due hdue) ⟨rfl, rfl, f, htype, hbyte, hsent⟩

theorem waitingTimeout_row (hst : s.set.state = .waiting) (hfrom : s.set.waitFrom + 50000000 ≤ s.clk) :
    Answers .waitingTimeout s (fun t => t.set.state = .settling ∧ t.set.keys = [] ∧ t.set.replies = [] ∧
      t.set.firstLink = (if (upPorts s).isEmpty then none else s.set.firstLink)) :=
  .intro (congrArg Host.Outcome.next (if_pos ⟨hst, hfrom⟩)) ⟨rfl, rfl, rfl, rfl⟩

end

/-! ### The close of a census run (R109 to R113) -/

/-- The run has closed. -/
def runClosed (s : State) : State := { s with set := { s.set with runOpen := false } }

/-- Replies have come from both ends of the vehicle. -/
def repliesBothEnds (s : State) : Bool :=
  s.set.replies.any (fun r => portEnd r.port == 1) && s.set.replies.any (fun r => portEnd r.port == 2)

/-- The numbering of a census lists the own vehicle at position 1 and every other vehicle that replied; its counter follows
the retained one's but for a lapse. -/
theorem censusNumbering_lists (s : State) (ranked all : List CensusReply) :
    (censusNumbering s ranked all).entries.length = 1 + (ranked.filter (fun r => r.uuid != vehicleUuid s)).length ∧
    ((censusNumbering s ranked all).entries.head?.map (fun e => (e.uuid, e.pos))) = some (vehicleUuid s, 1) ∧
    (s.set.lapse = none →
      (censusNumbering s ranked all).topo = nextTopo ((s.set.retained.map (·.topo)).getD 0)) := by
  refine ⟨?_, rfl, fun h => ?_⟩
  · simp [censusNumbering, Nat.add_comm]
  · simp only [censusNumbering, h]
    cases s.set.retained <;> rfl

section
variable {s : State} (hst : s.set.state = .census) (hopen : s.set.runOpen = true) (hfrom : s.set.runFrom + 250000 ≤ s.clk)
include hst hopen hfrom

theorem censusRunClose_bothEnds (hboth : repliesBothEnds s = true) : Answers .censusRunClose s (fun t =>
    t.set.state = .settling ∧ t.set.runOpen = false ∧ t.set.replies = []) :=
  .intro (congrArg Host.Outcome.next ((if_pos ⟨hst, hopen, hfrom⟩).trans (if_pos hboth))) ⟨rfl, rfl, rfl⟩

/-- Where the replies came from one end, a run agrees with the run before, is the last, or is kept for the next. -/
theorem censusRunClose_oneEnd {ranked : List CensusReply} (hr : ranked = rankReplies s.set.replies)
    (hone : repliesBothEnds s = false) : exec .censusRunClose s = .next (
      if !tooClose ranked ∧ s.set.prevRun = some (runKey ranked) then
        let num := censusNumbering (runClosed s) ranked s.set.replies
        let t := sendNumbering (runClosed s) num
        { t with set := { t.set with state := .committing, issued := some num, attempts := 1, acks := [], ackFrom := s.clk } }
      else if 4 ≤ s.set.runNo then enterSettling (runClosed s)
      else { s with set := { s.set with
        runOpen := false, prevRun := if tooClose ranked then none else some (runKey ranked) } }) := by
  subst hr
  exact congrArg Host.Outcome.next ((if_pos ⟨hst, hopen, hfrom⟩).trans (if_neg (ne_true_of_eq_false hone)))

theorem censusRunClose_row {ranked : List CensusReply} (hr : ranked = rankReplies s.set.replies)
    (hone : repliesBothEnds s = false) : Answers .censusRunClose s (fun t => t.set.runOpen = false ∧
      (tooClose ranked = false → s.set.prevRun = some (runKey ranked) → t.set.state = .committing ∧ t.set.attempts = 1 ∧
        t.set.acks = [] ∧ ∃ num, t.set.issued = some num ∧
          num.entries.length = 1 + (ranked.filter (fun r => r.uuid != vehicleUuid s)).length ∧
          (num.entries.head?.map (fun e => (e.uuid, e.pos))) = some (vehicleUuid s, 1) ∧
          (s.set.lapse = none → num.topo = nextTopo ((s.set.retained.map (·.topo)).getD 0))) ∧
      (tooClose ranked = false → s.set.prevRun ≠ some (runKey ranked) → s.set.runNo < 4 →
        t.set.state = .census ∧ t.set.prevRun = some (runKey ranked)) ∧
      (tooClose ranked = true → s.set.runNo < 4 → t.set.state = .census ∧ t.set.prevRun = none) ∧
      ((tooClose ranked = true ∨ s.set.prevRun ≠ some (runKey ranked)) → 4 ≤ s.set.runNo → t.set.state = .settling)) := by
  refine .intro (censusRunClose_oneEnd hst hopen hfrom hr hone) ?_
  by_cases hagree : !tooClose ranked ∧ s.set.prevRun = some (runKey ranked)
  case pos =>
    obtain ⟨hfar, hkey⟩ := hagree
    have hfar : tooClose ranked = false := by simpa using hfar
    rw [if_pos ⟨by simp [hfar], hkey⟩]
    exact ⟨rfl, fun _ _ => ⟨rfl, rfl, rfl, _, rfl, censusNumbering_lists (runClosed s) ranked _⟩,
      fun _ h => absurd hkey h, fun h => by simp [hfar] at h, fun h => by simp [hfar, hkey] at h⟩
  case neg =>
    have hdiffer : tooClose ranked = false → s.set.prevRun ≠ some (runKey ranked) := fun hc hk => hagree ⟨by simp [hc], hk⟩
    rw [if_neg hagree]
    by_cases hlast : 4 ≤ s.set.runNo
    · rw [if_pos hlast]
      exact ⟨rfl, fun hc hk => absurd hk (hdiffer hc), fun _ _ h => by omega, fun _ h => by omega, fun _ _ => rfl⟩
    · rw [if_neg hlast]
      exact ⟨rfl, fun hc hk => absurd hk (hdiffer hc), fun hc _ _ => ⟨hst, by simp [hc]⟩, fun hc _ => ⟨hst, by simp [hc]⟩,
        fun _ h => absurd h hlast⟩

/-- Whatever a run shows, it closes, and the engine goes on in one of three states. -/
theorem censusRunClose_completes : Answers .censusRunClose s (fun t => t.set.runOpen = false ∧
    (t.set.state = .census ∨ t.set.state = .committing ∨ t.set.state = .settling)) := by
  cases hends : repliesBothEnds s
  case true =>
    refine answers_imp (censusRunClose_bothEnds hst hopen hfrom hends) ?_
    exact fun t ⟨hstate, hclosed, _⟩ => ⟨hclosed, .inr (.inr hstate)⟩
  case false =>
    refine answers_imp (censusRunClose_row hst hopen hfrom rfl hends) ?_
    rintro t ⟨hclosed, hagrees, hkept, hfailed, hlast⟩
    refine ⟨hclosed, ?_⟩
    rcases Nat.lt_or_ge s.set.runNo 4 with hmore | hfour
    case inl =>
      cases hclose : tooClose (rankReplies s.set.replies)
      case true => exact .inl (hfailed hclose hmore).1
      case false =>
        by_cases hkey : s.set.prevRun = some (runKey (rankReplies s.set.replies))
        · exact .inr (.inl (hagrees hclose hkey).1)
        · exact .inl (hkept hclose hkey hmore).1
    case inr =>
      by_cases hkey : tooClose (rankReplies s.set.replies) = false ∧
          s.set.prevRun = some (runKey (rankReplies s.set.replies))
      · exact .inr (.inl (hagrees hkey.1 hkey.2).1)
      · exact .inr (.inr (hlast (by rwa [Classical.not_and_iff_not_or_not, Bool.not_eq_false] at hkey) hfour))

end

/-! ### Acknowledgements (R114) -/

/-- The first whole millisecond at least 1 ms ahead. -/
theorem coldTs_bounds (now : Int) :
    coldTs now % 1000000 = 0 ∧ now + 1000000 ≤ coldTs now ∧ coldTs now < now + 2000000 := by
  unfold coldTs
  omega

/-- With every acknowledgement in, the lead-elect's numbering is pending for its commit cycle. -/
theorem electCommit_set {s : State} {num : Numbering} (hst : s.set.state = .committing) (hts : s.set.commitTs = none)
    (hissued : s.set.issued = some num) (hall : allAcked s = true) : (electCommit s).set = { s.set with
      pending := some num, commitTs := some (if s.set.lapse.isSome then tsOf s num.commit else coldTs s.time.now) } := by
  simp only [electCommit, hst, hts, hissued, hall]
  cases s.set.lapse <;> rfl

section
variable {s : State} {num : Numbering} (hst : s.set.state = .committing) (hts : s.set.commitTs = none)
  (hfrom : s.set.ackFrom + 250000 ≤ s.clk) (hissued : s.set.issued = some num)
include hst hts hfrom hissued

/-- COMMIT_ACK_TIMEOUT when it is due: on, again, or back to the census. -/
theorem commitAckTimeout_due : exec .commitAckTimeout s = .next (
    if allAcked s then electCommit s
    else if s.set.attempts < 3 then
      let t := sendNumbering s num
      { t with set := { t.set with attempts := s.set.attempts + 1, ackFrom := s.clk } }
    else openRun { s with set := { s.set with prevRun := none, issued := none } } 1) := by
  refine congrArg Host.Outcome.next ((if_pos ⟨hst, by simp [hts], hfrom⟩).trans ?_)
  simp only [hissued]

theorem commitAckTimeout_row : Answers .commitAckTimeout s (fun t =>
    (allAcked s = true → t.set.pending = some num ∧ t.set.commitTs.isSome = true ∧ t.set.state = .committing ∧
      (s.set.lapse = none → ∃ x : Int, t.set.commitTs = some x ∧ x % 1000000 = 0 ∧ s.time.now + 1000000 ≤ x ∧
        x < s.time.now + 2000000)) ∧
    (allAcked s = false → s.set.attempts < 3 → t.set.attempts = s.set.attempts + 1 ∧ t.set.ackFrom = s.clk ∧
      t.set.state = .committing) ∧
    (allAcked s = false → 3 ≤ s.set.attempts → t.set.state = .census ∧ t.set.runNo = 1 ∧ t.set.issued = none)) := by
  refine .intro (commitAckTimeout_due hst hts hfrom hissued) ?_
  cases hall : allAcked s
  case true =>
    rw [if_pos rfl, electCommit_set hst hts hissued hall]
    refine ⟨fun _ => ⟨rfl, rfl, hst, fun hl => ⟨coldTs s.time.now, ?_, coldTs_bounds _⟩⟩, (nomatch ·), (nomatch ·)⟩
    simp [hl]
  case false =>
    rw [if_neg Bool.false_ne_true]
    by_cases hagain : s.set.attempts < 3
    · rw [if_pos hagain]
      exact ⟨(nomatch ·), fun _ _ => ⟨rfl, rfl, hst⟩, fun _ h => by omega⟩
    · rw [if_neg hagain]
      exact ⟨(nomatch ·), fun _ h => absurd h hagain, fun _ _ => ⟨rfl, rfl, rfl⟩⟩

theorem commitAckTimeout_completes : Answers .commitAckTimeout s (fun t =>
    (t.set.state = .committing ∨ t.set.state = .census) ∧
    (t.set.commitTs.isSome = true ∨ t.set.attempts ≠ s.set.attempts ∨ t.set.state = .census)) := by
  refine answers_imp (commitAckTimeout_row hst hts hfrom hissued) ?_
  rintro t ⟨hon, hagain, hback⟩
  cases hall : allAcked s
  case true =>
    obtain ⟨-, hcommit, hstate, -⟩ := hon hall
    exact ⟨.inl hstate, .inl hcommit⟩
  case false =>
    rcases Nat.lt_or_ge s.set.attempts 3 with hmore | hthree
    · obtain ⟨hcount, -, hstate⟩ := hagain hall hmore
      exact ⟨.inl hstate, .inr (.inl (by omega))⟩
    · obtain ⟨hstate, -, -⟩ := hback hall hthree
      exact ⟨.inr hstate, .inr (.inr hstate)⟩

end

theorem commitAckSend_row {s : State} {num : Numbering} (hp : s.set.pending = some num) (hdue : s.set.ackDue = true)
    (hcycle : inCycle s = false) (hst : s.set.state ≠ .absorbing) : Answers .commitAckSend s (fun t =>
      t.set = { s.set with ackDue := false } ∧
      Sent s t (openPorts s) (newFrame s 9 0 0 (be 4 num.topo ++ be 4 num.commit ++ be 4 (crc32 num.bytes)))) := by
  have hgo : exec .commitAckSend s = .next (let t := originate s 9 0 0 (commitPayload num)
      { t with set := { t.set with ackDue := false } }) := by
    show execCommitAckSend s = _
    simp only [execCommitAckSend, hp]
    exact congrArg Host.Outcome.next (if_pos ⟨hdue, by simp [hcycle], hst⟩)
  exact .intro hgo ⟨rfl, sent_originate ..⟩

/-! ### A numbering comes into force (R98, R114, R115, R119) -/

theorem leaveGrid_eq (s : State) (n : Nat) : leaveGrid s n = s ∨ leaveGrid s n = discardWindow s n := by
  unfold leaveGrid
  split
  · exact .inr rfl
  · exact .inl rfl

/-- A grid that is left discards skims; the engine, the cycle and the right to the lease stay. -/
theorem leaveGrid_keeps (s : State) (n : Nat) (t : Numbering) : (leaveGrid s n).set = s.set ∧ (leaveGrid s n).cyc = s.cyc ∧
    takesLease (leaveGrid s n) t = takesLease s t := by
  obtain h | h := leaveGrid_eq s n <;> rw [h] <;> exact ⟨rfl, rfl, rfl⟩

/-- The engine and the cycle after a numbering has come into force: `c` is the cycle number and `ts` its Ts. -/
structure InForce (s t : State) (num : Numbering) (c : Nat) (ts : Int) : Prop where
  state : t.set.state = .committed
  numbering : t.set.numbering = some num
  retained : t.set.retained = some num
  pending : t.set.pending = none
  lapse : t.set.lapse = none
  running : t.cyc.running = true
  cycle : t.cyc.n = c
  start : t.cyc.ts = ts
  expiry : s.set.commitTs.isSome = true → t.set.expiry = cycAdd c 8
  lease : t.set.takeLease = takesLease s num

theorem retrainA_keeps (c : Bool) (s : State) :
    (if c then retrainLine s .a else s).set = s.set ∧ (if c then retrainLine s .a else s).cyc = s.cyc := by
  cases c <;> exact ⟨rfl, rfl⟩

theorem adoptNumbering_inForce (s : State) (num : Numbering) : InForce s (adoptNumbering s num) num
    (if s.set.commitTs.isSome || !s.cyc.running then num.commit else s.cyc.n) (s.set.commitTs.getD s.cyc.ts) := by
  obtain ⟨hset, hcyc, htakes⟩ := leaveGrid_keeps s num.commit num
  unfold adoptNumbering
  extract_lets g key old anew keeps takes lower n ts tsC r s1 cyc1 set1 s2 s3
  have hgset : g.set = s.set := hset
  have hgcyc : g.cyc = s.cyc := hcyc
  obtain ⟨hkset, hkcyc⟩ := retrainA_keeps (lower && r.line.rateA25) s2
  have hn : n = if s.set.commitTs.isSome || !s.cyc.running then num.commit else s.cyc.n := by
    simp only [n, hgset, hgcyc]
  have hts : ts = s.set.commitTs.getD s.cyc.ts := by
    simp only [ts, hgset, hgcyc]
    cases s.set.commitTs <;> rfl
  have hr : r.set.commitTs = s.set.commitTs := by
    rw [← hgset]
    simp only [r]
    split <;> rfl
  exact
    { state := congrArg SetoutSt.state hkset, numbering := congrArg SetoutSt.numbering hkset
      retained := congrArg SetoutSt.retained hkset, pending := congrArg SetoutSt.pending hkset
      lapse := congrArg SetoutSt.lapse hkset, running := congrArg CycleSt.running hkcyc
      cycle := (congrArg CycleSt.n hkcyc).trans hn, start := (congrArg CycleSt.ts hkcyc).trans hts
      expiry := fun h => (congrArg SetoutSt.expiry hkset).trans
        ((if_pos (by simp [hr, h])).trans (congrArg (cycAdd · 8) hn))
      lease := (congrArg SetoutSt.takeLease hkset).trans htakes }

/-- The pending numbering's cycle has come: its Ts, or in a running train its cycle or a later one, after the one in which it
was delivered. -/
def AdoptionDue (s : State) (num : Numbering) : Prop :=
  (∃ x, s.set.commitTs = some x ∧ x ≤ s.time.now) ∨ (s.set.commitTs = none ∧ s.cyc.running = true ∧
    s.set.pendingAt ≠ some s.cyc.n ∧ (inCycle s = true ∨ s.set.lapse.isSome = true ∨ s.set.state = .absorbing) ∧
    (num.commit = s.cyc.n ∨ cycBefore num.commit s.cyc.n = true))

theorem commitCycleAdoption_due {s : State} {num : Numbering} (hp : s.set.pending = some num) (hdue : AdoptionDue s num) :
    exec .commitCycleAdoption s = .next (adoptNumbering s num) := by
  show execCommitCycleAdoption s = _
  simp only [execCommitCycleAdoption, hp]
  refine congrArg Host.Outcome.next (if_pos ?_)
  obtain ⟨x, hx, htime⟩ | ⟨hts, hrun, hat, hwhere, hcycle⟩ := hdue
  · simp [hx, htime]
  · simp only [hts, hrun, bne_iff_ne.mpr hat, Bool.true_and, Bool.and_eq_true, Bool.or_eq_true, decide_eq_true_eq,
      beq_iff_eq, or_assoc]
    exact ⟨hwhere, hcycle⟩

theorem commitCycleAdoption_row {s : State} {num : Numbering} (hp : s.set.pending = some num) (hdue : AdoptionDue s num) :
    Answers .commitCycleAdoption s (fun t => t.set.state = .committed ∧ t.set.numbering = some num ∧
      t.set.retained = some num ∧ t.set.pending = none ∧ t.set.lapse = none ∧ t.cyc.running = true ∧
      (∀ x, s.set.commitTs = some x → t.cyc.n = num.commit ∧ t.cyc.ts = x ∧ t.set.expiry = cycAdd num.commit 8) ∧
      (s.set.commitTs = none → t.cyc.n = s.cyc.n ∧ t.cyc.ts = s.cyc.ts) ∧ t.set.takeLease = takesLease s num) := by
  have h := adoptNumbering_inForce s num
  refine .intro (commitCycleAdoption_due hp hdue)
    ⟨h.state, h.numbering, h.retained, h.pending, h.lapse, h.running, fun x hx => ?_, fun hts => ?_, h.lease⟩
  · rw [h.cycle, h.start, h.expiry (by simp [hx])]
    simp [hx]
  · obtain ⟨x, hx, -⟩ | ⟨-, hrun, -⟩ := hdue
    · simp [hts] at hx
    · rw [h.cycle, h.start]
      simp [hts, hrun]

/-! ### The lapse of the lease (R98, R116) -/

/-- A lapse set-out begins: the grid goes on in holdover, and the unit claims or waits. -/
theorem lapseSetout_begins (s : State) (e : OpenEnds) : (lapseSetout s e).set.lapse = some (topoCommitted s) ∧
    (lapseSetout s e).time.base = .holdover ∧
    ((lapseSetout s e).set.state = .claiming ∨ (lapseSetout s e).set.state = .waiting) ∧
    (lapseSetout s e).cyc.stopped = true ∧ (lapseSetout s e).cyc.joined = false := by
  unfold lapseSetout
  extract_lets s1 s2
  split
  · exact ⟨rfl, rfl, .inl rfl, rfl, rfl⟩
  · exact ⟨rfl, rfl, .inr rfl, rfl, rfl⟩

/-- Retraining to a lower merged rate touches the line alone. -/
theorem retrainQuiet_keeps (s : State) : (retrainQuiet s).set = s.set ∧ (retrainQuiet s).cyc = s.cyc := by
  unfold retrainQuiet
  repeat' split
  all_goals exact ⟨rfl, rfl⟩

theorem leaseLapse_row {s : State} (e : OpenEnds) (hst : s.set.state = .committed) (hlease : s.set.lease = false)
    (hrun : s.cyc.running = true) (hexp : s.set.expiry = gridN s ∨ cycBefore s.set.expiry (gridN s) = true) :
    Answers (.leaseLapse e) s (fun t =>
      (s.set.expiry = cycAdd s.set.lastStart 8 → t.set.lapse = some (topoCommitted s) ∧ t.time.base = .holdover ∧
        (t.set.state = .claiming ∨ t.set.state = .waiting) ∧ t.cyc.stopped = true ∧ t.cyc.joined = false) ∧
      (s.set.expiry ≠ cycAdd s.set.lastStart 8 → t.set.state = .absorbing ∧ t.set.absorbFrom = gridN s ∧
        t.cyc.joined = false)) := by
  have hgo : exec (.leaseLapse e) s = .next (if s.set.expiry = cycAdd s.set.lastStart 8 then lapseSetout s e
      else retrainQuiet { s with
        set := { s.set with state := .absorbing, absorbFrom := gridN s }
        cyc := { s.cyc with joined := false, joinFrom := none } }) :=
    congrArg Host.Outcome.next (if_pos ⟨hst, by simp [hlease], hrun, hexp⟩)
  refine .intro hgo ?_
  by_cases htimeout : s.set.expiry = cycAdd s.set.lastStart 8
  · rw [if_pos htimeout]
    exact ⟨fun _ => lapseSetout_begins s e, fun h => absurd htimeout h⟩
  · rw [if_neg htimeout, (retrainQuiet_keeps _).1, (retrainQuiet_keeps _).2]
    exact ⟨fun h => absurd h htimeout, fun _ => ⟨rfl, rfl, rfl⟩⟩

theorem absorbingTimeout_row {s : State} (e : OpenEnds) (hst : s.set.state = .absorbing)
    (htime : 16 ≤ cycDiff (gridN s) s.set.absorbFrom) : Answers (.absorbingTimeout e) s (fun t =>
      t.set.lapse = some (topoCommitted s) ∧ (t.set.state = .claiming ∨ t.set.state = .waiting) ∧
      t.time.base = .holdover ∧ t.cyc.joined = false) := by
  obtain ⟨hlapse, hbase, hstate, -, hjoined⟩ := lapseSetout_begins s e
  exact .intro (congrArg Host.Outcome.next (if_pos ⟨hst, htime⟩)) ⟨hlapse, hstate, hbase, hjoined⟩

/-- Settles O11: each row's effect, from the lemma above that bears its name. -/
theorem setOutStatesFollowTheTable : Obligations.SetOutStatesFollowTheTable := by
  unfold Obligations.SetOutStatesFollowTheTable
  refine ⟨?_, ?_, ?_, ?_, ?_, ?_, ?_, ?_, ?_, ?_, ?_, ?_, ?_⟩
  case refine_1 => exact fun s e hst hat hdue => settleEnd_row e hst hat hdue
  case refine_2 => exact fun s hst hlast hquiet => claimRepeat_row hst hlast hquiet
  case refine_3 => exact fun s hst hfrom hquiet hkeys => claimWindowEnd_row hst hfrom hquiet hkeys
  case refine_4 => exact fun s hst hopen hfrom => censusRunStart_row hst hopen hfrom
  case refine_5 => exact fun s p hdue => censusReplySend_row hdue
  case refine_6 => exact fun s ranked hst hopen hfrom hr hone => censusRunClose_row hst hopen hfrom hr hone
  case refine_7 =>
    rintro s hst hopen hfrom ⟨r1, hr1, he1⟩ ⟨r2, hr2, he2⟩
    have hboth : repliesBothEnds s = true := Bool.and_eq_true_iff.mpr
      ⟨List.any_eq_true.mpr ⟨r1, hr1, by simp [he1]⟩, List.any_eq_true.mpr ⟨r2, hr2, by simp [he2]⟩⟩
    exact censusRunClose_bothEnds hst hopen hfrom hboth
  case refine_8 => exact fun s num hst hts hfrom hissued => commitAckTimeout_row hst hts hfrom hissued
  case refine_9 =>
    intro s num hp hdue hcycle hst
    refine answers_imp (commitAckSend_row hp hdue hcycle hst) ?_
    rintro t ⟨hset, hsent⟩
    exact ⟨by rw [hset], by rw [hset]; exact hp, hsent⟩
  case refine_10 => exact fun s num hp hdue => commitCycleAdoption_row hp hdue
  case refine_11 => exact fun s e hst hlease hrun hexp => leaseLapse_row e hst hlease hrun hexp
  case refine_12 => exact fun s e hst htime => absorbingTimeout_row e hst htime
  case refine_13 => exact fun s hst hfrom => waitingTimeout_row hst hfrom

/-- Settles O56: each row of O11 completes, and its effect names the state that follows. -/
theorem dueSetOutRowsComplete : Obligations.DueSetOutRowsComplete := by
  unfold Obligations.DueSetOutRowsComplete
  refine ⟨?_, ?_, ?_, ?_, ?_, ?_, ?_, ?_, ?_⟩
  case refine_1 =>
    intro s e hst hat hdue
    refine answers_imp (settleEnd_row e hst hat (.inr hdue)) ?_
    rintro t ⟨hstate, -, -⟩
    rw [hstate]
    split
    · exact .inl rfl
    · exact .inr rfl
  case refine_2 =>
    intro s hst hquiet
    refine ⟨fun hlast => answers_imp (claimRepeat_row hst hlast hquiet) ?_,
      fun hfrom hkeys => answers_imp (claimWindowEnd_row hst hfrom hquiet hkeys) ?_⟩
    · exact fun t ⟨hnow, hstate, _⟩ => ⟨hstate, hnow⟩
    · exact fun t ⟨hstate, _, hopen, _⟩ => ⟨hstate, hopen⟩
  case refine_3 => exact fun s hst hfrom => answers_imp (waitingTimeout_row hst hfrom) (fun t ⟨hstate, _⟩ => hstate)
  case refine_4 =>
    exact fun s p hdue => answers_imp (censusReplySend_row hdue) (fun t ⟨hsent, hstate, _⟩ => ⟨hsent, hstate⟩)
  case refine_5 =>
    intro s hst
    refine ⟨fun hopen hfrom => censusRunClose_completes hst hopen hfrom,
      fun hopen hfrom => answers_imp (censusRunStart_row hst hopen hfrom) ?_⟩
    exact fun t ⟨hstate, _, hrun, _⟩ => ⟨hrun, hstate⟩
  case refine_6 => exact fun s num hst hts hfrom hissued => commitAckTimeout_completes hst hts hfrom hissued
  case refine_7 =>
    intro s num hp
    refine ⟨fun hdue hcycle hst => answers_imp (commitAckSend_row hp hdue hcycle hst) ?_,
      fun x hx htime => answers_imp (commitCycleAdoption_row hp (.inl ⟨x, hx, htime⟩)) ?_⟩
    · rintro t ⟨hset, -⟩
      rw [hset]
      exact ⟨rfl, rfl⟩
    · exact fun t ⟨hstate, hnum, _⟩ => ⟨hstate, hnum⟩
  case refine_8 =>
    intro s e hst hlease hrun hexp
    refine answers_imp (leaseLapse_row e hst hlease hrun hexp) ?_
    rintro t ⟨htimeout, hyield⟩
    by_cases h : s.set.expiry = cycAdd s.set.lastStart 8
    · obtain ⟨-, -, hclaims | hwaits, -⟩ := htimeout h
      · exact .inl hclaims
      · exact .inr (.inl hwaits)
    · exact .inr (.inr (hyield h).1)
  case refine_9 =>
    exact fun s e hst htime => answers_imp (absorbingTimeout_row e hst htime) (fun t ⟨_, hstate, _⟩ => hstate)

end Sys2Proof.Proofs
end

section
/-! Triggers at the lead, missing acknowledgements, line B's retraining and the boundary of two trains (R99, R105, R119,
R121, R124, R126 to R131), and the statement O13. -/

namespace Sys2Proof.Proofs

open Sys2Proof Sys2Proof.Machine

/-! ### Triggers and missing acknowledgements (R99, R119, R121) -/

theorem vehicleAbsent_triggers {s : State} {pos : Nat} (hlease : s.set.lease = true)
    (hsilent : 4 ≤ Tab.getD s.set.silent pos 0) (hnew : Trigger.absent pos ∉ s.set.triggers) :
    exec (.vehicleAbsent pos) s = .next { s with set := { s.set with triggers := s.set.triggers ++ [.absent pos] } } :=
  congrArg Host.Outcome.next (if_pos ⟨hlease, hsilent, by simpa using hnew⟩)

/-- The records of vehicles that have not acknowledged carry one code. -/
theorem code_of_mem_noAckReports {s : State} {num : Numbering} {acks : List (Nat × Nat)} {e : EventIn}
    (h : e ∈ noAckReports s num acks) : e.code = 0x0205 := by
  obtain ⟨x, -, rfl⟩ := List.mem_map.mp h
  rfl

/-- Every present vehicle but the own one whose slot no acknowledgement names has a record. -/
theorem mem_noAckReports {s : State} {num : Numbering} {acks : List (Nat × Nat)} {e : Entry} (he : e ∈ num.entries)
    (hpresent : e.absent = false) (hother : e.uuid ≠ vehicleUuid s) (hack : ∀ a ∈ acks, a.1 ≠ e.slot + 1) :
    (⟨0x0205, 5, e.slot, []⟩ : EventIn) ∈ noAckReports s num acks := by
  have hsilent : acks.any (fun a => a.1 == e.slot + 1) = false := by simpa using hack
  exact List.mem_map.mpr ⟨e, List.mem_filter.mpr ⟨he, by simp [hpresent, hother, hsilent]⟩, rfl⟩

theorem setoutNoAck_row {s : State} {num : Numbering} (hissued : s.set.issued = some num) (hlease : s.set.lease = true)
    (hover : repeatsOver s num = true) : Answers .setoutNoAck s (fun t => t.set = { s.set with
        issued := none, repeatTo := none, olds := s.set.olds.filter (fun x => !repeatsOver s x.1) } ∧
      (∀ e ∈ num.entries, e.absent = false → e.uuid ≠ vehicleUuid s → (∀ a ∈ s.set.acks, a.1 ≠ e.slot + 1) →
        stamp s ⟨0x0205, 5, e.slot, []⟩ ∈ t.recorder.reports) ∧
      (∀ r ∈ t.recorder.reports, r ∈ s.recorder.reports ∨ r.ev.code = 0x0205)) := by
  obtain ⟨old, hold⟩ : ∃ l, l = (s.set.olds.filter (fun x => repeatsOver s x.1)).flatMap (fun x => noAckReports s x.1 x.2) :=
    ⟨_, rfl⟩
  have hgo : exec .setoutNoAck s = .next { s with
      set := { s.set with
        issued := none, repeatTo := none, olds := s.set.olds.filter (fun x => !repeatsOver s x.1) }
      recorder := { s.recorder with reports :=
        s.recorder.reports ++ old.map (stamp s) ++ (noAckReports s num s.set.acks).map (stamp s) } } := by
    subst hold
    show execSetoutNoAck s = _
    simp only [execSetoutNoAck, hissued]
    exact congrArg Host.Outcome.next ((if_neg (by simp [hlease])).trans (if_pos hover))
  refine .intro hgo ⟨rfl, fun e he hpresent hother hack => ?_, fun r hr => ?_⟩
  · exact List.mem_append_right _ (List.mem_map_of_mem (mem_noAckReports he hpresent hother hack))
  · rcases List.mem_append.mp hr with hr | hnew
    · rcases List.mem_append.mp hr with hkept | hr
      · exact .inl hkept
      · obtain ⟨ev, hev, rfl⟩ := List.mem_map.mp hr
        obtain ⟨x, -, hx⟩ := List.mem_flatMap.mp (hold ▸ hev)
        exact .inr (code_of_mem_noAckReports hx)
    · obtain ⟨ev, hev, rfl⟩ := List.mem_map.mp hnew
      exact .inr (code_of_mem_noAckReports hev)

/-! ### The cab key (R99, R105, R124) -/

/-- The top bit of the claim key is clear exactly with an active cab. -/
theorem ownKey_topBit (s : State) : ownKey s / 2 ^ 63 = if s.set.cabActive then 0 else 1 := by
  unfold ownKey
  cases s.set.cabActive <;> simp only [b2n, Bool.not_false, Bool.not_true, Bool.false_eq_true, if_true, if_false] <;> omega

theorem cabActiveChange_row {s : State} {b : Bool} (h : b ≠ s.set.cabActive) : Answers (.cabActiveChange b) s (fun t =>
    t.set.cabActive = b ∧ (s.set.state = .committed → t.set.claimDue = true) ∧
    (s.set.lease = true → t.set.leadKey = ownKey t) ∧ (s.set.lease = false → t.set.leadKey = s.set.leadKey) ∧
    (s.set.lease = true → s.set.state = .committed → t.set.triggers = s.set.triggers ++ [.cab (ownPos s) (ownKey t)]) ∧
    ownKey t / 2 ^ 63 = (if b then 0 else 1)) := by
  refine .intro (congrArg Host.Outcome.next (if_neg (Ne.symm h))) ⟨rfl, fun hst => ?_, fun hlease => if_pos hlease,
    fun hlease => if_neg (by simp [hlease]), fun hlease hst => ?_, ownKey_topBit _⟩
  · simp [hst]
  · simp only [hst, hlease]
    rfl

/-! ### Line B's retraining (R126) -/

/-- A line that retrains: its links go down but for those that ran at the lower rate already; the other line stays. -/
theorem retrainB_ports (s : State) (p : LinePort) :
    (portLine p = .b → linkUp (retrainLine s .b) p = decide ((s.line.ports.get p).offRate = some false)) ∧
    (portLine p = .a → (retrainLine s .b).line.ports.get p = s.line.ports.get p) := by
  simp only [linkUp, retrainLine, ports_get_map]
  refine ⟨fun hb => ?_, fun ha => ?_⟩
  · rw [if_neg (by simp [hb])]
    by_cases hoff : (s.line.ports.get p).offRate = some false
    · rw [if_pos hoff, decide_eq_true hoff, getLsbD_setBit_of_ne _ _ (by decide), getLsbD_setBit_self _ _ (by decide)]
    · rw [if_neg hoff, decide_eq_false hoff, getLsbD_setBit_of_ne _ _ (by decide),
        getLsbD_setBit_of_ne _ _ (by decide), getLsbD_setBit_self _ _ (by decide)]
  · rw [if_pos (by simp [ha])]

/-- The vehicles between the outermost show line A clear, the own one as it last sent (R126). -/
def InnerShowClear (s : State) : Prop :=
  ∀ e ∈ presentEntries s, e.pos ≠ 1 → (∀ num, s.set.numbering = some num → e.pos ≠ num.entries.length) →
    (if e.pos = ownPos s then s.set.ownSup ≠ [] ∧ bitOf (field s.set.ownSup 0 4) 7 = false
      else ∃ x ∈ s.set.sups, x.1 / 16 = e.pos) ∧
    ∀ x ∈ s.set.sups, x.1 / 16 = e.pos → bitOf (field x.2.2 0 4) 7 = false

theorem lineBRetrain_due {s : State} {d : Int} (hd : s.set.retrainB = some d) (htime : d ≤ s.cyc.ts)
    (hclear : InnerShowClear s) : exec .lineBRetrain s = .next (
      let t := retrainLine s .b
      keepBoundaries { t with set := { t.set with retrainB := none } }) := by
  show execLineBRetrain s = _
  simp only [execLineBRetrain, hd]
  refine congrArg Host.Outcome.next (if_pos ⟨htime, List.all_eq_true.mpr fun e he => ?_⟩)
  obtain ⟨hmem, hbetween⟩ := List.mem_filter.mp he
  obtain ⟨hfirst, hlast⟩ := Bool.and_eq_true_iff.mp hbetween
  obtain ⟨hshown, hall⟩ := hclear e hmem (by simpa using hfirst) (fun num hnum => by simpa [hnum] using hlast)
  refine Bool.and_eq_true_iff.mpr ⟨?_, ?_⟩
  · split at hshown
    next hown =>
      rw [if_pos hown]
      simpa using hshown
    next hother =>
      rw [if_neg hother]
      simpa using hshown
  · refine List.all_eq_true.mpr fun x hx => ?_
    obtain ⟨hx, hpos⟩ := List.mem_filter.mp hx
    simp [hall x hx (by simpa using hpos)]

theorem lineBRetrain_row {s : State} {d : Int} (hd : s.set.retrainB = some d) (htime : d ≤ s.cyc.ts)
    (hclear : InnerShowClear s) : Answers .lineBRetrain s (fun t =>
      t.set.retrainB = none ∧ t.line.rateB25 = false ∧ t.line.rateA25 = s.line.rateA25 ∧
      (∀ p, portLine p = .b → linkUp t p = decide ((s.line.ports.get p).offRate = some false)) ∧
      t.line.ports.get .a1 = s.line.ports.get .a1 ∧ t.line.ports.get .a2 = s.line.ports.get .a2) :=
  .intro (lineBRetrain_due hd htime hclear) ⟨rfl, rfl, rfl, fun p => (retrainB_ports s p).1,
    (retrainB_ports s .a1).2 rfl, (retrainB_ports s .a2).2 rfl⟩

/-! ### The boundary of two trains (R127 to R131) -/

/-- The claim with which a boundary unit describes its train (R107, R128). -/
def mergeClaim (s : State) (num : Numbering) : Frame :=
  newFrame s 7 0 0 (claimPayload s.set.leadKey (((num.entries.find? (fun e => e.pos == 1)).map (·.uuid)).getD 0) num.topo 1)

theorem exchangeFrames_sends {s : State} {num : Numbering} (p : LinePort) (hnum : s.set.numbering = some num)
    (hm : managing s = true) : Sent s (exchangeFrames s p) [p] (mergeClaim s num) := by
  simp only [exchangeFrames, hm, hnum, if_true]
  exact sent_transmit_of_sent (sent_originateOn ..) ..

/-- The exchange touches what leaves on the line alone. -/
theorem exchangeFrames_keeps (s : State) (p : LinePort) : (exchangeFrames s p).set = s.set ∧
    (exchangeFrames s p).recorder = s.recorder ∧ ∀ e, stamp (exchangeFrames s p) e = stamp s e := by
  unfold exchangeFrames
  split <;> exact ⟨rfl, rfl, fun _ => rfl⟩

/-- The port is a boundary, and the other train is as its claim and table describe it. -/
def farNoted (s : State) (p : LinePort) (claim table : Bytes) : State :=
  { s with set := { s.set with
    boundary := s.set.boundary.set p true, far := some (farOf claim (some (parseNumbering table))) } }

section
variable {s : State} {p : LinePort} {claim table : Bytes} {num : Numbering} {key counter : Nat}
  (hnum : s.set.numbering = some num) (hst : s.set.state = .committed) (hm : managing s = true) (hp : p ∈ upPorts s)
  (hclaim : claim.length = 32) (htable : numberingOk table = true) (hkey : key = field claim 0 8)
  (hcounter : counter = field claim 24 4)
include hnum hst hm hp hclaim htable hkey hcounter

/-- BOUNDARY_LINK_UP at a committed managing unit: the exchange, and the decision by the keys (R128, R129, R131). -/
theorem boundaryLinkUp_decides : exec (.boundaryLinkUp p claim table) s = .next (
    let t := exchangeFrames (farNoted s p claim table) p
    let total := presentCount num + presentCount (parseNumbering table)
    if key = s.set.leadKey ∧ counter = num.topo then
      { t with set := { t.set with boundary := t.set.boundary.set p false, far := none } }
    else if key = s.set.leadKey then report { t with set := { t.set with far := none } } 0x0203 5 0 []
    else if 64 < total then report { t with set := { t.set with refused := true, farTableDue := true } } 0x0204 5 total []
    else
      let wins := decide (s.set.leadKey < key)
      { t with set := { t.set with
          survivor := wins, mergeClaimDue := true, farTableDue := wins
          yielding := t.set.yielding || (!wins && s.set.lease) } }) := by
  subst hkey hcounter
  obtain ⟨-, hup⟩ := List.mem_filter.mp hp
  obtain ⟨ha, hl⟩ := Bool.and_eq_true_iff.mp hup
  show execBoundaryLinkUp p claim table s = _
  unfold execBoundaryLinkUp
  split
  case h_1 hnone => simp [hnum] at hnone
  case h_2 t ht =>
    obtain rfl : num = t := Option.some.inj (hnum.symm.trans ht)
    refine congrArg Host.Outcome.next (if_neg ?_)
    simp [hst, hm, ha, segUp_of_linkUp hl, hclaim, htable]

theorem boundaryLinkUp_row : Answers (.boundaryLinkUp p claim table) s (fun t =>
    Sent s t [p] (newFrame s 7 0 0 (claimPayload s.set.leadKey
      (((num.entries.find? (fun e => e.pos == 1)).map (·.uuid)).getD 0) num.topo 1)) ∧
    (key = s.set.leadKey → counter = num.topo → t.set.boundary.get p = false ∧ t.set.far = none) ∧
    (key = s.set.leadKey → counter ≠ num.topo → t.recorder.reports = s.recorder.reports ++ [stamp s ⟨0x0203, 5, 0, []⟩] ∧
      t.set.yielding = s.set.yielding) ∧
    (key ≠ s.set.leadKey → 64 < presentCount num + presentCount (parseNumbering table) →
      t.set.refused = true ∧ t.set.farTableDue = true ∧ t.recorder.reports = s.recorder.reports ++
        [stamp s ⟨0x0204, 5, (presentCount num + presentCount (parseNumbering table) : Nat), []⟩]) ∧
    (key ≠ s.set.leadKey → presentCount num + presentCount (parseNumbering table) ≤ 64 →
      t.set.boundary.get p = true ∧ t.set.survivor = decide (s.set.leadKey < key) ∧ t.set.mergeClaimDue = true ∧
      t.set.farTableDue = decide (s.set.leadKey < key) ∧
      t.set.yielding = (s.set.yielding || (decide (key < s.set.leadKey) && s.set.lease)) ∧
      ∃ x, t.set.far = some x ∧ x.key = key ∧ x.counter = counter ∧ x.table = some (parseNumbering table))) := by
  refine .intro (boundaryLinkUp_decides hnum hst hm hp hclaim htable hkey hcounter) ?_
  have hsent : Sent s _ [p] (mergeClaim s num) := exchangeFrames_sends (s := farNoted s p claim table) p hnum hm
  obtain ⟨hset, hrecorder, hstamp⟩ := exchangeFrames_keeps (farNoted s p claim table) p
  generalize exchangeFrames (farNoted s p claim table) p = t at hsent hset hrecorder hstamp
  have hreports : ∀ e, t.recorder.reports ++ [stamp t e] = s.recorder.reports ++ [stamp s e] := fun e => by
    rw [hrecorder, hstamp]
    rfl
  have hyielding : t.set.yielding = s.set.yielding := by
    rw [hset]
    rfl
  dsimp only
  by_cases hsame : key = s.set.leadKey
  case pos =>
    have hnever : ∀ {P : Prop}, key ≠ s.set.leadKey → P := fun h => absurd hsame h
    by_cases hloop : counter = num.topo
    · rw [if_pos ⟨hsame, hloop⟩]
      exact ⟨hsent, fun _ _ => ⟨ports_get_set_self .., rfl⟩, fun _ h => absurd hloop h, hnever, hnever⟩
    · rw [if_neg (fun h => hloop h.2), if_pos hsame]
      exact ⟨hsent, fun _ h => absurd h hloop, fun _ _ => ⟨hreports _, hyielding⟩, hnever, hnever⟩
  case neg =>
    have hnever : ∀ {P : Prop}, key = s.set.leadKey → P := fun h => absurd h hsame
    rw [if_neg (fun h => hsame h.1), if_neg hsame]
    by_cases hlarge : 64 < presentCount num + presentCount (parseNumbering table)
    · rw [if_pos hlarge]
      exact ⟨hsent, hnever, hnever, fun _ _ => ⟨rfl, rfl, hreports _⟩, fun _ h => by omega⟩
    · rw [if_neg hlarge]
      have hloses : (!decide (s.set.leadKey < key)) = decide (key < s.set.leadKey) := by
        rw [← decide_not]
        exact decide_eq_decide.mpr (by omega)
      refine ⟨hsent, hnever, hnever, fun _ h => absurd h hlarge, fun _ _ => ⟨?_, rfl, rfl, rfl, ?_, ?_⟩⟩
      · exact (congrArg (fun x : SetoutSt => x.boundary.get p) hset).trans (ports_get_set_self ..)
      · rw [← hloses, ← hyielding]
      · exact ⟨_, congrArg SetoutSt.far hset, hkey.symm, hcounter.symm, rfl⟩

end

/-- A boundary that both sides show ready opens each port whose two sides run at the merged rate (R129, R131). -/
theorem boundaryOpen_row {s : State} {p : LinePort} (hb : s.set.boundary.get p = true) (hst : s.set.state = .committed)
    (hsurv : s.set.survivor = true) (hfar : s.set.far.isSome = true) (href : s.set.refused = false)
    (hl : linkUp s p = true) (hclear : probeCommitted s p = false) : Answers .boundaryOpen s (fun t =>
      (∀ q, s.set.boundary.get q = true → segRate25 s q = mergedRate25 s → lineRate s q = mergedRate25 s →
        t.set.boundary.get q = false ∧ t.set.merging.get q = true) ∧
      (∀ q, segRate25 s q ≠ mergedRate25 s ∨ lineRate s q ≠ mergedRate25 s →
        t.set.boundary.get q = s.set.boundary.get q ∧ t.set.merging.get q = s.set.merging.get q) ∧
      t.set.numbering = s.set.numbering ∧ t.set.survivor = true) := by
  have hready : allPorts.any (fun p => s.set.boundary.get p && linkUp s p && !probeCommitted s p) = true :=
    List.any_eq_true.mpr ⟨p, by cases p <;> decide, by simp [hb, hl, hclear]⟩
  refine .intro (congrArg Host.Outcome.next (if_pos (by simp [hst, hsurv, hfar, href, hready]))) ?_
  refine ⟨fun q hq hseg hline => ?_, fun q hq => ?_, rfl, hsurv⟩
  · simp [hq, hseg, hline]
  · have hoff : (segRate25 s q == mergedRate25 s && lineRate s q == mergedRate25 s) = false :=
      Bool.and_eq_false_iff.mpr (hq.imp beq_false_of_ne beq_false_of_ne)
    simp only [ports_get_map, hoff, Bool.not_false, Bool.and_true, Bool.and_false, Bool.or_false, and_self]

/-- Settles O13: each row's effect, from the lemma above that bears its name. -/
theorem renumberingTriggersAndCouplingFollow : Obligations.RenumberingTriggersAndCouplingFollow := by
  unfold Obligations.RenumberingTriggersAndCouplingFollow
  refine ⟨?_, ?_, ?_, ?_, ?_, ?_⟩
  case refine_1 => exact fun s pos hlease hsilent hnew => vehicleAbsent_triggers hlease hsilent hnew
  case refine_2 => exact fun s num hissued hlease hover => setoutNoAck_row hissued hlease hover
  case refine_3 => exact fun s b h => cabActiveChange_row h
  case refine_4 => exact fun s d hd htime hclear => lineBRetrain_row hd htime hclear
  case refine_5 =>
    exact fun s p claim table num key counter hnum hst hm hp hclaim htable hkey hcounter =>
      boundaryLinkUp_row hnum hst hm hp hclaim htable hkey hcounter
  case refine_6 =>
    exact fun s p hb hst hsurv hfar href hl hclear => boundaryOpen_row hb hst hsurv hfar href hl hclear

end Sys2Proof.Proofs
end

section
/-! Requests of the set-out and power families (R99, R111, R118, R129, R411, R412, R420, R422, R423, R458, R548): what each
opcode's action does, and the statement O24. -/

namespace Sys2Proof.Proofs

open Sys2Proof Sys2Proof.Machine Sys2Proof.Laws

section
variable {s v : State} {p : Packet}

/-- What a reply's row leaves in the power and wake state, the reply leaves too. -/
theorem answers_sleep_of_replies {i : Instr} {st : Nat} {d : Bytes} {P : SleepSt → Prop}
    (h : Replies i s p st d (fun u => P u.sleep)) : Answers i s (fun t => P t.sleep) := by
  obtain ⟨u, he, hp⟩ := h
  have hsleep : (reply u p st d).sleep = u.sleep := reply_only u p st d .sleep (by decide)
  exact Answers.intro he (hsleep ▸ hp)

/-! ### Tables and numberings (R99, R111, R118, R129) -/

theorem setoutTable_answers {t : Numbering} (hv : servedNow s 0x0501 p v) (hnum : v.set.numbering = some t) :
    Replies (.opSetoutTable p) s p stDone (be 4 t.topo ++ be 1 (b2n t.split + 2 * b2n t.headless + 4 * b2n t.merge) ++
      be 1 t.entries.length ++ be 1 (b2n t.rate25) ++ t.entries.flatMap Entry.bytes) (fun u => u = v) := by
  refine Replies.intro hv rfl ?_ rfl
  simp only [hnum]
  rfl

theorem setoutStatus_answers (hv : servedNow s 0x0502 p v) (hpending : v.set.pending = none) :
    Replies (.opSetoutStatus p) s p stDone (be 1 (setoutCode v) ++ zeros 11 ++ be 8 v.set.leadKey ++
      allPorts.flatMap (fun q => be 1 (b2n (v.set.probes.get q).isSome) ++ zeros 3 ++ fit ((v.set.probes.get q).getD []) 28))
      (fun u => u = v) := by
  refine Replies.intro hv rfl ?_ rfl
  have hzeros : be 1 (setoutCode v) ++ zeros 3 ++ be 4 0 ++ be 4 0 = be 1 (setoutCode v) ++ zeros 11 := by
    simp only [List.append_assoc]
    rfl
  simp only [hpending, Option.elim_none, hzeros]
  rfl

theorem renumber_triggers (hv : servedNow s 0x0503 p v) (hlease : v.set.lease = true) (hmode : pkNum p tMode 0 = 0) :
    Replies (.opRenumber p) s p stDone (be 4 (nonZeroCycle (cycAdd (issueCycle v) 2))) (fun u =>
      u.set = { v.set with triggers := v.set.triggers ++ [.command] } ∧ u.cyc = v.cyc) :=
  Replies.intro (u := { v with set := { v.set with triggers := v.set.triggers ++ [.command] } }) hv rfl
    ((if_neg (by omega)).trans ((if_neg (by simp [hlease])).trans (if_neg (by omega)))) ⟨rfl, rfl⟩

/-- A commanded cold start (log entry 69). -/
theorem renumber_coldStarts (hv : servedNow s 0x0503 p v) (hlease : v.set.lease = true) (hmode : pkNum p tMode 0 = 1) :
    Replies (.opRenumber p) s p stDone (be 4 0) (fun u =>
      u.set.state = .settling ∧ u.set.numbering = none ∧ u.set.lease = false ∧ u.set.retained = v.set.retained ∧
      u.cyc.stopped = true ∧ u.cyc.running = v.cyc.running ∧ u.cyc.n = v.cyc.n) :=
  Replies.intro (u := coldStart v) hv rfl
    ((if_neg (by omega)).trans ((if_neg (by simp [hlease])).trans (if_pos hmode))) ⟨rfl, rfl, rfl, rfl, rfl, rfl, rfl⟩

theorem renumber_notLead (hv : servedNow s 0x0503 p v) (hlease : v.set.lease = false) (hmode : pkNum p tMode 0 ≤ 1) :
    Replies (.opRenumber p) s p stNotLead [] (fun u => u = v) :=
  Replies.intro hv rfl ((if_neg (by omega)).trans (if_pos (by simp [hlease]))) rfl

section
variable {b : Bytes} (hv : servedNow s 0x0504 p v) (hb : pkItem p tData = some b)
  (hok : numberingOk (b.take (b.length - 8)) = true) (hlease : v.set.lease = true)
include hv hb hok hlease

theorem farNumbering_refused (htrain : ownTrain v p.sess = true)
    (hlarge : 64 < (presentEntries v).length + presentCount (parseNumbering (b.take (b.length - 8)))) :
    Replies (.opFarNumbering p) s p stDone [] (fun u => u.set = v.set ∧ u = report v 0x0204 5
      ((presentEntries v).length + presentCount (parseNumbering (b.take (b.length - 8))) : Nat) []) := by
  refine Replies.intro (u := report v 0x0204 5 _ []) hv rfl ?_ ⟨rfl, rfl⟩
  simp only [hb, Option.getD_some, hok, hlease, htrain, hlarge, Bool.not_true, Bool.false_eq_true, if_false, if_true]

theorem farNumbering_keeps (htrain : ownTrain v p.sess = true)
    (hfits : (presentEntries v).length + presentCount (parseNumbering (b.take (b.length - 8))) ≤ 64) :
    Replies (.opFarNumbering p) s p stDone [] (fun u =>
      u.set.absorbed = some (parseNumbering (b.take (b.length - 8)), field b (b.length - 8) 8) ∧
      u.set.numbering = v.set.numbering) := by
  refine Replies.intro (u := { v with set := { v.set with
    absorbed := some (parseNumbering (b.take (b.length - 8)), field b (b.length - 8) 8) } }) hv rfl ?_ ⟨rfl, rfl⟩
  simp only [hb, Option.getD_some, hok, hlease, htrain, Nat.not_lt.mpr hfits, Bool.not_true, Bool.false_eq_true, if_false]

theorem farNumbering_elsewhere (htrain : ownTrain v p.sess = false) :
    Replies (.opFarNumbering p) s p stNotApplicable [] (fun u => u = v) := by
  refine Replies.intro hv rfl ?_ rfl
  simp only [hb, Option.getD_some, hok, hlease, htrain, Bool.not_true, Bool.not_false, Bool.false_eq_true, if_false, if_true]

end

/-! ### Power (R412, R420, R458, R548) -/

theorem powerStatus_answers (hv : servedNow s 0x0601 p v) : Replies (.opPowerStatus p) s p stDone
    (be 4 (wakeStatus v) ++ be 4 (reasonBitmap v) ++ be 1 (sleepVote v) ++ be 4 v.sleep.announced) (fun u =>
      u = { v with sleep := { v.sleep with falseWakes := 0 } }) :=
  Replies.intro hv rfl rfl rfl

theorem stayAwake_holds {d : Nat} (hv : servedNow s 0x0602 p v) (hd : d = pkNum p tDuration 0) (hmax : d ≤ 86400) :
    Replies (.opStayAwake p) s p stDone (be 8 (time64 (v.time.now + d * 1000000000))) (fun u =>
      u.sleep.commandHold = if d = 0 then none else some (v.clk + d * 1000000000)) := by
  subst hd
  exact Replies.intro hv rfl (if_neg (Nat.not_lt.mpr hmax)) rfl

theorem stayAwake_tooLong {d : Nat} (hv : servedNow s 0x0602 p v) (hd : d = pkNum p tDuration 0) (hlong : 86400 < d) :
    Replies (.opStayAwake p) s p stBadParameter [] (fun u => u = v) := by
  subst hd
  exact Replies.intro hv rfl (if_pos hlong) rfl

theorem wakeAll_drives (hv : servedNow s 0x0603 p v) (hlease : v.set.lease = true) :
    Replies (.opWakeAll p) s p stDone [] (fun u => u = drivePulses v none none) :=
  Replies.intro hv rfl (if_neg (by simp [hlease])) rfl

theorem wakeAll_notLead (hv : servedNow s 0x0603 p v) (hlease : v.set.lease = false) :
    Replies (.opWakeAll p) s p stNotLead [] (fun u => u = v) :=
  Replies.intro hv rfl (if_pos (by simp [hlease])) rfl

/-! ### Alarms (R411, R458; the bytes of an entry are free values: log entry 71) -/

theorem alarmRead_answers (hv : servedNow s 0x0604 p v) (hi : pkNum p tIndex 0 ≤ 7) :
    Replies (.opAlarmRead p) s p stDone (match Tab.get? v.sleep.alarms (pkNum p tIndex 0) with
      | none => [] | some a => Config.alarmBytes a) (fun u => u = v) :=
  Replies.intro hv rfl (if_neg (by omega)) rfl

theorem alarmWrite_erases (hv : servedNow s 0x0605 p v) (hi : pkNum p tIndex 0 ≤ 7) (hb : pkItem p tData = some []) :
    Replies (.opAlarmWrite p) s p stDone [] (fun u =>
      u.sleep = { v.sleep with alarms := Tab.erase v.sleep.alarms (pkNum p tIndex 0) }) := by
  refine Replies.intro (u := { v with sleep := { v.sleep with alarms := Tab.erase v.sleep.alarms (pkNum p tIndex 0) } })
    hv rfl ?_ rfl
  simp only [hb]
  exact (if_neg (by omega)).trans (if_pos rfl)

/-- The alarms after a write of bytes that are not empty: an entry with a hold from 60 s to 24 h is taken. -/
def alarmsWritten (l : Tab AlarmEntry) (i : Nat) (b : Bytes) : Tab AlarmEntry :=
  match Config.parseAlarm b with
  | none => l
  | some a => if 60000 ≤ a.hold ∧ a.hold ≤ 86400000 then Tab.set l i a else l

theorem alarmWrite_writes {b : Bytes} (hv : servedNow s 0x0605 p v) (hi : pkNum p tIndex 0 ≤ 7)
    (hb : pkItem p tData = some b) (hne : b ≠ []) : Answers (.opAlarmWrite p) s (fun t =>
      t.sleep.alarms = alarmsWritten v.sleep.alarms (pkNum p tIndex 0) b) := by
  have hopen : ¬ 7 < pkNum p tIndex 0 := by omega
  have hfull : b.isEmpty = false := List.isEmpty_eq_false_iff.mpr hne
  have hrow : ∃ st, Replies (.opAlarmWrite p) s p st [] (fun u =>
      u.sleep.alarms = alarmsWritten v.sleep.alarms (pkNum p tIndex 0) b) := by
    cases ha : Config.parseAlarm b with
    | none =>
      refine ⟨stBadParameter, Replies.intro (u := v) hv rfl ?_ (by simp [alarmsWritten, ha])⟩
      simp only [hb, Option.getD_some, hopen, hfull, ha, Bool.false_eq_true, if_false]
    | some a =>
      by_cases hhold : 60000 ≤ a.hold ∧ a.hold ≤ 86400000
      · refine ⟨stDone, Replies.intro
          (u := { v with sleep := { v.sleep with alarms := Tab.set v.sleep.alarms (pkNum p tIndex 0) a } })
          hv rfl ?_ (by simp [alarmsWritten, ha, hhold])⟩
        simp only [hb, Option.getD_some, hopen, hfull, ha, if_pos hhold, Bool.false_eq_true, if_false]
      · refine ⟨stBadParameter, Replies.intro (u := v) hv rfl ?_ (by simp only [alarmsWritten, ha, if_neg hhold])⟩
        simp only [hb, Option.getD_some, hopen, hfull, ha, if_neg hhold, Bool.false_eq_true, if_false]
  obtain ⟨st, h⟩ := hrow
  exact answers_sleep_of_replies (P := fun x => x.alarms = alarmsWritten v.sleep.alarms (pkNum p tIndex 0) b) h

/-! ### Holders (R422, R458) -/

theorem holdersRead_answers (hv : servedNow s 0x0606 p v) (hlease : v.set.lease = true) :
    Replies (.opHoldersRead p) s p stDone ((List.range 64).flatMap (fun k => (List.range 4).flatMap (fun u =>
      (List.range 9).flatMap (fun b => be 4 (Tab.getD v.sleep.holders (holderKey k (u + 1) b) 0))))) (fun u => u = v) :=
  Replies.intro hv rfl (if_neg (by simp [hlease])) rfl

theorem holdersClear_clears (hv : servedNow s 0x0607 p v) (hlease : v.set.lease = true) :
    Replies (.opHoldersClear p) s p stDone [] (fun u => u.sleep = { v.sleep with holders := [] }) :=
  Replies.intro (u := { v with sleep := { v.sleep with holders := [] } }) hv rfl (if_neg (by simp [hlease])) rfl

theorem holdersClear_notLead (hv : servedNow s 0x0607 p v) (hlease : v.set.lease = false) :
    Replies (.opHoldersClear p) s p stNotLead [] (fun u => u = v) :=
  Replies.intro hv rfl (if_pos (by simp [hlease])) rfl

end

/-- Settles O24: each opcode's reply and the state behind it, from the lemma above that bears its name. -/
theorem setoutAndPowerRequestsAreServed : Obligations.SetoutAndPowerRequestsAreServed := by
  unfold Obligations.SetoutAndPowerRequestsAreServed
  refine ⟨?_, ?_, ?_, ?_, ?_, ?_, ?_, ?_, ?_, ?_, ?_⟩
  case refine_1 => exact fun s v p t hv hnum => setoutTable_answers hv hnum
  case refine_2 => exact fun s v p hv hpending => setoutStatus_answers hv hpending
  case refine_3 => exact fun s v p hv => ⟨renumber_triggers hv, renumber_coldStarts hv, renumber_notLead hv⟩
  case refine_4 =>
    exact fun s v p b hv hb hok =>
      ⟨farNumbering_refused hv hb hok, farNumbering_keeps hv hb hok, farNumbering_elsewhere hv hb hok⟩
  case refine_5 => exact fun s v p hv => powerStatus_answers hv
  case refine_6 => exact fun s v p d hv hd => ⟨stayAwake_holds hv hd, stayAwake_tooLong hv hd⟩
  case refine_7 => exact fun s v p hv => ⟨wakeAll_drives hv, wakeAll_notLead hv⟩
  case refine_8 => exact fun s v p hv hi => alarmRead_answers hv hi
  case refine_9 =>
    exact fun s v p b hv hi hb => ⟨fun h => alarmWrite_erases hv hi (h ▸ hb), alarmWrite_writes hv hi hb⟩
  case refine_10 => exact fun s v p hv hlease => holdersRead_answers hv hlease
  case refine_11 => exact fun s v p hv => ⟨holdersClear_clears hv, holdersClear_notLead hv⟩

end Sys2Proof.Proofs
end

section
/-! One step: the command in front, or a tick (R142, R144, R455; log entries 1 and 5), and the statements O45 and O46. -/

namespace Sys2Proof.Proofs

open Sys2Proof Sys2Proof.Machine

theorem step_command (c : Instr) (rest : List Instr) (s : State) :
    step { s with pending := c :: rest } = exec c { s with pending := rest } := rfl

theorem step_tick {s : State} (h : s.pending = []) : step s = .next (tick s) := by
  simp only [step, h]

/-- The whole ns by which train time runs on in a tick. -/
def tickNs (s : State) : Nat := (s.time.frac + 2 * (rateOf s).toNat) / rateUnit

theorem tick_now (s : State) : (tick s).time.now = (time64 (s.time.now + tickNs s) : Int) := rfl

/-- What train time does not run on by stays as its remainder. -/
theorem tickNs_frac (s : State) :
    tickNs s * rateUnit + (tick s).time.frac = s.time.frac + 2 * (rateOf s).toNat :=
  Nat.div_add_mod' ..

theorem tick_frac_lt (s : State) : (tick s).time.frac < rateUnit := Nat.mod_lt _ (by decide)

/-- A tick moves the always-on count and train time alone. -/
theorem tick_frame (s : State) : tick s =
    { s with clk := (tick s).clk, time := { s.time with now := (tick s).time.now, frac := (tick s).time.frac } } := rfl

/-- Settles O45: the queue's front is the command that the step runs. -/
theorem stepRunsTheCommandInFront : Obligations.StepRunsTheCommandInFront := step_command

/-- Settles O46: the tick's new instant, its remainder and its frame. -/
theorem anEmptyQueueLetsTimePass : Obligations.AnEmptyQueueLetsTimePass := fun s h =>
  ⟨tick s, tickNs s, step_tick h, rfl, tick_now s, tickNs_frac s, tick_frac_lt s, tick_frame s⟩

end Sys2Proof.Proofs
end

section
/-! The delay exchange and the train-time entries of the event table (R142 to R146, R161, R162, R164; log entries 45 and
150), and the statements O9 and O57. -/

namespace Sys2Proof.Proofs

open Sys2Proof Sys2Proof.Machine

/-- The state in which a delivery row acts: its frame no longer waits. -/
def taken (s : State) (p : LinePort) (f : Frame) : State :=
  { s with line := { s.line with rx := takeRx p f s.line.rx } }

theorem deliver_waiting {s : State} {p : LinePort} {f : Frame} (act : State → State) (h : waits s p f = true) :
    deliver s p f act = act (taken s p f) := if_pos h

/-! ### Requests (R142, R143) -/

/-- The frame that answers a delay request (R142). -/
def delayReply (s : State) (p : LinePort) (f : Frame) (t2 t3 : Int) : Frame :=
  newFrame s 11 (portNo p) 0 (delayAnswer p f t2 t3)

/-- An answer is marked as one (R55). -/
theorem delayReply_kind (s : State) (p : LinePort) (f : Frame) (t2 t3 : Int) :
    field (delayReply s p f t2 t3).payload 0 1 = 1 := by
  simp only [delayReply, newFrame, delayAnswer, List.append_assoc]
  exact field_be_at [] _ 1 1 rfl

section
variable {s : State} {p : LinePort} {f : Frame} (t2 t3 : Int) (hw : waits s p f = true)
include hw

theorem delayRequest_answered (htype : f.ftype = 11) (hkind : field f.payload 0 1 = 0) (hmay : mayAnswer s p f = true) :
    exec (.delayRequestDelivered p f t2 t3) s =
      .next (sendDelay (taken s p f) p (delayAnswer p f t2 t3) (fromVehicle s f)) := by
  show Host.Outcome.next _ = _
  rw [deliver_waiting _ hw]
  exact congrArg Host.Outcome.next (if_pos ⟨htype, hkind, hmay⟩)

theorem delayRequest_unanswered (hmay : mayAnswer s p f = false) :
    exec (.delayRequestDelivered p f t2 t3) s = .next (taken s p f) := by
  have hnot : ¬ mayAnswer (taken s p f) p f = true := Bool.eq_false_iff.mp hmay
  show Host.Outcome.next _ = _
  rw [deliver_waiting _ hw]
  exact congrArg Host.Outcome.next (if_neg (fun h => hnot h.2.2))

/-- The neighbour's request is answered on the port it came by. -/
theorem delayRequest_neighbour (htype : f.ftype = 11) (hkind : field f.payload 0 1 = 0) (hv : fromVehicle s f = false)
    (hlink : linkUp s p = true) (hfree : segmentFree s p = true) (hquiet : s.set.quietUntil ≤ s.clk) :
    Answers (.delayRequestDelivered p f t2 t3) s (fun t => Sent s t [p] (delayReply s p f t2 t3) ∧
      t.out = s.out ++ lineCopies (idleTx s (unmuted s [p])) (delayReply s p f t2 t3) ∧
      t.line.rx = takeRx p f s.line.rx) := by
  have hmay : mayAnswer s p f = true := by simp [mayAnswer, hv, hlink, hfree, hquiet]
  refine .intro (t := originateOn (taken s p f) [p] 11 (portNo p) 0 (delayAnswer p f t2 t3)) ?_
    ⟨sent_originateOn .., rfl, rfl⟩
  rw [delayRequest_answered t2 t3 hw htype hkind hmay, hv]
  rfl

/-- A request from the own vehicle is answered over the peer ring, by the composing unit (R143; log entry 150). -/
theorem delayRequest_vehicle (htype : f.ftype = 11) (hkind : field f.payload 0 1 = 0) (hv : fromVehicle s f = true)
    (hring : onRing s = true) (hc : composing s = true) :
    Answers (.delayRequestDelivered p f t2 t3) s (fun t =>
      t.out = s.out ++ [.peer ringFrameChannel (frameBytes (delayReply s p f t2 t3))] ∧
      t.line.ports = s.line.ports ∧ t.line.rx = takeRx p f s.line.rx) := by
  have hmay : mayAnswer s p f = true := by simp [mayAnswer, hv, hc]
  refine .intro (t := emit (taken s p f) [.peer ringFrameChannel (frameBytes (delayReply s p f t2 t3))]) ?_
    ⟨rfl, rfl, rfl⟩
  rw [delayRequest_answered t2 t3 hw htype hkind hmay, hv]
  exact congrArg Host.Outcome.next (if_pos hring)

end

/-! ### Corrections (R144 to R146) -/

/-- Train time steps instead of being steered: an unset timebase, or an offset above 3/4 of the guard (R144). -/
def stepsBy (s : State) (theta : Int) : Bool := decide (s.time.base = .unset) || aboveGuard s theta 3 4

/-- The state behind the step that a correction may take. -/
def stepped (s : State) (theta : Int) (why : StepCause) : State :=
  if stepsBy s theta then stepTime (dropPassed s (-theta)) (-theta) why else s

theorem stepped_exchanges (s : State) (theta : Int) (why : StepCause) :
    (stepped s theta why).time.exchanges = s.time.exchanges := by
  unfold stepped
  split <;> rfl

/-- A follower's correction: behind its step, the offset is noted and the phase set. -/
theorem correct_time {s : State} (theta : Int) (why : StepCause) (hl : s.set.lease = false) : ∃ f b,
    (correct s theta why).time = { (stepped s theta why).time with
      f := f, phase := if stepsBy s theta then 0 else theta, offset := theta.natAbs, offsetAt := s.clk,
      corrected := true, uncorrected := false, base := b } := by
  simp only [correct, hl, Bool.false_eq_true, if_false]
  split
  case isTrue => exact ⟨_, .tracking, rfl⟩
  case isFalse => exact ⟨_, (stepped s theta why).time.base, rfl⟩

theorem correct_exchanges (s : State) (theta : Int) (why : StepCause) :
    (correct s theta why).time.exchanges = s.time.exchanges := by
  cases hl : s.set.lease with
  | true => simp only [correct, hl, if_true]
  | false =>
    obtain ⟨f, b, h⟩ := correct_time theta why hl
    rw [h]
    exact stepped_exchanges s theta why

theorem correctFromStart_exchanges (s : State) : (correctFromStart s).time.exchanges = s.time.exchanges := by
  unfold correctFromStart
  split
  case h_1 => rfl
  case h_2 =>
    split
    case isTrue => rfl
    case isFalse =>
      dsimp only
      split
      case h_1 => exact correct_exchanges ..
      case h_2 =>
        split
        · exact correct_exchanges ..
        · rfl

/-! ### Responses and their timeout (R142, R145) -/

/-- The exchange of a port is over, with what was kept of it: delta and L, or nothing. -/
def exchangeEnded (s : State) (p : LinePort) (r : Option (Int × Int)) : State :=
  { s with time := { s.time with
      exchanges := s.time.exchanges.set p ⟨none, (s.time.exchanges.get p).sentAt, r.map (·.1), r.map (·.2)⟩ } }

theorem exchangeEnded_port (s : State) (p : LinePort) (r : Option (Int × Int)) :
    (exchangeEnded s p r).time.exchanges.get p =
      ⟨none, (s.time.exchanges.get p).sentAt, r.map (·.1), r.map (·.2)⟩ :=
  ports_get_set_self ..

section
variable {s : State} {p : LinePort} {f : Frame} {t1 t4 : Int} {r : Option (Int × Int)}
  (hw : waits s p f = true) (htype : f.ftype = 11) (hfed : isFed s = false ∨ ringRef s = some f.srcUnit)
  (hkind : field f.payload 0 1 = 1) (hsent : (s.time.exchanges.get p).t1 = some t1)
  (ht1 : timeField f.payload 4 = t1)
  (hr : exchangeResult t1 (timeField f.payload 12) (timeField f.payload 20) t4 = r)
include hw htype hfed hkind hsent ht1 hr

/-- The response that answers the pending request ends its exchange; one kept on the time reference port corrects, unless
the cycle has had its correction. -/
theorem delayResponse_ends : Answers (.delayResponseDelivered p f t4) s (fun t =>
    t.time.exchanges.get p = ⟨none, (s.time.exchanges.get p).sentAt, r.map (·.1), r.map (·.2)⟩ ∧
    t.line.rx = takeRx p f s.line.rx ∧
    ∀ delta delay, r = some (delta, delay) → timeRef s = some p → s.time.corrected = false →
      t = correct (exchangeEnded (taken s p f) p r) (-delta) .correction) := by
  have hmine : ¬ (f.ftype ≠ 11 ∨ field f.payload 0 1 ≠ 1 ∨ timeField f.payload 4 ≠ t1 ∨
      (isFed (taken s p f) ∧ ringRef (taken s p f) ≠ some f.srcUnit)) := by
    have href : ¬ (isFed s ∧ ringRef s ≠ some f.srcUnit) := by
      rcases hfed with h | h <;> simp [h]
    exact fun h => h.elim (absurd htype) (·.elim (absurd hkind) (·.elim (absurd ht1) href))
  have hport := exchangeEnded_port (taken s p f) p r
  refine ⟨_, rfl, ?_⟩
  rw [deliver_waiting _ hw]
  simp only [show ((taken s p f).time.exchanges.get p).t1 = some t1 from hsent, if_neg hmine, hr]
  split
  case h_1 =>
    refine ⟨?_, ?_, ?_⟩
    · rw [correct_exchanges]
      exact hport
    · exact congrArg LineSt.rx (correct_only _ _ _ .line (by decide))
    · rintro _ _ ⟨⟩ - -
      rfl
  case h_2 =>
    refine ⟨?_, ?_, nofun⟩
    · rw [correctFromStart_exchanges]
      exact hport
    · exact congrArg LineSt.rx (correctFromStart_only _ .line (by decide))
  case h_3 hother _ =>
    refine ⟨hport, rfl, fun delta delay hk href hfirst => (hother delta delay hk ?_).elim⟩
    have href' : timeRef (taken s p f) = some p := href
    have hfirst' : (taken s p f).time.corrected = false := hfirst
    simp [href', hfirst']

end

theorem exchangeResult_kept {t1 t2 t3 t4 : Int} (hlate : t4 - t1 ≤ 20000) (h0 : 0 ≤ ((t2 - t1) + (t4 - t3)) / 2)
    (h600 : ((t2 - t1) + (t4 - t3)) / 2 ≤ 600) (hturn : t3 - t2 ≤ 10000) :
    exchangeResult t1 t2 t3 t4 = some (((t2 - t1) - (t4 - t3)) / 2, ((t2 - t1) + (t4 - t3)) / 2) :=
  if_neg (by omega)

theorem exchangeResult_discarded {t1 t2 t3 t4 : Int} (h : 20000 < t4 - t1 ∨ ((t2 - t1) + (t4 - t3)) / 2 < 0 ∨
    600 < ((t2 - t1) + (t4 - t3)) / 2 ∨ 10000 < t3 - t2) : exchangeResult t1 t2 t3 t4 = none :=
  if_pos h

theorem aboveGuard_neg (s : State) (theta : Int) (a b : Nat) : aboveGuard s (-theta) a b = aboveGuard s theta a b := by
  simp only [aboveGuard, Int.natAbs_neg]

/-- A follower's correction by `-delta`: the size is noted, and a small one only steers (R144). -/
theorem correct_follower {s : State} (delta : Int) (why : StepCause) (hl : s.set.lease = false) :
    (correct s (-delta) why).time.corrected = true ∧ (correct s (-delta) why).time.offset = delta.natAbs ∧
    (correct s (-delta) why).time.offsetAt = s.clk ∧
    (s.time.base ≠ .unset → aboveGuard s delta 3 4 = false →
      (correct s (-delta) why).time.phase = -delta ∧ (correct s (-delta) why).time.now = s.time.now) := by
  obtain ⟨f, b, h⟩ := correct_time (-delta) why hl
  simp only [h, Int.natAbs_neg, true_and]
  intro hbase hsmall
  have hsteer : stepsBy s (-delta) = false := by simp [stepsBy, aboveGuard_neg, hbase, hsmall]
  simp [stepped, hsteer]

/-- DELAY_RESPONSE_DELIVERED that answers the pending request: what the exchange leaves at its port, and the correction of
a follower. -/
theorem delayResponse_row {s : State} {p : LinePort} {f : Frame} {t1 t2 t3 t4 : Int} (hw : waits s p f = true)
    (htype : f.ftype = 11) (hfed : isFed s = false ∨ ringRef s = some f.srcUnit) (hkind : field f.payload 0 1 = 1)
    (hsent : (s.time.exchanges.get p).t1 = some t1) (ht1 : timeField f.payload 4 = t1)
    (ht2 : timeField f.payload 12 = t2) (ht3 : timeField f.payload 20 = t3) :
    Answers (.delayResponseDelivered p f t4) s (fun t =>
      (t.time.exchanges.get p).t1 = none ∧
      (t4 - t1 ≤ 20000 → 0 ≤ ((t2 - t1) + (t4 - t3)) / 2 → ((t2 - t1) + (t4 - t3)) / 2 ≤ 600 → t3 - t2 ≤ 10000 →
        (t.time.exchanges.get p).delay = some (((t2 - t1) + (t4 - t3)) / 2) ∧
        (t.time.exchanges.get p).delta = some (((t2 - t1) - (t4 - t3)) / 2) ∧
        (timeRef s = some p → s.time.corrected = false → s.set.lease = false →
          t.time.corrected = true ∧ t.time.offset = (((t2 - t1) - (t4 - t3)) / 2).natAbs ∧ t.time.offsetAt = s.clk ∧
          (s.time.base ≠ .unset → aboveGuard s (((t2 - t1) - (t4 - t3)) / 2) 3 4 = false →
            t.time.phase = -(((t2 - t1) - (t4 - t3)) / 2) ∧ t.time.now = s.time.now))) ∧
      (20000 < t4 - t1 ∨ ((t2 - t1) + (t4 - t3)) / 2 < 0 ∨ 600 < ((t2 - t1) + (t4 - t3)) / 2 ∨ 10000 < t3 - t2 →
        (t.time.exchanges.get p).delay = none ∧ (t.time.exchanges.get p).delta = none)) := by
  subst ht2 ht3
  refine answers_imp (delayResponse_ends (t4 := t4) hw htype hfed hkind hsent ht1 rfl) fun t ⟨hport, _, hcorrect⟩ => ?_
  rw [hport]
  refine ⟨rfl, fun hlate h0 h600 hturn => ?_, fun h => ?_⟩
  · have hkept := exchangeResult_kept hlate h0 h600 hturn
    rw [hkept] at hcorrect ⊢
    refine ⟨rfl, rfl, fun href hfirst hl => ?_⟩
    rw [hcorrect _ _ rfl href hfirst]
    exact correct_follower _ _ hl
  · rw [exchangeResult_discarded h]
    exact ⟨rfl, rfl⟩

/-- DELAY_RESPONSE_TIMEOUT of a pending request: its exchange ends with nothing kept, the other ports' exchanges stay. -/
theorem delayTimeout_ends {s : State} {p : LinePort} {t1 : Int} (hsent : (s.time.exchanges.get p).t1 = some t1)
    (hdue : (s.time.exchanges.get p).sentAt + 20000 ≤ s.clk) : Answers (.delayResponseTimeout p) s (fun t =>
      (t.time.exchanges.get p).t1 = none ∧ (t.time.exchanges.get p).delay = none ∧
      ∀ q, q ≠ p → t.time.exchanges.get q = s.time.exchanges.get q) := by
  have hends : ∃ t, exec (.delayResponseTimeout p) s = .next t ∧
      t.time.exchanges = (exchangeEnded s p none).time.exchanges := by
    refine ⟨_, congrArg Host.Outcome.next (if_pos (by simp [hsent, hdue])), ?_⟩
    dsimp only
    split
    · exact correctFromStart_exchanges _
    · rfl
  obtain ⟨t, he, ht⟩ := hends
  refine ⟨t, he, ?_⟩
  simp only [ht, exchangeEnded_port, true_and]
  exact ⟨rfl, fun q hq => ports_get_set_other _ _ hq⟩

/-! ### Train-time entries (R161, R162, R164) -/

theorem eventAction_time (s : State) (i : Nat) (e : EventEntry) (n : Nat) : (eventAction s i e n).time = s.time :=
  eventAction_only s i e n .time (by decide)

theorem eventAction_writes {e : EventEntry} (s : State) (i n : Nat) (h : e.action = 1) :
    (eventAction s i e n).skim.writes = s.skim.writes ++
      [⟨(ownSlot s).getD 0 * 131072 + e.object % 131072, BitVec.ofNat 128 e.value, some i, some n, none⟩] := by
  simp only [eventAction, h]

theorem eventAction_marks {e : EventEntry} (s : State) (i n : Nat) (h : e.action = 4) :
    (eventAction s i e n).recorder.reports = s.recorder.reports ++ [stamp s ⟨0x0006, 6, i, be 8 e.value⟩] := by
  simp only [eventAction, h]
  rfl

/-- Every other action leaves the signal writes. -/
theorem eventAction_skim {e : EventEntry} (s : State) (i n : Nat) (h : e.action ≠ 1) :
    (eventAction s i e n).skim = s.skim := by
  unfold eventAction
  split
  case h_1 heq => exact absurd heq h
  case h_2 => exact announce_only _ _ _ _ _ _ _ .skim (by decide)
  case h_3 => exact wakeFloat_only _ _ .skim (by decide)
  case h_4 => rfl
  case h_5 => rfl

section
variable {s : State} {i : Nat} {e : EventEntry} (he : s.time.events[i]? = some e) (hkind : e.kind = 1)
  (hcan : canFire e = true) (hdue : e.target ≤ s.time.now)
include he hkind hcan hdue

theorem eventTrainTimeFire_fires : exec (.eventTrainTimeFire i) s =
    .next (eventAction (setEvent s i (firedEntry e)) i e (cycleFor s e.target)) := by
  show execEventTrainTimeFire i s = _
  simp only [execEventTrainTimeFire, he, if_pos (And.intro hkind (And.intro hcan hdue))]

theorem eventTrainTimeFire_row : Answers (.eventTrainTimeFire i) s (fun t =>
    t.time.events[i]? = some (firedEntry e) ∧ (∀ j, j ≠ i → t.time.events[j]? = s.time.events[j]?) ∧
    (e.action = 1 → t.skim.writes = s.skim.writes ++
      [⟨(ownSlot s).getD 0 * 131072 + e.object % 131072, BitVec.ofNat 128 e.value, some i, some (cycleFor s e.target), none⟩]) ∧
    (e.action = 4 → t.recorder.reports = s.recorder.reports ++ [stamp s ⟨0x0006, 6, i, be 8 e.value⟩]) ∧
    (e.action ≠ 1 → t.skim.writes = s.skim.writes)) := by
  refine .intro (eventTrainTimeFire_fires he hkind hcan hdue) ?_
  have hlt : i < s.time.events.length := (List.getElem?_eq_some_iff.mp he).1
  have hevents := congrArg TimeSt.events (eventAction_time (setEvent s i (firedEntry e)) i e (cycleFor s e.target))
  rw [hevents]
  exact ⟨List.getElem?_set_self hlt, fun j hj => List.getElem?_set_ne hj.symm, eventAction_writes _ _ _,
    eventAction_marks _ _ _, fun h => congrArg SkimSt.writes (eventAction_skim _ _ _ h)⟩

end

/-- Settles O9: each row's effect, from the lemma above that bears its name. -/
theorem timeIsMeasuredAndEventsFire : Obligations.TimeIsMeasuredAndEventsFire := by
  unfold Obligations.TimeIsMeasuredAndEventsFire
  refine ⟨?_, ?_, ?_, ?_, ?_, ?_⟩
  case refine_1 =>
    intro s p f t2 t3 hw htype hkind hv hlink hfree hquiet
    refine answers_imp (delayRequest_neighbour t2 t3 hw htype hkind hv hlink hfree hquiet) fun t ⟨hsent, hout, hrx⟩ => ?_
    exact ⟨fun F hF => hF ▸ ⟨hsent, hout⟩, hrx⟩
  case refine_2 =>
    exact fun s p f t2 t3 hw htype hkind hv hring hc => delayRequest_vehicle t2 t3 hw htype hkind hv hring hc
  case refine_3 => exact fun s p f t2 t3 hw hmay => .intro (delayRequest_unanswered t2 t3 hw hmay) ⟨rfl, rfl⟩
  case refine_4 =>
    exact fun s p f t1 t2 t3 t4 hw htype hfed hkind hsent ht1 ht2 ht3 =>
      delayResponse_row hw htype hfed hkind hsent ht1 ht2 ht3
  case refine_5 => exact fun s p t1 hsent hdue => delayTimeout_ends hsent hdue
  case refine_6 => exact fun s i e he hkind hcan hdue => eventTrainTimeFire_row he hkind hcan hdue

/-- Settles O57: what each row of O9 leaves, said with less. -/
theorem exchangeAndEventRowsComplete : Obligations.ExchangeAndEventRowsComplete := by
  unfold Obligations.ExchangeAndEventRowsComplete
  refine ⟨?_, ?_, ?_, ?_⟩
  case refine_1 =>
    intro s p f t2 t3 hw htype hkind hv hlink hfree hquiet
    obtain ⟨t, he, hsent, -, hrx⟩ := delayRequest_neighbour t2 t3 hw htype hkind hv hlink hfree hquiet
    exact ⟨t, he, hrx, _, rfl, delayReply_kind s p f t2 t3, hsent⟩
  case refine_2 =>
    intro s p f t1 t4 hw htype hkind hfed hsent ht1
    obtain ⟨t, he, hport, hrx, -⟩ := delayResponse_ends (t4 := t4) hw htype hfed hkind hsent ht1 rfl
    exact ⟨t, he, congrArg Exchange.t1 hport, hrx⟩
  case refine_3 =>
    intro s p t1 hsent hdue
    obtain ⟨t, he, hnone, -, -⟩ := delayTimeout_ends hsent hdue
    exact ⟨t, he, hnone⟩
  case refine_4 =>
    intro s i e hentry hkind hcan hdue
    obtain ⟨t, he, hfired, -⟩ := eventTrainTimeFire_row hentry hkind hcan hdue
    exact ⟨t, _, he, hfired, rfl⟩

end Sys2Proof.Proofs
end

section
/-! TRDP and PTP (R165, R272 to R276; log entry 191), and the statement O43. -/

namespace Sys2Proof.Proofs

open Sys2Proof Sys2Proof.Machine

/-! ### Far images (R211, R289) -/

theorem replaceImage_key (s : State) (k : FarKey) (d : Bytes) (fresh : Bool) : (replaceImage s k d fresh).key = k := by
  unfold replaceImage
  split
  case h_1 => rfl
  case h_2 x hx => simpa using List.find?_some (p := fun x : FarImage => x.key == k) hx

theorem replaceImage_now (s : State) (k : FarKey) (d : Bytes) (fresh : Bool) :
    (replaceImage s k d fresh).data = d ∧ (replaceImage s k d fresh).fresh = fresh ∧
      (replaceImage s k d fresh).at_ = s.clk ∧ (replaceImage s k d fresh).stamp = s.time.now := by
  unfold replaceImage
  split <;> exact ⟨rfl, rfl, rfl, rfl⟩

theorem imageOf_setImage (l : List FarImage) (x : FarImage) : imageOf (setImage l x) x.key = some x := by
  unfold setImage imageOf
  split
  case isTrue h =>
    induction l with
    | nil => simp at h
    | cons y l ih =>
      by_cases hy : y.key = x.key
      · simp [hy]
      · simpa [hy] using ih (by simpa [hy] using h)
  case isFalse h =>
    have hnone : l.find? (fun y => y.key == x.key) = none := by simpa using h
    simp [List.find?_append, hnone]

/-- An image that arrives whole is the far object's image from now on. -/
theorem putImage_imageNow (s : State) (k : FarKey) (d : Bytes) : ImageNow s (putImage s k d) k d := by
  obtain ⟨hdata, hfresh, hat, hstamp⟩ := replaceImage_now s k d true
  have hfound := imageOf_setImage s.route.images (replaceImage s k d true)
  rw [replaceImage_key] at hfound
  exact ⟨_, hfound, hdata, hfresh, hat, hstamp⟩

/-! ### The header of a telegram (R273) -/

section
variable {s : State} {m : TrdpIn} (act : State → State)

theorem trdpHeader_bad (h : m.headerOk = false ∨ m.version / 256 ≠ 1) :
    trdpHeader s m act = report s 0x0682 11 1 [] := if_pos (by simpa using h)

theorem trdpHeader_topo (hok : m.headerOk = true) (hver : m.version / 256 = 1) (hset : m.etbTopo ≠ 0)
    (htopo : m.etbTopo ≠ topoInForce s) : trdpHeader s m act = report s 0x0683 11 1 [] := by
  rw [trdpHeader, if_neg (by simp [hok, hver]), if_pos (by simp [hset, htopo])]

theorem trdpHeader_good (hok : m.headerOk = true) (hver : m.version / 256 = 1)
    (htopo : m.etbTopo = 0 ∨ m.etbTopo = topoInForce s) : trdpHeader s m act = act s := by
  have hours : ¬ (m.etbTopo != 0 && m.etbTopo != topoInForce s) = true := by
    rcases htopo with h | h <;> simp [h]
  rw [trdpHeader, if_neg (by simp [hok, hver]), if_neg hours]

end

/-- The rows of received telegrams judge the header first. -/
theorem telegram_judges {s : State} {m : TrdpIn} {i : Instr}
    (hi : i = .trdpPrReceived m ∨ i = .trdpPdReceived m ∨ i = .trdpReplyReceived m) :
    ∃ act, exec i s = .next (trdpHeader s m act) := by
  rcases hi with rfl | rfl | rfl <;> exact ⟨_, rfl⟩

/-- A row of a received telegram with a good header answers what its action leads to. -/
theorem telegram_acts {s t : State} {m : TrdpIn} {i : Instr} {act : State → State} (hok : m.headerOk = true)
    (hver : m.version / 256 = 1) (htopo : m.etbTopo = 0 ∨ m.etbTopo = topoInForce s)
    (he : exec i s = .next (trdpHeader s m act)) (h : act s = t) : exec i s = .next t := by
  rw [he, trdpHeader_good act hok hver htopo, h]

theorem telegram_badHeader {s : State} {m : TrdpIn} {i : Instr}
    (hi : i = .trdpPrReceived m ∨ i = .trdpPdReceived m ∨ i = .trdpReplyReceived m)
    (h : m.headerOk = false ∨ m.version / 256 ≠ 1) : exec i s = .next (report s 0x0682 11 1 []) := by
  obtain ⟨act, he⟩ := telegram_judges (s := s) hi
  rw [he, trdpHeader_bad act h]

theorem telegram_foreignTopo {s : State} {m : TrdpIn} {i : Instr}
    (hi : i = .trdpPrReceived m ∨ i = .trdpPdReceived m ∨ i = .trdpReplyReceived m) (hok : m.headerOk = true)
    (hver : m.version / 256 = 1) (hset : m.etbTopo ≠ 0) (htopo : m.etbTopo ≠ topoInForce s) :
    exec i s = .next (report s 0x0683 11 1 []) := by
  obtain ⟨act, he⟩ := telegram_judges (s := s) hi
  rw [he, trdpHeader_topo act hok hver hset htopo]

/-! ### Telegrams sent (R272, R274) -/

theorem trdpPublish_due {s : State} {i n : Nat} {p : PubTelegram} {l : List StagedOut} {st : PubSt}
    (hp : (net s).pubs[i]? = some p) (hm : managing s = true) (hr : s.pair.repeatOff = false)
    (hst : st = Tab.getD s.veh.pubs i ⟨0, none⟩) (hdue : dueSkim s p.period p.phase st.last = some (n, l)) :
    exec (.trdpPublish i) s = .next (sendIp { s with veh := { s.veh with
        pubs := Tab.set s.veh.pubs i ⟨(st.seq + 1) % 4294967296, some n⟩ } } p.iface p.dest p.queue (some n)
      (.trdp ⟨0x5064, p.comId, (st.seq + 1) % 4294967296, topoCommitted s, p.dest, 0, 0,
        stagedImage s (trdpKey s p.comId p.dest) p.length l, 17224, 0x0100, 0⟩)) := by
  subst hst
  show execTrdpPublish i s = _
  simp only [execTrdpPublish, hp, hm, hr, hdue]
  rfl

/-! ### Telegrams received (R274 to R276) -/

/-- The first subscription notes a telegram's sequence and instant. -/
def subscriptionTaken (s : State) (m : TrdpIn) (st : SubSt) (multi : Option Nat) : State :=
  let seqs := st.seqs.filter (fun x => x.1 != m.src) ++ [(m.src, m.seq)]
  { s with veh := { s.veh with subs := Tab.set s.veh.subs 0 ⟨seqs, m.src, s.time.now, multi⟩ } }

/-- The first subscription, for the telegram's ComId on its interface and for any source, takes the telegram. -/
theorem subscription_found {s : State} {m : TrdpIn} {c : SubTelegram} (hsubs : (net s).subs = [c])
    (hid : c.comId = m.comId) (hiface : c.iface = m.interface) (hsource : c.source = 0) :
    ((List.range (net s).subs.length).zip (net s).subs).find? (fun x =>
      x.2.comId == m.comId && x.2.iface == m.interface && (x.2.source == 0 || x.2.source == m.src)) = some (0, c) := by
  simp [hsubs, hid, hiface, hsource]

section
variable {s : State} {m : TrdpIn} (hok : m.headerOk = true) (hver : m.version / 256 = 1)
  (htopo : m.etbTopo = 0 ∨ m.etbTopo = topoInForce s)
include hok hver htopo

/-- A pull that names no reply address is answered to its sender (R274; log entry 191). -/
theorem trdpPr_answered {p : PubTelegram} (hp : (net s).pubs.find? (fun x => x.comId == m.comId) = some p)
    (hip : m.replyIp = 0) (hcom : m.replyComId = 0) :
    exec (.trdpPrReceived m) s = .next (sendIp s p.iface m.src p.queue
      (if s.cyc.running then some (dueFrom (nextOut s) (max 1 p.period) p.phase) else none)
      (.trdp ⟨0x5070, m.comId, 0, topoCommitted s, m.src, 0, 0, stagedImage s (trdpKey s p.comId p.dest) p.length [],
        17224, 0x0100, 0⟩)) := by
  refine telegram_acts hok hver htopo rfl ?_
  simp only [hp, hip, hcom, if_true]
  rfl

theorem trdpPd_unrouted (h : ∀ c ∈ (net s).subs, c.comId ≠ m.comId) : Answers (.trdpPdReceived m) s (fun t =>
    t.veh.unrouted = count32 s.veh.unrouted ∧ t.route = s.route) := by
  have hnone : ((List.range (net s).subs.length).zip (net s).subs).find? (fun x =>
      x.2.comId == m.comId && x.2.iface == m.interface && (x.2.source == 0 || x.2.source == m.src)) = none := by
    refine List.find?_eq_none.mpr fun x hx => ?_
    simp [h x.2 (List.of_mem_zip hx).2]
  refine .intro (t := { s with veh := { s.veh with unrouted := count32 s.veh.unrouted } }) ?_ ⟨rfl, rfl⟩
  refine telegram_acts hok hver htopo rfl ?_
  simp only [hnone]

section
variable {c : SubTelegram} {st : SubSt} (hsubs : (net s).subs = [c]) (hid : c.comId = m.comId)
  (hiface : c.iface = m.interface) (hsource : c.source = 0) (hkind : m.kind = 0x5064)
  (hlen : m.dataset.length = c.length) (hst : st = Tab.getD s.veh.subs 0 ⟨[], m.src, 0, none⟩)
include hsubs hid hiface hsource hkind hlen hst

theorem trdpPd_repeated (hseq : (m.src, m.seq) ∈ st.seqs) : exec (.trdpPdReceived m) s = .next s := by
  subst hst
  refine telegram_acts hok hver htopo rfl ?_
  simp [subscription_found hsubs hid hiface hsource, hkind, hlen, hseq]

/-- A telegram whose sequence is new is noted at its subscription, and its dataset becomes the far object's image. -/
theorem trdpPd_new (hseq : (m.src, m.seq) ∉ st.seqs) : ∃ reported multi, exec (.trdpPdReceived m) s = .next
    (putImage (subscriptionTaken (reportIf reported s 0x0606 11 m.comId []) m st multi) (trdpKey s c.comId 0) m.dataset) := by
  subst hst
  refine ⟨_, _, telegram_acts hok hver htopo rfl (by
    simp only [subscription_found hsubs hid hiface hsource, hkind, hlen, hsource, List.contains_eq_mem, hseq,
      decide_false, ne_eq, not_true, false_and, Bool.false_eq_true, if_false]
    rfl)⟩

theorem trdpPd_row (hseq : (m.src, m.seq) ∉ st.seqs) : Answers (.trdpPdReceived m) s (fun t =>
    ImageNow s t (trdpKey s c.comId 0) m.dataset ∧
    ∃ u, Tab.get? t.veh.subs 0 = some u ∧ (m.src, m.seq) ∈ u.seqs ∧ u.at_ = s.time.now) := by
  obtain ⟨reported, multi, he⟩ := trdpPd_new hok hver htopo hsubs hid hiface hsource hkind hlen hst hseq
  exact .intro he ⟨putImage_imageNow (subscriptionTaken (reportIf reported s 0x0606 11 m.comId []) m st multi) _ _,
    _, tab_get?_set_self .., List.mem_append_right _ List.mem_cons_self, rfl⟩

end

section
variable {x : TrdpSession} (hx : s.veh.sessions.find? (fun x => x.no == m.session && x.ip == m.src) = some x)
include hx

theorem trdpReply_otherKind (herror : m.kind ≠ 0x4D65) (hreply : m.kind ≠ 0x4D70) (hquery : m.kind ≠ 0x4D71) :
    exec (.trdpReplyReceived m) s = .next s := by
  refine telegram_acts hok hver htopo rfl ?_
  simp [hx, herror, hreply, hquery]

variable {u : State} (hu : u = { s with veh := { s.veh with sessions := dropOne x s.veh.sessions } })
include hu

theorem trdpReply_error (hkind : m.kind = 0x4D65) :
    exec (.trdpReplyReceived m) s = .next (pumpAll (completeUnit u x.key (.error m.resultCode))) := by
  refine telegram_acts hok hver htopo rfl ?_
  simp [hx, hkind, hu]

theorem trdpReply_written {y : FarTxn} (hkind : m.kind = 0x4D70) (hcode : m.resultCode = 0)
    (hy : headTxn u x.key = some y) (hwrite : writing y = true) :
    exec (.trdpReplyReceived m) s = .next (pumpAll (completeUnit u x.key (.ok []))) := by
  subst hu
  refine telegram_acts hok hver htopo rfl ?_
  simp [hx, hkind, hcode, hy, hwrite]

theorem trdpReply_read {y : FarTxn} {o : Nat} (hkind : m.kind = 0x4D70) (hcode : m.resultCode = 0)
    (hy : headTxn u x.key = some y) (hread : writing y = false)
    (ho : o = rByteOff y.entry + y.unitsDone * rUnitBytes y.entry) (hlen : o + rUnitBytes y.entry ≤ m.dataset.length) :
    exec (.trdpReplyReceived m) s = .next (pumpAll (completeUnit (keepAhead u x.key y.route 0 m.dataset) x.key
      (.ok (bslice m.dataset o (rUnitBytes y.entry))))) := by
  subst hu ho
  have hwhole : ¬ m.dataset.length < rByteOff y.entry + y.unitsDone * rUnitBytes y.entry + rUnitBytes y.entry :=
    Nat.not_lt.mpr hlen
  refine telegram_acts hok hver htopo rfl ?_
  simp [hx, hkind, hcode, hy, hread, hwhole]

end

theorem trdpReply_noSession (hx : s.veh.sessions.find? (fun x => x.no == m.session && x.ip == m.src) = none) :
    exec (.trdpReplyReceived m) s = .next s := by
  refine telegram_acts hok hver htopo rfl ?_
  simp only [hx]

end

/-! ### The timeout of an access (R276) -/

section
variable {s : State} {k : Nat} {x : TrdpSession} (hx : s.veh.sessions.find? (fun x => x.no == k) = some x)
include hx

theorem trdpReplyTimeout_early (h : s.clk < x.until_) : exec (.trdpReplyTimeout k) s = .next s := by
  show execTrdpReplyTimeout k s = _
  simp only [execTrdpReplyTimeout, hx, if_pos h]

theorem trdpReplyTimeout_ends (h : x.until_ ≤ s.clk) : exec (.trdpReplyTimeout k) s = .next (pumpAll (completeUnit
    { s with veh := { s.veh with sessions := dropOne x s.veh.sessions } } x.key .timeout)) := by
  show execTrdpReplyTimeout k s = _
  simp only [execTrdpReplyTimeout, hx, if_neg (Nat.not_lt.mpr h)]

end

/-! ### PTP (R165) -/

/-- Port v's PTP state is written. -/
def setPtp (s : State) (v : Nat) (x : PtpSt) : State := { s with time := { s.time with ptp := Tab.set s.time.ptp v x } }

theorem ptpState_setPtp (s : State) (v : Nat) (x : PtpSt) : ptpState (setPtp s v x) v = x := by
  simp [ptpState, setPtp, Tab.getD]

theorem ptpSync_early {s : State} {v : Nat} (hdue : ptpDue s (ptpState s v).syncAt (net s).logSync = false) :
    exec (.ptpSyncSend v) s = .next s :=
  congrArg Host.Outcome.next (if_neg (by simp [hdue]))

section
variable {s : State} {v : Nat} (hon : ptpOn s v = true)
include hon

theorem ptpSync_due (hdue : ptpDue s (ptpState s v).syncAt (net s).logSync = true) : Answers (.ptpSyncSend v) s (fun t =>
    (ptpState t v).syncSeq = ((ptpState s v).syncSeq + 1) % 65536 ∧ (ptpState t v).syncAt = some s.clk ∧
    t.out = (sendPtp s v 0 (ptpState s v).syncSeq
      (ptpSource s v (net s).ptpDomain (net s).logSync ++ be 8 (time64 s.time.now))).out) := by
  have hx := ptpState_setPtp s v
    { ptpState s v with syncSeq := ((ptpState s v).syncSeq + 1) % 65536, syncAt := some s.clk }
  exact ⟨_, congrArg Host.Outcome.next (if_pos (Bool.and_eq_true_iff.mpr ⟨hon, hdue⟩)), congrArg PtpSt.syncSeq hx,
    congrArg PtpSt.syncAt hx, rfl⟩

theorem ptpAnnounce_due (hdue : ptpDue s (ptpState s v).annAt (net s).logAnnounce = true) :
    Answers (.ptpAnnounceSend v) s (fun t =>
      (ptpState t v).annSeq = ((ptpState s v).annSeq + 1) % 65536 ∧ (ptpState t v).annAt = some s.clk ∧
      t.out = (sendPtp s v 0xB (ptpState s v).annSeq (ptpSource s v (net s).ptpDomain (net s).logAnnounce ++ zeros 1 ++
        be 1 (clockClass s) ++ be 1 (clockAccuracy s) ++ be 1 (net s).ptpPriority1 ++ be 1 (net s).ptpPriority2)).out) := by
  have hx := ptpState_setPtp s v
    { ptpState s v with annSeq := ((ptpState s v).annSeq + 1) % 65536, annAt := some s.clk }
  exact ⟨_, congrArg Host.Outcome.next (if_pos (Bool.and_eq_true_iff.mpr ⟨hon, hdue⟩)), congrArg PtpSt.annSeq hx,
    congrArg PtpSt.annAt hx, rfl⟩

theorem ptpDelayReq_answered (seq : Nat) (rq : Bytes) (at_ : Int) :
    exec (.ptpDelayReqReceived v seq rq at_) s = .next (sendPtp s v 9 seq
      (ptpSource s v (net s).ptpDomain (net s).logMinDelayReq ++ be 8 (time64 at_) ++ rq)) :=
  congrArg Host.Outcome.next (if_pos hon)

theorem ptpAnnounce_foreign : Answers (.ptpAnnounceReceived v) s (fun t =>
    (ptpState t v).foreign = count32 (ptpState s v).foreign ∧ t.out = s.out ∧
    t.recorder = (report s 0x0603 11 v []).recorder) := by
  have hx := ptpState_setPtp s v { ptpState s v with foreign := count32 (ptpState s v).foreign }
  exact ⟨_, congrArg Host.Outcome.next (if_pos hon), congrArg PtpSt.foreign hx, rfl, rfl⟩

end

/-- Settles O43: each row's effect, from the lemma above that bears its name. -/
theorem telegramsAndTimeMessagesAreServed : Obligations.TelegramsAndTimeMessagesAreServed := by
  unfold Obligations.TelegramsAndTimeMessagesAreServed
  refine ⟨?_, ?_, ?_, ?_, ?_⟩
  case refine_1 => exact fun s i n p l hp hm hr st hst hdue => trdpPublish_due hp hm hr hst hdue
  case refine_2 => exact fun s m i hi => ⟨telegram_badHeader hi, telegram_foreignTopo hi⟩
  case refine_3 =>
    intro s m hok hver htopo
    refine ⟨fun p hp => trdpPr_answered hok hver htopo hp, trdpPd_unrouted hok hver htopo, ?_, ?_,
      trdpReply_noSession hok hver htopo⟩
    · exact fun c hsubs hid hiface hsource hkind hlen st hst =>
        ⟨trdpPd_repeated hok hver htopo hsubs hid hiface hsource hkind hlen hst,
          trdpPd_row hok hver htopo hsubs hid hiface hsource hkind hlen hst⟩
    · exact fun x hx u hu =>
        ⟨trdpReply_error hok hver htopo hx hu, fun y => trdpReply_written hok hver htopo hx hu,
          fun y o => trdpReply_read hok hver htopo hx hu, trdpReply_otherKind hok hver htopo hx⟩
  case refine_4 => exact fun s k x hx => ⟨trdpReplyTimeout_early hx, trdpReplyTimeout_ends hx⟩
  case refine_5 =>
    exact fun s v hon => ⟨ptpSync_due hon, ptpSync_early, ptpAnnounce_due hon, ptpDelayReq_answered hon,
      ptpAnnounce_foreign hon⟩

end Sys2Proof.Proofs
end

section
/-! The commit of a skim, pins, snapshots and route tables (R178, R180, R182, R185, R187 to R189, R217 to R221, R379), and the
statements O8 and O52. -/

namespace Sys2Proof.Proofs

open Sys2Proof Sys2Proof.Machine Sys2Proof.Laws

/-! ### Ages (R178) -/

theorem cycDiff_eq (n : Nat) {k : Nat} (hk : k < 2 ^ 32) : cycDiff n k = (n + 2 ^ 32 - k) % 2 ^ 32 := by
  rw [cycDiff, show cycleMod = 2 ^ 32 from rfl, Nat.mod_eq_of_lt hk]

theorem ageOf_refreshed {c : SigCell} {k : Nat} (n : Nat) (h : c.refresh = some k) : ageOf n c = min 255 (cycDiff n k) := by
  simp only [ageOf, h]

theorem ageOf_never {c : SigCell} (n : Nat) (h : c.refresh = none) : ageOf n c = 255 := by
  simp only [ageOf, h]

/-- Settles O52: the age is the difference of the skim numbers under R12. -/
theorem signalAgesCountFromTheRefresh : Obligations.SignalAgesCountFromTheRefresh := by
  unfold Obligations.SignalAgesCountFromTheRefresh
  intro n c hn
  refine ⟨fun k hk h => ?_, fun h => ?_, ageOf_never n⟩
  · rw [ageOf_refreshed n h, cycDiff_eq n hk]
  · rw [ageOf_refreshed n h, cycDiff_eq n hn, Nat.add_sub_cancel_left, Nat.mod_self, Nat.min_zero]

/-! ### What leaves the retained skims (R180, R185) -/

/-- `t` retains the skims of `s`, and has the same frames collected. -/
def SameSkims (s t : State) : Prop :=
  t.skim.retained = s.skim.retained ∧ t.skim.building = s.skim.building

theorem SameSkims.refl (s : State) : SameSkims s s := ⟨rfl, rfl⟩

theorem SameSkims.trans {s t u : State} (h : SameSkims s t) (k : SameSkims t u) : SameSkims s u :=
  ⟨k.1.trans h.1, k.2.trans h.2⟩

theorem SameSkims.of_skim {s t : State} (h : t.part .skim = s.part .skim) : SameSkims s t :=
  ⟨congrArg SkimSt.retained h, congrArg SkimSt.building h⟩

theorem noMajority_sameSkims (s : State) : SameSkims s (noMajority s) := by
  unfold noMajority
  dsimp only
  split <;> exact ⟨rfl, rfl⟩

theorem overrunAt_sameSkims (s : State) (old n : Nat) : SameSkims s (overrunAt s old n) :=
  .trans (.of_skim (report_only s 0x0801 15 old [] .skim (by decide))) (noMajority_sameSkims _)

/-- A safety cycle's begin discards staged results at most. -/
theorem commitSafety_sameSkims (s : State) : SameSkims s (commitSafety s) := by
  unfold commitSafety
  split
  case h_1 => exact .refl s
  case h_2 =>
    dsimp only
    split
    case h_1 => exact .refl s
    case h_2 => exact .refl s
    case h_3 => split <;> exact .of_skim (by simp)
    case h_4 =>
      split
      · exact overrunAt_sameSkims ..
      · exact ⟨rfl, rfl⟩
    case h_5 =>
      split
      · exact overrunAt_sameSkims ..
      · exact .of_skim (beginCycle_only _ _ .skim (by decide))

theorem noteClip_skim (s : State) (i : Nat) (c : Bool) : (noteClip s i c).skim = s.skim :=
  noteClip_only s i c .skim (by decide)

/-- The OUT pass adds staged outputs alone. -/
theorem outPass_sameSkims (s : State) (n : Nat) : SameSkims s (outPass s n) := by
  unfold outPass
  split
  case h_1 => exact .refl s
  case h_2 t _ =>
    refine List.foldlRecOn (motive := fun acc : State × List StagedOut => SameSkims s acc.1)
      (enabledRoutes t 2) _ (.refl s) ?_
    intro acc hacc p _
    exact hacc.trans (.of_skim (noteClip_skim _ _ _))

/-- OUT routes that take over what they last drove leave the skims. -/
theorem drivenAs_sameSkims (l : List StagedOut) (s : State) :
    SameSkims s (l.foldl (fun s o => adjRoute s o.route (fun r => { r with driven := some o.raw })) s) := by
  refine List.foldlRecOn (motive := SameSkims s) l _ (.refl s) ?_
  exact fun t ht o _ => ht.trans (.of_skim (adjRoute_only t _ _ .skim (by decide)))

/-- Outputs put into staging and sent to the other units leave the skims. -/
theorem stageAndSend_sameSkims (s : State) (n : Nat) (outs : List StagedOut) (x : List (Nat × List StagedOut)) :
    SameSkims s (sendImages { s with skim := { s.skim with staging := x } } n outs) :=
  .trans (t := { s with skim := { s.skim with staging := x } }) ⟨rfl, rfl⟩
    (.of_skim (sendImages_only _ n outs .skim (by decide)))

theorem outSide_sameSkims (s : State) (n : Nat) : SameSkims s (outSide s n) := by
  unfold outSide
  split
  case isTrue => exact .refl s
  case isFalse =>
    refine .trans (outPass_sameSkims s n) ?_
    dsimp only
    split
    · exact stageAndSend_sameSkims ..
    · exact .trans (drivenAs_sameSkims ..) (stageAndSend_sameSkims ..)

theorem breakPin_sameSkims (s : State) (k : Nat) : SameSkims s (breakPin s k) :=
  .trans (.of_skim (report_only s 0x0404 8 k [] .skim (by decide))) ⟨rfl, rfl⟩

/-! ### The commit (R180, R182, R185) -/

/-- The store's overwriting takes retained skims from the oldest on, and never the newest (R188). -/
theorem overwriteOldest_keeps_newest (k : Nat) (s : State) {r : SkimRec} {l : List SkimRec} (h : s.skim.retained = r :: l) :
    (∃ m, (overwriteOldest k s).skim.retained = r :: m ∧ m.length ≤ l.length) ∧
    (overwriteOldest k s).skim.building = s.skim.building := by
  induction k generalizing s l with
  | zero => exact ⟨⟨l, h, Nat.le_refl _⟩, rfl⟩
  | succ k ih =>
    unfold overwriteOldest
    dsimp only
    split
    case isTrue => exact ⟨⟨l, h, Nat.le_refl _⟩, rfl⟩
    case isFalse =>
      split
      case isTrue hlong =>
        obtain ⟨a, l', rfl⟩ : ∃ a l', l = a :: l' := List.exists_cons_of_ne_nil (by rintro rfl; simp [h] at hlong)
        obtain ⟨⟨m, hm, hlen⟩, hb⟩ := ih (report { s with skim := { s.skim with
          history := trimHistory s, retained := s.skim.retained.dropLast } } 0x0403 9 s.skim.retained.dropLast.length [])
          (l := (a :: l').dropLast) (congrArg List.dropLast h)
        exact ⟨⟨m, hm, Nat.le_trans hlen (by simp only [List.length_dropLast, Nat.sub_le])⟩, hb⟩
      case isFalse =>
        split
        case h_1 p _ =>
          obtain ⟨hr, hb⟩ := breakPin_sameSkims { s with skim := { s.skim with history := trimHistory s } } p
          obtain ⟨hex, hb'⟩ := ih _ (hr.trans h)
          exact ⟨hex, hb'.trans hb⟩
        case h_2 => exact ⟨⟨l, h, Nat.le_refl _⟩, rfl⟩

/-- `t` follows `s` by the commit of the running cycle's skim: it is the newest retained one, and its frames are consumed. -/
def Committed (s t : State) : Prop :=
  (∃ r l, t.skim.retained = r :: l ∧ r.desc.skim = s.cyc.n ∧ r.desc.topo = topoInForce s ∧
    r.desc.sampleTime = s.cyc.ts ∧ r.desc.commitTime = s.time.now ∧ l.length ≤ 255) ∧
  t.skim.building = []

theorem Committed.sameSkims {s t u : State} (h : Committed s t) (k : SameSkims t u) : Committed s u := by
  obtain ⟨⟨r, l, hr, hdesc⟩, hb⟩ := h
  exact ⟨⟨r, l, k.1.trans hr, hdesc⟩, k.2.trans hb⟩

/-- A skim put in front of at most 255 others is committed, whatever the store then overwrites. -/
theorem Committed.overwriteOldest {s u : State} {r : SkimRec} {l : List SkimRec} (k : Nat)
    (hdesc : r.desc.skim = s.cyc.n ∧ r.desc.topo = topoInForce s ∧ r.desc.sampleTime = s.cyc.ts ∧
      r.desc.commitTime = s.time.now) (hl : l.length ≤ 255) (h : u.skim.retained = r :: l) (hb : u.skim.building = []) :
    Committed s (overwriteOldest k u) := by
  obtain ⟨hskim, htopo, hts, hnow⟩ := hdesc
  obtain ⟨⟨m, hm, hlen⟩, hbuild⟩ := overwriteOldest_keeps_newest k u h
  exact ⟨⟨r, m, hm, hskim, htopo, hts, hnow, Nat.le_trans hlen hl⟩, hbuild.trans hb⟩

theorem commitSkim_commits (s : State) : Committed s (commitSkim s) := by
  unfold commitSkim
  exact .overwriteOldest 512 (l := s.skim.retained.take 255) ⟨rfl, rfl, rfl, rfl⟩ (List.length_take_le ..) rfl rfl

theorem noteGap_sameSkims (s : State) (n : Nat) (x : Bool) : SameSkims s (noteGap s n x) :=
  .of_skim (noteGap_only s n x .skim (by decide))

theorem raiseIntIf_keeps {s : State} {c : Bool} {k j : Nat} (h : j ≠ k) :
    (raiseIntIf c s k).host.intStatus.getLsbD j = s.host.intStatus.getLsbD j := by
  cases c
  · rfl
  · exact getLsbD_setBit_of_ne _ true h

theorem stepOdometry_sameSkims (s : State) (r : SkimRec) : SameSkims s (stepOdometry s r) :=
  .of_skim (stepOdometry_only s r .skim (by decide))

section
variable {s : State} (hrun : s.cyc.running = true) (hnew : uncommitted s = true) (hready : s.host.ready = true)
  (hawake : s.sleep.power = .awake)
include hrun hnew hready hawake

theorem commitAll_row : Committed s (commitAll s) ∧ (commitAll s).host.intStatus.getLsbD 2 = true ∧
    (commitAll s).pair.mark = none := by
  have hgo : (!s.cyc.running || !uncommitted s || !managing s || decide (s.sleep.power ≠ .awake)) = false := by
    simp [hrun, hnew, managing, hready, hawake]
  unfold commitAll
  rw [if_neg (by rw [hgo]; decide)]
  dsimp only
  generalize (heldSlot s).elim false _ = own
  have hcommit : Committed s (raiseInt (commitSkim s) 2) := (commitSkim_commits s).sameSkims ⟨rfl, rfl⟩
  have hout : Committed s (outSide (noteGap (raiseInt (commitSkim s) 2) s.cyc.n own) s.cyc.n) :=
    (hcommit.sameSkims (noteGap_sameSkims ..)).sameSkims (outSide_sameSkims ..)
  have hint : (outSide (noteGap (raiseInt (commitSkim s) 2) s.cyc.n own) s.cyc.n).host.intStatus.getLsbD 2 = true := by
    have hhost : (outSide (noteGap (raiseInt (commitSkim s) 2) s.cyc.n own) s.cyc.n).host =
        (raiseInt (commitSkim s) 2).host :=
      (outSide_only _ _ .host (by decide)).trans (noteGap_only _ _ _ .host (by decide))
    rw [hhost]
    exact getLsbD_setBit_self _ _ (by decide)
  generalize outSide (noteGap (raiseInt (commitSkim s) 2) s.cyc.n own) s.cyc.n = u at hout hint ⊢
  obtain ⟨⟨r, l, hr, _⟩, _⟩ := id hout
  simp only [hr]
  refine ⟨?_, ?_, trivial⟩
  · exact ((hout.sameSkims (stepOdometry_sameSkims u r)).sameSkims (commitSafety_sameSkims _)).sameSkims ⟨rfl, rfl⟩
  · have hhost : (commitSafety (stepOdometry u r)).host = u.host :=
      (commitSafety_only _ .host (by decide)).trans (stepOdometry_only u r .host (by decide))
    rw [← hint, ← hhost]
    exact raiseIntIf_keeps (by decide)

end

/-- What a committing row answers (R180, R182, R379). -/
def CommitAnswered (s t : State) : Prop :=
  Committed s t ∧ t.host.intStatus.getLsbD 2 = true ∧ t.pair.mark = none ∧ t.cyc = s.cyc

section
variable {s : State} (hrun : s.cyc.running = true) (hnew : uncommitted s = true) (hready : s.host.ready = true)
  (hawake : s.sleep.power = .awake)
include hrun hnew hready hawake

theorem commitAll_answered : CommitAnswered s (commitAll s) := by
  obtain ⟨hcommit, hint, hmark⟩ := commitAll_row hrun hnew hready hawake
  exact ⟨hcommit, hint, hmark, commitAll_only s .cyc (by decide)⟩

theorem skimCommit_commits (hfed : isFed s = false) (hclosed : slotsClosed s = true) :
    Answers .skimCommit s (CommitAnswered s) :=
  .intro (congrArg Host.Outcome.next (if_pos (by simp [hfed, hclosed]))) (commitAll_answered hrun hnew hready hawake)

theorem fedCommitTimeout_commits (hfed : isFed s = true) (hdue : s.cyc.ts + (cycleLen s : Int) ≤ s.time.now) :
    Answers .fedCommitTimeout s (CommitAnswered s) :=
  .intro (congrArg Host.Outcome.next (if_pos ⟨hfed, hdue⟩)) (commitAll_answered hrun hnew hready hawake)

end

/-- The state in which a fed unit has noted a commit mark (R379). -/
def marked (s : State) (b : Bytes) : State :=
  { ringGood s with pair := { (ringGood s).pair with
      mark := some (field b 0 4, field b 4 8, field b 12 4), markCycle := some (field b 0 4)
      marksFor := if (ringGood s).pair.markCycle = some (field b 0 4) then (ringGood s).pair.marksFor
        else if (ringGood s).pair.markCycle.map (fun k => cycAdd k 1) = some (field b 0 4) then (ringGood s).pair.marksFor + 1
        else 1 } }

section
variable {s : State} {b : Bytes} (hfed : isFed s = true) (hring : onRing s = true) (hlen : b.length = 16)
include hfed hring hlen

theorem commitMarkReceived_marks : exec (.commitMarkReceived b) s =
    .next (if markComplete (marked s b) then commitAll (marked s b) else marked s b) := by
  show execCommitMarkReceived b s = _
  simp only [execCommitMarkReceived, hfed, hring, hlen, Bool.not_true, Bool.or_false, Bool.false_eq_true, if_false, ne_eq,
    not_true_eq_false]
  rfl

theorem commitMarkReceived_commits (hcycle : field b 0 4 = s.cyc.n) (hcount : field b 12 4 ≤ s.pair.fedCount)
    (hrun : s.cyc.running = true) (hnew : uncommitted s = true) (hready : s.host.ready = true)
    (hawake : s.sleep.power = .awake) : Answers (.commitMarkReceived b) s (CommitAnswered s) := by
  have hwhole : markComplete (marked s b) = true :=
    Bool.and_eq_true_iff.mpr ⟨beq_iff_eq.mpr hcycle, decide_eq_true hcount⟩
  have hanswered : CommitAnswered (marked s b) (commitAll (marked s b)) := commitAll_answered hrun hnew hready hawake
  exact .intro ((commitMarkReceived_marks hfed hring hlen).trans (congrArg Host.Outcome.next (if_pos hwhole))) hanswered

/-- A mark of another cycle, or one that counts frames still to come, is kept. -/
theorem commitMarkReceived_waits (h : field b 0 4 ≠ s.cyc.n ∨ s.pair.fedCount < field b 12 4) :
    Answers (.commitMarkReceived b) s (fun t => t.pair.mark = some (field b 0 4, field b 4 8, field b 12 4) ∧
      t.pair.markCycle = some (field b 0 4) ∧ t.skim = s.skim) := by
  have hpart : ¬ markComplete (marked s b) = true := by
    intro hc
    obtain ⟨hcycle, hcount⟩ := Bool.and_eq_true_iff.mp hc
    have hcount' : field b 12 4 ≤ s.pair.fedCount := of_decide_eq_true hcount
    exact h.elim (absurd (beq_iff_eq.mp hcycle)) (Nat.not_lt.mpr hcount')
  exact .intro ((commitMarkReceived_marks hfed hring hlen).trans (congrArg Host.Outcome.next (if_neg hpart)))
    ⟨rfl, rfl, rfl⟩

end

/-! ### Pins (R187) -/

theorem pinLeaseExpiry_row (s : State) (h : Nat) : Answers (.pinLeaseExpiry h) s (fun t =>
    (∀ x, x ∈ t.skim.pins ↔ x ∈ s.skim.pins ∧ ¬(x.handle = h ∧ x.lease ≤ s.clk)) ∧
    (∀ x ∈ s.skim.pins, x.handle = h → x.lease ≤ s.clk → (h, s.clk + 10000000000) ∈ t.skim.freed) ∧
    t.skim.retained = s.skim.retained) := by
  refine ⟨_, rfl, fun x => ?_, fun x hx hh hlease => ?_, rfl⟩
  · simp only [List.mem_filter, Bool.not_eq_true', Bool.and_eq_false_iff, beq_eq_false_iff_ne, decide_eq_false_iff_not,
      Decidable.not_and_iff_not_or_not, ne_eq]
  · refine List.mem_append_right _ (List.mem_map.mpr ⟨x, ?_, by rw [hh]⟩)
    simp [List.mem_filter, hx, hh, hlease]

/-! ### Route tables (R219, R221) -/

theorem compareTables_route (s : State) : (compareTables s).route = s.route := compareTables_only s .route (by decide)

/-- A table comes into force: the one before serves the skims before the first skim of the new one. -/
def TableInstalled (s t : State) (tb : RouteTable) : Prop :=
  t.route.table = some tb ∧ t.route.old = s.route.table.map (fun o => (o, gridN s)) ∧ t.route.shadows = s.route.shadows ∧
    t.route.cache = cacheOf tb

theorem activateRoutes_staged {s : State} {tb : RouteTable} (he : s.route.edited = none) (hs : s.route.staged = some tb)
    (hdue : tableDue s tb = true) :
    TableInstalled s (activateRoutes s) tb ∧ (activateRoutes s).route.staged = none := by
  simp only [activateRoutes, he, hs, if_pos hdue, TableInstalled, compareTables_route]
  exact ⟨⟨rfl, rfl, rfl, rfl⟩, rfl⟩

theorem activateRoutes_edited {s : State} {tb : RouteTable} (he : s.route.edited = some tb) (hs : s.route.staged = none)
    (hdue : tableDue s tb = true) :
    TableInstalled s (activateRoutes s) tb ∧ (activateRoutes s).route.edited = none := by
  have hstaged (u : State) : (installTable { u with route := { s.route with edited := none } } tb (gridN s)).route.staged =
      none := hs
  simp only [activateRoutes, he, if_pos hdue, compareTables_route, hstaged, TableInstalled]
  exact ⟨⟨rfl, rfl, rfl, rfl⟩, rfl⟩

/-- Settles O8: each row's effect, from the lemma above that bears its name. -/
theorem skimsCommitAndTablesTakeForce : Obligations.SkimsCommitAndTablesTakeForce := by
  unfold Obligations.SkimsCommitAndTablesTakeForce
  refine ⟨?_, ?_, ?_, ?_, ?_, ?_⟩
  case refine_1 =>
    intro s c hc hopen hfed htime hrun hnew hready hawake
    refine answers_imp (P := CommitAnswered s) ?_ fun t ⟨⟨hex, hbuild⟩, hint, hmark, hcyc⟩ => ⟨hex, hbuild, hint, hmark, hcyc⟩
    rcases hc with rfl | rfl | ⟨b, rfl, hlen, hring, hcycle, hcount⟩
    · exact skimCommit_commits hrun hnew hready hawake (hopen rfl).1 (hopen rfl).2
    · exact fedCommitTimeout_commits hrun hnew hready hawake (hfed nofun) (htime rfl)
    · exact commitMarkReceived_commits (hfed nofun) hring hlen hcycle hcount hrun hnew hready hawake
  case refine_2 => exact fun s b hfed hring hlen h => commitMarkReceived_waits hfed hring hlen h
  case refine_3 => exact pinLeaseExpiry_row
  case refine_4 => exact fun s h => congrArg Host.Outcome.next (if_pos h)
  case refine_5 =>
    intro s tb he hs hdue
    obtain ⟨⟨htable, hold, hshadows, hcache⟩, hnone⟩ := activateRoutes_staged he hs hdue
    exact .intro rfl ⟨htable, hnone, hold, hshadows, hcache⟩
  case refine_6 =>
    intro s tb he hs hdue
    obtain ⟨⟨htable, hold, -, hcache⟩, hnone⟩ := activateRoutes_edited he hs hdue
    exact .intro rfl ⟨htable, hnone, hold, hcache⟩

end Sys2Proof.Proofs
end

section
/-! The presence inputs and their windows (R191, R352, R365, R368, R407, R453, R476 to R482), and the statement O33. -/

namespace Sys2Proof.Proofs

open Sys2Proof Sys2Proof.Machine

/-! ### Filters that keep nothing, or everything -/

theorem filter_nothing {α : Type} (l : List α) : l.filter (fun _ => false) = [] :=
  List.filter_eq_nil_iff.mpr fun _ _ => Bool.false_ne_true

theorem filter_everything {α : Type} (l : List α) : l.filter (fun _ => true) = l :=
  List.filter_eq_self.mpr fun _ _ => rfl

/-! ### What a closing window ends (R191, R453, R482) -/

theorem afterClose_pres (s : State) : (afterClose s).pres = s.pres := afterClose_only s .pres (by decide)

theorem afterClose_safe (s : State) : (afterClose s).safe = s.safe := afterClose_only s .safe (by decide)

/-- A force stays while one of its windows is open. -/
theorem afterClose_forces (s : State) : (afterClose s).skim.forces =
    s.skim.forces.filter (fun f => f.windows.any (fun w => (openWindows s.pres).contains w)) := rfl

/-- A closed SEAL loop ends every transfer. -/
theorem afterClose_transfers {s : State} (h : s.pres.sealOpen = false) : (afterClose s).cmd.transfers = [] ∧
    (afterClose s).cmd.lapsed = s.cmd.lapsed ++ s.cmd.transfers.map (fun x => (x.kind, x.target, x.owner)) := by
  have hseal : (lapseForces s).pres.sealOpen = false := h
  simp only [afterClose, lapseTransfers, hseal, Bool.not_false, Bool.true_or, Bool.not_true, filter_nothing,
    filter_everything, true_and]
  rfl

/-! ### The class that the open windows grant (R476) -/

theorem presenceClass_jumper {p : PresenceSt} (h : p.jumperOpen = true) : 2 ≤ presenceClass p := by
  simp only [presenceClass, h, Bool.true_or, if_true]
  (repeat' split) <;> omega

theorem presenceClass_seal {p : PresenceSt} (h : p.sealOpen = true) : 3 ≤ presenceClass p := by
  simp only [presenceClass, h, if_true]
  split <;> omega

theorem presenceClass_debug {p : PresenceSt} (h : p.debugOpen = true) : presenceClass p = 4 := if_pos h

section
variable {s : State}

/-! ### The MAINT button (R407, R478, R479) -/

theorem maintButtonPress_row (hawake : s.sleep.power = .awake) (hfault : s.pres.button.fault = false)
    (hfree : s.pres.pressed = none) : Answers .maintButtonPress s (fun t =>
      t.pres.pressed = some s.clk ∧ t.pres.button.active = true ∧ t.pres.windowEnd = s.pres.windowEnd) := by
  refine .intro (congrArg Host.Outcome.next (if_neg (by simp [hawake, hfault, hfree]))) ?_
  have hpres (u : State) : (requestWake u 16 true false).pres = u.pres := requestWake_only u 16 true false .pres (by decide)
  rw [hpres]
  exact ⟨rfl, rfl, rfl⟩

theorem maintButtonRelease_row {ms t0 : Nat} (hm : managing s = true) (hfault : s.pres.button.fault = false)
    (hp : s.pres.pressed = some t0) : Answers (.maintButtonRelease ms) s (fun t =>
      t.pres.pressed = none ∧ t.pres.button.active = false ∧
      t.pres.windowEnd = (if 200 ≤ ms ∧ ms ≤ 10000 then some (s.clk + 120000000000) else s.pres.windowEnd) ∧
      (10000 < ms → t.recorder = (report s 0x0B03 20 ms []).recorder)) := by
  refine .intro (congrArg Host.Outcome.next (if_neg (by simp [hm, hfault, hp]))) ?_
  by_cases hlong : 10000 < ms
  · rw [if_pos hlong, if_neg (by omega)]
    exact ⟨rfl, rfl, rfl, fun _ => rfl⟩
  rw [if_neg hlong]
  by_cases hshort : ms < 200
  · rw [if_pos hshort, if_neg (by omega)]
    exact ⟨rfl, rfl, rfl, fun h => absurd h hlong⟩
  · rw [if_neg hshort, if_pos (⟨by omega, by omega⟩ : 200 ≤ ms ∧ ms ≤ 10000)]
    have hlog (c : Bool) (u : State) : (if c then u else logWindow u 0 0).pres = u.pres := by cases c <;> rfl
    dsimp only
    rw [hlog]
    exact ⟨rfl, rfl, rfl, fun h => absurd h hlong⟩

theorem maintWindowClose_row {t0 : Nat} (ht : s.pres.windowEnd = some t0) (hdue : t0 ≤ s.clk) :
    Answers .maintWindowClose s (fun t => t.pres = { s.pres with windowEnd := none } ∧
      t.skim.forces = s.skim.forces.filter (fun f => f.windows.any (fun w => (openWindows t.pres).contains w))) := by
  refine ⟨_, rfl, ?_⟩
  simp only [ht, if_neg (Nat.not_lt.mpr hdue)]
  exact ⟨rfl, rfl⟩

/-! ### Jumpers and seal (R352, R365, R368, R479) -/

theorem maintJumperFitted_row (hm : managing s = true) (hfault : s.pres.jumper.fault = false)
    (hclosed : s.pres.jumperOpen = false) : Answers .maintJumperFitted s (fun t =>
      t.pres.jumperOpen = true ∧ t.pres.jumper.active = true ∧ 2 ≤ presenceClass t.pres) :=
  .intro (congrArg Host.Outcome.next (if_neg (by simp [hm, hfault, hclosed])))
    ⟨rfl, rfl, presenceClass_jumper rfl⟩

theorem maintJumperRemoved_row (hopen : s.pres.jumperOpen = true) : Answers .maintJumperRemoved s (fun t =>
    t.pres.jumperOpen = false ∧
    (∀ f ∈ t.skim.forces, f.windows.any (fun w => (openWindows t.pres).contains w) = true)) := by
  refine .intro (congrArg Host.Outcome.next (if_pos hopen)) ⟨rfl, fun f hf => ?_⟩
  rw [afterClose_forces] at hf
  exact (List.mem_filter.mp hf).2

theorem presenceRawChange_row (a b : Bool) (hon : s.sleep.power ≠ .off) : Answers (.presenceRawChange a b) s (fun t =>
    t.pres.sealLoop.raw = a ∧ t.pres.debugJumper.raw = b ∧
    ((a = true ∧ s.pres.sealLoop.raw = false) ∨ (b = true ∧ s.pres.debugJumper.raw = false) → t.safe.applied = 0) ∧
    (a = false → s.pres.sealLoop.raw = true → s.pres.sealLoop.active = false → t.safe.hold = true)) := by
  refine .intro (congrArg Host.Outcome.next (if_neg hon)) ?_
  dsimp only
  have hopens : (a = true ∧ s.pres.sealLoop.raw = false) ∨ (b = true ∧ s.pres.debugJumper.raw = false) ↔
      (a && !s.pres.sealLoop.raw || b && !s.pres.debugJumper.raw) = true := by simp
  rw [hopens]
  split
  case isTrue hends =>
    split
    · exact ⟨rfl, rfl, fun _ => rfl, fun _ _ _ => rfl⟩
    · next h => exact ⟨rfl, rfl, fun h' => absurd h' h, fun _ _ _ => rfl⟩
  case isFalse hends =>
    have hhold {t : State} (ha : a = false) (hraw : s.pres.sealLoop.raw = true) (hact : s.pres.sealLoop.active = false) :
        t.safe.hold = true := absurd (by simp [ha, hraw, hact]) hends
    split
    · exact ⟨rfl, rfl, fun _ => rfl, hhold⟩
    · next h => exact ⟨rfl, rfl, fun h' => absurd h' h, hhold⟩

theorem sealOpened_row (hm : managing s = true) (hfault : s.pres.sealLoop.fault = false)
    (hclosed : s.pres.sealOpen = false) : Answers .sealOpened s (fun t =>
      t.pres.sealOpen = true ∧ t.pres.sealLoop.active = true ∧ t.safe.applied = 0 ∧ 3 ≤ presenceClass t.pres) :=
  .intro (congrArg Host.Outcome.next (if_neg (by simp [hm, hfault, hclosed])))
    ⟨rfl, rfl, rfl, presenceClass_seal rfl⟩

theorem sealClosed_row (hopen : s.pres.sealOpen = true) (hact : s.pres.sealLoop.active = true) :
    Answers .sealClosed s (fun t =>
      t.pres.sealOpen = false ∧ t.pres.sealLoop.active = false ∧ t.safe.hold = true ∧ t.cmd.transfers = [] ∧
      t.cmd.lapsed = s.cmd.lapsed ++ s.cmd.transfers.map (fun x => (x.kind, x.target, x.owner))) := by
  refine .intro (congrArg Host.Outcome.next (if_pos hopen)) ?_
  rw [if_pos (by simp [hact])]
  exact ⟨rfl, rfl, rfl, afterClose_transfers rfl⟩

theorem debugJumperFitted_row (hm : managing s = true) (hfault : s.pres.debugJumper.fault = false)
    (hclosed : s.pres.debugOpen = false) : Answers .debugJumperFitted s (fun t =>
      t.pres.debugOpen = true ∧ t.safe.applied = 0 ∧ presenceClass t.pres = 4) :=
  .intro (congrArg Host.Outcome.next (if_neg (by simp [hm, hfault, hclosed])))
    ⟨rfl, rfl, presenceClass_debug rfl⟩

theorem dropSplit_pres (s : State) : (dropSplit s).pres = s.pres := dropSplit_only s .pres (by decide)

/-- Split mode is over; outputs that are de-energised stay so. -/
theorem dropSplit_safe (s : State) : (dropSplit s).safe.split = none ∧
    (s.safe.state = .split → (dropSplit s).safe.state = .scratch) ∧
    (s.safe.applied = 0 → (dropSplit s).safe.applied = 0) := by
  have hline (c : Bool) (u : State) (x : String) : (if c then sendPrompt (printLine u x) else u).safe = u.safe := by
    cases c <;> rfl
  unfold dropSplit
  split
  case isTrue =>
    dsimp only
    rw [hline]
    by_cases hs : s.safe.state = .split
    · rw [if_pos (decide_eq_true hs)]
      exact ⟨rfl, fun _ => rfl, fun _ => rfl⟩
    · rw [if_neg (by simpa using hs)]
      exact ⟨rfl, fun h => absurd h hs, id⟩
  case isFalse h =>
    obtain ⟨hs, hn⟩ := not_or.mp h
    exact ⟨by simpa using hn, fun h' => absurd h' hs, id⟩

/-- The end of a hold's condition leaves the inputs and the complex's state. -/
theorem endConditionIf_keeps (c : Prop) [Decidable c] (s : State) : (if c then endCondition s else s).pres = s.pres ∧
    (if c then endCondition s else s).safe.state = s.safe.state := by
  split <;> exact ⟨rfl, rfl⟩

theorem logWindow_pres (s : State) (input what : Nat) : (logWindow s input what).pres = s.pres :=
  logWindow_only s input what .pres (by decide)

theorem logWindow_safe (s : State) (input what : Nat) : (logWindow s input what).safe = s.safe :=
  logWindow_only s input what .safe (by decide)

theorem debugJumperRemoved_row (hopen : s.pres.debugOpen = true) : Answers .debugJumperRemoved s (fun t =>
    t.pres.debugOpen = false ∧ t.pres.debugJumper.active = false ∧ t.safe.split = none ∧
    (s.safe.state = .split → t.safe.state = .scratch)) := by
  refine .intro (congrArg Host.Outcome.next (if_pos hopen)) ?_
  rw [dropSplit_pres, afterClose_pres, logWindow_pres, (endConditionIf_keeps ..).1]
  refine ⟨rfl, rfl, (dropSplit_safe _).1, fun hs => (dropSplit_safe _).2.1 ?_⟩
  rw [afterClose_safe, logWindow_safe, (endConditionIf_keeps ..).2]
  exact hs

/-! ### Faults (R480) -/

/-- What an open window's close ends leaves the inputs and the outputs as they are. -/
theorem afterCloseIf_keeps (c : Bool) (s : State) : (if c then afterClose s else s).pres = s.pres ∧
    (if c then afterClose s else s).safe = s.safe := by
  cases c
  · exact ⟨rfl, rfl⟩
  · exact ⟨afterClose_pres s, afterClose_safe s⟩

theorem presenceInputFault_button (hm : managing s = true) (h : s.pres.button.fault = false) :
    Answers (.presenceInputFault 0) s (fun t => t.pres.button.fault = true ∧ t.pres.windowEnd = none ∧
      t.pres.pressed = none) := by
  refine .intro (congrArg Host.Outcome.next ((if_neg (by simp [hm])).trans (if_neg (by simp [h])))) ?_
  rw [(afterCloseIf_keeps ..).1]
  exact ⟨rfl, rfl, rfl⟩

theorem presenceInputFault_jumper (hm : managing s = true) (h : s.pres.jumper.fault = false) :
    Answers (.presenceInputFault 1) s (fun t => t.pres.jumper.fault = true ∧ t.pres.jumperOpen = false) := by
  refine .intro (congrArg Host.Outcome.next ((if_neg (by simp [hm])).trans (if_neg (by simp [h])))) ?_
  rw [(afterCloseIf_keeps ..).1]
  exact ⟨rfl, rfl⟩

theorem presenceInputFault_seal (hm : managing s = true) (h : s.pres.sealLoop.fault = false) :
    Answers (.presenceInputFault 2) s (fun t => t.pres.sealLoop.fault = true ∧ t.pres.sealOpen = false ∧
      t.safe.applied = 0) := by
  refine .intro (congrArg Host.Outcome.next ((if_neg (by simp [hm])).trans (if_neg (by simp [h])))) ?_
  rw [(afterCloseIf_keeps ..).1, (afterCloseIf_keeps ..).2]
  exact ⟨rfl, rfl, rfl⟩

theorem presenceInputFault_debug (hm : managing s = true) (h : s.pres.debugJumper.fault = false) :
    Answers (.presenceInputFault 3) s (fun t => t.pres.debugJumper.fault = true ∧ t.pres.debugOpen = false ∧
      t.safe.applied = 0) := by
  refine .intro (congrArg Host.Outcome.next ((if_neg (by simp [hm])).trans (if_neg (by simp [h])))) ?_
  by_cases hopen : s.pres.debugOpen = true
  · rw [if_pos hopen, dropSplit_pres, afterClose_pres]
    exact ⟨rfl, rfl, (dropSplit_safe _).2.2 rfl⟩
  · rw [if_neg hopen]
    exact ⟨rfl, rfl, rfl⟩

/-- A loop whose fault lifts while it is closed leaves a hold until a fully voted cycle (R368). -/
theorem presenceFaultLift_seal : Answers (.presenceFaultLift 2) s (fun t => t.pres.sealLoop.fault = false ∧
    (s.pres.sealLoop.fault = true → s.pres.sealLoop.raw = false → t.safe.hold = true)) := by
  refine ⟨_, rfl, ?_⟩
  cases hf : s.pres.sealLoop.fault with
  | false => exact ⟨hf, nofun⟩
  | true =>
    cases hr : s.pres.sealLoop.raw with
    | false => exact ⟨rfl, fun _ _ => rfl⟩
    | true => exact ⟨rfl, fun _ h => absurd h (by decide)⟩

theorem presenceFaultLift_debug : Answers (.presenceFaultLift 3) s (fun t => t.pres.debugJumper.fault = false) := by
  refine ⟨_, rfl, ?_⟩
  cases hf : s.pres.debugJumper.fault with
  | false => exact hf
  | true => cases s.pres.debugJumper.raw <;> rfl

end

/-- Settles O33: each row's effect, from the lemma above that bears its name. -/
theorem presenceWindowsOpenAndClose : Obligations.PresenceWindowsOpenAndClose := by
  unfold Obligations.PresenceWindowsOpenAndClose
  refine ⟨?_, ?_, ?_, ?_, ?_, ?_, ?_, ?_, ?_, ?_, ?_, ?_⟩
  case refine_1 => exact fun s hawake hfault hfree _ => maintButtonPress_row hawake hfault hfree
  case refine_2 => exact fun s ms t0 hm hfault hp => maintButtonRelease_row hm hfault hp
  case refine_3 => exact fun s t0 ht hdue => maintWindowClose_row ht hdue
  case refine_4 => exact fun s hm hfault hclosed => maintJumperFitted_row hm hfault hclosed
  case refine_5 => exact fun s hopen => maintJumperRemoved_row hopen
  case refine_6 => exact fun s a b hon => presenceRawChange_row a b hon
  case refine_7 => exact fun s hm hfault hclosed => sealOpened_row hm hfault hclosed
  case refine_8 => exact fun s hopen hact => sealClosed_row hopen hact
  case refine_9 => exact fun s hm hfault hclosed => debugJumperFitted_row hm hfault hclosed
  case refine_10 => exact fun s hopen => debugJumperRemoved_row hopen
  case refine_11 =>
    exact fun s hm => ⟨presenceInputFault_button hm, presenceInputFault_jumper hm, presenceInputFault_seal hm,
      presenceInputFault_debug hm⟩
  case refine_12 =>
    exact fun s => ⟨.intro rfl rfl, .intro rfl rfl, presenceFaultLift_seal, presenceFaultLift_debug⟩

end Sys2Proof.Proofs
end

section
/-! The requests of family 0x01 and the reads of skims (R182 to R184, R187, R420, R458, R548), and the statement O21. -/

namespace Sys2Proof.Proofs

open Sys2Proof Sys2Proof.Machine Sys2Proof.Laws

/-! ### The skim that a read names (R184, R187) -/

/-- A unit whose current skim is known retains a skim. -/
theorem nameSkim_current {w : State} {r : SkimRec} (h : currentFor w = some r) : nameSkim w none = .found r true := by
  unfold nameSkim
  split
  case h_1 hnone =>
    have hnever : retainedSkim w = fun _ => none := funext fun k => by simp only [retainedSkim, hnone, List.find?_nil]
    simp [currentFor, hnever, hnone] at h
  case h_2 c l hret =>
    cases hserved : w.cmd.servedSkim.bind (retainedSkim w) with
    | none =>
      simp only [currentFor, hserved, hret, List.head?_cons, Option.orElse_eq_orElse, Option.orElse_none, Option.some.injEq] at h
      simp only [h]
    | some x =>
      simp only [currentFor, hserved, Option.orElse_eq_orElse, Option.orElse_some, Option.some.injEq] at h
      simp only [h]

theorem nameSkim_neverCommitted {w : State} {k : Option Nat} (hret : w.skim.retained = []) (hbound : w.skim.bound = []) :
    nameSkim w k = .refused stBusy := by
  simp only [nameSkim, hret, hbound, List.isEmpty_nil, if_true]

section
variable {w : State} {r : SkimRec} {rest : List SkimRec} {n : Nat} (hret : w.skim.retained = r :: rest)
  (hnot : n ≠ r.desc.skim)
include hret hnot

theorem nameSkim_next (h : n = cycAdd r.desc.skim 1) : nameSkim w (some n) = .hold n := by
  simp only [nameSkim, hret, if_neg hnot, if_pos h]

theorem nameSkim_ahead (h : n ≠ cycAdd r.desc.skim 1) (hb : cycBefore n r.desc.skim = false) :
    nameSkim w (some n) = .refused stBadParameter := by
  simp only [nameSkim, hret, if_neg hnot, if_neg h, hb, Bool.not_false, if_true]

theorem nameSkim_expired (h : n ≠ cycAdd r.desc.skim 1) (hb : cycBefore n r.desc.skim = true)
    (hgone : retainedSkim w n = none) (hpins : w.skim.pins = []) (hcopy : w.skim.copyPin ≠ some n) :
    nameSkim w (some n) = .refused stSkimExpired := by
  simp only [nameSkim, hret, if_neg hnot, if_neg h, hb, Bool.not_true, Bool.false_eq_true, if_false, hgone, hpins,
    List.findSome?_nil, if_neg hcopy, Option.orElse_eq_orElse, Option.orElse_none]

end

theorem nameRead_noPin {w : State} {p : Packet} (h : pkItem p tPin = none) :
    nameRead w p = nameSkim w ((pkItem p tSkim).map (field · 0 4)) := by
  simp only [nameRead, h]

/-! ### Serving a read (R183, R184) -/

section
variable {v : State} {p : Packet}

theorem serveRead_found {r : SkimRec} {c : Bool} (h : nameRead (lapsePins v) p = .found r c) :
    serveRead v p = reply (lapsePins v) p stDone (readReply (lapsePins v) p r c) := by
  simp only [serveRead, h]

theorem serveRead_refused {st : Nat} (h : nameRead (lapsePins v) p = .refused st) :
    serveRead v p = reply (lapsePins v) p st [] := by
  simp only [serveRead, h]

theorem serveRead_hold {n : Nat} (h : nameRead (lapsePins v) p = .hold n) :
    serveRead v p = { lapsePins v with skim := { (lapsePins v).skim with
      held := v.skim.held ++ [⟨p, n, v.clk + cycleLen v⟩] } } := by
  simp only [serveRead, h]
  rfl

/-- A read or a descriptor read whose ids hold, if it takes any. -/
def ReadServed (c : Instr) (s : State) (p : Packet) (v : State) : Prop :=
  (c = .opSkimRead p ∧ servedNow s 0x0201 p v ∧ readIdsOk v p = true) ∨ (c = .opSkimDescriptor p ∧ servedNow s 0x0203 p v)

theorem exec_of_readServed {c : Instr} {s : State} (h : ReadServed c s p v) : exec c s = .next (serveRead v p) := by
  rcases h with ⟨rfl, hv, hids⟩ | ⟨rfl, hv⟩
  · exact congrArg Host.Outcome.next ((serve_now _ hv).trans (if_pos hids))
  · exact congrArg Host.Outcome.next (serve_now _ hv)

theorem read_refused {c : Instr} {s : State} {st : Nat} (h : ReadServed c s p v)
    (hn : nameRead (lapsePins v) p = .refused st) : Replies c s p st [] (fun u => u = lapsePins v) :=
  ⟨_, (exec_of_readServed h).trans (congrArg Host.Outcome.next (serveRead_refused hn)), rfl⟩

theorem read_found {c : Instr} {s : State} {r : SkimRec} {x : Bool} (h : ReadServed c s p v)
    (hn : nameRead (lapsePins v) p = .found r x) :
    Replies c s p stDone (readReply (lapsePins v) p r x) (fun u => u = lapsePins v) :=
  ⟨_, (exec_of_readServed h).trans (congrArg Host.Outcome.next (serveRead_found hn)), rfl⟩

theorem read_waits {c : Instr} {s : State} {n : Nat} (h : ReadServed c s p v) (hn : nameRead (lapsePins v) p = .hold n) :
    Answers c s (fun t => t.skim.held = v.skim.held ++ [⟨p, n, v.clk + cycleLen v⟩] ∧ t.host = v.host ∧ t.out = v.out) :=
  .intro ((exec_of_readServed h).trans (congrArg Host.Outcome.next (serveRead_hold hn))) ⟨rfl, rfl, rfl⟩

/-- A request that names nothing reads the current skim. -/
theorem nameRead_current {r : SkimRec} (hr : currentFor v = some r) (hpin : pkItem p tPin = none)
    (hskim : pkItem p tSkim = none) : nameRead (lapsePins v) p = .found r true := by
  have hcur : currentFor (lapsePins v) = some r := hr
  rw [nameRead_noPin hpin, hskim]
  exact nameSkim_current hcur

theorem skimRead_current {s : State} {r : SkimRec} (hv : servedNow s 0x0201 p v) (hids : readIdsOk v p = true)
    (hr : currentFor v = some r) (hpin : pkItem p tPin = none) (hskim : pkItem p tSkim = none) :
    Replies (.opSkimRead p) s p stDone (readData (lapsePins v) p r true) (fun u => u = lapsePins v) := by
  have hop : p.opcode ≠ 0x0203 := by
    obtain ⟨-, hop, -⟩ := hv
    omega
  have h := read_found (.inl ⟨rfl, hv, hids⟩) (nameRead_current hr hpin hskim)
  rwa [readReply, if_neg hop] at h

theorem skimDescriptor_current {s : State} {r : SkimRec} (hv : servedNow s 0x0203 p v) (hr : currentFor v = some r)
    (hpin : pkItem p tPin = none) (hskim : pkItem p tSkim = none) :
    Replies (.opSkimDescriptor p) s p stDone (descBytes r.desc) (fun u => u = lapsePins v) := by
  obtain ⟨-, hop, -⟩ := id hv
  have h := read_found (.inr ⟨rfl, hv⟩) (nameRead_current hr hpin hskim)
  rwa [readReply, if_pos hop] at h

theorem skimDescriptor_beforeFirst {s : State} (hv : servedNow s 0x0203 p v) (hret : v.skim.retained = [])
    (hbound : v.skim.bound = []) (hpin : pkItem p tPin = none) :
    Replies (.opSkimDescriptor p) s p stBusy [] (fun u => u = lapsePins v) :=
  read_refused (.inr ⟨rfl, hv⟩) ((nameRead_noPin hpin).trans (nameSkim_neverCommitted hret hbound))

theorem skimRead_badIds {s : State} (hv : servedNow s 0x0201 p v) (hids : readIdsOk v p = false) :
    Replies (.opSkimRead p) s p stBadParameter [] (fun u => u = v) :=
  Replies.intro hv rfl (if_neg (by simp [hids])) rfl

end

/-! ### Held reads (R184) -/

section
variable {s : State} {x : HeldRead} (hheld : s.skim.held = [x])
include hheld

theorem skimReadHeldAnswer_answers {r : SkimRec} (hr : retainedSkim s x.skim = some r) :
    Replies .skimReadHeldAnswer s x.packet stDone
      (readReply { s with skim := { s.skim with held := [] } } x.packet r (x.skim == skimNow s))
      (fun u => u = { s with skim := { s.skim with held := [] } }) := by
  refine ⟨_, congrArg Host.Outcome.next ?_, rfl⟩
  have hr' (l : List HeldRead) : retainedSkim { s with skim := { s.skim with held := l } } x.skim = some r := hr
  simp only [hheld, hr, List.filter_cons, Option.isSome_some, Option.isNone_some, Bool.false_eq_true, if_true, if_false,
    List.filter_nil, List.foldl_cons, List.foldl_nil, hr']
  rfl

theorem skimReadTimeout_answers (hr : retainedSkim s x.skim = none) (hlate : x.until_ ≤ s.clk) :
    Replies .skimReadTimeout s x.packet stBusy [] (fun u => u = { s with skim := { s.skim with held := [] } }) := by
  refine ⟨_, congrArg Host.Outcome.next ?_, rfl⟩
  simp [hheld, hr, hlate]

end

/-- Settles O21: each request's reply, from the lemma above that bears its name. -/
theorem identityStatusAndSkimReadsAnswer : Obligations.IdentityStatusAndSkimReadsAnswer := by
  unfold Obligations.IdentityStatusAndSkimReadsAnswer
  refine ⟨?_, ?_, ?_, ?_, ?_, ?_, ?_, ?_, ?_, ?_⟩
  case refine_1 => exact fun s v p hv => Replies.intro hv rfl rfl rfl
  case refine_2 =>
    intro s v p hv
    refine Replies.intro hv rfl ?_ rfl
    have hpower : powerCode v = if v.sleep.power = .lineKeeping then 1 else 0 := by
      simp [powerCode, b2n]
    rw [← hpower]
    rfl
  case refine_3 => exact fun s v p hv => Replies.intro hv rfl rfl rfl
  case refine_4 => exact fun s v p r hv hids hr hpin hskim => skimRead_current hv hids hr hpin hskim
  case refine_5 => exact fun s v p r hv hr hpin hskim => skimDescriptor_current hv hr hpin hskim
  case refine_6 =>
    intro s v p c r rest n hc hret hpin hskim hnot
    have hname : nameRead (lapsePins v) p = nameSkim (lapsePins v) (some n) := (nameRead_noPin hpin).trans (by rw [hskim])
    have hret' : (lapsePins v).skim.retained = r :: rest := hret
    refine ⟨fun h => ?_, fun h hb => ?_, fun hb h hgone hpins hcopy => ?_⟩
    · exact read_waits hc (hname.trans (nameSkim_next hret' hnot h))
    · exact read_refused hc (hname.trans (nameSkim_ahead hret' hnot h hb))
    · have hpins' : (lapsePins v).skim.pins = [] := by simp [lapsePins, hpins]
      exact read_refused hc (hname.trans (nameSkim_expired hret' hnot h hb hgone hpins' hcopy))
  case refine_7 => exact fun s v p hv hret hbound hpin => skimDescriptor_beforeFirst hv hret hbound hpin
  case refine_8 => exact fun s v p hv hids => skimRead_badIds hv hids
  case refine_9 => exact fun s x r hheld hr => skimReadHeldAnswer_answers hheld hr
  case refine_10 => exact fun s x hheld hr hlate => skimReadTimeout_answers hheld hr hlate

end Sys2Proof.Proofs
end

section
/-! Skim writes, pins and forces (R187, R190 to R192, R227, R233, R458), and the statement O22. -/

namespace Sys2Proof.Proofs

open Sys2Proof Sys2Proof.Machine Sys2Proof.Laws

/-! ### Writes (R190, R192, R233) -/

/-- A write posted while nothing waits is queued under a new tag (R227, R233). -/
theorem postMessage_posts {v : State} {tag : Nat} (p : Packet) (slot tk lk typ target value log : Nat)
    (htag : newTag v = some tag) (hqueue : v.bridge.queue = []) (hfar : v.bridge.farQueue = []) :
    ∃ u, postMessage v p slot tk lk typ target value log = reply u p stPosted (be 2 tag) ∧
      (∃ m, u.bridge.queue = [m] ∧ m.kind = 1 ∧ m.tag = tag ∧ m.destSlot = slot ∧ m.source = initiatorOf v p.sess) ∧
      (∃ x, u.bridge.tags = v.bridge.tags ++ [x] ∧ x.tag = tag ∧ x.kind = .postedWrite ∧ x.target = log ∧
        x.deadline = v.clk + bridgeTimeout v) ∧ u.skim = v.skim := by
  have hroom : ¬ (4096 ≤ postedQueued v ∨
      256 ≤ (v.bridge.queue.filter (fun m => m.source == initiatorOf v p.sess)).length) := by
    simp [postedQueued, hqueue, hfar]
  simp only [postMessage, htag, if_neg hroom]
  exact ⟨_, rfl, ⟨_, congrArg (· ++ _) hqueue, rfl, rfl, rfl, rfl⟩, ⟨_, rfl, rfl, rfl, rfl, rfl⟩, rfl⟩

section
variable {s v : State} {p : Packet} {id : Nat} (hv : servedNow s 0x0202 p v) (hid : oneId p = some id)
include hv hid

theorem skimWrite_node (h : isNodeSignal id = true) :
    Replies (.opSkimWrite p) s p stBadParameter [] (fun u => u = v) := by
  refine Replies.intro hv rfl ?_ rfl
  simp only [hid, h, if_true]

section
variable (hnode : isNodeSignal id = false)
include hnode

theorem skimWrite_notAllowed (hown : ownSignal v id = true) (h : writeAllowed v id = false) :
    Replies (.opSkimWrite p) s p stBadParameter [] (fun u => u = v) := by
  refine Replies.intro hv rfl ?_ rfl
  simp only [hid, hnode, hown, h, Bool.not_true, Bool.not_false, Bool.false_eq_true, if_true, if_false]

theorem skimWrite_stages {d : SigDef} (hown : ownSignal v id = true) (h : writeAllowed v id = true)
    (hc : composing v = true) (hd : defOf v id = some d) :
    Replies (.opSkimWrite p) s p stDone (be 4 (nextSkim v)) (fun u =>
      u = { v with skim := { v.skim with
        writes := v.skim.writes ++ [⟨id, typedValue d.typ (valueItem p), none,
          if v.cyc.running then some (nextSkim v) else none, none⟩] } }) := by
  refine Replies.intro hv rfl ?_ rfl
  simp only [hid, hnode, hown, h, hc, hd, Bool.not_true, Bool.false_eq_true, if_true, if_false, Option.elim_some]
  rfl

section
variable (hforeign : ownSignal v id = false) (hc : composing v = true)
include hforeign hc

theorem skimWrite_absent (h : slotPresent v (sigSlot id) = false) :
    Replies (.opSkimWrite p) s p stRouteMissing [] (fun u => u = v) := by
  refine Replies.intro hv rfl ?_ rfl
  simp only [hid, hnode, hforeign, atComposing, hc, postSignal, h, Bool.not_false, Bool.false_eq_true, if_true, if_false]

theorem skimWrite_posts {tag : Nat} (h : slotPresent v (sigSlot id) = true) (htag : newTag v = some tag)
    (hqueue : v.bridge.queue = []) (hfar : v.bridge.farQueue = []) :
    Replies (.opSkimWrite p) s p stPosted (be 2 tag) (fun u =>
      (∃ m, u.bridge.queue = [m] ∧ m.kind = 1 ∧ m.tag = tag ∧ m.destSlot = sigSlot id ∧ m.source = initiatorOf v p.sess) ∧
      (∃ x, u.bridge.tags = v.bridge.tags ++ [x] ∧ x.tag = tag ∧ x.kind = .postedWrite ∧ x.target = id ∧
        x.deadline = v.clk + bridgeTimeout v) ∧ u.skim = v.skim) := by
  have hpost : ∃ typ value, postSignal v p id = postMessage v p (sigSlot id) 2 2 typ id value id := by
    unfold postSignal
    rw [if_neg (by simp [h])]
    dsimp only
    split
    · exact ⟨_, _, rfl⟩
    · exact ⟨_, _, rfl⟩
  obtain ⟨typ, value, hpost⟩ := hpost
  obtain ⟨u, hu, hrow⟩ := postMessage_posts p (sigSlot id) 2 2 typ id value id htag hqueue hfar
  refine Replies.intro hv rfl ?_ hrow
  simp only [hid, hnode, hforeign, atComposing, hc, hpost, hu, Bool.not_false, Bool.false_eq_true, if_true, if_false]

end
end
end

/-! ### Pins (R187) -/

/-- The current skim is one of those retained. -/
theorem retained_of_currentFor {w : State} {r : SkimRec} (h : currentFor w = some r) :
    (retainedSkim w r.desc.skim).isNone = false := by
  have hmem : r ∈ w.skim.retained := by
    unfold currentFor at h
    cases hserved : w.cmd.servedSkim.bind (retainedSkim w) with
    | none =>
      rw [hserved] at h
      exact List.mem_of_mem_head? h
    | some x =>
      rw [hserved] at h
      obtain rfl : x = r := Option.some.inj h
      obtain ⟨k, -, hk⟩ := Option.bind_eq_some_iff.mp hserved
      exact List.mem_of_find?_eq_some hk
  cases hfind : retainedSkim w r.desc.skim with
  | some _ => rfl
  | none => exact absurd (beq_self_eq_true r.desc.skim) (by simpa using List.find?_eq_none.mp hfind r hmem)

/-- A skim before the window that a pin keeps is read from that pin. -/
theorem nameSkim_pinned {w : State} {n : Nat} (hret : w.skim.retained ≠ [])
    (hpin : ∃ x ∈ w.skim.pins, x.skim = n ∧ x.kept.isSome = true)
    (hkept : ∀ x ∈ w.skim.pins, ∀ r, x.kept = some r → r.desc.skim = x.skim) (hold : cycBefore n (skimNow w) = true)
    (hnext : n ≠ cycAdd (skimNow w) 1) (hgone : retainedSkim w n = none) :
    ∃ r, nameSkim w (some n) = .found r false ∧ r.desc.skim = n := by
  obtain ⟨c, l, hcl⟩ := List.exists_cons_of_ne_nil hret
  have hnow : skimNow w = c.desc.skim := by simp only [skimNow, hcl]
  have hnot : n ≠ c.desc.skim := by
    rintro rfl
    simp [retainedSkim, hcl] at hgone
  obtain ⟨r, hr⟩ : ∃ r, w.skim.pins.findSome? (fun x => if x.skim = n then x.kept else none) = some r := by
    obtain ⟨x, hx, hn, hsome⟩ := hpin
    rw [← Option.isSome_iff_exists, List.findSome?_isSome_iff]
    exact ⟨x, hx, by rwa [if_pos hn]⟩
  refine ⟨r, ?_, ?_⟩
  · rw [hnow] at hold hnext
    simp only [nameSkim, hcl, if_neg hnot, if_neg hnext, hold, Bool.not_true, Bool.false_eq_true, if_false, hgone, hr,
      Option.orElse_eq_orElse, Option.orElse_some]
  · obtain ⟨x, hx, hxr⟩ := List.exists_of_findSome?_eq_some hr
    split at hxr
    case isTrue hn => exact (hkept x hx r hxr).trans hn
    case isFalse => cases hxr

section
variable {s v w : State} {p : Packet} (hv : servedNow s 0x0204 p v) (hw : w = lapsePins v)
include hv hw

section
variable {ms h : Nat} {r : SkimRec} (hlease : leaseMs p = some ms) (hskim : pkItem p tSkim = none)
  (hcur : currentFor v = some r) (hh : newHandle w = some h)
include hlease hskim hcur hh

theorem pinTake_pins (hroom : w.skim.pins.length < 16) :
    Replies (.opPinTake p) s p stDone (be 2 h ++ be 4 r.desc.skim) (fun u =>
      u.skim.pins = w.skim.pins ++ [⟨h, r.desc.skim, some r, v.clk + ms * 1000000⟩] ∧ u.skim.forces = v.skim.forces) := by
  subst hw
  have hcur' : currentFor (lapsePins v) = some r := hcur
  refine Replies.intro (u := { lapsePins v with skim := { (lapsePins v).skim with
    pins := (lapsePins v).skim.pins ++ [⟨h, r.desc.skim, some r, v.clk + ms * 1000000⟩], nextHandle := h % 65535 + 1 } })
    hv rfl ?_ ⟨rfl, rfl⟩
  simp only [hlease, hskim, Option.map_none, nameSkim_current hcur', hh, retained_of_currentFor hcur', Bool.false_eq_true,
    if_false, if_neg (Nat.not_le.mpr hroom)]
  rfl

theorem pinTake_full (hfull : 16 ≤ w.skim.pins.length) : Replies (.opPinTake p) s p stBusy [] (fun u => u = w) := by
  subst hw
  have hcur' : currentFor (lapsePins v) = some r := hcur
  refine Replies.intro hv rfl ?_ rfl
  simp only [hlease, hskim, Option.map_none, nameSkim_current hcur', hh, retained_of_currentFor hcur', Bool.false_eq_true,
    if_false, if_pos hfull]

end

/-- A skim that only another pin keeps takes no pin. -/
theorem pinTake_expired {ms n h : Nat} (hlease : leaseMs p = some ms) (hskim : (pkItem p tSkim).map (field · 0 4) = some n)
    (hh : newHandle w = some h) (hret : v.skim.retained ≠ [])
    (hpin : ∃ x ∈ v.skim.pins, x.skim = n ∧ x.kept.isSome = true ∧ v.clk < x.lease)
    (hkept : ∀ x ∈ v.skim.pins, ∀ r, x.kept = some r → r.desc.skim = x.skim)
    (hold : cycBefore n (skimNow v) = true) (hnext : n ≠ cycAdd (skimNow v) 1) (hgone : retainedSkim v n = none) :
    Replies (.opPinTake p) s p stSkimExpired [] (fun u => u = w) := by
  subst hw
  have hpin' : ∃ x ∈ (lapsePins v).skim.pins, x.skim = n ∧ x.kept.isSome = true := by
    obtain ⟨x, hx, hn, hsome, hlive⟩ := hpin
    exact ⟨x, List.mem_filter.mpr ⟨hx, decide_eq_true hlive⟩, hn, hsome⟩
  have hkept' : ∀ x ∈ (lapsePins v).skim.pins, ∀ r, x.kept = some r → r.desc.skim = x.skim :=
    fun x hx => hkept x (List.mem_filter.mp hx).1
  have hgone' : retainedSkim (lapsePins v) n = none := hgone
  obtain ⟨r, hr, hrn⟩ := nameSkim_pinned (w := lapsePins v) hret hpin' hkept' hold hnext hgone'
  refine Replies.intro hv rfl ?_ rfl
  simp only [hlease, hskim, hr, hh, hrn, hgone', Option.isNone_none, if_true]

theorem pinTake_badLease (hlease : leaseMs p = none) :
    Replies (.opPinTake p) s p stBadParameter [] (fun u => u = w) := by
  subst hw
  refine Replies.intro hv rfl ?_ rfl
  simp only [hlease]

end

section
variable {s v w : State} {p : Packet} {ms : Nat} (hv : servedNow s 0x0205 p v) (hw : w = lapsePins v)
  (hlease : leaseMs p = some ms)
include hv hw hlease

theorem pinRenew_prolongs {x : Pin} (hx : w.skim.pins.find? (fun y => y.handle == pkNum p tPin 0) = some x)
    (hkept : x.kept.isSome = true) :
    Replies (.opPinRenew p) s p stDone (be 8 (time64 (v.time.now + ms * 1000000))) (fun u =>
      u.skim.pins = w.skim.pins.map (fun y =>
        if y.handle = pkNum p tPin 0 then { y with lease := v.clk + ms * 1000000 } else y)) := by
  subst hw
  refine Replies.intro (u := { lapsePins v with skim := { (lapsePins v).skim with
    pins := (lapsePins v).skim.pins.map (fun y =>
      if y.handle = pkNum p tPin 0 then { y with lease := v.clk + ms * 1000000 } else y) } }) hv rfl ?_ rfl
  have hnot : ¬ x.kept.isNone = true := by simpa [Option.isSome_iff_ne_none] using hkept
  simp only [hlease, hx, if_neg hnot]
  rfl

theorem pinRenew_broken {x : Pin} (hx : w.skim.pins.find? (fun y => y.handle == pkNum p tPin 0) = some x)
    (hkept : x.kept = none) : Replies (.opPinRenew p) s p stSkimExpired [] (fun u => u = w) := by
  subst hw
  refine Replies.intro hv rfl ?_ rfl
  simp only [hlease, hx, hkept, Option.isNone_none, if_true]

theorem pinRenew_unknown (hx : w.skim.pins.find? (fun y => y.handle == pkNum p tPin 0) = none) :
    Replies (.opPinRenew p) s p stBadParameter [] (fun u => u = w) := by
  subst hw
  refine Replies.intro hv rfl ?_ rfl
  simp only [hlease, hx]

end

section
variable {s v w : State} {p : Packet} (hv : servedNow s 0x0206 p v) (hw : w = lapsePins v)
include hv hw

theorem pinRelease_frees (hx : w.skim.pins.any (fun x => x.handle == pkNum p tPin 0) = true) :
    Replies (.opPinRelease p) s p stDone [] (fun u =>
      u.skim.pins = w.skim.pins.filter (fun x => x.handle != pkNum p tPin 0) ∧
      u.skim.freed = w.skim.freed ++ [(pkNum p tPin 0, v.clk + 10000000000)]) := by
  subst hw
  exact Replies.intro (u := { lapsePins v with skim := { (lapsePins v).skim with
    pins := (lapsePins v).skim.pins.filter (fun x => x.handle != pkNum p tPin 0)
    freed := (lapsePins v).skim.freed ++ [(pkNum p tPin 0, v.clk + 10000000000)] } }) hv rfl (if_pos hx) ⟨rfl, rfl⟩

theorem pinRelease_unknown (hx : w.skim.pins.any (fun x => x.handle == pkNum p tPin 0) = false) :
    Replies (.opPinRelease p) s p stBadParameter [] (fun u => u = w) := by
  subst hw
  exact Replies.intro hv rfl (if_neg (by simp [hx])) rfl

end

/-! ### Forces (R191, R192) -/

section
variable {s v : State} {p : Packet} {id : Nat} (hv : servedNow s 0x0207 p v) (hid : oneId p = some id)
include hv hid

theorem force_notAllowed (h : ownSignal v id = false ∨ forceAllowed v id = false) :
    Replies (.opForce p) s p stBadParameter [] (fun u => u = v) := by
  refine Replies.intro hv rfl ?_ rfl
  simp only [hid]
  exact if_pos (by simpa using h)

section
variable {d : SigDef} (hown : ownSignal v id = true) (hforce : forceAllowed v id = true)
include hown hforce

theorem force_sets (hd : defOf v id = some d)
    (hroom : ((v.skim.forces.filter (fun f => f.id != id)).map (·.id)).eraseDups.length < 256) :
    Replies (.opForce p) s p stDone (be 4 (nextSkim v)) (fun u =>
      u.skim.forces = v.skim.forces.filter (fun f => f.id != id) ++
        v.skim.forces.filter (fun f => f.id == id && forceDue (gridN v) f) ++ [⟨id, typedValue d.typ (valueItem p),
          openWindows v.pres, if v.cyc.running then some (nextSkim v) else none⟩] ∧ u.skim.writes = v.skim.writes) := by
  refine Replies.intro (u := { v with skim := { v.skim with forces := _ } }) hv rfl ?_ ⟨rfl, rfl⟩
  simp only [hid, hown, hforce, hd, Bool.not_true, Bool.false_eq_true, or_self, if_false, Option.elim_some,
    if_neg (Nat.not_le.mpr hroom)]

theorem force_full (hfull : 256 ≤ ((v.skim.forces.filter (fun f => f.id != id)).map (·.id)).eraseDups.length) :
    Replies (.opForce p) s p stBusy [] (fun u => u = v) := by
  refine Replies.intro hv rfl ?_ rfl
  simp only [hid, hown, hforce, Bool.not_true, Bool.false_eq_true, or_self, if_false, if_pos hfull]

end
end

section
variable {s v : State} {p : Packet} (hv : servedNow s 0x0208 p v)
include hv

theorem forceRelease_all (hids : pkItem p tIds = none) :
    Replies (.opForceRelease p) s p stDone (be 4 (v.skim.forces.map (·.id)).eraseDups.length) (fun u =>
      u.skim.forces = []) := by
  refine Replies.intro (u := { v with skim := { v.skim with forces := [] } }) hv rfl ?_ rfl
  simp only [hids, Option.map_none, Bool.false_eq_true, if_false, Bool.not_true, filter_everything, filter_nothing]

theorem forceRelease_notAllowed {b : Bytes} (hids : pkItem p tIds = some b)
    (h : ∃ id ∈ idList b, 2 ^ 23 ≤ id ∨ ownSignal v id = false ∨ forceAllowed v id = false) :
    Replies (.opForceRelease p) s p stBadParameter [] (fun u => u = v) := by
  refine Replies.intro hv rfl ?_ rfl
  simp only [hids, Option.map_some]
  exact if_pos (List.any_eq_true.mpr (by simpa [or_assoc] using h))

theorem forceRelease_named {b : Bytes} (hids : pkItem p tIds = some b)
    (h : ∀ id ∈ idList b, id < 2 ^ 23 ∧ ownSignal v id = true ∧ forceAllowed v id = true) :
    Replies (.opForceRelease p) s p stDone
      (be 4 ((v.skim.forces.filter (fun f => (idList b).contains f.id)).map (·.id)).eraseDups.length) (fun u =>
        u.skim.forces = v.skim.forces.filter (fun f => !(idList b).contains f.id)) := by
  refine Replies.intro (u := { v with skim := { v.skim with
    forces := v.skim.forces.filter (fun f => !(idList b).contains f.id) } }) hv rfl ?_ rfl
  simp only [hids, Option.map_some]
  refine if_neg fun hbad => ?_
  obtain ⟨id, hmem, hno⟩ := List.any_eq_true.mp hbad
  obtain ⟨hlt, hown, hforce⟩ := h id hmem
  simp [hown, hforce] at hno
  omega

end

/-- Settles O22: each request's reply and the state behind it, from the lemma above that bears its name. -/
theorem writesPinsAndForcesAreServed : Obligations.WritesPinsAndForcesAreServed := by
  unfold Obligations.WritesPinsAndForcesAreServed
  refine ⟨?_, ?_, ?_, ?_, ?_, ?_⟩
  case refine_1 =>
    exact fun s v p id hv hid => ⟨skimWrite_node hv hid, skimWrite_notAllowed hv hid,
      fun d hnode => skimWrite_stages hv hid hnode, skimWrite_absent hv hid,
      fun tag hnode hforeign hc => skimWrite_posts hv hid hnode hforeign hc⟩
  case refine_2 =>
    exact fun s v w p hv hw => ⟨fun ms r h hlease hskim hcur hh =>
      ⟨pinTake_pins hv hw hlease hskim hcur hh, pinTake_full hv hw hlease hskim hcur hh⟩,
      fun ms n h => pinTake_expired hv hw, pinTake_badLease hv hw⟩
  case refine_3 =>
    exact fun s v w p ms hv hw hlease => ⟨fun x => pinRenew_prolongs hv hw hlease, fun x => pinRenew_broken hv hw hlease,
      pinRenew_unknown hv hw hlease⟩
  case refine_4 => exact fun s v w p hv hw => ⟨pinRelease_frees hv hw, pinRelease_unknown hv hw⟩
  case refine_5 =>
    exact fun s v p id hv hid => ⟨force_notAllowed hv hid, fun d hown hforce hd =>
      ⟨force_sets hv hid hown hforce hd, force_full hv hid hown hforce⟩⟩
  case refine_6 =>
    exact fun s v p hv => ⟨forceRelease_all hv, fun b => forceRelease_notAllowed hv, fun b => forceRelease_named hv⟩

end Sys2Proof.Proofs
end

section
/-! The history snapshot, the route table's edits, and the opcodes of the cycle, the schedule, steps and events (R74, R160,
R189, R199, R218, R219, R221, R458), and the statement O23. -/

namespace Sys2Proof.Proofs

open Sys2Proof Sys2Proof.Machine Sys2Proof.Laws

section
variable {s v : State} {p : Packet}

/-! ### The history snapshot (R189) -/

/-- A copy of the retained skims has begun. -/
def copying (v : State) (r : SkimRec) : State :=
  { v with skim := { v.skim with
      snapshot := { v.skim.snapshot with state := 1, skim := r.desc.skim, desc := some r.desc, image := r.image,
                                         recs := v.skim.retained }
      copyPin := windowOldest v } }

theorem startSnapshot_starts {r : SkimRec} {rest : List SkimRec} (hstate : v.skim.snapshot.state ≠ 1)
    (hlock : v.skim.snapshot.locked = false) (hret : v.skim.retained = r :: rest) : startSnapshot v = copying v r := by
  simp only [startSnapshot, if_neg (show ¬ (v.skim.snapshot.state = 1 ∨ v.skim.snapshot.locked = true) by simp [hstate, hlock])]
  split
  case h_1 hnone => simp [hret] at hnone
  case h_2 c l hcl =>
    obtain ⟨rfl, -⟩ := List.cons.inj (hret.symm.trans hcl)
    rfl

theorem snapshotTake_starts {r : SkimRec} {rest : List SkimRec} (hv : servedNow s 0x0209 p v)
    (hstate : v.skim.snapshot.state ≠ 1) (hlock : v.skim.snapshot.locked = false) (hret : v.skim.retained = r :: rest) :
    Replies (.opSnapshotTake p) s p stDone (be 4 ((windowOldest v).getD 0)) (fun u =>
      u.skim.snapshot.state = 1 ∧ u.skim.snapshot.recs = v.skim.retained ∧ u.skim.snapshot.skim = r.desc.skim ∧
      u.skim.snapshot.locked = bitOf (pkNum p tMode 0) 0 ∧ u.skim.copyPin = windowOldest v) := by
  refine Replies.intro (u := { copying v r with skim := { (copying v r).skim with
    snapshot := { (copying v r).skim.snapshot with locked := bitOf (pkNum p tMode 0) 0 } } }) hv rfl ?_
    ⟨rfl, rfl, rfl, rfl, rfl⟩
  rw [if_neg (by simp [hstate, hlock, hret]), startSnapshot_starts hstate hlock hret]
  rfl

theorem snapshotTake_busy (hv : servedNow s 0x0209 p v) (h : v.skim.snapshot.state = 1 ∨ v.skim.snapshot.locked = true) :
    Replies (.opSnapshotTake p) s p stBusy [] (fun u => u.skim = v.skim ∧ u = report v 0x0405 9 0 []) := by
  have hlogged : startSnapshot v = report v 0x0405 9 0 [] := if_pos h
  refine Replies.intro (u := report v 0x0405 9 0 []) hv rfl ?_ ⟨rfl, rfl⟩
  rw [if_pos (h.imp_right .inl), hlogged]

theorem snapshotRead_incomplete (hv : servedNow s 0x020A p v) (hcount : pkNum p tCount 0 ≤ 16376)
    (hstate : v.skim.snapshot.state ≠ 2) :
    Replies (.opSnapshotRead p) s p stDone (be 1 (snapshotCode v.skim.snapshot)) (fun u => u = v) := by
  refine Replies.intro hv rfl ?_ rfl
  rw [if_neg (Nat.not_lt.mpr hcount), if_neg hstate, List.append_nil]

theorem snapshotLock_locks (hv : servedNow s 0x020B p v) (h : v.skim.snapshot.state ≠ 0) :
    Replies (.opSnapshotLock p) s p stDone [] (fun u => u.skim.snapshot = { v.skim.snapshot with locked := true }) :=
  Replies.intro (u := { v with skim := { v.skim with snapshot := { v.skim.snapshot with locked := true } } }) hv rfl
    (if_neg h) rfl

theorem snapshotLock_none (hv : servedNow s 0x020B p v) (h : v.skim.snapshot.state = 0) :
    Replies (.opSnapshotLock p) s p stNotApplicable [] (fun u => u = v) :=
  Replies.intro hv rfl (if_pos h) rfl

theorem snapshotUnlock_frees (hv : servedNow s 0x020C p v) : Replies (.opSnapshotUnlock p) s p stDone [] (fun u =>
    u.skim.snapshot = { v.skim.snapshot with locked := false }) :=
  Replies.intro (u := { v with skim := { v.skim with snapshot := { v.skim.snapshot with locked := false } } }) hv rfl rfl rfl

/-! ### The route table (R199, R218, R219, R221) -/

theorem routeRead_answers (hv : servedNow s 0x0301 p v) (hcount : pkNum p tCount 0 ≤ 256)
    (hindex : pkNum p tIndex 0 < 1048576) : Replies (.opRouteRead p) s p stDone
      ((List.range (min (pkNum p tCount 0) (1048576 - pkNum p tIndex 0))).flatMap (fun k => entryAt v (pkNum p tIndex 0 + k)))
      (fun u => u = v) :=
  Replies.intro hv rfl (if_neg (by omega)) rfl

theorem routeRead_outside (hv : servedNow s 0x0301 p v) (h : 256 < pkNum p tCount 0 ∨ 1048576 ≤ pkNum p tIndex 0) :
    Replies (.opRouteRead p) s p stBadParameter [] (fun u => u = v) :=
  Replies.intro hv rfl (if_pos h) rfl

theorem routeEdit_staged (hv : servedNow s 0x0302 p v) (h : v.route.staged.isSome = true) :
    Replies (.opRouteEdit p) s p stBusy [] (fun u => u = v) :=
  Replies.intro hv rfl (if_pos h) rfl

theorem editList_sized {b : Bytes} (hwhole : b.length % 36 = 0) (hmin : 36 ≤ b.length) (hmax : b.length ≤ 9216) :
    ¬ (b.length % 36 ≠ 0 ∨ (editList b).isEmpty = true ∨ 256 < (editList b).length) := by
  have hlen : (editList b).length = b.length / 36 := by simp [editList]
  rw [List.isEmpty_iff_length_eq_zero, hlen]
  omega

theorem editList_inTable {b : Bytes} (hindex : ∀ x ∈ editList b, x.1 < 1048576) :
    (editList b).find? (fun x => decide (1048576 ≤ x.1)) = none :=
  List.find?_eq_none.mpr fun x hx => by
    have hlt := hindex x hx
    simp [hlt]

section
variable {b : Bytes} (hv : servedNow s 0x0302 p v) (hb : pkItem p tData = some b)
include hv hb

theorem routeEdit_torn (hstaged : v.route.staged = none) (h : b.length % 36 ≠ 0) :
    Replies (.opRouteEdit p) s p stBadParameter [] (fun u => u = v) := by
  refine Replies.intro hv rfl ?_ rfl
  simp only [hb, Option.getD_some, hstaged, Option.isSome_none, Bool.false_eq_true, if_false]
  exact if_pos (.inl h)

section
variable (hstaged : v.route.staged = none) (hwhole : b.length % 36 = 0) (hmin : 36 ≤ b.length) (hmax : b.length ≤ 9216)
include hstaged hwhole hmin hmax

section
variable (hindex : ∀ x ∈ editList b, x.1 < 1048576)
include hindex

theorem routeEdit_edits (hok : tableChecks v (editTable (editBase v) (editList b) (nextSkim v)).entries = none) :
    Replies (.opRouteEdit p) s p stDone (be 4 (nextSkim v)) (fun u =>
      u.route.edited = some (editTable (editBase v) (editList b) (nextSkim v)) ∧ u.route.table = v.route.table) := by
  refine Replies.intro (u := { v with route := { v.route with
    edited := some (editTable (editBase v) (editList b) (nextSkim v)) } }) hv rfl ?_ ⟨rfl, rfl⟩
  simp only [hb, Option.getD_some, hstaged, Option.isSome_none, Bool.false_eq_true, if_false,
    if_neg (editList_sized hwhole hmin hmax), editList_inTable hindex, hok]

theorem routeEdit_refused {x : Nat × Nat}
    (hbad : tableChecks v (editTable (editBase v) (editList b) (nextSkim v)).entries = some x) :
    Replies (.opRouteEdit p) s p stBadParameter (be 1 x.1 ++ be 4 x.2) (fun u => u = v) := by
  refine Replies.intro hv rfl ?_ rfl
  simp only [hb, Option.getD_some, hstaged, Option.isSome_none, Bool.false_eq_true, if_false,
    if_neg (editList_sized hwhole hmin hmax), editList_inTable hindex, hbad]
  rfl

end

theorem routeEdit_pastEnd (h : ∃ x ∈ editList b, 1048576 ≤ x.1) :
    Replies (.opRouteEdit p) s p stBadParameter (be 1 1 ++ be 4 0) (fun u => u = v) := by
  obtain ⟨y, hy⟩ : ∃ y, (editList b).find? (fun x => decide (1048576 ≤ x.1)) = some y := by
    rw [← Option.isSome_iff_exists, List.find?_isSome]
    simpa using h
  refine Replies.intro hv rfl ?_ rfl
  simp only [hb, Option.getD_some, hstaged, Option.isSome_none, Bool.false_eq_true, if_false,
    if_neg (editList_sized hwhole hmin hmax), hy]
  rfl

end
end

theorem routeStatus_answers {t : RouteTable} (hv : servedNow s 0x0303 p v) (ht : v.route.table = some t)
    (hstaged : v.route.staged = none) :
    Replies (.opRouteStatus p) s p stDone (be 4 t.tableId ++ be 4 t.check ++ be 4 t.activation ++ zeros 12 ++
      be 4 (enabledRoutes t 1).length ++ be 4 (enabledRoutes t 2).length ++ be 4 (enabledRoutes t 3).length ++
      be 4 v.route.cache.length) (fun u => u = v) := by
  refine Replies.intro hv rfl ?_ rfl
  simp only [ht, hstaged]
  rfl

theorem routeDiscardStaged_discards (hv : servedNow s 0x0313 p v) : Replies (.opRouteDiscardStaged p) s p stDone [] (fun u =>
    u.route = { v.route with staged := none } ∧ u.skim = v.skim) :=
  Replies.intro (u := { v with route := { v.route with staged := none } }) hv rfl rfl ⟨rfl, rfl⟩

/-! ### Cycle, schedule, steps and events (R74, R160) -/

theorem scheduleRead_answers {b : Bytes} (hv : servedNow s 0x0402 p v) (hb : v.cyc.table = some b)
    (hcount : pkNum p tCount 0 ≤ 16376) (hoffset : pkNum p tOffset 0 < b.length) :
    Replies (.opScheduleRead p) s p stDone
      (bslice b (pkNum p tOffset 0) (min (pkNum p tCount 0) (b.length - pkNum p tOffset 0))) (fun u => u = v) := by
  refine Replies.intro hv rfl ?_ rfl
  simp only [hb, Option.getD_some]
  exact if_neg (by omega)

/-- The cycle whose cycle-start carries a step: the running one while a step waits for its cycle-start (R160). -/
def stepCycle (v : State) : Nat :=
  if (v.time.timeStep ≠ 0 ∨ v.time.posStep ≠ 0) ∧ v.time.stepAt = v.cyc.n ∧ v.cyc.csSeen = false then v.cyc.n
  else cycAdd v.cyc.n 1

section
variable {b : Bytes} {d : Int} (hv : servedNow s 0x0403 p v) (hb : pkItem p tStep = some b)
  (hd : d = beSigned (bslice b 1 8)) (hsmall : d.natAbs ≤ 2147483647)
include hv hb hd hsmall

theorem step_time (hlease : v.set.lease = true) (haxis : field b 0 1 = 0)
    (hsum : (v.time.timeStep + d).natAbs ≤ 2147483647) : Replies (.opStep p) s p stDone (be 4 (stepCycle v)) (fun u =>
      u.time = { v.time with timeStep := v.time.timeStep + d, stepAt := stepCycle v }) := by
  subst hd
  refine Replies.intro (u := { v with time := { v.time with timeStep := _, stepAt := stepCycle v } }) hv rfl ?_ rfl
  simp only [hb, Option.getD_some, haxis, if_true, hlease, Bool.not_true, Bool.false_eq_true, if_false]
  rw [if_neg (by omega)]
  simp only [stepCycle, Bool.not_eq_true']

theorem step_position (hlease : v.set.lease = true) (haxis : field b 0 1 = 1)
    (hsum : (v.time.posStep + d).natAbs ≤ 2147483647) : Replies (.opStep p) s p stDone (be 4 (stepCycle v)) (fun u =>
      u.time = { v.time with posStep := v.time.posStep + d, stepAt := stepCycle v }) := by
  subst hd
  refine Replies.intro (u := { v with time := { v.time with posStep := _, stepAt := stepCycle v } }) hv rfl ?_ rfl
  simp only [hb, Option.getD_some, haxis, Nat.one_ne_zero, hlease, Bool.not_true, Bool.false_eq_true, if_false]
  rw [if_neg (by omega)]
  simp only [stepCycle, Bool.not_eq_true']

theorem step_notLead (hlease : v.set.lease = false) (haxis : field b 0 1 = 0) (hnone : v.time.timeStep = 0) :
    Replies (.opStep p) s p stNotLead [] (fun u => u = v) := by
  subst hd
  refine Replies.intro hv rfl ?_ rfl
  simp only [hb, Option.getD_some, haxis, if_true, hlease, Bool.not_false, hnone]
  exact if_neg (by omega)

end

theorem eventRead_answers (hv : servedNow s 0x0404 p v) (hcount : pkNum p tCount 0 ≤ 512) (hindex : pkNum p tIndex 0 < 512) :
    Replies (.opEventRead p) s p stDone ((List.range (min (pkNum p tCount 0) (512 - pkNum p tIndex 0))).flatMap (fun k =>
      match v.time.events[pkNum p tIndex 0 + k]? with | some e => e.bytes | none => zeros 32)) (fun u => u = v) :=
  Replies.intro hv rfl (if_neg (by omega)) rfl

end

/-- Settles O23: each request's reply and the state behind it, from the lemma above that bears its name. -/
theorem snapshotsRoutesAndTablesAreServed : Obligations.SnapshotsRoutesAndTablesAreServed := by
  unfold Obligations.SnapshotsRoutesAndTablesAreServed
  refine ⟨?_, ?_, ?_, ?_, ?_, ?_, ?_, ?_, ?_, ?_, ?_, ?_⟩
  case refine_1 => exact fun s v p r rest hv => ⟨snapshotTake_starts hv, snapshotTake_busy hv⟩
  case refine_2 => exact fun s v p hv hcount hstate => snapshotRead_incomplete hv hcount hstate
  case refine_3 => exact fun s v p hv => ⟨snapshotLock_locks hv, snapshotLock_none hv⟩
  case refine_4 => exact fun s v p hv => snapshotUnlock_frees hv
  case refine_5 => exact fun s v p hv => ⟨routeRead_answers hv, routeRead_outside hv⟩
  case refine_6 =>
    refine fun s v p b hv hb => ⟨routeEdit_staged hv, routeEdit_torn hv hb, ?_, routeEdit_pastEnd hv hb⟩
    rintro hstaged hwhole hmin hmax hindex t rfl
    exact ⟨routeEdit_edits hv hb hstaged hwhole hmin hmax hindex,
      fun x => routeEdit_refused hv hb hstaged hwhole hmin hmax hindex⟩
  case refine_7 => exact fun s v p t hv ht hstaged => routeStatus_answers hv ht hstaged
  case refine_8 => exact fun s v p hv => routeDiscardStaged_discards hv
  case refine_9 => exact fun s v p hv => Replies.intro hv rfl rfl rfl
  case refine_10 => exact fun s v p b hv hb hcount hoffset => scheduleRead_answers hv hb hcount hoffset
  case refine_11 =>
    rintro s v p b d n hv hb rfl hd hsmall
    exact ⟨step_time hv hb hd hsmall, step_position hv hb hd hsmall, step_notLead hv hb hd hsmall⟩
  case refine_12 => exact fun s v p hv hcount hindex => eventRead_answers hv hcount hindex

end Sys2Proof.Proofs
end

section
/-! Message frames as they are delivered (R46, R68, R88, R121, R231), and the statement O14. -/

namespace Sys2Proof.Proofs

open Sys2Proof Sys2Proof.Machine

/-- Position 0, which a unit without a committed position sends (R46), is none that can be noted as heard. -/
theorem hearFrom_unplaced (s : State) : hearFrom s 0 = s := by
  simp only [hearFrom, true_or, if_true]

/-- A message from a source without a position notes no position (R121). -/
theorem messageFrameDelivered_unplaced {s t : State} {p : LinePort} {f : Frame} (hsrc : f.srcPos = 0)
    (h : exec (.messageFrameDelivered p f) s = .next t) : t.set = s.set := by
  obtain rfl := Host.Outcome.next.inj h
  unfold deliver
  split
  case isFalse => rfl
  case isTrue =>
    dsimp only
    rw [hsrc, hearFrom_unplaced]
    have hnoted (u : State) : (noteRepeat (noteReplyEnd u f) f).set = u.set :=
      (noteRepeat_only _ f .set (by decide)).trans (noteReplyEnd_only u f .set (by decide))
    split
    · exact hnoted _
    · exact (takeArrival_only _ p f .set (by decide)).trans (hnoted _)

/-- A posted write to all positions for unit 1, from a unit without a committed position. -/
def unplacedMessage : Frame := ⟨1, 5, 0, 0, 0, 0, 1, 0, 0, 0, 0, [0xFF, 0x10, 1] ++ zeros 5⟩

/-- Unit 1 with that message waiting at A1. -/
def withUnplacedMessage : State :=
  { State.reset with line := { LineSt.init with rx := [⟨.a1, unplacedMessage, 0⟩] } }

/-- Refutes O14: its first clause has the source position of every delivered message noted as heard, but a source may have
none (`srcPos = 0`, R46), and that is not noted. -/
theorem not_bridgeMessagesAreServed : ¬ Obligations.BridgeMessagesAreServed := by
  unfold Obligations.BridgeMessagesAreServed
  rintro ⟨hdelivered, -⟩
  obtain ⟨t, he, -, hheard, -⟩ := hdelivered withUnplacedMessage .a1 unplacedMessage (by decide) (by decide) (by decide)
    (by decide) (by decide)
  rw [messageFrameDelivered_unplaced rfl he] at hheard
  exact absurd hheard (by decide)

end Sys2Proof.Proofs
end

section
/-! Tags and their results, failed writes, and the end of an access at the far side (R234 to R251): what these shared
operations of the bridge engine do, and what they leave unchanged. -/

namespace Sys2Proof.Proofs

open Sys2Proof Sys2Proof.Machine

/-! ### What leaves the engine: announcements and messages (R228, R253) -/

/-- An announcement is queued, held or counted; of the bridge engine nothing else changes. -/
theorem announce_bridge (s : State) (dest kind source skim code : Nat) (payload : Bytes) : ∃ q h n,
    (announce s dest kind source skim code payload).bridge =
      { s.bridge with queue := q, heldAnns := h, annDiscarded := n } := by
  unfold announce
  dsimp only
  split
  · exact ⟨_, _, _, rfl⟩
  · split
    · exact ⟨_, _, _, rfl⟩
    · split <;> exact ⟨_, _, _, rfl⟩

theorem announce_tags (s : State) (dest kind source skim code : Nat) (payload : Bytes) :
    (announce s dest kind source skim code payload).bridge.tags = s.bridge.tags := by
  obtain ⟨q, h, n, he⟩ := announce_bridge s dest kind source skim code payload
  rw [he]

theorem announce_clk (s : State) (dest kind source skim code : Nat) (payload : Bytes) :
    (announce s dest kind source skim code payload).clk = s.clk :=
  announce_only s dest kind source skim code payload .clk (by decide)

/-- An announcement takes back no report. -/
theorem announce_reports {s : State} {r : Report} (dest kind source skim code : Nat) (payload : Bytes)
    (h : r ∈ s.recorder.reports) : r ∈ (announce s dest kind source skim code payload).recorder.reports := by
  unfold announce
  dsimp only
  split
  · exact h
  · split
    · exact List.mem_append_left _ h
    · split <;> exact h

theorem stamp_announce (s : State) (dest kind source skim code : Nat) (payload : Bytes) (e : EventIn) :
    stamp (announce s dest kind source skim code payload) e = stamp s e := by
  unfold announce
  dsimp only
  split
  · rfl
  · split
    · rfl
    · split <;> rfl

theorem mem_report (s : State) (code subsystem : Nat) (measure : Int) (payload : Bytes) :
    stamp s ⟨code, subsystem, measure, payload⟩ ∈ (report s code subsystem measure payload).recorder.reports :=
  List.mem_append_right _ (List.mem_singleton.mpr rfl)

/-- A message of the engine is one more in the queue; its first field stands behind the channel and the sequence. -/
theorem queuesOne_bridgeMsg (s : State) (dest kind tag : Nat) {k v : Nat} (rest : Bytes) (hv : v < 256 ^ k) :
    queuesOne s (bridgeMsg s dest kind tag (be k v ++ rest)) kind tag dest
      (fun m => m.bodies.map (fun b => field b 4 k) = [v]) := by
  have hpre : (be 2 dest ++ zeros 2).length = 4 := by simp [zeros]
  have hfield : field (be 2 dest ++ zeros 2 ++ (be k v ++ rest)) 4 k = v := by
    rw [field_be_at _ rest k v hpre, Nat.mod_eq_of_lt hv]
  exact ⟨_, rfl, rfl, rfl, rfl, congrArg (fun n => [n]) hfield⟩

/-! ### Tags (R239 to R241) -/

section
variable {s t : State} {k : Nat} {x : TagSt}

theorem findTag_congr (h : t.bridge.tags = s.bridge.tags) (j : Nat) : findTag t j = findTag s j := by
  rw [findTag, h, findTag]

theorem tag_of_findTag (h : findTag s k = some x) : x.tag = k := by
  simpa using List.find?_some h

theorem findTag_releaseTag_self (s : State) (k : Nat) : findTag (releaseTag s k) k = none := by
  simp [findTag, releaseTag]

theorem findTag_releaseTag_other {j : Nat} (h : j ≠ k) : findTag (releaseTag s k) j = findTag s j := by
  rw [findTag, releaseTag, List.find?_filter, findTag]
  refine congrArg (s.bridge.tags.find? ·) (funext fun y => ?_)
  by_cases hy : y.tag = j <;> simp [hy, h]

theorem findTag_updateTag_self {f : TagSt → TagSt} (hf : ∀ y, (f y).tag = y.tag) (h : findTag s k = some x) :
    findTag (updateTag s k f) k = some (f x) := by
  have hkeeps : ((fun y : TagSt => y.tag == k) ∘ fun y => if y.tag = k then f y else y) = fun y => y.tag == k := by
    funext y
    by_cases hy : y.tag = k <;> simp [hy, hf]
  rw [findTag, updateTag, List.find?_map, hkeeps]
  rw [findTag] at h
  rw [h, Option.map_some, if_pos (tag_of_findTag h)]

/-- The tag with its result, from now on held for 250 ms (R240, R241). -/
def heldWith (s : State) (x : TagSt) (status : Nat) (data : Bytes) : TagSt :=
  { x with state := .held, status := status, data := data, holdEnd := s.clk + 250000000 }

/-- A result changes its tag, and announces itself; of the bridge engine nothing else changes. -/
theorem holdResult_bridge (s : State) (k status : Nat) (data : Bytes) (f : TagSt → TagSt) : ∃ ts q h n,
    (holdResult s k status data f).bridge =
      { s.bridge with tags := ts, queue := q, heldAnns := h, annDiscarded := n } := by
  unfold holdResult
  split
  · exact ⟨_, _, _, _, rfl⟩
  · dsimp only
    split
    · obtain ⟨q, h, n, he⟩ := announce_bridge (updateTag s k _) _ _ _ _ _ _
      exact ⟨_, q, h, n, he⟩
    · exact ⟨_, _, _, _, rfl⟩

theorem holdResult_reports {r : Report} (k status : Nat) (data : Bytes) (f : TagSt → TagSt)
    (h : r ∈ s.recorder.reports) : r ∈ (holdResult s k status data f).recorder.reports := by
  unfold holdResult
  split
  · exact h
  · dsimp only
    split
    · exact announce_reports _ _ _ _ _ _ h
    · exact h

theorem findTag_holdResult (status : Nat) (data : Bytes) (h : findTag s k = some x) :
    findTag (holdResult s k status data id) k = some (heldWith s x status data) := by
  have hupdated := findTag_updateTag_self (f := fun y => heldWith s y status data) (fun _ => rfl) h
  unfold holdResult
  simp only [h]
  split
  · exact (findTag_congr (announce_tags ..) k).trans hupdated
  · exact hupdated

end

/-! ### Orphaned results and failed posted writes (R236, R243) -/

theorem orphan_tags (s : State) (value : Val) (route farRoute tag initiator owner : Nat) :
    (orphan s value route farRoute tag initiator owner).bridge.tags = s.bridge.tags := by
  unfold orphan
  dsimp only
  split
  · rfl
  · exact announce_tags ..

theorem orphan_reports (s : State) (value : Val) (route farRoute tag initiator owner : Nat) :
    stamp s ⟨0x0504, 10, 0, be 16 value.toNat ++ be 4 route ++ be 4 farRoute ++ be 2 tag ++ be 2 initiator⟩ ∈
      (orphan s value route farRoute tag initiator owner).recorder.reports := by
  unfold orphan
  dsimp only
  split
  · exact mem_report ..
  · exact announce_reports _ _ _ _ _ _ (mem_report ..)

/-- The entry of the error log for a failed posted write. -/
def failureEntry (s : State) (x : TagSt) (status failedUnit detail : Nat) : ErrEntry :=
  { initiator := x.initiator, tag := x.tag, targetKind := x.targetKind, failedUnit := failedUnit, status := status,
    target := x.target, detail := detail, time := s.time.now, seq := nextEntrySeq s.bridge.errSeq }

theorem failWrite_errors (s : State) (x : TagSt) (status failedUnit detail : Nat) :
    (failWrite s x status failedUnit detail).bridge.errors =
      lastN 64 (s.bridge.errors ++ [failureEntry s x status failedUnit detail]) := by
  obtain ⟨q, h, n, he⟩ := announce_bridge { s with bridge := { s.bridge with
    errors := lastN 64 (s.bridge.errors ++ [failureEntry s x status failedUnit detail])
    errSeq := nextEntrySeq s.bridge.errSeq } } x.initiator 0x12 0xFFFFFFFF (skimNow s) status
    (be 4 (nextEntrySeq s.bridge.errSeq))
  exact congrArg BridgeSt.errors he

theorem findTag_failWrite_self (s : State) (x : TagSt) (status failedUnit detail : Nat) :
    findTag (failWrite s x status failedUnit detail) x.tag = none := findTag_releaseTag_self _ x.tag

/-! ### The end of a locked sequence (R246, R247) -/

theorem flushCans_bridge (s : State) : (flushCans s).bridge = s.bridge := flushCans_only s .bridge (by decide)

/-- A locked sequence that fails goes with its lock, and its tag holds the failure. -/
theorem endLocked_sequence {t : State} {q : LockedSeq} (hlocked : t.bridge.locked = [q]) (status detail : Nat)
    (hst : status ≠ stDone) : (endLocked t q status detail).bridge.locked = [] ∧
    (endLocked t q status detail).bridge.locks = t.bridge.locks.filter (fun m => m.port != q.port) ∧
    ∀ x, findTag t q.tag = some x →
      findTag (endLocked t q status detail) q.tag = some (heldWith t x status (be 4 detail)) := by
  obtain ⟨u, hu⟩ : ∃ u : State, u = { t with bridge := { t.bridge with
    locks := t.bridge.locks.filter (fun l => l.port != q.port)
    locked := t.bridge.locked.filter (fun y => y.tag != q.tag) } } := ⟨_, rfl⟩
  have hend : endLocked t q status detail = holdResult (flushCans u) q.tag status (be 4 detail) id := by
    rw [endLocked, if_neg hst, hu]
  have hclk : (flushCans u).clk = t.clk := (flushCans_only u .clk (by decide)).trans (by rw [hu]; rfl)
  obtain ⟨ts, p, h, n, he⟩ := holdResult_bridge (flushCans u) q.tag status (be 4 detail) id
  rw [flushCans_bridge] at he
  rw [hend, he]
  refine ⟨by simp [hu, hlocked], by simp [hu], fun x hx => ?_⟩
  have htag : findTag (flushCans u) q.tag = some x :=
    (findTag_congr (by rw [flushCans_bridge, hu]) q.tag).trans hx
  rw [findTag_holdResult status (be 4 detail) htag, heldWith, hclk, heldWith]

/-! ### The end of an access at the far side (R234, R235, R245) -/

section
variable {s : State} {x : FarTxn}

theorem pumpAll_idle (h : s.bridge.farQueue = []) : pumpAll s = s := by
  simp [pumpAll, h]

theorem pumpWith_idle (fin : State → FarTxn → Nat → Nat → Nat → Val → State) (key : FarKey)
    (h : s.bridge.farQueue = []) : pumpWith fin s key = s := by
  simp [pumpWith, headTxn, h]

/-- The access has left its queue, with the lock it held or waited for and, after a write, the values read ahead. -/
def txnLeft (s : State) (x : FarTxn) : State :=
  releaseFor (dropTxn (if x.write.isSome then dropAhead s x.key else s) x) x

theorem txnLeft_bridge (hsem : x.semHeld = false) : ∃ a l w, (txnLeft s x).bridge = { s.bridge with
    farQueue := dropOne x s.bridge.farQueue, readAheads := a, locks := l, lockWaits := w } := by
  have hdrop : ∃ a, (dropTxn (if x.write.isSome then dropAhead s x.key else s) x).bridge =
      { s.bridge with farQueue := dropOne x s.bridge.farQueue, readAheads := a } := by
    split <;> exact ⟨_, rfl⟩
  obtain ⟨a, ha⟩ := hdrop
  unfold txnLeft releaseFor
  rw [hsem]
  dsimp only
  rw [if_neg Bool.false_ne_true]
  split
  · exact ⟨a, _, _, ha⟩
  · rw [flushCans_bridge, ha]
    exact ⟨a, _, _, rfl⟩

/-- The only access of the engine ends: it leaves, and is answered. -/
theorem finishTxn_only {t : State} {status failedUnit detail : Nat} {value : Val} (hlocked : x.locked = false)
    (ht : answerTxn (txnLeft s x) x status failedUnit detail value = t) (hidle : t.bridge.farQueue = []) :
    finishTxn s x status failedUnit detail value = t := by
  have hfinish (k : Nat) : finish (k + 1) s x status failedUnit detail value =
      pumpWith (finish k) (answerTxn (txnLeft s x) x status failedUnit detail value) x.key := by
    rw [finish]
    simp only [hlocked, Bool.false_eq_true, if_false]
    rfl
  rw [finishTxn, hfinish, ht, pumpWith_idle _ x.key hidle]

/-- A read for another node is answered by a read response, which begins with its status (R228). -/
theorem queuesOne_answerTxn (u : State) {status : Nat} (failedUnit detail : Nat) (value : Val) (hwrite : x.write = none)
    (hfar : x.localTag = false) (hst : status < 65536) :
    queuesOne u (answerTxn u x status failedUnit detail value) 3 x.tag x.replyTo
      (fun m => m.bodies.map (fun b => field b 4 2) = [status]) := by
  simp only [answerTxn, hwrite, hfar, Option.isSome_none, Bool.false_eq_true, if_false, sendResponse, List.append_assoc]
  exact queuesOne_bridgeMsg u x.replyTo 3 x.tag _ hst

theorem answerTxn_farQueue (u : State) (status failedUnit detail : Nat) (value : Val) (hwrite : x.write = none)
    (hfar : x.localTag = false) : (answerTxn u x status failedUnit detail value).bridge.farQueue = u.bridge.farQueue := by
  simp only [answerTxn, hwrite, hfar, Option.isSome_none, Bool.false_eq_true, if_false]
  rfl

/-- A write for another node that succeeded needs no answer (R235). -/
theorem answerTxn_written (u : State) {v : Val × Nat} (failedUnit detail : Nat) (value : Val) (hwrite : x.write = some v)
    (hfar : x.localTag = false) : answerTxn u x stDone failedUnit detail value = u := by
  simp only [answerTxn, hwrite, hfar, Option.isSome_some, Bool.false_eq_true, if_true, if_false]

end

end Sys2Proof.Proofs
end

section
/-! What runs out at the bridge engine and at the far side (R230 to R250), and the statement O15. -/

namespace Sys2Proof.Proofs

open Sys2Proof Sys2Proof.Machine

/-! ### Results and timeouts of tags (R230, R234, R241, R243, R244, R249) -/

/-- The access of a tag has started on its own far bus. -/
def accessStarted (s : State) (k : Nat) : Bool :=
  s.bridge.farQueue.any (fun y => y.localTag && y.tag == k && y.started)

/-- The access of a tag waits for a semaphore that another holds (R249). -/
def accessKeptOut (s : State) (k : Nat) : Bool :=
  s.bridge.farQueue.any (fun y => y.localTag && y.tag == k && !y.started && needsSem y.entry && semState s y == 2)

/-- A transaction's message goes from the queue. -/
def unqueued (s : State) (x : TagSt) : State :=
  { s with bridge := { s.bridge with queue := s.bridge.queue.filter (fun m =>
      !(m.tag == x.tag && m.source == x.initiator && (m.kind == 1 || m.kind == 2 || m.kind == 6 || m.kind == 7))) } }

section
variable {s : State} {k : Nat} {x : TagSt} (hx : findTag s k = some x)
include hx

theorem resultHoldExpiry_releases (hheld : x.state = .held) (hend : x.holdEnd ≤ s.clk) :
    exec (.resultHoldExpiry k) s = .next (
      if x.collected then releaseTag s k
      else if x.sideEffect then orphan (releaseTag s k) x.value x.target x.farRoute k x.initiator x.owner
      else { releaseTag s k with bridge :=
        { (releaseTag s k).bridge with droppedResults := count32 s.bridge.droppedResults } }) := by
  show execResultHoldExpiry k s = _
  simp only [execResultHoldExpiry, hx, hheld, hend, and_self, if_true]
  rfl

theorem resultHoldExpiry_row (hheld : x.state = .held) (hend : x.holdEnd ≤ s.clk) :
    Answers (.resultHoldExpiry k) s (fun t => findTag t k = none ∧
      (∀ j, j ≠ k → findTag t j = findTag s j) ∧
      (x.collected = false → x.sideEffect = false → t.bridge.droppedResults = count32 s.bridge.droppedResults) ∧
      (x.collected = false → x.sideEffect = true → ∃ r ∈ t.recorder.reports, r.ev.code = 0x0504 ∧
        r.ev.payload = be 16 x.value.toNat ++ be 4 x.target ++ be 4 x.farRoute ++ be 2 k ++ be 2 x.initiator)) := by
  have hfreed {t : State} (h : t.bridge.tags = (releaseTag s k).bridge.tags) :
      findTag t k = none ∧ ∀ j, j ≠ k → findTag t j = findTag s j :=
    ⟨(findTag_congr h k).trans (findTag_releaseTag_self s k),
      fun j hj => (findTag_congr h j).trans (findTag_releaseTag_other hj)⟩
  refine .intro (resultHoldExpiry_releases hx hheld hend) ?_
  cases hc : x.collected with
  | true => exact ⟨(hfreed rfl).1, (hfreed rfl).2, by simp, by simp⟩
  | false => cases hs : x.sideEffect with
    | false => exact ⟨(hfreed rfl).1, (hfreed rfl).2, fun _ _ => rfl, by simp⟩
    | true =>
      have h := hfreed (orphan_tags (releaseTag s k) x.value x.target x.farRoute k x.initiator x.owner)
      exact ⟨h.1, h.2, by simp, fun _ _ => ⟨_, orphan_reports .., rfl, rfl⟩⟩

theorem bridgeTimeoutExpiry_due (hfree : x.state ≠ .held) (hdue : x.deadline ≤ s.clk) :
    exec (.bridgeTimeoutExpiry k) s = .next (
      if x.kind = .postedWrite ∧ accessStarted s k then s
      else if x.kind = .postedWrite ∧ x.state = .sent then
        if s.bridge.sentRecs.any (fun r => sentWrite r x) then s else releaseTag (unqueued s x) k
      else if accessKeptOut s k then failTag (unqueued s x) x stLockHeld 0 0
      else failTag (unqueued s x) x stFarTimeout 0 6) := by
  show execBridgeTimeoutExpiry k s = _
  obtain rfl := tag_of_findTag hx
  simp only [execBridgeTimeoutExpiry, hx, if_pos (And.intro hdue hfree)]
  rfl

/-- A read, whose result no message can bring any more, is held with the failure (R234, R249). -/
theorem failTag_read (hread : x.kind = .read) (status detail : Nat) :
    findTag (failTag (unqueued s x) x status 0 detail) k = some (heldWith s x status (be 4 detail)) := by
  obtain rfl := tag_of_findTag hx
  rw [failTag, if_neg (by simp [hread])]
  exact findTag_holdResult (s := unqueued s x) status (be 4 detail) hx

section
variable (hfree : x.state ≠ .held) (hdue : x.deadline ≤ s.clk)
include hfree hdue

theorem bridgeTimeoutExpiry_noWrite (hkind : x.kind ≠ .postedWrite) : exec (.bridgeTimeoutExpiry k) s = .next (
    if accessKeptOut s k then failTag (unqueued s x) x stLockHeld 0 0 else failTag (unqueued s x) x stFarTimeout 0 6) := by
  rw [bridgeTimeoutExpiry_due hx hfree hdue, if_neg (by simp [hkind]), if_neg (by simp [hkind])]

/-- A posted write that is still queued fails (R234). -/
theorem bridgeTimeoutExpiry_queued (hwrite : x.kind = .postedWrite) (hsent : x.state ≠ .sent)
    (hstart : accessStarted s k = false) (hout : accessKeptOut s k = false) :
    exec (.bridgeTimeoutExpiry k) s = .next (failWrite (unqueued s x) x stFarTimeout 0 6) := by
  rw [bridgeTimeoutExpiry_due hx hfree hdue, if_neg (by simp [hstart]), if_neg (by simp [hsent]), hout,
    if_neg Bool.false_ne_true, failTag, if_pos hwrite]

/-- One already sent is known as long as its sender record (R230). -/
theorem bridgeTimeoutExpiry_sent (hwrite : x.kind = .postedWrite) (hsent : x.state = .sent)
    (hstart : accessStarted s k = false) : exec (.bridgeTimeoutExpiry k) s = .next (
      if s.bridge.sentRecs.any (fun r => sentWrite r x) then s else releaseTag (unqueued s x) k) := by
  rw [bridgeTimeoutExpiry_due hx hfree hdue, if_neg (by simp [hstart]), if_pos ⟨hwrite, hsent⟩]

theorem bridgeTimeoutExpiry_row
    (hidle : x.kind = .postedWrite → ∀ y ∈ s.bridge.farQueue, y.localTag = true → y.tag = k → y.started = false)
    (hsem : ∀ y ∈ s.bridge.farQueue, y.localTag = true → y.tag = k → y.started = false → needsSem y.entry = true →
      semState s y ≠ 2) :
    Answers (.bridgeTimeoutExpiry k) s (fun t =>
      (x.kind = .read → ∃ y, findTag t k = some y ∧ y.state = .held ∧ y.status = stFarTimeout ∧ y.data = be 4 6 ∧
        y.holdEnd = s.clk + 250000000) ∧
      (x.kind = .postedWrite → x.state ≠ .sent ∨ (∀ r ∈ s.bridge.sentRecs, sentWrite r x = false) → findTag t k = none) ∧
      (x.kind = .postedWrite → x.state = .sent → (∃ r ∈ s.bridge.sentRecs, sentWrite r x = true) → t = s) ∧
      (x.kind = .postedWrite → x.state ≠ .sent → ∃ e, t.bridge.errors = lastN 64 (s.bridge.errors ++ [e]) ∧
        e.tag = k ∧ e.status = stFarTimeout ∧ e.initiator = x.initiator) ∧
      (x.kind = .postedWrite → x.state = .sent → t.bridge.errors = s.bridge.errors)) := by
  have hout : accessKeptOut s k = false := by simpa [accessKeptOut] using hsem
  have htag := tag_of_findTag hx
  by_cases hwrite : x.kind = .postedWrite
  case neg =>
    refine .intro (bridgeTimeoutExpiry_noWrite hx hfree hdue hwrite) ?_
    rw [hout, if_neg Bool.false_ne_true]
    exact ⟨fun hread => ⟨_, failTag_read hx hread stFarTimeout 6, rfl, rfl, rfl, rfl⟩,
      by simp [hwrite], by simp [hwrite], by simp [hwrite], by simp [hwrite]⟩
  case pos =>
    have hstart : accessStarted s k = false := by simpa [accessStarted] using hidle hwrite
    by_cases hsent : x.state = .sent
    case neg =>
      refine .intro (bridgeTimeoutExpiry_queued hx hfree hdue hwrite hsent hstart hout) ?_
      exact ⟨by simp [hwrite], fun _ _ => htag ▸ findTag_failWrite_self .., by simp [hsent],
        fun _ _ => ⟨_, failWrite_errors .., htag, rfl, rfl⟩, by simp [hsent]⟩
    case pos =>
      refine .intro (bridgeTimeoutExpiry_sent hx hfree hdue hwrite hsent hstart) ?_
      by_cases hrec : ∃ r ∈ s.bridge.sentRecs, sentWrite r x = true
      case pos =>
        rw [if_pos (List.any_eq_true.mpr hrec)]
        refine ⟨by simp [hwrite], fun _ h => ?_, fun _ _ _ => rfl, by simp [hsent], fun _ _ => rfl⟩
        obtain ⟨r, hr, hrx⟩ := hrec
        simp [hsent] at h
        simp [h r hr] at hrx
      case neg =>
        rw [if_neg (mt List.any_eq_true.mp hrec)]
        exact ⟨by simp [hwrite], fun _ _ => findTag_releaseTag_self .., fun _ _ h => absurd h hrec, by simp [hsent],
          fun _ _ => rfl⟩

/-- A read whose access waits for a semaphore that another holds ends with `LOCK_HELD` (R249). -/
theorem bridgeTimeoutExpiry_keptOut {y : FarTxn} (hread : x.kind = .read) (hy : y ∈ s.bridge.farQueue)
    (hlocal : y.localTag = true) (htag : y.tag = k) (hstart : y.started = false) (hneeds : needsSem y.entry = true)
    (hsem : semState s y = 2) : Answers (.bridgeTimeoutExpiry k) s (fun t =>
      ∃ z, findTag t k = some z ∧ z.state = .held ∧ z.status = stLockHeld) := by
  have hout : accessKeptOut s k = true :=
    List.any_eq_true.mpr ⟨y, hy, by simp [hlocal, htag, hstart, hneeds, hsem]⟩
  refine .intro (bridgeTimeoutExpiry_noWrite hx hfree hdue (by simp [hread])) ?_
  rw [if_pos hout]
  exact ⟨_, failTag_read hx hread stLockHeld 0, rfl, rfl⟩

end

/-- A posted write whose access has started on the own far bus goes on (R234). -/
theorem bridgeTimeoutExpiry_started {y : FarTxn} (hwrite : x.kind = .postedWrite) (hy : y ∈ s.bridge.farQueue)
    (hlocal : y.localTag = true) (htag : y.tag = k) (hstart : y.started = true) :
    exec (.bridgeTimeoutExpiry k) s = .next s := by
  by_cases hdue : x.deadline ≤ s.clk ∧ x.state ≠ .held
  case pos =>
    have hstarted : accessStarted s k = true := List.any_eq_true.mpr ⟨y, hy, by simp [hlocal, htag, hstart]⟩
    rw [bridgeTimeoutExpiry_due hx hdue.2 hdue.1, if_pos ⟨hwrite, hstarted⟩]
  case neg =>
    show execBridgeTimeoutExpiry k s = _
    simp only [execBridgeTimeoutExpiry, hx, if_neg hdue]

end

/-! ### Marks, sender records and values read ahead (R230, R242) -/

theorem bridgeMarkSend_row {s : State} {slot : Nat} (hdue : (slotTxOf s slot).markDue = true)
    (hidle : 8 ≤ (slotTxOf s slot).idle) (hp : slotPresent s slot = true) :
    Answers (.bridgeMarkSend slot) s (fun t => (slotTxOf t slot).markDue = false ∧
      queuesOne s t 1 0 (slot * 1024) (fun m => m.bodies.map (fun b => field b 4 1) = [0xFF])) := by
  refine .intro (congrArg Host.Outcome.next (if_pos (by simp [hdue, hidle, hp]))) ⟨?_, ?_⟩
  · show (Tab.getD (Tab.set s.bridge.slotTx slot { slotTxOf s slot with markDue := false }) slot _).markDue = false
    rw [Tab.getD, tab_get?_set_self, Option.getD_some]
  · simp only [List.append_assoc]
    exact queuesOne_bridgeMsg _ (slot * 1024) 1 0 _ (by decide)

/-- Released tags change the tags and the list of those released, and none of them is held. -/
theorem foldl_releaseTag (l : List Nat) (s : State) : ∃ ts rs,
    l.foldl releaseTag s = { s with bridge := { s.bridge with tags := ts, released := rs } } ∧
    (∀ x ∈ ts, x ∈ s.bridge.tags) ∧ ∀ k ∈ l, ∀ x ∈ ts, x.tag ≠ k := by
  induction l generalizing s with
  | nil => exact ⟨_, _, rfl, fun _ h => h, by simp⟩
  | cons k l ih =>
    obtain ⟨ts, rs, he, hkept, hgone⟩ := ih (releaseTag s k)
    have hfree (x : TagSt) (hx : x ∈ ts) : x ∈ s.bridge.tags ∧ x.tag ≠ k := by
      simpa [releaseTag] using hkept x hx
    refine ⟨ts, rs, he, fun x hx => (hfree x hx).1, fun j hj x hx => ?_⟩
    rcases List.mem_cons.mp hj with rfl | hj
    · exact (hfree x hx).2
    · exact hgone j hj x hx

/-- What an expiry removes is what its condition names. -/
theorem mem_filter_not {α : Type} {l : List α} {x : α} {p : α → Bool} {P : Prop} (hp : p x = true ↔ P) :
    x ∈ l.filter (fun y => !p y) ↔ x ∈ l ∧ ¬P := by
  rw [List.mem_filter, Bool.not_eq_true', ← Bool.not_eq_true, hp]

theorem senderRecordExpiry_row (s : State) (slot seq : Nat) : Answers (.senderRecordExpiry slot seq) s (fun t =>
    (∀ r, r ∈ t.bridge.sentRecs ↔ r ∈ s.bridge.sentRecs ∧ ¬(r.slot = slot ∧ r.seq = seq ∧ r.at_ + 1000000000 ≤ s.clk)) ∧
    (∀ r ∈ s.bridge.sentRecs, r.slot = slot → r.seq = seq → r.at_ + 1000000000 ≤ s.clk →
      ∀ x ∈ s.bridge.tags, x.kind = .postedWrite → x.state = .sent → x.deadline ≤ s.clk → sentWrite r x = true →
        findTag t x.tag = none) ∧
    t = { s with bridge := { s.bridge with
        sentRecs := t.bridge.sentRecs, tags := t.bridge.tags, released := t.bridge.released } }) := by
  obtain ⟨ts, rs, he, -, hgone⟩ := foldl_releaseTag _ _
  refine .intro (congrArg Host.Outcome.next he) ⟨fun r => ?_, ?_, rfl⟩
  · exact mem_filter_not (by simp only [Bool.and_eq_true, beq_iff_eq, decide_eq_true_eq, and_assoc])
  · intro r hr hslot hseq hold x hx hkind hstate hdue hsent
    refine List.find?_eq_none.mpr fun y hy => ?_
    have hlisted := hgone x.tag (List.mem_map.mpr ⟨x, List.mem_filter.mpr ⟨hx, by
      simp only [hkind, hstate, hdue, decide_true, beq_self_eq_true, Bool.and_self, Bool.true_and, List.any_eq_true]
      exact ⟨r, hr, by simp [hslot, hseq, hold, hsent]⟩⟩, rfl⟩) y hy
    simpa using hlisted

theorem readAheadExpiry_row (s : State) (i : Nat) : Answers (.readAheadExpiry i) s (fun t =>
    (∀ r, r ∈ t.bridge.readAheads ↔ r ∈ s.bridge.readAheads ∧ ¬(r.route = i ∧ r.until_ ≤ s.clk)) ∧
    t = { s with bridge := { s.bridge with readAheads := t.bridge.readAheads } }) := by
  refine .intro rfl ⟨fun r => ?_, rfl⟩
  exact mem_filter_not (by simp only [Bool.and_eq_true, beq_iff_eq, decide_eq_true_eq])

/-! ### Semaphores (R248 to R250) -/

/-- A semaphore operation is answered by its tag's result or by a message: no semaphore and no wait changes. -/
theorem semReply_bridge (s : State) (channel tag op sem lease : Nat) : ∃ ts q h n,
    (semReply s channel tag op sem lease).bridge =
      { s.bridge with tags := ts, queue := q, heldAnns := h, annDiscarded := n } := by
  unfold semReply
  dsimp only
  split
  · exact holdResult_bridge ..
  · exact ⟨_, _, _, _, rfl⟩

theorem semReply_reports {s : State} {r : Report} (channel tag op sem lease : Nat) (h : r ∈ s.recorder.reports) :
    r ∈ (semReply s channel tag op sem lease).recorder.reports := by
  unfold semReply
  dsimp only
  split
  · exact holdResult_reports _ _ _ _ h
  · exact h

theorem semRefuse_here {s : State} {channel tag op : Nat} (sem : Nat) (hop : op ≠ 3)
    (h : semHere s channel tag = true) :
    semRefuse s channel tag op sem = holdResult s tag stLockHeld [] id := by
  rw [semRefuse, if_pos h, if_neg hop]

theorem semRefuse_elsewhere {s : State} {channel tag : Nat} (op sem : Nat) (h : semHere s channel tag = false) :
    semRefuse s channel tag op sem =
      bridgeMsg s channel 6 tag (be 1 0x84 ++ (zeros 1 ++ be 2 sem ++ be 2 0 ++ be 2 0)) := by
  rw [semRefuse, if_neg (by simp [h]), semReply, if_neg (by simp [h])]
  simp only [List.append_assoc]

section
variable {s : State} {k : Nat}

theorem grantWaiter_reports {r : Report} (h : r ∈ s.recorder.reports) :
    r ∈ (grantWaiter s k).recorder.reports := by
  unfold grantWaiter
  split
  · exact h
  · split
    · exact h
    · exact semReply_reports _ _ _ _ _ h

theorem grantWaiter_none (h : s.bridge.semWaits.find? (fun w => w.port == k) = none) : grantWaiter s k = s := by
  simp [grantWaiter, h]

theorem grantWaiter_first {w : LockWait} (hfree : semOf s k = none)
    (hw : s.bridge.semWaits.find? (fun w => w.port == k) = some w) :
    semOf (grantWaiter s k) k = some ⟨k, w.channel, s.clk + 100000000⟩ ∧
      (grantWaiter s k).bridge.semWaits = dropOne w s.bridge.semWaits := by
  have hgrant : grantWaiter s k = semReply (setSem { s with bridge := { s.bridge with
      semWaits := dropOne w s.bridge.semWaits } } ⟨k, w.channel, s.clk + 100000000⟩) w.channel w.tag 0x81 k 100 := by
    rw [grantWaiter, hfree, if_neg (by simp), hw]
    rfl
  obtain ⟨ts, q, h, n, he⟩ := semReply_bridge (setSem { s with bridge := { s.bridge with
    semWaits := dropOne w s.bridge.semWaits } } ⟨k, w.channel, s.clk + 100000000⟩) w.channel w.tag 0x81 k 100
  have hnone : (s.bridge.sems.filter (fun y => y.sem != k)).find? (fun y => y.sem == k) = none := by simp
  rw [hgrant, semOf, he]
  exact ⟨by simp [setSem, hnone], rfl⟩

/-- The lease's end as it is logged: the semaphore is free, and its waiters are as before (R250). -/
def leaseEnded (s : State) (k holder : Nat) : State :=
  report (announce (freeSem s k) holder 0x13 0xFFFFFFFF (skimNow s) k []) 0x0506 10 k []

theorem leaseEnded_keeps (s : State) (k holder : Nat) : semOf (leaseEnded s k holder) k = none ∧
    (leaseEnded s k holder).bridge.semWaits = s.bridge.semWaits ∧ (leaseEnded s k holder).clk = s.clk ∧
    stamp s ⟨0x0506, 10, k, []⟩ ∈ (leaseEnded s k holder).recorder.reports := by
  obtain ⟨q, h, n, he⟩ := announce_bridge (freeSem s k) holder 0x13 0xFFFFFFFF (skimNow s) k []
  have hbridge : (leaseEnded s k holder).bridge = { (freeSem s k).bridge with
    queue := q, heldAnns := h, annDiscarded := n } := he
  refine ⟨?_, ?_, announce_clk .., ?_⟩
  · rw [semOf, hbridge]
    simp [freeSem]
  · rw [hbridge]
    rfl
  · have hstamp := stamp_announce (freeSem s k) holder 0x13 0xFFFFFFFF (skimNow s) k [] ⟨0x0506, 10, k, []⟩
    exact hstamp ▸ mem_report ..

theorem semaphoreLeaseExpiry_row {x : SemSt} (hx : semOf s k = some x) (hset : x.leaseEnd ≠ 0)
    (hend : x.leaseEnd ≤ s.clk) : Answers (.semaphoreLeaseExpiry k) s (fun t => ∃ u, t = pumpAll u ∧
      (s.bridge.semWaits.find? (fun w => w.port == k) = none → semOf u k = none) ∧
      (∀ w, s.bridge.semWaits.find? (fun w => w.port == k) = some w →
        semOf u k = some ⟨k, w.channel, s.clk + 100000000⟩ ∧ u.bridge.semWaits = dropOne w s.bridge.semWaits) ∧
      stamp s ⟨0x0506, 10, k, []⟩ ∈ u.recorder.reports) := by
  obtain ⟨hfree, hwaits, hclk, hlogged⟩ := leaseEnded_keeps s k x.holder
  have hexec : exec (.semaphoreLeaseExpiry k) s = .next (pumpAll (grantWaiter (leaseEnded s k x.holder) k)) := by
    show execSemaphoreLeaseExpiry k s = _
    simp only [execSemaphoreLeaseExpiry, hx, if_pos (And.intro hset hend)]
    rfl
  refine .intro hexec ⟨_, rfl, fun hnone => ?_, fun w hw => ?_, grantWaiter_reports hlogged⟩
  · rw [grantWaiter_none (by rw [hwaits, hnone]), hfree]
  · have hfirst := grantWaiter_first hfree (by rw [hwaits, hw])
    rwa [hclk, hwaits] at hfirst

/-- SEMAPHORE_WAIT_EXPIRY: the wait ends with `LOCK_HELD`, held under its tag here, or sent where it was asked for (R248). -/
theorem semaphoreWaitExpiry_row {w : LockWait}
    (hw : s.bridge.semWaits.find? (fun w => w.tag == k && w.until_ ≤ s.clk) = some w) :
    Answers (.semaphoreWaitExpiry k) s (fun t => t.bridge.semWaits = dropOne w s.bridge.semWaits ∧
      (∀ x, semHere s w.channel w.tag = true → findTag s w.tag = some x → ∃ y, findTag t w.tag = some y ∧ y.state = .held ∧
        y.status = stLockHeld) ∧
      (semHere s w.channel w.tag = false → queuesOne s t 6 w.tag w.channel
        (fun m => m.bodies.map (fun b => field b 4 1) = [0x84]))) := by
  obtain ⟨u, hu⟩ : ∃ u : State, u = { s with bridge := { s.bridge with semWaits := dropOne w s.bridge.semWaits } } :=
    ⟨_, rfl⟩
  have hwaits : u.bridge.semWaits = dropOne w s.bridge.semWaits := by rw [hu]
  have hhere : semHere u w.channel w.tag = semHere s w.channel w.tag := by rw [hu]; rfl
  have hexec : exec (.semaphoreWaitExpiry k) s = .next (semRefuse u w.channel w.tag 1 w.port) := by
    show execSemaphoreWaitExpiry k s = _
    simp only [execSemaphoreWaitExpiry, hw, hu]
  refine .intro hexec ?_
  cases hs : semHere s w.channel w.tag with
  | true =>
    obtain ⟨ts, q, h, n, he⟩ := holdResult_bridge u w.tag stLockHeld [] id
    rw [semRefuse_here w.port (by decide) (hhere.trans hs)]
    refine ⟨by rw [he]; exact hwaits, fun x _ hx => ?_, by simp⟩
    exact ⟨_, findTag_holdResult stLockHeld [] ((findTag_congr (by rw [hu]) w.tag).trans hx), rfl, rfl⟩
  | false =>
    rw [semRefuse_elsewhere 1 w.port (hhere.trans hs)]
    obtain ⟨m, hm, hrest⟩ := queuesOne_bridgeMsg u w.channel 6 w.tag (k := 1) (v := 0x84)
      (zeros 1 ++ be 2 w.port ++ be 2 0 ++ be 2 0) (by decide)
    exact ⟨hwaits, by simp, fun _ => ⟨m, hm.trans (by rw [hu]), hrest⟩⟩

end

/-! ### Locks of the far buses (R246, R247) -/

section
variable {s : State} {port : Nat}

theorem farBusLockTaken_first {w : LockWait} (hfree : ∀ l ∈ s.bridge.locks, l.port ≠ port)
    (hidle : portBusy s port = false) (hw : s.bridge.lockWaits.find? (fun w => w.port == port) = some w)
    (hid : txnId w.channel w.tag ≠ 0) (hown : ∀ q ∈ s.bridge.locked, q.tag = w.tag → q.port ≠ port) :
    exec (.farBusLockTaken port) s = .next (pumpAll { s with bridge := { s.bridge with
      lockWaits := dropOne w s.bridge.lockWaits, locks := s.bridge.locks ++ [⟨port, txnId w.channel w.tag, s.clk⟩] } }) := by
  have hnone : s.bridge.locked.find? (fun q => q.tag == w.tag && q.port == port) = none := by simpa using hown
  show execFarBusLockTaken port s = _
  rw [execFarBusLockTaken, if_neg (by simpa [hidle] using hfree), hw]
  simp only [if_neg hid, hnone]

theorem farBusLockTaken_taken (h : portBusy s port = true ∨ (∃ l ∈ s.bridge.locks, l.port = port)) :
    exec (.farBusLockTaken port) s = .next s := by
  refine congrArg Host.Outcome.next (if_pos ?_)
  rcases h with h | h
  · simp [h]
  · simpa using Or.inl h

/-- A port's lock ends, and the frames that waited for it alone leave. -/
def unlocked (s : State) (port : Nat) : State :=
  flushCans { s with bridge := { s.bridge with locks := s.bridge.locks.filter (fun m => m.port != port) } }

theorem unlocked_bridge (s : State) (port : Nat) : (unlocked s port).bridge =
    { s.bridge with locks := s.bridge.locks.filter (fun m => m.port != port) } := flushCans_bridge _

/-- With no access under way, the lock's end ends the locked sequence of the port, if there is one. -/
theorem farBusLockExpiry_idle {l : PortLock} (hl : s.bridge.locks.find? (fun l => l.port == port) = some l)
    (hend : l.taken + 5000000 ≤ s.clk) (hown : l.holder ≠ 0) (hidle : s.bridge.farQueue = []) :
    exec (.farBusLockExpiry port) s = .next ((s.bridge.locked.find? (fun q => q.port == port)).elim (unlocked s port)
      (fun q => endLocked (unlocked s port) q stFarTimeout 7)) := by
  have hb := unlocked_bridge s port
  show execFarBusLockExpiry port s = _
  rw [execFarBusLockExpiry, hl]
  dsimp only
  rw [if_pos hend, if_neg hown, ← unlocked, hb, hidle, List.find?_nil]
  dsimp only
  cases s.bridge.locked.find? (fun q => q.port == port) with
  | none => simp only [Option.elim_none]
  | some q => simp only [Option.elim_some]

theorem farBusLockExpiry_row {l : PortLock} (hl : s.bridge.locks.find? (fun l => l.port == port) = some l)
    (hend : l.taken + 5000000 ≤ s.clk) : Answers (.farBusLockExpiry port) s (fun t =>
      (l.holder ≠ 0 → s.bridge.farQueue = [] → s.bridge.locked = [] →
        t.bridge.locks = s.bridge.locks.filter (fun m => m.port != port)) ∧
      (∀ q, l.holder ≠ 0 → s.bridge.farQueue = [] → s.bridge.locked = [q] → q.port = port → t.bridge.locked = [] ∧
        t.bridge.locks = s.bridge.locks.filter (fun m => m.port != port) ∧
        ∀ x, findTag s q.tag = some x → ∃ y, findTag t q.tag = some y ∧ y.state = .held ∧ y.status = stFarTimeout ∧
          y.data = be 4 7)) := by
  have hb := unlocked_bridge s port
  obtain ⟨t, ht⟩ : ∃ t, exec (.farBusLockExpiry port) s = .next t := ⟨_, rfl⟩
  refine .intro ht ⟨fun hown hidle hnone => ?_, fun q hown hidle hone hq => ?_⟩
  · have he := Host.Outcome.next.inj (ht.symm.trans (farBusLockExpiry_idle hl hend hown hidle))
    rw [hnone, List.find?_nil, Option.elim_none] at he
    rw [he, hb]
  · have he := Host.Outcome.next.inj (ht.symm.trans (farBusLockExpiry_idle hl hend hown hidle))
    rw [hone, List.find?_cons_of_pos (by simp [hq]), Option.elim_some] at he
    have hlocked : (unlocked s port).bridge.locked = [q] := by rw [hb, ← hone]
    obtain ⟨hgone, hlocks, htags⟩ := endLocked_sequence hlocked stFarTimeout 7 (by decide)
    rw [he]
    refine ⟨hgone, ?_, fun x hx => ?_⟩
    · rw [hlocks, hb, hq]
      simp
    · exact ⟨_, htags x ((findTag_congr (by rw [hb]) q.tag).trans hx), rfl, rfl, rfl⟩

theorem lockWaitExpiry_row {k : Nat} {w : LockWait} {q : LockedSeq} {x : TagSt}
    (hw : s.bridge.lockWaits.find? (fun w => w.tag == k && w.until_ ≤ s.clk) = some w)
    (hq : s.bridge.locked.find? (fun q => q.tag == k && q.port == w.port) = some q) (hx : findTag s k = some x) :
    Answers (.lockWaitExpiry k) s (fun t => t.bridge.lockWaits = dropOne w s.bridge.lockWaits ∧
      (∀ y ∈ t.bridge.locked, y.tag ≠ k) ∧ ∃ y, findTag t k = some y ∧ y.state = .held ∧ y.status = stLockHeld) := by
  obtain ⟨u, hu⟩ : ∃ u : State, u = { s with bridge := { s.bridge with
    lockWaits := dropOne w s.bridge.lockWaits, locked := s.bridge.locked.filter (fun y => y.tag != q.tag) } } := ⟨_, rfl⟩
  have hqk : q.tag = k := by
    have h := List.find?_some hq
    simp only [Bool.and_eq_true, beq_iff_eq] at h
    exact h.1
  have hexec : exec (.lockWaitExpiry k) s = .next (holdResult u k stLockHeld [] id) := by
    show execLockWaitExpiry k s = _
    simp only [execLockWaitExpiry, hw, hq, hu]
  obtain ⟨ts, p, h, n, he⟩ := holdResult_bridge u k stLockHeld [] id
  have htag : findTag u k = some x := (findTag_congr (by rw [hu]) k).trans hx
  refine .intro hexec ?_
  rw [he]
  exact ⟨by rw [hu], by simp [hu, hqk], _, findTag_holdResult stLockHeld [] htag, rfl, rfl⟩

end

/-! ### Access units (R235, R245) -/

section
variable {s : State} {x : FarTxn} (hq : s.bridge.farQueue = [x]) (hstart : x.started = true)
include hq hstart

/-- The answer to the only access of the engine ends its unit: nothing else waits for the same carrier. -/
theorem farTransactionComplete_only {t : State} {a : FarAnswer}
    (ht : completeUnit (dropCarrier s x.key) x.key a = t) (hidle : t.bridge.farQueue = []) :
    exec (.farTransactionComplete x.key a) s = .next t := by
  have hhead : (headTxn s x.key).any (·.started) = true := by simp [headTxn, hq, hstart]
  show execFarTransactionComplete x.key a s = _
  rw [execFarTransactionComplete, if_pos hhead, ht, pumpAll_idle hidle]

theorem farTransactionComplete_failed {a : FarAnswer} {st d : Nat} (hlocked : x.locked = false)
    (hsem : x.semHeld = false) (hfar : x.localTag = false) (hwrite : x.write = none)
    (ha : (a = .error d ∧ st = stFarError) ∨ (a = .timeout ∧ st = stFarTimeout)) :
    Answers (.farTransactionComplete x.key a) s (fun t => t.bridge.farQueue = [] ∧
      queuesOne s t 3 x.tag x.replyTo (fun m => m.bodies.map (fun b => field b 4 2) = [st])) := by
  obtain ⟨u, hu⟩ : ∃ u, u = dropCarrier s x.key := ⟨_, rfl⟩
  have hb : u.bridge = s.bridge := by rw [hu]; exact dropCarrier_only s x.key .bridge (by decide)
  have hhead : headTxn u x.key = some x := by simp [headTxn, hb, hq]
  obtain ⟨e, hunit⟩ : ∃ e, completeUnit u x.key a = finishTxn u x st x.unitsDone e 0 := by
    rcases ha with ⟨rfl, rfl⟩ | ⟨rfl, rfl⟩
    · exact ⟨d, by simp [completeUnit, hhead, hstart]⟩
    · exact ⟨0, by simp [completeUnit, hhead, hstart]⟩
  obtain ⟨r, l, w, hleft⟩ := txnLeft_bridge (s := u) hsem
  have hidle : (answerTxn (txnLeft u x) x st x.unitsDone e 0).bridge.farQueue = [] := by
    rw [answerTxn_farQueue _ _ _ _ _ hwrite hfar, hleft, hb, hq]
    exact if_pos rfl
  have hst : st < 65536 := by rcases ha with ⟨-, rfl⟩ | ⟨-, rfl⟩ <;> decide
  refine .intro (farTransactionComplete_only hq hstart
    (by rw [← hu, hunit, finishTxn_only hlocked rfl hidle]) hidle) ⟨hidle, ?_⟩
  obtain ⟨m, hm, hrest⟩ := queuesOne_answerTxn (txnLeft u x) x.unitsDone e 0 hwrite hfar hst
  rw [hleft, hb] at hm
  exact ⟨m, hm, hrest⟩

theorem farTransactionComplete_written {v : Val × Nat} (b : Bytes) (hlocked : x.locked = false)
    (hsem : x.semHeld = false) (hfar : x.localTag = false) (hwrite : x.write = some v) (hread : x.shadowRead = false)
    (hlast : x.unitsDone + 1 = unitCount x.entry) :
    Answers (.farTransactionComplete x.key (.ok b)) s (fun t =>
      t.bridge.farQueue = [] ∧ t.bridge.queue = s.bridge.queue) := by
  obtain ⟨u, hu⟩ : ∃ u, u = dropCarrier s x.key := ⟨_, rfl⟩
  have hb : u.bridge = s.bridge := by rw [hu]; exact dropCarrier_only s x.key .bridge (by decide)
  have hhead : headTxn u x.key = some x := by simp [headTxn, hb, hq]
  have hwriting : writing x = true := by simp [writing, hwrite, hread]
  obtain ⟨n, hn⟩ : ∃ n, n = noteField u x.entry (writeField u x) := ⟨_, rfl⟩
  have hnb : n.bridge = s.bridge := by rw [hn, ← hb]; exact noteField_only u x.entry _ .bridge (by decide)
  have hunit : completeUnit u x.key (.ok b) = finishTxn n x stDone 0 0 0 := by
    simp only [completeUnit, hhead, hstart, hwriting, hlast, hn, Bool.not_true, Bool.false_eq_true, if_false, if_true,
      Nat.lt_irrefl]
  obtain ⟨r, l, w, hleft⟩ := txnLeft_bridge (s := n) hsem
  have hidle : (txnLeft n x).bridge.farQueue = [] := by
    rw [hleft, hnb, hq]
    exact if_pos rfl
  refine .intro (farTransactionComplete_only hq hstart
    (by rw [← hu, hunit, finishTxn_only hlocked (answerTxn_written _ 0 0 0 hwrite hfar) hidle]) hidle) ⟨hidle, ?_⟩
  rw [hleft, hnb]

end

/-- Settles O15: each row's effect, from the lemma above that bears its name. -/
theorem bridgeTimersAndLocksRunOut : Obligations.BridgeTimersAndLocksRunOut := by
  unfold Obligations.BridgeTimersAndLocksRunOut
  refine ⟨?_, ?_, ?_, ?_, ?_, ?_, ?_, ?_, ?_, ?_, ?_, ?_, ?_, ?_, ?_⟩
  case refine_1 => exact fun s k x hx hheld hend => resultHoldExpiry_row hx hheld hend
  case refine_2 => exact fun s k x hx hfree hdue hidle hsem => bridgeTimeoutExpiry_row hx hfree hdue hidle hsem
  case refine_3 => exact fun s k x y hx hwrite hy hlocal htag hstart =>
    bridgeTimeoutExpiry_started hx hwrite hy hlocal htag hstart
  case refine_4 => exact fun s k x y hx hread hfree hdue hy hlocal htag hstart hneeds hsem =>
    bridgeTimeoutExpiry_keptOut hx hfree hdue hread hy hlocal htag hstart hneeds hsem
  case refine_5 => exact fun s slot hdue hidle hp => bridgeMarkSend_row hdue hidle hp
  case refine_6 => exact senderRecordExpiry_row
  case refine_7 => exact readAheadExpiry_row
  case refine_8 => exact fun s k x hx _ hset hend => semaphoreLeaseExpiry_row hx hset hend
  case refine_9 => exact fun s k w hw => semaphoreWaitExpiry_row hw
  case refine_10 => exact fun s port w hfree hidle hw hid hown => farBusLockTaken_first hfree hidle hw hid hown
  case refine_11 => exact fun s port h => farBusLockTaken_taken h
  case refine_12 => exact fun s port l hl hend => farBusLockExpiry_row hl hend
  case refine_13 => exact fun s k w q x hw hq hx => lockWaitExpiry_row hw hq hx
  case refine_14 => exact fun s x a st d hq hstart hlocked hsem hfar hwrite _ ha =>
    farTransactionComplete_failed hq hstart hlocked hsem hfar hwrite ha
  case refine_15 => exact fun s x v b hq hstart hlocked hsem hfar hwrite hread hlast =>
    farTransactionComplete_written hq hstart b hlocked hsem hfar hwrite hread hlast

end Sys2Proof.Proofs
end

section
/-! Command packets over the train line and TRDP, their replies, and the ends of sessions and transfers (R241, R243, R273,
R276, R446, R456, R457, R459, R460; log entry 66), and the statement O17. -/

namespace Sys2Proof.Proofs

open Sys2Proof Sys2Proof.Machine

/-! ### Messages of one fragment (R459, R460) -/

section
variable {s : State} {f : Frame}

/-- A message that waits for its kind's row leaves the inbox and is acted on. -/
theorem takeMessage_waiting {k : Nat} (act : State → State) (hf : f ∈ s.bridge.inbox) (hkind : msgKind f = k) :
    takeMessage s f k act = act { s with bridge := { s.bridge with inbox := dropOne f s.bridge.inbox } } :=
  if_pos (by simp [hf, hkind])

/-- The message that one fragment is alone: what follows the destination channel and 2 reserved bytes (R459). -/
def wholeOf (s : State) (f : Frame) : Reasm :=
  ⟨msgKind f, f.channel, msgTag f, msgChannel f, 0, [(0, (msgBody f).drop 4)], s.cyc.n⟩

theorem messageBytes_wholeOf (s : State) (f : Frame) : messageBytes (wholeOf s f) = (msgBody f).drop 4 :=
  List.append_nil _

theorem reassemble_single (act : State → Reasm → State) (hfirst : msgIndex f = 0) (hlast : msgLastIndex f = 0) :
    reassemble s f act =
      act { s with cmd := { s.cmd with reasm := s.cmd.reasm.filter (fun r => !sameMessage f r) } } (wholeOf s f) := by
  have hjoin : joinFragment s f = wholeOf s f := by
    simp only [joinFragment, hfirst, hlast, if_true, Option.getD_none]
    rfl
  rw [reassemble, hjoin]
  exact if_pos rfl

/-- The state in which a message of one fragment is acted on. -/
def received (s : State) (f : Frame) : State :=
  { s with bridge := { s.bridge with inbox := dropOne f s.bridge.inbox }
           cmd := { s.cmd with reasm := s.cmd.reasm.filter (fun r => !sameMessage f r) } }

variable (hf : f ∈ s.bridge.inbox) (hfirst : msgIndex f = 0) (hlast : msgLastIndex f = 0)
include hf hfirst hlast

theorem takeMessage_single {k : Nat} (act : State → Reasm → State) (hkind : msgKind f = k) :
    takeMessage s f k (fun s => reassemble s f act) = act (received s f) (wholeOf s f) := by
  rw [takeMessage_waiting _ hf hkind, reassemble_single act hfirst hlast]
  rfl

theorem remoteCommandMessage_single (hkind : msgKind f = 7) : exec (.remoteCommandMessage f) s = .next
    (acceptBytes (received s f) (.line f.channel) (msgTag f) false ((msgBody f).drop 4)) := by
  show execRemoteCommandMessage f s = _
  rw [execRemoteCommandMessage, takeMessage_single hf hfirst hlast _ hkind, messageBytes_wholeOf]
  rfl

/-- The reply is held under the tag that awaits it (R241). -/
theorem commandReplyMessage_awaited {x : TagSt} (hkind : msgKind f = 8) (hx : findTag s (msgTag f) = some x)
    (hremote : x.kind = .remote) (hfree : x.state ≠ .held) (hinit : x.initiator = msgChannel f) :
    exec (.commandReplyMessage f) s =
      .next (holdResult (received s f) (msgTag f) stDone ((msgBody f).drop 4) id) := by
  obtain ⟨htag, as, bs, hsplit, hbefore⟩ := List.find?_eq_some_iff_append.mp hx
  have hawaits : s.bridge.tags.find? (fun x => x.tag == msgTag f && x.initiator == msgChannel f && x.state != .held &&
      (x.kind == .remote || x.kind == .fetch)) = some x := by
    refine List.find?_eq_some_iff_append.mpr ⟨?_, as, bs, hsplit, fun y hy => ?_⟩
    · simpa [hremote, hinit, hfree] using htag
    · have hother : (y.tag == msgTag f) = false := by simpa using hbefore y hy
      simp [hother]
  show execCommandReplyMessage f s = _
  rw [execCommandReplyMessage, takeMessage_single hf hfirst hlast _ hkind]
  simp only [received, wholeOf, hawaits, hremote, reduceCtorEq, if_false, tag_of_findTag hx]
  exact congrArg (fun b => Host.Outcome.next (holdResult (received s f) (msgTag f) stDone b id)) (messageBytes_wholeOf s f)

theorem commandReplyMessage_row {x : TagSt} (hkind : msgKind f = 8) (hx : findTag s (msgTag f) = some x)
    (hremote : x.kind = .remote) (hfree : x.state ≠ .held) (hinit : x.initiator = msgChannel f) :
    Answers (.commandReplyMessage f) s (fun t => ∃ y, findTag t (msgTag f) = some y ∧ y.state = .held ∧
      y.status = stDone ∧ y.data = (msgBody f).drop 4 ∧ y.holdEnd = s.clk + 250000000 ∧
      t.bridge.droppedResults = s.bridge.droppedResults) := by
  obtain ⟨ts, q, h, n, he⟩ := holdResult_bridge (received s f) (msgTag f) stDone ((msgBody f).drop 4) id
  refine .intro (commandReplyMessage_awaited hf hfirst hlast hkind hx hremote hfree hinit)
    ⟨_, findTag_holdResult (s := received s f) stDone _ hx, rfl, rfl, rfl, rfl, ?_⟩
  rw [he]
  rfl

/-- A reply that no tag awaits is dropped and counted (R243). -/
theorem commandReplyMessage_dropped (hkind : msgKind f = 8) (hx : findTag s (msgTag f) = none) :
    Answers (.commandReplyMessage f) s (fun t => t.bridge.droppedResults = count32 s.bridge.droppedResults ∧
      t.bridge.tags = s.bridge.tags) := by
  have hnone : s.bridge.tags.find? (fun x => x.tag == msgTag f && x.initiator == msgChannel f && x.state != .held &&
      (x.kind == .remote || x.kind == .fetch)) = none := by
    refine List.find?_eq_none.mpr fun y hy => ?_
    have hother : (y.tag == msgTag f) = false := by simpa using List.find?_eq_none.mp hx y hy
    simp [hother]
  have hexec : exec (.commandReplyMessage f) s = .next { received s f with
      bridge := { (received s f).bridge with droppedResults := count32 s.bridge.droppedResults } } := by
    show execCommandReplyMessage f s = _
    rw [execCommandReplyMessage, takeMessage_single hf hfirst hlast _ hkind]
    simp only [received, wholeOf, hnone]
  exact .intro hexec ⟨rfl, rfl⟩

end

/-! ### Incomplete messages (R460) -/

theorem remotePacketIncomplete_discards (s : State) (chan tag : Nat) : Answers (.remotePacketIncomplete chan tag) s (fun t =>
    t.cmd.reasm = s.cmd.reasm.filter (fun r => !(r.chan == chan && r.tag == tag && windowOver s r.cycle))) := by
  refine .intro rfl (congrArg CmdSt.reasm (foldl_part _ .cmd _ _ fun u r => ?_))
  split
  · split
    · rfl
    · exact refuse_only u _ _ _ _ .cmd (by decide)
  · rfl

/-- A request whose fragment 0 has come is answered `INCOMPLETE`. -/
theorem remotePacketIncomplete_answers {s : State} {r : Reasm} {b : Bytes} (hr : s.cmd.reasm = [r]) (hkind : r.kind = 7)
    (hover : windowOver s r.cycle = true) (hb : Tab.get? r.parts 0 = some b) (hlen : 16 ≤ b.length) :
    exec (.remotePacketIncomplete r.chan r.tag) s =
      .next (refuse { s with cmd := { s.cmd with reasm := [] } } (.line r.chan) r.tag (b.take 7) stIncomplete) := by
  show execRemotePacketIncomplete r.chan r.tag s = _
  simp [execRemotePacketIncomplete, hr, hkind, hover, hb, Nat.not_lt.mpr hlen]

/-! ### Message data of TRDP (R273, R276, R446) -/

/-- Message data without a dataset fits every interface (R272). -/
theorem sendMd_empty (s : State) (kind comId ip session result : Nat) : sendMd s kind comId ip session result [] =
    sendIp s (ifaceFor s ip) ip (net s).mdQueue none (.trdp (trdpOut s kind comId 0 ip session result [])) := by
  simp only [sendMd, List.length_nil, Nat.not_lt_zero, if_false]

section
variable {s : State} {m : TrdpIn}

theorem trdpRequest_judged {c : Instr} (hc : c = .trdpMrReceived m ∨ c = .trdpMnReceived m) (hok : m.headerOk = false) :
    exec c s = .next (report s 0x0682 11 1 []) := by
  rcases hc with rfl | rfl <;> exact congrArg Host.Outcome.next (trdpHeader_bad _ (.inl hok))

variable (hok : m.headerOk = true) (hver : m.version / 256 = 1) (htopo : m.etbTopo = 0)
include hok hver htopo

theorem trdpRequest_command {c : Instr} {q : Bool}
    (hc : (c = .trdpMrReceived m ∧ q = false) ∨ (c = .trdpMnReceived m ∧ q = true)) (hcom : m.comId = commandComId s)
    (hm : managing s = true) : exec c s = .next (acceptBytes s (.vehicle m.src m.sport)
      (m.session * 4294967296 + (if m.replyComId = 0 then m.comId else m.replyComId)) q m.dataset) := by
  rcases hc with ⟨rfl, rfl⟩ | ⟨rfl, rfl⟩ <;>
    exact telegram_acts hok hver (.inl htopo) rfl (if_pos ⟨hcom, hm⟩)

/-- A request on another ComId is answered Me, with the code of no replier (log entry 66). -/
theorem trdpMr_otherComId (hcom : m.comId ≠ commandComId s) :
    exec (.trdpMrReceived m) s = .next (sendIp s (ifaceFor s m.src) m.src (net s).mdQueue none
      (.trdp ⟨0x4D65, 0, 0, topoCommitted s, m.src, m.session, 0xFFFFFFFD, [], 17225, 0x0100, 0⟩)) := by
  refine telegram_acts hok hver (.inl htopo) rfl ?_
  rw [if_neg (by simp [hcom]), sendMd_empty]
  rfl

theorem trdpMn_otherComId (hcom : m.comId ≠ commandComId s) :
    Answers (.trdpMnReceived m) s (fun t => t.veh.mnDiscarded = count32 s.veh.mnDiscarded ∧ t.cmd = s.cmd) :=
  .intro (telegram_acts hok hver (.inl htopo) rfl (if_neg (by simp [hcom]))) ⟨rfl, rfl⟩

end

/-! ### Sessions, kept replies and transfers end (R446, R456, R457) -/

section
variable {s : State} {sess : Session} {q : SessSt} (hq : sessionOf s sess = some q)
include hq

theorem sessionIdle_ends (hidle : q.last + 10000000000 ≤ s.clk) : Answers (.sessionIdle sess) s (fun t =>
    sessionOf t sess = none ∧ (∀ x, x ≠ sess → sessionOf t x = sessionOf s x) ∧
    (s.cmd.turn = some sess → t.cmd.turn = none)) := by
  have hexec : exec (.sessionIdle sess) s = .next { s with cmd := { s.cmd with
      sessions := s.cmd.sessions.filter (fun x => x.sess != sess)
      turn := if s.cmd.turn = some sess then none else s.cmd.turn } } := by
    show execSessionIdle sess s = _
    simp only [execSessionIdle, hq, if_pos hidle]
  refine .intro hexec ⟨by simp [sessionOf], fun x hx => ?_, fun hturn => if_pos hturn⟩
  rw [sessionOf, List.find?_filter, sessionOf]
  refine congrArg (s.cmd.sessions.find? ·) (funext fun y => ?_)
  by_cases hy : y.sess = x <;> simp [hy, hx]

/-- What is done to a session is what its entry shows. -/
theorem sessionOf_adjSession {f : SessSt → SessSt} (hf : ∀ y, (f y).sess = y.sess) :
    sessionOf (adjSession s sess f) sess = some (f q) := by
  have hkeeps : ((fun y : SessSt => y.sess == sess) ∘ fun y => if y.sess = sess then f y else y) =
      fun y => y.sess == sess := by
    funext y
    by_cases hy : y.sess = sess <;> simp [hy, hf]
  have hsess : q.sess = sess := by simpa using List.find?_some hq
  rw [sessionOf, adjSession, List.find?_map, hkeeps]
  rw [sessionOf] at hq
  rw [hq, Option.map_some, if_pos hsess]

theorem replyKeepExpiry_forgets (seq : Nat) : Answers (.replyKeepExpiry sess seq) s (fun t =>
    ∃ q', sessionOf t sess = some q' ∧ q'.queue = q.queue ∧ q'.last = q.last ∧
      q'.kept = q.kept.filter (fun k => k.seq != seq || s.clk < k.at_ + 5000000000)) :=
  .intro rfl ⟨_, sessionOf_adjSession hq (fun _ => rfl), rfl, rfl, rfl⟩

end

/-- The bank that a lapsed image transfer wrote is empty; every other part of the images is as it was (R486). -/
theorem emptySpare_img (s : State) (kind : Nat) :
    (kind = 8 → (emptySpare s kind).img.fw = dropWriting s.img.fw) ∧
      (kind = 9 → (emptySpare s kind).img.cf = dropWriting s.img.cf) := by
  constructor <;> rintro rfl <;> rfl

theorem transferIdle_ends {s : State} {x : Transfer} (hx : x ∈ s.cmd.transfers) (hidle : x.last + 10000000000 ≤ s.clk) :
    Answers (.transferIdle x.kind x.target) s (fun t => x ∉ t.cmd.transfers ∧
      (∀ y ∈ s.cmd.transfers, y ∉ t.cmd.transfers → y.kind = x.kind ∧ y.target = x.target ∧ y.last + 10000000000 ≤ s.clk) ∧
      (x.kind = 8 → t.img.fw = dropWriting s.img.fw) ∧ (x.kind = 9 → t.img.cf = dropWriting s.img.cf)) := by
  obtain ⟨u, hu⟩ : ∃ u : State, u = { s with cmd := { s.cmd with transfers := s.cmd.transfers.filter (fun t =>
    !(t.kind == x.kind && t.target == x.target && decide (t.last + 10000000000 ≤ s.clk))) } } := ⟨_, rfl⟩
  have hany : (s.cmd.transfers.any fun t =>
      t.kind == x.kind && t.target == x.target && decide (t.last + 10000000000 ≤ s.clk)) = true :=
    List.any_eq_true.mpr ⟨x, hx, by simp [hidle]⟩
  have hexec : exec (.transferIdle x.kind x.target) s = .next (emptySpare u x.kind) := by
    show execTransferIdle x.kind x.target s = _
    rw [execTransferIdle, hu]
    exact congrArg Host.Outcome.next (if_pos hany)
  have hcmd : (emptySpare u x.kind).cmd = u.cmd := emptySpare_only u x.kind .cmd (by decide)
  have himg : u.img = s.img := by rw [hu]
  obtain ⟨hfw, hcf⟩ := emptySpare_img u x.kind
  rw [himg] at hfw hcf
  refine .intro hexec ⟨?_, fun y hy hgone => ?_, hfw, hcf⟩
  · rw [hcmd, hu]
    simp [List.mem_filter, hidle]
  · rw [hcmd, hu] at hgone
    simpa [List.mem_filter, hy, and_assoc] using hgone

/-- Settles O17: each row's effect, from the lemma above that bears its name. -/
theorem remotePacketsAndSessionsFollow : Obligations.RemotePacketsAndSessionsFollow := by
  unfold Obligations.RemotePacketsAndSessionsFollow
  refine ⟨?_, ?_, ?_, ?_, ?_, ?_, ?_, ?_, ?_, ?_, ?_⟩
  case refine_1 => exact fun s f hf hkind hfirst hlast => remoteCommandMessage_single hf hfirst hlast hkind
  case refine_2 => exact fun s f x hf hkind hfirst hlast hx hremote hfree hinit =>
    commandReplyMessage_row hf hfirst hlast hkind hx hremote hfree hinit
  case refine_3 => exact fun s f hf hkind hfirst hlast hx => commandReplyMessage_dropped hf hfirst hlast hkind hx
  case refine_4 => exact remotePacketIncomplete_discards
  case refine_5 => exact fun s r b hr hkind hover hb hlen => remotePacketIncomplete_answers hr hkind hover hb hlen
  case refine_6 => exact fun s m c q hc hok hver htopo hcom hm => trdpRequest_command hok hver htopo hc hcom hm
  case refine_7 => exact fun s m hok hver htopo hcom =>
    ⟨trdpMr_otherComId hok hver htopo hcom, trdpMn_otherComId hok hver htopo hcom⟩
  case refine_8 => exact fun s m c hc hok => trdpRequest_judged hc hok
  case refine_9 => exact fun s sess q hq hidle => sessionIdle_ends hq hidle
  case refine_10 => exact fun s sess seq q hq => replyKeepExpiry_forgets hq seq
  case refine_11 => exact fun s x hx hidle => transferIdle_ends hx hidle

end Sys2Proof.Proofs
end

section
/-! SUPPORT. Field ports, CAN nodes and floats (R287 to R324): each reads back what was written to it; what a return from
`WAIT` and a latched event change of a float (R314, R315). -/

namespace Sys2Proof.Proofs

open Sys2Proof Sys2Proof.Machine

/-! ### Ports, nodes and floats -/

@[simp] theorem tab_getD_set_self {α : Type} (t : Tab α) (k : Nat) (v d : α) : Tab.getD (Tab.set t k v) k d = v := by
  simp [Tab.getD]

@[simp] theorem sport_setSport (s : State) (p : Nat) (f : SPort → SPort) : sport (setSport s p f) p = f (sport s p) :=
  tab_getD_set_self ..

@[simp] theorem sport_emit (s : State) (o : List Out) (p : Nat) : sport (emit s o) p = sport s p := rfl

@[simp] theorem floatOf_setFloat (s : State) (k : Nat) (f : FloatSt) : floatOf (setFloat s k f) k = f :=
  tab_getD_set_self ..

@[simp] theorem canPort_setCan (s : State) (c : Nat) (f : CanPort → CanPort) : canPort (setCan s c f) c = f (canPort s c) :=
  tab_getD_set_self ..

@[simp] theorem nodeSt_setNode (s : State) (c node : Nat) (f : CanNodeSt → CanNodeSt) :
    nodeSt (setNode s c node f) c node = f (nodeSt s c node) := by
  simp [nodeSt, setNode]

/-! ### Waits and events (R314, R315) -/

theorem floatReturn_running {f : FloatSt} (h : f.waiting = none) : floatReturn f = f := by
  simp only [floatReturn, h]

/-- A return from `WAIT` writes registers, events and the wait; nothing else of the float. -/
theorem floatReturn_fields (f : FloatSt) : ∃ rs e a b w n, floatReturn f =
    { f with regs := rs, events := e, steppedT := a, steppedP := b, waiting := w, steps := n } := by
  unfold floatReturn
  split
  · exact ⟨_, _, _, _, _, _, rfl⟩
  · dsimp only
    split <;> exact ⟨_, _, _, _, _, _, rfl⟩

/-- The float with one more event latched. -/
def latched (f : FloatSt) (b : Nat) : FloatSt :=
  { f with events := if bitOf f.events b then f.events else f.events + 2 ^ b }

theorem latchBit_eq (f : FloatSt) (b : Nat) : latchBit f b = floatReturn (latched f b) := rfl

theorem bitOf_latched (f : FloatSt) (b : Nat) : bitOf (latched f b).events b = true := by
  unfold latched
  dsimp only
  split
  case isTrue h => exact h
  case isFalse h =>
    have hclear : f.events / 2 ^ b % 2 ≠ 1 := by simpa [bitOf] using h
    rw [bitOf, Nat.add_div_right _ (Nat.two_pow_pos b)]
    simp only [beq_iff_eq]
    omega

theorem latchBit_running {f : FloatSt} (b : Nat) (h : f.waiting = none) : latchBit f b = latched f b :=
  floatReturn_running h

theorem latchBit_fields (f : FloatSt) (b : Nat) : ∃ rs e x y w n, latchBit f b =
    { f with regs := rs, events := e, steppedT := x, steppedP := y, waiting := w, steps := n } :=
  floatReturn_fields (latched f b)

/-- A `WAIT` for event 0 alone returns with that event, which it takes. -/
theorem floatReturn_first {f : FloatSt} {r : Nat} (h : f.waiting = some (1, r)) (hset : bitOf f.events 0 = true) :
    floatReturn f = { f with regs := f.regs.set r 1, events := f.events - 1, waiting := none, steps := 0 } := by
  have hodd : f.events % 2 = 1 := by simpa [bitOf] using hset
  have hpresent : Nat.land (floatPresent f) (1 % 256) = 1 := by
    have hland : Nat.land (floatPresent f) (1 % 256) = floatPresent f % 2 := Nat.and_one_is_mod _
    rw [hland, floatPresent]
    omega
  have htaken : Nat.land f.events 1 = 1 := (Nat.and_one_is_mod _).trans hodd
  have hbits : bitOf 1 5 = false ∧ bitOf 1 6 = false := by decide
  simp only [floatReturn, h, hpresent, htaken, hbits]
  simp [b2n]

/-- A latched event 0 ends a `WAIT` for it alone. -/
theorem latchBit_awaited {f : FloatSt} {r : Nat} (h : f.waiting = some (1, r)) :
    (latchBit f 0).waiting = none ∧ (latchBit f 0).steps = 0 ∧ bitOf (latchBit f 0).events 0 = false ∧
      (latchBit f 0).regs = f.regs.set r 1 := by
  have hset := bitOf_latched f 0
  rw [latchBit_eq, floatReturn_first (f := latched f 0) h hset]
  refine ⟨rfl, rfl, ?_, rfl⟩
  simp only [bitOf, Nat.pow_zero, Nat.div_one, beq_iff_eq, beq_eq_false_iff_ne] at hset ⊢
  omega

end Sys2Proof.Proofs
end

section
/-! MVB ports (R290, R293 to R297), and the statement O36. -/

namespace Sys2Proof.Proofs

open Sys2Proof Sys2Proof.Machine

/-! ### The basic period of an administrator (R294, R297) -/

/-- The periodic phase of basic period `k` is over. -/
def periodicDone (s : State) (p k : Nat) : State :=
  setSport (emit s (mvbPoll s p k)) p (fun q => { q with basic := k + 1, polled := none })

section
variable {s : State} {p k : Nat} (hmode : (sportCfg s p).mode = 1) (hpair : (sportCfg s p).pairB = false)
  (hindex : basicIndex s (sportCfg s p) = (k : Int))
include hmode hpair hindex

/-- A basic period is polled once. -/
theorem mvbBasicPeriod_again (h : (sport s p).basic = k + 1) : exec (.mvbBasicPeriod p) s = .next s := by
  show execMvbBasicPeriod p s = _
  simp [execMvbBasicPeriod, hmode, hpair, hindex, h]

variable (hpolled : (sport s p).polled = none) (hnew : (sport s p).basic ≠ k + 1)
include hpolled hnew

/-- Without devices the sporadic phase polls nothing. -/
theorem mvbBasicPeriod_noDevice (hdev : (sportCfg s p).devices = []) :
    exec (.mvbBasicPeriod p) s = .next (periodicDone s p k) := by
  have hstarted : ¬ (k : Int) < 0 := by omega
  show execMvbBasicPeriod p s = _
  simp [execMvbBasicPeriod, periodicDone, hmode, hpair, hindex, hpolled, hstarted, hnew, hdev]

/-- The sporadic phase polls the device whose turn it is. -/
theorem mvbBasicPeriod_device {d : MvbDevice}
    (hdev : (sportCfg s p).devices[(sport s p).nextDevice % (sportCfg s p).devices.length]? = some d) :
    exec (.mvbBasicPeriod p) s = .next (emit (setSport (periodicDone s p k) p (fun q => { q with
      nextDevice := (q.nextDevice + 1) % (sportCfg s p).devices.length, polled := some d.addr })) [.mvbMaster p 15 d.addr]) := by
  have hstarted : ¬ (k : Int) < 0 := by omega
  show execMvbBasicPeriod p s = _
  simp [execMvbBasicPeriod, periodicDone, hmode, hpair, hindex, hpolled, hstarted, hnew, hdev]

end

/-! ### Master frames at a device node (R293, R295) -/

section
variable {s : State} {p a : Nat} (hmode : (sportCfg s p).mode = 2) (hpair : (sportCfg s p).pairB = false)
include hmode hpair

/-- A damaged master frame counts as a drop. -/
theorem mvbMasterFrame_bad (f : Nat) : exec (.mvbMasterFrameReceived p f a false) s =
    .next (setSport s p (fun q => { q with port := q.port.mark 3 })) := by
  show execMvbMasterFrameReceived p f a false s = _
  simp [execMvbMasterFrameReceived, hmode, hpair]

/-- A poll of the node's own address is answered by its status word. -/
theorem mvbMasterFrame_status : exec (.mvbMasterFrameReceived p 15 (sportCfg s p).deviceAddr true) s =
    .next (emit (mvbSeen s p (sport s p).lineB)
      [.mvbSlave p (sportCfg s p).deviceAddr (be 2 (sportCfg s p).deviceStatus)]) := by
  show execMvbMasterFrameReceived p 15 (sportCfg s p).deviceAddr true s = _
  simp [execMvbMasterFrameReceived, hmode, hpair]

/-- A poll of a source port is answered by that port's data. -/
theorem mvbMasterFrame_source {f : Nat} {x : MvbPort} (hf : f ≤ 4) (hx : mvbPort s p a = some x) (hsource : x.source = true)
    (hcode : x.fcode = f) : exec (.mvbMasterFrameReceived p f a true) s =
      .next (emit (mvbSeen s p (sport s p).lineB) [.mvbSlave p a (mvbData s p x)]) := by
  show execMvbMasterFrameReceived p f a true s = _
  have hdata : f ≠ 15 := by omega
  simp [execMvbMasterFrameReceived, hmode, hpair, hf, hdata, hx, hsource, hcode]

end

theorem mvbSeen_frameAt (s : State) (p : Nat) (lineB : Bool) : (sport (mvbSeen s p lineB) p).frameAt = some s.clk := by
  simp [mvbSeen]

/-! ### Slave frames (R289, R290, R295, R296) -/

/-- The status bit of a late, short, long or damaged slave frame (R290). -/
def slaveFault (m : MvbIn) : Nat := if m.inWindow = false then 6 else if m.short then 0 else if m.long then 1 else 2

section
variable {s : State} {p : Nat} {m : MvbIn} (hmvb : mvbMode s p = true)
include hmvb

/-- A slave frame that did not come, to a poll of process data, sets the bit of a missing answer. -/
theorem mvbSlaveFrame_missing (hmissing : m.missing = true) (hdata : m.fcode ≠ 15) :
    exec (.mvbSlaveFrameReceived p m) s = .next (setSport s p (fun q => { q with port := q.port.mark 6 })) := by
  show execMvbSlaveFrameReceived p m s = _
  simp [execMvbSlaveFrameReceived, hmvb, hmissing, hdata]

variable (hcame : m.missing = false)
include hcame

/-- A late, short, long or damaged frame sets the bit of the first of these. -/
theorem mvbSlaveFrame_bad (hbad : m.inWindow = false ∨ m.short = true ∨ m.long = true ∨ m.checkBad = true) :
    exec (.mvbSlaveFrameReceived p m) s = .next (setSport s p (fun q => { q with port := q.port.mark (slaveFault m) })) := by
  show execMvbSlaveFrameReceived p m s = _
  simp only [execMvbSlaveFrameReceived, slaveFault, hmvb, hcame, Bool.not_true, Bool.false_eq_true, if_false]
  cases hwindow : m.inWindow
  case false => simp
  case true =>
    cases hshort : m.short
    case true => simp
    case false =>
      cases hlong : m.long
      case true => simp
      case false => simp [show m.checkBad = true by simpa [hwindow, hshort, hlong] using hbad]

variable (hwindow : m.inWindow = true) (hshort : m.short = false) (hlong : m.long = false)
  (hcheck : m.checkBad = false) (hdata : m.fcode ≠ 15)
include hwindow hshort hlong hcheck hdata

/-- A valid frame that answers a poll of process data. -/
theorem mvbSlaveFrame_valid :
    exec (.mvbSlaveFrameReceived p m) s = .next (takeMvbData (mvbSeen s p m.lineB) p m) := by
  show execMvbSlaveFrameReceived p m s = _
  simp [execMvbSlaveFrameReceived, hmvb, hcame, hwindow, hshort, hlong, hcheck, hdata]

/-- A sink port's frame becomes the far object's image. -/
theorem mvbSlaveFrame_sink {x : MvbPort} (hx : mvbPort s p m.addr = some x) (hsink : x.sink = true) (hcode : x.fcode = m.fcode) :
    Answers (.mvbSlaveFrameReceived p m) s (fun t =>
      ImageNow s t (mvbKey s p m.addr) (fit m.data (2 * 2 ^ x.fcode)) ∧
      (sport t p).frameAt = some s.clk ∧ (sport t p).lineB = m.lineB ∧
      Tab.get? (sport t p).sinkAt m.addr = some s.time.now) := by
  have hx' : mvbPort (mvbSeen s p m.lineB) p m.addr = some x := hx
  have htake : takeMvbData (mvbSeen s p m.lineB) p m = putImage
      (setSport (mvbSeen s p m.lineB) p (fun q => { q with sinkAt := Tab.set q.sinkAt m.addr s.time.now }))
      (mvbKey s p m.addr) (fit m.data (2 * 2 ^ m.fcode)) := by
    simp only [takeMvbData, hx', Option.any_some, hsink, hcode, beq_self_eq_true, Bool.and_self, if_true]
    rfl
  have hsport (u : State) (k : FarKey) (d : Bytes) : sport (putImage u k d) p = sport u p := rfl
  refine .intro ((mvbSlaveFrame_valid hmvb hcame hwindow hshort hlong hcheck hdata).trans (congrArg _ htake)) ⟨?_, ?_⟩
  · rw [hcode]
    exact putImage_imageNow (setSport (mvbSeen s p m.lineB) p _) _ _
  · simp [hsport, mvbSeen]

/-- A valid frame of an address that neither a port nor a route names is good, and `UNKNOWN`. -/
theorem mvbSlaveFrame_unknown (hport : mvbPort s p m.addr = none) (hroute : mvbRouted s p m.addr m.fcode = false) :
    Answers (.mvbSlaveFrameReceived p m) s (fun t => t.route = s.route ∧
      (sport t p).port = (((sport s p).port.countGood).setUp true).mark 5) := by
  have hport' : mvbPort (mvbSeen s p m.lineB) p m.addr = none := hport
  have hroute' : mvbRouted (mvbSeen s p m.lineB) p m.addr m.fcode = false := hroute
  have htake : takeMvbData (mvbSeen s p m.lineB) p m =
      setSport (mvbSeen s p m.lineB) p (fun q => { q with port := q.port.mark 5 }) := by
    simp [takeMvbData, hport', hroute']
  refine .intro ((mvbSlaveFrame_valid hmvb hcame hwindow hshort hlong hcheck hdata).trans (congrArg _ htake)) ⟨rfl, ?_⟩
  simp [mvbSeen]

end

/-- Settles O36: a basic period is polled once, and each frame is answered, counted or kept by the lemma above that bears its
kind's name. -/
theorem mvbBusesRun : Obligations.MvbBusesRun := by
  unfold Obligations.MvbBusesRun
  refine ⟨?_, ?_, ?_⟩
  case refine_1 =>
    exact fun s p k hmode hpair hindex hpolled => ⟨mvbBasicPeriod_again hmode hpair hindex, fun hnew hdev =>
      .intro (mvbBasicPeriod_noDevice hmode hpair hindex hpolled hnew hdev) ⟨rfl, by simp [periodicDone]⟩, fun d hnew hdev =>
      .intro (mvbBasicPeriod_device hmode hpair hindex hpolled hnew hdev) ⟨rfl, by simp [periodicDone]⟩⟩
  case refine_2 =>
    intro s p f a hmode hpair
    refine ⟨.intro (mvbMasterFrame_bad hmode hpair f) ⟨rfl, by simp⟩,
      .intro (mvbMasterFrame_status hmode hpair) ⟨rfl, mvbSeen_frameAt ..⟩, fun x hf hx hsource hcode =>
      .intro (mvbMasterFrame_source hmode hpair hf hx hsource hcode) ⟨rfl, mvbSeen_frameAt ..⟩⟩
  case refine_3 =>
    intro s p m hmvb
    refine ⟨fun hmissing hdata => .intro (mvbSlaveFrame_missing hmvb hmissing hdata) ⟨sport_setSport .., rfl⟩,
      fun hcame hbad => .intro (mvbSlaveFrame_bad hmvb hcame hbad) ⟨sport_setSport .., rfl⟩, ?_, ?_⟩
    · exact fun x hcame hwindow hshort hlong hcheck hdata hx hsink hcode =>
        mvbSlaveFrame_sink hmvb hcame hwindow hshort hlong hcheck hdata hx hsink hcode
    · exact fun hcame hwindow hshort hlong hcheck hdata hport hroute =>
        mvbSlaveFrame_unknown hmvb hcame hwindow hshort hlong hcheck hdata hport hroute

end Sys2Proof.Proofs
end

section
/-! CAN ports and CANopen nodes (R302 to R307; log entries 29, 31, 32, 37, 134 and 195), and the statement O37. -/

namespace Sys2Proof.Proofs

open Sys2Proof Sys2Proof.Machine

/-! ### Frames sent (R302, R308) -/

@[simp] theorem canPort_emit (s : State) (o : List Out) (c : Nat) : canPort (emit s o) c = canPort s c := rfl

section
variable {s : State} {c : Nat} {m : CanOut}

/-- Sending a frame writes the port's queue and its status; nothing else of the port. -/
theorem canPort_canSend (s : State) (c : Nat) (m : CanOut) :
    ∃ x q, canPort (canSend s c m) c = { canPort s c with port := x, queue := q } := by
  unfold canSend
  dsimp only
  split
  · exact ⟨_, _, rfl⟩
  · split
    · split
      · exact ⟨_, _, canPort_setCan ..⟩
      · split <;> exact ⟨_, _, canPort_setCan ..⟩
    · exact ⟨_, _, rfl⟩

theorem nodeSt_canSend (s : State) (c : Nat) (m : CanOut) (node : Nat) :
    nodeSt (canSend s c m) c node = nodeSt s c node := by
  obtain ⟨x, q, he⟩ := canPort_canSend s c m
  rw [nodeSt, he, nodeSt]

theorem sdoBusy_canSend (s : State) (c : Nat) (m : CanOut) (node : Nat) :
    sdoBusy (canSend s c m) c node = sdoBusy s c node := by
  obtain ⟨x, q, he⟩ := canPort_canSend s c m
  rw [sdoBusy, he, sdoBusy]

/-- On a running port that no lock holds back, a frame that takes no lock itself leaves at once. -/
theorem canSend_out (henabled : (canCfg s c).enabled = true) (hstarted : (canPort s c).started = true)
    (hon : (canPort s c).state ≠ 2) (hlock : portLocked s (8 + c) = false ∨ m.exempt = true) (hgroup : m.grouped = false) :
    (canSend s c m).out = s.out ++ [.can c m] := by
  have hfree : (portLocked s (8 + c) && !m.exempt) = false := by rcases hlock with h | h <;> simp [h]
  simp [canSend, henabled, hstarted, hon, hfree, hgroup, emit]

end

/-! ### The start of a port (R303, R305) -/

/-- The port as it starts: all its nodes boot from now on. -/
def portStarted (s : State) (c : Nat) : State :=
  setCan (setCan s c (fun p => { p with started := true, state := 0, beatAt := s.clk, port := p.port.setUp true })) c
    (fun p => { p with nodes := (canCfg s c).nodes.map (fun n => (n.node, ⟨.boot, s.clk, 0, 0, s.clk⟩)) })

/-- Every configured node of a port that starts boots from now on. -/
theorem nodeSt_portStarted {s : State} {c node : Nat} (h : (canNode s c node).isSome = true) :
    nodeSt (portStarted s c) c node = ⟨.boot, s.clk, 0, 0, s.clk⟩ := by
  obtain ⟨n, hn⟩ := Option.isSome_iff_exists.mp h
  rw [canNode] at hn
  have hget : Tab.get? ((canCfg s c).nodes.map (fun n => (n.node, (⟨.boot, s.clk, 0, 0, s.clk⟩ : CanNodeSt)))) node =
      some ⟨.boot, s.clk, 0, 0, s.clk⟩ := by
    simp only [Tab.get?, List.find?_map, Function.comp_def, hn, Option.map_some]
  rw [nodeSt, portStarted, canPort_setCan, Tab.getD, hget, Option.getD_some]

section
variable {s : State} {c : Nat} (henabled : (canCfg s c).enabled = true) (hstopped : (canPort s c).started = false)
include henabled hstopped

theorem canPortStart_starts : exec (.canPortStart c) s = .next (nmt (portStarted s c) c .resetCommunication 0) := by
  show execCanPortStart c s = _
  simp only [execCanPortStart, henabled, hstopped, Bool.not_true, Bool.or_false, Bool.false_eq_true, if_false]
  rfl

theorem canPortStart_row : Answers (.canPortStart c) s (fun t =>
    (canPort t c).started = true ∧ (canPort t c).state = 0 ∧
    (∀ node, (canNode s c node).isSome = true → (nodeSt t c node).phase = .boot ∧ (nodeSt t c node).since = s.clk) ∧
    (portLocked s (8 + c) = false → t.out = s.out ++ [.can c ⟨0, false, be 1 0x82 ++ be 1 0, false, false, false⟩])) := by
  obtain ⟨x, q, hport⟩ := canPort_canSend (portStarted s c) c
    ⟨0, false, be 1 0x82 ++ be 1 0, false, false, false⟩
  refine .intro (canPortStart_starts henabled hstopped) ⟨?_, ?_, fun node h => ?_, fun hlock => ?_⟩
  · exact (congrArg CanPort.started hport).trans (by simp [portStarted])
  · exact (congrArg CanPort.state hport).trans (by simp [portStarted])
  · rw [nmt, nodeSt_canSend, nodeSt_portStarted h]
    exact ⟨rfl, rfl⟩
  · exact canSend_out henabled (by simp [portStarted]) (by simp [portStarted]) (.inl hlock) rfl

end

/-! ### Received frames (R290, R292, R302; log entry 29) -/

section
variable {s : State} {c : Nat} {m : CanIn} (henabled : (canCfg s c).enabled = true)
  (hstarted : (canPort s c).started = true) (hon : (canPort s c).state ≠ 2)
include henabled hstarted hon

theorem canFrame_error (h : m.error = true) :
    exec (.canFrameReceived c m) s = .next (setCan s c (fun p => { p with port := p.port.mark 2 })) := by
  show execCanFrameReceived c m s = _
  simp [execCanFrameReceived, henabled, hstarted, hon, h]

variable (hvalid : m.error = false)
include hvalid

theorem canFrame_long (h : 8 < m.dlc) :
    exec (.canFrameReceived c m) s = .next (setCan s c (fun p => { p with port := p.port.mark 1 })) := by
  show execCanFrameReceived c m s = _
  simp [execCanFrameReceived, henabled, hstarted, hon, hvalid, h]

variable (hlen : m.dlc ≤ 8)
include hlen

/-- A frame for a row of its kind is good, and waits for that row. -/
theorem canFrame_kept (h : canKept s c m.ident = true) : exec (.canFrameReceived c m) s =
    .next (setCan s c (fun p => { p with port := p.port.countGood, inbox := p.inbox ++ [m] })) := by
  show execCanFrameReceived c m s = _
  simp [execCanFrameReceived, henabled, hstarted, hon, hvalid, Nat.not_lt.mpr hlen, h]

/-- A frame for no row and no route is good, and `UNKNOWN`. -/
theorem canFrame_unknown (h : canKept s c m.ident = false) (hroute : s.route.table = none) : exec (.canFrameReceived c m) s =
    .next (setCan s c (fun p => { p with port := p.port.countGood.mark 5 })) := by
  show execCanFrameReceived c m s = _
  simp [execCanFrameReceived, henabled, hstarted, hon, hvalid, Nat.not_lt.mpr hlen, h, routed, hroute]

end

theorem canKept_pdo {s : State} {c ident : Nat} (h : (inPdo s c ident).isSome = true) : canKept s c ident = true := by
  simp [canKept, h]

theorem canKept_stranger {s : State} {c ident : Nat} (hpdo : inPdo s c ident = none) (hnode : canNode s c (ident % 128) = none)
    (hsdo : sdoBusy s c (ident % 128) = false) (hroute : s.route.table = none) : canKept s c ident = false := by
  simp [canKept, hpdo, hnode, hsdo, routed, hroute]

/-! ### A frame that waits is taken by its row -/

/-- The state without one waiting frame of a port. -/
def frameTaken (s : State) (c : Nat) (m : CanIn) : State := setCan s c (fun p => { p with inbox := dropOne m p.inbox })

theorem takeCan_found {s : State} {c : Nat} {sel : CanIn → Bool} {m : CanIn} (act : State → State)
    (h : (canPort s c).inbox.find? sel = some m) : takeCan s c sel act = act (frameTaken s c m) := by
  rw [takeCan, h]
  rfl

/-- A waiting frame that a row selects makes the row act, on that frame or on an earlier one that it selects. -/
theorem takeCan_waiting {s : State} {c : Nat} {sel : CanIn → Bool} {m : CanIn} (act : State → State)
    (hm : m ∈ (canPort s c).inbox) (hsel : sel m = true) :
    ∃ x ∈ (canPort s c).inbox, takeCan s c sel act = act (frameTaken s c x) := by
  obtain ⟨x, hx⟩ := Option.isSome_iff_exists.mp (List.find?_isSome.mpr ⟨m, hm, hsel⟩)
  exact ⟨x, List.mem_of_find?_eq_some hx, takeCan_found act hx⟩

theorem dropOne_length {α : Type} [DecidableEq α] {x : α} {l : List α} (h : x ∈ l) : (dropOne x l).length + 1 = l.length := by
  induction l with
  | nil => exact absurd h (List.not_mem_nil)
  | cons y t ih =>
    by_cases hy : x = y
    · simp [dropOne, hy]
    · simp [dropOne, hy, ih ((List.mem_cons.mp h).resolve_left hy)]

@[simp] theorem nodeSt_frameTaken (s : State) (c : Nat) (m : CanIn) (node : Nat) :
    nodeSt (frameTaken s c m) c node = nodeSt s c node := by
  simp [nodeSt, frameTaken]

@[simp] theorem sdoBusy_frameTaken (s : State) (c : Nat) (m : CanIn) (node : Nat) :
    sdoBusy (frameTaken s c m) c node = sdoBusy s c node := by
  simp [sdoBusy, frameTaken]

/-! ### PDOs (R289, R304) -/

section
variable {s : State} {c cob : Nat} {x : InPdo} {m : CanIn} (hm : m ∈ (canPort s c).inbox) (hcob : m.ident = cob)
  (hx : inPdo s c cob = some x)
include hm hcob hx

theorem pdoReceived_taken : ∃ y ∈ (canPort s c).inbox, exec (.pdoReceived c cob m.data) s = .next (putImage
    (setCan (frameTaken s c y) c (fun p => { p with pdoAt := Tab.set p.pdoAt cob s.time.now })) (pdoKey s c x.node cob) m.data) := by
  have hsel : (m.ident == cob && m.data == m.data && (inPdo s c cob).isSome) = true := by simp [hcob, hx]
  obtain ⟨y, hy, htake⟩ := takeCan_waiting (sel := fun m' => m'.ident == cob && m'.data == m.data && (inPdo s c cob).isSome)
    _ hm hsel
  have hx' : inPdo (frameTaken s c y) c cob = some x := hx
  refine ⟨y, hy, (congrArg Host.Outcome.next htake).trans ?_⟩
  simp only [hx']
  rfl

theorem pdoReceived_row : Answers (.pdoReceived c cob m.data) s (fun t =>
    Tab.get? (canPort t c).pdoAt cob = some s.time.now ∧ (canPort t c).inbox.length + 1 = (canPort s c).inbox.length ∧
    ImageNow s t (pdoKey s c x.node cob) m.data) := by
  obtain ⟨y, hy, hexec⟩ := pdoReceived_taken hm hcob hx
  have hport (u : State) (k : FarKey) (d : Bytes) : canPort (putImage u k d) c = canPort u c := rfl
  refine .intro hexec ⟨?_, ?_, putImage_imageNow (setCan (frameTaken s c y) c _) _ _⟩
  · simp [hport]
  · simp [hport, frameTaken, dropOne_length hy]

end

/-! ### Boot-up and heartbeats (R303, R305) -/

/-- The next step of a node with no download left is NMT start. -/
theorem bootStep_done {s : State} {c node : Nat} {n : CanNode} (hn : canNode s c node = some n)
    (hdone : n.downloads[(nodeSt s c node).step]? = none) : (nodeSt (bootStep s c node) c node).phase = .started := by
  simp [bootStep, hn, hdone]

/-- A download of a booting node opens a transfer, and the node stays in its phase. -/
theorem bootStep_download {s : State} {c node : Nat} {n : CanNode} {x : Nat × Nat × Bytes} (hn : canNode s c node = some n)
    (hx : n.downloads[(nodeSt s c node).step]? = some x) (hfree : sdoBusy s c node = false) :
    nodeSt (bootStep s c node) c node = nodeSt s c node ∧ sdoBusy (bootStep s c node) c node = true := by
  simp only [bootStep, hn, hx, hfree, Bool.false_eq_true, if_false, startSdo, sdoFrame, nodeSt_canSend, sdoBusy_canSend]
  simp [nodeSt, sdoBusy]

/-- The node as heard with a state. -/
def nodeHeard (s : State) (c node state : Nat) (x : CanIn) : State :=
  setNode (frameTaken s c x) c node (fun n => { n with heartbeat := state, heard := s.clk })

/-- The node as its boot begins with a boot-up: the download of before is gone. -/
def bootBegun (s : State) (c node : Nat) (x : CanIn) : State :=
  setNode (setCan (nodeHeard s c node 0 x) c (fun p => { p with sdos := p.sdos.filter (fun y => y.access || y.node != node) }))
    c node (fun n => { n with phase := .config, since := s.clk, step := 0 })

theorem nodeSt_nodeHeard (s : State) (c node state : Nat) (x : CanIn) :
    nodeSt (nodeHeard s c node state x) c node = { nodeSt s c node with heartbeat := state, heard := s.clk } := by
  simp [nodeHeard]

theorem nodeSt_bootBegun (s : State) (c node : Nat) (x : CanIn) : (nodeSt (bootBegun s c node x) c node).phase = .config ∧
    (nodeSt (bootBegun s c node x) c node).step = 0 := by
  simp [bootBegun]

/-- A boot that begins leaves no transfer at a node that had none. -/
theorem sdoBusy_bootBegun {s : State} {c node : Nat} (x : CanIn) (h : sdoBusy s c node = false) :
    sdoBusy (bootBegun s c node x) c node = false := by
  have hnone : ∀ y ∈ (canPort s c).sdos, y.node ≠ node := by simpa [sdoBusy] using h
  have hkept : (canPort (bootBegun s c node x) c).sdos =
      (canPort s c).sdos.filter (fun y => y.access || y.node != node) := by
    simp [bootBegun, setNode, nodeHeard, frameTaken]
  simp only [sdoBusy, hkept, List.any_eq_false, beq_iff_eq]
  exact fun y hy => hnone y (List.mem_filter.mp hy).1

section
variable {s : State} {c node state : Nat} {m : CanIn} (hm : m ∈ (canPort s c).inbox) (hid : m.ident = 0x700 + node)
  (hstate : field m.data 0 1 % 128 = state)
include hm hid hstate

/-- A heartbeat of a node past its boot. -/
theorem heartbeat_alive (hnz : state ≠ 0) (hboot : (nodeSt s c node).phase ≠ .boot)
    (hconfig : (nodeSt s c node).phase ≠ .config) : ∃ x, exec (.heartbeatReceived c node state) s = .next (
      if state = 5 then setNode (nodeHeard s c node state x) c node (fun n => { n with phase := .operational })
      else if state = 0x7F then
        setNode (nodeHeard s c node state x) c node (fun n => { n with phase := .boot, since := s.clk, step := 0 })
      else setNode (nodeHeard s c node state x) c node (fun n => { n with phase := .missing })) := by
  have hsel : (m.ident == 0x700 + node && field m.data 0 1 % 128 == state) = true := by simp [hid, hstate]
  obtain ⟨x, -, htake⟩ := takeCan_waiting (sel := fun m => m.ident == 0x700 + node && field m.data 0 1 % 128 == state)
    _ hm hsel
  refine ⟨x, (congrArg Host.Outcome.next htake).trans ?_⟩
  simp only [hnz, if_false, nodeSt_frameTaken]
  cases hphase : (nodeSt s c node).phase
  case boot => exact absurd hphase hboot
  case config => exact absurd hphase hconfig
  all_goals rfl

theorem heartbeat_operational (h5 : state = 5) (hboot : (nodeSt s c node).phase ≠ .boot)
    (hconfig : (nodeSt s c node).phase ≠ .config) : Answers (.heartbeatReceived c node state) s (fun t =>
      (nodeSt t c node).phase = .operational ∧ (nodeSt t c node).heard = s.clk) := by
  obtain ⟨x, hexec⟩ := heartbeat_alive hm hid hstate (by omega) hboot hconfig
  rw [if_pos h5] at hexec
  exact .intro hexec (by simp [nodeSt_nodeHeard])

theorem heartbeat_other (hnz : state ≠ 0) (h5 : state ≠ 5) (hboot : (nodeSt s c node).phase ≠ .boot)
    (hconfig : (nodeSt s c node).phase ≠ .config) : Answers (.heartbeatReceived c node state) s (fun t =>
      (nodeSt t c node).phase = (if state = 0x7F then .boot else .missing) ∧ (nodeSt t c node).heard = s.clk) := by
  obtain ⟨x, hexec⟩ := heartbeat_alive hm hid hstate hnz hboot hconfig
  rw [if_neg h5] at hexec
  refine .intro hexec ?_
  split <;> simp [nodeSt_nodeHeard]

theorem heartbeat_bootUp (h0 : state = 0) :
    ∃ x, exec (.heartbeatReceived c node state) s = .next (bootStep (bootBegun s c node x) c node) := by
  have hsel : (m.ident == 0x700 + node && field m.data 0 1 % 128 == state) = true := by simp [hid, hstate]
  obtain ⟨x, -, htake⟩ := takeCan_waiting (sel := fun m => m.ident == 0x700 + node && field m.data 0 1 % 128 == state)
    _ hm hsel
  refine ⟨x, (congrArg Host.Outcome.next htake).trans ?_⟩
  subst h0
  rfl

/-- A boot-up starts a node without downloads, and begins the downloads of another. -/
theorem heartbeat_boots {n : CanNode} (h0 : state = 0) (hn : canNode s c node = some n) (hfree : sdoBusy s c node = false) :
    Answers (.heartbeatReceived c node state) s (fun t =>
      if n.downloads = [] then (nodeSt t c node).phase = .started
      else (nodeSt t c node).phase = .config ∧ sdoBusy t c node = true) := by
  obtain ⟨x, hexec⟩ := heartbeat_bootUp hm hid hstate h0
  obtain ⟨hphase, hstep⟩ := nodeSt_bootBegun s c node x
  have hn' : canNode (bootBegun s c node x) c node = some n := hn
  refine .intro hexec ?_
  split
  case isTrue hnil => exact bootStep_done hn' (by simp [hnil])
  case isFalse hcons =>
    obtain ⟨d, l, hd⟩ := List.exists_cons_of_ne_nil hcons
    obtain ⟨hnode, hbusy⟩ := bootStep_download hn' (x := d) (by simp [hstep, hd]) (sdoBusy_bootBegun x hfree)
    exact ⟨(congrArg CanNodeSt.phase hnode).trans hphase, hbusy⟩

end

/-! ### An absent heartbeat or boot-up (R305; log entry 134) -/

section
variable {s : State} {c node : Nat} {n : CanNode}

theorem heartbeatTimeout_missing (hn : canNode s c node = some n) (hphase : (nodeSt s c node).phase = .operational)
    (hdue : (nodeSt s c node).heard + n.consumer * 1000000 ≤ s.clk) :
    exec (.heartbeatTimeout c node) s = .next (setNode s c node (fun n => { n with phase := .missing })) := by
  show execHeartbeatTimeout c node s = _
  simp [execHeartbeatTimeout, hn, hphase, hdue]

theorem heartbeatTimeout_early (hn : canNode s c node = some n)
    (hearly : s.clk < (nodeSt s c node).heard + n.consumer * 1000000) : exec (.heartbeatTimeout c node) s = .next s := by
  show execHeartbeatTimeout c node s = _
  simp [execHeartbeatTimeout, hn, Nat.not_le.mpr hearly]

theorem bootWaitExpiry_resets (hn : canNode s c node = some n) (hstarted : (canPort s c).started = true)
    (hphase : (nodeSt s c node).phase = .boot) (hdue : (nodeSt s c node).since + (canCfg s c).bootWait * 1000000 ≤ s.clk) :
    exec (.bootWaitExpiry c node) s = .next (rebootNode s c node) := by
  show execBootWaitExpiry c node s = _
  simp [execBootWaitExpiry, hn, hstarted, hphase, hdue]

theorem bootWaitExpiry_early (hearly : s.clk < (nodeSt s c node).since + (canCfg s c).bootWait * 1000000) :
    exec (.bootWaitExpiry c node) s = .next s := by
  show execBootWaitExpiry c node s = _
  simp [execBootWaitExpiry, Nat.not_le.mpr hearly]

theorem rebootNode_boots (s : State) (c node : Nat) : (nodeSt (rebootNode s c node) c node).phase = .boot ∧
    (nodeSt (rebootNode s c node) c node).since = s.clk ∧ (nodeSt (rebootNode s c node) c node).step = 0 := by
  simp [rebootNode]

theorem rebootNode_out (hstarted : (canPort s c).started = true) (henabled : (canCfg s c).enabled = true)
    (hon : (canPort s c).state ≠ 2) (hlock : portLocked s (8 + c) = false) : (rebootNode s c node).out =
      s.out ++ [.can c ⟨0, false, be 1 0x82 ++ be 1 node, false, false, false⟩] :=
  canSend_out henabled hstarted hon (.inl hlock) rfl

end

/-! ### SDO answers (R306; log entry 31) -/

section
variable {s : State} {c node : Nat} {x : Sdo}

theorem sdoResponse_answers {m : CanIn}
    (hm : (canPort s c).inbox.find? (fun y => y.ident == 0x580 + node && y.data == m.data) = some m)
    (hx : (canPort s c).sdos.find? (fun y => y.node == node) = some x) :
    exec (.sdoResponseReceived c node m.data) s = .next (sdoAnswer (frameTaken s c m) c x m.data) := by
  refine (congrArg Host.Outcome.next (takeCan_found _ hm)).trans ?_
  have hx' : (canPort (frameTaken s c m) c).sdos.find? (fun y => y.node == node) = some x := by
    simpa [frameTaken] using hx
  simp only [hx']

/-- An abort ends the transfer with its code. -/
theorem sdoAnswer_abort {d : Bytes} (hcs : field d 0 1 = 0x80) (hmux : bslice d 1 3 = sdoMux x) :
    sdoAnswer s c x d = endSdo s c x (.error (beNat (bslice d 4 4).reverse)) := by
  simp [sdoAnswer, hcs, hmux]

/-- A confirmed expedited download is complete. -/
theorem sdoAnswer_written {d : Bytes} (hwrite : x.write = true) (hexp : x.segmented = false) (hcs : field d 0 1 = 0x60)
    (hmux : bslice d 1 3 = sdoMux x) : sdoAnswer s c x d = endSdo s c x (.ok []) := by
  simp [sdoAnswer, hcs, hmux, hwrite, hexp]

/-- An expedited answer of four bytes is the value. -/
theorem sdoAnswer_read {d : Bytes} (hread : x.write = false) (hexp : x.segmented = false) (hcs : field d 0 1 = 0x43)
    (hmux : bslice d 1 3 = sdoMux x) : sdoAnswer s c x d = endSdo s c x (.ok (bslice d 4 4)) := by
  have hcommand : bitOf 0x43 1 = true ∧ bitOf 0x43 0 = true ∧ bits 0x43 3 2 = 0 := by decide
  have hwhole : (bslice d 4 4).take 4 = bslice d 4 4 := by simp [bslice, List.take_take]
  simp [sdoAnswer, hcs, hmux, hread, hexp, hcommand, hwhole]

theorem sdoTimeout_row (hx : (canPort s c).sdos.find? (fun y => y.node == node) = some x) :
    exec (.sdoTimeout c node) s = .next (if x.until_ ≤ s.clk then endSdo s c x .timeout else s) := by
  show execSdoTimeout c node s = _
  simp only [execSdoTimeout, hx]

end

/-! ### SYNC, the own heartbeat and bus-off (R302, R303; log entries 32 and 37) -/

/-- The number of the next SYNC (R303). -/
def syncNumber (s : State) (c : Nat) : Nat := (canPort s c).syncCount % max 1 (canCfg s c).syncOverflow + 1

/-- The SYNC frame, with its number where the numbers overflow. -/
def syncFrame (s : State) (c : Nat) : CanOut :=
  ⟨(canCfg s c).syncCob, false, if (canCfg s c).syncOverflow = 0 then [] else be 1 (syncNumber s c), false, true, false⟩

section
variable {s : State} {c : Nat} (henabled : (canCfg s c).enabled = true) (hstarted : (canPort s c).started = true)
  (hon : (canPort s c).state ≠ 2)

theorem syncProduce_due (hsync : (canCfg s c).sync = true) (hrun : s.cyc.running = true)
    (hcycle : gridN s % (canCfg s c).syncPeriod = 0) (hnew : (canPort s c).syncAt ≠ some (gridN s))
    (hdue : gridTs s + (canCfg s c).syncOffset * 1000 ≤ s.time.now) : exec (.syncProduce c) s = .next (canSend
      (setCan s c (fun p => { p with syncAt := some (gridN s), syncCount := syncNumber s c })) c (syncFrame s c)) := by
  show execSyncProduce c s = _
  simp [execSyncProduce, hsync, hrun, hcycle, hnew, Int.not_lt.mpr hdue, syncNumber, syncFrame]

theorem heartbeatProduce_due (hown : (canCfg s c).ownNode ≠ 0)
    (hdue : (canPort s c).beatAt + (canCfg s c).heartbeat * 1000000 ≤ s.clk) : exec (.heartbeatProduce c) s = .next (canSend
      (setCan s c (fun p => { p with beatAt := s.clk })) c ⟨0x700 + (canCfg s c).ownNode, false, be 1 5, false, true, false⟩) := by
  show execHeartbeatProduce c s = _
  simp [execHeartbeatProduce, hown, Nat.not_lt.mpr hdue]

include henabled hstarted hon

/-- A frame that a lock lets pass, sent by a row that leaves its port on the bus, leaves at once. -/
theorem canSend_exempt_out (f : CanPort → CanPort) {m : CanOut} (hf : (f (canPort s c)).started = (canPort s c).started ∧
    (f (canPort s c)).state = (canPort s c).state) (hexempt : m.exempt = true) (hgroup : m.grouped = false) :
    (canSend (setCan s c f) c m).out = s.out ++ [.can c m] := by
  obtain ⟨hf1, hf2⟩ := hf
  exact canSend_out henabled (by rw [canPort_setCan, hf1, hstarted]) (by rw [canPort_setCan, hf2]; exact hon)
    (.inr hexempt) hgroup

theorem syncProduce_row (hsync : (canCfg s c).sync = true) (hrun : s.cyc.running = true)
    (hcycle : gridN s % (canCfg s c).syncPeriod = 0) (hnew : (canPort s c).syncAt ≠ some (gridN s))
    (hdue : gridTs s + (canCfg s c).syncOffset * 1000 ≤ s.time.now) :
    Answers (.syncProduce c) s (fun t => (canPort t c).syncAt = some (gridN s) ∧
      ((canCfg s c).syncOverflow = 0 → t.out = s.out ++ [.can c ⟨(canCfg s c).syncCob, false, [], false, true, false⟩]) ∧
      (2 ≤ (canCfg s c).syncOverflow → t.out = s.out ++ [.can c ⟨(canCfg s c).syncCob, false,
        be 1 ((canPort s c).syncCount % (canCfg s c).syncOverflow + 1), false, true, false⟩])) := by
  have hout := canSend_exempt_out henabled hstarted hon
    (fun p => { p with syncAt := some (gridN s), syncCount := syncNumber s c }) (m := syncFrame s c) ⟨rfl, rfl⟩ rfl rfl
  refine .intro (syncProduce_due hsync hrun hcycle hnew hdue) ⟨?_, fun h0 => ?_, fun h2 => ?_⟩
  · obtain ⟨x, q, hport⟩ := canPort_canSend
      (setCan s c (fun p => { p with syncAt := some (gridN s), syncCount := syncNumber s c })) c (syncFrame s c)
    exact (congrArg CanPort.syncAt hport).trans (by simp)
  · rw [hout, syncFrame, if_pos h0]
  · rw [hout, syncFrame, if_neg (by omega), syncNumber, Nat.max_eq_right (by omega)]

theorem heartbeatProduce_row (hown : (canCfg s c).ownNode ≠ 0)
    (hdue : (canPort s c).beatAt + (canCfg s c).heartbeat * 1000000 ≤ s.clk) :
    Answers (.heartbeatProduce c) s (fun t => (canPort t c).beatAt = s.clk ∧
      t.out = s.out ++ [.can c ⟨0x700 + (canCfg s c).ownNode, false, be 1 5, false, true, false⟩]) := by
  refine .intro (heartbeatProduce_due hown hdue) ⟨?_, canSend_exempt_out henabled hstarted hon _ ⟨rfl, rfl⟩ rfl rfl⟩
  obtain ⟨x, q, hport⟩ := canPort_canSend (setCan s c (fun p => { p with beatAt := s.clk })) c
    ⟨0x700 + (canCfg s c).ownNode, false, be 1 5, false, true, false⟩
  exact (congrArg CanPort.beatAt hport).trans (by simp)

end

theorem canBusOff_row {s : State} {c : Nat} (hstarted : (canPort s c).started = true) (hon : (canPort s c).state ≠ 2) :
    Answers (.canBusOff c) s (fun t => (canPort t c).state = 2 ∧
    (canPort t c).busOff = min 255 ((canPort s c).busOff + 1) ∧ (canPort t c).queue = (canPort s c).queue ∧
    t.recorder = (report s 0x0703 13 c []).recorder) := by
  have hexec : exec (.canBusOff c) s = .next (setCan (tookFree (report s 0x0703 13 c []) 1) c (fun p => { p with
      state := 2, busOff := min 255 (p.busOff + 1), tec := (Config.freeValue s.freeCount).toNat % 256
      port := p.port.setUp false })) := by
    show execCanBusOff c s = _
    simp [execCanBusOff, hstarted, hon]
  have hport : canPort (tookFree (report s 0x0703 13 c []) 1) c = canPort s c := rfl
  refine .intro hexec ⟨?_, ?_, ?_, rfl⟩ <;> rw [canPort_setCan, hport]

/-- Of its port, a flush changes the queue at most. -/
theorem canPort_flushCan (s : State) (c : Nat) : ∃ q, canPort (flushCan s c) c = { canPort s c with queue := q } := by
  unfold flushCan
  dsimp only
  split
  · exact ⟨_, rfl⟩
  · exact ⟨_, (canPort_emit ..).trans (canPort_setCan ..)⟩

/-- On an unlocked port all that waited leaves, but for frames of a locked group. -/
theorem flushCan_unlocked {s : State} {c : Nat} (hon : (canPort s c).state ≠ 2) (hlock : portLocked s (8 + c) = false) :
    flushCan s c = emit (setCan s c (fun p => { p with queue := p.queue.filter (·.grouped) }))
      (((canPort s c).queue.filter (fun m => !m.grouped)).map (Out.can c)) := by
  simp [flushCan, hon, hlock]

section
variable {s : State} {c : Nat}

/-- The port as its controller is error-active again. -/
def busRecovered (s : State) (c : Nat) : State :=
  setCan s c (fun p => { p with state := 0, tec := 0, rec_ := 0, recoveredAt := some s.clk, port := p.port.setUp true })

theorem busOffRecovery_due (hoff : (canPort s c).state = 2)
    (hdue : ∀ k, (canPort s c).recoveredAt = some k → k + 100000000 ≤ s.clk) :
    exec (.busOffRecovery c) s = .next (flushCan (busRecovered s c) c) := by
  show execBusOffRecovery c s = _
  cases hat : (canPort s c).recoveredAt with
  | none => simp [execBusOffRecovery, hoff, hat, busRecovered]
  | some k => simp [execBusOffRecovery, hoff, hat, hdue k hat, busRecovered]

theorem busOffRecovery_early {k : Nat} (hat : (canPort s c).recoveredAt = some k) (hearly : s.clk < k + 100000000) :
    exec (.busOffRecovery c) s = .next s := by
  show execBusOffRecovery c s = _
  simp [execBusOffRecovery, hat, Nat.not_le.mpr hearly]

theorem busOffRecovery_row (hoff : (canPort s c).state = 2)
    (hdue : ∀ k, (canPort s c).recoveredAt = some k → k + 100000000 ≤ s.clk) : Answers (.busOffRecovery c) s (fun t =>
      (canPort t c).state = 0 ∧ (canPort t c).tec = 0 ∧ (canPort t c).rec_ = 0 ∧ (canPort t c).recoveredAt = some s.clk ∧
      (portLocked s (8 + c) = false → (canPort t c).queue = (canPort s c).queue.filter (·.grouped) ∧
        t.out = s.out ++ ((canPort s c).queue.filter (fun m => !m.grouped)).map (Out.can c))) := by
  have hport : canPort (busRecovered s c) c = { canPort s c with
      state := 0, tec := 0, rec_ := 0, recoveredAt := some s.clk, port := (canPort s c).port.setUp true } := canPort_setCan ..
  obtain ⟨q, hflush⟩ := canPort_flushCan (busRecovered s c) c
  rw [hport] at hflush
  refine .intro (busOffRecovery_due hoff hdue) ⟨congrArg CanPort.state hflush, congrArg CanPort.tec hflush,
    congrArg CanPort.rec_ hflush, congrArg CanPort.recoveredAt hflush, fun hlock => ?_⟩
  rw [flushCan_unlocked (s := busRecovered s c) (by simp [hport]) hlock, hport]
  exact ⟨by simp [hport], rfl⟩

end

/-- Settles O37: each row of a CAN port or node, from the lemma above that bears its name. -/
theorem canBusesRun : Obligations.CanBusesRun := by
  unfold Obligations.CanBusesRun
  refine ⟨?_, ?_, ?_, ?_, ?_, ?_, ?_, ?_, ?_, ?_⟩
  case refine_1 => exact fun s c henabled hstopped => canPortStart_row henabled hstopped
  case refine_2 =>
    intro s c m henabled hstarted hon
    refine ⟨fun herror => .intro (canFrame_error henabled hstarted hon herror) (by simp),
      fun hvalid hlong => .intro (canFrame_long henabled hstarted hon hvalid hlong) (by simp),
      fun hvalid hlen hpdo => .intro (canFrame_kept henabled hstarted hon hvalid hlen (canKept_pdo hpdo)) (by simp),
      fun hvalid hlen hpdo hnode hsdo hroute => .intro (canFrame_unknown henabled hstarted hon hvalid hlen
        (canKept_stranger hpdo hnode hsdo hroute) hroute) (by simp)⟩
  case refine_3 => exact fun s c cob x m hm hcob hx => pdoReceived_row hm hcob hx
  case refine_4 =>
    exact fun s c node state m hm hid hstate => ⟨heartbeat_operational hm hid hstate, heartbeat_other hm hid hstate,
      fun n => heartbeat_boots hm hid hstate⟩
  case refine_5 =>
    intro s c node n hn
    refine ⟨fun hphase hdue => .intro (heartbeatTimeout_missing hn hphase hdue) (nodeSt_setNode ..),
      heartbeatTimeout_early hn, fun hstarted hphase hdue => ?_, bootWaitExpiry_early⟩
    obtain ⟨hboot, hsince, hstep⟩ := rebootNode_boots s c node
    exact .intro (bootWaitExpiry_resets hn hstarted hphase hdue) ⟨hboot, hsince, hstep,
      fun henabled hon hlock => rebootNode_out hstarted henabled hon hlock⟩
  case refine_6 =>
    intro s c node x m hm hx u hu
    have hanswer := sdoResponse_answers hm hx
    rw [← show u = frameTaken s c m from hu] at hanswer
    refine ⟨fun hcs hmux => ?_, fun hwrite hexp hcs hmux => ?_, fun hread hexp hcs hmux => ?_⟩
    · rw [hanswer, sdoAnswer_abort hcs hmux]
    · rw [hanswer, sdoAnswer_written hwrite hexp hcs hmux]
    · rw [hanswer, sdoAnswer_read hread hexp hcs hmux]
  case refine_7 => exact fun s c node x hx => sdoTimeout_row hx
  case refine_8 => exact fun s c node m hm => congrArg Host.Outcome.next (takeCan_found _ hm)
  case refine_9 =>
    exact fun s c henabled hstarted hon => ⟨syncProduce_row henabled hstarted hon,
      heartbeatProduce_row henabled hstarted hon, canBusOff_row hstarted hon⟩
  case refine_10 =>
    exact fun s c hoff => ⟨busOffRecovery_row hoff, fun k hat hearly => busOffRecovery_early hat hearly⟩

end Sys2Proof.Proofs
end

section
/-! SUPPORT. What the end of an access at the far side leaves unchanged: the serial ports (R234 to R247, R300). -/

namespace Sys2Proof.Proofs

open Sys2Proof Sys2Proof.Machine

theorem serial_of_fld {s t : State} (h : t.part .fld = s.part .fld) : t.fld.serial = s.fld.serial :=
  congrArg FieldSt.serial h

theorem sport_congr {s t : State} (h : t.fld.serial = s.fld.serial) (p : Nat) : sport t p = sport s p := by
  rw [sport, h, sport]

theorem canSend_serial (s : State) (c : Nat) (m : CanOut) : (canSend s c m).fld.serial = s.fld.serial := by
  unfold canSend
  dsimp only
  split
  · rfl
  · split
    · split
      · rfl
      · split <;> rfl
    · rfl

theorem flushCan_serial (s : State) (c : Nat) : (flushCan s c).fld.serial = s.fld.serial := by
  unfold flushCan
  dsimp only
  split <;> rfl

theorem flushCans_serial (s : State) : (flushCans s).fld.serial = s.fld.serial := by
  simp only [flushCans, List.foldl_cons, List.foldl_nil, flushCan_serial]

theorem startUnit_serial (s : State) (x : FarTxn) : (startUnit s x).fld.serial = s.fld.serial := by
  unfold startUnit
  split
  · have hmr : (sendMr s x).1.fld.serial = s.fld.serial := serial_of_fld (sendMr_only s x .fld (by decide))
    dsimp only
    split <;> exact hmr
  · split
    · dsimp only
      split
      · rfl
      · exact canSend_serial ..
    · rfl

theorem releaseFor_serial (s : State) (x : FarTxn) : (releaseFor s x).fld.serial = s.fld.serial := by
  have hgrant (t : State) : (if x.semHeld = true then
      match semOf t (rGroup x.entry) with
      | some m => if m.leaseEnd = 0 ∧ m.holder = x.replyTo then grantWaiter (freeSem t m.sem) m.sem else t
      | none => t
    else t).fld.serial = t.fld.serial := by
    split
    · split
      · split
        · exact serial_of_fld (grantWaiter_only _ _ .fld (by decide))
        · rfl
      · rfl
    · rfl
  unfold releaseFor
  refine (hgrant _).trans ?_
  split
  · rfl
  · exact flushCans_serial _

theorem endLocked_serial (s : State) (q : LockedSeq) (status detail : Nat) :
    (endLocked s q status detail).fld.serial = s.fld.serial := by
  unfold endLocked
  rw [serial_of_fld (holdResult_only _ _ _ _ _ .fld (by decide)), flushCans_serial]

/-- A start of a key's head keeps the serial ports if what ends it does. -/
theorem pumpWith_serial {fin : State → FarTxn → Nat → Nat → Nat → Val → State}
    (hfin : ∀ s x a b c v, (fin s x a b c v).fld.serial = s.fld.serial) (s : State) (key : FarKey) :
    (pumpWith fin s key).fld.serial = s.fld.serial := by
  have hstart (u : State) (y : FarTxn) :
      (startUnit (convertWrite u y).1 (convertWrite u y).2).fld.serial = u.fld.serial :=
    (startUnit_serial _ _).trans (serial_of_fld (convertWrite_only u y .fld (by decide)))
  unfold pumpWith
  split
  case h_1 => rfl
  case h_2 y _ =>
    split
    case isTrue => rfl
    case isFalse =>
      split
      case isTrue => split <;> exact hfin ..
      case isFalse =>
        split
        case isTrue => exact hfin ..
        case isFalse =>
          split
          case isTrue => exact hfin ..
          case isFalse =>
            split
            case isTrue => exact serial_of_fld (waitLock_only s y .fld (by decide))
            case isFalse =>
              split
              case isTrue => rfl
              case isFalse =>
                refine (hstart _ _).trans ?_
                split <;> rfl

theorem finish_serial (k : Nat) (s : State) (x : FarTxn) (status failedUnit detail : Nat) (value : Val) :
    (finish k s x status failedUnit detail value).fld.serial = s.fld.serial := by
  induction k generalizing s x status failedUnit detail value with
  | zero => rfl
  | succ k ih =>
    have hpump := pumpWith_serial ih
    have hleft : (releaseFor (dropTxn (if x.write.isSome then dropAhead s x.key else s) x) x).fld.serial = s.fld.serial := by
      rw [releaseFor_serial]
      split <;> rfl
    unfold finish
    dsimp only
    split
    case isTrue =>
      split
      case h_1 => exact (hpump ..).trans hleft
      case h_2 =>
        split
        case isTrue => exact (hpump ..).trans ((endLocked_serial ..).trans hleft)
        case isFalse =>
          split
          case h_1 => exact (hpump ..).trans ((endLocked_serial ..).trans hleft)
          case h_2 => exact (hpump ..).trans ((hpump ..).trans hleft)
    case isFalse => exact (hpump ..).trans ((serial_of_fld (answerTxn_only _ _ _ _ _ _ .fld (by decide))).trans hleft)

theorem finishTxn_serial (s : State) (x : FarTxn) (status failedUnit detail : Nat) (value : Val) :
    (finishTxn s x status failedUnit detail value).fld.serial = s.fld.serial := finish_serial ..

theorem failAccesses_serial (sel : FarTxn → Bool) (detail k : Nat) (s : State) :
    (failAccesses sel detail k s).fld.serial = s.fld.serial := by
  induction k generalizing s with
  | zero => rfl
  | succ k ih =>
    unfold failAccesses
    split
    · rfl
    · exact (ih _).trans (finishTxn_serial ..)

/-- An access unit that ends without data keeps the serial ports. -/
theorem completeUnit_serial (s : State) (key : FarKey) {a : FarAnswer} (ha : ∀ b, a ≠ .ok b) :
    (completeUnit s key a).fld.serial = s.fld.serial := by
  unfold completeUnit
  split
  case h_1 => rfl
  case h_2 =>
    split
    case isTrue => rfl
    case isFalse =>
      cases a with
      | ok b => exact absurd rfl (ha b)
      | error d => exact finishTxn_serial ..
      | timeout => exact finishTxn_serial ..

theorem failSerial_serial (s : State) (t : SerialTxn) (status detail : Nat) :
    (failSerial s t status detail).fld.serial = s.fld.serial := by
  unfold failSerial
  split
  case h_1 =>
    exact serial_of_fld (foldl_part _ .fld _ _ fun u r => markFailed_only u _ _ _ _ _ _ .fld (by decide))
  case h_2 => rfl
  case h_3 =>
    split
    case isTrue => rfl
    case isFalse => exact completeUnit_serial _ _ (by split <;> simp)

theorem foldl_failSerial_serial (l : List SerialTxn) (status detail : Nat) (s : State) :
    (l.foldl (fun s t => failSerial s t status detail) s).fld.serial = s.fld.serial := by
  induction l generalizing s with
  | nil => rfl
  | cons t l ih => exact (ih _).trans (failSerial_serial ..)

/-- A port whose accesses all fail keeps the number of its latest cycle. -/
theorem lastCycle_failPort (s : State) (p detail : Nat) : (sport (failPort s p detail) p).lastCycle = (sport s p).lastCycle := by
  unfold failPort
  dsimp only
  rw [sport_setSport]
  refine (congrArg SPort.lastCycle (sport_congr ((failAccesses_serial ..).trans (foldl_failSerial_serial ..)) p)).trans ?_
  rw [sport_setSport]
  rfl

theorem lastCycle_closeCycle (s : State) (p : Nat) : (sport (closeCycle s p) p).lastCycle = (sport s p).lastCycle := by
  refine (apply_ite (fun t => (sport t p).lastCycle) _ _ _).trans ?_
  rw [sport_setSport]
  exact ite_self _

end Sys2Proof.Proofs
end

section
/-! Floats and generic serial ports (R290, R299, R311, R314 to R318, R322, R324), and the statements O40 and O59. -/

namespace Sys2Proof.Proofs

open Sys2Proof Sys2Proof.Machine

@[simp] theorem floatOf_setSport (s : State) (p : Nat) (f : SPort → SPort) (k : Nat) :
    floatOf (setSport s p f) k = floatOf s k := rfl

@[simp] theorem sport_setFloat (s : State) (k : Nat) (f : FloatSt) (p : Nat) : sport (setFloat s k f) p = sport s p := rfl

/-! ### Restarts (R311, R322) -/

section
variable {s : State} {k e : Nat} {x : Program} (hstop : (floatOf s k).stoppedAt = some e) (hprog : (floatOf s k).prog = some x)
include hstop hprog

theorem floatRestart_due (hdue : e + 1000000000 ≤ s.clk) (hfaults : (floatOf s k).faults.length < 3) :
    exec (.floatRestart k) s = .next (setSport (setFloat s k (startProgram (floatOf s k) x x.entry)) (k - 5)
      (fun q => { q with port := q.port.setUp true })) := by
  show execFloatRestart k s = _
  simp only [execFloatRestart, hstop, hprog, hdue, hfaults, and_self, if_true]

theorem floatRestart_stays (h : s.clk < e + 1000000000 ∨ 3 ≤ (floatOf s k).faults.length) :
    exec (.floatRestart k) s = .next s := by
  show execFloatRestart k s = _
  simp only [execFloatRestart, hstop, hprog]
  rw [if_neg (by omega)]

end

/-! ### The timer, train time and line silence (R314, R316, R317) -/

section
variable {s : State} {k : Nat}

theorem floatTimerExpiry_due {e : Nat} (htimer : (floatOf s k).timer = some e) (hdue : e ≤ s.clk)
    (hrun : (floatOf s k).running = true) : exec (.floatTimerExpiry k) s =
      .next (setFloat s k (latchBit { floatOf s k with timer := none } 0)) := by
  show execFloatTimerExpiry k s = _
  simp only [execFloatTimerExpiry, htimer, hdue, hrun, and_self, if_true]

theorem trainTimeTarget_due {e : Int} (htta : (floatOf s k).tta = some e) (hdue : e ≤ s.time.now)
    (hrun : (floatOf s k).running = true) : exec (.trainTimeTargetReached k) s =
      .next (setFloat s k (latchBit { floatOf s k with tta := none } 5)) := by
  show execTrainTimeTargetReached k s = _
  simp only [execTrainTimeTargetReached, htta, hdue, hrun, and_self, if_true]

theorem trainTimeTarget_early {e : Int} (htta : (floatOf s k).tta = some e) (hearly : s.time.now < e) :
    exec (.trainTimeTargetReached k) s = .next s := by
  show execTrainTimeTargetReached k s = _
  simp only [execTrainTimeTargetReached, htta, Int.not_le.mpr hearly, false_and, if_false]

end

section
variable {s : State} {p e : Nat} (hbyte : (floatOf s (portFloat p)).byteAt = some e)
include hbyte

theorem lineSilence_due (hrun : (floatOf s (portFloat p)).running = true)
    (hdue : e + (floatOf s (portFloat p)).silence * (sportCfg s p).bitNs ≤ s.clk) : exec (.lineSilence p) s =
      .next (setSport (setFloat s (portFloat p) (latchBit { floatOf s (portFloat p) with byteAt := none } 1)) p
        (fun q => { q with frameBytes := 0 })) := by
  show execLineSilence p s = _
  simp only [execLineSilence, hbyte, hdue, hrun, and_self, if_true]

theorem lineSilence_early (hearly : s.clk < e + (floatOf s (portFloat p)).silence * (sportCfg s p).bitNs) :
    exec (.lineSilence p) s = .next s := by
  show execLineSilence p s = _
  simp only [execLineSilence, hbyte, Nat.not_le.mpr hearly, false_and, if_false]

end

/-! ### Received bytes and the transmit FIFO (R290, R317) -/

/-- A received byte in the FIFO, with its marks (R317). -/
def receivedByte (s : State) (p : Nat) (b : Byte) (pe fe : Bool) : Nat :=
  (onLine (sportCfg s p) b).toNat + 256 + 512 * b2n pe + 1024 * b2n fe + 2048 * b2n (floatOf s (portFloat p)).overrun

/-- The port's float with a received byte, in its FIFO or lost. -/
def byteReceived (s : State) (p v : Nat) : FloatSt :=
  let f := floatOf s (portFloat p)
  if 64 ≤ f.rx.length then { f with overrun := true, byteAt := some s.clk }
  else floatReturn { f with rx := f.rx ++ [v], overrun := false, byteAt := some s.clk }

theorem byteReceived_full {s : State} {p v : Nat} (h : 64 ≤ (floatOf s (portFloat p)).rx.length) :
    byteReceived s p v = { floatOf s (portFloat p) with overrun := true, byteAt := some s.clk } := if_pos h

/-- A float that does not wait keeps all else as a byte enters its FIFO. -/
theorem byteReceived_room {s : State} {p v : Nat} (hwait : (floatOf s (portFloat p)).waiting = none)
    (h : (floatOf s (portFloat p)).rx.length < 64) : byteReceived s p v = { floatOf s (portFloat p) with
      rx := (floatOf s (portFloat p)).rx ++ [v], overrun := false, byteAt := some s.clk } :=
  (if_neg (Nat.not_le.mpr h)).trans (floatReturn_running hwait)

theorem byteReceived_byteAt (s : State) (p v : Nat) : (byteReceived s p v).byteAt = some s.clk := by
  unfold byteReceived
  dsimp only
  split
  · rfl
  · obtain ⟨rs, e, x, y, w, n, he⟩ := floatReturn_fields { floatOf s (portFloat p) with
      rx := (floatOf s (portFloat p)).rx ++ [v], overrun := false, byteAt := some s.clk }
    rw [he]

theorem serialByteReceived_takes {s : State} {p : Nat} (b : Byte) (pe fe : Bool) (hmode : (sportCfg s p).mode = 3) :
    ∃ x, exec (.serialByteReceived p b pe fe) s = .next (setSport
      (setFloat s (portFloat p) (byteReceived s p (receivedByte s p b pe fe))) p
      (fun q => { q with port := x, late := false, frameBytes := q.frameBytes + 1 })) :=
  ⟨_, congrArg Host.Outcome.next (if_neg (by simp [hmode]))⟩

theorem transmitDrained_due {s : State} {p : Nat} (htx : (floatOf s (portFloat p)).tx ≠ [])
    (hdue : (floatOf s (portFloat p)).txAt +
      (floatOf s (portFloat p)).tx.length * ((sportCfg s p).bitNs * (sportCfg s p).charBits) ≤ s.clk) :
    exec (.transmitDrained p) s = .next (setSport
      (setFloat s (portFloat p) (floatReturn { floatOf s (portFloat p) with tx := [] })) p (fun q => { q with sentBytes := 0 })) :=
  congrArg Host.Outcome.next (if_pos ⟨htx, hdue⟩)

theorem transmitDrained_row {s : State} {p : Nat} (htx : (floatOf s (portFloat p)).tx ≠ [])
    (hdue : (floatOf s (portFloat p)).txAt +
      (floatOf s (portFloat p)).tx.length * ((sportCfg s p).bitNs * (sportCfg s p).charBits) ≤ s.clk) :
    Answers (.transmitDrained p) s (fun t => (floatOf t (portFloat p)).tx = [] ∧ (sport t p).sentBytes = 0) := by
  obtain ⟨rs, e, x, y, w, n, he⟩ := floatReturn_fields { floatOf s (portFloat p) with tx := [] }
  refine .intro (transmitDrained_due htx hdue) ⟨?_, by simp⟩
  rw [floatOf_setSport, floatOf_setFloat, he]

/-! ### Programs (R324) -/

section
variable {s : State} {p : Nat} {x : Program}

/-- The loaded program of a port in force. -/
def programTaken (s : State) (p : Nat) (x : Program) : State :=
  setSport (setFloat s (portFloat p)
    (startProgram { floatOf s (portFloat p) with staged := none, faults := [] } x x.entry)) p
    (fun q => { q with port := q.port.setUp true })

theorem takeSerial_takes (hx : (floatOf s (portFloat p)).staged = some x) (hfree : (sport s p).held = none) :
    takeSerial s p = progLog (programTaken s p x) 13 x := by
  simp only [takeSerial, hx, hfree, Option.isSome_none, Bool.false_eq_true, if_false]
  rfl

theorem takeSerial_held (hheld : (sport s p).held.isSome = true) : takeSerial s p = s := by
  unfold takeSerial
  dsimp only
  split
  · rfl
  · exact if_pos hheld

theorem takeSerial_unloaded (h : (floatOf s (portFloat p)).staged = none) : takeSerial s p = s := by
  simp only [takeSerial, h]

theorem programTakeForce_serial (hp : p < 16) :
    exec (.programTakeForce p) s = .next (if busStart s p then takeSerial s p else s) :=
  congrArg Host.Outcome.next (if_pos hp)

theorem programTakeForce_row (hp : p < 16) (hx : (floatOf s (portFloat p)).staged = some x) (hstart : busStart s p = true)
    (hfree : (sport s p).held = none) : Answers (.programTakeForce p) s (fun t =>
      (floatOf t (portFloat p)).prog = some x ∧
      (floatOf t (portFloat p)).running = true ∧ (floatOf t (portFloat p)).pc = x.entry ∧ (floatOf t (portFloat p)).staged = none ∧
      (floatOf t (portFloat p)).faults = [] ∧ t.recorder = (report s 0x0704 13 x.version (be 4 x.id)).recorder) := by
  have hexec := programTakeForce_serial (s := s) hp
  rw [if_pos hstart, takeSerial_takes hx hfree] at hexec
  have hfloat : floatOf (progLog (programTaken s p x) 13 x) (portFloat p) =
      startProgram { floatOf s (portFloat p) with staged := none, faults := [] } x x.entry := floatOf_setFloat ..
  refine .intro hexec ?_
  rw [hfloat]
  exact ⟨rfl, rfl, rfl, rfl, rfl, rfl⟩

theorem programTakeForce_waits (hp : p < 16) (h : busStart s p = false ∨ (sport s p).held.isSome = true) :
    exec (.programTakeForce p) s = .next s := by
  rw [programTakeForce_serial hp]
  split
  case isTrue hstart => rw [takeSerial_held (h.resolve_left (by simp [hstart]))]
  case isFalse => rfl

/-- A loaded profile serves the next activations. -/
theorem programTakeForce_profile {k : Nat} (hx : Tab.get? s.fld.stagedProfiles k = some x) :
    Answers (.programTakeForce (16 + k)) s (fun t => Tab.get? t.fld.profiles k = some x ∧
      t.recorder = (report s 0x0704 12 x.version (be 4 x.id)).recorder) := by
  have hexec : exec (.programTakeForce (16 + k)) s = .next (progLog { s with fld := { s.fld with
      profiles := Tab.set s.fld.profiles k x, stagedProfiles := Tab.erase s.fld.stagedProfiles k } } 12 x) := by
    show execProgramTakeForce (16 + k) s = _
    rw [execProgramTakeForce, if_neg (by omega), Nat.add_sub_cancel_left, hx]
  exact .intro hexec ⟨tab_get?_set_self .., rfl⟩

end

/-! ### Bus cycles (R299) -/

/-- The bus cycle of skim `n`, with its transactions behind the on-demand ones that wait. -/
def cycleBegun (s : State) (p n : Nat) (outs : List StagedOut) : State :=
  setSport s p (fun q => { q with
    cycleOf := some n, lastCycle := some n, freshNow := []
    work := q.work.filter (fun t => t.kind == 2) ++ (outWork s p outs ++ inWork s p) })

/-- A transaction of a bus cycle is not an on-demand one. -/
theorem kind_of_cycleWork {s : State} {p : Nat} {outs : List StagedOut} {t : SerialTxn}
    (h : t ∈ outWork s p outs ++ inWork s p) : t.kind ≠ 2 := by
  rcases List.mem_append.mp h with hout | hin
  · obtain ⟨⟨k, l⟩, -, ht⟩ := List.mem_filterMap.mp hout
    dsimp only at ht
    split at ht
    · exact absurd ht (by simp)
    · obtain rfl := Option.some.inj ht
      exact Nat.zero_ne_add_one 1
  · unfold inWork at hin
    split at hin
    · exact absurd hin (List.not_mem_nil)
    · obtain ⟨⟨k, l⟩, -, rfl⟩ := List.mem_map.mp hin
      exact Nat.succ_ne_succ_iff.mpr (Nat.zero_ne_add_one 0)

/-- A bus cycle with a transaction left goes on. -/
theorem closeCycle_busy {s : State} {p : Nat} (h : (sport s p).work.any (fun t => t.kind != 2) = true) : closeCycle s p = s := by
  simp only [closeCycle, h, Bool.true_or, Bool.or_true, if_true]

section
variable {s : State} {p n : Nat} {outs : List StagedOut} (happlied : s.skim.applied = some (n, outs))
  (hmode : (sportCfg s p).mode = 3) (hlive : s.pair.repeatOff = false) (hdue : n % (sportCfg s p).period = (sportCfg s p).phase)
  (hnew : (sport s p).lastCycle ≠ some n)
include happlied hmode hlive hdue hnew

theorem serialBusCycle_overruns {m : Nat} (hcycle : (sport s p).cycleOf = some m) : exec (.serialBusCycleStart p) s = .next
    (setSport (reportIf (decide ((sport s p).overrun ≠ some (topoInForce s))) s 0x0701 13 p []) p
      (fun q => { q with overrun := some (topoInForce s), lastCycle := some n })) := by
  show execSerialBusCycleStart p s = _
  simp [execSerialBusCycleStart, happlied, hmode, hlive, hdue, hnew, hcycle]

theorem serialBusCycle_begins (hcycle : (sport s p).cycleOf = none) : exec (.serialBusCycleStart p) s = .next
    (if serialReady (takeSerial s p) p then closeCycle (cycleBegun (takeSerial s p) p n outs) p
      else failPort (cycleBegun (takeSerial s p) p n outs) p (2 * 2 ^ 24 + (sportCfg s p).mode)) := by
  show execSerialBusCycleStart p s = _
  simp [execSerialBusCycleStart, happlied, hmode, hlive, hdue, hnew, hcycle, cycleBegun]

/-- A start while a bus cycle runs is skipped, and reported once per topology counter. -/
theorem serialBusCycle_overrunRow {m : Nat} (hcycle : (sport s p).cycleOf = some m) :
    Answers (.serialBusCycleStart p) s (fun t =>
      (sport t p).overrun = some (topoInForce s) ∧ (sport t p).cycleOf = some m ∧ (sport t p).work = (sport s p).work ∧
      ((sport s p).overrun ≠ some (topoInForce s) → t.recorder = (report s 0x0701 13 p []).recorder) ∧
      ((sport s p).overrun = some (topoInForce s) → t.recorder = s.recorder)) := by
  have hport (c : Bool) (m : Int) : sport (reportIf c s 0x0701 13 m []) p = sport s p := rfl
  refine .intro (serialBusCycle_overruns happlied hmode hlive hdue hnew hcycle) ⟨?_, ?_, ?_, fun hother => ?_, fun hsame => ?_⟩
  · rw [sport_setSport]
  · rw [sport_setSport, hport, hcycle]
  · rw [sport_setSport, hport]
  · rw [decide_eq_true hother]
    rfl
  · rw [decide_eq_false (fun hother => hother hsame)]
    simp [setSport, reportIf, reportAll]

/-- A due bus cycle with transactions begins with them. -/
theorem serialBusCycle_beginRow (hcycle : (sport s p).cycleOf = none) (hstaged : (floatOf s (portFloat p)).staged = none)
    (hready : serialReady s p = true) (hwork : outWork s p outs ++ inWork s p ≠ []) :
    Answers (.serialBusCycleStart p) s (fun t => (sport t p).cycleOf = some n ∧
      (sport t p).work = (sport s p).work.filter (fun x => x.kind == 2) ++ (outWork s p outs ++ inWork s p)) := by
  have hport : sport (cycleBegun s p n outs) p = { sport s p with
      cycleOf := some n, lastCycle := some n, freshNow := []
      work := (sport s p).work.filter (fun t => t.kind == 2) ++ (outWork s p outs ++ inWork s p) } := sport_setSport ..
  obtain ⟨t, ht⟩ := List.exists_mem_of_ne_nil _ hwork
  have hbusy : (sport (cycleBegun s p n outs) p).work.any (fun t => t.kind != 2) = true := by
    rw [hport]
    exact List.any_eq_true.mpr ⟨t, List.mem_append_right _ ht, by simpa using kind_of_cycleWork ht⟩
  have hexec := serialBusCycle_begins happlied hmode hlive hdue hnew hcycle
  rw [takeSerial_unloaded hstaged, if_pos hready, closeCycle_busy hbusy] at hexec
  refine .intro hexec ?_
  rw [hport]
  exact ⟨rfl, rfl⟩

/-- A due start is taken for its skim, whether the port runs, still works or fails. -/
theorem serialBusCycle_lastCycle : Answers (.serialBusCycleStart p) s (fun t => (sport t p).lastCycle = some n) := by
  have hbegun (u : State) : (sport (cycleBegun u p n outs) p).lastCycle = some n := by simp [cycleBegun]
  cases hcycle : (sport s p).cycleOf with
  | some m => exact .intro (serialBusCycle_overruns happlied hmode hlive hdue hnew hcycle) (by rw [sport_setSport])
  | none =>
    refine .intro (serialBusCycle_begins happlied hmode hlive hdue hnew hcycle) ?_
    split
    · rw [lastCycle_closeCycle, hbegun]
    · rw [lastCycle_failPort, hbegun]

end

/-! ### Transactions handed (R299, R308, R318) -/

/-- A transaction as the port's float sees it (R318). -/
def floatView (t : SerialTxn) : FloatTxn :=
  ⟨b2n t.write, rAddr t.entry 1 2, rAddr t.entry 3 1, rAddr t.entry 4 4 + t.unit * rUnitBytes t.entry, rUnitBytes t.entry,
    t.attempt⟩

theorem handTxn_sport (s : State) (p : Nat) (t : SerialTxn) :
    sport (handTxn s p t) p = { sport s p with held := some t, late := false } := sport_setSport ..

theorem handTxn_txn (s : State) (p : Nat) (t : SerialTxn) :
    (floatOf (handTxn s p t) (portFloat p)).txn = some (floatView t) := by
  have hfloat : floatOf (handTxn s p t) (portFloat p) = latchBit { floatOf s (portFloat p) with
      txn := some (floatView t), txnData := fit (serialData s t) 16 } 2 := floatOf_setFloat ..
  obtain ⟨rs, e, x, y, w, n, he⟩ := latchBit_fields { floatOf s (portFloat p) with
    txn := some (floatView t), txnData := fit (serialData s t) 16 } 2
  rw [hfloat, he]

/-- With no access whose time has elapsed none ends. -/
theorem lateAccesses_none {s : State} {sel : FarTxn → Bool}
    (h : ∀ x ∈ s.bridge.farQueue, sel x = true → s.clk < x.deadline) (k : Nat) : lateAccesses sel k s = s := by
  have hnone : s.bridge.farQueue.find? (fun x => sel x && decide (x.deadline ≤ s.clk)) = none := by
    refine List.find?_eq_none.mpr fun x hx hlate => ?_
    obtain ⟨hsel, hdl⟩ : sel x = true ∧ x.deadline ≤ s.clk := by simpa using hlate
    exact absurd (h x hx hsel) (Nat.not_lt.mpr hdl)
  cases k with
  | zero => rfl
  | succ k => rw [lateAccesses, hnone]

theorem cyclicHolds_unlocked {s : State} {p : Nat} (h : portLocked s p = false) : cyclicHolds s p = false := by
  have hnone : ∀ l ∈ s.bridge.locks, l.port ≠ ownPort s p := by simpa [portLocked] using h
  simp only [cyclicHolds, List.any_eq_false, Bool.and_eq_true, beq_iff_eq, not_and]
  exact fun l hl hport => absurd hport (hnone l hl)

/-- The port as a transaction of its work goes to the float. -/
def firstHanded (s : State) (p : Nat) (x : SerialTxn) : State :=
  handTxn (setSport s p (fun q => { q with work := dropOne x q.work })) p x

theorem firstHanded_sport {s : State} {p : Nat} {x : SerialTxn} {l : List SerialTxn} (hwork : (sport s p).work = x :: l) :
    (sport (firstHanded s p x) p).held = some x ∧ (sport (firstHanded s p x) p).work = l := by
  rw [firstHanded, handTxn_sport, sport_setSport]
  simp [hwork, dropOne]

/-- The lock of a port taken for its cyclic access. -/
def cyclicLocked (s : State) (p : Nat) : State :=
  { s with bridge := { s.bridge with locks := s.bridge.locks ++ [⟨ownPort s p, 0, s.clk⟩] } }

/-- An access on demand as a transaction of its port. -/
def demandTxn (d : FarTxn) : SerialTxn := ⟨2, writing d, d.key, d.entry, [], 0, d.unitsDone, [], 0, d.tag, none⟩

section
variable {s : State} {p : Nat} (hready : serialReady s p = true) (hfree : (sport s p).held = none)
  (hlock : portLocked s p = false) (hlive : ∀ x ∈ s.bridge.farQueue, notHanded s p x = true → s.clk < x.deadline)
include hready hfree hlock hlive

theorem serialHanded_locked {x : SerialTxn} {l : List SerialTxn} (hwork : (sport s p).work = x :: l)
    (hatomic : lockedCyclic s x = true) (hunwaited : portWaited s p = false) :
    exec (.serialTransactionHanded p) s = .next (firstHanded (cyclicLocked s p) p x) := by
  have hlate := lateAccesses_none hlive s.bridge.farQueue.length
  have hheld : cyclicHolds (cyclicLocked s p) p = true := by simp [cyclicHolds, cyclicLocked, ownPort]
  rw [cyclicLocked] at hheld
  show execSerialTransactionHanded p s = _
  simp [execSerialTransactionHanded, hready, hfree, hlock, cyclicHolds_unlocked hlock, hlate, hwork, hatomic, hunwaited,
    hheld, firstHanded, cyclicLocked]

theorem serialHanded_cyclic {x : SerialTxn} {l : List SerialTxn} (hwork : (sport s p).work = x :: l)
    (hplain : lockedCyclic s x = false) (hdemand : nextDemand s p = none) :
    exec (.serialTransactionHanded p) s = .next (firstHanded s p x) := by
  have hlate := lateAccesses_none hlive s.bridge.farQueue.length
  show execSerialTransactionHanded p s = _
  simp [execSerialTransactionHanded, hready, hfree, hlock, cyclicHolds_unlocked hlock, hlate, hwork, hplain, hdemand, firstHanded]

theorem serialHanded_demand {d : FarTxn} (hwork : (sport s p).work = []) (hdemand : nextDemand s p = some d) :
    exec (.serialTransactionHanded p) s = .next (handTxn s p (demandTxn d)) := by
  have hlate := lateAccesses_none hlive s.bridge.farQueue.length
  show execSerialTransactionHanded p s = _
  simp [execSerialTransactionHanded, hready, hfree, hlock, cyclicHolds_unlocked hlock, hlate, hwork, hdemand, demandTxn]

theorem serialHanded_nothing (hwork : (sport s p).work = []) (hdemand : nextDemand s p = none) :
    exec (.serialTransactionHanded p) s = .next s := by
  have hlate := lateAccesses_none hlive s.bridge.farQueue.length
  show execSerialTransactionHanded p s = _
  simp [execSerialTransactionHanded, hready, hfree, hlock, cyclicHolds_unlocked hlock, hlate, hwork, hdemand]

end

/-- Settles O40: each row's effect, from the lemma above that bears its name. -/
theorem floatsAndSerialPortsRun : Obligations.FloatsAndSerialPortsRun := by
  unfold Obligations.FloatsAndSerialPortsRun
  refine ⟨?_, ?_, ?_, ?_, ?_, ?_, ?_, ?_, ?_, ?_, ?_⟩
  case refine_1 =>
    intro s k e x hstop hprog
    refine ⟨fun hdue hfaults => .intro (floatRestart_due hstop hprog hdue hfaults) ?_, floatRestart_stays hstop hprog⟩
    rw [floatOf_setSport, floatOf_setFloat]
    exact ⟨rfl, rfl, rfl, rfl, rfl, rfl, rfl, rfl, rfl⟩
  case refine_2 =>
    intro s k e htimer hdue hrun hwait
    refine .intro (floatTimerExpiry_due htimer hdue hrun) ?_
    rw [floatOf_setFloat, latchBit_running (f := { floatOf s k with timer := none }) 0 hwait]
    exact ⟨rfl, bitOf_latched ..⟩
  case refine_3 =>
    intro s k e r htimer hdue hrun hwait
    obtain ⟨hnone, hsteps, htaken, hregs⟩ := latchBit_awaited (f := { floatOf s k with timer := none }) hwait
    obtain ⟨rs, ev, x, y, w, n, he⟩ := latchBit_fields { floatOf s k with timer := none } 0
    refine .intro (floatTimerExpiry_due htimer hdue hrun) ?_
    rw [floatOf_setFloat]
    exact ⟨congrArg FloatSt.timer he, hnone, hsteps, htaken, hregs⟩
  case refine_4 =>
    intro s p e hbyte hrun hwait
    refine ⟨fun hdue => .intro (lineSilence_due hbyte hrun hdue) ?_, lineSilence_early hbyte⟩
    rw [floatOf_setSport, floatOf_setFloat, sport_setSport,
      latchBit_running (f := { floatOf s (portFloat p) with byteAt := none }) 1 hwait]
    exact ⟨bitOf_latched .., rfl, rfl⟩
  case refine_5 =>
    intro s p b pe fe hmode hwait
    obtain ⟨x, hexec⟩ := serialByteReceived_takes b pe fe hmode
    refine ⟨fun hroom => .intro hexec ?_, fun hfull => .intro hexec ?_⟩
    · rw [floatOf_setSport, floatOf_setFloat, byteReceived_room hwait hroom]
      exact ⟨rfl, rfl, rfl⟩
    · rw [floatOf_setSport, floatOf_setFloat, byteReceived_full hfull]
      exact ⟨rfl, rfl⟩
  case refine_6 =>
    intro s p htx hdue
    obtain ⟨t, hexec, hempty, -⟩ := transmitDrained_row htx hdue
    exact .intro hexec hempty
  case refine_7 =>
    intro s k e htta hrun hwait
    refine ⟨fun hdue => .intro (trainTimeTarget_due htta hdue hrun) ?_, trainTimeTarget_early htta⟩
    rw [floatOf_setFloat, latchBit_running (f := { floatOf s k with tta := none }) 5 hwait]
    exact ⟨rfl, bitOf_latched ..⟩
  case refine_8 =>
    exact fun s p x hp hx => ⟨programTakeForce_row hp hx, programTakeForce_waits hp⟩
  case refine_9 => exact fun s k x hx => programTakeForce_profile hx
  case refine_10 =>
    exact fun s p n outs happlied hmode hlive hdue hnew =>
      ⟨fun m hcycle => serialBusCycle_overrunRow happlied hmode hlive hdue hnew hcycle,
        fun hcycle hstaged => serialBusCycle_beginRow happlied hmode hlive hdue hnew hcycle hstaged⟩
  case refine_11 =>
    intro s p hready hfree hlock hlive
    refine ⟨fun x l hwork hatomic hunwaited => ?_, fun x l hwork hplain hdemand => ?_, fun d hwork hdemand => ?_,
      serialHanded_nothing hready hfree hlock hlive⟩
    · obtain ⟨hheld, hrest⟩ := firstHanded_sport (s := cyclicLocked s p) (p := p) hwork
      exact .intro (serialHanded_locked hready hfree hlock hlive hwork hatomic hunwaited) ⟨hheld, hrest, rfl⟩
    · obtain ⟨hheld, hrest⟩ := firstHanded_sport hwork
      exact .intro (serialHanded_cyclic hready hfree hlock hlive hwork hplain hdemand) ⟨hheld, hrest, handTxn_txn ..⟩
    · refine .intro (serialHanded_demand hready hfree hlock hlive hwork hdemand) ?_
      rw [handTxn_sport]
      exact ⟨rfl, hwork⟩

/-- Settles O59: each due row acts in whatever state its float is, since a return from `WAIT` writes only the registers, the
events and the wait; a bus cycle that fails keeps its number. -/
theorem dueFloatAndSerialRowsComplete : Obligations.DueFloatAndSerialRowsComplete := by
  unfold Obligations.DueFloatAndSerialRowsComplete
  refine ⟨?_, ?_, ?_, ?_, ?_, ?_, ?_, ?_, ?_⟩
  case refine_1 =>
    intro s k e x hstop hprog hdue hfaults
    refine ⟨_, floatRestart_due hstop hprog hdue hfaults, ?_⟩
    rw [floatOf_setSport, floatOf_setFloat]
    exact ⟨rfl, rfl⟩
  case refine_2 =>
    intro s k e htimer hdue hrun
    obtain ⟨rs, ev, x, y, w, n, he⟩ := latchBit_fields { floatOf s k with timer := none } 0
    refine ⟨_, floatTimerExpiry_due htimer hdue hrun, ?_⟩
    rw [floatOf_setFloat, he]
  case refine_3 =>
    intro s k e htta hdue hrun
    obtain ⟨rs, ev, x, y, w, n, he⟩ := latchBit_fields { floatOf s k with tta := none } 5
    refine ⟨_, trainTimeTarget_due htta hdue hrun, ?_⟩
    rw [floatOf_setFloat, he]
  case refine_4 =>
    intro s p e hbyte hrun hdue
    obtain ⟨rs, ev, x, y, w, n, he⟩ := latchBit_fields { floatOf s (portFloat p) with byteAt := none } 1
    refine ⟨_, lineSilence_due hbyte hrun hdue, ?_⟩
    rw [floatOf_setSport, floatOf_setFloat, he, sport_setSport]
    exact ⟨rfl, rfl⟩
  case refine_5 =>
    intro s p b pe fe hmode
    obtain ⟨x, hexec⟩ := serialByteReceived_takes b pe fe hmode
    refine ⟨_, hexec, ?_⟩
    rw [floatOf_setSport, floatOf_setFloat, byteReceived_byteAt, sport_setSport]
    exact ⟨rfl, rfl⟩
  case refine_6 => exact fun s p htx hdue => transmitDrained_row htx hdue
  case refine_7 =>
    intro s p x hp hx hstart hfree
    obtain ⟨t, hexec, hprog, -, -, hstaged, -⟩ := programTakeForce_row hp hx hstart hfree
    exact ⟨t, hexec, hprog, hstaged⟩
  case refine_8 =>
    exact fun s p n outs happlied hmode hlive hdue hnew => serialBusCycle_lastCycle happlied hmode hlive hdue hnew
  case refine_9 =>
    intro s p x l hready hfree hlock hunwaited hwork hdemand hlive
    cases hatomic : lockedCyclic s x with
    | true => exact ⟨_, serialHanded_locked hready hfree hlock hlive hwork hatomic hunwaited,
        firstHanded_sport (s := cyclicLocked s p) (p := p) hwork⟩
    | false => exact ⟨_, serialHanded_cyclic hready hfree hlock hlive hwork hatomic hdemand, firstHanded_sport hwork⟩

end Sys2Proof.Proofs
end

section
/-! The float instructions on the work registers (R311 to R313), and the statement O38. -/

namespace Sys2Proof.Proofs

open Sys2Proof Sys2Proof.Machine

/-! ### One instruction row (R311 to R313, R320) -/

/-- The float as its instruction finds it: no result waits to be taken, and the step is counted. -/
def stepping (f : FloatSt) : FloatSt := { f with ended := none, steps := f.steps + 1 }

@[simp] theorem floatOf_tookFree (s : State) (n k : Nat) : floatOf (tookFree s n) k = floatOf s k := rfl

theorem settleEnd_unended (s : State) (k : Nat) {g : FloatSt} (h : g.ended = none) : settleEnd s k g = s := by
  simp only [settleEnd, h]

theorem floatStep_within {f : FloatSt} (e : FEnv) (w : Word32) (act : Word32 → FEnv → FloatSt → FRes) (h : f.steps < 1024) :
    floatStep e { f with ended := none } w act = act w e (stepping f) :=
  if_neg (Nat.not_le.mpr h)

section
variable {s : State} {k op : Nat} {w : Word32} {act : Word32 → FEnv → FloatSt → FRes}

/-- The row of the word that the float runs next puts the outcome of its instruction in the float's place. -/
theorem floatRow_runs {g : FloatSt} (hat : floatAt s k w) (hop : wOp w = op)
    (hact : act w (floatEnv s k) (stepping (floatOf s k)) = .ok g) (hended : g.ended = none) :
    floatRow s k op act = tookFree (setFloat s k g) 1 := by
  obtain ⟨hlow, hhigh, hrun, hwait, hword, hsteps⟩ := hat
  have hfetch : (if (floatOf s k).running && (floatOf s k).waiting.isNone && decide (6 ≤ k) && decide (k ≤ 11)
      then (floatOf s k).prog.bind (fun p => p.code[(floatOf s k).pc]?) else none) = some w := by
    simp only [hrun, hwait, hlow, hhigh, hword, Option.isNone_none, decide_true, Bool.and_self, if_true]
  have hstep := (floatStep_within (floatEnv s k) w act hsteps).trans hact
  simp only [floatRow, hfetch, hop, hstep, settleEnd_unended _ _ hended, ne_eq, not_true_eq_false, if_false]

/-- An instruction that writes registers, flags and data memory and then moves the program counter; a loop also writes its
passes. -/
theorem floatNext_of_goes {i : Instr} {regs : List Word32} {z n c : Bool} {pc : Nat} {data : Mem} (hat : floatAt s k w)
    (hop : wOp w = op) (hexec : exec i s = .next (floatRow s k op act))
    (hact : ∃ passes, act w (floatEnv s k) (stepping (floatOf s k)) = .ok (fGo { stepping (floatOf s k) with
      regs := regs, z := z, n := n, c := c, data := data, passes := passes } pc)) :
    FloatNext i s k regs z n c pc data := by
  obtain ⟨passes, hact⟩ := hact
  have ⟨_, _, hrun, _⟩ := hat
  rw [floatRow_runs hat hop hact rfl] at hexec
  refine Answers.intro hexec ?_
  rw [floatOf_tookFree, floatOf_setFloat]
  exact ⟨rfl, rfl, rfl, rfl, rfl, rfl, hrun⟩

end

/-! ### LDH, BR and LOOP (R313) -/

/-- `LDH` puts its immediate in place of the upper half of A. -/
theorem ofNat_append_low (i : Nat) (a : Word32) :
    BitVec.ofNat 16 i ++ a.setWidth 16 = BitVec.ofNat 32 (i * 65536 + a.toNat % 65536) := by
  have hlow : a.toNat % 2 ^ 16 < 2 ^ 16 := Nat.mod_lt _ (Nat.two_pow_pos 16)
  apply BitVec.eq_of_toNat_eq
  rw [BitVec.toNat_append, BitVec.toNat_setWidth, BitVec.toNat_ofNat, BitVec.toNat_ofNat,
    ← Nat.shiftLeft_add_eq_or_of_lt hlow, Nat.shiftLeft_eq]
  omega

theorem fBr_goes (w : Word32) (e : FEnv) (f : FloatSt) :
    fBr w e f = .ok (fGo f (if fHolds (wSub w) f then wTarget w else f.pc + 1)) :=
  congrArg Except.ok (apply_ite (fGo f) _ _ _).symm

/-- `LOOP` writes the decremented register and goes back or on; its count of passes grows or ends. -/
theorem fLoop_goes (w : Word32) (e : FEnv) (f : FloatSt) : ∃ passes, fLoop w e f =
    .ok (fGo { f with regs := f.regs.set (wA w) (fReg f (wA w) - 1), passes := passes }
      (if fReg f (wA w) - 1 ≠ 0 ∧ Tab.getD f.passes f.pc 0 + 1 < wLimit w then wTarget w else f.pc + 1)) := by
  by_cases hback : fReg f (wA w) - 1 ≠ 0 ∧ Tab.getD f.passes f.pc 0 + 1 < wLimit w
  · rw [if_pos hback]
    exact ⟨_, congrArg Except.ok (if_pos hback)⟩
  · rw [if_neg hback]
    exact ⟨_, congrArg Except.ok (if_neg hback)⟩

/-- Settles O38: each row runs its instruction on the float, and what the instruction writes is read off its definition. -/
theorem floatInstructionsCompute : Obligations.FloatInstructionsCompute := by
  unfold Obligations.FloatInstructionsCompute
  rintro s k w hat f a b rfl rfl rfl
  refine ⟨?nop, ?ldi, ?ldh, ?mov, ?add, ?addi, ?sub, ?and, ?or, ?xor, ?shl, ?shr, ?cmp, ?cmpi, ?crc, ?time, ?br, ?loop⟩
  case nop => exact fun hop => floatNext_of_goes hat hop rfl ⟨_, rfl⟩
  case ldi => exact fun hop => floatNext_of_goes hat hop rfl ⟨_, rfl⟩
  case ldh =>
    intro hop
    rw [ofNat_append_low]
    exact floatNext_of_goes hat hop rfl ⟨_, rfl⟩
  case mov => exact fun hop => floatNext_of_goes hat hop rfl ⟨_, rfl⟩
  case add => exact fun hop => floatNext_of_goes hat hop rfl ⟨_, rfl⟩
  case addi =>
    rintro y hop rfl
    exact floatNext_of_goes hat hop rfl ⟨_, rfl⟩
  case sub => exact fun hop => floatNext_of_goes hat hop rfl ⟨_, rfl⟩
  case and => exact fun hop => ⟨_, floatNext_of_goes hat hop rfl ⟨_, rfl⟩⟩
  case or => exact fun hop => ⟨_, floatNext_of_goes hat hop rfl ⟨_, rfl⟩⟩
  case xor => exact fun hop => ⟨_, floatNext_of_goes hat hop rfl ⟨_, rfl⟩⟩
  case shl =>
    rintro v hop rfl
    exact ⟨_, floatNext_of_goes hat hop rfl ⟨_, rfl⟩⟩
  case shr =>
    rintro v hop rfl
    exact ⟨_, floatNext_of_goes hat hop rfl ⟨_, rfl⟩⟩
  case cmp => exact fun hop => floatNext_of_goes hat hop rfl ⟨_, rfl⟩
  case cmpi =>
    rintro y hop rfl
    exact floatNext_of_goes hat hop rfl ⟨_, rfl⟩
  case crc => exact fun hop => floatNext_of_goes hat hop rfl ⟨_, rfl⟩
  case time => exact fun hop => floatNext_of_goes hat hop rfl ⟨_, rfl⟩
  case br => exact fun hop => floatNext_of_goes hat hop rfl ⟨_, fBr_goes ..⟩
  case loop => exact fun hop => floatNext_of_goes hat hop rfl (fLoop_goes ..)

end Sys2Proof.Proofs
end

section
/-! What no command writes stays, and the safety outputs over every step (R339, R340, R342, R365, R366, R368, R479, R480,
R518): the statement O49. -/

namespace Sys2Proof.Proofs

open Sys2Proof Sys2Proof.Machine

/-- A command changes no part that `writes` does not grant it. -/
theorem exec_only {i : Instr} {s t : State} (e : exec i s = .next t) : Only (writes i) s t := by
  obtain ⟨u, hu, ho⟩ := exec_completesWithin i s
  obtain rfl := Host.Outcome.next.inj (hu.symm.trans e)
  exact ho

/-- The command may write the part. -/
def writesPart (i : Instr) (p : Part) : Bool := (writes i).any (· == p)

theorem exec_keeps_part {i : Instr} {s t : State} {p : Part} (hi : writesPart i p = false) (e : exec i s = .next t) :
    t.part p = s.part p := by
  refine exec_only e p fun hm => ?_
  simp only [writesPart, List.any_eq_false] at hi
  exact hi p hm (beq_self_eq_true p)

/-- Each command keeps the outputs sound: those that may write the complex or the presence inputs by the laws of their
meanings, the others because they move nothing that the outputs depend on. -/
theorem exec_sound {i : Instr} {s t : State} (e : exec i s = .next t) (h : s.lamp.sound) : t.lamp.sound := by
  cases i with
  | ready => exact execReady_sound e h
  | scratchTestComplete failBits => exact execScratchTestComplete_sound failBits e h
  | resetNAsserted => exact execResetNAsserted_sound e h
  | managementWatchdogExpiry => exact execManagementWatchdogExpiry_sound e h
  | internalSupplyFail => exact execInternalSupplyFail_sound e h
  | holdBusLow => exact execHoldBusLow_sound e h
  | safeOffReclose => exact execSafeOffReclose_sound e h
  | converterOvervoltageStop => exact execConverterOvervoltageStop_sound e h
  | converterOvertempStop => exact execConverterOvertempStop_sound e h
  | currentLimitExpiry output => exact execCurrentLimitExpiry_sound output e h
  | sampleInstant inp => exact execSampleInstant_sound inp e h
  | outputInstant n => exact execOutputInstant_sound n e h
  | messageWindowStart => exact execMessageWindowStart_sound e h
  | skimCommit => exact execSkimCommit_sound e h
  | fedCommitTimeout => exact execFedCommitTimeout_sound e h
  | minorityDetected core lane clock parity => exact execMinorityDetected_sound core lane clock parity e h
  | noMajority lane clock parity => exact execNoMajority_sound lane clock parity e h
  | comparatorFault lane clock => exact execComparatorFault_sound lane clock e h
  | checkpointWriteComplete => exact execCheckpointWriteComplete_sound e h
  | resyncComplete selfCheckOk => exact execResyncComplete_sound selfCheckOk e h
  | restartComplete => exact execRestartComplete_sound e h
  | tcmScrub core addr outcome => exact execTcmScrub_sound core addr outcome e h
  | replayComplete mismatch count lane => exact execReplayComplete_sound mismatch count lane e h
  | inputComparatorDisagree input => exact execInputComparatorDisagree_sound input e h
  | inputFaultClear input => exact execInputFaultClear_sound input e h
  | outputPulseTest output readsOff => exact execOutputPulseTest_sound output readsOff e h
  | controlRecordReceived unit unitId cycle content => exact execControlRecordReceived_sound unit unitId cycle content e h
  | commitMarkReceived content => exact execCommitMarkReceived_sound content e h
  | interlockReadingChange ilkIn ownLoop => exact execInterlockReadingChange_sound ilkIn ownLoop e h
  | roleWatchdogExpiry => exact execRoleWatchdogExpiry_sound e h
  | handoverSwitch => exact execHandoverSwitch_sound e h
  | switchback => exact execSwitchback_sound e h
  | grantExpiry => exact execGrantExpiry_sound e h
  | hawkFence => exact execHawkFence_sound e h
  | hawkRelease => exact execHawkRelease_sound e h
  | sleepEntry => exact execSleepEntry_sound e h
  | falseWake => exact execFalseWake_sound e h
  | lineKeepingEntry => exact execLineKeepingEntry_sound e h
  | opRouteTransferFinish p => exact execOpRouteTransferFinish_sound p e h
  | opScheduleEventTransferFinish p => exact execOpScheduleEventTransferFinish_sound p e h
  | opRoleGrant p => exact execOpRoleGrant_sound p e h
  | opComplexReset p => exact execOpComplexReset_sound p e h
  | opOutputFaultClear p => exact execOpOutputFaultClear_sound p e h
  | opEquationTransferFinish p => exact execOpEquationTransferFinish_sound p e h
  | opImageTransferFinish p => exact execOpImageTransferFinish_sound p e h
  | opProfileGateTransferFinish p => exact execOpProfileGateTransferFinish_sound p e h
  | opSerialProgramTransferFinish p => exact execOpSerialProgramTransferFinish_sound p e h
  | opRegisterWrite p => exact execOpRegisterWrite_sound p e h
  | opSplitEnter p => exact execOpSplitEnter_sound p e h
  | opSplitLeave p => exact execOpSplitLeave_sound p e h
  | opCoreHalt p => exact execOpCoreHalt_sound p e h
  | opCoreStep p => exact execOpCoreStep_sound p e h
  | opCoreRun p => exact execOpCoreRun_sound p e h
  | opCoreRead p => exact execOpCoreRead_sound p e h
  | opCoreWrite p => exact execOpCoreWrite_sound p e h
  | w1cBitWrite address w => exact execW1cBitWrite_sound address w e h
  | hostRegisterWrite command words partialWord => exact execHostRegisterWrite_sound command words partialWord e h
  | maintButtonPress => exact execMaintButtonPress_sound e h
  | maintButtonRelease heldMs => exact execMaintButtonRelease_sound heldMs e h
  | maintWindowClose => exact execMaintWindowClose_sound e h
  | maintJumperFitted => exact execMaintJumperFitted_sound e h
  | maintJumperRemoved => exact execMaintJumperRemoved_sound e h
  | presenceRawChange sealOpen debugFitted => exact execPresenceRawChange_sound sealOpen debugFitted e h
  | sealOpened => exact execSealOpened_sound e h
  | sealClosed => exact execSealClosed_sound e h
  | debugJumperFitted => exact execDebugJumperFitted_sound e h
  | debugJumperRemoved => exact execDebugJumperRemoved_sound e h
  | presenceInputFault input => exact execPresenceInputFault_sound input e h
  | presenceFaultLift input => exact execPresenceFaultLift_sound input e h
  | trialTimeout => exact execTrialTimeout_sound e h
  | resetCommand => exact execResetCommand_sound e h
  | _ => exact sound_only h (exec_keeps_part rfl e) (exec_keeps_part rfl e)

/-- Settles O49: a tick moves no lamp field, and each command keeps the outputs sound. -/
theorem outputsStayDeEnergisedWhileBarred : Obligations.OutputsStayDeEnergisedWhileBarred := by
  unfold Obligations.OutputsStayDeEnergisedWhileBarred
  intro s t h e
  unfold step at e
  split at e
  · obtain rfl := Host.Outcome.next.inj e
    exact h
  · exact exec_sound e h

end Sys2Proof.Proofs
end

section
/-! The unit code (R372), and the statement O51. -/

namespace Sys2Proof.Proofs

open Sys2Proof Sys2Proof.Machine

theorem powerOnReset_reads_pins {s : State} (u : BitVec 3) (lost : Bool) (hboot : s.start.boot = .unpowered)
    (hvolt : s.start.overvoltStop = false) (htemp : s.start.overtempStop = false) :
    Answers (.powerOnReset u lost) s (fun t => t.upos = u.toNat ∧ t.unitNo = unitOfCode u) :=
  .intro (congrArg Host.Outcome.next (if_pos ⟨hboot, by simp [hvolt], by simp [htemp]⟩)) ⟨rfl, rfl⟩

theorem converterRestart_reads_pins {s : State} (u : BitVec 3) (lost : Bool) (hboot : s.start.boot = .unpowered)
    (hstop : s.start.overvoltStop = true ∨ s.start.overtempStop = true) :
    Answers (.converterRestart u lost) s (fun t => t.upos = u.toNat ∧ t.unitNo = unitOfCode u) :=
  .intro (congrArg Host.Outcome.next (if_pos ⟨hboot, hstop⟩)) ⟨rfl, rfl⟩

/-- The codes are the four of R372's table. -/
theorem unitOfCode_ne_zero_iff : ∀ u : BitVec 3, unitOfCode u ≠ 0 ↔ u ∈ [0b000, 0b101, 0b110, 0b011] := by decide

/-- Each valid code carries its own parity in `UPOS2`. -/
theorem valid_code_parity : ∀ u : BitVec 3, unitOfCode u ≠ 0 → u.getLsbD 2 = (u.getLsbD 1 ^^ u.getLsbD 0) := by decide

theorem valid_code_flip_invalid : ∀ u : BitVec 3, unitOfCode u ≠ 0 → ∀ k, k < 3 → unitOfCode (u ^^^ (1#3 <<< k)) = 0 := by
  decide

/-- Only the two power-on resets may write the code and the number. -/
theorem upos_not_mem_writes (i : Instr) (hreset : ∀ u a, i ≠ .powerOnReset u a) (hrestart : ∀ u a, i ≠ .converterRestart u a) :
    Part.upos ∉ writes i ∧ Part.unitNo ∉ writes i := by
  unfold writes
  split
  case h_1 => exact absurd rfl (hreset _ _)
  case h_2 => exact absurd rfl (hrestart _ _)
  all_goals exact ⟨by decide, by decide⟩

/-- Settles O51: the pins are read by the two rows of a power-on reset, the codes are eight, and no other row writes them. -/
theorem theUnitCodeIsReadOnceAtPowerOn : Obligations.TheUnitCodeIsReadOnceAtPowerOn := by
  unfold Obligations.TheUnitCodeIsReadOnceAtPowerOn
  refine ⟨fun s u a hboot => ⟨?reset, ?restart⟩, ?table, ?codes, ?frame⟩
  case reset => exact powerOnReset_reads_pins u a hboot
  case restart => exact converterRestart_reads_pins u a hboot
  case table => exact ⟨rfl, rfl, rfl, rfl, unitOfCode_ne_zero_iff⟩
  case codes => exact fun u hu => ⟨valid_code_parity u hu, valid_code_flip_invalid u hu⟩
  case frame =>
    intro i s t hreset hrestart e
    obtain ⟨hupos, hno⟩ := upos_not_mem_writes i hreset hrestart
    exact ⟨exec_only e .upos hupos, exec_only e .unitNo hno⟩

end Sys2Proof.Proofs
end

section
/-! The windows of the host port (R465, R469 to R471, R473): what each shared operation that writes the host port leaves of
their canonical form. The resets empty both windows, a reply that is placed writes the reply window anew, a write of the
host goes into the command window, and every other operation leaves both as they are. -/

namespace Sys2Proof.Proofs

open Sys2Proof Sys2Proof.Machine

/-! ### Both windows in canonical form -/

/-- Both windows list their bytes with strictly rising addresses and without zeros. -/
def Canonical (h : HostSt) : Prop := Mem.wf h.cmdWin = true ∧ Mem.wf h.replyWin = true

theorem windowsWf_iff (s : State) : windowsWf s = true ↔ Canonical (s.part .host) := Bool.and_eq_true_iff

@[simp] theorem canonical_init : Canonical HostSt.init := ⟨rfl, rfl⟩

@[simp] theorem canonical_host (s : State) : Canonical s.host ↔ Canonical (s.part .host) := Iff.rfl

@[simp] theorem canonical_ite (c : Prop) [Decidable c] (a b : HostSt) :
    Canonical (if c then a else b) ↔ if c then Canonical a else Canonical b := by split <;> rfl

@[simp] theorem canonical_mk (a b c d e f g i j k l m n o p) :
    Canonical (HostSt.mk a b c d e f g i j k l m n o p) ↔ Mem.wf j = true ∧ Mem.wf k = true := Iff.rfl

@[simp] theorem windows_canonical (h : HostSt) :
    Mem.wf h.cmdWin = true ∧ Mem.wf h.replyWin = true ↔ Canonical h := Iff.rfl

/-- The host port written together with other parts reads back as written. -/
@[simp] theorem canonical_part_mk (a b c d e f g h i j k l m n o p q r t u v w x y z a' b' c' d') :
    Canonical ((State.mk a b c d e f g h i j k l m n o p q r t u v w x y z a' b' c' d').part .host) ↔ Canonical w := Iff.rfl

@[simp] theorem foldl_canonical {α : Type} (f : State → α → State) (l : List α) (s : State)
    (h : ∀ s x, Canonical ((f s x).part .host) ↔ Canonical (s.part .host)) :
    Canonical ((l.foldl f s).part .host) ↔ Canonical (s.part .host) := by
  induction l generalizing s with
  | nil => rfl
  | cons x l ih => exact (ih (f s x)).trans (h s x)

theorem foldl_canonical_of {α : Type} {f : State → α → State} {l : List α}
    (hf : ∀ s x, Canonical (s.part .host) → Canonical ((f s x).part .host)) {s : State} (h : Canonical (s.part .host)) :
    Canonical ((l.foldl f s).part .host) := by
  induction l generalizing s with
  | nil => exact h
  | cons x l ih => exact ih (hf s x h)

/-! ### Operations that leave both windows as they are -/

section
variable (s : State)

@[simp] theorem raiseInt_canonical (k : Nat) :
    Canonical ((raiseInt s k).part .host) ↔ Canonical (s.part .host) := Iff.rfl

@[simp] theorem raiseIntIf_canonical (c : Bool) (k : Nat) :
    Canonical ((raiseIntIf c s k).part .host) ↔ Canonical (s.part .host) := Iff.rfl

@[simp] theorem setTimebase_canonical (b : Timebase) :
    Canonical ((setTimebase s b).part .host) ↔ Canonical (s.part .host) := by simp [setTimebase]

@[simp] theorem stepTime_canonical (d : Int) (why : StepCause) :
    Canonical ((stepTime s d why).part .host) ↔ Canonical (s.part .host) := by simp [stepTime]

@[simp] theorem correct_canonical (theta : Int) (why : StepCause) :
    Canonical ((correct s theta why).part .host) ↔ Canonical (s.part .host) := by simp [correct]

@[simp] theorem correctFromStart_canonical :
    Canonical ((correctFromStart s).part .host) ↔ Canonical (s.part .host) := by
  unfold correctFromStart
  (repeat' split) <;> simp

@[simp] theorem applySteps_canonical (tstep pstep : Int) :
    Canonical ((applySteps s tstep pstep).part .host) ↔ Canonical (s.part .host) := by simp [applySteps]

@[simp] theorem takeSleepCycle_canonical (n c : Nat) :
    Canonical ((takeSleepCycle s n c).part .host) ↔ Canonical (s.part .host) := by simp [takeSleepCycle]

@[simp] theorem followStep_canonical (f : Frame) :
    Canonical ((followStep s f).part .host) ↔ Canonical (s.part .host) := by simp [followStep]

@[simp] theorem followStart_canonical (f : Frame) :
    Canonical ((followStart s f).part .host) ↔ Canonical (s.part .host) := by simp [followStart]

@[simp] theorem unknownCounter_canonical (f : Frame) :
    Canonical ((unknownCounter s f).part .host) ↔ Canonical (s.part .host) := by simp [unknownCounter]

@[simp] theorem outsideStart_canonical (f : Frame) :
    Canonical ((outsideStart s f).part .host) ↔ Canonical (s.part .host) := by simp [outsideStart]

@[simp] theorem takeStart_canonical (f : Frame) :
    Canonical ((takeStart s f).part .host) ↔ Canonical (s.part .host) := by simp [takeStart]

@[simp] theorem startDelivered_canonical (p : LinePort) (f : Frame) (arrival : Int) :
    Canonical ((startDelivered p f arrival s).part .host) ↔ Canonical (s.part .host) := by
  unfold startDelivered deliver
  (repeat' split) <;> simp

@[simp] theorem noteFailure_canonical (x : TagSt) (status failedUnit detail : Nat) :
    Canonical ((noteFailure s x status failedUnit detail).part .host) ↔ Canonical (s.part .host) := by
  simp [noteFailure]

@[simp] theorem failWrite_canonical (x : TagSt) (status failedUnit detail : Nat) :
    Canonical ((failWrite s x status failedUnit detail).part .host) ↔ Canonical (s.part .host) := by simp [failWrite]

@[simp] theorem failTag_canonical (x : TagSt) (status failedUnit detail : Nat) :
    Canonical ((failTag s x status failedUnit detail).part .host) ↔ Canonical (s.part .host) := by simp [failTag]

@[simp] theorem endSlot_canonical (slot : Nat) :
    Canonical ((endSlot s slot).part .host) ↔ Canonical (s.part .host) := by simp [endSlot]

@[simp] theorem rebindBridge_canonical (old : Option Numbering) (new : Option Numbering) :
    Canonical ((rebindBridge s old new).part .host) ↔ Canonical (s.part .host) := by simp [rebindBridge]

@[simp] theorem writeRing_canonical (e : Nat) (r : Ring) (f : RingFrame) :
    Canonical ((writeRing s e r f).part .host) ↔ Canonical (s.part .host) := by simp [writeRing]

@[simp] theorem starveRing_canonical (e : Nat) (f : RingFrame) :
    Canonical ((starveRing s e f).part .host) ↔ Canonical (s.part .host) := by
  unfold starveRing
  (repeat' split) <;> simp

@[simp] theorem toRing_canonical (e : Nat) (f : RingFrame) :
    Canonical ((toRing s e f).1.part .host) ↔ Canonical (s.part .host) := by
  unfold toRing
  (repeat' split) <;> simp

@[simp] theorem unstage_canonical (e k : Nat) :
    Canonical ((unstage e k s).part .host) ↔ Canonical (s.part .host) := by
  induction k generalizing s with
  | zero => rfl
  | succ k ih => unfold unstage; (repeat' split) <;> simp [ih]

@[simp] theorem returnDescs_canonical (e count : Nat) :
    Canonical ((returnDescs s e count).part .host) ↔ Canonical (s.part .host) := by
  unfold returnDescs
  split <;> simp

@[simp] theorem answerTxn_canonical (x : FarTxn) (status failedUnit detail : Nat) (value : Val) :
    Canonical ((answerTxn s x status failedUnit detail value).part .host) ↔ Canonical (s.part .host) := by
  unfold answerTxn
  (repeat' split) <;> simp

@[simp] theorem pumpWith_canonical (fin : State → FarTxn → Nat → Nat → Nat → Val → State) (key : FarKey)
    (hf : ∀ s x a b c v, Canonical ((fin s x a b c v).part .host) ↔ Canonical (s.part .host)) :
    Canonical ((pumpWith fin s key).part .host) ↔ Canonical (s.part .host) := by
  unfold pumpWith
  dsimp only
  (repeat' split) <;> simp [hf]

@[simp] theorem finish_canonical (k : Nat) (x : FarTxn) (st fu dt : Nat) (v : Val) :
    Canonical ((finish k s x st fu dt v).part .host) ↔ Canonical (s.part .host) := by
  induction k generalizing s x st fu dt v with
  | zero => rfl
  | succ k ih =>
    have hp := fun s key => pumpWith_canonical s (finish k) key ih
    unfold finish
    dsimp only
    (repeat' split) <;> simp [hp]

@[simp] theorem finishTxn_canonical (x : FarTxn) (status failedUnit detail : Nat) (value : Val) :
    Canonical ((finishTxn s x status failedUnit detail value).part .host) ↔ Canonical (s.part .host) := by
  simp [finishTxn]

@[simp] theorem pumpKey_canonical (key : FarKey) :
    Canonical ((pumpKey s key).part .host) ↔ Canonical (s.part .host) := by simp [pumpKey]

@[simp] theorem pumpAll_canonical :
    Canonical ((pumpAll s).part .host) ↔ Canonical (s.part .host) := by simp [pumpAll]

@[simp] theorem enqueueFar_canonical (x : FarTxn) :
    Canonical ((enqueueFar s x).part .host) ↔ Canonical (s.part .host) := by simp [enqueueFar]

@[simp] theorem completeUnit_canonical (key : FarKey) (a : FarAnswer) :
    Canonical ((completeUnit s key a).part .host) ↔ Canonical (s.part .host) := by
  unfold completeUnit
  dsimp only
  (repeat' split) <;> simp

@[simp] theorem failAccesses_canonical (sel : FarTxn → Bool) (detail k : Nat) :
    Canonical ((failAccesses sel detail k s).part .host) ↔ Canonical (s.part .host) := by
  induction k generalizing s with
  | zero => rfl
  | succ k ih => unfold failAccesses; split <;> simp [ih]

@[simp] theorem failChannel_canonical (ch detail : Nat) :
    Canonical ((failChannel s ch detail).part .host) ↔ Canonical (s.part .host) := by simp [failChannel]

@[simp] theorem resolveLost_canonical (r : SentRec) :
    Canonical ((resolveLost s r).part .host) ↔ Canonical (s.part .host) := by
  unfold resolveLost
  dsimp only
  (repeat' split) <;> simp

@[simp] theorem toResolving_canonical (k : Nat) :
    Canonical ((toResolving s k).part .host) ↔ Canonical (s.part .host) := by simp [toResolving]

@[simp] theorem unresolve_canonical (sel : ChanSt → Bool) :
    Canonical ((unresolve s sel).part .host) ↔ Canonical (s.part .host) := by simp [unresolve]

@[simp] theorem switchFrame_canonical (v : Nat) (f : VFrame) (b : Bytes) :
    Canonical ((switchFrame s v f b).part .host) ↔ Canonical (s.part .host) := by simp [switchFrame]

@[simp] theorem failSerial_canonical (t : SerialTxn) (status detail : Nat) :
    Canonical ((failSerial s t status detail).part .host) ↔ Canonical (s.part .host) := by
  unfold failSerial
  split <;> simp

@[simp] theorem finishSerial_canonical (p : Nat) (t : SerialTxn) (data : Bytes) :
    Canonical ((finishSerial s p t data).part .host) ↔ Canonical (s.part .host) := by
  unfold finishSerial
  dsimp only
  (repeat' split) <;> simp

@[simp] theorem endSerial_canonical (p cls code : Nat) (data : Bytes) :
    Canonical ((endSerial s p cls code data).part .host) ↔ Canonical (s.part .host) := by
  unfold endSerial
  split <;> simp

@[simp] theorem failPort_canonical (p detail : Nat) :
    Canonical ((failPort s p detail).part .host) ↔ Canonical (s.part .host) := by
  unfold failPort
  dsimp only
  split <;> simp

@[simp] theorem floatFault_canonical (k code detail index : Nat) :
    Canonical ((floatFault s k code detail index).part .host) ↔ Canonical (s.part .host) := by simp [floatFault]

@[simp] theorem settleEnd_canonical (k : Nat) (f : FloatSt) :
    Canonical ((settleEnd s k f).part .host) ↔ Canonical (s.part .host) := by
  unfold settleEnd
  split <;> simp

@[simp] theorem floatRow_canonical (k op : Nat) (act : Word32 → FEnv → FloatSt → FRes) :
    Canonical ((floatRow s k op act).part .host) ↔ Canonical (s.part .host) := by
  unfold floatRow
  generalize floatEnv s k = env
  generalize floatOf s k = f
  dsimp only
  split
  · rfl
  · split
    · rfl
    · split <;> simp

@[simp] theorem endSdo_canonical (c : Nat) (x : Sdo) (a : FarAnswer) :
    Canonical ((endSdo s c x a).part .host) ↔ Canonical (s.part .host) := by
  unfold endSdo
  (repeat' split) <;> simp

@[simp] theorem sdoAnswer_canonical (c : Nat) (x : Sdo) (d : Bytes) :
    Canonical ((sdoAnswer s c x d).part .host) ↔ Canonical (s.part .host) := by simp [sdoAnswer]

@[simp] theorem dropSems_canonical (ch : Nat) :
    Canonical ((dropSems s ch).part .host) ↔ Canonical (s.part .host) := by
  unfold dropSems
  dsimp only
  (repeat' split) <;> simp

@[simp] theorem enterChan_canonical (ch : Nat) (st : ChanState) (detail : Nat) :
    Canonical ((enterChan s ch st detail).part .host) ↔ Canonical (s.part .host) := by
  unfold enterChan
  (repeat' split) <;> simp

@[simp] theorem profileFault_canonical (ch code detail index : Nat) :
    Canonical ((profileFault s ch code detail index).part .host) ↔ Canonical (s.part .host) := by simp [profileFault]

@[simp] theorem sendRequest_canonical (ch mode : Nat) (gate : Option Nat) (leaves : Nat) (r : Option (Except
    (Nat × Nat × FloatSt) FloatSt)) :
    Canonical ((sendRequest s ch mode gate leaves r).part .host) ↔ Canonical (s.part .host) := by
  unfold sendRequest
  split <;> simp

@[simp] theorem answerDemand_canonical (ch : Nat) (a : FarAnswer) :
    Canonical ((answerDemand s ch a).part .host) ↔ Canonical (s.part .host) := by
  unfold answerDemand
  split <;> simp

@[simp] theorem missChan_canonical (ch : Nat) :
    Canonical ((missChan s ch).part .host) ↔ Canonical (s.part .host) := by
  unfold missChan
  dsimp only
  (repeat' split) <;> simp

@[simp] theorem acceptChan_canonical (ch : Nat) (isException : Bool) :
    Canonical ((acceptChan s ch isException).part .host) ↔ Canonical (s.part .host) := by
  unfold acceptChan
  dsimp only
  (repeat' split) <;> simp

@[simp] theorem adoptNumbering_canonical (t : Numbering) :
    Canonical ((adoptNumbering s t).part .host) ↔ Canonical (s.part .host) := by
  unfold adoptNumbering
  dsimp only
  split <;> simp

@[simp] theorem lapseSetout_canonical (peer : OpenEnds) :
    Canonical ((lapseSetout s peer).part .host) ↔ Canonical (s.part .host) := by simp [lapseSetout]

@[simp] theorem noteSafe_canonical (b : State) :
    Canonical ((noteSafe b s).part .host) ↔ Canonical (s.part .host) := by simp [noteSafe]

@[simp] theorem setRole_canonical (r : Role) :
    Canonical ((setRole s r).part .host) ↔ Canonical (s.part .host) := by simp [setRole]

@[simp] theorem leaveRole_canonical :
    Canonical ((leaveRole s).part .host) ↔ Canonical (s.part .host) := by simp [leaveRole]

@[simp] theorem becomeComposing_canonical (r : Role) (warm : Bool) :
    Canonical ((becomeComposing s r warm).part .host) ↔ Canonical (s.part .host) := by simp [becomeComposing]

@[simp] theorem commitAll_canonical :
    Canonical ((commitAll s).part .host) ↔ Canonical (s.part .host) := by
  unfold commitAll
  dsimp only
  (repeat' split) <;> simp

@[simp] theorem fireTrigger_canonical (t : TriggerCfg) :
    Canonical ((fireTrigger s t).part .host) ↔ Canonical (s.part .host) := by simp [fireTrigger]

@[simp] theorem fireTriggers_canonical (c : Nat) (v : Int) :
    Canonical ((fireTriggers s c v).part .host) ↔ Canonical (s.part .host) := by simp [fireTriggers]

@[simp] theorem recordEvent_canonical (r : Report) :
    Canonical ((recordEvent s r).part .host) ↔ Canonical (s.part .host) := by
  unfold recordEvent
  dsimp only
  (repeat' split) <;> simp

@[simp] theorem recordNow_canonical (c subsystem : Nat) (v : Int) (rest : Bytes) :
    Canonical ((recordNow s c subsystem v rest).part .host) ↔ Canonical (s.part .host) := by simp [recordNow]

@[simp] theorem startRecorder_canonical (source : Nat) :
    Canonical ((startRecorder s source).part .host) ↔ Canonical (s.part .host) := by simp [startRecorder]

@[simp] theorem recordPowerFail_canonical (supply : Nat) :
    Canonical ((recordPowerFail s supply).part .host) ↔ Canonical (s.part .host) := by simp [recordPowerFail]

@[simp] theorem recordPowerRestored_canonical :
    Canonical ((recordPowerRestored s).part .host) ↔ Canonical (s.part .host) := by
  unfold recordPowerRestored
  split <;> simp

@[simp] theorem recordSleep_canonical (c : Nat) (holders : Bytes) :
    Canonical ((recordSleep s c holders).part .host) ↔ Canonical (s.part .host) := by simp [recordSleep]

@[simp] theorem loseIlk_canonical :
    Canonical ((loseIlk s).part .host) ↔ Canonical (s.part .host) := by simp [loseIlk]

@[simp] theorem releaseHawk_canonical :
    Canonical ((releaseHawk s).part .host) ↔ Canonical (s.part .host) := by simp [releaseHawk]

@[simp] theorem receiveGrant_canonical (u e : Nat) :
    Canonical ((receiveGrant s u e).part .host) ↔ Canonical (s.part .host) := by simp [receiveGrant]

@[simp] theorem leaveLineKeeping_canonical (src : Nat) :
    Canonical ((leaveLineKeeping s src).part .host) ↔ Canonical (s.part .host) := by simp [leaveLineKeeping]

@[simp] theorem closeForSleep_canonical (c : Nat) :
    Canonical ((closeForSleep s c).part .host) ↔ Canonical (s.part .host) := by simp [closeForSleep]

@[simp] theorem countFalseWake_canonical :
    Canonical ((countFalseWake s).part .host) ↔ Canonical (s.part .host) := by simp [countFalseWake]

@[simp] theorem sendGrantTo_canonical (e : Entry) :
    Canonical ((sendGrantTo s e).part .host) ↔ Canonical (s.part .host) := by
  unfold sendGrantTo
  split <;> simp

@[simp] theorem roleGrants_canonical :
    Canonical ((roleGrants s).part .host) ↔ Canonical (s.part .host) := by simp [roleGrants]

@[simp] theorem logStart_canonical :
    Canonical ((logStart s).part .host) ↔ Canonical (s.part .host) := by simp [logStart]

@[simp] theorem frameErr_canonical :
    Canonical ((frameErr s).part .host) ↔ Canonical (s.part .host) := by simp [frameErr]

@[simp] theorem writeOwn_canonical (r : Ring) (k : Nat) (w : Word32) :
    Canonical ((writeOwn s r k w).part .host) ↔ Canonical (s.part .host) := by simp [writeOwn]

@[simp] theorem writeRingWord_canonical (r : Ring) (a : Nat) (w : Word32) :
    Canonical ((writeRingWord s r a w).part .host) ↔ Canonical (s.part .host) := by
  unfold writeRingWord
  (repeat' split) <;> simp

@[simp] theorem readTrainTime_canonical :
    Canonical ((readTrainTime s).1.part .host) ↔ Canonical (s.part .host) := by simp [readTrainTime]

@[simp] theorem hostRead_canonical (a : Nat) :
    Canonical ((hostRead s a).1.part .host) ↔ Canonical (s.part .host) := by
  unfold hostRead
  (repeat' split) <;> simp

@[simp] theorem writeIntStatus_canonical (w : Word32) :
    Canonical ((writeIntStatus s w).part .host) ↔ Canonical (s.part .host) := Iff.rfl

@[simp] theorem writeIntMask_canonical (w : Word32) :
    Canonical ((writeIntMask s w).part .host) ↔ Canonical (s.part .host) := Iff.rfl

@[simp] theorem hostReadOut_canonical (a : Nat) :
    Canonical ((hostReadOut s a).part .host) ↔ Canonical (s.part .host) := by simp [hostReadOut]

@[simp] theorem hostReads_canonical (a k : Nat) :
    Canonical ((hostReads s a k).1.part .host) ↔ Canonical (s.part .host) := by
  induction k generalizing s a with
  | zero => rfl
  | succ k ih => simp [hostReads, ih]

@[simp] theorem placeArrival_canonical (p : LinePort) (f : Frame) :
    Canonical ((placeArrival s p f).1.part .host) ↔ Canonical (s.part .host) := by
  unfold placeArrival
  extract_lets src
  by_cases a : ringOnArrival f <;> by_cases b : forOther s f <;> simp [a, b]

@[simp] theorem takeArrival_canonical (p : LinePort) (f : Frame) :
    Canonical ((takeArrival s p f).part .host) ↔ Canonical (s.part .host) := by simp [takeArrival]

@[simp] theorem enqueueFirst_canonical (x : FarTxn) :
    Canonical ((enqueueFirst s x).part .host) ↔ Canonical (s.part .host) := by simp [enqueueFirst]

@[simp] theorem endCyclic_canonical (p : Nat) :
    Canonical ((endCyclic s p).part .host) ↔ Canonical (s.part .host) := by
  unfold endCyclic
  dsimp only
  (repeat' split) <;> simp

@[simp] theorem lateAccesses_canonical (sel : FarTxn → Bool) (k : Nat) :
    Canonical ((lateAccesses sel k s).part .host) ↔ Canonical (s.part .host) := by
  induction k generalizing s with
  | zero => rfl
  | succ k ih =>
    unfold lateAccesses
    split
    · rfl
    · simp [ih]

@[simp] theorem differingCore_canonical (core : Nat) (l : List LaneCmp) (clock : Nat) (par : List (BitVec 3)) :
    Canonical ((differingCore s core l clock par).part .host) ↔ Canonical (s.part .host) := by
  unfold differingCore
  dsimp only
  (repeat' split) <;> simp

@[simp] theorem restartSelfCheck_canonical (core : Nat) (l : List LaneCmp) (par : List (BitVec 3)) :
    Canonical ((restartSelfCheck s core l par).part .host) ↔ Canonical (s.part .host) := by
  unfold restartSelfCheck
  dsimp only
  (repeat' split) <;> simp

@[simp] theorem nameCore_canonical (core : Nat) (l : List LaneCmp) (clock : Nat) (parity : List (BitVec 3)) :
    Canonical ((nameCore s core l clock parity).part .host) ↔ Canonical (s.part .host) := by
  unfold nameCore
  dsimp only
  split <;> simp

end

/-! ### Resets empty the windows (R473) -/

section
variable (s : State)

@[simp] theorem mgmtDown_canonical : Canonical ((mgmtDown s).part .host) := ⟨rfl, rfl⟩

@[simp] theorem beginReset_canonical (cause : Nat) : Canonical ((beginReset s cause).part .host) := ⟨rfl, rfl⟩

@[simp] theorem powerLost_canonical : Canonical ((powerLost s).part .host) := ⟨rfl, rfl⟩

@[simp] theorem powerOn_canonical (upos : BitVec 3) (alarmLost : Bool) : Canonical
    ((powerOn s upos alarmLost).part .host) := ⟨rfl, rfl⟩

@[simp] theorem leaveSleep_canonical (src : Nat) : Canonical ((leaveSleep s src).part .host) := by simp [leaveSleep]

@[simp] theorem stopForSleep_canonical (c : Nat) : Canonical ((stopForSleep s c).part .host) := by simp [stopForSleep]

@[simp] theorem enterSleep_canonical (c : Nat) : Canonical ((enterSleep s c).part .host) := by simp [enterSleep]

end

/-! ### Replies, and words that the host writes (R465, R471) -/

section
variable {s : State} (h : Canonical (s.part .host))
include h

@[simp] theorem requestWake_canonical (src : Nat) (wide relayed : Bool) : Canonical
    ((requestWake s src wide relayed).part .host) := by
  unfold requestWake
  (repeat' split) <;> simp [h]

@[simp] theorem actOnLatch_canonical : Canonical ((actOnLatch s).part .host) := by
  unfold actOnLatch
  split <;> simp [h]

@[simp] theorem placeReply_canonical (r : Bytes) : Canonical ((placeReply s r).part .host) := by
  unfold placeReply
  split
  · exact h
  · exact ⟨h.1, Mem.writeN_wf 0 r rfl⟩

@[simp] theorem sendReply_canonical (x : Session) (tag : Nat) (r : Bytes) : Canonical
    ((sendReply s x tag r).part .host) := by
  unfold sendReply
  split <;> simp [h]

@[simp] theorem refuse_canonical (x : Session) (tag : Nat) (head : Bytes) (st : Nat) : Canonical
    ((refuse s x tag head st).part .host) := by simp [refuse, h]

@[simp] theorem reply_canonical (p : Packet) (st : Nat) (data : Bytes) : Canonical
    ((reply s p st data).part .host) := by simp [reply, h]

@[simp] theorem acceptRequest_canonical (r : OpSpec) (p : Packet) : Canonical ((acceptRequest s r p).part .host) := by
  unfold acceptRequest
  dsimp only
  (repeat' split) <;> simp [h]

@[simp] theorem acceptBytes_canonical (x : Session) (tag : Nat) (quiet : Bool) (b : Bytes) : Canonical
    ((acceptBytes s x tag quiet b).part .host) := by
  unfold acceptBytes
  dsimp only
  (repeat' split) <;> simp [h]

@[simp] theorem offered_canonical (op : Nat) (p : Packet) : Canonical ((offered op p s).part .host) := by
  unfold offered
  (repeat' split) <;> simp [h]

@[simp] theorem serve_canonical (op : Nat) (p : Packet) (act : State → State) (ha : ∀ s, Canonical
    (s.part .host) → Canonical ((act s).part .host)) : Canonical ((serve op p act s).part .host) := by
  unfold serve
  (repeat' split) <;> simp [h, ha]

@[simp] theorem trdpCommand_canonical (t : TrdpIn) (quiet : Bool) : Canonical ((trdpCommand s t quiet).part .host) := by
  simp [trdpCommand, h]

@[simp] theorem serveRead_canonical (p : Packet) : Canonical ((serveRead s p).part .host) := by
  unfold serveRead
  dsimp only
  (repeat' split) <;> simp [h]

@[simp] theorem postMessage_canonical (p : Packet)
    (slot targetKind logKind typ target value logTarget : Nat) : Canonical
    ((postMessage s p slot targetKind logKind typ target value logTarget).part .host) := by
  unfold postMessage
  split <;> simp [h]

@[simp] theorem postSignal_canonical (p : Packet) (id : Nat) : Canonical ((postSignal s p id).part .host) := by
  unfold postSignal
  (repeat' split) <;> simp [h]

@[simp] theorem passBridge_canonical (p : Packet) : Canonical ((passBridge s p).part .host) := by simp [passBridge, h]

@[simp] theorem atComposing_canonical (p : Packet) (act : State → State) (ha : ∀ s, Canonical
    (s.part .host) → Canonical ((act s).part .host)) : Canonical ((atComposing s p act).part .host) := by
  unfold atComposing
  split <;> simp [h, ha]

@[simp] theorem beginTransfer_canonical (family : Nat) (p : Packet) : Canonical
    ((beginTransfer family p s).part .host) := by
  unfold beginTransfer
  dsimp only
  (repeat' split) <;> simp [h]

@[simp] theorem noTransfer_canonical (family : Nat) (p : Packet) : Canonical ((noTransfer s family p).part .host) := by
  unfold noTransfer
  split <;> simp [h]

@[simp] theorem chunkTransfer_canonical (family : Nat) (p : Packet) : Canonical
    ((chunkTransfer family p s).part .host) := by
  unfold chunkTransfer
  split <;> simp [h]

omit h in
theorem loadKind_host {t : Transfer} {u : State} {m : Nat} (hk : loadKind s t = .ok (u, m)) :
    u.part .host = s.part .host := by
  unfold loadKind loadRoute loadSchedule loadEvents loadEquations loadSerial loadProfile loadGates loadImage at hk
  dsimp only at hk
  (repeat' split at hk) <;> cases hk <;> simp

@[simp] theorem finishTransfer_canonical (family : Nat) (p : Packet) : Canonical
    ((finishTransfer family p s).part .host) := by
  unfold finishTransfer
  dsimp only
  split
  · simp [h]
  · split
    · simp [h]
    · split
      · simp [h]
      · split
        · simp [h]
        · next u m hk => simp [loadKind_host hk, h]

@[simp] theorem selectSpare_canonical (p : Packet) (kind : Nat) : Canonical ((selectSpare s p kind).part .host) := by
  simp [selectSpare, h]

@[simp] theorem takeCommand_canonical : Canonical ((takeCommand s).part .host) := by simp [takeCommand, h]

@[simp] theorem writeCmdCtrl_canonical (w : Word32) : Canonical ((writeCmdCtrl s w).part .host) := by
  simp [writeCmdCtrl, h]

@[simp] theorem releaseReply_canonical : Canonical ((releaseReply s).part .host) := by
  unfold releaseReply
  dsimp only
  (repeat' split) <;> simp [h]

@[simp] theorem writeReplyCtrl_canonical (w : Word32) : Canonical ((writeReplyCtrl s w).part .host) := by
  simp [writeReplyCtrl, h]

@[simp] theorem writeCmdWin_canonical (k : Nat) (w : Word32) : Canonical ((writeCmdWin s k w).part .host) := by
  unfold writeCmdWin
  split
  · simp [h]
  · exact ⟨Mem.writeN_wf _ _ h.1, h.2⟩

@[simp] theorem hostWrite_canonical (a : Nat) (w : Word32) : Canonical ((hostWrite s a w).part .host) := by
  unfold hostWrite
  (repeat' split) <;> simp [h]

@[simp] theorem hostWrites_canonical (a : Nat) (l : List Word32) : Canonical ((hostWrites s a l).part .host) := by
  induction l generalizing s a with
  | nil => exact h
  | cons w ws ih => exact ih (hostWrite_canonical h a w) _

@[simp] theorem postRoute_canonical (p : Packet) (i : Nat) : Canonical ((postRoute s p i).part .host) := by
  unfold postRoute
  dsimp only
  (repeat' split) <;> simp [h]

@[simp] theorem inSplit_canonical (p : Packet) (act : State → SplitSt → State) (ha : ∀ s x, Canonical
    (s.part .host) → Canonical ((act s x).part .host)) : Canonical ((inSplit s p act).part .host) := by
  unfold inSplit
  split <;> simp [h, ha]

@[simp] theorem replyCount_canonical (p : Packet) : Canonical ((replyCount s p).part .host) := by simp [replyCount, h]

@[simp] theorem sendCommand_canonical (op : Nat) (items : List Tlv) : Canonical
    ((sendCommand s op items).part .host) := by simp [sendCommand, h]

@[simp] theorem runLine_canonical (line : Bytes) : Canonical ((runLine s line).part .host) := by
  unfold runLine
  split <;> simp [h]

@[simp] theorem collectReplay_canonical : Canonical ((collectReplay s).part .host) := by
  unfold collectReplay
  split <;> simp [h]

@[simp] theorem packetFrame_canonical (b : Bytes) : Canonical ((packetFrame s b).part .host) := by simp [packetFrame, h]

@[simp] theorem packetByte_canonical (b : Byte) : Canonical ((packetByte s b).part .host) := by simp [packetByte, h]

@[simp] theorem readLine_canonical : Canonical ((readLine s).part .host) := by
  unfold readLine
  split <;> simp [h]

@[simp] theorem queueRemote_canonical (p : Packet) : Canonical ((queueRemote p s).part .host) := by
  unfold queueRemote
  split <;> simp [h]

end

/-! ### Rows that act on what has arrived (R46, R229, R231, R273, R302) -/

section
variable {s : State} (h : Canonical (s.part .host)) {act : State → State}
  (ha : ∀ u, Canonical (u.part .host) → Canonical ((act u).part .host))
include h ha

theorem deliver_canonical (p : LinePort) (f : Frame) : Canonical ((deliver s p f act).part .host) := by
  unfold deliver
  split <;> simp [h, ha]

theorem takeMessage_canonical (f : Frame) (kind : Nat) : Canonical ((takeMessage s f kind act).part .host) := by
  unfold takeMessage
  split <;> simp [h, ha]

theorem sequenced_canonical (f : Frame) : Canonical ((sequenced s f act).part .host) := by
  unfold sequenced
  dsimp only
  (repeat' split) <;> simp [h, ha]

theorem trdpHeader_canonical (m : TrdpIn) : Canonical ((trdpHeader s m act).part .host) := by
  unfold trdpHeader
  (repeat' split) <;> simp [h, ha]

theorem takeCan_canonical (c : Nat) (sel : CanIn → Bool) : Canonical ((takeCan s c sel act).part .host) := by
  unfold takeCan
  split <;> simp [h, ha]

/-- A bridge message that its kind's row takes in sequence. -/
theorem takeSequenced_canonical (f : Frame) (kind : Nat) :
    Canonical ((takeMessage s f kind (fun u => sequenced u f act)).part .host) :=
  takeMessage_canonical h (fun _ hu => sequenced_canonical hu ha f) f kind

end

theorem hostAccess_canonical {s : State} {act : State → State} (h : Canonical (s.part .host))
    (ha : Canonical ((act s).part .host)) : Canonical ((hostAccess s act).part .host) := by
  unfold hostAccess
  split <;> simp [h, ha]

section
variable {s t : State} (h : Canonical (s.part .host))
include h

theorem delayResponseDelivered_canonical {p : LinePort} {f : Frame} {t4 : Int}
    (e : exec (.delayResponseDelivered p f t4) s = .next t) : Canonical (t.part .host) := by
  obtain rfl := Host.Outcome.next.inj e
  refine deliver_canonical h (fun u hu => ?_) p f
  dsimp only
  (repeat' split) <;> simp [hu]

theorem messageFrameDelivered_canonical {p : LinePort} {f : Frame} (e : exec (.messageFrameDelivered p f) s = .next t) :
    Canonical (t.part .host) := by
  obtain rfl := Host.Outcome.next.inj e
  refine deliver_canonical h (fun u hu => ?_) p f
  dsimp only
  split <;> simp [hu]

theorem postedWriteMessage_canonical {f : Frame} (e : exec (.postedWriteMessage f) s = .next t) :
    Canonical (t.part .host) := by
  obtain rfl := Host.Outcome.next.inj e
  refine takeSequenced_canonical h (fun u hu => ?_) f 1
  dsimp only
  (repeat' split) <;> simp [hu]

theorem readRequestMessage_canonical {f : Frame} (e : exec (.readRequestMessage f) s = .next t) :
    Canonical (t.part .host) := by
  obtain rfl := Host.Outcome.next.inj e
  refine takeSequenced_canonical h (fun u hu => ?_) f 2
  dsimp only
  (repeat' split) <;> simp [hu]

theorem farErrorMessage_canonical {f : Frame} (e : exec (.farErrorMessage f) s = .next t) : Canonical (t.part .host) := by
  obtain rfl := Host.Outcome.next.inj e
  refine takeSequenced_canonical h (fun u hu => ?_) f 4
  dsimp only
  (repeat' split) <;> simp [hu]

theorem semaphoreMessage_canonical {f : Frame} (e : exec (.semaphoreMessage f) s = .next t) : Canonical (t.part .host) := by
  obtain rfl := Host.Outcome.next.inj e
  refine takeSequenced_canonical h (fun u hu => ?_) f 6
  dsimp only
  (repeat' split) <;> simp [hu]

theorem remoteCommandMessage_canonical {f : Frame} (e : exec (.remoteCommandMessage f) s = .next t) :
    Canonical (t.part .host) := by
  obtain rfl := Host.Outcome.next.inj e
  refine takeMessage_canonical h (fun u hu => ?_) f 7
  unfold reassemble
  dsimp only
  split <;> simp [hu]

theorem remotePacketIncomplete_canonical {chan tag : Nat} (e : exec (.remotePacketIncomplete chan tag) s = .next t) :
    Canonical (t.part .host) := by
  obtain rfl := Host.Outcome.next.inj e
  refine foldl_canonical_of (fun u r hu => ?_) h
  (repeat' split) <;> simp [hu]

theorem skimReadHeldAnswer_canonical (e : exec .skimReadHeldAnswer s = .next t) : Canonical (t.part .host) := by
  obtain rfl := Host.Outcome.next.inj e
  refine foldl_canonical_of (fun u x hu => ?_) h
  split <;> simp [hu]

theorem skimReadTimeout_canonical (e : exec .skimReadTimeout s = .next t) : Canonical (t.part .host) := by
  obtain rfl := Host.Outcome.next.inj e
  exact foldl_canonical_of (fun u x hu => reply_canonical hu _ _ _) h

theorem trdpMrReceived_canonical {m : TrdpIn} (e : exec (.trdpMrReceived m) s = .next t) : Canonical (t.part .host) := by
  obtain rfl := Host.Outcome.next.inj e
  refine trdpHeader_canonical h (fun u hu => ?_) m
  split <;> simp [hu]

theorem trdpMnReceived_canonical {m : TrdpIn} (e : exec (.trdpMnReceived m) s = .next t) : Canonical (t.part .host) := by
  obtain rfl := Host.Outcome.next.inj e
  refine trdpHeader_canonical h (fun u hu => ?_) m
  split <;> simp [hu]

theorem trdpReplyReceived_canonical {m : TrdpIn} (e : exec (.trdpReplyReceived m) s = .next t) :
    Canonical (t.part .host) := by
  obtain rfl := Host.Outcome.next.inj e
  refine trdpHeader_canonical h (fun u hu => ?_) m
  dsimp only
  (repeat' split) <;> simp [hu]

theorem sdoResponseReceived_canonical {c node : Nat} {data : Bytes} (e : exec (.sdoResponseReceived c node data) s = .next t) :
    Canonical (t.part .host) := by
  obtain rfl := Host.Outcome.next.inj e
  refine takeCan_canonical h (fun u hu => ?_) c _
  split <;> simp [hu]

theorem replayComplete_canonical {mismatch : Bool} {count lane : Nat}
    (e : exec (.replayComplete mismatch count lane) s = .next t) : Canonical (t.part .host) := by
  obtain rfl := Host.Outcome.next.inj e
  dsimp only
  split
  · exact h
  · exact collectReplay_canonical (by simp [h])

theorem opSkimWrite_canonical {p : Packet} (e : exec (.opSkimWrite p) s = .next t) : Canonical (t.part .host) := by
  obtain rfl := Host.Outcome.next.inj e
  refine serve_canonical h _ p _ (fun u hu => ?_)
  have hpost (id : Nat) : Canonical ((atComposing u p fun v => postSignal v p id).part .host) :=
    atComposing_canonical hu p _ (fun v hv => postSignal_canonical hv p id)
  (repeat' split) <;> simp [hu, hpost]

theorem opRetry_canonical {p : Packet} (e : exec (.opRetry p) s = .next t) : Canonical (t.part .host) := by
  obtain rfl := Host.Outcome.next.inj e
  refine serve_canonical h _ _ _ fun u hu => ?_
  dsimp only
  split
  · split <;> simp [hu]
  · exact atComposing_canonical hu p _ fun v hv => reply_canonical hv _ _ _

end

/-! ### The commands -/

/-- The commands that may write a command session too: the opcodes, which are served and answered, the ports where requests
come in, and the resets. -/
theorem exec_canonical_of_sessions {i : Instr} {s t : State} (hi : (writesPart i .host && writesPart i .cmd) = true)
    (e : exec i s = .next t) (h : Canonical (s.part .host)) : Canonical (t.part .host) := by
  cases i with
  | resetNAsserted | managementWatchdogExpiry | internalSupplyFail | converterOvervoltageStop | converterOvertempStop
  | sleepEntry | falseWake | lineKeepingEntry | trialTimeout | monitorLine | packetModeFrame
  | monitorCharacterReceived =>
    obtain rfl := Host.Outcome.next.inj e
    simp [h]
  | resetCommand =>
    obtain rfl := Host.Outcome.next.inj e
    (repeat' split) <;> simp [h]
  | cmdCtrlWrite | replyCtrlWrite | w1cBitWrite | hostRegisterWrite =>
    obtain rfl := Host.Outcome.next.inj e
    exact hostAccess_canonical h (by simp [h])
  | opIdentity | opStatus | opTime | opSkimRead | opSkimDescriptor | opPinRelease | opForceRelease | opSnapshotTake
  | opSnapshotRead | opSnapshotLock | opSnapshotUnlock | opRouteRead | opRouteStatus | opRouteTransferBegin
  | opRouteTransferChunk | opRouteTransferFinish | opRouteDiscardStaged | opCycleStatus | opScheduleRead | opStep
  | opEventRead | opScheduleEventTransferBegin | opScheduleEventTransferChunk | opScheduleEventTransferFinish
  | opSetoutTable | opSetoutStatus | opRenumber | opFarNumbering | opPowerStatus | opStayAwake | opWakeAll
  | opAlarmRead | opHoldersRead | opHoldersClear | opPairStatus | opHandover | opRoleGrant | opSafeStatusRead
  | opMismatchLog | opOutputFaultClear | opEquationStatus | opEquationTransferBegin | opEquationTransferChunk
  | opEquationTransferFinish | opRecorderRead | opRecorderStats | opRecorderStatus | opImageStatus
  | opImageTransferBegin | opImageTransferChunk | opImageTransferFinish | opImageActivate | opImageRollback
  | opChannelRead | opChannelWrite | opProfileGateTransferBegin | opProfileGateTransferChunk
  | opProfileGateTransferFinish | opSerialProgramTransferBegin | opSerialProgramTransferChunk
  | opSerialProgramTransferFinish | opEndpointClose | opRegisterRead | opSplitEnter =>
    obtain rfl := Host.Outcome.next.inj e
    exact serve_canonical h _ _ _ fun u hu => by simp [hu]
  | opForce | opComplexReset | opKeyEnrol | opCanopenNodes | opEndpointOpen =>
    obtain rfl := Host.Outcome.next.inj e
    refine serve_canonical h _ _ _ fun u hu => ?_
    (repeat' split) <;> simp [hu]
  | opPinTake | opPinRenew | opRouteEdit | opAlarmWrite | opVportStatus | opFieldStatus | opRegisterWrite
  | opCx320Counters =>
    obtain rfl := Host.Outcome.next.inj e
    refine serve_canonical h _ _ _ fun u hu => ?_
    dsimp only
    (repeat' split) <;> simp [hu]
  | opPostedWrite | opLockedSequence | opSemaphore | opErrorLog | opRemoteCommand =>
    obtain rfl := Host.Outcome.next.inj e
    refine serve_canonical h _ _ _ fun u hu => atComposing_canonical hu _ _ fun v hv => ?_
    (repeat' split) <;> simp [hv]
  | opRead =>
    obtain rfl := Host.Outcome.next.inj e
    refine serve_canonical h _ _ _ fun u hu => atComposing_canonical hu _ _ fun v hv => ?_
    dsimp only
    (repeat' split) <;> simp [hv]
  | opSplitLeave | opCoreHalt | opCoreStep | opCoreRun | opCoreRead | opCoreWrite | opReplay =>
    obtain rfl := Host.Outcome.next.inj e
    refine serve_canonical h _ _ _ fun u hu => inSplit_canonical hu _ _ fun v x hv => ?_
    (repeat' split) <;> simp [hv]
  | remoteCommandMessage => exact remoteCommandMessage_canonical h e
  | remotePacketIncomplete => exact remotePacketIncomplete_canonical h e
  | skimReadHeldAnswer => exact skimReadHeldAnswer_canonical h e
  | skimReadTimeout => exact skimReadTimeout_canonical h e
  | trdpMrReceived => exact trdpMrReceived_canonical h e
  | trdpMnReceived => exact trdpMnReceived_canonical h e
  | replayComplete => exact replayComplete_canonical h e
  | opSkimWrite => exact opSkimWrite_canonical h e
  | opRetry => exact opRetry_canonical h e
  | _ => exact absurd hi Bool.false_ne_true

/-- The other commands that may write the host port. -/
theorem exec_canonical_of_no_session {i : Instr} {s t : State} (hi : (writesPart i .host && !writesPart i .cmd) = true)
    (e : exec i s = .next t) (h : Canonical (s.part .host)) : Canonical (t.part .host) := by
  cases i with
  | powerOnReset | scratchTestComplete | resetNReleased | powerFailWarning | powerRestored | converterRestart
  | cycleStartSend | holdoverEntry | coastingEntry | messageWindowStart | delayResponseTimeout | leaseLapse
  | absorbingTimeout | skimCommit | fedCommitTimeout | announcementRelease | farTransactionComplete | vportLinkDown
  | vehicleFrameReceived | channelReplyTimeout | channelFaultedPoll | channelResolved | ringDescriptorReturn | fNop
  | fLdi | fLdh | fMov | fAdd | fAddi | fSub | fAnd | fOr | fXor | fShl | fShr | fLd | fSt | fLdb | fStb | fCmp
  | fCmpi | fTmr | fTta | fPta | fWait | fIn | fOut | fTget | fTput | fTend | fCrc | fFault | fTime | fBr | fLoop
  | minorityDetected | noMajority | comparatorFault | resyncComplete | tcmScrub | commitMarkReceived
  | interlockReadingChange | switchback | grantExpiry | hawkFence | hawkRelease | wakePulseQualified
  | tc10WakeReceived | sleepEntryComplete | lineKeepingExit | recorderFlush | maintButtonPress =>
    obtain rfl := Host.Outcome.next.inj e
    simp [h]
  | cycleStartDelivered | commitCycleAdoption | bridgeTimeoutExpiry | semaphoreLeaseExpiry | semaphoreWaitExpiry
  | arpEntryAgeing | trdpReplyTimeout | stagingTimeout | serialBusCycleStart | sdoTimeout | roleWatchdogExpiry
  | roleTakeover | handoverSwitch | hawkTake | wakeInputActive | alarmFire | eventReported =>
    obtain rfl := Host.Outcome.next.inj e
    (repeat' split) <;> simp [h]
  | ready | farBusLockTaken | farBusLockExpiry | lockWaitExpiry | channelCyclicRequest | channelResponseReceived
  | channelOnDemandSend | serialTransactionHanded | checkpointWriteComplete | restartComplete =>
    obtain rfl := Host.Outcome.next.inj e
    dsimp only
    (repeat' split) <;> simp [h]
  | intStatusWrite | intMaskWrite | trainTimeHiRead | rcFieldRead =>
    obtain rfl := Host.Outcome.next.inj e
    exact hostAccess_canonical h (by simp [h])
  | delayResponseDelivered => exact delayResponseDelivered_canonical h e
  | messageFrameDelivered => exact messageFrameDelivered_canonical h e
  | postedWriteMessage => exact postedWriteMessage_canonical h e
  | readRequestMessage => exact readRequestMessage_canonical h e
  | farErrorMessage => exact farErrorMessage_canonical h e
  | semaphoreMessage => exact semaphoreMessage_canonical h e
  | trdpReplyReceived => exact trdpReplyReceived_canonical h e
  | sdoResponseReceived => exact sdoResponseReceived_canonical h e
  | _ => exact absurd hi Bool.false_ne_true

/-- Each command leaves both windows in canonical form. -/
theorem exec_canonical {i : Instr} {s t : State} (e : exec i s = .next t) (h : Canonical (s.part .host)) :
    Canonical (t.part .host) := by
  cases hhost : writesPart i .host with
  | false => exact exec_keeps_part hhost e ▸ h
  | true => cases hcmd : writesPart i .cmd with
    | true => exact exec_canonical_of_sessions (by simp [hhost, hcmd]) e h
    | false => exact exec_canonical_of_no_session (by simp [hhost, hcmd]) e h

/-- Settles O50: a tick leaves the host port, and each command leaves both windows in canonical form. -/
theorem hostWindowsStayCanonical : Obligations.HostWindowsStayCanonical := by
  unfold Obligations.HostWindowsStayCanonical
  simp only [windowsWf_iff]
  intro s t h e
  unfold step at e
  split at e
  · obtain rfl := Host.Outcome.next.inj e
    exact h
  · exact exec_canonical e h

end Sys2Proof.Proofs
end

section
/-! The sleep vote and the reason bitmap in a unit's supervision frame (R27, R55, R412, R413; log entry 164), and the
statement O53. -/

namespace Sys2Proof.Proofs

open Sys2Proof Sys2Proof.Machine

/-! ### The payload -/

theorem b2n_le_one (b : Bool) : b2n b ≤ 1 := by cases b <;> decide

theorem nine_bits_lt (a b c d e f g h i : Bool) : b2n a + 2 * b2n b + 4 * b2n c + 8 * b2n d + 16 * b2n e + 32 * b2n f +
    64 * b2n g + 128 * b2n h + 256 * b2n i < 512 := by
  have ha := b2n_le_one a
  have hb := b2n_le_one b
  have hc := b2n_le_one c
  have hd := b2n_le_one d
  have he := b2n_le_one e
  have hf := b2n_le_one f
  have hg := b2n_le_one g
  have hh := b2n_le_one h
  have hi := b2n_le_one i
  omega

/-- The nine reasons of R412 are bits 0 to 8. -/
theorem reasonBitmap_lt (s : State) : reasonBitmap s < 512 := by
  unfold reasonBitmap
  split
  · decide
  · exact nine_bits_lt ..

theorem sleepVote_lt (s : State) : sleepVote s < 256 := by
  unfold sleepVote
  (repeat' split) <;> decide

theorem field_supervision_vote (s : State) : field (supervisionPayload s) 4 1 = sleepVote s := by
  simp only [supervisionPayload, List.append_assoc]
  rw [field_be_at (be 4 (healthWord s)) _ 1 _ (length_be 4 _)]
  exact Nat.mod_eq_of_lt (sleepVote_lt s)

theorem field_supervision_bitmap (s : State) : field (supervisionPayload s) 8 4 = reasonBitmap s := by
  have hpre : (be 4 (healthWord s) ++ be 1 (sleepVote s) ++ zeros 3).length = 8 := by simp [zeros]
  rw [supervisionPayload, List.append_assoc, List.append_assoc, List.append_assoc, List.append_assoc, List.append_assoc,
    field_be_at _ _ 4 _ hpre]
  exact Nat.mod_eq_of_lt (Nat.lt_trans (reasonBitmap_lt s) (by decide))

/-- The island votes ready and has no reason (R27). -/
theorem field_island (s : State) : field (islandSupervision s) 4 1 = 1 ∧ field (islandSupervision s) 8 4 = 0 := by
  constructor
  · simp only [islandSupervision, List.append_assoc]
    exact field_be_at (be 4 s.start.health) _ 1 1 (length_be 4 _)
  · have hpre : (be 4 s.start.health ++ be 1 1 ++ zeros 3).length = 8 := by simp [zeros]
    rw [islandSupervision, List.append_assoc, List.append_assoc, List.append_assoc, List.append_assoc, List.append_assoc]
    exact field_be_at _ _ 4 0 hpre

theorem ownSupervision_awake {s : State} (h : awake s = true) : ownSupervision s = supervisionPayload s := if_pos h

theorem ownSupervision_island {s : State} (h : awake s = false) : ownSupervision s = islandSupervision s :=
  if_neg (by simp [h])

theorem ownSupervision_vote (s : State) : field (ownSupervision s) 4 1 =
    if field (ownSupervision s) 8 4 = 0 then 1 else if s.sleep.announced ≠ 0 then 2 else 0 := by
  cases h : awake s with
  | true => rw [ownSupervision_awake h, field_supervision_vote, field_supervision_bitmap]; rfl
  | false =>
    obtain ⟨hvote, hbitmap⟩ := field_island s
    rw [ownSupervision_island h, hvote, hbitmap, if_pos rfl]

theorem awake_of_lineKeeping {s : State} (h : s.sleep.power = .lineKeeping) : awake s = false := by simp [awake, h]

/-! ### The frame -/

/-- What the slot's set-out frame settles neither leaves nor waits on a line. -/
theorem sent_slotExtra {s t : State} {ports : List LinePort} {f : Frame} (h : Sent s t ports f) :
    Sent s (slotExtra t) ports f := by
  unfold slotExtra
  split
  · exact h
  · next ftype b _ =>
    have hsent : Sent s (originate t ftype 0 8 b) ports f := sent_transmit_of_sent h _ _
    have hout : (slotSettled (originate t ftype 0 8 b) ftype b).out = (originate t ftype 0 8 b).out :=
      slotSettled_only _ _ _ .out (by decide)
    have hline : (slotSettled (originate t ftype 0 8 b) ftype b).line = (originate t ftype 0 8 b).line :=
      slotSettled_only _ _ _ .line (by decide)
    exact sent_mono hsent (fun o ho => hout ▸ ho) (fun p x hx => hline ▸ hx)

theorem attached_originate (s : State) (ftype channel extra : Nat) (payload : Bytes) :
    attached (originate s ftype channel extra payload) = attached s := rfl

theorem supervisionSlotStart_sends {s : State} (horig : mayOriginate s = true) (hslot : hasSupSlot s = true)
    (hatt : attached s = true) : Answers .supervisionSlotStart s (fun t => Sent s t (openPorts s)
      (newFrame s 10 0 (if (slotFrame s).isNone then 8 else 0) (ownSupervision s))) := by
  have hcyc : inCycle s = true := by
    simp only [mayOriginate, Bool.and_eq_true] at horig
    obtain ⟨⟨⟨⟨⟨hcyc, _⟩, _⟩, _⟩, _⟩, _⟩ := horig
    exact hcyc
  have htrack : mayOriginate (trackLineKeeping s) = true := horig
  have hatt1 : attached (trackLineKeeping s) = true := hatt
  refine .intro (congrArg Host.Outcome.next (if_neg (by simp [hcyc, hslot]))) ?_
  dsimp only
  simp only [htrack, hatt1, Bool.not_true, Bool.false_eq_true, if_false, if_true]
  rw [attached_originate, if_pos (show attached (keepSup (trackLineKeeping s)) = true from hatt)]
  exact sent_slotExtra (sent_originate (keepSup (trackLineKeeping s)) ..)

/-- Settles O53: the payload's two fields, and the frame of a unit in LINE_KEEPING. -/
theorem sleepVotesFollowTheBitmap : Obligations.SleepVotesFollowTheBitmap := by
  unfold Obligations.SleepVotesFollowTheBitmap
  refine ⟨ownSupervision_vote, ?awake, ?lineKeeping⟩
  case awake =>
    intro s h
    rw [ownSupervision_awake h, field_supervision_bitmap]
  case lineKeeping =>
    intro s h
    obtain ⟨hvote, hbitmap⟩ := field_island s
    rw [ownSupervision_island (awake_of_lineKeeping h)]
    refine ⟨hvote, hbitmap, fun horig hslot hatt => ?_⟩
    rw [← ownSupervision_island (awake_of_lineKeeping h)]
    exact supervisionSlotStart_sends horig hslot hatt

end Sys2Proof.Proofs
end

section
/-! The confirmation of a trial (R489), and the statement O54. -/

namespace Sys2Proof.Proofs

open Sys2Proof Sys2Proof.Machine

/-! ### The banks of one kind -/

theorem bank_put_self (b : Banks) (i : Nat) (x : Bank) : (b.put i x).bank i = x := by
  cases i <;> rfl

theorem bank_put_other (b : Banks) (i : Nat) (x : Bank) : (b.put i x).bank (1 - i) = b.bank (1 - i) := by
  cases i with
  | zero => rfl
  | succ n => simp [Banks.put, Banks.bank]

theorem bank_put_of_other (b : Banks) (i : Nat) (x : Bank) : (b.put (1 - i) x).bank i = b.bank i := by
  cases i with
  | zero => rfl
  | succ n => simp [Banks.put, Banks.bank]

theorem running_put (b : Banks) (i : Nat) (x : Bank) : (b.put i x).running = b.running := by
  unfold Banks.put
  split <;> rfl

/-- No trial runs in the banks of a kind once they are confirmed. -/
theorem confirm_no_trial (b : Banks) : (b.confirm.bank b.confirm.running).state ≠ .trial := by
  by_cases htrial : (b.bank b.running).state = .trial
  · rw [Banks.confirm, if_neg (by simp [htrial])]
    show (((b.put b.running _).put (1 - b.running) _).bank (((b.put b.running _).put (1 - b.running) _).running)).state ≠ _
    rw [running_put, running_put, bank_put_of_other, bank_put_self]
    exact (nomatch ·)
  · rw [Banks.confirm, if_pos htrial]
    exact htrial

/-- The banks of a kind in trial, once confirmed (R489). -/
theorem confirm_trial {b : Banks} (htrial : (b.bank b.running).state = .trial) :
    (b.confirm.bank b.running).state = .active ∧ (b.confirm.bank b.running).image = (b.bank b.running).image ∧
      ((b.bank (1 - b.running)).state = .active → (b.confirm.bank (1 - b.running)).state = .loaded) ∧
      b.confirm.running = b.running ∧ b.confirm.floor = max b.floor (imgFloor (b.bank b.running).image) := by
  have hself : b.confirm.bank b.running = { b.bank b.running with state := .active } := by
    rw [Banks.confirm, if_neg (by simp [htrial])]
    exact (bank_put_of_other _ _ _).trans (bank_put_self _ _ _)
  have hother : b.confirm.bank (1 - b.running) = if (b.bank (1 - b.running)).state = .active then
      { b.bank (1 - b.running) with state := .loaded } else b.bank (1 - b.running) := by
    rw [Banks.confirm, if_neg (by simp [htrial])]
    exact bank_put_self _ _ _
  refine ⟨by rw [hself], by rw [hself], fun hactive => by rw [hother, if_pos hactive], ?_, ?_⟩
  · rw [Banks.confirm, if_neg (by simp [htrial])]
    exact (running_put _ _ _).trans (running_put _ _ _)
  · rw [Banks.confirm, if_neg (by simp [htrial])]

/-! ### The row -/

/-- The trial has held: 256 joined cycles, or 60 s of READY with no committed train. -/
theorem trialConfirmed_confirms {s : State} {r : Nat} (htrial : inTrial s = true) (hm : managing s = true)
    (hscratch : s.safe.scratchFail = false) (hvoted : s.img.votedApplied = true) (hready : s.img.readyAt = some r)
    (hheld : 256 ≤ s.img.joinedRun ∨ s.set.state ≠ .committed ∧ r + 60000000000 ≤ s.clk)
    (hlimit : s.clk ≤ s.img.releasedAt + 120000000000) : exec .trialConfirmed s =
      .next { s with img := { s.img with fw := s.img.fw.confirm, cf := s.img.cf.confirm } } := by
  refine congrArg Host.Outcome.next (if_pos ⟨htrial, hm, by simp [hscratch], hvoted, ?_, hlimit⟩)
  rw [hready]
  simpa using hheld

theorem trialConfirmed_keeps {s : State} (h : inTrial s = false ∨ managing s = false ∨ s.safe.scratchFail = true ∨
    s.img.votedApplied = false ∨ s.img.readyAt = none ∨ s.img.releasedAt + 120000000000 < s.clk) :
    exec .trialConfirmed s = .next s := by
  refine congrArg Host.Outcome.next (if_neg ?_)
  rintro ⟨htrial, hm, hscratch, hvoted, hheld, hlimit⟩
  rcases h with h | h | h | h | h | h
  · simp [h] at htrial
  · simp [h] at hm
  · simp [h] at hscratch
  · simp [h] at hvoted
  · simp [h] at hheld
  · omega

/-- Settles O54: the row confirms the banks of both kinds, of which `confirm_trial` says what becomes of them. -/
theorem trialsAreConfirmedWhenTheyHold : Obligations.TrialsAreConfirmedWhenTheyHold := by
  unfold Obligations.TrialsAreConfirmedWhenTheyHold
  refine ⟨?confirmed, fun s h => trialConfirmed_keeps h⟩
  rintro s htrial hm hscratch hvoted ⟨r, hready, hheld⟩ hlimit
  refine .intro (trialConfirmed_confirms htrial hm hscratch hvoted hready hheld hlimit) ⟨?_, ?_⟩
  · simp [inTrial, confirm_no_trial]
  · rintro k b rfl (rfl | rfl) hb
    · exact confirm_trial hb
    · exact confirm_trial hb

end Sys2Proof.Proofs
end

section
/-! The comparator's agreement signals, its outcome of a lane and of a clock, and the voted value (R331, R334, R335), and the
statement O55. -/

namespace Sys2Proof.Proofs

open Sys2Proof Sys2Proof.Machine

/-! ### The agreement signals of a lane -/

theorem rail_eq (c : Bool) (flip : BitVec 2) : rail c flip = (if c = true then 0b01#2 else 0b10#2) ^^^ flip := rfl

/-- Two cores agree on a lane where their values are equal and neither has a parity error. -/
theorem laneRails_eq (x : LaneCmp) (p : BitVec 3) : laneRails x p =
    ((if x.a = x.b ∧ p.getLsbD 0 = false ∧ p.getLsbD 1 = false then 0b01#2 else 0b10#2) ^^^ x.ab,
     (if x.b = x.c ∧ p.getLsbD 1 = false ∧ p.getLsbD 2 = false then 0b01#2 else 0b10#2) ^^^ x.bc,
     (if x.c = x.a ∧ p.getLsbD 2 = false ∧ p.getLsbD 0 = false then 0b01#2 else 0b10#2) ^^^ x.ca) := by
  simp only [laneRails, rail_eq, Bool.and_eq_true, beq_iff_eq, Bool.not_eq_true', and_assoc]

/-! ### The outcome of a lane -/

/-- Sound signals follow from which cores agree: agreement of two pairs is agreement of the third. -/
theorem laneVerdict_of_transitive : ∀ ab bc ca : Bool, (ab && bc → ca) → (bc && ca → ab) → (ca && ab → bc) →
    laneVerdict (rail ab 0, rail bc 0, rail ca 0) ≠ .fault := by decide

theorem laneVerdict_sound {x : LaneCmp} {p : BitVec 3} (hab : x.ab = 0) (hbc : x.bc = 0) (hca : x.ca = 0) :
    laneVerdict (laneRails x p) ≠ .fault := by
  unfold laneRails
  rw [hab, hbc, hca]
  apply laneVerdict_of_transitive <;> grind

/-- Two agreements without the third, or a pair that is no code, are a fault of the comparator. -/
theorem laneVerdict_fault : ∀ ab bc ca : BitVec 2,
    ((ab = 0b01 ∧ bc = 0b01 ∧ ca = 0b10) ∨ (ab = 0b01 ∧ bc = 0b10 ∧ ca = 0b01) ∨ (ab = 0b10 ∧ bc = 0b01 ∧ ca = 0b01) ∨
      (∃ r ∈ [ab, bc, ca], r = 0b00 ∨ r = 0b11)) → laneVerdict (ab, bc, ca) = .fault := by decide

/-- Without a majority there is no voted value. -/
theorem votedValue_of_fault {x : LaneCmp} {p : BitVec 3} (h : laneVerdict (laneRails x p) = .fault) :
    votedValue x p = none := by
  rw [votedValue, h]

/-! ### The outcome of a clock in voted mode -/

/-- The outcomes of a clock's lanes, in order. -/
def laneVerdicts (l : List LaneCmp) (par : List (BitVec 3)) : List Vote :=
  (lanesOf l par).map (fun x => laneVerdict (laneRails x.2.1 x.2.2))

/-- What the outcome `o` of a clock is by the outcomes `vs` of its lanes. -/
inductive ClockOutcome (vs : List Vote) (o : Vote) : Prop where
  | fault (h : .fault ∈ vs) (ho : o = .fault)
  | noMajority (hf : .fault ∉ vs) (h : .noMajority ∈ vs) (ho : o = .noMajority)
  | agree (h : ∀ v ∈ vs, v = .agree) (ho : o = .agree)
  | differ (hf : .fault ∉ vs) {x y : Vote} (hx : x ∈ vs) (hy : y ∈ vs) (hxa : x ≠ .agree) (hya : y ≠ .agree) (hxy : y ≠ x)
      (ho : o = .noMajority)
  | one (hf : .fault ∉ vs) (hn : .noMajority ∉ vs) {x : Vote} (hx : x ∈ vs) (hxa : x ≠ .agree)
      (h : ∀ v ∈ vs, v = .agree ∨ v = x) (ho : o = x)

section
variable {α : Type} {f : α → Vote} {q : Vote → Bool} {l : List α}

theorem verdict_found {x : α} (h : l.find? (fun x => q (f x)) = some x) : f x ∈ l.map f ∧ q (f x) = true :=
  ⟨List.mem_map_of_mem (List.mem_of_find?_eq_some h), List.find?_some (p := fun x => q (f x)) h⟩

theorem verdict_not_found (h : l.find? (fun x => q (f x)) = none) : ∀ v ∈ l.map f, q v = false := by
  intro v hv
  obtain ⟨x, hx, rfl⟩ := List.mem_map.mp hv
  exact Bool.eq_false_iff.mpr (List.find?_eq_none.mp h x hx)

theorem verdict_absent {v : Vote} (h : l.find? (fun x => f x == v) = none) : v ∉ l.map f := fun hv => by
  simpa using verdict_not_found (q := (· == v)) h v hv

end

/-- The outcome of a lane that carries its code, its signals and its `PARITY` mark. -/
def outcomeOf (x : Nat × (BitVec 2 × BitVec 2 × BitVec 2) × Bool) : Vote := laneVerdict x.2.1

theorem voteLanes_outcome (l : List LaneCmp) (par : List (BitVec 3)) :
    ClockOutcome (laneVerdicts l par) (voteLanes l par).1 := by
  have hvs : laneVerdicts l par =
      ((lanesOf l par).map (fun x => (x.1, laneRails x.2.1 x.2.2, x.2.2 != 0))).map outcomeOf := by
    rw [List.map_map]
    rfl
  rw [hvs]
  unfold voteLanes
  dsimp only
  generalize (lanesOf l par).map (fun x => (x.1, laneRails x.2.1 x.2.2, x.2.2 != 0)) = vs
  split
  next x hx =>
    obtain ⟨hmem, hq⟩ := verdict_found (f := outcomeOf) (q := (· == .fault)) hx
    exact .fault (beq_iff_eq.mp hq ▸ hmem) rfl
  next x hf hx =>
    obtain ⟨hmem, hq⟩ := verdict_found (f := outcomeOf) (q := (· == .noMajority)) hx
    exact .noMajority (verdict_absent (f := outcomeOf) hf) (beq_iff_eq.mp hq ▸ hmem) rfl
  next hf hn =>
    split
    next hx =>
      exact .agree (fun v hv => by simpa using verdict_not_found (f := outcomeOf) (q := (· != .agree)) hx v hv) rfl
    next x hx =>
      obtain ⟨hxmem, hxa⟩ := verdict_found (f := outcomeOf) (q := (· != .agree)) hx
      split
      next y hy =>
        obtain ⟨hymem, hq⟩ := verdict_found (f := outcomeOf)
          (q := fun v => v != .agree && v != laneVerdict x.2.1) hy
        obtain ⟨hya, hyx⟩ := Bool.and_eq_true_iff.mp hq
        exact .differ (verdict_absent (f := outcomeOf) hf) hxmem hymem (bne_iff_ne.mp hxa) (bne_iff_ne.mp hya) (bne_iff_ne.mp hyx) rfl
      next hy =>
        refine .one (verdict_absent (f := outcomeOf) hf) (verdict_absent (f := outcomeOf) hn) hxmem (bne_iff_ne.mp hxa) (fun v hv => ?_) rfl
        have hq := verdict_not_found (f := outcomeOf) (q := fun v => v != .agree && v != laneVerdict x.2.1) hy v hv
        simpa [outcomeOf, or_iff_not_imp_left] using hq

/-- Settles O55: the signals by `laneRails_eq`, the table of R334 by its rows, the clock by `voteLanes_outcome`. -/
theorem theComparatorVotesOnItsLanes : Obligations.TheComparatorVotesOnItsLanes := by
  unfold Obligations.TheComparatorVotesOnItsLanes
  refine ⟨?rails, ?lane, ?clock⟩
  case rails =>
    rintro x p pa pb pc rfl rfl rfl
    exact laneRails_eq x p
  case lane =>
    rintro x p ab bc ca hr v w rfl rfl
    refine ⟨?_, ?_, ?_, ?_, ?_, ?_, ?_⟩
    case refine_6 =>
      intro hbad
      have hv := laneVerdict_fault ab bc ca hbad
      exact ⟨hv, votedValue_of_fault (hr ▸ hv)⟩
    case refine_7 => exact fun hab hbc hca => hr ▸ laneVerdict_sound hab hbc hca
    all_goals
      rintro rfl rfl rfl
      exact ⟨rfl, by rw [votedValue, hr]; rfl⟩
  case clock =>
    rintro s l par hs vs o rfl rfl
    rw [compareLanes, if_pos hs]
    have hout := voteLanes_outcome l par
    unfold laneVerdicts at hout
    generalize (voteLanes l par).1 = o at hout
    generalize (lanesOf l par).map (fun x => laneVerdict (laneRails x.2.1 x.2.2)) = vs at hout
    refine ⟨fun hf => ?_, fun hf hn => ?_, fun j k hf hn hj hk hjk => ?_, fun k hk hall => ?_, fun hall => ?_⟩ <;>
      cases hout <;> grind

end Sys2Proof.Proofs
end

section
/-! The recorder's reports, records, flushes and periods (R426, R427, R430 to R432, R437), and the statement O4. -/

namespace Sys2Proof.Proofs

open Sys2Proof Sys2Proof.Machine

/-! ### What triggers and staging leave of the recorder -/

/-- A snapshot that starts only reports: the recorder's other fields stay. -/
theorem startSnapshot_recorder (s : State) :
    ∃ l, (startSnapshot s).recorder = { s.recorder with reports := l } := by
  unfold startSnapshot
  split
  · exact ⟨_, rfl⟩
  · split <;> exact ⟨s.recorder.reports, rfl⟩

theorem fireTrigger_recorder (s : State) (t : TriggerCfg) :
    ∃ l, (fireTrigger s t).recorder = { s.recorder with reports := l } := by
  have hstart : ∃ l, (if bitOf t.actions 0 then startSnapshot s else s).recorder = { s.recorder with reports := l } := by
    split
    · exact startSnapshot_recorder s
    · exact ⟨_, rfl⟩
  obtain ⟨l, hl⟩ := hstart
  refine ⟨l, ?_⟩
  rw [← hl]
  simp only [fireTrigger, raiseIntIf, apply_ite State.recorder, ite_self]

/-- The triggers of an event only report. -/
theorem fireTriggers_recorder (s : State) (c : Nat) (v : Int) :
    ∃ l, (fireTriggers s c v).recorder = { s.recorder with reports := l } := by
  unfold fireTriggers
  generalize List.filter _ _ = ts
  induction ts generalizing s with
  | nil => exact ⟨s.recorder.reports, rfl⟩
  | cons t ts ih =>
    obtain ⟨l, hl⟩ := ih (fireTrigger s t)
    obtain ⟨l', hl'⟩ := fireTrigger_recorder s t
    exact ⟨l, hl.trans (by rw [hl'])⟩

theorem fireTriggers_clk (s : State) (c : Nat) (v : Int) : (fireTriggers s c v).clk = s.clk :=
  fireTriggers_only s c v .clk (by decide)

theorem yieldPlace_codes (s : State) (x : Option Staged) : (yieldPlace s x).recorder.codes = s.recorder.codes := by
  cases x <;> rfl

/-- No place in staging touches the counts. -/
theorem stageRecord_codes (s : State) (r : Record) (free : Bool) :
    (stageRecord s r free).recorder.codes = s.recorder.codes := by
  have hdrop : ∀ c, (dropRecord s c).recorder.codes = s.recorder.codes := fun _ => rfl
  simp only [stageRecord, apply_ite State.recorder, apply_ite RecorderSt.codes, hdrop, yieldPlace_codes, ite_self]

/-! ### A code's statistics -/

theorem codeStat_of_set {s : State} {t : Tab CodeStat} {c : Nat} {x : CodeStat} (h : s.recorder.codes = Tab.set t c x) :
    codeStat s c = x := by
  rw [codeStat, h]
  exact tab_getD_set_self ..

/-- A refill changes tokens and their instant only. -/
theorem refill_fields (s : State) (c : Nat) (x : CodeStat) : ∃ k b, refill s c x = { x with tokens := k, below := b } := by
  unfold refill
  dsimp only
  split
  · exact ⟨x.tokens, x.below, rfl⟩
  · exact ⟨_, _, rfl⟩

/-- The tokens of the elapsed intervals, up to B. -/
theorem refill_tokens (s : State) (c : Nat) (x : CodeStat) : (refill s c x).tokens =
    if (bucketOf s c).1 ≤ x.tokens then x.tokens
    else min (bucketOf s c).1 (x.tokens + (s.clk - x.below) / max 1 (bucketOf s c).2) := by
  simp only [refill, apply_ite CodeStat.tokens]

theorem countEvent_tokens (s : State) (c : Nat) (v t : Int) (x : CodeStat) :
    (countEvent s c v t x).tokens = x.tokens ∧ (countEvent s c v t x).below = x.below ∧
      (countEvent s c v t x).suppressed = x.suppressed := by
  unfold countEvent
  dsimp only
  split <;> exact ⟨rfl, rfl, rfl⟩

theorem countEvent_counts (s : State) (c : Nat) (v t : Int) (x : CodeStat) :
    (countEvent s c v t x).pCount = satAdd 4294967295 x.pCount 1 ∧
      (countEvent s c v t x).lCount = satAdd 18446744073709551615 x.lCount 1 := by
  unfold countEvent
  dsimp only
  split <;> exact ⟨rfl, rfl⟩

theorem countEvent_range (s : State) {c : Nat} (v t : Int) {x : CodeStat} (hm : noMeasure c = false) (hx : x.pCount ≠ 0) :
    (countEvent s c v t x).pMin = min x.pMin v ∧ (countEvent s c v t x).pMax = max x.pMax v := by
  simp [countEvent, hm, hx]

/-- An event's statistics before its token is taken: it is counted, and the bucket refilled. -/
def counted (s : State) (e : EventIn) (time : Int) : CodeStat :=
  refill s e.code (countEvent s e.code (satMeasure e.code e.measure) time (codeStat s e.code))

/-- The count of an event leaves its bucket's refill as it is. -/
theorem counted_tokens (s : State) (e : EventIn) (time : Int) :
    (counted s e time).tokens = (refill s e.code (codeStat s e.code)).tokens := by
  obtain ⟨htokens, hbelow, -⟩ :=
    countEvent_tokens s e.code (satMeasure e.code e.measure) time (codeStat s e.code)
  rw [counted, refill_tokens, refill_tokens, htokens, hbelow]

theorem counted_suppressed (s : State) (e : EventIn) (time : Int) :
    (counted s e time).suppressed = (codeStat s e.code).suppressed := by
  obtain ⟨k, b, h⟩ :=
    refill_fields s e.code (countEvent s e.code (satMeasure e.code e.measure) time (codeStat s e.code))
  rw [counted, h]
  exact (countEvent_tokens ..).2.2

/-- What EVENT_REPORTED adds to the statistics of an assigned code. -/
def Counts (x : CodeStat) (e : EventIn) (y : CodeStat) : Prop :=
  y.pCount = satAdd 4294967295 x.pCount 1 ∧ y.lCount = satAdd 18446744073709551615 x.lCount 1 ∧
    (noMeasure e.code = false → x.pCount ≠ 0 →
      y.pMin = min x.pMin (satMeasure e.code e.measure) ∧ y.pMax = max x.pMax (satMeasure e.code e.measure))

theorem counted_counts (s : State) (e : EventIn) (time : Int) : Counts (codeStat s e.code) e (counted s e time) := by
  obtain ⟨k, b, h⟩ :=
    refill_fields s e.code (countEvent s e.code (satMeasure e.code e.measure) time (codeStat s e.code))
  obtain ⟨hp, hl⟩ := countEvent_counts s e.code (satMeasure e.code e.measure) time (codeStat s e.code)
  rw [counted, h]
  exact ⟨hp, hl, fun hm hx => countEvent_range s _ time hm hx⟩

/-! ### EVENT_REPORTED (R430, R431) -/

/-- The report that the recorder takes has the event's data, and the rest of the recorder is as it was. -/
theorem eventReported_takes {s : State} (e : EventIn) (hs : s.recorder.started = true) :
    ∃ l r, r.ev = e ∧ exec (.eventReported e) s =
      .next (recordEvent { s with recorder := { s.recorder with reports := l } } r) := by
  have hexec : exec (.eventReported e) s = .next (match s.recorder.reports.find? (fun r => decide (r.ev = e)) with
      | some r => recordEvent { s with recorder := { s.recorder with reports := dropOne r s.recorder.reports } } r
      | none => recordEvent s (stamp s e)) :=
    congrArg Host.Outcome.next (if_neg (by simp [hs]))
  rw [hexec]
  cases hfind : s.recorder.reports.find? (fun r => decide (r.ev = e)) with
  | none => exact ⟨s.recorder.reports, stamp s e, rfl, rfl⟩
  | some r => exact ⟨dropOne r s.recorder.reports, r, of_decide_eq_true (List.find?_some hfind :), rfl⟩

/-- Every event of an assigned code is counted, whatever becomes of its record. -/
theorem recordEvent_counts {s : State} {r : Report} {k : AreaClass} (hk : codeClass r.ev.code = some k) :
    Counts (codeStat s r.ev.code) r.ev (codeStat (recordEvent s r) r.ev.code) := by
  have hset : ∀ u x, u.recorder.codes = Tab.set (fireTriggers s r.ev.code (satMeasure r.ev.code r.ev.measure)).recorder.codes
      r.ev.code x → Counts (codeStat s r.ev.code) r.ev x → Counts (codeStat s r.ev.code) r.ev (codeStat u r.ev.code) :=
    fun u x hu hx => (codeStat_of_set hu).symm ▸ hx
  have hc := counted_counts s r.ev r.time
  simp only [recordEvent, hk]
  split
  · exact hset _ _ rfl hc
  · split
    · exact hset _ _ rfl hc
    · exact hset _ _ (stageRecord_codes ..) hc

theorem recordEvent_noToken {s : State} {r : Report} {k : AreaClass} (hk : codeClass r.ev.code = some k) (htally : k ≠ .tally)
    (hex : exempt k = false) (hpower : s.recorder.powerFail = none)
    (htokens : (refill s r.ev.code (codeStat s r.ev.code)).tokens = 0) :
    (recordEvent s r).recorder.staging = s.recorder.staging ∧
      (codeStat (recordEvent s r) r.ev.code).suppressed = satAdd 65535 (codeStat s r.ev.code).suppressed 1 := by
  have htok := (counted_tokens s r.ev r.time).trans htokens
  have hrec : recordEvent s r = setCode (fireTriggers s r.ev.code (satMeasure r.ev.code r.ev.measure)) r.ev.code
      { counted s r.ev r.time with
        suppressed := satAdd 65535 (counted s r.ev r.time).suppressed 1
        pSuppressed := satAdd 4294967295 (counted s r.ev r.time).pSuppressed 1 } := by
    simp only [recordEvent, hk]
    rw [if_neg (by simp [htally, hpower]), if_pos (by simp [hex]; exact htok)]
    rfl
  rw [hrec]
  refine ⟨?_, ?_⟩
  · obtain ⟨l, hl⟩ := fireTriggers_recorder s r.ev.code (satMeasure r.ev.code r.ev.measure)
    simp [setCode, hl]
  · rw [codeStat_of_set rfl]
    exact congrArg (fun n => satAdd 65535 n 1) (counted_suppressed s r.ev r.time)

/-- A record that finds room: staging keeps its reserve, and the average holds a token for one of the topcoat only. -/
theorem stageRecord_stages {s : State} (r : Record) (free : Bool)
    (hroom : s.recorder.staging.length < if !r.primer && !free then 15360 else 16384)
    (havg : free = true ∨ (avgNow s).1 ≠ 0) :
    (stageRecord s r free).recorder.staging = s.recorder.staging ++ [⟨{ r with seq := s.recorder.nextSeq }, s.clk⟩] ∧
      (stageRecord s r free).recorder.nextSeq = s.recorder.nextSeq + 1 := by
  have hfull : decide ((if !r.primer && !free then 15360 else 16384) ≤ s.recorder.staging.length) = false :=
    decide_eq_false (Nat.not_le.mpr hroom)
  have hno : (!r.primer && !free && (avgNow s).1 == 0) = false := by
    rcases havg with h | h <;> simp [h]
  simp only [stageRecord, hfull, hno, Bool.false_and, Bool.or_false, Bool.false_eq_true, if_false, yieldPlace,
    and_self]

theorem record_primer (k : AreaClass) (b : Bool) (r : Record) (h : r.flags = b2n (primerClass k) + 2 * b2n b) :
    r.primer = primerClass k := by
  rw [Record.primer, h]
  cases primerClass k <;> cases b <;> rfl

/-- The record of an event that has found a token. -/
def eventRecord (s : State) (r : Report) (k : AreaClass) : Record :=
  { seq := 0, time := r.time, skim := r.skim, topo := r.topo, code := r.ev.code
    origin := (s.unitNo - 1) % 4 * 64 + r.ev.subsystem, flags := b2n (primerClass k) + 2 * b2n r.localTime
    suppressed := (counted s r.ev r.time).suppressed
    payload := payloadOf r.ev.code (satMeasure r.ev.code r.ev.measure) r.ev.payload }

/-- The statistics once the token is taken. -/
def tokenTaken (s : State) (e : EventIn) (time : Int) : CodeStat :=
  let x := counted s e time
  { x with
    tokens := x.tokens - 1
    below := if x.tokens = (bucketOf s e.code).1 then s.clk else x.below
    suppressed := 0 }

/-- An event with a token is staged in the class of its code. -/
theorem recordEvent_of_token {s : State} {r : Report} {k : AreaClass} (hk : codeClass r.ev.code = some k)
    (htally : k ≠ .tally) (hex : exempt k = false) (hpower : s.recorder.powerFail = none)
    (htokens : (refill s r.ev.code (codeStat s r.ev.code)).tokens ≠ 0) :
    recordEvent s r = stageRecord (setCode (fireTriggers s r.ev.code (satMeasure r.ev.code r.ev.measure)) r.ev.code
      (tokenTaken s r.ev r.time)) (eventRecord s r k) (primerClass k) := by
  have hne : ((counted s r.ev r.time).tokens == 0) = false := by simpa [counted_tokens] using htokens
  simp only [recordEvent, hk]
  rw [if_neg (by simp [htally, hpower]), if_neg (by simp [hex]; exact beq_eq_false_iff_ne.mp hne)]
  simp only [hex, Bool.or_false, Bool.not_false, Bool.true_and, beq_iff_eq, Bool.false_eq_true, if_false]
  rfl

/-- What the recorder stages for an event with a token (R426, R427, R430). -/
def StagesRecord (s t : State) (e : EventIn) (k : AreaClass) : Prop :=
  ∃ r : Record, t.recorder.staging = s.recorder.staging ++ [⟨r, s.clk⟩] ∧ r.seq = s.recorder.nextSeq ∧ r.code = e.code ∧
    r.suppressed = (codeStat s e.code).suppressed ∧
    r.payload = payloadOf e.code (satMeasure e.code e.measure) e.payload ∧ r.primer = primerClass k ∧
    t.recorder.nextSeq = s.recorder.nextSeq + 1 ∧ (codeStat t e.code).suppressed = 0 ∧
    (codeStat t e.code).tokens = (refill s e.code (codeStat s e.code)).tokens - 1

theorem recordEvent_stages {s : State} {r : Report} {k : AreaClass} (hk : codeClass r.ev.code = some k) (htally : k ≠ .tally)
    (hex : exempt k = false) (hpower : s.recorder.powerFail = none)
    (htokens : (refill s r.ev.code (codeStat s r.ev.code)).tokens ≠ 0) (hroom : s.recorder.staging.length < 15360)
    (havg : (avgNow s).1 ≠ 0) : StagesRecord s (recordEvent s r) r.ev k := by
  rw [recordEvent_of_token hk htally hex hpower htokens]
  obtain ⟨l, hl⟩ := fireTriggers_recorder s r.ev.code (satMeasure r.ev.code r.ev.measure)
  have hclk := fireTriggers_clk s r.ev.code (satMeasure r.ev.code r.ev.measure)
  generalize fireTriggers s r.ev.code (satMeasure r.ev.code r.ev.measure) = u at hl hclk
  have havg' : (avgNow (setCode u r.ev.code (tokenTaken s r.ev r.time))).1 = (avgNow s).1 := by
    simp only [avgNow, setCode, hl, hclk]
  have hroom' : (setCode u r.ev.code (tokenTaken s r.ev r.time)).recorder.staging = s.recorder.staging := by
    rw [setCode, hl]
  have hseq : (setCode u r.ev.code (tokenTaken s r.ev r.time)).recorder.nextSeq = s.recorder.nextSeq := by
    rw [setCode, hl]
  obtain ⟨hstaging, hnext⟩ := stageRecord_stages (s := setCode u r.ev.code (tokenTaken s r.ev r.time)) (eventRecord s r k)
    (primerClass k) (by rw [hroom']; split <;> omega) (.inr (havg'.symm ▸ havg))
  have hstat : codeStat (stageRecord (setCode u r.ev.code (tokenTaken s r.ev r.time)) (eventRecord s r k) (primerClass k))
      r.ev.code = tokenTaken s r.ev r.time := codeStat_of_set (stageRecord_codes ..)
  refine ⟨{ eventRecord s r k with seq := s.recorder.nextSeq }, ?_, rfl, rfl, counted_suppressed .., rfl,
    record_primer k r.localTime _ rfl, ?_, ?_, ?_⟩
  · rw [hstaging, hroom', hseq]
    exact congrArg (fun n => s.recorder.staging ++ [⟨{ eventRecord s r k with seq := s.recorder.nextSeq }, n⟩]) hclk
  · rw [hnext, hseq]
  · rw [hstat]
    rfl
  · rw [hstat]
    exact congrArg (· - 1) (counted_tokens ..)

theorem eventReported_counts {s : State} {e : EventIn} {k : AreaClass} (hs : s.recorder.started = true)
    (hk : codeClass e.code = some k) :
    Answers (.eventReported e) s (fun t => Counts (codeStat s e.code) e (codeStat t e.code)) := by
  obtain ⟨l, r, rfl, hexec⟩ := eventReported_takes e hs
  exact .intro hexec (recordEvent_counts hk)

theorem eventReported_stages {s : State} {e : EventIn} {k : AreaClass} (hs : s.recorder.started = true)
    (hk : codeClass e.code = some k) (htally : k ≠ .tally) (hex : exempt k = false) (hpower : s.recorder.powerFail = none)
    (htokens : (refill s e.code (codeStat s e.code)).tokens ≠ 0) (hroom : s.recorder.staging.length < 15360)
    (havg : (avgNow s).1 ≠ 0) : Answers (.eventReported e) s (fun t => StagesRecord s t e k) := by
  obtain ⟨l, r, rfl, hexec⟩ := eventReported_takes e hs
  exact .intro hexec (recordEvent_stages (s := { s with recorder := { s.recorder with reports := l } }) hk htally hex hpower
    htokens hroom havg)

theorem eventReported_noToken {s : State} {e : EventIn} {k : AreaClass} (hs : s.recorder.started = true)
    (hk : codeClass e.code = some k) (htally : k ≠ .tally) (hex : exempt k = false) (hpower : s.recorder.powerFail = none)
    (htokens : (refill s e.code (codeStat s e.code)).tokens = 0) :
    Answers (.eventReported e) s (fun t => t.recorder.staging = s.recorder.staging ∧
      (codeStat t e.code).suppressed = satAdd 65535 (codeStat s e.code).suppressed 1) := by
  obtain ⟨l, r, rfl, hexec⟩ := eventReported_takes e hs
  exact .intro hexec (recordEvent_noToken (s := { s with recorder := { s.recorder with reports := l } }) hk htally hex hpower
    htokens)

/-! ### Refills, flushes and the degraded state (R430, R437) -/

theorem tokenRefill_refills {s : State} {c : Nat} (h : Tab.has s.recorder.codes c = true) :
    Answers (.tokenRefill c) s (fun t =>
      (codeStat t c).tokens = (if (bucketOf s c).1 ≤ (codeStat s c).tokens then (codeStat s c).tokens
        else min (bucketOf s c).1 ((codeStat s c).tokens + (s.clk - (codeStat s c).below) / max 1 (bucketOf s c).2)) ∧
      (codeStat t c).pCount = (codeStat s c).pCount ∧ t.recorder.staging = s.recorder.staging) := by
  have hstat : codeStat (setCode s c (refill s c (codeStat s c))) c = refill s c (codeStat s c) := codeStat_of_set rfl
  refine .intro (congrArg Host.Outcome.next (if_pos h)) ⟨?_, ?_, rfl⟩
  · rw [hstat, refill_tokens]
  · obtain ⟨k, b, hrefill⟩ := refill_fields s c (codeStat s c)
    rw [hstat, hrefill]

/-- What is staged goes to the rings; the primer takes what it has room for. -/
theorem flushStaging_writes (s : State) : (flushStaging s).recorder.staging = [] ∧
    (flushStaging s).recorder.failedWrites = s.recorder.failedWrites ∧
    (flushStaging s).recorder.failingSince = s.recorder.failingSince ∧
    (flushStaging s).recorder.topcoat = ringAppend s.recorder.topcoat (s.recorder.staging.map (·.record)) ∧
    (s.recorder.primer.length + s.recorder.staging.length ≤ primerCap → (flushStaging s).recorder.primer =
      s.recorder.primer ++ (s.recorder.staging.map (·.record)).filter Record.primer) := by
  refine ⟨rfl, rfl, rfl, rfl, fun hroom => ?_⟩
  have hlen : ((s.recorder.staging.map (·.record)).filter Record.primer).length ≤ s.recorder.staging.length :=
    (List.length_filter_le ..).trans (List.length_map ..).le
  exact congrArg (s.recorder.primer ++ ·) (List.take_of_length_le (by omega))

theorem recorderFlush_writes {s : State} (hne : s.recorder.staging ≠ []) (hdeg : s.recorder.degraded = false) :
    Answers (.recorderFlush true) s (fun t => t.recorder.staging = [] ∧ t.recorder.failedWrites = 0 ∧
      t.recorder.failingSince = none ∧
      t.recorder.topcoat = ringAppend s.recorder.topcoat (s.recorder.staging.map (·.record)) ∧
      (s.recorder.primer.length + s.recorder.staging.length ≤ primerCap → t.recorder.primer =
        s.recorder.primer ++ (s.recorder.staging.map (·.record)).filter Record.primer)) := by
  have hexec : exec (.recorderFlush true) s = .next (flushStaging { s with recorder := { s.recorder with
      degraded := false, failedWrites := 0, failingSince := none } }) := by
    refine congrArg Host.Outcome.next ((if_neg (by simpa using hne)).trans ((if_neg (by decide)).trans ?_))
    rw [if_neg (by simp [hdeg])]
  exact .intro hexec (flushStaging_writes _)

theorem recorderFlush_fails {s : State} (hne : s.recorder.staging ≠ []) : exec (.recorderFlush false) s =
    .next { s with recorder := { s.recorder with
      failedWrites := s.recorder.failedWrites + 1, failingSince := some (s.recorder.failingSince.getD s.clk) } } :=
  congrArg Host.Outcome.next (if_neg (by simpa using hne))

/-- Bit 9 of the health word is `RECORDER_DEGRADED`. -/
theorem healthWord_degraded {s : State} (h : s.recorder.degraded = true) : bitOf (healthWord s) 9 = true := by
  unfold healthWord
  dsimp only
  rw [h]
  generalize safeCode s.safe.state = c
  generalize (!safeRuns s || s.safe.hold || _ || _ || _ || _ || _ || _ : Bool) = held
  have hlow := nine_bits_lt (c == 1) (c == 2 || c == 3) held (peerDown s) s.pair.ilkFault (!s.pair.badUuid.isEmpty)
    (allPorts.any (fun p => (s.line.ports.get p).status.getLsbD 19)) (lineFault s .a) (lineFault s .b)
  have hset : b2n true = 1 := rfl
  simp only [bitOf, beq_iff_eq]
  omega

theorem recorderDegraded_sets {s : State} {d : Nat} (hfail : s.recorder.failingSince = some d)
    (hd : d + 1000000000 ≤ s.clk) : Answers .recorderDegraded s (fun t =>
      t = { s with recorder := { s.recorder with degraded := true } } ∧ bitOf (healthWord t) 9 = true) := by
  refine .intro (t := { s with recorder := { s.recorder with degraded := true } }) ?_ ⟨rfl, healthWord_degraded rfl⟩
  simp [exec, execRecorderDegraded, hfail, hd]

/-! ### The end of a period (R432) -/

/-- A summary's records bypass the average, so that all that find room are staged in order. -/
theorem foldl_stageRecord (g : List Record) (s : State) (hroom : s.recorder.staging.length + g.length ≤ 16384) :
    (g.foldl (fun s r => stageRecord s r true) s).recorder.nextSeq = s.recorder.nextSeq + g.length ∧
      ∃ l, (g.foldl (fun s r => stageRecord s r true) s).recorder.staging = s.recorder.staging ++ l ∧
        l.map (fun x => { x.record with seq := 0 }) = g.map (fun r => { r with seq := 0 }) := by
  induction g generalizing s with
  | nil => exact ⟨rfl, [], by simp, rfl⟩
  | cons r g ih =>
    rw [List.length_cons] at hroom
    obtain ⟨hstaging, hseq⟩ := stageRecord_stages (s := s) r true (by simp; omega) (.inl rfl)
    obtain ⟨hnext, l, hl, hmap⟩ := ih (stageRecord s r true) (by rw [hstaging]; simp; omega)
    refine ⟨?_, ⟨{ r with seq := s.recorder.nextSeq }, s.clk⟩ :: l, ?_, ?_⟩
    · rw [List.foldl_cons, hnext, hseq, List.length_cons]
      omega
    · rw [List.foldl_cons, hl, hstaging, List.append_assoc, List.singleton_append]
    · rw [List.map_cons, List.map_cons, hmap]

theorem foldl_stageRecord_codes (g : List Record) (s : State) :
    (g.foldl (fun s r => stageRecord s r true) s).recorder.codes = s.recorder.codes := by
  induction g generalizing s with
  | nil => rfl
  | cons r g ih => exact (ih _).trans (stageRecord_codes ..)

/-- The records of a summary take their sequence when they are staged. -/
theorem summaryGroup_seq (s : State) (part primer : Bool) : ∀ r ∈ summaryGroup s part primer, r.seq = 0 := by
  intro r hr
  unfold summaryGroup at hr
  dsimp only at hr
  generalize hbody : List.flatMap _ (s.recorder.codes.filter (fun p => 0 < p.2.pCount)) = body at hr
  have hzero : ∀ x ∈ body, x.seq = 0 := by
    intro x hx
    rw [← hbody, List.mem_flatMap] at hx
    obtain ⟨p, -, hx⟩ := hx
    rcases List.mem_pair.mp hx with rfl | rfl <;> rfl
  have hall : ∀ {h : Record}, h.seq = 0 → ∀ x ∈ h :: body, x.seq = 0 := fun hh => List.forall_mem_cons.mpr ⟨hh, hzero⟩
  rcases List.mem_append.mp hr with hr | hr
  · exact hall rfl r (List.mem_of_mem_dropLast hr)
  · obtain ⟨x, hx, rfl⟩ := Option.map_eq_some_iff.mp (Option.mem_toList.mp hr)
    exact hall rfl x (List.mem_of_getLast? hx)

theorem summaryGroup_unnumbered (s : State) (part primer : Bool) :
    (summaryGroup s part primer).map (fun r => { r with seq := 0 }) = summaryGroup s part primer := by
  refine (List.map_congr_left fun r hr => ?_).trans (List.map_id _)
  rw [← summaryGroup_seq s part primer r hr]
  rfl

theorem summaryPeriodEnd_closes {s : State} (hs : s.recorder.started = true)
    (hend : s.recorder.periodStart + max 1 (recCfg s).period ≤ rtc s) : Answers .summaryPeriodEnd s (fun t =>
      t.recorder.codes = s.recorder.codes.map (fun q => (q.1, q.2.newPeriod)) ∧
      t.recorder.periodStart = rtc s / max 1 (recCfg s).period * max 1 (recCfg s).period ∧
      (∀ g, g = summaryGroup s false (decide (s.recorder.lastPrimerSummary + primerSpan ≤ rtc s)) →
        s.recorder.staging.length + g.length ≤ 16384 →
        t.recorder.nextSeq = s.recorder.nextSeq + g.length ∧
        (t.recorder.staging.drop s.recorder.staging.length).map (fun x => { x.record with seq := 0 }) = g)) := by
  refine .intro (congrArg Host.Outcome.next (if_neg (by simp [hs]; omega))) ⟨?_, rfl, ?_⟩
  · exact congrArg (List.map fun q => (q.1, q.2.newPeriod)) (foldl_stageRecord_codes ..)
  · rintro g rfl hroom
    obtain ⟨hnext, l, hl, hmap⟩ := foldl_stageRecord _ s hroom
    refine ⟨hnext, ?_⟩
    dsimp only
    rw [writeSummary, hl, List.drop_left, hmap, summaryGroup_unnumbered]

/-- Settles O4: each row's effect, from the lemma above that bears its name. -/
theorem recorderCountsRecordsAndFlushes : Obligations.RecorderCountsRecordsAndFlushes := by
  unfold Obligations.RecorderCountsRecordsAndFlushes
  refine ⟨?_, ?_, ?_, ?_, ?_, ?_, ?_, ?_⟩
  case refine_1 => exact fun s e k hs hk => eventReported_counts hs hk
  case refine_2 => exact fun s e k hs hk ht hex hp htok hroom havg => eventReported_stages hs hk ht hex hp htok hroom havg
  case refine_3 => exact fun s e k hs hk ht hex hp htok => eventReported_noToken hs hk ht hex hp htok
  case refine_4 => exact fun s c h => tokenRefill_refills h
  case refine_5 => exact fun s hne hdeg => recorderFlush_writes hne hdeg
  case refine_6 => exact fun s hne => recorderFlush_fails hne
  case refine_7 => exact fun s d hfail hd => recorderDegraded_sets hfail hd
  case refine_8 => exact fun s hs hend => summaryPeriodEnd_closes hs hend

end Sys2Proof.Proofs
end

section
/-! The steps of a start (R36, R372, R443, R468, R472, R504 to R508), and the statement O1. -/

namespace Sys2Proof.Proofs

open Sys2Proof Sys2Proof.Machine

/-! ### The power-on reset and the banks (R372, R504, R507, R508) -/

/-- The table of R372; its codes are 000, 101, 110 and 011. -/
theorem unitOfCode_table (u : BitVec 3) :
    unitOfCode u = if u = 0 then 1 else if u = 5 then 2 else if u = 6 then 3 else if u = 3 then 4 else 0 := by
  revert u
  decide

/-- A real-time alarm that lost its backup counts on from its saved count. -/
theorem rtc_powerOn (s : State) (u : BitVec 3) (lost : Bool) :
    rtc (powerOn s u lost) = if lost then s.start.rtcSaved else rtc s := by
  cases lost
  · rfl
  · exact congrArg Int.toNat (Int.sub_add_cancel ..)

theorem powerOnReset_starts {s : State} (u : BitVec 3) (lost : Bool) (hboot : s.start.boot = .unpowered)
    (hvolt : s.start.overvoltStop = false) (htemp : s.start.overtempStop = false) :
    Answers (.powerOnReset u lost) s (fun t =>
      t.start.boot = .powered ∧ t.unitNo = unitOfCode u ∧ t.upos = u.toNat ∧ t.start.parked = false ∧
      t.start.wasParked = s.start.parked ∧ t.start.startSource = 0 ∧ t.start.alarmRestarted = lost ∧
      t.time = { TimeSt.init with now := (rtc t : Nat) } ∧ rtc t = (if lost then s.start.rtcSaved else rtc s) ∧
      t.host = HostSt.init ∧ t.img.releasedAt = s.clk ∧ t.sleep.power = .awake) := by
  refine .intro (congrArg Host.Outcome.next (if_pos ⟨hboot, by simp [hvolt], by simp [htemp]⟩)) ?_
  exact ⟨rfl, rfl, rfl, rfl, rfl, rfl, rfl, rfl, rtc_powerOn s u lost, rfl, rfl, rfl⟩

/-- The unit with the banks that the boot ROM chose. -/
def banksChosen (s : State) : State :=
  let fw := chooseBank s 8 0
  let s1 := setBanks s 8 fw.1
  let cf := chooseBank s1 9 (imgVersion (fw.1.bank fw.1.running).image)
  let cfg := runningConfig cf.1
  placeUnit (adoptConfig (setBanks s1 9 { cf.1 with usable := cfg.isSome }) cfg (fw.2 ++ cf.2))

section
variable {s : State} (hboot : s.start.boot = .powered) (hawake : s.sleep.power = .awake) (hheld : s.host.resetHeld = false)
  (hparked : s.start.parked = false)
include hboot hawake hheld hparked

theorem bankCheckComplete_unusable (hbank : (chooseBank s 8 0).1.usable = false) : Answers .bankCheckComplete s (fun t =>
    t.start.boot = .checked ∧ t.img.fw.usable = false ∧ t.line.relayAOpen = false ∧ t.line.relayBOpen = false ∧
    t.line.islandAt = none ∧ t.cyc = CycleSt.init ∧ t.cfg = s.cfg) := by
  refine .intro (congrArg Host.Outcome.next ((if_neg (by simp [hboot, hawake, hheld, hparked])).trans
    (if_pos (by simp [hbank])))) ?_
  exact ⟨rfl, hbank, rfl, rfl, rfl, rfl, rfl⟩

/-- The chosen banks come into force whether the unit may be on the line or not. -/
theorem bankCheckComplete_usable (hbank : (chooseBank s 8 0).1.usable = true) : Answers .bankCheckComplete s (fun t =>
    t.img.fw = (chooseBank s 8 0).1 ∧ t.img.cf.usable = t.cfg.isSome ∧
    t.start.boot = (if s.line.islandAt.isSome then .island else .checked) ∧
    t.cfg = runningConfig (chooseBank (setBanks s 8 (chooseBank s 8 0).1) 9
      (imgVersion ((chooseBank s 8 0).1.bank (chooseBank s 8 0).1.running).image)).1 ∧
    (t.cfg = none → t.line.relayAOpen = false ∧ t.line.relayBOpen = false)) := by
  have hexec : exec .bankCheckComplete s = .next (if (banksChosen s).cfg.isNone || (banksChosen s).unplaced then
      offLine (banksChosen s) else banksChosen s) :=
    congrArg Host.Outcome.next ((if_neg (by simp [hboot, hawake, hheld, hparked])).trans (if_neg (by simp [hbank])))
  by_cases hoff : ((banksChosen s).cfg.isNone || (banksChosen s).unplaced) = true
  · rw [if_pos hoff] at hexec
    exact .intro hexec ⟨rfl, rfl, rfl, rfl, fun _ => ⟨rfl, rfl⟩⟩
  · rw [if_neg hoff] at hexec
    refine .intro hexec ⟨rfl, rfl, rfl, rfl, fun hnone => absurd ?_ hoff⟩
    exact Bool.or_eq_true_iff.mpr (.inl (Option.isNone_iff_eq_none.mpr hnone))

end

/-! ### The island (R504, R519) -/

theorem startIsland_starts (s : State) : (startIsland s).start = { s.start with boot := .island } ∧
    (startIsland s).line.islandAt = some s.clk ∧ (startIsland s).line.relayBOpen = s.line.relayBOpen ∧
    (startIsland s).line.relayAOpen = (s.line.relayAOpen || assigned s .a1 || assigned s .a2) ∧
    (startIsland s).sleep = s.sleep := by
  have hassigned : ∀ p, assigned { s with
      line := { s.line with islandAt := some s.clk }, start := { s.start with boot := .island } } p = assigned s p :=
    fun _ => rfl
  simp only [startIsland, hassigned]
  cases h : assigned s .a1 || assigned s .a2 <;> simp [openRelay, Bool.or_assoc, h]

/-- A latched wake acts as the start's source; nothing of the line or the boot depends on it. -/
theorem takeWakeLatch_takes (s : State) : (takeWakeLatch s).start.boot = s.start.boot ∧
    (takeWakeLatch s).line = s.line ∧ (takeWakeLatch s).sleep.latch = none ∧
    (∀ wide src, s.sleep.latch = some (wide, src) → (takeWakeLatch s).start.startSource = src ∧
      (takeWakeLatch s).sleep.source = src ∧ (takeWakeLatch s).sleep.latchedWake = true) := by
  cases h : s.sleep.latch with
  | none => simp [takeWakeLatch, h]
  | some w =>
    obtain ⟨wide, src⟩ := w
    cases wide <;> simp [takeWakeLatch, h, drivePulses, emit]

theorem islandReady_starts {s : State} (hboot : s.start.boot = .checked) (hfw : s.img.fw.usable = true)
    (hawake : s.sleep.power = .awake) : Answers .islandReady s (fun t =>
      t.start.boot = .island ∧ t.line.islandAt = some s.clk ∧ t.line.relayBOpen = s.line.relayBOpen ∧
      t.line.relayAOpen = (s.line.relayAOpen || assigned s .a1 || assigned s .a2) ∧ t.sleep.latch = none ∧
      (∀ wide src, s.sleep.latch = some (wide, src) → t.start.startSource = src ∧ t.sleep.source = src ∧
        t.sleep.latchedWake = true)) := by
  obtain ⟨hstart, hisland, hrelayB, hrelayA, hsleep⟩ := startIsland_starts s
  obtain ⟨hb, hline, hlatch, hsource⟩ := takeWakeLatch_takes (startIsland s)
  refine .intro (congrArg Host.Outcome.next (if_neg (by simp [hboot, hfw, hawake]))) ⟨?_, ?_, ?_, ?_, hlatch, ?_⟩
  · rw [hb, hstart]
  · rw [hline, hisland]
  · rw [hline, hrelayB]
  · rw [hline, hrelayA]
  · exact fun wide src h => hsource wide src (hsleep.symm ▸ h)

/-! ### READY (R443, R468, R472, R504) -/

/-- The host port says that the management side serves: READY set, BOOTING clear, and source 12 raised. -/
def SaysReady (s : State) : Prop :=
  s.host.ready = true ∧ s.host.booting = false ∧ s.host.intStatus.getLsbD 12 = true

theorem saysReady_of_host {s t : State} (h : SaysReady s) (ht : t.host = s.host) : SaysReady t := by
  rw [SaysReady, ht]
  exact h

/-- No interrupt that is raised takes another's bit back. -/
theorem raiseIntIf_saysReady {s : State} (h : SaysReady s) (c : Bool) (k : Nat) : SaysReady (raiseIntIf c s k) := by
  obtain ⟨hready, hbooting, hint⟩ := h
  refine ⟨hready, hbooting, ?_⟩
  show (if c then setBit s.host.intStatus k true else s.host.intStatus).getLsbD 12 = true
  split
  · by_cases hk : k = 12
    · rw [hk]
      exact getLsbD_setBit_self _ _ (by decide)
    · rw [getLsbD_setBit_of_ne _ _ (Ne.symm hk)]
      exact hint
  · exact hint

theorem fireTrigger_saysReady {s : State} (h : SaysReady s) (t : TriggerCfg) : SaysReady (fireTrigger s t) := by
  have hstart : SaysReady (if bitOf t.actions 0 then startSnapshot s else s) := by
    split
    · exact saysReady_of_host h (startSnapshot_only s .host (by decide))
    · exact h
  refine raiseIntIf_saysReady ?_ _ _
  split
  · exact saysReady_of_host hstart rfl
  · exact hstart

theorem fireTriggers_saysReady {s : State} (h : SaysReady s) (c : Nat) (v : Int) : SaysReady (fireTriggers s c v) := by
  unfold fireTriggers
  generalize List.filter _ _ = l
  induction l generalizing s with
  | nil => exact h
  | cons t l ih => exact ih (fireTrigger_saysReady h t)

theorem recordEvent_saysReady {s : State} (h : SaysReady s) (r : Report) : SaysReady (recordEvent s r) := by
  unfold recordEvent
  dsimp only
  split
  · exact h
  · have hfire := fireTriggers_saysReady h r.ev.code (satMeasure r.ev.code r.ev.measure)
    split
    · exact saysReady_of_host hfire rfl
    · split
      · exact saysReady_of_host hfire rfl
      · exact saysReady_of_host hfire (stageRecord_only _ _ _ .host (by decide))

theorem stageRecord_started (s : State) (r : Record) (free : Bool) :
    (stageRecord s r free).recorder.started = s.recorder.started := by
  have hdrop : ∀ u c, (dropRecord u c).recorder.started = u.recorder.started := fun _ _ => rfl
  have hyield : ∀ u x, (yieldPlace u x).recorder.started = u.recorder.started := fun _ x => by cases x <;> rfl
  simp only [stageRecord, apply_ite State.recorder, apply_ite RecorderSt.started, hdrop, hyield, ite_self]

theorem recordEvent_started (s : State) (r : Report) : (recordEvent s r).recorder.started = s.recorder.started := by
  have hfire : ∀ c v, (fireTriggers s c v).recorder.started = s.recorder.started := fun c v => by
    obtain ⟨l, hl⟩ := fireTriggers_recorder s c v
    rw [hl]
  unfold recordEvent
  dsimp only
  split
  · rfl
  · simp only [setCode, apply_ite State.recorder, apply_ite RecorderSt.started, stageRecord_started, hfire, ite_self]

/-- The records of the activated and restored banks. -/
theorem logBanks_keeps {s : State} (h : SaysReady s) (hs : s.recorder.started = true) (l : List (Nat × Bool)) :
    SaysReady (l.foldl (fun s p => recordNow s 0x0B04 18 p.1 (be 1 (b2n p.2))) s) ∧
      (l.foldl (fun s p => recordNow s 0x0B04 18 p.1 (be 1 (b2n p.2))) s).recorder.started = true := by
  induction l generalizing s with
  | nil => exact ⟨h, hs⟩
  | cons p l ih => exact ih (recordEvent_saysReady h _) ((recordEvent_started _ _).trans hs)

theorem startRecorder_saysReady {s : State} (h : SaysReady s) (source : Nat) : SaysReady (startRecorder s source) := by
  unfold startRecorder
  dsimp only
  exact recordEvent_saysReady (by exact h) _

theorem logBanks_only (s : State) (l : List (Nat × Bool)) (pt : Part) (h : pt ∉ [.host, .skim, .recorder]) :
    (l.foldl (fun s p => recordNow s 0x0B04 18 p.1 (be 1 (b2n p.2))) s).part pt = s.part pt := by
  induction l generalizing s with
  | nil => rfl
  | cons p l ih => exact (ih _).trans (recordNow_only s _ _ _ _ pt h)

/-- The recorder's start leaves what the host port says, and the recorder is started. -/
theorem logStart_starts {s : State} (h : SaysReady s) : SaysReady (logStart s) ∧ (logStart s).recorder.started = true ∧
    (logStart s).start.boot = s.start.boot ∧ (logStart s).img.readyAt = s.img.readyAt := by
  have hrec : SaysReady (startRecorder s s.start.startSource) ∧
      (startRecorder s s.start.startSource).recorder.started = true :=
    ⟨startRecorder_saysReady h _, recordEvent_started _ _⟩
  have hstart : (startRecorder s s.start.startSource).start = s.start := startRecorder_only s _ .start (by decide)
  have himg : (startRecorder s s.start.startSource).img = s.img := startRecorder_only s _ .img (by decide)
  unfold logStart
  dsimp only
  generalize startRecorder s s.start.startSource = u at hrec hstart himg
  obtain ⟨hready, hstarted⟩ := logBanks_keeps hrec.1 hrec.2 u.img.toLog
  refine ⟨saysReady_of_host hready rfl, hstarted, ?_, ?_⟩
  · rw [← hstart]
    exact congrArg StartSt.boot (logBanks_only u _ .start (by decide))
  · rw [← himg]
    exact congrArg ImageSt.readyAt (logBanks_only u _ .img (by decide))

/-- READY's state once the host port says so. -/
def readyRaised (s : State) : State :=
  raiseInt { s with
    host := { s.host with ready := true, booting := false }
    start := { s.start with boot := .running }
    img := { s.img with readyAt := some s.clk } } 12

/-- The tables of the configuration, if there is one, in force. -/
def tablesLoaded (s : State) : State := match s.cfg with | none => s | some c => loadTables s c

/-- READY's state once the recorder has started, before the scratch test. -/
def readyLogged (s : State) : State :=
  let t := logStart (tablesLoaded (readyRaised s))
  if t.unplaced then report t 0x0901 19 t.upos [] else t

theorem readyLogged_starts (s : State) : SaysReady (readyLogged s) ∧ (readyLogged s).recorder.started = true ∧
    (readyLogged s).start.boot = .running ∧ (readyLogged s).img.readyAt = some s.clk ∧
    (readyLogged s).safe.state = s.safe.state := by
  have hraised : SaysReady (readyRaised s) := ⟨rfl, rfl, getLsbD_setBit_self _ _ (by decide)⟩
  have htables : SaysReady (tablesLoaded (readyRaised s)) ∧ (tablesLoaded (readyRaised s)).start.boot = .running ∧
      (tablesLoaded (readyRaised s)).img.readyAt = some s.clk ∧
      (tablesLoaded (readyRaised s)).safe.state = s.safe.state := by
    unfold tablesLoaded
    split
    · exact ⟨hraised, rfl, rfl, rfl⟩
    next c _ =>
      exact ⟨saysReady_of_host hraised (loadTables_only _ c .host (by decide)),
        congrArg StartSt.boot (loadTables_only (readyRaised s) c .start (by decide)),
        congrArg ImageSt.readyAt (loadTables_only (readyRaised s) c .img (by decide)),
        congrArg Lamp.state (loadTables_lamp (readyRaised s) c)⟩
  obtain ⟨hready, hboot, hat, hsafe⟩ := htables
  obtain ⟨hready, hstarted, hboot', hat'⟩ := logStart_starts hready
  have hsafe' : (logStart (tablesLoaded (readyRaised s))).safe.state = s.safe.state :=
    (congrArg SafeSt.state (logStart_only _ .safe (by decide))).trans hsafe
  unfold readyLogged
  dsimp only
  split
  · exact ⟨saysReady_of_host hready rfl, hstarted, hboot'.trans hboot, hat'.trans hat, hsafe'⟩
  · exact ⟨hready, hstarted, hboot'.trans hboot, hat'.trans hat, hsafe'⟩

theorem ready_serves {s : State} (hboot : s.start.boot = .island) (hawake : s.sleep.power = .awake)
    (hheld : s.host.resetHeld = false) (hparked : s.start.parked = false) (hready : s.host.ready = false) :
    Answers .ready s (fun t =>
      t.start.boot = .running ∧ t.host.ready = true ∧ t.host.booting = false ∧ t.host.intStatus.getLsbD 12 = true ∧
      t.img.readyAt = some s.clk ∧ t.recorder.started = true ∧
      (s.safe.state ≠ .halted → t.safe.state = .scratch ∧ t.safe.applied = 0) ∧
      (s.safe.state = .halted → t.safe.state = .halted)) := by
  obtain ⟨hserves, hstarted, hb, hat, hsafe⟩ := readyLogged_starts s
  have hexec : exec .ready s = .next (sendBanner (noteSafe (readyLogged s)
      (if (readyLogged s).safe.state = .halted then readyLogged s else startScratch (readyLogged s)))) :=
    congrArg Host.Outcome.next (if_neg (by simp [hboot, hawake, hheld, hparked, managing, hready]))
  generalize readyLogged s = u at hserves hstarted hb hat hsafe hexec
  by_cases hhalt : u.safe.state = .halted
  · rw [if_pos hhalt] at hexec
    obtain ⟨hr, hbooting, hint⟩ := raiseIntIf_saysReady hserves (decide (u.safe.state ≠ u.safe.state)) 7
    exact .intro hexec ⟨hb, hr, hbooting, hint, hat, hstarted, fun h => absurd (hsafe.symm.trans hhalt) h, fun _ => hhalt⟩
  · rw [if_neg hhalt] at hexec
    have hscratch : SaysReady (startScratch u) := saysReady_of_host hserves rfl
    obtain ⟨hr, hbooting, hint⟩ := raiseIntIf_saysReady hscratch (decide (u.safe.state ≠ (startScratch u).safe.state)) 7
    exact .intro hexec ⟨hb, hr, hbooting, hint, hat, hstarted, fun _ => ⟨rfl, startScratch_dark u⟩,
      fun h => absurd (hsafe.trans h) hhalt⟩

/-! ### The line of a unit without firmware (R508) -/

theorem noFirmwareLine_prints {s : State} (hboot : s.start.boot = .checked) (hfw : s.img.fw.usable = false)
    (hlast : ∀ d, s.start.noFirmwareAt = some d → d + 10000000000 ≤ s.clk) : exec .noFirmwareLine s = .next { s with
      out := s.out ++ [.monitor (lineBytes "no firmware")], start := { s.start with noFirmwareAt := some s.clk } } := by
  have hall : s.start.noFirmwareAt.all (fun t => t + 10000000000 ≤ s.clk) = true := by
    rw [Option.all_eq_true]
    intro d hd
    simpa using hlast d hd
  simp only [exec, execNoFirmwareLine, hboot, hfw, hall, Bool.not_false, and_self, if_true, printLine, emit]

/-- Settles O1: each row's effect, from the lemma above that bears its name. -/
theorem startStepsTakeEffect : Obligations.StartStepsTakeEffect := by
  unfold Obligations.StartStepsTakeEffect
  refine ⟨unitOfCode_table, ?_, ?_, ?_, ?_, ?_, ?_⟩
  case refine_1 => exact fun s u lost hboot hvolt htemp => powerOnReset_starts u lost hboot hvolt htemp
  case refine_2 => exact fun s hboot hawake hheld hparked hbank => bankCheckComplete_unusable hboot hawake hheld hparked hbank
  case refine_3 => exact fun s hboot hawake hheld hparked hbank => bankCheckComplete_usable hboot hawake hheld hparked hbank
  case refine_4 => exact fun s hboot hfw hawake => islandReady_starts hboot hfw hawake
  case refine_5 => exact fun s hboot hawake hheld hparked hready => ready_serves hboot hawake hheld hparked hready
  case refine_6 => exact fun s hboot hfw hlast => noFirmwareLine_prints hboot hfw hlast

end Sys2Proof.Proofs
end

section
/-! The resets of the management side and the failed trial (R473, R488, R489, R509, R510), and the statement O2. -/

namespace Sys2Proof.Proofs

open Sys2Proof Sys2Proof.Machine

/-! ### A restart of the management side (R473, R509) -/

/-- The recorder and the complex have stopped, and an election that the unit ran has ended. -/
def electionEnded (s : State) : State :=
  let s1 := stopRecorder (holdComplex s)
  if s.set.state = .claiming ∨ s.set.state = .census ∨ s.set.state = .committing then enterWaiting s1 else s1

theorem electionEnded_only (s : State) (pt : Part) (h : pt ∉ [.set, .recorder, .safe]) :
    (electionEnded s).part pt = s.part pt := by
  simp only [List.mem_cons, List.not_mem_nil, or_false, not_or] at h
  unfold electionEnded
  dsimp only
  split <;> simp [h]

theorem electionEnded_numbering (s : State) : (electionEnded s).set.numbering = s.set.numbering := by
  unfold electionEnded
  dsimp only
  split <;> rfl

theorem electionEnded_safe (s : State) : (electionEnded s).safe = (holdComplex s).safe := by
  unfold electionEnded
  dsimp only
  split <;> rfl

/-- The island and the always-on domain run on while the management side stops. -/
theorem mgmtDown_runsOn (s : State) : (mgmtDown s).line = s.line ∧ (mgmtDown s).cyc = s.cyc ∧ (mgmtDown s).cfg = s.cfg ∧
    (mgmtDown s).set.numbering = s.set.numbering ∧ (mgmtDown s).time.now = s.time.now ∧
    (mgmtDown s).sleep.alarms = s.sleep.alarms ∧ (mgmtDown s).sleep.latch = s.sleep.latch :=
  ⟨electionEnded_only s .line (by decide), electionEnded_only s .cyc (by decide), electionEnded_only s .cfg (by decide),
    electionEnded_numbering s, (congrArg TimeSt.now (electionEnded_only s .time (by decide)) :),
    (congrArg SleepSt.alarms (electionEnded_only s .sleep (by decide)) :),
    (congrArg SleepSt.latch (electionEnded_only s .sleep (by decide)) :)⟩

/-- The complex is held, with its outputs off and its failed core kept. -/
theorem mgmtDown_complex (s : State) : (mgmtDown s).safe.applied = 0 ∧
    (mgmtDown s).safe.state = (if s.safe.state = .halted then .halted else .scratch) ∧
    (mgmtDown s).safe.failed = s.safe.failed := by
  have hsafe : (mgmtDown s).safe = (holdComplex s).safe := electionEnded_safe s
  rw [hsafe]
  exact ⟨rfl, rfl, rfl⟩

theorem mgmtDown_start (s : State) : (mgmtDown s).start.parked = s.start.parked ∧
    (mgmtDown s).start.wasParked = s.start.wasParked :=
  ⟨(congrArg StartSt.parked (electionEnded_only s .start (by decide)) :),
    (congrArg StartSt.wasParked (electionEnded_only s .start (by decide)) :)⟩

theorem beginReset_restarts (s : State) (cause : Nat) : Restarted s (beginReset s cause) cause := by
  obtain ⟨hline, hcyc, hcfg, hnumbering, hnow, halarms, hlatch⟩ := mgmtDown_runsOn s
  obtain ⟨-, hstaged, htopcoat, -⟩ := mgmtDown_keeps s
  obtain ⟨houtputs, hstate, hfailed⟩ := mgmtDown_complex s
  exact
    { boot := rfl, source := rfl, lastCause := rfl, notReady := rfl, host := rfl, retained := rfl, pins := rfl, forces := rfl
      route := rfl, bridge := rfl, vehicle := rfl, fieldBuses := rfl, sessions := rfl, staged := hstaged
      topcoat := htopcoat, outputs := houtputs, halted := hstate, failedCore := hfailed, lease := rfl
      numbering := hnumbering, line := hline, cycle := hcyc, config := hcfg, trainTime := hnow, alarms := halarms
      latch := hlatch }

/-- What a row changes of host port, start and banks before it restarts is no part of what the restart keeps. -/
theorem beginReset_restarts_from {s u : State} (cause : Nat)
    (hu : u = { s with host := u.host, start := u.start, img := u.img }) : Restarted s (beginReset u cause) cause := by
  rw [hu]
  exact { beginReset_restarts { s with host := u.host, start := u.start, img := u.img } cause with }

theorem beginReset_boots (s : State) (cause : Nat) : (beginReset s cause).host.resetHeld = s.host.resetHeld ∧
    (beginReset s cause).host.booting = (!s.host.resetHeld && !s.start.parked) ∧
    (beginReset s cause).start.parked = s.start.parked ∧ (beginReset s cause).start.wasParked = s.start.wasParked := by
  obtain ⟨hparked, hwas⟩ := mgmtDown_start s
  exact ⟨rfl, congrArg (fun b => !s.host.resetHeld && !b) hparked, hparked, hwas⟩

/-! ### The resets (R473, R488, R509, R510) -/

theorem resettable_of_awake {s : State} (hawake : s.sleep.power = .awake) (hboot : s.start.boot ≠ .unpowered) :
    resettable s = true := by
  simp [resettable, hawake, hboot]

theorem resetNAsserted_restarts {s : State} (hawake : s.sleep.power = .awake) (hboot : s.start.boot ≠ .unpowered)
    (hheld : s.host.resetHeld = false) : Answers .resetNAsserted s (fun t => Restarted s t 1 ∧ t.host.resetHeld = true ∧
      t.host.booting = false ∧ t.start.parked = false ∧ t.start.wasParked = (s.start.wasParked || s.start.parked)) := by
  obtain ⟨hh, hb, hp, hw⟩ := beginReset_boots { s with
    host := { s.host with resetHeld := true }
    start := { s.start with wasParked := s.start.wasParked || s.start.parked, parked := false } } 1
  exact .intro (congrArg Host.Outcome.next (if_neg (by simp [resettable_of_awake hawake hboot, hheld])))
    ⟨beginReset_restarts_from 1 rfl, hh, hb, hp, hw⟩

theorem resetNReleased_releases {s : State} (hheld : s.host.resetHeld = true) : exec .resetNReleased s = .next { s with
    host := { s.host with resetHeld := false, booting := true }, img := { s.img with releasedAt := s.clk } } :=
  congrArg Host.Outcome.next (if_neg (by simp [hheld]))

/-- The fourth expiry within 600 s parks a unit that runs no trial. -/
theorem managementWatchdogExpiry_restarts {s : State} (hawake : s.sleep.power = .awake)
    (hboot : s.start.boot ≠ .unpowered) (hheld : s.host.resetHeld = false) (hparked : s.start.parked = false) :
    Answers .managementWatchdogExpiry s (fun t => Restarted s t 3 ∧
      (t.start.parked = true ↔
        3 ≤ (s.start.watchdogs.filter (fun w => decide (s.clk < w + 600000000000))).length ∧ inTrial s = false) ∧
      (t.start.parked = true → t.host.booting = false) ∧ (t.start.parked = false → t.host.booting = true)) := by
  refine .intro (congrArg Host.Outcome.next (if_neg (by simp [resettable_of_awake hawake hboot, hheld, hparked]))) ?_
  dsimp only
  generalize hl : s.start.watchdogs.filter (fun w => decide (s.clk < w + 600000000000)) = l
  generalize hpark : (decide (4 ≤ (l ++ [s.clk]).length) && !inTrial s) = park
  obtain ⟨-, hb, hp, -⟩ := beginReset_boots { s with
    start := { s.start with watchdogs := if park then [] else l ++ [s.clk], parked := park } } 3
  refine ⟨beginReset_restarts_from 3 rfl, ?_, ?_, ?_⟩
  · rw [hp, ← hpark]
    simp
  · rw [hp, hb]
    rintro rfl
    exact Bool.and_false _
  · rw [hp, hb]
    rintro rfl
    simp [hheld]

theorem resetCommand_restarts {s : State} {d : Nat} (hat : s.img.resetAt = some d) (hd : d ≤ s.clk) :
    Answers .resetCommand s (fun t => Restarted s t 2) := by
  refine .intro (t := beginReset s 2) ?_ (beginReset_restarts s 2)
  simp [exec, execResetCommand, hat, hd]

/-! ### A failed trial (R489) -/

/-- The bank in trial is rejected, and the other one selected. -/
theorem fail_trial {b : Banks} (htrial : (b.bank b.running).state = .trial) :
    b.fail.selected = 1 - b.running ∧ b.fail.bank b.running = { b.bank b.running with state := .rejected } := by
  rw [Banks.fail, if_neg (by simp [htrial])]
  exact ⟨rfl, bank_put_self _ _ _⟩

theorem dropWriting_bank (b : Banks) (i : Nat) : (dropWriting b).bank i =
    if (b.bank i).state = .writing then Bank.blank else b.bank i := by
  cases i <;> rfl

/-- A restart empties the banks that a transfer was writing, and no other. -/
theorem beginReset_banks (s : State) (cause k : Nat) : banksOf (beginReset s cause) k = dropWriting (banksOf s k) := by
  obtain ⟨-, -, -, -, hfw, hcf, -⟩ := mgmtDown_keeps s
  unfold banksOf
  split
  · exact hfw
  · exact hcf

theorem trialTimeout_restarts {s : State} (htrial : inTrial s = true) (hawake : s.sleep.power = .awake)
    (hboot : s.start.boot ≠ .unpowered) (hend : s.img.releasedAt + 120000000000 ≤ s.clk ∨ s.safe.state = .halted) :
    Answers .trialTimeout s (fun t => Restarted s t 2 ∧
      (∀ k, k = 8 ∨ k = 9 → ((banksOf s k).bank (banksOf s k).running).state = .trial →
        (banksOf t k).selected = 1 - (banksOf s k).running ∧
        ((banksOf t k).bank (banksOf s k).running).state = .rejected)) := by
  refine .intro (congrArg Host.Outcome.next (if_pos ⟨htrial, resettable_of_awake hawake hboot, hend⟩))
    ⟨beginReset_restarts_from 2 rfl, ?_⟩
  intro k hk hb
  obtain ⟨hselected, hbank⟩ := fail_trial hb
  rw [beginReset_banks]
  have hfail : banksOf { s with img := { s.img with
      fw := s.img.fw.fail, cf := s.img.cf.fail, toLog := s.img.toLog ++ s.img.fw.failLog ++ s.img.cf.failLog } } k =
      (banksOf s k).fail := by
    rcases hk with rfl | rfl <;> rfl
  rw [hfail, dropWriting_bank, hbank]
  exact ⟨hselected, rfl⟩

/-- Settles O2: each row's effect, from the lemma above that bears its name. -/
theorem resetsRestartTheManagementSide : Obligations.ResetsRestartTheManagementSide := by
  unfold Obligations.ResetsRestartTheManagementSide
  refine ⟨?_, ?_, ?_, ?_, ?_⟩
  case refine_1 => exact fun s hawake hboot hheld => resetNAsserted_restarts hawake hboot hheld
  case refine_2 => exact fun s hheld => resetNReleased_releases hheld
  case refine_3 => exact fun s hawake hboot hheld hparked => managementWatchdogExpiry_restarts hawake hboot hheld hparked
  case refine_4 => exact fun s d hat hd => resetCommand_restarts hat hd
  case refine_5 => exact fun s htrial hawake hboot hend => trialTimeout_restarts htrial hawake hboot hend

end Sys2Proof.Proofs
end

section
/-! Supervision of the safety inputs and outputs (R363, R364, R366, R367, R524, R525), and the statement O35. -/

namespace Sys2Proof.Proofs

open Sys2Proof Sys2Proof.Machine

/-! ### The inputs (R363, R364) -/

/-- A change of the cab's state says so, and leaves inputs and recorder. -/
theorem cabActiveChange_sets (s : State) (a : Bool) : ∃ t, execCabActiveChange a s = .next t ∧ t.set.cabActive = a ∧
    t.safe = s.safe ∧ t.recorder = s.recorder := by
  by_cases h : s.set.cabActive = a
  · exact ⟨s, congrArg Host.Outcome.next (if_pos h), h, rfl, rfl⟩
  · exact ⟨_, congrArg Host.Outcome.next (if_neg h), rfl, rfl, rfl⟩

theorem inputComparatorDisagree_faults {s : State} {k : Nat} (hlow : 1 ≤ k) (hhigh : k ≤ 16)
    (hsound : s.safe.hvFault.getLsbD (k - 1) = false) :
    Answers (.inputComparatorDisagree k) s (fun t => t.safe.hvFault.getLsbD (k - 1) = true ∧
      (∀ j, j ≠ k - 1 → t.safe.hvFault.getLsbD j = s.safe.hvFault.getLsbD j) ∧
      (k = cabInput s → t.set.cabActive = false) ∧ (k ≠ cabInput s → t.set = s.set) ∧
      t.recorder = (report s 0x0805 14 k []).recorder) := by
  have hexec : exec (.inputComparatorDisagree k) s =
      if k = cabInput s then execCabActiveChange false (report { s with
        safe := { s.safe with hvFault := setBit s.safe.hvFault (k - 1) true } } 0x0805 14 k [])
      else .next (report { s with safe := { s.safe with hvFault := setBit s.safe.hvFault (k - 1) true } } 0x0805 14 k []) :=
    if_neg (by simp [hsound]; omega)
  have hself := getLsbD_setBit_self s.safe.hvFault true (show k - 1 < 16 by omega)
  have hother := fun j (hj : j ≠ k - 1) => getLsbD_setBit_of_ne s.safe.hvFault true hj
  by_cases hcab : k = cabInput s
  · obtain ⟨t, ht, hactive, hsafe, hrec⟩ := cabActiveChange_sets (report { s with
      safe := { s.safe with hvFault := setBit s.safe.hvFault (k - 1) true } } 0x0805 14 k []) false
    have hfault : t.safe.hvFault = setBit s.safe.hvFault (k - 1) true := congrArg SafeSt.hvFault hsafe
    refine .intro (hexec.trans ((if_pos hcab).trans ht)) ⟨?_, ?_, fun _ => hactive, fun h => absurd hcab h, hrec⟩
    · rw [hfault, hself]
    · intro j hj
      rw [hfault, hother j hj]
  · exact .intro (hexec.trans (if_neg hcab)) ⟨hself, hother, fun h => absurd h hcab, fun _ => rfl, rfl⟩

theorem inputFaultClear_clears {s : State} {k : Nat} (hlow : 1 ≤ k) (hhigh : k ≤ 16) :
    Answers (.inputFaultClear k) s (fun t => t.safe.hvFault.getLsbD (k - 1) = false ∧
      (∀ j, j ≠ k - 1 → t.safe.hvFault.getLsbD j = s.safe.hvFault.getLsbD j)) :=
  .intro (congrArg Host.Outcome.next (if_neg (by omega)))
    ⟨getLsbD_setBit_self s.safe.hvFault false (by omega), fun _ hj => getLsbD_setBit_of_ne s.safe.hvFault false hj⟩

/-! ### The outputs (R366, R367, R524, R525) -/

/-- `SAFE_OFF` opens for the outputs that showed voltage. -/
theorem faultSafeOff_opens (s : State) {i : Nat} (hi : i < 8) :
    (faultSafeOff s (BitVec.ofNat 8 (2 ^ i))).safe.applied = 0 ∧
      (faultSafeOff s (BitVec.ofNat 8 (2 ^ i))).safe.safeOffFault.getLsbD i = true :=
  ⟨rfl, getLsbD_setBit_self s.safe.safeOffFault true hi⟩

section
variable {s : State} {k : Nat} (hlow : 1 ≤ k) (hhigh : k ≤ 8) (hon : s.safe.applied.getLsbD (k - 1) = true)
include hlow hhigh hon

theorem outputPulseTest_due (off : Bool) (hdue : s.safe.pulseAt.getD (k - 1) 0 + 10000000000 ≤ s.clk) :
    exec (.outputPulseTest k off) s = .next (
      if off || feedLow s k then { s with safe := { s.safe with pulseAt := s.safe.pulseAt.set (k - 1) s.clk } }
      else faultSafeOff { s with safe := { s.safe with pulseAt := s.safe.pulseAt.set (k - 1) s.clk } }
        (BitVec.ofNat 8 (2 ^ (k - 1)))) := by
  refine congrArg Host.Outcome.next (if_neg ?_)
  rintro (h | h | h | h)
  · omega
  · omega
  · simp [hon] at h
  · omega

theorem outputPulseTest_tests (hdue : s.safe.pulseAt.getD (k - 1) 0 + 10000000000 ≤ s.clk) :
    Answers (.outputPulseTest k true) s (fun t => t.safe.applied = s.safe.applied ∧
      t.safe.safeOffFault = s.safe.safeOffFault) ∧
    (feedLow s k = false → Answers (.outputPulseTest k false) s (fun t => t.safe.applied = 0 ∧
      t.safe.safeOffFault.getLsbD (k - 1) = true)) ∧
    (feedLow s k = true → Answers (.outputPulseTest k false) s (fun t => t.safe.safeOffFault = s.safe.safeOffFault ∧
      t.safe.applied = s.safe.applied)) := by
  have hexec := fun off => outputPulseTest_due hlow hhigh hon off hdue
  refine ⟨.intro (hexec true) ⟨rfl, rfl⟩, fun hfeed => ?_, fun hfeed => ?_⟩
  · refine .intro ((hexec false).trans (congrArg Host.Outcome.next (if_neg (by simp [hfeed])))) ?_
    exact faultSafeOff_opens _ (by omega)
  · exact .intro ((hexec false).trans (congrArg Host.Outcome.next (if_pos (by simp [hfeed])))) ⟨rfl, rfl⟩

theorem currentLimitExpiry_faults : Answers (.currentLimitExpiry k) s (fun t => t.safe.chFault.getLsbD (k - 1) = true ∧
    t.safe.applied.getLsbD (k - 1) = false ∧
    (∀ j, j ≠ k - 1 → t.safe.applied.getLsbD j = s.safe.applied.getLsbD j)) :=
  .intro (congrArg Host.Outcome.next (if_pos ⟨hlow, hhigh, hon⟩))
    ⟨getLsbD_setBit_self s.safe.chFault true (by omega), getLsbD_setBit_self s.safe.applied false (by omega),
      fun _ hj => getLsbD_setBit_of_ne s.safe.applied false hj⟩

end

theorem outputFeed_follows (s : State) :
    exec (.outputFeedLow 1) s = .next { s with start := { s.start with feed1Low := true } } ∧
    exec (.outputFeedLow 2) s = .next { s with start := { s.start with feed2Low := true } } ∧
    exec (.outputFeedRecovered 1) s = .next { s with start := { s.start with feed1Low := false } } ∧
    exec (.outputFeedRecovered 2) s = .next { s with start := { s.start with feed2Low := false } } := by
  refine ⟨?_, ?_, ?_, ?_⟩
  · simp [exec, execOutputFeedLow]
  · simp [exec, execOutputFeedLow]
  · simp [exec, execOutputFeedRecovered]
  · simp [exec, execOutputFeedRecovered]

/-- Settles O35: each row's effect, from the lemma above that bears its name. -/
theorem safetyInputsAndOutputsAreSupervised : Obligations.SafetyInputsAndOutputsAreSupervised := by
  unfold Obligations.SafetyInputsAndOutputsAreSupervised
  refine ⟨?_, ?_, ?_, ?_, outputFeed_follows⟩
  case refine_1 => exact fun s k hlow hhigh hsound => inputComparatorDisagree_faults hlow hhigh hsound
  case refine_2 => exact fun s k hlow hhigh => inputFaultClear_clears hlow hhigh
  case refine_3 => exact fun s k hlow hhigh hon hdue => outputPulseTest_tests hlow hhigh hon hdue
  case refine_4 => exact fun s k hlow hhigh hon => currentLimitExpiry_faults hlow hhigh hon

end Sys2Proof.Proofs
end

section
/-! Requests about the pair and the safety complex (R333, R347 to R349, R358, R366, R383, R389, R392, R458, R506), and the
statement O25. -/

namespace Sys2Proof.Proofs

open Sys2Proof Sys2Proof.Machine Sys2Proof.Laws

section
variable {s v : State} {p : Packet}

/-! ### The pair (R383, R389, R392) -/

theorem pairStatus_replies (hv : servedNow s 0x0701 p v) :
    (isPair v = true ∨ isStack v = true → Replies (.opPairStatus p) s p stDone
      ((List.range (ownUnits v)).flatMap (fun u => controlOf v (u + 1)) ++ be 4 (v.pair.grant.elim 0 (·.2)))
      (fun u => u = v)) ∧
    (isPair v = false → isStack v = false → Replies (.opPairStatus p) s p stNotApplicable [] (fun u => u = v)) := by
  refine ⟨fun h => Replies.intro hv rfl (if_neg ?_) rfl, fun hp hs => Replies.intro hv rfl (if_pos (by simp [hp, hs])) rfl⟩
  rcases h with h | h <;> simp [h]

/-- Some other unit of the pair has a current mirror. -/
theorem mirror_current {u : Nat} {r : PeerRec} (hu : u ∈ otherUnits v) (hr : freshRec v u = some r)
    (hm : r.mirrorCurrent = true) :
    (otherUnits v).any (fun u => ((freshRec v u).map PeerRec.mirrorCurrent).getD false) = true :=
  List.any_eq_true.mpr ⟨u, hu, by simp [hr, hm]⟩

theorem handover_replies (hv : servedNow s 0x0702 p v) :
    (isPair v = true → v.pair.role = .active → v.pair.segs.all (·.up) = true →
      (∃ u r, u ∈ otherUnits v ∧ freshRec v u = some r ∧ r.mirrorCurrent = true) →
      Replies (.opHandover p) s p stDone (be 4 (cycAdd v.cyc.n 2)) (fun u => u.pair = { v.pair with releasing := true })) ∧
    (isPair v = true → v.pair.role = .active → v.pair.segs.all (·.up) = false →
      Replies (.opHandover p) s p stBusy [] (fun u => u = v)) ∧
    (isPair v = false ∨ v.pair.role ≠ .active →
      Replies (.opHandover p) s p stNotApplicable [] (fun u => u = v)) := by
  have hpair : isPair v = true → v.pair.role = .active → ¬((!isPair v) = true ∨ v.pair.role ≠ .active) := by
    rintro h1 h2 (h | h)
    · simp [h1] at h
    · exact h h2
  refine ⟨fun h1 h2 hup ⟨u, r, hu, hr, hm⟩ => ?_, fun h1 h2 hup => ?_, fun h => ?_⟩
  · refine Replies.intro (u := { v with pair := { v.pair with releasing := true } }) hv rfl ((if_neg (hpair h1 h2)).trans (if_neg ?_)) rfl
    simp [hup, mirror_current hu hr hm]
  · exact Replies.intro hv rfl ((if_neg (hpair h1 h2)).trans (if_pos (by simp [hup]))) rfl
  · exact Replies.intro hv rfl (if_pos (by simpa using h)) rfl

/-- A role entered changes nothing else of the pair's state. -/
theorem setRole_pair (s : State) (r : Role) : (setRole s r).pair = { s.pair with role := r } := by
  unfold setRole
  split
  next h => rw [← h]
  · rfl

theorem leaveRole_grant (s : State) : (leaveRole s).pair.grant = s.pair.grant :=
  (congrArg PairSt.grant (setRole_pair (dropOutputs s) (restingRole s)) :)

/-- A grant that is received is held, whatever role follows from it. -/
theorem receiveGrant_grant (v : State) (u e : Nat) : (receiveGrant v u e).pair.grant = some (u, e) := by
  unfold receiveGrant
  dsimp only
  (repeat' split)
  · rfl
  · exact leaveRole_grant _
  · rfl
  · rfl
  · rfl

theorem roleGrant_replies (hv : servedNow s 0x0703 p v) (hlow : 1 ≤ pkNum p tUnit 0) (hhigh : pkNum p tUnit 0 ≤ 4) :
    (ownSlot v = some (pkNum p tSlot 0) → fromPositionOne v p.sess = true → isPair v = true →
      Replies (.opRoleGrant p) s p stDone [] (fun u => u = receiveGrant v (pkNum p tUnit 0) (pkNum p tCount 0) ∧
        u.pair.grant = some (pkNum p tUnit 0, pkNum p tCount 0))) ∧
    (ownSlot v = some (pkNum p tSlot 0) → fromPositionOne v p.sess = false →
      Replies (.opRoleGrant p) s p stNotApplicable [] (fun u => u = v)) ∧
    (ownSlot v ≠ some (pkNum p tSlot 0) → Replies (.opRoleGrant p) s p stBadParameter [] (fun u => u = v)) := by
  have hparam : ownSlot v = some (pkNum p tSlot 0) →
      ¬(ownSlot v ≠ some (pkNum p tSlot 0) ∨ pkNum p tUnit 0 < 1 ∨ 4 < pkNum p tUnit 0) := by
    rintro hslot (h | h)
    · exact h hslot
    · omega
  refine ⟨fun hslot hfrom hpair => ?_, fun hslot hfrom => ?_, fun hslot => ?_⟩
  · exact Replies.intro hv rfl ((if_neg (hparam hslot)).trans (if_neg (by simp [hfrom, hpair]))) ⟨rfl, receiveGrant_grant _ _ _⟩
  · exact Replies.intro hv rfl ((if_neg (hparam hslot)).trans (if_pos (by simp [hfrom]))) rfl
  · exact Replies.intro hv rfl (if_pos (.inl hslot)) rfl

/-! ### The safety complex (R347 to R349, R358, R366, R506) -/

/-- The scratch test that COMPLEX_RESET starts, with no failed core and no counts. -/
def complexReset (v : State) : State := noteSafe v (startScratch (clearCounts v))

theorem complexReset_starts (v : State) : (complexReset v).safe.state = .scratch ∧ (complexReset v).safe.failed = 0 ∧
    (complexReset v).safe.resyncs = [] ∧ (complexReset v).safe.restarts = [] ∧ (complexReset v).safe.slot0 = none ∧
    (complexReset v).safe.slot1 = none ∧ (complexReset v).safe.applied = 0 ∧
    (complexReset v).bridge.tags = v.bridge.tags :=
  ⟨rfl, rfl, rfl, rfl, rfl, rfl, rfl, rfl⟩

/-- The tag waits for the test's result. -/
theorem complexReset_replies {t : Nat} (hv : servedNow s 0x0803 p v) (ht : newTag v = some t) :
    Replies (.opComplexReset p) s p stRetry (be 2 t) (fun u =>
      u.safe.state = .scratch ∧ u.safe.failed = 0 ∧ u.safe.resyncs = [] ∧ u.safe.restarts = [] ∧
      u.safe.slot0 = none ∧ u.safe.slot1 = none ∧ u.safe.applied = 0 ∧
      (∃ x, u.bridge.tags = v.bridge.tags ++ [x] ∧ x.tag = t ∧ x.kind = .complexReset ∧ x.state = .waiting)) := by
  obtain ⟨hstate, hfailed, hresyncs, hrestarts, hslot0, hslot1, hoff, htags⟩ := complexReset_starts v
  let x := blankTag t (initiatorOf v p.sess) .complexReset .waiting (v.clk + bridgeTimeout v)
  refine Replies.intro (u := holdTag (complexReset v) x) hv rfl (by rw [ht]; rfl) ?_
  exact ⟨hstate, hfailed, hresyncs, hrestarts, hslot0, hslot1, hoff, x, congrArg (· ++ [x]) htags, rfl, rfl, rfl⟩

theorem outputFaultClear_replies {k : Nat} (hv : servedNow s 0x0804 p v) (hk : k = pkNum p tIndex 0) :
    (k = 0 → Replies (.opOutputFaultClear p) s p stDone [] (fun u =>
      u.safe = { v.safe with clearing := v.safe.chFault, clearingOff := decide (v.safe.safeOffFault ≠ 0) })) ∧
    (1 ≤ k → k ≤ 8 → Replies (.opOutputFaultClear p) s p stDone [] (fun u =>
      u.safe = { v.safe with clearing := if v.safe.chFault.getLsbD (k - 1) then setBit v.safe.clearing (k - 1) true
                                         else v.safe.clearing })) ∧
    (8 < k → Replies (.opOutputFaultClear p) s p stBadParameter [] (fun u => u = v)) := by
  refine ⟨fun h => ?_, fun hlow hhigh => ?_, fun h => ?_⟩
  · refine Replies.intro (u := clearOutputFault v (pkNum p tIndex 0)) hv rfl (if_neg (by omega)) ?_
    rw [← hk, clearOutputFault, if_pos h]
  · refine Replies.intro (u := clearOutputFault v (pkNum p tIndex 0)) hv rfl (if_neg (by omega)) ?_
    rw [← hk, clearOutputFault, if_neg (by omega)]
  · exact Replies.intro hv rfl (if_pos (by omega)) rfl

theorem equationStatus_replies (hv : servedNow s 0x0805 p v) :
    (∀ b, v.safe.table = some b → Replies (.opEquationStatus p) s p stDone (be 4 (field b 0 4) ++ be 4 (field b 4 4) ++
      be 4 (field b 16 4) ++ be 2 (eqDomain b) ++ zeros 2 ++ be 4 (eqWorst b)) (fun u => u = v)) ∧
    (v.safe.table = none → Replies (.opEquationStatus p) s p stDone (zeros 20) (fun u => u = v)) :=
  ⟨fun b hb => Replies.intro hv rfl (by simp only [hb]) rfl, fun hnone => Replies.intro hv rfl (by simp only [hnone]) rfl⟩

end

/-- Settles O25: each row's reply, from the lemma above that bears its name. -/
theorem pairAndComplexRequestsAreServed : Obligations.PairAndComplexRequestsAreServed := by
  unfold Obligations.PairAndComplexRequestsAreServed
  refine ⟨?_, ?_, ?_, ?_, ?_, ?_, ?_, ?_⟩
  case refine_1 => exact fun s v p hv => pairStatus_replies hv
  case refine_2 => exact fun s v p hv => handover_replies hv
  case refine_3 => exact fun s v p hv hlow hhigh => roleGrant_replies hv hlow hhigh
  case refine_4 => exact fun s v p hv => Replies.intro hv rfl rfl rfl
  case refine_5 => exact fun s v p hv => Replies.intro hv rfl rfl rfl
  case refine_6 => exact fun s v p t hv ht => complexReset_replies hv ht
  case refine_7 => exact fun s v p k hv hk => outputFaultClear_replies hv hk
  case refine_8 => exact fun s v p hv => equationStatus_replies hv

end Sys2Proof.Proofs
end

section
/-! The monitor on port M: its lines, commands and packets, and the end of a replay (R351, R493 to R501; log entries 60, 61,
77), and the statement O20. -/

namespace Sys2Proof.Proofs

open Sys2Proof Sys2Proof.Machine

/-! ### What is held -/

/-- No byte is held, and no discarded line waits for its answer. -/
def NothingHeld (s : State) : Prop := s.mon.held = [] ∧ s.mon.overflows = []

theorem catchUp_nothing {s : State} (h : NothingHeld s) : catchUp s = s := by
  obtain ⟨hheld, hover⟩ := h
  rw [catchUp, hheld, hover]
  rfl

/-- A monitor that does not read takes nothing of what it holds. -/
theorem catchUp_of_not_reads {s : State} (h : monReads s = false) : catchUp s = s := by
  unfold catchUp
  cases s.mon.held.length + s.mon.overflows.length with
  | zero => rfl
  | succ k => simp [takeHeld, h]

theorem collectReplay_none {s : State} (h : s.mon.wait = none) : collectReplay s = s := by rw [collectReplay, h]

/-- The monitor's own part: what is written elsewhere holds nothing more. -/
theorem nothingHeld_of_mon {s t : State} (h : NothingHeld s) (ht : t.mon = s.mon) : NothingHeld t := by
  rw [NothingHeld, ht]
  exact h

theorem nothingHeld_monitorReply {s : State} (h : NothingHeld s) (r : Bytes) : NothingHeld (monitorReply s r) := by
  unfold monitorReply
  dsimp only
  split
  · exact h
  · split
    · exact h
    · exact h

theorem nothingHeld_sendReply {s : State} (h : NothingHeld s) (x : Session) (tag : Nat) (r : Bytes) :
    NothingHeld (sendReply s x tag r) := by
  cases x with
  | host => exact nothingHeld_of_mon h (placeReply_only s r .mon (by decide))
  | service =>
    show NothingHeld (if tag = 1 then monitorReply s r else if s.mon.packetMode then _ else s)
    split
    · exact nothingHeld_monitorReply h r
    · split
      · exact h
      · exact h
  | vehicle ip port => exact nothingHeld_of_mon h (sendMd_only _ _ _ _ _ _ _ .mon (by decide))
  | line c => exact nothingHeld_of_mon h (lineReply_only _ _ _ _ .mon (by decide))

theorem nothingHeld_refuse {s : State} (h : NothingHeld s) (x : Session) (tag : Nat) (head : Bytes) (st : Nat) :
    NothingHeld (refuse s x tag head st) := by
  unfold refuse
  split
  · exact h
  · exact nothingHeld_sendReply h x tag _

theorem nothingHeld_acceptRequest {s : State} (h : NothingHeld s) (r : OpSpec) (p : Packet) :
    NothingHeld (acceptRequest s r p) := by
  unfold acceptRequest
  split
  · exact nothingHeld_refuse h _ _ _ _
  · have htouch : NothingHeld (touchSession s p.sess) := h
    dsimp only
    generalize touchSession s p.sess = u at htouch
    split
    · split
      · exact htouch
      · exact nothingHeld_sendReply htouch _ _ _
    · split
      · exact nothingHeld_refuse htouch _ _ _ _
      · split
        · exact nothingHeld_refuse htouch _ _ _ _
        · exact htouch

/-- A packet that the monitor makes of a line leaves nothing held that was not. -/
theorem nothingHeld_acceptBytes {s : State} (h : NothingHeld s) (x : Session) (tag : Nat) (quiet : Bool) (b : Bytes) :
    NothingHeld (acceptBytes s x tag quiet b) := by
  unfold acceptBytes
  dsimp only
  split
  · exact h
  · split
    · exact h
    · split
      · exact nothingHeld_refuse h _ _ _ _
      · split
        · exact nothingHeld_refuse h _ _ _ _
        · split
          · exact nothingHeld_refuse h _ _ _ _
          · split
            · exact nothingHeld_refuse h _ _ _ _
            · exact nothingHeld_acceptRequest h _ _

theorem nothingHeld_sendCommand {s : State} (h : NothingHeld s) (op : Nat) (items : List Tlv) :
    NothingHeld (sendCommand s op items) :=
  nothingHeld_acceptBytes (s := { s with mon := { s.mon with busy := true, seq := (s.mon.seq + 1) % 65536 } }) h _ _ _ _

theorem nothingHeld_answerErr {s : State} (h : NothingHeld s) (st : Nat) : NothingHeld (answerErr s st) := h

/-! ### Characters (R494 to R496) -/

section
variable {s : State} (hm : monText s = true)
include hm

theorem managing_of_monText : managing s = true := (Bool.and_eq_true_iff.mp hm).1

theorem textMode_of_monText : s.mon.packetMode = false := Bool.not_eq_true' _ |>.mp (Bool.and_eq_true_iff.mp hm).2

theorem monitorCharacterReceived_text (b : Byte) (hwait : s.mon.wait = none) : exec (.monitorCharacterReceived b) s =
    .next (if monReads (catchUp s) && (catchUp s).mon.held.isEmpty then typeChar (catchUp s) b else holdByte (catchUp s) b) := by
  refine congrArg Host.Outcome.next ((if_neg (by simp [managing_of_monText hm])).trans
    ((if_neg (by simp [textMode_of_monText hm])).trans ?_))
  rw [collectReplay_none hwait]

theorem monitorCharacterReceived_types (b : Byte) (hreads : monReads s = true) (hwait : s.mon.wait = none)
    (hheld : s.mon.held = []) (hover : s.mon.overflows = []) :
    exec (.monitorCharacterReceived b) s = .next (typeChar s b) := by
  rw [monitorCharacterReceived_text hm b hwait, catchUp_nothing ⟨hheld, hover⟩, if_pos (by simp [hreads, hheld])]

theorem monitorCharacterReceived_holds (b : Byte) (hbusy : s.mon.busy = true) (hwait : s.mon.wait = none)
    (hdrop : s.mon.dropping = false) (hroom : s.mon.held.length < 1024) :
    exec (.monitorCharacterReceived b) s = .next { s with mon := { s.mon with held := s.mon.held ++ [b] } } := by
  have hreads : monReads s = false := by simp [monReads, hbusy]
  rw [monitorCharacterReceived_text hm b hwait, catchUp_of_not_reads hreads, if_neg (by simp [hreads]), holdByte,
    if_neg (by simp [hdrop]), if_pos hroom]

end

/-- A character that is no line end and no deletion joins the line. -/
theorem typeChar_joins {s : State} {b : Byte} (hb : b ∉ [0x0A, 0x0D, 0x08, 0x7F]) (hroom : s.mon.line.length < 255) :
    typeChar s b = { s with mon := { s.mon with line := s.mon.line ++ [b], lastCr := false }, out := s.out ++ [.monitor [b]] } := by
  simp only [List.mem_cons, List.not_mem_nil, or_false, not_or] at hb
  obtain ⟨hlf, hcr, hbs, hdel⟩ := hb
  rw [typeChar, if_neg (fun h => hlf h.1), if_neg (fun h => h.elim hlf hcr), if_neg (fun h => h.elim hbs hdel),
    if_pos hroom]
  rfl

theorem typeChar_ends {s : State} (hlines : s.mon.lines = []) : typeChar s 0x0D =
    { s with mon := { s.mon with lines := [s.mon.line], line := [], lastCr := true }, out := s.out ++ [.monitor [0x0D, 0x0A]] } := by
  rw [typeChar, if_neg (by simp), if_pos (.inr rfl), hlines]
  rfl

theorem typeChar_deletes {s : State} (hline : s.mon.line ≠ []) :
    (typeChar s 0x08).mon.line = s.mon.line.take (s.mon.line.length - 1) := by
  rw [typeChar, if_neg (by simp), if_neg (by decide), if_pos (.inl rfl), if_neg (by simpa using hline)]
  rfl

/-! ### Lines and commands (R495 to R499) -/

section
variable {s : State} (hm : monText s = true) (hbusy : s.mon.busy = false)
include hm hbusy

/-- The line that waits is run; nothing is held behind it. -/
theorem monitorLine_runs {l : Bytes} (hwait : s.mon.wait = none) (hheld : s.mon.held = []) (hover : s.mon.overflows = [])
    (hlines : s.mon.lines = [l]) :
    exec .monitorLine s = .next (catchUp (runLine { s with mon := { s.mon with lines := [] } } l)) := by
  refine congrArg Host.Outcome.next ((if_pos hm).trans ?_)
  rw [collectReplay_none hwait, catchUp_nothing ⟨hheld, hover⟩, readLine, hbusy, hlines]

theorem monitorLine_commands {l : Bytes} {v : State} (hwait : s.mon.wait = none) (hheld : s.mon.held = [])
    (hover : s.mon.overflows = []) (hlines : s.mon.lines = [l]) (hv : v = { s with mon := { s.mon with lines := [] } }) :
    (∀ op items, lineCommand s l = .op op (some items) → exec .monitorLine s = .next (sendCommand v op items)) ∧
    (∀ op, lineCommand s l = .op op none → exec .monitorLine s = .next (answerErr v stBadParameter)) ∧
    (lineCommand s l = .empty → exec .monitorLine s = .next (sendPrompt v)) ∧
    (lineCommand s l = .unknown → exec .monitorLine s = .next (answerErr v stUnknownOpcode)) := by
  have hexec := monitorLine_runs hm hbusy hwait hheld hover hlines
  rw [← hv] at hexec
  have hnothing : NothingHeld v := by
    rw [hv]
    exact ⟨hheld, hover⟩
  have hcmd : lineCommand v l = lineCommand s l := by
    rw [hv]
    rfl
  refine ⟨fun op items h => ?_, fun op h => ?_, fun h => ?_, fun h => ?_⟩
  · rw [hexec, runLine, hcmd, h, catchUp_nothing (nothingHeld_sendCommand hnothing op items)]
  · rw [hexec, runLine, hcmd, h, catchUp_nothing (nothingHeld_answerErr hnothing _)]
  · rw [hexec, runLine, hcmd, h]
    exact congrArg Host.Outcome.next (catchUp_nothing hnothing)
  · rw [hexec, runLine, hcmd, h, catchUp_nothing (nothingHeld_answerErr hnothing _)]

/-- A command typed whole acts at once. -/
theorem portRow_acts (isIt : MonCmd → Bool) (act : State → State) (hlines : s.mon.lines = []) :
    portRow s isIt act = act s := by
  rw [portRow, if_neg (by simp [hm, hbusy]), hlines]

theorem portCommands_act (hlines : s.mon.lines = []) :
    exec .monHelp s = .next (answerLine (helpLines.foldl printLine s) "ok") ∧
    (∀ rate, rate ∈ [115200, 230400, 460800, 921600] → Answers (.monBaud rate) s (fun t => t.mon.baud = rate)) ∧
    (∀ rate, rate ∉ [115200, 230400, 460800, 921600] → exec (.monBaud rate) s = .next (answerErr s stBadParameter)) ∧
    Answers .monPacket s (fun t => t.mon.packetMode = true ∧ t.mon.rx = [] ∧ t.mon.line = []) := by
  have hact := fun isIt act => portRow_acts hm hbusy isIt act hlines
  refine ⟨congrArg Host.Outcome.next (hact _ doHelp), fun rate h => ?_, fun rate h => ?_, ?_⟩
  · exact .intro (congrArg Host.Outcome.next ((hact _ _).trans (if_pos (by simpa using h)))) rfl
  · exact congrArg Host.Outcome.next ((hact _ _).trans (if_neg (by simpa using h)))
  · exact .intro (congrArg Host.Outcome.next (hact _ doPacket)) ⟨rfl, rfl, rfl⟩

end

/-! ### Packet mode (R499, R500) -/

theorem packetModeFrame_accepts {s : State} {b : Bytes} (hm : managing s = true) (hmode : s.mon.packetMode = true)
    (hmin : 16 ≤ b.length) (hlen : b.length = 16 + field b 7 2) (hmax : field b 7 2 ≤ 16384) :
    exec (.packetModeFrame b) s =
      .next (acceptBytes { s with mon := { s.mon with rx := [], lastByte := s.clk } } .service 0 false b) :=
  congrArg Host.Outcome.next ((if_pos (by simp [hm, hmode])).trans (if_pos ⟨hmin, hlen, hmax⟩))

theorem packetByteTimeout_discards {s : State} (hmode : s.mon.packetMode = true)
    (hlast : s.mon.lastByte + 50000000 < s.clk) :
    exec .packetByteTimeout s = .next { s with mon := { s.mon with rx := [] } } :=
  congrArg Host.Outcome.next (if_pos (by simp [hmode, hlast]))

theorem packetModeEnd_prompts {s : State} (hm : managing s = true) (hmode : s.mon.packetMode = true) :
    exec .packetModeEnd s =
      .next (sendPrompt { s with mon := { s.mon with packetMode := false, rx := [], line := [], lastCr := false } }) :=
  congrArg Host.Outcome.next (if_pos (by simp [hm, hmode]))

/-! ### The end of a replay (R351) -/

theorem holdResult_holds {s : State} {x : TagSt} (status : Nat) (data : Bytes) (htags : s.bridge.tags = [x])
    (hkind : x.kind = .replay) : (holdResult s x.tag status data id).bridge.tags =
      [{ x with state := .held, status := status, data := data, holdEnd := s.clk + 250000000 }] ∧
      (holdResult s x.tag status data id).mon = s.mon ∧ (holdResult s x.tag status data id).safe = s.safe := by
  have hfind : findTag s x.tag = some x := by simp [findTag, htags]
  have hne : ¬x.kind = .read := by simp [hkind]
  simp [holdResult, hfind, hne, updateTag, htags]

theorem replayComplete_holds {s : State} {x : TagSt} (bad : Bool) (count lane : Nat) (hsplit : s.safe.state = .split)
    (hwait : s.mon.wait = none) (htags : s.bridge.tags = [x]) (hkind : x.kind = .replay) (hstate : x.state = .waiting) :
    Answers (.replayComplete bad count lane) s (fun t => ∃ y, t.bridge.tags = [y] ∧ y.tag = x.tag ∧ y.state = .held ∧
      y.status = stDone ∧ y.data = be 1 (b2n bad) ++ be 4 count ++ be 1 lane ∧ y.holdEnd = s.clk + 250000000 ∧
      (t.safe.replayMismatch = (s.safe.replayMismatch || bad))) := by
  have hwaits : s.bridge.tags.filter (fun x => decide (x.kind = .replay) && decide (x.state ≠ .held)) = [x] := by
    simp [htags, hkind, hstate]
  let u : State := { s with safe := { s.safe with
    replayMismatch := s.safe.replayMismatch || bad
    split := s.safe.split.map (fun x => { x with replay := some (count, lane) }) } }
  have hexec : exec (.replayComplete bad count lane) s =
      .next (collectReplay (holdResult u x.tag 0 (be 1 (b2n bad) ++ be 4 count ++ be 1 lane) id)) := by
    refine congrArg Host.Outcome.next ((if_neg (by rw [hwaits]; simp [hsplit])).trans ?_)
    rw [hwaits]
    rfl
  obtain ⟨ht, hmon, hsafe⟩ := holdResult_holds (s := u) 0 (be 1 (b2n bad) ++ be 4 count ++ be 1 lane) htags hkind
  have hnone : (holdResult u x.tag 0 (be 1 (b2n bad) ++ be 4 count ++ be 1 lane) id).mon.wait = none := by
    rw [hmon]
    exact hwait
  rw [collectReplay_none hnone] at hexec
  exact .intro hexec ⟨_, ht, rfl, rfl, rfl, rfl, rfl, congrArg SafeSt.replayMismatch hsafe⟩

/-- Settles O20: each row's effect, from the lemma above that bears its name. -/
theorem monitorReadsLinesAndPackets : Obligations.MonitorReadsLinesAndPackets := by
  unfold Obligations.MonitorReadsLinesAndPackets
  refine ⟨?_, ?_, ?_, ?_, ?_, ?_, ?_, ?_, ?_⟩
  case refine_1 => exact fun s b hm => congrArg Host.Outcome.next (if_pos (by simp [hm]))
  case refine_2 =>
    intro s b hm hreads hwait hheld hover
    have hexec := monitorCharacterReceived_types hm b hreads hwait hheld hover
    have hlines : s.mon.lines = [] := List.isEmpty_iff.mp (Bool.and_eq_true_iff.mp hreads).2
    refine ⟨fun hb hroom => ?_, ?_, ?_⟩
    · rw [hexec, typeChar_joins hb hroom]
    · rintro rfl
      rw [hexec, typeChar_ends hlines]
    · rintro rfl hline
      exact .intro hexec (typeChar_deletes hline)
  case refine_3 => exact fun s b hm hbusy hwait hdrop hroom => monitorCharacterReceived_holds hm b hbusy hwait hdrop hroom
  case refine_4 =>
    exact fun s l hm hbusy hwait hheld hover hlines v hv => monitorLine_commands hm hbusy hwait hheld hover hlines hv
  case refine_5 => exact fun s hm hbusy hlines => portCommands_act hm hbusy hlines
  case refine_6 => exact fun s b hm hmode hmin hlen hmax => packetModeFrame_accepts hm hmode hmin hlen hmax
  case refine_7 => exact fun s hmode hlast => packetByteTimeout_discards hmode hlast
  case refine_8 => exact fun s hm hmode => packetModeEnd_prompts hm hmode
  case refine_9 =>
    exact fun s x bad count lane hsplit hwait htags hkind hstate =>
      replayComplete_holds bad count lane hsplit hwait htags hkind hstate

end Sys2Proof.Proofs
end

section
/-! Wake sources: wires, TC10 links, wake inputs and alarms, their relays and holds (R407, R408, R410 to R412, R416, R418, R421;
log entry 165), and the statement O29. -/

namespace Sys2Proof.Proofs

open Sys2Proof Sys2Proof.Machine

theorem tab_get?_erase_self {α : Type} (t : Tab α) (k : Nat) : Tab.get? (Tab.erase t k) k = none := by
  rw [Tab.get?, Tab.erase, List.find?_eq_none.mpr, Option.map_none]
  intro e he
  obtain ⟨-, hne⟩ := List.mem_filter.mp he
  simpa using hne

/-! ### A wake request (R406, R416, R418) -/

theorem drivePulses_sleep (s : State) (wire : Option LinePort) (link : Option Nat) :
    ∃ w, (drivePulses s wire link).sleep = { s.sleep with refractory := s.clk + 500000000, wires := w } := ⟨_, rfl⟩

/-- The state from which a request wakes: with the pulses that a train-wide one drives. -/
def pulsesFor (s : State) (wide relayed : Bool) : State := if wide && !relayed then drivePulses s none none else s

theorem pulsesFor_sleep (s : State) (wide relayed : Bool) :
    ∃ r w, (pulsesFor s wide relayed).sleep = { s.sleep with refractory := r, wires := w } := by
  unfold pulsesFor
  split
  · exact ⟨_, _, rfl⟩
  · exact ⟨s.sleep.refractory, s.sleep.wires, rfl⟩

section
variable {s : State} {src : Nat} (hmask : maskedSource s src = false) (hoff : s.sleep.power ≠ .off)
include hmask hoff

theorem requestWake_of_past (wide relayed : Bool) (hpast : pastReturn s = true) :
    requestWake s src wide relayed = latchWake s src wide := by
  rw [requestWake, if_neg (by simp [hmask, hoff]), if_pos hpast]

theorem requestWake_of_sleep (wide relayed : Bool) (hpast : pastReturn s = false) (hsleep : s.sleep.power = .sleep) :
    requestWake s src wide relayed = leaveSleep (pulsesFor s wide relayed) src := by
  rw [requestWake, if_neg (by simp [hmask, hoff]), if_neg (by simp [hpast]), hsleep]
  rfl

/-- At an awake unit a request at most corrects the source of the wake it follows. -/
theorem requestWake_of_awake (wide relayed : Bool) (hpast : pastReturn s = false) (hawake : s.sleep.power = .awake) :
    ∃ k r w, (requestWake s src wide relayed).sleep = { s.sleep with source := k, refractory := r, wires := w } := by
  obtain ⟨r, w, hw⟩ := pulsesFor_sleep s wide relayed
  rw [requestWake, if_neg (by simp [hmask, hoff]), if_neg (by simp [hpast]), hawake]
  dsimp only
  split
  · exact ⟨src, r, w, congrArg (fun x : SleepSt => { x with source := src }) hw⟩
  · exact ⟨s.sleep.source, r, w, hw⟩

end

/-- No wake touches the alarms or their holds. -/
theorem requestWake_alarms (s : State) (src : Nat) (wide relayed : Bool) :
    (requestWake s src wide relayed).sleep.alarms = s.sleep.alarms ∧
      (requestWake s src wide relayed).sleep.alarmHold = s.sleep.alarmHold := by
  obtain ⟨r, w, hw⟩ := pulsesFor_sleep s wide relayed
  have hp : (pulsesFor s wide relayed).sleep.alarms = s.sleep.alarms ∧
      (pulsesFor s wide relayed).sleep.alarmHold = s.sleep.alarmHold := by
    rw [hw]
    exact ⟨rfl, rfl⟩
  unfold requestWake
  split
  · exact ⟨rfl, rfl⟩
  · split
    · exact ⟨rfl, rfl⟩
    · dsimp only
      split
      · exact hp
      · exact hp
      · split
        · exact hp
        · exact hp

/-- What a wake from `SLEEP` leaves of the unit. -/
theorem leaveSleep_wakes (s : State) (src : Nat) : (leaveSleep s src).sleep.power = .awake ∧
    (leaveSleep s src).sleep.source = src ∧ (leaveSleep s src).start.boot = .powered ∧
    (leaveSleep s src).sleep.refractory = s.sleep.refractory ∧ (leaveSleep s src).sleep.wires = s.sleep.wires ∧
    (leaveSleep s src).out = s.out :=
  ⟨rfl, rfl, rfl, rfl, rfl, rfl⟩

/-! ### Wires (R408) -/

/-- Every assigned wire but the one that the wake came by is driven. -/
theorem drivePulses_drives (s : State) (wire : Option LinePort) (link : Option Nat) {q : LinePort}
    (hq : assigned s q = true) (hne : some q ≠ wire) : Out.wakePulse q ∈ (drivePulses s wire link).out ∧
      ((drivePulses s wire link).sleep.wires.get q).driven = some s.clk := by
  have hmem : q ∈ allPorts.filter (fun p => assigned s p && some p != wire) := by
    refine List.mem_filter.mpr ⟨?_, by simp [hq, hne]⟩
    cases q <;> decide
  constructor
  · exact List.mem_append_right _ (List.mem_append_left _ (List.mem_map_of_mem hmem))
  · simp only [drivePulses, ports_get_map]
    rw [if_pos (List.contains_iff_mem.mpr hmem)]

theorem drivePulses_spares (s : State) (p : LinePort) (link : Option Nat) :
    ((drivePulses s (some p) link).sleep.wires.get p) = s.sleep.wires.get p := by
  simp only [drivePulses, ports_get_map]
  rw [if_neg (by simp [List.mem_filter])]

/-- The pulse is noted on its own wire. -/
def pulseHeard (s : State) (p : LinePort) : State :=
  { s with sleep := { s.sleep with wires := s.sleep.wires.adj p (fun w => { w with heard := some s.clk }) } }

section
variable {s : State} {p : LinePort} (hsense : sensesWires s = true) (hp : assigned s p = true)
include hsense hp

/-- Past the refractory time the pulse is relayed and a wake of its wire's source. -/
theorem wakePulseQualified_cases : exec (.wakePulseQualified p) s = .next (
    if s.clk < s.sleep.refractory ∨ (s.sleep.wires.get p).stuck = true ∨ maskedSource s (portNo p + 1) = true then pulseHeard s p
    else requestWake (drivePulses (pulseHeard s p) (some p) (some (portNo p + 1))) (portNo p + 1) true true) := by
  have hstuck : ((pulseHeard s p).sleep.wires.get p).stuck = (s.sleep.wires.get p).stuck := by
    rw [pulseHeard, ports_get_adj_self]
  have hsense' : sensesWires (pulseHeard s p) = true := hsense
  have hp' : assigned (pulseHeard s p) p = true := hp
  have hmask : maskedSource (pulseHeard s p) (wireSource p) = maskedSource s (portNo p + 1) := rfl
  have hexec : exec (.wakePulseQualified p) s = .next (
      if !sensesWires (pulseHeard s p) || !assigned (pulseHeard s p) p || s.clk < s.sleep.refractory ||
        ((pulseHeard s p).sleep.wires.get p).stuck || maskedSource (pulseHeard s p) (wireSource p) then pulseHeard s p
      else requestWake (drivePulses (pulseHeard s p) (some p) (some (portNo p + 1))) (portNo p + 1) true true) := by
    simp only [exec, execWakePulseQualified, hsense, hp, Bool.and_self, if_true]
    rfl
  rw [hexec, hsense', hp', hstuck, hmask]
  simp [or_assoc]

theorem wakePulseQualified_refractory (href : s.clk < s.sleep.refractory) :
    exec (.wakePulseQualified p) s = .next { s with sleep := { s.sleep with
      wires := s.sleep.wires.adj p (fun w => { w with heard := some s.clk }) } } := by
  rw [wakePulseQualified_cases hsense hp, if_pos (.inl href)]
  rfl

theorem wakePulseQualified_wakes (href : s.sleep.refractory ≤ s.clk) (hstuck : (s.sleep.wires.get p).stuck = false)
    (hmask : maskedSource s (portNo p + 1) = false) :
    (s.sleep.power = .sleep → pastReturn s = false → Answers (.wakePulseQualified p) s (fun t =>
      t.sleep.power = .awake ∧ t.sleep.source = portNo p + 1 ∧ t.start.boot = .powered ∧
      t.sleep.refractory = s.clk + 500000000 ∧
      (∀ q, q ≠ p → assigned s q = true → Out.wakePulse q ∈ t.out ∧ (t.sleep.wires.get q).driven = some s.clk) ∧
      (t.sleep.wires.get p).driven = (s.sleep.wires.get p).driven)) ∧
    (pastReturn s = true → s.sleep.power ≠ .off → s.sleep.latch = none → Answers (.wakePulseQualified p) s (fun t =>
      t.sleep.latch = some (true, portNo p + 1) ∧ t.sleep.power = s.sleep.power)) := by
  have hexec := wakePulseQualified_cases hsense hp
  have hact : ¬(s.clk < s.sleep.refractory ∨ (s.sleep.wires.get p).stuck = true ∨ maskedSource s (portNo p + 1) = true) := by
    simp [hstuck, hmask, href]
  rw [if_neg hact] at hexec
  let u := drivePulses (pulseHeard s p) (some p) (some (portNo p + 1))
  have hmask' : maskedSource u (portNo p + 1) = false := hmask
  refine ⟨fun hsleep hpast => ?_, fun hpast hoff hlatch => ?_⟩
  · have hoff : u.sleep.power ≠ .off := fun h => (nomatch hsleep.symm.trans h)
    rw [requestWake_of_sleep hmask' hoff true true hpast hsleep] at hexec
    obtain ⟨hpower, hsource, hboot, hrefr, hwires, hout⟩ := leaveSleep_wakes u (portNo p + 1)
    refine .intro hexec ⟨hpower, hsource, hboot, hrefr, fun q hq hassigned => ?_, ?_⟩
    · obtain ⟨hpulse, hdriven⟩ := drivePulses_drives (pulseHeard s p) (some p) (some (portNo p + 1)) (q := q) hassigned
        (fun h => hq (Option.some.inj h))
      exact ⟨hpulse, hdriven⟩
    · show ((drivePulses (pulseHeard s p) (some p) (some (portNo p + 1))).sleep.wires.get p).driven = _
      rw [drivePulses_spares, pulseHeard, ports_get_adj_self]
  · rw [requestWake_of_past hmask' hoff true true hpast] at hexec
    refine .intro hexec ⟨?_, rfl⟩
    show some (match u.sleep.latch with | none => (true, portNo p + 1) | some (w, k) => (w || true, k)) = _
    rw [show u.sleep.latch = none from hlatch]

/-- A stuck wire is logged once. -/
theorem wakeWireStuck_marks (hstuck : (s.sleep.wires.get p).stuck = false) :
    Answers (.wakeWireStuck p) s (fun t => (t.sleep.wires.get p).stuck = true ∧
      t.recorder = (report s 0x0A01 2 (portNo p + 1) []).recorder) := by
  refine .intro (congrArg Host.Outcome.next (if_neg (by simp [hsense, hp, hstuck]))) ⟨?_, rfl⟩
  exact congrArg WakeWire.stuck (ports_get_adj_self ..)

end

theorem wakePulseEnd_releases (s : State) : Answers .wakePulseEnd s (fun t => ∀ p,
    (t.sleep.wires.get p).stuck = (s.sleep.wires.get p).stuck ∧
    (∀ t0, (s.sleep.wires.get p).driven = some t0 →
      (t.sleep.wires.get p).driven = if t0 + 20000000 ≤ s.clk then none else some t0)) := by
  refine .intro rfl fun p => ?_
  rw [ports_get_map]
  cases h : (s.sleep.wires.get p).driven with
  | none => exact ⟨rfl, fun _ h' => nomatch h'⟩
  | some t0 =>
    refine ⟨?_, ?_⟩
    · dsimp only
      split <;> rfl
    · intro t1 ht
      obtain rfl := Option.some.inj ht
      dsimp only
      split
      · rfl
      · exact h

theorem wakeWireReleased_releases (s : State) (p : LinePort) : Answers (.wakeWireReleased p) s (fun t =>
    (t.sleep.wires.get p).stuck = false ∧ (t.sleep.wires.get p).heard = none ∧
    (∀ q, q ≠ p → t.sleep.wires.get q = s.sleep.wires.get q)) :=
  .intro rfl ⟨congrArg WakeWire.stuck (ports_get_adj_self ..), congrArg WakeWire.heard (ports_get_adj_self ..),
    fun _ hq => ports_get_adj_other _ _ hq⟩

/-! ### TC10 (R407, R410) -/

theorem tc10WakeReceived_wakes {s : State} {link : Nat} (hsleep : s.sleep.power = .sleep) (hphy : link ∈ s.sleep.phySleep)
    (hmask : maskedSource s (link + 4) = false) (hpast : pastReturn s = false) :
    Answers (.tc10WakeReceived link) s (fun t =>
      t.sleep.power = .awake ∧ t.sleep.source = link + 4 ∧ t.start.boot = .powered) := by
  have hexec : exec (.tc10WakeReceived link) s = .next (requestWake (if s.clk < s.sleep.refractory then s
      else drivePulses s none (some link)) (link + 4) true true) :=
    congrArg Host.Outcome.next (if_neg (by simp [hsleep, hphy, linkSource, hmask]))
  have hwake : ∀ u : State, u.sleep.power = s.sleep.power → maskedSource u (link + 4) = maskedSource s (link + 4) →
      pastReturn u = pastReturn s → (requestWake u (link + 4) true true).sleep.power = .awake ∧
      (requestWake u (link + 4) true true).sleep.source = link + 4 ∧
      (requestWake u (link + 4) true true).start.boot = .powered := by
    intro u hpower hm hr
    rw [requestWake_of_sleep (hm.trans hmask) (by simp [hpower, hsleep]) true true (hr.trans hpast) (hpower.trans hsleep)]
    exact ⟨rfl, rfl, rfl⟩
  refine .intro hexec ?_
  split
  · exact hwake s rfl rfl rfl
  · exact hwake (drivePulses s none (some link)) rfl rfl rfl

theorem tc10SleepTimeout_sleeps {s : State} {link t0 : Nat} (ht : Tab.get? s.sleep.tc10 link = some t0)
    (hdue : t0 + 10000000 ≤ s.clk) : Answers (.tc10SleepTimeout link) s (fun t =>
      t.sleep.phySleep = s.sleep.phySleep ++ [link] ∧ Tab.get? t.sleep.tc10 link = none) := by
  have hexec : exec (.tc10SleepTimeout link) s = .next { s with sleep := { s.sleep with
      tc10 := Tab.erase s.sleep.tc10 link, phySleep := s.sleep.phySleep ++ [link] } } := by
    simp only [exec, execTc10SleepTimeout, ht]
    rw [if_neg (by omega)]
  exact .intro hexec ⟨rfl, tab_get?_erase_self _ _⟩

/-! ### Wake inputs (R407, R421) -/

/-- The input is active from now on, and a reason. -/
def inputActive (s : State) (k : Nat) : State :=
  { s with sleep := { s.sleep with
      inputSince := Tab.set s.sleep.inputSince k s.clk, inputOffSince := Tab.erase s.sleep.inputOffSince k
      reasonSeen := s.sleep.reasonSeen || !maskedSource s (10 + k) } }

theorem wakeInputActive_wakes {s : State} {k : Nat} {high wide : Bool}
    (hcfg : Tab.get? (powerCfg s).wakeInputs k = some (high, wide)) (hoff : s.sleep.power ≠ .off)
    (hnew : Tab.has s.sleep.inputSince k = false) (hstuck : k ∉ s.sleep.inputStuck)
    (hmask : maskedSource s (10 + k) = false) (hpast : pastReturn s = false) :
    (s.sleep.power = .awake → Answers (.wakeInputActive k) s (fun t =>
      Tab.get? t.sleep.inputSince k = some s.clk ∧ t.sleep.reasonSeen = true ∧ t.sleep.power = .awake)) ∧
    (s.sleep.power = .sleep → Answers (.wakeInputActive k) s (fun t =>
      t.sleep.power = .awake ∧ t.sleep.source = 10 + k)) := by
  have hexec : exec (.wakeInputActive k) s = .next (requestWake (inputActive s k) (10 + k) wide false) := by
    simp only [exec, execWakeInputActive, hcfg]
    rw [if_neg (by simp [hoff, hnew]), if_neg (by simp [hstuck])]
    rfl
  refine ⟨fun hawake => ?_, fun hsleep => ?_⟩
  · obtain ⟨j, r, w, h⟩ := requestWake_of_awake (s := inputActive s k) hmask hoff wide false hpast hawake
    refine .intro hexec ?_
    rw [h]
    exact ⟨tab_get?_set_self .., by simp [inputActive, hmask], hawake⟩
  · rw [requestWake_of_sleep (s := inputActive s k) hmask hoff wide false hpast hsleep] at hexec
    exact .intro hexec ⟨rfl, rfl⟩

theorem wakeInputStuck_marks {s : State} {k t0 : Nat} (ht : Tab.get? s.sleep.inputSince k = some t0)
    (hstuck : k ∉ s.sleep.inputStuck) (hlong : t0 + (powerCfg s).maxAwake * 60000000000 < s.clk) :
    Answers (.wakeInputStuck k) s (fun t => t.sleep.inputStuck = s.sleep.inputStuck ++ [k]) := by
  have hexec : exec (.wakeInputStuck k) s = .next (report { s with sleep := { s.sleep with
      inputStuck := s.sleep.inputStuck ++ [k] } } 0x0A04 2 k []) := by
    simp only [exec, execWakeInputStuck, ht]
    rw [if_neg (by simp [hstuck]; omega)]
  exact .intro hexec rfl

theorem wakeInputUnstuck_releases {s : State} {k t0 : Nat} (ht : Tab.get? s.sleep.inputOffSince k = some t0)
    (hquiet : t0 + 10000000000 ≤ s.clk) : Answers (.wakeInputUnstuck k) s (fun t =>
      k ∉ t.sleep.inputStuck ∧ Tab.get? t.sleep.inputSince k = none) := by
  have hexec : exec (.wakeInputUnstuck k) s = .next { s with sleep := { s.sleep with
      inputStuck := s.sleep.inputStuck.filter (· != k), inputSince := Tab.erase s.sleep.inputSince k } } := by
    simp only [exec, execWakeInputUnstuck, ht, hquiet, decide_true, if_true]
  exact .intro hexec ⟨by simp, tab_get?_erase_self _ _⟩

/-! ### Alarms and holds (R411, R412) -/

/-- What an alarm leaves in the table: a repeating one moves on by 24 h. -/
def alarmsAfter (s : State) (k : Nat) (a : AlarmEntry) : Tab AlarmEntry :=
  if a.repeats then Tab.set s.sleep.alarms k { a with time := a.time + 86400000000000 } else Tab.erase s.sleep.alarms k

/-- The entry's hold begins. -/
def alarmHeld (s : State) (k : Nat) (a : AlarmEntry) : State :=
  { s with sleep := { s.sleep with
      alarms := alarmsAfter s k a
      alarmHold := Tab.set s.sleep.alarmHold k (s.clk + a.hold * 1000000)
      reasonSeen := true } }

theorem alarmFire_holds {s : State} {k : Nat} {a : AlarmEntry} (ha : Tab.get? s.sleep.alarms k = some a)
    (hoff : s.sleep.power ≠ .off) (hdue : a.time ≤ rtc s) : Answers (.alarmFire k) s (fun t =>
      t.sleep.alarms = alarmsAfter s k a ∧
      (maskedSource s 15 = false → Tab.get? t.sleep.alarmHold k = some (s.clk + a.hold * 1000000) ∧
        (s.sleep.power = .sleep → pastReturn s = false → t.sleep.power = .awake ∧ t.sleep.source = 15))) := by
  have hexec : exec (.alarmFire k) s = .next (
      if maskedSource s 15 then { s with sleep := { s.sleep with alarms := alarmsAfter s k a } }
      else requestWake (alarmHeld s k a) 15 a.trainWide false) := by
    simp only [exec, execAlarmFire, ha]
    rw [if_neg (by simp [hoff]; omega)]
    rfl
  cases hmask : maskedSource s 15
  case true =>
    rw [hmask] at hexec
    exact .intro hexec ⟨rfl, (nomatch ·)⟩
  case false =>
    rw [hmask] at hexec
    obtain ⟨halarms, hhold⟩ := requestWake_alarms (alarmHeld s k a) 15 a.trainWide false
    refine .intro hexec ⟨halarms, fun _ => ⟨?_, fun hsleep hpast => ?_⟩⟩
    · exact (congrArg (Tab.get? · k) hhold).trans (tab_get?_set_self ..)
    · have hwake := requestWake_of_sleep (s := alarmHeld s k a) hmask hoff a.trainWide false hpast hsleep
      rw [if_neg (by decide), hwake]
      exact ⟨rfl, rfl⟩

theorem alarmHoldEnd_ends {s : State} {k t0 : Nat} (ht : Tab.get? s.sleep.alarmHold k = some t0) (hend : t0 ≤ s.clk) :
    exec (.alarmHoldEnd k) s = .next { s with sleep := { s.sleep with alarmHold := Tab.erase s.sleep.alarmHold k } } := by
  simp only [exec, execAlarmHoldEnd, ht, hend, if_true]

theorem commandHoldEnd_ends {s : State} {t0 : Nat} (ht : s.sleep.commandHold = some t0) (hend : t0 ≤ s.clk) :
    exec .commandHoldEnd s = .next { s with sleep := { s.sleep with commandHold := none } } := by
  simp only [exec, execCommandHoldEnd, ht, hend, if_true]

/-- Settles O29: each row's effect, from the lemma above that bears its name. -/
theorem wakeSourcesActAndHold : Obligations.WakeSourcesActAndHold := by
  unfold Obligations.WakeSourcesActAndHold
  refine ⟨?_, ?_, wakePulseEnd_releases, ?_, ?_, ?_, ?_, ?_, ?_, ?_, ?_, ?_, ?_, ?_⟩
  case refine_1 => exact fun s p hsense hp href hstuck hmask => wakePulseQualified_wakes hsense hp href hstuck hmask
  case refine_2 => exact fun s p hsense hp href => wakePulseQualified_refractory hsense hp href
  case refine_3 => exact fun s href => congrArg Host.Outcome.next (if_pos href)
  case refine_4 =>
    exact fun s p => ⟨fun hsense hp hstuck => wakeWireStuck_marks hsense hp hstuck, wakeWireReleased_releases s p⟩
  case refine_5 => exact fun s link hsleep hphy hmask hpast => tc10WakeReceived_wakes hsleep hphy hmask hpast
  case refine_6 => exact fun s link t0 ht hdue => tc10SleepTimeout_sleeps ht hdue
  case refine_7 =>
    exact fun s k high wide hcfg hoff hnew hstuck hmask hpast => wakeInputActive_wakes hcfg hoff hnew hstuck hmask hpast
  case refine_8 => exact fun s k t0 ht hstuck hlong => wakeInputStuck_marks ht hstuck hlong
  case refine_9 => exact fun s k t0 ht hquiet => wakeInputUnstuck_releases ht hquiet
  case refine_10 => exact fun s k a ha hoff hdue => alarmFire_holds ha hoff hdue
  case refine_11 => exact fun s k t0 ht hend => alarmHoldEnd_ends ht hend
  case refine_12 => exact fun s t0 ht hend => commandHoldEnd_ends ht hend
  case refine_13 =>
    exact fun s hbase hset => .intro (congrArg Host.Outcome.next (if_pos ⟨hbase, hset⟩)) ⟨rfl, rfl, rfl⟩

end Sys2Proof.Proofs
end

section
/-! Entering and leaving sleep, false wakes and masks, line-keeping and the maximum awake time (R415 to R419, R422 to R424, R442,
R519), and the statement O30. -/

namespace Sys2Proof.Proofs

open Sys2Proof Sys2Proof.Machine

/-! ### The stop for sleep (R417, R442) -/

/-- The management side's stop ends the holds, votes and announcements of the running unit, and no mask. -/
theorem mgmtDown_sleep (s : State) : (mgmtDown s).sleep = { s.sleep with
    commandHold := none, votes := [], sleepAt := none, partialFrom := none, override := false, holders := [] } :=
  congrArg (fun x : SleepSt => { x with
    commandHold := none, votes := [], sleepAt := none, partialFrom := none, override := false, holders := [] })
    (electionEnded_only s .sleep (by decide))

theorem closeForSleep_sleep (s : State) (c : Nat) : (closeForSleep s c).sleep = s.sleep :=
  closeForSleep_only s c .sleep (by decide)

/-- With or without the real-time alarm's set. -/
theorem stopForSleep_stops (s : State) (c : Nat) : (stopForSleep s c).host.ready = false ∧
    (stopForSleep s c).set.lease = false := by
  unfold stopForSleep
  dsimp only
  split <;> exact ⟨rfl, rfl⟩

/-- What a stop for sleep keeps of the false wakes and their masks. -/
theorem stopForSleep_masks (s : State) (c : Nat) : (stopForSleep s c).sleep.falseWakes = s.sleep.falseWakes ∧
    (stopForSleep s c).sleep.falseAt = s.sleep.falseAt ∧ (stopForSleep s c).sleep.masked = s.sleep.masked := by
  have hclose : (closeForSleep (dropOutputs s) c).sleep = s.sleep := closeForSleep_sleep (dropOutputs s) c
  have hdown := mgmtDown_sleep (closeForSleep (dropOutputs s) c)
  rw [hclose] at hdown
  have hsame : (mgmtDown (closeForSleep (dropOutputs s) c)).sleep.falseWakes = s.sleep.falseWakes ∧
      (mgmtDown (closeForSleep (dropOutputs s) c)).sleep.falseAt = s.sleep.falseAt ∧
      (mgmtDown (closeForSleep (dropOutputs s) c)).sleep.masked = s.sleep.masked := by
    rw [hdown]
    exact ⟨rfl, rfl, rfl⟩
  unfold stopForSleep
  dsimp only
  split <;> exact hsame

theorem pointOfNoReturn_passes {s : State} (hann : s.sleep.announced ≠ 0) (hrun : s.cyc.running = true)
    (hlow : 1 ≤ cycDiff s.sleep.announced (gridN s)) (hhigh : cycDiff s.sleep.announced (gridN s) ≤ 3) :
    exec .pointOfNoReturn s = .next { s with sleep := { s.sleep with pastNoReturn := true } } :=
  congrArg Host.Outcome.next (if_pos ⟨hann, hrun, hlow, hhigh⟩)

/-! ### The entry and its completion (R416, R417, R519) -/

/-- What the unit is from the sleep's Ts on. -/
theorem enterSleep_enters (s : State) (c : Nat) : (enterSleep s c).sleep.entering = some s.clk ∧
    (enterSleep s c).sleep.pastNoReturn = true ∧ (enterSleep s c).host.ready = false ∧
    (enterSleep s c).cyc.running = false ∧ (enterSleep s c).safe.applied = 0 ∧ (enterSleep s c).set.lease = false ∧
    (∀ k ∈ sleepLinks s, Out.tc10Sleep k ∈ (enterSleep s c).out) ∧
    (enterSleep s c).sleep.tc10 = (sleepLinks s).map (fun k => (k, s.clk)) := by
  obtain ⟨hready, hlease⟩ := stopForSleep_stops s c
  exact ⟨rfl, rfl, hready, rfl, enterSleep_dark s c, hlease,
    fun k hk => List.mem_append_right _ (List.mem_map_of_mem hk), rfl⟩

theorem enterSleep_masks (s : State) (c : Nat) : (enterSleep s c).sleep.falseWakes = s.sleep.falseWakes ∧
    (enterSleep s c).sleep.falseAt = s.sleep.falseAt ∧ (enterSleep s c).sleep.masked = s.sleep.masked :=
  stopForSleep_masks s c

theorem sleepEntry_enters {s : State} (hrun : s.cyc.running = true) (hnext : s.sleep.announced = nextGrid s)
    (hann : s.sleep.announced ≠ 0) (hseen : 1 ≤ s.sleep.seen) (hts : nextTs s ≤ s.time.now) (hent : s.sleep.entering = none)
    (hawake : s.sleep.power = .awake) : exec .sleepEntry s = .next (enterSleep s (nextGrid s)) := by
  refine congrArg Host.Outcome.next (if_pos ⟨hrun, ?_, hts, by simp [hent], by simp [hawake], by simp [hawake]⟩)
  rw [sleepsAt, ← hnext]
  simp [hann, hseen]

/-- Only the always-on domain runs, and the wake latch has not acted yet. -/
def asleep (s : State) : State :=
  { islandDown s with
    start := { s.start with boot := .powered }
    sleep := { s.sleep with
      power := .sleep, entering := none, pastNoReturn := false, announced := 0, seen := 0
      phySleep := s.sleep.phySleep ++ s.sleep.tc10.map (·.1), tc10 := [] } }

theorem actOnLatch_wakes {s : State} {wide : Bool} {src : Nat} (h : s.sleep.latch = some (wide, src)) :
    (actOnLatch s).sleep.power = .awake ∧ (actOnLatch s).sleep.source = src ∧ (actOnLatch s).sleep.latch = none ∧
      (actOnLatch s).sleep.latchedWake = true := by
  rw [actOnLatch, h]
  exact ⟨rfl, rfl, rfl, rfl⟩

theorem sleepEntryComplete_completes {s : State} {t0 : Nat} (hent : s.sleep.entering = some t0) :
    (s.sleep.latch = none → Answers .sleepEntryComplete s (fun t => t.sleep.power = .sleep ∧ t.sleep.entering = none ∧
      t.start.boot = .powered ∧ t.line.relayAOpen = s.line.relayAOpen ∧ t.line.relayBOpen = s.line.relayBOpen ∧
      t.set.numbering = none ∧ t.set.retained = s.set.retained ∧ t.cyc = CycleSt.init)) ∧
    (∀ wide src, s.sleep.latch = some (wide, src) → Answers .sleepEntryComplete s (fun t => t.sleep.power = .awake ∧
      t.sleep.source = src ∧ t.sleep.latch = none ∧ t.sleep.latchedWake = true)) := by
  have hexec : exec .sleepEntryComplete s = .next (actOnLatch (asleep s)) :=
    congrArg Host.Outcome.next (if_neg (by simp [hent]))
  refine ⟨fun hlatch => ?_, fun wide src hlatch => .intro hexec (actOnLatch_wakes (s := asleep s) hlatch)⟩
  have hrest : actOnLatch (asleep s) = asleep s := by rw [actOnLatch, show (asleep s).sleep.latch = none from hlatch]
  exact .intro (hexec.trans (congrArg Host.Outcome.next hrest)) ⟨rfl, rfl, rfl, rfl, rfl, rfl, rfl, rfl⟩

/-! ### False wakes and masks (R418, R419) -/

/-- The false wakes of the unit's wake source within 3,600 s, this one with them. -/
def falseWakesOf (s : State) : List Nat :=
  (Tab.getD s.sleep.falseAt s.sleep.source []).filter (fun t => s.clk < t + 3600000000000) ++ [s.clk]

/-- The source is masked: the eighth of its false wakes, and not the power-on. -/
def masksSource (s : State) : Bool := decide (8 ≤ (falseWakesOf s).length) && decide (s.sleep.source ≠ 0)

theorem countFalseWake_sleep (s : State) : (countFalseWake s).sleep = { s.sleep with
    falseWakes := satAdd 255 s.sleep.falseWakes 1
    falseAt := Tab.set s.sleep.falseAt s.sleep.source (if masksSource s then [] else falseWakesOf s)
    masked := if masksSource s then Tab.set s.sleep.masked s.sleep.source (s.clk + 3600000000000) else s.sleep.masked } := by
  have hrecord : ∀ u : State, (recordNow u 0x0A02 2 s.sleep.source []).sleep = u.sleep :=
    fun u => recordNow_only u _ _ _ _ .sleep (by decide)
  have hreport : ∀ u : State, (report u 0x0A02 2 s.sleep.source []).sleep = u.sleep := fun _ => rfl
  simp only [countFalseWake, apply_ite State.sleep, hrecord, hreport, ite_self]
  rfl

theorem falseWake_sleeps {s : State} (hawake : s.sleep.power = .awake) (hfrom : s.sleep.awakeFrom ≠ 0)
    (hfive : s.sleep.awakeFrom + 5000000000 ≤ s.clk) (hreason : s.sleep.reasonSeen = false)
    (hbits : reasonBitmap s / 64 * 64 + reasonBitmap s % 32 = 0) (hent : s.sleep.entering = none) :
    Answers .falseWake s (fun t => t.sleep.entering = some s.clk ∧ t.sleep.falseWakes = satAdd 255 s.sleep.falseWakes 1 ∧
      (8 ≤ (falseWakesOf s).length → s.sleep.source ≠ 0 →
        Tab.get? t.sleep.masked s.sleep.source = some (s.clk + 3600000000000)) ∧
      ((falseWakesOf s).length < 8 → t.sleep.masked = s.sleep.masked ∧
        Tab.get? t.sleep.falseAt s.sleep.source = some (falseWakesOf s))) := by
  have hcount := countFalseWake_sleep s
  have hclk : (countFalseWake s).clk = s.clk := countFalseWake_only s .clk (by decide)
  obtain ⟨hentering, -⟩ := enterSleep_enters (countFalseWake s) (gridN s)
  obtain ⟨hwakes, hat, hmasked⟩ := enterSleep_masks (countFalseWake s) (gridN s)
  rw [hcount] at hwakes hat hmasked
  refine .intro (congrArg Host.Outcome.next (if_neg ?_)) ⟨hentering.trans (congrArg some hclk), hwakes, ?_, ?_⟩
  · simp [hawake, hfrom, hreason, hbits, hent]
    omega
  · intro h8 hsrc
    have hm : masksSource s = true := by simp [masksSource, h8, hsrc]
    rw [hmasked, hm, if_pos rfl]
    exact tab_get?_set_self ..
  · intro h8
    have hm : masksSource s = false := by simp [masksSource]; omega
    rw [hmasked, hat, hm]
    exact ⟨rfl, tab_get?_set_self ..⟩

theorem wakeSourceUnmasked_unmasks {s : State} {src t0 : Nat} (ht : Tab.get? s.sleep.masked src = some t0)
    (hdue : t0 ≤ s.clk) : Answers (.wakeSourceUnmasked src) s (fun t => maskedSource t src = false ∧
      t.recorder = (report s 0x0A03 2 src []).recorder) := by
  have hexec : exec (.wakeSourceUnmasked src) s = .next (report { s with sleep := { s.sleep with
      masked := Tab.erase s.sleep.masked src } } 0x0A03 2 src []) := by
    simp only [exec, execWakeSourceUnmasked, ht]
    rw [if_neg (by omega)]
  refine .intro hexec ⟨?_, rfl⟩
  show Tab.has (Tab.erase s.sleep.masked src) src = false
  simp [Tab.has, Tab.erase]

/-! ### Line-keeping and the maximum awake time (R423, R424) -/

theorem lineKeepingEntry_enters {s : State} {t0 : Nat} (hawake : s.sleep.power = .awake) (hm : managing s = true)
    (hallowed : (powerCfg s).lkAllowed = true) (hlease : s.set.lease = false) (hin : inCycle s = true)
    (hann : s.sleep.announced = 0) (hsince : s.sleep.lkSince = some t0)
    (hdue : t0 + (powerCfg s).lkDelay * 1000000000 ≤ s.clk) :
    Answers .lineKeepingEntry s (fun t => t.sleep.power = .lineKeeping ∧ t.start.boot = .island ∧ t.host.ready = false ∧
      t.line = s.line ∧ t.cyc = s.cyc ∧ t.set.numbering = s.set.numbering ∧ t.safe.applied = 0) := by
  obtain ⟨hline, hcyc, -, hnumbering, -⟩ := mgmtDown_runsOn s
  refine .intro (congrArg Host.Outcome.next (if_pos ⟨hawake, hm, hallowed, by simp [hlease], hin, hann, ?_⟩))
    ⟨rfl, rfl, rfl, hline, hcyc, hnumbering, mgmtDown_dark s⟩
  simp only [hsince, hdue, decide_true]

theorem requestWake_of_lineKeeping {s : State} {src : Nat} (wide : Bool) (hmask : maskedSource s src = false)
    (hlk : s.sleep.power = .lineKeeping) (hpast : pastReturn s = false) :
    requestWake s src wide true = leaveLineKeeping s src := by
  rw [requestWake, if_neg (by simp [hmask, hlk]), if_neg (by simp [hpast]), hlk]
  simp

theorem lineKeepingExit_leaves {s : State} (hlk : s.sleep.power = .lineKeeping) (hpast : pastReturn s = false) (src : Nat) :
    (11 ≤ src → src ≤ 16 → maskedSource s src = false → Answers (.lineKeepingExit src) s (fun t =>
      t.sleep.power = .awake ∧ t.sleep.source = src ∧ t.host.booting = true ∧ t.line = s.line)) ∧
    (s.set.state ≠ .committed → Answers (.lineKeepingExit 0) s (fun t =>
      t.sleep.power = .awake ∧ t.host.booting = true)) := by
  refine ⟨fun hlow hhigh hmask => ?_, fun hset => ?_⟩
  · refine .intro (congrArg Host.Outcome.next ((if_neg (by simp [hlk])).trans ((if_pos ?_).trans
      (requestWake_of_lineKeeping _ hmask hlk hpast)))) ⟨rfl, ?_, rfl, rfl⟩
    · simp [hlow, hhigh, hmask]
    · exact if_neg (by omega)
  · exact .intro (congrArg Host.Outcome.next ((if_neg (by simp [hlk])).trans ((if_neg (by simp)).trans
      (if_pos (.inl hset))))) ⟨rfl, rfl⟩

theorem maxAwakeExpiry_overrides {s : State} {t0 : Nat} (ht : s.sleep.partialFrom = some t0) (hlease : s.set.lease = true)
    (hdue : t0 + (powerCfg s).maxAwake * 60000000000 ≤ s.clk) :
    exec .maxAwakeExpiry s = .next { s with sleep := { s.sleep with override := true } } := by
  simp only [exec, execMaxAwakeExpiry, ht]
  rw [if_pos ⟨hlease, hdue⟩]

/-- Settles O30: each row's effect, from the lemma above that bears its name. -/
theorem sleepIsEnteredAndLeft : Obligations.SleepIsEnteredAndLeft := by
  unfold Obligations.SleepIsEnteredAndLeft
  refine ⟨?_, ?_, ?_, ?_, ?_, ?_, ?_, ?_⟩
  case refine_1 => exact fun s hann hrun hlow hhigh => pointOfNoReturn_passes hann hrun hlow hhigh
  case refine_2 =>
    exact fun s hrun hnext hann hseen hts hent hawake =>
      .intro (sleepEntry_enters hrun hnext hann hseen hts hent hawake) (enterSleep_enters s (nextGrid s))
  case refine_3 => exact fun s t0 hent => sleepEntryComplete_completes hent
  case refine_4 =>
    rintro s hawake hfrom hfive hreason hbits hent l rfl
    exact falseWake_sleeps hawake hfrom hfive hreason hbits hent
  case refine_5 => exact fun s src t0 ht hdue => wakeSourceUnmasked_unmasks ht hdue
  case refine_6 =>
    exact fun s t0 hawake hm hallowed hlease hin hann hsince hdue =>
      lineKeepingEntry_enters hawake hm hallowed hlease hin hann hsince hdue
  case refine_7 => exact fun s src hlk hpast => lineKeepingExit_leaves hlk hpast src
  case refine_8 => exact fun s t0 ht hlease hdue => maxAwakeExpiry_overrides ht hlease hdue

end Sys2Proof.Proofs
end

section
/-! The interlock, the roles of pairs and stacks, and the hawk (R385 to R389, R391, R392, R395, R397 to R399, R401), and the
statement O32. -/

namespace Sys2Proof.Proofs

open Sys2Proof Sys2Proof.Machine

/-! ### Arrangements -/

theorem isStack_of_pair {s : State} (h : isPair s = true) : isStack s = false := by
  simp only [isPair, Bool.or_eq_true, beq_iff_eq] at h
  rcases h with h | h <;> simp [isStack, h]

theorem restingRole_of_pair {s : State} (h : isPair s = true) : restingRole s = .standby := by
  rw [restingRole, isStack_of_pair h, if_neg (by decide), if_pos h]

theorem restingRole_of_stack {s : State} (h : isStack s = true) : restingRole s = .member := if_pos h

/-! ### Leaving the composing role (R375, R387, R391, R397) -/

/-- What leaving the role changes of the pair's state. -/
def roleLeft (s : State) : PairSt :=
  { s.pair with
    role := restingRole s, ilkOut := s.pair.ilkOut && isStack s, watchdog := if isStack s then s.pair.watchdog else none
    releasing := false, handAt := none, takeAt := none, coldTo := none }

theorem leaveRole_pair (s : State) : (leaveRole s).pair = roleLeft s := by
  unfold leaveRole
  dsimp only
  rw [setRole_pair]
  rfl

theorem leaveRole_of_pair {s : State} (h : isPair s = true) : (leaveRole s).pair.role = .standby ∧
    (leaveRole s).pair.ilkOut = false ∧ (leaveRole s).safe.applied = 0 ∧ (leaveRole s).pair.releasing = false := by
  rw [leaveRole_pair]
  refine ⟨restingRole_of_pair h, ?_, leaveRole_dark s, rfl⟩
  show (s.pair.ilkOut && isStack s) = false
  rw [isStack_of_pair h, Bool.and_false]

theorem leaveRole_of_stack {s : State} (h : isStack s = true) : (leaveRole s).pair.role = .member ∧
    (leaveRole s).pair.hawkHeld = s.pair.hawkHeld ∧ (leaveRole s).safe.applied = 0 := by
  rw [leaveRole_pair]
  exact ⟨restingRole_of_stack h, rfl, leaveRole_dark s⟩

/-- What stands for the interlock output goes, and nothing of the readings. -/
theorem loseIlk_loses (s : State) : (loseIlk s).pair.ilkIn = s.pair.ilkIn ∧ (loseIlk s).pair.ownLoop = s.pair.ownLoop ∧
    (loseIlk s).pair.ilkSince = s.pair.ilkSince ∧ (loseIlk s).pair.ilkOut = false ∧ (loseIlk s).pair.watchdog = none ∧
    (isStack s = true → (loseIlk s).set.lease = false) ∧
    (isPair s = true → (loseIlk s).pair.role = .standby ∧ (loseIlk s).safe.applied = 0) := by
  unfold loseIlk
  cases hstack : isStack s
  case true =>
    refine ⟨rfl, rfl, rfl, rfl, rfl, fun _ => rfl, fun hpair => ?_⟩
    simp [isStack_of_pair hpair] at hstack
  case false =>
    rw [if_neg (by decide), leaveRole_pair, roleLeft, hstack]
    exact ⟨rfl, rfl, rfl, Bool.and_false _, rfl, (nomatch ·), fun hpair => ⟨restingRole_of_pair hpair, leaveRole_dark s⟩⟩

/-! ### Becoming composing (R391, R393 to R395, R398) -/

/-- What a takeover makes of the pair's state; a cold one counts its cycles. -/
def roleTaken (s : State) (r : Role) (warm : Bool) : PairSt :=
  { s.pair with
    role := r, coldTo := if warm then s.pair.coldTo else some (cycAdd s.cyc.n 7)
    takeAt := none, handAt := none, releasing := false, gapFrom := none, gapCycles := 0, repeatOff := false
    mirror := Mirror.init, sendFull := true, sent := [] }

/-- The unit with its bridge begun afresh, in its new role. -/
def roleEntered (s : State) (r : Role) : State := setRole (freshBridge s) r

theorem roleEntered_pair (s : State) (r : Role) : (roleEntered s r).pair = { s.pair with role := r } :=
  setRole_pair (freshBridge s) r

theorem roleEntered_bridge (s : State) (r : Role) :
    (roleEntered s r).bridge = { BridgeSt.init with endpoints := s.bridge.endpoints } :=
  setRole_only (freshBridge s) r .bridge (by decide)

theorem takeWarm_pair (s : State) : (takeWarm s).pair = s.pair := takeWarm_only s .pair (by decide)

theorem becomeComposing_pair (s : State) (r : Role) (warm : Bool) :
    (becomeComposing s r warm).pair = roleTaken s r warm := by
  have htaken : (if warm then takeWarm (roleEntered s r) else takeCold (roleEntered s r) s.cyc.n).pair =
      { s.pair with role := r, coldTo := if warm then s.pair.coldTo else some (cycAdd s.cyc.n 7) } := by
    cases warm
    case true => exact (takeWarm_pair _).trans (roleEntered_pair s r)
    case false => exact congrArg (fun x : PairSt => { x with coldTo := some (cycAdd s.cyc.n 7) }) (roleEntered_pair s r)
  exact congrArg (fun x : PairSt => { x with
    takeAt := none, handAt := none, releasing := false, gapFrom := none, gapCycles := 0, repeatOff := false
    mirror := Mirror.init, sendFull := true, sent := [] }) htaken

theorem becomeComposing_bridge (s : State) (r : Role) (warm : Bool) :
    (becomeComposing s r warm).bridge = { BridgeSt.init with endpoints := s.bridge.endpoints } := by
  have htaken : (if warm then takeWarm (roleEntered s r) else takeCold (roleEntered s r) s.cyc.n).bridge =
      (roleEntered s r).bridge := by
    cases warm
    case true => exact takeWarm_only (roleEntered s r) .bridge (by decide)
    case false => exact takeCold_only (roleEntered s r) s.cyc.n .bridge (by decide)
  exact htaken.trans (roleEntered_bridge s r)

/-- A cold takeover lapses every force. -/
theorem becomeComposing_cold (s : State) (r : Role) : (becomeComposing s r false).skim.forces = [] := rfl

/-! ### Control records and the hawk (R383, R397 to R399) -/

theorem sendControl_pair (s : State) : ∃ op, (sendControl s).pair = { s.pair with hawkOp := op } := by
  unfold sendControl
  split
  · exact ⟨s.pair.hawkOp, rfl⟩
  · exact ⟨(0, 0, 0), congrArg (fun x : PairSt => { x with hawkOp := (0, 0, 0) }) (sendMirror_only s _ _ _ _ .pair (by decide))⟩

theorem releaseHawk_releases {s : State} (h : isStack s = true) : (releaseHawk s).pair.hawkHeld = false ∧
    (releaseHawk s).pair.hawkAcked = none ∧ (releaseHawk s).pair.role = .member ∧ (releaseHawk s).safe.applied = 0 := by
  let u : State := leaveRole { s with pair := { s.pair with hawkHeld := false, hawkAcked := none } }
  let v : State := { u with pair := { u.pair with hawkOp := (3, gridN s, s.unitNo) } }
  have hu : u.pair = roleLeft { s with pair := { s.pair with hawkHeld := false, hawkAcked := none } } := leaveRole_pair _
  have hdark : (sendControl v).safe.applied = u.safe.applied := congrArg SafeSt.applied (sendControl_only v .safe (by decide))
  obtain ⟨op, hop⟩ := sendControl_pair v
  have hpair : (releaseHawk s).pair = { u.pair with hawkOp := op } := hop
  rw [hpair, hu]
  exact ⟨rfl, rfl, restingRole_of_stack h, hdark.trans (leaveRole_dark _)⟩

/-! ### The interlock's rows (R385 to R388) -/

theorem noteIlk_pair (s : State) : (noteIlk s).pair = { s.pair with
    condSince := if ilkBad s then some (s.pair.condSince.getD s.clk) else none
    clearSince := if ilkBad s then none else some (s.pair.clearSince.getD s.clk) } := rfl

/-- The reading taken over, with its change noted. -/
def readingTaken (s : State) (a b : Nat) : State :=
  let recent := s.pair.ilkChanges.filter (fun t => s.clk < t + 1000000) ++ (if a ≠ s.pair.ilkIn then [s.clk] else [])
  noteIlk { s with pair := { s.pair with
    ilkIn := a, ownLoop := b, ilkSince := if a ≠ s.pair.ilkIn then s.clk else s.pair.ilkSince
    ilkChanges := recent, ilkFault := s.pair.ilkFault || decide (2 < recent.length) } }

theorem interlockReadingChange_takes {s : State} {a b : Nat} (ha : a ≤ 4) (hb : b ≤ 2) (hilk : hasIlk s = true) :
    Answers (.interlockReadingChange a b) s (fun t => t.pair.ilkIn = a ∧ t.pair.ownLoop = b ∧
      (a ≠ s.pair.ilkIn → t.pair.ilkSince = s.clk) ∧
      (a = 2 → b = 0 → isPair s = true → s.unitNo = 2 → s.pair.ilkOut = true → s.pair.ilkFault = false →
        s.pair.ilkChanges = [] → t.pair.ilkOut = false ∧ t.pair.role = .standby ∧ t.safe.applied = 0)) := by
  have hexec : exec (.interlockReadingChange a b) s = .next (
      if !(readingTaken s a b).pair.ilkFault ∧ a = 2 ∧ b = 0 ∧ (readingTaken s a b).pair.ilkOut ∧ (readingTaken s a b).unitNo = 2
      then loseIlk (readingTaken s a b) else readingTaken s a b) := by
    simp only [exec, execInterlockReadingChange]
    rw [if_neg (by simp [hilk]; omega)]
    simp only [readingTaken, ne_eq, decide_not, Bool.not_eq_true', decide_eq_false_iff_not]
  have hsince : a ≠ s.pair.ilkIn → (readingTaken s a b).pair.ilkSince = s.clk := fun h => if_pos h
  obtain ⟨hin, hloop, hs, hout, -, -, hpair⟩ := loseIlk_loses (readingTaken s a b)
  by_cases hboth : !(readingTaken s a b).pair.ilkFault ∧ a = 2 ∧ b = 0 ∧ (readingTaken s a b).pair.ilkOut ∧
      (readingTaken s a b).unitNo = 2
  · rw [if_pos hboth] at hexec
    refine .intro hexec ⟨hin, hloop, fun h => hs.trans (hsince h), fun _ _ hp _ _ _ _ => ?_⟩
    obtain ⟨hrole, hdark⟩ := hpair hp
    exact ⟨hout, hrole, hdark⟩
  · rw [if_neg hboth] at hexec
    refine .intro hexec ⟨rfl, rfl, hsince, fun ha2 hb0 hp hu ho hf hc => absurd ⟨?_, ha2, hb0, ho, hu⟩ hboth⟩
    simp only [readingTaken, noteIlk, hf, hc]
    split <;> simp

theorem interlockSettle_asserts {s : State} (hilk : hasIlk s = true) (hfault : s.pair.ilkFault = false)
    (hout : s.pair.ilkOut = false) (htake : s.pair.takeAt = none) (hfit : isFit s = true) (htakes : ilkTakes s = true)
    (hsince : s.pair.ilkSince + 500000 ≤ s.clk) : Answers .interlockSettle s (fun t =>
      t.pair.ilkOut = true ∧ t.pair.takeAt = some (s.time.now + 100000) ∧
      t.pair.watchdog = some (s.clk + 2 * cycleLen s)) :=
  .intro (congrArg Host.Outcome.next (if_pos (by simp [hilk, hfault, hout, htake, hfit, htakes, hsince]))) ⟨rfl, rfl, rfl⟩

theorem ilkFaultSet_sets {s : State} {t0 : Nat} (hilk : hasIlk s = true) (hbad : ilkBad s = true)
    (hsince : s.pair.condSince = some t0) (hdue : t0 + 10000000 ≤ s.clk) :
    Answers .ilkFaultSet s (fun t => t.pair.ilkFault = true) := by
  have hcond : (noteIlk s).pair.condSince = some t0 := by simp [noteIlk, hbad, hsince]
  have hexec : exec .ilkFaultSet s =
      .next { noteIlk s with pair := { (noteIlk s).pair with ilkFault := true } } := by
    simp only [exec, execIlkFaultSet, hcond]
    rw [if_pos ⟨hilk, hdue⟩]
  exact .intro hexec rfl

theorem ilkFaultClear_clears {s : State} {t0 : Nat} (hgood : ilkBad s = false) (hsince : s.pair.clearSince = some t0)
    (hdue : t0 + 1000000000 ≤ s.clk) :
    Answers .ilkFaultClear s (fun t => t.pair.ilkFault = false ∧ t.pair.ilkChanges = []) := by
  have hclear : (noteIlk s).pair.clearSince = some t0 := by simp [noteIlk, hgood, hsince]
  have hexec : exec .ilkFaultClear s =
      .next { noteIlk s with pair := { (noteIlk s).pair with ilkFault := false, ilkChanges := [] } } := by
    simp only [exec, execIlkFaultClear, hclear]
    exact congrArg Host.Outcome.next (if_pos hdue)
  exact .intro hexec ⟨rfl, rfl⟩

theorem roleWatchdogExpiry_loses {s : State} {t0 : Nat} (hdog : s.pair.watchdog = some t0) (hdue : t0 ≤ s.clk) :
    Answers .roleWatchdogExpiry s (fun t => t.pair.ilkOut = false ∧ t.pair.watchdog = none ∧
      (isStack s = true → t.set.lease = false) ∧
      (isPair s = true → t.pair.role = .standby ∧ t.safe.applied = 0)) := by
  have hexec : exec .roleWatchdogExpiry s =
      .next (loseIlk { s with pair := { s.pair with watchdog := none, ilkOut := false } }) := by
    simp only [exec, execRoleWatchdogExpiry, hdog, hdue, if_true]
  obtain ⟨-, -, -, hout, hnone, hstack, hpair⟩ :=
    loseIlk_loses { s with pair := { s.pair with watchdog := none, ilkOut := false } }
  exact .intro hexec ⟨hout, hnone, hstack, hpair⟩

/-! ### The roles' rows (R389, R391, R392, R395) -/

theorem roleTakeover_takes {s : State} {t0 : Int} (htake : s.pair.takeAt = some t0) (hout : s.pair.ilkOut = true)
    (hfit : isFit s = true) (hcyc : s.cyc.running = true → t0 ≤ s.cyc.ts) (hnow : t0 ≤ s.time.now) :
    Answers .roleTakeover s (fun t => t.pair.takeAt = none ∧
      (isStack s = false → t.pair.role = .active ∧ t.bridge = { BridgeSt.init with endpoints := s.bridge.endpoints } ∧
        t.pair.sendFull = true ∧ (warmNow s = false → t.skim.forces = [] ∧ t.pair.coldTo = some (cycAdd s.cyc.n 7)))) := by
  have hdue : ¬((!s.pair.ilkOut) = true ∨ (!isFit s) = true ∨ s.cyc.running = true ∧ s.cyc.ts < t0 ∨ s.time.now < t0) := by
    rintro (h | h | ⟨h, h'⟩ | h)
    · simp [hout] at h
    · simp [hfit] at h
    · exact absurd h' (not_lt.mpr (hcyc h))
    · exact absurd h (not_lt.mpr hnow)
  have hexec : exec .roleTakeover s =
      .next (if isStack s then takeLineDuty s else becomeComposing s .active (warmNow s)) := by
    simp only [exec, execRoleTakeover, htake]
    rw [if_neg hdue]
  cases hstack : isStack s
  case true =>
    rw [hstack] at hexec
    exact .intro hexec ⟨rfl, (nomatch ·)⟩
  case false =>
    rw [hstack] at hexec
    have hpair := becomeComposing_pair s .active (warmNow s)
    refine .intro hexec ⟨?_, fun _ => ⟨?_, becomeComposing_bridge s .active (warmNow s), ?_, fun hcold => ?_⟩⟩
    · exact congrArg PairSt.takeAt hpair
    · exact congrArg PairSt.role hpair
    · exact congrArg PairSt.sendFull hpair
    · rw [hcold] at hpair
      rw [if_neg (by decide), hcold]
      exact ⟨becomeComposing_cold s .active, congrArg PairSt.coldTo hpair⟩

/-- The cycle of the handover has come. -/
theorem handoverSwitch_due {s : State} (hat : s.pair.handAt = some s.cyc.n) : exec .handoverSwitch s = .next (
    if s.pair.role = .active then leaveRole s
    else if s.pair.role = .standby ∧ isFit s then
      becomeComposing (renewWatchdog { s with pair := { s.pair with ilkOut := true } }) .active s.pair.currentAtTs
    else { s with pair := { s.pair with handAt := none } }) := by
  simp only [exec, execHandoverSwitch]
  split
  next h => exact nomatch hat.symm.trans h
  next j h =>
    obtain rfl := Option.some.inj (hat.symm.trans h)
    exact congrArg Host.Outcome.next (if_neg (fun h => h.1 rfl))

theorem handoverSwitch_switches {s : State} (hp : isPair s = true) (hat : s.pair.handAt = some s.cyc.n) :
    (s.pair.role = .active → Answers .handoverSwitch s (fun t =>
      t.pair.role = .standby ∧ t.pair.ilkOut = false ∧ t.safe.applied = 0 ∧ t.pair.releasing = false)) ∧
    (s.pair.role = .standby → isFit s = true → Answers .handoverSwitch s (fun t =>
      t.pair.role = .active ∧ t.pair.ilkOut = true ∧ t.pair.handAt = none)) := by
  refine ⟨fun hrole => ?_, fun hrole hfit => ?_⟩
  · exact .intro ((handoverSwitch_due hat).trans (congrArg Host.Outcome.next (if_pos hrole))) (leaveRole_of_pair hp)
  · refine .intro ((handoverSwitch_due hat).trans (congrArg Host.Outcome.next ((if_neg (by simp [hrole])).trans
      (if_pos ⟨hrole, hfit⟩)))) ?_
    rw [becomeComposing_pair]
    exact ⟨rfl, rfl, rfl⟩

theorem switchback_hands {s : State} (hu : s.unitNo = 2) (hfit : 16 ≤ s.pair.unit1Fit) :
    (arrangement s = 1 → s.pair.role = .active →
      exec .switchback s = .next { s with pair := { s.pair with releasing := true } }) ∧
    (arrangement s = 3 → s.pair.hawkHeld = true → Answers .switchback s (fun t =>
      t.pair.hawkHeld = false ∧ t.pair.role = .member ∧ t.safe.applied = 0)) := by
  have hdue : ¬(s.unitNo ≠ 2 ∨ s.pair.unit1Fit < 16) := by omega
  refine ⟨fun harr hrole => ?_, fun harr hheld => ?_⟩
  · exact congrArg Host.Outcome.next ((if_neg hdue).trans (if_pos ⟨harr, hrole⟩))
  · obtain ⟨hhawk, -, hrole, hdark⟩ := releaseHawk_releases (s := s) (by simp [isStack, harr])
    exact .intro (congrArg Host.Outcome.next ((if_neg hdue).trans ((if_neg (by simp [harr])).trans
      (if_pos ⟨harr, hheld⟩)))) ⟨hhawk, hrole, hdark⟩

theorem grantExpiry_leaves {s : State} (hp : isPair s = true) (hfault : s.pair.ilkFault = true)
    (hrole : s.pair.role = .active) (hlead : leadCommitted s = true) (hgrant : granted s = false) :
    Answers .grantExpiry s (fun t => t.pair.role = .standby ∧ t.pair.ilkOut = false ∧ t.safe.applied = 0) := by
  obtain ⟨hr, hout, hdark, -⟩ := leaveRole_of_pair hp
  exact .intro (congrArg Host.Outcome.next (if_pos ⟨hp, hfault, hrole, hlead, by simp [hgrant]⟩)) ⟨hr, hout, hdark⟩

/-! ### The hawk's rows (R397 to R399) -/

theorem hawk_ends {s : State} (hstack : isStack s = true) (hheld : s.pair.hawkHeld = true) :
    (6 ≤ cycDiff (gridN s) s.pair.hawkMajority → Answers .hawkFence s (fun t =>
      t.pair.hawkHeld = false ∧ t.pair.role = .member ∧ t.safe.applied = 0)) ∧
    Answers .hawkRelease s (fun t => t.pair.hawkHeld = false ∧ t.pair.hawkAcked = none ∧ t.pair.role = .member) := by
  refine ⟨fun hsix => ?_, ?_⟩
  · obtain ⟨hr, hhawk, hdark⟩ := leaveRole_of_stack (s := { s with pair := { s.pair with hawkHeld := false } }) hstack
    exact .intro (congrArg Host.Outcome.next (if_pos ⟨hheld, hsix⟩)) ⟨hhawk, hr, hdark⟩
  · obtain ⟨hhawk, hacked, hr, -⟩ := releaseHawk_releases hstack
    exact .intro (congrArg Host.Outcome.next (if_pos hheld)) ⟨hhawk, hacked, hr⟩

theorem hawkClaim_claims {s : State} {e : Nat} (hclaim : claimCycle s = some e)
    (hdue : e = gridN s ∨ cycBefore e (gridN s) = true) (hstack : isStack s = true) (hu : s.unitNo ≤ 2)
    (hplaced : s.unplaced = false) (hheld : s.pair.hawkHeld = false) (hfit : isFit s = true)
    (hnew : s.pair.hawkClaimAt ≠ some (gridN s)) : Answers .hawkClaim s (fun t =>
      t.pair.hawkClaimAt = some (gridN s) ∧ t.pair.hawkVotes = [s.unitNo] ∧
      t.pair.hawkVoteExpiry = cycAdd (gridN s) 9 ∧ t.pair.hawkAcked = some (s.unitNo, cycAdd (gridN s) 9)) := by
  let u : State := { s with pair := { s.pair with
    hawkClaimAt := some (gridN s), hawkVotes := [s.unitNo], hawkVoteExpiry := cycAdd (gridN s) 9
    hawkOp := (1, cycAdd (gridN s) 9, s.unitNo), hawkAcked := some (s.unitNo, cycAdd (gridN s) 9) } }
  have hexec : exec .hawkClaim s = .next (sendControl u) := by
    have hd : (e == gridN s || cycBefore e (gridN s)) = true := by
      rcases hdue with h | h <;> simp [h]
    simp only [exec, execHawkClaim, hclaim, hd]
    rw [if_neg (by simp [hstack, hplaced, hheld, hfit, hnew, hu])]
  obtain ⟨op, hop⟩ := sendControl_pair u
  refine .intro hexec ?_
  rw [hop]
  exact ⟨rfl, rfl, rfl, rfl⟩

theorem hawkTake_takes {s : State} {e : Nat} (hclaim : s.pair.hawkClaimAt = some e) (hgrid : gridN s = cycAdd e 1)
    (hheld : s.pair.hawkHeld = false) (hvotes : hawkMajorityOf s ≤ s.pair.hawkVotes.length) (hfit : isFit s = true) :
    Answers .hawkTake s (fun t => t.pair.hawkHeld = true ∧ t.pair.role = .master ∧
      t.pair.hawkExpiry = some s.pair.hawkVoteExpiry ∧ t.pair.hawkMajority = e) := by
  let u : State := { s with pair := { s.pair with
    hawkHeld := true, hawkExpiry := some s.pair.hawkVoteExpiry, hawkMajority := e, hawkClaimAt := none } }
  have hexec : exec .hawkTake s = .next (becomeComposing u .master (warmNow s)) := by
    simp only [exec, execHawkTake, hclaim]
    rw [if_neg (by simp [hgrid, hheld, hvotes, hfit])]
  refine .intro hexec ?_
  rw [becomeComposing_pair]
  exact ⟨rfl, rfl, rfl, rfl⟩

theorem coldTakeoverEnd_ends {s : State} {k : Nat} (hcold : s.pair.coldTo = some k) (hdue : cycBefore k s.cyc.n = true) :
    exec .coldTakeoverEnd s = .next { s with pair := { s.pair with coldTo := none } } := by
  simp only [exec, execColdTakeoverEnd, hcold, hdue, if_true]

/-- Settles O32: each row's effect, from the lemma above that bears its name. -/
theorem interlockRolesAndHawkFollow : Obligations.InterlockRolesAndHawkFollow := by
  unfold Obligations.InterlockRolesAndHawkFollow
  refine ⟨?_, ?_, ?_, ?_, ?_, ?_, ?_, ?_, ?_, ?_, ?_, ?_, ?_, ?_⟩
  case refine_1 => exact fun s a b ha hb hilk => interlockReadingChange_takes ha hb hilk
  case refine_2 =>
    exact fun s hilk hfault hout htake hfit htakes hsince =>
      interlockSettle_asserts hilk hfault hout htake hfit htakes hsince
  case refine_3 => exact fun s t0 hilk hbad hsince hdue => ilkFaultSet_sets hilk hbad hsince hdue
  case refine_4 => exact fun s t0 hgood hsince hdue => ilkFaultClear_clears hgood hsince hdue
  case refine_5 => exact fun s t0 hdog hdue => roleWatchdogExpiry_loses hdog hdue
  case refine_6 => exact fun s t0 htake hout hfit hcyc hnow => roleTakeover_takes htake hout hfit hcyc hnow
  case refine_7 => exact fun s hp hat => handoverSwitch_switches hp hat
  case refine_8 => exact fun s hu hfit => switchback_hands hu hfit
  case refine_9 => exact fun s hp hfault hrole hlead hgrant => grantExpiry_leaves hp hfault hrole hlead hgrant
  case refine_10 => exact fun s hstack hheld => hawk_ends hstack hheld
  case refine_11 =>
    exact fun s e hclaim hdue hstack hu hplaced hheld hfit hnew =>
      hawkClaim_claims hclaim hdue hstack hu hplaced hheld hfit hnew
  case refine_12 => exact fun s e hclaim hgrid hheld hvotes hfit => hawkTake_takes hclaim hgrid hheld hvotes hfit
  case refine_13 => exact fun s k hcold hdue => coldTakeoverEnd_ends hcold hdue
  case refine_14 => exact fun s hgap => congrArg Host.Outcome.next (if_pos hgap)

end Sys2Proof.Proofs
end

section
/-! The safety complex: minorities, no majority, comparator faults, checkpoints, resynchronisation, restart, scratch test and
scrubs (R331, R333, R336 to R340, R342, R343, R345, R349, R354; log entries 199, 200), and the statement O34. -/

namespace Sys2Proof.Proofs

open Sys2Proof Sys2Proof.Machine

/-! ### The lanes' clock (R335) -/

/-- The voted stores and reads, and the cores' own writes, are all that a clock carries out. -/
def CarriedOut (s t : State) : Prop :=
  ∃ cores store outRegs readPort delays, cores.length = s.safe.cores.length ∧ t.safe = { s.safe with
    cores := cores, store := store, outRegs := outRegs, readPort := readPort, delays := delays }

theorem votedStore_safe (s : State) (l : List LaneCmp) (par : List (BitVec 3)) :
    ∃ store outRegs, (votedStore s l par).safe = { s.safe with store := store, outRegs := outRegs } := by
  unfold votedStore
  split
  · exact ⟨s.safe.store, s.safe.outRegs, rfl⟩
  · split
    · exact ⟨s.safe.store, s.safe.outRegs, rfl⟩
    · split
      · exact ⟨_, s.safe.outRegs, rfl⟩
      · exact ⟨s.safe.store, _, rfl⟩
      · exact ⟨s.safe.store, s.safe.outRegs, rfl⟩

theorem votedRead_safe (s : State) (l : List LaneCmp) (par : List (BitVec 3)) :
    ∃ readPort, (votedRead s l par).safe = { s.safe with readPort := readPort } := by
  unfold votedRead
  split
  · exact ⟨s.safe.readPort, rfl⟩
  · split
    · exact ⟨s.safe.readPort, rfl⟩
    · exact ⟨_, rfl⟩

theorem carryOut_carries (s : State) (l : List LaneCmp) (par : List (BitVec 3)) : CarriedOut s (carryOut s l par) := by
  unfold carryOut
  dsimp only
  generalize hcores : ((List.range s.safe.cores.length).zip s.safe.cores).map _ = cores
  obtain ⟨store, outRegs, hstore⟩ := votedStore_safe { s with safe := { s.safe with cores := cores } } l par
  generalize votedStore { s with safe := { s.safe with cores := cores } } l par = u at hstore
  obtain ⟨readPort, hread⟩ := votedRead_safe u l par
  generalize votedRead u l par = v at hread
  refine ⟨cores, store, outRegs, readPort, delayRegs l par (v.safe.readPort.elim [] (·.data)), ?_, ?_⟩
  · rw [← hcores]
    simp
  · rw [hread, hstore]

theorem resyncsOf_same {s t : State} (core : Nat) (hr : t.safe.resyncs = s.safe.resyncs) (hc : t.clk = s.clk)
    (ht : t.time = s.time) : resyncsOf t core = resyncsOf s core := by
  have hnow : trainNow t = trainNow s := by rw [trainNow, trainNow, ht]
  have hrecent : recentResync t = recentResync s := by
    funext x
    rw [recentResync, recentResync, hnow, hc]
  rw [resyncsOf, resyncsOf, hr, hrecent]

/-! ### A core named (R336 to R338) -/

/-- The state in which the named core's fate is decided: the clock carried out and its mismatch logged. -/
def minorityLogged (s : State) (core clock : Nat) (lane : List LaneCmp) (par : List (BitVec 3)) : State :=
  let v := compareLanes s lane par
  logMismatch (carryOut s lane par) v.2.1 (core + (if v.2.2 then 128 else 0)) clock

theorem minorityLogged_keeps (s : State) (core clock : Nat) (lane : List LaneCmp) (par : List (BitVec 3)) :
    (minorityLogged s core clock lane par).safe.state = s.safe.state ∧
    (minorityLogged s core clock lane par).safe.resyncs = s.safe.resyncs ∧
    (minorityLogged s core clock lane par).safe.applied = s.safe.applied ∧
    (minorityLogged s core clock lane par).safe.cores.length = s.safe.cores.length ∧
    (minorityLogged s core clock lane par).clk = s.clk ∧ (minorityLogged s core clock lane par).time = s.time := by
  obtain ⟨cores, store, outRegs, readPort, delays, hlen, hsafe⟩ := carryOut_carries s lane par
  have hclk : (carryOut s lane par).clk = s.clk := carryOut_only s lane par .clk (by decide)
  have htime : (carryOut s lane par).time = s.time := carryOut_only s lane par .time (by decide)
  unfold minorityLogged
  dsimp only
  generalize carryOut s lane par = u at hsafe hclk htime
  exact ⟨(congrArg SafeSt.state hsafe :), (congrArg SafeSt.resyncs hsafe :), (congrArg SafeSt.applied hsafe :),
    (congrArg (fun x : SafeSt => x.cores.length) hsafe :).trans hlen, hclk, htime⟩

/-- Interrupt source 7 tells of the change of state. -/
theorem noteSafe_raises {s t : State} (h : s.safe.state ≠ t.safe.state) : (noteSafe s t).host.intStatus.getLsbD 7 = true := by
  have hset : (noteSafe s t).host.intStatus = setBit t.host.intStatus 7 true := if_pos (decide_eq_true h)
  rw [hset]
  exact getLsbD_setBit_self _ _ (by decide)

section
variable {s : State} {core clock : Nat} {lane : List LaneCmp} {parity : List (BitVec 3)} (hlow : 1 ≤ core) (hhigh : core ≤ 3)
include hlow hhigh

/-- In voted mode the lanes name the core, and the clock is carried out before its fate is decided. -/
theorem minorityDetected_voted (hvoted : s.safe.state = .voted)
    (hmin : (compareLanes s lane (laneParity lane parity)).1 = .minority core) :
    exec (.minorityDetected core lane clock parity) s =
      .next (noteSafe s (namedMinority (minorityLogged s core clock lane (laneParity lane parity)) core)) := by
  obtain ⟨cores, store, outRegs, readPort, delays, -, hsafe⟩ := carryOut_carries s lane (laneParity lane parity)
  have hstate : (carryOut s lane (laneParity lane parity)).safe.state = .voted :=
    (congrArg SafeSt.state hsafe :).trans hvoted
  simp only [exec, execMinorityDetected, nameCore, differingCore, coreDiffers, hmin]
  rw [if_neg (by simp [hvoted]), if_pos ⟨hlow, hhigh, .inl trivial⟩, if_pos trivial, if_pos hstate]
  rfl

theorem minorityDetected_resyncs (hvoted : s.safe.state = .voted)
    (hmin : (compareLanes s lane (laneParity lane parity)).1 = .minority core) (hfew : resyncsOf s core < 2) :
    Answers (.minorityDetected core lane clock parity) s (fun t =>
      t.safe.state = .resync ∧ t.safe.minority = core ∧ t.safe.resyncs = s.safe.resyncs ++ [⟨core, s.clk, trainNow s⟩] ∧
      (s.safe.cores.length = 3 → ∃ c, t.safe.cores[core - 1]? = some c ∧ c.held = true ∧ c.regs = List.replicate 32 0 ∧
        c.tcm = [] ∧ c.ctrl = [] ∧ c.loaded = false ∧ c.cleared = true) ∧
      t.safe.applied = s.safe.applied ∧ t.host.intStatus.getLsbD 7 = true) := by
  have hexec := minorityDetected_voted (clock := clock) hlow hhigh hvoted hmin
  obtain ⟨hstate, hresyncs, happlied, hlen, hclk, htime⟩ :=
    minorityLogged_keeps s core clock lane (laneParity lane parity)
  generalize minorityLogged s core clock lane (laneParity lane parity) = u at hexec hstate hresyncs happlied hlen hclk htime
  have hnamed : namedMinority u core = { setCore (unclean u) core resetCore with safe :=
      { (setCore (unclean u) core resetCore).safe with
        state := .resync, minority := core, resyncs := u.safe.resyncs ++ [⟨core, u.clk, trainNow u⟩] } } := by
    have hfew' : ¬2 ≤ resyncsOf (unclean u) core := by
      rw [resyncsOf_same (s := s) (t := unclean u) core hresyncs hclk htime]
      omega
    exact if_neg hfew'
  rw [hnamed] at hexec
  refine .intro hexec ⟨rfl, rfl, ?_, fun h3 => ?_, happlied, noteSafe_raises (fun h => nomatch hvoted.symm.trans h)⟩
  · show u.safe.resyncs ++ [⟨core, u.clk, trainNow u⟩] = _
    rw [hresyncs, hclk, trainNow, trainNow, htime]
  · have hcore : core - 1 < u.safe.cores.length := by omega
    exact ⟨resetCore (u.safe.cores.getD (core - 1) CoreSt.init), List.getElem?_set_self hcore, rfl, rfl, rfl, rfl, rfl, rfl⟩

theorem minorityDetected_fails (hvoted : s.safe.state = .voted)
    (hmin : (compareLanes s lane (laneParity lane parity)).1 = .minority core) (hmany : 2 ≤ resyncsOf s core) :
    Answers (.minorityDetected core lane clock parity) s (fun t =>
      t.safe.state = .dual ∧ t.safe.failed = core ∧ t.safe.minority = 0) := by
  have hexec := minorityDetected_voted (clock := clock) hlow hhigh hvoted hmin
  obtain ⟨-, hresyncs, -, -, hclk, htime⟩ := minorityLogged_keeps s core clock lane (laneParity lane parity)
  generalize minorityLogged s core clock lane (laneParity lane parity) = u at hexec hresyncs hclk htime
  have hnamed : namedMinority u core = failCore (unclean u) core := by
    refine if_pos ?_
    rw [resyncsOf_same (s := s) (t := unclean u) core hresyncs hclk htime]
    exact hmany
  rw [hnamed] at hexec
  exact .intro hexec ⟨rfl, rfl, rfl⟩

/-- In a restart's lane self-check the named core fails, and the restart goes on. -/
theorem minorityDetected_selfCheck (hrestart : s.safe.state = .restart) (hfailed : s.safe.failed = 0)
    (hmin : (voteLanes lane (laneParity lane parity)).1 = .minority core) :
    Answers (.minorityDetected core lane clock parity) s (fun t => t.safe.state = .restart ∧ t.safe.failed = core) :=
  .intro (congrArg Host.Outcome.next ((if_pos hrestart).trans (if_pos ⟨hfailed, hlow, hhigh, hmin⟩))) ⟨rfl, rfl⟩

end

/-! ### No majority (R334, R336, R339, R343) -/

theorem recentOf_same {s t : State} {l m : List Nat} (hclk : t.clk = s.clk) (hl : m = l) : recentOf t m = recentOf s l := by
  rw [recentOf, recentOf, hclk, hl]

/-- Every output and everything staged goes; the third restart within 3,600 s halts. -/
theorem noMajority_stops (s : State) : (noMajority s).safe.applied = 0 ∧ (noMajority s).safe.staged = [] ∧
    (noMajority s).skim.results = [] ∧ (noMajority s).safe.hold = true ∧
    (noMajority s).safe.state = (if 3 ≤ (recentOf s s.safe.restarts).length + 1 then .halted else .restart) := by
  have hrecent : recentOf (resetCores (goSafe s)) (resetCores (goSafe s)).safe.restarts = recentOf s s.safe.restarts :=
    recentOf_same rfl (by simp only [resetCores, goSafe, holdOutputs, discardStaged, dropOutputs])
  unfold noMajority
  dsimp only
  rw [hrecent, List.length_append, List.length_singleton]
  split
  · exact ⟨rfl, rfl, rfl, rfl, rfl⟩
  · exact ⟨rfl, rfl, rfl, rfl, rfl⟩

section
variable {s : State} {core clock : Nat} {lane : List LaneCmp} {parity : List (BitVec 3)}

/-- Between two cores a difference of a core in use gives no majority. -/
theorem minorityDetected_dual (hlow : 1 ≤ core) (hhigh : core ≤ 3) (hdual : s.safe.state = .dual)
    (hno : (compareLanes s lane (laneParity lane parity)).1 = .noMajority) (hfailed : core ≠ s.safe.failed)
    (hmin : core ≠ s.safe.minority) (hfew : (recentOf s s.safe.restarts).length < 2) :
    Answers (.minorityDetected core lane clock parity) s (fun t => t.safe.state = .restart ∧ t.safe.applied = 0 ∧
      t.safe.staged = [] ∧ t.safe.hold = true) := by
  let v := compareLanes s lane (laneParity lane parity)
  let u := logMismatch s v.2.1 (4 + (if v.2.2 then 128 else 0)) clock
  have hexec : exec (.minorityDetected core lane clock parity) s = .next (noteSafe s (noMajority u)) := by
    have hruns : safeRuns s = true := by rw [safeRuns, hdual]
    have hvoted : s.safe.state ≠ .voted := fun h => nomatch hdual.symm.trans h
    have hrestart : s.safe.state ≠ .restart := fun h => nomatch hdual.symm.trans h
    have hnone : ¬v.1 = .minority core := fun h => nomatch hno.symm.trans h
    have hdiffer : differingCore s core lane clock (laneParity lane parity) =
        noteSafe s (coreDiffers (if v.1 = .minority core then carryOut s lane (laneParity lane parity) else s) core v.2.1
          clock v.2.2) := if_pos ⟨hlow, hhigh, .inr ⟨hno, hvoted⟩⟩
    have hcore : coreDiffers s core v.2.1 clock v.2.2 = noMajority u :=
      (if_neg hvoted).trans (if_pos ⟨hruns, hmin, hfailed⟩)
    rw [if_neg hnone, hcore] at hdiffer
    exact congrArg Host.Outcome.next ((if_neg hrestart).trans hdiffer)
  obtain ⟨hoff, hstaged, -, hhold, hstate⟩ := noMajority_stops u
  refine .intro hexec ⟨hstate.trans (if_neg ?_), hoff, hstaged, hhold⟩
  have hsame : recentOf u u.safe.restarts = recentOf s s.safe.restarts := recentOf_same rfl rfl
  rw [hsame]
  omega

theorem noMajority_restarts (hruns : safeRuns s = true)
    (hno : (compareLanes s lane (laneParity lane parity)).1 = .noMajority) :
    Answers (.noMajority lane clock parity) s (fun t =>
      t.safe.applied = 0 ∧ t.safe.staged = [] ∧ t.skim.results = [] ∧ t.safe.hold = true ∧
      t.safe.state = (if 3 ≤ (recentOf s s.safe.restarts).length + 1 then .halted else .restart)) := by
  refine .intro (congrArg Host.Outcome.next (if_pos ⟨hruns, hno⟩)) ?_
  exact noMajority_stops (logMismatch s _ _ clock)

/-! ### Comparator faults (R342, R343) -/

theorem comparatorFault_tests (hvoted : s.safe.state = .voted)
    (hfault : (compareLanes s lane (laneParity lane [])).1 = .fault) :
    Answers (.comparatorFault lane clock) s (fun t => t.safe.applied = 0 ∧ t.safe.compFaultBit = true ∧
      t.safe.state = (if 2 ≤ (recentOf s s.safe.compFaults).length + 1 then .halted else .scratch)) := by
  refine .intro (congrArg (fun u => Host.Outcome.next (noteSafe s u)) (if_pos ⟨hvoted, hfault⟩)) ?_
  dsimp only
  generalize hu : logMismatch s _ _ clock = u
  have hrecent : recentOf u u.safe.compFaults = recentOf s s.safe.compFaults := by
    rw [← hu]
    exact recentOf_same rfl rfl
  rw [hrecent, List.length_append, List.length_singleton]
  split
  · exact ⟨rfl, rfl, rfl⟩
  · exact ⟨rfl, rfl, rfl⟩

end

/-! ### Checkpoints (R340, R345) -/

/-- The checkpoint of a cycle, with the free contents that the cores' program left (log entry 199). -/
def checkpointOf (s : State) (c : SafeCycle) : Checkpoint :=
  let k := s.freeCount
  let ck : Checkpoint := ⟨c.n, s.time.now, 0, c.terms, Config.freeBytes k, (List.range 32).map (fun i => Config.freeValue (k + i)),
    Config.freeBytes (k + 1)⟩
  { ck with crc := crc32 ck.body }

theorem checkpointOf_valid (s : State) (c : SafeCycle) : (checkpointOf s c).valid = true := beq_self_eq_true _

theorem writeCheckpoint_safe (s : State) (c : SafeCycle) : (writeCheckpoint s c).safe = { s.safe with
    slot0 := if c.n % 2 = 0 then some (checkpointOf s c) else s.safe.slot0
    slot1 := if c.n % 2 = 0 then s.safe.slot1 else some (checkpointOf s c)
    terms := c.terms, cycle := none } := rfl

/-- Staging a cycle's results changes what is staged only, and stages that cycle's where there is a table. -/
theorem stageResults_safe (s : State) (c : SafeCycle) : ∃ staged frames, (stageResults s c).safe = { s.safe with
    staged := staged, frames := frames } ∧ (s.safe.table.isSome = true → ∃ x ∈ staged, x.n = c.n) := by
  unfold stageResults
  cases h : s.safe.table with
  | none => exact ⟨s.safe.staged, s.safe.frames, rfl, (nomatch ·)⟩
  | some b => exact ⟨_, _, rfl, fun _ => ⟨_, List.mem_of_getLast? (getLast?_lastN_append (by decide) _ _), rfl⟩⟩

/-- The safety cycle ended: the checkpoint written and the results staged. -/
def cycleStaged (s : State) (c : SafeCycle) : State := stageResults (writeCheckpoint s c) c

/-- A fully voted cycle ends a hold that waits for one and whose conditions are over. -/
def endsHold (s : State) (c : SafeCycle) : Bool := s.safe.hold && s.safe.release.isNone && c.clean && !holdCause s

theorem endsHold_staged (s : State) (c : SafeCycle) : endsHold (cycleStaged s c) c = endsHold s c := by
  obtain ⟨staged, frames, hsafe, -⟩ := stageResults_safe (writeCheckpoint s c) c
  have hpres : (cycleStaged s c).pres = s.pres :=
    (stageResults_only _ c .pres (by decide)).trans (writeCheckpoint_only s c .pres (by decide))
  have hhost : (cycleStaged s c).host = s.host :=
    (stageResults_only _ c .host (by decide)).trans (writeCheckpoint_only s c .host (by decide))
  have hhold : (cycleStaged s c).safe.hold = s.safe.hold := (congrArg SafeSt.hold hsafe :)
  have hrelease : (cycleStaged s c).safe.release = s.safe.release := (congrArg SafeSt.release hsafe :)
  have hopen : (cycleStaged s c).safe.supplyOpen = s.safe.supplyOpen := (congrArg SafeSt.supplyOpen hsafe :)
  simp only [endsHold, holdCause, sealHold, managing, hpres, hhost, hhold, hrelease, hopen]

/-- The hold's end and the minority's resynchronisation, on the staged cycle. -/
def cycleEnded (s : State) (c : SafeCycle) : State :=
  { s with safe := { s.safe with
      release := if endsHold s c then some c.n else s.safe.release
      resyncing := s.safe.resyncing || decide (s.safe.state = .resync) } }

/-- What the unit's complex is mirrored to. -/
def cycleMirrored (s : State) (c : SafeCycle) : State :=
  if composing s then mirrorRecord s 3 c.n (safetyRecord s) else s

theorem cycleMirrored_safe (s : State) (c : SafeCycle) : (cycleMirrored s c).safe = s.safe := by
  unfold cycleMirrored
  split
  · exact mirrorRecord_only s _ _ _ .safe (by decide)
  · rfl

theorem checkpointWriteComplete_safe {s : State} {c : SafeCycle} (hcycle : s.safe.cycle = some c)
    (hruns : safeRuns s = true) (hsplit : s.safe.split = none) : ∃ t, exec .checkpointWriteComplete s = .next t ∧
      ∃ staged frames, (s.safe.table.isSome = true → ∃ x ∈ staged, x.n = c.n) ∧ t.safe = { s.safe with
        slot0 := if c.n % 2 = 0 then some (checkpointOf s c) else s.safe.slot0
        slot1 := if c.n % 2 = 0 then s.safe.slot1 else some (checkpointOf s c)
        terms := c.terms, cycle := none, staged := staged, frames := frames
        release := if endsHold s c then some c.n else s.safe.release
        resyncing := s.safe.resyncing || decide (s.safe.state = .resync) } := by
  let u := cycleMirrored (cycleEnded (cycleStaged s c) c) c
  obtain ⟨staged, frames, hstage, hmem⟩ := stageResults_safe (writeCheckpoint s c) c
  have hsafe : u.safe = (cycleEnded (cycleStaged s c) c).safe := cycleMirrored_safe _ c
  have hstaged : (cycleStaged s c).safe = { (writeCheckpoint s c).safe with staged := staged, frames := frames } := hstage
  rw [cycleEnded, endsHold_staged, hstaged] at hsafe
  have hnone : u.safe.split = none := (congrArg SafeSt.split hsafe).trans hsplit
  have hexec : exec .checkpointWriteComplete s =
      .next (noteSafe s (match u.safe.split with | none => u | some x => enterSplit u x)) := by
    simp only [exec, execCheckpointWriteComplete, hcycle]
    rw [if_neg (by simp [hruns])]
    rfl
  rw [hnone] at hexec
  exact ⟨_, hexec, staged, frames, hmem, hsafe⟩

theorem checkpointWriteComplete_ends {s : State} {c : SafeCycle} (hcycle : s.safe.cycle = some c)
    (hruns : safeRuns s = true) (hsplit : s.safe.split = none) : Answers .checkpointWriteComplete s (fun t =>
      t.safe.cycle = none ∧ t.safe.terms = c.terms ∧
      (∃ k : Checkpoint, k.skim = c.n ∧ k.time = s.time.now ∧ k.terms = c.terms ∧ k.valid = true ∧
        (if c.n % 2 = 0 then t.safe.slot0 = some k ∧ t.safe.slot1 = s.safe.slot1
         else t.safe.slot1 = some k ∧ t.safe.slot0 = s.safe.slot0)) ∧
      (s.safe.table.isSome = true → ∃ x ∈ t.safe.staged, x.n = c.n) ∧
      (s.safe.hold = true → s.safe.release = none → c.clean = true → holdCause s = false → t.safe.release = some c.n) ∧
      (c.clean = false → t.safe.release = s.safe.release)) := by
  obtain ⟨t, hexec, staged, frames, hstaged, hsafe⟩ := checkpointWriteComplete_safe hcycle hruns hsplit
  refine .intro hexec ?_
  rw [hsafe]
  refine ⟨rfl, rfl, ⟨checkpointOf s c, rfl, rfl, rfl, checkpointOf_valid s c, ?_⟩, hstaged, ?_, ?_⟩
  · dsimp only
    split <;> exact ⟨rfl, rfl⟩
  · intro hhold hrelease hclean hcause
    exact if_pos (by simp [endsHold, hhold, hrelease, hclean, hcause])
  · intro hclean
    exact if_neg (by simp [endsHold, hclean])

/-! ### Resynchronisation and restart (R337 to R339) -/

/-- With no failed core, every core is loaded. -/
theorem loadCores_all {s : State} (ck : Option Checkpoint) (h : s.safe.failed = 0) :
    (loadCores s ck).safe.cores = s.safe.cores.map (loadCore ck) := by
  have hload : ∀ l : List CoreSt, (((List.range l.length).zip l).map (fun p =>
      if p.1 + 1 = s.safe.failed then resetCore p.2 else loadCore ck p.2)) = l.map (loadCore ck) := by
    intro l
    simp only [h, Nat.succ_ne_zero, if_false]
    have hsnd : ((List.range l.length).zip l).map Prod.snd = l := List.map_snd_zip (by simp)
    rw [← Function.comp_def (loadCore ck) Prod.snd, ← List.map_map, hsnd]
  exact hload s.safe.cores

theorem resyncComplete_restores {s : State} (hstate : s.safe.state = .resync) (hres : s.safe.resyncing = true) :
    Answers (.resyncComplete true) s (fun t => t.safe.state = .voted ∧ t.safe.minority = 0 ∧ t.safe.resyncing = false ∧
      (s.safe.failed = 0 → t.safe.cores = s.safe.cores.map (loadCore (latestCheckpoint s)))) ∧
    Answers (.resyncComplete false) s (fun t => t.safe.state = .dual ∧ t.safe.failed = s.safe.minority) := by
  have hexec : ∀ ok, exec (.resyncComplete ok) s = .next (noteSafe s (if ok then
      { loadCores s (latestCheckpoint s) with safe := { (loadCores s (latestCheckpoint s)).safe with
        state := .voted, minority := 0, resyncing := false } } else failCore s s.safe.minority)) :=
    fun ok => congrArg (fun u => Host.Outcome.next (noteSafe s u)) (if_pos ⟨hstate, hres⟩)
  exact ⟨.intro (hexec true) ⟨rfl, rfl, rfl, fun h => loadCores_all _ h⟩, .intro (hexec false) ⟨rfl, rfl⟩⟩

/-- The complex resumes: the cores loaded with the latest checkpoint's state. -/
def resumed (s : State) : State :=
  { loadCores s (latestCheckpoint s) with safe := { (loadCores s (latestCheckpoint s)).safe with
      state := if s.safe.failed = 0 then .voted else .dual
      terms := match latestCheckpoint s with | none => [] | some k => k.terms } }

theorem restartComplete_resumes {s : State} (hstate : s.safe.state = .restart) : Answers .restartComplete s (fun t =>
    t.safe.state = (if s.safe.failed = 0 then .voted else .dual) ∧
    (s.safe.cycle = none → t.safe.terms = (latestCheckpoint s).elim [] (·.terms) ∧ t.safe.cycle = none) ∧
    (∀ c r, s.safe.cycle = some c → s.skim.retained.find? (fun r => r.desc.skim == c.n) = some r →
      t.safe.cycleAt = c.n ∧ t.safe.cycle.elim 0 (·.n) = c.n)) := by
  have hexec : exec .restartComplete s = .next (noteSafe s (match s.safe.cycle with
      | none => resumed s
      | some c => (match s.skim.retained.find? (fun r => r.desc.skim == c.n) with
        | none => { resumed s with safe := { (resumed s).safe with cycle := none } }
        | some r => beginCycle (resumed s) r))) :=
    congrArg (fun u => Host.Outcome.next (noteSafe s u)) (if_neg (by simp [hstate]))
  cases hcycle : s.safe.cycle with
  | none =>
    rw [hcycle] at hexec
    refine .intro hexec ⟨rfl, fun _ => ⟨?_, hcycle⟩, fun _ _ h => nomatch h⟩
    show (match latestCheckpoint s with | none => [] | some k => k.terms) = _
    cases latestCheckpoint s <;> rfl
  | some c =>
    rw [hcycle] at hexec
    cases hfind : s.skim.retained.find? (fun r => r.desc.skim == c.n) with
    | none =>
      simp only [hfind] at hexec
      refine .intro hexec ⟨rfl, (nomatch ·), fun c' r hc hr => ?_⟩
      obtain rfl := Option.some.inj hc
      exact nomatch hfind.symm.trans hr
    | some r =>
      simp only [hfind] at hexec
      refine .intro hexec ⟨rfl, (nomatch ·), fun c' r' hc hr => ?_⟩
      obtain rfl := Option.some.inj hc
      have hn : r.desc.skim = c.n := by simpa using List.find?_some hfind
      exact ⟨hn, hn⟩

/-! ### The scratch test and the scrubs (R333, R343, R349, R354) -/

/-- The results that the tags wait for are no part of the complex. -/
theorem holdResults_safe (l : List TagSt) (data : Bytes) (s : State) :
    (l.foldl (fun s x => holdResult s x.tag 0 data id) s).safe = s.safe := by
  induction l generalizing s with
  | nil => rfl
  | cons x l ih => exact (ih _).trans (holdResult_only s x.tag 0 data id .safe (by decide))

/-- The test's result as the complex takes it: a pass brings the waiting table into force. -/
def scratchTested (s : State) (r : Nat) : State :=
  let u := report s 0x0807 15 (r : Int) []
  { u with safe := { u.safe with
      scratchResult := r, scratchFail := r != 0, terms := []
      table := if r = 0 ∧ s.safe.pendingTable.isSome then s.safe.pendingTable else s.safe.table
      pendingTable := if r = 0 then none else s.safe.pendingTable
      state := if s.safe.failed = 0 then .voted else .dual } }

theorem scratchTestComplete_safe {s : State} (b : BitVec 8) (hstate : s.safe.state = .scratch) (hm : managing s = true) :
    ∃ t, exec (.scratchTestComplete b) s = .next t ∧ t.safe =
      (if b.toNat = 0 then loadCores (scratchTested s b.toNat) none else enterHalted (scratchTested s b.toNat)).safe :=
  ⟨_, congrArg (fun u => Host.Outcome.next (noteSafe s u)) (if_neg (by simp [hstate, hm])), holdResults_safe _ _ _⟩

theorem scratchTestComplete_decides {s : State} (hstate : s.safe.state = .scratch) (hm : managing s = true) :
    Answers (.scratchTestComplete 0) s (fun t => t.safe.state = (if s.safe.failed = 0 then .voted else .dual) ∧
      t.safe.terms = [] ∧ t.safe.scratchFail = false ∧ t.safe.pendingTable = none ∧
      t.safe.table = (if s.safe.pendingTable.isSome then s.safe.pendingTable else s.safe.table)) ∧
    (∀ b : BitVec 8, b ≠ 0 → Answers (.scratchTestComplete b) s (fun t => t.safe.state = .halted ∧
      t.safe.scratchFail = true ∧ t.safe.scratchResult = b.toNat ∧ t.safe.table = s.safe.table ∧ t.safe.applied = 0)) := by
  refine ⟨?_, fun b hb => ?_⟩
  · obtain ⟨t, hexec, hsafe⟩ := scratchTestComplete_safe 0 hstate hm
    rw [if_pos (by decide)] at hsafe
    refine .intro hexec ?_
    rw [hsafe]
    refine ⟨rfl, rfl, rfl, rfl, ?_⟩
    simp [loadCores, scratchTested]
  · obtain ⟨t, hexec, hsafe⟩ := scratchTestComplete_safe b hstate hm
    have hne : b.toNat ≠ 0 := fun h => hb (BitVec.eq_of_toNat_eq h)
    rw [if_neg hne] at hsafe
    refine .intro hexec ?_
    rw [hsafe]
    exact ⟨rfl, bne_iff_ne.mpr hne, rfl, if_neg fun h => hne h.1, rfl⟩

theorem tcmScrub_counts {s : State} {core : Nat} (a : Nat) {c : CoreSt} (hlow : 1 ≤ core) (hhigh : core ≤ 3)
    (hc : s.safe.cores[core - 1]? = some c) :
    Answers (.tcmScrub core a 1) s (fun t =>
      t.safe.cores[core - 1]? = some { c with corrected := count32 c.corrected } ∧ t.safe.state = s.safe.state) ∧
    exec (.tcmScrub core a 2) s = exec (.minorityDetected core (trapLanes core) (cycleClocks s) []) s := by
  have hcore : ¬(core < 1 ∨ 3 < core) := by omega
  have hlen : core - 1 < s.safe.cores.length := (List.getElem?_eq_some_iff.mp hc).1
  refine ⟨.intro (congrArg Host.Outcome.next ((if_neg hcore).trans (if_pos rfl))) ⟨?_, rfl⟩, ?_⟩
  · rw [List.getD_eq_getElem?_getD, hc]
    exact List.getElem?_set_self hlen
  · exact congrArg Host.Outcome.next ((if_neg hcore).trans ((if_neg (by decide)).trans (if_pos rfl)))

/-- Settles O34: each row's effect, from the lemma above that bears its name. -/
theorem theComplexReactsToFaults : Obligations.TheComplexReactsToFaults := by
  unfold Obligations.TheComplexReactsToFaults
  refine ⟨?_, ?_, ?_, ?_, ?_, ?_, ?_, ?_⟩
  case refine_1 =>
    exact fun s core clock lane parity hlow hhigh =>
      ⟨fun hvoted hmin hfew => minorityDetected_resyncs hlow hhigh hvoted hmin hfew,
        fun hvoted hmin hmany => minorityDetected_fails hlow hhigh hvoted hmin hmany,
        fun hdual hno hfailed hmin hfew => minorityDetected_dual hlow hhigh hdual hno hfailed hmin hfew,
        fun hrestart hfailed hmin => minorityDetected_selfCheck hlow hhigh hrestart hfailed hmin⟩
  case refine_2 => exact fun s clock lane parity hruns hno => noMajority_restarts hruns hno
  case refine_3 => exact fun s clock lane hvoted hfault => comparatorFault_tests hvoted hfault
  case refine_4 => exact fun s c hcycle hruns hsplit => checkpointWriteComplete_ends hcycle hruns hsplit
  case refine_5 => exact fun s hstate hres => resyncComplete_restores hstate hres
  case refine_6 => exact fun s hstate => restartComplete_resumes hstate
  case refine_7 => exact fun s hstate hm => scratchTestComplete_decides hstate hm
  case refine_8 => exact fun s core a c hlow hhigh hc => tcmScrub_counts a hlow hhigh hc

end Sys2Proof.Proofs
end

section
/-! Command sessions: a request's checks in their order, its place in its session's queue, kept replies and the reply window
(R449, R451, R452, R454, R456, R471; log entries 143, 170), and the statement O44. -/

namespace Sys2Proof.Proofs

open Sys2Proof Sys2Proof.Machine

/-! ### The bytes of a packet (R451) -/

/-- Writing byte 5 back to the header's first seven bytes leaves them as they are. -/
theorem splice_own_flags {b : Bytes} (hlen : 16 ≤ b.length) : splice (b.take 7) 5 [b.getD 5 0] = b.take 7 := by
  match b, hlen with
  | _ :: _ :: _ :: _ :: _ :: _ :: _ :: _, _ => rfl

section
variable {s : State} {x : Session} {tag : Nat} {b : Bytes}

theorem acceptBytes_short (hlen : b.length < 16) : acceptBytes s x tag false b = s := if_pos hlen

variable (hlen : 16 ≤ b.length)
include hlen

theorem acceptBytes_reply (hreply : bitOf (field b 5 1) 7 = true) : acceptBytes s x tag false b =
    { s with cmd := { s.cmd with discarded := count32 s.cmd.discarded } } :=
  (if_neg (Nat.not_lt.mpr hlen)).trans (if_pos hreply)

variable (hreply : bitOf (field b 5 1) 7 = false)
include hreply

/-- The checks of a request's bytes, in R451's order. -/
theorem acceptBytes_request : acceptBytes s x tag false b =
    if b.length ≠ 16 + field b 7 2 ∨ 16384 < field b 7 2 then refuse s x tag (b.take 7) stBadLength
    else if field b 12 4 ≠ crc32 (b.take 12 ++ b.drop 16) then refuse s x tag (b.take 7) stBadCheck
    else if field b 0 1 / 16 ≠ 1 then refuse s x tag (b.take 7) stBadVersion
    else match opSpec (field b 1 2) with
      | none => refuse s x tag (b.take 7) stUnknownOpcode
      | some r => acceptRequest s r ⟨x, field b 0 1 % 16, field b 1 2, field b 3 2, b.getD 5 0,
          (parseItems 4096 (b.drop 16)).getD [⟨0xFFFF, []⟩], field b 12 4, tag⟩ := by
  rw [acceptBytes, if_neg (Nat.not_lt.mpr hlen), hreply]
  simp only [Bool.false_eq_true, if_false, splice_own_flags hlen] <;> rfl

theorem acceptBytes_badLength (hbad : b.length ≠ 16 + field b 7 2 ∨ 16384 < field b 7 2) :
    acceptBytes s x tag false b = refuse s x tag (b.take 7) stBadLength :=
  (acceptBytes_request hlen hreply).trans (if_pos hbad)

variable (hexact : b.length = 16 + field b 7 2) (hfits : field b 7 2 ≤ 16384)
include hexact hfits

theorem acceptBytes_badCheck (hbad : field b 12 4 ≠ crc32 (b.take 12 ++ b.drop 16)) :
    acceptBytes s x tag false b = refuse s x tag (b.take 7) stBadCheck := by
  rw [acceptBytes_request hlen hreply, if_neg (by omega), if_pos hbad]

variable (hcheck : field b 12 4 = crc32 (b.take 12 ++ b.drop 16))
include hcheck

theorem acceptBytes_badVersion (hbad : field b 0 1 / 16 ≠ 1) :
    acceptBytes s x tag false b = refuse s x tag (b.take 7) stBadVersion := by
  rw [acceptBytes_request hlen hreply, if_neg (by omega), if_neg (not_not.mpr hcheck), if_pos hbad]

variable (hversion : field b 0 1 / 16 = 1)
include hversion

theorem acceptBytes_unknownOpcode (hop : opSpec (field b 1 2) = none) :
    acceptBytes s x tag false b = refuse s x tag (b.take 7) stUnknownOpcode := by
  rw [acceptBytes_request hlen hreply, if_neg (by omega), if_neg (not_not.mpr hcheck), if_neg (not_not.mpr hversion), hop]

theorem acceptBytes_wellFormed {r : OpSpec} (hop : opSpec (field b 1 2) = some r) :
    acceptBytes s x tag false b = acceptRequest s r ⟨x, field b 0 1 % 16, field b 1 2, field b 3 2, b.getD 5 0,
      (parseItems 4096 (b.drop 16)).getD [⟨0xFFFF, []⟩], field b 12 4, tag⟩ := by
  rw [acceptBytes_request hlen hreply, if_neg (by omega), if_neg (not_not.mpr hcheck), if_neg (not_not.mpr hversion), hop]

end

/-! ### Authority, parameters and configuration (R452, R508) -/

section
variable {s : State} {r : OpSpec} {p : Packet}

theorem requestRefusal_class {st : Nat} (h : classRefusal s p.cls (classNeeded s r p) = some st) :
    requestRefusal s r p = some st := by
  rw [requestRefusal, h]

theorem classRefusal_low {cls need : Nat} (h : cls < need) : classRefusal s cls need = some stAuthorityLow := if_pos h

variable {cls need : Nat} (hneed : need ≤ cls)
include hneed

theorem classRefusal_sealed (h3 : cls = 3 ∨ need = 3) (hseal : s.pres.sealOpen = false) :
    classRefusal s cls need = some stSealIntact := by
  rw [classRefusal, if_neg (Nat.not_lt.mpr hneed), if_pos ⟨h3, by rw [hseal]; rfl⟩]

variable (hseal : (cls ≠ 3 ∧ need ≠ 3) ∨ s.pres.sealOpen = true)
include hseal

/-- Past the seal only the ceiling of the unit's presence authority counts. -/
theorem classRefusal_ceiling :
    classRefusal s cls need = if ceiling s < cls then some stPresenceRequired else none := by
  have hopen : ¬((cls = 3 ∨ need = 3) ∧ (!s.pres.sealOpen) = true) := by
    rintro ⟨h3, hshut⟩
    rcases hseal with ⟨hc, hn⟩ | ho
    · exact h3.elim hc hn
    · rw [ho] at hshut
      exact Bool.noConfusion hshut
  rw [classRefusal, if_neg (Nat.not_lt.mpr hneed), if_neg hopen]

theorem classRefusal_presence (h : ceiling s < cls) : classRefusal s cls need = some stPresenceRequired :=
  (classRefusal_ceiling hneed hseal).trans (if_pos h)

theorem classRefusal_none (h : cls ≤ ceiling s) : classRefusal s cls need = none :=
  (classRefusal_ceiling hneed hseal).trans (if_neg (Nat.not_lt.mpr h))

end

section
variable {s : State} {r : OpSpec} {p : Packet} (hclass : classRefusal s p.cls (classNeeded s r p) = none)
include hclass

theorem requestRefusal_badItems (hitems : itemsOk r p.items = false) : requestRefusal s r p = some stBadParameter := by
  rw [requestRefusal, hclass, hitems]
  rfl

theorem requestRefusal_goodItems (hitems : itemsOk r p.items = true) : requestRefusal s r p =
    if s.cfg.isNone ∧ !unconfiguredOpcode p.opcode then some stNotApplicable else none := by
  rw [requestRefusal, hclass, hitems]
  rfl

end

/-! ### A request in its open session (R451, R454, R456) -/

/-- The kept reply that answers a repeated request, while it is less than 5 s old (R456). -/
def keptReply (s : State) (q : SessSt) (p : Packet) : Option Kept :=
  q.kept.find? (fun k => k.seq == p.seq && k.check == p.check && s.clk < k.at_ + 5000000000)

section
variable {s : State} {x : Session} {q : SessSt} (hq : sessionOf s x = some q)
include hq

/-- A packet of an open session renews only the instant of its last packet. -/
theorem touchSession_open : touchSession s x = adjSession s x (fun q => { q with last := s.clk }) := by
  have hopen : (sessionOf s x).isSome = true := by rw [hq]; rfl
  rw [touchSession, if_pos hopen]
  rfl

theorem sessionOf_touchSession : sessionOf (touchSession s x) x = some { q with last := s.clk } := by
  rw [touchSession_open hq]
  exact sessionOf_adjSession hq fun _ => rfl

end

section
variable {s : State} {r : OpSpec} {p : Packet} {q : SessSt} (hq : sessionOf s p.sess = some q)
  (hsoft : hardwareServed p.opcode = false)
include hq hsoft

/-- A firmware-served request of an open session: its kept reply, its refusal, BUSY, or its place in the queue. -/
theorem acceptRequest_open : acceptRequest s r p =
    match keptReply s q p with
    | some k => if pkQuiet p then touchSession s p.sess else sendReply (touchSession s p.sess) p.sess p.tag k.reply
    | none =>
      match requestRefusal (touchSession s p.sess) r p with
      | some st => refuse (touchSession s p.sess) p.sess p.tag (headOf p) st
      | none =>
        if 8 ≤ (firmwareQueue q).length then refuse (touchSession s p.sess) p.sess p.tag (headOf p) stBusy
        else adjSession (touchSession s p.sess) p.sess (fun q => { q with
          queue := q.queue ++ [p], reads := if namesCurrent s p then q.reads ++ [(p, skimNow s)] else q.reads }) := by
  have hopen : ¬((sessionOf s p.sess).isNone = true ∧ (!sessionRoom s p.sess) = true) := by
    rw [hq]
    exact fun h => Bool.noConfusion h.1
  rw [acceptRequest, if_neg hopen]
  simp only [sessionOf_touchSession hq, hsoft, Option.getD_some, Bool.false_eq_true, if_false, Bool.not_false, true_and]
  rfl

theorem acceptRequest_kept {k : Kept} (hkept : keptReply s q p = some k) (hquiet : pkQuiet p = false) :
    acceptRequest s r p = sendReply (touchSession s p.sess) p.sess p.tag k.reply := by
  simp only [acceptRequest_open hq hsoft, hkept, hquiet, Bool.false_eq_true, if_false]

variable (hnew : keptReply s q p = none)
include hnew

theorem acceptRequest_refused {st : Nat} (href : requestRefusal (touchSession s p.sess) r p = some st) :
    acceptRequest s r p = refuse (touchSession s p.sess) p.sess p.tag (headOf p) st := by
  simp only [acceptRequest_open hq hsoft, hnew, href]

variable (hok : requestRefusal (touchSession s p.sess) r p = none)
include hok

theorem acceptRequest_busy (hfull : 8 ≤ (firmwareQueue q).length) :
    acceptRequest s r p = refuse (touchSession s p.sess) p.sess p.tag (headOf p) stBusy := by
  simp only [acceptRequest_open hq hsoft, hnew, hok, if_pos hfull]

theorem acceptRequest_queued (hroom : (firmwareQueue q).length < 8) : sessionOf (acceptRequest s r p) p.sess =
    some { q with last := s.clk, queue := q.queue ++ [p]
                  reads := if namesCurrent s p then q.reads ++ [(p, skimNow s)] else q.reads } := by
  simp only [acceptRequest_open hq hsoft, hnew, hok, if_neg (Nat.not_le.mpr hroom)]
  exact sessionOf_adjSession (sessionOf_touchSession hq) fun _ => rfl

end

/-! ### A served request's reply and the reply window (R456, R471) -/

/-- The session's entry with one reply more, the last 8 kept. -/
def keepReply (s : State) (p : Packet) (r : Bytes) (q : SessSt) : SessSt :=
  { q with kept := lastN 8 (q.kept ++ [⟨p.seq, p.check, r, s.clk⟩]) }

theorem placeReply_waits {s : State} (r : Bytes) (hheld : s.host.replyHeld = true) :
    (placeReply s r).host.replyQueue = s.host.replyQueue ++ [r] ∧
      (placeReply s r).host.replyWin = s.host.replyWin := by
  rw [placeReply, hheld]
  exact ⟨rfl, rfl⟩

theorem placeReply_fills {s : State} (r : Bytes) (hfree : s.host.replyHeld = false) :
    (placeReply s r).host.replyHeld = true ∧ (placeReply s r).host.replyLength = r.length ∧
      (placeReply s r).host.replyWin = Mem.writeN [] 0 r := by
  rw [placeReply, hfree]
  exact ⟨rfl, rfl, rfl⟩

theorem sessionOf_placeReply (s : State) (r : Bytes) (x : Session) : sessionOf (placeReply s r) x = sessionOf s x := by
  have hcmd : (placeReply s r).cmd = s.cmd := placeReply_only s r .cmd (by decide)
  rw [sessionOf, hcmd, sessionOf]

section
variable {s : State} {p : Packet} {q : SessSt} (st : Nat) (d : Bytes) (hhost : p.sess = .host)
  (hsoft : hardwareServed p.opcode = false) (hloud : pkQuiet p = false)
include hhost hsoft hloud

/-- Firmware keeps the reply of a request from the host, and places it in the window. -/
theorem reply_host : reply s p st d = placeReply (adjSession s p.sess (keepReply s p (replyOf (headOf p) st d)))
    (replyOf (headOf p) st d) := by
  simp only [reply, hsoft, hloud, Bool.false_eq_true, if_false, hhost]
  rfl

theorem reply_kept (hq : sessionOf s p.sess = some q) :
    sessionOf (reply s p st d) p.sess = some (keepReply s p (replyOf (headOf p) st d) q) := by
  rw [reply_host st d hhost hsoft hloud, sessionOf_placeReply]
  exact sessionOf_adjSession hq fun _ => rfl

theorem reply_waits (hheld : s.host.replyHeld = true) :
    (reply s p st d).host.replyQueue = s.host.replyQueue ++ [replyOf (headOf p) st d] ∧
      (reply s p st d).host.replyWin = s.host.replyWin := by
  rw [reply_host st d hhost hsoft hloud]
  exact placeReply_waits _ hheld

theorem reply_fillsWindow (hfree : s.host.replyHeld = false) :
    (reply s p st d).host.replyHeld = true ∧ (reply s p st d).host.replyLength = (replyOf (headOf p) st d).length ∧
      (reply s p st d).host.replyWin = Mem.writeN [] 0 (replyOf (headOf p) st d) := by
  rw [reply_host st d hhost hsoft hloud]
  exact placeReply_fills _ hfree

end

/-- Settles O44: the checks in R451's order, the session's queue, and the reply, each from its lemma above. -/
theorem requestsAreCheckedQueuedAndAnsweredOnce : Obligations.RequestsAreCheckedQueuedAndAnsweredOnce := by
  unfold Obligations.RequestsAreCheckedQueuedAndAnsweredOnce
  refine ⟨?_, ?_, ?_, ?_⟩
  case refine_1 =>
    intro s x tag b
    refine ⟨acceptBytes_short, acceptBytes_reply, fun hlen hreply => ⟨acceptBytes_badLength hlen hreply, ?_⟩⟩
    intro hexact hfits
    refine ⟨acceptBytes_badCheck hlen hreply hexact hfits, fun hcheck => ⟨?_, ?_, fun r => ?_⟩⟩
    · exact acceptBytes_badVersion hlen hreply hexact hfits hcheck
    · exact acceptBytes_unknownOpcode hlen hreply hexact hfits hcheck
    · exact fun hversion => acceptBytes_wellFormed hlen hreply hexact hfits hcheck hversion
  case refine_2 =>
    rintro s r p need rfl
    refine ⟨fun hlow => requestRefusal_class (classRefusal_low hlow), fun hneed h3 hseal => ?_, fun hneed hseal hceil => ?_,
      fun hneed hseal hceil => ⟨?_, ?_⟩⟩
    · exact requestRefusal_class (classRefusal_sealed hneed h3 hseal)
    · exact requestRefusal_class (classRefusal_presence hneed hseal hceil)
    · exact requestRefusal_badItems (classRefusal_none hneed hseal hceil)
    · exact requestRefusal_goodItems (classRefusal_none hneed hseal hceil)
  case refine_3 =>
    intro s r p q hq hsoft
    refine ⟨fun k => acceptRequest_kept hq hsoft, fun hnew => ⟨fun st => ?_, fun hok => ⟨?_, ?_⟩⟩⟩
    · exact acceptRequest_refused hq hsoft hnew
    · exact acceptRequest_busy hq hsoft hnew hok
    · exact acceptRequest_queued hq hsoft hnew hok
  case refine_4 =>
    rintro s p q st d hq hhost hsoft hloud _ rfl
    exact ⟨reply_kept st d hhost hsoft hloud hq, reply_waits st d hhost hsoft hloud,
      reply_fillsWindow st d hhost hsoft hloud⟩

end Sys2Proof.Proofs
end
